-- ==== Sys2Proof/Word.lean ====
section
/-! DEFINITION. The byte, the sparse table and the sparse byte memory every other file of the model is built on.
Register fields, counters and table indices are held as `Nat`, because the spec counts and compares them;
every operation that the spec gives a width narrows explicitly (`Machine/Ops.lean`). -/

namespace Sys2Proof

/-- One byte of a request, a record, a frame or a memory. -/
abbrev Byte := BitVec 8

/-- A sparse table: entries by index, indices strictly rising. -/
abbrev Tab (α : Type) := List (Nat × α)

/-- A sparse byte memory: addresses strictly rising, no zero byte listed; an unlisted address reads as 0
(DESIGN CHOICE, assumption 3). -/
abbrev Mem := List Host.Cell

end Sys2Proof
end

