-- ==== Sys2Proof/Types/Frame.lean ====
section
/-! DEFINITION. Frames: what arrives, what the parser extracts (R186) and what travels with a frame in flight. -/

namespace Sys2Proof

/-- The SecTAG of a MACsec frame as it arrives (R546, R548): whether its form is valid, its association number, the C and E bits,
whether it names its SCI, that SCI, and its packet number (recovered to 64 bits for XPN). -/
structure SecTag where
  ok    : Bool := true   -- S| 1 | 14 R548
  an    : Nat := 0       -- S| 2 | 14 R548
  c     : Bool := true   -- S| 1 | 14 R548
  e     : Bool := true   -- S| 1 | 14 R548
  sci   : Option Nat := none -- S| 64 | 14 R546
  pn    : Nat := 0       -- S| 64 | 14 R548
deriving DecidableEq, Repr

/-- A frame as it reaches an ingress point: its bytes from `DA` to the last byte before the FCS, and what the
end of the frame will show. `domain`, `prio` and `zone` are Lodestar's internal header (R190, R192, R239) and are used
only for frames of point 35. -/
structure WireFrame where
  data   : List Byte
  fcsOk  : Bool := true
  icvOk  : Bool := true
  domain : Nat := 0xFF
  prio   : Nat := 0
  zone   : Nat := 0
  /-- Produced by the gateway itself (R446). -/
  made   : Bool := false
  /-- The SecTAG it carried; `data` is then what is left after MACsec removal (R546). -/
  sec    : Option SecTag := none
deriving DecidableEq, Repr

/-- An IP header's fields as the parser extracts them (R186). -/
structure IpInfo where
  ver      : Nat            -- S| 4 or 6 | 06 R186
  src      : List Byte      -- S| 4 or 16 bytes | 06 R186
  dst      : List Byte      -- S| 4 or 16 bytes | 06 R186
  dscp     : Nat            -- S| 6 | 06 R186
  ecn      : Nat            -- S| 2 | 06 R186
  proto    : Nat            -- S| 8 | 06 R186
  frag     : Bool           -- S| 1: a fragment | 06 R186
  laterFrag : Bool          -- S| 1: a fragment other than the first | 06 R186
  ext      : Bool           -- S| 1: IPv4 options or an IPv6 extension header | 07 R259
deriving DecidableEq, Repr

/-- An L4 header's fields (R186). -/
structure L4Info where
  src      : Option Nat := none   -- S| 16 | 06 R186
  dst      : Option Nat := none   -- S| 16 | 06 R186
  tcpFlags : Option Nat := none   -- S| 8 | 06 R186
  icmpType : Option Nat := none   -- S| 8 | 06 R186
  icmpCode : Option Nat := none   -- S| 8 | 06 R186
  dataOff  : Nat := 0             -- S| offset of the L4 payload | 06 R186
deriving DecidableEq, Repr

/-- A carriage header (R189). -/
structure CarriageInfo where
  kind    : Nat          -- S| 4 | 06 R189
  channel : Nat          -- S| 8 | 06 R189
  cflags  : Nat          -- S| 16 | 06 R189
  ident   : Nat          -- S| 32 | 06 R189
  busTime : Nat          -- S| 64 | 06 R189
  length  : Nat          -- S| 16 | 06 R189
  cycle   : Nat          -- S| 16 | 06 R189
  data    : List Byte    -- S| LENGTH bytes | 06 R189
deriving DecidableEq, Repr

/-- The fields the parser extracts (R186); an absent field is `none`. -/
structure Parsed where
  da        : List Byte := []       -- S| 6 bytes | 06 R186
  sa        : List Byte := []       -- S| 6 bytes | 06 R186
  tpid      : Option Nat := none    -- S| 16 | 06 R186
  pcp       : Option Nat := none    -- S| 3 | 06 R186
  dei       : Bool := false         -- S| 1 | 06 R186
  vid       : Option Nat := none    -- S| 12 | 06 R186
  innerVid  : Option Nat := none    -- S| 12 | 06 R186
  innerPcp  : Option Nat := none    -- S| 3 | 06 R186
  seq       : Option Nat := none    -- S| 16 | 06 R186
  etherType : Nat := 0              -- S| 16 | 06 R186
  ip        : Option IpInfo := none -- S| IP fields | 06 R186
  l4        : L4Info := {}          -- S| L4 fields | 06 R186
  carriage  : Option CarriageInfo := none -- S| carriage fields | 06 R186 R189
  stackEnd  : Nat := 0              -- S| end of the header stack, bytes | 06 R183
deriving DecidableEq, Repr

/-- A learn request formed at stage 3 (R195). -/
structure LearnReq where
  domain : Nat      -- S| 3 | 06 R195
  vid    : Nat      -- S| 12 | 06 R195
  mac    : List Byte -- S| 6 bytes | 06 R195
  point  : Nat      -- S| 6 | 06 R195
deriving DecidableEq, Repr

/-- How a frame ended (R123, R302). -/
inductive FrameFate where
  | good
  | fcsFailed
  | icvFailed
  | replayFailed
deriving DecidableEq, Repr

/-- A frame in flight from stage 1 onwards: its bytes and what the stages have given it. -/
structure Frame where
  id       : Nat := 0              -- S| the model's own name for the frame | 06 R213
  point    : Nat := 0              -- S| present ingress point | 06 R185
  first    : Nat := 0              -- S| point of first ingress | 04 R123
  txRing   : Option Nat := none    -- S| TX ring of an H0 frame | 04 R116
  data     : List Byte := []       -- S| DA to the byte before the FCS | 06 R183
  parsed   : Parsed := {}          -- S| parsed fields | 06 R186
  epoch    : Nat := 0              -- S| 32, epoch stamp | 06 R213
  entered  : Nat := 0              -- S| raw count at which its head entered stage 1 | 08 R311
  rxTime   : Nat := 0              -- S| 64, ingress timestamp | 04 R123
  domain   : Nat := 0xFF           -- S| 0..7 | 06 R190
  vid      : Nat := 0              -- S| 12 | 06 R191
  prio     : Nat := 0              -- S| 3 | 06 R192
  yellow   : Bool := false         -- S| colour | 06 R203 R204
  stream   : Option Nat := none    -- S| 0..4095 | 06 R198
  zenith   : Bool := false         -- S| Zenith mark | 06 R205
  filter   : Option Nat := none    -- S| filter that applied | 06 R200
  dest     : Nat := 0              -- S| 64, destination port set | 06 R185 R194
  untagged : Nat := 0              -- S| 64, untagged set of its VLAN | 06 R191
  seqNum   : Option Nat := none    -- S| 16, R-TAG number carried | 06 R206
  rtagOut  : Bool := false         -- S| 1 | 06 R206
  zone     : Nat := 0              -- S| 8, ingress zone | 07 R236
  learn    : Option LearnReq := none -- S| learn request | 06 R195
  mirrorOf : Option Nat := none    -- S| mirror session of a mirror copy | 06 R212
  mirrorTc : Nat := 0              -- S| queue of a mirror copy | 06 R212
  fate     : FrameFate := .good    -- S| how the frame's end will be judged | 08 R302
  ended    : Bool := false         -- S| the frame's end has arrived | 08 R302
  made     : Bool := false         -- S| produced by the gateway | 12 R445 R446 | 0
deriving DecidableEq, Repr

end Sys2Proof
end

