-- ==== Sys2Proof/Types/Egress.lean ====
section
/-! DEFINITION. Egress scheduling and the Zenith promise (spec 09). -/

namespace Sys2Proof

/-- Limits of a class TC0 to TC6 (R360). -/
structure ClassCfg where
  limitKib  : Nat := 512    -- S| 16 | 09 R360 | 512
  yellowPct : Nat := 50     -- S| 8 | 09 R360 | 50
  maxLen    : Nat := 9216   -- S| 16 | 09 R360 | 9,216
deriving DecidableEq, Repr

/-- Queue settings of a point (R360). -/
structure QueueCfg where
  prioMap : List Nat := [0, 1, 2, 3, 4, 5, 6, 6]      -- S| 8 × 3 | 09 R334 | p → TC p, 7 → TC6
  classes : List ClassCfg := List.replicate 7 {}      -- S| TC0..TC6 | 09 R360 | defaults
deriving DecidableEq, Repr

/-- A token-bucket shaper's settings (R361). -/
structure Shaper where
  enable   : Bool := false   -- S| 1 | 09 R361 | 0
  mode     : Nat := 0        -- S| 1 | 09 R361 | 0
  flags    : Nat := 1        -- S| 1 RESET_FULL | 09 R361 | 1
  overhead : Nat := 20       -- S| 6 | 09 R361 | 20
  rate     : Nat := 1        -- S| 27 | 09 R361 | none given: 1 (DESIGN CHOICE 15)
  burst    : Nat := 64       -- S| 24 | 09 R361 | none given: 64 (DESIGN CHOICE 15)
deriving DecidableEq, Repr

/-- A credit-based shaper's settings (R362). -/
structure Cbs where
  enable   : Bool := false   -- S| 1 | 09 R362 | 0
  flags    : Nat := 1        -- S| 1 RESET_FULL | 09 R362 | 1
  overhead : Nat := 20       -- S| 6 | 09 R362 | 20
  idle     : Nat := 1        -- S| kb/s | 09 R362 | none given: 1 (DESIGN CHOICE 15)
deriving DecidableEq, Repr

/-- An entry of a gate control list (R341). -/
structure GclEntry where
  gates    : Nat    -- S| 8 | 09 R341
  op       : Nat    -- S| 2 | 09 R341
  interval : Nat    -- S| 30 | 09 R341
deriving DecidableEq, Repr

/-- A gate control list as applied (R342, R363). -/
structure Gcl where
  enable  : Bool               -- S| 1 | 09 R363
  ext     : Nat                -- S| CYCLE_EXT_NS, 20 | 09 R363
  base    : Nat                -- S| 64, BASE_TIME as committed | 09 R363
  cycle   : Nat                -- S| 30, as applied | 09 R363
  change  : Nat                -- S| 64, change time | 09 R342
  entries : List GclEntry      -- S| at most 1,024 | 09 R341
deriving DecidableEq, Repr

/-- The lists of a port (R341, R342). -/
structure GclPort where
  oper    : Option Gcl := none  -- S| operational list | 09 R341 | none
  pending : Option Gcl := none  -- S| pending list | 09 R341 | none
deriving DecidableEq, Repr

/-- Frame preemption settings (R365). -/
structure PreemptCfg where
  enable   : Bool := false   -- S| 1 | 09 R365 | 0
  verify   : Bool := true    -- S| 1 | 09 R365 | 1
  express  : Nat := 0x80     -- S| 8 | 09 R365 | 0x80
  verifyMs : Nat := 10       -- S| 8 | 09 R365 | 10
  addFrag  : Nat := 0        -- S| 2 | 09 R365 | 0
deriving DecidableEq, Repr

/-- Egress settings that a start loads from the bundle. -/
structure EgressSettings where
  queues  : List QueueCfg := List.replicate 37 {}      -- S| points 0..36 | 09 R360 | defaults
  shapers : List Shaper := List.replicate 272 {}       -- S| points 0..33 × TC0..TC7 | 09 R361 | off
  cbs     : List Cbs := List.replicate 68 {}           -- S| points 0..33 × TC5, TC6 | 09 R362 | off
  gcl     : List GclPort := List.replicate 32 {}       -- S| ports 0..31 | 09 R341 | none
  preempt : List PreemptCfg := List.replicate 28 {}    -- S| ports 0..27 | 09 R365 | off
  minLens   : Tab Nat := []                              -- S| MIN_LEN by 4096 × port + handle, at most 4,096 | 09 R351 | none
deriving DecidableEq, Repr

/-- A bucket of a token-bucket shaper: tokens in 1/1,024 byte or frame. -/
structure TokRun where
  tok  : Int := 0     -- S| signed | 09 R338 | 0
  last : Nat := 0     -- S| raw count of the last refill | 09 R338 | 0
deriving DecidableEq, Repr

/-- The credit of a credit-based shaper in 10⁻⁷ bit. -/
structure CbsRun where
  credit : Int := 0   -- S| signed | 09 R339 | 0
  last   : Nat := 0   -- S| raw count of the last update | 09 R339 | 0
deriving DecidableEq, Repr

/-- A copy that is being sent, or has been preempted (R348). -/
structure Sending where
  frame   : Nat           -- S| frame id | 09 R337
  tc      : Nat           -- S| 3 | 09 R337
  express : Bool          -- S| 1 | 09 R348
  frags   : Nat := 0      -- S| fragments after the first | 09 R349 | 0
deriving DecidableEq, Repr

/-- Frame preemption of a port (R348, R350). -/
structure PreemptRun where
  active   : Bool := false       -- S| 1 | 09 R348 | 0
  attempts : Nat := 0            -- S| verify frames sent | 09 R348 | 0
  waiting  : Bool := false       -- S| a verify frame awaits its response | 09 R348 | 0
  failed   : Bool := false       -- S| verification failed | 09 R350 | 0
  partner  : Option Nat := none  -- S| 2, addFragSize the partner advertised | 09 R349 | none
  hold     : Bool := false       -- S| preemptable transmission is held | 09 R341 R347 | 0
  counters : List Nat := List.replicate 7 0 -- S| table 1 of R358, 32 saturate | 09 R358 | 0
deriving DecidableEq, Repr

/-- Egress: settings and state. -/
structure Egress where
  cfg      : EgressSettings := {}                       -- S| settings in force | 09 R360 | defaults
  queues   : Tab (List Nat) := []                       -- S| frame ids by 8 × point + TC, in order | 09 R337 | empty
  charge   : Tab Nat := []                              -- S| bytes charged by 8 × point + TC | 09 R335 | 0
  peak     : Tab Nat := []                              -- S| DEPTH_PEAK in bytes by 8 × point + TC | 09 R358 | 0
  toks     : List TokRun := List.replicate 272 {}       -- S| buckets by 8 × point + TC | 09 R338 | 0
  credits  : List CbsRun := List.replicate 68 {}        -- S| by 2 × point + TC − 5 | 09 R339 | 0
  sending  : Tab Sending := []                          -- S| copy in transmission by point | 09 R337 | none
  held     : Tab Sending := []                          -- S| preempted copy by port | 09 R348 | none
  preempt  : List PreemptRun := List.replicate 28 {}    -- S| ports 0..27 | 09 R348 | inactive
  counters : Tab (List Nat) := []                       -- S| table 0 of R358 by 8 × point + TC: 2 × 64, 7 × 32 | 09 R358 | 0
  sent     : Tab (List Byte) := []                      -- S| last frame sent per point, before the FCS (the model's own record of its output) | 09 R337 | none
  zenDev   : Nat := 0                                   -- S| reasons the promise is suspended device-wide | 09 R357 | 0
  zenPort  : List Nat := List.replicate 28 0            -- S| reasons per port | 09 R357 | 0
  zenBlock : List Nat := List.replicate 28 0            -- S| blocking last reported, ps | 09 R357 | 0
deriving DecidableEq, Repr

end Sys2Proof
end

