-- ==== Sys2Proof/Types/Keys.lean ====
section
/-! DEFINITION. Life cycle, key store, island requests, MACsec, MKA and tamper (spec 14). -/

namespace Sys2Proof

/-- One bank of a key slot (R534). -/
structure KeyBank where
  source : Nat := 0xF               -- S| 8: 0 derived, 1 wrapped, 2 generated, 3 plain, 0xF tombstone | 14 R534
  alg    : Nat := 0                 -- S| 8 | 14 R534
  usage  : Nat := 0                 -- S| 16 | 14 R534 R535
  parent : Nat := 0xFF              -- S| 8: root 0xFF or slot | 14 R534
  labels : List (List Byte) := []   -- S| 1 to 4 labels of 1 to 32 bytes | 14 R534
  key    : List Byte := []          -- S| the material, held as the key it unwraps to | 14 R534
  tagState : Nat := 0               -- S| 8, root tag | 14 R534
  tagGen : Nat := 0                 -- S| 32, root tag | 14 R534
  gen    : Nat := 0                 -- S| 32 | 14 R534
  kcv    : List Byte := []          -- S| 8 bytes | 14 R539
  pub    : List Byte := []          -- S| 96 bytes, public point of ALG 1 | 14 R564
  crcOk  : Bool := true             -- S| whether the bank's CRC-32 is right | 14 R534
  marker : Bool := false            -- S| commit marker valid | 14 R539
deriving DecidableEq, Repr

/-- One key slot (R534, R541, R542). -/
structure KeySlot where
  banks   : List (Option KeyBank) := [none, none] -- S| banks A and B | 14 R534 | none
  act     : Option Nat := none      -- S| the active bank | 14 R540 | none
  erasing : Bool := false           -- S| erase pending | 14 R542 | 0
  eraseAt : Nat := 0                -- S| 64, time the erase was accepted, ns | 14 R561 | 0
  eraseUsers : Nat := 0             -- S| users awaited | 14 R561 | 0
  saGen   : Option Nat := none      -- S| 32, generation that a transmit SA has used | 14 R551 | none
deriving DecidableEq, Repr

/-- MACsec settings of a port (R569). -/
structure MacCfg where
  enable   : Bool := true    -- S| 1 | 14 R569 | 1
  suite    : Nat := 1        -- S| 1 | 14 R569 | 1
  validate : Nat := 2        -- S| 2 | 14 R569 | 2
  flags    : Nat := 0xF      -- S| 4 | 14 R569 | 0b1111
  conf     : Nat := 0        -- S| 8: 0, 30 or 50 | 14 R569 | 0
  window   : Nat := 0        -- S| 30 | 14 R569 | 0
  pct      : Nat := 75       -- S| 7 | 14 R569 | 75
deriving DecidableEq, Repr

/-- One secure association of a port's pool (R546, R551). -/
structure MacSa where
  tx      : Bool                 -- S| direction | 14 R570
  sc      : Nat                  -- S| 6, receive SC; 63 for transmit | 14 R560 R570
  an      : Nat                  -- S| 2 | 14 R570
  key     : List Byte            -- S| 32 bytes, the engine's copy | 14 R538 R551
  slot    : Nat := 0             -- S| 6 | 14 R570
  pn      : Nat                  -- S| 64: next PN, or lowest acceptable PN | 14 R547 R549
  next    : Nat := 0             -- S| 64, one above the highest PN received good | 14 R549
  ssci    : Nat := 0             -- S| 32 | 14 R570
  salt    : List Byte := []      -- S| 12 bytes | 14 R570
  active  : Bool := false        -- S| encoding AN, or receive enabled | 14 R570
  mka     : Bool := false        -- S| origin MKA | 14 R561
  warned  : Bool := false        -- S| the PN threshold was reported | 14 R547
  spent   : Bool := false        -- S| the PN space is exhausted | 14 R547
  counters : List Nat := [0, 0, 0, 0, 0]  -- S| 64 wraps, of its direction | 14 R560
deriving DecidableEq, Repr

/-- One secure channel (R546). -/
structure MacSc where
  sci      : Nat                 -- S| 64 | 14 R570
  counters : List Nat := [0, 0, 0, 0, 0]  -- S| 64 wraps, of its direction | 14 R560
deriving DecidableEq, Repr

/-- MKA settings of a port (R571). -/
structure MkaCfg where
  enable  : Bool := false        -- S| 1 | 14 R571 | 0
  slot    : Nat := 0             -- S| 6, CAK_SLOT | 14 R571 | 0 (DESIGN CHOICE 32)
  prio    : Nat := 16            -- S| 8 | 14 R571 | 16
  ckn     : List Byte := []      -- S| 1 to 32 bytes | 14 R571 | empty (DESIGN CHOICE 32)
  helloMs : Nat := 2000          -- S| 16 | 14 R571 | 2,000
deriving DecidableEq, Repr

/-- The connectivity association of a port (R553, R554). -/
structure MkaRun where
  ca       : Bool := false            -- S| the CA runs | 14 R554 | 0
  caGen    : Nat := 0                 -- S| 32, generation of its CAK | 14 R554 | 0
  cak      : List Byte := []          -- S| its CAK, from which ICK and KEK follow | 14 R554 | empty
  peer     : Option Nat := none       -- S| 64, SCI of the live peer | 14 R572 | none
  peerAt   : Nat := 0                 -- S| 64, time of its last MKPDU, ns | 14 R553 | 0
  peerPrio : Nat := 0                 -- S| 8, its key server priority | 14 R553 | 0
  server   : Bool := false            -- S| the device is key server | 14 R572 | 0
  kn       : Nat := 0                 -- S| 32, key number | 14 R561 | 0
  helloAt  : Nat := 0                 -- S| 64, time of the next hello, ns | 14 R553 | 0
  sent     : Nat := 0                 -- S| MKPDUs sent (the model's own record of its output) | 14 R553 | 0
  distributed : Option (Nat × List Byte) := none -- S| KN and SAK given out as key server | 14 R553 | none
deriving DecidableEq, Repr

/-- An MKPDU as received (R553): whether its CKN is the port's, whether its ICV is right, its sender, whether the sender's live
peer list names the device, and the SAK it distributes (key number, AN, key). -/
structure Mkpdu where
  ckn    : List Byte
  icvOk  : Bool
  sci    : Nat
  prio   : Nat
  hearsUs : Bool
  sak    : Option (Nat × Nat × List Byte) := none
deriving DecidableEq, Repr

/-- MACsec settings a start loads from the bundle. -/
structure MacSettings where
  ports : List MacCfg := List.replicate 5 {}   -- S| BB0–BB3, P0 | 14 R569 | defaults
  mka   : List MkaCfg := List.replicate 5 {}   -- S| BB0–BB3, P0 | 14 R571 | off
deriving DecidableEq, Repr

/-- The MACsec engine of a port. -/
structure MacRun where
  sas     : Tab MacSa := []                          -- S| pool of 128, by index | 14 R546 | none
  scs     : Tab MacSc := []                          -- S| receive SCs 0 to 62, transmit SC 63 | 14 R546 | none
  port    : List Nat := List.replicate 9 0           -- S| 9 × 64 wrap | 14 R560 | 0
  mka     : MkaRun := {}                             -- S| its CA | 14 R553 | off
deriving DecidableEq, Repr

/-- A request to the island (R544). `kind` is `OP` of KEY_OP_ABORTED (R561). -/
structure IslandReq where
  level  : Nat                          -- S| 1..3 | 14 R544
  kind   : Nat                          -- S| 0 CMAC, 1 export, 2 sign, 3 load, 4 slot write, 5 MKA, 6 SA install | 14 R561
  slot   : Nat                          -- S| 6 | 14 R541
  uses   : List (Nat × Nat) := []       -- S| (slot, bank) latched | 14 R541
  src    : Option Nat := none           -- S| the source of the waiting command | 14 R544
  out    : List Byte := []              -- S| completion payload when it is done | 14 R567
  clamps : List Nat := []               -- S| clamped fields of its command | 14
  bank   : Option KeyBank := none       -- S| the bank to write; its key slot is `slot` | 14 R539
  erase  : Bool := false                -- S| the write is an erase's tombstone | 14 R542
  port   : Nat := 0                     -- S| MACsec engine | 14 R551
  sa     : Option (Nat × Nat × MacSa) := none  -- S| SA to install: pool index, SCI, SA | 14 R551
  pdu    : Option Mkpdu := none         -- S| MKPDU to check | 14 R553
deriving DecidableEq, Repr

/-- The security island and the MACsec engines. -/
structure Keys where
  record    : List Nat := []            -- S| transition record, at most 64 × 8 (OTP) | 14 R530 | none programmed: BLANK (DESIGN CHOICE 32)
  owner     : List Byte := []           -- S| 48 bytes, owner hash (OTP), empty if none | 14 R562 | none
  window    : Bool := false             -- S| provisioning window open | 14 R533 | 0
  slots     : List KeySlot := List.replicate 64 {} -- S| 64 | 14 R534 | empty
  working   : List (Nat × Nat) := []    -- S| at most 32 working registers: (slot, generation), most recent first | 14 R537 | none
  queue     : List IslandReq := []      -- S| requests, in order of arrival | 14 R544 | empty
  armed     : Nat := 0                  -- S| 7 | 14 R574 | 0 in BLANK
  latched   : Nat := 0                  -- S| 7 | 14 R556 | 0
  first     : Nat := 0                  -- S| 3, first source of the episode | 14 R561 | 0
  latchAt   : Nat := 0                  -- S| always-on time of the first latch, units of 1.6 ns | 14 R561 | 0
  uncounted : Bool := false             -- S| an episode not yet counted in TAMPER_COUNT | 14 R556 | 0
  tamperCount : Nat := 0                -- S| 5 (0..16, OTP) | 14 R556 | 0
  clearCount : Nat := 0                 -- S| 5 (0..16, OTP) | 14 R556 | 0
  quarantine : Bool := false            -- S| DEV_STATUS.QUARANTINE | 14 R558, 02 R52 | 0
  change    : Option (Nat × Bool) := none -- S| a transition whose LIFECYCLE_CHANGE is still due: PREVIOUS, CLEARED | 14 R532 | none
  cfg       : MacSettings := {}         -- S| MACsec and MKA settings | 14 R569 R571 | defaults
  mac       : List MacRun := List.replicate 5 {} -- S| engines of BB0–BB3, P0 | 14 R546 | reset values
deriving DecidableEq, Repr

end Sys2Proof
end

