-- ==== Sys2Proof/Types/Legacy.lean ====
section
/-! DEFINITION. The legacy bus channels and their engines (spec 11). -/

namespace Sys2Proof

/-- A message of a legacy channel (R189, R405). -/
structure BusMsg where
  kind   : Nat              -- S| 4 | 06 R189
  chan   : Nat              -- S| 6, channel code | 04 R106
  flags  : Nat := 0         -- S| 16, CFLAGS | 06 R189 | 0
  ident  : Nat := 0         -- S| 32 | 06 R189 | 0
  time   : Nat := 0         -- S| 64, BUS_TIME | 11 R407 | 0
  data   : List Byte := []  -- S| at most 2,048 bytes | 06 R189 | empty
deriving DecidableEq, Repr

/-- Where a message towards a channel comes from (R467, R469, R471, R473). -/
inductive Origin where
  | route (route target : Nat)
  | direct (kind who tag : Nat)
  | fetch (token : Nat)
  | exchange (kind who token : Nat)
deriving DecidableEq, Repr

/-- A message in a transmit queue (R406, R469). -/
structure TxMsg where
  msg    : BusMsg           -- S| the message | 11 R406
  origin : Origin           -- S| its initiator | 12 R469
  func   : Nat := 0         -- S| 8, Modbus function; 0 none | 12 R461 | 0
  addr   : Nat := 0         -- S| 16, Modbus address | 12 R461 | 0
  reply  : Bool := false    -- S| a response is expected | 12 R489 | 0
deriving DecidableEq, Repr

/-- Settings of a CAN channel (R433). -/
structure CanCfg where
  mode : Nat := 1           -- S| 2 | 11 R433 | 1
  proto : Nat := 1          -- S| 2 | 11 R433 | 1
  flags : Nat := 0xD        -- S| 4 | 11 R433 | 0b1101
  nBrp : Nat := 2           -- S| 10 | 11 R433 | 2
  nSeg1 : Nat := 63         -- S| 9 | 11 R433 | 63
  nSeg2 : Nat := 16         -- S| 8 | 11 R433 | 16
  nSjw : Nat := 16          -- S| 8 | 11 R433 | 16
  dBrp : Nat := 1           -- S| 6 | 11 R433 | 1
  dSeg1 : Nat := 29         -- S| 6 | 11 R433 | 29
  dSeg2 : Nat := 10         -- S| 5 | 11 R433 | 10
  dSjw : Nat := 10          -- S| 5 | 11 R433 | 10
  tdc : Nat := 30           -- S| 7 | 11 R433 | 30
  xBrp : Nat := 1           -- S| 6 | 11 R433 | 1
  xSeg1 : Nat := 5          -- S| 6 | 11 R433 | 5
  xSeg2 : Nat := 2          -- S| 5 | 11 R433 | 2
  xSjw : Nat := 2           -- S| 5 | 11 R433 | 2
  recoverMs : Nat := 100    -- S| 16 | 11 R433 | 100
  sa : Nat := 128           -- S| 8 | 11 R433 | 128
  bamGap : Nat := 50        -- S| 8 | 11 R433 | 50
  cts : Nat := 16           -- S| 5 | 11 R433 | 16
  xTdc : Nat := 6           -- S| 7 | 11 R433 | 6
deriving DecidableEq, Repr

/-- Selective wake of CAN0 and CAN1 (R434). -/
structure CanWake where
  enable : Bool := false    -- S| 1 | 11 R434 | 0
  flags : Nat := 0          -- S| 2 | 11 R434 | 0 (DESIGN CHOICE 21)
  dlc : Nat := 0            -- S| 4 | 11 R434 | 0 (DESIGN CHOICE 21)
  ident : Nat := 0          -- S| 29 | 11 R434 | 0 (DESIGN CHOICE 21)
  mask : Nat := 0           -- S| 29 | 11 R434 | 0 (DESIGN CHOICE 21)
  dataMask : List Byte := List.replicate 8 0 -- S| 64 | 11 R434 | 0 (DESIGN CHOICE 21)
  rate : Nat := 2           -- S| 2 | 11 R434 | 2
deriving DecidableEq, Repr

/-- A J1939 transport session (R414, R415). -/
structure TpSession where
  sender : Bool             -- S| the device sends | 11 R414
  bam    : Bool             -- S| BAM, else CMDT | 11 R414
  peer   : Nat              -- S| 8, peer's source address; 255 for a BAM sent | 11 R414
  pgn    : Nat              -- S| 24 | 11 R415
  prio   : Nat := 6         -- S| 3 | 11 R415 | 6 (PRESUMED 21)
  size   : Nat              -- S| 11 | 11 R414
  done   : Nat := 0         -- S| packets done | 11 R431 | 0
  window : Nat := 0         -- S| packets cleared by the last CTS and not done | 11 R414 | 0
  time   : Nat := 0         -- S| 64, BUS_TIME of the opening TP.CM | 11 R415 | 0
  data   : List Byte := []  -- S| the message, or what has arrived of it | 11 R415 | empty
  origin : Option Origin := none -- S| who sends the message | 11 R415 | none
deriving DecidableEq, Repr

/-- State of a CAN channel (R412). -/
structure CanRun where
  state  : Nat := 0         -- S| 3: off, error-active, error-passive, bus-off, recovering | 11 R432 | 0 (engines unpowered)
  tec    : Nat := 0         -- S| 9 | 11 R412 | 0
  rec_   : Nat := 0         -- S| 8 | 11 R412 | 0
  offAt  : Nat := 0         -- S| 64, time of the bus-off, ns | 11 R412 | 0
  tp     : List TpSession := [] -- S| J1939 sessions | 11 R414 | none
deriving DecidableEq, Repr

/-- Settings of an MVB channel (R436). -/
structure MvbCfg where
  mode : Nat := 1           -- S| 1 | 11 R436 | 1
  addr : Nat := 0           -- S| 12 | 11 R436 | 0 (DESIGN CHOICE 21)
  flags : Nat := 1          -- S| 2 | 11 R436 | 0b01
  line : Nat := 0           -- S| 2 | 11 R436 | 0
  fails : Nat := 16         -- S| 8 | 11 R436 | 16
deriving DecidableEq, Repr

/-- A process-data port of an MVB channel (R437). -/
structure MvbPort where
  sink : Bool               -- S| 1 | 11 R437
  fcode : Nat               -- S| 3 | 11 R437
  supervise : Bool          -- S| 1 | 11 R437
  sinkMs : Nat              -- S| 16 | 11 R437
deriving DecidableEq, Repr

/-- State of an MVB port (R418). -/
structure MvbPortRun where
  stale : Bool := false     -- S| a supervised sink is not fresh | 11 R418 | 0
  since : Nat := 0          -- S| 64, time of the last valid frame or of the start of supervision, ns | 11 R418 | 0
  value : List Byte := []   -- S| latest value written for a source | 11 R418 | empty: reads 0
  gap   : Nat := 0          -- S| last observed interval, ns | 12 R471 | 0
  watched : Bool := true    -- S| supervision runs; after an engine restart from the first frame | 11 R429 | 1
deriving DecidableEq, Repr

/-- Bus administration (R438). -/
structure MvbAdmin where
  admins : List Nat := []   -- S| at most 16 × 12 | 11 R438 | empty
  basicUs : Nat := 1000     -- S| 11 | 11 R438 | 1,000
  turns : Nat := 1          -- S| 8 | 11 R438 | 1
  polls : List (Nat × Nat × Nat) := [] -- S| (PORT, FCODE, PERIOD_LOG2), at most 4,096 | 11 R438 | empty
deriving DecidableEq, Repr

/-- State of an MVB channel (R417, R420). -/
structure MvbRun where
  on : Bool := false        -- S| running | 11 R404 | 0 (engines unpowered)
  lineOk : List Bool := [true, true] -- S| lines A and B | 11 R417 | good
  runs : List Nat := [0, 0] -- S| consecutive bad frames of a good line, or good frames of a failed one | 11 R417 | 0
  selected : Nat := 0       -- S| 1, line received on | 11 R417 | 0 (DESIGN CHOICE 21)
  master : Bool := false    -- S| 1 | 11 R420 | 0
  masterAddr : Nat := 0     -- S| 12 | 11 R431 | 0 (DESIGN CHOICE 21)
  basic : Nat := 0          -- S| basic periods run as master | 11 R419 | 0
  lastBasic : Nat := 0      -- S| 64, Meridian time of the last basic period, ns | 11 R419 | 0
  offered : Option Nat := none -- S| administrator offered mastership | 11 R420 | none
  admin : MvbAdmin := {}    -- S| administration in force | 11 R438 | none
deriving DecidableEq, Repr

/-- Settings of a serial port (R439). -/
structure SerialCfg where
  mode : Nat := 3           -- S| 2 | 11 R439 | 3
  phy : Nat := 0            -- S| 1 | 11 R439 | 0
  format : Nat := 2         -- S| 4 | 11 R439 | 0b0010
  baud : Nat := 19200       -- S| 24 | 11 R439 | 19,200
  flags : Nat := 0          -- S| 2 | 11 R439 | 0 (DESIGN CHOICE 21)
  gap : Nat := 4            -- S| 8 | 11 R439 | 4
  deLead : Nat := 0         -- S| 10 | 11 R439 | 0
  respMs : Nat := 100       -- S| 14 | 11 R439 | 100
  polls : Nat := 3          -- S| 8 | 11 R439 | 3
  silenceMs : Nat := 0      -- S| 16 | 11 R439 | 0
deriving DecidableEq, Repr

/-- State of a serial port (R422, R423). -/
structure SerialRun where
  cur : Option TxMsg := none -- S| exchange in progress | 11 R422 | none
  sentAt : Nat := 0          -- S| 64, time it was sent, ns | 11 R422 | 0
  missed : Nat := 0          -- S| consecutive unanswered requests | 11 R423 | 0
  brk : Option Nat := none   -- S| line break and its cause | 11 R423 | none
  limit : Bool := false      -- S| driver in current limit | 11 R423 | 0
  lastRx : Nat := 0          -- S| 64, time of the last message, ns | 12 R471 | 0
  gapNs : Nat := 0           -- S| last observed interval, ns | 12 R471 | 0
  next : Option SerialCfg := none -- S| settings that apply after the exchange in progress | 11 R439 | none
deriving DecidableEq, Repr

/-- Settings of a LIN channel (R440). -/
structure LinCfg where
  mode : Nat := 1           -- S| 2 | 11 R440 | 1
  baud : Nat := 19200       -- S| 15 | 11 R440 | 19,200
  table : Nat := 0          -- S| 3 | 11 R440 | 0
  base : Nat := 5           -- S| 6, TIME_BASE_MS | 11 R440 | 5
  brk : Nat := 13           -- S| 5, BREAK_BITS | 11 R440 | 13
deriving DecidableEq, Repr

/-- A schedule entry (R441). -/
structure LinEntry where
  id   : Nat                -- S| 6 | 11 R441
  type : Nat                -- S| 3 | 11 R441
  len  : Nat                -- S| 4 | 11 R441
  flags : Nat               -- S| 1 | 11 R441
  slot : Nat                -- S| 8 | 11 R441
  coll : Nat                -- S| 3 | 11 R441
deriving DecidableEq, Repr

/-- State of a LIN channel (R424 to R426). -/
structure LinRun where
  state : Nat := 0          -- S| 2: off, running, asleep | 11 R432 | 0 (engines unpowered)
  table : Nat := 0          -- S| 3, table that runs | 11 R425 | 0
  list  : List LinEntry := [] -- S| its entries as they run | 11 R425 | empty
  index : Nat := 0          -- S| next entry | 11 R424 | 0
  back  : Option (Nat × Nat) := none -- S| table and entry to return to after a collision table | 11 R425 | none
  values : Tab (List Byte) := [] -- S| published values by frame | 11 R424 | none written
  resume : Option Nat := none -- S| time at which the schedule resumes, ns | 11 R426 | none
  slotAt : Nat := 0         -- S| 64, start of the next slot, ns | 11 R424 | 0 (DESIGN CHOICE 21)
  pendings : List (Nat × Bool) := [] -- S| sporadic frames with a fresh value | 11 R424 | none
deriving DecidableEq, Repr

/-- Settings of a discrete signal (R442). -/
structure DioCfg where
  flags : Nat := 6          -- S| 3 | 11 R442 | 0b110
  safe : Nat := 0           -- S| 1 | 11 R442 | 0
  time : Nat := 1000        -- S| 17 | 11 R442 | 1,000 for GPI, 10 for GPO
deriving DecidableEq, Repr

/-- State of a discrete signal (R427, R428). -/
structure DioRun where
  level : Nat := 0          -- S| 1, debounced level, or driven level before INVERT | 11 R432 | 0 (DESIGN CHOICE 21)
  driven : Bool := false    -- S| GPO: the output is driven, not high-impedance | 11 R404 | 0
  shown : Option Nat := none -- S| GPI: last reported level | 11 R429 | none
  fault : Bool := false     -- S| GPO: read-back fault | 11 R428 | 0
  read  : Nat := 0          -- S| GPO: level read back | 11 R428 | 0 (DESIGN CHOICE 21)
deriving DecidableEq, Repr

/-- What every channel keeps (R406, R430, R432). -/
structure ChanRun where
  txq   : List TxMsg := []  -- S| at most 256 | 11 R406 | empty
  since : Nat := 0          -- S| 64, time of the last STATE change | 11 R432 | 0
  rx    : Nat := 0          -- S| 64 wraps | 11 R430 | 0
  tx    : Nat := 0          -- S| 64 wraps | 11 R430 | 0
  cs    : List Nat := List.replicate 8 0 -- S| C0..C7, 32 saturate | 11 R430 | 0
  fifoDrop : Nat := 0       -- S| RX_FIFO_DROP, 32 saturates | 11 R430 | 0
deriving DecidableEq, Repr

/-- A bus engine (R405, R429). -/
structure Engine where
  fifo  : List BusMsg := [] -- S| at most 512 | 11 R405 | empty
  on    : Bool := false     -- S| powered | 11 R404 | 0
  restart : Option Nat := none -- S| cause of the restart in progress | 11 R429 | none
  restartAt : Nat := 0      -- S| 64, time it began, ns | 11 R429 | 0
  fifoLost : Nat := 0       -- S| messages it lost in the FIFO | 11 R431 | 0
  locksBroken : Nat := 0    -- S| locks it broke | 11 R431 | 0
  restarts : Nat := 0       -- S| 32 wraps, since cold start | 11 R431 | 0
  told  : List Nat := []    -- S| routes that raised cause 6 in this restart | 12 R457 | none
deriving DecidableEq, Repr

/-- Channel settings that a start loads from the bundle. -/
structure LegacySettings where
  can  : List CanCfg := List.replicate 8 {}      -- S| CAN0..7 | 11 R433 | defaults
  wake : List CanWake := List.replicate 2 {}     -- S| CAN0, CAN1 | 11 R434 | off
  mvb  : List MvbCfg := List.replicate 2 {}      -- S| MVB0, MVB1 | 11 R436 | defaults
  ports : List (Tab MvbPort) := [[], []]         -- S| ports of MVB0, MVB1, at most 4,096 each | 11 R437 | none
  admin : List MvbAdmin := List.replicate 2 {}   -- S| administration as set | 11 R438 | none
  serial : List SerialCfg := List.replicate 6 {} -- S| U0..U5 | 11 R439 | defaults
  lin  : List LinCfg := List.replicate 2 {}      -- S| LIN0, LIN1 | 11 R440 | defaults
  sched : List (List (List LinEntry)) := List.replicate 2 (List.replicate 8 []) -- S| 8 tables per LIN | 11 R441 | empty
  dio  : List DioCfg := List.replicate 16 ({} : DioCfg) ++ List.replicate 8 ({ flags := 0, time := 10 } : DioCfg) -- S| GPI0..15, GPO0..7 | 11 R442 | defaults
deriving DecidableEq, Repr

/-- The legacy buses. -/
structure Legacy where
  cfg  : LegacySettings := {}                    -- S| settings in force | 11 R433 | defaults
  chans : List ChanRun := List.replicate 56 {}   -- S| by channel code | 11 R430 | reset values
  can  : List CanRun := List.replicate 8 {}      -- S| CAN0..7 | 11 R412 | off
  mvb  : List MvbRun := List.replicate 2 {}      -- S| MVB0, MVB1 | 11 R417 | off
  mvbPorts : List (Tab MvbPortRun) := [[], []]   -- S| port states | 11 R418 | none
  serial : List SerialRun := List.replicate 6 {} -- S| U0..U5 | 11 R422 | idle
  lin  : List LinRun := List.replicate 2 {}      -- S| LIN0, LIN1 | 11 R424 | off
  dio  : List DioRun := List.replicate 24 {}     -- S| GPI0..15, GPO0..7 | 11 R427 | reset values
  engines : List Engine := List.replicate 4 {}   -- S| BE0..3 | 11 R405 | unpowered
deriving DecidableEq, Repr

/-- What a received MVB frame is (R416, R420). -/
inductive MvbRx where
  | data (port : Nat) (bytes : List Byte)
  | message (addr : Nat) (bytes : List Byte)
  | offer (peer : Nat)
  | accept (peer : Nat)
deriving DecidableEq, Repr

/-- How the responder of a LIN slot answers (R424, R425). -/
inductive LinResp where
  | data (bytes : List Byte)
  | none'
  | checksum
  | framing
  | bitError
  | collision
deriving DecidableEq, Repr

end Sys2Proof
end

