-- ==== Sys2Proof/Types/Gateway.lean ====
section
/-! DEFINITION. The gateway at FP13: routes, the process-data image, cycles, locks, endpoints (spec 12). -/

namespace Sys2Proof

/-- A route (R460). -/
structure GwRoute where
  space : Nat               -- S| 2 | 12 R460
  kind  : Nat               -- S| 4 | 12 R460
  chan  : Nat               -- S| 8, channel code, domain or ACF bus | 12 R460
  event : Bool              -- S| 1, MODE | 12 R460
  ident : Nat               -- S| 32 | 12 R460
  mask  : Nat               -- S| 32 | 12 R460
  slotLen : Nat             -- S| 12 | 12 R460
  eventMax : Nat            -- S| 5 | 12 R460
  coalesce : Bool           -- S| 1 | 12 R460
  staleMs : Nat             -- S| 16 | 12 R460
  first : Nat               -- S| 14, FIRST_TARGET | 12 R460
  count : Nat               -- S| 5, TARGET_COUNT | 12 R460
deriving DecidableEq, Repr

/-- A target (R461). -/
structure GwTarget where
  space : Nat               -- S| 2 | 12 R461
  kind  : Nat               -- S| 4 | 12 R461
  chan  : Nat               -- S| 8 | 12 R461
  flags : Nat               -- S| 3, MSG_FLAGS | 12 R461
  ident : Nat               -- S| 32 | 12 R461
  len   : Nat               -- S| 12 | 12 R461
  func  : Nat               -- S| 8 | 12 R461
  prio  : Nat               -- S| 3 | 12 R461
  addr  : Nat               -- S| 16 | 12 R461
  firstField : Nat          -- S| 15 | 12 R461
  fieldCount : Nat          -- S| 6 | 12 R461
  onChange : Bool           -- S| 1 | 12 R461
  period : Nat              -- S| 16, PERIOD_CYCLES | 12 R461
  refresh : Nat             -- S| 16, REFRESH_CYCLES | 12 R461
deriving DecidableEq, Repr

/-- A field map (R462). -/
structure FieldMap where
  type   : Nat              -- S| 2 | 12 R462
  srcFmt : Nat              -- S| 2 | 12 R462
  dstFmt : Nat              -- S| 2 | 12 R462
  policy : Nat              -- S| 2 | 12 R462
  srcOff : Nat              -- S| 16 | 12 R462
  dstOff : Nat              -- S| 16 | 12 R462
  srcW   : Nat              -- S| 6 | 12 R462
  dstW   : Nat              -- S| 6 | 12 R462
  copyLen : Nat             -- S| 12 | 12 R462
  mul    : Int              -- S| 32 signed | 12 R462
  shift  : Nat              -- S| 5 | 12 R462
  clampEn : Bool            -- S| 1 | 12 R462
  add    : Int              -- S| 32 signed | 12 R462
  min    : Int              -- S| 32 signed | 12 R462
  max    : Int              -- S| 32 signed | 12 R462
  safe   : Int              -- S| 32 signed | 12 R462
  ramp   : Nat              -- S| 31 | 12 R462
  slew   : Nat              -- S| 31 | 12 R462
deriving DecidableEq, Repr

/-- The gateway's epoch tables (R39, R483). -/
structure GwTables where
  routes  : Tab GwRoute := []  -- S| by index 0..16383 | 12 R460 | none
  targets : Tab GwTarget := [] -- S| by index 0..16383 | 12 R461 | none
  fields  : Tab FieldMap := [] -- S| by index 0..32767 | 12 R462 | none
deriving DecidableEq, Repr

/-- A record of a slot (R450) with its permit mask (R458). -/
structure GwRec where
  time   : Nat              -- S| 64, BUS_TIME | 12 R450
  len    : Nat              -- S| 16 | 12 R450
  cflags : Nat              -- S| 16 | 12 R450
  zone   : Nat              -- S| 8 | 12 R450
  permit : Nat              -- S| 16, by target of the list | 12 R458
  listed : Nat              -- S| 5, targets of the list at delivery | 12 R458
  epoch  : Nat              -- S| 32, epoch of delivery | 12 R458
  data   : List Byte        -- S| SLOT_LEN bytes | 12 R450
deriving DecidableEq, Repr

/-- A route's source slot and what it runs on (R450, R459, R464, R465). -/
structure Slot where
  opn    : List GwRec := []  -- S| open bank | 12 R450 | empty
  closed : List GwRec := []  -- S| closed bank | 12 R450 | empty
  fresh  : Nat := 0          -- S| inputs latched in the closed bank's own cycle | 12 R453 | 0
  latest : Option GwRec := none -- S| latest latched record of the snapshot | 12 R464 | none
  stale  : Bool := false     -- S| the route ran stale last | 12 R465 | 0
  staleAt : Nat := 0         -- S| 64, mark of its first stale cycle, ns | 12 R481 | 0
  lastRx : Nat := 0          -- S| 64, time of the last input, ns | 12 R471 | 0
deriving DecidableEq, Repr

/-- Channel status record (R451). -/
structure ChanStatus where
  busOff : Bool := false     -- S| 1 | 12 R451 | 0
  noLine : Bool := false     -- S| 1 | 12 R451 | 0
  broken : Bool := false     -- S| 1, serial line break | 12 R451 | 0
  engine : Bool := false     -- S| 1, engine restarting | 12 R451 | 0
  sinks  : List Nat := []    -- S| stale sink ports | 12 R451 | none
deriving DecidableEq, Repr

/-- An output of a cycle, or one waiting for its spacing (R446, R455, R459). -/
structure GwOut where
  space  : Nat               -- S| 2 | 12 R461
  prio   : Nat := 0          -- S| 3 | 12 R461 | 0
  tx     : TxMsg             -- S| message and initiator | 12 R461
  tflags : Nat := 0          -- S| CFLAGS [15:8] of a carriage output | 12 R447 | 0
deriving DecidableEq, Repr

/-- A target's state (R459, R461). -/
structure TargetRun where
  buf    : List Byte := []   -- S| LENGTH bytes, message last built | 12 R461 | 0
  last   : Option Nat := none -- S| cycle of the last write | 12 R459 | none
  pending : Option GwOut := none -- S| output waiting for the spacing | 12 R459 | none
deriving DecidableEq, Repr

/-- A direct write (R467): message, Modbus function and address, initiator. -/
structure GwDirect where
  tx : TxMsg                 -- S| message and initiator | 12 R467
deriving DecidableEq, Repr

/-- Snapshot of a cycle (R453). -/
structure GwSnap where
  cycle  : Nat := 0          -- S| 32 | 12 R452 | 0
  mark   : Nat := 0          -- S| 64, M_k, ns | 12 R452 | 0
  epoch  : Nat := 0          -- S| 32, cycle epoch | 12 R456 | 0
  slots  : Tab Slot := []    -- S| closed banks by route | 12 R453 | none
  fields : Tab Int := []     -- S| field state at the mark | 12 R453 | none
  status : Tab ChanStatus := [] -- S| channel status records | 12 R453 | none
  direct : List GwDirect := [] -- S| closed journal half and what was carried | 12 R453 R455 | empty
  begun  : Bool := false     -- S| its routes have run | 12 R456 | 0
  outs   : List GwOut := []  -- S| ordered outputs not yet issued | 12 R455 | empty
  listed : List GwOut := []  -- S| the ordered output list | 12 R455 | empty
  changed : Tab Int := []    -- S| field values that changed | 18 R681 | none
  issued : List GwDirect := [] -- S| direct writes it issues | 18 R681 | empty
  digest : List Byte := []   -- S| 384, pair digest of its tables, with pairing enabled | 18 R688 | empty
deriving DecidableEq, Repr

/-- A serial lock (R473). -/
structure GwLock where
  kind   : Nat               -- S| 2: command source, TX ring, TRDP session | 12 R473
  who    : Nat               -- S| 8 | 12 R473
  since  : Nat               -- S| 64, ns | 12 R481
  leaseMs : Nat              -- S| 13 | 12 R473
  expires : Nat              -- S| 64, ns | 12 R488
  exchanges : Nat := 0       -- S| 16 | 12 R481 | 0
deriving DecidableEq, Repr

/-- A fetch under a retry token (R471) or an exchange (R489). -/
structure GwFetch where
  token  : Nat               -- S| 32 | 12 R471
  chan   : Nat               -- S| 8 | 12 R471
  how    : Nat               -- S| 2: remote frame, wait, MVB poll, Modbus read; 4 an exchange | 12 R481
  flags  : Nat := 0          -- S| 3 | 12 R487 | 0
  width  : Nat := 0          -- S| 6 | 12 R487 | 0
  func   : Nat := 0          -- S| 3 | 12 R487 | 0
  ident  : Nat := 0          -- S| 32 | 12 R487 | 0
  addr   : Nat := 0          -- S| 16 | 12 R487 | 0
  since  : Nat := 0          -- S| 64, ns | 12 R471 | 0
  timeoutMs : Nat := 0       -- S| 14 | 12 R487 | 0
deriving DecidableEq, Repr

/-- An entry of the read cache (R471). -/
structure GwCache where
  chan   : Nat               -- S| 8 | 12 R471
  func   : Nat               -- S| 3 | 12 R471
  ident  : Nat               -- S| 32 | 12 R471
  addr   : Nat               -- S| 16; 0 but for Modbus | 12 R471
  time   : Nat               -- S| 64, BUS_TIME | 12 R471
  data   : List Byte         -- S| message or register data | 12 R471
  exc    : Option Nat := none -- S| Modbus exception code | 12 R487 | none
deriving DecidableEq, Repr

/-- A TRDP endpoint (R484). -/
structure Endpoint where
  flags  : Nat := 0          -- S| 2 | 12 R484 | not enabled (R484's default 0b11 is a request default)
  mac    : List Byte := []   -- S| 48 | 12 R484 | 0 (DESIGN CHOICE 22)
  ipv4   : Nat := 0          -- S| 32 | 12 R484 | 0 (DESIGN CHOICE 22)
  pfx    : Nat := 8          -- S| 5 | 12 R484 | 8 (DESIGN CHOICE 22)
  vid    : Nat := 1          -- S| 12 | 12 R484 | 1 (DESIGN CHOICE 22)
  md     : Nat := 0          -- S| 32, MD_COMID | 12 R484 | 0 (DESIGN CHOICE 22)
  idleS  : Nat := 30         -- S| 12 | 12 R484 | 30
deriving DecidableEq, Repr

/-- An ACF bus (R485). -/
structure AcfBus where
  domain : Nat               -- S| 3 | 12 R485
  prio   : Nat               -- S| 3 | 12 R485
  vid    : Nat               -- S| 12 | 12 R485
  da     : List Byte         -- S| 48 | 12 R485
  stream : List Byte         -- S| 64 | 12 R485
deriving DecidableEq, Repr

/-- A TRDP session (R477). -/
structure TrdpSession where
  tcp    : Bool              -- S| 1 | 12 R477
  domain : Nat               -- S| 3 | 12 R477
  ip     : Nat               -- S| 32 | 12 R477
  port   : Nat               -- S| 16 | 12 R477
  last   : Nat               -- S| 64, time of the last message data, ns | 12 R477
  outbox : List (List Byte) := [] -- S| Mp datasets sent | 12 R477 | empty
deriving DecidableEq, Repr

/-- Gateway settings (R482, R484, R485). -/
structure GwSettings where
  periodUs : Nat := 1000     -- S| 17 | 12 R452 | 1,000
  phaseNs  : Nat := 0        -- S| 27 | 12 R452 | 0 (DESIGN CHOICE 22)
  ends     : Tab Endpoint := [] -- S| by domain | 12 R484 | none
  buses    : Tab AcfBus := [] -- S| by bus 0..31 | 12 R485 | none
deriving DecidableEq, Repr

/-- The gateway. -/
structure Gateway where
  cfg     : GwSettings := {}     -- S| settings as commanded | 12 R482 | defaults
  grid    : Nat × Nat := (1000, 0) -- S| PERIOD (µs) and PHASE (ns) of the running grid | 12 R452 | 1,000, 0
  nextGrid : Option (Nat × Nat × Nat) := none -- S| grid to come and its first mark | 12 R452 | none
  cycle   : Nat := 0             -- S| 32 wraps, number of the last mark | 12 R452 | 0 (DESIGN CHOICE 22)
  lastMark : Nat := 0            -- S| 64, Meridian time of the last mark, ns | 12 R452 | 0
  slots   : Tab Slot := []       -- S| by route | 12 R450 | none latched
  targets : Tab TargetRun := []  -- S| by target | 12 R461 | 0
  fields  : Tab Int := []        -- S| last value by field map, 32 signed; unlisted: SAFE | 12 R449 R463 | SAFE
  status  : Tab ChanStatus := [] -- S| by channel | 12 R451 | no cause
  journal : List GwDirect := []  -- S| open half | 12 R467 | empty
  carried : List GwDirect := []  -- S| direct writes carried over | 12 R455 | empty
  run     : List GwSnap := [] -- S| cycle in execution and the cycle whose snapshot waits | 12 R456 | none
  markRaw : Option Nat := none -- S| 64, raw count of the last mark | 10 R390 | none
  history : List GwSnap := []    -- S| the last two snapshots | 18 R683 | none
  pdSeq   : Tab Nat := []        -- S| 32 wraps, TRDP sequence counter by target | 12 R476 | 0 (DESIGN CHOICE 22)
  acfSeq  : Tab Nat := []        -- S| 8 wraps, 1722 sequence by bus | 12 R478 | 0 (DESIGN CHOICE 22)
  locks   : Tab GwLock := []     -- S| by channel 16..21 | 12 R473 | none
  heir    : Tab Nat := []        -- S| token that may acquire after a lock ended, by channel | 12 R473 | none
  fetches : List GwFetch := []   -- S| fetches and exchanges in progress or done | 12 R471 | none
  cache   : List GwCache := []   -- S| at most 256, most recently used first | 12 R471 | empty
  seen    : Tab (Nat × Nat) := [] -- S| last reception and interval (ns) by 2^32 × channel + identifier | 12 R471 | none
  sessions : Tab TrdpSession := [] -- S| by index 0..63 | 12 R477 | none
  counters : Tab (List Nat) := [] -- S| by 65536 × table + index, R480 order | 12 R480 | 0
  deleted : List Nat := []       -- S| deleted routes | 12 R491 | none
  runUs   : Nat := 0             -- S| 32, LAST_RUN_US | 12 R480 | 0
  peakUs  : Nat := 0             -- S| 32, PEAK_RUN_US | 12 R480 | 0
  failAt  : Nat := 0             -- S| second of the POSTED_WRITE_FAILED limit, ns | 12 R470 | 0
  failN   : Nat := 0             -- S| events raised in it | 12 R470 | 0
  failSupp : Nat := 0            -- S| 16, SUPPRESSED | 12 R470 | 0
deriving DecidableEq, Repr

end Sys2Proof
end

