-- ==== Sys2Proof/Types/Pair.lean ====
section
/-! DEFINITION. The redundant pair, TTDP and MRP (spec 18). -/

namespace Sys2Proof

/-- Pair settings (R700). -/
structure PairCfg where
  enable   : Bool := false     -- S| 1 | 18 R700 | 0
  priority : Nat := 128        -- S| 8 | 18 R700 | 128
  flags    : Nat := 1          -- S| 2: AUTO_TAKEOVER, ATTEST | 18 R700 | 0b01
  hbMiss   : Nat := 2          -- S| 4 | 18 R700 | 2
  hbCan    : Nat := 0xFF       -- S| 8 | 18 R700 | 0xFF none (DESIGN CHOICE 30)
  hbMvb    : Nat := 0xFF       -- S| 8 | 18 R700 | 0xFF none (DESIGN CHOICE 30)
  hbMvbPort : Nat := 0         -- S| 12 | 18 R700 | 0 (DESIGN CHOICE 30)
  hbCanId  : Nat := 0          -- S| 32 | 18 R700 | 0 (DESIGN CHOICE 30)
  resendUs : Nat := 20         -- S| 10 | 18 R700 | 20
deriving DecidableEq, Repr

/-- A hello (R687). -/
structure PairHello where
  serial   : Nat               -- S| 64 | 18 R687
  ikiora   : Nat               -- S| 32 | 18 R687
  rev      : Nat               -- S| 8 | 18 R687
  copyFmt  : Nat               -- S| 16 | 18 R687
  digest   : List Byte         -- S| 384 | 18 R688
  reasons  : Nat               -- S| 32 | 18 R687
  role     : Nat               -- S| 2 | 18 R674
  priority : Nat               -- S| 8 | 18 R674
  takenAt  : Option Nat        -- S| time it became Primary by takeover, ns | 18 R674
deriving DecidableEq, Repr

/-- A cycle copy (R681). -/
structure PairCopy where
  cycle    : Nat               -- S| 32 | 18 R681
  mark     : Nat               -- S| 64, M_k of the Primary | 18 R681
  copyFmt  : Nat               -- S| 16 | 18 R681
  digest   : List Byte         -- S| 384 | 18 R681
  outs     : List GwOut        -- S| ordered output list | 18 R681
  changed  : Tab Int           -- S| changed field values | 18 R681
  bytes    : Nat               -- S| length of the copy | 18 R699
deriving DecidableEq, Repr

/-- What a pair block carries (R678, R681, R684, R687, R701). -/
inductive PairBody where
  | idle
  | copyPart
  | copyEnd (c : PairCopy)
  | hello (h : PairHello)
  | fault (cause cycle : Nat)
  | switchOver (cycle : Nat)
  | switchAck
  | request (data : List Byte)
  | response (data : List Byte) (ok : Bool)
  | retry (ms : Nat)
deriving DecidableEq, Repr

/-- A pair block (R678). -/
structure PairBlock where
  type   : Nat                 -- S| 8 | 18 R678
  rev    : Nat := 1            -- S| 8 | 18 R678 | 1
  bseq   : Nat := 0            -- S| 32 | 18 R678 | 0
  ack    : Nat := 0            -- S| 32 | 18 R678 | 0
  cycle  : Nat := 0            -- S| 32 | 18 R678 | 0
  nak    : Bool := false       -- S| 1 | 18 R678 | 0
  txTime : Nat := 0            -- S| 64 | 18 R678 | 0
  body   : PairBody := .idle   -- S| payload | 18 R678 | idle
deriving DecidableEq, Repr

/-- TTDP settings (R703). -/
structure TtdpCfg where
  enable : Bool := false       -- S| 1 | 18 R703 | 0 (DESIGN CHOICE 30)
  dir1   : Nat := 0            -- S| 4 | 18 R703 | 0 (DESIGN CHOICE 30)
  dir2   : Nat := 0            -- S| 4 | 18 R703 | 0 (DESIGN CHOICE 30)
  fastMs : Nat := 15           -- S| 16 | 18 R703 | 15
  slowMs : Nat := 100          -- S| 16 | 18 R703 | 100
  uuid   : List Byte := List.replicate 16 0 -- S| 128 | 18 R703 | 0 (DESIGN CHOICE 30)
deriving DecidableEq, Repr

/-- TTDP state (R693, R694, R704). -/
structure TtdpRun where
  state  : Nat := 0            -- S| 2: off, discovering, inaugurated | 18 R704 | 0
  etbn   : Nat := 0            -- S| 8 | 18 R704 | 0 (DESIGN CHOICE 30)
  count  : Nat := 0            -- S| 8 | 18 R704 | 0 (DESIGN CHOICE 30)
  etb    : Nat := 0            -- S| 8 | 18 R704 | 0 (DESIGN CHOICE 30)
  topo   : Nat := 0            -- S| 32, etbTopoCnt | 18 R704 | 0 (DESIGN CHOICE 30)
  lines  : List Nat := [0, 0]  -- S| lines with a neighbour per direction, 2 each | 18 R704 | 0
  chosen : List Nat := [0, 0]  -- S| selected line per direction | 18 R694 | 0 (DESIGN CHOICE 30)
  heard  : Tab Nat := []       -- S| time of the last HELLO per port, ns | 18 R693 | none
  ipv4   : Nat := 0            -- S| 32, ETBN_IPV4 | 18 R704 | 0 (DESIGN CHOICE 30)
  since  : Nat := 0            -- S| 64, ns | 18 R704 | 0
  lastTx : Nat := 0            -- S| 64, time of the last HELLO sent, ns | 18 R693 | 0
deriving DecidableEq, Repr

/-- An MRP ring's settings (R705). -/
structure MrpCfg where
  enable : Bool := false       -- S| 1 | 18 R705 | 0 (DESIGN CHOICE 30)
  role   : Nat := 0            -- S| 1 | 18 R705 | 0 (DESIGN CHOICE 30)
  profile : Nat := 0           -- S| 2 | 18 R705 | 0 (DESIGN CHOICE 30)
  port1  : Nat := 0            -- S| 2 | 18 R705 | 0 (DESIGN CHOICE 30)
  port2  : Nat := 0            -- S| 2 | 18 R705 | 0 (DESIGN CHOICE 30)
  vid    : Nat := 0            -- S| 12 | 18 R705 | 0 (DESIGN CHOICE 30)
  uuid   : List Byte := List.replicate 16 0 -- S| 128 | 18 R705 | 0 (DESIGN CHOICE 30)
deriving DecidableEq, Repr

/-- An MRP ring's state (R695, R696, R706). -/
structure MrpRun where
  state  : Nat := 0            -- S| 2: off, closed, open, ring port down | 18 R706 | 0
  blocked1 : Bool := false     -- S| primary port blocked | 18 R706 | 0 (DESIGN CHOICE 30)
  blocked2 : Bool := false     -- S| secondary port blocked | 18 R706 | 0 (DESIGN CHOICE 30)
  since  : Nat := 0            -- S| 64, ns | 18 R706 | 0
  openAt : Nat := 0            -- S| 64, ns | 18 R698 | 0
  missed : Nat := 0            -- S| test frames sent and not seen again | 18 R695 | 0
  lastTx : Nat := 0            -- S| 64, time of the last test frame, ns | 18 R695 | 0
deriving DecidableEq, Repr

/-- Pair and consist settings (stored, R700, R703, R705). -/
structure PairSettings where
  pair : PairCfg := {}         -- S| PAIR_SET | 18 R700 | defaults
  ttdp : TtdpCfg := {}         -- S| TTDP_SET | 18 R703 | defaults
  mrp  : List MrpCfg := [{}, {}] -- S| MRP_SET | 18 R705 | defaults
deriving DecidableEq, Repr

/-- The pair and the consist roles. -/
structure Pair where
  cfg      : PairSettings := {} -- S| settings | 18 R700 | defaults
  role     : Nat := 0          -- S| 2: none, Primary, Companion | 18 R699 | 0
  since    : Nat := 0          -- S| 64, ns | 18 R699 | 0
  link     : Bool := false     -- S| 1, pair link up | 18 R679 | 0
  laneUp   : List Bool := [true, true] -- S| lanes that have not failed | 18 R677 | both
  reasons  : Nat := 1          -- S| 11 | 18 R687 | reason 0 (link down)
  armed    : Bool := false     -- S| DEV_STATUS.PAIR_ARMED | 18 R687 | 0
  watch    : Bool := false     -- S| heartbeat watch | 18 R689 | 0
  faulty   : Option Nat := none -- S| cause of this unit's fault | 18 R686 | none
  barred   : Bool := false     -- S| takeover barred | 18 R687 | 0
  partner  : Option PairHello := none -- S| last hello | 18 R687 | none
  partnerFaulty : Bool := false -- S| the partner announced a fault | 18 R686 | 0
  takenAt  : Option Nat := none -- S| time this unit became Primary by takeover, ns | 18 R674 | none
  txSeq    : Nat := 0          -- S| 32 wraps, next BSEQ | 18 R679 | 0 (DESIGN CHOICE 30)
  rxSeq    : Nat := 0          -- S| 32 wraps, BSEQ expected | 18 R679 | 0 (DESIGN CHOICE 30)
  unacked  : List PairBlock := [] -- S| at most 128 | 18 R679 | empty
  txq      : List PairBlock := [] -- S| posted blocks behind the window | 18 R679 | empty
  resent   : Nat := 0          -- S| times the first unacknowledged block was resent | 18 R679 | 0
  ackAt    : Nat := 0          -- S| 64, last advance of ACK, ns | 18 R679 | 0
  txAt     : Nat := 0          -- S| 64, last block sent, ns | 18 R679 | 0
  rxAt     : Nat := 0          -- S| 64, last valid block, ns | 18 R679 | 0
  requests : List (List Byte) := [] -- S| at most 256 KiB | 18 R680 | empty
  copy     : Option PairCopy := none -- S| complete copy to be compared | 18 R683 | none
  late     : Nat := 0          -- S| consecutive late copies | 18 R687 | 0
  lastLate : Bool := false     -- S| 1 | 18 R699 | 0
  equal    : Nat := 0          -- S| consecutive equal comparisons | 18 R687 | 0
  compared : Nat := 0          -- S| 32, LAST_COMPARED | 18 R699 | 0 (DESIGN CHOICE 30)
  copyBytes : Nat := 0         -- S| 32 | 18 R699 | 0 (DESIGN CHOICE 30)
  mismatch : Option (Nat × Nat × Nat) := none -- S| cycle, target and entry of the mismatch under attribution | 18 R684 | none
  diffNs   : Int := 0          -- S| 64 signed, D | 18 R692 | 0 (DESIGN CHOICE 30)
  apart    : Bool := false     -- S| difference above 1 µs | 18 R692 | 0
  takeover : Option Nat := none -- S| cause of a takeover at the next mark | 18 R690 | none
  hbSeen   : Bool := false     -- S| heartbeat heard since the last mark | 18 R676 | 0
  hbMvbLast : List Byte := []  -- S| last value of the heartbeat port | 18 R676 | empty
  hbMissed : Nat := 0          -- S| consecutive marks without heartbeat | 18 R676 | 0
  waitMarks : Option Nat := none -- S| marks left before the role at the gateway's start | 18 R674 | none
  lastOut  : Nat := 0          -- S| 64, last output or heartbeat received, ns | 18 R698 | 0
  switching : Option Nat := none -- S| first cycle of a PAIR_SWITCH not yet acknowledged | 18 R701 | none
  ttdp     : TtdpRun := {}     -- S| TTDP | 18 R693 | off
  mrp      : List MrpRun := [{}, {}] -- S| MRP rings | 18 R695 | off
  counters : List (List Nat) := [List.replicate 14 0, List.replicate 5 0, List.replicate 6 0, List.replicate 6 0] -- S| pair, TTDP, ring 0, ring 1, R697 order | 18 R697 | 0
  helloAt  : Nat := 0          -- S| 64, last hello sent, ns | 18 R687 | 0 (DESIGN CHOICE 30)
  told     : Option (List Byte × Nat) := none -- S| pair digest and reasons of the last hello sent | 18 R687 | none
  decided  : Bool := false     -- S| roles were decided for this link | 18 R674 | 0
deriving DecidableEq, Repr

/-- What a TTDP frame says (R693): a HELLO, or a TOPOLOGY frame with the outcome of an inauguration: ETBN ID, ETBN count, ETB ID,
etbTopoCnt and the address computed for the ETBN. -/
inductive TtdpFrame where
  | hello
  | topology (etbn count etb topo ipv4 : Nat)
deriving DecidableEq, Repr

/-- An MRP frame as received (R695): a test frame of the device's own, MRP_TopologyChange, or MRP_LinkChange of a client. -/
inductive MrpFrame where
  | test
  | topologyChange
  | linkDown
  | linkUp
deriving DecidableEq, Repr

end Sys2Proof
end

