-- ==== Sys2Proof/Types/Ports.lean ====
section
/-! DEFINITION. Ports, PHYs and power over Ethernet (spec 05). -/

namespace Sys2Proof

/-- Settings of a port (PORT_SET, R175). -/
structure PortCfg where
  admin     : Nat := 1       -- S| 2: 0 down, 1 up, 2 sleep | 05 R175 | 1
  mode      : Nat := 0       -- S| 2, backbone mode | 05 R150 R175 | 0
  role      : Nat := 0       -- S| 1: 0 master, 1 slave | 05 R151 R158 R175 | BB1, BB3 slave; others master
  fec       : Nat := 0       -- S| 2 | 05 R175 | 0
  flags     : Nat := 6       -- S| 3 (EEE, FAST_WAKE, TC10_ACCEPT) | 05 R175 | 0b110
  lpiIdleUs : Nat := 100     -- S| 16 | 05 R175 | 100
  maxAgeH   : Nat := 168     -- S| 16 | 05 R175 | 168
deriving DecidableEq, Repr

/-- A retained-training record (R153). -/
structure TrainRec where
  coeffs : Nat               -- S| coefficients, an opaque number | 05 R153
  mode   : Nat               -- S| mode or group type | 05 R153
  role   : Nat               -- S| 1 | 05 R153
  finger : Nat               -- S| 48 | 05 R153 R154
  temp   : Int               -- S| baseplate temperature, 0.125 °C | 05 R153
  at_    : Nat               -- S| always-on clock time, units of 1.6 ns | 05 R153
  crcOk  : Bool := true      -- S| whether the record's CRC-32 is right | 05 R153 R155
deriving DecidableEq, Repr

/-- Why a port has no retained-training record although none was used up by a fallback yet (R155). -/
inductive NoRec where
  | fresh      -- cold power-on, Dark exit or TRAINING_CLEAR
  | changed    -- mode or role change
  | other
deriving DecidableEq, Repr

/-- A frame whose end has not arrived yet at its port. -/
structure RxOpen where
  wire  : WireFrame                  -- S| the frame | 05 R165
  held  : Bool                       -- S| it waits for its end before stage 1 (R166, R184) | 06 R184
  id    : Option Nat := none         -- S| its id in the fabric | 08 R280 | none
  learn : Option LearnReq := none    -- S| learn request to be carried out at a good end | 06 R195 | none
  gone  : Bool := false              -- S| MACsec discarded it at its head | 14 R548 | 0
deriving DecidableEq, Repr

/-- State of a port (R164, R174). -/
structure PortRun where
  oper     : Nat := 0                   -- S| 3, oper state | 05 R164 | 0 (DESIGN CHOICE 14: PHYs are powered down)
  speed    : Nat := 0                   -- S| speed code | 05 R173 | 0
  since    : Nat := 0                   -- S| 64, time of the last oper state change | 05 R174 | 0 (DESIGN CHOICE 14)
  how      : Nat := 0                   -- S| 2: full training, fast start, none | 05 R173 | 0
  fastTry  : Bool := false              -- S| a fast start is in progress | 05 R156 | 0
  fastAt   : Nat := 0                   -- S| time of its first InfoField, ns | 05 R156 | 0 (DESIGN CHOICE 14)
  matched  : Bool := false              -- S| the fingerprints matched | 05 R156 | 0
  fullNext : Bool := false              -- S| the present power-up runs full training | 05 R155 R156 | 0
  train    : Option TrainRec := none    -- S| retained-training record (always-on domain) | 05 R153 | none
  noRec    : NoRec := .fresh            -- S| why no record exists | 05 R155 | fresh
  partnerEee : Bool := false            -- S| partner accepts EEE | 05 R160 R174 | 0
  lpi      : Bool := false              -- S| in EEE low-power idle | 05 R160 | 0
  lpiEvAt  : Option Nat := none         -- S| time of the last EEE LOW_POWER_IDLE, ns | 05 R173 | none
  lpiSince : Nat := 0                   -- S| EEE entries since that event | 05 R173 | 0
  sleepLocal : Bool := false            -- S| TC10 sleep was initiated locally | 05 R161 R173 | 0
  tc10Entries : Nat := 0                -- S| TC10 entries since the previous TC10 event | 05 R173 | 0
  rx       : Option RxOpen := none      -- S| frame being received | 05 R165 | none
  counters : List Nat := List.replicate 16 0 -- S| R167: 4 × 64 wrap, 12 × 32 saturate | 05 R167 | 0
deriving DecidableEq, Repr

/-- PLCA settings and status of a T1S segment (R162, R163). -/
structure Plca where
  enable    : Bool := true   -- S| 1 | 05 R178 | 1
  nodeId    : Nat := 0       -- S| 3 | 05 R162 | 0
  nodeCount : Nat := 8       -- S| 4 | 05 R162 | 8
  toTimer   : Nat := 32      -- S| 8 | 05 R162 | 32
  burstCnt  : Nat := 0       -- S| 8 | 05 R162 | 0
  burstTmr  : Nat := 128     -- S| 8 | 05 R162 | 128
deriving DecidableEq, Repr

/-- PSE settings of a port (R179). -/
structure PseCfg where
  enable   : Bool := false   -- S| 1 | 05 R179 | 0
  prio     : Nat := 1        -- S| 2 | 05 R179 | 1
  maxClass : Nat := 6        -- S| 3 | 05 R179 | 6
deriving DecidableEq, Repr

/-- PSE state of a port (R168 to R172, R180). -/
structure PseRun where
  state    : Nat := 0        -- S| 3: disabled, detecting, classifying, powered, DENIED, fault wait | 05 R180 | 0
  reqClass : Nat := 0xFF     -- S| 0..8, 0xFF | 05 R180 | 0xFF
  grant    : Nat := 0xFF     -- S| 0..6, 0xFF | 05 R180 | 0xFF
  need     : Nat := 0        -- S| tokens its request needs | 05 R170 | 0
  tokens   : Nat := 0        -- S| 16, allocated | 05 R169 R180 | 0
  powerMw  : Nat := 0        -- S| 16, measured | 05 R180 | 0
  faults   : Nat := 0        -- S| 32 wraps, since cold start | 05 R173 | 0
  badSig   : Nat := 0        -- S| 16 saturates | 05 R180 | 0
deriving DecidableEq, Repr

/-- Port settings that a start loads from the bundle. -/
structure PortSettings where
  ports  : List PortCfg := (List.range 33).map fun p => { role := if p = 1 ∨ p = 3 then 1 else 0 } -- S| ports 0..32 | 05 R175 | defaults
  groups : List Nat := List.replicate 6 1         -- S| edge-group types EG0..EG5 | 05 R158 R176 | 1000BASE-T
  plca   : List Plca := List.replicate 4 {}       -- S| segments S0..S3 | 05 R162 | defaults
  pse    : List PseCfg := List.replicate 16 {}    -- S| E0..E15 | 05 R179 | off
deriving DecidableEq, Repr

/-- Ports. -/
structure Ports where
  cfg      : PortSettings := {}                    -- S| settings in force | 05 R175 | defaults
  run      : List PortRun := List.replicate 33 {}  -- S| ports 0..32 | 05 R164 | reset values
  plcaOn   : List Bool := List.replicate 4 false   -- S| PLCA status active, S0..S3 | 05 R163 | 0
  pse      : List PseRun := List.replicate 16 {}   -- S| E0..E15 | 05 R180 | reset values
  railMv   : Nat := 0                              -- S| 16, 54 V rail | 05 R180 | 0 (DESIGN CHOICE 14)
  supplyFault : Bool := false                      -- S| PSE supply fault | 05 R172 | 0
deriving DecidableEq, Repr

end Sys2Proof
end

