-- ==== Sys2Proof/Types/Power.lean ====
section
/-! DEFINITION. Power states, tokens, supply and wake (spec 13). -/

namespace Sys2Proof

/-- Tokens of a requester of the internal pool (R506, R507, R525). -/
structure Hold where
  tokens : Nat := 0        -- S| 16 | 13 R506 | 0
  denied : Bool := false   -- S| 1, its last request was denied | 13 R507 R525 | 0
deriving DecidableEq, Repr

/-- Wake settings (WAKE_SET, R523); stored. -/
structure WakeCfg where
  enable    : Nat := 0x43   -- S| 7 | 13 R523 | 0b100_0011
  pinMode   : Nat := 0xA    -- S| 4 | 13 R523 | 0b1010
  autoSleep : Nat := 0      -- S| 2 | 13 R523 | 0
  flags     : Nat := 5      -- S| 3 | 13 R523 | 0b101
  delayS    : Nat := 30     -- S| 16 | 13 R523 | 30
  darkAfterH : Nat := 0     -- S| 16 | 13 R523 | 0
  tc10Ports : Nat := 0      -- S| 64 | 13 R523 | 0 (DESIGN CHOICE 14)
  alarmS    : Nat := 0      -- S| 32 | 13 R523 | 0 (DESIGN CHOICE 14)
deriving DecidableEq, Repr

/-- Supply settings (SUPPLY_SET, R526); stored. -/
structure SupplyCfg where
  pfwMv     : Nat := 8600   -- S| 32 | 13 R526 | 8,600
  holdupMs  : Nat := 10     -- S| 16 | 13 R526 | 10
  shed      : Bool := true  -- S| LASTGASP_SHED, 1 | 13 R526 | 1
deriving DecidableEq, Repr

/-- Settings of the power controller that commands have stored; none: the bundle's value serves (R520). -/
structure PowerStored where
  wake    : Option WakeCfg := none   -- S| WAKE_SET | 13 R523 | none stored
  supply  : Option SupplyCfg := none -- S| SUPPLY_SET | 13 R526 | none stored
  internalW : Option Nat := none     -- S| stored internal pool, W | 13 R524 | none stored
  poeW    : Option Nat := none       -- S| stored PoE pool, W | 13 R524 | none stored
deriving DecidableEq, Repr

/-- A transition that has been commanded and waits out its delay (R498, R522). -/
structure Transition where
  target : Nat             -- S| 2 | 13 R522
  cause  : Nat             -- S| 3, CAUSE of POWER_STATE | 13 R520
  due    : Nat             -- S| 64, always-on time at which DELAY_MS runs out, units of 1.6 ns | 13 R498
deriving DecidableEq, Repr

/-- The power controller. -/
structure Power where
  on        : Bool := false        -- S| the module is started | 13 R510 R514 | 0
  state     : Nat := 0             -- S| 2: Day, Dusk, Night, Dark | 13 R494 | 0 Day
  since     : Nat := 0             -- S| 64, time of the last state change | 13 R521 | 0 (DESIGN CHOICE 14)
  trans     : Option Transition := none -- S| transition in progress | 13 R521 R522 | none
  resetDue  : Option (Nat × Nat) := none -- S| a MODULE_RESET that waits out DELAY_MS: always-on time, units of 1.6 ns; delay in ms | 03 R102 | none
  duskExit  : Bool := false        -- S| a Dusk exit waits for the fabric step | 13 R502 | 0
  stored    : PowerStored := {}    -- S| stored settings | 13 R523 R526 | none stored
  wake      : WakeCfg := {}        -- S| wake settings in force | 13 R523 | defaults
  supply    : SupplyCfg := {}      -- S| supply settings in force | 13 R526 | defaults
  intTokens : Nat := 900           -- S| 16, internal pool | 13 R505 | 900
  poeDecl   : Nat := 0             -- S| declared PoE pool, W | 13 R505 | 0
  poeTokens : Nat := 0             -- S| 16, PoE pool | 13 R505 | 0
  holds     : Tab Hold := []       -- S| by requester code 0..63 | 13 R506 | none
  pfail     : Bool := false        -- S| power-fail warning in force | 13 R511 R521 | 0
  pfailAt   : Nat := 0             -- S| time it began, ns | 13 R520 | 0 (DESIGN CHOICE 14)
  pfailN    : Bool := true         -- S| PFAIL_N driven low | 19 R709 | 1 (low until the bank is charged)
  bankOk    : Bool := false        -- S| the hold-up bank has reached 47.5 V | 19 R709 | 0
  shedCodes : List Nat := []       -- S| requesters shed by the warning | 13 R511 | none
  holdupLow : Bool := false        -- S| hold-up low | 13 R521 | 0
  holdupMs  : Nat := 0             -- S| 16, hold-up estimate | 13 R521 | 0 (DESIGN CHOICE 14)
  inputMv   : Nat := 0             -- S| 32, measured | 13 R521 | 0 (DESIGN CHOICE 14)
  inputMa   : Nat := 0             -- S| 32, measured | 13 R521 | 0 (DESIGN CHOICE 14)
  loadDw    : Nat := 0             -- S| 16, measured | 13 R521 | 0 (DESIGN CHOICE 14)
  wakeDrop  : Nat := 0             -- S| 32 saturates | 13 R504 R521 | 0
  monCount  : List Nat := List.replicate 16 0 -- S| SUPPLY_MONITOR COUNT per monitor, 32 | 13 R520 | 0
  monBad    : Nat := 0             -- S| 16, monitors out of range | 13 R510 | 0
  monOver   : Nat := 0             -- S| 16, those of them that are over | 13 R520 | 0
  alarmArmed : Bool := false       -- S| RTC alarm running | 13 R500 | 0
  sleptFrom : Nat := 0             -- S| 64, always-on time of the Night or Dark entry, units of 1.6 ns | 13 R520 | 0 (DESIGN CHOICE 14)
  wakeLatch : Nat := 0             -- S| 8, wake sources latched besides the first, while a Dusk exit waits | 13 R500 | 0
  wakeFirst : Nat := 0             -- S| 3, the first of them | 13 R500 | 0
  wakeIndex : Nat := 0             -- S| 8, its port or channel | 13 R520 | 0
  uptimeWas : Nat := 0             -- S| 64, uptime before the last reset, ms | 13 R520 | 0 (DESIGN CHOICE 14)
deriving DecidableEq, Repr

end Sys2Proof
end

