-- ==== Sys2Proof/Types/Horizon.lean ====
section
/-! DEFINITION. Horizon tables, sessions and dynamic state (spec 07). -/

namespace Sys2Proof

/-- A zone (R269). -/
structure Zone where
  domain : Nat           -- S| 3 | 07 R269
  isDefault : Bool       -- S| 1, DOMAIN_DEFAULT | 07 R238 R269
deriving DecidableEq, Repr

/-- A zone-pair matrix entry (R242, R271). -/
structure PairEntry where
  policy  : Nat := 0        -- S| 0 DENY, 1 ALLOW, 2 RULES | 07 R242 | 0
  dflt    : Nat := 0        -- S| 1 | 07 R242 | 0
  first   : Nat := 0        -- S| 13 | 07 R242 | 0
  count   : Nat := 0        -- S| 14 | 07 R242 | 0
  limiter : Nat := 0xFFFF   -- S| 0..1023, 0xFFFF | 07 R242 | none
  logDeny : Bool := false   -- S| 1 | 07 R242 | 0
deriving DecidableEq, Repr

/-- A Horizon rule (R245, R246, R272). -/
structure Rule where
  action   : Nat          -- S| 0..4 | 07 R246
  mtch     : Nat          -- S| MATCH, 16 | 07 R245
  flags    : Nat          -- S| 4 (CARRIAGE, LOG, FRAG_ANY, MIDSTREAM) | 07 R272
  pcp      : Nat          -- S| 3 | 07 R272
  etherType : Nat         -- S| 16 | 07 R272
  vid      : Nat          -- S| 12 | 07 R272
  ipVer    : Nat          -- S| 4 or 6 | 07 R272
  proto    : Nat          -- S| 8 | 07 R272
  dscp     : Nat          -- S| 6 | 07 R272
  srcPfx   : Nat          -- S| 8 | 07 R272
  dstPfx   : Nat          -- S| 8 | 07 R272
  tcpFlags : Nat          -- S| 8 | 07 R272
  tcpMask  : Nat          -- S| 8 | 07 R272
  icmpType : Nat          -- S| 8 | 07 R272
  icmpCode : Nat          -- S| 8 | 07 R272
  stream   : Nat          -- S| 12 | 07 R272
  srcLo    : Nat          -- S| 16 | 07 R272
  srcHi    : Nat          -- S| 16 | 07 R272
  dstLo    : Nat          -- S| 16 | 07 R272
  dstHi    : Nat          -- S| 16 | 07 R272
  ipSrc    : List Byte    -- S| 16 bytes | 07 R272
  ipDst    : List Byte    -- S| 16 bytes | 07 R272
  kind     : Nat          -- S| 8 | 07 R272
  channel  : Nat          -- S| 8 | 07 R272
  ident    : Nat          -- S| 32 | 07 R272
  mask     : Nat          -- S| 32 | 07 R272
  profile  : Nat          -- S| 3 | 07 R272 | 0
  handler  : Nat          -- S| 2 | 07 R259 R272 | 0
deriving DecidableEq, Repr

/-- A zone-pair limiter (R257, R273). -/
structure Limiter where
  mode  : Nat      -- S| 1 | 07 R273
  rate  : Nat      -- S| 32 | 07 R273
  burst : Nat      -- S| 24 | 07 R273
  flags : Nat      -- S| 1 | 07 R273
deriving DecidableEq, Repr

/-- The Horizon epoch tables (R39, R262). -/
structure HorizonTables where
  zones    : Tab Zone := []      -- S| by zone 0..255 | 07 R238 | none
  points   : Tab Nat := []       -- S| by (128 × domain + point) × 4096 + VID (0: default), at most 4,096 | 07 R241 | none
  streams  : Tab Nat := []       -- S| stream zone by handle | 07 R241 | none
  pairs    : Tab PairEntry := [] -- S| by 256 × source + destination zone; unlisted: R242 default | 07 R242 | DENY
  rules    : Tab Rule := []      -- S| by index 0..8191 | 07 R244 | none
  limiters : Tab Limiter := []   -- S| by index 0..1023 | 07 R257 | none
deriving DecidableEq, Repr

/-- Session states (R253, R275). -/
inductive SessState where
  | tcpSyn | tcpEst | tcpClosing | udpNew | udpBidir | otherNew | otherBidir
deriving DecidableEq, Repr

/-- A session (R249, R253, R275). The tuple is the initiator's. -/
structure Sess where
  index    : Nat           -- S| 1..16383 on-die; slot in the spill store | 07 R250
  domain   : Nat           -- S| 3 | 07 R249
  ver      : Nat           -- S| 4 or 6 | 07 R249
  proto    : Nat           -- S| 8 | 07 R249
  src      : List Byte     -- S| address | 07 R249
  dst      : List Byte     -- S| address | 07 R249
  sport    : Nat           -- S| 16 | 07 R249
  dport    : Nat           -- S| 16 | 07 R249
  srcZone  : Nat           -- S| 8 | 07 R249
  dstZone  : Nat           -- S| 8 | 07 R249
  rule     : Nat           -- S| 16 | 07 R275
  profile  : Nat           -- S| 3 | 07 R249
  state    : SessState     -- S| 7 states | 07 R253
  admitted : Bool := false -- S| 1 | 07 R259
  mid      : Bool := false -- S| 1 | 07 R251
  last     : Nat           -- S| time of last hit, ns | 07 R253
  epoch    : Nat           -- S| 32, last validated | 07 R249
  frames   : Nat := 0      -- S| 64 wraps | 07 R275
deriving DecidableEq, Repr

/-- A timeout profile (R274). -/
structure Profile where
  tcpSyn   : Nat := 30     -- S| s | 07 R274 | 30
  tcpEst   : Nat := 7200   -- S| s | 07 R274 | 7,200
  tcpClose : Nat := 30     -- S| s | 07 R274 | 30
  udpNew   : Nat := 30     -- S| s | 07 R274 | 30
  udpBidir : Nat := 180    -- S| s | 07 R274 | 180
  other    : Nat := 60     -- S| s | 07 R274 | 60
deriving DecidableEq, Repr

/-- Horizon parameters (R274). -/
structure HorizonParams where
  spillEn   : Bool := true    -- S| 1 | 07 R274 | 1
  spillIdle : Nat := 5000     -- S| ms | 07 R274 | 5,000
  excRate   : Nat := 20000    -- S| frames/s | 07 R274 | 20,000
  excBurst  : Nat := 256      -- S| frames | 07 R274 | 256
  profiles  : List Profile := List.replicate 8 {} -- S| 8 profiles | 07 R274 | defaults
deriving DecidableEq, Repr

/-- A limiter's bucket (R257): tokens in 1/1,024 byte or 1/1,024 frame. -/
structure Bucket where
  tokens : Nat := 0    -- S| tokens | 07 R257 | full at the commit
  last   : Nat := 0    -- S| raw count of the last refill | 07 R257 | raw count of the commit
deriving DecidableEq, Repr

/-- A frame of the exception queue (R258): the frame, its rule and whether it is a copy. -/
structure ExcFrame where
  frame : Frame     -- S| the frame | 07 R258
  rule  : Nat       -- S| deciding rule | 07 R259
  handler : Nat     -- S| 2 | 07 R259
  copy  : Bool      -- S| made by ALLOW_COPY | 07 R259
  dst   : Nat       -- S| egress zone of the decision | 07 R259
deriving DecidableEq, Repr

/-- Dynamic Horizon state. -/
structure Horizon where
  params   : HorizonParams := {}      -- S| parameters | 07 R274 | defaults
  sessions : Tab Sess := []           -- S| on-die sessions by index 1..16383 | 07 R250 | empty
  pending  : List Sess := []          -- S| pending-insert list, at most 64 | 07 R251 R252 | empty
  spillBuf : List Sess := []          -- S| spill write buffer, at most 32 | 07 R252 | empty
  spilled  : Tab Sess := []           -- S| spill store by slot, at most 1,048,576 | 07 R255 | empty
  restore  : List Frame := []         -- S| restore queue, at most 512 | 07 R256 | empty
  buckets  : Tab Bucket := []         -- S| by limiter | 07 R257 | none
  excBucket : Bucket := { tokens := 256 * 1024, last := 0 } -- S| exception limiter | 07 R258 | full (DESIGN CHOICE 11)
  excQueue : List ExcFrame := []      -- S| exception queue, at most 2,048 | 07 R258 | empty
  excLast  : Option Nat := none       -- S| time of the last exception drop, ns | 07 R258 | none
  excOver  : Bool := false            -- S| drops began and have not ended | 07 R258 | 0
  excSince : Nat := 0                 -- S| drops since the last EXCEPTION_OVERLOAD | 07 R267 | 0
  excCause : Nat := 0                 -- S| cause of the last drop | 07 R267 | 0
  counters : Tab (List Nat) := []     -- S| by 65536 × table + index, in R266 order | 07 R266 | 0
  deleted  : List Nat := []           -- S| deleted indices still counting | 07 R262 | none
deriving DecidableEq, Repr

end Sys2Proof
end

