-- ==== Sys2Proof/Types/Ingress.lean ====
section
/-! DEFINITION. Ingress tables and their dynamic state (spec 06). -/

namespace Sys2Proof

/-- One domain-map entry: a point's default or a VID override (R219). -/
structure DomEntry where
  domain     : Nat := 0xFF    -- S| 8 | 06 R219 | 0xFF (no bundle: no domain)
  defPrio    : Nat := 0       -- S| 3 | 06 R219 | 0
  pvid       : Nat := 1       -- S| 12 | 06 R219 | 1
  accept     : Nat := 0       -- S| 2 | 06 R219 | 0
  trust      : Nat := 0       -- S| 1 | 06 R219 | 0
  flags      : Nat := 3       -- S| 2 (INGRESS_FILTER, LEARN) | 06 R219 | 0b11
  learnLimit : Nat := 65535   -- S| 16 | 06 R219 | 65,535
deriving DecidableEq, Repr

/-- Parameters of a domain (R220). -/
structure DomParams where
  flags  : Nat := 7           -- S| 3 | 06 R220 | 0b111
  agingS : Nat := 300         -- S| 32 | 06 R220 | 300
  dscp   : List Nat := (List.range 64).map (· / 8) -- S| 64 × 3 | 06 R220 | d / 8
deriving DecidableEq, Repr

/-- A VLAN of a domain: member and untagged port sets (R221). -/
structure Vlan where
  members  : Nat := 0   -- S| 64 | 06 R221
  untagged : Nat := 0   -- S| 64 | 06 R221
deriving DecidableEq, Repr

/-- A learnt FDB entry of a bucket (R193 to R196). -/
structure FdbLearnt where
  domain  : Nat         -- S| 3 | 06 R193
  vid     : Nat         -- S| 12 | 06 R193
  mac     : List Byte   -- S| 6 bytes | 06 R193
  point   : Nat         -- S| 6 | 06 R195
  stamp   : Nat         -- S| time of last refresh, ns | 06 R196
  way     : Nat         -- S| 2, slot of the bucket | 06 R193 R224
deriving DecidableEq, Repr

/-- A static FDB entry (R222). -/
structure FdbStatic where
  domain : Nat          -- S| 3 | 06 R222
  vid    : Nat          -- S| 12 | 06 R222
  mac    : List Byte    -- S| 6 bytes | 06 R222
  ports  : Nat          -- S| 64 | 06 R222
  way    : Nat          -- S| 2 | 06 R193
deriving DecidableEq, Repr

/-- A stream identification entry (R225). Type fields of other types are 0. -/
structure StreamId where
  handle  : Nat          -- S| 12 | 06 R225
  type    : Nat          -- S| 1..4 | 06 R225
  domain  : Nat          -- S| 0..7, 0xFF | 06 R225
  tagged  : Nat          -- S| 2 | 06 R225
  ports   : Nat          -- S| 64 | 06 R225
  vid     : Nat          -- S| 1..4094, 0xFFFF | 06 R225
  mac     : List Byte    -- S| 6 bytes | 06 R225
  ipVer   : Nat          -- S| 4 or 6 | 06 R225
  dscp    : Nat          -- S| 0..63, 0xFF | 06 R225
  proto   : Nat          -- S| 8 | 06 R225
  matchB  : Nat          -- S| 4 | 06 R225
  l4Dst   : Nat          -- S| 16 | 06 R225
  l4Src   : Nat          -- S| 16 | 06 R225
  ipDst   : List Byte    -- S| 16 bytes | 06 R225
  ipSrc   : List Byte    -- S| 16 bytes | 06 R225
  kind    : Nat          -- S| 4 | 06 R225
  channel : Nat          -- S| 8 | 06 R225
  ident   : Nat          -- S| 32 | 06 R225
  mask    : Nat          -- S| 32 | 06 R225
deriving DecidableEq, Repr

/-- A stream record (R226). -/
structure StreamRec where
  flags  : Nat := 0        -- S| 2 (PRIO_OVERRIDE, RTAG_OUT) | 06 R226 | 0
  prio   : Nat := 0        -- S| 3 | 06 R226 | 0
  cdest  : Nat := 0        -- S| 3, CARRIAGE_DEST | 06 R226 | 0
  gen    : Nat := 0xFFFF   -- S| 16 | 06 R226 | none
  rcvy   : Nat := 0xFFFF   -- S| 16 | 06 R226 | none
  mirror : Nat := 0xFF     -- S| 8 | 06 R226 | none
deriving DecidableEq, Repr

/-- A stream filter (R227). -/
structure Filter where
  flags  : Nat            -- S| 4 | 06 R227
  handle : Nat            -- S| 12 | 06 R227
  prio   : Nat            -- S| 3 | 06 R227
  maxSdu : Nat            -- S| 16 | 06 R227
  gate   : Nat            -- S| 0..1023, 0xFFFF | 06 R227
  meter  : Nat            -- S| 0..2047, 0xFFFF | 06 R227
deriving DecidableEq, Repr

/-- An entry of a stream gate list (R228). -/
structure GateEntry where
  interval : Nat     -- S| 32 | 06 R228
  octetMax : Nat     -- S| 24 | 06 R228
  isOpen   : Bool    -- S| 1 | 06 R228
  ipv      : Nat     -- S| 0..7, 0xFF | 06 R228
deriving DecidableEq, Repr

/-- A stream gate's configuration (R228). -/
structure Gate where
  flags     : Nat           -- S| 2 | 06 R228
  initState : Nat           -- S| 1 | 06 R228 | 1
  initIpv   : Nat           -- S| 0..7, 0xFF | 06 R228
  base      : Nat           -- S| 64 | 06 R228
  cycle     : Nat           -- S| 32, as applied | 06 R228
  entries   : List GateEntry -- S| at most 256 | 06 R201
deriving DecidableEq, Repr

/-- A flow meter's parameters (R229). -/
structure Meter where
  flags : Nat    -- S| 5 | 06 R229
  cir   : Nat    -- S| kb/s | 06 R229
  cbs   : Nat    -- S| 24 bytes | 06 R229
  eir   : Nat    -- S| kb/s | 06 R229
  ebs   : Nat    -- S| 24 bytes | 06 R229
deriving DecidableEq, Repr

/-- A sequence recovery function's parameters (R230). -/
structure Recovery where
  algo       : Nat       -- S| 1 | 06 R230 | 0
  history    : Nat       -- S| 2..64 | 06 R230 | 32
  flags      : Nat       -- S| 3 | 06 R230
  paths      : Nat       -- S| 2..8 | 06 R230 | 2
  resetMs    : Nat       -- S| 16 | 06 R230 | 1,000
  latentDiff : Nat       -- S| 16 | 06 R230 | 8
  latentMs   : Nat       -- S| 32 | 06 R230 | 2,000
deriving DecidableEq, Repr

/-- The ingress epoch tables (R39): one copy per live epoch. -/
structure IngressTables where
  domDefault : Tab DomEntry := []        -- S| by point 0..36, 64..119 | 06 R219 | none
  domOvr     : Tab DomEntry := []        -- S| by 4096 × point + VID, at most 4,096 | 06 R190 | none
  ringBind   : Tab Nat := []             -- S| TX ring → domain; unlisted: the H0 default | 04 R116 R140 | H0 default
  domParams  : Tab DomParams := []       -- S| by domain | 06 R220 | defaults
  vlans      : Tab Vlan := []            -- S| by 4096 × domain + VID | 06 R221 | none
  fdbStatic  : Tab (List FdbStatic) := [] -- S| by bucket 0..16383, at most 4 each | 06 R197 | none
  streamIds  : Tab StreamId := []        -- S| by index 0..8191 | 06 R198 | none
  streams    : Tab StreamRec := []       -- S| by handle | 06 R226 | none
  filters    : Tab Filter := []          -- S| by index 0..4095 | 06 R200 | none
  gates      : Tab Gate := []            -- S| by index 0..1023 | 06 R201 | none
  meters     : Tab Meter := []           -- S| by index 0..2047 | 06 R203 | none
  recovery   : Tab Recovery := []        -- S| by index 0..1023 | 06 R206 | none
  generation : Tab Unit := []            -- S| configured indices 0..1023 | 06 R206 | none
deriving DecidableEq, Repr

/-- A mirror session (R231). -/
structure Mirror where
  enable   : Bool := false   -- S| 1 | 06 R231 | 0
  dest     : Nat := 0        -- S| 0..33 | 06 R231 | 0 (DESIGN CHOICE 9)
  tc       : Nat := 0        -- S| 3 | 06 R231 | 0
  trunc    : Nat := 9216     -- S| 14 | 06 R231 | 9,216
  flags    : Nat := 0        -- S| 1 INCLUDE_DROPPED | 06 R231 | 0 (DESIGN CHOICE 9)
  srcPorts : Nat := 0        -- S| 64 | 06 R231 | 0 (DESIGN CHOICE 9)
deriving DecidableEq, Repr

/-- The running state of a stream gate (R201, R202). -/
structure GateRun where
  list     : Option Gate := none  -- S| operational list (none: INIT_STATE and INIT_IPV rule) | 06 R202 | none
  pending  : Option (Nat × Gate) := none -- S| operational time and list waiting for it | 06 R202 | none
  start    : Nat := 0             -- S| operational time of the list, ns | 06 R202 | 0
  index    : Nat := 0             -- S| current entry | 06 R201 | 0
  octets   : Nat := 0             -- S| octets used in the current entry | 06 R201 | 0
  latched  : Nat := 0             -- S| 0 none, 2 CLOSE_ON_INVALID, 3 CLOSE_ON_OCTETS | 06 R201 R217 | 0
deriving DecidableEq, Repr

/-- A meter's buckets (R203), in 1/1,024 byte. -/
structure MeterRun where
  tc     : Nat := 0        -- S| committed bucket | 06 R203 | full at the commit (R214)
  te     : Nat := 0        -- S| excess bucket | 06 R203 | full at the commit (R214)
  last   : Nat := 0        -- S| raw count of the last refill | 06 R203 | raw count of the commit
  allRed : Bool := false   -- S| mark_all_red | 06 R203 | 0
deriving DecidableEq, Repr

/-- A recovery function's history (R206, R208). -/
structure RecoveryRun where
  takeAny   : Bool := true      -- S| next frame accepted whatever its number | 06 R206 | 1
  lastSeq   : Nat := 0          -- S| 16, last number accepted | 06 R206 R217 | 0 (DESIGN CHOICE 9)
  history   : List Bool := []   -- S| history bits, newest first | 06 R206 | empty
  lastPass  : Nat := 0          -- S| time a frame last passed, ns | 06 R206 | 0 (DESIGN CHOICE 9)
  perPassed : Nat := 0          -- S| passed in the latent period | 06 R208 | 0
  perDup    : Nat := 0          -- S| duplicates in the latent period | 06 R208 | 0
deriving DecidableEq, Repr

/-- Sampled-event bookkeeping per (type, source) (R217). -/
structure Sample where
  last  : Option Nat := none   -- S| time of the last occurrence that raised the event, ns | 06 R217 | none
  count : Nat := 0             -- S| occurrences since that event | 06 R217 | 0
deriving DecidableEq, Repr

/-- Dynamic ingress state, shared by the live epochs (R214). -/
structure Ingress where
  learnt     : Tab (List FdbLearnt) := [] -- S| by bucket, statics and learnt at most 4 together | 06 R193 | empty
  blocked    : List Nat := []             -- S| blocked filters | 06 R200 | none
  gates      : Tab GateRun := []          -- S| by gate | 06 R201 | none
  meters     : Tab MeterRun := []         -- S| by meter | 06 R203 | none
  recovery   : Tab RecoveryRun := []      -- S| by recovery function | 06 R206 | none
  nextSeq    : Tab Nat := []              -- S| by generation function, 16 wraps | 06 R206 | 0
  counters   : Tab (List Nat) := []       -- S| by 65536 × table + index, values in R216 order | 06 R216 | 0
  deleted    : List Nat := []             -- S| deleted indices (65536 × table + index) still counting | 06 R215 | none
  mirrors    : List Mirror := List.replicate 4 {} -- S| 4 mirror sessions | 06 R231 | ENABLE 0
  samples    : Tab Sample := []           -- S| by 65536 × type + source | 06 R217 | none
deriving DecidableEq, Repr

end Sys2Proof
end

