-- ==== Sys2Proof/Types/Tables.lean ====
section
/-! DEFINITION. The epoch tables of R39 as one value, the epochs, and what the configuration bundle sets. -/

namespace Sys2Proof

/-- Every epoch table (R39). -/
structure EpochTables where
  ing : IngressTables := {}   -- S| ingress tables | 01 R39, 06 | empty
  hor : HorizonTables := {}   -- S| Horizon tables | 01 R39, 07 | empty
  gw  : GwTables := {}        -- S| gateway tables | 01 R39, 12 | empty
deriving DecidableEq, Repr

/-- The epochs (R213, R314 to R318): the current tables, the older live epoch's tables and the in-flight counts. -/
structure Epochs where
  cur     : EpochTables := {}      -- S| tables of the current epoch | 08 R314 | none (no bundle)
  old     : EpochTables := {}      -- S| tables of the older live epoch | 08 R314 | none
  epoch   : Nat := 0               -- S| DEV_EPOCH.EPOCH, 32 wraps | 02 R52 | 0
  draining : Bool := false         -- S| DEV_STATUS.EPOCH_DRAINING: two epochs are live | 02 R52 | 0
  inCur   : Nat := 0               -- S| in-flight count of the current epoch | 08 R315 | 0
  inOld   : Nat := 0               -- S| in-flight count of the older epoch | 08 R315 | 0
  commitAt : Nat := 0              -- S| time of the last commit, ns | 08 R323 | 0
  oldDiscards : Nat := 0           -- S| frames of the older epoch discarded at the residency limit | 08 R323 | 0
  sweep   : Option Nat := none     -- S| next session of a running revocation sweep | 07 R264 | none
deriving DecidableEq, Repr

end Sys2Proof
end

