-- ==== Sys2Proof/Types/Time.lean ====
section
/-! DEFINITION. Meridian time and gPTP (spec 10). -/

namespace Sys2Proof

/-- Parameters of Meridian (TIME_PARAMS_SET, R398). -/
structure TimeParams where
  selfRef   : Bool := true       -- S| 1 | 10 R398 | 1
  preferred : Nat := 0           -- S| 1 | 10 R398 | 0
  revertS   : Nat := 10          -- S| 16 | 10 R398 | 10
  stepLimit : Nat := 1000000     -- S| 32, ns | 10 R398 | 1,000,000
  holdDrift : Nat := 100         -- S| 32, ppb | 10 R398 | 100
  nightDrift : Nat := 20000      -- S| 32, ppb | 10 R398 | 20,000
  maxSlew   : Nat := 50000       -- S| 32, ppb | 10 R398 | 50,000
deriving DecidableEq, Repr

/-- Parameters of a gPTP instance (R377, R399). -/
structure GptpCfg where
  enable   : Bool := false       -- S| 1 | 10 R377 | 1 for instance 0, 0 for instance 1
  domainNo : Nat := 0            -- S| 7 | 10 R377 | 0, 20
  prio1    : Nat := 246          -- S| 8 | 10 R377 | 246
  prio2    : Nat := 248          -- S| 8 | 10 R377 | 248
  flags    : Nat := 0            -- S| 1 EXTERNAL_PORT_CONFIG | 10 R399 | 0 (DESIGN CHOICE 17)
  logSync  : Int := -3           -- S| signed 8 | 10 R377 | −3
  logAnn   : Int := 0            -- S| signed 8 | 10 R377 | 0
  logPdelay : Int := 0           -- S| signed 8 | 10 R377 | 0
  syncTo   : Nat := 3            -- S| 8 | 10 R377 | 3
  annTo    : Nat := 3            -- S| 8 | 10 R377 | 3
  thresh   : Nat := 800          -- S| ns | 10 R377 | 800
  ports    : Nat := 0xF          -- S| 28, port set | 10 R377 | BB0–BB3
  slave    : Nat := 0xFF         -- S| 8, SLAVE_PORT | 10 R399 | 0xFF (DESIGN CHOICE 17)
deriving DecidableEq, Repr

/-- The system identity part of an Announce (IEEE 802.1AS), as received. -/
structure Announce where
  prio1    : Nat         -- S| 8 | 10 R376
  cls      : Nat         -- S| clockClass, 8 | 10 R377
  acc      : Nat         -- S| clockAccuracy, 8 | 10 R377
  variance : Nat         -- S| 16 | 10 R377
  prio2    : Nat         -- S| 8 | 10 R376
  gm       : Nat         -- S| clockIdentity, 64 | 10 R396
  steps    : Nat         -- S| stepsRemoved, 16 | 10 R397
  sender   : Nat         -- S| sourcePortIdentity, 80 | 10 R376
  utc      : Nat := 0    -- S| currentUtcOffset, 16 | 10 R397
deriving DecidableEq, Repr

/-- A port of an instance (R395, R401). -/
structure GptpPort where
  role     : Nat := 0                 -- S| 2: disabled, master, slave, passive | 10 R401 | 0 (DESIGN CHOICE 17)
  ann      : Option Announce := none  -- S| best Announce held | 10 R376 | none
  receiptTo : Bool := false           -- S| a receipt timeout has expired and not been cleared | 10 R380 | 0
  counters : List Nat := List.replicate 7 0 -- S| SYNC_RX, FOLLOW_UP_RX, ANNOUNCE_RX, SYNC_TX, RX_DISCARD, SYNC_/ANNOUNCE_RECEIPT_TIMEOUTS, 32 wrap | 10 R395 | 0
deriving DecidableEq, Repr

/-- The running state of an instance. -/
structure GptpRun where
  ports    : List GptpPort := List.replicate 28 {} -- S| ports 0..27 | 10 R376 | reset values
  isGm     : Bool := false            -- S| the device is grandmaster | 10 R397 | 0 (DESIGN CHOICE 17)
  slave    : Option Nat := none       -- S| slave port | 10 R380 | none
  gm       : Option Announce := none  -- S| grandmaster's Announce | 10 R396 | none
  syncs    : Nat := 0                 -- S| consecutive Syncs on the slave port, up to 4 | 10 R381 | 0
  valid    : Option Int := none       -- S| latest valid offset, ns | 10 R381 R400 | none
  ratio    : Int := 0                 -- S| latest measured rate ratio − 1, 2⁻⁴⁴ | 10 R382 | 0
  gmReport : Bool := false            -- S| a GM_CHANGE has been raised for this grandmaster | 10 R396 | 0
deriving DecidableEq, Repr

/-- The Common Mean Link Delay Service of a port (R376, R395, R401). -/
structure LinkDelay where
  capable  : Bool := false            -- S| asCapable | 10 R401 | 0
  oneStep  : Bool := false            -- S| neighbour sends one-step Sync | 10 R401 | 0
  meanPs   : Option Nat := none       -- S| mean link delay | 10 R381 R401 | none
  nrr      : Int := 0                 -- S| neighborRateRatio − 1, 2⁻⁴⁴ | 10 R401 | 0
  waiting  : Bool := false            -- S| a Pdelay_Req awaits its response | 10 R395 | 0
  lostRun  : Nat := 0                 -- S| consecutive Pdelay_Req without response | 10 R395 | 0
  counters : List Nat := List.replicate 3 0 -- S| PDELAY_REQ_TX, PDELAY_RESP_RX, PDELAY_LOST, 32 wrap | 10 R395 | 0
deriving DecidableEq, Repr

/-- Time settings that a start loads from the bundle. -/
structure TimeSettings where
  params : TimeParams := {}           -- S| parameters | 10 R398 | defaults
  inst   : List GptpCfg := [{ enable := true }, { domainNo := 20 }] -- S| instances 0 and 1 | 10 R377 | defaults
deriving DecidableEq, Repr

/-- Meridian and gPTP. -/
structure Time where
  raw      : Nat := 0                 -- S| RAW, 64 wraps | 10 R371 | 0
  rawA     : Nat := 0                 -- S| raw count of the anchor, 64 | 10 R372 | 0
  tA       : Nat := 0                 -- S| time of the anchor, 2⁻⁴⁸ ns | 10 R372 | 0
  rate     : Int := 0                 -- S| RATE, signed 32, 2⁻⁴⁴ | 10 R373 | 0
  sync     : Nat := 0                 -- S| 2, synchronisation state | 10 R375 | 0 NEVER
  cfg      : TimeSettings := {}       -- S| settings in force | 10 R398 | defaults
  run      : List GptpRun := [{}, {}] -- S| instances 0 and 1 | 10 R376 | reset values
  links    : List LinkDelay := List.replicate 28 {} -- S| ports 0..27 | 10 R376 | reset values
  steering : Nat := 0                 -- S| steering instance | 10 R380 | 0 (DESIGN CHOICE 17)
  away     : Bool := false            -- S| steering has switched away from the preferred instance | 10 R380 | 0
  awayAt   : Option Nat := none       -- S| raw count since which the preferred instance has qualified again | 10 R380 | none
  slewLim  : Bool := false            -- S| slew at its limit | 10 R382 | 0
  offset   : Int := 0                 -- S| last measured offset, ns | 10 R397 | 0
  offsets  : List Nat := []           -- S| absolute offsets of the last 16 Sync intervals, ns | 10 R383 | empty
  lastUpd  : Nat := 0                 -- S| raw count of the last steering update | 10 R384 | 0
  errU     : Nat := 0                 -- S| E in 2·10⁻¹⁰ ns | 10 R386 | 0
  evalRaw  : Nat := 0                 -- S| raw count of the last evaluation of E | 10 R386 | 0
  calib    : Int := 0                 -- S| crystal calibration C, 2⁻³² | 10 R393 | 0 (DESIGN CHOICE 17)
  rawFrac  : Nat := 0                 -- S| fraction of RAW carried across Nights, 2⁻⁴¹ | 10 R393 | 0
  aon      : Nat := 0                 -- S| always-on clock, units of 1.6 ns | 05 R153 | 0 (DESIGN CHOICE 17)
deriving DecidableEq, Repr

end Sys2Proof
end

