-- ==== Sys2Proof/Types/Bundle.lean ====
section
/-! DEFINITION. What a configuration bundle sets (R30, R31, R518): the tables and running settings that every start loads from the stored
bundle. How Fuzar encodes them is not in the spec (assumption 35). -/

namespace Sys2Proof

/-- The tables and settings of a configuration bundle. -/
structure BundleCfg where
  tables   : EpochTables := {}       -- S| epoch tables | 13 R518 | empty
  carve    : Nat := 0xF              -- S| 8, domains of the carve | 01 R22 | D0–D3
  ports    : PortSettings := {}      -- S| port settings | 13 R518 | defaults
  egr      : EgressSettings := {}    -- S| egress settings | 13 R518 | defaults
  time     : TimeSettings := {}      -- S| time settings | 13 R518 | defaults
  leg      : LegacySettings := {}    -- S| channel settings | 13 R518 | defaults
  gw       : GwSettings := {}        -- S| gateway settings | 13 R518 | defaults
  pair     : PairSettings := {}      -- S| pair and consist settings | 13 R518 | defaults
  keys     : MacSettings := {}       -- S| MACsec and MKA settings | 13 R518 | defaults
  horizon  : HorizonParams := {}     -- S| Horizon parameters | 07 R274 | defaults
  mirrors  : List Mirror := List.replicate 4 {} -- S| mirror sessions | 06 R231 | off
  wide     : List (Option Nat) := List.replicate 16 none -- S| wide-stream entries | 08 R327 | none
  cutThrough : Nat := 2 ^ 34 - 1     -- S| 34 | 08 R328 | bits 0 to 33
  bar2     : Bool := false           -- S| permits the BAR2 mirror | 02 R52 | 0
  internalW : Nat := 45              -- S| internal pool, W | 13 R505 | 45
  poeW     : Nat := 0                -- S| PoE pool declared by the carrier, W | 13 R505 | 0
  wake     : WakeCfg := {}           -- S| wake settings | 13 R523 | defaults
  supply   : SupplyCfg := {}         -- S| supply settings | 13 R526 | defaults
  remotePort : Nat := 9600           -- S| TCP port of the remote sessions | 03 R91 | 9600
  idleS    : Nat := 300              -- S| idle limit of a remote session, s | 03 R93 | 300
  spdmPort : Nat := 9601             -- S| TCP port of SPDM | 15 R591 | 9601
deriving DecidableEq, Repr

end Sys2Proof
end

