-- ==== Sys2Proof/Types/Boot.lean ====
section
/-! DEFINITION. Measurement registers and log, boot state, attestation and SPDM (spec 15). -/

namespace Sys2Proof

/-- A record of the measurement log (R579). -/
structure MeasRec where
  seq    : Nat             -- S| 32 | 15 R579
  mreg   : Nat             -- S| 8 | 15 R579
  kind   : Nat             -- S| 8 | 15 R579 R580
  flags  : Nat             -- S| 16 | 15 R579
  time   : Nat             -- S| 64 | 15 R579
  digest : List Byte       -- S| 48 bytes | 15 R579
  data   : List Byte       -- S| 48 bytes | 15 R579 R580
deriving DecidableEq, Repr

/-- An SPDM request (R589): the requests the device serves, and any other by its code. -/
inductive SpdmReq where
  | getVersion
  | getCapabilities
  | negotiate (suits : Bool)
  | getDigests
  | getCertificate (slot offset len : Nat)
  | challenge (slot : Nat) (nonce : List Byte)
  | getMeasurements (index : Nat) (signed : Bool) (slot : Nat) (nonce : List Byte)
  | other (code : Nat)
deriving DecidableEq, Repr

/-- An SPDM response (R589, R590). ERROR codes are those of DMTF SPDM 1.2 (PRESUMED, assumption 33). -/
inductive SpdmRsp where
  | version
  | capabilities (flags ctExponent : Nat)
  | algorithms
  | digests (mask : Nat) (digests : List (List Byte))
  | certificate (slot : Nat) (part : List Byte) (remainder : Nat)
  | challengeAuth (slot : Nat) (nonce signature : List Byte)
  | measurements (blocks : List (Nat × List Byte)) (count : Nat) (nonce signature : List Byte)
  | error (code : Nat)
deriving DecidableEq, Repr

/-- The state of one SPDM connection (R591): how far it is negotiated, and the last response sent. -/
structure SpdmConn where
  phase : Nat := 0               -- S| 2: none, version, capabilities, algorithms | 15 R589 R591 | 0
  last  : Option SpdmRsp := none -- S| last response sent (the model's own record of its output) | 15 R589 | none
deriving DecidableEq, Repr

/-- A request waiting for its signature (R587, R592). Transport 0 is the mailbox. -/
structure Signing where
  transport : Nat              -- S| 2 | 15 R593
  conn   : Nat := 0            -- S| TCP connection | 15 R591
  src    : Nat := 0            -- S| command source of ATTEST_GET | 15 R598
  kind   : Nat                 -- S| 0 report or measurements, 1 challenge | 15 R594
  slot   : Nat := 0            -- S| certificate slot | 15 R588
  mask   : Nat                 -- S| 32 | 15 R586
  nonce  : List Byte           -- S| 32 bytes | 15 R586
  body   : List Byte           -- S| the bytes of the snapshot to be signed | 15 R587
  blocks : List (Nat × List Byte) := [] -- S| measurement blocks of the snapshot | 15 R590
deriving DecidableEq, Repr

/-- A TCP connection event at the SPDM port (R591). -/
inductive TcpEvent where
  | opened
  | closed (conn : Nat)
deriving DecidableEq, Repr

/-- What a measured boot meets (R582, R583): per loader copy whether it reads well (its hash and signature), the unit that fails at stage
5, per bundle generation whether it reads well, the comparator tests that fail (R607: bits 0 to 8 CP0 groups, bits 16 to 24 CP1 groups),
log blocks found bad (R624), and the end of each stage in ms from reset. -/
structure BootInput where
  loaderOk   : List Bool := [true, true]
  unitBad    : Option Nat := none
  bundleOk   : List Bool := [true, true]
  testFail   : Nat := 0
  badBlocks  : List Nat := []
  stageMs    : List Nat := [1, 3, 40, 140, 340, 440, 520]
deriving DecidableEq, Repr, Inhabited

/-- What a state exit meets (R503, R519, R578): the boots of a reset or a Dark exit, whether the code copies in LPDDR match their digests, and
the witnesses of a Night (bit 0 self-refresh, bit 1 supply monitor). -/
structure ExitInput where
  boots   : List BootInput := []
  copyOk  : Bool := true
  witness : Nat := 0
deriving DecidableEq, Repr

/-- Boot and attestation state. -/
structure Boot where
  mregs     : List (List Byte) := List.replicate 24 (List.replicate 48 0) -- S| MREG0–MREG23, 384 each | 15 R576 | 0 at measured boot
  log       : List MeasRec := []         -- S| at most 16,384 records | 15 R579 | empty
  logFull   : Bool := false              -- S| a device record found the log full | 15 R581 | 0
  bootCount : Nat := 0                   -- S| 32, island non-volatile | 15 R586 | 0 (DESIGN CHOICE 33: a new module)
  resumeCount : Nat := 0                 -- S| 32 | 15 R585 | 0
  stageMs   : List Nat := List.replicate 7 0 -- S| 7 × 32 | 15 R599 | 0
  copy      : Nat := 0                   -- S| 8, loader copy used | 15 R599 | 0
  attempt   : Nat := 0                   -- S| 8 | 15 R599 | 0
  reason    : Nat := 0                   -- S| 2, QUARANTINE REASON | 15 R594 | 0
  stopped   : Bool := false              -- S| the boot ROM has stopped: both loader copies failed | 15 R583 | 0
  chain1    : List Byte := []            -- S| certificate chain of slot 1 (flash) | 15 R588 | empty
  spdmFlags : Nat := 7                   -- S| 3 | 15 R602 | 0b111
  tcpPort   : Nat := 9601                -- S| 16 | 15 R602 | 9601
  pcie      : SpdmConn := {}             -- S| connection state over PCIe | 15 R591 | none
  p0        : SpdmConn := {}             -- S| connection state over P0 | 15 R591 | none
  tcp       : List (Option SpdmConn) := List.replicate 4 none -- S| at most 4 connections | 15 R591 | none
  eid       : Nat := 0                   -- S| 8, MCTP endpoint ID | 15 R591 | 0 (PRESUMED 33: DSP0236 unassigned)
  mctpOut   : List Byte := []            -- S| last MCTP control response (the model's own record of its output) | 15 R591 | none
  signings  : List Signing := []         -- S| at most 8, in order of arrival | 15 R592 | empty
  counters  : List (List Nat) := List.replicate 4 (List.replicate 5 0) -- S| per transport 5 × 32 saturate | 15 R593 | 0
  digests   : Tab (List Byte) := []      -- S| 384 per unit, the digest last extended | 15 R578 | none
  bundleDigest : List Byte := List.replicate 48 0 -- S| 384 | 15 R586 | 0
  spdmSet   : Bool := false              -- S| SPDM_SET has stored its settings | 15 R602 | 0
  bundle    : BundleCfg := { carve := 8 } -- S| the running bundle's settings that nothing else holds; factory defaults without one | 15 R583 | factory defaults
  loaderVer : Nat := 0                   -- S| 32, LOADER_VER | 03 R99 | 0
  unitVer   : List Nat := List.replicate 9 0 -- S| versions of the running units 1 to 8, 32 each | 03 R99 | 0
  bootMs    : Nat := 0                   -- S| BOOT_MS of the last start | 13 R520 | 0
  bundleGen : Nat := 0                   -- S| 32, generation of the bundle in force | 15 R580 | 0
deriving DecidableEq, Repr

end Sys2Proof
end

