-- ==== Sys2Proof/Types/Fabric.lean ====
section
/-! DEFINITION. The fabric, the output buffer and overflow mode (spec 08). -/

namespace Sys2Proof

/-- Settings of FABRIC_START_SET (R325). -/
structure FabricStart where
  counts   : List Nat := [16384, 8192, 4096, 2688, 1024, 384] -- S| buffers of P0..P5 | 08 R304 R325 | as shipped
  hashSeed : Nat := 0xFFFFFFFF   -- S| 32 | 08 R284 R325 | 0xFFFF_FFFF
  zenithReserve : Nat := 256     -- S| 16 | 08 R307 R325 | 256
  overflowMib : Nat := 256       -- S| 16 | 08 R314 R325 | 256
deriving DecidableEq, Repr

/-- A buffer pool (R304 to R308, R322). -/
structure Pool where
  free     : Nat := 0     -- S| free buffers | 08 R306 | its count
  lowWater : Nat := 0     -- S| 32 | 08 R322 | its count (DESIGN CHOICE 13)
  retired  : Nat := 0     -- S| 32 | 08 R308 | 0
  allocs   : Nat := 0     -- S| 64 wraps | 08 R322 | 0
  fallbackIn : Nat := 0   -- S| 32 saturates | 08 R322 | 0
  emptied  : Nat := 0     -- S| 32 saturates | 08 R322 | 0
  exhaustedAt : Option Nat := none -- S| time of the last POOL_EXHAUSTED, ns | 08 R305 | none
  fallbackOut : Nat := 0  -- S| fallbacks out of the pool since that event | 08 R323 | 0
  dropsSince : Nat := 0   -- S| NO_BUFFER_DROP since that event | 08 R323 | 0
deriving DecidableEq, Repr

/-- One wide-stream entry (R291, R293) and its resequencer (R292). -/
structure WideEntry where
  handle   : Option Nat := none            -- S| 12 | 08 R291 | none
  pending  : Option (Option Nat) := none   -- S| a change waiting for the frame boundary | 08 R293 | none
  nextSeq  : Nat := 0                      -- S| 8, WSEQ of the next cell cut | 08 R281 R291 | 0
  expected : Nat := 0                      -- S| 8, WSEQ expected at the output | 08 R292 | 0
  heldFrames : List Nat := []              -- S| frames held back at the input by a pending change | 08 R293 | empty
deriving DecidableEq, Repr

/-- A cell (R280, R281). -/
structure Cell where
  frame  : Nat            -- S| FTAG and IN: the frame it belongs to | 08 R281
  idx    : Nat            -- S| its place in the frame | 08 R280
  last   : Bool           -- S| 1 | 08 R281
  bad    : Bool := false  -- S| 1 | 08 R281
  wseq   : Nat := 0       -- S| 8 | 08 R281
  wide   : Option Nat := none -- S| wide entry | 08 R281
  inp    : Nat            -- S| 4, IN | 08 R281
  out    : Nat            -- S| 4, OUT | 08 R281
  zenith : Bool           -- S| 1 | 08 R281
  again  : Bool := false  -- S| 1: the cell is a resent one | 08 R295
deriving DecidableEq, Repr

/-- A link of the fabric: sender to receiver of one stage (R294). -/
structure Link where
  lost     : List Cell := []  -- S| rejected cell and those sent after it | 08 R294 | empty
  resend   : List Cell := []  -- S| cells to resend first, in order | 08 R294 | empty
  lseq     : Nat := 0         -- S| 8, link sequence number | 08 R281 | 0
deriving DecidableEq, Repr

/-- An ECC outcome met at the output buffer (R308). -/
inductive EccHit where
  | clean | corrected | data | descriptor | pointer
deriving DecidableEq, Repr

/-- How far a copy has come (R309). -/
inductive CopyState where
  | queued | started | finished
deriving DecidableEq, Repr

/-- One copy of a frame's replication list (R309). -/
structure Copy where
  point   : Nat              -- S| 6 | 08 R309
  tc      : Nat              -- S| 3 | 09 R332
  state   : CopyState        -- S| queued, started, finished | 08 R309
  charge  : Nat := 0         -- S| bytes charged to its class | 09 R335
  cut     : Bool := false    -- S| leaves by cut-through | 08 R301
  missed  : Bool := false    -- S| held for the next window | 09 R345
deriving DecidableEq, Repr

/-- A frame between stage 7 and the end of its last copy. -/
structure Transit where
  frame   : Frame            -- S| the frame with its stamps | 08 R280
  len     : Nat              -- S| LEN, FCS included | 08 R300
  input   : Nat              -- S| 4 | 08 R281
  middle  : Nat              -- S| 4 | 08 R284
  wide    : Option Nat := none -- S| wide entry | 08 R291
  out     : Nat              -- S| 4, carrier output | 08 R286
  cells   : Nat              -- S| cells of the frame | 08 R280
  cutCells : Nat := 0        -- S| cells cut so far | 08 R287
  arrived : Nat := 0         -- S| cells stored at the output | 08 R296
  admitted : Bool := false   -- S| buffer taken and copies queued | 08 R305
  stored   : Bool := false    -- S| last cell stored | 08 R301
  pool    : Option Nat := none -- S| 3, pool of its buffer | 08 R305
  bad     : Option Nat := none -- S| cause of R302, known at the output | 08 R302
  inBad   : Option Nat := none -- S| cause found at the ingress, not yet at the output | 08 R302
  fifo    : Bool := false    -- S| held in the receive FIFO until its end arrives | 08 R300
  retire  : Bool := false    -- S| its buffer is retired at release | 08 R308
  earlyCut : Bool := false   -- S| cut before its end arrived | 08 R301
  copies  : List Copy := []  -- S| replication list | 08 R309
  owner   : Nat := 0         -- S| index of the release owner | 08 R309
  counted : Bool := true     -- S| still in its epoch's in-flight count | 08 R318
  lastCell : Nat := 0        -- S| time of its last cell, ns | 08 R296
deriving DecidableEq, Repr

/-- The fabric and the output buffer. -/
structure Fabric where
  stored   : FabricStart := {}       -- S| stored start settings | 08 R325 | as shipped
  start    : FabricStart := {}       -- S| start settings in force | 08 R325 | as shipped
  pools    : List Pool := [16384, 8192, 4096, 2688, 1024, 384].map fun n => { free := n, lowWater := n } -- S| P0..P5 | 08 R304 | all free
  mode     : Nat := 1                -- S| 2: 0 NORMAL, 1 START_UP, 2 TEST, 3 RECOVERY | 08 R312 | 1
  overflowEn : Bool := true          -- S| 1 | 08 R326 | 1
  modeLimitS : Nat := 60             -- S| 16 | 08 R326 | 60
  modeSince : Option Nat := none     -- S| uptime in raw counts at which the limit of mode 1 or 3 began to run | 08 R312 R324 R326 | none
  overflow : Bool := false           -- S| DEV_STATUS.OVERFLOW, overflow mode active | 08 R313 | 0
  region   : List Nat := []          -- S| frames in the overflow region | 08 R314 | empty
  spilledSince : Nat := 0            -- S| frames written to the region while active | 08 R323 | 0
  wide     : List WideEntry := List.replicate 16 {} -- S| 16 wide-stream entries | 08 R291 | none
  cutThrough : Nat := 2 ^ 34 - 1     -- S| 34, egress points with CUT_THROUGH | 08 R328 | bits 0 to 33
  staging  : Tab (List Cell) := []   -- S| by ((input × 16 + middle) × 16 + output) × 2 + class | 08 R285 | empty
  middles  : Tab (List Cell) := []   -- S| by (middle × 16 + output) × 2 + class | 08 R288 | empty
  links    : Tab Link := []          -- S| by (stage × 16 + sender) × 16 + receiver | 08 R294 | empty
  reseq    : Tab (List Cell) := []   -- S| by wide entry, at most 64 held cells | 08 R292 | empty
  rr       : Tab Nat := []           -- S| round-robin position per (input, middle) | 08 R289 | 0
  transit  : Tab Transit := []       -- S| frames by id | 08 R280 | none
  nextId   : Nat := 1                -- S| next frame id (the model's own) | 08 R281 | 1 (DESIGN CHOICE 13)
  recirc   : List Frame := []        -- S| recirculation input FP15 | 01 R24, 08 R318 | empty
  counters : Tab (List Nat) := []    -- S| by 65536 × table + index, R322 order | 08 R322 | 0
  replaySupp : Nat := 0              -- S| REPLAY_FAIL events suppressed | 08 R323 | 0
  replayAt : Nat := 0                -- S| second of the REPLAY_FAIL rate limit, ns | 08 R323 | 0
  replayN  : Nat := 0                -- S| REPLAY_FAIL events raised in that second | 08 R323 | 0
  eccSince : Nat := 0                -- S| single-bit corrections since the previous BUFFER_ECC | 08 R323 | 0
deriving DecidableEq, Repr

end Sys2Proof
end

