-- ==== Sys2Proof/Types/Events.lean ====
section
/-! DEFINITION. Event records and event queues (spec 04, R104 to R115; registers R59). -/

namespace Sys2Proof

/-- An event as it is raised (R104), before a queue gives it `SEQ` and `PHASE`. -/
structure EvRec where
  type    : Nat            -- S| 8 | 04 R104
  sev     : Nat            -- S| 3 | 04 R105
  level   : Nat            -- S| 4 | 00 R3
  source  : Nat            -- S| 16 | 04 R106
  time    : Nat            -- S| 64 | 04 R104
  payload : List Byte      -- S| 16 bytes | 04 R104
deriving DecidableEq, Repr

/-- One event queue EQn: the registers of R59 and the write engine of R107 to R114. -/
structure EvQueue where
  base     : Nat := 0        -- S| IOVA[47:12], 36 | 02 R59 | 0
  log2     : Nat := 6        -- S| 5 (6..16) | 02 R59 | 6
  head     : Nat := 0        -- S| 16 | 02 R59 | 0
  tail     : Nat := 0        -- S| 16 | 02 R59 | 0
  en       : Bool := false   -- S| 1 | 02 R59 | 0
  irqEn    : Bool := false   -- S| 1 | 02 R59 | 0
  vec      : Nat := 0        -- S| 6 | 02 R59 | n
  ctx      : Nat := 0        -- S| 6 | 02 R59 | 0
  coalCnt  : Nat := 1        -- S| 8 | 02 R59 | 1
  coalUs   : Nat := 0        -- S| 16 | 02 R59 | 0
  overflow : Bool := false   -- S| 1 | 02 R59 | 0
  fault    : Bool := false   -- S| 1 | 02 R59 | 0
  lost     : Nat := 0        -- S| 16 saturates | 02 R59 | 0
  seq      : Nat := 0        -- S| 32 wraps | 04 R107 R108 | 0 (DESIGN CHOICE 6: set to 0 at EN)
  phase    : Bool := true    -- S| 1 | 04 R107 | 1 (DESIGN CHOICE 6: set to 1 at EN)
  unsig    : Nat := 0        -- S| 16 | 04 R111 | 0
  times    : List Nat := []  -- S| raw counts at which the latest records were written, those unconsumed or unsignalled among them, oldest first | 04 R111 | empty
  lossRun  : Bool := false   -- S| 1, an EQ_OVERFLOW record was written for the present run of losses | 04 R110 | 0
  toWrite  : List (Nat × EvRec) := [] -- S| delivered (SEQ, record), not yet written | 04 R107 R108 R113 | empty
  held     : List (Nat × EvRec) := []  -- S| at most 16 (SEQ, record) | 02 R731 | empty
  heldLost : Option (Nat × Nat) := none -- S| first SEQ lost in D3hot and its time, ns | 02 R731 | none
deriving DecidableEq, Repr

/-- One entry of the event routing table (R112, R139). -/
structure Route where
  queue  : Nat := 0   -- S| 8 (0..3 or 0xFF) | 04 R139 | 0
  minSev : Nat := 0   -- S| 3 | 04 R139 | 0
deriving DecidableEq, Repr

end Sys2Proof
end

