-- ==== Sys2Proof/Types/Host.lean ====
section
/-! DEFINITION. The host link H0: identity and status registers, MSI-X, performance and bandwidth registers,
DMA rings and the ATU (spec 02 and 04). -/

namespace Sys2Proof

/-- One entry of the MSI-X table in BAR4 (R44, R45). -/
structure MsixEntry where
  addr : Nat := 0        -- S| 64 | 02 R44 | DESIGN CHOICE 0 (8)
  data : Nat := 0        -- S| 32 | 02 R44 | DESIGN CHOICE 0 (8)
  mask : Bool := true    -- S| 1 | 02 R45 R65 | PRESUMED 1, masked (PCIe) (8)
deriving DecidableEq, Repr

/-- One performance counter and its selection (R57). -/
structure PerfCnt where
  event : Nat := 0       -- S| 10 | 02 R57 | 0
  en    : Bool := false  -- S| 1 | 02 R57 | 0
  chain : Bool := false  -- S| 1 | 02 R57 | 0
  count : Nat := 0       -- S| 32 wraps | 02 R57 | 0
deriving DecidableEq, Repr

/-- Bytes and frames of a bandwidth window (R57, R640). -/
structure BwFig where
  bytes  : Nat := 0   -- S| 64 | 02 R57 | 0
  frames : Nat := 0   -- S| 32 | 02 R57 | 0
deriving DecidableEq, Repr

/-- Per-port bandwidth: the window in progress and the last complete one (R57, R640). -/
structure BwPort where
  nowIn   : BwFig := {}   -- S| ingress, running window | 02 R57 | 0
  nowOut  : BwFig := {}   -- S| egress, running window | 02 R57 | 0
  lastIn  : BwFig := {}   -- S| ingress, last window | 16 R640 | 0
  lastOut : BwFig := {}   -- S| egress, last window | 16 R640 | 0
deriving DecidableEq, Repr

/-- Registers and link state of H0 outside the rings, queues and ATU (R41 to R69). -/
structure HostLink where
  fwVer      : Nat := 0          -- S| FW_VER, 24 | 02 R52 | 0
  ready      : Bool := false     -- S| DEV_STATUS.READY, 1 | 02 R52 | 0
  bundleOk   : Bool := false     -- S| DEV_STATUS.BUNDLE_OK, 1 | 02 R52 | 0
  resetCause : Nat := 1          -- S| RESET_CAUSE, 10, W1C | 02 R52 | none given: COLD set (DESIGN CHOICE 5)
  bar2Permit : Bool := false     -- S| CAPS.BAR2_PERMIT, 1 | 02 R52 | 0
  bar2En     : Bool := false     -- S| HOST_CTRL.BAR2_EN, 1 | 02 R52 | 0
  merHi      : Nat := 0          -- S| latch of MER_TIME_HI, 32 | 02 R50 R56 | DESIGN CHOICE 0 (8)
  merRawLo   : Nat := 0          -- S| latch of MER_RAW_LO, 32 | 02 R50 R56 | DESIGN CHOICE 0 (8)
  merRawHi   : Nat := 0          -- S| latch of MER_RAW_HI, 32 | 02 R50 R56 | DESIGN CHOICE 0 (8)
  perfHi     : Nat := 0          -- S| latch of PERF_CYCLE_HI, 32 | 02 R50 R57 | DESIGN CHOICE 0 (8)
  bwLatchHi  : Nat := 0          -- S| latch of BW_BYTES_HI, 32 | 02 R50 R57 | DESIGN CHOICE 0 (8)
  bwLatchFr  : Nat := 0          -- S| latch of BW_FRAMES, 32 | 02 R50 R57 | DESIGN CHOICE 0 (8)
  bwLatchSeq : Nat := 0          -- S| latch of BW_SEQ, 32 | 02 R50 R57 | DESIGN CHOICE 0 (8)
  perfCycle  : Nat := 0          -- S| PERF_CYCLE, 64 wraps | 02 R57 | 0
  perfFreeze : Bool := false     -- S| PERF_CTL.FREEZE, 1 | 02 R57 | 0
  perf       : List PerfCnt := List.replicate 8 {} -- S| PERF_SELn, PERF_CNTn, n = 0..7 | 02 R57 | 0
  bwWindowMs : Nat := 1000       -- S| BW_CTRL.WINDOW_MS, 14 | 02 R57 | 1,000
  bwPort     : Nat := 0          -- S| BW_CTRL.PORT, 6 | 02 R57 | 0
  bwIngress  : Bool := false     -- S| BW_CTRL.DIR, 1 | 02 R57 | 0
  bwBytes    : Nat := 0          -- S| BW_BYTES, 64 | 02 R57 | 0
  bwFrames   : Nat := 0          -- S| BW_FRAMES, 32 | 02 R57 | 0
  bwSeq      : Nat := 0          -- S| BW_SEQ, 32 wraps | 02 R57 | 0
  bwWindowAt : Nat := 0          -- S| start of the running window, raw count | 02 R58 | 0
  bw         : List BwPort := List.replicate 34 {} -- S| per port 0..33 | 16 R640 | 0
  msix       : List MsixEntry := List.replicate 64 {} -- S| BAR4 table, 64 entries | 02 R44 | masked
  msixPend   : Nat := 0          -- S| BAR4 pending bits, 64 | 02 R45 | 0
  msixSent   : Tab Nat := []     -- S| messages sent per vector (the model's own record of its output) | 02 R45 | none
  linkUp     : Bool := false     -- S| PCIe link up | 02 R66 | 0 (DESIGN CHOICE 8)
  linkSpeed  : Nat := 0          -- S| 1..4 | 02 R66 | 0
  linkWidth  : Nat := 0          -- S| 1, 2, 4 | 02 R66 | 0
  retrains   : Nat := 0          -- S| RETRAINS, 32 wraps | 02 R66 | 0
  d3hot      : Bool := false     -- S| function in D3hot | 02 R43 | 0 (D0)
  clkreq     : Bool := false     -- S| CLKREQ_N driven low | 19 R717 | 0 (DESIGN CHOICE 8)
  heldHost   : List EvRec := []  -- S| held HOST_LINK and HOST_RESET records, at most 16 | 04 R112 | empty
  fp12Count  : Bool := false     -- S| counting drops between a reset and the first RX ring enable | 02 R66 | 0
  fp12Drops  : Nat := 0          -- S| 32 saturates | 02 R66 | 0
  everUp     : Bool := false     -- S| the link has come up since cold start | 02 R66 | 0
  headDebt   : Nat := 0          -- S| frame heads accepted since the last clock counted as one without (the model's own) | 16 R627 | 0
deriving DecidableEq, Repr

/-- A TX descriptor as fetched (R118). -/
structure TxDesc where
  index  : Nat     -- S| 16 | 04 R118
  addr   : Nat     -- S| 64 | 04 R118
  len    : Nat     -- S| 16 | 04 R118
  flags  : Nat     -- S| 16 | 04 R118
  launch : Nat     -- S| 64 | 04 R118
deriving DecidableEq, Repr

/-- An RX descriptor as fetched (R122). -/
structure RxDesc where
  index : Nat      -- S| 16 | 04 R122
  addr  : Nat      -- S| 64 | 04 R122
  units : Nat      -- S| 16, 0 is BAD_DESC | 04 R122
deriving DecidableEq, Repr

/-- A TX frame assembled from its descriptors, waiting for its turn (R119, R121). -/
structure TxFrame where
  descs   : List TxDesc   -- S| its chain | 04 R119
  data    : Option (List Byte) := none -- S| its bytes once read, padding not included | 04 R119 | not read
  launch  : Option Nat    -- S| LAUNCH_TIME | 04 R121
  lateDrop : Bool         -- S| LATE_DROP | 04 R118
  bad     : Bool := false -- S| a discarded chain: ends with LENGTH_ERROR | 04 R119 | 0
  atHead  : Bool := false -- S| it has reached the head of its ring | 04 R121 | 0
  ended   : Option Nat := none -- S| its status once it has ended, write-backs pending | 04 R120 | none
deriving DecidableEq, Repr

/-- A write-back not yet written: descriptor index and the 32 bytes (R120, R123). -/
structure WriteBack where
  index : Nat          -- S| 16 | 04 R120
  bytes : List Byte    -- S| 32 bytes | 04 R120 R123
deriving DecidableEq, Repr

/-- An RX frame held for its ring (R124, R125). -/
structure RxHeld where
  frame  : Frame      -- S| the frame | 04 R125
  tc     : Nat        -- S| 3 | 04 R123
  charge : Nat        -- S| bytes charged against the quota | 04 R125
  since  : Nat        -- S| time it entered the buffer, ns | 04 R125
deriving DecidableEq, Repr

/-- The RX frame being written (R124): its held entry, and the descriptors it uses with the bytes each receives (none for a BAD_DESC). -/
structure RxCur where
  held  : RxHeld                      -- S| the frame | 04 R124
  used  : List (RxDesc × Option Nat)  -- S| descriptors, bytes written | 04 R124
  ended : Option Nat := none          -- S| its status once its write-backs are due | 04 R123 | none
deriving DecidableEq, Repr

/-- One DMA ring block k: registers of R60, counters of R136 and its engine. -/
structure Ring where
  base      : Nat := 0        -- S| IOVA[47:12], 36 | 02 R60 | 0
  log2      : Nat := 6        -- S| 5 (6..15) | 02 R60 | 6
  tail      : Nat := 0        -- S| 16 | 02 R60 | 0
  head      : Nat := 0        -- S| 16 | 02 R60 | 0
  en        : Bool := false   -- S| 1 | 02 R60 | 0
  prio      : Nat := 0        -- S| 3 | 02 R60 | 0
  irqEn     : Bool := false   -- S| 1 | 02 R60 | 0
  vec       : Nat := 0        -- S| 6 | 02 R60 | 0
  ctx       : Nat := 0        -- S| 6 | 02 R60 | 0
  quota     : Nat := 64       -- S| 10 (0..512 KiB) | 02 R60 | 64
  parked    : Bool := false   -- S| 1 | 02 R60 | 0
  wr        : Bool := false   -- S| RING_STATUS.WRITE, 1 | 02 R60 | 0
  faultIdx  : Nat := 0        -- S| 16 | 02 R60 | 0
  faultIova : Nat := 0        -- S| 48 | 02 R60 | 0
  frames    : Nat := 0        -- S| 64 wraps | 04 R136 | 0
  bytes     : Nat := 0        -- S| 64 wraps | 04 R136 | 0
  c0        : Nat := 0        -- S| 32 saturates | 04 R136 | 0
  c1        : Nat := 0        -- S| 32 saturates | 04 R136 | 0
  c2        : Nat := 0        -- S| 32 saturates | 04 R136 | 0
  c3        : Nat := 0        -- S| 32 saturates | 04 R136 | 0
  c4        : Nat := 0        -- S| 32 saturates | 04 R136 | 0
  c5        : Nat := 0        -- S| 32 saturates | 04 R136 | 0
  fetchIdx  : Nat := 0        -- S| 16, next descriptor to fetch | 04 R124 R126 | 0
  chain     : List TxDesc := []   -- S| open chain | 04 R119 | empty
  chainBad  : Bool := false       -- S| the open chain is discarded | 04 R119 | 0
  txQueue   : List TxFrame := []  -- S| assembled frames, oldest first | 04 R121 | empty
  rxDescs   : List RxDesc := []   -- S| fetched free descriptors | 04 R124 | empty
  rxHeld    : List RxHeld := []   -- S| frames held for the ring | 04 R125 | empty
  wbacks    : List WriteBack := [] -- S| write-backs not yet written (parked or D3hot) | 04 R131, 02 R731 | empty
  rxCur     : Option RxCur := none -- S| frame whose data write has begun | 04 R124 | none
  lastDrop  : Option Nat := none  -- S| time of the last quota drop, ns | 04 R137 | none
  dropsSince : Nat := 0           -- S| drops since the last RING_QUOTA_DROP | 04 R137 | 0
deriving DecidableEq, Repr

/-- One ATU context (R62). -/
structure AtuCtx where
  root    : Nat := 0         -- S| bus address [63:12], 52 | 02 R62 | 0
  valid   : Bool := false    -- S| 1 | 02 R62 | 0
  faulted : Bool := false    -- S| 1 | 02 R62 | 0
  faults  : Nat := 0         -- S| 16 saturates | 02 R62 | 0
deriving DecidableEq, Repr

/-- A cached leaf translation (R129). -/
structure TlbEntry where
  ctx   : Nat     -- S| 6 | 04 R129
  page  : Nat     -- S| first IOVA of the page | 04 R129
  size  : Nat     -- S| 12, 21 or 30 (log2) | 04 R129
  addr  : Nat     -- S| bus address of the page | 04 R129
  rd    : Bool    -- S| 1 | 04 R128
  wr    : Bool    -- S| 1 | 04 R128
deriving DecidableEq, Repr

/-- The ATU (R62 to R64, R127 to R130) and its counters (R136). -/
structure Atu where
  ctxs    : List AtuCtx := List.replicate 64 {} -- S| contexts 1..63 (entry 0: no access) | 02 R62 | 0
  go      : Bool := false    -- S| ATU_INV_CTRL.GO, 1 | 02 R63 | 0
  scope   : Nat := 0         -- S| 2 | 02 R63 | 0
  invCtx  : Nat := 1         -- S| 6 | 02 R63 | 1
  invAddr : Nat := 0         -- S| IOVA[47:12], 36 | 02 R63 | 0
  tlb     : List TlbEntry := []  -- S| at most 1,024, newest first | 04 R129 | empty
  hits    : Nat := 0         -- S| 64 wraps | 04 R136 | 0
  misses  : Nat := 0         -- S| 64 wraps | 04 R136 | 0
  reads   : Nat := 0         -- S| 64 wraps | 04 R136 | 0
  invals  : Nat := 0         -- S| 32 saturates | 04 R136 | 0
  faults  : Nat := 0         -- S| 32 saturates | 04 R136 | 0
deriving DecidableEq, Repr

/-- The device read that a completion or its absence concerns (R130, R134): an access of a ring (0 descriptor fetch, 1 data read, 2 data
write, 3 write-back) with the byte offset in its frame, the record write of a queue, or the next bulk transfer with its payload offset. -/
inductive DmaTarget where
  | ring (k access off : Nat)
  | queue (q : Nat)
  | bulk (off : Nat)
deriving DecidableEq, Repr

/-- DMA: rings, steering and the ATU. -/
structure Dma where
  rings : List Ring := List.replicate 64 {}   -- S| ring blocks 0..63 | 02 R60 | reset values
  steer : Tab Nat := []     -- S| 64 × 5, by 8 × domain + TC; unlisted: ring TC | 04 R117 | ring t
  atu   : Atu := {}         -- S| the ATU | 02 R62 | reset values
  bulkErr : Option (Nat × Bool) := none -- S| a bulk read's error completion: payload offset, whether at a table read | 04 R130 | none
deriving DecidableEq, Repr

end Sys2Proof
end

