-- ==== Sys2Proof/Types/Mailbox.lean ====
section
/-! DEFINITION. Mailbox requests, completions, sources and retry tokens (spec 03). -/

namespace Sys2Proof

/-- A command request: the header of R74 without its opcode, which the command's own row fixes, and its payload.
`src` is 0 to 7 for MB0 to MB7 and 8 to 11 for remote sessions 0 to 3 (R95). `bulk` is the bulk payload of a
remote message (R92); a mailbox's bulk payload is read from host memory at `bulkIova` (R86). -/
structure Req where
  src      : Nat
  version  : Nat := 1
  flags    : Nat := 0
  length   : Nat := 0
  tag      : Nat := 0
  token    : Nat := 0
  level    : Nat := 0xF
  ctx      : Nat := 0
  bulkIova : Nat := 0
  bulkLen  : Nat := 0
  payload  : List Byte := []
  bulk     : List Byte := []
  /-- A remote message whose length does not match its header (R92). -/
  unmatched : Bool := false
deriving DecidableEq, Repr

/-- A submitted command: its opcode, its request and its place in the order of arrival (R32, R73). -/
structure Cmd where
  opcode : Nat        -- S| 16 | 03 R74
  req    : Req        -- S| header and payload | 03 R74
  order  : Nat        -- S| arrival number | 03 R73
  level  : Nat := 0xF -- S| 4, the command's level | 03 R75 | 0xF for an unknown opcode
deriving DecidableEq, Repr

/-- What a command in execution waits for: its commit for the older epoch to drain (R82, R83), one live epoch
(EPOCH_SYNC, R330), a signing (R587), an island request (R544) or a flash operation of the update path (R652). -/
inductive WaitKind where
  | drain
  | sync
  | signing
  | island
  | flash
deriving DecidableEq, Repr

/-- A command in execution that is waiting. -/
structure Waiting where
  cmd   : Cmd           -- S| the command | 03 R82
  kind  : WaitKind      -- S| what it waits for | 03 R83
  since : Nat           -- S| 64, time the wait began, ns | 08 R323
  drop  : Bool := false -- S| its completion is to be discarded (R65, R93) | 02 R65, 03 R93 | 0
deriving DecidableEq, Repr

/-- What a fetch under a retry token has come to (R88, R89, R471). -/
inductive FetchState where
  | running
  | done (data : List Byte) (time : Nat)
  | failed (status : Nat)
deriving DecidableEq, Repr

/-- An outstanding retry token (R88). -/
structure RetryTok where
  token   : Nat               -- S| 32 | 03 R88
  src     : Nat               -- S| 4 | 03 R88
  opcode  : Nat               -- S| 16 | 03 R88
  payload : List Byte         -- S| bytes | 03 R88
  hintMs  : Nat               -- S| 16 | 03 R76 R88
  fetch   : FetchState        -- S| running, done, failed | 03 R89
  object  : Nat               -- S| 8, the channel it is for | 12 R471
  issued  : Nat               -- S| 64, time of its last issue, ns | 03 R88
deriving DecidableEq, Repr

/-- The six command counters of one source (R94). -/
structure CmdCounters where
  ok       : Nat := 0   -- S| 32 wraps | 03 R94 | DESIGN CHOICE 0 (7)
  clamped  : Nat := 0   -- S| 32 wraps | 03 R94 | DESIGN CHOICE 0 (7)
  retry    : Nat := 0   -- S| 32 wraps | 03 R94 | DESIGN CHOICE 0 (7)
  busy     : Nat := 0   -- S| 32 wraps | 03 R94 | DESIGN CHOICE 0 (7)
  rejected : Nat := 0   -- S| 32 wraps | 03 R94 | DESIGN CHOICE 0 (7)
  fault    : Nat := 0   -- S| 32 wraps | 03 R94 | DESIGN CHOICE 0 (7)
deriving DecidableEq, Repr

/-- One remote session (R91 to R93). -/
structure Session where
  isOpen  : Bool := false        -- S| 1 | 03 R91 | 0
  port    : Nat := 0             -- S| 16 | 03 R95 | 0
  ipv4    : Nat := 0             -- S| 32 | 03 R95 | 0
  certId  : Nat := 0             -- S| 64 | 03 R95 | 0
  last    : Nat := 0             -- S| 64, time of its last message, ns | 03 R93 | 0
  outbox  : List (List Byte) := [] -- S| completion messages sent | 03 R92 | empty
deriving DecidableEq, Repr

/-- The mailbox service (spec 03): windows, doorbells, executor, sessions, tokens, counters. -/
structure Mailbox where
  windows   : Mem := []                       -- S| 8 × 4096 bytes, MBn at n × 0x1000 | 03 R70 | 0 (DESIGN CHOICE 3)
  ring      : Nat := 0                        -- S| MB_DOORBELL.RING, 8 | 02 R54 | 0
  done      : Nat := 0                        -- S| MB_DONE.DONE, 8 | 02 R54 | 0
  irqVec    : Nat := 4                        -- S| MB_IRQ.VEC, 6 | 02 R54 | 4
  irqEn     : Bool := false                   -- S| MB_IRQ.EN, 1 | 02 R54 | 0
  submitted : List Cmd := []                  -- S| commands waiting for the executor | 03 R73 | empty
  order     : Nat := 0                        -- S| arrival counter (the model's own) | 03 R73 | 0 (DESIGN CHOICE 7)
  waiting   : List Waiting := []              -- S| the command in execution that waits, before it MB0's if MB0 preempted it | 03 R82 R83 | none
  sessions  : List Session := List.replicate 4 {}  -- S| 4 | 03 R91 | closed
  tokens    : List RetryTok := []             -- S| at most 64, oldest first | 03 R88 | none
  counters  : List CmdCounters := List.replicate 9 {} -- S| 9 sources | 03 R94 | DESIGN CHOICE 0 (7)
  uptimeMs  : Nat := 0                        -- S| 64 | 03 R100 | 0
  resetDue  : Option (Nat × Nat × Nat) := none -- S| a reset of H0 that waits for a running command: KIND, DISCARDED, LOCKS_BROKEN | 02 R65 | none
  upCounts  : Nat := 0                        -- S| raw counts since the start, from which uptimeMs follows | 03 R100 | 0
deriving DecidableEq, Repr

end Sys2Proof
end

