-- ==== Sys2Proof/Syntax.lean ====
section
/-! DEFINITION. The commands of the block: one constructor per row of the operation table, in its order. A mailbox command carries its
request and source; an event carries what the outside brings with it. -/

namespace Sys2Proof

/-- A command of the block. -/
inductive Instr where
  /-- NOP (R97). -/
  | nop (r : Req)
  /-- GET_VERSIONS (R98). -/
  | getVersions (r : Req)
  /-- GET_IDENTITY (R99). -/
  | getIdentity (r : Req)
  /-- GET_STATUS (R100). -/
  | getStatus (r : Req)
  /-- GET_MB_STATS (R101). -/
  | getMbStats (r : Req)
  /-- MODULE_RESET (R102). -/
  | moduleReset (r : Req)
  /-- EVQ_GET_ROUTES (R138). -/
  | evqGetRoutes (r : Req)
  /-- EVQ_SET_ROUTE (R139). -/
  | evqSetRoute (r : Req)
  /-- RING_BIND (R140). -/
  | ringBind (r : Req)
  /-- RX_STEER_SET (R141). -/
  | rxSteerSet (r : Req)
  /-- RX_STEER_GET (R142). -/
  | rxSteerGet (r : Req)
  /-- DMA_GET_COUNTERS (R143). -/
  | dmaGetCounters (r : Req)
  /-- ATU_GET_COUNTERS (R144). -/
  | atuGetCounters (r : Req)
  /-- PORT_GET_STATUS (R174). -/
  | portGetStatus (r : Req)
  /-- PORT_SET (R175). -/
  | portSet (r : Req)
  /-- EDGE_GROUP_SET (R176). -/
  | edgeGroupSet (r : Req)
  /-- PORT_GET_COUNTERS (R177). -/
  | portGetCounters (r : Req)
  /-- PLCA_SET (R178). -/
  | plcaSet (r : Req)
  /-- PSE_SET (R179). -/
  | pseSet (r : Req)
  /-- PSE_GET_STATUS (R180). -/
  | pseGetStatus (r : Req)
  /-- TRAINING_CLEAR (R181). -/
  | trainingClear (r : Req)
  /-- DOMAIN_MAP_SET (R219). -/
  | domainMapSet (r : Req)
  /-- DOMAIN_PARAMS_SET (R220). -/
  | domainParamsSet (r : Req)
  /-- VLAN_SET (R221). -/
  | vlanSet (r : Req)
  /-- FDB_STATIC_SET (R222). -/
  | fdbStaticSet (r : Req)
  /-- FDB_FLUSH (R223). -/
  | fdbFlush (r : Req)
  /-- FDB_READ (R224). -/
  | fdbRead (r : Req)
  /-- STREAM_ID_SET (R225). -/
  | streamIdSet (r : Req)
  /-- STREAM_SET (R226). -/
  | streamSet (r : Req)
  /-- FILTER_SET (R227). -/
  | filterSet (r : Req)
  /-- GATE_SET (R228). -/
  | gateSet (r : Req)
  /-- METER_SET (R229). -/
  | meterSet (r : Req)
  /-- FRER_SET (R230). -/
  | frerSet (r : Req)
  /-- MIRROR_SET (R231). -/
  | mirrorSet (r : Req)
  /-- COUNTERS_GET (R232). -/
  | countersGet (r : Req)
  /-- STATE_CLEAR (R233). -/
  | stateClear (r : Req)
  /-- TABLE_READ (R234). -/
  | tableRead (r : Req)
  /-- ZONE_SET (R269). -/
  | zoneSet (r : Req)
  /-- ZONE_MAP_SET (R270). -/
  | zoneMapSet (r : Req)
  /-- ZONE_PAIR_SET (R271). -/
  | zonePairSet (r : Req)
  /-- RULE_SET (R272). -/
  | ruleSet (r : Req)
  /-- LIMITER_SET (R273). -/
  | limiterSet (r : Req)
  /-- HORIZON_PARAMS_SET (R274). -/
  | horizonParamsSet (r : Req)
  /-- SESSION_READ (R275). -/
  | sessionRead (r : Req)
  /-- SESSION_FLUSH (R276). -/
  | sessionFlush (r : Req)
  /-- HORIZON_COUNTERS_GET (R277). -/
  | horizonCountersGet (r : Req)
  /-- HORIZON_TABLE_READ (R278). -/
  | horizonTableRead (r : Req)
  /-- FABRIC_STATUS_GET (R324). -/
  | fabricStatusGet (r : Req)
  /-- FABRIC_START_SET (R325). -/
  | fabricStartSet (r : Req)
  /-- FABRIC_MODE_SET (R326). -/
  | fabricModeSet (r : Req)
  /-- WIDE_STREAM_SET (R327). -/
  | wideStreamSet (r : Req)
  /-- CUT_THROUGH_SET (R328). -/
  | cutThroughSet (r : Req)
  /-- FABRIC_COUNTERS_GET (R329). -/
  | fabricCountersGet (r : Req)
  /-- EPOCH_SYNC (R330). -/
  | epochSync (r : Req)
  /-- QUEUE_SET (R360). -/
  | queueSet (r : Req)
  /-- SHAPER_SET (R361). -/
  | shaperSet (r : Req)
  /-- CBS_SET (R362). -/
  | cbsSet (r : Req)
  /-- GCL_SET (R363). -/
  | gclSet (r : Req)
  /-- GCL_GET (R364). -/
  | gclGet (r : Req)
  /-- PREEMPT_SET (R365). -/
  | preemptSet (r : Req)
  /-- ZENITH_ADMIT_SET (R366). -/
  | zenithAdmitSet (r : Req)
  /-- ZENITH_STATUS_GET (R367). -/
  | zenithStatusGet (r : Req)
  /-- QUEUE_FLUSH (R368). -/
  | queueFlush (r : Req)
  /-- EGRESS_COUNTERS_GET (R369). -/
  | egressCountersGet (r : Req)
  /-- TIME_STATUS_GET (R397). -/
  | timeStatusGet (r : Req)
  /-- TIME_PARAMS_SET (R398). -/
  | timeParamsSet (r : Req)
  /-- GPTP_INSTANCE_SET (R399). -/
  | gptpInstanceSet (r : Req)
  /-- TIME_STEP (R400). -/
  | timeStep (r : Req)
  /-- GPTP_PORT_GET (R401). -/
  | gptpPortGet (r : Req)
  /-- CHANNEL_STATUS_GET (R432). -/
  | channelStatusGet (r : Req)
  /-- CAN_SET (R433). -/
  | canSet (r : Req)
  /-- CAN_WAKE_SET (R434). -/
  | canWakeSet (r : Req)
  /-- CAN_RECOVER (R435). -/
  | canRecover (r : Req)
  /-- MVB_SET (R436). -/
  | mvbSet (r : Req)
  /-- MVB_PORT_SET (R437). -/
  | mvbPortSet (r : Req)
  /-- MVB_ADMIN_SET (R438). -/
  | mvbAdminSet (r : Req)
  /-- SERIAL_SET (R439). -/
  | serialSet (r : Req)
  /-- LIN_SET (R440). -/
  | linSet (r : Req)
  /-- LIN_SCHEDULE_SET (R441). -/
  | linScheduleSet (r : Req)
  /-- DIO_SET (R442). -/
  | dioSet (r : Req)
  /-- CHANNEL_COUNTERS_GET (R443). -/
  | channelCountersGet (r : Req)
  /-- GW_CYCLE_SET (R482). -/
  | gwCycleSet (r : Req)
  /-- ROUTE_TABLE_SET (R483). -/
  | routeTableSet (r : Req)
  /-- ENDPOINT_SET (R484). -/
  | endpointSet (r : Req)
  /-- ACF_BUS_SET (R485). -/
  | acfBusSet (r : Req)
  /-- GW_WRITE (R486). -/
  | gwWrite (r : Req)
  /-- GW_READ (R487). -/
  | gwRead (r : Req)
  /-- GW_LOCK (R488). -/
  | gwLock (r : Req)
  /-- GW_EXCHANGE (R489). -/
  | gwExchange (r : Req)
  /-- GW_STATUS_GET (R490). -/
  | gwStatusGet (r : Req)
  /-- GW_COUNTERS_GET (R491). -/
  | gwCountersGet (r : Req)
  /-- GW_TABLE_READ (R492). -/
  | gwTableRead (r : Req)
  /-- POWER_STATUS_GET (R521). -/
  | powerStatusGet (r : Req)
  /-- POWER_STATE_SET (R522). -/
  | powerStateSet (r : Req)
  /-- WAKE_SET (R523). -/
  | wakeSet (r : Req)
  /-- POOL_SET (R524). -/
  | poolSet (r : Req)
  /-- ARBITER_GET (R525). -/
  | arbiterGet (r : Req)
  /-- SUPPLY_SET (R526). -/
  | supplySet (r : Req)
  /-- LIFECYCLE_GET (R562). -/
  | lifecycleGet (r : Req)
  /-- LIFECYCLE_SET (R563). -/
  | lifecycleSet (r : Req)
  /-- KEY_SLOT_WRITE (R564). -/
  | keySlotWrite (r : Req)
  /-- KEY_SLOT_ERASE (R565). -/
  | keySlotErase (r : Req)
  /-- KEY_SLOT_INFO (R566). -/
  | keySlotInfo (r : Req)
  /-- KEY_OP (R567). -/
  | keyOp (r : Req)
  /-- PROVISION_CLOSE (R568). -/
  | provisionClose (r : Req)
  /-- MACSEC_PORT_SET (R569). -/
  | macsecPortSet (r : Req)
  /-- MACSEC_SA_SET (R570). -/
  | macsecSaSet (r : Req)
  /-- MKA_SET (R571). -/
  | mkaSet (r : Req)
  /-- MACSEC_STATUS_GET (R572). -/
  | macsecStatusGet (r : Req)
  /-- MACSEC_COUNTERS_GET (R573). -/
  | macsecCountersGet (r : Req)
  /-- TAMPER_SET (R574). -/
  | tamperSet (r : Req)
  /-- MEAS_GET (R595). -/
  | measGet (r : Req)
  /-- MEAS_LOG_READ (R596). -/
  | measLogRead (r : Req)
  /-- MEAS_EXTEND (R597). -/
  | measExtend (r : Req)
  /-- ATTEST_GET (R598). -/
  | attestGet (r : Req)
  /-- BOOT_STATUS_GET (R599). -/
  | bootStatusGet (r : Req)
  /-- CERT_GET (R600). -/
  | certGet (r : Req)
  /-- CERT_SET (R601). -/
  | certSet (r : Req)
  /-- SPDM_SET (R602). -/
  | spdmSet (r : Req)
  /-- LODESTAR_STATUS_GET (R631). -/
  | lodestarStatusGet (r : Req)
  /-- LODESTAR_MODE_SET (R632). -/
  | lodestarModeSet (r : Req)
  /-- SENSOR_GET (R633). -/
  | sensorGet (r : Req)
  /-- SENSOR_THRESHOLD_SET (R634). -/
  | sensorThresholdSet (r : Req)
  /-- NIGHTWATCH_SET (R635). -/
  | nightwatchSet (r : Req)
  /-- LOG_READ (R636). -/
  | logRead (r : Req)
  /-- LOG_SET (R637). -/
  | logSet (r : Req)
  /-- MEMPORT_SET (R638). -/
  | memportSet (r : Req)
  /-- MEMPORT_GET (R639). -/
  | memportGet (r : Req)
  /-- PORT_BW_GET (R640). -/
  | portBwGet (r : Req)
  /-- PERF_GET (R641). -/
  | perfGet (r : Req)
  /-- PERF_SET (R641). -/
  | perfSet (r : Req)
  /-- UPDATE_STATUS_GET (R663). -/
  | updateStatusGet (r : Req)
  /-- UPDATE_BEGIN (R664). -/
  | updateBegin (r : Req)
  /-- UPDATE_BLOCK (R665). -/
  | updateBlock (r : Req)
  /-- UPDATE_VERIFY (R666). -/
  | updateVerify (r : Req)
  /-- UPDATE_ACTIVATE (R667). -/
  | updateActivate (r : Req)
  /-- UPDATE_CONFIRM (R668). -/
  | updateConfirm (r : Req)
  /-- UPDATE_ABORT (R669). -/
  | updateAbort (r : Req)
  /-- UPDATE_PARAMS_SET (R670). -/
  | updateParamsSet (r : Req)
  /-- PAIR_STATUS_GET (R699). -/
  | pairStatusGet (r : Req)
  /-- PAIR_SET (R700). -/
  | pairSet (r : Req)
  /-- PAIR_SWITCH (R701). -/
  | pairSwitch (r : Req)
  /-- PAIR_COUNTERS_GET (R702). -/
  | pairCountersGet (r : Req)
  /-- TTDP_SET (R703). -/
  | ttdpSet (r : Req)
  /-- TTDP_STATUS_GET (R704). -/
  | ttdpStatusGet (r : Req)
  /-- MRP_SET (R705). -/
  | mrpSet (r : Req)
  /-- MRP_STATUS_GET (R706). -/
  | mrpStatusGet (r : Req)
  /-- COMMAND_DISPATCH (R73). -/
  | commandDispatch
  /-- COMMIT_AFTER_DRAIN (R316). -/
  | commitAfterDrain
  /-- RETRY_TOKEN_EXPIRY (R88). -/
  | retryTokenExpiry (token : Nat)
  /-- REMOTE_CONNECTION (R91). -/
  | remoteConnection (port ipv4 : Nat) (cert : List Byte) (auth : Bool)
  /-- REMOTE_MESSAGE (R92). -/
  | remoteMessage (i len : Nat) (msg : List Byte)
  /-- REMOTE_IDLE_TIMEOUT (R93). -/
  | remoteIdleTimeout (i : Nat)
  /-- REMOTE_CLOSE (R93). -/
  | remoteClose (i : Nat)
  /-- EQ_ENABLE (R107). -/
  | eqEnable (q v : Nat)
  /-- EQ_HEAD_WRITE (R109). -/
  | eqHeadWrite (q v : Nat)
  /-- EQ_STATUS_CLEAR (R114). -/
  | eqStatusClear (q v : Nat)
  /-- EQ_COALESCE_TIMEOUT (R111). -/
  | eqCoalesceTimeout (q : Nat)
  /-- EVENT_RECORD_WRITE (R107). -/
  | eventRecordWrite (q : Nat)
  /-- RING_ENABLE (R126). -/
  | ringEnable (k v : Nat)
  /-- RING_DISABLE (R126). -/
  | ringDisable (k v : Nat)
  /-- RING_TAIL_WRITE (R60). -/
  | ringTailWrite (k v : Nat)
  /-- RING_RESUME (R61). -/
  | ringResume (k : Nat)
  /-- ATU_INVALIDATE (R64). -/
  | atuInvalidate (v : Nat)
  /-- ATU_CONTEXT_WRITE (R64). -/
  | atuContextWrite (c off v : Nat)
  /-- ATU_CTX_STATUS_CLEAR (R62). -/
  | atuCtxStatusClear (c v : Nat)
  /-- BW_CTRL_WRITE (R58). -/
  | bwCtrlWrite (v : Nat)
  /-- PERF_CTL_CLEAR (R57). -/
  | perfCtlClear (v : Nat)
  /-- BAR2_ENABLE_WRITE (R52). -/
  | bar2EnableWrite (v : Nat)
  /-- MER_TIME_LO_READ (R56). -/
  | merTimeLoRead
  /-- PERF_CYCLE_LO_READ (R57). -/
  | perfCycleLoRead
  /-- BW_BYTES_LO_READ (R57). -/
  | bwBytesLoRead
  /-- REGISTER_WRITE (R48). -/
  | registerWrite (bar off : Nat) (dwords : List (Nat × Nat))
  /-- MSIX_VECTOR_UNMASK (R45). -/
  | msixVectorUnmask (v : Nat)
  /-- FUNCTION_LEVEL_RESET (R65). -/
  | functionLevelReset
  /-- HOT_RESET (R65). -/
  | hotReset
  /-- PCIE_LINK_LOSS (R65). -/
  | pcieLinkLoss
  /-- PERST_ASSERT (R717). -/
  | perstAssert (us : Nat)
  /-- PCIE_LINK_UP (R66). -/
  | pcieLinkUp (speed width : Nat)
  /-- D3HOT_ENTRY (R43). -/
  | d3hotEntry
  /-- D0_RETURN (R731). -/
  | d0Return
  /-- TX_DESCRIPTOR_FETCHED (R119). -/
  | txDescriptorFetched (k : Nat)
  /-- TX_FRAME_ACCEPTED (R120). -/
  | txFrameAccepted (k : Nat)
  /-- LAUNCH_TIME_REACHED (R121). -/
  | launchTimeReached (k : Nat)
  /-- RX_DESCRIPTOR_FETCHED (R124). -/
  | rxDescriptorFetched (k : Nat)
  /-- RX_FRAME_DELIVERY (R124). -/
  | rxFrameDelivery (k : Nat)
  /-- DMA_READ_COMPLETION (R134). -/
  | dmaReadCompletion (t : DmaTarget) (table good : Bool)
  /-- DMA_COMPLETION_TIMEOUT (R130). -/
  | dmaCompletionTimeout (t : DmaTarget) (table : Bool)
  /-- FRAME_ARRIVAL (R183). -/
  | frameArrival (point : Nat) (w : WireFrame) (complete : Bool)
  /-- FRAME_END (R302). -/
  | frameEnd (point : Nat)
  /-- RECIRCULATION_ENTRY (R24). -/
  | recirculationEntry
  /-- FDB_AGING (R196). -/
  | fdbAging (bucket : Nat)
  /-- STREAM_GATE_ENTRY_BOUNDARY (R201). -/
  | streamGateEntryBoundary (g : Nat)
  /-- STREAM_GATE_LIST_CHANGE (R202). -/
  | streamGateListChange (g : Nat)
  /-- FRER_RESET_TIMEOUT (R206). -/
  | frerResetTimeout (i : Nat)
  /-- FRER_LATENT_PERIOD (R208). -/
  | frerLatentPeriod (i : Nat)
  /-- SESSION_INSERT_WRITE (R252). -/
  | sessionInsertWrite
  /-- SPILL_WRITE (R252). -/
  | spillWrite
  /-- SESSION_AGING_SWEEP (R254). -/
  | sessionAgingSweep (spilled : Bool) (i : Nat)
  /-- RESTORE_COMPLETE (R256). -/
  | restoreComplete
  /-- EXCEPTION_HANDLER (R259). -/
  | exceptionHandler
  /-- EXCEPTION_DROP_END (R258). -/
  | exceptionDropEnd
  /-- REVOCATION_SWEEP_VISIT (R264). -/
  | revocationSweepVisit
  /-- CELL_RECEIVE (R294). -/
  | cellReceive (stage sender receiver : Nat) (crcOk : Bool)
  /-- REPLAY_REJECTION (R294). -/
  | replayRejection (stage sender receiver : Nat)
  /-- REASSEMBLY_TIMEOUT (R296). -/
  | reassemblyTimeout (output : Nat)
  /-- RESEQ_TIMEOUT (R292). -/
  | reseqTimeout (w : Nat)
  /-- WIDE_STREAM_CHANGE_APPLY (R293). -/
  | wideStreamChangeApply (w : Nat)
  /-- FIRST_CELL_AT_OUTPUT (R335). -/
  | firstCellAtOutput (output : Nat) (ecc : EccHit)
  /-- TRANSMIT_OPPORTUNITY (R337). -/
  | transmitOpportunity (point : Nat) (ecc : EccHit)
  /-- COPY_FINISHED (R309). -/
  | copyFinished (point : Nat)
  /-- GCL_ENTRY_BOUNDARY (R341). -/
  | gclEntryBoundary (p : Nat)
  /-- GCL_CHANGE_TIME (R342). -/
  | gclChangeTime (p : Nat)
  /-- RESIDENCY_SCAN (R311). -/
  | residencyScan
  /-- MODE_LIMIT_EXPIRY (R312). -/
  | modeLimitExpiry
  /-- PREEMPT_VERIFY_TIMEOUT (R348). -/
  | preemptVerifyTimeout (p : Nat)
  /-- PREEMPT_RESPONSE_RX (R350). -/
  | preemptResponseRx (p addFrag : Nat)
  /-- GPTP_SYNC_RX (R382). -/
  | gptpSyncRx (i p : Nat) (malformed oneStep : Bool) (gmTime : Nat) (ratio : Int)
  /-- GPTP_ANNOUNCE_RX (R376). -/
  | gptpAnnounceRx (i p : Nat) (malformed : Bool) (ann : Announce)
  /-- GPTP_PDELAY_RX (R376). -/
  | gptpPdelayRx (p : Nat) (malformed : Bool) (delayPs : Nat) (nrr : Int)
  /-- SYNC_RECEIPT_TIMEOUT (R384). -/
  | syncReceiptTimeout (i : Nat)
  /-- ANNOUNCE_RECEIPT_TIMEOUT (R380). -/
  | announceReceiptTimeout (i p : Nat)
  /-- STEERING_UPDATE_TIMEOUT (R384). -/
  | steeringUpdateTimeout
  /-- HOLDOVER_EVALUATION (R386). -/
  | holdoverEvaluation
  /-- REVERT_TIMER (R380). -/
  | revertTimer
  /-- SYNC_INTERVAL (R378). -/
  | syncInterval (i : Nat)
  /-- PDELAY_REQ_INTERVAL (R376). -/
  | pdelayReqInterval (p : Nat)
  /-- PARTNER_SIGNAL_DETECTED (R164). -/
  | partnerSignalDetected (p : Nat)
  /-- TRAINING_COMPLETE (R164). -/
  | trainingComplete (p partnerRole : Nat) (at100 partnerEee : Bool) (coeffs finger : Nat)
  /-- TRAINING_FAILED (R164). -/
  | trainingFailed (p : Nat)
  /-- LINK_LOSS (R165). -/
  | linkLoss (p : Nat) (pcs : Bool)
  /-- FAST_START_INFOFIELD_RX (R156). -/
  | fastStartInfofieldRx (p finger : Nat) (answer : Bool)
  /-- FAST_START_TIMEOUT (R156). -/
  | fastStartTimeout (p : Nat)
  /-- TOKEN_RETRY_TIMER (R148). -/
  | tokenRetryTimer (p : Nat)
  /-- EEE_IDLE_TIMER (R160). -/
  | eeeIdleTimer (p : Nat)
  /-- TC10_SLEEP_REQUEST_RX (R161). -/
  | tc10SleepRequestRx (p : Nat)
  /-- TC10_WAKE_PULSE (R161). -/
  | tc10WakePulse (port others : Nat) (x : ExitInput)
  /-- PLCA_BEACON_LOSS (R163). -/
  | plcaBeaconLoss (g : Nat)
  /-- PLCA_BEACON_RETURN (R163). -/
  | plcaBeaconReturn (g : Nat)
  /-- PSE_DETECTION (R168). -/
  | pseDetection (i : Nat) (valid : Bool)
  /-- PSE_CLASSIFICATION (R169). -/
  | pseClassification (i cls second : Nat)
  /-- PSE_OVERLOAD (R172). -/
  | pseOverload (i peakMw railMv : Nat)
  /-- PSE_SHORT (R172). -/
  | pseShort (i peakMw railMv : Nat)
  /-- PSE_HARD_SHORT (R723). -/
  | pseHardShort (i peakMw railMv : Nat)
  /-- PSE_THERMAL (R172). -/
  | pseThermal (i peakMw railMv : Nat)
  /-- PSE_SUPPLY_FAULT (R172). -/
  | pseSupplyFault (railMv : Nat)
  /-- PSE_SUPPLY_RECOVERY (R172). -/
  | pseSupplyRecovery (railMv : Nat)
  /-- PSE_DISCONNECT (R172). -/
  | pseDisconnect (i : Nat)
  /-- PSE_FAULT_WAIT_EXPIRY (R172). -/
  | pseFaultWaitExpiry (i : Nat)
  /-- CAN_FRAME_RX (R405). -/
  | canFrameRx (c kind flags ident : Nat) (data : List Byte)
  /-- CAN_TX_COMPLETE (R411). -/
  | canTxComplete (c : Nat) (lost : Bool)
  /-- CAN_ERROR_DETECTED (R412). -/
  | canErrorDetected (c : Nat) (sending : Bool) (tec rec_ : Nat)
  /-- CAN_RECOVER_WAIT_EXPIRY (R412). -/
  | canRecoverWaitExpiry (c : Nat)
  /-- CAN_RECOVERY_DONE (R412). -/
  | canRecoveryDone (c : Nat)
  /-- CAN_WAKE_FRAME (R413). -/
  | canWakeFrame (c : Nat) (pattern : Bool) (errors : Nat) (xtd : Bool) (ident dlc : Nat) (data : List Byte) (others : Nat) (x : ExitInput)
  /-- J1939_TP_PACKET (R414). -/
  | j1939TpPacket (c : Nat) (received : Bool) (ident : Nat) (data : List Byte) (peer : Nat)
  /-- J1939_TIMEOUT (R414). -/
  | j1939Timeout (c peer which : Nat) (sender bam : Bool)
  /-- MVB_FRAME_RX (R418). -/
  | mvbFrameRx (c : Nat) (m : MvbRx) (okA okB : Bool)
  /-- MVB_SINK_TIME_EXPIRY (R418). -/
  | mvbSinkTimeExpiry (c port : Nat)
  /-- MVB_BASIC_PERIOD (R419). -/
  | mvbBasicPeriod (c : Nat)
  /-- MVB_MASTERSHIP_OFFER (R420). -/
  | mvbMastershipOffer (c : Nat)
  /-- MVB_MASTERSHIP_TIMEOUT (R420). -/
  | mvbMastershipTimeout (c : Nat)
  /-- MVB_SILENT_BUS (R420). -/
  | mvbSilentBus (c : Nat)
  /-- SERIAL_MESSAGE_RX (R421). -/
  | serialMessageRx (c : Nat) (err : Option Nat) (data : List Byte)
  /-- MODBUS_RESPONSE_TIMEOUT (R422). -/
  | modbusResponseTimeout (c : Nat)
  /-- SERIAL_SILENCE_TIMEOUT (R423). -/
  | serialSilenceTimeout (c : Nat)
  /-- SERIAL_CURRENT_LIMIT (R423). -/
  | serialCurrentLimit (c : Nat)
  /-- SERIAL_CURRENT_CLEAR (R423). -/
  | serialCurrentClear (c : Nat)
  /-- LIN_SLOT_TIMER (R424). -/
  | linSlotTimer (c : Nat) (a : LinResp)
  /-- LIN_WAKEUP_RX (R426). -/
  | linWakeupRx (c : Nat)
  /-- LIN_RESUME_TIMER (R426). -/
  | linResumeTimer (c : Nat)
  /-- GPI_DEBOUNCE_EXPIRY (R427). -/
  | gpiDebounceExpiry (c level : Nat) (overrun : Bool)
  /-- GPO_READBACK_EXPIRY (R428). -/
  | gpoReadbackExpiry (c level : Nat)
  /-- BE_WATCHDOG (R429). -/
  | beWatchdog (e : Nat) (ecc : Bool)
  /-- BE_RESTART_DONE (R429). -/
  | beRestartDone (e ms levels : Nat) (copyOk : Bool)
  /-- GW_INPUT_DELIVERY (R458). -/
  | gwInputDelivery
  /-- GW_CYCLE_MARK (R453). -/
  | gwCycleMark
  /-- GW_CYCLE_EXECUTE (R454). -/
  | gwCycleExecute (issue runUs : Nat) (ecc : Option (Nat × Nat × Nat × Nat))
  /-- GW_CYCLE_CUT (R456). -/
  | gwCycleCut
  /-- LOCK_LEASE_EXPIRY (R474). -/
  | lockLeaseExpiry (c : Nat)
  /-- GW_FETCH_COMPLETE (R471). -/
  | gwFetchComplete (token : Nat) (data : List Byte)
  /-- GW_FETCH_TIMEOUT (R471). -/
  | gwFetchTimeout (token : Nat)
  /-- TRDP_MR_RX (R477). -/
  | trdpMrRx (domain : Nat) (tcp : Bool) (ip port zone comId seq : Nat) (data : List Byte)
  /-- TRDP_SESSION_IDLE (R477). -/
  | trdpSessionIdle (i : Nat)
  /-- COLD_POWER_ON (R514). -/
  | coldPowerOn (boots : List BootInput)
  /-- RESET_N (R515). -/
  | resetN (boots : List BootInput)
  /-- POWER_FAIL_WARN (R511). -/
  | powerFailWarn (mv : Nat)
  /-- POWER_FAIL_END (R511). -/
  | powerFailEnd (mv : Nat)
  /-- HOLDUP_EXHAUSTED (R510). -/
  | holdupExhausted (mv : Nat)
  /-- INPUT_OVERVOLTAGE (R510). -/
  | inputOvervoltage (mv : Nat)
  /-- RAIL_OUT_OF_RANGE (R510). -/
  | railOutOfRange (rail mv : Nat)
  /-- WAKE_PIN (R500). -/
  | wakePin (pin others : Nat) (x : ExitInput)
  /-- RTC_ALARM (R500). -/
  | rtcAlarm (others : Nat) (x : ExitInput)
  /-- AUTO_SLEEP_TIMER (R501). -/
  | autoSleepTimer
  /-- DARK_AFTER_TIMER (R501). -/
  | darkAfterTimer
  /-- DUSK_EXIT_RETRY (R502). -/
  | duskExitRetry (x : ExitInput)
  /-- TOKEN_REQUEST (R507). -/
  | tokenRequest (c : Nat)
  /-- HOLDUP_ESTIMATE (R512). -/
  | holdupEstimate (ms loadDw : Nat)
  /-- NIGHTWATCH_SERVICE (R612). -/
  | nightwatchService
  /-- NIGHTWATCH_WINDOW_CLOSE (R613). -/
  | nightwatchWindowClose
  /-- LOCKSTEP_MISMATCH (R605). -/
  | lockstepMismatch (pair group word : Nat)
  /-- DEBUG_ATTACH (R609). -/
  | debugAttach (pair : Nat)
  /-- LODESTAR_ECC_ERROR (R611). -/
  | lodestarEccError (memory requester addr obj : Nat) (uncorrected : Bool)
  /-- SENSOR_SAMPLE (R619). -/
  | sensorSample (id : Nat) (value : Int)
  /-- HOLDUP_CAP_MEASURE (R620). -/
  | holdupCapMeasure (loadDw v1 v2 : Nat)
  /-- LOG_RECORD_PROGRAM (R623). -/
  | logRecordProgram
  /-- MEMPORT_BURST_BOUNDARY (R616). -/
  | memportBurstBoundary (mask addr : Nat)
  /-- TAMPER_LATCH (R556). -/
  | tamperLatch (source : Nat) (x : ExitInput)
  /-- SLOT_USERS_DONE (R542). -/
  | slotUsersDone (n : Nat)
  /-- ISLAND_REQUEST_COMPLETE (R544). -/
  | islandRequestComplete (ecdsa sound answered : Bool)
  /-- MKPDU_RX (R553). -/
  | mkpduRx (port : Nat) (m : Mkpdu)
  /-- MKA_HELLO_TIMER (R553). -/
  | mkaHelloTimer (port : Nat)
  /-- MKA_LIFETIME_EXPIRY (R554). -/
  | mkaLifetimeExpiry (port : Nat)
  /-- SPDM_REQUEST (R589). -/
  | spdmRequest (t conn : Nat) (q : SpdmReq)
  /-- MCTP_CONTROL (R591). -/
  | mctpControl (cmd eid : Nat)
  /-- SIGNING_COMPLETE (R587). -/
  | signingComplete (answered : Bool)
  /-- STAGING_ERASE_DONE (R649). -/
  | stagingEraseDone
  /-- HEALTH_WINDOW_EXPIRY (R656). -/
  | healthWindowExpiry
  /-- SETTLE_TIMER (R657). -/
  | settleTimer
  /-- JOURNAL_ERASE_DONE (R657). -/
  | journalEraseDone
  /-- PAIR_BLOCK_RX (R679). -/
  | pairBlockRx (b : PairBlock) (crcOk icvOk : Bool) (diff : Option Int)
  /-- PAIR_RESEND_TIMER (R679). -/
  | pairResendTimer
  /-- PAIR_IDLE_TIMER (R679). -/
  | pairIdleTimer
  /-- PAIR_LINK_TIMEOUT (R679). -/
  | pairLinkTimeout
  /-- LANE_FAILURE (R677). -/
  | laneFailure (lane : Nat)
  /-- CYCLE_COPY_COMPLETE (R683). -/
  | cycleCopyComplete
  /-- COPY_DEADLINE (R683). -/
  | copyDeadline
  /-- REEXECUTION_RESULT (R684). -/
  | reexecutionResult (cycle : Nat) (ownDiffers partnerDiffers step3 : Bool)
  /-- HEARTBEAT_ABSENT (R676). -/
  | heartbeatAbsent
  /-- PAIR_HELLO_TIMER (R687). -/
  | pairHelloTimer
  /-- TTDP_HELLO_RX (R693). -/
  | ttdpHelloRx (port : Nat) (f : TtdpFrame)
  /-- TTDP_HELLO_TIMER (R693). -/
  | ttdpHelloTimer
  /-- TTDP_HELLO_TIMEOUT (R693). -/
  | ttdpHelloTimeout (port : Nat)
  /-- MRP_TEST_TIMER (R695). -/
  | mrpTestTimer (r : Nat) (back : Bool)
  /-- MRP_FRAME_RX (R696). -/
  | mrpFrameRx (r port : Nat) (f : MrpFrame)
  /-- BW_WINDOW_END (R57). -/
  | bwWindowEnd
  /-- LODESTAR_RESTART_DONE (R85). -/
  | lodestarRestartDone (badBlocks : List Nat) (copyOk : Bool)
  /-- DELAY_MS_EXPIRY (R102). -/
  | delayMsExpiry (x : ExitInput)
  /-- HOLDUP_BANK_CHARGED (R709). -/
  | holdupBankCharged
  /-- SUPPLY_BACK_IN_RANGE (R520). -/
  | supplyBackInRange (m mv : Nat)
  /-- TRDP_CONNECTION_CLOSE (R477). -/
  | trdpConnectionClose (i : Nat)
  /-- SPDM_TCP_CONNECTION (R591). -/
  | spdmTcpConnection (e : TcpEvent)
  /-- LANE_RECOVERY (R677). -/
  | laneRecovery (lane : Nat)
  /-- PAGE_PROGRAM_DONE (R652). -/
  | pageProgramDone (good : Bool)
  /-- DEBUG_DETACH (R609). -/
  | debugDetach (pair : Nat)
  /-- ATU_INVALIDATION_COMPLETE (R64). -/
  | atuInvalidationComplete
deriving DecidableEq, Repr

end Sys2Proof
end

