-- ==== Sys2Proof/Decode.lean ====
section
/-! DEFINITION. Words as commands. No row of the operation table gives bits: its rows are operations and events, which no word spells. -/

namespace Sys2Proof

/-- The command that a word of `nbits` bits spells: none. -/
def decodeTableWord (_nbits _w : Nat) : Option Instr := none

end Sys2Proof
end

