-- ==== Sys2Proof/Config.lean ====
section
/-! DEFINITION. What an implementation fixes and what the spec leaves open. Every constant here is opaque: nothing
in Lean can evaluate it, so a statement about the model holds for every value of it. -/

namespace Sys2Proof.Config

/-- The module's serial number, fixed per part (R52); read modulo 2^64. -/
opaque serial : Nat

/-- The silicon stepping, fixed per part (R52); read modulo 2^8. -/
opaque stepping : Nat

/-- SHA-384 (FIPS 180-4) of a byte string as 48 bytes; uninterpreted (assumption 4). -/
opaque sha384 : List Byte → List Byte

/-- The bytes of the normalised session key over which the bucket is computed (R250): the spec does not give its
layout (assumption 12). Arguments: domain, IP version, protocol, lower and upper (address, port). -/
opaque sessionKeyBytes : Nat → Nat → Nat → List Byte × Nat → List Byte × Nat → List Byte

/-- Whether the recirculation input of FP15 is full with `n` frames waiting (R212): the spec gives it no capacity. -/
opaque recircFull : Nat → Bool

/-- The slot position `t` in REPLAY_FAIL (R323), drawn per event: the model keeps no slot count. -/
opaque replaySlot : Nat → Nat

/-- The buffer index in BUFFER_ECC (R323): which pointer a stack holds is not stated. -/
opaque bufferIndex : Nat → Nat

/-- The random link fingerprint that a training master draws (R154), per draw. -/
opaque fingerprint : Nat → Nat

/-- The adapted coefficients of a PHY when a retained-training record is refreshed (R153), per refresh. -/
opaque coefficients : Nat → Nat

/-- The module base MAC (R730), fixed per module; read modulo 2^48. -/
opaque baseMac : Nat

/-- The magnitude of the servo's correction in 2⁻⁴⁴ (R382), per update: the spec gives its limit and its direction. -/
opaque servo : Nat → Nat

/-- The crystal's relative frequency error C in 2⁻³² (R393) as measured before a Night, per measurement. -/
opaque crystal : Nat → Int

/-- The value of a retry token (R88: opaque), per token issued; the device avoids 0. -/
opaque token : Nat → Nat

/-- Destination of a published TRDP telegram (R476): MAC and IPv4 address, by domain and ComId. The spec gives a target no address. -/
opaque pdDest : Nat → Nat → Nat × Nat

/-- The time of an MVB basic period kept for message-data and supervisory polls (R419), in ns; the spec gives no figure. -/
opaque mvbKept : Nat

/-- AES-256-CMAC of a byte string under a key, 16 bytes; uninterpreted (assumption 4). -/
opaque cmac : List Byte → List Byte → List Byte

/-- The hardware-unique key (R531), fixed per module. -/
opaque huk : List Byte

/-- RFC 5649 wrap of a key under a wrapping key: 40 or 56 bytes; uninterpreted (assumption 4). -/
opaque wrap : List Byte → List Byte → List Byte

/-- RFC 5649 unwrap: the key, or none where the integrity check fails; uninterpreted (assumption 4). -/
opaque unwrap : List Byte → List Byte → Option (List Byte)

/-- Public point of a P-384 private key: 96 bytes, X then Y; uninterpreted (assumption 4). -/
opaque p384Public : List Byte → List Byte

/-- An ECDSA P-384 signature of a digest, 96 bytes, drawn with a fresh random per signature (assumption 4). -/
opaque ecdsaSign : List Byte → List Byte → Nat → List Byte

/-- ECDSA P-384 verification: public key, digest, signature; uninterpreted (assumption 4). -/
opaque ecdsaVerify : List Byte → List Byte → List Byte → Bool

/-- Bytes from the island's random source (R553, R564, R586), per draw. -/
opaque random : Nat → List Byte

/-- The check value of an ECDSA key from its public point (R539): under which key the CMAC is taken is not stated. -/
opaque kcvPublic : List Byte → List Byte

/-- Bytes that an aborted island request had processed (R561, `DONE_BYTES`), per abort. -/
opaque doneBytes : Nat → Nat

/-- Logovia's certificate chain in slot 0, written at manufacture (R588). -/
opaque factoryChain : List Byte

/-- The leaf public key of a certificate chain (R601); uninterpreted (assumption 4). -/
opaque leafKey : List Byte → List Byte

/-- Busy percentage of a core (R631), per reading and core. -/
opaque coreLoad : Nat → Nat → Nat

/-- The settings of a configuration bundle (R2, R646), by its bytes and the owner hash (empty in BLANK, where the key the bundle itself
carries counts); none where its signature does not verify, it is not built for the KZ9600, or its tables fail a check that a commit of
them would make. How a bundle is encoded is not in the spec (assumption 35). -/
opaque bundleOf : List Byte → List Byte → Option BundleCfg

/-- The image of a loader copy as at manufacture (R643), by copy; the spec gives no content. -/
opaque factoryLoader : Nat → List Byte

/-- Version and security version of the loader as at manufacture, by copy. -/
opaque factoryLoaderVer : Nat → Nat × Nat

/-- An image-area block as at manufacture (R643): 65,536 bytes, by block. -/
opaque factoryImage : Nat → List Byte

/-- Logovia's image key (R582, R646): the P-384 public key, 96 bytes. -/
opaque imageKey : List Byte

/-- Whether a loader image passes the boot ROM's signature check (R582 stage 4, R650); the image's format is not in the spec. -/
opaque loaderSound : List Byte → Bool

/-- Version of the boot ROM (R580), fixed per stepping. -/
opaque romVersion : Nat

/-- The bytes of a settings generation, over which kind 10 records take their SHA-384 (R580): the format is not in the spec. By format and
generation. -/
opaque settingsBytes : Nat → Nat → List Byte

/-- What a measured boot meets that follows from a command or from a fault (assumption 33): free values, per boot. -/
opaque bootInput : Nat → BootInput

/-- The time that a change of the power state took (R520, `TRANSITION_US`), per change. -/
opaque transitionUs : Nat → Nat

/-- The time from a wake to forwarding (R520, `FORWARD_US`), per wake. -/
opaque forwardUs : Nat → Nat

/-- Whether a signature verifies under the owner key whose hash the life-cycle record holds (R562, R563): owner hash, digest, signature. How the
device comes by the key itself is not stated (assumption 32). -/
opaque ownerVerify : List Byte → List Byte → List Byte → Bool

/-- The tamper sources that are still active (R556), 7 bits, per TAMPER_SET: no row says when a source becomes inactive (assumption 32). -/
opaque tamperActive : Nat → Nat

end Sys2Proof.Config
end

