-- ==== Sys2Proof/Machine/Basic.lean ====
section
/-! DEFINITION. Arithmetic with the widths of the spec, byte strings, bit sets, sparse tables and memories, and the
CRCs the spec names. -/

namespace Sys2Proof.Machine

/-- A counter of `w` bits that wraps (R21). -/
def wrapAdd (w a n : Nat) : Nat := (a + n) % 2 ^ w

/-- A counter of `w` bits that saturates (R21). -/
def satAdd (w a n : Nat) : Nat := min (a + n) (2 ^ w - 1)

/-- The nearest legal value of a range (R16, R18). -/
def clampTo (lo hi x : Nat) : Nat := max lo (min hi x)

/-- Bit `n` of a word. -/
def bit (x n : Nat) : Bool := x.testBit n

/-- Bits `[hi:lo]` of a word (R6). -/
def bits (x hi lo : Nat) : Nat := (x >>> lo) % 2 ^ (hi + 1 - lo)

/-- 1 for true. -/
def b2n (b : Bool) : Nat := if b then 1 else 0

/-- The word with bit `n` set or cleared. -/
def withBit (x n : Nat) (b : Bool) : Nat := if bit x n = b then x else if b then x + 2 ^ n else x - 2 ^ n

/-- The bits of a word, below `n`. -/
def bitList (n x : Nat) : List Nat := (List.range n).filter (bit x)

/-- Intersection of two bit sets. -/
def setInter (a b : Nat) : Nat := a &&& b

/-- Difference of two bit sets. -/
def setDiff (a b : Nat) : Nat := a ^^^ (a &&& b)

/-- `n` low bytes of `x`, least significant first (R9). -/
def le : Nat → Nat → List Byte
  | 0, _ => []
  | n + 1, x => BitVec.ofNat 8 x :: le n (x / 256)

/-- `n` low bytes of `x` in wire order (R9). -/
def be (n x : Nat) : List Byte := (le n x).reverse

/-- The value of a little-endian byte string. -/
def leNat : List Byte → Nat
  | [] => 0
  | b :: bs => b.toNat + 256 * leNat bs

/-- The value of a big-endian byte string. -/
def beNat (bs : List Byte) : Nat := leNat bs.reverse

/-- `n` bytes of a structure from offset `off`; bytes past its end read 0. -/
def sub (p : List Byte) (off n : Nat) : List Byte :=
  let q := (p.drop off).take n
  q ++ List.replicate (n - q.length) 0

/-- The little-endian field of `n` bytes at offset `off` (R9, R10). -/
def u (p : List Byte) (off n : Nat) : Nat := leNat (sub p off n)

/-- The wire-order field of `n` bytes at offset `off` (R9). -/
def ub (p : List Byte) (off n : Nat) : Nat := beNat (sub p off n)

/-- `n` zero bytes: reserved space written by the device (R12). -/
def zeros (n : Nat) : List Byte := List.replicate n 0

/-- A byte string cut or padded with zeros to `n` bytes. -/
def padTo (n : Nat) (p : List Byte) : List Byte := sub p 0 n

/-- Two's complement of an integer in `w` bits. -/
def ofInt (w : Nat) (x : Int) : Nat := (x % (2 ^ w : Nat)).toNat

/-- The signed value of a `w`-bit word. -/
def toInt (w x : Nat) : Int := if x % 2 ^ w < 2 ^ (w - 1) then (x % 2 ^ w : Nat) else (x % 2 ^ w : Nat) - (2 ^ w : Nat)

/-- The entry of a sparse table at index `k`. -/
def tget {α : Type} (t : Tab α) (k : Nat) : Option α := (t.find? (fun e => e.1 == k)).map (·.2)

/-- The entry at index `k`, or `d` where none is listed. -/
def tgetD {α : Type} (t : Tab α) (k : Nat) (d : α) : α := (tget t k).getD d

/-- The table with entry `k` set to `v`, indices kept strictly rising. -/
def tset {α : Type} : Tab α → Nat → α → Tab α
  | [], k, v => [(k, v)]
  | e :: t, k, v => if k < e.1 then (k, v) :: e :: t else if k = e.1 then (k, v) :: t else e :: tset t k v

/-- The table without entry `k`. -/
def tdel {α : Type} (t : Tab α) (k : Nat) : Tab α := t.filter (fun e => e.1 != k)

/-- Whether entry `k` is listed. -/
def thas {α : Type} (t : Tab α) (k : Nat) : Bool := t.any (fun e => e.1 == k)

/-- The table with its entry `k` changed by `f`, `d` standing for an unlisted entry. -/
def tmod {α : Type} (t : Tab α) (k : Nat) (d : α) (f : α → α) : Tab α := tset t k (f (tgetD t k d))

/-- Element `i` of a fixed array; `d` outside it. -/
def at' {α : Type} (l : List α) (i : Nat) (d : α) : α := l.getD i d

/-- One byte of a sparse memory. -/
def mget (m : Mem) (a : Nat) : Byte := tgetD m a 0

/-- A memory with one byte written; a zero byte is removed, so the form stays canonical. -/
def mset (m : Mem) (a : Nat) (b : Byte) : Mem := if b = 0 then tdel m a else tset m a b

/-- `n` bytes of a memory from address `a`. -/
def mread (m : Mem) : Nat → Nat → List Byte
  | _, 0 => []
  | a, n + 1 => mget m a :: mread m (a + 1) n

/-- A memory with a byte string written from address `a`. -/
def mwrite (m : Mem) (a : Nat) : List Byte → Mem
  | [] => m
  | b :: bs => mwrite (mset m a b) (a + 1) bs

/-- One byte of a reflected 32-bit CRC with polynomial `poly` (reversed form). -/
def crcByte (poly : BitVec 32) (c : BitVec 32) (b : Byte) : BitVec 32 :=
  (List.range 8).foldl (fun c _ => if c.getLsbD 0 then (c >>> 1) ^^^ poly else c >>> 1) (c ^^^ b.zeroExtend 32)

/-- CRC-32C (Castagnoli, reflected; PRESUMED the standard one, assumption 4). -/
def crc32c (bs : List Byte) : Nat := (~~~(bs.foldl (crcByte 0x82F63B78#32) 0xFFFFFFFF#32)).toNat

/-- CRC-32 of IEEE 802.3 (reflected). -/
def crc32 (bs : List Byte) : Nat := (~~~(bs.foldl (crcByte 0xEDB88320#32) 0xFFFFFFFF#32)).toNat

end Sys2Proof.Machine
end

