-- ==== Sys2Proof/Types/Lodestar.lean ====
section
/-! DEFINITION. Lodestar: core pairs, Nightwatch, the memory-port arbiter, sensors and the persistent log (spec 16). -/

namespace Sys2Proof

/-- A record of the persistent log before it is programmed (R621). -/
structure LogRec where
  kind   : Nat          -- S| 8: 0 event, 1 discarded completion, 2 marker | 16 R621
  seq    : Nat          -- S| 32, SEQ taken in its event queue, or 0 | 16 R621
  ev     : EvRec        -- S| the event record | 16 R621
  detail : List Byte    -- S| 14 bytes | 16 R621
  uptimeMs : Nat        -- S| 64 | 16 R621
deriving DecidableEq, Repr

/-- A committed record (R621). -/
structure LogStored where
  rec_   : LogRec       -- S| the record | 16 R621
  logSeq : Nat          -- S| 32 | 16 R621
  boots  : Nat          -- S| 32, BOOT_COUNT | 16 R621
deriving DecidableEq, Repr

/-- A block of the log region (R621, R622). -/
structure LogBlock where
  seq     : Nat                    -- S| 32, BLOCK_SEQ | 16 R622
  index   : Nat                    -- S| 11, place in the ring of 2,048 | 16 R621
  records : List LogStored := []   -- S| at most 63 | 16 R621 | empty
  closed  : Bool := false          -- S| trailer written | 16 R622 | 0
  atStart : Bool := false          -- S| FLAGS bit 0: closed at start | 16 R622 | 0
  bad     : Bool := false          -- S| its CRC is wrong | 16 R624 | 0
deriving DecidableEq, Repr

/-- Settings of a memory-port requester (R615, R638). -/
structure PortShare where
  prio  : Nat      -- S| 2 | 16 R615
  limit : Nat      -- S| 8 | 16 R615
deriving DecidableEq, Repr

/-- A requester's figures at the arbiter (R616, R639). -/
structure PortUse where
  wait   : Nat := 0    -- S| 16 | 16 R616 | 0
  bursts : Nat := 0    -- S| 64 wraps | 16 R639 | 0
  forced : Nat := 0    -- S| 32 saturates | 16 R639 | 0
  peak   : Nat := 0    -- S| 16 | 16 R639 | 0
  stuck  : Nat := 0    -- S| 16 saturates | 16 R639 | 0
deriving DecidableEq, Repr

/-- Thresholds of a sensor (R619). -/
structure Threshold where
  high : Int       -- S| 32 signed | 16 R619
  low  : Int       -- S| 32 signed | 16 R619
  hyst : Int       -- S| 32 signed | 16 R619
deriving DecidableEq, Repr

/-- The comparison of a sensor with its thresholds (R619). -/
structure SensorRun where
  above  : Nat := 0     -- S| consecutive samples above HIGH | 16 R619 | 0
  below  : Nat := 0     -- S| consecutive samples below LOW | 16 R619 | 0
  inside : Nat := 0     -- S| consecutive samples inside by HYST | 16 R619 | 0
  state  : Nat := 0     -- S| 0 inside, 1 above, 2 below | 16 R619 | 0
  crossings : Nat := 0  -- S| 32 wraps | 16 R630 | 0
deriving DecidableEq, Repr

/-- Nightwatch settings (R612). -/
structure NwCfg where
  windowMs : Nat := 1000   -- S| 16 | 16 R612 | 1,000
  openPct  : Nat := 25     -- S| 7 | 16 R612 | 25
deriving DecidableEq, Repr

/-- Nightwatch (R612 to R614). -/
structure Nightwatch where
  window  : Nat := 2000        -- S| ms, the present window | 16 R614 | 2,000, the first window
  openPct : Nat := 0           -- S| its open point, percent | 16 R614 | 0, none
  start   : Nat := 0           -- S| always-on time of its start, units of 1.6 ns | 16 R612 | 0
  serviced : Nat := 0          -- S| always-on time of the last valid service | 16 R612 | 0
  bitten  : Bool := false      -- S| a bite since the last valid service | 16 R516 | 0
  bites   : Nat := 0           -- S| 32 wraps, since cold start | 13 R520 | 0
  services : Nat := 0          -- S| 32 saturates | 16 R631 | 0
deriving DecidableEq, Repr

/-- Stored settings of Lodestar (R634 to R638). -/
structure LodeSettings where
  nw         : NwCfg := {}                     -- S| NIGHTWATCH_SET | 16 R635 | defaults
  logMinSev  : Nat := 2                        -- S| 3 | 16 R637 | 2
  thresholds : Tab Threshold := []             -- S| by sensor; unlisted: the defaults of R619 | 16 R634 | defaults
  shares     : List PortShare := [⟨3, 16⟩, ⟨3, 16⟩, ⟨1, 32⟩, ⟨2, 8⟩, ⟨1, 64⟩, ⟨0, 255⟩, ⟨0, 128⟩, ⟨1, 32⟩, ⟨2, 8⟩, ⟨0, 255⟩, ⟨0, 255⟩, ⟨3, 4⟩] -- S| 12 requesters | 16 R615 | as R615
deriving DecidableEq, Repr

/-- Lodestar. -/
structure Lodestar where
  cfg        : LodeSettings := {}          -- S| settings in force | 16 R635 R637 R638 | defaults
  logQueue   : List LogRec := []           -- S| at most 512 | 16 R623 | empty
  logLost    : Nat := 0                    -- S| LOG_LOST, 32 saturates | 16 R631 | 0
  lostRun    : Nat := 0                    -- S| records lost since the last marker | 16 R623 | 0
  logSeq     : Nat := 0                    -- S| 32 wraps, the next LOG_SEQ | 16 R621 | 0 (DESIGN CHOICE 34: a new log)
  blocks     : List LogBlock := [{ seq := 0, index := 0 }] -- S| log blocks kept, oldest first, the open one last | 16 R621 | one open block (DESIGN CHOICE 34)
  logRecords : Nat := 0                    -- S| LOG_RECORDS, 32 wraps | 16 R631 | 0
  splitOption : Bool := false              -- S| SPLIT option, island non-volatile | 16 R610 | 0 (DESIGN CHOICE 34)
  splitMode  : Bool := false               -- S| DEV_STATUS.SPLIT_MODE | 16 R610, 02 R52 | 0
  debugSplit : Bool := false               -- S| DEV_STATUS.DEBUG_SPLIT | 16 R609, 02 R52 | 0
  pairSplit  : List Bool := [false, false] -- S| CP0, CP1 debug split | 16 R631 | 0
  decoupled  : List Bool := [false, false] -- S| the pair's comparison has stopped | 16 R609 | 0
  attached   : List Bool := [false, false] -- S| a debugger is attached | 16 R609 | 0
  testFail   : Nat := 0                    -- S| TEST_FAIL, 32 | 16 R630 R631 | 0
  testBad    : Bool := false               -- S| comparator test failed | 16 R608 | 0
  lockErrors : List Nat := [0, 0]          -- S| 2 × 32 saturate | 16 R631 | 0
  restarts   : Nat := 0                    -- S| 32 saturates | 16 R631 | 0
  eccOk      : Nat := 0                    -- S| ECC_CORRECTED, 32 saturates | 16 R631 | 0
  eccBad     : Nat := 0                    -- S| ECC_UNCORRECTED, 32 saturates | 16 R631 | 0
  refused    : Nat := 0                    -- S| DEBUG_REFUSED, 32 saturates | 16 R631 | 0
  attaches   : Nat := 0                    -- S| since cold start | 16 R630 | 0
  restart    : Option (Nat × Nat × Nat) := none -- S| a restart in progress: CAUSE, PAIR, time it began | 16 R630 | none
  nw         : Nightwatch := {}            -- S| Nightwatch (always-on domain) | 16 R612 | first window
  shares     : List PortUse := List.replicate 12 {} -- S| 12 requesters | 16 R639 | 0
  lastGrant  : Nat := 11                   -- S| the requester last granted | 16 R616 | 11 (DESIGN CHOICE 34)
  burst      : Option (Nat × Nat × Nat) := none -- S| the open burst: requester, time, address | 16 R613 | none
  samples    : Tab Int := []               -- S| latest sample by sensor ID | 16 R633 | 0 (DESIGN CHOICE 34)
  sensors    : Tab SensorRun := []         -- S| by sensor | 16 R619 | inside
deriving DecidableEq, Repr

end Sys2Proof
end

