-- ==== Sys2Proof/Types/Update.lean ====
section
/-! DEFINITION. The flash of the update path: loader copies, image area, undo journal, staging area, settings and bundle generations, and
the update record (spec 17). -/

namespace Sys2Proof

/-- A loader copy (R643). -/
structure LoaderCopy where
  image   : List Byte          -- S| bytes | 17 R643
  version : Nat                -- S| 32 | 17 R646
  sec     : Nat                -- S| 32 | 17 R646
  trial   : Bool := false      -- S| 1 | 17 R652 | 0
deriving DecidableEq, Repr

/-- A bundle generation (R643, R652). -/
structure BundleGen where
  gen     : Nat                -- S| 32 | 17 R652
  bytes   : List Byte          -- S| bytes | 17 R643
  trial   : Bool := false      -- S| 1 | 17 R652 | 0
deriving DecidableEq, Repr

/-- Parameters of UPDATE_PARAMS_SET (R670). -/
structure UpdParams where
  healthS : Nat := 180         -- S| 16 | 17 R670 | 180
  settleS : Nat := 60          -- S| 16 | 17 R670 | 60
  auto    : Bool := false      -- S| AUTO_CONFIRM, 1 | 17 R670 | 0
deriving DecidableEq, Repr

/-- The settings that commands store in flash. -/
structure StoredSettings where
  power   : PowerStored := {}  -- S| WAKE_SET, SUPPLY_SET, POOL_SET | 13 R523 R524 R526 | none stored
  lode    : LodeSettings := {} -- S| group 0x0D | 16 R634 R638 | defaults
  fabric  : FabricStart := {}  -- S| FABRIC_START_SET | 08 R325 | as shipped
  spdm    : Option (Nat × Nat) := none -- S| SPDM_SET: FLAGS, TCP_PORT | 15 R602 | none stored
  params  : UpdParams := {}    -- S| UPDATE_PARAMS_SET | 17 R670 | defaults
deriving DecidableEq, Repr

/-- A settings generation (R643, R659). -/
structure SetGen where
  fmt     : Nat                -- S| 16, format version | 17 R643
  gen     : Nat                -- S| 32 | 17 R643
  cfg     : StoredSettings     -- S| its content | 17 R643
deriving DecidableEq, Repr

/-- A journal entry with its slot (R651). -/
structure JEntry where
  target  : Nat                -- S| 10 | 17 R651
  old     : List Byte          -- S| slot: the old content, 65,536 bytes | 17 R651
  complete : Bool := false     -- S| 1 | 17 R651 | 0
  done    : Bool := false      -- S| 1 | 17 R651 | 0
  undone  : Bool := false      -- S| 1 | 17 R651 | 0
deriving DecidableEq, Repr

/-- A package block that is being programmed (R648). -/
structure BlockWrite where
  index   : Nat                -- S| 10 | 17 R648
  crc     : Nat                -- S| 32 | 17 R648
  data    : List Byte          -- S| at most 65,536 bytes | 17 R648
  src     : Nat                -- S| 4, source of its command | 17 R648
  fails   : Nat := 0           -- S| 2, programs that failed | 17 R648 | 0
deriving DecidableEq, Repr

/-- A unit entry of the package header (R646). -/
structure UnitEntry where
  unit    : Nat            -- S| 8 | 17 R646
  present : Bool           -- S| 1, FLAGS bit 0 | 17 R646
  kept    : Bool           -- S| 1, FLAGS bit 1 | 17 R646
  version : Nat            -- S| 32 | 17 R646
  sec     : Nat            -- S| 32 | 17 R646
  off     : Nat            -- S| 32, PKG_OFFSET | 17 R646
  len     : Nat            -- S| 32, LENGTH | 17 R646
  dest    : Nat            -- S| 32, DEST | 17 R646
  digest  : List Byte      -- S| 48 bytes | 17 R646
deriving DecidableEq, Repr

/-- The update engine and its flash. -/
structure Update where
  stage     : Nat := 0                 -- S| 3 | 17 R647 | 0 IDLE (DESIGN CHOICE 36: a new module)
  kind      : Nat := 0xFF              -- S| 8 | 17 R663 | 0xFF not known
  attempt   : Nat := 0                 -- S| 2 | 17 R656 | 0
  digest    : List Byte := List.replicate 48 0 -- S| PACKAGE_DIGEST, 48 bytes | 17 R649 | 0 (DESIGN CHOICE 36)
  len       : Nat := 0                 -- S| PACKAGE_LEN, 32 | 17 R649 | 0 (DESIGN CHOICE 36)
  missing   : Nat := 0                 -- S| 1,023, blocks not yet verified | 17 R649 | 0 (DESIGN CHOICE 36)
  staged    : Tab (List Byte) := []    -- S| staging area by package block | 17 R643 | none
  toErase   : List Nat := []           -- S| package blocks whose staging block is not erased yet, in order | 17 R649 | none
  tries     : Tab (Nat × Nat) := []    -- S| failed attempts and last CAUSE of a missing block | 17 R648 R662 | none
  write     : List BlockWrite := []    -- S| UPDATE_BLOCKs in progress, MB0's first | 17 R648 | none
  entries   : List JEntry := []        -- S| journal entries, at most 255 | 17 R651 | none
  plan      : List Nat := []           -- S| targets of the activation in order | 17 R652 | none
  step      : Nat := 0                 -- S| 4: 0 slot copy, 1 COMPLETE, 2 target, 3 DONE, 4 loader copy, 5 bundle, 6 to 9 handover of BE0 to BE3, 10 replay | 17 R652 R654 | 0
  resetAfter : Bool := false           -- S| FLAGS.RESET of UPDATE_ACTIVATE | 17 R667 | 0
  hitless   : Bool := false            -- S| a hitless activation without a reset since | 17 R658 | 0
  resident  : Bool := false            -- S| old code resident in LPDDR | 17 R654 | 0
  eraseDue  : Bool := false            -- S| journal erase pending | 17 R657 | 0
  units     : Nat := 0                 -- S| 10, units of the package | 17 R645 | 0
  winAt     : Nat := 0                 -- S| 64, always-on time at which the window (re)started, units of 1.6 ns | 17 R656 | 0
  winLeft   : Nat := 0                 -- S| 64, what it had left then, units of 1.6 ns | 17 R656 | 0
  winOn     : Bool := false            -- S| the window runs | 17 R656 | 0
  winSince  : Nat := 0                 -- S| 64, Meridian time of the window's start, ns | 17 R662 | 0
  failed    : Option Nat := none       -- S| health check that failed and is not answered yet | 17 R656 | none
  back      : Option (Nat × Nat × Nat × Nat) := none -- S| fallback in progress: CAUSE, MODE, CHECK, time it began | 17 R658 | none
  blocksBad : Nat := 0                 -- S| 32 saturates | 17 R663 | 0
  confirmed : Nat := 0                 -- S| 32 saturates | 17 R663 | 0
  fallbacks : Nat := 0                 -- S| 32 saturates | 17 R663 | 0
  params    : UpdParams := {}          -- S| parameters | 17 R670 | defaults
  copies    : List (Option LoaderCopy) := [none, none] -- S| loader copies 0 and 1; none: as at manufacture | 17 R643 | as at manufacture
  booted    : Nat := 0                 -- S| 1, the copy that booted | 17 R645 | 0 (DESIGN CHOICE 36)
  image     : Tab (List Byte) := []    -- S| image area by block; unlisted: as at manufacture | 17 R643 | as at manufacture
  bundles   : List (Option BundleGen) := [none, none] -- S| bundle generations 0 and 1 | 17 R643 | none (R652: a new module)
  force     : Option Nat := none       -- S| 1, the bundle generation in force | 17 R652 | none
  sets      : List (Option SetGen) := [none, none] -- S| settings generations 0 and 1, that in force as last pinned | 17 R643 | none (DESIGN CHOICE 36)
  curSet    : Nat := 0                 -- S| 1, the settings generation in force | 17 R659 | 0
  pinned    : Option Nat := none       -- S| 1, the pinned settings generation | 17 R659 | none
  moved     : Bool := false            -- S| the unconfirmed Ikiora has taken its settings over | 17 R659 | 0
  minSec    : List Nat := List.replicate 10 0 -- S| island's minimum security versions, 10 × 32 | 17 R650 | 0 (DESIGN CHOICE 36)
deriving DecidableEq, Repr

end Sys2Proof
end

