-- ==== Sys2Proof/Machine/State.lean ====
section
/-! DEFINITION. The state of the block, its state after reset, and the reasons a step can stop. -/

namespace Sys2Proof.Machine

/-- The state of the KZ9600: the blocks of the chapters, the host memory that it reaches by DMA, and the queue of the commands that wait. -/
structure State where
  mb      : Mailbox := {}   -- S| the mailbox service | 03 R70 to R95 | as its fields say
  eqs     : List EvQueue := [{ vec := 0 }, { vec := 1 }, { vec := 2 }, { vec := 3 }] -- S| EQ0–EQ3 | 02 R59 | as its fields say, VEC n
  routes  : Tab Route := [] -- S| event routes by type; unlisted: EQ0, MIN_SEV 0 | 04 R139 | EQ0, 0
  host    : HostLink := {}  -- S| H0 | 02 R41 to R69 | as its fields say
  dma     : Dma := {}       -- S| rings, steering and ATU | 02 R60 to R64 | as its fields say
  hostMem : Mem := []       -- S| host memory as DMA reaches it; unlisted bytes read 0 | 04 R127 | outside the device: nothing listed (DESIGN CHOICE 3)
  ports   : Ports := {}     -- S| ports, PHYs and PSE | 05 | as its fields say
  ep      : Epochs := {}    -- S| table epochs | 08 R316 to R320 | as its fields say
  ing     : Ingress := {}   -- S| ingress state outside the epoch tables | 06 | as its fields say
  hor     : Horizon := {}   -- S| Horizon state outside the epoch tables | 07 | as its fields say
  fab     : Fabric := {}    -- S| fabric and output buffer | 08 | as its fields say
  egr     : Egress := {}    -- S| egress | 09 | as its fields say
  time    : Time := {}      -- S| Meridian | 10 | as its fields say
  leg     : Legacy := {}    -- S| legacy channels and bus engines | 11 | as its fields say
  gw      : Gateway := {}   -- S| gateway | 12 | as its fields say
  power   : Power := {}     -- S| power controller | 13 | as its fields say
  keys    : Keys := {}      -- S| security island, keys, MACsec | 14 | as its fields say
  boot    : Boot := {}      -- S| boot and attestation | 15 | as its fields say
  lode    : Lodestar := {}  -- S| Lodestar | 16 | as its fields say
  upd     : Update := {}    -- S| update engine and flash | 17 | as its fields say
  pair    : Pair := {}      -- S| pair and consist | 18 | as its fields say
  carve   : Nat := 0        -- S| 8, domains of the bundle's carve | 06 R190 | 0 (DESIGN CHOICE 35)
  free    : Nat := 0        -- S| counter to which the free values of Config are applied (the model's own, not the spec's) | none | DESIGN CHOICE 1
  pending : List Instr := [] -- S| commands waiting, first in, first out (the model's own) | none | empty (DESIGN CHOICE 1)
deriving DecidableEq, Repr

/-- Why a step stops with a fault. -/
inductive Fault where
  /-- Raised by no meaning of this model: the block goes on after every command. Safe. -/
  | none'
deriving DecidableEq, Repr

/-- Why a command has no meaning. -/
inductive Refusal where
  /-- Raised by an arm of `exec` for a row that has no meaning yet; no arm does. Safe. -/
  | notModelled (mnemonic : String)
deriving DecidableEq, Repr

/-- The module as it stands before power: every register at its reset value, the flash and the island's storage as at manufacture, nothing
commanded. COLD_POWER_ON starts it (R510, R582). -/
def State.reset : State := {}

end Sys2Proof.Machine
end

