-- ==== Sys2Proof/Machine/Ops.lean ====
section
/-! DEFINITION. The named operations over the state that every family uses: raising events and routing them (R104 to R112,
R217, R625), interrupts (R45, R111), address translation (R127 to R130), performance counting (R57). -/

namespace Sys2Proof.Machine

/-- `LEVEL` of an event that concerns no level (R3). -/
def noLevel : Nat := 0xF

/-- A source ID: class in bits [15:12], index in [11:0] (R106). -/
def srcId (cls idx : Nat) : Nat := cls * 0x1000 + idx % 0x1000

/-- Meridian time in 2⁻⁴⁸ ns at `d` raw counts after the anchor (R372). -/
def fineAfter (t : Time) (d : Nat) : Int := (t.tA : Int) + (d : Int) * 8 * (281474976710656 + 16 * t.rate) / 5

/-- Raw counts since the anchor (R371 wraps at 64 bits). -/
def sinceAnchor (t : Time) : Nat := (t.raw + 2 ^ 64 - t.rawA) % 2 ^ 64

/-- Meridian time in 2⁻⁴⁸ ns (R372). -/
def fineNow (t : Time) : Nat := (fineAfter t (sinceAnchor t)).toNat

/-- Meridian time of the state, in nanoseconds, rounded down (R8, R372). -/
def State.now (s : State) : Nat := fineNow s.time / 281474976710656

/-- Advance counter `n` of the list and, through `CHAIN`, the counters after it (R57). `carry` is the count the previous
counter passes on. -/
def perfStep (code n : Nat) : List PerfCnt → Nat → List PerfCnt
  | [], _ => []
  | c :: cs, carry =>
    let add := if c.chain then carry else if c.event = code ∧ code ≠ 0 then n else 0
    let add := if c.en then add else 0
    let sum := c.count + add
    { c with count := sum % 2 ^ 32 } :: perfStep code n cs (sum / 2 ^ 32)

/-- Count `n` occurrences of performance event `code` at the counters (R57, R627, R628). A frame head accepted (0x002) takes its clock from
those counted by 0x003. -/
def perfHost (h : HostLink) (code n : Nat) : HostLink :=
  let h1 := if code = 2 then { h with headDebt := h.headDebt + n } else h
  if h1.perfFreeze then h1 else { h1 with perf := perfStep code n h1.perf 0 }

/-- `n` pipeline clocks (R57, R627, R628): `PERF_CYCLE` runs on under `FREEZE`. -/
def clockHost (h : HostLink) (n : Nat) : HostLink :=
  let idle := n - h.headDebt
  perfHost (perfHost { h with perfCycle := wrapAdd 64 h.perfCycle n, headDebt := h.headDebt - n } 1 n) 3 idle

/-- The state `n` raw counts later: the raw count, the always-on clock, the uptime and the pipeline clock, a quarter as fast in Dusk (R628), move on (R57, R371); in Night and Dark
the always-on clock alone (R393, R394). -/
def State.later (s : State) (n : Nat) : State :=
  if s.power.on && s.power.state ≥ 2 then { s with time := { s.time with aon := s.time.aon + n } } else
  { s with
    time := { s.time with raw := (s.time.raw + n) % 2 ^ 64, aon := s.time.aon + n }
    mb := { s.mb with uptimeMs := (s.mb.upCounts + n) / 625000, upCounts := s.mb.upCounts + n }
    host := clockHost s.host (if s.power.on && s.power.state == 1 then (s.mb.upCounts + n) / 4 - s.mb.upCounts / 4 else n) }

/-- What happens where no command waits: one raw count passes while the module is on (R371). -/
def State.idle (s : State) : State := if s.power.on then s.later 1 else s

/-- Raw counts from now until Meridian time `t` (R372). -/
def countsUntil (s : State) (t : Nat) : Nat :=
  let d := t - s.now
  if d = 0 then 0 else (((d : Int) * 5 * 17592186044416) / (8 * (17592186044416 + s.time.rate)) + 1).toNat

/-- The state when Meridian time `t` has come: a row that stands for a moment moves the clock on to it (assumption 2). -/
def State.until (s : State) (t : Nat) : State := if t ≤ s.now then s else s.later (countsUntil s t)

/-- The life-cycle state: 0 BLANK, 1 DEVELOPMENT, 2 DEPLOYED, 3 SERVICE, 4 RETIRED (R528, R530). -/
def State.lifecycle (s : State) : Nat := s.keys.record.getLastD 0

/-- The event queue `q` of the state. -/
def State.eq (s : State) (q : Nat) : EvQueue := at' s.eqs q {}

/-- The state with event queue `q` changed. -/
def State.modEq (s : State) (q : Nat) (f : EvQueue → EvQueue) : State := { s with eqs := s.eqs.modify q f }

/-- The ring block `k` of the state. -/
def State.ring (s : State) (k : Nat) : Ring := at' s.dma.rings k {}

/-- The state with ring block `k` changed. -/
def State.modRing (s : State) (k : Nat) (f : Ring → Ring) : State :=
  { s with dma := { s.dma with rings := s.dma.rings.modify k f } }

/-- The state with its host-link registers changed. -/
def State.modHost (s : State) (f : HostLink → HostLink) : State := { s with host := f s.host }

/-- The state with its mailbox service changed. -/
def State.modMb (s : State) (f : Mailbox → Mailbox) : State := { s with mb := f s.mb }

/-- The state with its ATU changed. -/
def State.modAtu (s : State) (f : Atu → Atu) : State := { s with dma := { s.dma with atu := f s.dma.atu } }

/-! ### Interrupts -/

/-- Raise MSI-X vector `v` (R45): sent at once, or its pending bit set while the vector is masked or the function is in
D3hot (R731). -/
def raiseVec (s : State) (v : Nat) : State :=
  let e := at' s.host.msix v {}
  if e.mask || s.host.d3hot then s.modHost (fun h => { h with msixPend := withBit h.msixPend v true })
  else s.modHost (fun h => { h with msixSent := tmod h.msixSent v 0 (· + 1) })

/-! ### Performance counters -/

/-- Count `n` occurrences of performance event `code` (R57, R627). -/
def perfCount (s : State) (code n : Nat) : State := s.modHost fun h => perfHost h code n

/-! ### Events -/

/-- The route of an event type; the default is EQ0 with `MIN_SEV` 0 (R139). -/
def State.route (s : State) (ty : Nat) : Route := tgetD s.routes ty {}

/-- The lowest-numbered enabled event queue other than `skip` (R112). -/
def lowestEq (s : State) (skip : Nat) : Option Nat :=
  (List.range 4).find? (fun q => (s.eq q).en && q != skip)

/-- The queue to which an event is delivered now, if any (R112). EQ_OVERFLOW is written by the queue itself (R110) and is
never routed. -/
def deliverTo (s : State) (r : EvRec) : Option Nat :=
  let rt := s.route r.type
  if r.type = 0x05 then lowestEq s (r.source % 0x1000)
  else if r.type = 0x00 ∨ r.type = 0x01 then
    if rt.queue < 4 ∧ (s.eq rt.queue).en then some rt.queue else lowestEq s 4
  else if rt.queue < 4 ∧ (s.eq rt.queue).en ∧ rt.minSev ≤ r.sev then some rt.queue else none

/-- Whether the persistent log receives the event (R625). -/
def logTakes (s : State) (r : EvRec) : Bool := s.lode.cfg.logMinSev ≤ r.sev || (0x90 ≤ r.type && r.type ≤ 0xBF)

/-- A record joins the log's 512-record queue, or is lost and counted (R623). -/
def logPut (s : State) (r : LogRec) : State :=
  if s.lode.logQueue.length < 512 then { s with lode := { s.lode with logQueue := s.lode.logQueue ++ [r] } }
  else { s with lode := { s.lode with logLost := satAdd 32 s.lode.logLost 1, lostRun := s.lode.lostRun + 1 } }

/-- A record that falls due in D3hot is held, or lost beyond 16 (R731). -/
def holdRec (now : Nat) (e : EvQueue) (x : Nat × EvRec) : EvQueue :=
  if e.held.length < 16 ∧ e.heldLost.isNone then { e with held := e.held ++ [x] }
  else { e with overflow := true, lost := satAdd 16 e.lost 1, heldLost := e.heldLost.or (some (x.1, now)) }

/-- A record is delivered to queue `q`: it takes the next sequence number (R108). While `FAULT` is set it is lost (R114); in D3hot it is
held (R731). -/
def deliver (s : State) (q : Nat) (r : EvRec) : State :=
  s.modEq q (fun e =>
    let e1 := { e with seq := wrapAdd 32 e.seq 1 }
    if e.fault then { e1 with lost := satAdd 16 e1.lost 1 }
    else if s.host.d3hot then holdRec s.now e1 (e.seq, r)
    else { e1 with toWrite := e1.toWrite ++ [(e.seq, r)] })

/-- An event record as it is laid out (R104). -/
def eventBytes (r : EvRec) (seq : Nat) (phase : Bool) : List Byte :=
  le 4 (r.type % 256 + 256 * b2n phase + 512 * (r.sev % 8) + 4096 * (r.level % 16) + 65536 * (r.source % 65536)) ++ le 4 seq ++
    le 8 r.time ++ padTo 16 r.payload

/-- Deliver an event (R112) and give it to the log (R625). -/
def emit (s : State) (r : EvRec) : State :=
  let q := deliverTo s r
  let seq := match q with
    | some q => (s.eq q).seq
    | none => 0
  let s1 := if logTakes s r then logPut s { kind := 0, seq := seq, ev := r, detail := [], uptimeMs := s.mb.uptimeMs } else s
  match q with
  | some q => deliver s1 q r
  | none =>
    if r.type = 0x00 ∨ r.type = 0x01 then
      s1.modHost (fun h => { h with heldHost := (h.heldHost ++ [r]).drop (h.heldHost.length + 1 - 16) })
    else s1

/-- Raise an event (R104, R112, R625): type, severity, level, source and payload. -/
def raise (s : State) (ty sev level source : Nat) (payload : List Byte) : State :=
  emit s { type := ty, sev := sev, level := level, source := source, time := s.now, payload := padTo 16 payload }

/-- One second in nanoseconds. -/
def secondNs : Nat := 1000000000

/-- An occurrence of a sampled event, sampled under `key` (R217, R261): raised if none under the key was raised in the last
second, with the occurrences since the previous one; else only counted. `mk` builds the payload from the count. -/
def raiseSampledKey (s : State) (key ty sev level source : Nat) (mk : Nat → List Byte) : State :=
  let m := tgetD s.ing.samples key {}
  let due := match m.last with
    | none => true
    | some t => t + secondNs ≤ s.now
  if due then
    raise { s with ing := { s.ing with samples := tset s.ing.samples key { last := some s.now, count := 0 } } }
      ty sev level source (mk (m.count + 1))
  else { s with ing := { s.ing with samples := tset s.ing.samples key { m with count := m.count + 1 } } }

/-- An occurrence of a sampled event: one sample per type and source and second (R217). -/
def raiseSampled (s : State) (ty sev level source : Nat) (mk : Nat → List Byte) : State :=
  raiseSampledKey s (65536 * ty + source) ty sev level source mk

/-! ### Address translation -/

/-- The causes of a translation fault (R130). -/
inductive FaultCause where
  | ctxInvalid | notPresent | noRead | noWrite | badLeaf | walkError | addrRange | dataError
deriving DecidableEq, Repr

/-- The code of a fault cause (R130). -/
def FaultCause.code : FaultCause → Nat
  | .ctxInvalid => 0
  | .notPresent => 1
  | .noRead => 2
  | .noWrite => 3
  | .badLeaf => 4
  | .walkError => 5
  | .addrRange => 6
  | .dataError => 7

/-- What a table walk finds: a leaf (page size as a power of two, bus address, R, W), or a fault. -/
inductive Walk where
  | leaf (size addr : Nat) (rd wr : Bool)
  | bad (c : FaultCause)
deriving DecidableEq, Repr

/-- Walk the tables from the table at `tbl` of level `lvl` (R127, R128); second component: table entries read. -/
def walkFrom (m : Mem) (iova : Nat) : Nat → Nat → Nat → Walk × Nat
  | 0, _, _ => (.bad .walkError, 0)
  | fuel + 1, lvl, tbl =>
    let shift := 12 + 9 * lvl
    let e := leNat (mread m (tbl + 8 * ((iova >>> shift) % 512)) 8)
    let addr := bits e 63 12 * 4096
    if !bit e 0 then (.bad .notPresent, 1)
    else if lvl = 0 then (.leaf 12 addr (bit e 1) (bit e 2), 1)
    else if bit e 3 then
      if lvl = 3 then (.bad .badLeaf, 1)
      else if addr % 2 ^ shift ≠ 0 then (.bad .badLeaf, 1)
      else (.leaf shift addr (bit e 1) (bit e 2), 1)
    else
      let r := walkFrom m iova fuel (lvl - 1) addr
      (r.1, r.2 + 1)

/-- The cached translation of an IOVA in a context (R129). -/
def tlbFind (t : List TlbEntry) (ctx iova : Nat) : Option TlbEntry :=
  t.find? (fun e => e.ctx == ctx && e.page == iova / 2 ^ e.size * 2 ^ e.size)

/-- Count a translation fault in its context and device-wide (R62, R130, R136). -/
def countFault (s : State) (ctx : Nat) : State :=
  s.modAtu (fun a => { a with
    faults := satAdd 32 a.faults 1
    ctxs := a.ctxs.modify ctx (fun c => { c with faulted := true, faults := satAdd 16 c.faults 1 }) })

/-- The outcome of one translated access: the bus address or the cause of a fault, and the state (IOTLB, counters). -/
structure Access where
  res : Except FaultCause Nat
  st  : State

/-- The permission check of a leaf (R128, R130). -/
def leafCheck (write rd wr : Bool) (addr : Nat) : Except FaultCause Nat :=
  if write then (if wr then .ok addr else .error .noWrite) else (if rd then .ok addr else .error .noRead)

/-- Translate one access through a context (R127 to R130). A failed walk, one that ends in a leaf without the permission included, is never cached; the
fault is counted. -/
def translate (s : State) (ctx iova : Nat) (write : Bool) : Access :=
  let c := at' s.dma.atu.ctxs ctx {}
  if iova ≥ 2 ^ 48 then { res := .error .addrRange, st := countFault s ctx }
  else if ctx = 0 ∨ !c.valid then { res := .error .ctxInvalid, st := countFault s ctx }
  else match tlbFind s.dma.atu.tlb ctx iova with
    | some e =>
      let s1 := s.modAtu (fun a => { a with hits := wrapAdd 64 a.hits 1 })
      match leafCheck write e.rd e.wr (e.addr + iova % 2 ^ e.size) with
      | .ok a => { res := .ok a, st := s1 }
      | .error f => { res := .error f, st := countFault s1 ctx }
    | none =>
      let w := walkFrom s.hostMem iova 4 3 (c.root * 4096)
      let s1 := perfCount (s.modAtu (fun a => { a with misses := wrapAdd 64 a.misses 1, reads := wrapAdd 64 a.reads w.2 })) 0x41 1
      match w.1 with
      | .bad f => { res := .error f, st := countFault s1 ctx }
      | .leaf size addr rd wr =>
        let e : TlbEntry := { ctx := ctx, page := iova / 2 ^ size * 2 ^ size, size := size, addr := addr, rd := rd, wr := wr }
        match leafCheck write rd wr (addr + iova % 2 ^ size) with
        | .ok a => { res := .ok a, st := s1.modAtu (fun a => { a with tlb := (e :: a.tlb).take 1024 }) }
        | .error f => { res := .error f, st := countFault s1 ctx }

/-- The outcome of a DMA transfer: bytes read, or the fault with the offset it met. -/
structure Transfer where
  data  : List Byte := []
  fault : Option (FaultCause × Nat) := none
  st    : State

/-- Read `n` bytes at `iova`, translating at the start and at every 4 KiB boundary. `fuel` bounds the pages. -/
def dmaRead : Nat → State → Nat → Nat → Nat → Nat → Transfer
  | 0, s, _, _, _, _ => { st := s }
  | fuel + 1, s, ctx, iova, n, off =>
    if n = 0 then { st := s } else
    let chunk := min n (4096 - iova % 4096)
    let a := translate s ctx iova false
    match a.res with
    | .error f => { st := a.st, fault := some (f, off) }
    | .ok addr =>
      let r := dmaRead fuel (perfCount a.st 0x40 ((chunk + 63) / 64)) ctx (iova + chunk) (n - chunk) (off + chunk)
      { r with data := mread s.hostMem addr chunk ++ r.data }

/-- Write a byte string at `iova`, translating at the start and at every 4 KiB boundary. -/
def dmaWrite : Nat → State → Nat → Nat → List Byte → Nat → Transfer
  | 0, s, _, _, _, _ => { st := s }
  | fuel + 1, s, ctx, iova, p, off =>
    if p.isEmpty then { st := s } else
    let chunk := min p.length (4096 - iova % 4096)
    let a := translate s ctx iova true
    match a.res with
    | .error f => { st := a.st, fault := some (f, off) }
    | .ok addr =>
      dmaWrite fuel (perfCount { a.st with hostMem := mwrite a.st.hostMem addr (p.take chunk) } 0x40 ((chunk + 63) / 64)) ctx (iova + chunk)
        (p.drop chunk) (off + chunk)

/-- Read `n` bytes at `iova` (R86, R119). -/
def readHost (s : State) (ctx iova n : Nat) : Transfer := dmaRead (n / 4096 + 2) s ctx iova n 0

/-- Write bytes at `iova` (R86, R107, R124). -/
def writeHost (s : State) (ctx iova : Nat) (p : List Byte) : Transfer := dmaWrite (p.length / 4096 + 2) s ctx iova p 0

end Sys2Proof.Machine
end

