-- ==== Sys2Proof/Machine/Command.lean ====
section
/-! DEFINITION. The command protocol every mailbox command shares (spec 03, R70 to R95; commits R316 to R319): the checks in
their order, the execution, the commit, the completion. A family gives each command one `CmdSpec`. -/

namespace Sys2Proof.Machine

/-! ### Status codes (R78) -/

def stOk : Nat := 0x0000
def stClamped : Nat := 0x0001
def stRetry : Nat := 0x0002
def stBadOpcode : Nat := 0x0010
def stBadLength : Nat := 0x0011
def stBadVersion : Nat := 0x0012
def stNotPermitted : Nat := 0x0013
def stBusy : Nat := 0x0014
def stNoResource : Nat := 0x0015
def stConflict : Nat := 0x0016
def stFault : Nat := 0x0017
def stNotSupported : Nat := 0x0018
def stTimeout : Nat := 0x0019
def stPolicy : Nat := 0x001A
def stLocked : Nat := 0x001B

/-- `DETAIL` where no field applies (R76). -/
def noDetail : Nat := 0xFFFFFFFF

/-- What a command that ran to its end hands on: its completion payload, the payload offsets of the fields it clamped,
the state with its effects, and, for a command that changed epoch tables, the TABLES bits of its EPOCH_COMMIT (R323). -/
structure Done where
  payload : List Byte := []
  clamps  : List Nat := []
  st      : State
  tables  : Nat := 0
  commits : Bool := false
  tokenUsed : Bool := false
  /-- What follows the completion (R102, R532). -/
  after   : State → State := id

/-- What the body of a command answers (steps 8 and 9 of R77). -/
inductive Result where
  | fail (status detail : Nat)
  | failWith (status detail : Nat) (payload : List Byte) (st : State)
  | done (d : Done)
  | retry (token afterMs : Nat) (st : State)
  | wait (kind : WaitKind) (st : State)

/-- One command of the command set: its opcode and level, what R732 permits, its length rule, its permission, whether it needs
keys, and its body over the whole request payload. -/
structure CmdSpec where
  opcode    : Nat
  level     : Nat := 0xF
  /-- False for an opcode that no chapter defines (R77 step 1, R103). -/
  known     : Bool := true
  bulkIn    : Bool := false
  bulkOut   : Bool := false
  /-- `DETAIL` of BAD_LENGTH for a payload of `total` bytes of which the list has been read, if the length is wrong (R733). -/
  badLen    : List Byte → Nat → Option Nat
  permitted : State → Req → Bool := fun _ _ => true
  needsKeys : List Byte → Bool := fun _ => false
  body      : State → Req → List Byte → Result

/-- The length rule of a payload of fixed size. -/
def lenIs (n : Nat) (_ : List Byte) (total : Nat) : Option Nat := if total = n then none else some n

/-- The length rule of a list command (R218, R733): 4 + `COUNT` × entry size, `COUNT` at least 1. -/
def lenList (entry : Nat) (p : List Byte) (total : Nat) : Option Nat :=
  let want := 4 + max 1 (u p 0 2) * entry
  if p.length < 4 then (if total < 4 then some (4 + entry) else none)
  else if u p 0 2 = 0 then some (4 + entry)
  else if total = want then none else some want

/-- The length rule of a header of `hdr` bytes with a count of `n` bytes at `off`, followed by that many entries. -/
def lenCounted (hdr off n entry : Nat) (p : List Byte) (total : Nat) : Option Nat :=
  if p.length < hdr then (if total < hdr then some hdr else none)
  else if total = hdr + u p off n * entry then none else some (hdr + u p off n * entry)

/-- Every payload length is allowed. -/
def lenAny (_ : List Byte) (_ : Nat) : Option Nat := none

/-! ### Checks within a body -/

/-- One check of step 8 of R77: whether it fails, with which status and which payload offset. -/
structure Check where
  bad    : Bool
  status : Nat
  off    : Nat := noDetail

/-- The first failing check. -/
def firstBad (cs : List Check) : Option Check := cs.find? (·.bad)

/-- An undefined enumerated value or an index outside the population (R80). -/
def chkSup (bad : Bool) (off : Nat) : Check := { bad := bad, status := stNotSupported, off := off }

/-- A contradiction of current state or an object that is not configured (R80). -/
def chkConf (bad : Bool) (off : Nat) : Check := { bad := bad, status := stConflict, off := off }

/-- A broken rule of the device (R78). -/
def chkPol (bad : Bool) (off : Nat) : Check := { bad := bad, status := stPolicy, off := off }

/-- Run a body after its checks. -/
def checked (cs : List Check) (k : Unit → Result) : Result :=
  match firstBad cs with
  | some c => .fail c.status c.off
  | none => k ()

/-- A parameter clamped to its range: its value and the offset if it was clamped (R18, R79). -/
structure Clamped where
  val : Nat
  off : List Nat

/-- Clamp the field at offset `off` (R18). -/
def clampField (off lo hi x : Nat) : Clamped := { val := clampTo lo hi x, off := if lo ≤ x ∧ x ≤ hi then [] else [off] }

/-! ### Epochs -/

/-- The older epoch drains once its in-flight count is 0 (R319): its tables are freed, counting for deleted indices ends,
EPOCH_DRAINED is raised and the revocation sweep starts (R264). -/
def settleEpoch (s : State) : State :=
  if s.ep.draining ∧ s.ep.inOld = 0 then
    raise { s with
        ep := { s.ep with draining := false, old := s.ep.cur, oldDiscards := 0, sweep := some 0 } }
      0x11 0 noLevel (srcId 0 0)
      (le 4 ((s.ep.epoch + 2 ^ 32 - 1) % 2 ^ 32) ++ le 4 (min ((s.now - s.ep.commitAt) / 1000) (2 ^ 32 - 1)) ++
        le 4 (min s.ep.oldDiscards (2 ^ 32 - 1)))
  else s

/-- A commit (R316): the tables of `t` come into force under the next epoch, those of `s` stay for the older epoch.
`t` is `s` with the command's effects; `src` is the source ID of EPOCH_COMMIT. -/
def commitEpoch (s t : State) (tables opcode tag src waitUs : Nat) : State :=
  let e := wrapAdd 32 s.ep.epoch 1
  let t1 := { t with ep := { t.ep with
      old := s.ep.cur, epoch := e, draining := true, inOld := s.ep.inCur, inCur := 0, commitAt := s.now, oldDiscards := 0 } }
  settleEpoch (raise t1 0x10 1 noLevel src
    (le 4 e ++ le 2 opcode ++ le 2 tag ++ le 1 tables ++ zeros 3 ++ le 4 (min waitUs (2 ^ 32 - 1))))

/-! ### Completions -/

/-- Index of the counters of a source: MB0 to MB7, then the remote sessions together (R94). -/
def counterIdx (src : Nat) : Nat := min src 8

/-- Count a completion (R94). -/
def countStatus (c : CmdCounters) (status : Nat) : CmdCounters :=
  if status = stOk then { c with ok := wrapAdd 32 c.ok 1 }
  else if status = stClamped then { c with clamped := wrapAdd 32 c.clamped 1 }
  else if status = stRetry then { c with retry := wrapAdd 32 c.retry 1 }
  else if status = stBusy then { c with busy := wrapAdd 32 c.busy 1 }
  else if status = stFault ∨ status = stTimeout then { c with fault := wrapAdd 32 c.fault 1 }
  else { c with rejected := wrapAdd 32 c.rejected 1 }

/-- A completion before it is laid out (R76). -/
structure Completion where
  version  : Nat := 1
  level    : Nat
  status   : Nat
  payload  : List Byte := []
  advanced : Bool := false
  tokenUsed : Bool := false
  detail   : Nat := noDetail
  clamps   : Nat := 0
  retryMs  : Nat := 0
  token    : Nat := 0
  bulkDone : Nat := 0

/-- The completion header (R76). -/
def completionHeader (s : State) (c : Cmd) (k : Completion) : List Byte :=
  le 2 c.opcode ++ le 1 k.version ++ le 1 (b2n k.advanced + 2 * b2n k.tokenUsed) ++ le 2 k.payload.length ++ le 2 c.req.tag ++
  le 2 k.status ++ le 1 k.level ++ le 1 (min c.req.src 8) ++ le 4 s.ep.epoch ++ le 4 k.detail ++ le 2 (min k.clamps 65535) ++
  le 2 k.retryMs ++ le 4 k.token ++ le 4 k.bulkDone

/-- Write a completion for its source: into the window, `MB_DONE` set and the doorbell bit cleared, then the vector
(R55); or as a message on the remote session (R92). `remoteOut` is a remote session's bulk output. -/
def writeCompletion (s : State) (c : Cmd) (k : Completion) (remoteOut : List Byte) : State :=
  let n := c.req.src
  if n < 8 then
    let s1 := s.modMb (fun m => { m with
      windows := mwrite m.windows (n * 0x1000 + 0x800) (completionHeader s c k ++ k.payload)
      done := withBit m.done n true
      ring := withBit m.ring n false })
    if s.mb.irqEn then raiseVec s1 s.mb.irqVec else s1
  else
    let msg := completionHeader s c k ++ k.payload ++ remoteOut
    s.modMb (fun m => { m with
      sessions := m.sessions.modify (n - 8) (fun x => { x with outbox := x.outbox ++ [be 4 msg.length ++ msg] }) })

/-- The persistent log's record of a command whose completion was discarded (R65, R93; `KIND` 1 of R621). -/
def logDiscarded (s : State) (c : Cmd) (status : Nat) : State :=
  logPut s {
    kind := 1, seq := 0, ev := { type := 0, sev := 0, level := 0, source := 0, time := s.now, payload := [] },
    detail := le 2 c.opcode ++ le 2 c.req.tag ++ le 1 (min c.req.src 8) ++ le 2 status ++ zeros 7, uptimeMs := s.mb.uptimeMs }

/-- What a reset of H0 does once no command of a mailbox executes any more (R65, R66): windows, doorbells and `MB_DONE` are cleared, and
HOST_RESET is raised. -/
def resetEnds (s : State) : State :=
  match s.mb.resetDue with
  | none => s
  | some (kind, discarded, locks) =>
    if s.mb.waiting.any fun w => w.cmd.req.src < 8 then s else
    raise (s.modMb fun m => { m with resetDue := none, windows := [], ring := 0, done := 0 }) 0x01 2 noLevel (srcId 1 33)
      (le 1 kind ++ le 1 (min discarded 255) ++ le 2 (min locks 65535) ++ le 4 s.host.fp12Drops)

/-- The end of a command: its completion counted (R94) and written, or discarded and logged (R65, R93). -/
def finish (s : State) (c : Cmd) (k : Completion) (remoteOut : List Byte) (drop : Bool) : State :=
  let s1 := s.modMb (fun m => { m with
    counters := m.counters.modify (counterIdx c.req.src) (fun x => countStatus x k.status) })
  if drop then resetEnds (logDiscarded s1 c k.status) else writeCompletion s1 c k remoteOut

/-- Raise MB_FAULT (R95). -/
def mbFault (s : State) (c : Cmd) (cause status iova : Nat) : State :=
  raise s 0x02 4 noLevel (srcId 3 c.req.src)
    (le 2 c.opcode ++ le 2 c.req.tag ++ le 1 (min c.req.src 8) ++ le 1 cause ++ le 2 status ++ le 8 iova)

/-- The end of a command without effect: its status and `DETAIL`, and MB_FAULT for FAULT and TIMEOUT (R95). -/
def reject (s : State) (c : Cmd) (level status detail : Nat) (drop : Bool) : State :=
  let s1 := if status = stFault then mbFault s c 1 status 0 else if status = stTimeout then mbFault s c 3 status 0 else s
  finish s1 c { level := level, status := status, detail := detail } [] drop

/-- The status of a command that was applied (R78). -/
def doneStatus (clamps : List Nat) : Nat := if clamps.isEmpty then stOk else stClamped

/-- A bulk read of the executing command (R86): a read that the host answered with an error, or not at all, is a fault (R130). -/
def bulkRead (s : State) (ctx iova n : Nat) : Transfer :=
  match s.dma.bulkErr with
  | some (off, table) =>
    { st := countFault { s with dma := { s.dma with bulkErr := none } } ctx
      fault := some (if table then .walkError else .dataError, min off (n - 1)) }
  | none => readHost s ctx iova n

/-- A bulk write of the executing command (R87): a page-table read that the host answered with an error is a fault (R130). -/
def bulkWrite (s : State) (ctx iova : Nat) (p : List Byte) : Transfer :=
  match s.dma.bulkErr with
  | some (off, true) => { st := countFault { s with dma := { s.dma with bulkErr := none } } ctx, fault := some (.walkError, min off (p.length - 1)) }
  | _ => writeHost s ctx iova p

/-- The end of a command that was applied: the output is written to the bulk buffer before the commit where `BULK_OUT` is set (R87,
R732), the epoch advances if the command changed epoch tables (R82), and the completion follows. -/
def finishDone (s : State) (c : Cmd) (level : Nat) (d : Done) (drop : Bool) (waitUs : Nat) : State :=
  d.after <|
  let out := d.payload
  let want := bit c.req.flags 2
  let k : Completion := {
    level := level, status := doneStatus d.clamps, advanced := d.commits, tokenUsed := d.tokenUsed,
    detail := d.clamps.headD noDetail, clamps := d.clamps.length }
  let commit := fun (t : State) =>
    if d.commits then commitEpoch s t d.tables c.opcode c.req.tag (srcId 3 c.req.src) waitUs else t
  if !want then
    if out.length > 2016 then finish s c { level := level, status := stBadLength, detail := out.length } [] drop
    else finish (commit d.st) c { k with payload := out } [] drop
  else if out.length > c.req.bulkLen then finish s c { level := level, status := stBadLength, detail := out.length } [] drop
  else if c.req.src < 8 then
    if s.host.d3hot then finish (mbFault s c 4 stFault 0) c { level := level, status := stFault } [] drop
    else
      let w := bulkWrite d.st c.req.ctx c.req.bulkIova out
      match w.fault with
      | some f => finish (mbFault { s with dma := { s.dma with atu := w.st.dma.atu } } c 0 stFault (c.req.bulkIova + f.2)) c
                    { level := level, status := stFault, detail := c.req.length + f.2 } [] drop
      | none => finish (commit w.st) c { k with bulkDone := out.length } [] drop
  else finish (commit d.st) c { k with bulkDone := out.length } out drop

/-- Whether the tamper fuse is blown (R556). -/
def fuseBlown (s : State) : Bool := s.keys.clearCount < s.keys.tamperCount

/-- Whether keys are locked: quarantine or a blown tamper fuse (R77 step 6, R556, R558). -/
def keysLocked (s : State) : Bool := s.keys.quarantine || fuseBlown s

/-- The header's length, bulk and alignment rules (step 4 of R77; R733 item 3). -/
def headerBad (sp : CmdSpec) (r : Req) : Bool :=
  let bi := bit r.flags 1
  let bo := bit r.flags 2
  r.length > 2016 || r.unmatched || (bi && !sp.bulkIn) || (bo && !sp.bulkOut) ||
  ((bi || bo) && ((r.src < 8 && (r.bulkIova % 64 != 0 || 2 ^ 48 ≤ r.bulkIova)) || r.bulkLen < 1 || r.bulkLen > 16777216))

/-- The total length of the request payload (R76). -/
def totalLen (r : Req) : Nat := r.length + if bit r.flags 1 then r.bulkLen else 0

/-- The inline payload, `LENGTH` bytes of it. -/
def inlineOf (r : Req) : List Byte := padTo r.length r.payload

/-- Whether `LEVEL` of the request breaks R75. -/
def levelBad (sp : CmdSpec) (r : Req) : Bool := let l := r.level % 16; l != 0xF && l != sp.level

/-- Steps 1 to 6 of R77: the status and `DETAIL` of the first failing check. -/
def preCheck (s : State) (sp : CmdSpec) (r : Req) : Option (Nat × Nat) :=
  if !sp.known then some (stBadOpcode, noDetail)
  else if r.version ≠ 1 then some (stBadVersion, noDetail)
  else if levelBad sp r then some (stNotSupported, noDetail)
  else if headerBad sp r then some (stBadLength, noDetail)
  else match sp.badLen (inlineOf r) (totalLen r) with
    | some d => some (stBadLength, d)
    | none =>
      if !sp.permitted s r then some (stNotPermitted, noDetail)
      else if keysLocked s && sp.needsKeys (inlineOf r) then some (stLocked, noDetail)
      else none

/-- Give back a body's answer (step 9 of R77). A commit that meets two live epochs answers BUSY under `NONBLOCK` and otherwise
waits for the drain (R82). `since` is set when the command had been waiting. -/
def settle (s : State) (c : Cmd) (sp : CmdSpec) (res : Result) (drop : Bool) (since : Option Nat) : State :=
  match res with
  | .fail status detail => reject s c sp.level status detail drop
  | .failWith status detail p st =>
    let s1 := if status = stFault then mbFault st c 1 status 0 else if status = stTimeout then mbFault st c 3 status 0 else st
    finish s1 c { level := sp.level, status := status, detail := detail, payload := p } [] drop
  | .retry token ms st => finish st c { level := sp.level, status := stRetry, token := token, retryMs := ms } [] drop
  | .wait kind st =>
    st.modMb (fun m => { m with waiting := { cmd := c, kind := kind, since := since.getD s.now, drop := drop } :: m.waiting })
  | .done d =>
    if d.commits ∧ s.ep.draining then
      if bit c.req.flags 0 then reject s c sp.level stBusy noDetail drop
      else s.modMb (fun m => { m with
        waiting := { cmd := c, kind := .drain, since := since.getD s.now, drop := drop } :: m.waiting })
    else finishDone s c sp.level d drop (match since with | some t => (s.now - t) / 1000 | none => 0)

/-- The version a completion carries: 1, or 0 for an unknown opcode (R76). -/
def versionOf (sp : CmdSpec) : Nat := b2n sp.known

/-- Run a command of the executor from step 1 of R77 to its end, or to a wait. `since` is set for a command that had been waiting: its bulk
payload has been fetched already and stands in `bulk`. -/
def runCommand (s : State) (sp : CmdSpec) (r : Req) (order : Nat) (drop : Bool) (since : Option Nat) : State :=
  let c : Cmd := { opcode := sp.opcode, req := r, order := order, level := sp.level }
  match preCheck s sp r with
  | some (st, d) => finish s c { level := sp.level, status := st, detail := d, version := versionOf sp } [] drop
  | none =>
    let run := fun (s : State) (bulk : List Byte) =>
      let p := inlineOf r ++ bulk
      match sp.badLen p (totalLen r) with
      | some d => finish s c { level := sp.level, status := stBadLength, detail := d } [] drop
      | none => settle s { c with req := { r with bulk := bulk } } sp (sp.body s r p) drop since
    if !bit r.flags 1 then settle s c sp (sp.body s r (inlineOf r)) drop since
    else if r.src ≥ 8 ∨ since.isSome then run s (padTo r.bulkLen r.bulk)
    else if s.host.d3hot then finish (mbFault s c 4 stFault 0) c { level := sp.level, status := stFault } [] drop
    else
      let t := bulkRead s r.ctx r.bulkIova r.bulkLen
      match t.fault with
      | some f => finish (mbFault t.st c 0 stFault (r.bulkIova + f.2)) c
                    { level := sp.level, status := stFault, detail := r.length + f.2 } [] drop
      | none => run t.st t.data

/-- Whether the executor is free for a command of source `src` (R73, R83): nothing executes, or MB0 preempts a waiting
command at its yield point. -/
def executorFree (s : State) (src : Nat) : Bool :=
  match s.mb.waiting with
  | [] => true
  | [w] => src = 0 && w.cmd.req.src != 0
  | _ => false

/-- Whether Ikiora serves commands (R30, R54): none while a MODULE_RESET waits out its delay (R102). -/
def serving (s : State) : Bool := s.host.ready && s.power.resetDue.isNone

/-- Whether a source already has a command submitted or in execution (R71, R93). -/
def sourceBusy (s : State) (src : Nat) : Bool :=
  if src < 8 then bit s.mb.ring src
  else s.mb.submitted.any (fun c => c.req.src == src) || s.mb.waiting.any (fun w => w.cmd.req.src == src)

/-- A command is submitted by `r.src`: a doorbell bit is set, or a message has come. A mailbox that is busy takes no second command (R71,
R72); a remote session that has one outstanding is answered BUSY (R93); a session that is not open sends nothing. The command runs at once
if the executor is free and Ikiora serves, and otherwise joins the submitted commands (R27, R73). -/
def submit (s : State) (sp : CmdSpec) (r : Req) : State :=
  let c : Cmd := { opcode := sp.opcode, req := r, order := s.mb.order, level := sp.level }
  if 12 ≤ r.src then s
  else if 8 ≤ r.src ∧ !(at' s.mb.sessions (r.src - 8) {}).isOpen then s
  else if r.src < 8 ∧ s.mb.resetDue.isSome then s
  else if sourceBusy s r.src then
    if r.src < 8 then s else finish s c { level := sp.level, status := stBusy, version := versionOf sp } [] false
  else
    let s1 := s.modMb (fun m => { m with
      order := m.order + 1, ring := if r.src < 8 then withBit m.ring r.src true else m.ring })
    if serving s ∧ executorFree s r.src then runCommand s1 sp r s.mb.order false none
    else s1.modMb (fun m => { m with submitted := m.submitted ++ [c] })

/-- The request header as it stands in a window or a message (R74). -/
def requestHeader (opcode : Nat) (r : Req) : List Byte :=
  le 2 opcode ++ le 1 r.version ++ le 1 r.flags ++ le 2 r.length ++ le 2 r.tag ++ le 4 r.token ++ le 1 r.level ++ le 1 r.ctx ++ zeros 2 ++
    le 8 r.bulkIova ++ le 4 r.bulkLen ++ zeros 4

/-- Steps 1 and 2 of R72: the request is written into the window of an idle mailbox, and its `MB_DONE` bit is cleared. A remote message brings
its request with it. -/
def postRequest (s : State) (opcode : Nat) (r : Req) : State :=
  if r.src < 8 ∧ !sourceBusy s r.src ∧ s.mb.resetDue.isNone then
    s.modMb fun m => { m with
      windows := mwrite m.windows (r.src * 0x1000) (requestHeader opcode r ++ r.payload.take 2016)
      done := withBit m.done r.src false }
  else s

/-- The request as the device reads it: a mailbox's bulk payload lies in host memory (R86). -/
def asSubmitted (r : Req) : Req := if r.src < 8 then { r with bulk := [], unmatched := false } else r

/-- The meaning of a mailbox command row: the command arrives from its source, in the steps of R72 or as a message (R92). -/
def command (sp : CmdSpec) (r : Req) (s : State) : Host.Outcome State Fault Refusal :=
  .next (submit (postRequest s sp.opcode r) sp (asSubmitted r))

end Sys2Proof.Machine
end

