-- ==== Sys2Proof/Machine/FabricOps.lean ====
section
/-! DEFINITION. The fabric's fixed geometry, the flow hash (R284) and the Zenith limits of R298. -/

namespace Sys2Proof.Machine

/-- The fabric port of an ingress or egress point (R24). -/
def fpOf (point : Nat) : Nat :=
  if point ≤ 3 then point else if point ≤ 27 then 4 + (point - 4) / 4 else if point ≤ 31 then 10
  else point - 21

/-- CRC-32C of R193 with an initial register value (R284). -/
def crc32cFrom (seed : Nat) (bs : List Byte) : Nat := (~~~(bs.foldl (crcByte 0x82F63B78#32) (BitVec.ofNat 32 seed))).toNat

/-- The flow-hash key of a frame (R284). -/
def hashKey (f : Frame) : List Byte :=
  match f.stream with
  | some h => be 2 h
  | none =>
    match f.parsed.ip with
    | some ip =>
      let l := f.parsed.l4
      be 1 f.domain ++ padTo 16 ip.src ++ padTo 16 ip.dst ++ be 1 ip.proto ++
        (if ip.frag then zeros 4 else be 2 (l.src.getD 0) ++ be 2 (l.dst.getD 0))
    | none => be 1 f.domain ++ be 2 f.vid ++ f.parsed.da ++ f.parsed.sa ++ be 2 f.parsed.etherType

/-- The middle buffer of a key (R284). -/
def middleOf (seed : Nat) (key : List Byte) : Nat := crc32cFrom seed key % 16

/-- The middle at which input `i` meets slot `t`, and the output at which middle `i` meets it (R282). -/
def meets (i t : Nat) : Nat := (i + t) % 16

/-- Cells of a frame of `len` bytes (R280). -/
def cellCount (len : Nat) : Nat := (32 + len + 63) / 64

/-- Fabric ports at which a stream handle is identified (R298): an entry with `PORTS` 0 counts at FP0 to FP14. -/
def handleFps (t : IngressTables) (h : Nat) : List Nat :=
  (List.range 15).filter fun fp => t.streamIds.any fun x =>
    x.2.handle == h && (x.2.ports == 0 || (bitList 36 x.2.ports).any fun p => fpOf p == fp)

/-- The Zenith reservations `(handle, CIR, CBS)` of the filters (R205). -/
def reservations (t : IngressTables) : List (Nat × Nat × Nat) :=
  t.filters.filterMap fun f => if bit f.2.flags 1 then (tget t.meters f.2.meter).map fun m => (f.2.handle, m.cir, m.cbs) else none

/-- Whether a handle is a wide stream. -/
def wideHandle (w : List WideEntry) (h : Nat) : Bool := w.any fun e => e.pending.getD e.handle == some h

/-- Twice the CIR pinned at (input, middle) in kb/s (R298 limit 1): a wide stream counts half at each of its two middles. -/
def pinnedCir2 (seed : Nat) (w : List WideEntry) (t : IngressTables) (fp m : Nat) : Nat :=
  ((reservations t).map fun r =>
    if !(handleFps t r.1).contains fp then 0
    else
      let k := middleOf seed (be 2 r.1)
      if wideHandle w r.1 then (if m = k ∨ m = (k + 1) % 16 then r.2.1 else 0) else if m = k then 2 * r.2.1 else 0).sum

/-- The CBS counted at an input (R298 limit 2), in bytes. -/
def pinnedCbs (t : IngressTables) (fp : Nat) : Nat :=
  ((reservations t).map fun r => if (handleFps t r.1).contains fp then r.2.2 else 0).sum

/-- The limit of R298 that the Zenith filters exceed, if any: 1 the CIR, 2 the CBS. -/
def fabricLimit (seed : Nat) (w : List WideEntry) (t : IngressTables) : Option Nat :=
  if (reservations t).isEmpty then none
  else if (List.range 15).any fun fp => (List.range 16).any fun m => pinnedCir2 seed w t fp m > 30000000 then some 1
  else if (List.range 15).any fun fp => pinnedCbs t fp > 16384 then some 2
  else none

end Sys2Proof.Machine
end

