-- ==== Sys2Proof/Machine/TokenOps.lean ====
section
/-! DEFINITION. Port types and rates (R146, R150, R158, R333) and the power arbiter (R147 to R149, R505 to R509). -/

namespace Sys2Proof.Machine

/-! ### Ports -/

/-- The state with its ports changed. -/
def State.modPorts (s : State) (f : Ports → Ports) : State := { s with ports := f s.ports }

/-- The state with its egress changed. -/
def State.modEgr (s : State) (f : Egress → Egress) : State := { s with egr := f s.egr }

/-- The state with its power controller changed. -/
def State.modPow (s : State) (f : Power → Power) : State := { s with power := f s.power }

/-- Settings of port `p`. -/
def portCfg (s : State) (p : Nat) : PortCfg := at' s.ports.cfg.ports p {}

/-- State of port `p`. -/
def portRun (s : State) (p : Nat) : PortRun := at' s.ports.run p {}

/-- The state with port `p` changed. -/
def modPort (s : State) (p : Nat) (f : PortRun → PortRun) : State := s.modPorts fun x => { x with run := x.run.modify p f }

/-- The edge group of port `p`, 4 to 27 (R24, R158). -/
def groupOf (p : Nat) : Nat := (p - 4) / 4

/-- The type of an edge group (R176). -/
def groupType (s : State) (g : Nat) : Nat := at' s.ports.cfg.groups g 1

/-- Whether the port's present mode is a T1 type (R150, R158). -/
def isT1 (s : State) (p : Nat) : Bool :=
  if p ≤ 3 then (portCfg s p).mode ≤ 1 else if p ≤ 27 then groupType s (groupOf p) ≥ 2 else false

/-- Whether the port's mode supports retained training and fast start (R153). -/
def canFast (s : State) (p : Nat) : Bool :=
  if p ≤ 3 then (portCfg s p).mode ≤ 1 else if p ≤ 27 then groupType s (groupOf p) = 3 else false

/-- The mode or group type of a port, as PORT_GET_STATUS codes it (R174). -/
def modeCode (s : State) (p : Nat) : Nat :=
  if p ≤ 3 then (portCfg s p).mode else if p ≤ 27 then groupType s (groupOf p) else 0xFF

/-- Nominal speed code of a port (R173, R333). -/
def nominalSpeed (s : State) (p : Nat) : Nat :=
  if p ≤ 3 then (if (portCfg s p).mode % 2 = 0 then 5 else 4)
  else if p ≤ 27 then (if groupType s (groupOf p) % 2 = 0 then 2 else 3)
  else if p ≤ 31 then 1 else 4

/-- Rate of a speed code in kb/s. -/
def speedKbps : Nat → Nat
  | 1 => 10000
  | 2 => 100000
  | 3 => 1000000
  | 4 => 10000000
  | 5 => 25000000
  | _ => 0

/-- Nominal rate of a point in kb/s (R333). -/
def nominalKbps (s : State) (p : Nat) : Nat := if p = 32 then 20000000 else if p = 33 then 10000000 else speedKbps (nominalSpeed s p)

/-- Link rate of a point in kb/s (R159, R333). -/
def linkKbps (s : State) (p : Nat) : Nat :=
  if p = 33 then 10000000
  else if p = 32 then (if s.pair.laneUp.contains false then 10000000 else 20000000)
  else
  let r := speedKbps (portRun s p).speed
  if r = 0 then nominalKbps s p else r

/-- Whether port `p` is UP (R164). H0 and the internal points count as up. -/
def portUp (s : State) (p : Nat) : Bool := 33 ≤ p || (portRun s p).oper == 3

/-- Count at a port (R167): the first four counters wrap at 64 bits, the others saturate at 32. -/
def portCount (s : State) (p pos n : Nat) : State :=
  modPort s p fun r => { r with counters := r.counters.modify pos fun x => if pos < 4 then wrapAdd 64 x n else satAdd 32 x n }

/-- Count a frame of `len` bytes in the running bandwidth window of a port (R57). -/
def bwCount (s : State) (p : Nat) (ingress : Bool) (len : Nat) : State :=
  let add := fun (f : BwFig) => { bytes := wrapAdd 64 f.bytes len, frames := wrapAdd 32 f.frames 1 : BwFig }
  s.modHost fun h => { h with bw := h.bw.modify p fun b =>
    if ingress then { b with nowIn := add b.nowIn } else { b with nowOut := add b.nowOut } }

/-! ### Reservations and tokens -/

/-- Whether a stream is identified at a port (R225); an entry with `PORTS` 0 identifies it at every ingress point. -/
def identifiedAt (t : IngressTables) (h p : Nat) : Bool := t.streamIds.any fun x => x.2.handle == h && (x.2.ports == 0 || bit x.2.ports p)

/-- Whether port `p` carries a Zenith reservation at its ingress or its egress (R149). -/
def zenithAt (s : State) (p : Nat) : Bool :=
  (s.egr.cfg.minLens.any fun a => a.1 / 4096 == p) || (reservations s.ep.cur.ing).any fun r => identifiedAt s.ep.cur.ing r.1 p

/-- Whether requester `c` holds its tokens as reserved tokens (R508). -/
def reservedCode (s : State) (c : Nat) : Bool :=
  if 1 ≤ c ∧ c ≤ 3 then !s.egr.cfg.minLens.isEmpty
  else if 8 ≤ c ∧ c ≤ 11 then zenithAt s (c - 8)
  else if c = 12 then zenithAt s 32
  else if 16 ≤ c ∧ c ≤ 48 then zenithAt s (c - 16)
  else false

/-- Tokens of the internal pool held (R521). -/
def intUsed (s : State) : Nat := (s.power.holds.map fun h => h.2.tokens).sum

/-- Tokens of the internal pool held as reserved. -/
def intReserved (s : State) : Nat := ((s.power.holds.filter fun h => reservedCode s h.1).map fun h => h.2.tokens).sum

/-- Demand of a port in tokens (R147, R506). -/
def portTokens (s : State) (p : Nat) : Nat :=
  if p ≤ 3 then at' [32, 18, 6, 6] (portCfg s p).mode 6
  else if p ≤ 27 then at' [3, 9, 2, 7] (groupType s (groupOf p)) 9
  else if p ≤ 31 then 1 else 10

/-- A request to the internal pool (R507): granted if the free tokens cover it, else denied and TOKEN_DENIED. -/
def requestTokens (s : State) (c n : Nat) : Bool × State :=
  let free := s.power.intTokens - intUsed s
  if n ≤ free then (true, s.modPow fun p => { p with holds := tset p.holds c { tokens := n } })
  else
    (false, raiseSampledKey (s.modPow fun p => { p with holds := tset p.holds c { tokens := 0, denied := true } })
      (65536 * 0x93 + c) 0x93 2 noLevel (srcId 0xF 1) fun k =>
        le 1 c ++ zeros 1 ++ le 2 n ++ le 2 free ++ le 2 s.power.intTokens ++ le 2 (intReserved s) ++ zeros 2 ++ le 4 k)

/-- Tokens are returned (R147). -/
def returnTokens (s : State) (c : Nat) : State := s.modPow fun p => { p with holds := tdel p.holds c }

/-- Whether requester `c` holds its tokens. -/
def holdsTokens (s : State) (c : Nat) : Bool := (tgetD s.power.holds c {}).tokens > 0

/-- Whether the module runs: Day or Dusk, started (R494). -/
def awake (s : State) : Bool := s.power.on && s.power.state ≤ 1

/-- Whether the fabric runs at the Dusk clock (R283). -/
def inDusk (s : State) : Bool := s.power.state == 1

/-- The MACsec engine of port `p`: BB0–BB3 and P0 (R546). -/
def macIdx (p : Nat) : Option Nat := if p ≤ 3 then some p else if p = 32 then some 4 else none

/-- MACsec settings of engine `i`. -/
def macCfg (s : State) (i : Nat) : MacCfg := at' s.keys.cfg.ports i {}

/-- Whether MACsec protects a port's egress (R345, R569). -/
def macsecOn (s : State) (p : Nat) : Bool :=
  match macIdx p with
  | some i => (macCfg s i).enable && bit (macCfg s i).flags 0
  | none => false

/-! ### Ports blocked by the consist roles (R694, R696) -/

/-- The port of line `l` (0 A, 1 B) of a TTDP direction: the lower BB port is line A (assumption 30). -/
def linePort (mask l : Nat) : Option Nat := (bitList 4 mask)[l]?

/-- The port mask of a TTDP direction. -/
def dirMask (s : State) (d : Nat) : Nat := if d = 0 then s.pair.cfg.ttdp.dir1 else s.pair.cfg.ttdp.dir2

/-- Whether a port lies in a TTDP direction and does not forward data (R694): its direction is not inaugurated or its line not
selected. -/
def ttdpBlocked (s : State) (p : Nat) : Bool :=
  s.pair.cfg.ttdp.enable && (List.range 2).any fun d =>
    p < 4 && bit (dirMask s d) p &&
      !(s.pair.ttdp.state == 2 && at' s.pair.ttdp.lines d 0 != 0 && linePort (dirMask s d) (at' s.pair.ttdp.chosen d 0) == some p)

/-- The ring whose blocked port `p` is (R696). -/
def mrpBlocked (s : State) (p : Nat) : Option Nat :=
  (List.range 2).find? fun r =>
    let c := at' s.pair.cfg.mrp r {}
    let x := at' s.pair.mrp r {}
    c.enable && ((c.port1 == p && x.blocked1) || (c.port2 == p && x.blocked2))

/-- The counter table of the role that blocks a port for data frames: 1 TTDP, 2 or 3 a ring (R697). -/
def conBlocked (s : State) (p : Nat) : Option Nat := if ttdpBlocked s p then some 1 else (mrpBlocked s p).map (· + 2)

end Sys2Proof.Machine
end

