-- ==== Sys2Proof/Machine/ZenithOps.lean ====
section
/-! DEFINITION. The figures of the Zenith promise (R351 to R357) and the checks of R298 and R353. -/

namespace Sys2Proof.Machine

/-- An exact non-negative fraction: numerator and positive denominator. -/
abbrev Frac := Nat × Nat

/-- Sum of two fractions. -/
def fadd (a b : Frac) : Frac := if a.1 = 0 then b else if b.1 = 0 then a else (a.1 * b.2 + b.1 * a.2, a.2 * b.2)

/-- Sum of a list of fractions. -/
def fsum (l : List Frac) : Frac := l.foldl fadd (0, 1)

/-- Larger of two fractions. -/
def fmax (a b : Frac) : Frac := if a.1 * b.2 ≤ b.1 * a.2 then b else a

/-- A fraction rounded up. -/
def fceil (a : Frac) : Nat := (a.1 + a.2 - 1) / a.2

/-- Bytes around a frame on the wire of a port (R345). -/
def wireOverhead (s : State) (p : Nat) : Nat := if macsecOn s p then 52 else 20

/-- The meter `(CIR, CBS)` of a Zenith stream (R205); a stream without one reserves nothing. -/
def zenithMeter (s : State) (h : Nat) : Option (Nat × Nat) :=
  ((reservations s.ep.cur.ing).find? fun r => r.1 == h).map fun r => (r.2.1, r.2.2)

/-- Streams admitted at a port with `MIN_LEN` (R351). -/
def admittedAt (s : State) (p : Nat) : List (Nat × Nat) :=
  s.egr.cfg.minLens.filterMap fun a => if a.1 / 4096 = p then some (a.1 % 4096, a.2) else none

/-- The cell factor of a `MIN_LEN` times `x` (R352). -/
def cellFactor (x minLen : Nat) : Frac := (x * 64 * ((32 + minLen + 63) / 64), minLen)

/-- Wire reservation W of a port in kb/s (R352). -/
def wireRes (s : State) (p : Nat) : Frac :=
  let o := wireOverhead s p
  fsum ((admittedAt s p).map fun a => match zenithMeter s a.1 with
    | some m => (m.1 * (a.2 + o), a.2)
    | none => (0, 1))

/-- Egress burst E of a port in bytes. -/
def egressBurst (s : State) (p : Nat) : Frac :=
  let o := wireOverhead s p
  fsum ((admittedAt s p).map fun a => match zenithMeter s a.1 with
    | some m => (m.2 * (a.2 + o), a.2)
    | none => (0, 1))

/-- Admission entries `(handle, MIN_LEN)` at the ports of an output fabric port, one per stream (R352). -/
def outputStreams (s : State) (fp : Nat) : List (Nat × Nat) :=
  s.egr.cfg.minLens.foldl (fun l a => if fpOf (a.1 / 4096) = fp ∧ !l.any (fun x => x.1 == a.1 % 4096) then l ++ [(a.1 % 4096, a.2)] else l) []

/-- CBS times cell factor of a stream. -/
def cellBurst (s : State) (h minLen : Nat) : Frac :=
  match zenithMeter s h with
  | some m => cellFactor m.2 minLen
  | none => (0, 1)

/-- Output cell burst C of a port (R352). -/
def outputBurst (s : State) (p : Nat) : Frac := fsum ((outputStreams s (fpOf p)).map fun a => cellBurst s a.1 a.2)

/-- The `MIN_LEN` with which a stream is admitted at its first port; 64 where it is admitted nowhere. -/
def anyMinLen (s : State) (h : Nat) : Nat := ((s.egr.cfg.minLens.find? fun a => a.1 % 4096 == h).map (·.2)).getD 64

/-- Input cell burst I of a port (R352). -/
def inputBurst (s : State) (p : Nat) : Frac :=
  let t := s.ep.cur.ing
  let here := (admittedAt s p).map (·.1)
  let out := (outputStreams s (fpOf p)).map (·.1)
  ((List.range 15).map fun fp =>
    if here.any fun h => (handleFps t h).contains fp then
      fsum ((reservations t).map fun r =>
        if (handleFps t r.1).contains fp && !out.contains r.1 then cellFactor r.2.2 (anyMinLen s r.1) else (0, 1))
    else (0, 1)).foldl fmax (0, 1)

/-- Admitted burst B of a port in bytes (R352). -/
def admittedBurst (s : State) (p : Nat) : Frac :=
  let r := nominalKbps s p
  let scale := fun (x : Frac) => ((x.1 * r, x.2 * 20000000) : Frac)
  fadd (fmax (egressBurst s p) (scale (outputBurst s p))) (scale (inputBurst s p))

/-- Time in ps of a number of bytes at a rate in kb/s, rounded up. -/
def bytesPs (b : Frac) (kbps : Nat) : Nat := if kbps = 0 then 0 else fceil (b.1 * 8000000000, b.2 * kbps)

/-- Queueing term in ps (R355). -/
def queueingPs (s : State) (p : Nat) : Nat := bytesPs (admittedBurst s p) (nominalKbps s p)

/-- The addFragSize that the fragment rules use (R349). -/
def fragA (s : State) (p : Nat) : Nat :=
  let c := at' s.egr.cfg.preempt p {}
  if c.verify then ((at' s.egr.preempt p {}).partner).getD 0 else c.addFrag

/-- Whether preemption is active at a port (R348). -/
def preemptOn (s : State) (p : Nat) : Bool := p ≤ 27 && (at' s.egr.preempt p {}).active

/-- Whether class `c` is express at a port (R348). -/
def isExpress (s : State) (p c : Nat) : Bool := !preemptOn s p || c = 7 || bit (at' s.egr.cfg.preempt p {}).express c

/-- Largest `MAX_LEN` of the express classes TC0 to TC6 (R355); 0 if none is express. -/
def maxExpressLen (s : State) (p : Nat) : Nat :=
  let q := at' s.egr.cfg.queues p {}
  ((List.range 7).map fun c => if isExpress s p c then (at' q.classes c {}).maxLen else 0).foldl max 0

/-- Blocking outside protected windows, in ps (R355). -/
def blockingPs (s : State) (p : Nat) : Nat :=
  let r := nominalKbps s p
  let pre := preemptOn s p && (List.range 7).any fun c => !isExpress s p c
  let m := maxExpressLen s p
  max (if pre then bytesPs (143 + 64 * fragA s p, 1) r else 0) (if m = 0 then 0 else bytesPs (m + wireOverhead s p, 1) r)

/-- The bound of R355 in ps. -/
def boundPs (s : State) (p : Nat) : Nat := 950000 + blockingPs s p + queueingPs s p

/-! ### Windows (R341 to R347) -/

/-- Effective durations of the entries within one cycle (R343): a shorter cycle cuts the list, a longer one extends the last
entry. -/
def cyclePieces : List GclEntry → Nat → List (GclEntry × Nat)
  | [], _ => []
  | [e], left => if left = 0 then [] else [(e, left)]
  | e :: es, left => if left = 0 then [] else (e, min e.interval left) :: cyclePieces es (left - min e.interval left)

/-- Lengths of the runs in which a gate is open, over pieces that begin with a closed one. -/
def openRuns : List (Bool × Nat) → Nat → List Nat
  | [], n => if n = 0 then [] else [n]
  | (o, d) :: ps, n => if o then openRuns ps (n + d) else if n = 0 then openRuns ps 0 else n :: openRuns ps 0

/-- The windows of class `c` of a list, over cycle boundaries (R345): none if the gate never closes. -/
def windowsOf (l : Gcl) (c : Nat) : Option (List Nat) :=
  let ps := (cyclePieces l.entries l.cycle).map fun x => (bit x.1.gates c, x.2)
  match ps.findIdx? fun x => !x.1 with
  | none => none
  | some k => some (openRuns (ps.drop k ++ ps.take k) 0)

/-- Longest window of a class in ns; none if it never closes (R346). -/
def longestWindow (g : Option Gcl) (c : Nat) : Option Nat :=
  match g with
  | none => none
  | some l => if !l.enable then none else (windowsOf l c).map fun w => w.foldl max 0

/-- Shortest TC7 window of a list in ns; none if TC7 never closes (R363). -/
def shortestTc7 (l : Gcl) : Option Nat :=
  match windowsOf l 7 with
  | none => none
  | some [] => some 0
  | some (w :: ws) => some (ws.foldl min w)

/-- Whether every TC7 window is protected (R347): the gates of TC0 to TC6 are closed wherever TC7 is open. -/
def allProtected (l : Gcl) : Bool := (cyclePieces l.entries l.cycle).all fun x => !bit x.1.gates 7 || x.1.gates % 128 == 0

/-- Whether a list breaks rule 2 of R353 at a port. -/
def rule2Bad (s : State) (p : Nat) (l : Gcl) : Bool :=
  let r := nominalKbps s p
  let need := max (bytesPs (1522 + wireOverhead s p, 1) r) (queueingPs s p)
  l.enable && match windowsOf l 7 with
    | none => false
    | some w => w.isEmpty || w.any fun x => x * 1000 < need

/-- The rule of R353 that is broken at a port, if one is: 1 the wire reservation, 2 a TC7 window, 3 the TC7 shaper. -/
def portRuleBad (s : State) (p : Nat) : Option Nat :=
  let w := wireRes s p
  let g := at' s.egr.cfg.gcl p {}
  if p ≤ 27 ∧ 4 * w.1 > 3 * nominalKbps s p * w.2 then some 1
  else if (g.oper.toList ++ g.pending.toList).any (rule2Bad s p) then some 2
  else if p ≤ 27 ∧ !(admittedAt s p).isEmpty ∧ (at' s.egr.cfg.shapers (8 * p + 7) {}).enable then some 3
  else none

/-- The first rule of R353 that is broken at a port whose promise is not already suspended for it (R354). -/
def zenithPorts (s : State) : Option Nat :=
  (List.range 32).findSome? fun p => if bit (at' s.egr.zenPort p 0) 4 then none else portRuleBad s p

/-- R298 and R353 on the state's current tables: 1 and 3 are breached by a `CIR`, 2 and 4 by a `CBS`. -/
def zenithFabric (s : State) : Option Nat :=
  match fabricLimit s.fab.start.hashSeed s.fab.wide s.ep.cur.ing with
  | some k => some k
  | none => (zenithPorts s).map fun r => if r = 2 then 4 else 3

/-! ### The state of the promise (R357) -/

/-- Device-wide reasons for suspension (R357). -/
def zenDevNow (s : State) : Nat := b2n (s.power.state != 0 || !s.power.on) + 2 * b2n s.fab.overflow

/-- Reasons for suspension at a port (R357). -/
def zenPortNow (s : State) (p : Nat) : Nat :=
  let up := portUp s p && (conBlocked s p).isNone
  4 * b2n (up && linkKbps s p < nominalKbps s p) + 8 * b2n (!up) +
    16 * b2n (match portRuleBad s p with | some r => r ≤ 2 | none => false)

/-- Raise ZENITH_STATE (R359). -/
def raiseZenith (s : State) (dev : Bool) (p kind reasons : Nat) : State :=
  raise s 0x35 (at' [3, 1, 2] kind 3) noLevel (if dev then srcId 0 0 else srcId 1 p)
    (le 1 (b2n !dev) ++ le 1 (if dev then 0xFF else p) ++ le 1 kind ++ zeros 1 ++ le 4 reasons ++
      le 4 (if dev then 0 else (boundPs s p + 999) / 1000))

/-- Re-evaluate the promise at one port: only ports at which a stream is admitted have one (assumption 16). -/
def recheckPort (s : State) (p : Nat) : State :=
  let was := at' s.egr.zenPort p 0
  let now := if (admittedAt s p).isEmpty then 0 else zenPortNow s p
  let blk := if (admittedAt s p).isEmpty then 0 else blockingPs s p
  let s1 := s.modEgr fun e => { e with zenPort := e.zenPort.set p now, zenBlock := e.zenBlock.set p blk }
  if was ≠ now then
    (if now = 0 then raiseZenith s1 false p 1 0 else if was = 0 ∨ setDiff now was ≠ 0 then raiseZenith s1 false p 0 now else s1)
  else if now = 0 ∧ s.egr.zenDev = 0 ∧ blk ≠ at' s.egr.zenBlock p 0 ∧ at' s.egr.zenBlock p 0 ≠ 0 then raiseZenith s1 false p 2 0
  else s1

/-- Re-evaluate the promise (R354, R357) after a change of state, mode, link, protection, preemption or limits. -/
def zenithRecheck (s : State) : State :=
  let now := zenDevNow s
  let s1 := s.modEgr fun e => { e with zenDev := now }
  let s2 := if now = s.egr.zenDev then s1
    else if now = 0 then raiseZenith s1 true 0 1 0
    else if s.egr.zenDev = 0 ∨ setDiff now s.egr.zenDev ≠ 0 then raiseZenith s1 true 0 0 now else s1
  (List.range 28).foldl recheckPort s2

end Sys2Proof.Machine
end

