-- ==== Sys2Proof/Machine/ListCmds.lean ====
section
/-! DEFINITION. List commands (R218, R268): entries applied to the shadow in list order, the whole resulting shadow checked, one
commit. -/

namespace Sys2Proof.Machine

/-- What one entry of a list command does to the shadow: the state and the offsets clamped, or the status and offset of its
failure. -/
abbrev EntryRes := Except (Nat × Nat) (State × List Nat)

/-- An entry applied after its checks. -/
def entryOk (cs : List Check) (k : Unit → EntryRes) : EntryRes :=
  match firstBad cs with
  | some c => .error (c.status, c.off)
  | none => k ()

/-- Apply `n` entries of `size` bytes from offset `off` of the payload, in list order (R218). -/
def applyEntries (size : Nat) (f : Nat → List Byte → State → EntryRes) : Nat → Nat → List Byte → State → List Nat → EntryRes
  | 0, _, _, s, cl => .ok (s, cl)
  | n + 1, off, p, s, cl =>
    match f off (sub p off size) s with
    | .error e => .error e
    | .ok (s', c) => applyEntries size f n (off + size) p s' (cl ++ c)

/-- The first entry whose check on the resulting shadow fails (R218): status and offset. -/
def shadowBad (size : Nat) (g : Nat → List Byte → State → List Check) : Nat → Nat → List Byte → State → Option Check
  | 0, _, _, _ => none
  | n + 1, off, p, s =>
    match firstBad (g off (sub p off size) s) with
    | some c => some c
    | none => shadowBad size g n (off + size) p s

/-- The body of a list command: `f` applies an entry, `g` gives an entry's checks on the resulting shadow; `tables` are the
TABLES bits of its EPOCH_COMMIT (R323), and `commits` is false for a command that changes no epoch table. -/
def listBody (size : Nat) (f : Nat → List Byte → State → EntryRes) (g : Nat → List Byte → State → List Check)
    (tables : Nat) (commits : Bool) (s : State) (_ : Req) (p : List Byte) : Result :=
  let n := u p 0 2
  match applyEntries size f n 4 p s [] with
  | .error e => .fail e.1 e.2
  | .ok (s', cl) =>
    match shadowBad size g n 4 p s' with
    | some c => .fail c.status c.off
    | none => .done { payload := le 2 n ++ zeros 2, clamps := cl, st := s', tables := tables, commits := commits }

/-- No check on the whole shadow. -/
def noShadowCheck (_ : Nat) (_ : List Byte) (_ : State) : List Check := []

end Sys2Proof.Machine
end

