-- ==== Sys2Proof/Machine/IngressCmds.lean ====
section
/-! DEFINITION. Commands of group 0x03: ingress tables (R218 to R234), and the counters and dynamic state they share. -/

namespace Sys2Proof.Machine

/-- The current epoch's ingress tables. -/
def State.it (s : State) : IngressTables := s.ep.cur.ing

/-- The state with the current epoch's ingress tables changed. -/
def State.modIt (s : State) (f : IngressTables → IngressTables) : State :=
  { s with ep := { s.ep with cur := { s.ep.cur with ing := f s.ep.cur.ing } } }

/-- The state with its dynamic ingress state changed. -/
def State.modIng (s : State) (f : Ingress → Ingress) : State := { s with ing := f s.ing }

/-! ### Counters (R215, R216) -/

/-- Widths of the counters of an ingress counter table (R216). -/
def ingWidths : Nat → List Nat
  | 0 => [64, 64, 32, 32, 32, 32, 32, 32]
  | 1 => [64, 64, 64]
  | 2 => [64, 32, 32, 32, 32, 32, 32, 32, 32]
  | 3 => [64]
  | 4 => [64, 32]
  | 5 => [64, 32, 32, 32, 32, 32, 32, 32, 32, 32, 32, 32]
  | _ => []

/-- Counter values of an index; all 0 where nothing was counted. -/
def ingCtr (s : State) (tbl idx : Nat) : List Nat :=
  tgetD s.ing.counters (65536 * tbl + idx) ((ingWidths tbl).map fun _ => 0)

/-- A counter advanced under its width: 64-bit counters wrap and 32-bit counters saturate (R216). -/
def ctrAdd (w a n : Nat) : Nat := if w = 64 then wrapAdd 64 a n else satAdd w a n

/-- Add `n` to counter `pos` of index `idx` of ingress table `tbl`. -/
def ingCount (s : State) (tbl idx pos n : Nat) : State :=
  let c := ingCtr s tbl idx
  s.modIng fun i => { i with counters := tset i.counters (65536 * tbl + idx) (c.modify pos fun x => ctrAdd (at' (ingWidths tbl) pos 32) x n) }

/-- The counters of an index start from 0 when the index is added again after a delete (R215). -/
def ctrAddIndex (s : State) (tbl idx : Nat) : State :=
  let k := 65536 * tbl + idx
  if s.ing.deleted.contains k then
    s.modIng fun i => { i with deleted := i.deleted.erase k, counters := tdel i.counters k }
  else s

/-- A deleted index keeps counting and reads as deleted (R215). -/
def ctrDelIndex (s : State) (tbl idx : Nat) : State :=
  let k := 65536 * tbl + idx
  if s.ing.deleted.contains k then s else s.modIng fun i => { i with deleted := k :: i.deleted }

/-! ### Domain map, parameters, VLANs (R219 to R221) -/

/-- Whether a domain lies in the bundle's carve (R190). -/
def inCarve (s : State) (d : Nat) : Bool := d < 8 && bit s.carve d

/-- An ingress point of the domain map (R185). -/
def mapPoint (p : Nat) : Bool := p ≤ 36 || (64 ≤ p && p ≤ 119)

/-- Apply a DOMAIN_MAP_SET entry (R219). -/
def entryDomainMap (off : Nat) (e : List Byte) (s : State) : EntryRes :=
  let point := u e 0 1
  let kind := u e 1 1
  let vid := u e 2 2
  let dom := u e 4 1
  let key := 4096 * point + vid
  let port := point ≤ 33
  let dp := clampField (off + 5) 0 7 (u e 5 1)
  let ll := clampField (off + 12) 1 65535 (u e 12 2)
  let pvid := u e 6 2
  entryOk [chkSup (!mapPoint point) off, chkSup (kind > 2 || (kind != 0 && !port)) (off + 1),
      chkSup (kind != 0 && (vid < 1 || vid > 4094)) (off + 2),
      chkConf (kind = 2 && !thas s.it.domOvr key) (off + 2),
      chkSup (kind != 2 && dom > 7 && dom != 0xFF) (off + 4),
      chkConf (kind != 2 && dom ≤ 7 && !inCarve s dom) (off + 4),
      chkSup (kind != 2 && port && (pvid < 1 || pvid > 4094)) (off + 6),
      chkSup (kind != 2 && port && u e 8 1 > 2) (off + 8),
      chkSup (kind != 2 && port && u e 9 1 > 1) (off + 9)] fun _ =>
    let ent : DomEntry := if port then
        { domain := dom, defPrio := dp.val, pvid := pvid, accept := u e 8 1, trust := u e 9 1,
          flags := u e 10 1 % 4, learnLimit := ll.val }
      else { domain := dom }
    let cl := if port && kind != 2 then dp.off ++ ll.off else []
    if kind = 2 then .ok (s.modIt fun t => { t with domOvr := tdel t.domOvr key }, [])
    else if kind = 1 then
      if !thas s.it.domOvr key && s.it.domOvr.length ≥ 4096 then .error (stNoResource, off)
      else .ok (s.modIt fun t => { t with domOvr := tset t.domOvr key ent }, cl)
    else .ok (s.modIt fun t => { t with domDefault := tset t.domDefault point ent }, cl)

/-- DOMAIN_MAP_SET (R219). -/
def specDomainMapSet : CmdSpec := {
  opcode := 0x0300, level := 4, bulkIn := true, badLen := lenList 16,
  body := listBody 16 entryDomainMap noShadowCheck 1 true }

/-- Apply a DOMAIN_PARAMS_SET entry (R220). -/
def entryDomainParams (off : Nat) (e : List Byte) (s : State) : EntryRes :=
  let d := u e 0 1
  let ag := clampField (off + 4) 10 1000000 (u e 4 4)
  let ds := (List.range 64).map fun i => clampField (off + 8 + i) 0 7 (u e (8 + i) 1)
  entryOk [chkSup (d > 7) off, chkConf (!inCarve s d) off] fun _ =>
    .ok (s.modIt fun t => { t with
        domParams := tset t.domParams d { flags := u e 1 1 % 8, agingS := ag.val, dscp := ds.map (·.val) } },
      ag.off ++ ds.flatMap (·.off))

/-- DOMAIN_PARAMS_SET (R220). -/
def specDomainParamsSet : CmdSpec := {
  opcode := 0x0301, level := 4, bulkIn := true, badLen := lenList 72,
  body := listBody 72 entryDomainParams noShadowCheck 1 true }

/-- The bits of a port set (R185): points 0 to 35. -/
def portSet (x : Nat) : Nat := x % 2 ^ 36

/-- Set or remove the VLANs of a range of VIDs in a domain. -/
def setVlans (d : Nat) (v : Option Vlan) : Nat → Nat → Tab Vlan → Tab Vlan
  | 0, _, t => t
  | n + 1, vid, t =>
    setVlans d v n (vid + 1) (match v with
      | some x => tset t (4096 * d + vid) x
      | none => tdel t (4096 * d + vid))

/-- Apply a VLAN_SET entry (R221). -/
def entryVlan (off : Nat) (e : List Byte) (s : State) : EntryRes :=
  let d := u e 0 1
  let op := u e 1 1
  let lo := u e 2 2
  let hi := clampField (off + 4) lo 4094 (u e 4 2)
  let mem := portSet (u e 8 8)
  let unt := portSet (u e 16 8)
  let cut := setInter unt mem
  entryOk [chkSup (d > 7) off, chkConf (!inCarve s d) off, chkSup (op > 1) (off + 1),
      chkSup (lo < 1 || lo > 4094) (off + 2)] fun _ =>
    .ok (s.modIt fun t => { t with
        vlans := setVlans d (if op = 0 then some { members := mem, untagged := cut } else none) (hi.val + 1 - lo) lo t.vlans },
      hi.off ++ (if op = 0 ∧ cut ≠ unt then [off + 16] else []))

/-- VLAN_SET (R221). -/
def specVlanSet : CmdSpec := {
  opcode := 0x0302, level := 4, bulkIn := true, badLen := lenList 24, body := listBody 24 entryVlan noShadowCheck 1 true }

/-! ### FDB (R193 to R197, R222 to R224) -/

/-- The bucket of an FDB key (R193). -/
def fdbBucket (dom vid : Nat) (mac : List Byte) : Nat := crc32c (be 1 dom ++ be 2 vid ++ mac) % 16384

/-- Whether a MAC address is a group address. -/
def isGroup (mac : List Byte) : Bool := bit (u mac 0 1) 0

/-- Whether a set of points has exactly one member. -/
def oneBit (x : Nat) : Bool := x != 0 && (x &&& (x - 1)) == 0

/-- Whether a static entry has this key. -/
def staticIs (f : FdbStatic) (dom vid : Nat) (mac : List Byte) : Bool := f.domain == dom && f.vid == vid && f.mac == mac

/-- Whether a learnt entry has this key. -/
def learntIs (f : FdbLearnt) (dom vid : Nat) (mac : List Byte) : Bool := f.domain == dom && f.vid == vid && f.mac == mac

/-- The least recently refreshed learnt entry of a bucket (R197). -/
def oldestLearnt : List FdbLearnt → Option FdbLearnt
  | [] => none
  | f :: fs =>
    match oldestLearnt fs with
    | none => some f
    | some g => if f.stamp ≤ g.stamp then some f else some g

/-- The lowest way of a bucket that no entry holds. -/
def freeWay (st : List FdbStatic) (ln : List FdbLearnt) : Option Nat :=
  (List.range 4).find? fun w => !(st.any fun f => f.way == w) && !(ln.any fun f => f.way == w)

/-- Apply an FDB_STATIC_SET entry (R197, R222). -/
def entryFdbStatic (off : Nat) (e : List Byte) (s : State) : EntryRes :=
  let d := u e 0 1
  let op := u e 1 1
  let vid := u e 2 2
  let mac := sub e 4 6
  let ports := portSet (u e 16 8)
  let b := fdbBucket d vid mac
  let st := tgetD s.it.fdbStatic b []
  let ln := tgetD s.ing.learnt b []
  let known := st.any fun f => staticIs f d vid mac
  entryOk [chkSup (d > 7) off, chkConf (!inCarve s d) off, chkSup (op > 1) (off + 1), chkSup (vid < 1 || vid > 4094) (off + 2),
      chkConf (op = 1 && !known) (off + 4), chkPol (op = 0 && !isGroup mac && !oneBit ports) (off + 16)] fun _ =>
    if op = 1 then .ok (s.modIt fun t => { t with fdbStatic := tset t.fdbStatic b (st.filter fun f => !staticIs f d vid mac) }, [])
    else if known then
      .ok (s.modIt fun t => { t with
          fdbStatic := tset t.fdbStatic b (st.map fun f => if staticIs f d vid mac then { f with ports := ports } else f) }, [])
    else if st.length ≥ 4 then .error (stNoResource, off)
    else
      let same := ln.find? fun f => learntIs f d vid mac
      let victim := match same with
        | some f => some f
        | none => match freeWay st ln with
          | some _ => none
          | none => oldestLearnt ln
      let way := match victim with
        | some f => f.way
        | none => (freeWay st ln).getD 0
      let ln' := match victim with
        | some f => ln.filter fun g => g.way != f.way
        | none => ln
      .ok ((s.modIt fun t => { t with
              fdbStatic := tset t.fdbStatic b (st ++ [{ domain := d, vid := vid, mac := mac, ports := ports, way := way }]) }).modIng
            fun i => { i with learnt := tset i.learnt b ln' }, [])

/-- FDB_STATIC_SET (R222). -/
def specFdbStaticSet : CmdSpec := {
  opcode := 0x0303, level := 4, bulkIn := true, badLen := lenList 24, body := listBody 24 entryFdbStatic noShadowCheck 2 true }

/-- FDB_FLUSH (R223): learnt entries that match are removed; static entries are untouched. -/
def specFdbFlush : CmdSpec := {
  opcode := 0x0304, level := 4, badLen := lenIs 6,
  body := fun s _ p =>
    let d := u p 0 1
    let fl := u p 1 1
    let pt := u p 2 1
    let vid := u p 4 2
    checked [chkSup (d > 7 && d != 0xFF) 0, chkSup (bit fl 0 && pt > 33) 2, chkSup (bit fl 1 && (vid < 1 || vid > 4094)) 4] fun _ =>
      let hit := fun (f : FdbLearnt) => (d == 0xFF || f.domain == d) && (!bit fl 0 || f.point == pt) && (!bit fl 1 || f.vid == vid)
      let n := (s.ing.learnt.map fun b => (b.2.filter hit).length).sum
      .done { payload := le 4 n
              st := s.modIng fun i => { i with learnt := i.learnt.map fun b => (b.1, b.2.filter fun f => !hit f) } } }

/-- A 24-byte FDB_READ record (R224). -/
def fdbRecord (d ty vid : Nat) (mac : List Byte) (slot age ports : Nat) : List Byte :=
  le 1 d ++ le 1 ty ++ le 2 vid ++ mac ++ le 4 slot ++ le 2 (min age 65535) ++ le 8 ports

/-- The occupied slots of the FDB with their records, in slot order (R224). -/
def fdbSlots (s : State) : Tab (List Byte) :=
  let st := s.it.fdbStatic.flatMap fun b => b.2.map fun f => (4 * b.1 + f.way, fdbRecord f.domain 1 f.vid f.mac (4 * b.1 + f.way) 0 f.ports)
  let ln := s.ing.learnt.flatMap fun b => b.2.map fun f =>
    (4 * b.1 + f.way, fdbRecord f.domain 0 f.vid f.mac (4 * b.1 + f.way) ((s.now - f.stamp) / secondNs) (2 ^ f.point))
  (st ++ ln).foldl (fun t e => tset t e.1 e.2) []

/-- FDB_READ (R224). -/
def specFdbRead : CmdSpec := {
  opcode := 0x0305, level := 4, bulkOut := true, badLen := lenIs 8,
  body := fun s _ p =>
    let first := u p 0 4
    let cnt := clampField 4 1 (65536 - first) (u p 4 4)
    checked [chkSup (first > 65535) 0] fun _ =>
      let rs := (fdbSlots s).filter fun e => first ≤ e.1 && e.1 < first + cnt.val
      .done { payload := le 4 first ++ le 4 cnt.val ++ le 4 rs.length ++ rs.flatMap (·.2), clamps := cnt.off, st := s } }

/-! ### Streams (R225, R226) -/

/-- Decode the fields of a STREAM_ID_SET entry (R225). -/
def streamIdOf (e : List Byte) : StreamId :=
  let ty := u e 4 1
  let t12 := ty = 1 ∨ ty = 2
  { handle := u e 2 2, type := ty, domain := u e 5 1, tagged := u e 6 1, ports := portSet (u e 8 8), vid := u e 16 2,
    mac := if t12 then sub e 20 6 else zeros 6,
    ipVer := if ty = 3 then u e 20 1 else 0, dscp := if ty = 3 then u e 21 1 else 0, proto := if ty = 3 then u e 22 1 else 0,
    matchB := if ty = 3 then u e 23 1 % 16 else 0, l4Dst := if ty = 3 then u e 24 2 else 0, l4Src := if ty = 3 then u e 26 2 else 0,
    ipDst := if ty = 3 then sub e 28 16 else zeros 16, ipSrc := if ty = 3 then sub e 44 16 else zeros 16,
    kind := if ty = 4 then u e 20 1 else 0, channel := if ty = 4 then u e 21 1 else 0,
    ident := if ty = 4 then u e 24 4 else 0, mask := if ty = 4 then u e 28 4 else 0 }

/-- Zenith filters whose handle is `h` (R209). -/
def zenithOn (t : IngressTables) (h : Nat) : Bool := t.filters.any fun f => bit f.2.flags 1 && f.2.handle == h

/-- Apply a STREAM_ID_SET entry (R225). -/
def entryStreamId (off : Nat) (e : List Byte) (s : State) : EntryRes :=
  let i := u e 0 2
  let x := streamIdOf e
  let del := x.type = 0
  entryOk [chkSup (i > 8191) off, chkSup (x.type > 4) (off + 4), chkConf (del && !thas s.it.streamIds i) off,
      chkSup (!del && x.handle > 4095) (off + 2), chkSup (!del && x.domain > 7 && x.domain != 0xFF) (off + 5),
      chkConf (!del && x.domain ≤ 7 && !inCarve s x.domain) (off + 5), chkSup (!del && x.tagged > 2) (off + 6),
      chkSup (!del && x.vid != 0xFFFF && (x.vid < 1 || x.vid > 4094)) (off + 16),
      chkSup (x.type = 3 && x.ipVer != 4 && x.ipVer != 6) (off + 20),
      chkSup (x.type = 3 && x.dscp > 63 && x.dscp != 0xFF) (off + 21),
      chkSup (x.type = 4 && x.kind > 7) (off + 20)] fun _ =>
    .ok (s.modIt fun t => { t with streamIds := if del then tdel t.streamIds i else tset t.streamIds i x }, [])

/-- Ingress points that identify a handle (R291); an entry with `PORTS` 0 stands for all of them. -/
def identPoints (t : IngressTables) (h : Nat) : Nat :=
  ((List.range 36).filter fun p => t.streamIds.any fun x => x.2.handle == h && (x.2.ports == 0 || bit x.2.ports p)).length

/-- R209 condition 4, R291 and R298 on the resulting shadow. -/
def shadowStreamId (off : Nat) (e : List Byte) (s : State) : List Check :=
  let x := streamIdOf e
  let wide := s.fab.wide.any fun w => w.handle == some x.handle || w.pending == some (some x.handle)
  let z := zenithOn s.it x.handle
  [chkPol (x.type = 3 && x.ipVer = 6 && z) (off + 4),
   chkConf (x.type != 0 && wide && identPoints s.it x.handle > 1) (off + 8),
   chkPol (x.type != 0 && z && (zenithFabric s).isSome) (off + 8)]

/-- STREAM_ID_SET (R225). -/
def specStreamIdSet : CmdSpec := {
  opcode := 0x0306, level := 2, bulkIn := true, badLen := lenList 64,
  body := listBody 64 entryStreamId shadowStreamId 4 true }

/-- Apply a STREAM_SET entry (R226). -/
def entryStream (off : Nat) (e : List Byte) (s : State) : EntryRes :=
  let h := u e 0 2
  let op := u e 2 1
  let pr := clampField (off + 4) 0 7 (u e 4 1)
  let gen := u e 6 2
  let rc := u e 8 2
  let mir := u e 10 1
  entryOk [chkSup (h > 4095) off, chkSup (op > 1) (off + 2), chkConf (op = 1 && !thas s.it.streams h) off,
      chkSup (op = 0 && gen > 1023 && gen != 0xFFFF) (off + 6), chkSup (op = 0 && rc > 1023 && rc != 0xFFFF) (off + 8),
      chkSup (op = 0 && mir > 3 && mir != 0xFF) (off + 10)] fun _ =>
    if op = 1 then .ok (s.modIt fun t => { t with streams := tdel t.streams h }, [])
    else .ok (s.modIt fun t => { t with
        streams := tset t.streams h { flags := u e 3 1 % 4, prio := pr.val, cdest := u e 5 1 % 8, gen := gen, rcvy := rc, mirror := mir } }, pr.off)

/-- A stream's functions are configured in the resulting shadow (R218). -/
def shadowStream (off : Nat) (e : List Byte) (s : State) : List Check :=
  let set := u e 2 1 = 0
  [chkConf (set && u e 6 2 != 0xFFFF && !thas s.it.generation (u e 6 2)) (off + 6),
   chkConf (set && u e 8 2 != 0xFFFF && !thas s.it.recovery (u e 8 2)) (off + 8)]

/-- STREAM_SET (R226). Its table belongs to stream identification (TABLES bit 2). -/
def specStreamSet : CmdSpec := {
  opcode := 0x0307, level := 2, bulkIn := true, badLen := lenList 16, body := listBody 16 entryStream shadowStream 4 true }

/-! ### Filters, gates, meters (R227 to R229) -/

/-- Whether a Zenith filter breaks a rule of R209. -/
def zenithBreach (t : IngressTables) (idx : Nat) (f : Filter) : Bool :=
  bit f.flags 2 || f.maxSdu > 1522 || f.meter == 0xFFFF ||
  (match tget t.meters f.meter with
    | some m => bit m.flags 0 || m.eir != 0 || m.ebs != 0 || bit m.flags 3
    | none => true) ||
  (t.filters.any fun g => g.1 != idx && g.2.meter == f.meter) ||
  (t.streamIds.any fun x => x.2.handle == f.handle && x.2.type == 3 && x.2.ipVer == 6)

/-- Apply a FILTER_SET entry (R227). -/
def entryFilter (off : Nat) (e : List Byte) (s : State) : EntryRes :=
  let i := u e 0 2
  let op := u e 2 1
  let sdu := clampField (off + 8) 64 9216 (u e 8 2)
  let g := u e 10 2
  let m := u e 12 2
  entryOk [chkSup (i > 4095) off, chkSup (op > 1) (off + 2), chkConf (op = 1 && !thas s.it.filters i) off,
      chkSup (op = 0 && u e 4 2 > 4095) (off + 4), chkSup (op = 0 && u e 6 1 > 7) (off + 6),
      chkSup (op = 0 && g > 1023 && g != 0xFFFF) (off + 10), chkSup (op = 0 && m > 2047 && m != 0xFFFF) (off + 12)] fun _ =>
    if op = 1 then .ok (ctrDelIndex (s.modIt fun t => { t with filters := tdel t.filters i }) 0 i, [])
    else .ok (ctrAddIndex (s.modIt fun t => { t with
        filters := tset t.filters i { flags := u e 3 1 % 16, handle := u e 4 2, prio := u e 6 1, maxSdu := sdu.val, gate := g, meter := m } }) 0 i, sdu.off)

/-- The references and the Zenith policy of a filter in the resulting shadow (R209, R218): `DETAIL` at the entry of a Zenith filter. -/
def shadowFilter (off : Nat) (e : List Byte) (s : State) : List Check :=
  let set := u e 2 1 = 0
  let z := match tget s.it.filters (u e 0 2) with
    | some f => bit f.flags 1 && zenithBreach s.it (u e 0 2) f
    | none => false
  let shared := set && u e 12 2 != 0xFFFF && s.it.filters.any fun g => g.1 != u e 0 2 && bit g.2.flags 1 && g.2.meter == u e 12 2
  [chkConf (set && u e 10 2 != 0xFFFF && !thas s.it.gates (u e 10 2)) (off + 10),
   chkConf (set && u e 12 2 != 0xFFFF && !thas s.it.meters (u e 12 2)) (off + 12),
   chkPol (set && z) off, chkPol shared (off + 12),
   chkPol (set && bit (u e 3 1) 1 && (zenithFabric s).isSome) (off + 12)]

/-- FILTER_SET (R227). -/
def specFilterSet : CmdSpec := {
  opcode := 0x0308, level := 2, bulkIn := true, badLen := lenList 16, body := listBody 16 entryFilter shadowFilter 8 true }

/-- The first cycle boundary after `now` of a schedule with this base time; the base time itself if it lies ahead (R202, R342). -/
def scheduleStart (base cycle now : Nat) : Nat :=
  if now < base then base else base + ((now - base) / max 1 cycle + 1) * max 1 cycle

/-- Sum of the intervals of a gate list. -/
def gateSum (es : List GateEntry) : Nat := (es.map (·.interval)).sum

/-- The cycle a gate runs (R228): its own, or the sum of its intervals. -/
def gatePeriod (g : Gate) : Nat := if g.cycle = 0 then gateSum g.entries else g.cycle

/-- Entries of the gate lists in use (R201). -/
def gatePool (t : IngressTables) : Nat := (t.gates.map fun g => g.2.entries.length).sum

/-- One entry of GATE_SET with the offsets it clamps (R228). -/
def gateEntryOf (off : Nat) (e : List Byte) : GateEntry × List Nat :=
  let iv := clampField off 64 1000000000 (u e 0 4)
  let om := clampField (off + 4) 0 16777215 (u e 4 4)
  ({ interval := iv.val, octetMax := om.val, isOpen := u e 8 1 = 1, ipv := u e 9 1 }, iv.off ++ om.off)

/-- The entries of a GATE_SET payload: offset and bytes of each. -/
def gateEntries (p : List Byte) (n : Nat) : List (Nat × List Byte) := (List.range n).map fun i => (32 + 12 * i, sub p (32 + 12 * i) 12)

/-- The body of GATE_SET (R228). -/
def bodyGateSet (s : State) (_ : Req) (p : List Byte) : Result :=
  let i := u p 0 2
  let op := u p 2 1
  let n := u p 6 2
  let es := gateEntries p n
  let dec := es.map fun e => gateEntryOf e.1 e.2
  let cyc := if u p 16 4 = 0 then ({ val := 0, off := [] } : Clamped) else clampField 16 1000 1000000000 (u p 16 4)
  let g : Gate := {
    flags := u p 3 1 % 4, initState := u p 4 1, initIpv := u p 5 1, base := u p 8 8, cycle := cyc.val, entries := dec.map (·.1) }
  let start := scheduleStart g.base (gatePeriod g) s.now
  checked ([chkSup (i > 1023) 0, chkSup (op > 1) 2, chkSup (op = 0 && (n < 1 || n > 256)) 6, chkSup (op = 1 && n != 0) 6,
      chkConf (op = 1 && !thas s.it.gates i) 0, chkConf (op = 1 && s.it.filters.any fun f => f.2.gate == i) 0,
      chkSup (op = 0 && u p 4 1 > 1) 4, chkSup (op = 0 && u p 5 1 > 7 && u p 5 1 != 0xFF) 5] ++
      es.flatMap (fun e => [chkSup (u e.2 8 1 > 1) (e.1 + 8), chkSup (u e.2 9 1 > 7 && u e.2 9 1 != 0xFF) (e.1 + 9)])) fun _ =>
    if op = 1 then
      .done { payload := le 2 i ++ le 4 0 ++ le 8 0, tables := 8, commits := true
              st := (s.modIt fun t => { t with gates := tdel t.gates i }).modIng fun d => { d with gates := tdel d.gates i } }
    else
      let s' := (s.modIt fun t => { t with gates := tset t.gates i g }).modIng fun d => { d with
        gates := tmod d.gates i {} fun r => { r with pending := some (start, g) } }
      if gatePool s'.it > 32768 then .fail stNoResource 6
      else .done { payload := le 2 i ++ le 4 (gatePeriod g) ++ le 8 start, clamps := cyc.off ++ dec.flatMap (·.2), st := s', tables := 8,
                   commits := true }

/-- GATE_SET (R228). -/
def specGateSet : CmdSpec := {
  opcode := 0x0309, level := 2, bulkIn := true, badLen := lenCounted 32 6 2 12, body := bodyGateSet }

/-- Bucket units: 1/1,024 byte (R203). -/
def bucketUnit : Nat := 1024

/-- Apply a METER_SET entry (R214, R229): the buckets become full, or with `KEEP_TOKENS` are kept and cut. -/
def entryMeter (off : Nat) (e : List Byte) (s : State) : EntryRes :=
  let i := u e 0 2
  let op := u e 2 1
  let cir := clampField (off + 4) 0 100000000 (u e 4 4)
  let cbs := clampField (off + 8) 0 16777215 (u e 8 4)
  let eir := clampField (off + 12) 0 100000000 (u e 12 4)
  let ebs := clampField (off + 16) 0 16777215 (u e 16 4)
  let fl := u e 3 1 % 32
  entryOk [chkSup (i > 2047) off, chkSup (op > 1) (off + 2), chkConf (op = 1 && !thas s.it.meters i) off] fun _ =>
    if op = 1 then .ok (ctrDelIndex (s.modIt fun t => { t with meters := tdel t.meters i }) 1 i, [])
    else
      let old := tgetD s.ing.meters i {}
      let full : MeterRun := { old with tc := cbs.val * bucketUnit, te := ebs.val * bucketUnit, last := s.time.raw }
      let kept : MeterRun := { old with tc := min old.tc (cbs.val * bucketUnit), te := min old.te (ebs.val * bucketUnit) }
      let run := if bit fl 4 && thas s.it.meters i then kept else full
      .ok (ctrAddIndex ((s.modIt fun t => { t with
            meters := tset t.meters i { flags := fl, cir := cir.val, cbs := cbs.val, eir := eir.val, ebs := ebs.val } }).modIng
            fun d => { d with meters := tset d.meters i run }) 1 i,
          cir.off ++ cbs.off ++ eir.off ++ ebs.off)

/-- A meter keeps what the filters that name it need (R209, R218). -/
def shadowMeter (off : Nat) (e : List Byte) (s : State) : List Check :=
  let i := u e 0 2
  let named := s.it.filters.any fun f => f.2.meter == i
  let z := s.it.filters.any fun f => f.2.meter == i && bit f.2.flags 1
  match tget s.it.meters i with
  | none => [chkConf named off]
  | some m => [chkPol (z && (bit m.flags 0 || bit m.flags 3)) (off + 3), chkPol (z && m.eir != 0) (off + 12),
               chkPol (z && m.ebs != 0) (off + 16), chkPol (z && (zenithFabric s == some 1 || zenithFabric s == some 3)) (off + 4),
               chkPol (z && (zenithFabric s == some 2 || zenithFabric s == some 4)) (off + 8)]

/-- METER_SET (R229). -/
def specMeterSet : CmdSpec := {
  opcode := 0x030A, level := 2, bulkIn := true, badLen := lenList 24, body := listBody 24 entryMeter shadowMeter 8 true }

/-! ### FRER (R230) -/

/-- Raise FRER_RESET for recovery function `i` (R217). -/
def raiseFrerReset (s : State) (src i cause : Nat) : State :=
  let lost := at' (ingCtr s 2 i) 5 0
  let seq := (tgetD s.ing.recovery i {}).lastSeq
  raise s 0x26 2 2 src (le 2 i ++ le 1 cause ++ zeros 1 ++ le 2 seq ++ zeros 2 ++ le 4 lost ++ le 4 1)

/-- The stream that names recovery function `i`, for the source of its events; the device where none does. -/
def recoverySource (t : IngressTables) (i : Nat) : Nat :=
  match t.streams.find? fun x => x.2.rcvy == i with
  | some x => srcId 7 x.1
  | none => srcId 0 0

/-- Reset a recovery history (R206). -/
def resetHistory (s : State) (i : Nat) : State :=
  ingCount (s.modIng fun d => { d with recovery := tmod d.recovery i {} fun r => { r with takeAny := true, history := [] } }) 2 i 7 1

/-- Apply an FRER_SET entry (R214, R230). -/
def entryFrer (off : Nat) (e : List Byte) (s : State) : EntryRes :=
  let i := u e 0 2
  let op := u e 2 1
  let kind := u e 3 1
  let h := clampField (off + 5) 2 64 (u e 5 1)
  let pa := clampField (off + 7) 2 8 (u e 7 1)
  let rs := clampField (off + 8) 1 65535 (u e 8 2)
  let ld := clampField (off + 10) 1 65535 (u e 10 2)
  let lp := clampField (off + 12) 100 3600000 (u e 12 4)
  let conf := if kind = 0 then thas s.it.generation i else thas s.it.recovery i
  entryOk [chkSup (i > 1023) off, chkSup (op > 1) (off + 2), chkSup (kind > 1) (off + 3), chkConf (op = 1 && !conf) off,
      chkSup (op = 0 && kind = 1 && u e 4 1 > 1) (off + 4)] fun _ =>
    if kind = 0 then
      if op = 1 then .ok (ctrDelIndex (s.modIt fun t => { t with generation := tdel t.generation i }) 3 i, [])
      else .ok (ctrAddIndex (s.modIt fun t => { t with generation := tset t.generation i () }) 3 i, [])
    else if op = 1 then .ok (ctrDelIndex (s.modIt fun t => { t with recovery := tdel t.recovery i }) 2 i, [])
    else
      let r : Recovery := {
        algo := u e 4 1, history := h.val, flags := u e 6 1 % 8, paths := pa.val, resetMs := rs.val, latentDiff := ld.val,
        latentMs := lp.val }
      let s1 := ctrAddIndex (s.modIt fun t => { t with recovery := tset t.recovery i r }) 2 i
      let s2 := match tget s.it.recovery i with
        | none => s1.modIng fun d => { d with recovery := tset d.recovery i {} }
        | some o =>
          if o.history ≠ r.history ∨ o.algo ≠ r.algo ∨ bit r.flags 2 then
            let t := resetHistory s1 i
            raiseFrerReset t (recoverySource t.it i) i 2
          else s1
      .ok (s2, h.off ++ pa.off ++ rs.off ++ ld.off ++ lp.off)

/-- A deleted function is named by no stream (R218). -/
def shadowFrer (off : Nat) (e : List Byte) (s : State) : List Check :=
  let i := u e 0 2
  [chkConf (u e 2 1 = 1 && u e 3 1 = 0 && s.it.streams.any fun x => x.2.gen == i) off,
   chkConf (u e 2 1 = 1 && u e 3 1 = 1 && s.it.streams.any fun x => x.2.rcvy == i) off]

/-- FRER_SET (R230). -/
def specFrerSet : CmdSpec := {
  opcode := 0x030B, level := 2, bulkIn := true, badLen := lenList 16, body := listBody 16 entryFrer shadowFrer 16 true }

/-! ### Mirrors, counters, dynamic state, reads (R231 to R234) -/

/-- Apply a MIRROR_SET entry (R212, R231). -/
def entryMirror (off : Nat) (e : List Byte) (s : State) : EntryRes :=
  let i := u e 0 1
  let d := u e 2 1
  let tc := clampField (off + 3) 0 6 (u e 3 1)
  let tr := clampField (off + 4) 64 9216 (u e 4 2)
  let d3 := (tgetD s.it.domDefault d {}).domain = 3
  entryOk [chkSup (i > 3) off, chkSup (u e 1 1 > 1) (off + 1), chkSup (d > 33) (off + 2), chkPol (d != 33 && !d3) (off + 2)] fun _ =>
    .ok (s.modIng fun x => { x with
        mirrors := x.mirrors.set i { enable := u e 1 1 = 1, dest := d, tc := tc.val, trunc := tr.val, flags := u e 6 1 % 2, srcPorts := portSet (u e 8 8) } },
      tc.off ++ tr.off)

/-- MIRROR_SET (R231). -/
def specMirrorSet : CmdSpec := {
  opcode := 0x030C, level := 1, bulkIn := true, badLen := lenList 16, body := listBody 16 entryMirror noShadowCheck 0 false }

/-- Whether an index of an ingress counter table lies in its population (R232). -/
def ingInPop (tbl i : Nat) : Bool :=
  match tbl with
  | 0 => i ≤ 4095
  | 1 => i ≤ 2047
  | 2 => i ≤ 1023
  | 3 => i ≤ 1023
  | 4 => i ≤ 3
  | _ => i ≤ 36

/-- Whether an index of an ingress counter table is configured in the current epoch. -/
def ingConfigured (s : State) (tbl i : Nat) : Bool :=
  match tbl with
  | 0 => thas s.it.filters i
  | 1 => thas s.it.meters i
  | 2 => thas s.it.recovery i
  | 3 => thas s.it.generation i
  | _ => true

/-- Counter values laid out in R216 order: 64-bit counters take 8 bytes and 32-bit ones 4. -/
def ctrBytes (ws vs : List Nat) : List Byte := (ws.zip vs).flatMap fun x => le (x.1 / 8) x.2

/-- COUNTERS_GET (R232). -/
def specCountersGet : CmdSpec := {
  opcode := 0x030D, badLen := lenIs 4,
  body := fun s _ p =>
    let t := u p 0 1
    let i := u p 2 2
    let del := s.ing.deleted.contains (65536 * t + i)
    checked [chkSup (t > 5) 0, chkSup (!ingInPop t i) 2, chkConf (!ingConfigured s t i && !del) 2] fun _ =>
      let vs := ingCtr s t i
      let out := le 1 t ++ le 1 (b2n del) ++ le 2 i ++ zeros 4 ++ ctrBytes (ingWidths t) vs ++
        (if t = 3 then le 4 (tgetD s.ing.nextSeq i 0) else [])
      .done { payload := out
              st := if bit (u p 1 1) 0 then s.modIng fun d => { d with counters := tdel d.counters (65536 * t + i) } else s } }

/-- STATE_CLEAR (R233). -/
def specStateClear : CmdSpec := {
  opcode := 0x030E, level := 2, badLen := lenIs 4,
  body := fun s _ p =>
    let t := u p 0 1
    let i := u p 2 2
    let pop := match t with
      | 0 => i ≤ 4095
      | 1 => i ≤ 2047
      | _ => i ≤ 1023
    let conf := match t with
      | 0 => thas s.it.filters i
      | 1 => thas s.it.meters i
      | 2 => thas s.it.recovery i
      | _ => thas s.it.gates i
    checked [chkSup (t > 3) 0, chkSup (!pop) 2, chkConf (!conf) 2] fun _ =>
      match t with
      | 0 => .done { payload := le 1 (b2n (s.ing.blocked.contains i))
                     st := s.modIng fun d => { d with blocked := d.blocked.filter (· != i) } }
      | 1 => .done { payload := le 1 (b2n (tgetD s.ing.meters i {}).allRed)
                     st := s.modIng fun d => { d with meters := tmod d.meters i {} fun m => { m with allRed := false } } }
      | 2 =>
        let r := tgetD s.ing.recovery i {}
        let s' := resetHistory s i
        .done { payload := le 1 (b2n (!r.takeAny || !r.history.isEmpty)), st := raiseFrerReset s' (recoverySource s'.it i) i 1 }
      | _ => .done { payload := le 1 (b2n ((tgetD s.ing.gates i {}).latched != 0))
                     st := s.modIng fun d => { d with gates := tmod d.gates i {} fun g => { g with latched := 0 } } } }

/-- A domain-map entry in the layout of R219. -/
def domBytes (point kind vid : Nat) (e : DomEntry) : List Byte :=
  le 1 point ++ le 1 kind ++ le 2 vid ++ le 1 e.domain ++ le 1 e.defPrio ++ le 2 e.pvid ++ le 1 e.accept ++ le 1 e.trust ++
  le 1 e.flags ++ zeros 1 ++ le 2 e.learnLimit ++ zeros 2

/-- A stream identification entry in the layout of R225. -/
def streamIdBytes (i : Nat) (x : StreamId) : List Byte :=
  le 2 i ++ le 2 x.handle ++ le 1 x.type ++ le 1 x.domain ++ le 1 x.tagged ++ zeros 1 ++ le 8 x.ports ++ le 2 x.vid ++ zeros 2 ++
  padTo 44 (match x.type with
    | 3 => le 1 x.ipVer ++ le 1 x.dscp ++ le 1 x.proto ++ le 1 x.matchB ++ le 2 x.l4Dst ++ le 2 x.l4Src ++ x.ipDst ++ x.ipSrc
    | 4 => le 1 x.kind ++ le 1 x.channel ++ zeros 2 ++ le 4 x.ident ++ le 4 x.mask
    | _ => x.mac)

/-- A gate in the layout of R228: header and entries. -/
def gateBytes (i : Nat) (g : Gate) (base : Nat) : List Byte :=
  le 2 i ++ zeros 1 ++ le 1 g.flags ++ le 1 g.initState ++ le 1 g.initIpv ++ le 2 g.entries.length ++ le 8 base ++ le 4 g.cycle ++
  zeros 12 ++ g.entries.flatMap fun e => le 4 e.interval ++ le 4 e.octetMax ++ le 1 (b2n e.isOpen) ++ le 1 e.ipv ++ zeros 2

/-- The operational gate of an index: the running list, or the configured one that waits for its time. -/
def operationalGate (s : State) (i : Nat) (g : Gate) : Gate := ((tgetD s.ing.gates i {}).list).getD g

/-- The configured entries of an ingress table in the layout of their set command, by index (R234). -/
def ingTable (s : State) : Nat → Tab (List Byte)
  | 0 => s.it.domDefault.map fun e => (e.1, domBytes e.1 0 0 e.2)
  | 1 => s.it.domOvr.zipIdx.map fun e => (e.2, domBytes (e.1.1 / 4096) 1 (e.1.1 % 4096) e.1.2)
  | 2 => s.it.domParams.map fun e => (e.1, le 1 e.1 ++ le 1 e.2.flags ++ zeros 2 ++ le 4 e.2.agingS ++ e.2.dscp.flatMap (le 1))
  | 3 => s.it.vlans.map fun e => (e.1, le 1 (e.1 / 4096) ++ zeros 1 ++ le 2 (e.1 % 4096) ++ le 2 (e.1 % 4096) ++ zeros 2 ++
          le 8 e.2.members ++ le 8 e.2.untagged)
  | 4 => s.it.streamIds.map fun e => (e.1, streamIdBytes e.1 e.2)
  | 5 => s.it.streams.map fun e => (e.1, le 2 e.1 ++ zeros 1 ++ le 1 e.2.flags ++ le 1 e.2.prio ++ le 1 e.2.cdest ++ le 2 e.2.gen ++
          le 2 e.2.rcvy ++ le 1 e.2.mirror ++ zeros 5)
  | 6 => s.it.filters.map fun e => (e.1, le 2 e.1 ++ zeros 1 ++ le 1 e.2.flags ++ le 2 e.2.handle ++ le 1 e.2.prio ++ zeros 1 ++
          le 2 e.2.maxSdu ++ le 2 e.2.gate ++ le 2 e.2.meter ++ zeros 2)
  | 7 => s.it.gates.map fun e => let g := operationalGate s e.1 e.2; (e.1, gateBytes e.1 g g.base)
  | 8 => s.it.meters.map fun e => (e.1, le 2 e.1 ++ zeros 1 ++ le 1 e.2.flags ++ le 4 e.2.cir ++ le 4 e.2.cbs ++ le 4 e.2.eir ++
          le 4 e.2.ebs ++ zeros 4)
  | 9 => s.it.recovery.map fun e => (e.1, le 2 e.1 ++ zeros 1 ++ le 1 1 ++ le 1 e.2.algo ++ le 1 e.2.history ++ le 1 e.2.flags ++
          le 1 e.2.paths ++ le 2 e.2.resetMs ++ le 2 e.2.latentDiff ++ le 4 e.2.latentMs)
  | 10 => s.it.generation.map fun e => (e.1, le 2 e.1 ++ zeros 14)
  | _ => s.ing.mirrors.zipIdx.map fun e => (e.2, le 1 e.2 ++ le 1 (b2n e.1.enable) ++ le 1 e.1.dest ++ le 1 e.1.tc ++ le 2 e.1.trunc ++
          le 1 e.1.flags ++ zeros 1 ++ le 8 e.1.srcPorts)

/-- Population of an ingress table (R234). -/
def ingPopulation (t : Nat) : Nat := at' [120, 4096, 8, 32768, 8192, 4096, 4096, 1024, 2048, 1024, 1024, 4] t 0

/-- TABLE_READ (R234): the configured entries whose index (for VID overrides, position) lies in the range asked for. -/
def specTableRead : CmdSpec := {
  opcode := 0x030F, bulkOut := true, badLen := lenIs 6,
  body := fun s _ p =>
    let t := u p 0 1
    let first := u p 2 2
    let cnt := clampField 4 1 (ingPopulation t - first) (u p 4 2)
    checked [chkSup (t > 11) 0, chkSup (first ≥ ingPopulation t) 2] fun _ =>
      let es := (ingTable s t).filter fun e => first ≤ e.1 && e.1 < first + cnt.val
      .done { payload := le 2 first ++ le 2 cnt.val ++ le 4 s.ep.epoch ++ es.flatMap (·.2), clamps := cnt.off, st := s } }

/-! ### The rows -/

def execDomainMapSet (r : Req) (s : State) : Host.Outcome State Fault Refusal := command specDomainMapSet r s
def execDomainParamsSet (r : Req) (s : State) : Host.Outcome State Fault Refusal := command specDomainParamsSet r s
def execVlanSet (r : Req) (s : State) : Host.Outcome State Fault Refusal := command specVlanSet r s
def execFdbStaticSet (r : Req) (s : State) : Host.Outcome State Fault Refusal := command specFdbStaticSet r s
def execFdbFlush (r : Req) (s : State) : Host.Outcome State Fault Refusal := command specFdbFlush r s
def execFdbRead (r : Req) (s : State) : Host.Outcome State Fault Refusal := command specFdbRead r s
def execStreamIdSet (r : Req) (s : State) : Host.Outcome State Fault Refusal := command specStreamIdSet r s
def execStreamSet (r : Req) (s : State) : Host.Outcome State Fault Refusal := command specStreamSet r s
def execFilterSet (r : Req) (s : State) : Host.Outcome State Fault Refusal := command specFilterSet r s
def execGateSet (r : Req) (s : State) : Host.Outcome State Fault Refusal := command specGateSet r s
def execMeterSet (r : Req) (s : State) : Host.Outcome State Fault Refusal := command specMeterSet r s
def execFrerSet (r : Req) (s : State) : Host.Outcome State Fault Refusal := command specFrerSet r s
def execMirrorSet (r : Req) (s : State) : Host.Outcome State Fault Refusal := command specMirrorSet r s
def execCountersGet (r : Req) (s : State) : Host.Outcome State Fault Refusal := command specCountersGet r s
def execStateClear (r : Req) (s : State) : Host.Outcome State Fault Refusal := command specStateClear r s
def execTableRead (r : Req) (s : State) : Host.Outcome State Fault Refusal := command specTableRead r s

end Sys2Proof.Machine
end

