-- ==== Sys2Proof/Machine/HorizonCmds.lean ====
section
/-! DEFINITION. Commands of group 0x04: Horizon tables, sessions and counters (R268 to R278). -/

namespace Sys2Proof.Machine

/-- The current epoch's Horizon tables. -/
def State.ht (s : State) : HorizonTables := s.ep.cur.hor

/-- The state with the current epoch's Horizon tables changed. -/
def State.modHt (s : State) (f : HorizonTables → HorizonTables) : State :=
  { s with ep := { s.ep with cur := { s.ep.cur with hor := f s.ep.cur.hor } } }

/-- The state with its dynamic Horizon state changed. -/
def State.modHor (s : State) (f : Horizon → Horizon) : State := { s with hor := f s.hor }

/-- Widths of the Horizon counters (R266); table 3's two values are not among them. -/
def horWidths : Nat → List Nat
  | 0 => [64, 64]
  | 1 => [64, 32]
  | 2 => [64, 64, 32, 32, 32, 32, 32, 32, 32]
  | _ => [64, 64, 64, 64, 64, 32, 32, 32, 32, 32, 32]

/-- Horizon counter values of an index. -/
def horCtr (s : State) (tbl idx : Nat) : List Nat :=
  tgetD s.hor.counters (65536 * tbl + idx) ((horWidths tbl).map fun _ => 0)

/-- Add `n` to counter `pos` of index `idx` of Horizon table `tbl` (R266). -/
def horCount (s : State) (tbl idx pos n : Nat) : State :=
  let c := horCtr s tbl idx
  s.modHor fun h => { h with
    counters := tset h.counters (65536 * tbl + idx) (c.modify pos fun x => ctrAdd (at' (horWidths tbl) pos 32) x n) }

/-- Counters of an index added again start from 0 (R215, R262). -/
def horAddIndex (s : State) (tbl idx : Nat) : State :=
  let k := 65536 * tbl + idx
  if s.hor.deleted.contains k then s.modHor fun h => { h with deleted := h.deleted.erase k, counters := tdel h.counters k } else s

/-- A deleted index keeps counting (R215, R262). -/
def horDelIndex (s : State) (tbl idx : Nat) : State :=
  let k := 65536 * tbl + idx
  if s.hor.deleted.contains k then s else s.modHor fun h => { h with deleted := k :: h.deleted }

/-- Key of a zone-map point entry (R241); VID 0 is the default. -/
def pointKey (domain point vid : Nat) : Nat := (128 * domain + point) * 4096 + vid

/-- Whether a map or matrix entry names a zone (R268). -/
def zoneNamed (t : HorizonTables) (z : Nat) : Bool :=
  t.points.any (fun e => e.2 == z) || t.streams.any (fun e => e.2 == z) || t.pairs.any fun e => e.1 / 256 == z || e.1 % 256 == z

/-- Apply a ZONE_SET entry (R269). -/
def entryZone (off : Nat) (e : List Byte) (s : State) : EntryRes :=
  let z := u e 0 1
  let op := u e 1 1
  let d := u e 2 1
  let dflt := bit (u e 3 1) 0
  let old := tget s.ht.zones z
  let moves : Bool := match old with
    | some o => o.domain != d && zoneNamed s.ht z
    | none => false
  entryOk [chkSup (op > 1) (off + 1), chkConf (op = 1 && old.isNone) off, chkSup (op = 0 && d > 7) (off + 2),
      chkConf (op = 0 && !inCarve s d) (off + 2), chkConf (op = 0 && moves) (off + 2)] fun _ =>
    if op = 1 then .ok (horDelIndex (s.modHt fun t => { t with zones := tdel t.zones z }) 2 z, [])
    else
      let clear := fun (t : Tab Zone) =>
        if dflt then t.map fun x => if x.2.domain == d then (x.1, { x.2 with isDefault := false }) else x else t
      .ok (horAddIndex (s.modHt fun t => { t with zones := tset (clear t.zones) z { domain := d, isDefault := dflt } }) 2 z, [])

/-- A deleted zone is named by no entry (R268). -/
def shadowZone (off : Nat) (e : List Byte) (s : State) : List Check :=
  [chkConf (u e 1 1 = 1 && !thas s.ht.zones (u e 0 1) && zoneNamed s.ht (u e 0 1)) off]

/-- ZONE_SET (R269). -/
def specZoneSet : CmdSpec := {
  opcode := 0x0400, level := 3, bulkIn := true, badLen := lenList 8, body := listBody 8 entryZone shadowZone 32 true }

/-- Apply a ZONE_MAP_SET entry (R270). -/
def entryZoneMap (off : Nat) (e : List Byte) (s : State) : EntryRes :=
  let kind := u e 0 1
  let d := u e 1 1
  let pt := u e 2 1
  let vid := u e 4 2
  let h := u e 6 2
  let z := u e 8 1
  let k := pointKey d pt (if kind = 0 then 0 else vid)
  let isPt := kind != 2
  let put := fun (_ : Unit) => if !thas s.ht.points k && s.ht.points.length ≥ 4096 then (.error (stNoResource, off) : EntryRes)
    else .ok (s.modHt fun t => { t with points := tset t.points k z }, [])
  entryOk [chkSup (kind > 3) off, chkSup (isPt && d > 7) (off + 1), chkConf (isPt && !inCarve s d) (off + 1),
      chkSup (isPt && !(pt ≤ 35 || (kind == 0 && 64 ≤ pt && pt ≤ 119))) (off + 2),
      chkSup ((kind = 1 || kind = 3) && (vid < 1 || vid > 4094)) (off + 4), chkSup (kind = 2 && h > 4095) (off + 6),
      chkConf (kind = 3 && !thas s.ht.points k) (off + 4)] fun _ =>
    match kind with
    | 0 => if z = 0xFF then .ok (s.modHt fun t => { t with points := tdel t.points k }, []) else put ()
    | 1 => put ()
    | 2 => if z = 0xFF then .ok (s.modHt fun t => { t with streams := tdel t.streams h }, [])
           else .ok (s.modHt fun t => { t with streams := tset t.streams h z }, [])
    | _ => .ok (s.modHt fun t => { t with points := tdel t.points k }, [])

/-- A map entry names a configured zone of its domain (R268). -/
def shadowZoneMap (off : Nat) (e : List Byte) (s : State) : List Check :=
  let kind := u e 0 1
  let z := u e 8 1
  let sets := kind = 1 || (kind != 3 && z != 0xFF)
  match tget s.ht.zones z with
  | none => [chkConf sets (off + 8)]
  | some x => [chkConf (sets && kind != 2 && x.domain != u e 1 1) (off + 8)]

/-- ZONE_MAP_SET (R270). -/
def specZoneMapSet : CmdSpec := {
  opcode := 0x0401, level := 3, bulkIn := true, badLen := lenList 16, body := listBody 16 entryZoneMap shadowZoneMap 32 true }

/-- Apply a ZONE_PAIR_SET entry (R271). -/
def entryZonePair (off : Nat) (e : List Byte) (s : State) : EntryRes :=
  let k := 256 * u e 0 1 + u e 1 1
  let reset := bit (u e 10 1) 1
  let pol := u e 2 1
  let first := u e 4 2
  let cnt := clampField (off + 6) 1 (8192 - first) (u e 6 2)
  let rules := pol = 2
  let lim := u e 8 2
  entryOk [chkSup (!reset && pol > 2) (off + 2), chkSup (!reset && u e 3 1 > 1) (off + 3),
      chkSup (!reset && rules && first > 8191) (off + 4), chkSup (!reset && lim > 1023 && lim != 0xFFFF) (off + 8)] fun _ =>
    let p : PairEntry := {
      policy := pol, dflt := u e 3 1, first := if rules then first else 0, count := if rules then cnt.val else 0, limiter := lim,
      logDeny := bit (u e 10 1) 0 }
    if reset ∨ p = {} then .ok (s.modHt fun t => { t with pairs := tdel t.pairs k }, [])
    else .ok (s.modHt fun t => { t with pairs := tset t.pairs k p }, if rules then cnt.off else [])

/-- A pair names two configured zones of one domain and a configured limiter (R242, R268, R271). -/
def shadowZonePair (off : Nat) (e : List Byte) (s : State) : List Check :=
  let a := tget s.ht.zones (u e 0 1)
  let b := tget s.ht.zones (u e 1 1)
  let lim := u e 8 2
  [chkConf a.isNone off, chkConf b.isNone (off + 1), chkPol (a.map (·.domain) != b.map (·.domain)) off,
   chkConf (!bit (u e 10 1) 1 && lim != 0xFFFF && !thas s.ht.limiters lim) (off + 8)]

/-- ZONE_PAIR_SET (R271). -/
def specZonePairSet : CmdSpec := {
  opcode := 0x0402, level := 3, bulkIn := true, badLen := lenList 16, body := listBody 16 entryZonePair shadowZonePair 32 true }

/-- Apply a RULE_SET entry (R272). -/
def entryRule (off : Nat) (e : List Byte) (s : State) : EntryRes :=
  let i := u e 0 2
  let op := u e 2 1
  let m := u e 4 2
  let fl := u e 6 1 % 16
  let car := bit fl 0
  let pmax := if u e 12 1 = 4 then 32 else 128
  let sp := clampField (off + 16) 0 pmax (u e 16 1)
  let dp := clampField (off + 17) 0 pmax (u e 17 1)
  let sh := clampField (off + 26) (u e 24 2) 65535 (u e 26 2)
  let dh := clampField (off + 30) (u e 28 2) 65535 (u e 30 2)
  let pr := clampField (off + 64) 0 7 (u e 64 1)
  let set := op = 0
  entryOk [chkSup (i > 8191) off, chkSup (op > 1) (off + 2), chkConf (op = 1 && !thas s.ht.rules i) off,
      chkSup (set && u e 3 1 > 4) (off + 3),
      chkSup (set && ((!car && bits m 15 13 != 0) || (car && bits m 11 3 != 0))) (off + 4),
      chkSup (set && bit m 2 && u e 7 1 > 7) (off + 7), chkSup (set && bit m 1 && (u e 10 2 < 1 || u e 10 2 > 4094)) (off + 10),
      chkSup (set && bit m 3 && u e 12 1 != 4 && u e 12 1 != 6) (off + 12), chkSup (set && bit m 5 && u e 14 1 > 63) (off + 14),
      chkSup (set && bit m 12 && u e 22 2 > 4095) (off + 22), chkSup (set && u e 65 1 > 3) (off + 65)] fun _ =>
    if op = 1 then .ok (horDelIndex (s.modHt fun t => { t with rules := tdel t.rules i }) 0 i, [])
    else
      let r : Rule := {
        action := u e 3 1, mtch := m, flags := fl, pcp := u e 7 1, etherType := u e 8 2, vid := u e 10 2, ipVer := u e 12 1,
        proto := u e 13 1, dscp := u e 14 1, srcPfx := sp.val, dstPfx := dp.val, tcpFlags := u e 18 1, tcpMask := u e 19 1,
        icmpType := u e 20 1, icmpCode := u e 21 1, stream := u e 22 2, srcLo := u e 24 2, srcHi := sh.val, dstLo := u e 28 2,
        dstHi := dh.val, ipSrc := if car then zeros 16 else sub e 32 16, ipDst := if car then zeros 16 else sub e 48 16,
        kind := if car then u e 32 1 else 0, channel := if car then u e 33 1 else 0, ident := if car then u e 36 4 else 0,
        mask := if car then u e 40 4 else 0, profile := pr.val, handler := u e 65 1 }
      .ok (horAddIndex (s.modHt fun t => { t with rules := tset t.rules i r }) 0 i,
        (if car then [] else sp.off ++ dp.off ++ sh.off ++ dh.off) ++ pr.off)

/-- RULE_SET (R272). -/
def specRuleSet : CmdSpec := {
  opcode := 0x0403, level := 3, bulkIn := true, badLen := lenList 72, body := listBody 72 entryRule noShadowCheck 32 true }

/-- Units of a limiter's bucket per byte or frame. -/
def tokenUnit : Nat := 1024

/-- Apply a LIMITER_SET entry (R257, R273). -/
def entryLimiter (off : Nat) (e : List Byte) (s : State) : EntryRes :=
  let i := u e 0 2
  let op := u e 2 1
  let mode := u e 3 1
  let rate := clampField (off + 4) 1 100000000 (u e 4 4)
  let burst := if mode = 0 then clampField (off + 8) 1600 16777215 (u e 8 4) else clampField (off + 8) 1 65535 (u e 8 4)
  let keep := bit (u e 12 1) 0
  entryOk [chkSup (i > 1023) off, chkSup (op > 1) (off + 2), chkConf (op = 1 && !thas s.ht.limiters i) off,
      chkSup (op = 0 && mode > 1) (off + 3)] fun _ =>
    if op = 1 then .ok (horDelIndex (s.modHt fun t => { t with limiters := tdel t.limiters i }) 1 i, [])
    else
      let old := tgetD s.hor.buckets i {}
      let b : Bucket := if keep && thas s.ht.limiters i then { old with tokens := min old.tokens (burst.val * tokenUnit) }
        else { tokens := burst.val * tokenUnit, last := s.time.raw }
      .ok (horAddIndex ((s.modHt fun t => { t with
              limiters := tset t.limiters i { mode := mode, rate := rate.val, burst := burst.val, flags := u e 12 1 % 2 } }).modHor
            fun h => { h with buckets := tset h.buckets i b }) 1 i, rate.off ++ burst.off)

/-- LIMITER_SET (R273). -/
def specLimiterSet : CmdSpec := {
  opcode := 0x0404, level := 3, bulkIn := true, badLen := lenList 16, body := listBody 16 entryLimiter noShadowCheck 32 true }

/-- Profile `i` of a HORIZON_PARAMS_SET payload, each field clamped (R274). -/
def profileOf (p : List Byte) (i : Nat) : Profile × List Nat :=
  let o := 16 + 24 * i
  let f := fun k => clampField (o + 4 * k) 1 604800 (u p (o + 4 * k) 4)
  ({ tcpSyn := (f 0).val, tcpEst := (f 1).val, tcpClose := (f 2).val, udpNew := (f 3).val, udpBidir := (f 4).val, other := (f 5).val },
   (List.range 6).flatMap fun k => (f k).off)

/-- The Horizon parameters in the layout of R274. -/
def horParamBytes (h : HorizonParams) : List Byte :=
  le 1 (b2n h.spillEn) ++ zeros 1 ++ le 2 h.spillIdle ++ le 4 h.excRate ++ le 2 h.excBurst ++ zeros 6 ++
  h.profiles.flatMap fun q => le 4 q.tcpSyn ++ le 4 q.tcpEst ++ le 4 q.tcpClose ++ le 4 q.udpNew ++ le 4 q.udpBidir ++ le 4 q.other

/-- HORIZON_PARAMS_SET (R274). -/
def specHorizonParamsSet : CmdSpec := {
  opcode := 0x0405, badLen := lenIs 208,
  body := fun s _ p =>
    let id := clampField 2 100 60000 (u p 2 2)
    let er := clampField 4 100 200000 (u p 4 4)
    let eb := clampField 8 1 2048 (u p 8 2)
    let ps := (List.range 8).map (profileOf p)
    let h : HorizonParams := {
      spillEn := bit (u p 0 1) 0, spillIdle := id.val, excRate := er.val, excBurst := eb.val, profiles := ps.map (·.1) }
    .done { payload := horParamBytes h, clamps := id.off ++ er.off ++ eb.off ++ ps.flatMap (·.2)
            st := s.modHor fun x => { x with params := h } } }

/-- The code of a session state (R275). -/
def sessCode : SessState → Nat
  | .tcpSyn => 0
  | .tcpEst => 1
  | .tcpClosing => 2
  | .udpNew => 3
  | .udpBidir => 4
  | .otherNew => 5
  | .otherBidir => 6

/-- A 64-byte session record (R275). -/
def sessRecord (s : State) (spilled : Bool) (i : Nat) (x : Sess) : List Byte :=
  le 4 i ++ le 1 x.domain ++ le 1 (sessCode x.state) ++ le 1 x.ver ++ le 1 x.proto ++ le 1 x.srcZone ++ le 1 x.dstZone ++
  le 1 x.profile ++ le 1 (b2n spilled + 2 * b2n x.admitted + 4 * b2n x.mid) ++ le 2 x.sport ++ le 2 x.dport ++ padTo 16 x.src ++
  padTo 16 x.dst ++ le 2 x.rule ++ le 2 (min ((s.now - x.last) / secondNs) 65535) ++ le 4 x.epoch ++ le 8 x.frames

/-- SESSION_READ (R275). -/
def specSessionRead : CmdSpec := {
  opcode := 0x0406, level := 3, bulkOut := true, badLen := lenIs 12,
  body := fun s _ p =>
    let first := u p 0 4
    let sp := bit (u p 8 1) 0
    let lo := if sp then 0 else 1
    let hi := if sp then 1048575 else 16383
    let cnt := clampField 4 1 (hi + 1 - first) (u p 4 4)
    checked [chkSup (first < lo || first > hi) 0] fun _ =>
      let rs := (if sp then s.hor.spilled else s.hor.sessions).filter fun e => first ≤ e.1 && e.1 < first + cnt.val
      .done { payload := le 4 first ++ le 4 cnt.val ++ le 4 rs.length ++ rs.flatMap fun e => sessRecord s sp e.1 e.2,
              clamps := cnt.off, st := s } }

/-- Raise SESSION_SPILL (R256, R267). -/
def raiseSpill (s : State) (kind : Nat) : State :=
  raise s 0x52 2 noLevel (srcId 0 0) (le 1 kind ++ zeros 3 ++ le 4 s.hor.sessions.length ++ le 4 s.hor.spilled.length ++
    le 4 (at' (horCtr s 3 0) 6 0))

/-- The event owed when the spill store has become empty (R256). -/
def spillEmptied (before s : State) : State :=
  if !before.hor.spilled.isEmpty && s.hor.spilled.isEmpty then raiseSpill s 1 else s

/-- SESSION_FLUSH (R265, R276). -/
def specSessionFlush : CmdSpec := {
  opcode := 0x0407, level := 3, badLen := lenIs 4,
  body := fun s _ p =>
    let d := u p 0 1
    let z := u p 2 2
    let sp := bit (u p 1 1) 0
    checked [chkSup (d > 7 && d != 0xFF) 0, chkSup (z > 255 && z != 0xFFFF) 2] fun _ =>
      let hit := fun (x : Sess) => (d == 0xFF || x.domain == d) && (z == 0xFFFF || x.srcZone == z || x.dstZone == z)
      let n := (s.hor.sessions.filter fun e => hit e.2).length + (s.hor.pending.filter hit).length +
        if sp then (s.hor.spilled.filter fun e => hit e.2).length + (s.hor.spillBuf.filter hit).length else 0
      let s' := s.modHor fun h => { h with
        sessions := h.sessions.filter fun e => !hit e.2
        pending := h.pending.filter fun x => !hit x
        spilled := if sp then h.spilled.filter fun e => !hit e.2 else h.spilled
        spillBuf := if sp then h.spillBuf.filter fun x => !hit x else h.spillBuf }
      .done { payload := le 4 n, st := spillEmptied s s' } }

/-- HORIZON_COUNTERS_GET (R277). -/
def specHorizonCountersGet : CmdSpec := {
  opcode := 0x0408, badLen := lenIs 4,
  body := fun s _ p =>
    let t := u p 0 1
    let i := u p 2 2
    let k := 65536 * t + i
    let pop := match t with
      | 0 => i ≤ 8191
      | 1 => i ≤ 1023
      | 2 => i ≤ 255
      | _ => i = 0
    let conf := match t with
      | 0 => thas s.ht.rules i
      | 1 => thas s.ht.limiters i
      | 2 => thas s.ht.zones i
      | _ => true
    let del := s.hor.deleted.contains k
    checked [chkSup (t > 3) 0, chkSup (!pop) 2, chkConf (!conf && !del) 2] fun _ =>
      .done { payload := le 1 t ++ le 1 (b2n del) ++ le 2 i ++ zeros 4 ++ ctrBytes (horWidths t) (horCtr s t i) ++
                (if t = 3 then le 4 (s.hor.sessions.length + s.hor.pending.length) ++ le 4 s.hor.spilled.length else [])
              st := if bit (u p 1 1) 0 then s.modHor fun h => { h with counters := tdel h.counters k } else s } }

/-- A rule in the layout of R272. -/
def ruleBytes (i : Nat) (r : Rule) : List Byte :=
  le 2 i ++ zeros 1 ++ le 1 r.action ++ le 2 r.mtch ++ le 1 r.flags ++ le 1 r.pcp ++ le 2 r.etherType ++ le 2 r.vid ++ le 1 r.ipVer ++
  le 1 r.proto ++ le 1 r.dscp ++ zeros 1 ++ le 1 r.srcPfx ++ le 1 r.dstPfx ++ le 1 r.tcpFlags ++ le 1 r.tcpMask ++ le 1 r.icmpType ++
  le 1 r.icmpCode ++ le 2 r.stream ++ le 2 r.srcLo ++ le 2 r.srcHi ++ le 2 r.dstLo ++ le 2 r.dstHi ++
  (if bit r.flags 0 then le 1 r.kind ++ le 1 r.channel ++ zeros 2 ++ le 4 r.ident ++ le 4 r.mask ++ zeros 20
   else padTo 16 r.ipSrc ++ padTo 16 r.ipDst) ++ le 1 r.profile ++ le 1 r.handler ++ zeros 6

/-- The configured entries of a Horizon table in the layout of their set command (R278). The zone map lists point entries,
then stream zones, by position. -/
def horTable (s : State) : Nat → Tab (List Byte)
  | 0 => s.ht.zones.map fun e => (e.1, le 1 e.1 ++ zeros 1 ++ le 1 e.2.domain ++ le 1 (b2n e.2.isDefault) ++ zeros 4)
  | 1 =>
    let ps := s.ht.points.map fun e =>
      let vid := e.1 % 4096
      let dp := e.1 / 4096
      le 1 (if vid = 0 then 0 else 1) ++ le 1 (dp / 128) ++ le 1 (dp % 128) ++ zeros 1 ++ le 2 vid ++ zeros 2 ++ le 1 e.2 ++ zeros 7
    let ss := s.ht.streams.map fun e => le 1 2 ++ zeros 5 ++ le 2 e.1 ++ le 1 e.2 ++ zeros 7
    (ps ++ ss).zipIdx.map fun e => (e.2, e.1)
  | 2 => s.ht.pairs.map fun e => (e.1, le 1 (e.1 / 256) ++ le 1 (e.1 % 256) ++ le 1 e.2.policy ++ le 1 e.2.dflt ++ le 2 e.2.first ++
          le 2 e.2.count ++ le 2 e.2.limiter ++ le 1 (b2n e.2.logDeny) ++ zeros 5)
  | 3 => s.ht.rules.map fun e => (e.1, ruleBytes e.1 e.2)
  | 4 => s.ht.limiters.map fun e => (e.1, le 2 e.1 ++ zeros 1 ++ le 1 e.2.mode ++ le 4 e.2.rate ++ le 4 e.2.burst ++ le 1 e.2.flags ++
          zeros 3)
  | _ => [(0, horParamBytes s.hor.params)]

/-- Population of a Horizon table (R278); the zone map holds 4,096 point entries and 4,096 stream zones. -/
def horPopulation (t : Nat) : Nat := at' [256, 8192, 65536, 8192, 1024, 1] t 0

/-- HORIZON_TABLE_READ (R278). -/
def specHorizonTableRead : CmdSpec := {
  opcode := 0x0409, bulkOut := true, badLen := lenIs 10,
  body := fun s _ p =>
    let t := u p 0 1
    let first := u p 2 4
    let cnt := clampField 6 1 (horPopulation t - first) (u p 6 4)
    checked [chkSup (t > 5) 0, chkSup (first ≥ horPopulation t) 2] fun _ =>
      let es := (horTable s t).filter fun e => first ≤ e.1 && e.1 < first + cnt.val
      .done { payload := le 4 first ++ le 4 cnt.val ++ le 4 s.ep.epoch ++ es.flatMap (·.2), clamps := cnt.off, st := s } }

def execZoneSet (r : Req) (s : State) : Host.Outcome State Fault Refusal := command specZoneSet r s
def execZoneMapSet (r : Req) (s : State) : Host.Outcome State Fault Refusal := command specZoneMapSet r s
def execZonePairSet (r : Req) (s : State) : Host.Outcome State Fault Refusal := command specZonePairSet r s
def execRuleSet (r : Req) (s : State) : Host.Outcome State Fault Refusal := command specRuleSet r s
def execLimiterSet (r : Req) (s : State) : Host.Outcome State Fault Refusal := command specLimiterSet r s
def execHorizonParamsSet (r : Req) (s : State) : Host.Outcome State Fault Refusal := command specHorizonParamsSet r s
def execSessionRead (r : Req) (s : State) : Host.Outcome State Fault Refusal := command specSessionRead r s
def execSessionFlush (r : Req) (s : State) : Host.Outcome State Fault Refusal := command specSessionFlush r s
def execHorizonCountersGet (r : Req) (s : State) : Host.Outcome State Fault Refusal := command specHorizonCountersGet r s
def execHorizonTableRead (r : Req) (s : State) : Host.Outcome State Fault Refusal := command specHorizonTableRead r s

end Sys2Proof.Machine
end

