-- ==== Sys2Proof/Machine/Parser.lean ====
section
/-! DEFINITION. Stage 1: the parser (R186, R187, R189). -/

namespace Sys2Proof.Machine

/-- What the parser makes of a frame: its fields, the reason it discards the frame whatever the domain (0, 3 or 4 of R187),
and the reason (1 or 2) that applies in domains with `DISCARD_MALFORMED`. -/
structure ParseRes where
  parsed  : Parsed
  discard : Option Nat := none
  ipBad   : Option Nat := none

/-- The fixed L4 header at `off` of a frame of `n` bytes lies within the first 128 bytes (R186). -/
def l4Fits (n off len : Nat) : Bool := off + len ≤ 128 && off + len ≤ n

/-- The L4 header at `off` for an IP protocol (R186), and the end of the stack. -/
def parseL4 (d : List Byte) (proto off : Nat) : L4Info × Nat :=
  if proto = 6 then
    if l4Fits d.length off 20 then
      ({ src := some (ub d off 2), dst := some (ub d (off + 2) 2), tcpFlags := some (u d (off + 13) 1),
         dataOff := off + 4 * (u d (off + 12) 1 / 16) }, off + 20)
    else ({}, off)
  else if proto = 17 then
    if l4Fits d.length off 8 then
      ({ src := some (ub d off 2), dst := some (ub d (off + 2) 2), dataOff := off + 8 }, off + 8)
    else ({}, off)
  else if proto = 1 ∨ proto = 58 then
    if l4Fits d.length off 8 then
      ({ icmpType := some (u d off 1), icmpCode := some (u d (off + 1) 1), dataOff := off + 8 }, off + 8)
    else ({}, off)
  else ({}, off)

/-- The IPv4 header at `off` (R186): its fields, L4 and stack end; or malformed (reason 1 of R187). -/
def parseIp4 (p : Parsed) (d : List Byte) (off : Nat) : ParseRes :=
  let vihl := u d off 1
  let ihl := vihl % 16
  let hl := 4 * ihl
  let tot := ub d (off + 2) 2
  if vihl / 16 ≠ 4 ∨ ihl < 5 ∨ tot < hl ∨ d.length < off + tot then
    { parsed := { p with stackEnd := off }, ipBad := some 1 }
  else
    let ff := ub d (off + 6) 2
    let later := ff % 8192 ≠ 0
    let l4 := if later then (({} : L4Info), off + hl) else parseL4 d (u d (off + 9) 1) (off + hl)
    { parsed := { p with
        ip := some {
          ver := 4, src := sub d (off + 12) 4, dst := sub d (off + 16) 4, dscp := u d (off + 1) 1 / 4, ecn := u d (off + 1) 1 % 4,
          proto := u d (off + 9) 1, frag := later || bit ff 13, laterFrag := later, ext := ihl > 5 }
        l4 := l4.1, stackEnd := l4.2 } }

/-- IPv6 extension headers from `off` (R186): protocol reached, its offset, headers passed, fragment flags
(`FRAG`, not the first). -/
def skipExt (d : List Byte) : Nat → Nat → Nat → Nat → Bool → Bool → Nat × Nat × Nat × Bool × Bool
  | 0, nh, off, n, fr, lt => (nh, off, n, fr, lt)
  | fuel + 1, nh, off, n, fr, lt =>
    if lt then (nh, off, n, fr, lt)
    else if nh = 0 ∨ nh = 43 ∨ nh = 60 then skipExt d fuel (u d off 1) (off + 8 * (u d (off + 1) 1 + 1)) (n + 1) fr lt
    else if nh = 44 then
      let fo := ub d (off + 2) 2
      skipExt d fuel (u d off 1) (off + 8) (n + 1) true (fo / 8 ≠ 0)
    else (nh, off, n, fr, lt)

/-- The IPv6 header at `off` (R186), or malformed (reason 2 of R187). -/
def parseIp6 (p : Parsed) (d : List Byte) (off : Nat) : ParseRes :=
  let w := ub d off 4
  let x := skipExt d 3 (u d (off + 6) 1) (off + 40) 0 false false
  if d.length < off + 40 + ub d (off + 4) 2 ∨ x.2.2.1 > 2 then
    { parsed := { p with stackEnd := off }, ipBad := some 2 }
  else
    let l4 := if x.2.2.2.2 then (({} : L4Info), x.2.1) else parseL4 d x.1 x.2.1
    { parsed := { p with
        ip := some {
          ver := 6, src := sub d (off + 8) 16, dst := sub d (off + 24) 16, dscp := w / 2 ^ 22 % 64, ecn := w / 2 ^ 20 % 4,
          proto := x.1, frag := x.2.2.2.1, laterFrag := x.2.2.2.2, ext := x.2.2.1 > 0 }
        l4 := l4.1, stackEnd := l4.2 } }

/-- The carriage header of a frame whose EtherType stands at offset 12 + `adj` (R189), or reason 3 of R187. -/
def parseCarriage (p : Parsed) (d : List Byte) (off : Nat) : ParseRes :=
  let vk := u d off 1
  let len := ub d (off + 16) 2
  if vk / 16 ≠ 1 ∨ vk % 16 > 7 ∨ d.length < off + 20 + len then { parsed := { p with stackEnd := off }, discard := some 3 }
  else { parsed := { p with
      carriage := some {
        kind := vk % 16, channel := u d (off + 1) 1, cflags := ub d (off + 2) 2, ident := ub d (off + 4) 4,
        busTime := ub d (off + 8) 8, length := len, cycle := ub d (off + 18) 2, data := sub d (off + 20) len }
      stackEnd := off + 20 } }

/-- The EtherType and what follows it, at offset `off`, after tags and R-TAG (R186). -/
def parseBody (p : Parsed) (d : List Byte) (off : Nat) : ParseRes :=
  let et := ub d off 2
  let q := { p with etherType := et }
  if et = 0x0800 then parseIp4 q d (off + 2)
  else if et = 0x86DD then parseIp6 q d (off + 2)
  else if et = 0x88B5 then parseCarriage q d (off + 2)
  else { parsed := { q with stackEnd := off + 2 } }

/-- The R-TAG, if one follows the tags, and the rest (R186; reasons 0 and 4 of R187). -/
def parseRtag (p : Parsed) (d : List Byte) (off : Nat) : ParseRes :=
  if ub d off 2 = 0xF1C1 then
    let q := { p with seq := some (ub d (off + 4) 2) }
    let nx := ub d (off + 6) 2
    if nx = 0xF1C1 then { parsed := q, discard := some 4 }
    else if nx = 0x8100 ∨ nx = 0x88A8 then { parsed := q, discard := some 0 }
    else parseBody q d (off + 6)
  else parseBody p d off

/-- Whether a tag protocol identifier stands at `off` (R186). -/
def isTpid (d : List Byte) (off : Nat) : Bool := ub d off 2 == 0x8100 || ub d off 2 == 0x88A8

/-- Parse a frame from its first byte (R186, R187). -/
def parseFrame (d : List Byte) : ParseRes :=
  let p : Parsed := { da := sub d 0 6, sa := sub d 6 6 }
  if isTpid d 12 then
    let t := ub d 14 2
    let q := { p with tpid := some (ub d 12 2), pcp := some (t / 8192), dei := bit t 12, vid := some (t % 4096) }
    if isTpid d 16 then
      let t2 := ub d 18 2
      let q2 := { q with innerVid := some (t2 % 4096), innerPcp := some (t2 / 8192) }
      if isTpid d 20 then { parsed := q2, discard := some 0 } else parseRtag q2 d 20
    else parseRtag q d 16
  else parseRtag p d 12

end Sys2Proof.Machine
end

