-- ==== Sys2Proof/Machine/IngressStages.lean ====
section
/-! DEFINITION. Stages 2 to 6 of the ingress pipeline (R188 to R210), learning (R195) and mirror copies (R212). -/

namespace Sys2Proof.Machine

/-- What a stage does with a frame: it passes, it is dropped or discarded with the state that counts it, or it leaves the
pipeline for the restore path (R256). -/
inductive StageRes where
  | pass (f : Frame) (s : State)
  | drop (f : Frame) (s : State)
  | away (s : State)

/-- The next stage for a frame that passed. -/
def StageRes.andThen (r : StageRes) (k : Frame → State → StageRes) : StageRes :=
  match r with
  | .pass f s => k f s
  | .drop f s => .drop f s
  | .away s => .away s

/-- A frame joins the in-flight count of its epoch (R318). -/
def countIn (s : State) (epoch : Nat) : State :=
  if s.ep.draining ∧ epoch ≠ s.ep.epoch then { s with ep := { s.ep with inOld := s.ep.inOld + 1 } }
  else { s with ep := { s.ep with inCur := s.ep.inCur + 1 } }

/-- A frame leaves the in-flight count of its epoch (R318); the older epoch drains at 0 (R319). -/
def countOut (s : State) (epoch : Nat) : State :=
  if s.ep.draining ∧ epoch ≠ s.ep.epoch then settleEpoch { s with ep := { s.ep with inOld := s.ep.inOld - 1 } }
  else { s with ep := { s.ep with inCur := s.ep.inCur - 1 } }

/-- The tables of a frame's epoch (R213). -/
def tablesOf (s : State) (epoch : Nat) : EpochTables :=
  if s.ep.draining ∧ epoch ≠ s.ep.epoch then s.ep.old else s.ep.cur

/-- Frame length on the wire, FCS included (R200). -/
def frameLen (f : Frame) : Nat := max 64 (f.data.length + 4)

/-- Drop a frame and count it at its ingress point (R216, table 5). -/
def dropAt (f : Frame) (s : State) (pos : Nat) : StageRes := .drop f (ingCount s 5 f.point pos 1)

/-- Raise PARSE_DISCARD_SAMPLE (R217) and discard. -/
def parseDiscard (f : Frame) (s : State) (reason : Nat) : StageRes :=
  let src := if f.point ≤ 33 then srcId 1 f.point else srcId 6 (f.point - 21)
  dropAt f (raiseSampled s 0x27 2 1 src fun n =>
    le 1 f.point ++ le 1 reason ++ le 2 (frameLen f) ++ le 4 n ++ sub f.data 12 8) 1

/-! ### Stage 2 (R190 to R192) -/

/-- The domain-map entry of a frame's point and outer VID (R190 rule 5). -/
def domEntryOf (t : IngressTables) (point : Nat) (vid : Option Nat) : DomEntry :=
  let dflt := tgetD t.domDefault point {}
  match vid with
  | some v => tgetD t.domOvr (4096 * point + v) dflt
  | none => dflt

/-- The domain TX ring `k` is bound to (R116). -/
def ringDomain (t : IngressTables) (k : Nat) : Nat := tgetD t.ringBind k (tgetD t.domDefault 33 {}).domain

/-- The domain of a frame (R190). `inner` is Lodestar's internal header for point 35, and the target's domain for the frames that the
gateway makes (R446); a recirculated frame keeps its own. -/
def domainOf (t : IngressTables) (f : Frame) (inner : Nat) : Nat :=
  match f.parsed.carriage with
  | some c => (tgetD t.domDefault (64 + c.channel) {}).domain
  | none =>
    match f.txRing with
    | some k => ringDomain t k
    | none => if f.point = 35 ∨ f.point = 34 then inner else if f.point = 36 then f.domain else (domEntryOf t f.point f.parsed.vid).domain

/-- Domain parameters, default where none are given (R220). -/
def domParams (t : IngressTables) (d : Nat) : DomParams := tgetD t.domParams d {}

/-- Stage 2, the domain (R190), with the discards of R187 that depend on it. -/
def stageDomain (f : Frame) (inner : Nat) (ipBad : Option Nat) (s : State) : StageRes :=
  let t := (tablesOf s f.epoch).ing
  let d := domainOf t f inner
  let mism : Bool := match f.parsed.carriage, f.txRing with
    | some _, some k => ringDomain t k ≠ d
    | _, _ => false
  if mism then dropAt f s 3
  else if d > 7 ∨ !inCarve s d then dropAt f s 4
  else match ipBad with
    | some r => if bit (domParams t d).flags 2 then parseDiscard f s r else .pass { f with domain := d } s
    | none => .pass { f with domain := d } s

/-- Stage 2, the VLAN rules of R191. -/
def stageVlan (f : Frame) (s : State) : StageRes :=
  let t := (tablesOf s f.epoch).ing
  if f.point > 33 then
    let vid := f.parsed.vid.getD 0
    .pass { f with vid := vid, untagged := (tgetD t.vlans (4096 * f.domain + vid) {}).untagged } s
  else
    let e := domEntryOf t f.point f.parsed.vid
    let tagVid := f.parsed.vid.getD 0
    let plain := tagVid = 0
    let vid := if plain then e.pvid else tagVid
    let v := tget t.vlans (4096 * f.domain + vid)
    let outside : Bool := match v with
      | none => true
      | some x => !bit x.members f.point
    if (e.accept = 1 ∧ plain) ∨ (e.accept = 2 ∧ !plain) then dropAt f s 5
    else if vid = 4095 then dropAt f s 5
    else if bit e.flags 0 ∧ outside then dropAt f s 5
    else .pass { f with vid := vid, untagged := (v.getD {}).untagged } s

/-- Stage 2, the priority of a frame (R192 order 1). -/
def stagePrio (f : Frame) (prio : Nat) (s : State) : Frame :=
  let t := (tablesOf s f.epoch).ing
  let e := domEntryOf t f.point f.parsed.vid
  let p := if f.point > 33 then prio
    else if f.point = 33 ∧ f.parsed.carriage.isSome then 0
    else match f.parsed.ip with
      | some ip => if e.trust = 1 then at' (domParams t f.domain).dscp ip.dscp 0 else f.parsed.pcp.getD e.defPrio
      | none => f.parsed.pcp.getD e.defPrio
  { f with prio := p, yellow := f.parsed.dei }

/-! ### Stage 3 (R193 to R196) -/

/-- The broadcast address. -/
def broadcast : List Byte := List.replicate 6 0xFF

/-- The destination set of an FDB hit (R194). -/
def fdbLookup (s : State) (t : IngressTables) (dom vid : Nat) (mac : List Byte) : Option Nat :=
  let b := fdbBucket dom vid mac
  match (tgetD t.fdbStatic b []).find? fun f => staticIs f dom vid mac with
  | some f => some f.ports
  | none => match (tgetD s.ing.learnt b []).find? fun f => learntIs f dom vid mac with
    | some f => some (2 ^ f.point)
    | none => none

/-- Stage 3: the static-address check, the destination set and the learn request (R194, R195). -/
def stageFdb (f : Frame) (s : State) : StageRes :=
  if f.parsed.carriage.isSome then .pass f s else
  let t := (tablesOf s f.epoch).ing
  let da := f.parsed.da
  let sa := f.parsed.sa
  let dp := domParams t f.domain
  let mem := (tgetD t.vlans (4096 * f.domain + f.vid) {}).members
  let st := (tgetD t.fdbStatic (fdbBucket f.domain f.vid sa) []).find? fun x => staticIs x f.domain f.vid sa
  let learns := f.point ≤ 33 && bit (domEntryOf t f.point f.parsed.vid).flags 1 && !isGroup sa
  let clash := learns && match st with
    | some x => x.ports != 2 ^ f.point
    | none => false
  if clash then dropAt f s 6 else
  let hit := fdbLookup s t f.domain f.vid da
  let isBc := da = broadcast
  let flood := !isBc && hit.isNone && (if isGroup da then bit dp.flags 1 else bit dp.flags 0)
  let set := if isBc then mem else match hit with
    | some p => p
    | none => if flood then mem else 0
  let dest := setDiff set (2 ^ f.point)
  let s1 := if flood ∧ dest ≠ 0 then ingCount s 5 f.point 9 1 else s
  let lr : Option LearnReq := if learns && st.isNone then some { domain := f.domain, vid := f.vid, mac := sa, point := f.point } else none
  if dest = 0 then dropAt f s1 7 else .pass { f with dest := dest, learn := lr } s1

/-- Learnt entries of an ingress point (R195). -/
def learntAt (s : State) (point : Nat) : Nat := (s.ing.learnt.map fun b => (b.2.filter fun f => f.point == point).length).sum

/-- Carry out a learn request (R195). -/
def learn (s : State) (q : LearnReq) : State :=
  let b := fdbBucket q.domain q.vid q.mac
  let ln := tgetD s.ing.learnt b []
  let st := tgetD s.it.fdbStatic b []
  let put := fun (l : List FdbLearnt) (s : State) => s.modIng fun i => { i with learnt := tset i.learnt b l }
  if st.any fun x => staticIs x q.domain q.vid q.mac then s
  else match ln.find? fun x => learntIs x q.domain q.vid q.mac with
    | some x =>
      let l := ln.map fun y => if learntIs y q.domain q.vid q.mac then { y with point := q.point, stamp := s.now } else y
      if x.point = q.point then put l s
      else raiseSampled (ingCount (put l s) 5 q.point 11 1) 0x21 2 4 (srcId 9 q.domain) fun n =>
        q.mac ++ le 2 q.vid ++ le 1 x.point ++ le 1 q.point ++ zeros 2 ++ le 4 n
    | none =>
      match freeWay st ln with
      | some w =>
        if learntAt s q.point ≥ (tgetD s.it.domDefault q.point {}).learnLimit then ingCount s 5 q.point 10 1
        else put (ln ++ [{ domain := q.domain, vid := q.vid, mac := q.mac, point := q.point, stamp := s.now, way := w }]) s
      | none =>
        raiseSampled (ingCount s 5 q.point 10 1) 0x20 3 4 (srcId 9 q.domain) fun n =>
          q.mac ++ le 2 q.vid ++ le 1 q.point ++ zeros 1 ++ le 2 b ++ le 4 n

/-! ### Stage 4 (R198, R199) -/

/-- Whether an identification entry matches a frame (R198). An absent field matches only a wildcard (R186). -/
def streamMatch (x : StreamId) (f : Frame) : Bool :=
  let p := f.parsed
  let tagged := p.vid.isSome
  let common := (x.domain == 0xFF || x.domain == f.domain) && (x.ports == 0 || (f.point < 64 && bit x.ports f.point)) &&
    (x.tagged == 0 || (x.tagged == 1 && tagged) || (x.tagged == 2 && !tagged))
  let vidOk := x.vid == 0xFFFF || x.vid == f.vid
  common && match x.type with
    | 1 => vidOk && x.mac == p.da
    | 2 => vidOk && x.mac == p.sa
    | 3 => vidOk && match p.ip with
      | none => false
      | some ip =>
        let n := if ip.ver = 4 then 4 else 16
        ip.ver == x.ipVer && (x.dscp == 0xFF || x.dscp == ip.dscp) && (x.proto == 0xFF || x.proto == ip.proto) &&
        (!bit x.matchB 0 || x.ipDst.take n == ip.dst) && (!bit x.matchB 1 || x.ipSrc.take n == ip.src) &&
        (!bit x.matchB 2 || p.l4.dst == some x.l4Dst) && (!bit x.matchB 3 || p.l4.src == some x.l4Src)
    | 4 => match p.carriage with
      | none => false
      | some c => c.kind == x.kind && c.channel == x.channel && (c.ident &&& x.mask) == x.ident
    | _ => false

/-- The stream record of a handle; all fields 0 and no functions where none is configured (R226). -/
def streamRec (t : IngressTables) (h : Nat) : StreamRec := tgetD t.streams h {}

/-- Destination points of `CARRIAGE_DEST` (R199): bit 0 H0, bit 1 gateway, bit 2 Lodestar. -/
def carriageDest (x : Nat) : Nat := (x % 8) * 2 ^ 33

/-- Stage 4 (R198, R199), with the stream's priority (R192 order 2). -/
def stageStream (f : Frame) (s : State) : StageRes :=
  let t := (tablesOf s f.epoch).ing
  let hit := t.streamIds.find? fun x => streamMatch x.2 f
  match f.parsed.carriage, hit with
  | some _, none => dropAt f s 8
  | none, none => .pass f s
  | c, some x =>
    let r := streamRec t x.2.handle
    let f1 := { f with stream := some x.2.handle, prio := if bit r.flags 0 then r.prio else f.prio, rtagOut := bit r.flags 1 }
    if c.isSome then
      let d := setDiff (carriageDest r.cdest) (2 ^ f.point)
      if d = 0 then dropAt f1 s 7 else .pass { f1 with dest := d } s
    else .pass f1 s

/-! ### Stage 5 (R200 to R205, R209, R210) -/

/-- The first filter that matches a frame's stream and priority (R200). -/
def filterOf (t : IngressTables) (stream prio : Nat) : Option (Nat × Filter) :=
  t.filters.find? fun f => (bit f.2.flags 2 || f.2.handle == stream) && (bit f.2.flags 3 || f.2.prio == prio)

/-- The entry a gate stands at: `(open, IPV, OCTET_MAX)` (R201, R202). -/
def gateNow (g : Gate) (r : GateRun) : Bool × Nat × Nat :=
  match r.list with
  | none => (g.initState = 1, g.initIpv, 0)
  | some l => match l.entries[r.index]? with
    | some e => (e.isOpen, e.ipv, e.octetMax)
    | none => (g.initState = 1, g.initIpv, 0)

/-- Raise GATE_CLOSED_SAMPLE (R217). -/
def gateSample (s : State) (f : Frame) (g fi cause : Nat) : State :=
  raiseSampled s 0x24 2 2 (srcId 7 (f.stream.getD 0)) fun n => le 2 g ++ le 2 fi ++ le 4 n ++ le 1 cause

/-- The gate of a filter (R201). -/
def stageGate (fi : Nat) (x : Filter) (f : Frame) (s : State) : StageRes :=
  if x.gate = 0xFFFF then .pass f s else
  let t := (tablesOf s f.epoch).ing
  match tget t.gates x.gate with
  | none => .pass f s
  | some g =>
    let r := tgetD s.ing.gates x.gate {}
    let e := gateNow g r
    let upd := fun (k : GateRun → GateRun) (s : State) => s.modIng fun i => { i with gates := tmod i.gates x.gate {} k }
    let len := frameLen f
    if r.latched ≠ 0 then .drop f (gateSample (ingCount s 0 fi 4 1) f x.gate fi r.latched)
    else if !e.1 then
      let s1 := if bit g.flags 0 then upd (fun r => { r with latched := 2 }) s else s
      .drop f (gateSample (ingCount s1 0 fi 4 1) f x.gate fi 0)
    else if e.2.2 ≠ 0 ∧ len > e.2.2 - r.octets then
      let s1 := if bit g.flags 1 then upd (fun r => { r with latched := 3 }) s else s
      .drop f (gateSample (ingCount s1 0 fi 5 1) f x.gate fi 1)
    else .pass { f with prio := if e.2.1 = 0xFF then f.prio else e.2.1 } (upd (fun r => { r with octets := r.octets + len }) s)

/-- Colours of the trTCM meter (R203). -/
inductive Colour where
  | green | yellow | red
deriving DecidableEq, Repr

/-- Bucket gain in 1/1,024 byte of a rate in kb/s over a number of raw counts of 1.6 ns (R203), rounded down (assumption 10). -/
def rateGain (kbps counts : Nat) : Nat := kbps * counts * 2048 / 10000000

/-- The meter algorithm of R203 on a frame of `len` bytes: the buckets after and the colour. -/
def meterRun (m : Meter) (r : MeterRun) (now len : Nat) (inYellow : Bool) : MeterRun × Colour :=
  let dt := now - r.last
  let cbs := m.cbs * bucketUnit
  let ebs := m.ebs * bucketUnit
  let tcAll := r.tc + rateGain m.cir dt
  let ovf := tcAll - cbs
  let tc := min cbs tcAll
  let te := min ebs (r.te + rateGain m.eir dt + if bit m.flags 1 then ovf else 0)
  let need := len * bucketUnit
  let r1 : MeterRun := { r with tc := tc, te := te, last := now }
  if r.allRed then (r1, .red)
  else if !inYellow ∧ need ≤ tc then ({ r1 with tc := tc - need }, .green)
  else if need ≤ te then ({ r1 with te := te - need }, .yellow)
  else ({ r1 with allRed := bit m.flags 3 }, .red)

/-- The meter of a filter (R203, R204). -/
def stageMeter (fi : Nat) (x : Filter) (f : Frame) (s : State) : StageRes :=
  if x.meter = 0xFFFF then .pass f s else
  let t := (tablesOf s f.epoch).ing
  match tget t.meters x.meter with
  | none => .pass f s
  | some m =>
    let r := tgetD s.ing.meters x.meter {}
    let o := meterRun m r s.time.raw (frameLen f) (bit m.flags 0 && f.parsed.dei)
    let s1 := s.modIng fun i => { i with meters := tset i.meters x.meter o.1 }
    match o.2 with
    | .green => .pass { f with yellow := false } (ingCount s1 1 x.meter 0 1)
    | .yellow =>
      let s2 := ingCount s1 1 x.meter 1 1
      if bit m.flags 2 then .drop f (ingCount s2 0 fi 7 1) else .pass { f with yellow := true } s2
    | .red =>
      let s2 := ingCount (ingCount s1 1 x.meter 2 1) 0 fi 6 1
      .drop f (raiseSampled s2 0x23 2 2 (srcId 7 (f.stream.getD 0)) fun n =>
        le 2 x.meter ++ le 2 fi ++ le 4 n ++ le 1 (b2n r.allRed))

/-- Stage 5: the filter that applies, its gate and its meter (R200). -/
def stageFilter (f : Frame) (s : State) : StageRes :=
  match f.stream with
  | none => .pass f s
  | some h =>
    match filterOf (tablesOf s f.epoch).ing h f.prio with
    | none => .pass f s
    | some (i, x) =>
      let s1 := ingCount s 0 i 0 1
      let f1 := { f with filter := some i }
      if s1.ing.blocked.contains i then .drop f1 (ingCount s1 0 i 2 1)
      else if frameLen f > x.maxSdu then
        let s2 := ingCount s1 0 i 3 1
        if bit x.flags 0 then
          .drop f1 (raise (s2.modIng fun d => { d with blocked := i :: d.blocked }) 0x22 4 2 (srcId 7 h)
            (le 2 i ++ le 2 (frameLen f) ++ le 2 x.maxSdu ++ le 1 f.point))
        else .drop f1 s2
      else
        ((stageGate i x f1 s1).andThen (stageMeter i x)).andThen fun f2 s2 =>
          .pass { f2 with zenith := bit x.flags 1 } (ingCount s2 0 i 1 1)

/-! ### Stage 6: FRER (R206 to R208) -/

/-- The vector recovery algorithm: accept with the new run state, or the counter position of the drop; with the counts of
OUT_OF_ORDER and LOST (R206). -/
def vectorRecover (h : Nat) (r : RecoveryRun) (seq : Nat) : Except Nat (RecoveryRun × Nat × Nat) :=
  let hist := r.history ++ List.replicate (h - r.history.length) false
  if r.takeAny then .ok ({ r with takeAny := false, lastSeq := seq, history := true :: List.replicate (h - 1) false }, 0, 0)
  else
    let d := toInt 16 ((seq + 65536 - r.lastSeq) % 65536)
    if (h : Int) ≤ d ∨ d ≤ -(h : Int) then .error 2
    else if d ≤ 0 then
      let k := (-d).toNat
      if at' hist k false then .error 1 else .ok ({ r with history := hist.set k true }, 1, 0)
    else
      let k := d.toNat
      let out := (hist.drop (h - k)).filter (!·)
      .ok ({ r with lastSeq := seq, history := true :: (List.replicate (k - 1) false ++ hist.take (h - k)) },
        if k = 1 then 0 else 1, out.length)

/-- The match recovery algorithm (R206): a repeat of the last number is a duplicate. -/
def matchRecover (r : RecoveryRun) (seq : Nat) : Except Nat (RecoveryRun × Nat × Nat) :=
  if r.takeAny then .ok ({ r with takeAny := false, lastSeq := seq }, 0, 0)
  else if seq = r.lastSeq then .error 1
  else .ok ({ r with lastSeq := seq }, if seq = (r.lastSeq + 1) % 65536 then 0 else 1, 0)

/-- A frame passed recovery function `i` (R206, R208). -/
def recoveryPass (s : State) (i : Nat) : State :=
  ingCount (s.modIng fun d => { d with recovery := tmod d.recovery i {} fun r => { r with lastPass := s.now, perPassed := r.perPassed + 1 } })
    2 i 0 1

/-- Sequence recovery (R206, R207). -/
def stageRecovery (i : Nat) (c : Recovery) (f : Frame) (s : State) : StageRes :=
  let r := tgetD s.ing.recovery i {}
  match f.seqNum with
  | none =>
    let s1 := ingCount s 2 i 6 1
    if bit c.flags 0 then .pass f (recoveryPass s1 i) else .drop f (ingCount s1 2 i 3 1)
  | some q =>
    match if c.algo = 0 then vectorRecover c.history r q else matchRecover r q with
    | .error pos =>
      let s1 := if pos = 1 then s.modIng fun d => { d with recovery := tmod d.recovery i {} fun r => { r with perDup := r.perDup + 1 } } else s
      .drop f (ingCount s1 2 i pos 1)
    | .ok (r', ooo, lost) =>
      let s1 := s.modIng fun d => { d with recovery := tset d.recovery i r' }
      .pass f (recoveryPass (ingCount (ingCount s1 2 i 4 ooo) 2 i 5 lost) i)

/-- Stage 6 (R206): generation, then recovery. -/
def stageFrer (f : Frame) (s : State) : StageRes :=
  let f0 := { f with seqNum := f.parsed.seq }
  match f.stream with
  | none => .pass f0 s
  | some h =>
    let t := (tablesOf s f.epoch).ing
    let r := streamRec t h
    let gen := r.gen ≠ 0xFFFF ∧ thas t.generation r.gen ∧ f0.seqNum = none
    let n := tgetD s.ing.nextSeq r.gen 0
    let s1 := if gen then
        ingCount (s.modIng fun d => { d with nextSeq := tset d.nextSeq r.gen ((n + 1) % 65536) }) 3 r.gen 0 1
      else s
    match if r.rcvy = 0xFFFF then none else tget t.recovery r.rcvy with
    | none => .pass { f0 with seqNum := if gen then some n else f0.seqNum } s1
    | some c =>
      (stageRecovery r.rcvy c f0 s1).andThen fun f1 s2 => .pass { f1 with seqNum := if gen then some n else f1.seqNum } s2

end Sys2Proof.Machine
end

