-- ==== Sys2Proof/Machine/HorizonStage.lean ====
section
/-! DEFINITION. Stage 7: zones, rules, sessions, limiters and the exception path (R236 to R264). -/

namespace Sys2Proof.Machine

/-! ### Zones (R238 to R240) -/

/-- The zone `z` if it belongs to domain `d`; a zone of another domain is skipped (R239). -/
def zoneIn (t : HorizonTables) (d : Nat) (z : Option Nat) : Option Nat :=
  match z with
  | none => none
  | some z => match tget t.zones z with
    | some x => if x.domain = d then some z else none
    | none => none

/-- The default zone of a domain (R238). -/
def domainZone (t : HorizonTables) (d : Nat) : Option Nat :=
  (t.zones.find? fun e => e.2.domain == d && e.2.isDefault).map (·.1)

/-- The zone that the point entries and the domain default give a point (R239 steps 5 to 7, R240). -/
def pointZone (t : HorizonTables) (d point vid : Nat) : Option Nat :=
  (zoneIn t d (tget t.points (pointKey d point vid))).or
    ((zoneIn t d (tget t.points (pointKey d point 0))).or (domainZone t d))

/-- The ingress zone of a frame (R239). `inner` is the zone in Lodestar's internal header. -/
def ingressZone (t : HorizonTables) (f : Frame) (inner : Nat) : Option Nat :=
  if f.point = 36 then zoneIn t f.domain (some f.zone)
  else
    let s2 := if f.point = 35 then zoneIn t f.domain (some inner) else none
    let s3 := match f.stream with
      | some h => zoneIn t f.domain (tget t.streams h)
      | none => none
    let s4 := match f.parsed.carriage with
      | some c => zoneIn t f.domain (tget t.points (pointKey f.domain (64 + c.channel) 0))
      | none => none
    s2.or (s3.or (s4.or (pointZone t f.domain f.point f.vid)))

/-! ### Rules (R244, R245) -/

/-- What a rule compares: a frame's fields, a gateway target message (R263) or a session's tuple (R264). An absent field is
`none` and never equals a compared value. -/
structure RuleView where
  etherType : Option Nat := none
  vid       : Option Nat := none
  pcp       : Option Nat := none
  ipVer     : Option Nat := none
  proto     : Option Nat := none
  dscp      : Option Nat := none
  src       : List Byte := []
  dst       : List Byte := []
  l4Src     : Option Nat := none
  l4Dst     : Option Nat := none
  tcpFlags  : Option Nat := none
  icmpType  : Option Nat := none
  icmpCode  : Option Nat := none
  stream    : Option Nat := none
  carriage  : Option (Nat × Nat × Nat) := none
  laterFrag : Bool := false
  skipFlags : Bool := false

/-- A frame as rules see it (R245). -/
def viewOf (f : Frame) : RuleView :=
  let p := f.parsed
  { etherType := some p.etherType, vid := some f.vid, pcp := some f.prio, ipVer := p.ip.map (·.ver), proto := p.ip.map (·.proto),
    dscp := p.ip.map (·.dscp), src := (p.ip.map (·.src)).getD [], dst := (p.ip.map (·.dst)).getD [], l4Src := p.l4.src,
    l4Dst := p.l4.dst, tcpFlags := p.l4.tcpFlags, icmpType := p.l4.icmpType, icmpCode := p.l4.icmpCode, stream := f.stream,
    carriage := p.carriage.map fun c => (c.kind, c.channel, c.ident), laterFrag := (p.ip.map (·.laterFrag)).getD false }

/-- Whether the first `n` bits of two addresses are equal (R245 bits 6 and 7). -/
def prefixEq (n : Nat) (a b : List Byte) : Bool :=
  beNat a >>> (8 * a.length - n) == beNat (b.take a.length) >>> (8 * a.length - n)

/-- Whether a rule matches (R245). -/
def ruleMatch (r : Rule) (v : RuleView) : Bool :=
  let m := r.mtch
  let on := fun (b : Nat) (p : Bool) => !bit m b || p
  let ip := v.ipVer.isSome
  let l4 := fun (b : Nat) (p : Bool) => !bit m b || (v.laterFrag && bit r.flags 2) || (!v.laterFrag && p)
  let inR := fun (x : Option Nat) (lo hi : Nat) => match x with
    | some y => lo ≤ y && y ≤ hi
    | none => false
  let car := match v.carriage with
    | some c => on 13 (c.1 == r.kind) && on 14 (c.2.1 == r.channel) && on 15 ((c.2.2 &&& r.mask) == r.ident)
    | none => !bit r.flags 0
  car &&
  on 0 (v.etherType == some r.etherType) && on 1 (v.vid == some r.vid) && on 2 (v.skipFlags || v.pcp == some r.pcp) &&
  on 3 (v.ipVer == some r.ipVer) && on 4 (v.proto == some r.proto) && on 5 (v.dscp == some r.dscp) &&
  on 6 (ip && prefixEq r.srcPfx v.src r.ipSrc) && on 7 (ip && prefixEq r.dstPfx v.dst r.ipDst) &&
  l4 8 (inR v.l4Src r.srcLo r.srcHi) && l4 9 (inR v.l4Dst r.dstLo r.dstHi) &&
  l4 10 (v.skipFlags || (match v.tcpFlags with | some x => (x &&& r.tcpMask) == r.tcpFlags | none => false)) &&
  l4 11 (v.icmpType == some r.icmpType && (r.icmpCode == 0xFF || v.icmpCode == some r.icmpCode)) &&
  on 12 (v.stream == some r.stream)

/-- What the matrix and the rules say of a frame for a zone pair: an action of R246, or 5 for a matrix denial, and the deciding
rule. -/
structure Verdict where
  action : Nat
  rule   : Option Nat := none
deriving DecidableEq, Repr

/-- The matrix entry of a zone pair (R242). -/
def pairOf (t : HorizonTables) (a b : Nat) : PairEntry := tgetD t.pairs (256 * a + b) {}

/-- Judge a zone pair (R242, R244). -/
def judge (t : HorizonTables) (a b : Nat) (v : RuleView) : Verdict :=
  let p := pairOf t a b
  if p.policy = 0 then { action := 5 }
  else if p.policy = 1 then { action := 1 }
  else match t.rules.find? fun e => p.first ≤ e.1 && e.1 < p.first + p.count && ruleMatch e.2 v with
    | some e => { action := e.2.action, rule := some e.1 }
    | none => { action := if p.dflt = 1 then 1 else 5 }

/-! ### Sessions (R249 to R253) -/

/-- A flow's tuple (R249): version, protocol, addresses and ports. -/
structure Flow where
  ver   : Nat
  proto : Nat
  src   : List Byte
  dst   : List Byte
  sport : Nat
  dport : Nat
deriving DecidableEq, Repr

/-- The flow of a frame, if it is tracked (R249): IP, not a non-first fragment. -/
def flowOf (f : Frame) : Option Flow :=
  match f.parsed.ip with
  | none => none
  | some ip =>
    if ip.laterFrag then none
    else
      let l := f.parsed.l4
      let icmp := ip.proto = 1 ∨ ip.proto = 58
      let echo := icmp ∧ ((ip.ver = 4 ∧ (l.icmpType = some 0 ∨ l.icmpType = some 8)) ∨
        (ip.ver = 6 ∧ (l.icmpType = some 128 ∨ l.icmpType = some 129)))
      let id := ub f.data (l.dataOff - 4) 2
      let tu := ip.proto = 6 ∨ ip.proto = 17
      some { ver := ip.ver, proto := ip.proto, src := ip.src, dst := ip.dst
             sport := if echo then id else if tu then l.src.getD 0 else 0
             dport := if echo then id else if tu then l.dst.getD 0 else 0 }

/-- Whether a session has this flow's key, in either direction (R249). -/
def sameKey (d : Nat) (w : Flow) (x : Sess) : Bool :=
  x.domain == d && x.ver == w.ver && x.proto == w.proto &&
  ((x.src == w.src && x.sport == w.sport && x.dst == w.dst && x.dport == w.dport) ||
   (x.src == w.dst && x.sport == w.dport && x.dst == w.src && x.dport == w.sport))

/-- The bucket of a flow (R250), over the normalised key. -/
def sessBucket (d : Nat) (w : Flow) : Nat :=
  let a := (w.src, w.sport)
  let b := (w.dst, w.dport)
  let le := beNat (w.src ++ be 2 w.sport) ≤ beNat (w.dst ++ be 2 w.dport)
  crc32c (if le then Config.sessionKeyBytes d w.ver w.proto a b else Config.sessionKeyBytes d w.ver w.proto b a) % 4096

/-- The session of a flow, pending or on-die (R250, R251). -/
def findSess (s : State) (d : Nat) (w : Flow) : Option Sess :=
  match s.hor.pending.find? (sameKey d w) with
  | some x => some x
  | none => (s.hor.sessions.find? fun e => sameKey d w e.2).map (·.2)

/-- Whether a session hits for a zone pair: the pair or its reverse (R250). -/
def sessHits (x : Sess) (a b : Nat) : Bool := (x.srcZone == a && x.dstZone == b) || (x.srcZone == b && x.dstZone == a)

/-- A session's state after a frame that hits it (R253). -/
def sessAdvance (x : Sess) (w : Flow) (flags : Nat) : SessState :=
  let reply := x.src != w.src || x.sport != w.sport
  if x.proto = 6 then
    if bit flags 0 || bit flags 2 then .tcpClosing
    else if x.state = .tcpSyn && reply && bit flags 1 && bit flags 4 then .tcpEst else x.state
  else if !reply then x.state
  else match x.state with
    | .udpNew => .udpBidir
    | .otherNew => .otherBidir
    | y => y

/-- Refresh the session with index `i` by a hit (R253). -/
def touchSess (s : State) (i : Nat) (w : Flow) (flags : Nat) : State :=
  let up := fun (x : Sess) => { x with state := sessAdvance x w flags, last := s.now, frames := wrapAdd 64 x.frames 1 }
  s.modHor fun h => { h with
    pending := h.pending.map fun x => if x.index = i then up x else x
    sessions := h.sessions.map fun e => if e.1 = i then (e.1, up e.2) else e }

/-- Whether an on-die index is taken (R250, R252). -/
def indexTaken (s : State) (i : Nat) : Bool := thas s.hor.sessions i || s.hor.pending.any fun x => x.index == i

/-- Whether a session may be moved to spill (R255). -/
def spillable (s : State) (x : Sess) : Bool :=
  (x.state == .tcpEst || x.state == .udpBidir || x.state == .otherBidir) && x.last + s.hor.params.spillIdle * 1000000 ≤ s.now

/-- The session idle longest of a list. -/
def idleLongest : List Sess → Option Sess
  | [] => none
  | x :: xs => match idleLongest xs with
    | none => some x
    | some y => if x.last ≤ y.last then some x else some y

/-- Make room in a bucket (R250, R255): the index for a new session and the state, or none. -/
def takeIndex (s : State) (b : Nat) : Option (Nat × State) :=
  match (List.range 4).find? fun w => 4 * b + w != 0 && !indexTaken s (4 * b + w) with
  | some w => some (4 * b + w, s)
  | none =>
    if !s.hor.params.spillEn ∨ s.hor.spillBuf.length ≥ 32 then none
    else match idleLongest ((s.hor.sessions.filter fun e => e.1 / 4 == b && spillable s e.2).map (·.2)) with
      | none => none
      | some x => some (x.index, horCount (s.modHor fun h => { h with
          sessions := tdel h.sessions x.index, spillBuf := h.spillBuf ++ [x] }) 3 0 2 1)

/-- Raise SESSION_TABLE_FULL, at most once per second device-wide (R267). -/
def raiseTableFull (s : State) (domain bucket zone : Nat) : State :=
  raiseSampledKey s (65536 * 0x51) 0x51 3 noLevel (srcId 9 domain) fun n =>
    le 2 bucket ++ le 1 zone ++ zeros 1 ++ le 4 (s.hor.sessions.length + s.hor.pending.length) ++ le 4 s.hor.spilled.length ++ le 4 n

/-- The state in which a session starts (R251, R253). -/
def startState (proto : Nat) (mid : Bool) : SessState :=
  if proto = 6 then (if mid then .tcpEst else .tcpSyn) else if proto = 17 then .udpNew else .otherNew

/-- Create a session (R251, R255): it joins the pending inserts, or none can be made. -/
def createSess (s : State) (d : Nat) (w : Flow) (a b rule profile : Nat) (mid admitted : Bool) : Option State :=
  match takeIndex s (sessBucket d w) with
  | none => none
  | some (i, s1) =>
    some (horCount (s1.modHor fun h => { h with pending := h.pending ++
      [{ index := i, domain := d, ver := w.ver, proto := w.proto, src := w.src, dst := w.dst, sport := w.sport, dport := w.dport,
         srcZone := a, dstZone := b, rule := rule, profile := profile, state := startState w.proto mid, admitted := admitted,
         mid := mid, last := s.now, epoch := s.ep.epoch }] }) 3 0 0 1)

/-! ### Limiters and the exception path (R257, R258) -/

/-- Tokens in 1/1,024 frame gained at a rate in frames/s over raw counts of 1.6 ns. -/
def frameGain (pps counts : Nat) : Nat := pps * counts * 16384 / 10000000000

/-- A limiter's bucket refilled to now (R257). -/
def refill (l : Limiter) (b : Bucket) (raw : Nat) : Bucket :=
  let gain := if l.mode = 0 then rateGain l.rate (raw - b.last) else frameGain l.rate (raw - b.last)
  { tokens := min (l.burst * tokenUnit) (b.tokens + gain), last := raw }

/-- Charge limiter `i` for a frame (R257): whether it is granted, and the state. -/
def chargeLimiter (s : State) (i : Nat) (l : Limiter) (len zone dst : Nat) : Bool × State :=
  let b := refill l (tgetD s.hor.buckets i {}) s.time.raw
  let cost := if l.mode = 0 then len * tokenUnit else tokenUnit
  if cost ≤ b.tokens then
    (true, horCount (s.modHor fun h => { h with buckets := tset h.buckets i { b with tokens := b.tokens - cost } }) 1 i 0 1)
  else
    (false, raiseSampled (horCount (s.modHor fun h => { h with buckets := tset h.buckets i b }) 1 i 1 1) 0x53 2 3 (srcId 8 zone)
      fun n => le 2 i ++ le 1 dst ++ le 1 l.mode ++ le 4 l.rate ++ le 4 n)

/-- Raise EXCEPTION_OVERLOAD (R258, R267). -/
def raiseOverload (s : State) (kind : Nat) : State :=
  (raise s 0x54 3 noLevel (srcId 6 14) (le 1 kind ++ le 1 s.hor.excCause ++ le 2 s.hor.excQueue.length ++ le 4 s.hor.excSince)).modHor
    fun h => { h with excSince := 0 }

/-- An exception frame is dropped (R258). -/
def excDrop (s : State) (cause : Nat) : State :=
  let due := match s.hor.excLast with
    | none => true
    | some t => t + secondNs ≤ s.now
  let s1 := (horCount s 3 0 8 1).modHor fun h => { h with excLast := some s.now, excSince := h.excSince + 1, excCause := cause }
  if due then (raiseOverload s1 0).modHor fun h => { h with excOver := true } else s1

/-- A frame or a copy is sent to the exception path (R258): the limiter, then the queue. -/
def sendException (s : State) (x : ExcFrame) : State :=
  let p := s.hor.params
  let tok := min (p.excBurst * tokenUnit) (s.hor.excBucket.tokens + frameGain p.excRate (s.time.raw - s.hor.excBucket.last))
  let put := fun (n : Nat) (h : Horizon) => { h with excBucket := { tokens := n, last := s.time.raw } }
  let s0 := horCount s 2 x.frame.zone 7 1
  if !s.host.ready then excDrop s0 2
  else if tok < tokenUnit then excDrop (s0.modHor (put tok)) 0
  else if s.hor.excQueue.length ≥ 2048 then excDrop (s0.modHor (put (tok - tokenUnit))) 1
  else countIn (s0.modHor fun h => { put (tok - tokenUnit) h with excQueue := h.excQueue ++ [x] }) x.frame.epoch

/-! ### Logging (R261) -/

/-- The FW_LOG_SAMPLE payload of a frame (R267). -/
def fwPayload (rule action : Nat) (v : RuleView) (dst : Nat) (gw : Bool) (n : Nat) : List Byte :=
  let src := match v.carriage with
    | some c => le 4 c.2.2
    | none => if v.ipVer = some 6 then sub v.src 12 4 else padTo 4 v.src
  le 2 rule ++ le 1 action ++ le 1 (match v.carriage with | some c => c.1 | none => v.proto.getD 0) ++ le 1 dst ++
  le 1 (b2n v.carriage.isSome + 2 * b2n (v.ipVer == some 6) + 4 * b2n gw) ++ le 2 (v.l4Dst.getD 0) ++ src ++ le 4 n

/-- Count a rule's hit and sample its log (R261, R266), or sample a matrix denial. -/
def logVerdict (s : State) (t : HorizonTables) (a b : Nat) (v : RuleView) (x : Verdict) (len : Nat) (gw : Bool) : State :=
  match x.rule with
  | some i =>
    let s1 := horCount (horCount s 0 i 0 1) 0 i 1 len
    if bit (match tget t.rules i with | some r => r.flags | none => 0) 1 then
      raiseSampledKey s1 (2 ^ 32 + i) 0x50 1 3 (srcId 8 a) (fwPayload i x.action v b gw)
    else s1
  | none =>
    if x.action = 5 ∧ (pairOf t a b).logDeny then
      raiseSampledKey s (2 ^ 33 + 256 * a + b) 0x50 1 3 (srcId 8 a) (fwPayload 0xFFFF 5 v b gw)
    else s

/-! ### Stage 7 (R248) -/

/-- The destinations of one egress zone, and what was decided for them. -/
structure Group where
  zone    : Nat
  dests   : Nat
  verdict : Verdict := { action := 5 }
  hit     : Option Nat := none
  kept    : Bool := false
deriving DecidableEq, Repr

/-- Group destinations by egress zone, in the order of each group's lowest point (R243); destinations without a zone are
returned apart (R238). -/
def groupDests (t : HorizonTables) (f : Frame) : List Nat → List Group → Nat → List Group × Nat
  | [], gs, none' => (gs, none')
  | p :: ps, gs, none' =>
    match pointZone t f.domain p f.vid with
    | none => groupDests t f ps gs (none' + 2 ^ p)
    | some z =>
      if gs.any fun g => g.zone == z then
        groupDests t f ps (gs.map fun g => if g.zone = z then { g with dests := g.dests + 2 ^ p } else g) none'
      else groupDests t f ps (gs ++ [{ zone := z, dests := 2 ^ p }]) none'

/-- The action as it applies to this frame: substitutions for Zenith frames (R247) and re-injected frames (R260). -/
def effective (zenith reinj : Bool) (a : Nat) : Nat :=
  if zenith then (if a = 2 ∨ a = 4 then 1 else if a = 3 then 0 else a)
  else if reinj then (if a = 3 then 0 else if a = 4 then 1 else a) else a

/-- Whether an action keeps the destination (R246). -/
def keeps (a : Nat) : Bool := a == 1 || a == 2 || a == 4

/-- Step 4 of R248 for one group. -/
def decideGroup (t : HorizonTables) (f : Frame) (v : RuleView) (x : Option Sess) (g : Group) : Group :=
  match x with
  | some y =>
    if sessHits y f.zone g.zone then { g with verdict := { action := 1 }, hit := some y.index, kept := true }
    else let w := judge t f.zone g.zone v; { g with verdict := w, kept := keeps w.action }
  | none => let w := judge t f.zone g.zone v; { g with verdict := w, kept := keeps w.action }

/-- Step 5 of R248: charge each limiter of the kept groups once; groups of a limiter that refuses are lost. The list of limiters
already judged is carried with its outcome. -/
def chargeGroups (t : HorizonTables) (f : Frame) : List Group → List (Nat × Bool) → List Group → State → List Group × State
  | [], _, out, s => (out, s)
  | g :: gs, seen, out, s =>
    let i := (pairOf t f.zone g.zone).limiter
    match if g.kept && !f.zenith && i != 0xFFFF then tget t.limiters i else none with
    | none => chargeGroups t f gs seen (out ++ [g]) s
    | some l =>
      match tget seen i with
      | some ok => chargeGroups t f gs seen (if ok then out ++ [g] else out) s
      | none =>
        let c := chargeLimiter s i l (frameLen f) f.zone g.zone
        chargeGroups t f gs (tset seen i c.1) (if c.1 then out ++ [g] else out) c.2

/-- Step 6 of R248 for one group: counts, log samples, sessions and exception copies. Second component: the destinations that
stay. `sent` says that the frame already went to the exception path (R246). -/
def finishGroup (t : HorizonTables) (f : Frame) (v : RuleView) (reinj : Bool) (g : Group) (s : State) (sent : Bool) :
    State × Nat × Bool :=
  match g.hit with
  | some i =>
    (horCount (match flowOf f with | some w => touchSess s i w (f.parsed.l4.tcpFlags.getD 0) | none => s) 2 f.zone 1 1, g.dests, sent)
  | none =>
    let s0 := logVerdict s t f.zone g.zone v g.verdict (frameLen f) false
    let a := effective f.zenith reinj g.verdict.action
    let s1 := if f.zenith ∧ g.verdict.action = 3 then horCount s0 3 0 9 1 else s0
    let ri := g.verdict.rule.getD 0xFFFF
    let r := tget t.rules ri
    let exc := fun (copy : Bool) (s : State) => if sent then s else
      sendException s { frame := f, rule := ri, handler := (r.map (·.handler)).getD 0, copy := copy, dst := g.zone }
    match a with
    | 0 => if f.zenith ∧ g.verdict.action = 3 then (s1, 0, sent) else (horCount s1 2 f.zone 3 1, 0, sent)
    | 1 => (s1, g.dests, sent)
    | 2 =>
      match flowOf f with
      | none => (s1, g.dests, sent)
      | some w =>
        if (findSess s1 f.domain w).isSome then (s1, g.dests, sent)
        else
          let fl := f.parsed.l4.tcpFlags.getD 0
          let mid := bit ((r.map (·.flags)).getD 0) 3
          let plain := w.proto = 6 ∧ (!bit fl 1 ∨ bit fl 2)
          if plain ∧ !mid then (horCount s1 2 f.zone 5 1, 0, sent)
          else match createSess s1 f.domain w f.zone g.zone ri ((r.map (·.profile)).getD 0) (plain && mid) false with
            | some s2 => (s2, g.dests, sent)
            | none => (raiseTableFull (horCount s1 2 f.zone 6 1) f.domain (sessBucket f.domain w) f.zone, 0, sent)
    | 3 => (exc false s1, 0, true)
    | 4 => (exc true s1, g.dests, true)
    | _ => (horCount s1 2 f.zone 2 1, 0, sent)

/-- Step 6 of R248 over the groups. -/
def finishGroups (t : HorizonTables) (f : Frame) (v : RuleView) (reinj : Bool) : List Group → State → Nat → Bool → State × Nat
  | [], s, d, _ => (s, d)
  | g :: gs, s, d, sent =>
    let r := finishGroup t f v reinj g s sent
    finishGroups t f v reinj gs r.1 (d + r.2.1) r.2.2

/-- Whether a frame bypasses Horizon (R237). -/
def controlBypass (f : Frame) : Bool :=
  f.dest == 2 ^ 35 && f.first ≤ 32 && f.point ≤ 32 && f.parsed.da.take 5 == [0x01, 0x80, 0xC2, 0x00, 0x00] &&
  u f.parsed.da 5 1 ≤ 0x0F

/-- Whether a key may be in the spill store or its frames are already on the restore path (R256). -/
def needsRestore (s : State) (d : Nat) (w : Flow) : Bool :=
  s.hor.spilled.any (fun e => sameKey d w e.2) || s.hor.spillBuf.any (sameKey d w) ||
  s.hor.restore.any fun f => f.domain == d && match flowOf f with
    | some v => v == w || v == { w with src := w.dst, dst := w.src, sport := w.dport, dport := w.sport }
    | none => false

/-- Steps 4 to 7 of R248 for a frame whose zone, groups and session are known. -/
def decideFrame (t : HorizonTables) (f : Frame) (gs : List Group) (x : Option Sess) (reinj : Bool) (s : State) : StageRes :=
  let v := viewOf f
  let ds := gs.map (decideGroup t f v x)
  let c := chargeGroups t f ds [] [] s
  let r := finishGroups t f v reinj c.1 c.2 0 false
  let f1 := { f with dest := r.2 }
  if r.2 = 0 then .drop f1 r.1 else .pass f1 r.1

/-- Stage 7 from step 2 of R248, for a frame with its ingress zone. `restored` marks a frame that comes back from the restore
path (R256); `reinj` one that Lodestar re-injected (R260). -/
def stageZoned (f : Frame) (reinj restored : Bool) (s : State) : StageRes :=
  let t := (tablesOf s f.epoch).hor
  let s1 := horCount s 2 f.zone 0 1
  let g := groupDests t f (bitList 36 f.dest) [] 0
  let s2 := if g.2 ≠ 0 then horCount s1 3 0 10 1 else s1
  let s3 := horCount s2 2 f.zone 4 (g.1.drop 4).length
  let gs := g.1.take 4
  match if f.zenith then none else flowOf f with
  | none => decideFrame t f gs none reinj s3
  | some w =>
    match findSess s3 f.domain w with
    | some x => decideFrame t f gs (some x) reinj s3
    | none =>
      if !restored && needsRestore s3 f.domain w then
        if s3.hor.restore.length ≥ 512 then .drop f (horCount s3 3 0 7 1)
        else .away (s3.modHor fun h => { h with restore := h.restore ++ [f] })
      else decideFrame t f gs none reinj s3

/-- Stage 7 (R236 to R248). `inner` is the zone of Lodestar's internal header for frames of point 35. -/
def stageHorizon (f : Frame) (inner : Nat) (reinj : Bool) (s : State) : StageRes :=
  if controlBypass f then .pass f (horCount s 3 0 4 1)
  else match ingressZone (tablesOf s f.epoch).hor f inner with
    | none => .drop f (horCount s 3 0 10 1)
    | some z => stageZoned { f with zone := z } reinj false s

/-- The gateway egress check of a target message (R263): whether the write is permitted, and the state. -/
def gatewayCheck (s : State) (epoch zone kind channel ident len : Nat) (domain : Nat) : Bool × State :=
  let t := (tablesOf s epoch).hor
  match pointZone t domain (64 + channel) 0 with
  | none => (false, horCount s 2 zone 8 1)
  | some z =>
    let v : RuleView := { etherType := some 0x88B5, carriage := some (kind, channel, ident) }
    let w := judge t zone z v
    let s1 := logVerdict s t zone z v w len true
    if !keeps w.action then (false, horCount s1 2 zone 8 1)
    else
      let i := (pairOf t zone z).limiter
      match if i = 0xFFFF then none else tget t.limiters i with
      | none => (true, s1)
      | some l => chargeLimiter s1 i l len zone z

/-! ### Aging, revocation (R253, R254, R264) -/

/-- The timeout of a session in its state, in seconds (R253). -/
def sessTimeout (p : HorizonParams) (x : Sess) : Nat :=
  let q := at' p.profiles x.profile {}
  match x.state with
  | .tcpSyn => q.tcpSyn
  | .tcpEst => q.tcpEst
  | .tcpClosing => q.tcpClose
  | .udpNew => q.udpNew
  | .udpBidir => q.udpBidir
  | .otherNew => q.other
  | .otherBidir => q.other

/-- Whether a session's idle time has reached its timeout (R254). -/
def sessTimedOut (s : State) (x : Sess) : Bool := x.last + sessTimeout s.hor.params x * secondNs ≤ s.now

/-- The session's initiator tuple as rules see it in the revocation sweep (R264). -/
def sessView (x : Sess) : RuleView :=
  { etherType := some (if x.ver = 4 then 0x0800 else 0x86DD), ipVer := some x.ver, proto := some x.proto, src := x.src, dst := x.dst,
    l4Src := if x.proto = 6 ∨ x.proto = 17 then some x.sport else none,
    l4Dst := if x.proto = 6 ∨ x.proto = 17 then some x.dport else none, skipFlags := true }

/-- The outcome of revalidating a session against the current tables (R264): kept with its new epoch, or removed. -/
def revalidate (s : State) (x : Sess) : Option Sess :=
  let t := s.ht
  let w := judge t x.srcZone x.dstZone (sessView x)
  if w.action = 2 then some { x with epoch := s.ep.epoch }
  else if w.action = 3 ∧ x.admitted ∧ ((w.rule.bind fun i => tget t.rules i).map (·.handler)) = some 2 then some x
  else none

/-- A pending insert is written on-die and leaves the list (R252). -/
def execSessionInsertWrite (s : State) : Host.Outcome State Fault Refusal :=
  .next (match s.hor.pending with
    | [] => s
    | x :: xs => s.modHor fun h => { h with pending := xs, sessions := tset h.sessions x.index x })

/-- The spill engine writes a moved session from the buffer to LPDDR (R252, R255, R256). -/
def execSpillWrite (s : State) : Host.Outcome State Fault Refusal :=
  .next (match s.hor.spillBuf with
    | [] => s
    | x :: xs =>
      let full := s.hor.spilled.length ≥ 1048576
      let oldest := (idleLongest (s.hor.spilled.map fun e => { e.2 with index := e.1 })).map (·.index)
      let s1 := match if full then oldest else none with
        | some k => horCount (s.modHor fun h => { h with spilled := tdel h.spilled k }) 3 0 6 1
        | none => s
      let slot := ((List.range (s1.hor.spilled.length + 1)).find? fun k => !thas s1.hor.spilled k).getD 0
      let s2 := s1.modHor fun h => { h with spillBuf := xs, spilled := tset h.spilled slot x }
      if s.hor.spilled.isEmpty then raiseSpill s2 0 else s2)

/-- The sweep visits session `i`, on-die or spilled, and removes it if it has timed out (R254); a spilled session is also
revalidated (R264). -/
def execSessionAgingSweep (spilled : Bool) (i : Nat) (s : State) : Host.Outcome State Fault Refusal :=
  .next (
    if !spilled then
      match tget s.hor.sessions i with
      | some x => if sessTimedOut s x then horCount (s.modHor fun h => { h with sessions := tdel h.sessions i }) 3 0 1 1 else s
      | none => s
    else match tget s.hor.spilled i with
      | none => s
      | some x =>
        if sessTimedOut s x then spillEmptied s (horCount (s.modHor fun h => { h with spilled := tdel h.spilled i }) 3 0 1 1)
        else if x.epoch = s.ep.epoch then s
        else match revalidate s x with
          | some y => s.modHor fun h => { h with spilled := tset h.spilled i y }
          | none => spillEmptied s (horCount (s.modHor fun h => { h with spilled := tdel h.spilled i }) 3 0 5 1))

/-- The revocation sweep visits its next session (R264): the lowest index not yet visited whose validation epoch is old; with
none left the sweep ends. -/
def execRevocationSweepVisit (s : State) : Host.Outcome State Fault Refusal :=
  .next (match s.ep.sweep with
    | none => s
    | some i =>
      match s.hor.sessions.find? fun e => i ≤ e.1 && e.2.epoch != s.ep.epoch with
      | none => { s with ep := { s.ep with sweep := none } }
      | some e =>
        let s1 := { s with ep := { s.ep with sweep := some (e.1 + 1) } }
        match revalidate s e.2 with
        | some y => s1.modHor fun h => { h with sessions := tset h.sessions e.1 y }
        | none => horCount (s1.modHor fun h => { h with sessions := tdel h.sessions e.1 }) 3 0 5 1)

/-- The first second without an exception drop ends the overload (R258). -/
def execExceptionDropEnd (s : State) : Host.Outcome State Fault Refusal :=
  .next (if s.hor.excOver then (raiseOverload s 1).modHor fun h => { h with excOver := false } else s)

end Sys2Proof.Machine
end

