-- ==== Sys2Proof/Machine/FabricRun.lean ====
section
/-! DEFINITION. Frames between stage 7 and the end of their last copy: admission to the staging buffers, the output buffer, release
ownership, overflow mode (R280 to R314). -/

namespace Sys2Proof.Machine

/-- The state with its fabric changed. -/
def State.modFab (s : State) (f : Fabric → Fabric) : State := { s with fab := f s.fab }

/-! ### Counters (R322) -/

/-- Widths of the counters of a fabric table (R322). -/
def fabWidths : Nat → List Nat
  | 0 => [64, 32, 32, 32]
  | 1 => [64, 64, 32, 32, 32, 32, 32, 32, 32, 32, 32, 32, 32, 32]
  | 2 => [64, 32, 32, 32, 32, 32]
  | 3 => [64, 32, 32]
  | _ => [64, 32, 32, 32, 32, 32, 32]

/-- Counter values of an index. -/
def fabCtr (s : State) (tbl idx : Nat) : List Nat := tgetD s.fab.counters (65536 * tbl + idx) ((fabWidths tbl).map fun _ => 0)

/-- Add `n` to counter `pos` of index `idx` of fabric table `tbl`. -/
def fabCount (s : State) (tbl idx pos n : Nat) : State :=
  let c := fabCtr s tbl idx
  s.modFab fun f => { f with
    counters := tset f.counters (65536 * tbl + idx) (c.modify pos fun x => ctrAdd (at' (fabWidths tbl) pos 32) x n) }

/-- Raise the recorded peak `pos` of index `idx` to `n` if it is larger. -/
def fabPeak (s : State) (tbl idx pos n : Nat) : State :=
  let c := fabCtr s tbl idx
  s.modFab fun f => { f with counters := tset f.counters (65536 * tbl + idx) (c.modify pos fun x => max x n) }

/-! ### Frames in transit -/

/-- The frame `id` in transit. -/
def transitOf (s : State) (id : Nat) : Option Transit := tget s.fab.transit id

/-- The state with frame `id` changed, if it is in transit. -/
def modTransit (s : State) (id : Nat) (f : Transit → Transit) : State :=
  match transitOf s id with
  | some t => s.modFab fun b => { b with transit := tset b.transit id (f t) }
  | none => s

/-- A frame leaves the in-flight count of its epoch once (R318). -/
def uncount (s : State) (id : Nat) : State :=
  match transitOf s id with
  | some t => if t.counted then countOut (modTransit s id fun t => { t with counted := false }) t.frame.epoch else s
  | none => s

/-- A frame is dropped or discarded whole: it leaves the count and the fabric. -/
def dropTransit (s : State) (id : Nat) : State :=
  let s1 := uncount s id
  s1.modFab fun b => { b with transit := tdel b.transit id }

/-- The queue key of a point and class. -/
def qKey (point tc : Nat) : Nat := 8 * point + tc

/-- The queue of a point and class. -/
def queueOf (s : State) (point tc : Nat) : List Nat := tgetD s.egr.queues (qKey point tc) []

/-! ### Overflow mode (R312 to R314) -/

/-- 2 KiB chunks of a frame (R314). -/
def chunksOf (len : Nat) : Nat := (len + 2047) / 2048

/-- Chunks of the overflow region in use. -/
def regionChunks (s : State) : Nat := (s.fab.region.map fun id => match transitOf s id with
  | some t => chunksOf t.len
  | none => 0).sum

/-- Raise OVERFLOW_MODE (R323). -/
def raiseOverflow (s : State) (on : Bool) (reason : Nat) : State :=
  raise s 0x16 (if on then 3 else 1) noLevel (srcId 0 0)
    (le 1 (b2n !on) ++ le 1 s.fab.mode ++ le 1 reason ++ zeros 1 ++ le 4 s.fab.start.overflowMib ++
      le 8 (if on then 0 else s.fab.spilledSince))

/-- Overflow mode becomes active or inactive (R313) after a change of mode, enable or region. -/
def overflowUpdate (s : State) (reason : Nat) : State :=
  let want := (s.fab.mode ≠ 0 ∧ s.fab.overflowEn) ∨ (s.fab.overflow ∧ !s.fab.region.isEmpty)
  if want ∧ !s.fab.overflow then
    zenithRecheck (raiseOverflow (s.modFab fun f => { f with overflow := true, spilledSince := 0 }) true reason)
  else if !want ∧ s.fab.overflow then
    zenithRecheck (raiseOverflow (s.modFab fun f => { f with overflow := false }) false reason)
  else s

/-! ### Release (R309, R310) -/

/-- The buffer of a frame goes back to its pool (R306), is retired (R308), or leaves the overflow region (R314). -/
def releaseBuffer (s : State) (id : Nat) (t : Transit) : State :=
  let s1 := uncount s id
  let s2 := s1.modFab fun f => { f with
    transit := tdel f.transit id
    region := f.region.filter (· != id)
    pools := match t.pool with
      | some k => f.pools.modify k fun p => if t.retire then { p with retired := satAdd 32 p.retired 1 } else { p with free := p.free + 1 }
      | none => f.pools }
  if s.fab.region.contains id then overflowUpdate s2 5 else s2

/-- The next unfinished copy after index `i` in list order, wrapping round (R309). -/
def nextOwner (cs : List Copy) (i : Nat) : Option Nat :=
  ((List.range cs.length).map fun k => (i + 1 + k) % cs.length).find? fun j => match cs[j]? with
    | some c => c.state != .finished
    | none => false

/-- The copies of a frame with the copy at a point in state `st`. -/
def setCopy (cs : List Copy) (point : Nat) (st : CopyState) : List Copy :=
  cs.map fun c => if c.point = point then { c with state := st } else c

/-- Index of the copy at a point. -/
def copyIdx (cs : List Copy) (point : Nat) : Nat := (cs.findIdx? fun c => c.point == point).getD 0

/-- Release the charge of a copy (R335). -/
def unchargeCopy (s : State) (point : Nat) (c : Copy) : State :=
  s.modEgr fun e => { e with charge := tmod e.charge (qKey point c.tc) 0 (· - c.charge) }

/-- A frame leaves its epoch's count once none of its copies is still to be dequeued (R318). -/
def countedOut (s : State) (id : Nat) : State :=
  match transitOf s id with
  | some t => if t.copies.all fun c => c.state != .queued then uncount s id else s
  | none => s

/-- No ring holds frame `id` any more (R125). -/
def unholdRings (s : State) (id : Nat) : State :=
  { s with dma := { s.dma with rings := s.dma.rings.map fun r => { r with rxHeld := r.rxHeld.filter fun h => h.frame.id != id } } }

/-- The copy of frame `id` at `point` is finished (R309): its charge is released, ownership passes or the buffer is released. -/
def finishCopy (s0 : State) (id point : Nat) : State :=
  let s := if point = 33 then unholdRings s0 id else s0
  match transitOf s id with
  | none => s
  | some t =>
    match t.copies.find? fun c => c.point == point && c.state != .finished with
    | none => s
    | some c =>
      let cs := setCopy t.copies point .finished
      let s1 := unchargeCopy (s.modEgr fun e => { e with
        queues := tmod e.queues (qKey point c.tc) [] fun q => q.filter (· != id) }) point c
      match if t.owner = copyIdx t.copies point then nextOwner cs t.owner else some t.owner with
      | none => releaseBuffer s1 id { t with copies := cs }
      | some o => countedOut (modTransit s1 id fun t => { t with copies := cs, owner := o }) id

/-- A copy that has not started is discarded as bad (R303). -/
def discardBad (s : State) (id : Nat) (c : Copy) : State := finishCopy (fabCount s 1 c.point 5 1) id c.point

/-! ### Bad frames (R302, R303) -/

/-- The source ID of a point in sampled events: its port, or its fabric port (R323, R359). -/
def pointSrc (point : Nat) : Nat := if point ≤ 33 then srcId 1 point else srcId 6 (point - 21)

/-- A started copy on an Ethernet egress is stomped (R303): counted, and STOMP_SAMPLE, sampled per port (R217). -/
def stomp (s : State) (t : Transit) (point cause : Nat) : State :=
  raiseSampled (perfCount (fabCount (portCount s point 9 1) 1 point (7 + cause) 1) 0x24 1) 0x12 2 1 (srcId 1 point) fun n =>
    le 1 point ++ le 1 cause ++ le 2 (t.frame.stream.getD 0xFFFF) ++ le 4 n ++ le 1 t.frame.first ++ zeros 3 ++ le 4 t.frame.epoch

/-- The copies of a frame that has become bad are handled (R303): those not started are discarded, those being sent on an Ethernet
egress are stomped when they end. -/
def discardUnstarted (s : State) (id : Nat) : State :=
  match transitOf s id with
  | none => s
  | some t => (t.copies.filter fun c => c.state == .queued).foldl (fun s c => discardBad s id c) s

/-- A frame becomes bad (R302) with its cause, once. -/
def makeBad (s : State) (id cause : Nat) : State :=
  match transitOf s id with
  | none => s
  | some t => if t.bad.isSome then s else discardUnstarted (modTransit s id fun t => { t with bad := some cause }) id

/-! ### Mirror copies and admission to the fabric -/

/-- Mirror session `k` takes its copy of a frame (R212). A frame is counted from the moment its copy is taken (R318). -/
def takeMirror (f : Frame) (s : State) (k : Nat) : State :=
  let m := at' s.ing.mirrors k {}
  if Config.recircFull s.fab.recirc.length then ingCount s 4 k 1 1
  else
    let cut := f.data.take (m.trunc - 4)
    let g : Frame := { f with
      data := cut, point := 36, mirrorOf := some k, mirrorTc := m.tc, zenith := false, learn := none, ended := true, fate := .good,
      dest := 2 ^ m.dest, seqNum := none, rtagOut := false }
    countIn (ingCount (s.modFab fun b => { b with recirc := b.recirc ++ [g] }) 4 k 0 1) f.epoch

/-- The mirror sessions that copy a frame (R212): its ingress point, or its stream. -/
def mirrorsOf (f : Frame) (s : State) : List Nat :=
  let r := match f.stream with
    | some h => (streamRec (tablesOf s f.epoch).ing h).mirror
    | none => 0xFF
  (List.range 4).filter fun k =>
    let m := at' s.ing.mirrors k {}
    m.enable && f.mirrorOf.isNone && ((f.point ≤ 35 && bit m.srcPorts f.point) || r == k)

/-- Every mirror copy of a frame at the end of stage 7, or where it is dropped (R212). -/
def mirrorFrame (f : Frame) (dropped : Bool) (s : State) : State :=
  ((mirrorsOf f s).filter fun k => !dropped || bit (at' s.ing.mirrors k {}).flags 0).foldl (takeMirror f) s

/-- `LEN` of a frame as known at its head (R300), if it is. -/
def headLen (f : Frame) (complete : Bool) : Option Nat :=
  if complete then some (frameLen f)
  else match f.parsed.ip with
    | some ip =>
      let tags := (if f.parsed.vid.isSome then 1 else 0) + (if f.parsed.innerVid.isSome then 1 else 0)
      let l3 := 14 + 4 * tags
      if ip.ver = 4 then some (max 64 (l3 + ub f.data (l3 + 2) 2 + 4)) else some (max 64 (l3 + 40 + ub f.data (l3 + 4) 2 + 4))
    | none => none

/-- The wide-stream entry of a frame (R291). -/
def wideOf (s : State) (f : Frame) : Option Nat :=
  match f.stream with
  | some h => s.fab.wide.findIdx? fun w => w.handle == some h
  | none => none

/-- Key of a staging queue (R285). -/
def stageKey (inp mid out : Nat) (zen : Bool) : Nat := ((inp * 16 + mid) * 16 + out) * 2 + b2n zen

/-- Cells of a class that occupy the staging buffer of an input, those still to be cut for admitted frames included (R285, R287). -/
def stagedCells (s : State) (inp : Nat) (zen : Bool) : Nat :=
  let q := (s.fab.staging.map fun e => if e.1 / 512 = inp ∧ (e.1 % 2 = 1) = (zen = true) then e.2.length else 0).sum
  let w := (s.fab.transit.map fun e =>
    if e.2.input = inp ∧ e.2.frame.zenith = zen ∧ e.2.cutCells > 0 then e.2.cells - e.2.cutCells else 0).sum
  q + w

/-- The middle of the next cell of a frame (R284, R291). -/
def cellMiddle (t : Transit) (wseq : Nat) : Nat :=
  match t.wide with
  | some _ => if wseq % 2 = 0 then t.middle else (t.middle + 1) % 16
  | none => t.middle

/-- Whether the input admits a frame (R287). -/
def fabricAdmits (s : State) (t : Transit) : Bool :=
  let z := stagedCells s t.input true
  let o := stagedCells s t.input false
  let shared := 1536 - o - (z - 512)
  if t.frame.zenith then t.cells ≤ (512 - z) + shared
  else
    let ws := match t.wide with
      | some w => (at' s.fab.wide w {}).nextSeq
      | none => 0
    t.cells ≤ shared && (tgetD s.fab.staging (stageKey t.input (cellMiddle t ws) t.out false) []).length < 256

/-- Cut the next `n` cells of frame `id` into its staging queues (R280, R281). `bad` marks the last of them. -/
def cutCells : Nat → State → Nat → Bool → State
  | 0, s, _, _ => s
  | n + 1, s, id, bad =>
    match transitOf s id with
    | none => s
    | some t =>
      let ws := match t.wide with
        | some w => (at' s.fab.wide w {}).nextSeq
        | none => 0
      let last := t.cutCells + 1 = t.cells
      let c : Cell := { frame := id, idx := t.cutCells, last := last, bad := last && bad, wseq := ws, wide := t.wide, inp := t.input,
                        out := t.out, zenith := t.frame.zenith }
      let s1 := fabCount (s.modFab fun f => { f with
        staging := tmod f.staging (stageKey t.input (cellMiddle t ws) t.out t.frame.zenith) [] (· ++ [c])
        wide := match t.wide with
          | some w => f.wide.modify w fun e => { e with nextSeq := wrapAdd 8 e.nextSeq 1 }
          | none => f.wide
        transit := tset f.transit id { t with cutCells := t.cutCells + 1 } }) 0 t.input 0 1
      let s2 := match t.wide with
        | some w => fabCount s1 3 w 0 1
        | none => s1
      cutCells n s2 id bad

/-- Whether earlier cells of a wide stream have not reached the output yet (R293). -/
def wideBusy (s : State) (w : Nat) : Bool := s.fab.transit.any fun e => e.2.wide == some w && e.2.cutCells > e.2.arrived

/-- The input admits the frame and cuts its cells, or refuses it whole (R287). A frame whose end has not arrived keeps its last cell
back (R302); a frame held in the receive FIFO is cut only with its end (R300). -/
def cutFrame (s : State) (id : Nat) : State :=
  match transitOf s id with
  | none => s
  | some t =>
    if fabricAdmits s t then
      let s1 := modTransit s id fun t => { t with fifo := false, earlyCut := !t.frame.ended }
      if t.frame.ended then cutCells t.cells s1 id t.inBad.isSome else cutCells (t.cells - 1) s1 id false
    else dropTransit (perfCount (fabCount s 0 t.input 1 1) 0x12 1) id

/-- A frame leaves stage 7 with its destination set and enters the fabric (R280 to R287). -/
def enterFabric (f : Frame) (complete : Bool) (s : State) : State :=
  let id := f.id
  let low := (bitList 37 f.dest).headD 0
  let w := wideOf s f
  let len := headLen f complete
  let t : Transit := {
    frame := { f with ended := complete }, len := len.getD (frameLen f), input := fpOf f.point,
    middle := middleOf s.fab.start.hashSeed (hashKey f), wide := w, out := fpOf low, cells := cellCount (len.getD (frameLen f)),
    fifo := len.isNone, lastCell := s.now,
    inBad := if complete then match f.fate with
      | .good => none
      | .fcsFailed => some 0
      | .icvFailed => some 1
      | .replayFailed => some 2
    else none }
  let s1 := s.modFab fun b => { b with transit := tset b.transit id t }
  if len.isNone then s1
  else match w with
    | some k =>
      if (at' s.fab.wide k {}).pending.isSome ∨ !(at' s.fab.wide k {}).heldFrames.isEmpty then
        s1.modFab fun b => { b with wide := b.wide.modify k fun e => { e with heldFrames := e.heldFrames ++ [id] } }
      else cutFrame s1 id
    | none =>
      match f.stream with
      | some h =>
        match s.fab.wide.findIdx? fun e => e.pending == some (some h) with
        | some k => s1.modFab fun b => { b with wide := b.wide.modify k fun e => { e with heldFrames := e.heldFrames ++ [id] } }
        | none => cutFrame s1 id
      | none => cutFrame s1 id

end Sys2Proof.Machine
end

