-- ==== Sys2Proof/Machine/FabricRows.lean ====
section
/-! DEFINITION. The rows of the fabric: cells, replays, resequencers, timeouts, the residency scan, the mode limit (R282 to R296,
R311, R312). -/

namespace Sys2Proof.Machine

/-! ### Choosing and moving cells (R288, R289) -/

/-- Key of a middle queue (R288). -/
def midKey (mid out : Nat) (zen : Bool) : Nat := (mid * 16 + out) * 2 + b2n zen

/-- Whether a middle queue raises its full flag (R288). -/
def flagged (s : State) (mid out : Nat) (zen : Bool) : Bool :=
  (tgetD s.fab.middles (midKey mid out zen) []).length ≥ if zen then 16 else 96

/-- The staging queue from which input `i` sends to middle `m` (R289): the output and class. -/
def stageChoice (s : State) (i m : Nat) : Option (Nat × Bool) :=
  let ready := fun (z : Bool) (o : Nat) => !(tgetD s.fab.staging (stageKey i m o z) []).isEmpty && !flagged s m o z
  match (List.range 16).find? (ready true) with
  | some o => some (o, true)
  | none =>
    let r := tgetD s.fab.rr (16 * i + m) 0
    (((List.range 16).map fun k => (r + k) % 16).find? (ready false)).map fun o => (o, false)

/-- Take the next cell of a hop (R289): stage 0 from input to middle, stage 1 from middle to output. -/
def takeCell (s : State) (stage a b : Nat) : Option (Cell × State) :=
  if stage = 0 then
    match stageChoice s a b with
    | none => none
    | some (o, z) =>
      match tgetD s.fab.staging (stageKey a b o z) [] with
      | [] => none
      | c :: cs => some (c, s.modFab fun f => { f with
          staging := if cs.isEmpty then tdel f.staging (stageKey a b o z) else tset f.staging (stageKey a b o z) cs
          rr := if z then f.rr else tset f.rr (16 * a + b) ((o + 1) % 16) })
  else
    let take := fun (z : Bool) => match tgetD s.fab.middles (midKey a b z) [] with
      | [] => none
      | c :: cs => some (c, s.modFab fun f => { f with
          middles := if cs.isEmpty then tdel f.middles (midKey a b z) else tset f.middles (midKey a b z) cs })
    (take true).or (take false)

/-- A cell is stored at its output (R296, R302). Cells of a frame that is no longer in transit, or has ended, are discarded. -/
def storeCell (s : State) (c : Cell) : State :=
  match transitOf s c.frame with
  | none => s
  | some t =>
    if t.stored then s else
    let s1 := modTransit s c.frame fun t => { t with arrived := t.arrived + 1, lastCell := s.now, stored := c.last }
    if c.bad || t.inBad == some 2 then makeBad s1 c.frame (t.inBad.getD 2) else s1

/-- The resequencer of wide entry `w` releases the cells that are in order (R292). -/
def drainReseq : Nat → State → Nat → State
  | 0, s, _ => s
  | n + 1, s, w =>
    let e := at' s.fab.wide w {}
    let q := tgetD s.fab.reseq w []
    match q.find? fun c => c.wseq == e.expected with
    | none => s
    | some c =>
      drainReseq n (storeCell (s.modFab fun f => { f with
        reseq := tset f.reseq w (q.filter fun x => x.wseq != c.wseq)
        wide := f.wide.modify w fun e => { e with expected := wrapAdd 8 e.expected 1 } }) c) w

/-- A cell reaches its output (R292, R296). -/
def outputCell (s : State) (c : Cell) : State :=
  match c.wide with
  | none => storeCell s c
  | some w =>
    let e := at' s.fab.wide w {}
    let ahead := (c.wseq + 256 - e.expected) % 256
    if ahead ≥ 128 then s
    else
      let q := tgetD s.fab.reseq w []
      drainReseq 65 (fabPeak (s.modFab fun f => { f with reseq := tset f.reseq w (q ++ [c]) }) 3 w 2 (if ahead = 0 then q.length else q.length + 1)) w

/-- A cell is accepted by the receiver of a hop. -/
def acceptCell (s : State) (stage b : Nat) (c : Cell) : State :=
  if stage = 0 then
    perfCount (s.modFab fun f => { f with middles := tmod f.middles (midKey b c.out c.zenith) [] (· ++ [{ c with again := false }]) }) 0x10 1
  else outputCell s { c with again := false }

/-! ### Link CRC and replay (R294, R295) -/

/-- The link of a hop. -/
def linkKey (stage a b : Nat) : Nat := (stage * 16 + a) * 16 + b

/-- Raise REPLAY_FAIL, at most 100 per second device-wide (R323). -/
def raiseReplayFail (s : State) (stage a b : Nat) (t : Transit) : State :=
  let fresh := s.fab.replayAt + secondNs ≤ s.now
  let n := if fresh then 0 else s.fab.replayN
  if n < 100 then
    (raise { s with free := s.free + 1 } 0x13 3 0 (srcId 6 t.input)
      (le 1 stage ++ le 1 a ++ le 1 b ++ le 1 (Config.replaySlot s.free % 16) ++ le 2 (t.frame.stream.getD 0xFFFF) ++ zeros 2 ++
        le 4 t.frame.epoch ++ le 4 s.fab.replaySupp)).modFab fun f => { f with
          replayAt := if fresh then s.now else f.replayAt, replayN := n + 1, replaySupp := 0 }
  else s.modFab fun f => { f with replaySupp := f.replaySupp + 1 }

/-- A resent cell failed again (R295): the frame is bad with cause 2, and a lost `LAST` cell is replaced by a terminator. -/
def replayFailed (s : State) (stage a b : Nat) (c : Cell) : State :=
  match transitOf s c.frame with
  | none => s
  | some t =>
    let s1 := modTransit s c.frame fun t => { t with inBad := some 2 }
    let s2 := raiseReplayFail (if stage = 0 then fabCount s1 0 a 3 1 else fabCount s1 4 0 2 1) stage a b t
    if c.last then acceptCell s2 stage b { c with bad := true } else s2

/-- CELL_RECEIVE (R282, R289, R294, R295): in its slot the receiver of a hop checks the next cell of the sender. A hop that has
nothing to send leaves the state unchanged. -/
def execCellReceive (stage sender receiver : Nat) (crcOk : Bool) (s : State) : Host.Outcome State Fault Refusal :=
  if stage > 1 ∨ sender > 15 ∨ receiver > 15 ∨ !awake s then .next s else
  let k := linkKey stage sender receiver
  let l := tgetD s.fab.links k {}
  let put := fun (x : Link) (s : State) => s.modFab fun f => { f with links := tset f.links k x }
  match l.resend with
  | c :: rest =>
    let s1 := put { l with resend := rest, lseq := wrapAdd 8 l.lseq 1 } s
    if crcOk then .next (acceptCell s1 stage receiver c)
    else if c.again then .next (replayFailed s1 stage sender receiver c)
    else .next (put { l with resend := [], lost := c :: rest, lseq := wrapAdd 8 l.lseq 1 } s)
  | [] =>
    match takeCell s stage sender receiver with
    | none => .next s
    | some (c, s1) =>
      if !l.lost.isEmpty then .next (put { l with lost := l.lost ++ [c], lseq := wrapAdd 8 l.lseq 1 } s1)
      else if crcOk then .next (acceptCell (put { l with lseq := wrapAdd 8 l.lseq 1 } s1) stage receiver c)
      else .next (put { l with lost := [c], lseq := wrapAdd 8 l.lseq 1 } s1)

/-- REPLAY_REJECTION (R294): the sender resends the rejected cell and, in order, those after it. -/
def execReplayRejection (stage sender receiver : Nat) (s : State) : Host.Outcome State Fault Refusal :=
  let k := linkKey stage sender receiver
  let l := tgetD s.fab.links k {}
  if stage > 1 ∨ sender > 15 ∨ receiver > 15 then .next s else
  match l.lost with
  | [] => .next s
  | c :: cs =>
    let s1 := s.modFab fun f => { f with links := tset f.links k { l with lost := [], resend := { c with again := true } :: cs } }
    .next (perfCount (if stage = 0 then fabCount s1 0 sender 2 1 else fabCount s1 4 0 1 1) 0x11 1)

/-! ### Timeouts -/

/-- REASSEMBLY_TIMEOUT (R296): the first frame at an output that waits for its next cell is ended as bad with cause 2. -/
def execReassemblyTimeout (output : Nat) (s : State) : Host.Outcome State Fault Refusal :=
  match s.fab.transit.find? fun e => e.2.out == output && e.2.arrived > 0 && !e.2.stored && e.2.bad.isNone with
  | none => .next s
  | some (id, t) =>
    let s1 := raiseReplayFail (fabCount s 4 0 3 1) 2 t.middle output t
    .next (makeBad (modTransit s1 id fun t => { t with stored := true, inBad := some 2 }) id 2)

/-- The frame whose cell `seq` of wide entry `w` is missing. -/
def missingFrame (s : State) (w seq : Nat) : Option Nat :=
  let cells := (s.fab.staging.flatMap (·.2)) ++ (s.fab.middles.flatMap (·.2)) ++ (s.fab.links.flatMap fun l => l.2.lost ++ l.2.resend)
  match cells.find? fun c => c.wide == some w && c.wseq == seq with
  | some c => some c.frame
  | none => (s.fab.transit.find? fun e => e.2.wide == some w && !e.2.stored && e.2.inBad == some 2).map (·.1)

/-- RESEQ_TIMEOUT (R292): the resequencer moves on past the expected cell; the frame that lost it is bad with cause 3. -/
def execReseqTimeout (w : Nat) (s : State) : Host.Outcome State Fault Refusal :=
  let q := tgetD s.fab.reseq w []
  if w > 15 ∨ q.isEmpty then .next s else
  let e := at' s.fab.wide w {}
  let miss := missingFrame s w e.expected
  let own := (miss.bind (transitOf s)).or ((q.head?.bind fun c => transitOf s c.frame))
  let h := e.handle.getD 0
  let m := middleOf s.fab.start.hashSeed (be 2 h)
  let s1 := s.modFab fun f => { f with wide := f.wide.modify w fun e => { e with expected := wrapAdd 8 e.expected 1 } }
  let s2 := raiseSampledKey (fabCount s1 3 w 1 1) (65536 * 0x17 + w) 0x17 2 2 (srcId 7 h) fun n =>
    le 1 w ++ le 1 (if e.expected % 2 = 0 then m else (m + 1) % 16) ++ le 1 e.expected ++ zeros 1 ++ le 4 n ++
      le 4 ((own.map (·.frame.epoch)).getD s.ep.epoch)
  let s3 := match miss with
    | some id => makeBad (modTransit s2 id fun t => { t with inBad := t.inBad.or (some 3) }) id 3
    | none => s2
  .next (drainReseq 65 s3 w)

/-- Whether a change of wide entry `w` still waits for earlier cells of its old or new stream (R293). -/
def wideWaits (s : State) (w : Nat) : Bool :=
  let e := at' s.fab.wide w {}
  let busy := fun (h : Option Nat) => h.isSome && s.fab.transit.any fun t =>
    t.2.frame.stream == h && t.2.cutCells > 0 && !t.2.stored
  busy e.handle || busy (e.pending.getD none)

/-- The change of wide entry `w` comes into force and the held frames are cut in order under the new entry (R293). -/
def applyWide (s : State) (w : Nat) : State :=
  let e := at' s.fab.wide w {}
  match e.pending with
  | none => s
  | some h =>
    let s1 := s.modFab fun f => { f with wide := f.wide.modify w fun e => { e with handle := h, pending := none, heldFrames := [] } }
    e.heldFrames.foldl (fun s id => match transitOf s id with
      | some t => cutFrame (modTransit s id fun x => { x with wide := wideOf s t.frame }) id
      | none => s) s1

/-- WIDE_STREAM_CHANGE_APPLY (R293). -/
def execWideStreamChangeApply (w : Nat) (s : State) : Host.Outcome State Fault Refusal :=
  if w > 15 ∨ wideWaits s w then .next s else .next (applyWide s w)

/-- The limit of START_UP or RECOVERY, in raw counts (R312). -/
def modeLimitCounts (s : State) : Nat := s.fab.modeLimitS * 625000000

/-- Seconds left of the mode limit, rounded up; 0 in modes 0 and 2 (R324). -/
def modeLeftS (s : State) : Nat :=
  if s.fab.mode % 2 = 0 then 0 else
  match s.fab.modeSince with
  | none => s.fab.modeLimitS
  | some t => (t + modeLimitCounts s - s.mb.upCounts + 624999999) / 625000000

/-- The buffer mode changes, its limit timer starts again (R312, R313, R326). START_UP is timed from `DEV_STATUS.BUNDLE_OK`. -/
def setMode (s : State) (mode reason : Nat) : State :=
  overflowUpdate (s.modFab fun f => { f with
    mode := mode, modeSince := if mode = 3 ∨ (mode = 1 ∧ s.host.bundleOk) then some s.mb.upCounts else none }) reason

/-- MODE_LIMIT_EXPIRY (R312, R313): the limit of START_UP or RECOVERY has passed and the mode is NORMAL. -/
def execModeLimitExpiry (s : State) : Host.Outcome State Fault Refusal :=
  match s.fab.modeSince with
  | none => .next s
  | some t =>
    if s.fab.mode % 2 = 0 then .next s
    else .next (setMode (s.later (t + modeLimitCounts s - s.mb.upCounts)) 0 4)

/-! ### Residency scan (R311) -/

/-- Age at which the scan discards a copy: 49.9 ms in raw counts of 1.6 ns (R311). -/
def residencyLimit : Nat := 31187500

/-- Whether a frame has reached the residency limit. -/
def tooOld (s : State) (f : Frame) : Bool := f.entered + residencyLimit ≤ s.time.raw

/-- Count a residency discard at a point and in its epoch, and raise RESIDENCY_DISCARD (R311, R323). -/
def residencyCount (s : State) (point place tc : Nat) (epoch : Nat) : State :=
  let s1 := fabCount s 1 point 4 1
  let s2 := if s1.ep.draining ∧ epoch ≠ s1.ep.epoch then { s1 with ep := { s1.ep with oldDiscards := s1.ep.oldDiscards + 1 } } else s1
  raiseSampled s2 0x14 2 1 (pointSrc point) fun n =>
    le 1 point ++ le 1 place ++ le 1 tc ++ zeros 1 ++ le 4 n ++ le 4 epoch

/-- The ring that holds the H0 copy of frame `id`, if one does (R125). -/
def holdingRing (s : State) (id : Nat) : Option Nat := s.dma.rings.findIdx? fun r => r.rxHeld.any fun h => h.frame.id == id

/-- Discard one copy by age. -/
def scanCopy (s : State) (id : Nat) (c : Copy) : State :=
  match transitOf s id with
  | none => s
  | some t =>
    match if c.point = 33 then holdingRing s id else none with
    | some k =>
      let s1 := s.modRing k fun r => { r with rxHeld := r.rxHeld.filter (fun h => h.frame.id != id), c2 := satAdd 32 r.c2 1 }
      finishCopy (residencyCount s1 33 1 c.tc t.frame.epoch) id 33
    | none =>
      finishCopy (residencyCount s c.point (if s.fab.region.contains id then 4 else 0) c.tc t.frame.epoch) id c.point

/-- RESIDENCY_SCAN (R310, R311): every copy not dequeued, in every place R311 lists, with an age of 49.9 ms or more is discarded. -/
def execResidencyScan (s : State) : Host.Outcome State Fault Refusal :=
  let old := s.fab.transit.filter fun e => e.2.admitted && tooOld s e.2.frame
  let s1 := old.foldl (fun s e => (e.2.copies.filter fun c => c.state == .queued).foldl (fun s c => scanCopy s e.1 c) s) s
  let s2 := (s1.hor.restore.filter (tooOld s)).foldl (fun s f => countOut (residencyCount s 36 2 f.prio f.epoch) f.epoch)
    (s1.modHor fun h => { h with restore := h.restore.filter fun f => !tooOld s f })
  .next ((s2.fab.recirc.filter (tooOld s)).foldl (fun s f => countOut (residencyCount s 36 3 f.prio f.epoch) f.epoch)
    (s2.modFab fun b => { b with recirc := b.recirc.filter fun f => !tooOld s f }))

end Sys2Proof.Machine
end

