-- ==== Sys2Proof/Machine/KeyOps.lean ====
section
/-! DEFINITION. Key derivation and the key store's operations (R530 to R542), the MACsec engines (R546 to R552) and the connectivity
associations of MKA (R553, R554). -/

namespace Sys2Proof.Machine

/-! ### Roots and keys (R530, R531, R536) -/

/-- The state with its island and engines changed. -/
def State.modKeys (s : State) (f : Keys → Keys) : State := { s with keys := f s.keys }

/-- The ASCII bytes of a string. -/
def ascii (t : String) : List Byte := t.toList.map fun c => BitVec.ofNat 8 c.toNat

/-- The root generation of a life-cycle state (R530). -/
def rootGen (s : State) (st : Nat) : Nat := s.keys.record.count st

/-- The derivation rule (R536): two blocks of AES-256-CMAC in counter mode. -/
def kdf (key label ctx : List Byte) : List Byte :=
  let m := label ++ zeros 1 ++ ctx ++ be 4 256
  Config.cmac key (be 4 1 ++ m) ++ Config.cmac key (be 4 2 ++ m)

/-- The state code and the root generation as they stand in a context (R531, R536). -/
def rootTag (s : State) : List Byte := le 1 s.lifecycle ++ be 4 (rootGen s s.lifecycle)

/-- The root of the present state (R531). -/
def rootKey (s : State) : List Byte := kdf Config.huk (ascii "KZ9600 ROOT") (rootTag s)

/-- The device identity key (R531). -/
def identityKey : List Byte := kdf Config.huk (ascii "KZ9600 IDENTITY") []

/-- Slot `n`. -/
def keySlot (s : State) (n : Nat) : KeySlot := at' s.keys.slots n {}

/-- The state with slot `n` changed. -/
def modSlot (s : State) (n : Nat) (f : KeySlot → KeySlot) : State := s.modKeys fun k => { k with slots := k.slots.modify n f }

/-- A bank of a slot. -/
def bankOf (k : KeySlot) (i : Nat) : Option KeyBank := at' k.banks i none

/-- The active bank of a slot, a tombstone included (R540). -/
def selectedBank (s : State) (n : Nat) : Option KeyBank := (keySlot s n).act.bind fun i => bankOf (keySlot s n) i

/-- The active bank of a slot that is not empty (R540). -/
def activeBank (s : State) (n : Nat) : Option KeyBank := match selectedBank s n with
  | some b => if b.source = 0xF then none else some b
  | none => none

/-- The key of a bank (R534, R536): the labels applied in order to the parent, or the material. Chains are at most 4 deep. -/
def bankKey (s : State) : Nat → KeyBank → List Byte
  | 0, _ => []
  | n + 1, b =>
    if b.source = 0 then
      let parent := if b.parent = 0xFF then rootKey s else match activeBank s b.parent with
        | some q => bankKey s n q
        | none => []
      b.labels.foldl (fun k l => kdf k l (le 8 Config.serial ++ rootTag s)) parent
    else b.key

/-- Depth of a bank's key (R536); an imported or generated key stands at 0 (assumption 32). -/
def bankDepth (s : State) : Nat → KeyBank → Nat
  | 0, _ => 5
  | n + 1, b => if b.source = 0 then b.labels.length + (if b.parent = 0xFF then 0 else match activeBank s b.parent with
      | some q => bankDepth s n q
      | none => 0) else 0

/-- The check value of a key (R539). -/
def kcvOf (alg : Nat) (key : List Byte) : List Byte :=
  if alg = 1 then padTo 8 (Config.kcvPublic (Config.p384Public key)) else padTo 8 (Config.cmac key (zeros 16))

/-- Raise KEY_ERASED (R561). -/
def keyErased (s : State) (n cause banks users gen waitUs : Nat) : State :=
  raise s 0xA1 (if cause = 3 then 4 else 2) noLevel (srcId 0xD n)
    (le 1 n ++ le 1 cause ++ le 1 banks ++ le 1 (min users 255) ++ le 4 gen ++ le 4 (min waitUs (2 ^ 32 - 1)))

/-- Whether a bank bankQualifies for selection (R540). -/
def bankQualifies (s : State) (b : KeyBank) : Bool :=
  b.marker && b.crcOk && b.tagState == s.lifecycle && b.tagGen == rootGen s s.lifecycle

/-- The bank that a start selects for a slot (R540). -/
def selectBank (s : State) (k : KeySlot) : Option Nat :=
  match (bankOf k 0).filter (bankQualifies s), (bankOf k 1).filter (bankQualifies s) with
  | some a, some b => if a.gen < b.gen then some 1 else some 0
  | some _, none => some 0
  | none, some _ => some 1
  | none, none => none

/-- Load a slot into a working register (R537, R540): least recently used registers are reused; a bank that fails its check value gives
way to the other bank, or the slot reads empty. `fuel` bounds the banks tried. -/
def loadSlot : Nat → State → Nat → State × Option KeyBank
  | 0, s, _ => (s, none)
  | fuel + 1, s, n =>
    match activeBank s n with
    | none => (s, none)
    | some b =>
      let here := (n, b.gen)
      let put := fun (s : State) => s.modKeys fun k => { k with working := (here :: k.working.filter (· != here)).take 32 }
      if s.keys.working.contains here then (put s, some b)
      else if kcvOf b.alg (bankKey s 6 b) = b.kcv then (put s, some b)
      else
        let i := (keySlot s n).act.getD 0
        let s1 := keyErased s n 3 (2 ^ i) 0 b.gen 0
        let other := match bankOf (keySlot s n) (1 - i) with
          | some q => if bankQualifies s q then some (1 - i) else none
          | none => none
        loadSlot fuel (modSlot s1 n fun k => { k with act := other, banks := k.banks.set i none }) n

/-- Whether a slot may be used for bit `use` of `USAGE` (R535, R542). -/
def slotUsable (s : State) (n use : Nat) : Bool :=
  n < 64 && !(keySlot s n).erasing && match activeBank s n with
    | some b => bit b.usage use
    | none => false

/-- Users of a bank: the island requests that have latched it (R541). -/
def bankUsers (s : State) (n i : Nat) : Nat := (s.keys.queue.filter fun q => q.uses.contains (n, i)).length

/-- The bank that a use of a slot latches (R541). -/
def latchOf (s : State) (n : Nat) : List (Nat × Nat) := match (keySlot s n).act with
  | some i => [(n, i)]
  | none => []

/-- The first use of a slot closes the provisioning window (R533). -/
def slotUsed (s : State) : State := s.modKeys fun k => { k with window := false }

/-! ### MACsec engines (R546 to R551, R560) -/

/-- The engine `i`. -/
def macRun (s : State) (i : Nat) : MacRun := at' s.keys.mac i {}

/-- The state with engine `i` changed. -/
def modMac (s : State) (i : Nat) (f : MacRun → MacRun) : State := s.modKeys fun k => { k with mac := k.mac.modify i f }

/-- The port of engine `i`. -/
def macPort (i : Nat) : Nat := if i = 4 then 32 else i

/-- Count at a port (R560). -/
def macCount (s : State) (i pos : Nat) : State := modMac s i fun m => { m with port := m.port.modify pos fun x => wrapAdd 64 x 1 }

/-- Count at a secure channel (R560). -/
def scCount (s : State) (i k pos n : Nat) : State :=
  modMac s i fun m => { m with scs := m.scs.map fun e =>
    if e.1 = k then (e.1, { e.2 with counters := e.2.counters.modify pos fun x => wrapAdd 64 x n }) else e }

/-- Change a secure association. -/
def modSa (s : State) (i k : Nat) (f : MacSa → MacSa) : State :=
  modMac s i fun m => { m with sas := m.sas.map fun e => if e.1 = k then (e.1, f e.2) else e }

/-- Count at a secure association (R560). -/
def saCount (s : State) (i k pos : Nat) : State := modSa s i k fun a => { a with counters := a.counters.modify pos fun x => wrapAdd 64 x 1 }

/-- Raise SA_STATE (R561). -/
def saState (s : State) (i kind : Nat) (a : MacSa) : State :=
  raise s 0xA2 (if kind = 2 then 2 else if kind = 3 then 4 else 1) noLevel (srcId 1 (macPort i))
    (le 1 (macPort i) ++ le 1 kind ++ le 1 (b2n !a.tx) ++ le 1 a.an ++ le 1 a.sc ++ le 1 (b2n a.mka) ++ zeros 2 ++ le 8 a.pn)

/-- The first PN above a suite's PN space (R546). -/
def pnTop (suite : Nat) : Nat := if suite = 0 then 2 ^ 32 else 2 ^ 64

/-- The active transmit SA of an engine. -/
def txSa (s : State) (i : Nat) : Option (Nat × MacSa) := (macRun s i).sas.find? fun e => e.2.tx && e.2.active

/-- Whether an engine's controlled port is enabled: MACsec off, or frames unprotected, or a transmit SA in use; never while keys are
locked (R554, R558). -/
def controlledOpen (s : State) (i : Nat) : Bool :=
  let c := macCfg s i
  !c.enable || (!keysLocked s && (!bit c.flags 0 || (txSa s i).isSome))

/-- An SA is removed from its pool and SA_STATE raised with `KIND` 1. -/
def retireSa (s : State) (i k : Nat) : State :=
  match tget (macRun s i).sas k with
  | none => s
  | some a => saState (modMac s i fun m => { m with sas := tdel m.sas k }) i 1 a

/-- An SA enters the pool at index `k`, its SC bound to `sci` (R551); SA_STATE `KIND` 0. -/
def installSa (s : State) (i k sci : Nat) (a : MacSa) : State :=
  saState (modMac s i fun m => { m with
    sas := tset m.sas k a
    scs := if thas m.scs a.sc then m.scs else tset m.scs a.sc { sci := sci } }) i 0 a

/-- An SA becomes active (R570): a transmit SA as the encoding AN, a receive SA as enabled; SA_STATE `KIND` 4. -/
def activateSa (s : State) (i k : Nat) : State :=
  match tget (macRun s i).sas k with
  | none => s
  | some a =>
    let s1 := modMac s i fun m => { m with sas := m.sas.map fun e =>
      if e.1 = k then (e.1, { e.2 with active := true }) else if a.tx && e.2.tx then (e.1, { e.2 with active := false }) else e }
    saState s1 i 4 { a with active := true }

/-- The lowest free index of a pool (R546). -/
def freeSa (m : MacRun) : Option Nat := (List.range 128).find? fun k => !thas m.sas k

/-- Every key of the MACsec engines is zeroized: all SAs are lost (R532, R552, R557). -/
def zeroizeMac (s : State) : State :=
  s.modKeys fun k => { k with mac := k.mac.map fun m => { m with sas := [], scs := [], mka := {} } }

/-! ### MKA (R553, R554) -/

/-- The SCI of the device's own transmit SC on a port: a MAC of the module and port identifier 1 (assumption 32). -/
def ownSci (p : Nat) : Nat := (Config.baseMac % 2 ^ 48 + p) % 2 ^ 48 * 65536 + 1

/-- MKA settings of engine `i`. -/
def mkaCfg (s : State) (i : Nat) : MkaCfg := at' s.keys.cfg.mka i {}

/-- The CA of engine `i`. -/
def mkaRun (s : State) (i : Nat) : MkaRun := (macRun s i).mka

/-- The state with the CA of engine `i` changed. -/
def modMka (s : State) (i : Nat) (f : MkaRun → MkaRun) : State := modMac s i fun m => { m with mka := f m.mka }

/-- Raise MKA_PEER (R561). -/
def mkaPeer (s : State) (i kind sci : Nat) : State :=
  let r := mkaRun s i
  raise s 0xA3 (if kind = 1 ∨ kind = 3 then 3 else 1) noLevel (srcId 1 (macPort i))
    (le 1 (macPort i) ++ le 1 kind ++ le 1 (b2n r.server) ++ zeros 1 ++ be 8 sci ++ le 4 r.kn)

/-- The SAs that MKA installed on a port are retired (R554), but for those in `keep`. -/
def retireMka (s : State) (i : Nat) (keep : List Nat) : State :=
  (((macRun s i).sas.filter fun e => e.2.mka && !keep.contains e.1).map (·.1)).foldl (fun s k => retireSa s i k) s

/-- A SAK is installed for both directions and put in use, and the SAs of the SAK before it are retired (R553). -/
def mkaInstall (s : State) (i kn an sci : Nat) (key : List Byte) : State :=
  let sc := (((macRun s i).scs.find? fun e => e.2.sci == sci && e.1 < 63).map (·.1)).getD
    (((List.range 63).find? fun k => !thas (macRun s i).scs k).getD 0)
  let put := fun (s : State) (a : MacSa) (sci : Nat) => match freeSa (macRun s i) with
    | none => (s, none)
    | some k => (activateSa (installSa s i k sci a) i k, some k)
  let rx := put (modMka s i fun r => { r with kn := kn }) { tx := false, sc := sc, an := an, key := key, pn := 1, next := 1, mka := true } sci
  let tx := put rx.1 { tx := true, sc := 63, an := an, key := key, pn := 1, mka := true } (ownSci (macPort i))
  retireMka tx.1 i (rx.2.toList ++ tx.2.toList)

/-- As key server the device draws a SAK and distributes it to its live peer (R553): the next key number and the next AN. -/
def mkaRekey (s : State) (i : Nat) : State :=
  let r := mkaRun s i
  match r.peer with
  | some sci =>
    if r.ca ∧ r.server then
      let key := padTo 32 (Config.random s.free)
      let kn := wrapAdd 32 r.kn 1
      modMka (mkaInstall { s with free := s.free + 1 } i kn (kn % 4) sci key) i fun r => { r with distributed := some (kn, key) }
    else s
  | none => s

/-- The live peer of a CA is lost (R554). -/
def mkaLost (s : State) (i : Nat) : State :=
  match (mkaRun s i).peer with
  | none => s
  | some sci => modMka (mkaPeer s i 1 sci) i fun r => { r with peer := none, server := false, distributed := none }

/-- The CA of a port starts (R554): MKA derives its keys from the CAK, which is copied. It does not run while keys are locked. -/
def mkaStart (s : State) (i : Nat) : State :=
  let c := mkaCfg s i
  if !c.enable ∨ keysLocked s ∨ !slotUsable s c.slot 2 then s else
  let l := loadSlot 3 s c.slot
  match l.2 with
  | none => l.1
  | some b => modMka (slotUsed l.1) i fun r => { r with
      ca := true, caGen := b.gen, cak := bankKey l.1 6 b, peer := none, server := false, distributed := none, helloAt := l.1.now }

/-- The CA of a port ends (R554): its peer is lost, its SAs stay until the peer's life time expires. -/
def mkaStop (s : State) (i : Nat) : State := modMka (mkaLost s i) i fun r => { r with ca := false, cak := [] }

/-- The CA of a port starts anew (R554, R571). -/
def mkaRestart (s : State) (i : Nat) : State := mkaStart (mkaStop s i) i

/-! ### Transmit (R547) -/

/-- A frame of `len` bytes is sent through a port's engine (R546, R547). Answers whether it may leave. -/
def macsecSend (s : State) (p len : Nat) : State × Bool :=
  match macIdx p with
  | none => (s, true)
  | some i =>
    let c := macCfg s i
    if !c.enable then (s, true)
    else if keysLocked s then (s, false)
    else if !bit c.flags 0 then (macCount s i 6, true)
    else match txSa s i with
      | none => (s, false)
      | some (k, a) =>
        if len + 32 > 9216 then (macCount s i 7, false)
        else if a.spent then (saCount s i k 2, false)
        else
          let enc := bit c.flags 1
          let top := pnTop c.suite
          let s1 := scCount (scCount (saCount s i k (b2n enc)) i 63 (b2n enc) 1) i 63 (2 + b2n enc) (len - 16)
          let b := { a with pn := a.pn + 1 }
          let pass := !a.warned && c.pct * top < 100 * b.pn
          let out := top ≤ b.pn
          let s2 := modSa s1 i k fun x => { x with pn := b.pn, warned := x.warned || pass, spent := out }
          let s3 := if pass then mkaRekey (saState s2 i 2 b) i else s2
          (if out then saState s3 i 3 b else s3, true)

/-! ### Receive (R548 to R550) -/

/-- The receive SC of a SecTAG: the SCI it names, or the sender's where it names none (R546: ES set). -/
def rxSc (s : State) (i : Nat) (w : WireFrame) (t : SecTag) : Option Nat :=
  let sci := t.sci.getD (ub w.data 6 6 * 65536 + 1)
  ((macRun s i).scs.find? fun e => e.2.sci == sci && e.1 < 63).map (·.1)

/-- The receive SA of an SC and AN. -/
def rxSa (s : State) (i sc an : Nat) : Option (Nat × MacSa) := (macRun s i).sas.find? fun e => !e.2.tx && e.2.sc == sc && e.2.an == an

/-- The checks on the head of a frame (R548): counted as IEEE 802.1AE requires. Answers whether the frame goes on. -/
def macHead (s : State) (p : Nat) (w : WireFrame) : State × Bool :=
  match macIdx p with
  | none => (s, true)
  | some i =>
    let c := macCfg s i
    if !c.enable then (s, true)
    else if keysLocked s then (s, false)
    else match w.sec with
      | none => if c.validate = 2 then (macCount s i 1, false) else (macCount s i 0, true)
      | some t =>
        let must := t.c || c.validate == 2
        if !t.ok then (macCount s i 2, false)
        else match rxSc s i w t with
          | none => if must then (macCount s i 4, false) else (macCount s i 3, true)
          | some sc => match rxSa s i sc t.an with
            | none => (s, !must)
            | some (k, a) =>
              if !a.active then (saCount s i k (if must then 3 else 4), !must)
              else if bit c.flags 2 ∧ t.pn < a.pn then (scCount s i sc 2 1, false)
              else (s, true)

/-- The SA that checks a frame's ICV, if any. -/
def macChecker (s : State) (p : Nat) (w : WireFrame) : Option (Nat × SecTag × Nat × Nat × MacSa) :=
  match macIdx p, w.sec with
  | some i, some t =>
    if !(macCfg s i).enable then none else match rxSc s i w t with
      | none => none
      | some sc => match rxSa s i sc t.an with
        | some (k, a) => if a.active then some (i, t, sc, k, a) else none
        | none => none
  | _, _ => none

/-- Whether a frame passes its ICV check, or needs none (R548). -/
def macPass (s : State) (p : Nat) (w : WireFrame) : Bool :=
  match macChecker s p w with
  | none => true
  | some (i, t, _) => w.icvOk || (macCfg s i).validate == 0 || ((macCfg s i).validate == 1 && !t.c)

/-- The ICV check at the end of a frame (R548, R549): counters, the replay window, ICV_FAIL_SAMPLE. `cut`: its head has been cut. -/
def macEnd (s : State) (p : Nat) (w : WireFrame) (cut : Bool) : State :=
  match macChecker s p w with
  | none => s
  | some (i, t, sc, k, a) =>
    let c := macCfg s i
    if c.validate = 0 then scCount s i sc 0 1
    else if w.icvOk then
      let n := w.data.length - 12
      let s1 := scCount s i sc (if t.e then 4 else 3) n
      let s2 := if t.pn < a.pn then scCount s1 i sc 1 1 else saCount s1 i k 0
      modSa s2 i k fun x =>
        let nx := max x.next (t.pn + 1)
        { x with next := nx, pn := max x.pn (nx - c.window) }
    else
      let pass := c.validate == 1 && !t.c
      let s1 := saCount s i k (if pass then 1 else 2)
      let s2 := if pass ∨ cut then s1 else macCount s1 i 8
      raiseSampled s2 0xA4 2 1 (srcId 1 p) fun n =>
        le 1 p ++ le 1 c.validate ++ le 1 (if pass then 2 else b2n cut) ++ le 1 t.an ++ le 4 n ++
          be 8 (((tget (macRun s i).scs sc).map (·.sci)).getD 0)

/-! ### Counters of the pair and of the consist roles (R694, R696, R697) -/

/-- The state with its pair changed. -/
def State.modPair (s : State) (f : Pair → Pair) : State := { s with pair := f s.pair }

/-- Widths of the counter lists of R697. -/
def pairWidths : Nat → List Nat
  | 0 => [64, 64, 64, 64, 32, 32, 32, 32, 32, 32, 32, 32, 32, 32]
  | 1 => [64, 64, 32, 32, 32]
  | _ => [64, 64, 32, 32, 32, 32]

/-- Add to counter `pos` of list `t` (R697): 0 pair, 1 TTDP, 2 and 3 the rings. -/
def pairCount (s : State) (t pos n : Nat) : State :=
  s.modPair fun p => { p with counters := p.counters.modify t fun c => c.modify pos fun x => ctrAdd (at' (pairWidths t) pos 32) x n }

/-- A data frame at a port that TTDP or MRP blocks is dropped and counted (R694, R696). -/
def countBlocked (s : State) (k : Nat) : State := if k = 1 then pairCount s 1 4 1 else pairCount s k 5 1

/-- Whether a frame is a link-local control frame (R694): destination 01-80-C2-00-00-00 to -0F. -/
def linkLocal (data : List Byte) : Bool := ub data 0 6 / 16 == 0x0180C200000

/-- What can refuse a copy at its start: a port that TTDP or MRP blocks (R694, R696), and MACsec (R546, R547). -/
def protect (s : State) (p : Nat) (t : Transit) : State × Bool :=
  match conBlocked s p with
  | some k => if linkLocal t.frame.data then macsecSend s p t.len else (countBlocked s k, false)
  | none => macsecSend s p t.len

end Sys2Proof.Machine
end

