-- ==== Sys2Proof/Machine/Pipeline.lean ====
section
/-! DEFINITION. The ingress pipeline as a whole: a frame head through stages 1 to 7 into the fabric, a frame's end, re-entry at FP15,
the exception handlers, and the timers of FDB, stream gates and FRER (R23, R24, R164 to R214, R256 to R260, R302). -/

namespace Sys2Proof.Machine

/-! ### Stages 1 to 7 -/

/-- Stage 1 (R187, R188): spoofed carriage frames and the parser's discards. -/
def stageParse (f : Frame) (s : State) : StageRes × Option Nat :=
  let r := parseFrame f.data
  let g := { f with parsed := r.parsed }
  if r.parsed.etherType = 0x88B5 ∧ g.point ≤ 32 then (dropAt g s 2, none)
  else match r.discard with
    | some k => (parseDiscard g s k, none)
    | none => (.pass g s, r.ipBad)

/-- Stages 1 to 7 in their order (R23). `w` gives Lodestar's internal header; `reinj` marks a re-injected frame (R260). -/
def runStages (f : Frame) (w : WireFrame) (reinj : Bool) (s : State) : StageRes :=
  let s0 := perfCount (perfCount (ingCount s 5 f.point 0 1) 0x002 1) (0x280 + f.point) 1
  let p := stageParse f s0
  (((((((p.1.andThen fun f s => stageDomain f w.domain p.2 s).andThen stageVlan).andThen fun f s => .pass (stagePrio f w.prio s) s).andThen
    stageFdb).andThen stageStream).andThen stageFilter).andThen stageFrer).andThen fun f s => stageHorizon f w.zone reinj s

/-- What leaves stage 7 (R195, R212, R318): a frame that passed takes its mirror copies and enters the fabric; a dropped one leaves
its epoch's count. -/
def afterStages (r : StageRes) (complete : Bool) : State × Option Frame :=
  match r with
  | .away s => (s, none)
  | .drop f s => (countOut (perfCount (mirrorFrame f true s) 0x004 1) f.epoch, none)
  | .pass f s =>
    let s1 := mirrorFrame f false s
    let s2 := if complete ∧ f.fate = .good then (match f.learn with | some q => learn s1 q | none => s1) else s1
    (enterFabric f complete s2, some f)

/-- A frame at the head of stage 1 (R213): it takes its id, epoch and times and is counted. -/
def newFrame (s : State) (point : Nat) (txRing : Option Nat) (w : WireFrame) : Frame :=
  { id := s.fab.nextId, point := point, first := point, txRing := txRing, data := w.data, epoch := s.ep.epoch, entered := s.time.raw,
    rxTime := s.now, made := w.made, fate := if !w.fcsOk then .fcsFailed else if !w.icvOk then .icvFailed else .good }

/-- A frame enters the pipeline (R213, R318). -/
def enterPipeline (s : State) (point : Nat) (txRing : Option Nat) (w : WireFrame) (complete reinj : Bool) : State × Option Frame :=
  let f := newFrame s point txRing w
  afterStages (runStages f w reinj (countIn (s.modFab fun b => { b with nextId := b.nextId + 1 }) f.epoch)) complete

/-! ### Arrival and end of a frame at a port (R164 to R167, R184, R302, R504) -/

/-- Length of a received frame, FCS included (R166). -/
def wireLen (w : WireFrame) : Nat := w.data.length + 4

/-- Whether a frame is a MAC control frame (R166). -/
def isMacControl (w : WireFrame) : Bool := ub w.data 12 2 == 0x8808

/-- Whether a frame carries an R-TAG (R184). -/
def hasRtag (w : WireFrame) : Bool := (parseFrame w.data).parsed.seq.isSome

/-- Whether a frame waits for its end before stage 1: frames with an R-TAG (R184), and those the MAC decides about at their end
(R166). -/
def waitsForEnd (w : WireFrame) : Bool := hasRtag w || isMacControl w || wireLen w < 64

/-- Whether no frame may enter stage 1 because the fabric step has not been granted (R504). -/
def fabricDark (s : State) : Bool := s.power.state == 0 && !holdsTokens s 1

/-- Count a frame received with a good FCS (R167). -/
def countRx (s : State) (p len : Nat) : State := bwCount (portCount (portCount s p 0 1) p 1 len) p true len

/-- A frame ends at the MAC without having entered the pipeline (R166, R184, R504). Answers whether it goes on to stage 1. -/
def macJudge (s : State) (p : Nat) (w : WireFrame) : State × Bool :=
  let n := wireLen w
  if n < 64 then (portCount s p 5 1, false)
  else if n > 9216 then (portCount s p 6 1, false)
  else if !w.fcsOk then (portCount s p 4 1, false)
  else
    let s1 := countRx s p n
    if isMacControl w then (portCount s1 p 7 1, false)
    else if !macPass s p w then (macEnd s1 p w false, false)
    else if fabricDark s1 then (s1.modPow fun x => { x with wakeDrop := satAdd 32 x.wakeDrop 1 }, false)
    else (macEnd s1 p w false, true)

/-- The end of frame `id` reaches the fabric input (R302): its last cells are cut, with its badness. -/
def endInFabric (s : State) (id len : Nat) (bad : Option Nat) : State :=
  match transitOf s id with
  | none => s
  | some t =>
    let bad := if bad.isNone ∧ !t.fifo ∧ t.earlyCut ∧ len < t.len then some 6 else bad
    let grow := t.fifo ∨ t.len < len
    let s1 := modTransit s id fun t => { t with
      frame := { t.frame with ended := true }, inBad := t.inBad.or bad,
      len := if grow then len else t.len, cells := if grow then max (cellCount len) (t.cutCells + 1) else t.cells }
    if t.cutCells = 0 then (if t.fifo then cutFrame s1 id else s1)
    else cutCells ((if grow then max (cellCount len) (t.cutCells + 1) else t.cells) - t.cutCells) s1 id (t.inBad.or bad).isSome

/-- The end of a frame whose head had entered the pipeline (R166, R195, R302): it is judged, and learning is carried out. -/
def judgeEnd (s : State) (p : Nat) (x : RxOpen) : State :=
  let n := wireLen x.wire
  let fin := fun (s : State) (bad : Option Nat) => match x.id with
    | some id => endInFabric s id (min n 9216) bad
    | none => s
  if n > 9216 then fin (portCount s p 6 1) (some 6)
  else if !x.wire.fcsOk then fin (portCount s p 4 1) (some 0)
  else if !macPass s p x.wire then fin (macEnd (countRx s p n) p x.wire true) (some 1)
  else
    let s0 := macEnd (countRx s p n) p x.wire true
    let s1 := match x.learn with
      | some q => learn s0 q
      | none => s0
    fin s1 none

/-- A frame whose end has arrived: complete at its head (R300), or held until its end (R184). A bad ICV found before any of it was cut
discards it before stage 1 (R548). -/
def receiveWhole (s : State) (p : Nat) (w : WireFrame) : State :=
  if waitsForEnd w ∨ fabricDark s ∨ wireLen w > 9216 ∨ (w.fcsOk ∧ !macPass s p w) then
    let j := macJudge s p w
    if j.2 then (enterPipeline j.1 p none w true false).1 else j.1
  else
    let r := enterPipeline s p none { w with icvOk := true } true false
    judgeEnd r.1 p { wire := w, held := false }

/-- The end of a frame that MACsec discarded at its head (R548): it is counted at the port as its length and FCS say (R166, R167). -/
def discardedEnd (s : State) (p : Nat) (w : WireFrame) : State :=
  let n := wireLen w
  if n < 64 then portCount s p 5 1
  else if n > 9216 then portCount s p 6 1
  else if !w.fcsOk then portCount s p 4 1
  else countRx s p n

/-- Whether a frame is taken at the MAC and never enters stage 1: a pair block at P0 (R678), an MRP frame at a ring port (R695). Its
content arrives with the rows of the pair link and of the rings. -/
def macTaken (s : State) (p : Nat) (w : WireFrame) : Bool :=
  (p == 32 && ub w.data 12 2 == 0x88B6) ||
    (ub w.data 12 2 == 0x88E3 && s.pair.cfg.mrp.any fun c => c.enable && (c.port1 == p || c.port2 == p))

/-- A frame head at a port or at FP14 (R183, R184, R185, R504). `complete` says that its end has arrived by the time its head leaves
stage 7. A port that is not UP, or that is still receiving a frame, receives none. -/
def portArrival (point : Nat) (w : WireFrame) (complete : Bool) (s : State) : Host.Outcome State Fault Refusal :=
  if !awake s then .next s
  else if point ≤ 32 then
    if !portUp s point ∨ (portRun s point).rx.isSome then .next s
    else if macTaken s point w then
      if complete then .next (discardedEnd s point w)
      else .next (modPort s point fun r => { r with rx := some { wire := w, held := true, gone := true } })
    else if (conBlocked s point).isSome ∧ !linkLocal w.data then
      let s1 := countBlocked s ((conBlocked s point).getD 1)
      if complete then .next (discardedEnd s1 point w)
      else .next (modPort s1 point fun r => { r with rx := some { wire := w, held := true, gone := true } })
    else
    let h := macHead s point w
    let s := h.1
    if !h.2 then
      if complete then .next (discardedEnd s point w)
      else .next (modPort s point fun r => { r with rx := some { wire := w, held := true, gone := true } })
    else if complete then .next (receiveWhole s point w)
    else if waitsForEnd w ∨ fabricDark s then .next (modPort s point fun r => { r with rx := some { wire := w, held := true } })
    else
      let r := enterPipeline s point none { w with icvOk := macPass s point w } false false
      .next (modPort r.1 point fun q => { q with rx := some { wire := w, held := false, id := r.2.map (·.id), learn := r.2.bind (·.learn) } })
  else if point = 35 then .next (enterPipeline s point none { w with fcsOk := true, icvOk := true } true false).1
  else .next s

/-- FRAME_END (R184, R195, R302): the end of the frame that a port is receiving. -/
def execFrameEnd (point : Nat) (s : State) : Host.Outcome State Fault Refusal :=
  if point > 32 then .next s else
  match (portRun s point).rx with
  | none => .next s
  | some x =>
    let s1 := modPort s point fun r => { r with rx := none }
    if x.gone then .next (discardedEnd s1 point x.wire)
    else if x.held then
      let j := macJudge s1 point x.wire
      .next (if j.2 then (enterPipeline j.1 point none x.wire true false).1 else j.1)
    else .next (judgeEnd s1 point x)

/-! ### Re-entry at FP15 (R24, R212, R256) -/

/-- RECIRCULATION_ENTRY (R24, R212, R256): the first frame of the recirculation input re-enters. A mirror copy bypasses stages 3 to 7;
a frame of the restore path repeats only stage 7. -/
def execRecirculationEntry (s : State) : Host.Outcome State Fault Refusal :=
  match s.fab.recirc with
  | [] => .next s
  | f :: fs =>
    let g := { f with id := s.fab.nextId, point := 36, txRing := none }
    let s1 := s.modFab fun b => { b with recirc := fs, nextId := b.nextId + 1 }
    let s2 := perfCount (perfCount (ingCount s1 5 36 0 1) 0x002 1) (0x280 + 36) 1
    match f.mirrorOf with
    | some _ => .next (enterFabric g true s2)
    | none => .next (afterStages (stageZoned g false true s2) true).1

/-- RESTORE_COMPLETE (R256, R264): the restore engine fetches the record of the oldest frame's key, revalidates and reinstates it, and
re-enters the frame at FP15. A key that is not in the store re-enters as a miss. -/
def execRestoreComplete (s : State) : Host.Outcome State Fault Refusal :=
  match s.hor.restore with
  | [] => .next s
  | f :: fs =>
    let s0 := (s.modHor fun h => { h with restore := fs }).modFab fun b => { b with recirc := b.recirc ++ [f] }
    match flowOf f with
    | none => .next s0
    | some w =>
      match s0.hor.spilled.find? fun e => sameKey f.domain w e.2 with
      | none =>
        match s0.hor.spillBuf.find? (sameKey f.domain w) with
        | none => .next s0
        | some x =>
          let s1 := s0.modHor fun h => { h with spillBuf := h.spillBuf.filter fun y => !sameKey f.domain w y }
          match (if x.epoch = s1.ep.epoch then some x else revalidate s1 x), takeIndex s1 (sessBucket f.domain w) with
          | some y, some (i, s2) => .next (s2.modHor fun h => { h with sessions := tset h.sessions i { y with index := i } })
          | _, _ => .next s1
      | some (k, x) =>
        let s1 := spillEmptied s0 (s0.modHor fun h => { h with spilled := tdel h.spilled k })
        match if x.epoch = s1.ep.epoch then some x else revalidate s1 x with
        | none => .next s1
        | some y =>
          match takeIndex s1 (sessBucket f.domain w) with
          | some (i, s2) => .next (s2.modHor fun h => { h with sessions := tset h.sessions i { y with index := i } })
          | none => .next s1

/-! ### The exception handlers (R258 to R260) -/

/-- The persistent log's entry for a frame that DISCARD_LOG dropped: at most one per rule per second (R259). -/
def logException (s : State) (rule : Nat) : State :=
  let key := 2 ^ 34 + rule
  let due := match (tgetD s.ing.samples key {}).last with
    | none => true
    | some t => t + secondNs ≤ s.now
  if due then
    logPut (s.modIng fun i => { i with samples := tset i.samples key { last := some s.now } })
      { kind := 2, seq := 0, ev := { type := 0, sev := 0, level := 3, source := srcId 6 14, time := s.now, payload := [] },
        detail := padTo 14 (le 2 rule), uptimeMs := s.mb.uptimeMs }
  else s

/-- A frame that Ikiora sends on with its own header at FP14 (R259, R260): a new frame of the current epoch. -/
def reinject (s : State) (f : Frame) : State :=
  (enterPipeline s 35 none { data := f.data, domain := f.domain, prio := f.prio, zone := f.zone } true true).1

/-- EXCEPTION_HANDLER (R259, R260): Ikiora takes the first frame of the exception queue and runs its rule's handler. -/
def execExceptionHandler (s : State) : Host.Outcome State Fault Refusal :=
  match s.hor.excQueue with
  | [] => .next s
  | x :: xs =>
    if !s.host.ready then .next s else
    let f := x.frame
    let s1 := countOut (s.modHor fun h => { h with excQueue := xs }) f.epoch
    match x.handler with
    | 0 => .next (logException s1 x.rule)
    | 1 =>
      let g := { f with id := s1.fab.nextId, point := 35, dest := 2 ^ 33, epoch := s1.ep.epoch, entered := s1.time.raw, ended := true,
                        fate := .good, learn := none, mirrorOf := none, zenith := false }
      .next (enterFabric g true (countIn (s1.modFab fun b => { b with nextId := b.nextId + 1 }) g.epoch))
    | 2 =>
      match flowOf f with
      | none => .next (reinject s1 f)
      | some w =>
        match findSess s1 f.domain w with
        | some y =>
          let mark := fun (z : Sess) => if z.index = y.index then { z with admitted := true } else z
          .next (reinject (s1.modHor fun h => { h with
            pending := h.pending.map mark, sessions := h.sessions.map fun e => (e.1, mark e.2) }) f)
        | none =>
          let r := tget s1.ep.cur.hor.rules x.rule
          match createSess s1 f.domain w f.zone x.dst x.rule ((r.map (·.profile)).getD 0) false true with
          | some s2 => .next (reinject s2 f)
          | none => .next (reinject (raiseTableFull (horCount s1 2 f.zone 6 1) f.domain (sessBucket f.domain w) f.zone) f)
    | _ => .next s1

/-! ### Timers of the ingress tables -/

/-- FDB_AGING (R196): the learnt entries of a bucket that have reached `AGING_S` without refresh are removed. -/
def execFdbAging (bucket : Nat) (s : State) : Host.Outcome State Fault Refusal :=
  let b := tgetD s.ing.learnt bucket []
  let keep := b.filter fun x => s.now < x.stamp + (domParams s.it x.domain).agingS * secondNs
  if b.isEmpty then .next s
  else .next (s.modIng fun i => { i with learnt := if keep.isEmpty then tdel i.learnt bucket else tset i.learnt bucket keep })

/-- Start offsets of the entries of a stream gate list that begin within its cycle (R202). -/
def gateOffsets : List GateEntry → Nat → Nat → List Nat
  | [], _, _ => []
  | e :: es, off, cycle => if off ≥ cycle then [] else off :: gateOffsets es (off + e.interval) cycle

/-- The entry at which a list stands at a time (R202, R388). -/
def gateIndexAt (g : Gate) (start now : Nat) : Nat :=
  let o := (now - start) % max 1 (gatePeriod g)
  ((gateOffsets g.entries 0 (gatePeriod g)).filter fun x => x ≤ o).length - 1

/-- The next boundary of a running list after now, in ns. -/
def gateNextBoundary (g : Gate) (r : GateRun) (now : Nat) : Nat :=
  let per := max 1 (gatePeriod g)
  let cyc := now - (now - r.start) % per
  let offs := gateOffsets g.entries 0 (gatePeriod g)
  match offs[r.index + 1]? with
  | some o => cyc + o
  | none => cyc + per

/-- STREAM_GATE_ENTRY_BOUNDARY (R201, R202): the gate moves to its next list entry. -/
def execStreamGateEntryBoundary (g : Nat) (s : State) : Host.Outcome State Fault Refusal :=
  let r := tgetD s.ing.gates g {}
  match r.list with
  | none => .next s
  | some l =>
    let s1 := s.until (gateNextBoundary l r s.now)
    .next (s1.modIng fun i => { i with gates := tset i.gates g { r with index := gateIndexAt l r.start s1.now, octets := 0 } })

/-- A pending stream gate list becomes operational (R202). -/
def startGateList (s : State) (g : Nat) : State :=
  let r := tgetD s.ing.gates g {}
  match r.pending with
  | none => s
  | some (t, l) => s.modIng fun i => { i with gates := tset i.gates g { r with
      list := some l, pending := none, start := t, index := gateIndexAt l t s.now, octets := 0 } }

/-- STREAM_GATE_LIST_CHANGE (R202): the pending list's base time has come. -/
def execStreamGateListChange (g : Nat) (s : State) : Host.Outcome State Fault Refusal :=
  match (tgetD s.ing.gates g {}).pending with
  | none => .next s
  | some (t, _) => .next (startGateList (s.until t) g)

/-- Every stream gate moves to the position that a new time gives (R202, R388). -/
def stepGates (s : State) : State :=
  let s1 := (s.ing.gates.filter fun g => match g.2.pending with
    | some (t, _) => t ≤ s.now
    | none => false).foldl (fun s g => startGateList s g.1) s
  s1.modIng fun i => { i with gates := i.gates.map fun g => match g.2.list with
    | some l => (g.1, { g.2 with index := gateIndexAt l g.2.start s1.now, octets := 0 })
    | none => g }

/-- FRER_RESET_TIMEOUT (R206): a recovery function that passed no frame for `RESET_MS` resets its history. -/
def execFrerResetTimeout (i : Nat) (s : State) : Host.Outcome State Fault Refusal :=
  match tget s.it.recovery i with
  | none => .next s
  | some c =>
    let r := tgetD s.ing.recovery i {}
    if r.takeAny then .next s else
    let s1 := resetHistory (s.until (r.lastPass + c.resetMs * 1000000)) i
    let lost := at' (ingCtr s1 2 i) 5 0
    .next (raiseSampled s1 0x26 2 2 (recoverySource s.it i) fun n =>
      le 2 i ++ le 1 0 ++ zeros 1 ++ le 2 r.lastSeq ++ zeros 2 ++ le 4 lost ++ le 4 n)

/-- FRER_LATENT_PERIOD (R208): the counts of the period are compared and start again. -/
def execFrerLatentPeriod (i : Nat) (s : State) : Host.Outcome State Fault Refusal :=
  match tget s.it.recovery i with
  | none => .next s
  | some c =>
    if !bit c.flags 1 then .next s else
    let r := tgetD s.ing.recovery i {}
    let d : Int := ((c.paths - 1) * r.perPassed : Nat) - (r.perDup : Int)
    let s1 := s.modIng fun x => { x with recovery := tset x.recovery i { r with perPassed := 0, perDup := 0 } }
    if d.natAbs > c.latentDiff then
      .next (raise (ingCount s1 2 i 8 1) 0x25 4 2 (recoverySource s.it i)
        (le 2 i ++ le 1 c.paths ++ zeros 1 ++ le 4 r.perPassed ++ le 4 r.perDup ++ le 4 (ofInt 32 d)))
    else .next s1

end Sys2Proof.Machine
end

