-- ==== Sys2Proof/Machine/EgressRun.lean ====
section
/-! DEFINITION. Queue admission and buffer allocation at the carrier output, gate control lists, shapers, the egress scheduler and the
end of a copy (R303 to R309, R334 to R350). -/

namespace Sys2Proof.Machine

/-! ### Counters and events (R358, R359) -/

/-- Widths of the class counters (R358). -/
def egrWidths : List Nat := [64, 64, 32, 32, 32, 32, 32, 32, 32]

/-- Class counters of a point and class. -/
def egrCtr (s : State) (point tc : Nat) : List Nat := tgetD s.egr.counters (qKey point tc) (egrWidths.map fun _ => 0)

/-- Count at a point and class (R358). -/
def egrCount (s : State) (point tc pos n : Nat) : State :=
  s.modEgr fun e => { e with
    counters := tset e.counters (qKey point tc) ((egrCtr s point tc).modify pos fun x => ctrAdd (at' egrWidths pos 32) x n) }

/-- Count at a port's preemption counters (R358). -/
def preCount (s : State) (p pos n : Nat) : State :=
  s.modEgr fun e => { e with preempt := e.preempt.modify p fun r => { r with counters := r.counters.modify pos fun x => satAdd 32 x n } }

/-- KiB of a charge, rounded up. -/
def kib (b : Nat) : Nat := (b + 1023) / 1024

/-- The charge of a class in bytes (R335). -/
def chargeOf (s : State) (point tc : Nat) : Nat := tgetD s.egr.charge (qKey point tc) 0

/-- A sampled event of a point and class (R359). -/
def raiseClass (s : State) (point tc ty sev : Nat) (mk : Nat → List Byte) : State :=
  raiseSampledKey s (2 ^ 36 + 65536 * ty + qKey point tc) ty sev 1 (pointSrc point) mk

/-- Raise QUEUE_DROP_SAMPLE (R359). -/
def queueDrop (s : State) (f : Frame) (point tc pos cause : Nat) : State :=
  raiseClass (egrCount s point tc pos 1) point tc 0x36 1 fun n =>
    le 1 point ++ le 1 tc ++ le 1 cause ++ zeros 1 ++ le 4 n ++ le 4 (kib (chargeOf s point tc)) ++ le 2 (f.stream.getD 0xFFFF)

/-! ### Gate control lists (R341 to R347) -/

/-- The lists of a port. -/
def gclOf (s : State) (p : Nat) : GclPort := at' s.egr.cfg.gcl p {}

/-- The pieces of a list's cycle that remain from offset `o`. -/
def piecesFrom : List (GclEntry × Nat) → Nat → List (GclEntry × Nat)
  | [], _ => []
  | (e, d) :: ps, o => if o < d then (e, d - o) :: ps else piecesFrom ps (o - d)

/-- Start of the last cycle of a list at or before a time (R343). -/
def cycleStart (l : Gcl) (t : Nat) : Nat := t - (t - l.change) % max 1 l.cycle

/-- What lies ahead of a time: the entries with their remaining durations, up to the end of the operational list (R343). With a list
pending, the last cycle may be left out and the entry before it extended up to the change time. -/
def aheadOf (g : GclPort) (now : Nat) : List (GclEntry × Nat) :=
  match g.oper with
  | none => []
  | some l =>
    let ps := cyclePieces l.entries l.cycle
    let cs := cycleStart l now
    let this := piecesFrom ps (now - cs)
    let ext : Option Nat := match g.pending with
      | none => none
      | some q =>
        let lastS := cycleStart l q.change
        if q.change - lastS < l.ext ∧ l.change < lastS then some lastS else none
    match ext, ps.getLast? with
    | some ls, some (e, _) =>
      if ls ≤ now then [(e, (g.pending.map (·.change)).getD now - now)]
      else this ++ ps
    | _, _ => this ++ ps

/-- The entry at which a port's list stands (R341, R344); none while every gate is open. -/
def gclEntryNow (s : State) (p : Nat) : Option GclEntry :=
  let g := gclOf s p
  match g.oper with
  | none => none
  | some l => if !l.enable then none else (aheadOf g s.now).head?.map (·.1)

/-- Whether the gate of a class is open at a point (R341). -/
def gateOpen (s : State) (p c : Nat) : Bool :=
  if p > 31 then true else match gclEntryNow s p with
  | none => true
  | some e => bit e.gates c

/-- Length of the open run at the head of a list of pieces; none if it never ends within them. -/
def openAhead (c : Nat) : List (GclEntry × Nat) → Nat → Option Nat
  | [], _ => none
  | (e, d) :: ps, n => if bit e.gates c then openAhead c ps (n + d) else some n

/-- What remains of the current window of a class in ns (R345); none if it has no end. It ends at the change time of a pending list. -/
def windowLeft (s : State) (p c : Nat) : Option Nat :=
  if p > 31 then none else
  let g := gclOf s p
  let cap := g.pending.map fun q => q.change - s.now
  let run := match g.oper with
    | none => none
    | some l => if l.enable then openAhead c (aheadOf g s.now) 0 else none
  match run, cap with
  | none, x => x
  | some n, none => some n
  | some n, some x => some (min n x)

/-- Transmission time of `n` bytes at a point, in ps (R345). -/
def sendPs (s : State) (p n : Nat) : Nat := bytesPs (n, 1) (linkKbps s p)

/-- Whether `ps` picoseconds fit into a window (R345). -/
def fits (ps : Nat) (left : Option Nat) : Bool :=
  match left with
  | none => true
  | some n => ps ≤ n * 1000

/-- Whether a copy is oversize for its class's longest window in a list (R346). -/
def oversize (s : State) (p c len : Nat) (g : Option Gcl) : Bool :=
  if p > 31 then false else
  let w := longestWindow g c
  if !isExpress s p c && fits (sendPs s p (84 + 64 * fragA s p)) w then false
  else !fits (sendPs s p (len + wireOverhead s p)) w

/-- Drop a copy as oversize for its window (R346, R359). -/
def oversizeDrop (s : State) (f : Frame) (p c len when_ : Nat) (g : Option Gcl) : State :=
  raiseClass (egrCount s p c 6 1) p c 0x33 2 fun n =>
    le 1 p ++ le 1 c ++ le 2 len ++ le 4 ((longestWindow g c).getD 0) ++ le 4 n ++ le 2 (f.stream.getD 0xFFFF) ++ le 1 when_

/-- Whether the automatic hold before and during a protected TC7 window is in force (R347). -/
def autoHold (s : State) (p : Nat) : Bool :=
  let g := gclOf s p
  let isProt := fun (e : GclEntry) => bit e.gates 7 && e.gates % 128 == 0
  let h := (sendPs s p (143 + 64 * fragA s p) + 999) / 1000
  match g.oper with
  | none => false
  | some l =>
    l.enable && match aheadOf g s.now with
      | [] => false
      | (e, d) :: rest => isProt e || (match rest.head? with
          | some (e2, _) => isProt e2 && d ≤ h
          | none => false)

/-! ### Queue admission and buffers (R305, R307, R334, R335) -/

/-- The class of a copy (R334). -/
def classFor (s : State) (f : Frame) (point : Nat) : Nat :=
  if f.mirrorOf.isSome then f.mirrorTc
  else if f.zenith then 7
  else if point ≤ 33 then at' (at' s.egr.cfg.queues point {}).prioMap f.prio 0
  else min 6 f.prio

/-- Buffer sizes of the pools (R304). -/
def poolSizes : List Nat := [128, 256, 512, 1536, 2560, 9728]

/-- The smallest pool that fits a frame (R305). -/
def poolFor (len : Nat) : Nat := (poolSizes.findIdx? fun n => len ≤ n).getD 5

/-- Admission of one copy (R335): the state that counts a refusal, or none if it is admitted. -/
def refuseCopy (s : State) (t : Transit) (point c : Nat) : Option State :=
  let f := t.frame
  let q := at' (at' s.egr.cfg.queues point {}).classes c {}
  let adm := tget s.egr.cfg.minLens (4096 * point + f.stream.getD 0)
  let g := (gclOf s point).oper
  let size := at' poolSizes (poolFor t.len) 9728
  let after := chargeOf s point c + size
  if point ≤ 32 ∧ !portUp s point then some (portCount s point 10 1)
  else if c ≤ 6 ∧ t.len > q.maxLen then some (queueDrop s f point c 4 2)
  else if c = 7 ∧ point ≤ 27 ∧ (f.stream.isNone ∨ adm.isNone) then some (queueDrop s f point c 7 3)
  else if c = 7 ∧ point ≤ 27 ∧ t.len < adm.getD 0 then some (queueDrop s f point c 8 4)
  else if oversize s point c t.len g then some (oversizeDrop s f point c t.len 0 g)
  else if c ≤ 6 ∧ !f.yellow ∧ after > q.limitKib * 1024 then some (queueDrop s f point c 2 0)
  else if c ≤ 6 ∧ f.yellow ∧ after * 100 > q.limitKib * 1024 * q.yellowPct then some (queueDrop s f point c 3 1)
  else none

/-- Queue admission for every copy of a frame, in ascending point order (R335). -/
def admitCopies (t : Transit) : List Nat → State → List Copy → State × List Copy
  | [], s, cs => (s, cs)
  | p :: ps, s, cs =>
    let c := classFor s t.frame p
    match refuseCopy s t p c with
    | some s' => admitCopies t ps s' cs
    | none => admitCopies t ps s (cs ++ [{ point := p, tc := c, state := .queued, charge := at' poolSizes (poolFor t.len) 9728 }])

/-- The pool that supplies a frame's buffer (R305, R307). -/
def supplyPool (s : State) (zenith : Bool) (from_ : Nat) : Option Nat :=
  (List.range 6).find? fun k => from_ ≤ k && (let n := (at' s.fab.pools k {}).free
    if k = 3 ∧ !zenith then n > s.fab.start.zenithReserve else n > 0)

/-- Raise POOL_EXHAUSTED, at most once per second per pool (R305, R323). -/
def poolExhausted (s : State) (k : Nat) (reserve : Bool) : State :=
  let p := at' s.fab.pools k {}
  let due := match p.exhaustedAt with
    | none => true
    | some t => t + secondNs ≤ s.now
  let s1 := if reserve then s else s.modFab fun f => { f with pools := f.pools.modify k fun p => { p with emptied := satAdd 32 p.emptied 1 } }
  if due then
    (raise s1 0x15 3 noLevel (srcId 0 0) (le 1 k ++ le 1 (b2n reserve) ++ zeros 2 ++
      le 4 (at' s.fab.start.counts k 0 - p.retired) ++ le 4 p.fallbackOut ++ le 4 p.dropsSince)).modFab fun f => { f with
        pools := f.pools.modify k fun p => { p with exhaustedAt := some s.now, fallbackOut := 0, dropsSince := 0 } }
  else s1

/-- Take a buffer from pool `k` for a frame whose smallest pool is `want` (R305, R322). -/
def takeBuffer (s : State) (k want : Nat) (zenith : Bool) : State :=
  let s1 := perfCount (s.modFab fun f => { f with pools := (f.pools.modify k fun p => { p with
      free := p.free - 1, lowWater := min p.lowWater (p.free - 1), allocs := wrapAdd 64 p.allocs 1,
      fallbackIn := if k = want then p.fallbackIn else satAdd 32 p.fallbackIn 1 }).modify want fun p =>
        if k = want then p else { p with fallbackOut := p.fallbackOut + 1 } }) 0x20 1
  let s2 := if k = want then s1 else perfCount s1 0x21 1
  let n := (at' s2.fab.pools k {}).free
  if n = 0 then poolExhausted s2 k false
  else if k = 3 ∧ !zenith ∧ n = s.fab.start.zenithReserve then poolExhausted s2 k true
  else s2

/-- A frame's copies join their queues with their charges (R335). -/
def queueCopies (s : State) (id : Nat) (cs : List Copy) : State :=
  cs.foldl (fun s c =>
    let k := qKey c.point c.tc
    let s1 := s.modEgr fun e => { e with queues := tmod e.queues k [] (· ++ [id]), charge := tmod e.charge k 0 (· + c.charge) }
    let n := chargeOf s1 c.point c.tc
    fabCount (s1.modEgr fun e => { e with peak := tmod e.peak k 0 fun x => max x n }) 1 c.point 0 1) s

/-- The admitted copies of a frame get a buffer or a place in the overflow region, or the frame is dropped (R305, R307, R314). -/
def storeFrame (s : State) (id : Nat) (t : Transit) (cs : List Copy) : State :=
  let want := poolFor t.len
  let low := (cs.map (·.point)).headD 0
  let put := fun (pool : Option Nat) (s : State) =>
    queueCopies (modTransit s id fun t => { t with admitted := true, pool := pool, copies := cs, owner := 0 }) id cs
  let behind := !t.frame.zenith && cs.any fun c => (queueOf s c.point c.tc).any fun i => s.fab.region.contains i
  let spill := fun (s : State) =>
    if regionChunks s + chunksOf t.len > s.fab.start.overflowMib * 512 then dropTransit (fabCount s 1 low 3 1) id
    else
      let s1 := fabCount (s.modFab fun f => { f with region := f.region ++ [id], spilledSince := f.spilledSince + 1 }) 4 0 0 1
      put none (fabPeak s1 4 0 6 (regionChunks s1))
  if behind then spill s
  else match supplyPool s t.frame.zenith want with
    | some k => put (some k) (takeBuffer s k want t.frame.zenith)
    | none =>
      if s.fab.overflow ∧ !t.frame.zenith then spill s
      else dropTransit ((fabCount s 1 low 2 1).modFab fun f => { f with pools := f.pools.map fun p => { p with dropsSince := p.dropsSince + 1 } }) id

/-- A pointer with a double-bit error is retired, and the next is used (R308, R323). -/
def pointerError (s : State) (k : Nat) : State :=
  let s1 := fabCount (s.modFab fun f => { f with
    pools := f.pools.modify k fun p => { p with free := p.free - 1, retired := satAdd 32 p.retired 1 } }) 4 0 5 1
  (raise { s1 with free := s1.free + 1 } 0x18 4 noLevel (srcId 0 0)
    (le 1 2 ++ le 1 k ++ zeros 2 ++ le 4 (Config.bufferIndex s.free % 2 ^ 32) ++ le 1 2 ++ zeros 3 ++ le 4 s.fab.eccSince)).modFab
      fun f => { f with eccSince := 0 }

/-- A single-bit error is corrected and counted (R308). -/
def eccCorrected (s : State) : State := fabCount (s.modFab fun f => { f with eccSince := f.eccSince + 1 }) 4 0 4 1

/-- FIRST_CELL_AT_OUTPUT (R334, R335, R305, R314): the oldest frame of an output whose first cell has arrived and that has not been
decided is judged: queue admission for every copy, then its buffer. `ecc` is the outcome of the pointer stack's ECC (R308). -/
def execFirstCellAtOutput (output : Nat) (ecc : EccHit) (s : State) : Host.Outcome State Fault Refusal :=
  match s.fab.transit.find? fun e => e.2.out == output && e.2.arrived > 0 && !e.2.admitted with
  | none => .next s
  | some (id, t) =>
    let ps := bitList 37 t.frame.dest
    if t.bad.isSome then .next (dropTransit (ps.foldl (fun s p => fabCount s 1 p 5 1) s) id)
    else
      let a := admitCopies t ps s []
      if a.2.isEmpty then .next (dropTransit a.1 id)
      else
        let want := poolFor t.len
        let s1 := match ecc with
          | .corrected => eccCorrected a.1
          | .pointer => match supplyPool a.1 t.frame.zenith want with
            | some k => pointerError a.1 k
            | none => a.1
          | _ => a.1
        .next (storeFrame s1 id t a.2)

/-! ### Shapers (R338 to R340) -/

/-- Index of a shaper. -/
def shapIdx (p c : Nat) : Nat := 8 * p + c

/-- A token bucket refilled to now (R338). -/
def tokRefill (h : Shaper) (r : TokRun) (raw : Nat) : TokRun :=
  let gain := if h.mode = 0 then rateGain h.rate (raw - r.last) else frameGain h.rate (raw - r.last)
  { tok := min ((h.burst * 1024 : Nat) : Int) (r.tok + gain), last := raw }

/-- Whether the token-bucket shaper of a class allows a start (R338). -/
def tokAllows (s : State) (p c : Nat) : Bool :=
  if p > 33 then true else
  let h := at' s.egr.cfg.shapers (shapIdx p c) {}
  !h.enable || 0 ≤ (tokRefill h (at' s.egr.toks (shapIdx p c) {}) s.time.raw).tok

/-- Charge the token bucket of a class at the start of a frame, or of a further fragment (R338, R349). -/
def tokCharge (s : State) (p c len : Nat) (fragment : Bool) : State :=
  if p > 33 then s else
  let h := at' s.egr.cfg.shapers (shapIdx p c) {}
  if !h.enable then s else
  let r := tokRefill h (at' s.egr.toks (shapIdx p c) {}) s.time.raw
  let cost := if h.mode = 0 then (if fragment then 24 else len + h.overhead) * 1024 else if fragment then 0 else 1024
  s.modEgr fun e => { e with toks := e.toks.set (shapIdx p c) { r with tok := r.tok - cost } }

/-- Index of a credit-based shaper. -/
def cbsIdx (p c : Nat) : Nat := 2 * p + (c - 5)

/-- The credit of a class brought up to now (R339), its gate having been open or closed since the last update. The class waits while
its frame is preempted. -/
def creditWith (s : State) (p c : Nat) (gate : Bool) : CbsRun :=
  let h := at' s.egr.cfg.cbs (cbsIdx p c) {}
  let r := at' s.egr.credits (cbsIdx p c) {}
  let dt : Int := (s.time.raw - r.last : Nat)
  let up : Int := (h.idle : Int) * dt * 16
  let sending := match tget s.egr.sending p with
    | some x => x.tc == c
    | none => false
  let waits := !(queueOf s p c).isEmpty || (match tget s.egr.held p with
    | some x => x.tc == c
    | none => false)
  let cr := if sending then r.credit + ((h.idle : Int) - linkKbps s p) * dt * 16
    else if !gate then r.credit
    else if waits then r.credit + up
    else if r.credit < 0 then min 0 (r.credit + up)
    else 0
  { credit := cr, last := s.time.raw }

/-- The credit of a class brought up to now with its gate as it stands (R339). -/
def creditNow (s : State) (p c : Nat) : CbsRun := creditWith s p c (gateOpen s p c)

/-- Bring the credits of a point up to now with the gates of state `was` (R339). -/
def settleWith (was s : State) (p : Nat) : State :=
  if p > 33 then s else
  s.modEgr fun e => { e with
    credits := (e.credits.set (cbsIdx p 5) (creditWith s p 5 (gateOpen was p 5))).set (cbsIdx p 6) (creditWith s p 6 (gateOpen was p 6)) }

/-- Bring the credits of a point up to now before its state changes (R339). -/
def settleCredits (s : State) (p : Nat) : State := settleWith s s p

/-- Whether the credit-based shaper of a class allows a start (R339). -/
def cbsAllows (s : State) (p c : Nat) : Bool :=
  if p > 33 ∨ (c ≠ 5 ∧ c ≠ 6) then true
  else !(at' s.egr.cfg.cbs (cbsIdx p c) {}).enable || 0 ≤ (creditNow s p c).credit

/-! ### The scheduler (R301, R337, R345, R348) -/

/-- Whether a copy may leave by cut-through (R301). -/
def mayCut (s : State) (t : Transit) (p : Nat) : Bool :=
  let r := linkKbps s p
  let lim := (if t.wide.isSome then 20000000 else 10000000) / (if inDusk s then 4 else 1)
  t.frame.point ≤ 32 && t.earlyCut && p ≤ 33 && bit s.fab.cutThrough p && r ≤ linkKbps s t.frame.point && r ≤ lim

/-- Whether the head copy of a class has enough of its frame stored to start (R301, R314). -/
def ready (s : State) (id p : Nat) : Bool :=
  match transitOf s id with
  | none => false
  | some t => t.stored || (mayCut s t p && t.arrived ≥ 2 && !s.fab.region.contains id)

/-- Whether the head of a class fits the current window (R345, R348). -/
def fitsWindow (s : State) (p c len : Nat) : Bool :=
  let left := windowLeft s p c
  if isExpress s p c then fits (sendPs s p (len + wireOverhead s p)) left
  else fits (sendPs s p (84 + 64 * fragA s p)) left

/-- Whether preemptable transmission is held (R341, R347). -/
def holding (s : State) (p : Nat) : Bool := preemptOn s p && ((at' s.egr.preempt p {}).hold || autoHold s p)

/-- Everything R337 asks of a class but the window of its head. -/
def classReady (s : State) (p c : Nat) : Bool :=
  match queueOf s p c with
  | [] => false
  | id :: _ => ready s id p && gateOpen s p c && tokAllows s p c && cbsAllows s p c && (isExpress s p c || !holding s p)

/-- Whether a class is eligible (R337). -/
def eligible (s : State) (p c : Nat) : Bool :=
  classReady s p c && match queueOf s p c with
    | [] => false
    | id :: _ => match transitOf s id with
      | some t => fitsWindow s p c t.len
      | none => false

/-- The head of a class that is held only because it does not fit is counted once (R345). -/
def countMiss (s : State) (p c : Nat) : State :=
  if !classReady s p c ∨ eligible s p c then s else
  match (queueOf s p c).head? with
  | none => s
  | some id =>
    match transitOf s id with
    | none => s
    | some t =>
      if t.copies.any fun x => x.point == p && x.missed then s else
      let s1 := modTransit s id fun t => { t with copies := t.copies.map fun x => if x.point = p then { x with missed := true } else x }
      raiseClass (perfCount (egrCount s1 p c 5 1) 0x30 1) p c 0x32 1 fun n =>
        le 1 p ++ le 1 c ++ le 2 t.len ++ le 4 ((windowLeft s p c).getD 0) ++ le 4 n

/-- The bytes of a frame as they leave an Ethernet point (R191, R192, R206): the outer tag per the untagged set, the final priority,
the R-TAG if the stream asks for it. -/
def egressBytes (f : Frame) (p : Nat) : List Byte :=
  let d := f.data
  if f.mirrorOf.isSome then d else
  let rest0 := if f.parsed.vid.isSome then d.drop 16 else d.drop 12
  let inner := if f.parsed.innerVid.isSome then rest0.take 4 else []
  let rest1 := if f.parsed.innerVid.isSome then rest0.drop 4 else rest0
  let rest := if f.parsed.seq.isSome then rest1.drop 6 else rest1
  let tag := if bit f.untagged p then [] else be 2 (f.parsed.tpid.getD 0x8100) ++ be 2 (f.prio * 8192 + b2n f.parsed.dei * 4096 + f.vid)
  let rtag := if f.rtagOut ∧ p ≤ 32 then match f.seqNum with
      | some n => be 2 0xF1C1 ++ zeros 2 ++ be 2 n
      | none => []
    else []
  d.take 12 ++ tag ++ inner ++ rtag ++ rest

/-- The head copy of class `c` starts (R337). `protect` is MACsec's part: it may refuse the frame. -/
def startCopy (protect : State → Nat → Transit → State × Bool) (s : State) (p c : Nat) : State :=
  match (queueOf s p c).head? with
  | none => s
  | some id =>
    match transitOf s id with
    | none => s
    | some t =>
      let m := protect s p t
      if !m.2 then finishCopy m.1 id p
      else
        let cut := !t.stored
        let s1 := modTransit (m.1.modEgr fun e => { e with
            queues := tset e.queues (qKey p c) ((queueOf s p c).drop 1)
            sending := tset e.sending p { frame := id, tc := c, express := isExpress s p c } }) id
          fun t => { t with copies := t.copies.map fun x => if x.point = p then { x with state := .started, cut := cut } else x }
        let s2 := perfCount (tokCharge (modPort s1 p fun r => { r with lpi := false }) p c t.len false) 0x22 1
        countedOut (if cut then perfCount (fabCount s2 1 p 1 1) 0x23 1 else s2) id

/-- The preempted copy of a port resumes with its next fragment (R348, R349). -/
def resumeHeld (s : State) (p : Nat) (x : Sending) : State :=
  preCount (tokCharge (s.modEgr fun e => { e with
    held := tdel e.held p, sending := tset e.sending p { x with frags := x.frags + 1 } }) p x.tc 0 true) p 0 1

/-- The preemptable copy being sent is preempted (R348). -/
def preemptCopy (s : State) (p : Nat) (x : Sending) : State :=
  perfCount (s.modEgr fun e => { e with sending := tdel e.sending p, held := tset e.held p x }) 0x31 1

/-- The highest eligible class among those a filter admits (R337). -/
def pickClass (s : State) (p : Nat) (ok : Nat → Bool) : Option Nat :=
  ([7, 6, 5, 4, 3, 2, 1, 0]).find? fun c => ok c && eligible s p c

/-- Whether the preempted copy of a port may resume (R348). -/
def heldEligible (s : State) (p : Nat) (x : Sending) : Bool :=
  gateOpen s p x.tc && tokAllows s p x.tc && cbsAllows s p x.tc && !holding s p &&
    fits (sendPs s p (84 + 64 * fragA s p)) (windowLeft s p x.tc)

/-- A double-bit error met when a frame's buffer is read (R308): the data or the descriptor. -/
def eccAtSend (s : State) (id : Nat) (hit : EccHit) : State :=
  match transitOf s id with
  | none => s
  | some t =>
    let ev := fun (kind action : Nat) (s : State) =>
      (raise { s with free := s.free + 1 } 0x18 4 noLevel (srcId 0 0) (le 1 kind ++ le 1 (t.pool.getD 0) ++ zeros 2 ++
        le 4 (Config.bufferIndex s.free % 2 ^ 32) ++ le 1 action ++ zeros 3 ++ le 4 s.fab.eccSince)).modFab fun f => { f with eccSince := 0 }
    match hit with
    | .corrected => eccCorrected s
    | .data =>
      let started := t.copies.any fun c => c.state == .started
      ev 0 (b2n started) (makeBad (fabCount s 4 0 5 1) id 5)
    | .descriptor => ev 1 3 (discardUnstarted (modTransit (fabCount s 4 0 5 1) id fun t => { t with retire := true }) id)
    | _ => s

/-- A transmit opportunity at a port of the scheduler (R337, R348). -/
def transmitAt (protect : State → Nat → Transit → State × Bool) (s : State) (p : Nat) : State :=
  let s0 := settleCredits s p
  match tget s0.egr.sending p with
  | some x =>
    if x.express then s0
    else match pickClass s0 p (isExpress s0 p) with
      | some c => startCopy protect (preemptCopy s0 p x) p c
      | none => if !gateOpen s0 p x.tc ∨ holding s0 p then preemptCopy s0 p x else s0
  | none =>
    let s1 := (List.range 8).foldl (fun s c => countMiss s p c) s0
    match tget s1.egr.held p with
    | some x =>
      let e := pickClass s1 p (isExpress s1 p)
      match e, heldEligible s1 p x with
      | some c, true => if c > x.tc then startCopy protect s1 p c else resumeHeld s1 p x
      | some c, false => startCopy protect s1 p c
      | none, true => resumeHeld s1 p x
      | none, false => s1
    | none =>
      match pickClass s1 p (fun _ => true) with
      | some c => startCopy protect s1 p c
      | none => s1

/-! ### H0 (R117, R124, R125) and Lodestar -/

/-- The RX ring of a domain and class (R117). -/
def steerRing (s : State) (d tc : Nat) : Nat := 32 + tgetD s.dma.steer (8 * d + tc) tc

/-- Bytes covered by an RX ring's fetched free descriptors (R124). -/
def coveredBytes (r : Ring) : Nat := (r.rxDescs.map fun d => 64 * min 256 d.units).sum

/-- Whether a ring must hold a frame of `n` bytes (R124, R125). -/
def ringHolds (r : Ring) (n : Nat) : Bool :=
  r.parked || !r.rxHeld.isEmpty || coveredBytes r < n

/-- Raise RING_QUOTA_DROP at the first drop after at least 1 s without one (R137). -/
def quotaDrop (s : State) (k : Nat) (reason : Nat) : State :=
  let r := s.ring k
  let due := match r.lastDrop with
    | none => true
    | some t => t + secondNs ≤ s.now
  let held := (r.rxHeld.map (·.charge)).sum
  let s1 := s.modRing k fun r => { r with c0 := satAdd 32 r.c0 1, lastDrop := some s.now, dropsSince := if due then 0 else r.dropsSince + 1 }
  if due then
    raise s1 0x07 2 1 (srcId 2 k) (le 4 (r.dropsSince + 1) ++ le 2 (kib held) ++ le 1 (k - 32) ++ le 1 reason)
  else s1

/-- A held HOST_RESET record with `n` in `FP12_DROPS` (R66). -/
def withDrops (n : Nat) (r : EvRec) : EvRec := { r with payload := r.payload.take 4 ++ le 4 n ++ r.payload.drop 8 }

/-- A drop towards FP12 between a reset of H0 and the first RX ring enable (R66): it is counted in the HOST_RESET record while that is
held. -/
def fp12Drop (s : State) : State :=
  if !s.host.fp12Count then s else
  s.modHost fun h =>
    let n := satAdd 32 h.fp12Drops 1
    let last := (h.heldHost.filter fun r => r.type == 1).length
    { h with
      fp12Drops := n
      heldHost := (h.heldHost.foldl (fun (a : List EvRec × Nat) r =>
        if r.type = 1 then (a.1 ++ [if a.2 + 1 = last then withDrops n r else r], a.2 + 1) else (a.1 ++ [r], a.2)) ([], 0)).1 }

/-- The head copy of an H0 class is steered to its RX ring (R117, R125). -/
def steerCopy (s : State) (c : Nat) : State :=
  match (queueOf s 33 c).head? with
  | none => s
  | some id =>
    match transitOf s id with
    | none => s
    | some t =>
      let k := steerRing s t.frame.domain c
      let r := s.ring k
      let n := (egressBytes t.frame 33).length
      let size := at' poolSizes (poolFor t.len) 9728
      let drop := fun (s : State) => finishCopy s id 33
      if !r.en ∨ s.host.d3hot then drop (fp12Drop (s.modRing k fun r => { r with c1 := satAdd 32 r.c1 1 }))
      else
        let hold := ringHolds r n
        let charged := (r.rxHeld.map (·.charge)).sum
        if hold ∧ charged + size > r.quota * 1024 then drop (quotaDrop s k (if r.parked then 0 else 1))
        else
          (tokCharge s 33 c t.len false).modEgr (fun e => { e with queues := tset e.queues (qKey 33 c) ((queueOf s 33 c).drop 1) })
            |>.modRing k fun r => { r with
              rxHeld := r.rxHeld ++ [{ frame := t.frame, tc := c, charge := if hold then size else 0, since := s.now }] }

/-- A copy delivered whole to an internal point (R309, R318): the head of its highest class that is stored. -/
def deliverInternal (s : State) (p : Nat) : Option (Nat × Transit × State) :=
  match ([7, 6, 5, 4, 3, 2, 1, 0]).find? fun c => match (queueOf s p c).head? with
      | some id => match transitOf s id with
        | some t => t.stored
        | none => false
      | none => false with
  | none => none
  | some c =>
    match (queueOf s p c).head? with
    | none => none
    | some id =>
      match transitOf s id with
      | none => none
      | some t =>
        let s1 := egrCount (egrCount (perfCount (perfCount s 0x22 1) (0x200 + p) 1) p c 0 1) p c 1 t.len
        some (id, t, finishCopy s1 id p)

/-- A transmit opportunity (R337): at the ports, at H0, or at Lodestar, which accepts its copies as they come. The gateway takes its
own in GW_INPUT_DELIVERY. -/
def transmitOpp (protect : State → Nat → Transit → State × Bool) (s : State) (p : Nat) (hit : EccHit) : State :=
  if p ≤ 32 then
    if !portUp s p then s else
    let s1 := transmitAt protect s p
    match tget s1.egr.sending p with
    | some x => if hit = .clean then s1 else eccAtSend s1 x.frame hit
    | none => s1
  else if p = 33 then
    let s1 := settleCredits s 33
    match pickClass s1 33 (fun _ => true) with
    | some c => steerCopy s1 c
    | none => s1
  else if p = 35 then match deliverInternal s 35 with
    | some (_, _, s1) => s1
    | none => s
  else s

/-! ### The end of a copy (R301, R303, R309) -/

/-- COPY_FINISHED (R301 to R303, R309): the copy that a port is sending ends. A cut-through copy whose frame is not stored to its end
has run dry (cause 4). A bad frame's copy ends stomped. -/
def execCopyFinished (point : Nat) (s : State) : Host.Outcome State Fault Refusal :=
  match tget s.egr.sending point with
  | none => .next s
  | some x =>
    let s0 := settleCredits s point
    let s1 := match transitOf s0 x.frame with
      | some t => if !t.stored ∧ t.bad.isNone then makeBad s0 x.frame 4 else s0
      | none => s0
    match transitOf s1 x.frame with
    | none => .next (s1.modEgr fun e => { e with sending := tdel e.sending point })
    | some t =>
      let s2 := match t.bad with
        | some c => stomp s1 t point c
        | none => s1
      let s3 := egrCount (egrCount (bwCount (portCount (portCount s2 point 2 1) point 3 t.len) point false t.len) point x.tc 0 1) point x.tc 1 t.len
      let s4 := perfCount (s3.modEgr fun e => { e with
        sending := tdel e.sending point, sent := tset e.sent point (egressBytes t.frame point) }) (0x200 + point) 1
      .next (finishCopy s4 x.frame point)

/-! ### Flushes (R165, R309, R368) -/

/-- Remove the copies queued at a point in the classes of a mask, each counted by `ctr`; the number removed. -/
def flushQueues (s : State) (point mask : Nat) (ctr : State → State) : State × Nat :=
  let ids := (bitList 8 mask).flatMap fun c => queueOf s point c
  (ids.foldl (fun s id => finishCopy (ctr s) id point) s, ids.length)

/-- The egress of a port that leaves UP (R165): queued copies are flushed, a copy partly sent is aborted. -/
def flushPort (s : State) (p : Nat) : State :=
  let s1 := (flushQueues s p 0xFF fun s => portCount s p 10 1).1
  let ids := ((tget s1.egr.sending p).toList ++ (tget s1.egr.held p).toList).map (·.frame)
  ids.foldl (fun s id => finishCopy (portCount s p 11 1) id p)
    (s1.modEgr fun e => { e with sending := tdel e.sending p, held := tdel e.held p })

end Sys2Proof.Machine
end

