-- ==== Sys2Proof/Machine/EgressCmds.lean ====
section
/-! DEFINITION. Commands of groups 0x05 (R324 to R330) and 0x06 (R360 to R369), and the rows of gate control lists and frame
preemption (R341 to R350). -/

namespace Sys2Proof.Machine

/-- The counters of a table laid out by their widths. -/
def layCounters (widths vals : List Nat) : List Byte := (widths.zip vals).flatMap fun x => le (x.1 / 8) x.2

/-! ### Group 0x05 -/

/-- FABRIC_STATUS_GET (R324). -/
def specFabricStatusGet : CmdSpec := {
  opcode := 0x0500, badLen := lenIs 0,
  body := fun s _ _ =>
    let d := s.ep.draining
    .done {
      st := s
      payload :=
        le 4 s.ep.epoch ++ le 4 (if d then (s.ep.epoch + 2 ^ 32 - 1) % 2 ^ 32 else 0xFFFFFFFF) ++
      le 4 (if d then s.ep.inOld else 0) ++ le 4 s.ep.inCur ++ le 1 s.fab.mode ++
      le 1 (b2n s.fab.overflow + 2 * b2n s.fab.overflowEn +
        4 * b2n ((at' s.fab.pools 3 {}).free < s.fab.start.zenithReserve)) ++
      le 2 (modeLeftS s) ++ ((List.range 6).flatMap fun k => le 4 (at' s.fab.pools k {}).free) ++
      le 4 (regionChunks s) ++ le 4 s.fab.start.hashSeed ++ zeros 4 } }

/-- A field clamped and then lowered to a multiple (R325). A value changed either way is reported as clamped (assumption 18). -/
def clampLower (off lo hi m x : Nat) : Clamped :=
  let v := clampTo lo hi x / m * m
  { val := v, off := if v = x then [] else [off] }

/-- FABRIC_START_SET (R325). -/
def specFabricStartSet : CmdSpec := {
  opcode := 0x0501, badLen := lenIs 32,
  body := fun s _ p =>
    let cs := (List.range 6).map fun k => clampLower (4 * k) 64 131072 64 (u p (4 * k) 4)
    let counts := cs.map (·.val)
    let seed := u p 24 4
    let zr := clampTo 0 (min 1024 (at' counts 3 0 / 2)) (u p 28 2)
    let ovf := clampLower 30 16 1024 16 (u p 30 2)
    let total := ((counts.zip poolSizes).map fun x => x.1 * x.2).sum
    checked [chkPol (total > 16777216) 0, chkPol (fabricLimit seed s.fab.wide s.ep.cur.ing).isSome 24] fun _ =>
      .done {
        clamps := cs.flatMap (·.off) ++ (if zr = u p 28 2 then [] else [28]) ++ ovf.off
        payload := counts.flatMap (le 4) ++ le 4 seed ++ le 2 zr ++ le 2 ovf.val ++ le 4 total
        st := s.modFab fun f => { f with
          stored := { counts := counts, hashSeed := seed, zenithReserve := zr, overflowMib := ovf.val } } } }

/-- FABRIC_MODE_SET (R312, R313, R326). -/
def specFabricModeSet : CmdSpec := {
  opcode := 0x0502, badLen := lenIs 4,
  body := fun s _ p =>
    let m := u p 0 1
    let en := bit (u p 1 1) 0
    let lim := clampField 2 10 3600 (u p 2 2)
    checked [chkSup (m > 3) 0,
        { bad := m = 1 || (m = 2 && s.lifecycle != 1 && s.lifecycle != 3), status := stNotPermitted, off := 0 }] fun _ =>
      let was := s.fab.mode
      let s1 := setMode (s.modFab fun f => { f with overflowEn := en, modeLimitS := lim.val }) m 1
      .done { clamps := lim.off, st := s1,
              payload := le 1 m ++ le 1 (b2n en) ++ le 2 lim.val ++ le 1 was ++ le 1 (b2n s1.fab.overflow) } }

/-- Apply a WIDE_STREAM_SET entry (R291, R293, R327): the change is pending until the frame boundary. -/
def entryWide (off : Nat) (e : List Byte) (s : State) : EntryRes :=
  let i := u e 0 1
  let op := u e 1 1
  let h := u e 2 2
  let w := at' s.fab.wide i {}
  entryOk [chkSup (i > 15) off, chkSup (op > 1) (off + 1), chkSup (op = 0 && h > 4095) (off + 2),
      chkConf (op = 1 && (w.pending.getD w.handle).isNone) off,
      chkConf (op = 0 && identPoints s.it h != 1) (off + 2)] fun _ =>
    .ok (s.modFab fun f => { f with wide := f.wide.modify i fun x => { x with pending := some (if op = 0 then some h else none) } }, [])

/-- The checks of a WIDE_STREAM_SET entry on the resulting shadow (R298, R327). -/
def shadowWide (off : Nat) (e : List Byte) (s : State) : List Check :=
  let h := u e 2 2
  let n := (s.fab.wide.filter fun w => w.pending.getD w.handle == some h).length
  [chkConf (u e 1 1 = 0 && n > 1) (off + 2), chkPol (zenithFabric s).isSome (off + 2)]

/-- WIDE_STREAM_SET (R327): a change whose stream has no earlier cell under way applies at once (R293). -/
def specWideStreamSet : CmdSpec := {
  opcode := 0x0503, level := 2, bulkIn := true, badLen := lenList 8,
  body := fun s r p => match listBody 8 entryWide shadowWide 0 false s r p with
    | .done d => .done { d with st := (List.range 16).foldl (fun s w => if wideWaits s w then s else applyWide s w) d.st }
    | x => x }

/-- CUT_THROUGH_SET (R328). -/
def specCutThroughSet : CmdSpec := {
  opcode := 0x0504, badLen := lenIs 8,
  body := fun s _ p =>
    let v := u p 0 8 % 2 ^ 34
    .done { payload := le 8 v, st := s.modFab fun f => { f with cutThrough := v } } }

/-- Indices of the tables of R322. -/
def fabPopulation : List Nat := [16, 37, 6, 16, 1]

/-- The counters of an index of R322 in order. -/
def fabValues (s : State) (t i : Nat) : List Nat :=
  if t = 2 then
    let p := at' s.fab.pools i {}
    [p.allocs, p.fallbackIn, p.emptied, p.free, p.lowWater, p.retired]
  else fabCtr s t i

/-- The counters of an index after `CLEAR` (R329). -/
def fabClear (s : State) (t i : Nat) : State :=
  if t = 2 then s.modFab fun f => { f with pools := f.pools.modify i fun p => { p with
    allocs := 0, fallbackIn := 0, emptied := 0, lowWater := p.free } }
  else
    let keep : List Nat := if t = 3 then [0, 0, (tgetD s.fab.reseq i []).length]
      else if t = 4 then [0, 0, 0, 0, 0, 0, regionChunks s] else (fabWidths t).map fun _ => 0
    s.modFab fun f => { f with counters := tset f.counters (65536 * t + i) keep }

/-- FABRIC_COUNTERS_GET (R322, R329). -/
def specFabricCountersGet : CmdSpec := {
  opcode := 0x0505, badLen := lenIs 4,
  body := fun s _ p =>
    let t := u p 0 1
    let i := u p 2 2
    checked [chkSup (t > 4) 0, chkSup (i ≥ at' fabPopulation t 0) 2] fun _ =>
      .done { st := if bit (u p 1 1) 0 then fabClear s t i else s
              payload := le 1 t ++ zeros 1 ++ le 2 i ++ zeros 4 ++ layCounters (fabWidths t) (fabValues s t i) } }

/-- The completion of EPOCH_SYNC (R330). -/
def epochSyncPayload (s : State) (waitedUs : Nat) : List Byte := le 4 s.ep.epoch ++ le 4 (min waitedUs (2 ^ 32 - 1))

/-- EPOCH_SYNC (R330): COMMIT_AFTER_DRAIN completes one that waits. -/
def specEpochSync : CmdSpec := {
  opcode := 0x0506, badLen := lenIs 0,
  body := fun s r _ =>
    if s.ep.draining then (if bit r.flags 0 then .fail stBusy noDetail else .wait .sync s)
    else .done { payload := epochSyncPayload s 0, st := s } }

/-! ### Group 0x06: queues and shapers -/

/-- QUEUE_SET (R334, R336, R360). -/
def specQueueSet : CmdSpec := {
  opcode := 0x0600, badLen := lenIs 72,
  body := fun s _ p =>
    let pt := u p 0 1
    checked [chkSup (pt > 36) 0] fun _ =>
      let old := at' s.egr.cfg.queues pt {}
      let pm := (List.range 8).map fun i => if pt ≤ 33 then clampField (8 + i) 0 6 (u p (8 + i) 1) else { val := at' old.prioMap i 0, off := [] }
      let cs := (List.range 7).map fun c =>
        let o := 16 + 8 * c
        (clampField o 4 8192 (u p o 2), clampField (o + 2) 0 100 (u p (o + 2) 1), clampField (o + 4) 64 9216 (u p (o + 4) 2))
      let q : QueueCfg := {
        prioMap := pm.map (·.val), classes := cs.map fun c => { limitKib := c.1.val, yellowPct := c.2.1.val, maxLen := c.2.2.val } }
      .done {
        clamps := pm.flatMap (·.off) ++ cs.flatMap fun c => c.1.off ++ c.2.1.off ++ c.2.2.off
        payload := le 1 pt ++ zeros 7 ++ q.prioMap.flatMap (le 1) ++
          q.classes.flatMap fun c => le 2 c.limitKib ++ le 1 c.yellowPct ++ zeros 1 ++ le 2 c.maxLen ++ zeros 2
        st := zenithRecheck (s.modEgr fun e => { e with cfg := { e.cfg with queues := e.cfg.queues.set pt q } }) } }

/-- SHAPER_SET (R338, R340, R353, R361). -/
def specShaperSet : CmdSpec := {
  opcode := 0x0601, badLen := lenIs 16,
  body := fun s _ p =>
    let pt := u p 0 1
    let c := u p 1 1
    let en := u p 2 1 = 1
    let mode := u p 3 1
    let fl := u p 4 1 % 2
    let ov := if mode = 0 then clampField 5 0 63 (u p 5 1) else { val := min 63 (u p 5 1), off := [] }
    let rate := clampField 8 1 100000000 (u p 8 4)
    let burst := if mode = 0 then clampField 12 64 16777215 (u p 12 4) else clampField 12 1 65535 (u p 12 4)
    checked [chkSup (pt > 33) 0, chkSup (c > 7) 1, chkSup (u p 2 1 > 1) 2, chkSup (mode > 1) 3,
        chkPol (c = 7 && en && pt ≤ 27 && !(admittedAt s pt).isEmpty) 2] fun _ =>
      let h : Shaper := { enable := en, mode := mode, flags := fl, overhead := ov.val, rate := rate.val, burst := burst.val }
      .done {
        clamps := ov.off ++ rate.off ++ burst.off
        payload := le 1 pt ++ le 1 c ++ le 1 (b2n en) ++ le 1 mode ++ le 1 fl ++ le 1 ov.val ++ zeros 2 ++ le 4 rate.val ++ le 4 burst.val
        st := s.modEgr fun e => { e with
          cfg := { e.cfg with shapers := e.cfg.shapers.set (shapIdx pt c) h }
          toks := e.toks.set (shapIdx pt c) { tok := if fl = 1 then ((burst.val * 1024 : Nat) : Int) else 0, last := s.time.raw } } } }

/-- The credit after a reset with `RESET_FULL` 0, in 10⁻⁷ bit (R340). -/
def cbsLowCredit (s : State) (p c overhead idle : Nat) : Int :=
  let port := linkKbps s p
  let maxLen := (at' (at' s.egr.cfg.queues p {}).classes c {}).maxLen
  0 - ((((maxLen + overhead) * 80000000 : Nat) : Int) * ((port : Int) - idle) / max 1 port)

/-- CBS_SET (R339, R340, R353, R362). -/
def specCbsSet : CmdSpec := {
  opcode := 0x0602, badLen := lenIs 12,
  body := fun s _ p =>
    let pt := u p 0 1
    let c := u p 1 1
    let en := u p 2 1 = 1
    let fl := u p 3 1 % 2
    let ov := clampField 4 0 63 (u p 4 1)
    let nom := nominalKbps s pt
    let idle := clampField 8 1 nom (u p 8 4)
    let h : Cbs := { enable := en, flags := fl, overhead := ov.val, idle := idle.val }
    let other := at' s.egr.cfg.cbs (cbsIdx pt (11 - c)) {}
    let w := wireRes s pt
    let total := idle.val + if other.enable then other.idle else 0
    checked [chkSup (pt > 33) 0, chkSup (c != 5 && c != 6) 1, chkSup (u p 2 1 > 1) 2,
        chkPol (en && total * w.2 + w.1 > nom * w.2) 8] fun _ =>
      let s0 := settleCredits s pt
      .done {
        clamps := ov.off ++ idle.off
        payload := le 1 pt ++ le 1 c ++ le 1 (b2n en) ++ le 1 fl ++ le 1 ov.val ++ zeros 3 ++ le 4 idle.val ++
          le 4 (ofInt 32 ((idle.val : Int) - nom))
        st := s0.modEgr fun e => { e with
          cfg := { e.cfg with cbs := e.cfg.cbs.set (cbsIdx pt c) h }
          credits := e.credits.set (cbsIdx pt c) {
            credit := if fl = 1 then 0 else cbsLowCredit s pt c ov.val idle.val, last := s.time.raw } } } }

/-! ### Gate control lists -/

/-- The state with the lists of a port changed. -/
def modGcl (s : State) (p : Nat) (f : GclPort → GclPort) : State :=
  s.modEgr fun e => { e with cfg := { e.cfg with gcl := e.cfg.gcl.modify p f } }

/-- The state with the preemption state of a port changed. -/
def modPre (s : State) (p : Nat) (f : PreemptRun → PreemptRun) : State :=
  s.modEgr fun e => { e with preempt := e.preempt.modify p f }

/-- The change time of a list (R342), with the cycles n it lies in the past, if it does. -/
def changeTime (base cycle now : Nat) : Nat × Option Nat :=
  if now ≤ base then (base, none)
  else
    let n := (now - base + max 1 cycle - 1) / max 1 cycle
    (base + n * cycle, some n)

/-- The entries of a GCL_SET payload with the offsets clamped (R363). -/
def gclEntriesOf (p : List Byte) (n : Nat) : List (GclEntry × List Nat) :=
  (List.range n).map fun i =>
    let o := 32 + 8 * i
    let iv := clampField (o + 4) 32 1000000000 (u p (o + 4) 4)
    ({ gates := u p o 1, op := u p (o + 1) 1, interval := iv.val }, iv.off)

/-- Offset of the first entry of a list that opens TC7; of its first entry if none does. -/
def tc7Offset (es : List GclEntry) : Nat := 32 + 8 * ((es.findIdx? fun e => bit e.gates 7).getD 0)

/-- `MIN_TC7_WINDOW_NS` (R363). -/
def minTc7 (g : Gcl) : Nat := if g.enable then (shortestTc7 g).getD 0xFFFFFFFF else 0xFFFFFFFF

/-- GCL_SET (R341, R342, R353, R363). -/
def specGclSet : CmdSpec := {
  opcode := 0x0603, bulkIn := true, badLen := lenCounted 32 2 2 8,
  body := fun s _ p =>
    let pt := u p 0 1
    let en := u p 1 1 = 1
    let n := u p 2 2
    let es := gclEntriesOf p n
    let ents := es.map (·.1)
    let ext := clampField 4 0 1000000 (u p 4 4)
    let cyc0 := if u p 16 4 = 0 then (ents.map (·.interval)).sum else u p 16 4
    let cyc := clampField 16 1000 1000000000 cyc0
    let base := u p 8 8
    let ct := changeTime base cyc.val s.now
    let g : Gcl := { enable := en, ext := ext.val, base := base, cycle := cyc.val, change := ct.1, entries := ents }
    let s1 := modGcl s pt fun x => { x with pending := some g }
    checked ([chkSup (pt > 31) 0, chkSup (u p 1 1 > 1) 1, chkSup ((en && (n < 1 || n > 1024)) || (!en && n != 0)) 2] ++
        ((List.range n).map fun i => chkSup ((at' ents i { gates := 0, op := 0, interval := 0 }).op > 2) (33 + 8 * i)) ++
        [chkPol (portRuleBad s1 pt == some 1) 0, chkPol (rule2Bad s1 pt g) (tc7Offset ents)]) fun _ =>
      let s2 := match ct.2 with
        | some k => raise s1 0x31 2 noLevel (srcId 1 pt) (le 1 pt ++ zeros 3 ++ le 4 (min k (2 ^ 32 - 1)) ++ le 8 ct.1)
        | none => s1
      .done {
        clamps := ext.off ++ (if u p 16 4 = 0 ∧ n = 0 then [] else cyc.off) ++ es.flatMap (·.2)
        payload := le 1 pt ++ le 1 (b2n (gclOf s pt).pending.isSome) ++ le 2 n ++ le 4 cyc.val ++ le 8 ct.1 ++ le 4 ext.val ++ le 4 (minTc7 g)
        st := s2 } }

/-- GCL_GET (R364). -/
def specGclGet : CmdSpec := {
  opcode := 0x0604, bulkOut := true, badLen := lenIs 2,
  body := fun s _ p =>
    let pt := u p 0 1
    let which := u p 1 1
    let l := if which = 0 then (gclOf s pt).oper else (gclOf s pt).pending
    checked [chkSup (pt > 31) 0, chkSup (which > 1) 1, chkConf (which = 1 && l.isNone) 1] fun _ =>
      let g := l.getD { enable := false, ext := 0, base := 0, cycle := 0, change := 0, entries := [] }
      .done {
      st := s
      payload :=
          le 1 pt ++ le 1 (b2n g.enable) ++ le 2 g.entries.length ++ le 4 g.ext ++ le 8 g.change ++ le 4 g.cycle ++ zeros 12 ++
        g.entries.flatMap fun e => le 1 e.gates ++ le 1 e.op ++ zeros 2 ++ le 4 e.interval } }

/-- The entry a port comes to acts on preemptable transmission (R341): Set-And-Hold-MAC holds it, Set-And-Release-MAC releases it,
and the automatic hold of a protected window is counted with the holds. -/
def enterEntry (s : State) (p : Nat) (e : Option GclEntry) : State :=
  if p > 27 then s else
  let r := at' s.egr.preempt p {}
  match e with
  | none => modPre s p fun r => { r with hold := false }
  | some x =>
    let prot := bit x.gates 7 && x.gates % 128 == 0
    if x.op = 1 then
      let s1 := modPre s p fun r => { r with hold := true }
      if preemptOn s p ∧ !r.hold then preCount s1 p 1 1 else s1
    else
      let s1 := if x.op = 2 then modPre s p fun r => { r with hold := false } else s
      if preemptOn s p ∧ prot ∧ !r.hold then preCount s1 p 1 1 else s1

/-- Judge the queued copies of a class against a new list (R346). -/
def rejudge (s : State) (p c : Nat) (g : Option Gcl) : State :=
  (queueOf s p c).foldl (fun s id => match transitOf s id with
    | some t => if oversize s p c t.len g then finishCopy (oversizeDrop s t.frame p c t.len 1 g) id p else s
    | none => s) s

/-- The pending list of a port becomes operational (R342, R343, R346). -/
def gclSwitch (s : State) (p : Nat) : State :=
  match (gclOf s p).pending with
  | none => s
  | some g =>
    let s1 := modGcl s p fun _ => { oper := some g, pending := none }
    let s2 := raise s1 0x30 1 noLevel (srcId 1 p) (le 1 p ++ le 1 (b2n !g.enable) ++ le 2 g.entries.length ++ le 4 g.cycle ++ le 8 g.base)
    let s3 := enterEntry s2 p (gclEntryNow s2 p)
    (List.range 8).foldl (fun s c => rejudge s p c (some g)) s3

/-- A step of Meridian time: pending lists whose change time it has passed become operational (R344). -/
def stepGcls (s : State) : State :=
  (List.range 32).foldl (fun s p => match (gclOf s p).pending with
    | some g => if g.change ≤ s.now then gclSwitch s p else s
    | none => s) s

/-- GCL_ENTRY_BOUNDARY (R341, R347): the operational list of a port comes to its next entry. -/
def execGclEntryBoundary (p : Nat) (s : State) : Host.Outcome State Fault Refusal :=
  if p > 31 then .next s else
  let g := gclOf s p
  match g.oper with
  | none => .next s
  | some l =>
    if !l.enable then .next s else
    match aheadOf g s.now with
    | [] => .next s
    | (_, d) :: _ =>
      let t := s.now + d
      if (g.pending.map fun q => decide (q.change ≤ t)) == some true then .next s
      else
        let s1 := settleWith s (s.until t) p
        .next (enterEntry s1 p (gclEntryNow s1 p))

/-- GCL_CHANGE_TIME (R342, R343). -/
def execGclChangeTime (p : Nat) (s : State) : Host.Outcome State Fault Refusal :=
  match (gclOf s p).pending with
  | none => .next s
  | some g => .next (gclSwitch (settleWith s (s.until g.change) p) p)

/-! ### Frame preemption (R348 to R350) -/

/-- Raise PREEMPT_VERIFY (R359). -/
def raiseVerify (s : State) (p status : Nat) : State :=
  let r := at' s.egr.preempt p {}
  raise s 0x34 (if status = 1 then 3 else 1) noLevel (srcId 1 p)
    (le 1 p ++ le 1 status ++ le 1 r.attempts ++ le 1 (r.partner.getD 0xFF) ++ le 4 (at' r.counters 6 0))

/-- Verification restarts (R350), or preemption becomes active or inactive without it (R348). -/
def restartVerify (s : State) (p : Nat) : State :=
  if p > 27 then s else
  let c := at' s.egr.cfg.preempt p {}
  let r := at' s.egr.preempt p {}
  if !c.enable ∨ !portUp s p then
    let s1 := modPre s p fun r => { r with active := false, waiting := false, failed := false, attempts := 0, hold := false }
    zenithRecheck (if r.active then raiseVerify s1 p 3 else s1)
  else if c.verify then
    zenithRecheck (modPre s p fun r => { r with active := false, waiting := true, failed := false, attempts := 1 })
  else zenithRecheck (raiseVerify (modPre s p fun r => { r with active := true, waiting := false, failed := false, attempts := 0 }) p 2)

/-- PREEMPT_SET (R350, R365). -/
def specPreemptSet : CmdSpec := {
  opcode := 0x0605, badLen := lenIs 8,
  body := fun s _ p =>
    let pt := u p 0 1
    let ms := clampField 4 1 128 (u p 4 1)
    let af := clampField 5 0 3 (u p 5 1)
    checked [chkSup (pt > 27) 0, chkSup (u p 1 1 > 1) 1, chkSup (u p 2 1 > 1) 2] fun _ =>
      let old := at' s.egr.cfg.preempt pt {}
      let c : PreemptCfg := {
        enable := u p 1 1 = 1, verify := u p 2 1 = 1, express := withBit (u p 3 1) 7 true, verifyMs := ms.val, addFrag := af.val }
      let s1 := s.modEgr fun e => { e with cfg := { e.cfg with preempt := e.cfg.preempt.set pt c } }
      let s2 := if c.enable ≠ old.enable ∨ c.verify ≠ old.verify then restartVerify s1 pt else zenithRecheck s1
      .done {
        clamps := ms.off ++ af.off, st := s2
        payload := le 1 pt ++ le 1 (b2n c.enable) ++ le 1 (b2n c.verify) ++ le 1 c.express ++ le 1 ms.val ++ le 1 af.val ++ zeros 2 ++
          le 1 (b2n (preemptOn s2 pt)) } }

/-- PREEMPT_VERIFY_TIMEOUT (R348, R350): `VERIFY_MS` pass without a response. A further verify frame is sent, up to 3 in all; after
the third the verification has failed. -/
def execPreemptVerifyTimeout (p : Nat) (s : State) : Host.Outcome State Fault Refusal :=
  let r := at' s.egr.preempt p {}
  if p > 27 ∨ !r.waiting then .next s else
  let s0 := s.later (625000 * (at' s.egr.cfg.preempt p {}).verifyMs)
  if r.attempts < 3 then .next (modPre s0 p fun r => { r with attempts := r.attempts + 1 })
  else .next (raiseVerify (preCount (modPre s0 p fun r => { r with waiting := false, failed := true }) p 6 1) p 1)

/-- PREEMPT_RESPONSE_RX (R348 to R350): the partner answers the verify frame and advertises its addFragSize. -/
def execPreemptResponseRx (p addFrag : Nat) (s : State) : Host.Outcome State Fault Refusal :=
  let r := at' s.egr.preempt p {}
  if p > 27 ∨ !r.waiting then .next s else
  .next (zenithRecheck (raiseVerify
    (modPre s p fun r => { r with waiting := false, failed := false, active := true, partner := some (addFrag % 4) }) p 0))

/-! ### Zenith admission, status, flush, counters -/

/-- Apply a ZENITH_ADMIT_SET entry (R351, R366). -/
def entryAdmit (off : Nat) (e : List Byte) (s : State) : EntryRes :=
  let pt := u e 0 1
  let op := u e 1 1
  let h := u e 2 2
  let ml := clampField (off + 4) 64 1522 (u e 4 2)
  let k := 4096 * pt + h
  entryOk [chkSup (pt > 27) off, chkSup (op > 1) (off + 1), chkSup (h > 4095) (off + 2),
      chkConf (op = 1 && !thas s.egr.cfg.minLens k) (off + 2), chkConf (op = 0 && !zenithOn s.it h) (off + 2),
      { bad := op = 0 && !thas s.egr.cfg.minLens k && s.egr.cfg.minLens.length ≥ 4096, status := stNoResource, off := off }] fun _ =>
    .ok (s.modEgr fun x => { x with cfg := { x.cfg with
        minLens := if op = 1 then tdel x.cfg.minLens k else tset x.cfg.minLens k ml.val } }, if op = 0 then ml.off else [])

/-- Whether an entry's port shares a fabric output with a port whose rule it breaks (R353). -/
def shadowAdmit (off : Nat) (e : List Byte) (s : State) : List Check :=
  let fp := fpOf (u e 0 1)
  [chkPol ((List.range 28).any fun q => fpOf q == fp && !bit (at' s.egr.zenPort q 0) 4 && (portRuleBad s q).isSome) off]

/-- ZENITH_ADMIT_SET (R351, R353, R366). -/
def specZenithAdmitSet : CmdSpec := {
  opcode := 0x0606, level := 2, bulkIn := true, badLen := lenList 8,
  body := fun s r p => match listBody 8 entryAdmit shadowAdmit 0 false s r p with
    | .done d => if (zenithPorts d.st).isSome then .fail stPolicy 4 else .done { d with st := zenithRecheck d.st }
    | x => x }

/-- ZENITH_STATUS_GET (R367). -/
def specZenithStatusGet : CmdSpec := {
  opcode := 0x0607, badLen := lenIs 1,
  body := fun s _ p =>
    let pt := u p 0 1
    let adm := admittedAt s pt
    let why := zenDevNow s + if adm.isEmpty then 0 else zenPortNow s pt
    let prot : Bool := match (gclOf s pt).oper with
      | some l => l.enable && !((windowsOf l 7).getD [0]).isEmpty && allProtected l
      | none => false
    checked [chkSup (pt > 27) 0] fun _ =>
      .done {
      st := s
      payload :=
          le 1 pt ++ le 1 (if adm.isEmpty then 2 else b2n (why != 0)) ++ le 2 adm.length ++ le 4 why ++ le 4 (nominalKbps s pt / 1000) ++
        le 4 (fceil (wireRes s pt)) ++ le 4 (fceil (admittedBurst s pt)) ++ le 1 (b2n (preemptOn s pt) + 2 * b2n prot) ++ zeros 3 ++
        le 8 (blockingPs s pt) ++ le 8 (queueingPs s pt) ++ le 8 (boundPs s pt) } }

/-- QUEUE_FLUSH (R309, R322, R368). -/
def specQueueFlush : CmdSpec := {
  opcode := 0x0608, badLen := lenIs 2,
  body := fun s _ p =>
    let pt := u p 0 1
    checked [chkSup (pt > 36) 0] fun _ =>
      let r := flushQueues (settleCredits s pt) pt (u p 1 1) fun s => fabCount s 1 pt 6 1
      .done { payload := le 4 r.2, st := r.1 } }

/-- EGRESS_COUNTERS_GET (R358, R369). -/
def specEgressCountersGet : CmdSpec := {
  opcode := 0x0609, badLen := lenIs 4,
  body := fun s _ p =>
    let t := u p 0 1
    let clr := bit (u p 1 1) 0
    let i := u p 2 1
    let c := u p 3 1
    checked [chkSup (t > 1) 0, chkSup (i > if t = 0 then 36 else 27) 2, chkSup (t = 0 && c > 7) 3] fun _ =>
      let k := qKey i c
      let r := at' s.egr.preempt i {}
      let vals := if t = 0 then layCounters egrWidths (egrCtr s i c) ++ le 4 (kib (chargeOf s i c)) ++ le 4 (kib (tgetD s.egr.peak k 0))
        else r.counters.flatMap (le 4) ++ le 4 (b2n r.active)
      let st := if !clr then s
        else if t = 0 then s.modEgr fun e => { e with counters := tdel e.counters k, peak := tset e.peak k (chargeOf s i c) }
        else modPre s i fun r => { r with counters := List.replicate 7 0 }
      .done { payload := le 1 t ++ zeros 1 ++ le 1 i ++ le 1 c ++ zeros 4 ++ vals, st := st } }

/-! ### The rows of these commands -/

/-- FABRIC_STATUS_GET (R324): the command from its source. -/
def execFabricStatusGet (r : Req) (s : State) : Host.Outcome State Fault Refusal := command specFabricStatusGet r s

/-- FABRIC_START_SET (R325): the command from its source. -/
def execFabricStartSet (r : Req) (s : State) : Host.Outcome State Fault Refusal := command specFabricStartSet r s

/-- FABRIC_MODE_SET (R326): the command from its source. -/
def execFabricModeSet (r : Req) (s : State) : Host.Outcome State Fault Refusal := command specFabricModeSet r s

/-- WIDE_STREAM_SET (R327): the command from its source. -/
def execWideStreamSet (r : Req) (s : State) : Host.Outcome State Fault Refusal := command specWideStreamSet r s

/-- CUT_THROUGH_SET (R328): the command from its source. -/
def execCutThroughSet (r : Req) (s : State) : Host.Outcome State Fault Refusal := command specCutThroughSet r s

/-- FABRIC_COUNTERS_GET (R329): the command from its source. -/
def execFabricCountersGet (r : Req) (s : State) : Host.Outcome State Fault Refusal := command specFabricCountersGet r s

/-- EPOCH_SYNC (R330): the command from its source. -/
def execEpochSync (r : Req) (s : State) : Host.Outcome State Fault Refusal := command specEpochSync r s

/-- QUEUE_SET (R360): the command from its source. -/
def execQueueSet (r : Req) (s : State) : Host.Outcome State Fault Refusal := command specQueueSet r s

/-- SHAPER_SET (R361): the command from its source. -/
def execShaperSet (r : Req) (s : State) : Host.Outcome State Fault Refusal := command specShaperSet r s

/-- CBS_SET (R362): the command from its source. -/
def execCbsSet (r : Req) (s : State) : Host.Outcome State Fault Refusal := command specCbsSet r s

/-- GCL_SET (R363): the command from its source. -/
def execGclSet (r : Req) (s : State) : Host.Outcome State Fault Refusal := command specGclSet r s

/-- GCL_GET (R364): the command from its source. -/
def execGclGet (r : Req) (s : State) : Host.Outcome State Fault Refusal := command specGclGet r s

/-- PREEMPT_SET (R365): the command from its source. -/
def execPreemptSet (r : Req) (s : State) : Host.Outcome State Fault Refusal := command specPreemptSet r s

/-- ZENITH_ADMIT_SET (R366): the command from its source. -/
def execZenithAdmitSet (r : Req) (s : State) : Host.Outcome State Fault Refusal := command specZenithAdmitSet r s

/-- ZENITH_STATUS_GET (R367): the command from its source. -/
def execZenithStatusGet (r : Req) (s : State) : Host.Outcome State Fault Refusal := command specZenithStatusGet r s

/-- QUEUE_FLUSH (R368): the command from its source. -/
def execQueueFlush (r : Req) (s : State) : Host.Outcome State Fault Refusal := command specQueueFlush r s

/-- EGRESS_COUNTERS_GET (R369): the command from its source. -/
def execEgressCountersGet (r : Req) (s : State) : Host.Outcome State Fault Refusal := command specEgressCountersGet r s

end Sys2Proof.Machine
end

