-- ==== Sys2Proof/Machine/TimeRun.lean ====
section
/-! DEFINITION. Meridian time, gPTP and steering: the rules R371 to R390, the rows of gPTP and the commands of group 0x07
(R397 to R401). -/

namespace Sys2Proof.Machine

/-- The state with its time changed. -/
def State.modTime (s : State) (f : Time → Time) : State := { s with time := f s.time }

/-- Parameters of Meridian. -/
def timeParams (s : State) : TimeParams := s.time.cfg.params

/-- Settings of a gPTP instance. -/
def gptpCfg (s : State) (i : Nat) : GptpCfg := at' s.time.cfg.inst i {}

/-- Running state of a gPTP instance. -/
def gptpRun (s : State) (i : Nat) : GptpRun := at' s.time.run i {}

/-- The state with a gPTP instance changed. -/
def modGptp (s : State) (i : Nat) (f : GptpRun → GptpRun) : State := s.modTime fun t => { t with run := t.run.modify i f }

/-- The state with a port of a gPTP instance changed. -/
def modGptpPort (s : State) (i p : Nat) (f : GptpPort → GptpPort) : State := modGptp s i fun r => { r with ports := r.ports.modify p f }

/-- Count at a port of an instance (R395). -/
def gptpCount (s : State) (i p pos : Nat) : State :=
  modGptpPort s i p fun x => { x with counters := x.counters.modify pos fun c => wrapAdd 32 c 1 }

/-- The state with the link delay service of a port changed. -/
def modLink (s : State) (p : Nat) (f : LinkDelay → LinkDelay) : State := s.modTime fun t => { t with links := t.links.modify p f }

/-- Count at the link delay service of a port (R395). -/
def linkCount (s : State) (p pos : Nat) : State :=
  modLink s p fun x => { x with counters := x.counters.modify pos fun c => wrapAdd 32 c 1 }

/-- Raw counts of a second (R371). -/
def rawSecond : Nat := 625000000

/-! ### Rate, anchor, error (R372, R373, R383, R386) -/

/-- A demanded rate in the range of R373. -/
def clampRate (r : Int) : Int := max (-2147483648) (min 2147483647 r)

/-- A new rate: the anchor moves to now, so T does not (R372). -/
def setRate (s : State) (r : Int) : State :=
  s.modTime fun t => { t with tA := fineNow t, rawA := t.raw, rate := clampRate r }

/-- The device's own clock identity (R377). -/
def ownClockId : Nat := Config.baseMac / 2 ^ 24 % 2 ^ 24 * 2 ^ 40 + 0xFFFE * 2 ^ 24 + Config.baseMac % 2 ^ 24

/-- Whether the device is a self-referenced grandmaster (R734). -/
def selfGm (s : State) : Bool := (gptpRun s s.time.steering).isGm && (timeParams s).selfRef

/-- E in ns, rounded up (R386). -/
def errNs (s : State) : Nat := (s.time.errU + 4999999999) / 5000000000

/-- The error estimate in ns (R383): none in state 0. -/
def errEst (s : State) : Option Nat :=
  match s.time.sync with
  | 0 => none
  | 1 => some (if selfGm s then 0 else s.time.offsets.foldl max 16)
  | _ => some (errNs s)

/-- Raw counts since the last steering update (R384). -/
def updateAge (s : State) : Nat := (s.time.raw + 2 ^ 64 - s.time.lastUpd) % 2 ^ 64

/-- The holdover age in seconds. -/
def ageS (s : State) : Nat := updateAge s / rawSecond

/-- Raise TIME_UNSYNC and enter state 3 (R386). -/
def unsync (s : State) : State :=
  raise (s.modTime fun t => { t with sync := 3 }) 0x43 4 noLevel (srcId 0 0)
    (le 4 (min (ageS s) (2 ^ 32 - 1)) ++ le 4 (timeParams s).stepLimit ++ le 8 (min (errNs s) (2 ^ 64 - 1)))

/-- Unsynchronisation if the age and E have passed their limits (R386). -/
def checkUnsync (s : State) : State :=
  if s.time.sync = 2 ∧ updateAge s > 10 * rawSecond ∧ s.time.errU > (timeParams s).stepLimit * 5000000000 then unsync s else s

/-- E grows by the drift since the previous evaluation (R386). -/
def growError (s : State) : State :=
  s.modTime fun t => { t with
    errU := t.errU + (timeParams s).holdDrift * 8 * ((t.raw + 2 ^ 64 - t.evalRaw) % 2 ^ 64), evalRaw := t.raw }

/-- Raise HOLDOVER (R396). -/
def raiseHoldover (s : State) (left : Bool) (cause err : Nat) : State :=
  raise s 0x42 (if left then 1 else 3) noLevel (srcId 0 0)
    (le 1 (b2n left) ++ le 1 cause ++ le 1 s.time.steering ++ zeros 1 ++ le 4 (min (ageS s) (2 ^ 32 - 1)) ++ le 8 (err % 2 ^ 64))

/-- Meridian enters holdover from state 1 (R384, R386): E starts from the error estimate at the last update. -/
def enterHoldover (s : State) (cause : Nat) : State :=
  if s.time.sync ≠ 1 then s else
  let e0 := (errEst s).getD 0
  let s1 := growError (s.modTime fun t => { t with sync := 2, errU := e0 * 5000000000, evalRaw := t.lastUpd, slewLim := false })
  checkUnsync (raiseHoldover s1 false cause (errNs s1))

/-- A step of Meridian to `fine`, in 2⁻⁴⁸ ns (R387, R388): the anchor moves, every schedule follows, TIME_STEP is raised. -/
def stepTime (s : State) (fine cause inst : Nat) : State :=
  let old := s.now
  let before := s.time.sync
  let s0 := (List.range 32).foldl settleCredits s
  let s1 := s0.modTime fun t => { t with tA := fine, rawA := t.raw }
  let s2 := stepGcls (stepGates s1)
  raise s2 0x40 3 noLevel (srcId 0 0)
    (le 1 cause ++ le 1 inst ++ le 1 before ++ zeros 5 ++ le 8 (ofInt 64 ((s1.now : Int) - old)))

/-! ### Steering (R380 to R385) -/

/-- Whether a port is asCapable for an instance (R376, R377): the link delay is measured and below the instance's threshold. -/
def asCapable (s : State) (i p : Nat) : Bool :=
  let l := at' s.time.links p {}
  portUp s p && l.capable && match l.meanPs with
    | some d => decide (d ≤ (gptpCfg s i).thresh * 1000)
    | none => false

/-- Whether an instance qualifies to steer (R380). -/
def qualifies (s : State) (i : Nat) : Bool :=
  (gptpCfg s i).enable && match (gptpRun s i).slave with
    | some p => asCapable s i p && !(at' (gptpRun s i).ports p {}).receiptTo
    | none => false

/-- A signed difference in ns as GM_CHANGE shows it (R396). -/
def offset32 (o : Int) : Nat := ofInt 32 (max (-2147483648) (min 2147483647 o))

/-- Raise GM_CHANGE (R396). -/
def raiseGm (s : State) (i kind id : Nat) (off : Int) : State :=
  raise s 0x41 2 noLevel (srcId 0 0)
    (le 1 i ++ le 1 kind ++ le 1 s.time.steering ++ le 1 (min 255 (((gptpRun s i).gm.map (·.steps)).getD 0)) ++ be 8 id ++ le 4 (offset32 off))

/-- The clock identity of an instance's grandmaster. -/
def gmId (s : State) (i : Nat) : Nat := if (gptpRun s i).isGm then ownClockId else ((gptpRun s i).gm.map (·.gm)).getD 0

/-- The device becomes a self-referenced grandmaster (R734): state 1 at once, without a step. -/
def startSelfRef (s : State) : State := s.modTime fun t => { t with sync := 1, lastUpd := t.raw, offsets := [] }

/-- Steering switches to instance `i` (R380). -/
def switchTo (s : State) (i : Nat) (away : Bool) : State :=
  let s1 := raiseGm (s.modTime fun t => { t with steering := i, away := away, awayAt := none }) i 1 (gmId s i) (((gptpRun s i).valid).getD 0)
  if selfGm s1 then startSelfRef s1 else s1

/-- The choice of the steering instance (R380) after a change; `cause` is that of a holdover it brings (R384). -/
def resteer (s : State) (cause : Nat) : State :=
  let pref := (timeParams s).preferred
  let cur := s.time.steering
  let s1 :=
    if cur = pref then (if !qualifies s pref ∧ qualifies s (1 - pref) then switchTo s (1 - pref) true else s)
    else if !s.time.away then (if qualifies s pref then switchTo s pref false else s)
    else if qualifies s pref then s.modTime fun t => { t with awayAt := t.awayAt.or (some t.raw) }
    else s.modTime fun t => { t with awayAt := none }
  if s1.time.sync = 1 ∧ !selfGm s1 ∧ !qualifies s1 s1.time.steering ∧ !qualifies s1 (1 - s1.time.steering) ∧
      (gptpRun s1 s1.time.steering).slave.isSome then enterHoldover s1 cause else s1

/-- A port has changed its link state: link delays of a port that is down are lost, and steering is chosen again (R376, R380). -/
def timeLink (s : State) (p : Nat) : State :=
  if p > 27 ∨ portUp s p then s else
  let s1 := modLink s p fun l => { l with capable := false, meanPs := none, waiting := false, lostRun := 0 }
  resteer ((List.range 2).foldl (fun s i => if (gptpRun s i).slave = some p then modGptp s i fun r => { r with syncs := 0, valid := none } else s) s1) 0

/-! ### BMCA (R376, R377, R399) -/

/-- The order of system identities and paths of the default BMCA: lower is better (IEEE 802.1AS). -/
def annKey (a : Announce) : List Nat := [a.prio1, a.cls, a.acc, a.variance, a.prio2, a.gm, a.steps, a.sender]

/-- The lexicographic order. -/
def lexLt : List Nat → List Nat → Bool
  | [], [] => false
  | [], _ :: _ => true
  | _ :: _, [] => false
  | a :: as, b :: bs => a < b || (a == b && lexLt as bs)

/-- The device's own vector for an instance (R377). -/
def ownAnn (s : State) (i : Nat) : Announce :=
  let c := gptpCfg s i
  { prio1 := c.prio1, cls := 248, acc := 0xFE, variance := 0x4100, prio2 := c.prio2, gm := ownClockId, steps := 0, sender := ownClockId * 65536 }

/-- Whether a port belongs to an instance. -/
def inInst (s : State) (i p : Nat) : Bool := (gptpCfg s i).enable && bit (gptpCfg s i).ports p

/-- The port with the best Announce of an instance. -/
def bestPort (s : State) (i : Nat) : Option (Nat × Announce) :=
  ((List.range 28).filterMap fun p => if inInst s i p then ((at' (gptpRun s i).ports p {}).ann).map fun a => (p, a) else none).foldl
    (fun b x => match b with
      | none => some x
      | some y => if lexLt (annKey x.2) (annKey y.2) then some x else some y) none

/-- The outcome of the BMCA for an instance: its slave port, and the Announce of its grandmaster (R376, R399). -/
def bmcaChoice (s : State) (i : Nat) : Option Nat × Option Announce :=
  let c := gptpCfg s i
  if !c.enable then (none, none)
  else if bit c.flags 0 then
    (if c.slave = 0xFF then (none, none) else (some c.slave, (at' (gptpRun s i).ports c.slave {}).ann))
  else match bestPort s i with
    | some (p, a) => if lexLt (annKey a) (annKey (ownAnn s i)) then (some p, some a) else (none, none)
    | none => (none, none)

/-- The role of a port after the BMCA (R401). -/
def portRole (s : State) (i p : Nat) (slave : Option Nat) (gm : Option Announce) : Nat :=
  if !inInst s i p then 0
  else if slave = some p then 2
  else if bit (gptpCfg s i).flags 0 then 1
  else match (at' (gptpRun s i).ports p {}).ann with
    | none => 1
    | some a =>
      let mine := match gm with
        | some g => { g with steps := g.steps + 1, sender := ownClockId * 65536 + p }
        | none => ownAnn s i
      if lexLt (annKey a) (annKey mine) then 3 else 1

/-- The BMCA runs (R376): roles, slave port and grandmaster; a change is reported (R396) and self-reference follows (R734). -/
def runBmca (s : State) (i : Nat) : State :=
  let r := gptpRun s i
  let c := bmcaChoice s i
  let isGm := (gptpCfg s i).enable && c.1.isNone
  let moved := c.1 ≠ r.slave
  let newGm := (c.2.map (·.gm)) ≠ (r.gm.map (·.gm)) ∨ isGm ≠ r.isGm
  let s1 := modGptp s i fun r => { r with
    ports := (List.range 28).map fun p => { at' r.ports p {} with role := portRole s i p c.1 c.2 }
    isGm := isGm, slave := c.1, gm := c.2, syncs := if moved then 0 else r.syncs, valid := if moved ∨ newGm then none else r.valid
    gmReport := if newGm then isGm else r.gmReport }
  let s2 := if newGm ∧ isGm then
      (if (bestPort s i).isNone ∧ r.slave.isSome then raiseGm s1 i 2 0 0 else raiseGm s1 i 0 ownClockId 0)
    else s1
  let s3 := if i = s.time.steering ∧ isGm ∧ !r.isGm then
      (if (timeParams s).selfRef then startSelfRef s2 else enterHoldover s2 0)
    else s2
  resteer s3 0

/-! ### Rows of gPTP -/

/-- Whether gPTP runs for a port of an instance (R376, R379): it does not during a Lodestar-only reset. -/
def gptpLive (s : State) (i p : Nat) : Bool := i ≤ 1 && p ≤ 27 && s.host.ready && awake s && portUp s p && inInst s i p

/-- The servo's new rate (R382): the measured ratio plus a correction towards 0, limited to `MAX_SLEW_PPB`. -/
def servoUpdate (s : State) (ratio off : Int) : State :=
  let lim := (timeParams s).maxSlew * 17592186044416 / 1000000000
  let mag := min lim (Config.servo s.free)
  let corr : Int := if off > 0 then -(mag : Int) else if off < 0 then mag else 0
  (setRate { s with free := s.free + 1 } (ratio + corr)).modTime fun t => { t with
    lastUpd := t.raw, slewLim := off ≠ 0 ∧ mag = lim, offset := off, offsets := (off.natAbs :: t.offsets).take 16 }

/-- A measurement of the steering instance acts on Meridian (R381, R382, R385). `valid` says whether it is a valid one. -/
def steer (s : State) (i : Nat) (gmTime : Nat) (ratio off : Int) (valid : Bool) : State :=
  match s.time.sync with
  | 1 => servoUpdate s ratio off
  | 2 => if valid then
      servoUpdate ((raiseHoldover s true 0 (ofInt 64 off)).modTime fun t => { t with sync := 1, offsets := [] }) ratio off else s
  | k => if valid then
      (setRate (stepTime s (gmTime * 281474976710656) (if k = 0 then 0 else 1) i) ratio).modTime fun t => { t with
        sync := 1, lastUpd := t.raw, offset := off, offsets := [] }
    else s

/-- GPTP_SYNC_RX (R381, R382, R385, R395): a Sync with its Follow_Up. `gmTime` is the grandmaster time it gives for now, `ratio` the
measured rate ratio less 1 in 2⁻⁴⁴. -/
def execGptpSyncRx (i p : Nat) (malformed oneStep : Bool) (gmTime : Nat) (ratio : Int) (s : State) : Host.Outcome State Fault Refusal :=
  if !gptpLive s i p then .next s
  else if malformed then .next (gptpCount s i p 4)
  else if (gptpRun s i).slave ≠ some p then .next s
  else
    let s1 := gptpCount s i p 0
    let s2 := if oneStep then s1 else gptpCount s1 i p 1
    let s3 := modGptpPort (modLink s2 p fun l => { l with oneStep := oneStep }) i p fun x => { x with receiptTo := false }
    let n := min 4 ((gptpRun s3 i).syncs + 1)
    let off : Int := (s3.now : Int) - gmTime
    let valid := n = 4 && asCapable s3 i p
    let s4 := resteer (modGptp s3 i fun r => { r with syncs := n, ratio := ratio, valid := if valid then some off else r.valid }) 0
    let s5 := if valid ∧ !(gptpRun s4 i).gmReport then
        raiseGm (modGptp s4 i fun r => { r with gmReport := true }) i 0 (gmId s4 i) off
      else s4
    if s5.time.steering = i ∧ qualifies s5 i then .next (steer s5 i gmTime ratio off valid) else .next s5

/-- GPTP_ANNOUNCE_RX (R376, R395): an Announce is received and the BMCA runs. Announces of the device itself and those that have gone
too far are not accepted. -/
def execGptpAnnounceRx (i p : Nat) (malformed : Bool) (ann : Announce) (s : State) : Host.Outcome State Fault Refusal :=
  if !gptpLive s i p then .next s
  else if malformed then .next (gptpCount s i p 4)
  else if ann.gm = ownClockId ∨ ann.steps ≥ 255 then .next s
  else .next (runBmca (modGptpPort (gptpCount s i p 2) i p fun x => { x with ann := some ann }) i)

/-- GPTP_PDELAY_RX (R376, R395): the response to the port's Pdelay_Req, with the mean link delay and rate ratio it gives. -/
def execGptpPdelayRx (p : Nat) (malformed : Bool) (delayPs : Nat) (nrr : Int) (s : State) : Host.Outcome State Fault Refusal :=
  if p > 27 ∨ !(gptpLive s 0 p ∨ gptpLive s 1 p) then .next s
  else if malformed then .next ((List.range 2).foldl (fun s i => if gptpLive s i p then gptpCount s i p 4 else s) s)
  else if !(at' s.time.links p {}).waiting then .next s
  else .next (resteer (modLink (linkCount s p 1) p fun l => { l with
    waiting := false, lostRun := 0, capable := true, meanPs := some delayPs, nrr := nrr }) 0)

/-- SYNC_RECEIPT_TIMEOUT (R380, R384, R395): no Sync on the slave port of an instance within its receipt timeout. -/
def execSyncReceiptTimeout (i : Nat) (s : State) : Host.Outcome State Fault Refusal :=
  if i > 1 then .next s else
  match (gptpRun s i).slave with
  | none => .next s
  | some p =>
    if (at' (gptpRun s i).ports p {}).receiptTo then .next s else
    .next (resteer (modGptp (modGptpPort (gptpCount s i p 5) i p fun x => { x with receiptTo := true }) i fun r => { r with
      syncs := 0, valid := none }) 1)

/-- ANNOUNCE_RECEIPT_TIMEOUT (R376, R380, R395): no Announce on a port within its receipt timeout: its Announce is dropped and the BMCA
runs. -/
def execAnnounceReceiptTimeout (i p : Nat) (s : State) : Host.Outcome State Fault Refusal :=
  if i > 1 ∨ p > 27 ∨ !inInst s i p ∨ !s.host.ready then .next s
  else .next (runBmca (modGptpPort (gptpCount s i p 6) i p fun x => { x with ann := none }) i)

/-- STEERING_UPDATE_TIMEOUT (R384): no steering update has been applied for 1 s. -/
def execSteeringUpdateTimeout (s : State) : Host.Outcome State Fault Refusal :=
  if s.time.sync ≠ 1 then .next s else .next (enterHoldover (s.later (rawSecond - updateAge s)) 2)

/-- HOLDOVER_EVALUATION (R386): E is evaluated one second after the previous evaluation. -/
def execHoldoverEvaluation (s : State) : Host.Outcome State Fault Refusal :=
  if s.time.sync < 2 then .next s else
  .next (checkUnsync (growError (s.later (rawSecond - (s.time.raw + 2 ^ 64 - s.time.evalRaw) % 2 ^ 64))))

/-- REVERT_TIMER (R380): the preferred instance has qualified for `REVERT_S` without a break. -/
def execRevertTimer (s : State) : Host.Outcome State Fault Refusal :=
  match s.time.awayAt with
  | none => .next s
  | some t =>
    let pref := (timeParams s).preferred
    if s.time.steering = pref ∨ !qualifies s pref then .next s else
    .next (switchTo (s.later ((timeParams s).revertS * rawSecond - (s.time.raw + 2 ^ 64 - t) % 2 ^ 64)) pref false)

/-- SYNC_INTERVAL (R378, R384, R734): an instance sends Sync on its master ports; for a self-referenced grandmaster it is a steering
update. -/
def execSyncInterval (i : Nat) (s : State) : Host.Outcome State Fault Refusal :=
  if i > 1 ∨ !(gptpCfg s i).enable ∨ !s.host.ready ∨ !awake s then .next s else
  let s1 := (List.range 28).foldl (fun s p =>
    if (at' (gptpRun s i).ports p {}).role = 1 ∧ asCapable s i p then gptpCount s i p 3 else s) s
  .next (if i = s1.time.steering ∧ selfGm s1 then s1.modTime fun t => { t with lastUpd := t.raw } else s1)

/-- PDELAY_REQ_INTERVAL (R376, R395): a Pdelay_Req is sent on a port; the previous one is lost if it has no response. Nine lost in a row
end asCapable (PRESUMED, assumption 17). -/
def execPdelayReqInterval (p : Nat) (s : State) : Host.Outcome State Fault Refusal :=
  if p > 27 ∨ !(gptpLive s 0 p ∨ gptpLive s 1 p) then .next s else
  let s1 := if (at' s.time.links p {}).waiting then
      let s1 := modLink (linkCount s p 2) p fun l => { l with lostRun := l.lostRun + 1 }
      if (at' s1.time.links p {}).lostRun ≥ 9 then resteer (modLink s1 p fun l => { l with capable := false }) 0 else s1
    else s
  .next (modLink (linkCount s1 p 0) p fun l => { l with waiting := true })

/-! ### Commands of group 0x07 -/

/-- TIME_STATUS_GET (R397). -/
def specTimeStatusGet : CmdSpec := {
  opcode := 0x0700, badLen := lenIs 0,
  body := fun s _ _ =>
    let st := s.time.steering
    let any := (gptpCfg s 0).enable || (gptpCfg s 1).enable
    let r := gptpRun s st
    .done {
      st := s
      payload := le 1 s.time.sync ++ le 1 (if any then st else 0xFF) ++
        le 1 (b2n r.isGm + 2 * b2n (timeParams s).selfRef + 4 * b2n s.time.slewLim) ++ zeros 1 ++ le 4 (ofInt 32 s.time.rate) ++
        le 8 s.now ++ le 8 s.time.raw ++ le 4 (if s.time.sync ≥ 2 then min (ageS s) (2 ^ 32 - 1) else 0) ++ zeros 4 ++
        le 8 (match errEst s with | some e => min e (2 ^ 64 - 1) | none => 2 ^ 64 - 1) ++ le 8 (ofInt 64 s.time.offset) ++
        be 8 (gmId s st) ++ le 2 ((r.gm.map (·.steps)).getD 0) ++ le 2 ((r.gm.map (·.utc)).getD 0) ++ zeros 4 } }

/-- TIME_PARAMS_SET (R398, R734). -/
def specTimeParamsSet : CmdSpec := {
  opcode := 0x0701, badLen := lenIs 24,
  body := fun s _ p =>
    let sr := bit (u p 0 1) 0
    let rv := clampField 2 0 600 (u p 2 2)
    let sl := clampField 4 1000 1000000000 (u p 4 4)
    let hd := clampField 8 1 10000 (u p 8 4)
    let nd := clampField 12 100 500000 (u p 12 4)
    let ms := clampField 16 1000 100000 (u p 16 4)
    checked [chkSup (u p 1 1 > 1) 1] fun _ =>
      let was := selfGm s
      let c : TimeParams := {
        selfRef := sr, preferred := u p 1 1, revertS := rv.val, stepLimit := sl.val, holdDrift := hd.val, nightDrift := nd.val, maxSlew := ms.val }
      let away := s.time.away && c.preferred == (timeParams s).preferred
      let s1 := s.modTime fun t => { t with cfg := { t.cfg with params := c }, away := away, awayAt := if away then t.awayAt else none }
      let s2 := if !was ∧ selfGm s1 then startSelfRef s1
        else if was ∧ !selfGm s1 then enterHoldover s1 0
        else s1
      .done {
        clamps := rv.off ++ sl.off ++ hd.off ++ nd.off ++ ms.off, st := resteer s2 0
        payload := le 1 (b2n sr) ++ le 1 c.preferred ++ le 2 rv.val ++ le 4 sl.val ++ le 4 hd.val ++ le 4 nd.val ++ le 4 ms.val ++ zeros 4 } }

/-- A signed byte clamped to a range (R399). -/
def clampS8 (off : Nat) (lo hi : Int) (x : Nat) : Int × List Nat :=
  let v := toInt 8 x
  (max lo (min hi v), if lo ≤ v ∧ v ≤ hi then [] else [off])

/-- GPTP_INSTANCE_SET (R377, R380, R399). -/
def specGptpInstanceSet : CmdSpec := {
  opcode := 0x0702, badLen := lenIs 32,
  body := fun s _ p =>
    let i := u p 0 1
    let en := u p 1 1 = 1
    let dn := clampField 2 0 127 (u p 2 1)
    let fl := u p 5 1 % 2
    let ls := clampS8 6 (-7) 0 (u p 6 1)
    let la := clampS8 7 (-3) 4 (u p 7 1)
    let lp := clampS8 8 (-3) 4 (u p 8 1)
    let st := clampField 9 2 255 (u p 9 1)
    let at_ := clampField 10 2 255 (u p 10 1)
    let th := clampField 12 1 100000 (u p 12 4)
    let ports := u p 16 8 % 2 ^ 28
    let sp := u p 24 1
    let o := gptpCfg s (1 - i)
    checked [chkSup (i > 1) 0, chkSup (u p 1 1 > 1) 1, chkConf (en && o.enable && o.domainNo == dn.val) 2,
        chkSup (fl = 1 && sp > 27 && sp != 0xFF) 24, chkConf (fl = 1 && sp ≤ 27 && !bit ports sp) 24] fun _ =>
      let c : GptpCfg := {
        enable := en, domainNo := dn.val, prio1 := u p 3 1, prio2 := u p 4 1, flags := fl, logSync := ls.1, logAnn := la.1
        logPdelay := lp.1, syncTo := st.val, annTo := at_.val, thresh := th.val, ports := ports, slave := sp }
      let s1 := s.modTime fun t => { t with cfg := { t.cfg with inst := t.cfg.inst.set i c } }
      let s2 := if c = gptpCfg s i then s1 else runBmca s1 i
      .done {
        clamps := dn.off ++ ls.2 ++ la.2 ++ lp.2 ++ st.off ++ at_.off ++ th.off, st := s2
        payload := le 1 i ++ le 1 (b2n en) ++ le 1 dn.val ++ le 1 c.prio1 ++ le 1 c.prio2 ++ le 1 fl ++ le 1 (ofInt 8 ls.1) ++
          le 1 (ofInt 8 la.1) ++ le 1 (ofInt 8 lp.1) ++ le 1 st.val ++ le 1 at_.val ++ zeros 1 ++ le 4 th.val ++ le 8 ports ++
          le 1 sp ++ zeros 7 } }

/-- TIME_STEP (R374, R387, R400). -/
def specTimeStep : CmdSpec := {
  opcode := 0x0703, badLen := lenIs 16,
  body := fun s _ p =>
    let m := u p 0 1
    let i := s.time.steering
    let r := gptpRun s i
    let now := s.now
    let new : Int := if m = 0 then (u p 8 8 : Int) else if m = 1 then (now : Int) + toInt 64 (u p 8 8) else (now : Int) - (r.valid.getD 0)
    checked [chkSup (m > 2) 0, chkConf (m ≤ 1 && qualifies s i && !r.isGm) 0, chkConf (m = 2 && (r.valid.isNone || r.isGm)) 0,
        chkPol (new < 0 || new > 18446744073709551615) 8] fun _ =>
      let s0 := if m = 2 ∧ s.time.sync = 2 then raiseHoldover s true 0 (ofInt 64 (r.valid.getD 0)) else s
      let fine : Int := new * 281474976710656 + (if m = 0 then 0 else ((fineNow s.time % 281474976710656 : Nat) : Int))
      let s1 := stepTime s0 fine.toNat (m + 2) (if m = 2 then i else 0xFF)
      let s2 := if m = 2 then (modGptp s1 i fun r => { r with valid := some 0 }).modTime fun t => { t with sync := 1, offsets := [] } else s1
      .done { payload := le 8 (ofInt 64 (new - now)) ++ le 8 s2.now, st := s2 } }

/-- GPTP_PORT_GET (R395, R401). -/
def specGptpPortGet : CmdSpec := {
  opcode := 0x0704, badLen := lenIs 3,
  body := fun s _ p =>
    let i := u p 0 1
    let pt := u p 1 1
    checked [chkSup (i > 1) 0, chkSup (pt > 27) 1, chkConf (!bit (gptpCfg s i).ports pt) 1] fun _ =>
      let x := at' (gptpRun s i).ports pt {}
      let l := at' s.time.links pt {}
      let c := fun k => at' x.counters k 0
      let d := fun k => at' l.counters k 0
      let st := if bit (u p 2 1) 0 then
          modLink (modGptpPort s i pt fun x => { x with counters := List.replicate 7 0 }) pt fun l => { l with counters := List.replicate 3 0 }
        else s
      .done {
        st := st
        payload := le 1 i ++ le 1 pt ++ le 1 x.role ++ le 1 (b2n (asCapable s i pt) + 2 * b2n l.oneStep) ++
          le 4 (min (l.meanPs.getD 0) (2 ^ 32 - 1)) ++ le 4 (ofInt 32 l.nrr) ++ zeros 4 ++
          ([c 0, c 1, c 2, c 3, d 0, d 1, d 2, c 4, c 5, c 6]).flatMap (le 4) } }

/-! ### Night (R393) -/

/-- Meridian is carried over `n` always-on counts by the always-on domain (R386, R393): the snapshot goes on, holdover follows with
cause 3 if it was synchronised, and E takes the carry term. -/
def carryTime (s : State) (n : Nat) : State :=
  let exact : Int := (n : Int) * 2199023255552 + (n : Int) * s.time.calib * 512 + s.time.rawFrac
  let adv := (exact / 2199023255552).toNat
  let s1 := s.modTime fun t => { t with raw := (t.raw + adv) % 2 ^ 64, rawFrac := (exact % 2199023255552).toNat, aon := t.aon + n }
  let before := s1.time.evalRaw
  let s2 := if s.time.sync = 1 then
      let e0 := (errEst s).getD 0
      s1.modTime fun t => { t with sync := 2, errU := e0 * 5000000000, evalRaw := s.time.lastUpd, slewLim := false }
    else s1
  let entry := if s.time.sync = 1 then s.time.lastUpd else before
  let drift := (timeParams s).holdDrift * 8 * ((s.time.raw + 2 ^ 64 - entry) % 2 ^ 64)
  if s2.time.sync < 2 then s2 else
  let s3 := s2.modTime fun t => { t with
    errU := t.errU + drift + (timeParams s).nightDrift * 8 * adv + 50000000000, evalRaw := t.raw }
  checkUnsync (if s.time.sync = 1 then raiseHoldover s3 false 3 (errNs s3) else s3)

/-! ### The rows of these commands -/

/-- TIME_STATUS_GET (R397): the command from its source. -/
def execTimeStatusGet (r : Req) (s : State) : Host.Outcome State Fault Refusal := command specTimeStatusGet r s

/-- TIME_PARAMS_SET (R398): the command from its source. -/
def execTimeParamsSet (r : Req) (s : State) : Host.Outcome State Fault Refusal := command specTimeParamsSet r s

/-- GPTP_INSTANCE_SET (R399): the command from its source. -/
def execGptpInstanceSet (r : Req) (s : State) : Host.Outcome State Fault Refusal := command specGptpInstanceSet r s

/-- TIME_STEP (R400): the command from its source. -/
def execTimeStep (r : Req) (s : State) : Host.Outcome State Fault Refusal := command specTimeStep r s

/-- GPTP_PORT_GET (R401): the command from its source. -/
def execGptpPortGet (r : Req) (s : State) : Host.Outcome State Fault Refusal := command specGptpPortGet r s

end Sys2Proof.Machine
end

