-- ==== Sys2Proof/Machine/PairLink.lean ====
section
/-! DEFINITION. The pair link's state, its arming and its loss (R674, R677, R679, R685, R687, R689, R698). -/

namespace Sys2Proof.Machine

/-- Pair settings in force. -/
def State.pairCfg (s : State) : PairCfg := s.pair.cfg.pair

/-- A pair counter's value. -/
def pairCtr (s : State) (t pos : Nat) : Nat := at' (at' s.pair.counters t []) pos 0

/-- `STATE` of PAIR_STATUS_GET (R699). -/
def pairState (p : Pair) : Nat :=
  if !p.cfg.pair.enable then 0 else if p.faulty.isSome then 5 else if p.watch then 4 else if !p.link then 1 else if p.armed then 3 else 2

/-- The time of the last `STATE` change is kept (R699). -/
def stampPair (s s1 : State) : State :=
  if pairState s.pair = pairState s1.pair then s1 else s1.modPair fun p => { p with since := s1.now }

/-- PAIR_ARMING (R687, R698): 0 armed, 1 unarmed, 2 heartbeat watch. -/
def raiseArming (s : State) (kind : Nat) : State :=
  raise s 0xE1 (if kind = 0 then 1 else 3) noLevel (srcId 0xE 1)
    (le 1 kind ++ le 1 s.pair.role ++ zeros 2 ++ le 4 s.pair.reasons ++ le 8 ((s.pair.partner.map (·.serial)).getD 0))

/-- The Companion arms or disarms as its reasons and equal cycles say (R687); in heartbeat watch it stays armed (R689). -/
def updateArming (s : State) : State :=
  let p := s.pair
  let want := p.cfg.pair.enable && p.role == 2 && p.reasons == 0 && p.faulty.isNone && (p.equal ≥ 3 || p.armed)
  if p.watch then s
  else if want ∧ !p.armed then raiseArming (s.modPair fun p => { p with armed := true }) 0
  else if !want ∧ p.armed then raiseArming (s.modPair fun p => { p with armed := false }) 1
  else s

/-- An arming reason holds or is cleared (R687). -/
def setReason (s : State) (b : Nat) (on : Bool) : State :=
  updateArming (s.modPair fun p => { p with reasons := withBit p.reasons b on, equal := if on then 0 else p.equal })

/-- Lanes of P0 in use (R677, R699). -/
def lanes (s : State) : Nat := if portUp s 32 then s.pair.laneUp.count true else 0

/-- Raise PAIR_LINK (R698). -/
def raisePairLink (s : State) (kind cause : Nat) : State :=
  raise s 0xE0 (at' [1, 3, 2, 2] kind 2) noLevel (srcId 0xE 0)
    (le 1 kind ++ le 1 cause ++ le 1 (lanes s) ++ zeros 1 ++ le 4 (pairCtr s 0 4) ++ le 4 (pairCtr s 0 7))

/-- Whether a heartbeat watch is possible (R676, R687): a heartbeat is configured. -/
def watchable (s : State) : Bool := s.pairCfg.hbCan ≤ 7 || s.pairCfg.hbMvb == 8 || s.pairCfg.hbMvb == 9

/-- Raise PAIR_MISMATCH (R698). -/
def raiseMismatch (s : State) (m : Nat × Nat × Nat) (result : Nat) : State :=
  raise s 0xE2 3 noLevel (srcId 0xE 1)
    (le 4 m.1 ++ le 2 m.2.1 ++ le 1 result ++ zeros 1 ++ le 4 m.2.2 ++ le 4 (pairCtr s 0 9))

/-- The pair link is lost (R679, R685, R689). -/
def pairLost (s : State) (cause : Nat) : State :=
  if !s.pair.link then s else
  let s1 := pairCount (s.modPair fun p => { p with
    link := false, unacked := [], txq := [], txSeq := 0, rxSeq := 0, resent := 0, decided := false, copy := none, requests := [], told := none }) 0 7 1
  let s2 := raisePairLink s1 1 cause
  let s3 := match s2.pair.mismatch with
    | some m => raiseMismatch (s2.modPair fun p => { p with mismatch := none }) m 4
    | none => s2
  if s3.pair.role = 2 ∧ s3.pair.armed ∧ watchable s3 then
    raiseArming (s3.modPair fun p => { p with watch := true, hbMissed := 0 }) 2
  else setReason s3 0 true

end Sys2Proof.Machine
end

