-- ==== Sys2Proof/Machine/PortOps.lean ====
section
/-! DEFINITION. The link state machine of a port, retained training, and the PSE (R147 to R173). -/

namespace Sys2Proof.Machine

/-! ### Link state (R164, R165, R173) -/

/-- Whether the power state lets port `p` be powered (R494): all ports in Day, the backbone ports and P0 in Dusk. -/
def portPowered (s : State) (p : Nat) : Bool := s.power.on && (s.power.state == 0 || (s.power.state == 1 && (p ≤ 3 || p == 32)))

/-- The baseplate temperature in 0.125 °C: the latest sample of sensor 2 (R153, R618). -/
def baseTemp (s : State) : Int := tgetD s.lode.samples 2 0

/-- Raise LINK_STATE for the port's present state (R173). -/
def raiseLink (s : State) (p reason : Nat) : State :=
  let r := portRun s p
  raise s 0x80 (if r.oper = 3 ∨ r.oper = 0 then 1 else 3) noLevel (srcId 1 p)
    (le 1 p ++ le 1 r.oper ++ le 1 r.speed ++ le 1 reason ++ le 1 r.how ++ zeros 3 ++ le 4 (at' r.counters 12 0))

/-- Raise PLCA_STATE (R173) after the status of a segment has become `on`. -/
def setPlca (s : State) (g : Nat) (on : Bool) : State :=
  if at' s.ports.plcaOn g false = on then s else
  let c := at' s.ports.cfg.plca g {}
  raise (s.modPorts fun x => { x with plcaOn := x.plcaOn.set g on }) 0x83 (if on then 1 else 3) noLevel (srcId 1 (28 + g))
    (le 1 g ++ le 1 (b2n on) ++ le 1 c.nodeId ++ le 1 c.nodeCount)

/-- What happens at a port that leaves UP (R165, R167): its egress is flushed, a frame partly received ends as an FCS error, and
`LINK_DOWNS` counts unless the port goes to LOW_POWER. -/
def leaveUp (s : State) (p to_ : Nat) : State :=
  let s1 := flushPort s p
  let s2 := match (portRun s1 p).rx with
    | none => s1
    | some x =>
      let s2 := portCount (modPort s1 p fun r => { r with rx := none }) p 4 1
      match x.id with
      | some id => endInFabric s2 id (min (wireLen x.wire) 9216) (some 0)
      | none => s2
  if to_ = 4 then s2 else portCount s2 p 12 1

/-- A change of oper state (R164, R165, R173, R350, R354, R679): the events, counters and re-evaluations that go
with it. -/
def setOper (s : State) (p to_ reason how speed : Nat) : State :=
  let was := (portRun s p).oper
  if was = to_ then s else
  let s1 := if was = 3 then leaveUp s p to_ else s
  let up := to_ = 3
  let s2 := modPort s1 p fun r => { r with
    oper := to_, speed := if up then speed else 0, since := s.now, how := if up then how else 0, lpi := false,
    fastTry := r.fastTry && to_ == 2, matched := r.matched && to_ == 2 }
  let s3 := if (was = 1 ∧ to_ = 2) ∨ (was = 2 ∧ to_ = 1) then s2 else raiseLink s2 p reason
  let s4 := if 28 ≤ p ∧ p ≤ 31 then
      let c := at' s.ports.cfg.plca (p - 28) {}
      setPlca s3 (p - 28) (up && c.enable && c.nodeId == 0)
    else s3
  let s5 := if was = 3 ∧ p = 32 then stampPair s4 (pairLost s4 2) else s4
  if up ∨ was = 3 then timeLink (if p ≤ 27 then restartVerify s5 p else zenithRecheck s5) p else s5

/-! ### Retained training (R153 to R157) -/

/-- Age of a record in hours (R155), on the always-on clock. -/
def recAge (s : State) (t : TrainRec) : Nat := (s.time.aon - t.at_) / (625000000 * 3600)

/-- The first condition of R155 that a record fails: its reason code. -/
def recordBad (s : State) (p : Nat) (t : TrainRec) : Option Nat :=
  if !t.crcOk then some 1
  else if t.mode ≠ modeCode s p ∨ t.role ≠ (portCfg s p).role then some 2
  else if (baseTemp s - t.temp).natAbs > 200 then some 3
  else if recAge s t ≥ (portCfg s p).maxAgeH then some 4
  else none

/-- Raise TRAINING_FALLBACK and count it (R156, R173). -/
def fallback (s : State) (p reason fastUs : Nat) : State :=
  let s1 := portCount s p 14 1
  let r := portRun s1 p
  raise (modPort s1 p fun r => { r with fastTry := false, matched := false, fullNext := true }) 0x81 2 noLevel (srcId 1 p)
    (le 1 p ++ le 1 reason ++ le 1 (match r.train with | some t => ofInt 8 ((baseTemp s - t.temp) / 8) | none => 0) ++ zeros 1 ++
      le 4 (min fastUs (2 ^ 32 - 1)) ++ le 4 (match r.train with | some t => min (recAge s t) (2 ^ 32 - 1) | none => 0xFFFFFFFF) ++
      le 4 (at' r.counters 14 0))

/-- A port that powers up looks for its record (R155): it will try a fast start, or run full training. -/
def checkRecord (s : State) (p : Nat) : State :=
  if !canFast s p then modPort s p fun r => { r with fullNext := true }
  else
    let r := portRun s p
    let s1 := modPort s p fun r => { r with fullNext := true, noRec := .other }
    if !bit (portCfg s p).flags 1 then s1
    else match r.train with
      | some t => match recordBad s p t with
        | none => modPort s p fun r => { r with fullNext := false, noRec := .other }
        | some k => fallback s1 p k 0
      | none => match r.noRec with
        | .fresh => s1
        | .changed => fallback s1 p 2 0
        | .other => fallback s1 p 0 0

/-- The record of a port is discarded (R153, R175, R181). -/
def dropRecord (s : State) (p : Nat) (why : NoRec) : State := modPort s p fun r => { r with train := none, noRec := why }

/-- The record of a port that is UP is refreshed with the adapted coefficients (R153, R497). -/
def refreshRecord (s : State) (p : Nat) : State :=
  match (portRun s p).train with
  | none => s
  | some t =>
    if (portRun s p).oper = 3 ∧ bit (portCfg s p).flags 1 then
      modPort { s with free := s.free + 1 } p fun r => { r with
        train := some { t with coeffs := Config.coefficients s.free, temp := baseTemp s, at_ := s.time.aon } }
    else s

/-! ### Power (R147, R148) -/

/-- Raise LOW_POWER_IDLE for TC10 (R173): at each entry and exit. -/
def raiseTc10 (s : State) (p : Nat) (left partner : Bool) : State :=
  let n := (portRun s p).tc10Entries
  raise (modPort s p fun r => { r with tc10Entries := 0 }) 0x82 0 noLevel (srcId 1 p)
    (le 1 p ++ le 1 1 ++ le 1 (b2n left) ++ le 1 (b2n partner) ++ le 4 n)

/-- A port goes to TC10 sleep (R161). -/
def tc10Sleep (s : State) (p reason : Nat) (partner : Bool) : State :=
  let s1 := setOper s p 4 reason 0 0
  raiseTc10 (portCount (modPort s1 p fun r => { r with tc10Entries := r.tc10Entries + 1, sleepLocal := !partner }) p 15 1) p false partner

/-- A port's PHY or SerDes is powered (R147, R148, R155): it requests its tokens and looks for its record. -/
def startPort (s : State) (p reason : Nat) : State :=
  if (portCfg s p).admin = 0 then setOper s p 0 reason 0 0
  else if !portPowered s p then setOper s p 6 3 0 0
  else
    let q := requestTokens s (16 + p) (portTokens s p)
    if !q.1 then setOper q.2 p 5 4 0 0
    else
      let s1 := setOper (checkRecord q.2 p) p 1 reason 0 0
      if (portCfg s p).admin = 2 ∧ !zenithAt s p then tc10Sleep s1 p 0 false else s1

/-- A port's PHY is powered down and its tokens returned (R147). -/
def stopPort (s : State) (p to_ reason : Nat) : State := returnTokens (setOper s p to_ reason 0 0) (16 + p)

/-- A powered port starts its link anew after a change of mode or role (R155, R175). -/
def retrain (s : State) (p : Nat) : State :=
  let o := (portRun s p).oper
  if 1 ≤ o ∧ o ≤ 3 then checkRecord (setOper s p 1 5 0 0) p else s

/-! ### PSE (R168 to R172) -/

/-- The state with the PSE of `i` changed. -/
def modPse (s : State) (i : Nat) (f : PseRun → PseRun) : State := s.modPorts fun x => { x with pse := x.pse.modify i f }

/-- State of PSE port `i`. -/
def pseRun (s : State) (i : Nat) : PseRun := at' s.ports.pse i {}

/-- Settings of PSE port `i`. -/
def pseCfg (s : State) (i : Nat) : PseCfg := at' s.ports.cfg.pse i {}

/-- Tokens of the PoE pool in use (R521). -/
def poeUsed (s : State) : Nat := (s.ports.pse.map (·.tokens)).sum

/-- Free tokens of the PoE pool. -/
def poeFree (s : State) : Nat := s.power.poeTokens - poeUsed s

/-- Tokens of a class (R169). -/
def classTokens (c : Nat) : Nat := at' [308, 80, 140, 308, 600, 900, 1200] c 1200

/-- Raise PSE_POWER (R173). -/
def raisePse (s : State) (i reason : Nat) : State :=
  let r := pseRun s i
  raise s 0x84 1 noLevel (srcId 1 (4 + i))
    (le 1 i ++ le 1 reason ++ le 1 r.reqClass ++ le 1 r.grant ++ le 2 r.tokens ++ le 2 (poeFree s))

/-- The class granted for a request (R169): demoted to `MAX_CLASS`, and to 6 for Type 4. -/
def demote (s : State) (i c : Nat) : Nat := min c (min 6 (pseCfg s i).maxClass)

/-- A PSE port requests its tokens from the PoE pool (R170). A request repeated from DENIED that is denied again changes nothing
(assumption 20). -/
def pseRequest (s : State) (i : Nat) : State :=
  let r := pseRun s i
  let c := demote s i r.reqClass
  if r.need ≤ poeFree s then
    raisePse (modPse s i fun r => { r with state := 3, grant := c, tokens := r.need }) i 1
  else if r.state = 4 then s
  else raise (modPse s i fun r => { r with state := 4 }) 0x86 3 noLevel (srcId 1 (4 + i))
    (le 1 i ++ le 1 c ++ le 1 (pseCfg s i).prio ++ zeros 1 ++ le 2 r.need ++ le 2 (poeFree s))

/-- PSE ports in an order of priority: highest `PRIO` first, then lowest index (R170). -/
def psesByPrio (s : State) : List Nat := ([3, 2, 1, 0]).flatMap fun q => (List.range 16).filter fun i => (pseCfg s i).prio == q

/-- Tokens have been freed: denied ports request again (R170). -/
def pseRetry (s : State) : State :=
  (psesByPrio s).foldl (fun s i => if (pseRun s i).state = 4 then pseRequest s i else s) s

/-- Power is removed from a PSE port and its tokens are returned. -/
def pseOff (s : State) (i to_ : Nat) : State := modPse s i fun r => { r with state := to_, grant := 0xFF, tokens := 0, powerMw := 0 }

/-- A PSE port is powered off by disable or disconnection (R170, R172). -/
def pseRemove (s : State) (i to_ : Nat) : State :=
  let r := pseRun s i
  let s1 := modPse (pseOff s i to_) i fun r => { r with reqClass := 0xFF, need := 0 }
  if r.state = 3 then pseRetry (raise s1 0x84 1 noLevel (srcId 1 (4 + i))
      (le 1 i ++ le 1 2 ++ le 1 r.reqClass ++ le 1 0xFF ++ le 2 0 ++ le 2 (poeFree s1)))
  else s1

/-- The powered PSE port that a reduction of the pool takes next (R171): lowest `PRIO`, then highest index. -/
def pseVictim (s : State) : Option Nat := ((psesByPrio s).filter fun i => (pseRun s i).state == 3).foldl (fun b i => match b with
  | none => some i
  | some j => if (pseCfg s i).prio < (pseCfg s j).prio ∨ i > j then some i else some j) none

/-- Remove power from ports until the allocation fits the pool (R171); the number removed. -/
def pseShrink : Nat → State → Nat → State × Nat
  | 0, s, k => (s, k)
  | n + 1, s, k =>
    if poeUsed s ≤ s.power.poeTokens then (s, k) else
    match pseVictim s with
    | none => (s, k)
    | some i => pseShrink n (raisePse (pseOff s i 4) i 3) (k + 1)

/-- A fault of a PSE port (R172, R173): power removed, tokens returned, PSE_FAULT, then the wait. -/
def pseFault (s : State) (i cause peakMw railMv : Nat) : State :=
  if (pseRun s i).state ≠ 3 then s else
  let s1 := modPse (pseOff s i 5) i fun r => { r with faults := wrapAdd 32 r.faults 1, reqClass := 0xFF }
  pseRetry (raise s1 0x85 4 noLevel (srcId 1 (4 + i))
    (le 1 i ++ le 1 cause ++ le 2 (min peakMw 65535) ++ le 2 railMv ++ zeros 2 ++ le 4 (pseRun s1 i).faults))

/-- The PSE controller of a group requests or returns its tokens with the first or last enabled port (R147). -/
def pseController (s : State) (g : Nat) : State :=
  let want := (List.range 4).any fun k => (pseCfg s (4 * g + k)).enable
  if want ∧ s.power.on ∧ s.power.state = 0 then (if holdsTokens s (56 + g) then s else (requestTokens s (56 + g) 4).2)
  else returnTokens s (56 + g)

/-- A PSE port starts to detect if it is enabled, its controller is powered and the rail is good (R168, R172). -/
def pseStart (s : State) (i : Nat) : State :=
  if (pseCfg s i).enable ∧ holdsTokens s (56 + i / 4) ∧ groupType s (i / 4) ≤ 1 then
    modPse s i fun r => { r with state := if s.ports.supplyFault then 5 else 1, reqClass := 0xFF, grant := 0xFF, need := 0, tokens := 0 }
  else s

/-- Every PSE port loses its power as the PoE is switched off (R497, R498). -/
def pseAllOff (s : State) : State :=
  let s1 := (List.range 16).foldl (fun s i =>
    let r := pseRun s i
    let s1 := modPse (pseOff s i 0) i fun r => { r with reqClass := 0xFF, need := 0 }
    if r.state = 3 then raise s1 0x84 1 noLevel (srcId 1 (4 + i))
      (le 1 i ++ le 1 2 ++ le 1 r.reqClass ++ le 1 0xFF ++ le 2 0 ++ le 2 (poeFree s1)) else s1) s
  (List.range 4).foldl (fun s g => returnTokens s (56 + g)) s1

/-! ### Shedding (R509) -/

/-- The holders that a reduction may shed, in the order of R509: clock steps that are not reserved, edge ports without reserved tokens
from the highest index, segments from the highest index. -/
def shedOrder (s : State) : List Nat :=
  (([3, 2] ++ ((List.range 24).map fun k => 16 + 27 - k)).filter fun c => holdsTokens s c && !reservedCode s c) ++
    (((List.range 4).map fun k => 16 + 31 - k).filter fun c => holdsTokens s c)

/-- A holder is shed: its tokens are returned, and a port enters POWER_DENIED (R148, R509). -/
def shedOne (s : State) (c : Nat) : State :=
  let s1 := if 16 ≤ c ∧ c ≤ 48 then setOper s (c - 16) 5 4 0 0 else s
  s1.modPow fun p => { p with holds := tset p.holds c { tokens := 0, denied := true } }

/-- Shed holders until the tokens held fit `limit` (R509); the codes shed. -/
def shedTo (limit : Nat) : List Nat → State → List Nat → State × List Nat
  | [], s, done => (s, done)
  | c :: cs, s, done => if intUsed s ≤ limit then (s, done) else shedTo limit cs (shedOne s c) (done ++ [c])

/-- Whether shedding can bring the tokens held down to `limit` (R509). -/
def canShed (s : State) (limit : Nat) : Bool := intUsed s - ((shedOrder s).map fun c => (tgetD s.power.holds c {}).tokens).sum ≤ limit

end Sys2Proof.Machine
end

