-- ==== Sys2Proof/Machine/PortCmds.lean ====
section
/-! DEFINITION. Commands of group 0x02 (R174 to R181) and the rows of the ports and the PSE (R148 to R172, R723). -/

namespace Sys2Proof.Machine

/-! ### Commands -/

/-- PORT_GET_STATUS (R174). -/
def specPortGetStatus : CmdSpec := {
  opcode := 0x0200, badLen := lenIs 1,
  body := fun s _ p =>
    let pt := u p 0 1
    let r := portRun s pt
    let c := portCfg s pt
    let rec_ : Bool := match r.train with
      | some t => (recordBad s pt t).isNone
      | none => false
    checked [chkSup (pt > 32) 0] fun _ =>
      .done {
        st := s
        payload := le 1 pt ++ le 1 c.admin ++ le 1 r.oper ++ le 1 r.speed ++ le 1 (modeCode s pt) ++
          le 1 (if isT1 s pt then c.role else 0xFF) ++
          le 1 (b2n (r.oper == 3 && bit c.flags 0 && r.partnerEee) + 2 * b2n r.partnerEee + 4 * b2n (r.oper == 3 && r.how == 1) +
            8 * b2n rec_ + 16 * b2n (holdsTokens s (16 + pt) && reservedCode s (16 + pt))) ++ zeros 1 ++ le 8 r.since } }

/-- The state with the settings of port `p` changed. -/
def setPortCfg (s : State) (p : Nat) (c : PortCfg) : State := s.modPorts fun x => { x with cfg := { x.cfg with ports := x.cfg.ports.set p c } }

/-- A change of `ADMIN` (R161, R164). -/
def applyAdmin (s : State) (p was now : Nat) : State :=
  if was = now then s
  else if now = 0 then stopPort s p 0 0
  else if was = 0 then startPort s p 0
  else if now = 2 then
    let o := (portRun s p).oper
    if 1 ≤ o ∧ o ≤ 3 ∧ !zenithAt s p then tc10Sleep s p 0 false else s
  else if (portRun s p).oper = 4 then checkRecord (raiseTc10 (setOper s p 1 0 0 0) p true false) p
  else s

/-- PORT_SET (R149, R152, R160, R161, R175). -/
def specPortSet : CmdSpec := {
  opcode := 0x0201, badLen := lenIs 10,
  body := fun s _ p =>
    let pt := u p 0 1
    let old := portCfg s pt
    let bb := pt ≤ 3
    let admin := u p 1 1
    let mode := if bb then u p 2 1 else old.mode
    let t1 := if bb then decide (mode ≤ 1) else isT1 s pt
    let role := if t1 then u p 3 1 else old.role
    let fec := if bb ∧ mode = 2 then u p 4 1 else old.fec
    let lpi := clampField 6 1 10000 (u p 6 2)
    let age := clampField 8 1 8760 (u p 8 2)
    let c : PortCfg := { admin := admin, mode := mode, role := role, fec := fec, flags := u p 5 1 % 8, lpiIdleUs := lpi.val, maxAgeH := age.val }
    let s1 := setPortCfg s pt c
    checked [chkSup (pt > 31) 0, chkSup (admin > 2) 1, chkSup (bb && mode > 3) 2, chkSup (t1 && role > 1) 3,
        chkSup (bb && mode == 2 && fec > 2) 4, chkConf (admin = 2 && !t1) 1, chkConf (mode != old.mode && old.admin != 0) 2,
        chkPol (mode != old.mode && (portRuleBad s1 pt).isSome) 2, chkPol (bit c.flags 0 && zenithAt s pt) 5] fun _ =>
      let s2 := if mode ≠ old.mode ∨ role ≠ old.role then
          let s2 := dropRecord s1 pt .changed
          if admin = old.admin then retrain s2 pt else s2
        else s1
      let s3 := zenithRecheck (applyAdmin s2 pt old.admin admin)
      .done {
        clamps := lpi.off ++ age.off, st := s3
        payload := le 1 pt ++ le 1 admin ++ le 1 mode ++ le 1 role ++ le 1 fec ++ le 1 c.flags ++ le 2 lpi.val ++ le 2 age.val } }

/-- EDGE_GROUP_SET (R158, R168, R176). -/
def specEdgeGroupSet : CmdSpec := {
  opcode := 0x0202, badLen := lenIs 2,
  body := fun s _ p =>
    let g := u p 0 1
    let ty := u p 1 1
    let ports := (List.range 4).map fun k => 4 + 4 * g + k
    let old := groupType s g
    checked [chkSup (g > 5) 0, chkSup (ty > 3) 1, chkConf (ports.any fun q => (portCfg s q).admin != 0) 0,
        chkConf (g ≤ 3 && ty ≥ 2 && (List.range 4).any fun k => (pseCfg s (4 * g + k)).enable) 1] fun _ =>
      let s1 := s.modPorts fun x => { x with cfg := { x.cfg with groups := x.cfg.groups.set g ty } }
      let s2 := if ty = old then s1 else ports.foldl (fun s q => dropRecord s q .changed) s1
      .done { payload := le 1 g ++ le 1 ty ++ le 1 old, st := zenithRecheck s2 } }

/-- PORT_GET_COUNTERS (R167, R177). -/
def specPortGetCounters : CmdSpec := {
  opcode := 0x0203, badLen := lenIs 2,
  body := fun s _ p =>
    let pt := u p 0 1
    checked [chkSup (pt > 32) 0] fun _ =>
      let c := (portRun s pt).counters
      .done {
        st := if bit (u p 1 1) 0 then modPort s pt fun r => { r with counters := List.replicate 16 0 } else s
        payload := le 1 pt ++ zeros 7 ++ (c.take 4).flatMap (le 8) ++ (c.drop 4).flatMap (le 4) } }

/-- PLCA_SET (R162, R163, R178). -/
def specPlcaSet : CmdSpec := {
  opcode := 0x0204, badLen := lenIs 7,
  body := fun s _ p =>
    let g := u p 0 1
    let id := u p 2 1
    let n := clampField 3 2 8 (u p 3 1)
    let t := clampField 4 1 255 (u p 4 1)
    let b := clampField 6 1 255 (u p 6 1)
    checked [chkSup (g > 3) 0, chkSup (u p 1 1 > 1) 1, chkSup (id > 7) 2, chkConf ((portCfg s (28 + g)).admin != 0) 0,
        chkConf (id ≥ n.val) 2] fun _ =>
      let c : Plca := {
        enable := u p 1 1 = 1, nodeId := id, nodeCount := n.val, toTimer := t.val, burstCnt := u p 5 1, burstTmr := b.val }
      .done {
        clamps := n.off ++ t.off ++ b.off
        st := s.modPorts fun x => { x with cfg := { x.cfg with plca := x.cfg.plca.set g c } }
        payload := le 1 g ++ le 1 (b2n c.enable) ++ le 1 id ++ le 1 n.val ++ le 1 t.val ++ le 1 c.burstCnt ++ le 1 b.val } }

/-- PSE_SET (R168, R170, R179). A settings change ends DENIED. -/
def specPseSet : CmdSpec := {
  opcode := 0x0205, badLen := lenIs 4,
  body := fun s _ p =>
    let i := u p 0 1
    let en := u p 1 1 = 1
    let pr := clampField 2 0 3 (u p 2 1)
    let mc := clampField 3 1 6 (u p 3 1)
    checked [chkSup (i > 15) 0, chkSup (u p 1 1 > 1) 1, chkConf (en && groupType s (i / 4) ≥ 2) 1] fun _ =>
      let c : PseCfg := { enable := en, prio := pr.val, maxClass := mc.val }
      let s1 := pseController (s.modPorts fun x => { x with cfg := { x.cfg with pse := x.cfg.pse.set i c } }) (i / 4)
      let st := (pseRun s i).state
      let s2 := if !en then pseRemove s1 i 0 else if st = 0 ∨ st = 4 then pseStart s1 i else s1
      .done {
        clamps := pr.off ++ mc.off, st := s2
        payload := le 1 i ++ le 1 (b2n en) ++ le 1 pr.val ++ le 1 mc.val } }

/-- PSE_GET_STATUS (R180). -/
def specPseGetStatus : CmdSpec := {
  opcode := 0x0206, badLen := lenIs 1,
  body := fun s _ p =>
    let i := u p 0 1
    let r := pseRun s i
    checked [chkSup (i > 15) 0] fun _ =>
      .done {
        st := s
        payload := le 1 i ++ le 1 r.state ++ le 1 r.reqClass ++ le 1 r.grant ++ le 2 r.tokens ++ le 2 r.powerMw ++ le 2 s.ports.railMv ++
          le 2 s.power.poeTokens ++ le 2 (poeFree s) ++ le 2 r.badSig } }

/-- TRAINING_CLEAR (R155, R181). -/
def specTrainingClear : CmdSpec := {
  opcode := 0x0207, badLen := lenIs 1,
  body := fun s _ p =>
    let pt := u p 0 1
    let ps := if pt = 0xFF then List.range 28 else [pt]
    checked [chkSup (pt > 27 && pt != 0xFF) 0] fun _ =>
      let hit := ps.filter fun q => (portRun s q).train.isSome && canFast s q
      .done { payload := le 1 hit.length, st := ps.foldl (fun s q => if canFast s q then dropRecord s q .fresh else s) s } }

/-! ### Rows of the link state machine -/

/-- PARTNER_SIGNAL_DETECTED (R156, R164): a port in DOWN goes to TRAINING; one in a mode without training goes UP. -/
def execPartnerSignalDetected (p : Nat) (s : State) : Host.Outcome State Fault Refusal :=
  if p > 32 ∨ (portRun s p).oper ≠ 1 then .next s
  else if (p ≤ 3 ∧ !isT1 s p) ∨ p ≥ 28 then .next (setOper s p 3 6 2 (nominalSpeed s p))
  else
    let r := portRun s p
    let fast := !r.fullNext && r.train.isSome && canFast s p
    .next (setOper (modPort s p fun r => { r with fastTry := fast, matched := false, fastAt := s.now }) p 2 6 0 0)

/-- TRAINING_COMPLETE (R151, R153 to R160, R164): training or auto-negotiation ends and the port comes UP. Two ends with the same
role never link up. A fast start ends here only after a match. `coeffs` and `finger` are what the training produced. -/
def execTrainingComplete (p partnerRole : Nat) (at100 partnerEee : Bool) (coeffs finger : Nat) (s : State) :
    Host.Outcome State Fault Refusal :=
  let r := portRun s p
  if p > 27 ∨ r.oper ≠ 2 then .next s
  else if isT1 s p ∧ partnerRole = (portCfg s p).role then .next s
  else if r.fastTry then
    if !r.matched then .next s
    else .next (setOper (portCount s p 13 1) p 3 6 1 (nominalSpeed s p))
  else
    let speed := if at100 ∧ p ≥ 4 ∧ groupType s (groupOf p) = 1 then 2 else nominalSpeed s p
    let master := (portCfg s p).role = 0
    let s1 := if canFast s p ∧ bit (portCfg s p).flags 1 then
        modPort { s with free := s.free + 1 } p fun r => { r with train := some {
          coeffs := coeffs, mode := modeCode s p, role := (portCfg s p).role
          finger := (if master then Config.fingerprint s.free else finger) % 2 ^ 48
          temp := baseTemp s, at_ := s.time.aon } }
      else s
    .next (setOper (modPort s1 p fun r => { r with partnerEee := partnerEee && !isT1 s p && p ≥ 4 }) p 3 6 0 speed)

/-- TRAINING_FAILED (R164): the attempt fails and the port is DOWN until the next partner signal. -/
def execTrainingFailed (p : Nat) (s : State) : Host.Outcome State Fault Refusal :=
  if p > 32 ∨ (portRun s p).oper ≠ 2 ∨ (portRun s p).fastTry then .next s else .next (setOper s p 1 1 0 0)

/-- LINK_LOSS (R165): the link of a port that is UP is lost: the partner is gone, or the PCS has failed. -/
def execLinkLoss (p : Nat) (pcs : Bool) (s : State) : Host.Outcome State Fault Refusal :=
  if p > 32 ∨ (portRun s p).oper ≠ 3 then .next s
  else .next (setOper (modPort s p fun r => { r with fullNext := true }) p 1 (if pcs then 2 else 1) 0 0)

/-- FAST_START_INFOFIELD_RX (R156, R157): the slave receives the master's fingerprint, or the master the slave's answer. -/
def execFastStartInfofieldRx (p finger : Nat) (answer : Bool) (s : State) : Host.Outcome State Fault Refusal :=
  let r := portRun s p
  match r.train with
  | none => .next s
  | some t =>
    if p > 27 ∨ r.oper ≠ 2 ∨ !r.fastTry ∨ r.matched then .next s else
    let slave := (portCfg s p).role = 1
    let ok := if slave then decide (finger = t.finger) else answer
    if ok then .next (modPort s p fun r => { r with matched := true })
    else .next (fallback s p 6 ((s.now - r.fastAt) / 1000))

/-- FAST_START_TIMEOUT (R156): no answer within 2 ms, or convergence not met within 6 ms of the first InfoField. -/
def execFastStartTimeout (p : Nat) (s : State) : Host.Outcome State Fault Refusal :=
  let r := portRun s p
  if p > 27 ∨ r.oper ≠ 2 ∨ !r.fastTry then .next s else
  let s1 := s.until (r.fastAt + if r.matched then 6000000 else 2000000)
  .next (fallback s1 p (if r.matched then 7 else 5) ((s1.now - r.fastAt) / 1000))

/-- TOKEN_RETRY_TIMER (R148): a port in POWER_DENIED requests its tokens again. -/
def execTokenRetryTimer (p : Nat) (s : State) : Host.Outcome State Fault Refusal :=
  if p > 32 ∨ (portRun s p).oper ≠ 5 then .next s else .next (startPort s p 0)

/-- Whether a port has nothing to send. -/
def portIdle (s : State) (p : Nat) : Bool :=
  ((List.range 8).all fun c => (queueOf s p c).isEmpty) && (tget s.egr.sending p).isNone && (tget s.egr.held p).isNone

/-- EEE_IDLE_TIMER (R149, R160): `LPI_IDLE_US` have passed without a frame to send. LOW_POWER_IDLE at most once per second. -/
def execEeeIdleTimer (p : Nat) (s : State) : Host.Outcome State Fault Refusal :=
  let r := portRun s p
  let c := portCfg s p
  if p < 4 ∨ p > 27 ∨ isT1 s p ∨ r.oper ≠ 3 ∨ r.lpi ∨ !bit c.flags 0 ∨ !r.partnerEee ∨ zenithAt s p ∨ !portIdle s p then .next s else
  let s1 := portCount (modPort s p fun r => { r with lpi := true, lpiSince := r.lpiSince + 1 }) p 15 1
  let due : Bool := match r.lpiEvAt with
    | none => true
    | some t => t + secondNs ≤ s.now
  if due then
    .next (raise (modPort s1 p fun r => { r with lpiEvAt := some s.now, lpiSince := 0 }) 0x82 0 noLevel (srcId 1 p)
      (le 1 p ++ le 1 0 ++ le 1 0 ++ le 1 0 ++ le 4 (r.lpiSince + 1)))
  else .next s1

/-- TC10_SLEEP_REQUEST_RX (R161): accepted if `TC10_ACCEPT` is set, rejected otherwise. -/
def execTc10SleepRequestRx (p : Nat) (s : State) : Host.Outcome State Fault Refusal :=
  if p > 27 ∨ !isT1 s p ∨ (portRun s p).oper ≠ 3 ∨ !bit (portCfg s p).flags 2 then .next s
  else .next (tc10Sleep s p 1 true)

/-- A wake pulse of the partner at a sleeping port of an awake module (R161): the link is restored. -/
def tc10Wake (s : State) (p : Nat) : State :=
  let s1 := checkRecord (raiseTc10 (setOper s p 1 6 0 0) p true true) p
  if (portCfg s p).admin = 2 then setPortCfg s1 p { portCfg s p with admin := 1 } else s1

/-- PLCA_BEACON_LOSS (R163): a following node sees no beacon for 4 periods. -/
def execPlcaBeaconLoss (g : Nat) (s : State) : Host.Outcome State Fault Refusal :=
  if g > 3 ∨ (at' s.ports.cfg.plca g {}).nodeId = 0 then .next s else .next (setPlca s g false)

/-- PLCA_BEACON_RETURN (R163): beacons are seen again on a segment that is UP with PLCA enabled. -/
def execPlcaBeaconReturn (g : Nat) (s : State) : Host.Outcome State Fault Refusal :=
  let c := at' s.ports.cfg.plca g {}
  if g > 3 ∨ c.nodeId = 0 ∨ !c.enable ∨ !portUp s (28 + g) then .next s else .next (setPlca s g true)

/-! ### Rows of the PSE -/

/-- PSE_DETECTION (R168, R172): a detecting port finds a valid PD signature, or an invalid one, which is counted. -/
def execPseDetection (i : Nat) (valid : Bool) (s : State) : Host.Outcome State Fault Refusal :=
  if i > 15 ∨ (pseRun s i).state ≠ 1 then .next s
  else if valid then .next (modPse s i fun r => { r with state := 2 })
  else .next (modPse s i fun r => { r with badSig := satAdd 16 r.badSig 1 })

/-- PSE_CLASSIFICATION (R168 to R170): the PD's class; `second` is the class of the second pair set of a dual-signature PD, 0 for a
single-signature one. -/
def execPseClassification (i cls second : Nat) (s : State) : Host.Outcome State Fault Refusal :=
  if i > 15 ∨ (pseRun s i).state ≠ 2 ∨ cls > 8 ∨ second > 4 ∨ (second > 0 ∧ (cls = 0 ∨ cls > 4)) then .next s else
  let need := if second = 0 then classTokens (demote s i cls) else classTokens (demote s i cls) + classTokens (demote s i second)
  let s1 := modPse s i fun r => { r with reqClass := max cls second, need := need }
  .next (pseRequest (raisePse s1 i 0) i)

/-- PSE_OVERLOAD (R172). -/
def execPseOverload (i peakMw railMv : Nat) (s : State) : Host.Outcome State Fault Refusal := .next (pseFault s i 0 peakMw railMv)

/-- PSE_SHORT (R172). -/
def execPseShort (i peakMw railMv : Nat) (s : State) : Host.Outcome State Fault Refusal := .next (pseFault s i 1 peakMw railMv)

/-- PSE_HARD_SHORT (R172, R723): above the hard-short threshold the port is switched off at once, with the cause of a short. -/
def execPseHardShort (i peakMw railMv : Nat) (s : State) : Host.Outcome State Fault Refusal := .next (pseFault s i 1 peakMw railMv)

/-- PSE_THERMAL (R172). -/
def execPseThermal (i peakMw railMv : Nat) (s : State) : Host.Outcome State Fault Refusal := .next (pseFault s i 2 peakMw railMv)

/-- PSE_SUPPLY_FAULT (R172, R173): the 54 V rail has failed; power is removed from every port. -/
def execPseSupplyFault (railMv : Nat) (s : State) : Host.Outcome State Fault Refusal :=
  if s.ports.supplyFault then .next s else
  let s1 := (List.range 16).foldl (fun s i =>
    let r := pseRun s i
    if r.state = 3 then modPse (pseOff s i 5) i fun r => { r with faults := wrapAdd 32 r.faults 1, reqClass := 0xFF }
    else if r.state = 1 ∨ r.state = 2 then modPse s i fun r => { r with state := 5 }
    else s) (s.modPorts fun x => { x with supplyFault := true, railMv := railMv })
  .next (raise s1 0x85 4 noLevel (srcId 1 4) (le 1 0xFF ++ le 1 3 ++ le 2 0 ++ le 2 railMv ++ zeros 2 ++ le 4 (pseRun s1 0).faults))

/-- PSE_SUPPLY_RECOVERY (R172): the rail has been above 51 V for 100 ms. -/
def execPseSupplyRecovery (railMv : Nat) (s : State) : Host.Outcome State Fault Refusal :=
  if !s.ports.supplyFault then .next (s.modPorts fun x => { x with railMv := railMv }) else
  .next ((List.range 16).foldl (fun s i => if (pseRun s i).state = 5 then modPse s i fun r => { r with state := 1 } else s)
    (s.modPorts fun x => { x with supplyFault := false, railMv := railMv }))

/-- PSE_DISCONNECT (R170, R172): the PD is gone. A denied port detects again. -/
def execPseDisconnect (i : Nat) (s : State) : Host.Outcome State Fault Refusal :=
  let st := (pseRun s i).state
  if i > 15 ∨ (st ≠ 3 ∧ st ≠ 4) then .next s else .next (pseRemove s i 1)

/-- PSE_FAULT_WAIT_EXPIRY (R172): the wait of 1 s ends, unless the supply has failed. -/
def execPseFaultWaitExpiry (i : Nat) (s : State) : Host.Outcome State Fault Refusal :=
  if i > 15 ∨ (pseRun s i).state ≠ 5 ∨ s.ports.supplyFault then .next s else .next (modPse s i fun r => { r with state := 1 })

/-! ### The rows of these commands -/

/-- PORT_GET_STATUS (R174): the command from its source. -/
def execPortGetStatus (r : Req) (s : State) : Host.Outcome State Fault Refusal := command specPortGetStatus r s

/-- PORT_SET (R175): the command from its source. -/
def execPortSet (r : Req) (s : State) : Host.Outcome State Fault Refusal := command specPortSet r s

/-- EDGE_GROUP_SET (R176): the command from its source. -/
def execEdgeGroupSet (r : Req) (s : State) : Host.Outcome State Fault Refusal := command specEdgeGroupSet r s

/-- PORT_GET_COUNTERS (R177): the command from its source. -/
def execPortGetCounters (r : Req) (s : State) : Host.Outcome State Fault Refusal := command specPortGetCounters r s

/-- PLCA_SET (R178): the command from its source. -/
def execPlcaSet (r : Req) (s : State) : Host.Outcome State Fault Refusal := command specPlcaSet r s

/-- PSE_SET (R179): the command from its source. -/
def execPseSet (r : Req) (s : State) : Host.Outcome State Fault Refusal := command specPseSet r s

/-- PSE_GET_STATUS (R180): the command from its source. -/
def execPseGetStatus (r : Req) (s : State) : Host.Outcome State Fault Refusal := command specPseGetStatus r s

/-- TRAINING_CLEAR (R181): the command from its source. -/
def execTrainingClear (r : Req) (s : State) : Host.Outcome State Fault Refusal := command specTrainingClear r s

end Sys2Proof.Machine
end

