-- ==== Sys2Proof/Machine/GatewayOps.lean ====
section
/-! DEFINITION. What the legacy channels and the gateway share: counters (R430, R480), posted-write failures (R470), retry tokens
(R88, R471), the engines' FIFOs (R405), transmit queues (R406, R469), locks (R473, R474), and latching (R451, R458). -/

namespace Sys2Proof.Machine

/-- The state with its legacy buses changed. -/
def State.modLeg (s : State) (f : Legacy → Legacy) : State := { s with leg := f s.leg }

/-- The state with its gateway changed. -/
def State.modGw (s : State) (f : Gateway → Gateway) : State := { s with gw := f s.gw }

/-! ### Channels (R29, R106) -/

/-- Whether a channel code is populated (R106, R403). -/
def chanOk (c : Nat) : Bool := c ≤ 9 || (16 ≤ c && c ≤ 21) || c == 24 || c == 25 || (32 ≤ c && c ≤ 55)

/-- Whether a channel is a serial port. -/
def isSerial (c : Nat) : Bool := 16 ≤ c && c ≤ 21

/-- Whether a channel is LIN. -/
def isLin (c : Nat) : Bool := c == 24 || c == 25

/-- Whether a channel is MVB. -/
def isMvb (c : Nat) : Bool := c == 8 || c == 9

/-- Whether a channel is a discrete input. -/
def isGpi (c : Nat) : Bool := 32 ≤ c && c ≤ 47

/-- The engine that serves a channel (R29). -/
def engineOf (c : Nat) : Nat :=
  if c ≤ 3 then 0 else if c ≤ 7 then 1 else if c ≤ 9 then 2 else if c = 24 ∨ c = 25 then 1 else 3

/-- The channels of an engine. -/
def engineChans (e : Nat) : List Nat := (List.range 56).filter fun c => chanOk c && engineOf c == e

/-- What channel `c` keeps. -/
def chanOf (s : State) (c : Nat) : ChanRun := at' s.leg.chans c {}

/-- The state with what channel `c` keeps changed. -/
def modChan (s : State) (c : Nat) (f : ChanRun → ChanRun) : State := s.modLeg fun l => { l with chans := l.chans.modify c f }

/-- Add to counter `C<pos>` of a channel (R430). -/
def chanCount (s : State) (c pos n : Nat) : State := modChan s c fun x => { x with cs := x.cs.modify pos fun v => satAdd 32 v n }

/-- A counter that shares `C7` of a CAN channel with another: `half` 0 the low half, 1 the high (R430). -/
def chanCount7 (s : State) (c half n : Nat) : State :=
  modChan s c fun x => { x with cs := x.cs.modify 7 fun v =>
    if half = 0 then v / 65536 * 65536 + satAdd 16 (v % 65536) n else satAdd 16 (v / 65536) n * 65536 + v % 65536 }

/-- A message received on a channel is counted (R430). -/
def chanRx (s : State) (c : Nat) : State := modChan s c fun x => { x with rx := wrapAdd 64 x.rx 1 }

/-- A message sent on a channel is counted (R430). -/
def chanTx (s : State) (c : Nat) : State := modChan s c fun x => { x with tx := wrapAdd 64 x.tx 1 }

/-- `TX_RESTART_DROP` (R430). -/
def restartDrop (s : State) (c : Nat) : State := if c ≤ 7 then chanCount7 s c 0 1 else chanCount s c 7 1

/-- CAN settings and state of channel `c`. -/
def canCfg (s : State) (c : Nat) : CanCfg := at' s.leg.cfg.can c {}
/-- State of CAN channel `c`. -/
def canRun (s : State) (c : Nat) : CanRun := at' s.leg.can c {}
/-- The state with CAN channel `c` changed. -/
def modCan (s : State) (c : Nat) (f : CanRun → CanRun) : State := s.modLeg fun l => { l with can := l.can.modify c f }
/-- MVB settings of channel `c`. -/
def mvbCfg (s : State) (c : Nat) : MvbCfg := at' s.leg.cfg.mvb (c - 8) {}
/-- State of MVB channel `c`. -/
def mvbRun (s : State) (c : Nat) : MvbRun := at' s.leg.mvb (c - 8) {}
/-- The state with MVB channel `c` changed. -/
def modMvb (s : State) (c : Nat) (f : MvbRun → MvbRun) : State := s.modLeg fun l => { l with mvb := l.mvb.modify (c - 8) f }
/-- The configured port `p` of MVB channel `c`. -/
def mvbPort (s : State) (c p : Nat) : Option MvbPort := tget (at' s.leg.cfg.ports (c - 8) []) p
/-- The state of port `p` of MVB channel `c`. -/
def mvbPortRun (s : State) (c p : Nat) : MvbPortRun := tgetD (at' s.leg.mvbPorts (c - 8) []) p {}
/-- The state with a port of an MVB channel changed. -/
def modMvbPort (s : State) (c p : Nat) (f : MvbPortRun → MvbPortRun) : State :=
  s.modLeg fun l => { l with mvbPorts := l.mvbPorts.modify (c - 8) fun t => tmod t p {} f }
/-- Settings of serial port `c`. -/
def serCfg (s : State) (c : Nat) : SerialCfg := at' s.leg.cfg.serial (c - 16) {}
/-- State of serial port `c`. -/
def serRun (s : State) (c : Nat) : SerialRun := at' s.leg.serial (c - 16) {}
/-- The state with serial port `c` changed. -/
def modSer (s : State) (c : Nat) (f : SerialRun → SerialRun) : State := s.modLeg fun l => { l with serial := l.serial.modify (c - 16) f }
/-- Settings of LIN channel `c`. -/
def linCfg (s : State) (c : Nat) : LinCfg := at' s.leg.cfg.lin (c - 24) {}
/-- State of LIN channel `c`. -/
def linRun (s : State) (c : Nat) : LinRun := at' s.leg.lin (c - 24) {}
/-- The state with LIN channel `c` changed. -/
def modLin (s : State) (c : Nat) (f : LinRun → LinRun) : State := s.modLeg fun l => { l with lin := l.lin.modify (c - 24) f }
/-- The schedule table `t` of LIN channel `c`. -/
def linTable (s : State) (c t : Nat) : List LinEntry := at' (at' s.leg.cfg.sched (c - 24) []) t []
/-- Settings of a discrete signal. -/
def dioCfg (s : State) (c : Nat) : DioCfg := at' s.leg.cfg.dio (c - 32) {}
/-- State of a discrete signal. -/
def dioRun (s : State) (c : Nat) : DioRun := at' s.leg.dio (c - 32) {}
/-- The state with a discrete signal changed. -/
def modDio (s : State) (c : Nat) (f : DioRun → DioRun) : State := s.modLeg fun l => { l with dio := l.dio.modify (c - 32) f }
/-- Engine `e`. -/
def engine (s : State) (e : Nat) : Engine := at' s.leg.engines e {}
/-- The state with engine `e` changed. -/
def modEngine (s : State) (e : Nat) (f : Engine → Engine) : State := s.modLeg fun l => { l with engines := l.engines.modify e f }
/-- Whether the engine of a channel runs: powered and not restarting (R404, R429). -/
def engineRuns (s : State) (c : Nat) : Bool := let e := engine s (engineOf c); e.on && e.restart.isNone

/-- `STATE` of a channel (R432). -/
def chanState (s : State) (c : Nat) : Nat :=
  if c ≤ 7 then (canRun s c).state
  else if isMvb c then
    let m := mvbRun s c
    if !m.on then 0 else match at' m.lineOk 0 true, at' m.lineOk 1 true with
      | true, true => 1
      | true, false => 2
      | false, true => 3
      | false, false => 4
  else if isSerial c then
    if (serCfg s c).mode = 0 ∨ !(engine s 3).on then 0
    else if (serRun s c).brk.isSome then 3 else if (serRun s c).cur.isSome then 2 else 1
  else if isLin c then (linRun s c).state
  else if isGpi c then (dioRun s c).level
  else (dioRun s c).level

/-- The times of the last `STATE` changes are kept (R432): `s1` is the state after a step from `s`. -/
def stampChans (s s1 : State) : State :=
  let l := (List.range 56).filter fun c => chanState s c != chanState s1 c
  l.foldl (fun s1 c => modChan s1 c fun x => { x with since := s1.now }) s1

/-- A row of a legacy channel: its effect, with the times of `STATE` changes. -/
def legRow (s : State) (f : State → State) : Host.Outcome State Fault Refusal := .next (stampChans s (f s))

/-! ### Gateway counters (R480) -/

/-- Widths of a gateway counter table; the three values of the device table stand elsewhere. -/
def gwWidths : Nat → List Nat
  | 0 => [64, 64, 32, 32, 32, 32, 32, 32, 32, 32]
  | 1 => [64, 32, 32, 32, 32, 32, 32, 32, 32]
  | 2 => [64, 64, 64, 64, 64, 32, 32, 32, 32, 32, 32, 32, 32, 32]
  | _ => []

/-- Counter values of an index. -/
def gwCtr (s : State) (tbl idx : Nat) : List Nat := tgetD s.gw.counters (65536 * tbl + idx) ((gwWidths tbl).map fun _ => 0)

/-- Add to counter `pos` of an index. -/
def gwCount (s : State) (tbl idx pos n : Nat) : State :=
  let c := gwCtr s tbl idx
  s.modGw fun g => { g with
    counters := tset g.counters (65536 * tbl + idx) (c.modify pos fun x => ctrAdd (at' (gwWidths tbl) pos 32) x n) }

/-! ### Posted-write failures (R467 to R470, R481) -/

/-- `INITIATOR_KIND`, `INITIATOR`, `ROUTE` and `TAG` of an origin (R481). -/
def originBytes : Origin → Nat × Nat × Nat × Nat
  | .route r _ => (0, 0, r, 0)
  | .direct k w t => (k, w, 0xFFFF, t)
  | .fetch _ => (1, 0, 0xFFFF, 0)
  | .exchange k w _ => (k + 1, w, 0xFFFF, 0)

/-- POSTED_WRITE_FAILED (R470, R481): at most 100 a second, those suppressed counted in the next; each is in the log. -/
def raisePosted (s : State) (tx : TxMsg) (cause : Nat) : State :=
  let o := originBytes tx.origin
  let s1 := if s.gw.failAt + secondNs ≤ s.now then s.modGw fun g => { g with failAt := s.now, failN := 0 } else s
  let rec_ : EvRec := {
    type := 0x71, sev := 3, level := 2, source := srcId 0xA tx.msg.chan, time := s.now
    payload := padTo 16 (le 1 o.1 ++ le 1 o.2.1 ++ le 1 tx.msg.chan ++ le 1 cause ++ le 4 tx.msg.ident ++ le 2 tx.addr ++
      le 2 o.2.2.1 ++ le 2 o.2.2.2 ++ le 2 s1.gw.failSupp) }
  let log := fun (s : State) => if logTakes s rec_ then s
    else logPut s { kind := 0, seq := 0, ev := rec_, detail := [], uptimeMs := s.mb.uptimeMs }
  if s1.gw.failN ≥ 100 then
    logPut (s1.modGw fun g => { g with failSupp := satAdd 16 g.failSupp 1 })
      { kind := 0, seq := 0, ev := rec_, detail := [], uptimeMs := s.mb.uptimeMs }
  else emit (log (s1.modGw fun g => { g with failN := g.failN + 1, failSupp := 0 })) rec_

/-- A posted write that fails after it has left the journal (R470). -/
def postedFail (s : State) (tx : TxMsg) (cause : Nat) : State :=
  raisePosted (match tx.origin with
    | .route r _ => gwCount s 0 r 6 1
    | _ => gwCount s 1 tx.msg.chan 1 1) tx cause

/-! ### Retry tokens (R88, R89) -/

/-- Whether a token is still valid (R88). -/
def tokenLive (s : State) (t : RetryTok) : Bool := s.now < t.issued + (t.hintMs + 1000) * 1000000

/-- The tokens outstanding, the oldest first (R88). -/
def liveTokens (s : State) : List RetryTok := s.mb.tokens.filter (tokenLive s)

/-- A token is issued (R88): a 65th invalidates the oldest. -/
def issueToken (s : State) (src opcode : Nat) (payload : List Byte) (hint : Nat) (fetch : FetchState) (object : Nat) : Nat × State :=
  let t := Config.token s.free % (2 ^ 32 - 1) + 1
  let e : RetryTok := {
    token := t, src := src, opcode := opcode, payload := payload, hintMs := hint, fetch := fetch, object := object, issued := s.now }
  (t, { s.modMb (fun m => { m with tokens := (liveTokens s ++ [e]).drop ((liveTokens s).length + 1 - 64) }) with free := s.free + 1 })

/-- The valid token that a request carries, if it is bound to it (R88, R89). -/
def findToken (s : State) (tok src opcode : Nat) (payload : List Byte) : Option RetryTok :=
  if tok = 0 then none else s.mb.tokens.find? fun t =>
    t.token == tok && t.src == src && t.opcode == opcode && t.payload == payload && tokenLive s t

/-- A token is consumed (R89). -/
def dropToken (s : State) (tok : Nat) : State := s.modMb fun m => { m with tokens := m.tokens.filter fun t => t.token != tok }

/-- A token is answered RETRY again under a new hint (R89). -/
def renewToken (s : State) (tok hint : Nat) : State :=
  s.modMb fun m => { m with tokens := m.tokens.map fun t => if t.token = tok then { t with hintMs := hint, issued := s.now } else t }

/-- What a token's fetch has come to is recorded (R89). -/
def setFetch (s : State) (tok : Nat) (f : FetchState) : State :=
  s.modMb fun m => { m with tokens := m.tokens.map fun t => if t.token = tok then { t with fetch := f } else t }

/-- A fetch fails (R471): `cause` of FETCH_FAILED; an exchange has no such event. -/
def fetchFail (s : State) (tok status cause : Nat) : State :=
  match s.gw.fetches.find? fun f => f.token == tok with
  | none => setFetch s tok (.failed status)
  | some f =>
    let s1 := setFetch (s.modGw fun g => { g with fetches := g.fetches.filter fun x => x.token != tok }) tok (.failed status)
    if f.how = 4 then s1
    else raise (gwCount s1 1 f.chan 5 1) 0x76 2 noLevel (srcId 0xA f.chan)
      (le 1 f.chan ++ le 1 cause ++ le 1 f.how ++ zeros 1 ++ le 4 f.ident ++ le 2 f.addr ++ zeros 2 ++ le 4 tok)

/-- A message towards a channel is dropped (R429, R470, R471): a posted one fails with `cause`, a fetch or an exchange with it. -/
def failTx (s : State) (tx : TxMsg) (cause fetchCause : Nat) : State :=
  match tx.origin with
  | .fetch t => fetchFail s t stConflict fetchCause
  | .exchange _ _ t => if t = 0 then s else fetchFail s t stConflict fetchCause
  | _ => postedFail s tx cause

/-! ### Receive FIFOs and side-band indications (R405, R448) -/

/-- A received message or indication joins its engine's FIFO (R405); its `BUS_TIME` is never 0 (R407). -/
def fifoPush (s : State) (m : BusMsg) : State :=
  let e := engineOf m.chan
  let m := { m with time := max 1 m.time }
  if (engine s e).fifo.length ≥ 512 then modChan s m.chan fun x => { x with fifoDrop := satAdd 32 x.fifoDrop 1 }
  else modEngine s e fun x => { x with fifo := x.fifo ++ [m] }

/-- A side-band indication of a channel (R448). -/
def sideBand (s : State) (c code : Nat) (detail : List Byte) : State :=
  fifoPush s { kind := 7, chan := c, ident := code, time := s.now, data := detail }

/-- The reception of an identifier is noted, for the hints of R471. -/
def noteSeen (s : State) (c ident : Nat) : State :=
  let k := 2 ^ 32 * c + ident
  s.modGw fun g => { g with seen := tset g.seen k (s.now, match tget g.seen k with
    | some x => s.now - x.1
    | none => 0) }

/-! ### Lengths a channel accepts (R461) -/

/-- Bytes of an F-code (R416). -/
def fcodeSize (f : Nat) : Nat := 2 ^ (f + 1)

/-- `LEN` of a LIN frame as its schedules give it (R441). -/
def linLen (s : State) (c ident : Nat) : Option Nat :=
  ((((at' s.leg.cfg.sched (c - 24) []).flatMap id).find? fun e => e.id == ident)).map (·.len)

/-- Whether a LIN frame is published by the commander (R424). -/
def linPublished (s : State) (c ident : Nat) : Bool :=
  ((at' s.leg.cfg.sched (c - 24) []).flatMap id).any fun e => (e.id == ident && (e.type == 0 || e.type == 3)) || (e.type == 4 && ident == 0x3C)

/-- Whether a message length does not suit its channel (R410, R415, R461). -/
def lengthBad (s : State) (kind c ident len : Nat) : Bool :=
  if c ≤ 7 then
    let k := canCfg s c
    if kind = 1 then k.proto != 2 || len < 9 || len > 2048
    else if bit k.flags 1 then len > 1785
    else if k.proto ≥ 1 then len > 64 else len > 8
  else if isMvb c then
    if kind = 3 then false else match mvbPort s c ident with
      | some p => len != fcodeSize p.fcode
      | none => true
  else if isLin c then match linLen s c ident with
    | some n => len != n
    | none => true
  else if 48 ≤ c ∧ c ≤ 55 then len != 1
  else false

/-! ### The serial ports' exchanges (R422, R473) -/

/-- Whether a message belongs to the owner of a lock (R473). -/
def ownedBy (l : GwLock) (tx : TxMsg) : Bool :=
  match tx.origin with
  | .direct k w _ => k == l.kind + 1 && w == l.who
  | .exchange k w _ => k == l.kind && w == l.who
  | _ => false

/-- Whether a message is a fetch poll of the owner of a lock (R473): its token is the owner's. -/
def fetchOwned (s : State) (l : GwLock) (tx : TxMsg) : Bool :=
  match tx.origin with
  | .fetch t => s.mb.tokens.any fun k => k.token == t && (if l.kind = 0 then k.src == l.who else l.kind == 2 && k.src == 16 + l.who)
  | _ => false

/-- The next message a serial port sends (R473): under a lock the owner's exchanges and writes, then the owner's fetch polls; else the
first. -/
def serialNext (s : State) (c : Nat) : Option TxMsg :=
  match tget s.gw.locks c with
  | some l => ((chanOf s c).txq.find? (ownedBy l)).or ((chanOf s c).txq.find? (fetchOwned s l))
  | none => (chanOf s c).txq.head?

/-- New settings of a serial port come into force (R439): with the port off, what it has queued fails. -/
def serApply (s : State) (c : Nat) (k : SerialCfg) : State :=
  let s1 := modSer (s.modLeg fun l => { l with cfg := { l.cfg with serial := l.cfg.serial.set (c - 16) k } }) c fun r => { r with next := none }
  if k.mode = 0 then
    (chanOf s c).txq.foldl (fun s tx => failTx s tx 1 1) (modChan (modSer s1 c fun r => { r with brk := none }) c fun x => { x with txq := [] })
  else s1

/-- A serial port sends what it may (R422): a Modbus request, or an exchange that expects a response, is then outstanding; anything
else has left at once. `fuel` bounds the messages. -/
def serialPump : Nat → State → Nat → State
  | 0, s, _ => s
  | n + 1, s, c =>
    if (serRun s c).cur.isSome then s else
    let s := match (serRun s c).next with
      | some k => serApply s c k
      | none => s
    if (serCfg s c).mode = 0 ∨ !engineRuns s c then s else
    match serialNext s c with
    | none => s
    | some tx =>
      let s1 := chanTx (modChan s c fun x => { x with txq := x.txq.erase tx }) c
      let s2 := match tx.origin, tget s1.gw.locks c with
        | .exchange _ _ _, some l => s1.modGw fun g => { g with locks := tset g.locks c { l with exchanges := l.exchanges + 1 } }
        | _, _ => s1
      if (serCfg s c).mode = 3 ∨ tx.reply then modSer s2 c fun x => { x with cur := some tx, sentAt := s2.now }
      else serialPump n s2 c

/-! ### Transmit queues (R406, R469) -/

/-- Whether a message is posted (R469). -/
def isPosted (tx : TxMsg) : Bool :=
  match tx.origin with
  | .route _ _ => true
  | .direct _ _ _ => true
  | _ => false

/-- A message joins a channel's transmit queue (R469): a route output replaces its predecessor in place; 192 entries are for posted
messages and 64 for the others. -/
def queueTx (s : State) (tx : TxMsg) : State :=
  let c := tx.msg.chan
  let q := (chanOf s c).txq
  let same := match tx.origin with
    | .route r t => q.findIdx? fun x => x.origin == .route r t
    | _ => none
  match same, tx.origin with
  | some i, .route r _ => gwCount (modChan s c fun x => { x with txq := x.txq.set i tx }) 0 r 7 1
  | _, _ =>
    if isPosted tx then
      if (q.filter isPosted).length ≥ 192 then postedFail (gwCount s 1 c 2 1) tx 0
      else modChan s c fun x => { x with txq := x.txq ++ [tx] }
    else if (q.filter fun x => !isPosted x).length ≥ 64 then failTx s tx 0 1
    else modChan s c fun x => { x with txq := x.txq ++ [tx] }

/-- J1939_TP_ABORT (R415, R431), counted. -/
def tpAbort (s : State) (c : Nat) (x : TpSession) (reason : Nat) : State :=
  raise (chanCount s c 6 1) 0x61 2 noLevel (srcId 0xA c)
    (le 1 c ++ le 1 (b2n x.sender) ++ le 1 (b2n !x.bam) ++ le 1 reason ++ le 3 x.pgn ++ le 1 x.peer ++ le 2 x.size ++ le 2 x.done)

/-- PGN, priority and destination of a 29-bit identifier (J1939-21). -/
def j1939Pgn (id : Nat) : Nat := let pf := id / 65536 % 256; if pf < 240 then id / 65536 % 1024 * 256 else id / 256 % 262144
/-- Destination of a 29-bit identifier: 255 for a broadcast PGN. -/
def j1939Dest (id : Nat) : Nat := if id / 65536 % 256 < 240 then id / 256 % 256 else 255

/-- A message of more than 8 bytes on a channel with `J1939` opens a transmit session (R414, R415). -/
def tpOpen (s : State) (tx : TxMsg) : State :=
  let c := tx.msg.chan
  let d := j1939Dest tx.msg.ident
  let x : TpSession := {
    sender := true, bam := d = 255, peer := d, pgn := j1939Pgn tx.msg.ident, prio := tx.msg.ident / 67108864 % 8,
    size := tx.msg.data.length, time := s.now, data := tx.msg.data, origin := some tx.origin }
  let mine := (canRun s c).tp.filter (·.sender)
  if mine.length ≥ 8 ∨ mine.any (fun y => y.peer == d) then tpAbort s c x 0xF4
  else modCan s c fun r => { r with tp := r.tp ++ [x] }

/-- Whether a route has already told of this restart (R457): it raises one failure per restart. -/
def restartFail (s : State) (tx : TxMsg) : State :=
  let c := tx.msg.chan
  let e := engineOf c
  match tx.origin with
  | .route r _ =>
    if (engine s e).told.contains r then gwCount s 0 r 6 1
    else postedFail (modEngine s e fun x => { x with told := r :: x.told }) tx 6
  | _ => failTx s tx 6 2

/-- The gateway hands a message to a channel (R406, R411, R412, R418, R424, R428, R429, R469). -/
def toChannel (s : State) (tx : TxMsg) : State :=
  let c := tx.msg.chan
  if !(engine s (engineOf c)).on then failTx s tx 1 1
  else if (engine s (engineOf c)).restart.isSome then restartFail (restartDrop s c) tx
  else if c ≤ 7 then
    let st := (canRun s c).state
    if (canCfg s c).mode = 0 ∨ (canCfg s c).mode = 2 then failTx (chanCount s c 5 1) tx 1 1
    else if st ≥ 3 then failTx (chanCount s c 4 1) tx 1 1
    else if bit (canCfg s c).flags 1 ∧ tx.msg.data.length > 8 ∧ tx.msg.kind = 0 then tpOpen s tx
    else queueTx s tx
  else if isMvb c then
    if chanState s c = 0 ∨ chanState s c = 4 then failTx s tx 1 1
    else if tx.msg.kind = 3 then (if bit (mvbCfg s c).flags 0 then queueTx s tx else failTx s tx 1 1)
    else match tx.origin with
      | .fetch _ => queueTx s tx
      | _ => modMvbPort s c tx.msg.ident fun p => { p with value := tx.msg.data }
  else if isSerial c then
    if (serCfg s c).mode = 0 then failTx s tx 1 1 else serialPump 256 (queueTx s tx) c
  else if isLin c then
    if (linRun s c).state = 0 then failTx s tx 1 1
    else modLin s c fun r => { r with
      values := tset r.values tx.msg.ident tx.msg.data
      pendings := (tx.msg.ident, true) :: r.pendings.filter fun p => p.1 != tx.msg.ident }
  else
    let v := u tx.msg.data 0 1 % 2
    let was := dioRun s c
    let s1 := if was.level = v ∧ was.driven then s else chanTx s c
    modDio s1 c fun d => { d with level := v, driven := true }

/-! ### Locks (R473, R474) -/

/-- The oldest outstanding token of a port (R473). -/
def oldestToken (s : State) (c : Nat) : Option Nat := ((liveTokens s).find? fun t => t.object == c).map (·.token)

/-- A lock ends (R473): the holder of the oldest token of its port may acquire next, and the port goes on. -/
def endLock (s : State) (c : Nat) : State :=
  let s1 := s.modGw fun g => { g with
    locks := tdel g.locks c
    heir := match oldestToken s c with
      | some t => tset g.heir c t
      | none => tdel g.heir c }
  serialPump 256 s1 c

/-- The owner's posted writes not yet sent fail with cause 5 (R474). -/
def failOwned (s : State) (c : Nat) (l : GwLock) : State :=
  let mine := (chanOf s c).txq.filter fun x => ownedBy l x && isPosted x
  mine.foldl (fun s tx => postedFail s tx 5) (modChan s c fun x => { x with txq := x.txq.filter fun y => !mine.contains y })

/-- A lock is broken (R474): an exchange in progress is cut, LOCK_BROKEN raised, the owner's unsent posted writes fail. -/
def breakLock (s : State) (c cause : Nat) : State :=
  match tget s.gw.locks c with
  | none => s
  | some l =>
    let cut := (serRun s c).cur.any (ownedBy l)
    let s1 := match (serRun s c).cur with
      | some tx => if cut then
          let t := modSer s c fun x => { x with cur := none }
          match tx.origin with
          | .exchange _ _ k => if k = 0 then t else fetchFail t k stTimeout 0
          | _ => postedFail t tx 5
        else s
      | none => s
    let s2 := raise (gwCount s1 1 c 8 1) 0x72 3 noLevel (srcId 0xA c)
      (le 1 c ++ le 1 l.kind ++ le 1 l.who ++ le 1 cause ++ le 4 ((s.now - l.since) / 1000000) ++ le 2 l.exchanges ++ le 1 (b2n cut))
    endLock (failOwned s2 c l) c

/-- Every lock that `which` selects is broken (R474). -/
def breakLocks (s : State) (which : GwLock → Bool) (cause : Nat) : State :=
  (s.gw.locks.filter fun e => which e.2).foldl (fun s e => breakLock s e.1 cause) s

/-! ### The gateway's inputs (R447 to R451, R458) -/

/-- An input as it is matched (R458). -/
structure GwInput where
  epoch  : Nat
  space  : Nat
  kind   : Nat
  chan   : Nat
  ident  : Nat
  time   : Nat
  cflags : Nat
  zone   : Nat
  data   : List Byte

/-- The domain of a channel in an epoch's domain map (R190). -/
def chanDomain (s : State) (epoch c : Nat) : Nat := (tgetD (tablesOf s epoch).ing.domDefault (64 + c) {}).domain

/-- The targets of a route, in list order. -/
def routeTargets (r : GwRoute) : List Nat := (List.range r.count).map fun i => r.first + i

/-- Whether a route takes an input (R458). -/
def routeMatch (r : GwRoute) (x : GwInput) : Bool :=
  r.space == x.space && r.kind == x.kind && r.chan == x.chan && (x.ident &&& r.mask) == r.ident

/-- The gateway egress check of a target (R263). Only a message to a legacy channel is a write; the others pass the pipeline. -/
def targetCheck (s : State) (epoch zone t : Nat) : Bool × State :=
  match tget (tablesOf s epoch).gw.targets t with
  | none => (false, s)
  | some g =>
    if g.space ≠ 0 then (true, s)
    else gatewayCheck s epoch zone g.kind g.chan g.ident (max 64 (38 + g.len)) (chanDomain s epoch g.chan)

/-- The permit mask of a route's targets (R458). -/
def permitMask (s : State) (epoch zone : Nat) : List Nat → Nat → Nat × State
  | [], _ => (0, s)
  | t :: ts, i =>
    let r := targetCheck s epoch zone t
    let q := permitMask r.2 epoch zone ts (i + 1)
    (q.1 + if r.1 then 2 ^ i else 0, q.2)

/-- The state of a route's slot. -/
def slotOf (s : State) (i : Nat) : Slot := tgetD s.gw.slots i {}

/-- An input is matched, checked and latched (R458, R459). -/
def latchInput (s : State) (x : GwInput) : State :=
  match (tablesOf s x.epoch).gw.routes.find? fun e => routeMatch e.2 x with
  | none => gwCount s 2 0 8 1
  | some (i, r) =>
    let p := permitMask s x.epoch x.zone (routeTargets r) 0
    let denied := ((List.range r.count).filter fun k => !bit p.1 k).length
    let s1 := gwCount (if r.event then gwCount p.2 0 i 5 denied else p.2) 0 i 0 1
    if p.1 = 0 then s1 else
    let rec_ : GwRec := {
      time := x.time, len := x.data.length, cflags := x.cflags, zone := x.zone, permit := p.1, listed := r.count, epoch := x.epoch,
      data := padTo r.slotLen (x.data.take r.slotLen) }
    let sl := slotOf s1 i
    let put := fun (l : List GwRec) (s : State) => s.modGw fun g => { g with slots := tset g.slots i { sl with opn := l, lastRx := s.now } }
    if !r.event then put [rec_] s1
    else if sl.opn.length < r.eventMax then put (sl.opn ++ [rec_]) s1
    else if r.coalesce then put (sl.opn.dropLast ++ [rec_]) s1
    else gwCount s1 0 i 8 1

/-- A side-band input updates its channel's status record (R451). -/
def updateStatus (s : State) (c code : Nat) (data : List Byte) : State :=
  s.modGw fun g => { g with status := tmod g.status c {} fun x =>
    if code = 3 then { x with busOff := true }
    else if code = 4 ∨ code = 2 then { x with busOff := false }
    else if code = 0x12 then { x with noLine := true }
    else if code = 0x11 then { x with noLine := false }
    else if code = 0x13 then { x with sinks := (ub data 0 4) :: x.sinks.filter (· != ub data 0 4) }
    else if code = 0x14 then { x with sinks := x.sinks.filter (· != ub data 0 4) }
    else if code = 0x20 then { x with broken := true }
    else if code = 0x21 then { x with broken := false }
    else if code = 0x40 then { x with engine := true }
    else if code = 0x41 then { x with engine := false, busOff := false, broken := false }
    else x }

/-- The gateway's own indication of an engine restart, once for each channel (R448). -/
def engineIndication (s : State) (e code : Nat) : State :=
  (engineChans e).foldl (fun s c =>
    let zone := (pointZone (tablesOf s s.ep.epoch).hor (chanDomain s s.ep.epoch c) (64 + c) 0).getD 0
    latchInput (updateStatus s c code (be 4 e))
      { epoch := s.ep.epoch, space := 0, kind := 7, chan := c, ident := code, time := max 1 s.now, cflags := 0, zone := zone, data := be 4 e }) s

/-! ### The pair's part (R675, R686) -/

/-- Whether this module's gateway outputs are kept and not issued (R675, R686): with pairing enabled, every unit that is not a sound
Primary. -/
def muted (s : State) : Bool := s.pair.cfg.pair.enable && s.pair.role != 1

end Sys2Proof.Machine
end

