-- ==== Sys2Proof/Machine/LegacyRun.lean ====
section
/-! DEFINITION. The rows of the legacy channels: CAN and J1939 (R405 to R415), MVB (R416 to R420), serial ports (R421 to R423),
LIN (R424 to R426), discrete signals (R427, R428), engine restarts (R404, R429). -/

namespace Sys2Proof.Machine

/-! ### CAN (R405 to R412) -/

/-- CAN_STATE with its side-band indication (R412, R431, R448). -/
def raiseCan (s : State) (c kind : Nat) : State :=
  let r := canRun s c
  let s1 := raise s 0x60 (if kind = 3 then 1 else 3) noLevel (srcId 0xA c)
    (le 1 c ++ le 1 kind ++ le 1 (min r.tec 255) ++ le 1 r.rec_ ++ le 4 (at' (chanOf s c).cs 3 0))
  match kind with
  | 0 => sideBand s1 c 1 (be 2 r.tec ++ be 2 r.rec_)
  | 1 => sideBand s1 c 2 (be 2 r.tec ++ be 2 r.rec_)
  | 2 => sideBand s1 c 3 (be 4 0)
  | _ => sideBand s1 c 4 (be 4 0)

/-- A channel goes bus-off (R412): its queue is dropped. -/
def busOff (s : State) (c : Nat) : State :=
  let q := (chanOf s c).txq
  let s1 := chanCount (chanCount (modChan s c fun x => { x with txq := [] }) c 4 q.length) c 3 1
  let s2 := raiseCan (modCan s1 c fun r => { r with state := 3, offAt := s.now }) c 2
  q.foldl (fun s tx => failTx s tx 4 1) s2

/-- TEC and REC take new values and the fault confinement state follows (R412). -/
def setErrors (s : State) (c tec rec_ : Nat) : State :=
  let r := canRun s c
  let s1 := modCan s c fun x => { x with tec := tec, rec_ := rec_ }
  if tec > 255 then busOff s1 c
  else if (tec ≥ 128 ∨ rec_ ≥ 128) ∧ r.state = 1 then raiseCan (modCan s1 c fun x => { x with state := 2 }) c 0
  else if tec < 128 ∧ rec_ < 128 ∧ r.state = 2 then raiseCan (modCan s1 c fun x => { x with state := 1 }) c 1
  else s1

/-- Whether a CAN channel is on its bus. -/
def canOn (s : State) (c : Nat) : Bool := engineRuns s c && ((canRun s c).state == 1 || (canRun s c).state == 2)

/-- Arbitration value of a message (R411): base identifier, the bits between, the extension, RTR. The lower value wins. -/
def arbitration (m : BusMsg) : Nat :=
  let rtr := b2n (bit m.flags 4)
  if bit m.flags 0 then m.ident / 262144 % 2048 * 2097152 + 3 * 524288 + m.ident % 262144 * 2 + rtr
  else m.ident % 2048 * 2097152 + 2 * rtr * 524288

/-- The queued message that is offered first (R411): the lowest arbitration value, then queue order. -/
def canFirst : List TxMsg → Option TxMsg
  | [] => none
  | t :: ts => match canFirst ts with
    | none => some t
    | some x => if arbitration t.msg ≤ arbitration x.msg then some t else some x

/-- Whether an identifier on a channel with `J1939` is a transport frame: TP.CM or TP.DT (J1939-21). -/
def isTp (s : State) (c : Nat) (m : BusMsg) : Bool :=
  bit (canCfg s c).flags 1 && bit m.flags 0 && (m.ident / 65536 % 256 == 0xEC || m.ident / 65536 % 256 == 0xEB)

/-- A CAN message is received (R405, R407, R408, R410, R676). -/
def canReceive (s : State) (c : Nat) (m : BusMsg) : State :=
  let p := s.pair.cfg.pair
  let hb := p.enable && p.hbCan == c && (m.ident == p.hbCanId % 2 ^ 29) && (bit m.flags 0 == bit p.hbCanId 31)
  let s1 := if hb then { s with pair := { s.pair with hbSeen := true, lastOut := s.now } } else s
  fifoPush (noteSeen (chanRx s1 c) c m.ident) { m with chan := c, time := s.now }

/-- Session of a transport frame as recipient. -/
def tpIn (s : State) (c sa : Nat) (bam : Bool) : Option TpSession :=
  (canRun s c).tp.find? fun x => !x.sender && x.peer == sa && x.bam == bam

/-- Session of a transport frame as sender. -/
def tpOut (s : State) (c peer : Nat) : Option TpSession := (canRun s c).tp.find? fun x => x.sender && x.peer == peer

/-- The state with a session removed. -/
def tpDrop (s : State) (c : Nat) (x : TpSession) : State := modCan s c fun r => { r with tp := r.tp.erase x }

/-- The state with a session changed. -/
def tpSet (s : State) (c : Nat) (x y : TpSession) : State :=
  modCan s c fun r => { r with tp := r.tp.map fun z => if z = x then y else z }

/-- A completed reassembly becomes one carriage frame (R415). -/
def tpDeliver (s : State) (c : Nat) (x : TpSession) : State :=
  let da := if x.bam then 255 else (canCfg s c).sa
  let pf := x.pgn / 256 % 256
  let id := x.prio * 67108864 + (x.pgn / 256) * 65536 + (if pf < 240 then da else x.pgn % 256) * 256 + x.peer
  fifoPush (noteSeen (chanRx (tpDrop s c x) c) c id) { kind := 0, chan := c, flags := 1, ident := id, time := x.time, data := x.data.take x.size }

/-- A transport frame is received (R414, R415; its bytes as J1939-21 lays them out, PRESUMED). -/
def tpReceive (s : State) (c : Nat) (m : BusMsg) : State :=
  let sa := m.ident % 256
  let da := m.ident / 256 % 256
  let own := (canCfg s c).sa
  let d := m.data
  let pgn := u d 5 3
  let size := u d 1 2
  if m.ident / 65536 % 256 = 0xEC then
    let ctl := u d 0 1
    let start := fun (bam : Bool) =>
      let x : TpSession := { sender := false, bam := bam, peer := sa, pgn := pgn, size := size, time := max 1 s.now, window := (canCfg s c).cts }
      let mine := (canRun s c).tp.filter fun y => !y.sender
      if mine.length ≥ 16 ∨ mine.any (fun y => y.peer == sa && y.bam == bam) then tpAbort s c x 0xF4
      else modCan s c fun r => { r with tp := r.tp ++ [x] }
    if ctl = 32 ∧ da = 255 then start true
    else if da ≠ own then s
    else if ctl = 16 then start false
    else if ctl = 17 then match tpOut s c sa with
      | some x => tpSet s c x { x with window := u d 1 1, done := u d 2 1 - 1 }
      | none => s
    else if ctl = 19 then match tpOut s c sa with
      | some x => chanTx (tpDrop s c x) c
      | none => s
    else if ctl = 255 then match (tpOut s c sa).or (tpIn s c sa false) with
      | some x => tpAbort (tpDrop s c x) c x (u d 1 1)
      | none => s
    else s
  else match tpIn s c sa (da == 255) with
    | none => s
    | some x =>
      if da ≠ 255 ∧ da ≠ own then s
      else if u d 0 1 ≠ x.done + 1 then tpAbort (tpDrop s c x) c x 7
      else
        let y := { x with done := x.done + 1, data := x.data ++ sub d 1 7, window := if x.window ≤ 1 then (canCfg s c).cts else x.window - 1 }
        if y.done * 7 ≥ y.size then tpDeliver (tpSet s c x y) c y else tpSet s c x y

/-- The next data packet of a transmit session leaves (R414). A BAM ends with its last packet. -/
def tpSend (s : State) (c peer : Nat) : State :=
  match tpOut s c peer with
  | none => s
  | some x =>
    if !x.bam ∧ x.window = 0 then s
    else if x.done * 7 ≥ x.size then s
    else
      let y := { x with done := x.done + 1, window := x.window - 1 }
      if y.bam ∧ y.done * 7 ≥ y.size then chanTx (tpDrop s c x) c else tpSet s c x y

/-- CAN_FRAME_RX (R405, R408, R410): a frame of `kind` 0 (CAN) or 1 (CAN XL) is received. -/
def execCanFrameRx (c kind flags ident : Nat) (data : List Byte) (s : State) : Host.Outcome State Fault Refusal :=
  let k := canCfg s c
  let m : BusMsg := { kind := kind, chan := c, flags := flags % 64, ident := ident % 2 ^ 29, data := data }
  if c > 7 ∨ !canOn s c ∨ k.mode = 0 ∨ k.mode = 3 then .next s
  else if kind = 1 then
    if k.proto ≠ 2 then .next s
    else if data.length > 2048 then legRow s fun s => chanCount7 s c 1 1
    else if data.length < 9 then .next s
    else legRow s fun s => canReceive s c m
  else if kind ≠ 0 ∨ (bit flags 1 ∧ (k.proto = 0 ∨ data.length > 64 ∨ bit flags 4)) ∨ (!bit flags 1 ∧ data.length > 8) then .next s
  else legRow s fun s =>
    let s1 := setErrors s c (canRun s c).tec (let r := (canRun s c).rec_; if r > 127 then 119 else r - 1)
    if isTp s c m then tpReceive s1 c m else canReceive s1 c m

/-- CAN_TX_COMPLETE (R411): the message offered is sent, or loses arbitration and stays. In loopback the channel receives it. -/
def execCanTxComplete (c : Nat) (lost : Bool) (s : State) : Host.Outcome State Fault Refusal :=
  if c > 7 ∨ !canOn s c ∨ (canCfg s c).mode ≠ 1 ∧ (canCfg s c).mode ≠ 3 then .next s else
  match canFirst (chanOf s c).txq with
  | none => .next s
  | some tx => legRow s fun s =>
    if lost then chanCount s c 2 1
    else
      let s1 := chanTx (modChan s c fun x => { x with txq := x.txq.erase tx }) c
      let s2 := setErrors s1 c ((canRun s c).tec - 1) (canRun s c).rec_
      if (canCfg s c).mode = 3 then canReceive s2 c tx.msg else s2

/-- CAN_ERROR_DETECTED (R412, R430): an error as transmitter or receiver leaves TEC and REC at new values. -/
def execCanErrorDetected (c : Nat) (sending : Bool) (tec rec_ : Nat) (s : State) : Host.Outcome State Fault Refusal :=
  if c > 7 ∨ !canOn s c ∨ (canCfg s c).mode = 0 then .next s
  else legRow s fun s => setErrors (chanCount s c (b2n sending) 1) c (min tec 511) (min rec_ 255)

/-- CAN_RECOVER_WAIT_EXPIRY (R412): `RECOVER_MS` ends and the recovery begins. -/
def execCanRecoverWaitExpiry (c : Nat) (s : State) : Host.Outcome State Fault Refusal :=
  let r := canRun s c
  if c > 7 ∨ !engineRuns s c ∨ r.state ≠ 3 ∨ !bit (canCfg s c).flags 0 then .next s
  else legRow s fun s => modCan (s.until (r.offAt + (canCfg s c).recoverMs * 1000000)) c fun x => { x with state := 4 }

/-- CAN_RECOVERY_DONE (R412): TEC and REC are 0 and the channel is error-active. -/
def execCanRecoveryDone (c : Nat) (s : State) : Host.Outcome State Fault Refusal :=
  if c > 7 ∨ !engineRuns s c ∨ (canRun s c).state ≠ 4 then .next s
  else legRow s fun s => raiseCan (modCan s c fun x => { x with state := 1, tec := 0, rec_ := 0 }) c 3

/-- Whether a wake-up detector wakes on a frame (R413), or on a wake-up pattern (`pattern`), or on more than 31 frame errors. -/
def canWakes (w : CanWake) (pattern : Bool) (errors : Nat) (xtd : Bool) (ident dlc : Nat) (data : List Byte) : Bool :=
  w.enable && if bit w.flags 1 then pattern
    else errors > 31 || (!pattern && (ident &&& w.mask) == (w.ident &&& w.mask) && xtd == bit w.flags 0 && dlc == w.dlc &&
      (w.dlc == 0 || (List.range (min w.dlc 8)).any fun i => (u data i 1 &&& u w.dataMask i 1) != 0))

/-- J1939_TP_PACKET (R414, R415): a transport frame received, or the next data packet of the session towards `peer` sent. -/
def execJ1939TpPacket (c : Nat) (received : Bool) (ident : Nat) (data : List Byte) (peer : Nat) (s : State) :
    Host.Outcome State Fault Refusal :=
  if c > 7 ∨ !canOn s c ∨ !bit (canCfg s c).flags 1 then .next s
  else
    let m : BusMsg := { kind := 0, chan := c, flags := 1, ident := ident % 2 ^ 29, data := data }
    if received then (if isTp s c m then legRow s fun s => tpReceive s c m else .next s)
    else legRow s fun s => tpSend s c peer

/-- J1939_TIMEOUT (R414, R415): timeout T1 to T4 (`which` 0 to 3) ends the session with `peer`. -/
def execJ1939Timeout (c peer which : Nat) (sender bam : Bool) (s : State) : Host.Outcome State Fault Refusal :=
  if which > 3 then .next s else
  match (canRun s c).tp.find? fun x => x.sender == sender && x.bam == bam && x.peer == peer with
  | none => .next s
  | some x => if c > 7 then .next s else legRow s fun s => tpAbort (tpDrop s c x) c x (0xF0 + which)

/-! ### MVB (R416 to R420) -/

/-- MVB_LINE with its indication (R417, R431, R448). -/
def raiseLine (s : State) (c line kind : Nat) : State :=
  sideBand (raise s 0x62 (if kind = 1 then 1 else 3) noLevel (srcId 0xA c)
    (le 1 c ++ le 1 line ++ le 1 kind ++ le 1 (mvbRun s c).selected ++ le 4 (at' (chanOf s c).cs line 0)))
    c (0x10 + kind) (be 4 line)

/-- One line of an MVB channel after a frame (R417): `ok` on this line, `other` on the other. -/
def lineAfter (s : State) (c line : Nat) (ok other : Bool) : State :=
  let r := mvbRun s c
  let n := at' r.runs line 0
  let set := fun (s : State) (k : Nat) => modMvb s c fun r => { r with runs := r.runs.set line k }
  let lim := (mvbCfg s c).fails
  if at' r.lineOk line true then
    if !ok ∧ other then
      let s1 := set (chanCount s c line 1) (n + 1)
      if n + 1 ≥ lim then
        let s2 := modMvb (set s1 0) c fun r => { r with lineOk := r.lineOk.set line false, selected := if r.selected = line then 1 - line else r.selected }
        let s3 := raiseLine s2 c line 0
        if chanState s3 c = 4 then sideBand s3 c 0x12 (be 4 0) else s3
      else s1
    else set s 0
  else if ok then
    if n + 1 ≥ lim then raiseLine (modMvb (set s 0) c fun r => { r with lineOk := r.lineOk.set line true }) c line 1
    else set s (n + 1)
  else set (chanCount s c line 1) 0

/-- The stream whose legacy identification matches an MVB port (R431). -/
def mvbStream (s : State) (c port : Nat) : Option Nat :=
  (s.ep.cur.ing.streamIds.find? fun e => e.2.type == 4 && e.2.kind == 2 && e.2.channel == c && (port &&& e.2.mask) == e.2.ident).map (·.2.handle)

/-- MVB_SINK_TIMEOUT with its indication (R418, R431). -/
def raiseSink (s : State) (c port : Nat) (fresh : Bool) (ageMs : Nat) : State :=
  let src := match mvbStream s c port with
    | some h => srcId 7 h
    | none => srcId 0xA c
  let ms := ((mvbPort s c port).map (·.sinkMs)).getD 0
  sideBand (raise s 0x63 (if fresh then 1 else 2) 2 src
    (le 1 c ++ le 1 (b2n fresh) ++ le 2 port ++ le 2 ms ++ zeros 2 ++ le 4 ageMs)) c (if fresh then 0x14 else 0x13) (be 4 port)

/-- MVB_MASTERSHIP with its indication (R420, R431). -/
def raiseMaster (s : State) (c kind peer : Nat) : State :=
  let m := (mvbRun s c).masterAddr
  sideBand (raise s 0x64 2 noLevel (srcId 0xA c) (le 1 c ++ le 1 kind ++ le 2 m ++ le 2 peer)) c 0x15 (be 4 m)

/-- This device takes mastership (R420): `kind` 0 on an offer, 4 on silence. -/
def takeMaster (s : State) (c kind peer : Nat) : State :=
  raiseMaster (modMvb (chanCount s c 3 1) c fun r => { r with
    master := true, masterAddr := (mvbCfg s c).addr, basic := 0, lastBasic := s.now, offered := none, admin := at' s.leg.cfg.admin (c - 8) {} }) c kind peer

/-- This device ceases to be master (R420): `kind` 2 transferred away, 3 lost. -/
def leaveMaster (s : State) (c kind peer : Nat) : State :=
  if (mvbRun s c).master then
    raiseMaster (modMvb (chanCount s c 3 1) c fun r => { r with master := false, masterAddr := peer, offered := none }) c kind peer
  else s

/-- A valid process-data frame for a port (R418). -/
def mvbData (s : State) (c port : Nat) (d : List Byte) : State :=
  match mvbPort s c port with
  | none => s
  | some p =>
    if !p.sink then chanTx s c
    else if d.length ≠ fcodeSize p.fcode then s
    else
      let r := mvbPortRun s c port
      let f := s.pair.cfg.pair
      let s0 := if f.enable ∧ f.hbMvb = c ∧ f.hbMvbPort = port ∧ s.pair.hbMvbLast ≠ d then
        { s with pair := { s.pair with hbSeen := true, hbMvbLast := d, lastOut := s.now } } else s
      let s1 := fifoPush (noteSeen (chanRx s0 c) c port)
        { kind := 2, chan := c, flags := if (mvbRun s c).selected = 1 then 64 else 0, ident := port, time := s.now, data := d }
      let s2 := modMvbPort s1 c port fun x => { x with
        stale := false, since := s.now, watched := true, gap := if x.since = 0 then 0 else s.now - x.since }
      if r.stale then raiseSink s2 c port true ((s.now - r.since) / 1000000) else s2

/-- MVB_FRAME_RX (R416 to R418, R420): a frame arrives, valid on line A and on line B as told. -/
def execMvbFrameRx (c : Nat) (m : MvbRx) (okA okB : Bool) (s : State) : Host.Outcome State Fault Refusal :=
  if !isMvb c ∨ !engineRuns s c ∨ !(mvbRun s c).on then .next s else
  legRow s fun s =>
    let l := (mvbCfg s c).line
    let sel := if l = 1 then 0 else if l = 2 then 1 else (mvbRun s c).selected
    let good := if sel = 0 then okA else okB
    let s1 := lineAfter (lineAfter s c 0 okA okB) c 1 okB okA
    if !good then s1 else
    match m with
    | .data p d => mvbData s1 c p d
    | .message a d =>
      if bit (mvbCfg s c).flags 0 ∧ d.length ≤ 2048 then
        fifoPush (noteSeen (chanCount s1 c 4 1) c a) { kind := 3, chan := c, ident := a, time := s.now, data := d }
      else s1
    | .offer p => if bit (mvbCfg s c).flags 1 ∧ !(mvbRun s c).master then takeMaster s1 c 0 p else s1
    | .accept p => if (mvbRun s c).offered = some p then leaveMaster s1 c 2 p else s1

/-- MVB_SINK_TIME_EXPIRY (R418): a supervised sink has had no frame for `SINK_TIME_MS`. -/
def execMvbSinkTimeExpiry (c port : Nat) (s : State) : Host.Outcome State Fault Refusal :=
  match mvbPort s c port with
  | none => .next s
  | some p =>
    let r := mvbPortRun s c port
    if !isMvb c ∨ !engineRuns s c ∨ !(mvbRun s c).on ∨ !p.sink ∨ !p.supervise ∨ r.stale ∨ !r.watched then .next s
    else legRow s fun s =>
      let s1 := chanCount (s.until (r.since + p.sinkMs * 1000000)) c 2 1
      raiseSink (modMvbPort s1 c port fun x => { x with stale := true }) c port false 0

/-- Ports polled in basic period `n` (R419): the i-th port of a period class falls in period i of each group (assumption 23). -/
def pollsOf (a : MvbAdmin) (n : Nat) : List Nat :=
  (List.range a.polls.length).filterMap fun i =>
    match a.polls[i]? with
    | some (port, _, p) =>
      let place := ((a.polls.take i).filter fun e => e.2.2 == p).length
      if n % 2 ^ p = place % 2 ^ p then some port else none
    | none => none

/-- MVB_BASIC_PERIOD (R419, R416): as master, the basic period starts at its Meridian time and the polls of it are sent; a source
port of this device answers, and a queued message frame goes out. -/
def execMvbBasicPeriod (c : Nat) (s : State) : Host.Outcome State Fault Refusal :=
  if !isMvb c ∨ !engineRuns s c ∨ !(mvbRun s c).on ∨ !(mvbRun s c).master then .next s else
  legRow s fun s =>
    let r := mvbRun s c
    let per := max 1 r.admin.basicUs * 1000
    let ph := s.gw.grid.2
    let base := max s.now (r.lastBasic + 1)
    let at_ := ph + (base - ph + per - 1) / per * per
    let s1 := s.until at_
    let n := r.basic + 1
    let s2 := modMvb s1 c fun r => { r with
      basic := n, lastBasic := at_, admin := if n % 1024 = 0 then at' s1.leg.cfg.admin (c - 8) {} else r.admin }
    let mine := if muted s then [] else (pollsOf r.admin r.basic).filter fun p => (mvbPort s c p).any fun x => !x.sink
    let s3 := mine.foldl (fun s _ => chanTx s c) s2
    match (chanOf s3 c).txq with
    | [] => s3
    | tx :: q =>
      let s4 := modChan s3 c fun x => { x with txq := q }
      if tx.msg.kind = 3 then chanCount s4 c 5 1 else s4

/-- The administrator that follows `a` in `ADMINS` (R420), if it is another than this device. -/
def nextAdmin (s : State) (c a : Nat) : Option Nat :=
  let l := (mvbRun s c).admin.admins
  match l.findIdx? (· == a) with
  | none => none
  | some i => match l[(i + 1) % max 1 l.length]? with
    | some b => if b = (mvbCfg s c).addr then none else some b
    | none => none

/-- Mastership is offered to the administrator after `a` (R420). -/
def offerNext (s : State) (c a : Nat) : State :=
  match nextAdmin s c a with
  | some b => raiseMaster (modMvb s c fun r => { r with offered := some b }) c 1 b
  | none => modMvb s c fun r => { r with offered := none, basic := 0 }

/-- MVB_MASTERSHIP_OFFER (R420): after `TURN_MACROS` macro periods. -/
def execMvbMastershipOffer (c : Nat) (s : State) : Host.Outcome State Fault Refusal :=
  let r := mvbRun s c
  if !isMvb c ∨ !engineRuns s c ∨ !r.master ∨ r.offered.isSome ∨ r.basic < r.admin.turns * 1024 then .next s
  else legRow s fun s => offerNext s c (mvbCfg s c).addr

/-- MVB_MASTERSHIP_TIMEOUT (R420): the administrator offered did not accept and is skipped. -/
def execMvbMastershipTimeout (c : Nat) (s : State) : Host.Outcome State Fault Refusal :=
  match (mvbRun s c).offered with
  | none => .next s
  | some a => if !isMvb c ∨ !engineRuns s c then .next s else legRow s fun s => offerNext s c a

/-- MVB_SILENT_BUS (R420): an administrator takes mastership of a silent bus. -/
def execMvbSilentBus (c : Nat) (s : State) : Host.Outcome State Fault Refusal :=
  if !isMvb c ∨ !engineRuns s c ∨ !(mvbRun s c).on ∨ (mvbRun s c).master ∨ !bit (mvbCfg s c).flags 1 then .next s
  else legRow s fun s => takeMaster s c 4 (mvbRun s c).masterAddr

/-! ### Serial ports (R421 to R423) -/

/-- SERIAL_LINE with its indication (R423, R431). -/
def raiseSerialLine (s : State) (c kind cause : Nat) : State :=
  sideBand (raise s 0x65 (if kind = 1 then 1 else 3) noLevel (srcId 0xA c)
    (le 1 c ++ le 1 kind ++ le 1 cause ++ zeros 1 ++ le 4 (at' (chanOf s c).cs 5 0))) c (0x20 + kind) (be 4 (if kind = 0 then cause else 0))

/-- A line break is declared (R423). -/
def lineBreak (s : State) (c cause : Nat) : State :=
  if (serRun s c).brk.isSome then s
  else raiseSerialLine (modSer (chanCount s c 5 1) c fun r => { r with brk := some cause }) c 0 cause

/-- A line break ends (R423). -/
def lineMend (s : State) (c : Nat) : State :=
  match (serRun s c).brk with
  | none => s
  | some k => raiseSerialLine (modSer s c fun r => { r with brk := none }) c 1 k

/-- What a fetch read is kept in the read cache (R471), most recent first, at most 256. -/
def cachePut (s : State) (e : GwCache) : State :=
  s.modGw fun g => { g with cache := (e :: g.cache.filter fun x => !(x.chan == e.chan && x.func == e.func && x.ident == e.ident && x.addr == e.addr)).take 256 }

/-- A fetch or exchange has its answer (R89, R471, R489). -/
def fetchDone (s : State) (tok : Nat) (data : List Byte) : State :=
  setFetch (s.modGw fun g => { g with fetches := g.fetches.filter fun x => x.token != tok }) tok (.done data s.now)

/-- The response to the outstanding request of a serial port (R422, R470, R471, R489). -/
def serialAnswer (s : State) (c : Nat) (tx : TxMsg) (d : List Byte) : State :=
  let s1 := modSer s c fun r => { r with cur := none, missed := 0 }
  let exc : Bool := (serCfg s c).mode == 3 && bit (u d 1 1) 7
  let s2 := if exc then
      let t := chanCount s1 c 4 1
      raise t 0x67 2 noLevel (srcId 0xA c) (le 1 c ++ le 1 (u d 0 1) ++ le 1 (u d 1 1 % 128) ++ le 1 (u d 2 1) ++ le 4 (at' (chanOf t c).cs 4 0))
    else s1
  match tx.origin with
  | .fetch tok =>
    let val := if exc then [] else d.drop 3
    fetchDone (cachePut s2 { chan := c, func := tx.func, ident := tx.msg.ident, addr := tx.addr, time := s.now, data := val,
                             exc := if exc then some (u d 2 1) else none }) tok d
  | .exchange _ _ tok => if tok = 0 then s2 else fetchDone s2 tok (le 2 d.length ++ zeros 6 ++ le 8 s.now ++ d)
  | _ => if exc then postedFail s2 tx 3 else s2

/-- `IDENT` of a received serial message (R421). -/
def serialIdent (k : SerialCfg) (d : List Byte) : Nat :=
  if k.mode = 3 ∨ (k.mode = 2 ∧ bit k.flags 0) then u d 0 1 else 0

/-- SERIAL_MESSAGE_RX (R421 to R423): a message of a port, `err` its first error: 0 framing, 1 parity, 2 check, 3 gap. -/
def execSerialMessageRx (c : Nat) (err : Option Nat) (data : List Byte) (s : State) : Host.Outcome State Fault Refusal :=
  let k := serCfg s c
  if !isSerial c ∨ !engineRuns s c ∨ k.mode = 0 then .next s else
  legRow s fun s =>
    if data.length > 2048 then chanCount s c 6 1 else
    match err with
    | some e =>
      let e := min e 3
      raiseSampled (chanCount s c (if e = 3 then 0 else e) 1) 0x66 2 noLevel (srcId 0xA c) fun n =>
        le 1 c ++ le 1 e ++ le 2 data.length ++ le 4 n
    | none =>
      let r := serRun s c
      let late : Bool := k.mode == 3 && match r.cur with
        | some tx => tx.msg.ident == 0 || u data 0 1 != tx.msg.ident
        | none => true
      if late then s else
      let s0 := modSer s c fun x => { x with gapNs := if x.lastRx = 0 then 0 else s.now - x.lastRx, lastRx := s.now, missed := 0 }
      let s1 := lineMend (noteSeen (chanRx s0 c) c (serialIdent k data)) c
      let s2 := fifoPush s1 { kind := 4, chan := c, ident := serialIdent k data, time := s.now, data := data }
      match r.cur with
      | some tx => serialPump 256 (serialAnswer s2 c tx data) c
      | none => s2

/-- MODBUS_RESPONSE_TIMEOUT (R422, R423, R470, R489): nothing answered within `RESP_TIMEOUT_MS`. A broadcast expected nothing. -/
def execModbusResponseTimeout (c : Nat) (s : State) : Host.Outcome State Fault Refusal :=
  match (serRun s c).cur with
  | none => .next s
  | some tx =>
    if !isSerial c ∨ !engineRuns s c then .next s else
    legRow s fun s =>
      let k := serCfg s c
      let s1 := modSer (s.until ((serRun s c).sentAt + k.respMs * 1000000)) c fun r => { r with cur := none }
      if k.mode = 3 ∧ tx.msg.ident = 0 then serialPump 256 s1 c else
      let s2 := modSer (chanCount s1 c 3 1) c fun r => { r with missed := r.missed + 1 }
      let s3 := match tx.origin with
        | .fetch _ => s2
        | .exchange _ _ tok => if tok = 0 then s2 else fetchFail s2 tok stTimeout 0
        | _ => postedFail s2 tx 2
      let s4 := if k.mode = 3 ∧ (serRun s3 c).missed ≥ k.polls then lineBreak s3 c 0 else s3
      serialPump 256 s4 c

/-- SERIAL_SILENCE_TIMEOUT (R423): no character for `SILENCE_MS` in raw or HDLC-style mode. -/
def execSerialSilenceTimeout (c : Nat) (s : State) : Host.Outcome State Fault Refusal :=
  let k := serCfg s c
  if !isSerial c ∨ !engineRuns s c ∨ (k.mode ≠ 1 ∧ k.mode ≠ 2) ∨ k.silenceMs = 0 ∨ (serRun s c).brk.isSome then .next s
  else legRow s fun s => lineBreak (s.until ((serRun s c).lastRx + k.silenceMs * 1000000)) c 0

/-- SERIAL_CURRENT_LIMIT (R423): the driver has been in current limit for 10 ms. -/
def execSerialCurrentLimit (c : Nat) (s : State) : Host.Outcome State Fault Refusal :=
  if !isSerial c ∨ !engineRuns s c ∨ (serCfg s c).mode = 0 then .next s
  else legRow s fun s => lineBreak (modSer s c fun r => { r with limit := true }) c 1

/-- SERIAL_CURRENT_CLEAR (R423): the current limit has been clear for 100 ms. -/
def execSerialCurrentClear (c : Nat) (s : State) : Host.Outcome State Fault Refusal :=
  if !isSerial c ∨ !engineRuns s c ∨ !(serRun s c).limit then .next s
  else legRow s fun s =>
    let s1 := modSer s c fun r => { r with limit := false }
    if (serRun s1 c).brk = some 1 then lineMend s1 c else s1

/-! ### LIN (R424 to R426) -/

/-- A subscribed frame's slot (R424, R425). -/
def linSubscribe (s : State) (c : Nat) (e : LinEntry) (id : Nat) (a : LinResp) : State :=
  let bad := fun (s : State) (cause : Nat) => raiseSampled s 0x68 2 noLevel (srcId 0xA c) fun n =>
    le 1 c ++ le 1 id ++ le 1 cause ++ le 1 (linRun s c).table ++ le 4 n
  match a with
  | .data d => fifoPush (noteSeen (chanRx s c) c id) { kind := 5, chan := c, ident := id, time := s.now, data := padTo e.len d }
  | .none' => bad (chanCount s c 0 1) 0
  | .checksum => bad (chanCount s c 1 1) 1
  | .framing => bad (chanCount s c 2 1) 2
  | .bitError => bad s 3
  | .collision => bad (chanCount s c 0 1) 0

/-- A published frame's slot (R424): skipped where no value was written. A sporadic frame goes out when its value is fresh. -/
def linPublish (s : State) (c id : Nat) (sporadic : Bool) : State :=
  let r := linRun s c
  if !thas r.values id then s
  else if sporadic ∧ !(r.pendings.any fun p => p.1 == id && p.2) then s
  else chanTx (modLin s c fun r => { r with pendings := r.pendings.filter fun p => p.1 != id }) c

/-- LIN_SLOT_TIMER (R424, R425): the next slot of the schedule starts and its frame runs; a new or rewritten active table takes effect
between slots. -/
def execLinSlotTimer (c : Nat) (a : LinResp) (s : State) : Host.Outcome State Fault Refusal :=
  if !isLin c ∨ !engineRuns s c ∨ (linRun s c).state ≠ 1 ∨ muted s then .next s else
  legRow s fun s =>
    let s0 := s.until (linRun s c).slotAt
    let k := linCfg s c
    let r := linRun s0 c
    let fresh := linTable s c k.table
    let r := if r.back.isNone ∧ (r.table ≠ k.table ∨ r.list ≠ fresh) then { r with table := k.table, list := fresh, index := 0 } else r
    match r.list[r.index]? with
    | none => modLin s0 c fun _ => r
    | some e =>
      let id := if e.type = 4 then 0x3C else if e.type = 5 then 0x3D else e.id
      let s1 := modLin s0 c fun _ => { r with slotAt := s0.now + e.slot * k.base * 1000000 }
      let s2 := match e.type with
        | 0 => linPublish s1 c id false
        | 1 => linSubscribe s1 c e id a
        | 2 => if a = .collision then chanCount s1 c 3 1 else linSubscribe s1 c e id a
        | 3 => linPublish s1 c id true
        | 4 => linPublish s1 c id false
        | _ => linSubscribe s1 c e id a
      let nxt := (r.index + 1) % max 1 r.list.length
      if e.type = 2 ∧ a = .collision then
        modLin s2 c fun r => { r with table := e.coll, list := linTable s c e.coll, index := 0, back := some (r.table, nxt) }
      else match r.back with
        | some (t, i) =>
          if r.index + 1 ≥ r.list.length then modLin s2 c fun r => { r with table := t, list := linTable s c t, index := i, back := none }
          else modLin s2 c fun r => { r with index := nxt }
        | none => modLin s2 c fun r => { r with index := nxt }

/-- A LIN channel is woken: the schedule resumes 100 ms later (R426). -/
def linWake (s : State) (c : Nat) : State := modLin s c fun r => { r with resume := some (s.now + 100000000) }

/-- LIN_WAKEUP_RX (R426): a responder's wake-up signal. -/
def execLinWakeupRx (c : Nat) (s : State) : Host.Outcome State Fault Refusal :=
  if !isLin c ∨ !engineRuns s c ∨ (linRun s c).state ≠ 2 then .next s
  else legRow s fun s => linWake (chanCount s c 4 1) c

/-- LIN_RESUME_TIMER (R426): the active table resumes. -/
def execLinResumeTimer (c : Nat) (s : State) : Host.Outcome State Fault Refusal :=
  match (linRun s c).resume with
  | none => .next s
  | some t =>
    if !isLin c ∨ !engineRuns s c then .next s else
    legRow s fun s => let s1 := s.until t; modLin s1 c fun r => { r with state := 1, resume := none, slotAt := s1.now }

/-! ### Discrete signals (R427, R428) -/

/-- A debounced level is reported (R427), after `INVERT`. -/
def gpiReport (s : State) (c v : Nat) : State :=
  let k := dioCfg s c
  let out := if bit k.flags 0 then 1 - v else v
  let s1 := modDio s c fun d => { d with level := v }
  if bit k.flags (if out = 1 then 1 else 2) then
    fifoPush (chanRx (modDio s1 c fun d => { d with shown := some out }) c)
      { kind := 6, chan := c, time := s.now - k.time * 1000, data := [BitVec.ofNat 8 out] }
  else s1

/-- GPI_DEBOUNCE_EXPIRY (R427): the input has been stable at `level` for `DEBOUNCE_US`; or, with `overrun`, its latch caught an edge pair
that no sample saw. -/
def execGpiDebounceExpiry (c level : Nat) (overrun : Bool) (s : State) : Host.Outcome State Fault Refusal :=
  if !isGpi c ∨ !engineRuns s c then .next s else
  legRow s fun s =>
    let d := dioRun s c
    if overrun then raiseSampled (chanCount s c 0 1) 0x69 2 noLevel (srcId 0xA c) fun n => le 1 c ++ le 1 d.level ++ zeros 2 ++ le 4 n
    else if d.level = level % 2 then s else gpiReport s c (level % 2)

/-- The level a GPO is driven to, after `INVERT` (R428). -/
def gpoLevel (s : State) (c : Nat) : Nat := let d := dioRun s c; if bit (dioCfg s c).flags 0 then 1 - d.level else d.level

/-- GPO_READBACK_EXPIRY (R428): the read-back has stood at `level` for `READBACK_MS`. -/
def execGpoReadbackExpiry (c level : Nat) (s : State) : Host.Outcome State Fault Refusal :=
  if !(48 ≤ c ∧ c ≤ 55) ∨ !engineRuns s c then .next s else
  legRow s fun s =>
    let v := level % 2
    let d := dioRun s c
    let drv := gpoLevel s c
    let s1 := modDio s c fun x => { x with read := v }
    let ev := fun (s : State) (kind sev : Nat) => raise s 0x6A sev noLevel (srcId 0xA c) (le 1 c ++ le 1 kind ++ le 1 drv ++ le 1 v)
    if !d.driven then s1
    else if v ≠ drv ∧ !d.fault then
      sideBand (ev (modDio (chanCount s1 c 0 1) c fun x => { x with fault := true }) 0 4) c 0x30 (be 2 drv ++ be 2 v)
    else if v = drv ∧ d.fault then sideBand (ev (modDio s1 c fun x => { x with fault := false }) 1 1) c 0x31 (be 4 0)
    else s1

/-! ### Engines (R404, R429) -/

/-- A channel stops with its engine (R404, R429): what it has queued is dropped with `cause`. -/
def stopChan (s : State) (c cause : Nat) : State :=
  let q := (chanOf s c).txq
  let s1 := modChan s c fun x => { x with txq := [] }
  let s2 := q.foldl (fun s tx => if cause = 6 then restartFail (restartDrop s c) tx else failTx s tx cause 1) s1
  if c ≤ 7 then
    let tx := (canRun s2 c).tp.filter (·.sender)
    modCan (tx.foldl (fun s _ => if cause = 6 then restartDrop s c else s) s2) c fun _ => {}
  else if isMvb c then modMvb (leaveMaster s2 c 3 0) c fun r => { r with on := false, offered := none, basic := 0 }
  else if isSerial c then
    let s3 := match (serRun s2 c).cur with
      | some tx => (if cause = 6 then restartFail else fun s tx => failTx s tx cause 1) (modSer s2 c fun r => { r with cur := none }) tx
      | none => s2
    modSer s3 c fun r => { r with brk := none, missed := 0, limit := false }
  else if isLin c then modLin s2 c fun _ => {}
  else s2

/-- A channel starts from its settings (R404, R429). -/
def startChan (s : State) (c : Nat) : State :=
  if c ≤ 7 then modCan s c fun _ => { state := if (canCfg s c).mode = 0 then 0 else 1 }
  else if isMvb c then
    let s1 := modMvb s c fun r => { r with on := (mvbCfg s c).mode == 1, lineOk := [true, true], runs := [0, 0], master := false, basic := 0, offered := none }
    s1.modLeg fun l => { l with mvbPorts := l.mvbPorts.modify (c - 8) fun t => t.map fun e => (e.1, { e.2 with watched := false }) }
  else if isSerial c then modSer s c fun r => { r with cur := none, missed := 0, brk := none, limit := false, lastRx := s.now }
  else if isLin c then
    let k := linCfg s c
    modLin s c fun _ => { state := k.mode, table := k.table, list := linTable s c k.table, slotAt := s.now }
  else s

/-- The locks of the serial ports are broken by their engine (R429, R474), counted for BE_RESTART. -/
def breakSerialLocks (s : State) : State :=
  let n := s.gw.locks.length
  modEngine (breakLocks s (fun _ => true) 6) 3 fun e => { e with locksBroken := n }

/-- A restart of engine `e` begins (R429, R448, R457). -/
def beginRestart (s : State) (e cause : Nat) : State :=
  let f := (engine s e).fifo
  let s1 := f.foldl (fun s m => modChan s m.chan fun x => { x with fifoDrop := satAdd 32 x.fifoDrop 1 }) s
  let s2 := modEngine s1 e fun x => { x with
    fifo := [], restart := some cause, restartAt := s.now, fifoLost := f.length, locksBroken := 0, told := [] }
  let s3 := if e = 3 then breakSerialLocks s2 else s2
  let s4 := (engineChans e).foldl (fun s c => stopChan s c 6) s3
  engineIndication s4 e 0x40

/-- Whether a bus engine's watchdog or ECC error finds it running (R429). -/
def canRestart (s : State) (e : Nat) : Bool := e ≤ 3 && (engine s e).on && (engine s e).restart.isNone

/-- The restart of engine `e` is complete (R429): `levels` are the levels of GPI0 to GPI15. -/
def endRestart (s : State) (e levels : Nat) : State :=
  match (engine s e).restart with
  | none => s
  | some cause =>
    let x := engine s e
    let s1 := modEngine s e fun x => { x with restart := none, restarts := wrapAdd 32 x.restarts 1 }
    let s2 := (engineChans e).foldl startChan s1
    let s3 := if e = 3 then (List.range 16).foldl (fun s i =>
        let v := levels / 2 ^ i % 2
        let d := dioRun s (32 + i)
        let out := if bit (dioCfg s (32 + i)).flags 0 then 1 - v else v
        if d.shown = some out then modDio s (32 + i) fun d => { d with level := v } else gpiReport s (32 + i) v) s2
      else s2
    raise (engineIndication s3 e 0x41) 0x6B 4 noLevel (srcId 0xB e)
      (le 1 e ++ le 1 cause ++ le 2 (min 65535 ((s.now - x.restartAt) / 1000000)) ++ le 4 x.fifoLost ++ le 4 x.locksBroken ++ le 4 (x.restarts + 1))

/-- The engine runs again `ms` after its restart began, at most 25 ms (R429). -/
def restartDone (s : State) (e ms levels : Nat) : State :=
  stampChans s (endRestart (s.until ((engine s e).restartAt + min ms 25 * 1000000)) e levels)

/-- A bus engine that holds its tokens is powered and its channels start from their settings (R404, R428, R506). -/
def startEngine (s : State) (e : Nat) : State :=
  if !holdsTokens s (4 + e) then s else
  let s1 := (engineChans e).foldl startChan (modEngine s e fun x => { x with on := true, restart := none, fifo := [] })
  stampChans s (if e = 3 then (List.range 8).foldl (fun s i =>
    modDio s (48 + i) fun d => { d with level := (dioCfg s (48 + i)).safe, driven := true, fault := false }) s1 else s1)

/-- The bus engines are powered (R404, R428). -/
def startEngines (s : State) : State := (List.range 4).foldl startEngine s

/-- The bus engines stop and are unpowered (R404); every lock lease is broken with cause 6 (R474, R497). -/
def stopEngines (s : State) : State :=
  let s1 := breakLocks s (fun _ => true) 6
  let s2 := ((List.range 4).flatMap engineChans).foldl (fun s c => stopChan s c 1) s1
  let s3 := (List.range 4).foldl (fun s e => modEngine s e fun x => { x with on := false, restart := none, fifo := [] }) s2
  stampChans s ((List.range 8).foldl (fun s i => modDio s (48 + i) fun d => { d with driven := false, fault := false }) s3)

end Sys2Proof.Machine
end

