-- ==== Sys2Proof/Machine/LegacyCmds.lean ====
section
/-! DEFINITION. Commands of group 0x08: the legacy channels (R432 to R443). -/

namespace Sys2Proof.Machine

/-- A restarting engine does not answer (*Commands of group 0x08*): TIMEOUT. -/
def ifEngine (s : State) (e : Nat) (k : Unit → Result) : Result :=
  if (engine s e).restart.isSome then .fail stTimeout noDetail else k ()

/-- CHANNEL_STATUS_GET (R432). -/
def specChannelStatusGet : CmdSpec := {
  opcode := 0x0800, badLen := lenIs 1,
  body := fun s _ p =>
    let c := u p 0 1
    checked [chkSup (!chanOk c) 0] fun _ =>
      let e := engineOf c
      let restarting := (engine s e).restart.isSome
      let m := mvbRun s c
      let wake := c ≤ 1 && (at' s.leg.cfg.wake c {}).enable
      .done {
        st := s
        payload := le 1 c ++ le 1 e ++ le 1 (chanState s c) ++
          le 1 (b2n (isMvb c && m.master) + 2 * b2n wake + 4 * b2n (48 ≤ c && (dioRun s c).fault) +
            8 * b2n (thas s.gw.locks c) + 16 * b2n restarting) ++
          le 1 (if c ≤ 7 then min (canRun s c).tec 255 else if isMvb c then m.masterAddr % 256 else 0) ++
          le 1 (if c ≤ 7 then (canRun s c).rec_ else if isMvb c then m.masterAddr / 256 else 0) ++
          le 1 (if isLin c then (linRun s c).table else 0xFF) ++ zeros 1 ++ le 8 (chanOf s c).since } }

/-- Quanta of a bit phase: BRP × (1 + TSEG1 + TSEG2) (R409). -/
def quanta (brp t1 t2 : Nat) : Nat := brp * (1 + t1 + t2)

/-- The fields of a CAN_SET as applied, with the clamped offsets (R433). -/
def canFields (p : List Byte) : CanCfg × List Nat :=
  let nb := clampField 4 1 512 (u p 4 2)
  let n1 := clampField 6 2 256 (u p 6 2)
  let n2 := clampField 8 2 128 (u p 8 1)
  let ns := clampField 9 1 n2.val (u p 9 1)
  let db := clampField 10 1 32 (u p 10 1)
  let d1 := clampField 11 1 32 (u p 11 1)
  let d2 := clampField 12 1 16 (u p 12 1)
  let ds := clampField 13 1 d2.val (u p 13 1)
  let td := clampField 14 0 127 (u p 14 1)
  let xb := clampField 16 1 32 (u p 16 1)
  let x1 := clampField 17 1 32 (u p 17 1)
  let x2 := clampField 18 1 16 (u p 18 1)
  let xs := clampField 19 1 x2.val (u p 19 1)
  let rm := clampField 20 0 10000 (u p 20 2)
  let sa := clampField 22 0 253 (u p 22 1)
  let bg := clampField 23 50 200 (u p 23 1)
  let ct := clampField 24 1 16 (u p 24 1)
  let xt := clampField 25 0 127 (u p 25 1)
  ({ mode := u p 1 1, proto := u p 2 1, flags := u p 3 1 % 16, nBrp := nb.val, nSeg1 := n1.val, nSeg2 := n2.val, nSjw := ns.val,
     dBrp := db.val, dSeg1 := d1.val, dSeg2 := d2.val, dSjw := ds.val, tdc := td.val, xBrp := xb.val, xSeg1 := x1.val, xSeg2 := x2.val,
     xSjw := xs.val, recoverMs := rm.val, sa := sa.val, bamGap := bg.val, cts := ct.val, xTdc := xt.val },
   [nb, n1, n2, ns, db, d1, d2, ds, td, xb, x1, x2, xs, rm, sa, bg, ct, xt].flatMap (·.off))

/-- A CAN channel's settings in their set layout (R433). -/
def canBytes (c : Nat) (k : CanCfg) : List Byte :=
  le 1 c ++ le 1 k.mode ++ le 1 k.proto ++ le 1 k.flags ++ le 2 k.nBrp ++ le 2 k.nSeg1 ++ le 1 k.nSeg2 ++ le 1 k.nSjw ++ le 1 k.dBrp ++
  le 1 k.dSeg1 ++ le 1 k.dSeg2 ++ le 1 k.dSjw ++ le 1 k.tdc ++ zeros 1 ++ le 1 k.xBrp ++ le 1 k.xSeg1 ++ le 1 k.xSeg2 ++ le 1 k.xSjw ++
  le 2 k.recoverMs ++ le 1 k.sa ++ le 1 k.bamGap ++ le 1 k.cts ++ le 1 k.xTdc ++ zeros 6

/-- New CAN settings come into force (R412, R433): the channel rejoins, or its recovery begins afresh. -/
def canApply (s : State) (c : Nat) (k : CanCfg) : State :=
  let r := canRun s c
  let s1 := s.modLeg fun l => { l with cfg := { l.cfg with can := l.cfg.can.set c k } }
  if canCfg s c = k ∨ !engineRuns s c then s1
  else if k.mode = 0 then modCan s1 c fun _ => {}
  else if r.state = 0 then modCan s1 c fun x => { x with state := 1 }
  else modCan s1 c fun x => { x with tp := if bit k.flags 1 then x.tp else [] }

/-- CAN_SET (R408, R409, R412, R433). The rate of a data phase counts where `PROTO` has that phase (assumption 21). -/
def specCanSet : CmdSpec := {
  opcode := 0x0801, badLen := lenIs 32,
  body := fun s _ p =>
    let c := u p 0 1
    let f := canFields p
    let k := f.1
    let nq := quanta k.nBrp k.nSeg1 k.nSeg2
    let dq := quanta k.dBrp k.dSeg1 k.dSeg2
    let xq := quanta k.xBrp k.xSeg1 k.xSeg2
    checked [chkSup (c > 7) 0, chkSup (k.mode > 3) 1, chkSup (k.proto > 2 || (k.proto = 2 && c > 3)) 2,
        chkPol (nq < 80 || nq > 8000) 4,
        chkPol (k.proto ≥ 1 && (dq < 10 || dq > nq)) 10,
        chkPol (k.proto = 2 && (xq < 8 || xq > nq)) 16] fun _ =>
      ifEngine s (engineOf c) fun _ =>
        .done {
          st := stampChans s (canApply s c k)
          clamps := f.2
          payload := canBytes c k ++ le 4 (80000000 / nq) ++ le 4 (80000000 / dq) ++ le 4 (if k.proto = 2 then 80000000 / xq else 0) } }

/-- CAN_WAKE_SET (R413, R434). -/
def specCanWakeSet : CmdSpec := {
  opcode := 0x0802, badLen := lenIs 24,
  body := fun s _ p =>
    let c := u p 0 1
    let dlc := clampField 3 0 8 (u p 3 1)
    let fl := u p 2 1 % 4
    let w : CanWake := {
      enable := u p 1 1 == 1, flags := fl, dlc := dlc.val, ident := u p 4 4 % 2 ^ (if bit fl 0 then 29 else 11),
      mask := u p 8 4, dataMask := sub p 12 8, rate := u p 20 1 }
    checked [chkSup (c > 1) 0, chkSup (u p 1 1 > 1) 1, chkSup (w.rate > 3) 20] fun _ =>
      ifEngine s 0 fun _ =>
        .done {
          st := s.modLeg fun l => { l with cfg := { l.cfg with wake := l.cfg.wake.set c w } }
          clamps := dlc.off
          payload := le 1 c ++ le 1 (b2n w.enable) ++ le 1 fl ++ le 1 w.dlc ++ le 4 w.ident ++ le 4 w.mask ++ w.dataMask ++ le 1 w.rate ++ zeros 3 } }

/-- CAN_RECOVER (R412, R435): also restarts a recovery that does not end. -/
def specCanRecover : CmdSpec := {
  opcode := 0x0803, badLen := lenIs 1,
  body := fun s _ p =>
    let c := u p 0 1
    checked [chkSup (c > 7) 0, chkConf ((canRun s c).state < 3) 0] fun _ =>
      ifEngine s (engineOf c) fun _ => .done { st := stampChans s (modCan s c fun r => { r with state := 4 }) } }

/-- MVB_SET (R420, R436): a change of address or line as master first passes mastership on. -/
def specMvbSet : CmdSpec := {
  opcode := 0x0804, badLen := lenIs 8,
  body := fun s _ p =>
    let c := u p 0 1
    let lf := clampField 6 4 255 (u p 6 1)
    let k : MvbCfg := { mode := u p 1 1, addr := u p 2 2, flags := u p 4 1 % 4, line := u p 5 1, fails := lf.val }
    checked [chkSup (!isMvb c) 0, chkSup (k.mode > 1) 1, chkSup (k.addr > 4095) 2, chkSup (k.line > 2) 5] fun _ =>
      ifEngine s 2 fun _ =>
        let o := mvbCfg s c
        let s1 := if k.mode = 0 ∨ !bit k.flags 1 then leaveMaster s c 3 0
          else if k.addr ≠ o.addr ∨ k.line ≠ o.line then leaveMaster s c 2 ((nextAdmin s c o.addr).getD 0)
          else s
        let s2 := s1.modLeg fun l => { l with cfg := { l.cfg with mvb := l.cfg.mvb.set (c - 8) k } }
        .done {
          st := stampChans s (if engineRuns s c then modMvb s2 c fun r => { r with on := k.mode == 1 } else s2)
          clamps := lf.off
          payload := le 1 c ++ le 1 k.mode ++ le 2 k.addr ++ le 1 k.flags ++ le 1 k.line ++ le 1 k.fails ++ zeros 1 } }

/-- Apply an MVB_PORT_SET entry (R418, R437). -/
def entryMvbPort (off : Nat) (e : List Byte) (s : State) : EntryRes :=
  let c := u e 0 1
  let op := u e 1 1
  let port := u e 2 2
  let ms := clampField (off + 8) 1 65535 (u e 8 2)
  let tbl := at' s.leg.cfg.ports (c - 8) []
  entryOk [chkSup (!isMvb c) off, chkSup (op > 1) (off + 1), chkSup (port > 4095) (off + 2),
      chkConf (op = 1 && !thas tbl port) (off + 2), chkSup (op = 0 && u e 4 1 > 1) (off + 4), chkSup (op = 0 && u e 5 1 > 4) (off + 5),
      { bad := op = 0 && !thas tbl port && tbl.length ≥ 4096, status := stNoResource, off := off }] fun _ =>
    let put := fun (f : Tab MvbPort → Tab MvbPort) (g : Tab MvbPortRun → Tab MvbPortRun) => s.modLeg fun l => { l with
      cfg := { l.cfg with ports := l.cfg.ports.modify (c - 8) f }, mvbPorts := l.mvbPorts.modify (c - 8) g }
    if op = 1 then .ok (put (fun t => tdel t port) (fun t => tdel t port), [])
    else
      let x : MvbPort := { sink := u e 4 1 == 1, fcode := u e 5 1, supervise := bit (u e 6 1) 0, sinkMs := ms.val }
      .ok (put (fun t => tset t port x) (fun t => tmod t port {} fun r => { r with
        stale := false, since := s.now, watched := true, value := if r.value.length = fcodeSize x.fcode then r.value else [] }), ms.off)

/-- MVB_PORT_SET (R418, R437). -/
def specMvbPortSet : CmdSpec := {
  opcode := 0x0805, bulkIn := true, badLen := lenList 16,
  body := fun s r p => ifEngine s 2 fun _ => listBody 16 entryMvbPort noShadowCheck 0 false s r p }

/-- Time of a poll in ns (R419; frame lengths of IEC 61375-3-1, PRESUMED): master frame 33 bits, slave frame by F-code, at 1.5 Mb/s,
10 µs of reply time and 10 µs of gap. -/
def pollNs (fcode : Nat) : Nat := (33 + at' [33, 49, 81, 153, 297] fcode 297) * 2000 / 3 + 20000

/-- Whether an administration would occupy more than 90 % of a basic period (R419). -/
def adminOver (a : MvbAdmin) : Bool :=
  (List.range 1024).any fun n =>
    let polls := pollsOf a n
    let t := ((a.polls.filter fun e => polls.contains e.1).map fun e => pollNs e.2.1).sum
    !polls.isEmpty && (t + Config.mvbKept) * 10 > a.basicUs * 1000 * 9

/-- MVB_ADMIN_SET (R419, R438): in force from the next macro period of a master, else at once. -/
def specMvbAdminSet : CmdSpec := {
  opcode := 0x0806, bulkIn := true, badLen := lenCounted 48 2 2 4,
  body := fun s _ p =>
    let c := u p 0 1
    let n := clampField 1 1 16 (u p 1 1)
    let cnt := u p 2 2
    let bu := clampLower 4 500 2000 500 (u p 4 2)
    let tm := clampField 6 1 255 (u p 6 2)
    let admins := (List.range n.val).map fun i => u p (8 + 2 * i) 2
    let polls := (List.range cnt).map fun i => (u p (48 + 4 * i) 2, u p (50 + 4 * i) 1, min 10 (u p (51 + 4 * i) 1))
    let a : MvbAdmin := { admins := admins, basicUs := bu.val, turns := tm.val, polls := polls }
    let bad := (List.range cnt).find? fun i => u p (48 + 4 * i) 2 > 4095 || u p (50 + 4 * i) 1 > 4
    checked [chkSup (!isMvb c) 0, chkSup (cnt > 4096) 2, chkSup bad.isSome (48 + 4 * bad.getD 0),
        chkConf (!bit (mvbCfg s c).flags 1) 0, chkConf (!admins.contains (mvbCfg s c).addr) 8, chkPol (adminOver a) 4] fun _ =>
      ifEngine s 2 fun _ =>
        let s1 := s.modLeg fun l => { l with cfg := { l.cfg with admin := l.cfg.admin.set (c - 8) a } }
        .done {
          st := if (mvbRun s c).master then s1 else modMvb s1 c fun r => { r with admin := a }
          clamps := n.off ++ bu.off ++ tm.off ++ (List.range cnt).flatMap fun i => if u p (51 + 4 * i) 1 > 10 then [51 + 4 * i] else []
          payload := le 1 c ++ le 1 n.val ++ le 2 cnt ++ le 2 bu.val ++ le 2 tm.val ++ sub p 8 32 ++ zeros 8 } }

/-- The bit rate a serial port produces, rounded down (R421). -/
def appliedBaud (b : Nat) : Nat := 400000000 / ((400000000 + b / 2) / b)

/-- SERIAL_SET (R421, R439). -/
def specSerialSet : CmdSpec := {
  opcode := 0x0807, badLen := lenIs 20,
  body := fun s _ p =>
    let c := u p 0 1
    let bd := clampField 4 1200 10000000 (u p 4 4)
    let gc := clampField 9 2 255 (u p 9 1)
    let de := clampField 10 0 1000 (u p 10 2)
    let rt := clampField 12 1 10000 (u p 12 2)
    let bp := clampField 14 1 255 (u p 14 1)
    let sm := if u p 16 2 = 0 then { val := 0, off := [] : Clamped } else clampField 16 10 60000 (u p 16 2)
    let k : SerialCfg := {
      mode := u p 1 1, phy := u p 2 1, format := u p 3 1 % 16, baud := bd.val, flags := u p 8 1 % 4, gap := gc.val, deLead := de.val,
      respMs := rt.val, polls := bp.val, silenceMs := sm.val }
    let o := serCfg s c
    let moved := k.mode != o.mode || k.phy != o.phy || k.format != o.format || k.baud != o.baud
    checked [chkSup (!isSerial c) 0, chkSup (k.mode > 3) 1, chkSup (k.phy > 1) 2, chkSup (k.format / 2 % 4 = 3) 3,
        chkConf (thas s.gw.locks c && moved) 0] fun _ =>
      ifEngine s 3 fun _ =>
        let s1 := if (serRun s c).cur.isSome then modSer s c fun r => { r with next := some k } else serialPump 256 (serApply s c k) c
        .done {
          st := stampChans s s1
          clamps := bd.off ++ gc.off ++ de.off ++ rt.off ++ bp.off ++ sm.off
          payload := le 1 c ++ le 1 k.mode ++ le 1 k.phy ++ le 1 k.format ++ le 4 k.baud ++ le 1 k.flags ++ le 1 k.gap ++ le 2 k.deLead ++
            le 2 k.respMs ++ le 1 k.polls ++ zeros 1 ++ le 2 k.silenceMs ++ zeros 2 ++ le 4 (appliedBaud k.baud) } }

/-- LIN_SET (R426, R440). -/
def specLinSet : CmdSpec := {
  opcode := 0x0808, badLen := lenIs 8,
  body := fun s _ p =>
    let c := u p 0 1
    let bd := clampField 2 1000 20000 (u p 2 2)
    let tb := clampField 5 1 50 (u p 5 1)
    let bb := clampField 6 13 26 (u p 6 1)
    let k : LinCfg := { mode := u p 1 1, baud := bd.val, table := u p 4 1, base := tb.val, brk := bb.val }
    checked [chkSup (!isLin c) 0, chkSup (k.mode > 2) 1, chkSup (k.table > 7) 4, chkConf (linTable s c k.table).isEmpty 4] fun _ =>
      ifEngine s 1 fun _ =>
        let s1 := s.modLeg fun l => { l with cfg := { l.cfg with lin := l.cfg.lin.set (c - 24) k } }
        let was := (linRun s c).state
        let s2 := if !engineRuns s c then s1
          else if k.mode = 1 ∧ was = 2 then linWake s1 c
          else if k.mode = 1 ∧ was = 0 then startChan s1 c
          else if k.mode = 0 then modLin s1 c fun _ => {}
          else if k.mode = 2 then modLin s1 c fun r => { r with state := 2, resume := none }
          else s1
        .done {
          st := stampChans s s2
          clamps := bd.off ++ tb.off ++ bb.off
          payload := le 1 c ++ le 1 k.mode ++ le 2 k.baud ++ le 1 k.table ++ le 1 k.base ++ le 1 k.brk ++ zeros 1 } }

/-- LIN_SCHEDULE_SET (R425, R441): the active table changes at the end of the current slot. -/
def specLinScheduleSet : CmdSpec := {
  opcode := 0x0809, bulkIn := true, badLen := lenCounted 8 2 2 8,
  body := fun s _ p =>
    let c := u p 0 1
    let t := u p 1 1
    let n := u p 2 2
    let o := fun (i : Nat) => 8 + 8 * i
    let bad := (List.range n).find? fun i => u p (o i) 1 > 63 || u p (o i + 1) 1 > 5 || (u p (o i + 1) 1 = 2 && u p (o i + 5) 1 > 7)
    let coll := (List.range n).find? fun i => u p (o i + 1) 1 = 2 && (u p (o i + 5) 1 = t || (linTable s c (u p (o i + 5) 1)).isEmpty)
    let es := (List.range n).map fun i =>
      ({ id := u p (o i) 1, type := u p (o i + 1) 1, len := clampTo 1 8 (u p (o i + 2) 1), flags := u p (o i + 3) 1 % 2,
         slot := clampTo 1 255 (u p (o i + 4) 1), coll := if u p (o i + 1) 1 = 2 then u p (o i + 5) 1 else 0 } : LinEntry)
    checked [chkSup (!isLin c) 0, chkSup (t > 7) 1, chkSup (n > 64) 2, chkSup bad.isSome (o (bad.getD 0)),
        chkConf coll.isSome (o (coll.getD 0) + 5), chkConf (n = 0 && (linCfg s c).table = t) 2] fun _ =>
      ifEngine s 1 fun _ =>
        .done {
          st := s.modLeg fun l => { l with cfg := { l.cfg with sched := l.cfg.sched.modify (c - 24) fun x => x.set t es } }
          clamps := (List.range n).flatMap fun i =>
            (clampField (o i + 2) 1 8 (u p (o i + 2) 1)).off ++ (clampField (o i + 4) 1 255 (u p (o i + 4) 1)).off
          payload := le 1 c ++ le 1 t ++ le 2 n ++ zeros 4 ++ es.flatMap fun e =>
            le 1 e.id ++ le 1 e.type ++ le 1 e.len ++ le 1 e.flags ++ le 1 e.slot ++ le 1 e.coll ++ zeros 2 } }

/-- DIO_SET (R427, R428, R442). -/
def specDioSet : CmdSpec := {
  opcode := 0x080A, badLen := lenIs 8,
  body := fun s _ p =>
    let c := u p 0 1
    let t := if isGpi c then clampField 4 0 100000 (u p 4 4) else clampField 4 1 1000 (u p 4 4)
    let k : DioCfg := { flags := if isGpi c then u p 1 1 % 8 else u p 1 1 % 2, safe := if isGpi c then 0 else u p 2 1, time := t.val }
    checked [chkSup (!(32 ≤ c ∧ c ≤ 55)) 0, chkSup (!isGpi c && u p 2 1 > 1) 2] fun _ =>
      ifEngine s 3 fun _ =>
        .done {
          st := s.modLeg fun l => { l with cfg := { l.cfg with dio := l.cfg.dio.set (c - 32) k } }
          clamps := t.off
          payload := le 1 c ++ le 1 k.flags ++ le 1 k.safe ++ zeros 1 ++ le 4 k.time } }

/-- CHANNEL_COUNTERS_GET (R430, R443). -/
def specChannelCountersGet : CmdSpec := {
  opcode := 0x080B, badLen := lenIs 2,
  body := fun s _ p =>
    let c := u p 0 1
    checked [chkSup (!chanOk c) 0] fun _ => ifEngine s (engineOf c) fun _ =>
      let x := chanOf s c
      .done {
        st := if bit (u p 1 1) 0 then modChan s c fun y => { y with rx := 0, tx := 0, cs := List.replicate 8 0, fifoDrop := 0 } else s
        payload := le 1 c ++ zeros 7 ++ le 8 x.rx ++ le 8 x.tx ++ x.cs.flatMap (le 4) ++ le 4 x.fifoDrop } }

/-! ### The rows of these commands -/

/-- CHANNEL_STATUS_GET (R432): the command from its source. -/
def execChannelStatusGet (r : Req) (s : State) : Host.Outcome State Fault Refusal := command specChannelStatusGet r s

/-- CAN_SET (R433): the command from its source. -/
def execCanSet (r : Req) (s : State) : Host.Outcome State Fault Refusal := command specCanSet r s

/-- CAN_WAKE_SET (R434): the command from its source. -/
def execCanWakeSet (r : Req) (s : State) : Host.Outcome State Fault Refusal := command specCanWakeSet r s

/-- CAN_RECOVER (R435): the command from its source. -/
def execCanRecover (r : Req) (s : State) : Host.Outcome State Fault Refusal := command specCanRecover r s

/-- MVB_SET (R436): the command from its source. -/
def execMvbSet (r : Req) (s : State) : Host.Outcome State Fault Refusal := command specMvbSet r s

/-- MVB_PORT_SET (R437): the command from its source. -/
def execMvbPortSet (r : Req) (s : State) : Host.Outcome State Fault Refusal := command specMvbPortSet r s

/-- MVB_ADMIN_SET (R438): the command from its source. -/
def execMvbAdminSet (r : Req) (s : State) : Host.Outcome State Fault Refusal := command specMvbAdminSet r s

/-- SERIAL_SET (R439): the command from its source. -/
def execSerialSet (r : Req) (s : State) : Host.Outcome State Fault Refusal := command specSerialSet r s

/-- LIN_SET (R440): the command from its source. -/
def execLinSet (r : Req) (s : State) : Host.Outcome State Fault Refusal := command specLinSet r s

/-- LIN_SCHEDULE_SET (R441): the command from its source. -/
def execLinScheduleSet (r : Req) (s : State) : Host.Outcome State Fault Refusal := command specLinScheduleSet r s

/-- DIO_SET (R442): the command from its source. -/
def execDioSet (r : Req) (s : State) : Host.Outcome State Fault Refusal := command specDioSet r s

/-- CHANNEL_COUNTERS_GET (R443): the command from its source. -/
def execChannelCountersGet (r : Req) (s : State) : Host.Outcome State Fault Refusal := command specChannelCountersGet r s

end Sys2Proof.Machine
end

