-- ==== Sys2Proof/Machine/GatewayTables.lean ====
section
/-! DEFINITION. The gateway's tables as the commands lay them out (R460 to R462, R484, R485), what they cost (R450, R453, R682) and
what of them must fit together (R461, R462). -/

namespace Sys2Proof.Machine

/-! ### Set layouts -/

/-- A route entry (R460). -/
def routeBytes (i : Nat) (r : GwRoute) : List Byte :=
  le 1 0 ++ le 1 0 ++ le 2 i ++ le 1 r.space ++ le 1 r.kind ++ le 1 r.chan ++ le 1 (b2n r.event) ++ le 4 r.ident ++ le 4 r.mask ++
  le 2 r.slotLen ++ le 1 r.eventMax ++ le 1 (b2n r.coalesce) ++ le 2 r.staleMs ++ le 2 r.first ++ le 1 r.count ++ zeros 23

/-- A target entry (R461). -/
def targetBytes (i : Nat) (t : GwTarget) : List Byte :=
  le 1 1 ++ le 1 0 ++ le 2 i ++ le 1 t.space ++ le 1 t.kind ++ le 1 t.chan ++ le 1 t.flags ++ le 4 t.ident ++ le 2 t.len ++ le 1 t.func ++
  le 1 t.prio ++ le 2 t.addr ++ le 2 t.firstField ++ le 1 t.fieldCount ++ le 1 (b2n t.onChange) ++ le 2 t.period ++ le 2 t.refresh ++ zeros 22

/-- A field map entry (R462). -/
def fieldBytes (i : Nat) (f : FieldMap) : List Byte :=
  le 1 2 ++ le 1 0 ++ le 2 i ++ le 1 f.type ++ le 1 f.srcFmt ++ le 1 f.dstFmt ++ le 1 f.policy ++ le 2 f.srcOff ++ le 2 f.dstOff ++
  le 1 f.srcW ++ le 1 f.dstW ++ le 2 f.copyLen ++ le 4 (ofInt 32 f.mul) ++ le 1 f.shift ++ le 1 (b2n f.clampEn) ++ zeros 2 ++
  le 4 (ofInt 32 f.add) ++ le 4 (ofInt 32 f.min) ++ le 4 (ofInt 32 f.max) ++ le 4 (ofInt 32 f.safe) ++ le 4 f.ramp ++ le 4 f.slew

/-- An endpoint (R484). -/
def endpointBytes (d : Nat) (e : Endpoint) : List Byte :=
  le 1 d ++ le 1 e.flags ++ padTo 6 e.mac ++ be 4 e.ipv4 ++ le 1 e.pfx ++ zeros 1 ++ le 2 e.vid ++ le 4 e.md ++ le 2 e.idleS ++ zeros 10

/-- An ACF bus (R485). -/
def acfBytes (i : Nat) (b : AcfBus) : List Byte :=
  le 1 i ++ le 1 0 ++ le 1 b.domain ++ le 1 b.prio ++ le 2 b.vid ++ padTo 6 b.da ++ padTo 8 b.stream ++ zeros 4

/-- The pair digest over tables, period and phase (R688). -/
def digestOf (t : GwTables) (periodUs phaseNs : Nat) : List Byte :=
  Config.sha384 ((t.routes.flatMap fun e => routeBytes e.1 e.2) ++ (t.targets.flatMap fun e => targetBytes e.1 e.2) ++
    (t.fields.flatMap fun e => fieldBytes e.1 e.2) ++ le 4 periodUs ++ le 4 phaseNs)

/-! ### Costs -/

/-- The fields of a target. -/
def targetFields (t : GwTarget) : List Nat := (List.range t.fieldCount).map fun i => t.firstField + i

/-- The configured targets of a route. -/
def targetsOf (t : GwTables) (r : GwRoute) : List GwTarget := (routeTargets r).filterMap fun i => tget t.targets i

/-- Inputs of a route in a cycle, at most. -/
def runsOf (r : GwRoute) : Nat := if r.event then r.eventMax else 1

/-- Units of the slot region that the tables take (R450). -/
def slotUnits (t : GwTables) : Nat :=
  (t.routes.map fun e => 2 * ((e.2.eventMax * (16 + e.2.slotLen) + 63) / 64)).sum + (t.targets.map fun e => (e.2.len + 63) / 64).sum

/-- Worst-case `RUN` in ns (R453). The bytes copied are those of the messages built (assumption 22). -/
def wcetNs (t : GwTables) : Nat :=
  10000 + 20480 + (t.routes.map fun e =>
    let ts := targetsOf t e.2
    40 + runsOf e.2 * ((ts.map fun x => 10 * x.fieldCount + 80 + 5 * ((x.len + 63) / 64)).sum)).sum

/-- Whether the worst-case `RUN` exceeds its limit (R453). -/
def wcetOver (t : GwTables) (periodUs : Nat) : Bool := wcetNs t > min (800 * periodUs) 5000000

/-- Worst-case cycle copy in bytes (R682). -/
def copyBytes (t : GwTables) : Nat :=
  1024 + (t.routes.map fun e => e.2.eventMax * (16 + e.2.slotLen) + ((targetsOf t e.2).map fun x => e.2.eventMax * (16 + x.len)).sum).sum +
  8 * t.fields.length + 65536

/-- Whether pairing forbids the tables (R682). -/
def copyOver (s : State) (t : GwTables) : Bool := s.pair.cfg.pair.enable && copyBytes t > 262144

/-! ### What fits together (R461, R462) -/

/-- First byte past a field of `w` bits at offset `off` (a bit offset for one bit). -/
def fieldEnd (off w : Nat) : Nat := if w = 1 then off / 8 + 1 else off + w / 8

/-- Whether a field map lies within a source of `slot` bytes (R462). CONST reads none. -/
def srcFits (f : FieldMap) (slot : Nat) : Bool :=
  f.type == 2 || if f.type = 0 then f.srcOff + f.copyLen ≤ slot else fieldEnd f.srcOff f.srcW ≤ slot

/-- Whether a field map lies within a message of `len` bytes (R462). -/
def dstFits (f : FieldMap) (len : Nat) : Bool :=
  if f.type = 0 then f.dstOff + f.copyLen ≤ len else fieldEnd f.dstOff f.dstW ≤ len

/-- Whether every field of a target lies within the slots of the routes that name it, and within its message (R462). -/
def fieldsFit (t : GwTables) (i : Nat) (x : GwTarget) : Bool :=
  let fs := (targetFields x).filterMap fun k => tget t.fields k
  (fs.all fun f => dstFits f x.len) &&
  (t.routes.all fun e => !(routeTargets e.2).contains i || fs.all fun f => srcFits f e.2.slotLen)

/-- Whether a target in space 0 names a Modbus port. -/
def modbusTarget (s : State) (x : GwTarget) : Bool := x.space == 0 && isSerial x.chan && (serCfg s x.chan).mode == 3

/-- Whether a target's port is not a source, or its LIN frame not published (R461). -/
def targetConflict (s : State) (x : GwTarget) : Bool :=
  x.space == 0 && ((isMvb x.chan && x.kind == 2 && !((mvbPort s x.chan x.ident).any fun p => !p.sink)) ||
    (isLin x.chan && !linPublished s x.chan x.ident))

/-- Whether a field map is safety-relevant (R466). -/
def safetyMap (f : FieldMap) : Bool := f.slew != 0 || f.policy == 1 || f.policy == 2

/-- Whether Lodestar runs split by configuration (R466, R610). -/
def inSplit (s : State) : Bool := s.lode.splitMode

end Sys2Proof.Machine
end

