-- ==== Sys2Proof/Machine/PairOps.lean ====
section
/-! DEFINITION. The pair's shared operations: state, arming, roles, posted blocks, heartbeat and takeover at a mark
(R673 to R691). -/

namespace Sys2Proof.Machine

/-- A row of the pair. -/
def pairRow (s : State) (f : State → State) : Host.Outcome State Fault Refusal := .next (stampPair s (f s))

/-- A posted block is sent, behind the window if it is full (R679). -/
def sendPosted (s : State) (type cycle : Nat) (body : PairBody) : State :=
  if !s.pair.link then s else
  let b : PairBlock := { type := type, bseq := s.pair.txSeq, ack := s.pair.rxSeq, cycle := cycle, txTime := s.now, body := body }
  let s1 := s.modPair fun p => { p with txSeq := wrapAdd 32 p.txSeq 1 }
  if s.pair.unacked.length < 128 then
    pairCount (s1.modPair fun p => { p with
      unacked := p.unacked ++ [b], txAt := s.now, ackAt := if p.unacked.isEmpty then s.now else p.ackAt }) 0 0 1
  else s1.modPair fun p => { p with txq := p.txq ++ [b] }

/-- The pair digest of the tables in force (R688). -/
def ownDigest (s : State) : List Byte := digestOf s.ep.cur.gw s.gw.grid.1 s.gw.grid.2

/-- This unit's hello (R687). -/
def ownHello (s : State) : PairHello :=
  { serial := Config.serial % 2 ^ 64, ikiora := s.host.fwVer, rev := 1, copyFmt := 1, digest := ownDigest s, reasons := s.pair.reasons
    role := s.pair.role, priority := s.pairCfg.priority, takenAt := s.pair.takenAt }

/-- A hello control block is sent (R687), unless Lodestar is restarting (R686). -/
def sendHello (s : State) : State :=
  if s.pair.link ∧ s.host.ready then sendPosted (s.modPair fun p => { p with helloAt := s.now, told := some (ownDigest s, p.reasons) }) 2 s.gw.cycle (.hello (ownHello s)) else s

/-- What the hello carries has changed with the tables of a commit or otherwise (R687, R688): reason 1 is judged anew, and a hello follows. -/
def refreshHello (s : State) : State :=
  if !s.pair.link then s
  else if s.pair.told = some (ownDigest s, s.pair.reasons) then s
  else sendHello (match s.pair.partner with
    | some h => setReason s 1 (h.digest ≠ ownDigest s)
    | none => s)

/-- A block of another type leaves at once (R678). -/
def sendOther (s : State) : State := if s.pair.link then pairCount (s.modPair fun p => { p with txAt := s.now }) 0 0 1 else s

/-! ### Roles (R674, R675, R690) -/

/-- The Companion's behaviour begins (R675, R686): outputs not yet issued are kept back and counted, nothing it has queued is sent, its
outputs are high-impedance. -/
def mute (s : State) : State :=
  let held := (s.gw.run.map fun c => c.outs.length).sum
  let s0 := if held = 0 then s else
    pairCount (s.modGw fun g => { g with run := g.run.map fun c => { c with outs := [] } }) 0 3 held
  let s1 := ((List.range 26).filter chanOk).foldl (fun s c => modChan s c fun x => { x with txq := x.txq.filter fun y => !isPosted y }) s0
  (List.range 8).foldl (fun s i => modDio s (48 + i) fun d => { d with driven := false }) s1

/-- The last value a target gave a GPO (R691). -/
def gpoValue (s : State) (c : Nat) : Option Nat :=
  (tablesOf s s.ep.epoch).gw.targets.findSome? fun e =>
    if e.2.space ≠ 0 ∨ e.2.chan ≠ c then none
    else match (tgetD s.gw.targets e.1 {}).buf with
      | [] => none
      | b :: bs => some (u (b :: bs) 0 1 % 2)

/-- A Primary's outputs are enabled (R690, R691): LIN at entry 0, the GPOs driven to the last values of its field state. -/
def unmute (s : State) : State :=
  let s1 := [24, 25].foldl (fun s c => modLin s c fun r => { r with index := 0, back := none, slotAt := s.now }) s
  (List.range 8).foldl (fun s i => modDio s (48 + i) fun d => { d with
    driven := engineRuns s1 (48 + i), level := if engineRuns s1 (48 + i) then (gpoValue s1 (48 + i)).getD d.level else d.level }) s1

/-- This module takes a role (R674). -/
def takeRole (s : State) (role : Nat) : State :=
  let s1 := s.modPair fun p => { p with role := role, armed := if role = 1 then false else p.armed, watch := false, equal := 0, waitMarks := none }
  if role = 1 then unmute s1 else mute s1

/-- TAKEOVER (R690, R698): the Companion becomes Primary at a mark. -/
def takeOver (s : State) (cause : Nat) : State :=
  let missed := s.pair.hbMissed
  let gap := (s.now - s.pair.lastOut) / 1000
  let s1 := takeRole (pairCount s 0 13 1) 1
  let s2 := s1.modPair fun p => { p with takenAt := some s.now, takeover := none, switching := none }
  raise s2 0xE4 4 noLevel (srcId 0xE 1)
    (le 1 cause ++ le 1 (min missed 255) ++ zeros 2 ++ le 4 s.gw.cycle ++ le 4 (min gap (2 ^ 32 - 1)) ++ le 4 (pairCtr s2 0 13))

/-- The Primary's heartbeat (R676), sent without passing through a route. -/
def sendHeartbeat (s : State) : State :=
  let p := s.pairCfg
  let armed := s.pair.partner.any fun h => h.reasons == 0
  let s1 := if p.hbCan ≤ 7 ∧ canOn s p.hbCan then
      modChan s p.hbCan fun x => { x with txq := x.txq ++ [{
        msg := { kind := 0, chan := p.hbCan, flags := b2n (bit p.hbCanId 31), ident := p.hbCanId % 2 ^ 29
                 data := be 4 s.gw.cycle ++ be 1 1 ++ be 1 (b2n armed) ++ be 2 (Config.serial % 65536) }
        origin := .exchange 3 0 0 }] }
    else s
  if isMvb p.hbMvb then modMvbPort s1 p.hbMvb p.hbMvbPort fun x => { x with value := be 4 s.gw.cycle } else s1

/-- What the pair does at a cycle mark (R674, R676, R687, R690). -/
def pairAtMark (s : State) : State :=
  if !s.pairCfg.enable then s else
  let conf := s.pairCfg.hbCan ≤ 7 || isMvb s.pairCfg.hbMvb
  let s1 := s.modPair fun p => { p with hbMissed := if p.hbSeen || !conf then 0 else p.hbMissed + 1 }
  let s2 := match s1.pair.waitMarks with
    | none => s1
    | some n =>
      if s1.pair.hbSeen then takeRole s1 2
      else if n ≤ 1 then takeRole s1 1
      else s1.modPair fun p => { p with waitMarks := some (n - 1) }
  let s3 := s2.modPair fun p => { p with hbSeen := false }
  let s4 := match s3.pair.takeover with
    | none => s3
    | some c =>
      if s3.pair.role = 1 ∧ c = 2 then (takeRole s3 2).modPair fun p => { p with takeover := none, switching := none }
      else if s3.pair.role = 2 ∧ (c = 2 ∨ (s3.pair.armed ∧ bit s3.pairCfg.flags 0)) then takeOver s3 c
      else s3.modPair fun p => { p with takeover := none }
  let s5 := if s4.pair.role = 1 then sendHeartbeat s4 else s4
  stampPair s (refreshHello s5)

/-- The Primary's copy of a cycle (R681). -/
def sendCopy (s : State) (c : GwSnap) : State :=
  if s.pair.role ≠ 1 ∨ !s.pair.link then s else
  let t := (tablesOf s c.epoch).gw
  let bytes := 64 + ((c.slots.map fun e => (e.2.closed.map fun r => 16 + r.data.length).sum).sum) +
    ((c.listed.map fun o => 16 + o.tx.msg.data.length).sum) + 8 * c.changed.length + ((c.issued.map fun d => 16 + d.tx.msg.data.length).sum)
  let k : PairCopy := {
    cycle := c.cycle, mark := c.mark, copyFmt := 1, digest := digestOf t s.gw.grid.1 s.gw.grid.2, outs := c.listed, changed := c.changed
    bytes := bytes }
  sendPosted (s.modPair fun p => { p with copyBytes := bytes }) 1 c.cycle (.copyEnd k)

end Sys2Proof.Machine
end

