-- ==== Sys2Proof/Machine/GatewayRun.lean ====
section
/-! DEFINITION. The gateway at work: inputs at point 34 (R445 to R451, R458, R467, R476, R478), the cycle (R452 to R457, R459, R463 to
R466, R475), its outputs (R446), and the rows of cycles, locks and fetches. -/

namespace Sys2Proof.Machine

/-- Whether the gateway runs: in Day (R404, R494). -/
def gatewayOn (s : State) : Bool := s.power.on && s.power.state == 0

/-! ### Frames the gateway makes (R189, R446, R476, R478) -/

/-- A frame padded to 64 bytes with its FCS (R189). -/
def padFrame (d : List Byte) : List Byte := if d.length < 60 then padTo 60 d else d

/-- A carriage frame (R189). -/
def carriageFrame (m : BusMsg) (cycle : Nat) : List Byte :=
  padFrame (zeros 6 ++ be 6 (Config.baseMac % 2 ^ 48) ++ be 2 0x88B5 ++ be 1 (16 + m.kind) ++ be 1 m.chan ++ be 2 m.flags ++ be 4 m.ident ++
    be 8 m.time ++ be 2 m.data.length ++ be 2 (cycle % 65536) ++ m.data)

/-- The endpoint of a domain, if enabled (R484). -/
def endpointOf (s : State) (d : Nat) : Option Endpoint := match tget s.gw.cfg.ends d with
  | some e => if bit e.flags 0 then some e else none
  | none => none

/-- IPv4 header checksum (RFC 791). -/
def ipSum (h : List Byte) : Nat :=
  let t := ((List.range (h.length / 2)).map fun i => ub h (2 * i) 2).sum
  let t := t % 65536 + t / 65536
  65535 - (t % 65536 + t / 65536)

/-- A UDP frame of an endpoint; the UDP checksum is 0, not used. -/
def udpFrame (e : Endpoint) (dmac dip sport dport prio : Nat) (d : List Byte) : List Byte :=
  let ip := fun (c : Nat) => be 2 0x4500 ++ be 2 (28 + d.length) ++ be 4 0 ++ be 2 0x4011 ++ be 2 c ++ be 4 e.ipv4 ++ be 4 dip
  padFrame (be 6 dmac ++ padTo 6 e.mac ++ be 2 0x8100 ++ be 2 (prio * 8192 + e.vid) ++ be 2 0x0800 ++ ip (ipSum (ip 0)) ++
    be 2 sport ++ be 2 dport ++ be 2 (8 + d.length) ++ be 2 0 ++ d)

/-- A TRDP process-data telegram (IEC 61375-2-3, PRESUMED): header with the topography counter of TTDP, then the dataset. -/
def pdTelegram (s : State) (seq type comId : Nat) (d : List Byte) : List Byte :=
  let h := be 4 seq ++ be 2 0x0100 ++ be 2 type ++ be 4 comId ++ be 4 s.pair.ttdp.topo ++ be 4 0 ++ be 4 d.length ++ zeros 12
  h ++ le 4 (crc32 h) ++ d

/-- Send a TRDP telegram from the endpoint of a domain (R446, R476). -/
def sendPd (s : State) (domain type comId prio idx dmac dip : Nat) (d : List Byte) : State :=
  match endpointOf s domain with
  | none => s
  | some e =>
    let seq := tgetD s.gw.pdSeq idx 0
    let s1 := gwCount (s.modGw fun g => { g with pdSeq := tset g.pdSeq idx (wrapAdd 32 seq 1) }) 2 0 2 1
    (enterPipeline s1 34 none { data := udpFrame e dmac dip 17224 17224 prio (pdTelegram s seq type comId d), domain := domain, prio := prio, made := true }
      true false).1

/-- An NTSCF frame with one ACF CAN message (IEEE 1722-2016, PRESUMED). -/
def acfFrame (b : AcfBus) (bus seq : Nat) (m : BusMsg) : List Byte :=
  let pad := (4 - m.data.length % 4) % 4
  let words := (16 + m.data.length + pad) / 4
  let fl := pad * 64 + 32 * b2n (m.time ≠ 0) + 8 * b2n (bit m.flags 0) + 4 * b2n (bit m.flags 2) + 2 * b2n (bit m.flags 1)
  let acf := be 2 (1 * 512 + words) ++ be 1 fl ++ be 1 bus ++ be 8 m.time ++ be 4 m.ident ++ m.data ++ zeros pad
  padFrame (padTo 6 b.da ++ be 6 (Config.baseMac % 2 ^ 48) ++ be 2 0x8100 ++ be 2 (b.prio * 8192 + b.vid) ++ be 2 0x22F0 ++
    be 1 0x82 ++ be 2 (32768 + acf.length) ++ be 1 (seq % 256) ++ padTo 8 b.stream ++ acf)

/-- Issue one output (R446, R455). -/
def issueOut (s : State) (o : GwOut) (cycle : Nat) : State :=
  let m := o.tx.msg
  let s1 := match o.tx.origin with
    | .route r _ => gwCount s 0 r 1 1
    | _ => s
  match o.space with
  | 0 => toChannel s1 o.tx
  | 1 =>
    let d := Config.pdDest m.chan m.ident
    let idx := match o.tx.origin with
      | .route _ t => t
      | _ => 16384
    sendPd s1 m.chan 0x5064 m.ident o.prio idx (d.1 % 2 ^ 48) (d.2 % 2 ^ 32) m.data
  | 2 => match tget s1.gw.cfg.buses m.chan with
    | none => s1
    | some b =>
      let seq := tgetD s1.gw.acfSeq m.chan 0
      let s2 := gwCount (s1.modGw fun g => { g with acfSeq := tset g.acfSeq m.chan (wrapAdd 8 seq 1) }) 2 0 4 1
      (enterPipeline s2 34 none { data := acfFrame b m.chan seq m, domain := b.domain, prio := o.prio, made := true } true false).1
  | _ =>
    (enterPipeline (perfCount s1 0x061 1) 34 none
      { data := carriageFrame { m with flags := m.flags % 256 + o.tflags } cycle, prio := o.prio, made := true } true false).1

/-! ### Direct writes (R467, R468) -/

/-- Bytes of the open journal half in use (R467). -/
def journalUsed (s : State) : Nat := (s.gw.journal.map fun d => 16 + (d.tx.msg.data.length + 15) / 16 * 16).sum

/-- Whether a direct write finds the journal half full (R467). -/
def journalFull (s : State) (len : Nat) : Bool := journalUsed s + 16 + (len + 15) / 16 * 16 > 131072

/-- A direct write is placed in the open journal half (R467). -/
def journalPut (s : State) (tx : TxMsg) : State :=
  gwCount (s.modGw fun g => { g with journal := g.journal ++ [{ tx := tx }] }) 1 tx.msg.chan 0 1

/-- A direct-write carriage frame (R467, R468, R675). -/
def directFrame (s : State) (f : Frame) (c : CarriageInfo) (ring : Nat) : State :=
  let tx : TxMsg := {
    msg := { kind := c.kind, chan := c.channel, flags := c.cflags % 8, ident := c.ident, time := 0, data := c.data }
    origin := .direct 2 ring 0, func := if isSerial c.channel ∧ (serCfg s c.channel).mode = 3 then u c.data 1 1 else 0
    addr := if isSerial c.channel ∧ (serCfg s c.channel).mode = 3 then ub c.data 2 2 else 0 }
  if muted s ∨ !chanOk c.channel ∨ c.kind = 7 then gwCount s 2 0 10 1
  else if isGpi c.channel then raisePosted (gwCount s 1 c.channel 1 1) tx 8
  else if lengthBad s c.kind c.channel c.ident c.data.length then raisePosted (gwCount s 1 c.channel 3 1) tx 7
  else
    let k := gatewayCheck s f.epoch f.zone c.kind c.channel c.ident (frameLen f) f.domain
    if !k.1 then k.2
    else if journalFull k.2 c.data.length then raisePosted (gwCount k.2 2 0 11 1) tx 0
    else journalPut k.2 tx

/-! ### Inputs at point 34 (R445, R448, R476, R478) -/

/-- Whether an IPv4 address is multicast. -/
def isMcast (ip : Nat) : Bool := ip / 2 ^ 28 == 14

/-- A TRDP process-data telegram arrives at an endpoint (R476). -/
def pdInput (s : State) (f : Frame) (ip : IpInfo) : State :=
  let d := f.data.drop f.parsed.l4.dataOff
  let s1 := gwCount s 2 0 1 1
  let topo := ub d 12 4
  let com := ub d 8 4
  if topo ≠ 0 ∧ topo ≠ s.pair.ttdp.topo then gwCount s1 2 0 12 1
  else if ub d 6 2 = 0x5072 then
    let t := (tablesOf s f.epoch).gw
    match t.targets.find? fun e => e.2.space == 1 && e.2.chan == f.domain && e.2.ident == com with
    | none => s1
    | some (i, x) =>
      if muted s then s1
      else sendPd s1 f.domain 0x5070 com x.prio i (beNat f.parsed.sa) (let r := ub d 32 4; if r = 0 then beNat ip.src else r)
        (padTo x.len (tgetD s.gw.targets i {}).buf)
  else latchInput s1 { epoch := f.epoch, space := 1, kind := 0, chan := f.domain, ident := com, time := f.rxTime, cflags := 0, zone := f.zone,
                       data := sub d 40 (ub d 20 4) }

/-- The ACF messages of an IEEE 1722 stream (R478): `n` bounds them. -/
def acfInputs : Nat → State → Frame → Nat → List Byte → State
  | 0, s, _, _, _ => s
  | n + 1, s, f, bus, d =>
    let ty := ub d 0 2 / 512
    let len := ub d 0 2 % 512 * 4
    if len < 8 ∨ d.length < len then s
    else
      let hdr := if ty = 1 then 16 else 8
      let fl := u d 2 1
      let time := if ty = 1 ∧ bit fl 5 then ub d 4 8 else f.rxTime
      let cf := b2n (bit fl 3) + 2 * b2n (bit fl 1) + 4 * b2n (bit fl 2) + 8 * b2n (bit fl 0) + 16 * b2n (bit fl 4)
      let s1 := if ty = 1 ∨ ty = 2 then
          latchInput (gwCount s 2 0 3 1) {
            epoch := f.epoch, space := 2, kind := 0, chan := bus, ident := ub d (hdr - 4) 4 % 2 ^ 29, time := max 1 time, cflags := cf,
            zone := f.zone, data := sub d hdr (len - hdr - fl / 64) }
        else s
      acfInputs n s1 f bus (d.drop len)

/-- A frame delivered to the gateway (R445). -/
def gatewayInput (s : State) (f : Frame) : State :=
  let other := gwCount s 2 0 10 1
  match f.parsed.carriage with
  | some c =>
    if f.made then gwCount s 2 0 9 1
    else if c.busTime = 0 then
      match f.txRing with
      | some k => if f.first = 33 then directFrame s f c k else gwCount s 2 0 9 1
      | none => gwCount s 2 0 9 1
    else
      let s1 := if c.kind = 7 then updateStatus s c.channel c.ident c.data else s
      latchInput s1 { epoch := f.epoch, space := 0, kind := c.kind, chan := c.channel, ident := c.ident, time := c.busTime, cflags := c.cflags,
                      zone := f.zone, data := c.data }
  | none =>
    if f.parsed.etherType = 0x22F0 then
      let d := f.data.drop f.parsed.stackEnd
      let st := u d 0 1
      if st ≠ 0x82 ∧ st ≠ 0x05 then other else
      match s.gw.cfg.buses.find? fun b => b.2.domain == f.domain && b.2.stream == sub d 4 8 with
      | none => other
      | some (i, _) => acfInputs 64 s f i (d.drop (if st = 0x82 then 12 else 24))
    else match endpointOf s f.domain, f.parsed.ip with
      | none, _ => other
      | some e, none => if f.parsed.etherType = 0x0806 ∧ ub f.data (f.parsed.stackEnd + 24) 4 = e.ipv4 then s else other
      | some e, some ip =>
        let dst := beNat ip.dst
        if ip.ver ≠ 4 ∨ (dst ≠ e.ipv4 ∧ !isMcast dst) then other
        else if ip.proto = 17 ∧ f.parsed.l4.dst = some 17224 then pdInput s f ip
        else if dst = e.ipv4 ∧ (ip.proto = 1 ∨ ((ip.proto = 6 ∨ ip.proto = 17) ∧ f.parsed.l4.dst = some 17225)) then s
        else other

/-- GW_INPUT_DELIVERY (R445, R458): the next frame for point 34 is delivered, matched under its epoch, checked and latched. -/
def execGwInputDelivery (s : State) : Host.Outcome State Fault Refusal :=
  if !gatewayOn s then .next s else
  match deliverInternal s 34 with
  | none => .next s
  | some (_, t, _) =>
    let s1 := stampChans s (gatewayInput s t.frame)
    match deliverInternal s1 34 with
    | some (_, _, s2) => .next s2
    | none => .next s1

/-- The oldest of the messages that the engines hold (R405): the earliest `BUS_TIME`, then the lower channel. -/
def oldestMsg (s : State) : Option BusMsg :=
  (s.leg.engines.flatMap (·.fifo)).foldl (fun b m => match b with
    | none => some m
    | some x => if m.time < x.time ∨ (m.time = x.time ∧ m.chan < x.chan) then some m else b) none

/-- FRAME_ARRIVAL (R183 to R185, R189, R405, R504): a frame head at a port, at FP14, or the oldest message of the engines at FP13. -/
def execFrameArrival (point : Nat) (w : WireFrame) (complete : Bool) (s : State) : Host.Outcome State Fault Refusal :=
  if point = 34 then
    if !gatewayOn s then .next s else
    match oldestMsg s with
    | none => .next s
    | some m =>
      let s1 := perfCount (modEngine s (engineOf m.chan) fun e => { e with fifo := e.fifo.erase m }) 0x061 1
      .next (enterPipeline s1 34 none { data := carriageFrame m s.gw.cycle } true false).1
  else portArrival point w complete s

/-! ### Field maps (R463 to R465) -/

/-- A field's value (R463): zero- or sign-extended. -/
def extractField (d : List Byte) (off w fmt : Nat) : Int :=
  let v := if w = 1 then b2n (bit (u d (off / 8) 1) (off % 8)) else if bit fmt 0 then u d off (w / 8) else ub d off (w / 8)
  if bit fmt 1 then toInt w v else v

/-- A byte string with bytes replaced from an offset. -/
def spliceBytes (d : List Byte) (off : Nat) (x : List Byte) : List Byte := d.take off ++ x ++ d.drop (off + x.length)

/-- A field written into a message (R463). -/
def insertField (d : List Byte) (off w fmt : Nat) (y : Int) : List Byte :=
  let v := ofInt w y
  if w = 1 then spliceBytes d (off / 8) (le 1 (withBit (u d (off / 8) 1) (off % 8) (v == 1)))
  else spliceBytes d off (if bit fmt 0 then le (w / 8) v else be (w / 8) v)

/-- `x` / 2^`n`, ties away from zero (R463). -/
def roundShift (x : Int) (n : Nat) : Int :=
  if n = 0 then x else
  let q : Int := ((x.natAbs + 2 ^ (n - 1)) / 2 ^ n : Nat)
  if x < 0 then 0 - q else q

/-- Move `a` towards `b` by at most `k` (R463). -/
def toward (a b : Int) (k : Nat) : Int := if a < b then min b (a + k) else max b (a - k)

/-- An integer clamped to a range. -/
def clampInt (lo hi x : Int) : Int := max lo (min hi x)

/-- The range of a field's width and sign (R463). -/
def fieldRange (w fmt : Nat) : Int × Int :=
  if bit fmt 1 then (0 - (2 ^ (w - 1) : Nat), ((2 ^ (w - 1) : Nat) : Int) - 1) else (0, ((2 ^ w : Nat) : Int) - 1)

/-- The last output of a field map (R449, R463). -/
def fieldLast (s : State) (i : Nat) (f : FieldMap) : Int := tgetD s.gw.fields i f.safe

/-- What building a message has come to. -/
structure Built where
  st      : State
  buf     : List Byte
  invalid : Bool := false
  clamped : Bool := false
  policy  : Bool := false
  changed : Tab Int := []

/-- The source ID and clamp sample of a route (R481). -/
def routeSrc (s : State) (r : GwRoute) : Nat :=
  if r.space = 0 then srcId 0xA r.chan
  else if r.space = 1 then srcId 9 r.chan
  else srcId 9 (((tget s.gw.cfg.buses r.chan).map (·.domain)).getD 0)

/-- One field map `f` of index `i` (R463, R465), for route `r`. -/
def runField (r src : Nat) (d : List Byte) (stale : Bool) (i : Nat) (f : FieldMap) (b : Built) : Built :=
  match f.type with
  | 0 => { b with buf := spliceBytes b.buf f.dstOff (sub d f.srcOff f.copyLen) }
  | 2 => { b with buf := insertField b.buf f.dstOff f.dstW f.dstFmt f.mul }
  | _ =>
    let last := fieldLast b.st i f
    let put := fun (b : Built) (y : Int) => { b with
      st := b.st.modGw fun g => { g with fields := tset g.fields i y }
      buf := insertField b.buf f.dstOff f.dstW f.dstFmt y
      changed := if y = last then b.changed else tset b.changed i y }
    if !stale then
      let y0 := roundShift (extractField d f.srcOff f.srcW f.srcFmt * f.mul) f.shift + f.add
      let y1 := if f.clampEn then clampInt f.min f.max y0 else y0
      let rg := fieldRange f.dstW f.dstFmt
      let y2 := clampInt rg.1 rg.2 y1
      let n := b2n (y1 != y0) + b2n (y2 != y1)
      let y3 := if f.slew ≠ 0 then toward last y2 f.slew else y2
      let s1 := if n = 0 then b.st else
        raiseSampledKey (gwCount b.st 0 r 2 n) (2 ^ 35 + r) 0x74 1 2 src fun k =>
          le 2 r ++ le 2 i ++ le 4 (ofInt 32 (clampInt (-2147483648) 2147483647 y0)) ++ le 4 (ofInt 32 y2) ++ le 4 k
      let s2 := if y3 ≠ y2 then gwCount s1 0 r 3 1 else s1
      put { b with st := s2, clamped := b.clamped || n > 0 } y3
    else
      let c := { b with policy := true }
      match f.policy with
      | 0 => put c last
      | 1 => put c (toward last f.safe f.ramp)
      | 2 => put c f.safe
      | _ => { c with invalid := true }

/-- The state of a target. -/
def targetRun (s : State) (i : Nat) : TargetRun := tgetD s.gw.targets i {}

/-- The message of target `i` of route `r`, built from its buffer (R461, R463). -/
def buildTarget (s : State) (t : GwTables) (r src i : Nat) (x : GwTarget) (d : List Byte) (stale : Bool) : Built :=
  (targetFields x).foldl (fun b k => match tget t.fields k with
    | some f => runField r src d stale k f b
    | none => b) { st := s, buf := padTo x.len (targetRun s i).buf }

/-- An output of a route (R446, R447). -/
def outOf (r : Nat) (route : GwRoute) (i : Nat) (x : GwTarget) (time : Nat) (b : Built) (stale : Bool) : GwOut := {
  space := x.space, prio := x.prio
  tx := {
    msg := { kind := x.kind, chan := x.chan, flags := x.flags, ident := x.ident, time := time, data := b.buf }
    origin := .route r i, func := x.func, addr := x.addr }
  tflags := 256 * b2n b.invalid + 512 * b2n stale + 1024 * b2n b.clamped + 2048 * b2n b.policy + 4096 * b2n (route.kind = 7 ∧ route.space = 0) }

/-! ### Routes (R454, R459, R464 to R466) -/

/-- The cause for which a route's source is stale (R464). -/
def staleCause (c : GwSnap) (r : GwRoute) (sl : Slot) : Option Nat :=
  let st := tgetD c.status r.chan {}
  let old := r.staleMs ≠ 0 && match sl.latest with
    | none => true
    | some x => c.mark - x.time > r.staleMs * 1000000
  if old then some 0
  else if r.space ≠ 0 then none
  else if isMvb r.chan ∧ r.kind = 2 ∧ st.sinks.any (fun p => (p &&& r.mask) == r.ident) then some 1
  else if r.chan ≤ 7 ∧ st.busOff then some 2
  else if st.noLine ∨ st.broken then some 3
  else if st.engine then some 4
  else none

/-- What the execution of a cycle has come to: the state, route outputs, signal messages, changed fields. -/
structure Acc where
  st      : State
  outs    : List GwOut := []
  signals : List GwOut := []
  changed : Tab Int := []

/-- An output joins the list of its kind (R455, R475). -/
def Acc.add (a : Acc) (r : GwRoute) (o : GwOut) : Acc :=
  if r.space = 0 ∧ r.kind = 7 then { a with signals := a.signals ++ [o] } else { a with outs := a.outs ++ [o] }

/-- The state of a target changed. -/
def modTarget (s : State) (i : Nat) (f : TargetRun → TargetRun) : State := s.modGw fun g => { g with targets := tmod g.targets i {} f }

/-- A target of a route in one run (R459, R461, R465): `force` is false where `ON_CHANGE` may hold it back. -/
def writeTarget (c : GwSnap) (r : GwRoute) (ri ti : Nat) (x : GwTarget) (b : Built) (time : Nat) (stale : Bool) (a : Acc) : Acc :=
  let a := { a with st := b.st, changed := b.changed.foldl (fun t e => tset t e.1 e.2) a.changed }
  let tr := targetRun b.st ti
  let o := outOf ri r ti x time b stale
  let done := fun (s : State) => modTarget s ti fun t => { t with buf := b.buf, last := some c.cycle, pending := none }
  if b.invalid ∧ x.space ≠ 3 then a
  else if !r.event then
    let same := padTo x.len tr.buf == b.buf
    let aged := match tr.last with
      | none => true
      | some k => k + x.refresh ≤ c.cycle
    if x.onChange ∧ same ∧ !aged then a else ({ a with st := done b.st } : Acc).add r o
  else
    let soon := x.period > 1 && match tr.last with
      | none => false
      | some k => k + x.period > c.cycle
    if soon then
      let s1 := if tr.pending.isSome then gwCount b.st 0 ri 7 1 else b.st
      { a with st := modTarget s1 ti fun t => { t with buf := b.buf, pending := some o } }
    else ({ a with st := done b.st } : Acc).add r o

/-- Whether a target carries a map that split mode forbids (R466). -/
def splitBars (s : State) (t : GwTables) (x : GwTarget) : Bool :=
  inSplit s && (targetFields x).any fun k => (tget t.fields k).any safetyMap

/-- The ingress zone of a cyclic route's record, or of its source where nothing was latched (R458). -/
def recZone (s : State) (c : GwSnap) (r : GwRoute) (x : Option GwRec) : Nat :=
  match x with
  | some x => x.zone
  | none =>
    let d := if r.space = 0 then chanDomain s c.epoch r.chan else r.chan
    (pointZone (tablesOf s c.epoch).hor d (if r.space = 0 then 64 + r.chan else 34) 0).getD 0

/-- One target of a cyclic route (R458, R459). -/
def cyclicTarget (c : GwSnap) (t : GwTables) (r : GwRoute) (ri src : Nat) (latest : Option GwRec) (stale : Bool) (a : Acc) (ti : Nat) : Acc :=
  match tget t.targets ti with
  | none => a
  | some x =>
    if c.cycle % max 1 x.period ≠ 0 then a
    else if splitBars a.st t x then { a with st := gwCount a.st 0 ri 9 1 }
    else
      let k := targetCheck a.st c.epoch (recZone a.st c r latest) ti
      if k.1 then
        let b := buildTarget k.2 t ri src ti x (padTo r.slotLen ((latest.map (·.data)).getD [])) stale
        writeTarget c r ri ti x b ((latest.map (·.time)).getD 0) stale a
      else { a with st := gwCount k.2 0 ri 5 1 }

/-- One target of an event route for one latched input (R458, R459): `n` is its place in the list. -/
def eventTarget (c : GwSnap) (t : GwTables) (r : GwRoute) (ri src : Nat) (x : GwRec) (stale : Bool) (a : Acc) (n : Nat) : Acc :=
  let ti := r.first + n
  match tget t.targets ti with
  | none => a
  | some g =>
    if n ≥ x.listed ∨ splitBars a.st t g then { a with st := gwCount a.st 0 ri 9 1 }
    else if !bit x.permit n then a
    else writeTarget c r ri ti g (buildTarget a.st t ri src ti g (padTo r.slotLen x.data) stale) x.time stale a

/-- The pending outputs of an event route whose spacing has passed (R459). -/
def duePending (c : GwSnap) (t : GwTables) (r : GwRoute) (a : Acc) (ti : Nat) : Acc :=
  match (targetRun a.st ti).pending, tget t.targets ti with
  | some o, some x =>
    let due : Bool := match (targetRun a.st ti).last with
      | none => true
      | some k => k + x.period ≤ c.cycle
    if due then ({ a with st := modTarget a.st ti fun q => { q with last := some c.cycle, pending := none } } : Acc).add r o else a
  | _, _ => a

/-- The `POLICY` of a route's first VALUE map (R481). -/
def firstPolicy (t : GwTables) (r : GwRoute) : Nat :=
  ((((routeTargets r).flatMap fun i => ((tget t.targets i).map targetFields).getD []).filterMap fun k => tget t.fields k).find?
    fun f => f.type == 1).elim 0 (·.policy)

/-- Staleness of a route is entered or left (R465): SETPOINT_STALE and `STALE_CYCLES`. -/
def markStale (s : State) (c : GwSnap) (t : GwTables) (i : Nat) (r : GwRoute) (sl : Slot) (cause : Option Nat) : State :=
  let was := (slotOf s i).stale
  let ev := fun (s : State) (kind sev cs age : Nat) => raise s 0x73 sev 2 (routeSrc s r)
    (le 2 i ++ le 1 kind ++ le 1 (firstPolicy t r) ++ le 1 cs ++ zeros 3 ++ le 4 (min age (2 ^ 32 - 1)) ++ le 4 c.cycle)
  let set := fun (s : State) (b : Bool) => s.modGw fun g => { g with
    slots := tmod g.slots i {} fun x => { x with stale := b, staleAt := if b then c.mark else x.staleAt } }
  match cause with
  | some k =>
    let s1 := gwCount s 0 i 4 1
    if was then s1 else ev (set s1 true) 0 3 k (match sl.latest with
      | none => 2 ^ 32 - 1
      | some x => (c.mark - x.time) / 1000000)
  | none => if was then ev (set s false) 1 1 0 ((c.mark - (slotOf s i).staleAt) / 1000000) else s

/-- A route runs (R454, R459). -/
def runRoute (c : GwSnap) (t : GwTables) (a : Acc) (e : Nat × GwRoute) : Acc :=
  let r := e.2
  let sl := tgetD c.slots e.1 {}
  let cause := staleCause c r sl
  let s1 := markStale a.st c t e.1 r sl cause
  let a1 := { a with st := s1 }
  let src := routeSrc s1 r
  if !r.event then (routeTargets r).foldl (cyclicTarget c t r e.1 src sl.latest cause.isSome) a1
  else
    let a2 := (routeTargets r).foldl (duePending c t r) a1
    (if sl.fresh = 0 then [] else sl.closed).foldl
      (fun a x => (List.range r.count).foldl (eventTarget c t r e.1 src x cause.isSome) a) a2

/-! ### The cycle (R452 to R456) -/

/-- Direct writes that one cycle takes (R455): at most 256 and 65,536 bytes; the rest is carried. -/
def takeDirect : List GwDirect → Nat → Nat → List GwDirect × List GwDirect
  | [], _, _ => ([], [])
  | d :: ds, n, bytes =>
    if n ≥ 256 ∨ bytes + d.tx.msg.data.length > 65536 then ([], d :: ds)
    else
      let r := takeDirect ds (n + 1) (bytes + d.tx.msg.data.length)
      (d :: r.1, r.2)

/-- A cycle begins: its routes run and its ordered output list stands (R454, R455). In a unit that is not a sound Primary the outputs
are kept and not issued (R675). -/
def beginCycle (s : State) (c : GwSnap) : State × GwSnap :=
  let t := (tablesOf s c.epoch).gw
  let gone := ((c.slots.filter fun e => !thas t.routes e.1).map fun e => e.2.fresh).sum
  let s0 := if gone = 0 then s else gwCount s 2 0 13 gone
  let a := t.routes.foldl (runRoute c t) { st := s0 }
  let d := takeDirect (a.st.gw.carried ++ c.direct) 0 0
  let dir := d.1.map fun x => ({ space := 0, tx := x.tx } : GwOut)
  let all := a.outs ++ dir ++ a.signals
  let s1 := a.st.modGw fun g => { g with carried := d.2 }
  let quiet := muted s1
  (if quiet then pairCount s1 0 3 all.length else s1,
   { c with
     begun := true, listed := all, outs := if quiet then [] else all, changed := a.changed, issued := d.1
     digest := if s1.pairCfg.enable then digestOf t s1.gw.grid.1 s1.gw.grid.2 else [] })

/-- GW_CYCLE_OVERRUN (R456, R481): `kind` 0 late start, 1 skipped, 2 cut. -/
def cycleOverrun (s : State) (cycle runUs kind : Nat) : State :=
  let s1 := gwCount s 2 0 7 1
  raise s1 0x70 3 noLevel (srcId 0 0)
    (le 4 cycle ++ le 4 (min runUs (2 ^ 32 - 1)) ++ le 1 kind ++ zeros 3 ++ le 4 (at' (gwCtr s1 2 0) 7 0))

/-- Records in order of `BUS_TIME` (R454). -/
def sortRecs : List GwRec → List GwRec
  | [] => []
  | x :: xs => ins x (sortRecs xs)
where
  /-- Insert a record before the first later one. -/
  ins (x : GwRec) : List GwRec → List GwRec
    | [] => [x]
    | y :: ys => if x.time ≤ y.time then x :: y :: ys else y :: ins x ys

/-- A slot's banks swap (R453). -/
def swapSlot (x : Slot) : Slot :=
  let o := sortRecs x.opn
  { x with
    opn := [], fresh := o.length
    closed := if o.isEmpty then (match x.closed.getLast? with
      | some r => [r]
      | none => []) else o
    latest := o.getLast?.or x.latest }

/-- The next cycle mark (R390, R452): a pending grid's first mark; else the first mark of the grid at least half a period of raw time
after the last one. The Companion's marks stand at the Primary's, translated (R692). -/
def nextMark (s : State) : Nat :=
  match s.gw.nextGrid with
  | some (_, _, m) => max m s.now
  | none =>
    let per := max 1 s.gw.grid.1 * 1000
    let half := s.gw.grid.1 * 625 / 2
    let wait := match s.gw.markRaw with
      | none => 0
      | some r => half - (s.time.raw + 2 ^ 64 - r) % 2 ^ 64
    let t0 := (fineAfter s.time (sinceAnchor s.time + wait)).toNat / 281474976710656
    let shift := if s.pairCfg.enable ∧ s.pair.role = 2 then s.pair.diffNs else 0
    let ph := ((s.gw.grid.2 : Int) + shift) % per
    let k := ((t0 : Int) - ph + (per - 1)) / per
    (ph + k * per).toNat

/-- GW_CYCLE_MARK (R452, R453, R456): the banks and journal halves swap into snapshot k, unless the snapshot before still waits. -/
def execGwCycleMark (s : State) : Host.Outcome State Fault Refusal :=
  if !gatewayOn s then .next s else
  let m := nextMark s
  let s0 := s.until m
  let s1 := s0.modGw fun g => { g with
    cycle := wrapAdd 32 g.cycle 1, lastMark := m, markRaw := some s0.time.raw
    grid := match g.nextGrid with
      | some (p, h, _) => (p, h)
      | none => g.grid
    nextGrid := none }
  let s2 := pairAtMark s1
  match s2.gw.run.getLast? with
  | some c =>
    if !c.begun then .next (cycleOverrun (gwCount s2 2 0 5 1) s2.gw.cycle ((s2.now - c.mark) / 1000) 1)
    else .next (swap s2 m)
  | none => .next (swap s2 m)
where
  /-- Snapshot k (R453). -/
  swap (s : State) (m : Nat) : State :=
    let slots := s.gw.slots.map fun e => (e.1, swapSlot e.2)
    let c : GwSnap := { cycle := s.gw.cycle, mark := m, epoch := s.ep.epoch, slots := slots, fields := s.gw.fields, status := s.gw.status,
                        direct := s.gw.journal }
    gwCount (countIn (s.modGw fun g => { g with slots := slots, journal := [], run := g.run ++ [c] }) s.ep.epoch) 2 0 0 1

/-- IMAGE_ECC (R481): a double-bit error in region 0 (field state), 1 (journal) or 2 (slot). -/
def imageEcc (s : State) (c : GwSnap) (region idx off corrected : Nat) : State × GwSnap :=
  let ev := fun (s : State) (route : Nat) => raise s 0x77 4 noLevel (srcId 0 0)
    (le 1 region ++ le 1 region ++ le 2 route ++ le 4 off ++ le 4 corrected)
  match region with
  | 0 => match tget s.ep.cur.gw.fields idx with
    | some f => (ev (s.modGw fun g => { g with fields := tset g.fields idx f.safe }) 0xFFFF, c)
    | none => (s, c)
  | 1 => match c.direct[idx]? with
    | some d => (ev (postedFail s d.tx 0) 0xFFFF, { c with direct := c.direct.eraseIdx idx })
    | none => (s, c)
  | 2 =>
    (ev (s.modGw fun g => { g with slots := tmod g.slots idx {} fun x => { x with closed := [], latest := none, fresh := 0 } }) idx,
     { c with slots := tmod c.slots idx {} fun x => { x with closed := [], latest := none, fresh := 0 } })
  | _ => (s, c)

/-- A cycle ends (R456, R480, R681): its run time, its epoch, its copy, its snapshot kept. -/
def endCycle (s : State) (c : GwSnap) (runUs : Nat) : State :=
  let s0 := s.until (c.mark + runUs * 1000)
  let us := (s0.now - c.mark) / 1000
  let s1 := s0.modGw fun g => { g with
    run := g.run.drop 1, runUs := min us (2 ^ 32 - 1), peakUs := max g.peakUs (min us (2 ^ 32 - 1)), history := (c :: g.history).take 2 }
  perfCount (sendCopy (countOut s1 c.epoch) c) 0x060 1

/-- GW_CYCLE_EXECUTE (R453 to R457): the oldest cycle whose snapshot stands runs, and its next `issue` outputs go out; when none is left it
has ended, `runUs` after its mark. `ecc` is a double-bit error met in the image: region, index, offset, corrections before it. -/
def execGwCycleExecute (issue runUs : Nat) (ecc : Option (Nat × Nat × Nat × Nat)) (s : State) : Host.Outcome State Fault Refusal :=
  match s.gw.run with
  | [] => .next s
  | c :: rest =>
    if !gatewayOn s then .next s else
    let x : State × GwSnap :=
      if c.begun then (s, c) else
      let late := s.now > c.mark + 10000
      let s0 := s.until (c.mark + 10000)
      let s1 := if late then cycleOverrun s0 c.cycle ((s0.now - c.mark) / 1000) 0 else s0
      let y := match ecc with
        | some (r, i, o, n) => imageEcc s1 c r i o n
        | none => (s1, c)
      beginCycle y.1 y.2
    let s2 := stampChans s ((x.2.outs.take issue).foldl (fun s o => issueOut s o c.cycle) x.1)
    let c2 := { x.2 with outs := x.2.outs.drop issue }
    if c2.outs.isEmpty then .next (endCycle s2 c2 runUs)
    else .next (s2.modGw fun g => { g with run := c2 :: rest })

/-- GW_CYCLE_CUT (R456): a cycle still executing 40 ms after its mark is cut off and its outputs not yet issued are dropped. -/
def execGwCycleCut (s : State) : Host.Outcome State Fault Refusal :=
  match s.gw.run with
  | [] => .next s
  | c :: _ =>
    if !gatewayOn s then .next s else
    let s0 := s.until (c.mark + 40000000)
    let s1 := gwCount s0 2 0 6 1
    let s2 := cycleOverrun s1 c.cycle ((s1.now - c.mark) / 1000) 2
    .next (countOut (s2.modGw fun g => { g with run := g.run.drop 1, history := (c :: g.history).take 2 }) c.epoch)

/-! ### Locks and fetches (R471, R474) -/

/-- LOCK_LEASE_EXPIRY (R474): the lease ends and the lock is broken with cause 0. -/
def execLockLeaseExpiry (c : Nat) (s : State) : Host.Outcome State Fault Refusal :=
  match tget s.gw.locks c with
  | none => .next s
  | some l => legRow s fun s => breakLock (s.until l.expires) c 0

/-- GW_FETCH_COMPLETE (R471): the message or value a fetch waited for has come. -/
def execGwFetchComplete (token : Nat) (data : List Byte) (s : State) : Host.Outcome State Fault Refusal :=
  match s.gw.fetches.find? fun f => f.token == token && f.how != 4 with
  | none => .next s
  | some f =>
    if !engineRuns s f.chan then .next (fetchFail s token stConflict 2)
    else .next (fetchDone (cachePut s { chan := f.chan, func := f.func, ident := f.ident, addr := if f.how = 3 then f.addr else 0, time := s.now,
                                        data := data }) token data)

/-- GW_FETCH_TIMEOUT (R471): a fetch has had no answer within `FETCH_TIMEOUT_MS`. -/
def execGwFetchTimeout (token : Nat) (s : State) : Host.Outcome State Fault Refusal :=
  match s.gw.fetches.find? fun f => f.token == token && f.how != 4 with
  | none => .next s
  | some f =>
    let s1 := s.until (f.since + f.timeoutMs * 1000000)
    .next (fetchFail (modChan s1 f.chan fun x => { x with txq := x.txq.filter fun t => t.origin != .fetch token }) token stTimeout 0)

end Sys2Proof.Machine
end

