-- ==== Sys2Proof/Machine/GatewayCmds.lean ====
section
/-! DEFINITION. Commands of group 0x09 (R482 to R492) and gateway access over TRDP message data (R476, R477). -/

namespace Sys2Proof.Machine

/-! ### Settings and tables (R482 to R485) -/

/-- First mark of a new grid (R452): at least half the new period after the last mark of the old one, and not before now. -/
def firstMark (s : State) (periodUs phaseNs : Nat) : Nat :=
  let per := periodUs * 1000
  let t0 := max s.now (s.gw.lastMark + per / 2)
  phaseNs + (t0 - phaseNs + per - 1) / per * per

/-- GW_CYCLE_SET (R452, R453, R482, R682). -/
def specGwCycleSet : CmdSpec := {
  opcode := 0x0900, badLen := lenIs 8,
  body := fun s _ p =>
    let per := clampLower 0 250 100000 250 (u p 0 4)
    let ph := clampField 4 0 (per.val * 1000 - 1) (u p 4 4)
    let t := s.ep.cur.gw
    checked [chkPol (wcetOver t per.val) 0, chkPol (copyOver s t) 0] fun _ =>
      let m := firstMark s per.val ph.val
      .done {
        clamps := per.off ++ ph.off
        st := s.modGw fun g => { g with cfg := { g.cfg with periodUs := per.val, phaseNs := ph.val }, nextGrid := some (per.val, ph.val, m) }
        payload := le 4 per.val ++ le 4 ph.val ++ le 8 m ++ le 4 (wrapAdd 32 s.gw.cycle 1) } }

/-- The state with its current gateway tables changed. -/
def modGwt (s : State) (f : GwTables → GwTables) : State :=
  { s with ep := { s.ep with cur := { s.ep.cur with gw := f s.ep.cur.gw } } }

/-- A route entry (R460). -/
def entryRoute (off i : Nat) (del : Bool) (e : List Byte) (s : State) : EntryRes :=
  let t := s.ep.cur.gw
  let sp := u e 4 1
  let md := u e 7 1
  let sl := clampField (off + 16) 0 2048 (u e 16 2)
  let em := clampField (off + 18) 1 (if md = 0 then 1 else 16) (u e 18 1)
  let k := 0 * 65536 + i
  entryOk [chkSup (i > 16383) (off + 2), chkConf (del && !thas t.routes i) (off + 2),
      chkSup (!del && sp > 2) (off + 4), chkSup (!del && (if sp = 0 then u e 5 1 > 7 else u e 5 1 != 0)) (off + 5),
      chkSup (!del && (if sp = 0 then !chanOk (u e 6 1) else if sp = 1 then u e 6 1 > 7 else u e 6 1 > 31)) (off + 6),
      chkSup (!del && md > 1) (off + 7), chkSup (!del && u e 22 2 > 16383) (off + 22),
      chkSup (!del && (u e 24 1 < 1 || u e 24 1 > 16)) (off + 24)] fun _ =>
    if del then
      .ok ((modGwt s fun t => { t with routes := tdel t.routes i }).modGw fun g => { g with
        deleted := if g.deleted.contains k then g.deleted else k :: g.deleted }, [])
    else
      let r : GwRoute := {
        space := sp, kind := u e 5 1, chan := u e 6 1, event := md == 1, ident := u e 8 4, mask := u e 12 4, slotLen := sl.val,
        eventMax := em.val, coalesce := bit (u e 19 1) 0, staleMs := u e 20 2, first := u e 22 2, count := u e 24 1 }
      let s1 := modGwt s fun t => { t with routes := tset t.routes i r }
      .ok (if thas t.routes i then s1 else s1.modGw fun g => { g with
        slots := tdel g.slots i, deleted := g.deleted.erase k, counters := if g.deleted.contains k then tdel g.counters k else g.counters },
        sl.off ++ em.off)

/-- A target entry (R461). -/
def entryTarget (off i : Nat) (del : Bool) (e : List Byte) (s : State) : EntryRes :=
  let t := s.ep.cur.gw
  let sp := u e 4 1
  let c := u e 6 1
  let pr := clampField (off + 15) 0 7 (u e 15 1)
  let pc := clampField (off + 22) 1 65535 (u e 22 2)
  let rc := clampField (off + 24) 1 65535 (u e 24 2)
  let x : GwTarget := {
    space := sp, kind := if sp = 0 ∨ sp = 3 then u e 5 1 else 0, chan := c, flags := u e 7 1 % 8, ident := u e 8 4, len := u e 12 2,
    func := u e 14 1, prio := if sp = 0 then 0 else pr.val, addr := u e 16 2, firstField := u e 18 2, fieldCount := u e 20 1,
    onChange := bit (u e 21 1) 0, period := pc.val, refresh := rc.val }
  let modbus := modbusTarget s x
  entryOk [chkSup (i > 16383) (off + 2), chkConf (del && !thas t.targets i) (off + 2),
      chkSup (!del && sp > 3) (off + 4), chkSup (!del && (sp = 0 || sp = 3) && u e 5 1 > 7) (off + 5),
      chkSup (!del && (if sp = 0 then !chanOk c || isGpi c else if sp = 1 then c > 7 else if sp = 2 then c > 31 else !chanOk c)) (off + 6),
      { bad := !del && x.len > 2048, status := stBadLength, off := off + 12 },
      chkSup (!del && modbus && !([5, 6, 15, 16].contains x.func)) (off + 14),
      chkSup (!del && x.firstField > 32767) (off + 18), chkSup (!del && x.fieldCount > 32) (off + 20)] fun _ =>
    if del then .ok ((modGwt s fun t => { t with targets := tdel t.targets i }).modGw fun g => { g with targets := tdel g.targets i }, [])
    else
      let s1 := modGwt s fun t => { t with targets := tset t.targets i x }
      .ok (s1.modGw fun g => { g with targets := tmod g.targets i {} fun r => { r with buf := padTo x.len r.buf } },
        (if sp = 0 then [] else pr.off) ++ pc.off ++ rc.off)

/-- Whether a field's width is one of R462. -/
def widthOk (w : Nat) : Bool := w == 1 || w == 8 || w == 16 || w == 32

/-- A field map entry (R462, R466). -/
def entryField (off i : Nat) (del : Bool) (e : List Byte) (s : State) : EntryRes :=
  let t := s.ep.cur.gw
  let sh := clampField (off + 20) 0 31 (u e 20 1)
  let mn := toInt 32 (u e 28 4)
  let mx := max mn (toInt 32 (u e 32 4))
  let rp := clampField (off + 40) 1 (2 ^ 31 - 1) (u e 40 4)
  let sw := clampField (off + 44) 0 (2 ^ 31 - 1) (u e 44 4)
  let ty := u e 4 1
  let f : FieldMap := {
    type := ty, srcFmt := u e 5 1 % 4, dstFmt := u e 6 1 % 4, policy := u e 7 1, srcOff := u e 8 2, dstOff := u e 10 2, srcW := u e 12 1,
    dstW := u e 13 1, copyLen := u e 14 2, mul := toInt 32 (u e 16 4), shift := sh.val, clampEn := bit (u e 21 1) 0,
    add := toInt 32 (u e 24 4), min := mn, max := mx, safe := toInt 32 (u e 36 4), ramp := rp.val, slew := sw.val }
  entryOk [chkSup (i > 32767) (off + 2), chkConf (del && !thas t.fields i) (off + 2),
      chkSup (!del && ty > 2) (off + 4), chkSup (!del && f.policy > 3) (off + 7),
      { bad := !del && inSplit s && safetyMap f, status := stNotPermitted, off := off },
      { bad := !del && ty = 1 && !widthOk f.srcW, status := stBadLength, off := off + 12 },
      { bad := !del && ty != 0 && !widthOk f.dstW, status := stBadLength, off := off + 13 },
      { bad := !del && ty = 0 && (f.copyLen < 1 || f.copyLen > 2048), status := stBadLength, off := off + 14 }] fun _ =>
    if del then .ok ((modGwt s fun t => { t with fields := tdel t.fields i }).modGw fun g => { g with fields := tdel g.fields i }, [])
    else
      let s1 := modGwt s fun t => { t with fields := tset t.fields i f }
      .ok (if thas t.fields i then s1 else s1.modGw fun g => { g with fields := tset g.fields i f.safe },
        sh.off ++ (if mx = toInt 32 (u e 32 4) then [] else [off + 32]) ++ rp.off ++ sw.off)

/-- Apply a ROUTE_TABLE_SET entry (R460 to R462, R483). -/
def entryGateway (off : Nat) (e : List Byte) (s : State) : EntryRes :=
  let op := u e 1 1
  if op > 1 then .error (stNotSupported, off + 1)
  else match u e 0 1 with
    | 0 => entryRoute off (u e 2 2) (op == 1) e s
    | 1 => entryTarget off (u e 2 2) (op == 1) e s
    | 2 => entryField off (u e 2 2) (op == 1) e s
    | _ => .error (stNotSupported, off)

/-- The checks of a target on the resulting shadow (R461, R462). -/
def targetChecks (s : State) (off i : Nat) : List Check :=
  let t := s.ep.cur.gw
  match tget t.targets i with
  | none => [chkConf (t.routes.any fun e => (routeTargets e.2).contains i) (off + 2)]
  | some x =>
    [{ bad := x.space = 0 && lengthBad s x.kind x.chan x.ident x.len, status := stBadLength, off := off + 12 },
     chkConf (targetConflict s x) (off + 8), chkConf ((targetFields x).any fun k => !thas t.fields k) (off + 18),
     { bad := !fieldsFit t i x, status := stBadLength, off := off }]

/-- The checks of an entry on the resulting shadow (R450, R453, R461, R462, R483, R682). -/
def gatewayShadow (off : Nat) (e : List Byte) (s : State) : List Check :=
  let t := s.ep.cur.gw
  let i := u e 2 2
  let own := match u e 0 1 with
    | 0 => match tget t.routes i with
      | none => []
      | some r => chkConf ((routeTargets r).any fun k => !thas t.targets k) (off + 22) ::
          [{ bad := (routeTargets r).any fun k => (tget t.targets k).any fun x => !fieldsFit t k x, status := stBadLength, off := off + 16 }]
    | 1 => targetChecks s off i
    | _ => match tget t.fields i with
      | none => [chkConf (t.targets.any fun x => (targetFields x.2).contains i) (off + 2)]
      | some _ => [{ bad := t.targets.any fun x => (targetFields x.2).contains i && !fieldsFit t x.1 x.2, status := stBadLength, off := off + 8 }]
  own ++ [{ bad := slotUnits t > 26624, status := stNoResource, off := off }, chkPol (wcetOver t s.gw.cfg.periodUs) off, chkPol (copyOver s t) off]

/-- ROUTE_TABLE_SET (R483). -/
def specRouteTableSet : CmdSpec := {
  opcode := 0x0901, level := 2, bulkIn := true, badLen := lenList 48, body := listBody 48 entryGateway gatewayShadow 0x40 true }

/-- TRDP_SESSION (R477, R481). -/
def raiseTrdp (s : State) (i : Nat) (x : TrdpSession) (lost : Bool) (cause broken : Nat) : State :=
  raise s 0x75 (if lost then 3 else 1) noLevel (srcId 9 x.domain)
    (le 1 i ++ le 1 (b2n lost) ++ le 1 (b2n x.tcp) ++ le 1 cause ++ be 4 x.ip ++ le 2 x.port ++ le 2 broken)

/-- A TRDP session is lost (R474, R477): its locks are broken with cause 4. -/
def loseSession (s : State) (i cause : Nat) : State :=
  match tget s.gw.sessions i with
  | none => s
  | some x =>
    let n := (s.gw.locks.filter fun l => l.2.kind == 2 && l.2.who == i).length
    let s1 := breakLocks s (fun l => l.kind == 2 && l.who == i) 4
    raiseTrdp (s1.modGw fun g => { g with sessions := tdel g.sessions i }) i x true cause n

/-- Every TRDP session that `which` selects is lost. -/
def loseSessions (s : State) (which : TrdpSession → Bool) (cause : Nat) : State :=
  (s.gw.sessions.filter fun e => which e.2).foldl (fun s e => loseSession s e.1 cause) s

/-- ENDPOINT_SET (R484). -/
def specEndpointSet : CmdSpec := {
  opcode := 0x0902, level := 4, badLen := lenIs 32,
  body := fun s _ p =>
    let d := u p 0 1
    let px := clampField 12 8 30 (u p 12 1)
    let id := clampField 20 1 3600 (u p 20 2)
    let e : Endpoint := {
      flags := u p 1 1 % 4, mac := sub p 2 6, ipv4 := ub p 8 4, pfx := px.val, vid := u p 14 2, md := u p 16 4, idleS := id.val }
    checked [chkSup (d > 7) 0, chkSup (e.vid < 1 || e.vid > 4094) 14] fun _ =>
      let s1 := s.modGw fun g => { g with cfg := { g.cfg with ends := tset g.cfg.ends d e } }
      .done {
        clamps := px.off ++ id.off
        st := if bit e.flags 0 then s1 else loseSessions s1 (fun x => x.domain == d) 0
        payload := endpointBytes d e } }

/-- Apply an ACF_BUS_SET entry (R485). -/
def entryAcf (off : Nat) (e : List Byte) (s : State) : EntryRes :=
  let i := u e 0 1
  let op := u e 1 1
  let pr := clampField (off + 3) 0 7 (u e 3 1)
  let b : AcfBus := { domain := u e 2 1, prio := pr.val, vid := u e 4 2, da := sub e 6 6, stream := sub e 12 8 }
  entryOk [chkSup (i > 31) off, chkSup (op > 1) (off + 1), chkConf (op = 1 && !thas s.gw.cfg.buses i) off,
      chkSup (op = 0 && b.domain > 7) (off + 2), chkSup (op = 0 && b.vid > 4094) (off + 4)] fun _ =>
    if op = 1 then .ok (s.modGw fun g => { g with cfg := { g.cfg with buses := tdel g.cfg.buses i } }, [])
    else .ok (s.modGw fun g => { g with cfg := { g.cfg with buses := tset g.cfg.buses i b } }, pr.off)

/-- ACF_BUS_SET (R485): a stream ID serves one bus. -/
def specAcfBusSet : CmdSpec := {
  opcode := 0x0903, level := 4, bulkIn := true, badLen := lenList 24,
  body := listBody 24 entryAcf (fun off e s =>
    [chkConf (u e 1 1 = 0 && s.gw.cfg.buses.any fun b => b.1 != u e 0 1 && b.2.stream == sub e 12 8) (off + 12)]) 0 false }

/-! ### Access to the channels (R467, R471 to R473, R486 to R489) -/

/-- Who asks for gateway access: a command source (kind 0) or a TRDP session (kind 2), its number, its tag, its code for retry tokens, and the
ingress zone and domain of an Mr frame. -/
structure Actor where
  kind : Nat
  who  : Nat
  tag  : Nat
  src  : Nat
  zone : Option (Nat × Nat) := none

/-- The actor of a command (R95, R106). -/
def actorOf (r : Req) : Actor := { kind := 0, who := r.src, tag := r.tag, src := r.src }

/-- Whether an actor owns a lock (R473). -/
def owns (a : Actor) (l : GwLock) : Bool := l.kind == a.kind && l.who == a.who

/-- Remaining lease in ms, rounded up, at least 1 (R473). -/
def leaseLeft (s : State) (l : GwLock) : Nat := max 1 ((l.expires - s.now + 999999) / 1000000)

/-- A RETRY without a fetch of its own (R34, R89, R473): a request that carries a valid token keeps it. -/
def retryLater (s : State) (a : Actor) (op tok : Nat) (p : List Byte) (hint c : Nat) : Result :=
  let s1 := gwCount s 1 c 6 1
  if (findToken s tok a.src op p).isSome then .retry tok hint (renewToken s1 tok hint)
  else
    let t := issueToken s1 a.src op p hint (.failed stRetry) c
    .retry t.1 hint t.2

/-- The state with the token of a request consumed, where it is valid (R89). -/
def spendToken (s : State) (a : Actor) (op tok : Nat) (p : List Byte) : State :=
  if (findToken s tok a.src op p).isSome then dropToken s tok else s

/-- Kind of the messages a channel carries (R189). -/
def kindOf (c : Nat) : Nat := if c ≤ 7 then 0 else if isMvb c then 2 else if isSerial c then 4 else if isLin c then 5 else 6

/-- Whether a channel is a Modbus client port. -/
def isModbus (s : State) (c : Nat) : Bool := isSerial c && (serCfg s c).mode == 3

/-- The length rule of GW_WRITE (R486). -/
def lenGwWrite (p : List Byte) (total : Nat) : Option Nat :=
  if p.length < 24 then (if total < 24 then some 24 else none)
  else
    let want := if u p 1 1 = 0 then 24 + u p 12 2 else 24
    if total = want then none else some want

/-- GW_WRITE (R467, R468, R472, R486), for any actor. -/
def gwWrite (s : State) (a : Actor) (p : List Byte) : Result :=
  let c := u p 0 1
  let form := u p 1 1
  let fn := u p 3 1
  let w := u p 8 1
  let addr := u p 10 2
  let len := u p 12 2
  let mb := isModbus s c
  let val := if bit (u p 9 1) 0 then le (w / 8) (u p 16 4) else be (w / 8) (u p 16 4)
  let badW := form = 1 && (!(w == 8 || w == 16 || w == 32) || (mb && (if fn = 6 then w != 16 else if fn = 16 then w == 8 else false)))
  let data := if form = 0 then sub p 24 len else if mb then val else zeros addr ++ val ++ zeros (len - addr - w / 8)
  let tx : TxMsg := {
    msg := { kind := kindOf c, chan := c, flags := u p 2 1 % 8, ident := u p 4 4, data := data }
    origin := .direct (a.kind + 1) a.who a.tag, func := if mb then fn else 0, addr := if mb then addr else 0 }
  checked [chkSup (!chanOk c || isGpi c) 0, chkSup (form > 1) 1, { bad := muted s, status := stNotPermitted },
      chkSup (mb && !([5, 6, 15, 16].contains fn)) 3, { bad := len > 2048, status := stBadLength, off := 12 },
      { bad := badW, status := stBadLength, off := 8 },
      { bad := form = 1 && !mb && addr + w / 8 > len, status := stBadLength, off := 10 },
      { bad := !mb && lengthBad s (kindOf c) c (u p 4 4) data.length, status := stBadLength, off := 12 },
      { bad := journalFull s data.length, status := stNoResource }] fun _ =>
    let k := match a.zone with
      | some (z, d) => gatewayCheck s s.ep.epoch z (kindOf c) c (u p 4 4) (max 64 (38 + data.length)) d
      | none => (true, s)
    if !k.1 then .failWith stNotPermitted noDetail [] k.2
    else .done { st := journalPut k.2 tx, payload := le 4 (wrapAdd 32 s.gw.cycle 1) }

/-- The value of a message at a byte offset (R471, R472). -/
def valueAt (d : List Byte) (off w : Nat) (little : Bool) : Option Nat :=
  if off + w / 8 > d.length then none else some (if little then u d off (w / 8) else ub d off (w / 8))

/-- The answer of GW_READ (R487). -/
def readDone (s : State) (v time : Nat) (flags exc : Nat) (cs : List Nat) (used : Bool) : Result :=
  .done { st := s, tokenUsed := used, clamps := cs,
          payload := le 4 v ++ le 8 time ++ le 4 (min ((s.now - time) / 1000) (2 ^ 32 - 1)) ++ le 1 flags ++ le 1 exc ++ zeros 2 }

/-- The answer of GW_READ from a message, or BAD_LENGTH where the value does not lie within it (R472). -/
def readFrom (s : State) (d : List Byte) (off w : Nat) (little : Bool) (time flags : Nat) (cs : List Nat) (used : Bool) : Result :=
  match valueAt d off w little with
  | some v => readDone s v time flags 0 cs used
  | none => .failWith stBadLength 8 [] s

/-- The latest record that a route holds (R471): of its open bank, else of its closed one. -/
def heldRec (s : State) (i : Nat) : Option GwRec := (slotOf s i).opn.getLast?.or (slotOf s i).latest

/-- The first route whose source matches a read (R458, R471). -/
def readRoute (s : State) (c ident : Nat) : Option (Nat × GwRoute) :=
  s.ep.cur.gw.routes.find? fun e => e.2.space == 0 && e.2.kind == kindOf c && e.2.chan == c && (ident &&& e.2.mask) == e.2.ident

/-- What staleness is judged by now (R464, R471). -/
def nowSnap (s : State) : GwSnap := { mark := s.now, status := s.gw.status }

/-- Whether the source of the route that a read matches is stale now (R471, R487). -/
def sourceStale (s : State) (c ident : Nat) : Bool :=
  (readRoute s c ident).any fun e => (staleCause (nowSnap s) e.2 { slotOf s e.1 with latest := heldRec s e.1 }).isSome

/-- Stored data for a read, if fresh enough (R471): the message, its offset base and its time. -/
def storedFor (s : State) (c func ident addr maxMs : Nat) : Option (List Byte × Nat) :=
  let fresh := fun (t : Nat) => maxMs ≠ 0 && s.now - t ≤ maxMs * 1000000
  let cached := fun (_ : Unit) => match s.gw.cache.find? fun x =>
      x.chan == c && x.ident == ident && (!isModbus s c || (x.func == func && x.addr == addr)) && x.exc.isNone with
    | some x => if fresh x.time then some (x.data, x.time) else none
    | none => none
  if isModbus s c then cached () else
  match readRoute s c ident with
  | none => cached ()
  | some (i, r) =>
    match heldRec s i with
    | none => none
    | some x =>
      if fresh x.time ∧ (staleCause (nowSnap s) r { slotOf s i with latest := some x }).isNone then some (x.data.take x.len, x.time) else none

/-- Whether a channel can neither send nor receive (R471). -/
def cannotFetch (s : State) (c : Nat) : Bool :=
  !engineRuns s c || (c ≤ 7 && !canOn s c) || (isMvb c && (chanState s c == 0 || chanState s c == 4)) ||
  (isSerial c && (serCfg s c).mode == 0) || (isLin c && (linRun s c).state == 0)

/-- How a channel fetches (R471): the code of FETCH_FAILED. -/
def fetchHow (s : State) (c flags : Nat) : Nat :=
  if c ≤ 7 ∧ (canCfg s c).proto = 0 ∧ bit flags 0 then 0
  else if isMvb c ∧ (mvbRun s c).master then 2 else if isModbus s c then 3 else 1

/-- Bits of a character of a serial port (R421). -/
def charBits (k : SerialCfg) : Nat := 1 + (if bit k.format 0 then 7 else 8) + (if k.format / 2 % 4 = 0 then 0 else 1) + (if bit k.format 3 then 2 else 1)

/-- Request and response time at a port's rate in ms, with the exchanges ahead of it (R471). -/
def exchangeMs (s : State) (c chars : Nat) : Nat :=
  let k := serCfg s c
  let ahead := (chanOf s c).txq.length + b2n (serRun s c).cur.isSome
  (chars * charBits k * 1000 * (1 + ahead) + k.baud - 1) / k.baud

/-- Nanoseconds rounded up to ms, at least 1. -/
def upMs (ns : Nat) : Nat := max 1 ((ns + 999999) / 1000000)

/-- Time until the next slot of a LIN frame, in ns (R471). -/
def linWait (s : State) (c ident : Nat) : Nat :=
  let r := linRun s c
  let n := r.list.length
  let order := (List.range n).map fun i => at' r.list ((r.index + i) % max 1 n) { id := 0, type := 0, len := 1, flags := 0, slot := 1, coll := 0 }
  let before := order.takeWhile fun e => e.id != ident
  (r.slotAt - s.now) + (before.map fun e => e.slot * (linCfg s c).base * 1000000).sum

/-- The remaining lease in ms of a port that another owner has locked (R471, R473); 0 where none has. -/
def leaseWait (s : State) (a : Actor) (c : Nat) : Nat :=
  match tget s.gw.locks c with
  | some l => if owns a l then 0 else leaseLeft s l
  | none => 0

/-- The hint of a fetch in ms (R471, R473). -/
def fetchHint (s : State) (a : Actor) (c how ident w : Nat) : Nat :=
  let gap := ((tget s.gw.seen (2 ^ 32 * c + ident)).map (·.2)).getD 0
  let lease := leaseWait s a c
  match how with
  | 0 => 2
  | 2 => upMs (2 * (mvbRun s c).admin.basicUs * 1000)
  | 3 => max 1 (exchangeMs s c (13 + w / 8) + lease)
  | _ =>
    if isMvb c then upMs (mvbPortRun s c ident).gap
    else if isLin c then upMs (linWait s c ident)
    else max lease (if gap ≠ 0 then upMs gap else if c ≤ 7 then 10 else 100)

/-- GW_READ (R471 to R473, R487), for any actor. -/
def gwRead (s : State) (a : Actor) (tok : Nat) (p : List Byte) : Result :=
  let c := u p 0 1
  let fl := u p 1 1
  let w := u p 2 1
  let fn := u p 3 1
  let ident := u p 4 4
  let addr := u p 8 2
  let to_ := clampField 12 1 10000 (u p 12 2)
  let mb := isModbus s c
  let off := if mb then 0 else addr
  let big := bit fl 2
  let badW := !(w == 8 || w == 16 || w == 32) || (mb && (fn = 3 || fn = 4) && w == 8)
  checked [chkSup (!chanOk c) 0, { bad := badW, status := stBadLength, off := 2 }, chkSup (mb && (fn < 1 || fn > 4)) 3] fun _ =>
    if isGpi c then
      let v := let d := dioRun s c; if bit (dioCfg s c).flags 0 then 1 - d.level else d.level
      readDone s v s.now 0 0 to_.off false
    else if 48 ≤ c then readDone s (dioRun s c).level s.now 0 0 to_.off false
    else match findToken s tok a.src 0x0905 p with
    | some t =>
      match t.fetch with
      | .done d time =>
        let s1 := dropToken s tok
        let exc := mb && bit (u d 1 1) 7
        let st := 2 * b2n (sourceStale s c ident)
        if exc then readDone s1 0 time (5 + st) (u d 2 1) to_.off true
        else readFrom s1 (if mb then d.drop 3 else d) off w big time (1 + st) to_.off true
      | .failed st =>
        if st = stRetry then start s c fl w fn ident addr to_ a p big mb
        else .failWith st noDetail [] (dropToken s tok)
      | .running =>
        let h := fetchHint s a c (fetchHow s c fl) ident w
        .retry tok h (renewToken (gwCount s 1 c 6 1) tok h)
    | none => start s c fl w fn ident addr to_ a p big mb
where
  /-- A new request (R471): stored data, or a fetch under a token. -/
  start (s : State) (c fl w fn ident addr : Nat) (to_ : Clamped) (a : Actor) (p : List Byte) (big mb : Bool) : Result :=
    match storedFor s c fn ident addr (u p 10 2) with
    | some (d, t) => readFrom s d (if mb then 0 else addr) w big t 0 to_.off false
    | none =>
      let how := fetchHow s c fl
      let sends := how != 1
      if cannotFetch s c ∨ (sends ∧ muted s) then
        .failWith stConflict noDetail [] (raise (gwCount s 1 c 5 1) 0x76 2 noLevel (srcId 0xA c)
          (le 1 c ++ le 1 1 ++ le 1 how ++ zeros 1 ++ le 4 ident ++ le 2 addr ++ zeros 2 ++ le 4 0))
      else
        let h := fetchHint s a c how ident w
        let t := issueToken (gwCount (gwCount s 1 c 6 1) 1 c 4 1) a.src 0x0905 p h .running c
        let f : GwFetch := { token := t.1, chan := c, how := how, flags := fl, width := w, func := fn, ident := ident, addr := addr, since := s.now,
                             timeoutMs := to_.val }
        let s1 := t.2.modGw fun g => { g with fetches := g.fetches ++ [f] }
        let regs := if fn ≤ 2 then w else w / 16
        let tx : TxMsg := {
          msg := { kind := kindOf c, chan := c, flags := if how = 0 then 16 + b2n (bit fl 1) else 0, ident := ident
                   data := if how = 3 then be 2 regs else [] }
          origin := .fetch t.1, func := fn, addr := addr, reply := how = 3 }
        .retry t.1 h (if sends then toChannel s1 tx else s1)

/-- GW_LOCK (R473, R488), for any actor. -/
def gwLock (s : State) (a : Actor) (tok : Nat) (p : List Byte) : Result :=
  let c := u p 0 1
  let op := u p 1 1
  let own := u p 2 1
  let ls := clampField 4 1 5000 (u p 4 2)
  let kind := if own = 0xFF then a.kind else 1
  let who := if own = 0xFF then a.who else own
  let mine := fun (l : GwLock) => l.kind == kind && l.who == who
  let held := tget s.gw.locks c
  let used := (findToken s tok a.src 0x0906 p).isSome
  checked [chkSup (!isSerial c) 0, chkSup (op > 2) 1, chkSup (own != 0xFF && own > 31) 2, { bad := muted s, status := stNotPermitted },
      chkConf (own != 0xFF && !(s.ring own).en) 2, chkConf ((serCfg s c).mode == 0) 0,
      chkConf (op != 0 && !(held.any mine)) 0] fun _ =>
    let exp := s.now + ls.val * 1000000
    let grant := fun (s : State) (since n : Nat) =>
      Result.done {
        clamps := ls.off, payload := le 2 ls.val ++ le 8 exp, tokenUsed := used
        st := (spendToken s a 0x0906 tok p).modGw fun g => { g with
          locks := tset g.locks c { kind := kind, who := who, since := since, leaseMs := ls.val, expires := exp, exchanges := n }
          heir := tdel g.heir c } }
    match op, held with
    | 2, _ => .done { clamps := ls.off, payload := le 2 ls.val ++ le 8 0, st := stampChans s (endLock s c) }
    | 1, some l => grant s l.since l.exchanges
    | _, some l => if mine l then grant s l.since l.exchanges else retryLater s a 0x0906 tok p (leaseLeft s l) c
    | _, none =>
      let heir : Option RetryTok := match tget s.gw.heir c with
        | none => none
        | some t => (liveTokens s).find? (·.token == t)
      match heir with
      | some x => if x.src = a.src then grant (gwCount s 1 c 7 1) s.now 0
                  else retryLater s a 0x0906 tok p (max 1 ((x.issued + (x.hintMs + 1000) * 1000000 - s.now + 999999) / 1000000)) c
      | none => grant (gwCount s 1 c 7 1) s.now 0

/-- The length rule of GW_EXCHANGE (R489). -/
def lenExchange : List Byte → Nat → Option Nat := lenCounted 8 2 2 1

/-- GW_EXCHANGE (R473, R489), for any actor. -/
def gwExchange (s : State) (a : Actor) (tok : Nat) (p : List Byte) : Result :=
  let c := u p 0 1
  let expect := bit (u p 1 1) 0
  let len := u p 2 2
  let data := sub p 8 len
  let queued := ((chanOf s c).txq.filter fun x => !isPosted x).length
  let tx := fun (t : Nat) => ({
    msg := { kind := 4, chan := c, ident := if isModbus s c then u data 0 1 else 0, data := data }
    origin := .exchange a.kind a.who t, func := if isModbus s c then u data 1 1 else 0, reply := expect } : TxMsg)
  checked [chkSup (!isSerial c) 0, { bad := len < 1 || len > 2048, status := stBadLength, off := 2 }, { bad := muted s, status := stNotPermitted },
      chkConf (cannotFetch s c) 0] fun _ =>
    match findToken s tok a.src 0x0907 p with
    | some t => match t.fetch with
      | .done d _ => .done { st := dropToken s tok, payload := d, tokenUsed := true }
      | .running =>
        let h := max 1 (exchangeMs s c (len + 8))
        .retry tok h (renewToken (gwCount s 1 c 6 1) tok h)
      | .failed st => if st = stRetry then start s c a tok p expect len queued tx else .failWith st noDetail [] (dropToken s tok)
    | none => start s c a tok p expect len queued tx
where
  /-- A new exchange (R473, R489). -/
  start (s : State) (c : Nat) (a : Actor) (tok : Nat) (p : List Byte) (expect : Bool) (len queued : Nat) (tx : Nat → TxMsg) : Result :=
    match tget s.gw.locks c with
    | some l => if owns a l then go s c a tok p expect len queued tx else retryLater s a 0x0907 tok p (leaseLeft s l) c
    | none => go s c a tok p expect len queued tx
  /-- The exchange is queued. -/
  go (s : State) (c : Nat) (a : Actor) (tok : Nat) (p : List Byte) (expect : Bool) (len queued : Nat) (tx : Nat → TxMsg) : Result :=
    if queued ≥ 64 then .fail stNoResource noDetail
    else
      let used := (findToken s tok a.src 0x0907 p).isSome
      let s := spendToken s a 0x0907 tok p
      if !expect then .done { st := stampChans s (toChannel s (tx 0)), tokenUsed := used }
      else
      let h := max 1 (exchangeMs s c (len + 8))
      let t := issueToken (gwCount s 1 c 6 1) a.src 0x0907 p h .running c
      let f : GwFetch := { token := t.1, chan := c, how := 4, since := s.now, timeoutMs := (serCfg s c).respMs }
      .retry t.1 h (stampChans s (toChannel (t.2.modGw fun g => { g with fetches := g.fetches ++ [f] }) (tx t.1)))

/-- GW_WRITE (R486). -/
def specGwWrite : CmdSpec := {
  opcode := 0x0904, level := 2, bulkIn := true, badLen := lenGwWrite, body := fun s r p => gwWrite s (actorOf r) p }

/-- GW_READ (R487). -/
def specGwRead : CmdSpec := {
  opcode := 0x0905, level := 2, badLen := lenIs 16, body := fun s r p => gwRead s (actorOf r) r.token p }

/-- GW_LOCK (R488). -/
def specGwLock : CmdSpec := {
  opcode := 0x0906, level := 2, badLen := lenIs 6, body := fun s r p => gwLock s (actorOf r) r.token p }

/-- GW_EXCHANGE (R489). -/
def specGwExchange : CmdSpec := {
  opcode := 0x0907, level := 2, bulkIn := true, bulkOut := true, badLen := lenExchange, body := fun s r p => gwExchange s (actorOf r) r.token p }

/-! ### Status, counters, tables (R490 to R492) -/

/-- GW_STATUS_GET (R490). -/
def specGwStatusGet : CmdSpec := {
  opcode := 0x0908, badLen := lenIs 0,
  body := fun s _ _ =>
    .done {
      st := s
      payload := le 4 s.gw.cycle ++ le 4 s.gw.grid.1 ++ le 4 s.gw.grid.2 ++ le 4 ((wcetNs s.ep.cur.gw + 999) / 1000) ++ le 8 (nextMark s) ++
        le 4 s.gw.runUs ++ le 4 s.gw.peakUs ++ le 4 (journalUsed s) ++
        le 1 (((List.range 6).map fun n => if thas s.gw.locks (16 + n) then 2 ^ n else 0).sum) ++ le 1 s.gw.sessions.length ++
        le 2 ((s.ep.cur.gw.routes.filter fun e => (slotOf s e.1).stale).length) } }

/-- GW_COUNTERS_GET (R480, R491). -/
def specGwCountersGet : CmdSpec := {
  opcode := 0x0909, badLen := lenIs 4,
  body := fun s _ p =>
    let t := u p 0 1
    let i := u p 2 2
    let del := t == 0 && s.gw.deleted.contains i
    let known := if t = 0 then thas s.ep.cur.gw.routes i || del else true
    checked [chkSup (t > 2) 0, chkSup (if t = 0 then i > 16383 else if t = 1 then !chanOk i else i != 0) 2, chkConf (!known) 2] fun _ =>
      let s1 := s.modGw fun g => { g with
        counters := tdel g.counters (65536 * t + i), peakUs := if t = 2 then g.runUs else g.peakUs }
      .done {
        st := if bit (u p 1 1) 0 then s1 else s
        payload := le 1 t ++ le 1 (b2n del) ++ le 2 i ++ zeros 4 ++ layCounters (gwWidths t) (gwCtr s t i) ++
          if t = 2 then le 4 s.gw.runUs ++ le 4 s.gw.peakUs ++ le 4 ((wcetNs s.ep.cur.gw + 999) / 1000) else [] } }

/-- GW_TABLE_READ (R492). -/
def specGwTableRead : CmdSpec := {
  opcode := 0x090A, bulkOut := true, badLen := lenIs 6,
  body := fun s _ p =>
    let t := u p 0 1
    let pop := at' [16384, 16384, 32768, 8, 32] t 0
    let first := u p 2 2
    let cnt := clampField 4 0 (pop - first) (u p 4 2)
    checked [chkSup (t > 4) 0, chkSup (first ≥ pop) 2] fun _ =>
      let inR := fun (k : Nat) => first ≤ k && k < first + cnt.val
      let g := s.ep.cur.gw
      let out := match t with
        | 0 => (g.routes.filter fun e => inR e.1).flatMap fun e => routeBytes e.1 e.2
        | 1 => (g.targets.filter fun e => inR e.1).flatMap fun e => targetBytes e.1 e.2
        | 2 => (g.fields.filter fun e => inR e.1).flatMap fun e => fieldBytes e.1 e.2
        | 3 => (s.gw.cfg.ends.filter fun e => inR e.1).flatMap fun e => endpointBytes e.1 e.2
        | _ => (s.gw.cfg.buses.filter fun e => inR e.1).flatMap fun e => acfBytes e.1 e.2
      .done { st := s, clamps := cnt.off, payload := le 2 first ++ le 2 cnt.val ++ le 4 s.ep.epoch ++ out } }

/-! ### TRDP message data (R476, R477) -/

/-- A structure with each of its fields, of the sizes given, in the other byte order; what follows them is kept. -/
def swapFields : List Nat → List Byte → List Byte
  | [], p => p
  | n :: ns, p => (p.take n).reverse ++ swapFields ns (p.drop n)

/-- The fields of the request of each access of R477, and of its completion. -/
def mrFields : Nat → List Nat × List Nat
  | 0 => ([1, 1, 1, 1, 4, 1, 1, 2, 2, 2, 4, 4], [4])
  | 1 => ([1, 1, 1, 1, 4, 2, 2, 2, 2], [4, 8, 4, 1, 1, 2])
  | 2 => ([1, 1, 1, 1, 2], [2, 8])
  | _ => ([1, 1, 2, 4], [2, 6, 8])

/-- The Mp dataset of an answer (R477). -/
def mpBytes (status ms tok : Nat) (fields : List Nat) (payload : List Byte) : List Byte :=
  be 2 status ++ be 2 ms ++ be 4 tok ++ swapFields fields payload

/-- An answer on a TRDP session (R477). -/
def mrAnswer (s : State) (k i : Nat) (res : Result) : State :=
  let out := fun (s : State) (d : List Byte) => s.modGw fun g => { g with
    sessions := tmod g.sessions i { tcp := false, domain := 0, ip := 0, port := 0, last := 0 } fun x => { x with outbox := x.outbox ++ [d] } }
  let f := (mrFields k).2
  match res with
  | .fail st _ => out s (mpBytes st 0 0 f [])
  | .failWith st _ p t => out t (mpBytes st 0 0 f p)
  | .done d => out d.st (mpBytes (doneStatus d.clamps) 0 0 f d.payload)
  | .retry tok ms t => out t (mpBytes stRetry ms tok f [])
  | .wait _ t => t

/-- The session of a peer, made if there is room for it (R477). -/
def sessionFor (s : State) (domain : Nat) (tcp : Bool) (ip port : Nat) : Option (Nat × State) :=
  match s.gw.sessions.find? fun e => e.2.tcp == tcp && e.2.domain == domain && e.2.ip == ip && e.2.port == port with
  | some (i, _) => some (i, s.modGw fun g => { g with
      sessions := g.sessions.map fun e => if e.1 = i then (i, { e.2 with last := s.now }) else e })
  | none => match (List.range 64).find? fun i => !thas s.gw.sessions i with
    | none => none
    | some i =>
      let x : TrdpSession := { tcp := tcp, domain := domain, ip := ip, port := port, last := s.now }
      some (i, raiseTrdp (s.modGw fun g => { g with sessions := tset g.sessions i x }) i x false 0 0)

/-- TRDP_MR_RX (R477): an Mr telegram at the endpoint of `domain` from a peer: its ComId, sequence counter and dataset, and the ingress zone of its
frame. A ComId that gives no access is answered Me (an empty dataset). -/
def execTrdpMrRx (domain : Nat) (tcp : Bool) (ip port zone comId seq : Nat) (data : List Byte) (s : State) : Host.Outcome State Fault Refusal :=
  match endpointOf s domain with
  | none => .next s
  | some e =>
    if !gatewayOn s ∨ !s.host.ready ∨ (tcp ∧ !bit e.flags 1) then .next s else
    match sessionFor s domain tcp ip port with
    | none => .next s
    | some (i, s1) =>
      if comId < e.md ∨ comId > e.md + 3 then
        .next (s1.modGw fun g => { g with sessions := g.sessions.map fun x => if x.1 = i then (i, { x.2 with outbox := x.2.outbox ++ [[]] }) else x })
      else
        let k := comId - e.md
        let p := swapFields (mrFields k).1 (data.drop 4)
        let tok := ub data 0 4
        let a : Actor := { kind := 2, who := i, tag := seq % 65536, src := 16 + i, zone := some (zone, domain) }
        let bad := match k with
          | 0 => (lenGwWrite p p.length).isSome
          | 1 => p.length != 16
          | 2 => p.length != 6
          | _ => (lenExchange p p.length).isSome
        let res := if bad then Result.fail stBadLength noDetail else match k with
          | 0 => gwWrite s1 a p
          | 1 => gwRead s1 a tok p
          | 2 => gwLock s1 a tok p
          | _ => gwExchange s1 a tok p
        .next (stampChans s (mrAnswer s1 k i res))

/-- TRDP_SESSION_IDLE (R477): no message data from the peer for `SESSION_IDLE_S`. -/
def execTrdpSessionIdle (i : Nat) (s : State) : Host.Outcome State Fault Refusal :=
  match tget s.gw.sessions i with
  | none => .next s
  | some x =>
    let idle := ((tget s.gw.cfg.ends x.domain).map (·.idleS)).getD 30
    legRow s fun s => loseSession (s.until (x.last + idle * secondNs)) i 1

/-- TRDP_CONNECTION_CLOSE (R477): the TCP connection of a session closes. -/
def execTrdpConnectionClose (i : Nat) (s : State) : Host.Outcome State Fault Refusal :=
  match tget s.gw.sessions i with
  | none => .next s
  | some x => if x.tcp then legRow s fun s => loseSession s i 0 else .next s

/-! ### The rows of these commands -/

/-- GW_CYCLE_SET (R482): the command from its source. -/
def execGwCycleSet (r : Req) (s : State) : Host.Outcome State Fault Refusal := command specGwCycleSet r s

/-- ROUTE_TABLE_SET (R483): the command from its source. -/
def execRouteTableSet (r : Req) (s : State) : Host.Outcome State Fault Refusal := command specRouteTableSet r s

/-- ENDPOINT_SET (R484): the command from its source. -/
def execEndpointSet (r : Req) (s : State) : Host.Outcome State Fault Refusal := command specEndpointSet r s

/-- ACF_BUS_SET (R485): the command from its source. -/
def execAcfBusSet (r : Req) (s : State) : Host.Outcome State Fault Refusal := command specAcfBusSet r s

/-- GW_WRITE (R486): the command from its source. -/
def execGwWrite (r : Req) (s : State) : Host.Outcome State Fault Refusal := command specGwWrite r s

/-- GW_READ (R487): the command from its source. -/
def execGwRead (r : Req) (s : State) : Host.Outcome State Fault Refusal := command specGwRead r s

/-- GW_LOCK (R488): the command from its source. -/
def execGwLock (r : Req) (s : State) : Host.Outcome State Fault Refusal := command specGwLock r s

/-- GW_EXCHANGE (R489): the command from its source. -/
def execGwExchange (r : Req) (s : State) : Host.Outcome State Fault Refusal := command specGwExchange r s

/-- GW_STATUS_GET (R490): the command from its source. -/
def execGwStatusGet (r : Req) (s : State) : Host.Outcome State Fault Refusal := command specGwStatusGet r s

/-- GW_COUNTERS_GET (R491): the command from its source. -/
def execGwCountersGet (r : Req) (s : State) : Host.Outcome State Fault Refusal := command specGwCountersGet r s

/-- GW_TABLE_READ (R492): the command from its source. -/
def execGwTableRead (r : Req) (s : State) : Host.Outcome State Fault Refusal := command specGwTableRead r s

end Sys2Proof.Machine
end

