-- ==== Sys2Proof/Machine/PairRun.lean ====
section
/-! DEFINITION. The pair link, comparison, attribution and the consist protocols (R673 to R696): their rows, and the commands of group
0x0F (R699 to R706). -/

namespace Sys2Proof.Machine

/-! ### The pair link (R677 to R680) -/

/-- Whether P0 is secured (R679). -/
def p0Secured (s : State) : Bool :=
  if (macCfg s 4).enable then controlledOpen s 4 && (txSa s 4).isSome else s.lifecycle != 2

/-- What a row of the pair leaves (R687): a hello follows each change of what a hello carries. -/
def pairStep (s : State) (f : State → State) : Host.Outcome State Fault Refusal :=
  let s1 := stampPair s (f s)
  .next (if s1.pair.link ∧ s1.pair.helloAt = s.pair.helloAt ∧ (s1.pair.reasons ≠ s.pair.reasons ∨ ownDigest s1 ≠ ownDigest s ∨ s1.pair.role ≠ s.pair.role)
    then sendHello s1 else s1)

/-- P0 stops being secured, or its port leaves UP: the link is lost (R679). -/
def checkP0 (s : State) : State :=
  if !s.pair.link then s
  else if !s.pairCfg.enable then pairLost s 4
  else if !p0Secured s then pairLost s 3
  else if lanes s = 0 then pairLost s 2 else s

/-- The pair link comes up (R679, R687, R689): the sequences start at 0 and a hello is sent. -/
def pairUp (s : State) : State :=
  if s.pair.link then s else
  let s1 := raisePairLink (s.modPair fun p => { p with
    link := true, watch := false, rxAt := s.now, txAt := s.now, ackAt := s.now, waitMarks := none }) 0 0
  sendHello (setReason s1 0 false)

/-- Blocks are resent from the first unacknowledged one (R679). -/
def resendBlocks (s : State) : State :=
  let n := s.pair.unacked.length
  if n = 0 then s
  else if s.pair.resent ≥ 16 then pairLost s 1
  else pairCount (pairCount (s.modPair fun p => { p with resent := p.resent + 1, ackAt := s.now, txAt := s.now }) 0 4 n) 0 0 n

/-- The partner acknowledges up to `ack` (R679): the window moves on. -/
def takeAck (s : State) (ack : Nat) : State :=
  let p := s.pair
  let first := (p.unacked.head?.map (·.bseq)).getD p.txSeq
  let n := (ack + 2 ^ 32 - first) % 2 ^ 32
  if n = 0 ∨ n > p.unacked.length then s
  else
    let rest := p.unacked.drop n
    let more := p.txq.take (128 - rest.length)
    let s1 := s.modPair fun p => { p with unacked := rest ++ more, txq := p.txq.drop more.length, ackAt := s.now, resent := 0 }
    if more.isEmpty then s1 else pairCount (s1.modPair fun p => { p with txAt := s.now }) 0 0 more.length

/-! ### Faults (R685, R686) -/

/-- Raise FAULT_ATTRIBUTED (R698). -/
def faultAttributed (s : State) (unit cause cycle serial : Nat) : State :=
  raise s 0xE3 5 noLevel (srcId 0xE unit) (le 1 unit ++ le 1 cause ++ le 1 s.pair.role ++ zeros 1 ++ le 4 cycle ++ le 8 serial)

/-- This unit declares itself faulty (R686). `keep`: both units are faulty, and the Primary keeps its role (R685). -/
def declareFaulty (s : State) (cause cycle : Nat) (keep : Bool) : State :=
  if !s.pairCfg.enable ∨ s.pair.faulty.isSome then s else
  let s1 := faultAttributed (s.modPair fun p => { p with faulty := some cause }) 0 cause cycle (Config.serial % 2 ^ 64)
  let s2 := setReason (sendPosted s1 2 cycle (.fault cause cycle)) 9 true
  if s2.pair.role = 1 ∧ !keep then takeRole s2 2 else s2

/-- The partner announces its fault (R686, R690). -/
def partnerFault (s : State) (cause cycle : Nat) : State :=
  let s1 := faultAttributed (s.modPair fun p => { p with partnerFaulty := true }) 1 cause cycle ((s.pair.partner.map (·.serial)).getD 0)
  if s1.pair.role = 2 then s1.modPair fun p => { p with takeover := some 0 } else s1

/-! ### Roles and hellos (R674, R687) -/

/-- Whether this unit wins by priority, then by the lower serial (R674). -/
def winsPriority (s : State) (h : PairHello) : Bool :=
  h.priority < s.pairCfg.priority || (h.priority == s.pairCfg.priority && Config.serial % 2 ^ 64 < h.serial)

/-- The role decision at link-up (R674). -/
def decideRole (s : State) (h : PairHello) : State :=
  let mine := s.pair.role
  if bit s.pair.reasons 10 then s
  else if h.role = 1 ∧ mine ≠ 1 then takeRole s 2
  else if mine = 1 ∧ h.role ≠ 1 then s
  else if mine = 1 then
    let keep : Bool := match s.pair.takenAt, h.takenAt with
      | some a, some b => b < a
      | some _, none => true
      | none, some _ => false
      | none, none => winsPriority s h
    if keep then s else takeRole s 2
  else takeRole s (if winsPriority s h then 1 else 2)

/-- A hello (R674, R683, R687): the reasons it decides, the role at link-up, and the Companion's cycle number. -/
def takeHello (s : State) (h : PairHello) (cycle : Nat) : State :=
  let s1 := s.modPair fun p => { p with partner := some h }
  let s2 := if s1.pair.decided then s1 else (decideRole s1 h).modPair fun p => { p with decided := true }
  let s3 := setReason s2 1 (h.digest ≠ ownDigest s2)
  let s4 := setReason s3 2 (h.rev ≠ 1)
  let s5 := setReason s4 3 (h.copyFmt ≠ 1)
  let s6 := setReason s5 5 (s.pair.barred || bit h.reasons 5)
  let s7 := setReason s6 10 (s.keys.quarantine || !s.host.bundleOk || bit h.reasons 10)
  if s7.pair.role = 2 then s7.modGw fun g => { g with cycle := cycle % 2 ^ 32 } else s7

/-- The pair time difference found once per cycle (R692, R698). -/
def takeDiff (s : State) (d : Int) : State :=
  let big := d.natAbs > 1000
  let s1 := s.modPair fun p => { p with diffNs := d }
  let pay := fun (kind n : Nat) => le 1 kind ++ zeros 3 ++ le 8 (ofInt 64 d) ++ le 4 n
  let s2 := if big then raiseSampled (s1.modPair fun p => { p with apart := true }) 0xE5 2 noLevel (srcId 0xE 1) (pay (if d.natAbs > 100000 then 2 else 0))
    else if s.pair.apart ∧ d.natAbs < 500 then raise (s1.modPair fun p => { p with apart := false }) 0xE5 1 noLevel (srcId 0xE 1) (pay 1 0)
    else s1
  setReason s2 8 (d.natAbs > 100000 || (d.natAbs == 100000 && bit s.pair.reasons 8))

/-- Bytes of the requests the P0 receiver holds (R680). -/
def requestBytes (s : State) : Nat := (s.pair.requests.map fun r => r.length).sum

/-- A posted block's content (R681, R684 to R687, R701). -/
def takePosted (s : State) (b : PairBlock) : State :=
  match b.body with
  | .copyEnd c => if s.pair.role = 2 then s.modPair fun p => { p with copy := some c, copyBytes := c.bytes } else s
  | .hello h => takeHello s h b.cycle
  | .fault cause cycle => partnerFault s cause cycle
  | .switchOver _ =>
    if s.pair.role = 2 then sendPosted (s.modPair fun p => { p with takeover := some 2 }) 2 b.cycle .switchAck else s
  | .switchAck => if s.pair.role = 1 ∧ s.pair.switching.isSome then s.modPair fun p => { p with takeover := some 2 } else s
  | _ => s

/-- PAIR_BLOCK_RX (R678 to R680, R692): a pair block arrives on P0. `diff` is the pair time difference measured with it, where this is
the cycle's one measurement. -/
def execPairBlockRx (b : PairBlock) (crcOk icvOk : Bool) (diff : Option Int) (s : State) : Host.Outcome State Fault Refusal :=
  if !s.pairCfg.enable ∨ !awake s ∨ !portUp s 32 ∨ !p0Secured s then .next s
  else pairStep s fun s =>
    if !crcOk ∨ ((macCfg s 4).enable ∧ !icvOk) then sendOther (pairCount s 0 5 1)
    else
      let s1 := pairUp (pairCount (s.modPair fun p => { p with rxAt := s.now }) 0 1 1)
      let s2 := takeAck s1 b.ack
      let s3 := if b.nak then resendBlocks s2 else s2
      let s4 := match diff with
        | some d => takeDiff s3 d
        | none => s3
      if b.type = 1 ∨ b.type = 2 then
        if b.bseq = s4.pair.rxSeq then takePosted (s4.modPair fun p => { p with rxSeq := wrapAdd 32 p.rxSeq 1 }) b
        else sendOther (pairCount s4 0 6 1)
      else match b.body with
        | .request d =>
          if requestBytes s4 + d.length > 262144 then sendOther (pairCount s4 0 12 1)
          else s4.modPair fun p => { p with requests := p.requests ++ [d] }
        | .response _ ok => if bit s4.pairCfg.flags 1 then setReason s4 7 (!ok) else s4
        | _ => s4

/-- PAIR_RESEND_TIMER (R679): `ACK` has not advanced for `RESEND_US`. -/
def execPairResendTimer (s : State) : Host.Outcome State Fault Refusal :=
  if !s.pair.link ∨ s.pair.unacked.isEmpty then .next s
  else pairStep s fun s => resendBlocks (s.until (s.pair.ackAt + s.pairCfg.resendUs * 1000))

/-- PAIR_IDLE_TIMER (R679): nothing was sent for 20 µs. -/
def execPairIdleTimer (s : State) : Host.Outcome State Fault Refusal :=
  if !s.pair.link then .next s else pairStep s fun s => sendOther (s.until (s.pair.txAt + 20000))

/-- PAIR_LINK_TIMEOUT (R679): no valid block for 200 µs. -/
def execPairLinkTimeout (s : State) : Host.Outcome State Fault Refusal :=
  if !s.pair.link then .next s else pairStep s fun s => pairLost (s.until (s.pair.rxAt + 200000)) 0

/-- PAIR_HELLO_TIMER (R687): a hello every second. -/
def execPairHelloTimer (s : State) : Host.Outcome State Fault Refusal :=
  if !s.pair.link then .next s else pairStep s fun s => sendHello (s.until (s.pair.helloAt + secondNs))

/-- LANE_FAILURE (R677): a lane of P0 fails; blocks lost on it are resent; both lanes down lose the link. -/
def execLaneFailure (lane : Nat) (s : State) : Host.Outcome State Fault Refusal :=
  if lane > 1 ∨ !portUp s 32 ∨ !at' s.pair.laneUp lane true then .next s
  else pairStep s fun s =>
    let s1 := s.modPair fun p => { p with laneUp := p.laneUp.set lane false }
    if lanes s1 = 0 then pairLost s1 2 else resendBlocks (raisePairLink s1 2 0)

/-- LANE_RECOVERY (R677): both lanes are used again. -/
def execLaneRecovery (lane : Nat) (s : State) : Host.Outcome State Fault Refusal :=
  if lane > 1 ∨ !portUp s 32 ∨ at' s.pair.laneUp lane true then .next s
  else pairStep s fun s =>
    let s1 := s.modPair fun p => { p with laneUp := p.laneUp.set lane true }
    if lanes s1 = 2 then raisePairLink s1 3 0 else s1

/-! ### Comparison and attribution (R683 to R685) -/

/-- Whether two entries of output lists are equal: the target and the message (R681). -/
def sameOut (a b : GwOut) : Bool :=
  a.space == b.space && decide (a.tx.origin = b.tx.origin) && decide ({ a.tx.msg with time := 0 } = { b.tx.msg with time := 0 })

/-- The target of an output entry (R681). -/
def outTarget (o : GwOut) : Nat := match o.tx.origin with
  | .route _ t => t
  | _ => 0xFFFF

/-- The first entry at which two output lists differ, with its target. -/
def firstDiff : List GwOut → List GwOut → Nat → Option (Nat × Nat)
  | [], [], _ => none
  | a :: as, b :: bs, n => if sameOut a b then firstDiff as bs (n + 1) else some (outTarget b, n)
  | a :: _, [], n => some (outTarget a, n)
  | [], b :: _, n => some (outTarget b, n)

/-- A copy is late (R683, R687). -/
def copyLate (s : State) : State :=
  let s1 := pairCount (s.modPair fun p => { p with late := p.late + 1, lastLate := true, copy := none }) 0 8 1
  if s1.pair.late ≥ 3 then setReason s1 4 true else s1

/-- A comparison finds the lists equal (R683, R687): the changed field state is loaded. -/
def copyEqual (s : State) (c : PairCopy) : State :=
  let s1 := (pairCount s 0 2 1).modGw fun g => { g with fields := c.changed.foldl (fun t e => tset t e.1 e.2) g.fields }
  let s2 := s1.modPair fun p => { p with compared := c.cycle, equal := p.equal + 1, late := 0, lastLate := false, copy := none }
  let n := s2.pair.equal
  let s3 := if bit s2.pair.reasons 4 then (setReason s2 4 false) else s2
  updateArming (if bit s3.pair.reasons 6 ∧ n ≥ 1000 then setReason s3 6 false else s3)

/-- CYCLE_COPY_COMPLETE (R683): the Companion compares a complete copy with its own outputs of the cycle,
once it has them. -/
def execCycleCopyComplete (s : State) : Host.Outcome State Fault Refusal :=
  match s.pair.copy with
  | none => .next s
  | some c =>
    if s.pair.role ≠ 2 then .next (s.modPair fun p => { p with copy := none })
    else pairStep s fun s =>
      if c.copyFmt ≠ 1 then setReason (s.modPair fun p => { p with copy := none }) 3 true
      else match s.gw.history.find? fun x => x.cycle == c.cycle with
        | none => if s.gw.run.any fun x => x.cycle == c.cycle then s else s.modPair fun p => { p with copy := none }
        | some own =>
          if c.digest ≠ own.digest then setReason (s.modPair fun p => { p with copy := none }) 1 true else
          let limit := own.mark + s.gw.grid.1 * 1000 + s.gw.grid.1 * 500
          if s.now > limit then copyLate s
          else match firstDiff own.listed c.outs 0 with
            | none => copyEqual s c
            | some d =>
              pairCount ((pairCount s 0 2 1).modPair fun p => { p with
                compared := c.cycle, equal := 0, late := 0, lastLate := false, mismatch := some (c.cycle, d.1, d.2) }) 0 9 1

/-- COPY_DEADLINE (R683): the copy of the last cycle is not complete by `M_(k+1) + PERIOD / 2`. -/
def execCopyDeadline (s : State) : Host.Outcome State Fault Refusal :=
  if !s.pair.link ∨ s.pair.role ≠ 2 ∨ !gatewayOn s then .next s
  else match s.gw.history.head? with
    | none => .next s
    | some own =>
      if s.pair.compared = own.cycle ∨ s.pair.mismatch.isSome then .next s
      else pairStep s fun s => copyLate (s.until (own.mark + s.gw.grid.1 * 1500))

/-- REEXECUTION_RESULT (R684, R685): re-execution attributes the mismatch. `ownDiffers`, `partnerDiffers`: a unit's re-execution differs
from its outputs. `step3`: the Companion's re-execution from the Primary's snapshot reproduces the Primary's outputs. -/
def execReexecutionResult (cycle : Nat) (ownDiffers partnerDiffers step3 : Bool) (s : State) : Host.Outcome State Fault Refusal :=
  if !s.pair.link ∨ s.pair.role = 0 ∨ (s.pair.role = 2 ∧ s.pair.mismatch.isNone) then .next s
  else pairStep s fun s =>
    let primary := s.pair.role = 1
    let m := s.pair.mismatch.getD (cycle % 2 ^ 32, 0xFFFF, 0)
    let primDiff := if primary then ownDiffers else partnerDiffers
    let compDiff := if primary then partnerDiffers else ownDiffers
    let result := if primDiff then 0 else if compDiff then 1 else if step3 then 2 else 3
    let s1 := s.modPair fun p => { p with mismatch := none }
    let s2 := raiseMismatch s1 m result
    let s3 := if result = 2 then pairCount s2 0 10 1 else if result = 3 then pairCount s2 0 11 1 else s2
    let s4 := if ownDiffers then declareFaulty s3 0 m.1 (primary && partnerDiffers) else s3
    let s5 := if !primary ∧ result = 3 then setReason s4 6 true else s4
    let s6 := if !primary ∧ result = 2 then match s5.pair.copy with
        | some c => s5.modGw fun g => { g with fields := c.changed.foldl (fun t e => tset t e.1 e.2) g.fields }
        | none => s5
      else s5
    s6.modPair fun p => { p with copy := none }

/-- HEARTBEAT_ABSENT (R676, R690): in heartbeat watch, `HB_MISS` marks have passed without a heartbeat. -/
def execHeartbeatAbsent (s : State) : Host.Outcome State Fault Refusal :=
  if !s.pair.watch ∨ s.pair.role ≠ 2 ∨ !watchable s ∨ s.pair.hbMissed < s.pairCfg.hbMiss then .next s
  else pairStep s fun s => s.modPair fun p => { p with takeover := some 1 }

/-! ### TTDP (R693, R694) -/

/-- The state with its TTDP changed. -/
def modTtdp (s : State) (f : TtdpRun → TtdpRun) : State := s.modPair fun p => { p with ttdp := f p.ttdp }

/-- Raise TTDP_TOPOLOGY (R698). -/
def raiseTtdp (s : State) (kind dir : Nat) : State :=
  let t := s.pair.ttdp
  raise s 0xE6 2 noLevel (srcId 0xE 2)
    (le 1 kind ++ le 1 t.etbn ++ le 1 t.count ++ le 1 dir ++ le 4 t.topo ++ le 4 (pairCtr s 1 2) ++ le 1 t.etb)

/-- The direction and line of a backbone port in TTDP. -/
def ttdpPlace (s : State) (p : Nat) : Option (Nat × Nat) :=
  (List.range 2).findSome? fun d => ((bitList 4 (dirMask s d)).findIdx? (· == p)).map fun l => (d, l)

/-- The lines of a direction with a neighbour change (R693, R694, R698): line switch, or the direction lost. -/
def setLines (s : State) (d lines : Nat) : State :=
  let s1 := modTtdp s fun t => { t with lines := t.lines.set d lines }
  let c := at' s.pair.ttdp.chosen d 0
  if lines = 0 then
    raiseTtdp (modTtdp s1 fun t => { t with state := min t.state 1, since := if t.state = 1 then t.since else s.now }) 1 d
  else if bit lines c then s1
  else
    let s2 := modTtdp s1 fun t => { t with chosen := t.chosen.set d (1 - c) }
    if at' s.pair.ttdp.lines d 0 = 0 then s2 else raiseTtdp (pairCount s2 1 3 1) 2 d

/-- TTDP_HELLO_RX (R693, R694): a HELLO or TOPOLOGY frame on a TTDP port. -/
def execTtdpHelloRx (port : Nat) (f : TtdpFrame) (s : State) : Host.Outcome State Fault Refusal :=
  match ttdpPlace s port with
  | none => .next s
  | some (d, l) =>
    if !s.pair.cfg.ttdp.enable ∨ !awake s ∨ !portUp s port then .next s else
    match f with
    | .hello =>
      let s1 := pairCount (modTtdp s fun t => { t with heard := tset t.heard port s.now }) 1 1 1
      let lines := withBit (at' s1.pair.ttdp.lines d 0) l true
      .next (zenithRecheck (if lines = at' s1.pair.ttdp.lines d 0 then s1 else setLines s1 d lines))
    | .topology etbn count etb topo ipv4 =>
      let s1 := pairCount (modTtdp s fun t => { t with
        state := 2, etbn := etbn % 256, count := count % 256, etb := etb % 256, topo := topo % 2 ^ 32, ipv4 := ipv4 % 2 ^ 32, since := s.now }) 1 2 1
      .next (zenithRecheck (raiseTtdp s1 0 d))

/-- Ports of both TTDP directions. -/
def ttdpPorts (s : State) : List Nat := bitList 4 (s.pair.cfg.ttdp.dir1 ||| s.pair.cfg.ttdp.dir2)

/-- The HELLO period in ns (R693): slow while inaugurated, fast otherwise (assumption 30). -/
def helloPeriod (s : State) : Nat := (if s.pair.ttdp.state = 2 then s.pair.cfg.ttdp.slowMs else s.pair.cfg.ttdp.fastMs) * 1000000

/-- TTDP_HELLO_TIMER (R693): a HELLO is sent on every TTDP port that is UP. -/
def execTtdpHelloTimer (s : State) : Host.Outcome State Fault Refusal :=
  if !s.pair.cfg.ttdp.enable ∨ !awake s then .next s else
  let s1 := s.until (s.pair.ttdp.lastTx + helloPeriod s)
  .next (pairCount (modTtdp s1 fun t => { t with lastTx := s1.now }) 1 0 ((ttdpPorts s).filter (portUp s)).length)

/-- TTDP_HELLO_TIMEOUT (R693): no HELLO on a port for three periods. -/
def execTtdpHelloTimeout (port : Nat) (s : State) : Host.Outcome State Fault Refusal :=
  match tget s.pair.ttdp.heard port, ttdpPlace s port with
  | some t, some (d, l) =>
    if !s.pair.cfg.ttdp.enable ∨ !awake s then .next s else
    let s1 := modTtdp (s.until (t + 3 * helloPeriod s)) fun t => { t with heard := tdel t.heard port }
    let lines := withBit (at' s1.pair.ttdp.lines d 0) l false
    .next (zenithRecheck (if lines = at' s1.pair.ttdp.lines d 0 then s1 else setLines s1 d lines))
  | _, _ => .next s

/-! ### MRP (R695, R696) -/

/-- The state with ring `r` changed. -/
def modMrp (s : State) (r : Nat) (f : MrpRun → MrpRun) : State := s.modPair fun p => { p with mrp := p.mrp.modify r f }

/-- Ring `r`: settings. -/
def mrpCfg (s : State) (r : Nat) : MrpCfg := at' s.pair.cfg.mrp r {}

/-- Ring `r`: state. -/
def mrpRun (s : State) (r : Nat) : MrpRun := at' s.pair.mrp r {}

/-- Raise MRP_STATE (R698). -/
def raiseMrp (s : State) (r kind port openMs : Nat) : State :=
  raise s 0xE7 (if kind = 0 then 3 else 1) noLevel (srcId 0xE 3)
    (le 1 r ++ le 1 kind ++ le 1 (mrpCfg s r).role ++ le 1 port ++ le 4 (pairCtr s (2 + r) 2) ++ le 4 (min openMs (2 ^ 32 - 1)))

/-- The learnt FDB entries of a ring's ports are removed (R696). -/
def flushRing (s : State) (r : Nat) : State :=
  let c := mrpCfg s r
  s.modIng fun i => { i with learnt := i.learnt.map fun b => (b.1, b.2.filter fun f => f.point != c.port1 && f.point != c.port2) }

/-- The ring opens at its manager (R696): the secondary port forwards, MRP_TopologyChange is sent. -/
def ringOpens (s : State) (r port : Nat) : State :=
  if (mrpRun s r).state = 2 then s else
  let s1 := modMrp s r fun x => { x with state := 2, blocked2 := false, openAt := s.now, since := s.now }
  zenithRecheck (flushRing (pairCount (raiseMrp (pairCount s1 (2 + r) 2 1) r 0 port 0) (2 + r) 3 1) r)

/-- The ring closes at its manager: the secondary port is blocked again. -/
def ringCloses (s : State) (r : Nat) : State :=
  if (mrpRun s r).state ≠ 2 then s else
  let ms := (s.now - (mrpRun s r).openAt) / 1000000
  zenithRecheck (raiseMrp (modMrp s r fun x => { x with state := 1, blocked2 := true, missed := 0, since := s.now }) r 1 (mrpCfg s r).port2 ms)

/-- The test interval of a recovery profile in ns (IEC 62439-2, PRESUMED, assumption 30). -/
def mrpTestNs (profile : Nat) : Nat := at' [20000000, 3500000, 1000000] profile 20000000

/-- MRP_TEST_TIMER (R695, R696): the manager sends a test frame on both ring ports. `back` says whether the one before came back; three
in a row that did not open the ring. -/
def execMrpTestTimer (r : Nat) (back : Bool) (s : State) : Host.Outcome State Fault Refusal :=
  let c := mrpCfg s r
  if r > 1 ∨ !c.enable ∨ c.role ≠ 1 ∨ !awake s then .next s else
  let s1 := s.until ((mrpRun s r).lastTx + mrpTestNs c.profile)
  let s2 := pairCount (modMrp s1 r fun x => { x with lastTx := s1.now, missed := if back then 0 else x.missed + 1 }) (2 + r) 0 2
  .next (if back then ringCloses (pairCount s2 (2 + r) 1 1) r else if (mrpRun s2 r).missed ≥ 3 then ringOpens s2 r c.port2 else s2)

/-- MRP_FRAME_RX (R695, R696): an MRP frame at a ring port. -/
def execMrpFrameRx (r port : Nat) (f : MrpFrame) (s : State) : Host.Outcome State Fault Refusal :=
  let c := mrpCfg s r
  if r > 1 ∨ !c.enable ∨ !awake s ∨ (port ≠ c.port1 ∧ port ≠ c.port2) ∨ !portUp s port then .next s else
  match f with
  | .test => .next (if c.role = 1 then ringCloses (modMrp (pairCount s (2 + r) 1 1) r fun x => { x with missed := 0 }) r
      else pairCount s (2 + r) 1 1)
  | .topologyChange => .next (raiseMrp (flushRing (pairCount s (2 + r) 4 1) r) r 2 port 0)
  | .linkDown => .next (if c.role = 1 then ringOpens s r port else s)
  | .linkUp => .next s

/-! ### Commands of group 0x0F -/

/-- PAIR_STATUS_GET (R699). -/
def specPairStatusGet : CmdSpec := {
  opcode := 0x0F00, badLen := lenIs 0,
  body := fun s _ _ =>
    let p := s.pair
    let h := p.partner
    .done {
      st := s
      payload := le 1 p.role ++ le 1 (pairState p) ++ le 1 (lanes s) ++ le 1 ((h.map (·.rev)).getD 0) ++ le 4 p.reasons ++
        le 8 ((h.map (·.serial)).getD 0) ++ le 4 ((h.map (·.ikiora)).getD 0) ++ le 1 ((h.map (·.role)).getD 0) ++
        le 1 (b2n (bit p.reasons 5) + 2 * b2n p.apart + 4 * b2n p.lastLate) ++ le 2 ((h.map (·.copyFmt)).getD 0) ++
        le 8 (ofInt 64 p.diffNs) ++ le 4 p.compared ++ le 4 p.copyBytes ++ le 8 p.since } }

/-- A role at the gateway's start, or when pairing is enabled with the link down (R674): the heartbeat is awaited. -/
def startRole (s : State) : State :=
  if !s.pairCfg.enable then s.modPair fun p => { p with role := 0 }
  else if bit s.pair.reasons 10 then s
  else if s.pair.link then s
  else if watchable s then (mute s).modPair fun p => { p with role := 2, waitMarks := some (2 * s.pairCfg.hbMiss) }
  else takeRole s 1

/-- Pairing is enabled or disabled (R673, R700). -/
def setPairing (s : State) (on : Bool) : State :=
  if on then
    let s1 := s.modPair fun p => { p with reasons := withBit (withBit p.reasons 0 true) 10 (s.keys.quarantine || !s.host.bundleOk) }
    startRole s1
  else
    let s1 := pairLost s 4
    let s2 := if s1.pair.role = 2 then unmute s1 else s1
    s2.modPair fun p => { p with role := 0, armed := false, watch := false, takeover := none, waitMarks := none, switching := none }

/-- PAIR_SET (R682, R700). -/
def specPairSet : CmdSpec := {
  opcode := 0x0F01, badLen := lenIs 24,
  body := fun s _ p =>
    let en := u p 0 1
    let hb := clampField 3 1 8 (u p 3 1)
    let rs := clampField 12 10 1000 (u p 12 2)
    let can := u p 4 1
    let mvb := u p 5 1
    let port := u p 6 2
    let c : PairCfg := {
      enable := en = 1, priority := u p 1 1, flags := u p 2 1 % 4, hbMiss := hb.val, hbCan := can, hbMvb := mvb
      hbMvbPort := port, hbCanId := u p 8 4, resendUs := rs.val }
    let s1 := s.modPair fun x => { x with cfg := { x.cfg with pair := c } }
    checked [chkSup (en > 1) 0, chkSup (can > 7 && can != 0xFF) 4, chkSup (mvb != 8 && mvb != 9 && mvb != 0xFF) 5,
        chkSup (port > 4095) 6, { bad := en = 1 && inSplit s, status := stNotPermitted, off := 0 },
        chkConf (can ≤ 7 && (canCfg s can).mode == 0) 4, chkConf (isMvb mvb && !mvbSource s mvb port) 6,
        chkPol (copyOver s1 s.ep.cur.gw) 0] fun _ =>
      let was := s.pairCfg.enable
      .done {
        clamps := hb.off ++ rs.off
        st := stampPair s (if was = c.enable then s1 else setPairing s1 c.enable)
        payload := le 1 en ++ le 1 c.priority ++ le 1 c.flags ++ le 1 hb.val ++ le 1 can ++ le 1 mvb ++ le 2 port ++ le 4 c.hbCanId ++
          le 2 rs.val ++ zeros 10 } }
where
  /-- Whether a channel's MVB port is a source port (R700), the channel being on. -/
  mvbSource (s : State) (c port : Nat) : Bool := (mvbCfg s c).mode != 0 && (mvbPort s c port).any fun p => !p.sink

/-- PAIR_SWITCH (R690, R701). -/
def specPairSwitch : CmdSpec := {
  opcode := 0x0F02, badLen := lenIs 4,
  permitted := fun s _ => !inSplit s,
  body := fun s _ p =>
    let ready := s.pair.link && s.pair.partner.any fun h => h.role == 2 && h.reasons == 0
    checked [chkPol (u p 0 4 != 0x96005A17) 0, chkConf (s.pair.role != 1 || !ready) noDetail] fun _ =>
      let k := wrapAdd 32 s.gw.cycle 1
      .done { st := sendPosted (s.modPair fun x => { x with switching := some k }) 2 k (.switchOver k), payload := le 4 k } }

/-- PAIR_COUNTERS_GET (R697, R702). -/
def specPairCountersGet : CmdSpec := {
  opcode := 0x0F03, badLen := lenIs 3,
  body := fun s _ p =>
    let t := u p 0 1
    let i := u p 2 1
    checked [chkSup (t > 2) 0, chkSup (i > (if t = 2 then 1 else 0)) 2] fun _ =>
      let k := if t = 2 then 2 + i else t
      let cs := at' s.pair.counters k []
      .done {
        st := if bit (u p 1 1) 0 then s.modPair fun x => { x with counters := x.counters.modify k fun c => c.map fun _ => 0 } else s
        payload := le 1 t ++ le 1 (u p 1 1) ++ le 1 i ++ zeros 5 ++
          (cs.zip (pairWidths k)).flatMap fun x => le (x.2 / 8) x.1 } }

/-- TTDP_SET (R703). -/
def specTtdpSet : CmdSpec := {
  opcode := 0x0F04, badLen := lenIs 24,
  body := fun s _ p =>
    let en := u p 0 1
    let d1 := u p 1 1
    let d2 := u p 2 1
    let fast := clampField 4 5 100 (u p 4 2)
    let slow := clampField 6 50 1000 (u p 6 2)
    let ring := (s.pair.cfg.mrp.filter (·.enable)).foldl (fun m c => m ||| 2 ^ c.port1 ||| 2 ^ c.port2) 0
    checked [chkSup (en > 1) 0, chkSup (d1 > 15) 1, chkSup (d2 > 15) 2, chkConf (setInter d1 d2 != 0) 2,
        chkConf (en = 1 && setInter d1 ring != 0) 1, chkConf (en = 1 && setInter d2 ring != 0) 2,
        chkConf ((bitList 4 d1).length > 2) 1, chkConf ((bitList 4 d2).length > 2) 2] fun _ =>
      let c : TtdpCfg := { enable := en = 1, dir1 := d1, dir2 := d2, fastMs := fast.val, slowMs := slow.val, uuid := sub p 8 16 }
      .done {
        clamps := fast.off ++ slow.off
        st := zenithRecheck (s.modPair fun x => { x with
          cfg := { x.cfg with ttdp := c }
          ttdp := { state := if c.enable then 1 else 0, since := s.now, topo := x.ttdp.topo } })
        payload := le 1 en ++ le 1 d1 ++ le 1 d2 ++ zeros 1 ++ le 2 fast.val ++ le 2 slow.val ++ c.uuid } }

/-- TTDP_STATUS_GET (R704). -/
def specTtdpStatusGet : CmdSpec := {
  opcode := 0x0F05, badLen := lenIs 0,
  body := fun s _ _ =>
    let t := s.pair.ttdp
    .done {
      st := s
      payload := le 1 t.state ++ le 1 t.etbn ++ le 1 t.count ++ le 1 t.etb ++ le 4 t.topo ++ le 1 (at' t.lines 0 0) ++
        le 1 (at' t.lines 1 0) ++ zeros 2 ++ le 4 t.ipv4 ++ le 8 t.since } }

/-- MRP_SET (R705): the manager of a ring that is enabled starts with its secondary port blocked and the ring closed. -/
def specMrpSet : CmdSpec := {
  opcode := 0x0F06, badLen := lenIs 24,
  body := fun s _ p =>
    let r := u p 0 1
    let en := u p 1 1
    let a := u p 4 1
    let b := u p 5 1
    let other := mrpCfg s (1 - r)
    let inOther := fun (x : Nat) => other.enable && (other.port1 == x || other.port2 == x)
    let inTtdp := fun (x : Nat) => s.pair.cfg.ttdp.enable && (ttdpPorts s).contains x
    checked [chkSup (r > 1) 0, chkSup (en > 1) 1, chkSup (u p 2 1 > 1) 2, chkSup (u p 3 1 > 2) 3, chkSup (a > 3) 4, chkSup (b > 3) 5,
        chkSup (u p 6 2 > 4094) 6, chkConf (a == b) 5, chkConf (en = 1 && inOther a) 4, chkConf (en = 1 && inOther b) 5,
        chkConf (en = 1 && inTtdp a) 4, chkConf (en = 1 && inTtdp b) 5] fun _ =>
      let c : MrpCfg := { enable := en = 1, role := u p 2 1, profile := u p 3 1, port1 := a, port2 := b, vid := u p 6 2, uuid := sub p 8 16 }
      let x : MrpRun := { state := en, blocked2 := en = 1 && c.role == 1, since := s.now, lastTx := s.now }
      .done {
        st := zenithRecheck (s.modPair fun y => { y with cfg := { y.cfg with mrp := y.cfg.mrp.set r c }, mrp := y.mrp.set r x })
        payload := padTo 24 p } }

/-- MRP_STATUS_GET (R706). -/
def specMrpStatusGet : CmdSpec := {
  opcode := 0x0F07, badLen := lenIs 1,
  body := fun s _ p =>
    let r := u p 0 1
    checked [chkSup (r > 1) 0] fun _ =>
      let c := mrpCfg s r
      let x := mrpRun s r
      let port := fun (n : Nat) (blk : Bool) => if !portUp s n then 2 else if blk then 0 else 1
      let st := if !c.enable then 0 else if !portUp s c.port1 ∨ !portUp s c.port2 then 3 else x.state
      .done {
        st := s
        payload := le 1 r ++ le 1 c.role ++ le 1 st ++ le 1 (port c.port1 x.blocked1) ++ le 1 (port c.port2 x.blocked2) ++ zeros 3 ++
          le 8 x.since } }

/-! ### The rows of these commands -/

/-- PAIR_STATUS_GET (R699): the command from its source. -/
def execPairStatusGet (r : Req) (s : State) : Host.Outcome State Fault Refusal := command specPairStatusGet r s

/-- PAIR_SET (R700): the command from its source. -/
def execPairSet (r : Req) (s : State) : Host.Outcome State Fault Refusal := command specPairSet r s

/-- PAIR_SWITCH (R701): the command from its source. -/
def execPairSwitch (r : Req) (s : State) : Host.Outcome State Fault Refusal := command specPairSwitch r s

/-- PAIR_COUNTERS_GET (R702): the command from its source. -/
def execPairCountersGet (r : Req) (s : State) : Host.Outcome State Fault Refusal := command specPairCountersGet r s

/-- TTDP_SET (R703): the command from its source. -/
def execTtdpSet (r : Req) (s : State) : Host.Outcome State Fault Refusal := command specTtdpSet r s

/-- TTDP_STATUS_GET (R704): the command from its source. -/
def execTtdpStatusGet (r : Req) (s : State) : Host.Outcome State Fault Refusal := command specTtdpStatusGet r s

/-- MRP_SET (R705): the command from its source. -/
def execMrpSet (r : Req) (s : State) : Host.Outcome State Fault Refusal := command specMrpSet r s

/-- MRP_STATUS_GET (R706): the command from its source. -/
def execMrpStatusGet (r : Req) (s : State) : Host.Outcome State Fault Refusal := command specMrpStatusGet r s

end Sys2Proof.Machine
end

