-- ==== Sys2Proof/Machine/KeyCmds.lean ====
section
/-! DEFINITION. Island requests and the commands of group 0x0B but LIFECYCLE_SET (R539 to R554, R562, R564 to R574), and the rows of the
island, of MKA and of the transmit side. -/

namespace Sys2Proof.Machine

/-! ### Ending a command that waited for the island (R83, R544) -/

/-- The command of source `src` that waits, with the kind of its wait. -/
def waitingFor (s : State) (src : Nat) (kind : WaitKind) : Option Waiting :=
  s.mb.waiting.find? fun w => w.cmd.req.src == src && w.kind == kind

/-- The state in which the command `w` no longer waits. -/
def stopWaiting (s : State) (w : Waiting) : State :=
  s.modMb fun m => { m with waiting := m.waiting.filter fun x => x.cmd.req.src != w.cmd.req.src }

/-- A waiting command ends with its payload; a command that has ended meanwhile discards the result (R543). -/
def answerWaiting (s : State) (src : Option Nat) (kind : WaitKind) (d : State → Done) : State :=
  match src.bind fun n => waitingFor s n kind with
  | none => s
  | some w => let s1 := stopWaiting s w; finishDone s1 w.cmd 0xF (d s1) w.drop 0

/-- A waiting command ends without effect. -/
def failWaiting (s : State) (src : Option Nat) (kind : WaitKind) (status : Nat) : State :=
  match src.bind fun n => waitingFor s n kind with
  | none => s
  | some w => reject (stopWaiting s w) w.cmd w.cmd.level status noDetail w.drop

/-- A request joins the island's queue (R544). -/
def askIsland (s : State) (q : IslandReq) : State := s.modKeys fun k => { k with queue := k.queue ++ [q] }

/-! ### Slot writes (R539 to R542) -/

/-- The bank that a write of a slot goes to (R539). -/
def inactiveBank (s : State) (n : Nat) : Nat := match (keySlot s n).act with
  | some i => 1 - i
  | none => 0

/-- The generation of the next bank (R539). -/
def nextGen (s : State) (n : Nat) : Nat :=
  match selectedBank s n with
  | some b => wrapAdd 32 b.gen 1
  | none =>
    let gs := ((keySlot s n).banks.filterMap id).filter (·.marker)
    if gs.isEmpty then 1 else wrapAdd 32 ((gs.map (·.gen)).foldl max 0) 1

/-- The ports whose CA uses slot `n` as its CAK (R554). -/
def caPorts (s : State) (n : Nat) : List Nat := (List.range 5).filter fun i => (mkaRun s i).ca && (mkaCfg s i).slot == n

/-- The commit marker is written (R539): the written bank is the active bank, KEY_COMMIT is raised, a CA of the slot restarts (R554). -/
def commitBank (s : State) (n : Nat) (b : KeyBank) : State :=
  let i := inactiveBank s n
  let s1 := modSlot s n fun k => { k with banks := k.banks.set i (some { b with marker := true }), act := some i }
  let s2 := raise (s1.modKeys fun k => { k with working := k.working.filter fun w => w.1 != n }) 0xA0 1 noLevel (srcId 0xD n)
    (le 1 n ++ le 1 i ++ le 1 b.source ++ le 1 b.alg ++ le 4 b.gen ++ b.kcv)
  if b.source = 0xF then s2 else (caPorts s2 n).foldl mkaRestart s2

/-- The active bank of an erase-pending slot is zeroized (R542): the tombstone is selected and the slot is empty. -/
def finishErase (s : State) (n : Nat) : State :=
  let k := keySlot s n
  match k.act with
  | none => s
  | some i =>
    let gen := ((bankOf k i).map (·.gen)).getD 0
    let s1 := modSlot s n fun k => { k with
      banks := k.banks.set i none, act := some (1 - i), erasing := false, saGen := none }
    keyErased (s1.modKeys fun x => { x with working := x.working.filter fun w => w.1 != n }) n 0 (2 ^ i) k.eraseUsers gen
      ((s.now - k.eraseAt) / 1000)

/-- An erase runs (R542): the tombstone is committed into the inactive bank, every CA of the slot ends (R554), and the active bank is
zeroized now or when its last user finishes. -/
def runErase (s : State) (n : Nat) : State × List Byte :=
  let k := keySlot s n
  let i := k.act.getD 0
  let gen := nextGen s n
  let users := bankUsers s n i
  let tomb : KeyBank := { source := 0xF, key := zeros 32, tagState := s.lifecycle, tagGen := rootGen s s.lifecycle, gen := gen, kcv := zeros 8, marker := true }
  let s1 := modSlot s n fun k => { k with
    banks := k.banks.set (1 - i) (some tomb), erasing := true, eraseAt := if k.erasing then k.eraseAt else s.now
    eraseUsers := if k.erasing then k.eraseUsers else users }
  let s2 := (caPorts s1 n).foldl mkaStop s1
  (if users = 0 then finishErase s2 n else s2, le 1 n ++ le 1 (b2n (users > 0)) ++ le 4 gen)

/-- A waiting erase that ends without its tombstone (R542): the slot is no longer erase pending. -/
def dropErase (s : State) (q : IslandReq) : State := if q.erase then modSlot s q.slot fun k => { k with erasing := false } else s

/-- Whether an island request can be served: a write waits until its inactive bank has no users (R539, R541). -/
def islandReady (s : State) (q : IslandReq) : Bool := q.kind != 4 || bankUsers s q.slot (inactiveBank s q.slot) == 0

/-- Serve a slot write to its end (R539). `sound`: the bank reads back with its check value. -/
def serveWrite (s : State) (q : IslandReq) (sound : Bool) : State :=
  if q.erase then
    let r := runErase s q.slot
    answerWaiting r.1 q.src .island fun t => { st := t, payload := r.2 }
  else match q.bank with
    | none => s
    | some b =>
      if sound then
        answerWaiting (commitBank s q.slot b) q.src .island fun t => { st := t, payload := q.out }
      else
        failWaiting (modSlot s q.slot fun k => { k with banks := k.banks.set (inactiveBank s q.slot) none }) q.src .island stFault

/-- An MKPDU that the island has checked (R553, R554). -/
def serveMkpdu (s : State) (i : Nat) (m : Mkpdu) : State :=
  let r := mkaRun s i
  if !r.ca ∨ m.ckn ≠ (mkaCfg s i).ckn then s
  else if !m.icvOk then mkaPeer s i 3 m.sci
  else
    let fresh := r.peer.isNone
    let s1 := modMka s i fun r => { r with peer := if m.hearsUs ∨ r.peer = some m.sci then some m.sci else r.peer, peerAt := s.now, peerPrio := m.prio }
    if (mkaRun s1 i).peer ≠ some m.sci then s1 else
    let s2 := if fresh then mkaPeer s1 i 0 m.sci else s1
    let me := (mkaCfg s i).prio
    let server := me < m.prio || (me == m.prio && ownSci (macPort i) < m.sci)
    let s3 := modMka s2 i fun r => { r with server := server }
    let s4 := if server ≠ r.server ∧ !fresh then mkaPeer s3 i 2 m.sci else s3
    if server then (if fresh ∨ !r.server then mkaRekey s4 i else s4)
    else match m.sak with
      | some (kn, an, key) => if kn = r.kn ∧ !fresh then s4 else mkaInstall s4 i (kn % 2 ^ 32) (an % 4) m.sci key
      | none => s4

/-- Serve an island request to its end (R544). -/
def serveIsland (s : State) (q : IslandReq) (sound : Bool) : State :=
  match q.kind with
  | 4 => serveWrite s q sound
  | 5 => match q.pdu with
    | some m => serveMkpdu s q.port m
    | none => s
  | 6 => match q.sa with
    | some (k, sci, a) =>
      let s1 := installSa s q.port k sci a
      let s2 := if a.tx then modSlot s1 q.slot fun x => { x with saGen := (selectedBank s q.slot).map (·.gen) } else s1
      answerWaiting s2 q.src .island fun t => { st := t, payload := q.out, clamps := q.clamps }
    | none => s
  | _ => answerWaiting s q.src .island fun t => { st := t, payload := q.out }

/-- The request that a unit of the island runs (R544): the P-384 unit the oldest signing, the cipher engine the oldest ready request of
the highest level. -/
def islandNext (s : State) (ecdsa : Bool) : Option Nat :=
  let ok := fun (q : IslandReq) => (q.kind == 2) == ecdsa && islandReady s q
  ([1, 2, 3]).findSome? fun l => s.keys.queue.findIdx? fun q => q.level == l && ok q

/-- ISLAND_REQUEST_COMPLETE (R541, R544): the running request of a unit finishes. `answered` is 0 where the island has not answered its
command within 100 ms. -/
def execIslandRequestComplete (ecdsa sound answered : Bool) (s : State) : Host.Outcome State Fault Refusal :=
  match islandNext s ecdsa with
  | none => .next s
  | some i =>
    match s.keys.queue[i]? with
    | none => .next s
    | some q =>
      let s1 := s.modKeys fun k => { k with queue := k.queue.eraseIdx i }
      .next (if answered then serveIsland s1 q sound else failWaiting (dropErase s1 q) q.src .island stTimeout)

/-- SLOT_USERS_DONE (R541, R542): the last user of a bank of slot `n` has finished: an erase-pending bank is zeroized, and a write that
waited for its inactive bank runs. -/
def execSlotUsersDone (n : Nat) (s : State) : Host.Outcome State Fault Refusal :=
  let k := keySlot s n
  let waits := s.keys.queue.any fun q => q.erase && q.slot == n
  let s1 := if n < 64 ∧ k.erasing ∧ !waits ∧ bankUsers s n (k.act.getD 0) = 0 then finishErase s n else s
  match s1.keys.queue.findIdx? fun q => q.kind == 4 && q.slot == n && islandReady s1 q with
  | none => .next s1
  | some i =>
    match s1.keys.queue[i]? with
    | none => .next s1
    | some q => .next (serveWrite (s1.modKeys fun k => { k with queue := k.queue.eraseIdx i }) q true)

/-- Every running island operation is aborted (R543): no output is released, KEY_OP_ABORTED is raised for each. -/
def abortIsland (s : State) (cause : Nat) : State :=
  s.keys.queue.foldl (fun s q =>
    let s := dropErase s q
    raise { s with free := s.free + 1 } 0xA7 4 noLevel (srcId 0xD q.slot)
      (le 1 q.slot ++ le 1 q.kind ++ le 1 cause ++ le 1 q.level ++ le 4 (Config.doneBytes s.free % 2 ^ 32)))
    (s.modKeys fun k => { k with queue := [] })

/-! ### MKA rows (R553, R554) -/

/-- MKPDU_RX (R544, R553): an MKPDU on a MACsec port becomes an island request of level 2. -/
def execMkpduRx (port : Nat) (m : Mkpdu) (s : State) : Host.Outcome State Fault Refusal :=
  match macIdx port with
  | none => .next s
  | some i =>
    if !awake s ∨ !portUp s port ∨ !(mkaRun s i).ca then .next s
    else .next (askIsland s { level := 2, kind := 5, slot := (mkaCfg s i).slot, port := i, pdu := some m })

/-- MKA_HELLO_TIMER (R553): an MKPDU is sent every `HELLO_MS`. -/
def execMkaHelloTimer (port : Nat) (s : State) : Host.Outcome State Fault Refusal :=
  match macIdx port with
  | none => .next s
  | some i =>
    if !awake s ∨ !(mkaRun s i).ca then .next s else
    let s1 := s.until (mkaRun s i).helloAt
    .next (modMka s1 i fun r => { r with
      helloAt := s1.now + (mkaCfg s i).helloMs * 1000000, sent := r.sent + b2n (portUp s port) })

/-- MKA_LIFETIME_EXPIRY (R553, R554): the peer has been silent for its life time of 6 s: it is lost, and the SAs of MKA are retired. -/
def execMkaLifetimeExpiry (port : Nat) (s : State) : Host.Outcome State Fault Refusal :=
  match macIdx port with
  | none => .next s
  | some i =>
    let r := mkaRun s i
    if !awake s ∨ (r.peer.isNone ∧ !((macRun s i).sas.any fun e => e.2.mka)) then .next s else
    let s1 := s.until (r.peerAt + 6 * secondNs)
    .next (zenithRecheck (checkP0 (retireMka (mkaLost s1 i) i [])))

/-! ### Transmit (R337, R547) -/

/-- TRANSMIT_OPPORTUNITY (R337, R547): the scheduler of a point starts the head copy of its highest eligible class. -/
def execTransmitOpportunity (point : Nat) (ecc : EccHit) (s : State) : Host.Outcome State Fault Refusal :=
  .next (if awake s then transmitOpp protect s point ecc else s)

/-! ### Commands of group 0x0B -/

/-- LIFECYCLE_GET (R562). -/
def specLifecycleGet : CmdSpec := {
  opcode := 0x0B00, badLen := lenIs 0,
  body := fun s _ _ =>
    let k := s.keys
    let st := s.lifecycle
    .done {
      st := s
      payload := le 1 st ++ le 1 (b2n k.quarantine + 2 * b2n (fuseBlown s) + 4 * b2n (!k.owner.isEmpty) +
          8 * b2n (st == 0 || st == 1 || st == 3) + 16 * b2n k.window) ++ le 1 k.record.length ++ zeros 1 ++
        le 1 k.tamperCount ++ le 1 k.clearCount ++ le 1 k.latched ++ le 1 k.armed ++
        le 4 (if st = 4 then 0 else rootGen s st) ++ zeros 4 ++ padTo 48 k.owner } }

/-- Whether the module is not RETIRED: commands that need keys return NOT_PERMITTED there. -/
def notRetired (s : State) (_ : Req) : Bool := s.lifecycle != 4

/-- Whether `USAGE` suits `ALG` (R535). -/
def usageOk (alg usage : Nat) : Bool := usage < 128 && (if alg = 1 then usage == 64 || usage == 0 else usage < 64)

/-- KEY_SLOT_WRITE (R539, R564): checked, then an island request of level 3. -/
def specKeySlotWrite : CmdSpec := {
  opcode := 0x0B02, badLen := lenIs 208, permitted := notRetired, needsKeys := fun _ => true,
  body := fun s r p =>
    let n := u p 0 1
    let so := u p 1 1
    let us := u p 2 2
    let alg := u p 4 1
    let par := u p 5 1
    let lv := u p 6 1
    let lens := (List.range lv).map fun i => u p (8 + i) 1
    let bl := u p 144 2
    let want := if so = 1 then (if alg = 1 then 56 else 40) else if so = 3 then (if alg = 1 then 48 else 32) else bl
    let parentOk := if so = 0 then par = 0xFF || slotUsable s par 0 else if so = 1 then slotUsable s par 1 else true
    checked [chkSup (n > 63) 0, chkSup (so > 3) 1, chkSup (alg > 1) 4, chkSup (!usageOk alg us) 2, chkSup (so = 0 && alg = 1) 1,
        chkSup ((so = 0 && par > 63 && par != 0xFF) || (so = 1 && par > 63)) 5, chkSup (so = 0 && (lv < 1 || lv > 4)) 6,
        { bad := so = 0 && lens.any fun l => l < 1 || l > 32, status := stBadLength, off := 8 },
        { bad := bl != want, status := stBadLength, off := 144 },
        { bad := so = 3 && s.lifecycle = 2 && !s.keys.window, status := stNotPermitted, off := 1 },
        chkConf (!parentOk) 5, chkConf (keySlot s n).erasing 0] fun _ =>
      let labels := (List.range lv).map fun i => sub p (16 + 32 * i) (u p (8 + i) 1)
      let ld := if so = 0 ∧ par ≠ 0xFF ∨ so = 1 then loadSlot 3 s par else (s, none)
      let s0 := if so = 2 then { ld.1 with free := ld.1.free + 1 } else ld.1
      let size := if alg = 1 then 48 else 32
      let wrapKey := (ld.2.map (bankKey s0 6)).getD []
      let key : Option (List Byte) := match so with
        | 0 => some []
        | 1 => Config.unwrap wrapKey (sub p 148 bl)
        | 2 => some (padTo size (Config.random s.free))
        | _ => some (sub p 148 size)
      let gen := nextGen s0 n
      let b0 : KeyBank := {
        source := so, alg := alg, usage := us, parent := if so = 0 then par else 0xFF, labels := if so = 0 then labels else []
        key := key.getD [], tagState := s.lifecycle, tagGen := rootGen s s.lifecycle, gen := gen }
      let full := bankKey s0 6 b0
      let b := { b0 with kcv := kcvOf alg full, pub := if alg = 1 then padTo 96 (Config.p384Public full) else [] }
      let max := match selectedBank s0 n with
        | some x => x.gen == 2 ^ 32 - 1
        | none => false
      checked [chkPol (so = 0 && bankDepth s0 6 b0 > 4) 6, chkPol key.isNone 148, chkPol max 0] fun _ =>
        let i := inactiveBank s0 n
        let s1 := if bankUsers s0 n i = 0 then modSlot s0 n fun k => { k with banks := k.banks.set i none } else s0
        .wait .island (askIsland s1 {
          level := 3, kind := 4, slot := n, src := some r.src, bank := some b
          uses := if so = 0 ∧ par ≠ 0xFF ∨ so = 1 then latchOf s0 par else []
          out := le 1 n ++ zeros 3 ++ le 4 gen ++ b.kcv ++ b.pub }) }

/-- KEY_SLOT_ERASE (R542, R565): at once, unless the bank the tombstone goes to still has users: the slot is then erase
pending from this clock, and the tombstone waits for them. -/
def specKeySlotErase : CmdSpec := {
  opcode := 0x0B03, badLen := lenIs 1, permitted := notRetired, needsKeys := fun _ => true,
  body := fun s r p =>
    let n := u p 0 1
    checked [chkSup (n > 63) 0, chkConf ((activeBank s n).isNone || (keySlot s n).erasing) 0] fun _ =>
      if bankUsers s n (inactiveBank s n) = 0 then
        let x := runErase s n
        .done { st := x.1, payload := x.2 }
      else .wait .island (askIsland (modSlot s n fun k => { k with
        erasing := true, eraseAt := s.now, eraseUsers := bankUsers s n (k.act.getD 0) })
          { level := 3, kind := 4, slot := n, src := some r.src, erase := true }) }

/-- KEY_SLOT_INFO (R566). -/
def specKeySlotInfo : CmdSpec := {
  opcode := 0x0B04, badLen := lenIs 1,
  body := fun s _ p =>
    let n := u p 0 1
    checked [chkSup (n > 63) 0] fun _ =>
      let k := keySlot s n
      match activeBank s n with
      | none => .done { st := s, payload := le 1 n ++ zeros 119 }
      | some b =>
        .done {
          st := s
          payload := le 1 n ++ le 1 (if fuseBlown s then 3 else if k.erasing then 2 else 1) ++ le 1 b.source ++ le 1 b.alg ++ le 2 b.usage ++
            le 1 (bankDepth s 6 b) ++ le 1 (min 255 (bankUsers s n (k.act.getD 0))) ++ le 4 b.gen ++
            le 1 (b2n (k.saGen == some b.gen)) ++ zeros 3 ++ padTo 8 b.kcv ++ padTo 96 b.pub } }

/-- KEY_OP (R533, R541, R544, R567). -/
def specKeyOp : CmdSpec := {
  opcode := 0x0B05, bulkIn := true, bulkOut := true, badLen := lenCounted 8 4 2 1, permitted := notRetired, needsKeys := fun _ => true,
  body := fun s r p =>
    let op := u p 0 1
    let n := u p 1 1
    let w := u p 2 1
    let len := u p 4 2
    let data := sub p 8 len
    checked [chkSup (op > 2) 0, chkSup (n > 63) 1, chkSup (op = 1 && w > 63) 2,
        { bad := (op = 0 && (len < 1 || len > 2008)) || (op = 2 && len != 48) || (op = 1 && len != 0), status := stBadLength, off := 4 },
        chkConf (!slotUsable s n (at' [4, 5, 6] op 4)) 1, chkConf (op = 1 && !slotUsable s w 1) 2] fun _ =>
      let a := loadSlot 3 s n
      let c := if op = 1 then loadSlot 3 a.1 w else (a.1, none)
      match a.2, op = 1 && c.2.isNone with
      | none, _ => .failWith stConflict 1 [] a.1
      | _, true => .failWith stConflict 2 [] c.1
      | some b, _ =>
        let key := bankKey c.1 6 b
        let s1 := slotUsed (if op = 2 then { c.1 with free := c.1.free + 1 } else c.1)
        let out := if op = 0 then padTo 16 (Config.cmac key data)
          else if op = 1 then padTo (if b.alg = 1 then 56 else 40) (Config.wrap ((c.2.map (bankKey c.1 6)).getD []) key)
          else padTo 96 (Config.ecdsaSign key data c.1.free)
        .wait .island (askIsland s1 {
          level := 3, kind := op, slot := n, src := some r.src, uses := latchOf s1 n ++ if op = 1 then latchOf s1 w else []
          out := le 1 op ++ le 1 n ++ zeros 2 ++ le 4 b.gen ++ le 2 out.length ++ zeros 6 ++ out }) }

/-- PROVISION_CLOSE (R533, R568). -/
def specProvisionClose : CmdSpec := {
  opcode := 0x0B06, badLen := lenIs 0, permitted := notRetired, needsKeys := fun _ => true,
  body := fun s _ _ =>
    checked [chkConf (s.lifecycle != 2 || !s.keys.window) noDetail] fun _ =>
      .done { st := s.modKeys fun k => { k with window := false } } }

/-- MACSEC_PORT_SET (R569): a change of protection is re-evaluated at the promise (R354) and at the pair link (R679); an engine asks for
its tokens when it is switched on and returns them when it is switched off (R506). -/
def specMacsecPortSet : CmdSpec := {
  opcode := 0x0B07, badLen := lenIs 16,
  body := fun s _ p =>
    match macIdx (u p 0 1) with
    | none => .fail stNotSupported 0
    | some i =>
      let old := macCfg s i
      let win := clampField 8 0 (2 ^ 30 - 1) (u p 8 4)
      let pct := clampField 12 50 99 (u p 12 1)
      let cf := u p 5 1
      checked [chkSup (u p 1 1 > 1) 1, chkSup (u p 2 1 > 1) 2, chkSup (u p 3 1 > 2) 3, chkSup (cf != 0 && cf != 30 && cf != 50) 5,
          chkConf (u p 2 1 != old.suite && !(macRun s i).sas.isEmpty) 2] fun _ =>
        let c : MacCfg := {
          enable := u p 1 1 = 1, suite := u p 2 1, validate := u p 3 1, flags := u p 4 1 % 16, conf := cf, window := win.val, pct := pct.val }
        let s1 := s.modKeys fun k => { k with cfg := { k.cfg with ports := k.cfg.ports.set i c } }
        let s2 := if c.enable = old.enable then s1 else if c.enable then (requestTokens s1 (8 + i) 20).2 else returnTokens s1 (8 + i)
        .done {
          clamps := win.off ++ pct.off
          st := zenithRecheck (checkP0 s2)
          payload := le 1 (u p 0 1) ++ le 1 (u p 1 1) ++ le 1 c.suite ++ le 1 c.validate ++ le 1 c.flags ++ le 1 cf ++ zeros 2 ++
            le 4 win.val ++ le 1 pct.val ++ zeros 3 } }

/-- The SA that a request names. -/
def namedSa (m : MacRun) (tx : Bool) (sc an : Nat) : Option (Nat × MacSa) := m.sas.find? fun e => e.2.tx == tx && e.2.sc == sc && e.2.an == an

/-- MACSEC_SA_SET (R551, R570): an installation goes through the island. -/
def specMacsecSaSet : CmdSpec := {
  opcode := 0x0B08, badLen := lenIs 48, permitted := notRetired, needsKeys := fun _ => true,
  body := fun s r p =>
    match macIdx (u p 0 1) with
    | none => .fail stNotSupported 0
    | some i =>
      let m := macRun s i
      let op := u p 1 1
      let tx := u p 2 1 = 0
      let an := u p 3 1
      let sc := if tx then 63 else u p 4 1
      let n := u p 5 1
      let sci := ub p 8 8
      let pn := clampField 16 1 (pnTop (macCfg s i).suite - 1) (u p 16 8)
      let echo := (p.take 6) ++ zeros 2
      let bound := match tget m.scs sc with
        | some x => x.sci != sci
        | none => false
      let here := namedSa m tx sc an
      let full := (m.sas.filter fun e => e.2.tx == tx && e.2.sc == sc).length ≥ 4
      let once := tx && (activeBank s n).any fun b => (keySlot s n).saGen == some b.gen
      checked [chkSup (op > 2) 1, chkSup (u p 2 1 > 1) 2, chkSup (an > 3) 3, chkSup (!tx && sc > 62) 4, chkSup (op = 0 && n > 63) 5,
          chkConf (op = 0 && !slotUsable s n 3) 5, chkConf (mkaCfg s i).enable 0, chkConf (op = 0 && bound) 8,
          chkConf (op != 0 && here.isNone) 3,
          { bad := op = 0 && (full || (freeSa m).isNone), status := stNoResource, off := 3 }, chkPol (op = 0 && once) 5] fun _ =>
        match op, here, freeSa m with
        | 0, _, some k =>
          let l := loadSlot 3 s n
          match l.2 with
          | none => .failWith stConflict 5 [] l.1
          | some b =>
            let s1 := slotUsed (match here with
              | some (k, _) => retireSa l.1 i k
              | none => l.1)
            let a : MacSa := {
              tx := tx, sc := sc, an := an, key := bankKey l.1 6 b, slot := n, pn := pn.val, next := pn.val, ssci := u p 24 4, salt := sub p 32 12 }
            .wait .island (askIsland s1 {
              level := 3, kind := 6, slot := n, src := some r.src, uses := latchOf s1 n, port := i, sa := some (k, sci, a)
              clamps := pn.off, out := echo ++ le 1 k })
        | 1, some (k, _), _ => .done { st := zenithRecheck (checkP0 (retireSa s i k)), payload := echo ++ le 1 k }
        | _, some (k, _), _ => .done { st := zenithRecheck (activateSa s i k), payload := echo ++ le 1 k }
        | _, none, _ => .fail stConflict 3 }

/-- MKA_SET (R554, R571). -/
def specMkaSet : CmdSpec := {
  opcode := 0x0B09, badLen := lenIs 48, permitted := notRetired, needsKeys := fun _ => true,
  body := fun s _ p =>
    match macIdx (u p 0 1) with
    | none => .fail stNotSupported 0
    | some i =>
      let en := u p 1 1
      let n := u p 2 1
      let cl := u p 4 1
      let hm := clampField 40 500 10000 (u p 40 2)
      let static := (macRun s i).sas.any fun e => !e.2.mka
      checked [chkSup (en > 1) 1, chkSup (n > 63) 2, { bad := cl < 1 || cl > 32, status := stNotSupported, off := 4 },
          chkConf (!slotUsable s n 2) 2, chkConf static 0] fun _ =>
        let c : MkaCfg := { enable := en = 1, slot := n, prio := u p 3 1, ckn := sub p 8 cl, helloMs := hm.val }
        let s1 := mkaStop s i
        let s2 := s1.modKeys fun k => { k with cfg := { k.cfg with mka := k.cfg.mka.set i c } }
        .done {
          clamps := hm.off
          st := if c = mkaCfg s i ∧ (mkaRun s i).ca then s else if c.enable then mkaStart s2 i else s2
          payload := le 1 (u p 0 1) ++ le 1 en ++ le 1 n ++ le 1 c.prio ++ le 1 cl ++ zeros 3 ++ padTo 32 c.ckn ++ le 2 hm.val ++ zeros 6 } }

/-- MACSEC_STATUS_GET (R572). -/
def specMacsecStatusGet : CmdSpec := {
  opcode := 0x0B0A, badLen := lenIs 1,
  body := fun s _ p =>
    match macIdx (u p 0 1) with
    | none => .fail stNotSupported 0
    | some i =>
      let c := macCfg s i
      let m := macRun s i
      let tx := txSa s i
      let mka := if !m.mka.ca then 0 else if m.mka.peer.isNone then 1 else if tx.any fun e => e.2.mka then 3 else 2
      .done {
        st := s
        payload := le 1 (u p 0 1) ++ le 1 (b2n c.enable) ++ le 1 c.suite ++ le 1 mka ++ le 1 (b2n m.mka.server + 2 * b2n (controlledOpen s i)) ++
          le 1 ((tx.map fun e => e.2.an).getD 0xFF) ++ le 1 (m.scs.filter fun e => e.1 < 63).length ++ le 1 m.sas.length ++
          le 8 ((tx.map fun e => e.2.pn).getD 0) ++ be 8 (m.mka.peer.getD 0) } }

/-- MACSEC_COUNTERS_GET (R560, R573). -/
def specMacsecCountersGet : CmdSpec := {
  opcode := 0x0B0B, badLen := lenIs 4,
  body := fun s _ p =>
    match macIdx (u p 0 1) with
    | none => .fail stNotSupported 0
    | some i =>
      let sc := u p 1 1
      let ix := u p 2 1
      let clr := bit (u p 3 1) 0
      let m := macRun s i
      let head := p.take 4 ++ zeros 4
      checked [chkSup (sc > 2) 1, chkSup ((sc = 0 && ix != 0) || (sc = 1 && ix > 63) || (sc = 2 && ix > 127)) 2,
          chkConf ((sc = 1 && !thas m.scs ix) || (sc = 2 && !thas m.sas ix)) 2] fun _ =>
        let out := fun (n : Nat) (cs : List Nat) => head ++ (cs.take n).flatMap (le 8)
        if sc = 0 then .done {
          payload := out 9 m.port
          st := if clr then modMac s i fun m => { m with port := m.port.map fun _ => 0 } else s }
        else if sc = 1 then
          let cs := ((tget m.scs ix).map (·.counters)).getD []
          .done {
            payload := out (if ix = 63 then 4 else 5) cs
            st := if clr then modMac s i fun m => { m with
                scs := m.scs.map fun e => if e.1 = ix then (e.1, { e.2 with counters := e.2.counters.map fun _ => 0 }) else e } else s }
        else
          let a := tget m.sas ix
          .done {
            payload := out (if a.any (·.tx) then 3 else 5) ((a.map (·.counters)).getD [])
            st := if clr then modSa s i ix fun a => { a with counters := a.counters.map fun _ => 0 } else s } }

/-- TAMPER_SET (R556, R574). -/
def specTamperSet : CmdSpec := {
  opcode := 0x0B0C, badLen := lenIs 4,
  permitted := fun s r =>
    let p := r.payload
    s.lifecycle != 4 && !(s.lifecycle == 2 && (setInter (u p 0 1) 0x3F != 0x3F || bit (u p 1 1) 0)),
  body := fun s _ p =>
    let arm := u p 0 1 % 128
    let lat := if bit (u p 1 1) 0 then setInter s.keys.latched (Config.tamperActive s.free) else s.keys.latched
    .done {
      st := { s with free := s.free + 1 }.modKeys fun k => { k with armed := arm, latched := lat }
      payload := le 1 arm ++ le 1 lat } }

/-! ### The rows of these commands -/

/-- LIFECYCLE_GET (R562): the command from its source. -/
def execLifecycleGet (r : Req) (s : State) : Host.Outcome State Fault Refusal := command specLifecycleGet r s

/-- KEY_SLOT_WRITE (R564): the command from its source. -/
def execKeySlotWrite (r : Req) (s : State) : Host.Outcome State Fault Refusal := command specKeySlotWrite r s

/-- KEY_SLOT_ERASE (R565): the command from its source. -/
def execKeySlotErase (r : Req) (s : State) : Host.Outcome State Fault Refusal := command specKeySlotErase r s

/-- KEY_SLOT_INFO (R566): the command from its source. -/
def execKeySlotInfo (r : Req) (s : State) : Host.Outcome State Fault Refusal := command specKeySlotInfo r s

/-- KEY_OP (R567): the command from its source. -/
def execKeyOp (r : Req) (s : State) : Host.Outcome State Fault Refusal := command specKeyOp r s

/-- PROVISION_CLOSE (R568): the command from its source. -/
def execProvisionClose (r : Req) (s : State) : Host.Outcome State Fault Refusal := command specProvisionClose r s

/-- MACSEC_PORT_SET (R569): the command from its source. -/
def execMacsecPortSet (r : Req) (s : State) : Host.Outcome State Fault Refusal := command specMacsecPortSet r s

/-- MACSEC_SA_SET (R570): the command from its source. -/
def execMacsecSaSet (r : Req) (s : State) : Host.Outcome State Fault Refusal := command specMacsecSaSet r s

/-- MKA_SET (R571): the command from its source. -/
def execMkaSet (r : Req) (s : State) : Host.Outcome State Fault Refusal := command specMkaSet r s

/-- MACSEC_STATUS_GET (R572): the command from its source. -/
def execMacsecStatusGet (r : Req) (s : State) : Host.Outcome State Fault Refusal := command specMacsecStatusGet r s

/-- MACSEC_COUNTERS_GET (R573): the command from its source. -/
def execMacsecCountersGet (r : Req) (s : State) : Host.Outcome State Fault Refusal := command specMacsecCountersGet r s

/-- TAMPER_SET (R574): the command from its source. -/
def execTamperSet (r : Req) (s : State) : Host.Outcome State Fault Refusal := command specTamperSet r s

end Sys2Proof.Machine
end

