-- ==== Sys2Proof/Machine/Attest.lean ====
section
/-! DEFINITION. Measurement and attestation (R576 to R602): extensions and the log, the report, SPDM, MCTP control, and the commands of
group 0x0C. -/

namespace Sys2Proof.Machine

/-- The state with its boot and attestation state changed. -/
def State.modBoot (s : State) (f : Boot → Boot) : State := { s with boot := f s.boot }

/-! ### Extensions (R576, R579 to R581) -/

/-- Raise MEASUREMENT (R594); not for kind 16. -/
def raiseMeasure (s : State) (m : MeasRec) : State :=
  if m.kind = 16 then s
  else raise s 0xB1 (if m.kind = 12 ∨ m.kind = 14 then 3 else 0) noLevel (srcId 0xF 0)
    (le 1 m.mreg ++ le 1 m.kind ++ zeros 2 ++ le 4 m.seq ++ m.digest.take 8)

/-- An extension of a register with its record (R576, R579). A full log takes no record and no register is extended without one (R581).
`early`: Meridian time is not running yet. -/
def extendAt (s : State) (mreg kind : Nat) (digest data : List Byte) (early : Bool) : State :=
  let n := s.boot.log.length
  if n ≥ 16384 then s.modBoot fun b => { b with logFull := true }
  else
    let d := padTo 48 digest
    let m : MeasRec := {
      seq := n, mreg := if kind = 16 then 0xFF else mreg, kind := kind, flags := b2n early
      time := if early then s.time.raw * 8 / 5 else s.now, digest := d, data := padTo 48 data }
    let s1 := s.modBoot fun b => { b with
      log := b.log ++ [m]
      mregs := if kind = 16 then b.mregs else b.mregs.modify mreg fun x => padTo 48 (Config.sha384 (x ++ d)) }
    raiseMeasure s1 m

/-- An extension while Meridian time runs. -/
def extend (s : State) (mreg kind : Nat) (digest data : List Byte) : State := extendAt s mreg kind digest data false

/-- An extension whose digest is the SHA-384 of its data (R580). -/
def extendData (s : State) (mreg kind : Nat) (data : List Byte) : State := extend s mreg kind (padTo 48 (Config.sha384 (padTo 48 data))) data

/-! ### The report (R586, R587) -/

/-- Bytes 2 to 27 of the report (R586, R590). -/
def reportCore (s : State) : List Byte :=
  le 1 s.lifecycle ++ le 1 (b2n s.keys.quarantine + 2 * b2n (fuseBlown s) + 4 * b2n s.lode.debugSplit + 8 * b2n (inSplit s) +
    16 * b2n s.host.bundleOk) ++ le 1 s.keys.latched ++ le 1 s.keys.tamperCount ++ le 1 s.keys.clearCount ++ zeros 1 ++
  le 8 Config.serial ++ le 4 s.boot.bootCount ++ le 4 s.boot.resumeCount ++ le 4 s.boot.log.length

/-- The values of the registers that a mask selects. -/
def maskedRegs (s : State) (mask : Nat) : List Byte := (bitList 24 mask).flatMap fun i => at' s.boot.mregs i []

/-- The report but its signature (R586), from one snapshot. -/
def reportBody (s : State) (mask : Nat) (nonce : List Byte) (draw : Nat) : List Byte :=
  le 2 1 ++ reportCore s ++ le 4 mask ++ le 8 s.now ++ padTo 32 nonce ++ padTo 32 (Config.random draw) ++ padTo 48 s.boot.bundleDigest ++
    maskedRegs s mask

/-- Count at a transport (R593). -/
def bootCountAt (s : State) (t pos : Nat) : State :=
  s.modBoot fun b => { b with counters := b.counters.modify t fun c => c.modify pos fun x => satAdd 32 x 1 }

/-- Raise ATTESTATION (R594). -/
def raiseAttest (s : State) (t kind slot mask : Nat) (nonce : List Byte) : State :=
  raise s 0xB4 (if kind ≥ 2 then 2 else 0) noLevel (srcId 0xF 0) (le 1 t ++ le 1 kind ++ le 2 slot ++ le 4 mask ++ padTo 8 nonce)

/-- The outstanding signings that `hit` names are aborted (R543, R587, R602): nothing is sent. -/
def abortSignings (s : State) (hit : Signing → Bool) : State :=
  (s.boot.signings.filter hit).foldl (fun s g => raiseAttest (bootCountAt s g.transport 4) g.transport 3 g.slot g.mask g.nonce)
    (s.modBoot fun b => { b with signings := b.signings.filter fun g => !hit g })

/-! ### SPDM (R589 to R592) -/

/-- The connection of a transport. -/
def spdmConn (s : State) (t conn : Nat) : Option SpdmConn :=
  if t = 1 then some s.boot.pcie else if t = 2 then at' s.boot.tcp conn none else if t = 3 then some s.boot.p0 else none

/-- The state with a connection changed. -/
def modConn (s : State) (t conn : Nat) (f : SpdmConn → SpdmConn) : State :=
  s.modBoot fun b =>
    if t = 1 then { b with pcie := f b.pcie } else if t = 2 then { b with tcp := b.tcp.modify conn fun c => c.map f }
    else { b with p0 := f b.p0 }

/-- A response is sent. -/
def spdmAnswer (s : State) (t conn : Nat) (r : SpdmRsp) : State :=
  let s1 := modConn s t conn fun c => { c with last := some r }
  match r with
  | .error c => if c = 3 then s1 else bootCountAt s1 t 3
  | _ => s1

/-- Certificate chain of a slot (R588). -/
def certChain (s : State) (slot : Nat) : List Byte := if slot = 0 then Config.factoryChain else if slot = 1 then s.boot.chain1 else []

/-- A measurement block (R590). -/
def measBlock (s : State) (i : Nat) : Nat × List Byte :=
  (i, if i ≤ 24 then at' s.boot.mregs (i - 1) [] else if i = 25 then reportCore s else padTo 48 s.boot.bundleDigest)

/-- The measurement blocks that a request names (R590): 0 none, 0xFF all. -/
def measBlocks (s : State) (i : Nat) : List (Nat × List Byte) :=
  if i = 0 then [] else if i = 0xFF then (List.range 26).map fun k => measBlock s (k + 1) else [measBlock s i]

/-- A request that needs a signature joins the queue, unless 8 are outstanding (R592). -/
def askSigning (s : State) (g : Signing) : State :=
  if s.boot.signings.length ≥ 8 then
    let s1 := raiseAttest (bootCountAt s g.transport 2) g.transport 2 g.slot g.mask g.nonce
    if g.transport = 3 then sendOther (pairCount s1 0 12 1) else spdmAnswer s1 g.transport g.conn (.error 3)
  else s.modBoot fun b => { b with signings := b.signings ++ [g] }

/-- Whether a transport takes SPDM messages now (R591, R602). -/
def spdmOpen (s : State) (t conn : Nat) : Bool :=
  awake s && s.host.ready && 1 ≤ t && t ≤ 3 && bit s.boot.spdmFlags (t - 1) &&
    (if t = 1 then s.host.linkUp && !s.host.d3hot else if t = 2 then (at' s.boot.tcp conn none).isSome else s.pair.link)

/-- SPDM_REQUEST (R589 to R592): a request on a transport is answered, or waits for its signature. On P0 it is the oldest request that the
receiver holds (R680). -/
def execSpdmRequest (t conn : Nat) (q : SpdmReq) (s : State) : Host.Outcome State Fault Refusal :=
  match spdmConn s t conn with
  | none => .next s
  | some c =>
    if !spdmOpen s t conn then .next s else
    let s0 := if t = 3 then s.modPair fun p => { p with requests := p.requests.drop 1 } else s
    let s1 := bootCountAt s0 t 0
    let put := fun (s : State) (phase : Nat) (r : SpdmRsp) => spdmAnswer (modConn s t conn fun c => { c with phase := phase }) t conn r
    let needs := fun (k : Nat) (x : State) => if c.phase < k then spdmAnswer s1 t conn (.error 4) else x
    let snap := fun (kind slot mask : Nat) (nonce : List Byte) (blocks : List (Nat × List Byte)) =>
      askSigning { s1 with free := s1.free + 1 } {
        transport := t, conn := conn, kind := kind, slot := slot, mask := mask, nonce := nonce
        body := reportBody s1 mask nonce s1.free, blocks := blocks }
    .next <| match q with
      | .getVersion => put s1 1 .version
      | .getCapabilities => if c.phase ≠ 1 then spdmAnswer s1 t conn (.error 4) else put s1 2 (.capabilities 0x36 17)
      | .negotiate suits =>
        if c.phase ≠ 2 then spdmAnswer s1 t conn (.error 4) else if suits then put s1 3 .algorithms else spdmAnswer s1 t conn (.error 1)
      | .getDigests => needs 3 (spdmAnswer s1 t conn (.digests (1 + 2 * b2n (!s.boot.chain1.isEmpty))
          (padTo 48 (Config.sha384 Config.factoryChain) :: if s.boot.chain1.isEmpty then [] else [padTo 48 (Config.sha384 s.boot.chain1)])))
      | .getCertificate slot off len =>
        let ch := certChain s slot
        needs 3 (if slot > 1 ∨ ch.isEmpty ∨ off ≥ ch.length then spdmAnswer s1 t conn (.error 1)
          else spdmAnswer s1 t conn (.certificate slot ((ch.drop off).take len) (ch.length - off - len)))
      | .challenge slot nonce =>
        needs 3 (if slot > 1 ∨ (certChain s slot).isEmpty then spdmAnswer s1 t conn (.error 1) else snap 1 slot (2 ^ 24 - 1) nonce [])
      | .getMeasurements i signed slot nonce =>
        needs 3 (if i ≠ 0xFF ∧ i > 26 ∨ (signed ∧ (slot > 1 ∨ (certChain s slot).isEmpty)) then spdmAnswer s1 t conn (.error 1)
          else if signed then snap 0 slot (2 ^ 24 - 1) nonce (measBlocks s i)
          else spdmAnswer s1 t conn (.measurements (measBlocks s i) 26 [] []))
      | .other _ => spdmAnswer s1 t conn (.error 7)

/-- SIGNING_COMPLETE (R587, R592): the oldest signing ends, and its report or response is sent. `answered` is 0 where ATTEST_GET's island
request has not ended within 500 ms. -/
def execSigningComplete (answered : Bool) (s : State) : Host.Outcome State Fault Refusal :=
  match s.boot.signings with
  | [] => .next s
  | g :: gs =>
    let s1 := s.modBoot fun b => { b with signings := gs }
    if !answered then
      .next (if g.transport = 0 then failWaiting s1 (some g.src) .signing stTimeout else s1)
    else
      let sig := padTo 96 (Config.ecdsaSign identityKey (Config.sha384 g.body) s1.free)
      let s2 := raiseAttest (bootCountAt { s1 with free := s1.free + 1 } g.transport 1) g.transport g.kind g.slot g.mask g.nonce
      if g.transport = 0 then
        .next (answerWaiting s2 (some g.src) .signing fun t => { st := t, payload := g.body ++ sig })
      else
        .next (spdmAnswer s2 g.transport g.conn
          (if g.kind = 1 then .challengeAuth g.slot g.nonce sig else .measurements g.blocks 26 g.nonce sig))

/-- SPDM_TCP_CONNECTION (R591): a connection to the SPDM port is accepted, refused beyond 4, or closed. -/
def execSpdmTcpConnection (e : TcpEvent) (s : State) : Host.Outcome State Fault Refusal :=
  match e with
  | .opened =>
    if !awake s ∨ !s.host.ready ∨ !bit s.boot.spdmFlags 1 then .next s
    else match (List.range 4).find? fun i => (at' s.boot.tcp i none).isNone with
      | none => .next s
      | some i => .next (s.modBoot fun b => { b with tcp := b.tcp.set i (some {}) })
  | .closed i =>
    .next (abortSignings (s.modBoot fun b => { b with tcp := b.tcp.set i none }) fun g => g.transport == 2 && g.conn == i)

/-- MCTP_CONTROL (R591): Set Endpoint ID (1), Get Endpoint ID (2), Get MCTP Version Support (4), Get Message Type Support (5); any other
command is answered as unsupported (code 5). Responses are laid out as DSP0236 does (PRESUMED, assumption 33). -/
def execMctpControl (cmd eid : Nat) (s : State) : Host.Outcome State Fault Refusal :=
  if !awake s ∨ !s.host.linkUp ∨ s.host.d3hot ∨ !bit s.boot.spdmFlags 0 then .next s
  else
    let s1 := if cmd = 1 ∧ 8 ≤ eid ∧ eid ≤ 254 then s.modBoot fun b => { b with eid := eid } else s
    let out := match cmd with
      | 1 => le 1 0 ++ le 1 (if 8 ≤ eid ∧ eid ≤ 254 then 0 else 0x10) ++ le 1 s1.boot.eid ++ le 1 0
      | 2 => le 1 0 ++ le 1 s1.boot.eid ++ zeros 2
      | 4 => le 1 0 ++ le 1 1 ++ [0xF1#8, 0xF3#8, 0xF1#8, 0x00#8]
      | 5 => le 1 0 ++ le 1 2 ++ le 1 0 ++ le 1 5
      | _ => le 1 5
    .next (s1.modBoot fun b => { b with mctpOut := out })

/-! ### Commands of group 0x0C -/

/-- MEAS_GET (R595). -/
def specMeasGet : CmdSpec := {
  opcode := 0x0C00, bulkOut := true, badLen := lenIs 4,
  body := fun s _ p =>
    let m := u p 0 4 % 2 ^ 24
    .done { st := s, payload := le 4 m ++ le 4 s.boot.log.length ++ maskedRegs s m } }

/-- A log record as it is read (R579). -/
def measRecord (m : MeasRec) : List Byte :=
  le 4 m.seq ++ le 1 m.mreg ++ le 1 m.kind ++ le 2 m.flags ++ le 8 m.time ++ padTo 48 m.digest ++ padTo 48 m.data ++ zeros 16

/-- MEAS_LOG_READ (R596). -/
def specMeasLogRead : CmdSpec := {
  opcode := 0x0C01, bulkOut := true, badLen := lenIs 8,
  body := fun s _ p =>
    let f := u p 0 4
    let n := u p 4 4
    let have_ := s.boot.log.length - f
    checked [chkSup (f > 16383) 0] fun _ =>
      let k := min (max 1 n) have_
      .done {
        st := s, clamps := if n = k then [] else [4]
        payload := le 4 f ++ le 4 k ++ zeros 8 ++ ((s.boot.log.drop f).take k).flatMap measRecord } }

/-- MEAS_EXTEND (R581, R597). -/
def specMeasExtend : CmdSpec := {
  opcode := 0x0C02, badLen := lenIs 112,
  permitted := fun _ r => 19 < u r.payload 0 1,
  body := fun s _ p =>
    let m := u p 0 1
    checked [chkSup (m > 23) 0, { bad := s.boot.log.length ≥ 16384 - 64, status := stNoResource }] fun _ =>
      let s1 := extend s m 15 (sub p 16 48) (sub p 64 48)
      .done { st := s1, payload := le 4 s.boot.log.length ++ padTo 48 (at' s1.boot.mregs m []) } }

/-- ATTEST_GET (R586, R587, R592, R598). -/
def specAttestGet : CmdSpec := {
  opcode := 0x0C03, bulkOut := true, badLen := lenIs 40,
  body := fun s r p =>
    let m := u p 0 4 % 2 ^ 24
    let nonce := sub p 8 32
    let s1 := bootCountAt s 0 0
    if s.boot.signings.length ≥ 8 then .failWith stNoResource noDetail [] (raiseAttest (bootCountAt s1 0 2) 0 2 0 m nonce)
    else .wait .signing (askSigning { s1 with free := s1.free + 1 }
      { transport := 0, src := r.src, kind := 0, mask := m, nonce := nonce, body := reportBody s1 m nonce s1.free }) }

/-- BOOT_STATUS_GET (R593, R599). -/
def specBootStatusGet : CmdSpec := {
  opcode := 0x0C04, badLen := lenIs 0,
  body := fun s _ _ =>
    let b := s.boot
    .done {
      st := s
      payload := le 4 b.bootCount ++ le 4 b.resumeCount ++ (padStages b.stageMs).flatMap (le 4) ++ le 1 b.copy ++ le 1 b.attempt ++ le 1 b.reason ++
        zeros 1 ++ le 4 b.log.length ++ b.counters.flatMap fun c => c.flatMap (le 4) } }
where
  /-- The times of the seven stages. -/
  padStages (l : List Nat) : List Nat := (List.range 7).map fun i => at' l i 0

/-- CERT_GET (R600). -/
def specCertGet : CmdSpec := {
  opcode := 0x0C05, bulkOut := true, badLen := lenIs 12,
  body := fun s _ p =>
    let sl := u p 0 1
    let ch := certChain s sl
    let off := u p 4 4
    let ln := clampField 8 1 65536 (u p 8 4)
    checked [chkSup (sl > 1) 0, chkConf ch.isEmpty 0] fun _ =>
      let part := (ch.drop off).take ln.val
      .done {
        st := s, clamps := if part.length = u p 8 4 then [] else [8]
        payload := le 4 ch.length ++ zeros 4 ++ part } }

/-- The identity public key (R531, R588). -/
def identityPublic : List Byte := padTo 96 (Config.p384Public identityKey)

/-- CERT_SET (R588, R601): slot 1 is written, or erased by an empty payload. -/
def specCertSet : CmdSpec := {
  opcode := 0x0C06, bulkIn := true,
  badLen := fun _ total => if total > 65536 then some 65536 else none,
  permitted := fun s _ => [0, 1, 3].contains s.lifecycle || (s.lifecycle == 2 && s.keys.window),
  body := fun s _ p =>
    checked [chkPol (!p.isEmpty && padTo 96 (Config.leafKey p) != identityPublic) 0] fun _ =>
      .done { st := s.modBoot fun b => { b with chain1 := p }, payload := padTo 48 (Config.sha384 p) } }

/-- SPDM_SET (R602): a transport that is disabled ends its connections and its signings. -/
def specSpdmSet : CmdSpec := {
  opcode := 0x0C07, badLen := lenIs 4,
  body := fun s _ p =>
    let f := u p 0 1 % 8
    let port := clampField 2 1 65535 (u p 2 2)
    let s1 := s.modBoot fun b => { b with
      spdmFlags := f, tcpPort := port.val, spdmSet := true
      pcie := if bit f 0 then b.pcie else {}
      tcp := if bit f 1 then b.tcp else List.replicate 4 none
      p0 := if bit f 2 then b.p0 else {} }
    .done {
      clamps := port.off
      st := abortSignings s1 fun g => g.transport ≠ 0 && !bit f (g.transport - 1)
      payload := le 1 f ++ zeros 1 ++ le 2 port.val } }

/-! ### The rows of these commands -/

/-- MEAS_GET (R595): the command from its source. -/
def execMeasGet (r : Req) (s : State) : Host.Outcome State Fault Refusal := command specMeasGet r s

/-- MEAS_LOG_READ (R596): the command from its source. -/
def execMeasLogRead (r : Req) (s : State) : Host.Outcome State Fault Refusal := command specMeasLogRead r s

/-- MEAS_EXTEND (R597): the command from its source. -/
def execMeasExtend (r : Req) (s : State) : Host.Outcome State Fault Refusal := command specMeasExtend r s

/-- ATTEST_GET (R598): the command from its source. -/
def execAttestGet (r : Req) (s : State) : Host.Outcome State Fault Refusal := command specAttestGet r s

/-- BOOT_STATUS_GET (R599): the command from its source. -/
def execBootStatusGet (r : Req) (s : State) : Host.Outcome State Fault Refusal := command specBootStatusGet r s

/-- CERT_GET (R600): the command from its source. -/
def execCertGet (r : Req) (s : State) : Host.Outcome State Fault Refusal := command specCertGet r s

/-- CERT_SET (R601): the command from its source. -/
def execCertSet (r : Req) (s : State) : Host.Outcome State Fault Refusal := command specCertSet r s

/-- SPDM_SET (R602): the command from its source. -/
def execSpdmSet (r : Req) (s : State) : Host.Outcome State Fault Refusal := command specSpdmSet r s

end Sys2Proof.Machine
end

