-- ==== Sys2Proof/Machine/LodeRun.lean ====
section
/-! DEFINITION. Lodestar: its restart, lockstep and debug attach (R604 to R611), the memory-port arbiter (R615 to R617), sensors (R618 to
R620), the persistent log (R621 to R625), and the commands of group 0x0D but PERF_GET and PERF_SET (R631 to R640). -/

namespace Sys2Proof.Machine

/-- The state with its Lodestar changed. -/
def State.modLode (s : State) (f : Lodestar → Lodestar) : State := { s with lode := f s.lode }

/-! ### The persistent log (R621 to R624) -/

/-- A record is committed in the open block (R623); the 63rd closes the block and the next is opened, the block kept erased ahead
discarding the oldest. -/
def logCommit (s : State) (r : LogRec) : State :=
  let x : LogStored := { rec_ := r, logSeq := s.lode.logSeq, boots := s.boot.bootCount }
  s.modLode fun l =>
    let bs := l.blocks.modify (l.blocks.length - 1) fun b => { b with records := b.records ++ [x] }
    let full := bs.getLast?.any fun b => b.records.length ≥ 63
    { l with
      logSeq := wrapAdd 32 l.logSeq 1, logRecords := wrapAdd 32 l.logRecords 1
      blocks := if full then openNext (bs.modify (bs.length - 1) fun b => { b with closed := true }) else bs }
where
  /-- The next block is opened; with it at most 2,047 blocks keep records. -/
  openNext (bs : List LogBlock) : List LogBlock :=
    let q := bs.getLast?
    let new : LogBlock := { seq := wrapAdd 32 ((q.map (·.seq)).getD 0) 1, index := ((q.map (·.index)).getD 0 + 1) % 2048 }
    (bs ++ [new]).drop (bs.length + 1 - 2047)

/-- A marker record (R621). -/
def logMarker (s : State) (marker lost : Nat) : LogRec :=
  { kind := 2, seq := 0, ev := { type := 0, sev := 0, level := 0, source := 0, time := s.now, payload := [] }
    detail := padTo 14 (le 1 marker ++ le 4 (min lost (2 ^ 32 - 1))), uptimeMs := s.mb.uptimeMs }

/-- A queued record is programmed (R623); a loss is marked once the queue has room again. -/
def programOne (s : State) : State :=
  match s.lode.logQueue with
  | [] => s
  | r :: rs =>
    let s1 := logCommit (s.modLode fun l => { l with logQueue := rs }) r
    if s1.lode.lostRun > 0 then
      s1.modLode fun l => { l with logQueue := l.logQueue ++ [logMarker s1 1 l.lostRun], lostRun := 0 }
    else s1

/-- The whole queue is written out (R511, R518, R623). -/
def flushLog (s : State) : State := (List.range 1100).foldl (fun s _ => programOne s) s

/-- LOG_RECORD_PROGRAM (R623): the oldest queued record is programmed into the open block; no
write begins during the power-fail warning (R511). -/
def execLogRecordProgram (s : State) : Host.Outcome State Fault Refusal := .next (if s.power.on && s.power.state ≤ 1 && !s.power.pfail then programOne s else s)

/-- The log scan at a Lodestar start (R624): a block with records is closed, markers 2 and 0 are written, and the blocks of the last 16 that
fail their CRC raise LOG_BLOCK_BAD. `bad`: indices of blocks found bad. -/
def logStart (s : State) (bad : List Nat) : State :=
  let some_ := s.lode.blocks.getLast?.any fun b => !b.records.isEmpty
  let s1 := if some_ then
      logCommit (s.modLode fun l => { l with
        blocks := logCommit.openNext (l.blocks.modify (l.blocks.length - 1) fun b => { b with closed := true, atStart := true }) }) (logMarker s 2 0)
    else s
  let s2 := logCommit s1 (logMarker s1 0 0)
  let closed := s2.lode.blocks.filter (·.closed)
  let hit := (closed.drop (closed.length - 16)).filter fun b => bad.contains b.index
  let s3 := s2.modLode fun l => { l with blocks := l.blocks.map fun b => if bad.contains b.index ∧ b.closed then { b with bad := true } else b }
  hit.foldl (fun s b => raise s 0xC6 3 noLevel (srcId 0xC 0)
    (le 4 b.seq ++ le 4 b.index ++ le 1 b.records.length ++ zeros 3 ++ le 4 hit.length)) s3

/-! ### The Lodestar-only reset (R27, R85, R514) -/

/-- A Lodestar-only reset begins (R27, R85, R379): `READY` falls, every lock lease is broken, TRDP sessions are lost, a slot write before
its marker is abandoned. The command in execution keeps its place and completes FAULT after the restart. -/
def lodestarReset (s : State) (cause pair : Nat) : State :=
  if s.lode.restart.isSome ∨ !s.power.on then s else
  let s1 := (s.modLode fun l => { l with
    restart := some (cause, pair, s.now), restarts := satAdd 32 l.restarts 1 }).modHost fun h => { h with
      ready := false, resetCause := withBit h.resetCause 5 true }
  let s2 := loseSessions (breakLocks s1 (fun _ => true) 5) (fun _ => true) 2
  (s2.keys.queue.foldl dropErase s2).modKeys fun k => { k with queue := k.queue.filter fun q => q.kind != 4 }

/-- Lodestar runs again (R85, R113, R514, R614, R624, R630): the interrupted commands complete FAULT, `READY` returns, lockstep resumes
where no debugger is attached, Nightwatch starts its first window. -/
def lodestarBack (s : State) (badBlocks : List Nat) (r : Nat × Nat × Nat) : State :=
  let faulted := s.mb.waiting
  let s1 := (s.modMb fun m => { m with waiting := [] }).modHost fun h => { h with ready := true }
  let s2 := faulted.foldl (fun s w =>
    finish (mbFault s w.cmd 2 stFault 0) w.cmd { level := w.cmd.level, status := stFault } [] w.drop) s1
  let s3 := logStart (s2.modLode fun l => { l with
    restart := none
    decoupled := (l.decoupled.zip l.attached).map fun x => x.1 && x.2
    nw := { l.nw with window := 2000, openPct := 0, start := s.time.aon } }) badBlocks
  raise s3 0xC3 4 noLevel (srcId 0xC 0)
    (le 1 r.1 ++ le 1 r.2.1 ++ zeros 2 ++ le 4 (min ((s.now - r.2.2) / 1000000) (2 ^ 32 - 1)) ++ le 4 s.lode.restarts ++ le 2 faulted.length)

/-- Pair takeover is barred (R608, R609). -/
def barTakeover (s : State) : State := stampPair s (setReason (s.modPair fun p => { p with barred := true }) 5 true)

/-- Whether a pair's comparator runs (R605, R609, R610). -/
def comparing (s : State) (pair : Nat) : Bool := s.power.on && !s.lode.splitMode && !at' s.lode.decoupled pair true

/-- A mismatch (R605, R606, R686): the output is blocked, LOCKSTEP_ERROR is raised, the unit is faulty towards its pair partner, and a
Lodestar-only reset begins. `word` is the address of the blocked output, or the two captured words of group 8. -/
def lockstepError (s : State) (pair group word : Nat) : State :=
  let s1 := s.modLode fun l => { l with lockErrors := l.lockErrors.modify pair fun x => satAdd 32 x 1 }
  let s2 := raise s1 0xC0 6 noLevel (srcId 0xC pair)
    (le 1 pair ++ le 1 group ++ zeros 2 ++ le 4 (at' s1.lode.lockErrors pair 0) ++ le 8 word)
  lodestarReset (stampPair s2 (declareFaulty s2 1 s.gw.cycle false)) 1 pair

/-- DEBUG_ATTACH (R609, R686): refused on a closed port; on an open one the pair's checker is decoupled. -/
def execDebugAttach (pair : Nat) (s : State) : Host.Outcome State Fault Refusal :=
  if pair > 1 ∨ !awake s then .next s
  else if s.lifecycle = 2 ∨ s.lifecycle = 4 then .next (s.modLode fun l => { l with refused := satAdd 32 l.refused 1 })
  else
    let s1 := s.modLode fun l => { l with
      debugSplit := true, pairSplit := l.pairSplit.set pair true, decoupled := l.decoupled.set pair true, attached := l.attached.set pair true
      attaches := wrapAdd 32 l.attaches 1 }
    let seq := s1.boot.log.length
    let s2 := raise s1 0xC1 4 noLevel (srcId 0xC pair) (le 1 pair ++ le 1 s.lifecycle ++ zeros 2 ++ le 4 seq ++ le 4 s1.lode.attaches)
    let s3 := barTakeover (extendData s2 12 12 (le 1 pair ++ le 8 s.now))
    .next (stampPair s3 (declareFaulty s3 2 s.gw.cycle false))

/-- DEBUG_DETACH (R609): the session ends; lockstep stays split until the next Lodestar start. -/
def execDebugDetach (pair : Nat) (s : State) : Host.Outcome State Fault Refusal :=
  .next (s.modLode fun l => { l with attached := l.attached.set pair false })

/-! ### The memory-port arbiter (R616, R617) -/

/-- The requester that the arbiter grants (R616) among those of a mask: the lowest code at its limit, else the highest `PRIO`, round robin
after the last granted. -/
def memGrant (s : State) (mask : Nat) : Option (Nat × Bool) :=
  let l := s.lode
  let req := bitList 12 mask
  match req.find? fun r => (at' l.cfg.shares r ⟨0, 255⟩).limit ≤ (at' l.shares r {}).wait with
  | some r => some (r, true)
  | none =>
    let top := (req.map fun r => (at' l.cfg.shares r ⟨0, 255⟩).prio).foldl max 0
    let order := (List.range 12).map fun k => (l.lastGrant + 1 + k) % 12
    (order.find? fun r => req.contains r && (at' l.cfg.shares r ⟨0, 255⟩).prio == top).map fun r => (r, false)

/-- MEMPORT_BURST_BOUNDARY (R616): the open burst ends, and the port is granted among the requesters of `mask`. -/
def execMemportBurstBoundary (mask addr : Nat) (s : State) : Host.Outcome State Fault Refusal :=
  if !awake s then .next s else
  match memGrant s mask with
  | none => .next (s.modLode fun l => { l with burst := none })
  | some (r, forced) =>
    let s1 := s.modLode fun l => { l with
      burst := some (r, s.now, addr), lastGrant := r
      shares := (List.range 12).map fun k =>
        let x := at' l.shares k {}
        if k = r then { x with wait := 0, bursts := wrapAdd 64 x.bursts 1, forced := if forced then satAdd 32 x.forced 1 else x.forced }
        else if bit mask k then { x with wait := satAdd 16 x.wait 1, peak := max x.peak (satAdd 16 x.wait 1) } else x }
    let s2 := perfCount (perfCount s1 0x70 1) (0x100 + r) 1
    .next (if forced then perfCount s2 0x71 1 else s2)

/-- The stuck requester that a bite finds (R613): one that has held its burst open for more than 100 µs. -/
def stuckReq (s : State) : Option (Nat × Nat × Nat) := s.lode.burst.filter fun b => b.2.1 + 100000 < s.now

/-- The waiting command ends with FAULT, `CAUSE` 1 (R611, R617). -/
def faultExecuting (s : State) : State :=
  match s.mb.waiting with
  | [] => s
  | w :: _ => reject (stopWaiting s w) w.cmd w.cmd.level stFault noDetail w.drop

/-- Frames in the overflow region are discarded (R611, R617). -/
def discardRegion (s : State) (ids : List Nat) : State :=
  ids.foldl (fun s id => match transitOf s id with
    | some t => (t.copies.filter fun c => c.state == .queued).foldl (fun s c => discardBad s id c) s
    | none => s) s

/-- The restart of the owner of a stuck requester (R617), but for codes 0, 1 and 11. -/
def restartOwner (s : State) (r : Nat) : State :=
  match r with
  | 2 => discardRegion s s.fab.region
  | 3 => s.modHor fun h => { h with spillBuf := h.spillBuf.drop 1 }
  | 4 => faultExecuting s
  | 7 => s.modLeg fun l => { l with engines := l.engines.map fun e => if e.restart.isSome then { e with restartAt := s.now } else e }
  | 8 => s.modPair fun p => { p with copy := none }
  | 10 => s.modLode fun l => { l with attached := [false, false] }
  | _ => s

/-- The memory controller is reset and the owner of a stuck requester restarts (R617). -/
def memStuck (s : State) (b : Nat × Nat × Nat) : State :=
  let r := b.1
  let s1 := s.modLode fun l => { l with burst := none, shares := l.shares.modify r fun x => { x with stuck := satAdd 16 x.stuck 1 } }
  let s2 := if r ≤ 1 then lodestarReset s1 3 r else restartOwner s1 r
  raise s2 0xC4 5 noLevel (srcId 0xC (64 + r)) (le 1 r ++ le 1 r ++ zeros 2 ++ le 4 (min ((s.now - b.2.1) / 1000) (2 ^ 32 - 1)) ++ le 8 b.2.2)

/-! ### Errors in Lodestar memory (R611) -/

/-- An error in SRAM (memory 0, 1) or LPDDR (2) met by a requester (R611). `obj` names what its reader held: the overflow frame, the spilled
session, the bus engine. -/
def eccError (s : State) (memory requester addr obj : Nat) (uncorrected : Bool) : State :=
  let src := srcId 0xC (if memory < 2 then memory else 64 + requester)
  let pay := fun (n : Nat) => le 1 memory ++ le 1 (b2n uncorrected) ++ le 1 requester ++ le 1 requester ++ le 8 addr ++ le 4 n
  if !uncorrected then
    raiseSampled (s.modLode fun l => { l with eccOk := satAdd 32 l.eccOk 1 }) 0xC5 1 noLevel src pay
  else
    let s1 := s.modLode fun l => { l with eccBad := satAdd 32 l.eccBad 1 }
    let s2 := raise s1 0xC5 4 noLevel src (pay s1.lode.eccBad)
    if memory < 2 then lodestarReset s2 2 memory
    else match requester with
    | 0 => lodestarReset s2 2 0
    | 1 => lodestarReset s2 2 1
    | 2 => discardRegion s2 (if s2.fab.region.contains obj then [obj] else [])
    | 3 => s2.modHor fun h => { h with spilled := tdel h.spilled obj }
    | 4 => faultExecuting s2
    | 7 => modEngine s2 obj fun e => if e.restart.isSome then { e with restartAt := s2.now } else e
    | 8 => s2.modPair fun p => { p with copy := none }
    | 9 => s2.modBoot fun b => { b with logFull := true }
    | _ => s2

/-! ### Sensors (R618 to R620) -/

/-- Nominal voltages of the rails in mV (R618). -/
def railNominal (r : Nat) : Nat := at' [800, 750, 800, 850, 900, 1200, 1800, 3300, 1050, 500, 1800, 1800, 1800, 3300] r 0

/-- Whether a sensor exists (R618). -/
def sensorOk (i : Nat) : Bool := (2 ≤ i && i ≤ 9) || (16 ≤ i && i ≤ 29) || (32 ≤ i && i ≤ 36)

/-- Whether a sensor has thresholds (R619). -/
def hasThreshold (i : Nat) : Bool := (2 ≤ i && i ≤ 9) || (16 ≤ i && i ≤ 29)

/-- Default thresholds (R619), temperatures in 0.125 °C. -/
def defThreshold (i : Nat) : Threshold :=
  if i = 2 then ⟨680, -320, 16⟩ else if i ≤ 4 then ⟨880, -320, 16⟩ else if i ≤ 9 then ⟨800, -320, 16⟩
  else let n : Int := railNominal (i - 16); ⟨n + n * 3 / 100, n - n * 3 / 100, n / 100⟩

/-- Thresholds of a sensor in force. -/
def threshold (s : State) (i : Nat) : Threshold := tgetD s.lode.cfg.thresholds i (defThreshold i)

/-- Raise SENSOR_THRESHOLD (R630) and count the crossing. -/
def sensorEvent (s : State) (i kind : Nat) (v t : Int) (r : SensorRun) : State :=
  let r1 := { r with crossings := wrapAdd 32 r.crossings 1 }
  raise (s.modLode fun l => { l with sensors := tset l.sensors i r1 }) 0xC2 (if kind = 2 then 1 else 3) noLevel (srcId 0xC i)
    (le 1 i ++ le 1 kind ++ zeros 2 ++ le 4 (ofInt 32 v) ++ le 4 (ofInt 32 t) ++ le 4 r1.crossings)

/-- SENSOR_SAMPLE (R618, R619): a sample is taken; the third in a row beyond a threshold, or back inside, raises an event. Samples of the
supply go to the power controller too (R521). -/
def execSensorSample (id : Nat) (value : Int) (s : State) : Host.Outcome State Fault Refusal :=
  if !awake s ∨ !sensorOk id then .next s else
  let s1 := s.modLode fun l => { l with samples := tset l.samples id value }
  let s2 := s1.modPow fun p =>
    if id = 32 then { p with inputMv := value.toNat } else if id = 33 then { p with inputMa := value.toNat } else p
  if !hasThreshold id then .next s2 else
  let t := threshold s2 id
  let r0 := tgetD s2.lode.sensors id {}
  let r := { r0 with
    above := if value > t.high then r0.above + 1 else 0
    below := if value < t.low then r0.below + 1 else 0
    inside := if value ≤ t.high - t.hyst ∧ t.low + t.hyst ≤ value then r0.inside + 1 else 0 }
  let s3 := s2.modLode fun l => { l with sensors := tset l.sensors id r }
  .next <|
    if r.above ≥ 3 ∧ r.state ≠ 1 then sensorEvent s3 id 0 value t.high { r with state := 1 }
    else if r.below ≥ 3 ∧ r.state ≠ 2 then sensorEvent s3 id 1 value t.low { r with state := 2 }
    else if r.inside ≥ 3 ∧ r.state ≠ 0 then
      sensorEvent s3 id 2 value (if r.state = 1 then t.high else t.low) { r with state := 0 }
    else s3

/-- Whether a flash write of the update path is in progress (R511). -/
def flashWriting (s : State) : Bool := !s.upd.write.isEmpty || s.upd.stage == 4 || s.upd.stage == 7

/-- HOLDUP_CAP_MEASURE (R620): the capacitance from the measured load (0.1 W) and the bank voltages (mV) at the start and the end of 2 ms;
none while the power-fail warning is active or a flash write of the update path is in progress. -/
def execHoldupCapMeasure (loadDw v1 v2 : Nat) (s : State) : Host.Outcome State Fault Refusal :=
  if !s.power.on ∨ s.power.state ≠ 0 ∨ s.power.pfail ∨ flashWriting s ∨ v1 ≤ v2 then .next s else
  .next (s.modLode fun l => { l with samples := tset l.samples 35 ((loadDw * 40000000000 / (88 * (v1 * v1 - v2 * v2)) : Nat) : Int) })

/-! ### Commands of group 0x0D -/

/-- LODESTAR_STATUS_GET (R631). -/
def specLodestarStatusGet : CmdSpec := {
  opcode := 0x0D00, badLen := lenIs 0,
  body := fun s _ _ =>
    let l := s.lode
    .done {
      st := { s with free := s.free + 1 }
      payload := le 1 (b2n l.splitMode) ++ le 1 (b2n (at' l.pairSplit 0 false) + 2 * b2n (at' l.pairSplit 1 false) + 4 * b2n l.testBad +
          8 * b2n l.splitOption + 16 * b2n (s.pair.barred || bit s.pair.reasons 5)) ++ zeros 2 ++ le 4 l.testFail ++
        le 4 (at' l.lockErrors 0 0) ++ le 4 (at' l.lockErrors 1 0) ++ le 4 l.restarts ++ le 4 l.eccOk ++ le 4 l.eccBad ++ le 4 l.nw.services ++
        le 4 l.logRecords ++ le 4 l.logLost ++ le 4 l.refused ++
        ((List.range 4).flatMap fun k => if !l.splitMode ∧ k % 2 = 1 then zeros 1 else le 1 (Config.coreLoad s.free k % 101)) ++
        le 8 s.mb.uptimeMs } }

/-- LODESTAR_MODE_SET (R610, R632). -/
def specLodestarModeSet : CmdSpec := {
  opcode := 0x0D01, badLen := lenIs 1, permitted := fun s _ => s.lifecycle ≤ 1,
  body := fun s _ p =>
    let x := u p 0 1
    checked [chkSup (x > 1) 0] fun _ =>
      .done { st := s.modLode fun l => { l with splitOption := x = 1 }, payload := le 1 x ++ le 1 (b2n s.lode.splitMode) } }

/-- SENSOR_GET (R633). -/
def specSensorGet : CmdSpec := {
  opcode := 0x0D02, bulkOut := true, badLen := lenIs 2,
  body := fun s _ p =>
    let f := u p 0 1
    let c := clampField 1 1 (37 - f) (u p 1 1)
    checked [chkSup (f > 36) 0] fun _ =>
      .done {
        st := s, clamps := c.off
        payload := le 1 f ++ le 1 c.val ++ zeros 2 ++ (List.range c.val).flatMap fun k =>
          let i := f + k
          let v := tgetD s.lode.samples i 0
          let t := threshold s i
          le 1 i ++ le 1 (b2n (hasThreshold i && v > t.high) + 2 * b2n (hasThreshold i && v < t.low) + 4 * b2n (!sensorOk i)) ++ zeros 2 ++
            le 4 (ofInt 32 v) } }

/-- SENSOR_THRESHOLD_SET (R619, R634). -/
def specSensorThresholdSet : CmdSpec := {
  opcode := 0x0D03, badLen := lenIs 16,
  body := fun s _ p =>
    let i := u p 0 1
    let n : Int := railNominal (i - 16)
    let temp : Bool := i ≤ 9
    let cl := fun (off : Nat) (lo hi x : Int) => (max lo (min hi x), if lo ≤ x ∧ x ≤ hi then ([] : List Nat) else [off])
    let hi := cl 4 (if temp then -440 else 0) (if temp then 1200 else 2 * n) (toInt 32 (u p 4 4))
    let lo := cl 8 (if temp then -440 else 0) (if temp then 1200 else 2 * n) (toInt 32 (u p 8 4))
    let hy := cl 12 0 (if temp then 160 else n / 10) (toInt 32 (u p 12 4))
    checked [chkSup (!hasThreshold i) 0, chkPol (hi.1 < lo.1) 4] fun _ =>
      .done {
        clamps := hi.2 ++ lo.2 ++ hy.2
        st := s.modLode fun l => { l with cfg := { l.cfg with thresholds := tset l.cfg.thresholds i ⟨hi.1, lo.1, hy.1⟩ } }
        payload := le 1 i ++ zeros 3 ++ le 4 (ofInt 32 hi.1) ++ le 4 (ofInt 32 lo.1) ++ le 4 (ofInt 32 hy.1) } }

/-- Raw counts of a number of milliseconds. -/
def msCounts (ms : Nat) : Nat := ms * 625000

/-- NIGHTWATCH_SET (R612, R614, R635): in force from the next valid service. -/
def specNightwatchSet : CmdSpec := {
  opcode := 0x0D04, badLen := lenIs 8,
  body := fun s _ p =>
    let w := clampField 0 10 60000 (u p 0 4)
    let o := clampField 4 0 90 (u p 4 1)
    let left := (s.lode.nw.start + msCounts s.lode.nw.window - s.time.aon) / 625000
    .done {
      clamps := w.off ++ o.off
      st := s.modLode fun l => { l with cfg := { l.cfg with nw := { windowMs := w.val, openPct := o.val } } }
      payload := le 4 w.val ++ le 1 o.val ++ zeros 3 ++ le 4 left } }

/-- A log record as LOG_READ gives it (R621, R636). -/
def logRecord (x : LogStored) : List Byte :=
  let r := x.rec_
  let ev := if r.kind = 0 then eventBytes r.ev r.seq false else zeros 8 ++ le 8 r.ev.time ++ zeros 16
  ev ++ le 4 x.logSeq ++ le 4 x.boots ++ le 8 (r.uptimeMs * 1000) ++ padTo 14 r.detail ++ le 1 r.kind ++ zeros 1

/-- LOG_READ (R624, R636). -/
def specLogRead : CmdSpec := {
  opcode := 0x0D05, bulkOut := true, badLen := lenIs 8,
  body := fun s _ p =>
    let from_ := u p 0 4
    let c := clampField 4 1 129024 (u p 4 4)
    let all := s.lode.blocks.flatMap fun b => b.records.map fun r => (b.bad, r)
    let next := s.lode.logSeq
    let oldest := (all.head?.map (·.2.logSeq)).getD next
    let newest := if all.isEmpty then (next + 2 ^ 32 - 1) % 2 ^ 32 else ((all.getLast?.map (·.2.logSeq)).getD 0)
    let off : Nat := (from_ + 2 ^ 32 - oldest) % 2 ^ 32
    let skip := if off ≥ 2 ^ 31 then 0 else off
    let got := (all.drop skip).take c.val
    .done {
      st := s, clamps := c.off
      payload := le 4 ((got.head?.map (·.2.logSeq)).getD next) ++ le 4 got.length ++ le 4 oldest ++ le 4 newest ++
        got.flatMap fun x => le 4 (b2n x.1) ++ logRecord x.2 } }

/-- LOG_SET (R625, R637). -/
def specLogSet : CmdSpec := {
  opcode := 0x0D06, badLen := lenIs 1,
  body := fun s _ p =>
    let v := clampField 0 0 7 (u p 0 1)
    .done { clamps := v.off, st := s.modLode fun l => { l with cfg := { l.cfg with logMinSev := v.val } }, payload := le 1 v.val } }

/-- MEMPORT_SET (R616, R638). -/
def specMemportSet : CmdSpec := {
  opcode := 0x0D07, badLen := lenIs 3,
  body := fun s _ p =>
    let r := u p 0 1
    let pr := clampField 1 0 3 (u p 1 1)
    let li := clampField 2 1 255 (u p 2 1)
    checked [chkSup (r > 11) 0] fun _ =>
      .done {
        clamps := pr.off ++ li.off
        st := s.modLode fun l => { l with cfg := { l.cfg with shares := l.cfg.shares.set r ⟨pr.val, li.val⟩ } }
        payload := le 1 r ++ le 1 pr.val ++ le 1 li.val } }

/-- MEMPORT_GET (R639). -/
def specMemportGet : CmdSpec := {
  opcode := 0x0D08, badLen := lenIs 1,
  body := fun s _ p =>
    let out := (List.range 12).flatMap fun r =>
      let c := at' s.lode.cfg.shares r ⟨0, 255⟩
      let x := at' s.lode.shares r {}
      le 1 r ++ le 1 c.prio ++ le 1 c.limit ++ zeros 1 ++ le 8 x.bursts ++ le 4 x.forced ++ le 2 x.peak ++ le 2 x.stuck
    .done {
      payload := out
      st := if bit (u p 0 1) 0 then s.modLode fun l => { l with shares := l.shares.map fun x => { wait := x.wait, peak := x.wait } } else s } }

/-- PORT_BW_GET (R629, R640). -/
def specPortBwGet : CmdSpec := {
  opcode := 0x0D09, badLen := lenIs 0,
  body := fun s _ _ =>
    .done {
      st := s
      payload := le 4 s.host.bwSeq ++ le 4 s.host.bwWindowMs ++ (List.range 34).flatMap fun p =>
        let b := at' s.host.bw p {}
        le 8 b.lastOut.bytes ++ le 4 b.lastOut.frames ++ le 8 b.lastIn.bytes ++ le 4 b.lastIn.frames } }

/-! ### The rows of these commands -/

/-- LODESTAR_STATUS_GET (R631): the command from its source. -/
def execLodestarStatusGet (r : Req) (s : State) : Host.Outcome State Fault Refusal := command specLodestarStatusGet r s

/-- LODESTAR_MODE_SET (R632): the command from its source. -/
def execLodestarModeSet (r : Req) (s : State) : Host.Outcome State Fault Refusal := command specLodestarModeSet r s

/-- SENSOR_GET (R633): the command from its source. -/
def execSensorGet (r : Req) (s : State) : Host.Outcome State Fault Refusal := command specSensorGet r s

/-- SENSOR_THRESHOLD_SET (R634): the command from its source. -/
def execSensorThresholdSet (r : Req) (s : State) : Host.Outcome State Fault Refusal := command specSensorThresholdSet r s

/-- NIGHTWATCH_SET (R635): the command from its source. -/
def execNightwatchSet (r : Req) (s : State) : Host.Outcome State Fault Refusal := command specNightwatchSet r s

/-- LOG_READ (R636): the command from its source. -/
def execLogRead (r : Req) (s : State) : Host.Outcome State Fault Refusal := command specLogRead r s

/-- LOG_SET (R637): the command from its source. -/
def execLogSet (r : Req) (s : State) : Host.Outcome State Fault Refusal := command specLogSet r s

/-- MEMPORT_SET (R638): the command from its source. -/
def execMemportSet (r : Req) (s : State) : Host.Outcome State Fault Refusal := command specMemportSet r s

/-- MEMPORT_GET (R639): the command from its source. -/
def execMemportGet (r : Req) (s : State) : Host.Outcome State Fault Refusal := command specMemportGet r s

/-- PORT_BW_GET (R640): the command from its source. -/
def execPortBwGet (r : Req) (s : State) : Host.Outcome State Fault Refusal := command specPortBwGet r s

end Sys2Proof.Machine
end

