-- ==== Sys2Proof/Machine/UpdOps.lean ====
section
/-! DEFINITION. The package, the flash of the update path and the settings generations (R643 to R652, R657 to R659). -/

namespace Sys2Proof.Machine

/-- The state with its update engine changed. -/
def State.modUpd (s : State) (f : Update → Update) : State := { s with upd := f s.upd }

/-! ### Blocks (R643, R648) -/

/-- Bytes of a block. -/
def blockSize : Nat := 65536

/-- Blocks of a package of `len` bytes (R648). -/
def pkgBlocks (len : Nat) : Nat := (len + 65535) / 65536

/-- Length of package block `i` (R648). -/
def pkgBlockLen (len i : Nat) : Nat := min 65536 (len - 65536 * i)

/-- The package blocks not yet verified, in order. -/
def missingList (s : State) : List Nat := bitList (pkgBlocks s.upd.len) s.upd.missing

/-- `FIRST_MISSING` (R663). -/
def firstMissing (s : State) : Nat := ((missingList s).head?).getD 0xFFFFFFFF

/-- The bit set of `n` ones. -/
def ones (n : Nat) : Nat := 2 ^ n - 1

/-- The staged package (R643): its blocks joined. -/
def stagedPackage (s : State) : List Byte :=
  ((List.range (pkgBlocks s.upd.len)).flatMap fun i => tgetD s.upd.staged i []).take s.upd.len

/-! ### The header (R646) -/

/-- The first unit entry that a header holds at place `k`. -/
def unitEntry (h : List Byte) (k : Nat) : UnitEntry :=
  let o := 32 + 96 * k
  { unit := u h o 1, present := bit (u h (o + 1) 1) 0, kept := bit (u h (o + 1) 1) 1, version := u h (o + 4) 4, sec := u h (o + 8) 4
    off := u h (o + 12) 4, len := u h (o + 16) 4, dest := u h (o + 20) 4, digest := sub h (o + 32) 48 }

/-- The unit entries in use: the first `UNIT_COUNT`. -/
def unitEntries (h : List Byte) : List UnitEntry := (List.range (min 10 (u h 12 1))).map (unitEntry h)

/-- The entry of a unit. -/
def entryOf (h : List Byte) (n : Nat) : Option UnitEntry := (unitEntries h).find? fun e => e.unit == n

/-- The bytes of a unit that a package carries. -/
def unitBytes (pkg : List Byte) (e : UnitEntry) : List Byte := (pkg.drop e.off).take e.len

/-- The units that a package carries, as a set of codes. -/
def unitSet (h : List Byte) : Nat := (((unitEntries h).filter (·.present)).map fun e => 2 ^ e.unit).sum

/-- Whether a package has a next-reset unit (R645). -/
def nextReset (h : List Byte) : Bool := (unitEntries h).any fun e => e.present && [0, 1, 8, 9].contains e.unit

/-! ### What flash holds -/

/-- A block of the image area. -/
def imageBlock (s : State) (i : Nat) : List Byte := match tget s.upd.image i with
  | some b => b
  | none => Config.factoryImage i

/-- The image manifest (R646): the header in image-area block 0. -/
def manifest (s : State) : List Byte := (imageBlock s 0).take 1088

/-- A loader copy. -/
def loaderCopy (s : State) (c : Nat) : LoaderCopy := match at' s.upd.copies c none with
  | some l => l
  | none => let v := Config.factoryLoaderVer c; { image := Config.factoryLoader c, version := v.1, sec := v.2 }

/-- A bundle generation. -/
def bundleGen (s : State) (i : Nat) : Option BundleGen := at' s.upd.bundles i none

/-- The highest generation number of a bundle in flash. -/
def topBundle (s : State) : Nat := ((s.upd.bundles.filterMap id).map (·.gen)).foldl max 0

/-- The owner hash that a bundle's signature is held against (R646): none in BLANK. -/
def ownerOf (s : State) : List Byte := if s.lifecycle = 0 then [] else s.keys.owner

/-! ### The new image (R650, R652) -/

/-- A byte string with another written over it from offset `off`. -/
def overlay (base : List Byte) (off : Nat) (x : List Byte) : List Byte := base.take off ++ x ++ base.drop (off + x.length)

/-- The part of a unit that lies in image-area block `i`, written over the block. -/
def overlayUnit (i : Nat) (base : List Byte) (dest : Nat) (data : List Byte) : List Byte :=
  let lo := max dest (65536 * i)
  let hi := min (dest + data.length) (65536 * (i + 1))
  if lo < hi then overlay base (lo - 65536 * i) ((data.drop (lo - dest)).take (hi - lo)) else base

/-- The new content of image-area block `i` under a package: the units it carries at their places, and the header at block 0. Bytes that
no unit covers keep their content (assumption 36). -/
def newBlock (s : State) (pkg : List Byte) (i : Nat) : List Byte :=
  let old := imageBlock s i
  if i = 0 then overlay old 0 (pkg.take 1088)
  else ((unitEntries pkg).filter fun e => e.present && 1 ≤ e.unit && e.unit ≤ 8).foldl (fun b e => overlayUnit i b e.dest (unitBytes pkg e)) old

/-- The image-area blocks whose content changes, in ascending order with the manifest block last (R650, R652). -/
def changedBlocks (s : State) (pkg : List Byte) : List Nat :=
  (((List.range 1024).drop 1) ++ [0]).filter fun i => newBlock s pkg i != imageBlock s i

/-! ### Verification (R650) -/

/-- Whether the entries of a header are consistent (check 1 of R650). -/
def entriesSound (h : List Byte) (len : Nat) : Bool :=
  let es := unitEntries h
  let img := es.filter fun e => e.present && 1 ≤ e.unit && e.unit ≤ 8
  1 ≤ u h 12 1 && u h 12 1 ≤ 10 && es.all (fun e => e.unit ≤ 9) && (es.map (·.unit)).Nodup &&
    es.all (fun e => !e.present || e.off + e.len ≤ len) &&
    img.all (fun e => e.dest % 65536 == 0 && 65536 ≤ e.dest && e.dest + e.len ≤ 67108864) &&
    (img.Pairwise fun a b => a.dest + a.len ≤ b.dest ∨ b.dest + b.len ≤ a.dest)

/-- The digest of a unit now in place (R650): from the manifest for units 1 to 8, of the copy that booted and of the bundle in force. -/
def digestInPlace (s : State) (n : Nat) : List Byte :=
  if n = 0 then padTo 48 (Config.sha384 (loaderCopy s s.upd.booted).image)
  else if n = 9 then match s.upd.force.bind (bundleGen s) with
    | some b => padTo 48 (Config.sha384 b.bytes)
    | none => zeros 48
  else match entryOf (manifest s) n with
    | some e => e.digest
    | none => zeros 48

/-- The minimum security version of a unit (R650): that the island holds and, for the loader, that of the copy that booted. -/
def minSecOf (s : State) (n : Nat) : Nat :=
  let m := at' s.upd.minSec n 0
  if n = 0 then max m (loaderCopy s s.upd.booted).sec else m

/-- A failed check: its reason, its unit, and the security versions compared. -/
def verifyBad (s : State) (pkg : List Byte) : Option (Nat × Nat × Nat × Nat) :=
  let es := unitEntries pkg
  let bad := es.find? fun e =>
    (e.present && padTo 48 (Config.sha384 (unitBytes pkg e)) != e.digest) || (!e.present && e.kept && e.digest != digestInPlace s e.unit)
  let gap := (List.range 8).find? fun k => !(es.any fun e => e.unit == k + 1 && (e.present || e.kept))
  let old := es.find? fun e => e.present && e.sec < minSecOf s e.unit
  let unsound := es.find? fun e => e.present &&
    ((e.unit == 0 && !Config.loaderSound (unitBytes pkg e)) || (e.unit == 9 && (Config.bundleOf (unitBytes pkg e) (ownerOf s)).isNone))
  if padTo 48 (Config.sha384 pkg) ≠ s.upd.digest then some (0, 0xFF, 0, 0)
  else if u pkg 0 4 ≠ 0x4B5A5550 ∨ u pkg 4 2 ≠ 1 ∨ u pkg 6 2 ≠ 0x9600 ∨ !entriesSound pkg s.upd.len then some (1, 0xFF, 0, 0)
  else if !Config.ecdsaVerify Config.imageKey (Config.sha384 (pkg.take 992)) (sub pkg 992 96) then some (2, 0xFF, 0, 0)
  else match bad, gap, old, unsound with
    | some e, _, _, _ => some (3, e.unit, 0, 0)
    | none, some k, _, _ => some (3, k + 1, 0, 0)
    | none, none, some e, _ => some (4, e.unit, e.sec, minSecOf s e.unit)
    | none, none, none, some e => some (5, e.unit, 0, 0)
    | none, none, none, none => if (changedBlocks s pkg).length > 255 then some (6, 0xFF, 0, 0) else none

/-! ### The update record (R647, R662) -/

/-- `DONE` and `TOTAL` of UPDATE_STAGE (R662): blocks verified before the activation, entries done from it on, undone in a fallback. -/
def stageFigures (s : State) : Nat × Nat :=
  let x := s.upd
  if x.stage ≤ 3 then (pkgBlocks x.len - (missingList s).length, pkgBlocks x.len)
  else if x.stage = 7 then ((x.entries.filter (·.undone)).length, x.entries.length)
  else ((x.entries.filter (·.done)).length, x.plan.length)

/-- The update reaches a stage: UPDATE_STAGE (R662). -/
def setStage (s : State) (stage : Nat) : State :=
  let was := s.upd.stage
  let s1 := s.modUpd fun x => { x with stage := stage }
  let f := stageFigures s1
  raise s1 0xD0 1 noLevel (srcId 0xF 4)
    (le 1 stage ++ le 1 was ++ le 1 s.upd.kind ++ le 1 s.upd.attempt ++ le 4 f.1 ++ le 4 f.2 ++ s.upd.digest.take 4)

/-- Raise ACTIVATION_RESUMED (R662): stage, cause, the entry it goes on from and the step. -/
def raiseResumed (s : State) (cause : Nat) : State :=
  let x := s.upd
  let n := x.entries.length
  let fromEntry := if x.stage = 7 then n - 1
    else match x.entries.findIdx? fun e => !e.done with
      | some i => i
      | none => n
  let step := if x.stage = 7 then 2 else if fromEntry < n then 1 else 0
  raise s 0xD3 3 noLevel (srcId 0xF 4)
    (le 1 x.stage ++ le 1 cause ++ le 2 fromEntry ++ le 2 (if x.stage = 7 then n else x.plan.length) ++ le 1 step)

/-! ### Settings generations (R659) -/

/-- The stored settings as they are in force. -/
def liveSettings (s : State) : StoredSettings := {
  power := s.power.stored, lode := s.lode.cfg, fabric := s.fab.stored
  spdm := if s.boot.spdmSet then some (s.boot.spdmFlags, s.boot.tcpPort) else none, params := s.upd.params }

/-- Stored settings come into force: those that apply at the next start only are stored. -/
def applySettings (s : State) (c : StoredSettings) : State :=
  let b := s.boot.bundle
  let spdm := c.spdm.getD (7, b.spdmPort)
  { s with
    power := { s.power with stored := c.power, wake := c.power.wake.getD b.wake, supply := c.power.supply.getD b.supply }
    lode := { s.lode with cfg := c.lode }
    fab := { s.fab with stored := c.fabric }
    boot := { s.boot with spdmSet := c.spdm.isSome, spdmFlags := spdm.1, tcpPort := spdm.2 }
    upd := { s.upd with params := c.params } }

/-- The settings format that the running Ikiora writes (R646). -/
def writeFmt (s : State) : Nat := u (manifest s) 18 2

/-- The settings generation in force is written as it stands. -/
def saveSettings (s : State) : State :=
  let g := at' s.upd.sets s.upd.curSet none
  let new : SetGen := { fmt := (g.map (·.fmt)).getD (writeFmt s), gen := (g.map (·.gen)).getD 0, cfg := liveSettings s }
  s.modUpd fun x => { x with sets := x.sets.set x.curSet (some new) }

/-- The settings generation in force is pinned at the start of an activation (R659). -/
def pinSettings (s : State) : State := (saveSettings s).modUpd fun x => { x with pinned := some x.curSet, moved := false }

/-- An unconfirmed Ikiora starts for the first time (R659): it copies the pinned settings into the other generation, or writes the defaults
there and raises SETTINGS_RESET. -/
def adoptSettings (s : State) : State :=
  match s.upd.pinned with
  | none => s
  | some p =>
    if s.upd.stage ≠ 6 ∨ s.upd.moved then s else
    match at' s.upd.sets p none with
    | none => s
    | some g =>
      let lo := u (manifest s) 16 2
      let hi := writeFmt s
      let ok : Bool := lo ≤ g.fmt && g.fmt ≤ hi
      let new : SetGen := { fmt := hi, gen := wrapAdd 32 g.gen 1, cfg := if ok then g.cfg else {} }
      let s1 := applySettings (s.modUpd fun x => { x with sets := x.sets.set (1 - p) (some new), curSet := 1 - p, moved := true }) new.cfg
      if ok then s1
      else raise s1 0xD6 4 noLevel (srcId 0xF 4) (le 2 g.fmt ++ le 2 lo ++ le 2 hi ++ le 1 (1 - p) ++ zeros 1 ++ le 4 new.gen)

/-- The pinned generation is in force again and the other is invalid (R658). -/
def unpinBack (s : State) : State :=
  match s.upd.pinned with
  | none => s
  | some p =>
    let s1 := s.modUpd fun x => { x with sets := x.sets.set (1 - p) none, curSet := p, pinned := none, moved := false }
    match at' s1.upd.sets p none with
    | some g => applySettings s1 g.cfg
    | none => s1

/-! ### Activation (R652) -/

/-- The entry whose target is being written: the first without `DONE`. -/
def openEntry (s : State) : Option Nat := s.upd.entries.findIdx? fun e => !e.done

/-- The activation's next step after an entry is done: the next entry, or the loader copy. -/
def nextEntry (x : Update) : Update := { x with step := if x.entries.length < x.plan.length then 0 else 4 }

/-- The loader unit is written into the copy that did not boot, with its trial flag (R652). -/
def writeLoader (s : State) : State :=
  let pkg := stagedPackage s
  match (entryOf pkg 0).filter (·.present) with
  | some e => s.modUpd fun x => { x with
      copies := x.copies.set (1 - x.booted) (some { image := unitBytes pkg e, version := e.version, sec := e.sec, trial := true }) }
  | none => s

/-- The bundle unit is written into the generation not in force, with its trial flag and the next generation number (R652). -/
def writeBundle (s : State) : State :=
  let pkg := stagedPackage s
  match (entryOf pkg 9).filter (·.present) with
  | some e =>
    let i := match s.upd.force with
      | some f => 1 - f
      | none => 0
    let new : BundleGen := { gen := topBundle s + 1, bytes := unitBytes pkg e, trial := true }
    s.modUpd fun x => { x with bundles := x.bundles.set i (some new) }
  | none => s

/-- One step of the activation's flash work (R652), steps 0 to 5; a target that does not read back is written again. -/
def activateStep (s : State) (good : Bool) : State :=
  let x := s.upd
  let e := x.entries.length
  match x.step with
  | 0 => if good then s.modUpd fun x => { x with step := 1 } else s
  | 1 =>
    let t := x.plan.getD e 0
    s.modUpd fun x => { x with step := 2, entries := x.entries ++ [{ target := t, old := imageBlock s t, complete := true }] }
  | 2 => if !good then s else
    match openEntry s with
    | some i =>
      let t := (at' x.entries i { target := 0, old := [] }).target
      let new := newBlock s (stagedPackage s) t
      s.modUpd fun x => { x with step := 3, image := tset x.image t new }
    | none => s
  | 3 => match openEntry s with
    | some i => s.modUpd fun x => nextEntry { x with entries := x.entries.modify i fun e => { e with done := true } }
    | none => s.modUpd nextEntry
  | 4 => (writeLoader s).modUpd fun x => { x with step := 5 }
  | _ => writeBundle s

/-- Whether the flash work of the activation has one step left: the next ends it. -/
def lastFlashStep (s : State) : Bool := s.upd.step == 5

/-- One restore of a replay (R658): the highest entry that is not undone gets its old content back. -/
def replayStep (s : State) (good : Bool) : State :=
  if !good then s else
  match (s.upd.entries.reverse.findIdx? fun e => e.complete && !e.undone) with
  | none => s
  | some k =>
    let i := s.upd.entries.length - 1 - k
    let e := at' s.upd.entries i { target := 0, old := [] }
    s.modUpd fun x => { x with image := tset x.image e.target e.old, entries := x.entries.modify i fun e => { e with undone := true } }

/-- Whether the replay has restored every entry. -/
def replayDone (s : State) : Bool := s.upd.entries.all fun e => !e.complete || e.undone

/-- The end of a replay (R658): the trial bundle generation and the unpinned settings generation are invalid, the stage is IDLE,
IMAGE_FALLBACK is raised. RECOVERY mode follows (`setMode`). -/
def endReplay (s : State) : State :=
  match s.upd.back with
  | none => s
  | some (cause, mode, check, since) =>
    let s1 := unpinBack (s.modUpd fun x => { x with
      bundles := x.bundles.map fun b => if b.any (·.trial) then none else b
      fallbacks := satAdd 32 x.fallbacks 1, back := none, failed := none, winOn := false, resident := false })
    let a := s1.upd.attempt
    let n := s1.upd.entries.length
    let s2 := setStage (s1.modUpd fun x => { x with attempt := 0, hitless := false }) 0
    raise s2 0xD5 5 noLevel (srcId 0xF 4)
      (le 1 cause ++ le 1 mode ++ le 2 n ++ le 1 check ++ le 1 a ++ zeros 2 ++ le 4 (min ((s.now - since) / 1000000) (2 ^ 32 - 1)) ++
        s2.upd.digest.take 4)

/-! ### The health window (R656) -/

/-- Seconds in counts of the always-on clock. -/
def secCounts (n : Nat) : Nat := n * 625000000

/-- The window starts with `READY` (R656). -/
def startWindow (s : State) : State :=
  if s.upd.stage ≠ 6 then s else
  s.modUpd fun x => { x with winOn := true, winAt := s.time.aon, winLeft := secCounts x.params.healthS, winSince := s.now }

/-- The window stops at the entry to Night or Dark with the time it has left (R656). -/
def holdWindow (s : State) : State :=
  if !s.upd.winOn then s else
  s.modUpd fun x => { x with winOn := false, winLeft := x.winAt + x.winLeft - s.time.aon, winAt := s.time.aon }

/-- The window resumes (R656). -/
def resumeWindow (s : State) : State :=
  if s.upd.stage ≠ 6 then s else s.modUpd fun x => { x with winOn := true, winAt := s.time.aon }

/-- `WINDOW_LEFT_S` (R663), rounded up. -/
def healthLeft (s : State) : Nat :=
  if s.upd.stage ≠ 6 then 0
  else ((if s.upd.winOn then s.upd.winAt + s.upd.winLeft - s.time.aon else s.upd.winLeft) + 624999999) / 625000000

/-- The image is confirmed (R657): pin released, trial flags cleared, minimum versions raised, IDLE, IMAGE_CONFIRMED, journal erase. -/
def confirmImage (s : State) (how : Nat) : State :=
  let h := manifest s
  let mins := (List.range 10).map fun n => match (entryOf h n).filter (·.present) with
    | some e => if bit s.upd.units n then max (at' s.upd.minSec n 0) e.sec else at' s.upd.minSec n 0
    | none => at' s.upd.minSec n 0
  let s1 := s.modUpd fun x => { x with
    pinned := none, moved := false
    copies := x.copies.map fun c => c.map fun c => { c with trial := false }
    bundles := x.bundles.map fun b => b.map fun b => { b with trial := false }
    minSec := mins, confirmed := satAdd 32 x.confirmed 1, failed := none, winOn := false, hitless := false }
  let s2 := setStage s1 0
  (raise s2 0xD4 1 noLevel (srcId 0xF 4)
    (le 1 how ++ le 1 s.upd.attempt ++ le 2 s.upd.units ++ le 4 (min ((s.now - s.upd.winSince) / secondNs) (2 ^ 32 - 1)) ++ s.upd.digest.take 8)).modUpd
    fun x => { x with attempt := 0, eraseDue := !x.entries.isEmpty, resident := false }

end Sys2Proof.Machine
end

