-- ==== Sys2Proof/Machine/BootRun.lean ====
section
/-! DEFINITION. Every start of the module but a Night resume: what is left of the state (R518), the bundle (R30), the tokens (R506) and the
measured boot (R576 to R584, R607, R655 to R661). -/

namespace Sys2Proof.Machine

/-! ### What a reset leaves (R518) -/

/-- Buffer pools all free under start settings (R304, R325). -/
def freshPools (f : FabricStart) : List Pool := f.counts.map fun n => { free := n, lowWater := n }

/-- The main domain powers up empty under the stored start settings (R312, R325). -/
def freshFabric (f : FabricStart) : Fabric := { stored := f, start := f, pools := freshPools f }

/-- The update engine after a reset (R518, R660): flash stays; a block being written is missing again and is erased before its next write;
VERIFIED is DOWNLOADED again. -/
def updAfterReset (x : Update) : Update := { x with
  write := [], toErase := (x.write.map (·.index)) ++ x.toErase, resident := false, hitless := false
  stage := if x.stage = 3 then 2 else x.stage, winOn := false, failed := none }

/-- What a cold power-on or a Dark exit (`deep`), or any reset of the module (R518), leaves of the state. -/
def wipe (s : State) (deep : Bool) : State :=
  let d : State := {}
  let keep := fun (n : Nat) => if deep then 0 else n
  { s with
    mb := {}, eqs := d.eqs, routes := [], dma := {}
    host := { resetCause := s.host.resetCause, retrains := keep s.host.retrains, everUp := !deep && s.host.everUp }
    ports := {
      run := s.ports.run.map fun r => if deep then {} else { train := r.train, noRec := r.noRec }
      pse := s.ports.pse.map fun x => { faults := keep x.faults } }
    ep := {}, ing := {}, hor := {}, fab := freshFabric s.fab.stored, egr := {}
    time := if deep then { aon := s.time.aon } else { s.time with run := [{}, {}], links := List.replicate 28 {}, offsets := [] }
    leg := { engines := s.leg.engines.map fun e => { restarts := keep e.restarts } }
    gw := {}
    power := if deep then { stored := s.power.stored, since := s.power.since, uptimeWas := s.mb.uptimeMs }
      else { s.power with
        on := false, trans := none, resetDue := none, duskExit := false, holds := [], shedCodes := [], wakeDrop := 0
        monCount := List.replicate 16 0, uptimeWas := s.mb.uptimeMs }
    keys := { s.keys with working := [], queue := [], cfg := {}, mac := List.replicate 5 {}, quarantine := false }
    boot := {
      bootCount := s.boot.bootCount, chain1 := s.boot.chain1
      spdmSet := s.boot.spdmSet, spdmFlags := s.boot.spdmFlags, tcpPort := s.boot.tcpPort }
    lode := {
      cfg := s.lode.cfg, logQueue := s.lode.logQueue, lostRun := s.lode.lostRun, logSeq := s.lode.logSeq, blocks := s.lode.blocks
      splitOption := s.lode.splitOption, debugSplit := !deep && s.lode.debugSplit
      pairSplit := if deep then [false, false] else s.lode.pairSplit, attached := s.lode.attached, decoupled := s.lode.attached
      lockErrors := s.lode.lockErrors.map keep, restarts := keep s.lode.restarts, attaches := keep s.lode.attaches
      nw := { bites := keep s.lode.nw.bites } }
    upd := updAfterReset s.upd, pair := {}, carve := 0 }

/-! ### The bundle (R30, R518) -/

/-- The settings of a bundle that run in quarantine or without a bundle: D3 only (R558, R583, assumption 35). -/
def d3Only (b : BundleCfg) : BundleCfg := { b with
  carve := setInter b.carve 8, tables := { b.tables with gw := {} }
  gw := { b.gw with ends := b.gw.ends.filter fun e => e.1 == 3, buses := b.gw.buses.filter fun e => e.2.domain == 3 } }

/-- The tables and running settings of a bundle come into force, with `DEV_EPOCH` 0 and one live epoch (R518): buckets full, gate lists
pending until their base times. -/
def loadBundle (s : State) (b : BundleCfg) : State :=
  let t := b.tables
  let raw := s.time.raw
  let gate := fun (g : Gate) => ({ pending := some (scheduleStart g.base (gatePeriod g) s.now, g) } : GateRun)
  let meter := fun (m : Meter) => ({ tc := m.cbs * bucketUnit, te := m.ebs * bucketUnit, last := raw } : MeterRun)
  let gcl := fun (x : GclPort) => match x.pending.or x.oper with
    | some g => ({ pending := some { g with change := (changeTime g.base g.cycle s.now).1 } } : GclPort)
    | none => {}
  { s with
    carve := b.carve
    ep := { cur := t, old := t }
    ports := { s.ports with cfg := b.ports }
    ing := { s.ing with
      mirrors := b.mirrors, gates := t.ing.gates.map fun g => (g.1, gate g.2), meters := t.ing.meters.map fun m => (m.1, meter m.2) }
    hor := { s.hor with
      params := b.horizon, buckets := t.hor.limiters.map fun l => (l.1, { tokens := l.2.burst * tokenUnit, last := raw })
      excBucket := { tokens := b.horizon.excBurst * 1024, last := raw } }
    fab := { s.fab with wide := b.wide.map fun h => { handle := h }, cutThrough := b.cutThrough }
    egr := { s.egr with
      cfg := { b.egr with gcl := b.egr.gcl.map gcl }
      toks := b.egr.shapers.map fun h => { tok := if h.flags = 1 then ((h.burst * 1024 : Nat) : Int) else 0, last := raw }
      credits := List.replicate 68 { last := raw } }
    time := { s.time with cfg := b.time }
    leg := { s.leg with cfg := b.leg }
    gw := { s.gw with cfg := b.gw, grid := (b.gw.periodUs, b.gw.phaseNs) }
    keys := { s.keys with cfg := b.keys }
    pair := { s.pair with
      cfg := b.pair
      ttdp := { state := if b.pair.ttdp.enable then 1 else 0, since := s.now }
      mrp := b.pair.mrp.map fun c => { state := b2n c.enable, blocked2 := c.enable && c.role == 1, since := s.now, lastTx := s.now } }
    boot := { s.boot with bundle := b }
    host := { s.host with bar2Permit := b.bar2 } }

/-- The pools of the power arbiter at a start (R505): stored sizes before the bundle's. -/
def loadPools (s : State) : State :=
  let b := s.boot.bundle
  let w := clampTo 20 62 (s.power.stored.internalW.getD b.internalW)
  let e := min (s.power.stored.poeW.getD b.poeW) b.poeW
  s.modPow fun p => { p with intTokens := 20 * w, poeDecl := b.poeW, poeTokens := 20 * min e 960 }

/-- Requests of the tokens of grant orders 1 to 4 (R506): the fabric step, the clock steps, the engines, the MACsec engines of the ports
with MACsec enabled. -/
def blockTokens (s : State) : State :=
  let macs := ((List.range 5).filter fun i => (macCfg s i).enable).map fun i => (8 + i, 20)
  ([(1, 400), (2, 60), (3, 60), (4, 10), (5, 10), (6, 10), (7, 10)] ++ macs).foldl (fun (s : State) (r : Nat × Nat) => (requestTokens s r.1 r.2).2) s

/-- Ports that train at the end of boot stage 6 (R582): the backbone ports and the T1 edge ports. -/
def earlyPort (s : State) (p : Nat) : Bool := p ≤ 3 || (p ≤ 27 && isT1 s p)

/-- Ports are powered in ascending order (R506). -/
def startPorts (s : State) (which : Nat → Bool) : State := ((List.range 33).filter which).foldl (fun s p => startPort s p 3) s

/-- The PSE controllers request their tokens, after the ports, and the PSE ports start (R506, R168). -/
def startPse (s : State) : State := (List.range 16).foldl pseStart ((List.range 4).foldl pseController s)

/-! ### Boot stages 1 and 2 (R556, R558, R577, R532) -/

/-- A stage of the boot: number, result and time in ms. -/
abbrev StageRec := Nat × Nat × Nat

/-- A tamper episode that is not counted yet is counted, and TAMPER is raised (R556, R557). `where_`: 3 Dark, 4 start-up. -/
def countTamper (s : State) (where_ ageMs : Nat) : State :=
  if !s.keys.uncounted then s else
  let s1 := s.modKeys fun k => { k with uncounted := false, tamperCount := min 16 (k.tamperCount + 1) }
  let k := s1.keys
  raise s1 0xA5 7 noLevel (srcId 0xF 0)
    (le 1 k.latched ++ le 1 k.first ++ le 1 where_ ++ le 1 (if s.lifecycle = 0 ∨ s.lifecycle = 4 then 0 else 2) ++ le 1 k.tamperCount ++
      le 1 k.clearCount ++ zeros 2 ++ le 4 (min ageMs (2 ^ 32 - 1)))

/-- `REASON` of QUARANTINE (R594). -/
def quarantineReason (s : State) : Nat := b2n (s.keys.latched != 0) + 2 * b2n (fuseBlown s)

/-- Boot stage 1 (R558, R577, R582, R583). -/
def bootStage1 (s : State) : State :=
  let q : Bool := 1 ≤ s.lifecycle && s.lifecycle ≤ 3 && quarantineReason s != 0
  let s1 := (s.modKeys fun k => { k with quarantine := q }).modBoot fun b => { b with
    bootCount := wrapAdd 32 b.bootCount 1, reason := if q then quarantineReason s else 0 }
  let k := s1.keys
  let rec0 := le 4 Config.romVersion ++ le 1 s1.lifecycle ++ le 1 k.record.length ++ le 4 (rootGen s1 s1.lifecycle) ++ padTo 32 k.owner
  let rec1 := le 1 k.latched ++ le 1 k.tamperCount ++ le 1 k.clearCount ++ le 1 (b2n q)
  let put := fun (s : State) (i : Nat) (d : List Byte) => extendAt s i i (padTo 48 (Config.sha384 (padTo 48 d))) d true
  put (put s1 0 rec0) 1 rec1

/-- The banks of a slot whose root tag is not the present one (R532 step 6). -/
def staleBanks (s : State) (k : KeySlot) : List Nat :=
  (List.range 2).filter fun i => (bankOf k i).any fun b => b.marker && (b.tagState != s.lifecycle || b.tagGen != rootGen s s.lifecycle)

/-- Stale banks of a slot are erased and its bank is selected (R532, R540, R542). -/
def bootSlot (s : State) (n : Nat) : State :=
  let k := keySlot s n
  let bad := staleBanks s k
  let gen := ((bad.filterMap fun i => (bankOf k i).map (·.gen))).foldl max 0
  let s1 := modSlot s n fun k =>
    let k1 := { k with banks := bad.foldl (fun bs i => bs.set i none) k.banks, erasing := false }
    { k1 with act := selectBank s k1 }
  if bad.isEmpty then s1 else keyErased s1 n 2 ((bad.map fun i => 2 ^ i).sum) 0 gen 0

/-- Boot stage 2 (R532, R540): skipped in quarantine (R583). LIFECYCLE_CHANGE follows a transition. -/
def bootStage2 (s : State) : State :=
  let n := ((List.range 64).filter fun n => !(staleBanks s (keySlot s n)).isEmpty).length
  let s1 := if s.keys.quarantine then s else (List.range 64).foldl bootSlot s
  match s.keys.change with
  | none => s1
  | some (prev, cleared) =>
    raise (s1.modKeys fun k => { k with change := none }) 0xA6 5 noLevel (srcId 0xF 0)
      (le 1 s.lifecycle ++ le 1 prev ++ le 1 s.keys.record.length ++ le 1 (b2n cleared) ++ le 4 (rootGen s s.lifecycle) ++
        le 1 (if s.keys.quarantine then 0 else n))

/-! ### Boot stage 4 (R582, R583, R655, R656) -/

/-- The fallback begins at a boot (R656, R658). -/
def beginFallback (s : State) (cause mode check : Nat) : State :=
  setStage (s.modUpd fun x => { x with back := some (cause, mode, check, s.now), winOn := false, failed := none }) 7

/-- The attempt is counted in the update record (R647, R656). -/
def countAttempt (s : State) : State :=
  let x := s.upd
  if x.stage = 5 then setStage (s.modUpd fun x => { x with attempt := 1 }) 6
  else if x.stage = 6 then
    if x.attempt ≥ 3 then beginFallback s 0 1 0xFF else s.modUpd fun x => { x with attempt := x.attempt + 1 }
  else s

/-- The loader copy that the boot ROM tries first (R655, R658). -/
def firstCopy (s : State) : Nat :=
  let x := s.upd
  let trial := fun (c : Nat) => (at' x.copies c none).any (·.trial)
  if x.stage = 6 then (if trial 0 then 0 else if trial 1 then 1 else x.booted)
  else if trial x.booted then 1 - x.booted else x.booted

/-- Whether a loader copy passes its hash, its signature and the rollback check (R583); a copy as at manufacture is sound. -/
def copyPasses (s : State) (inp : BootInput) (c : Nat) : Bool :=
  let m := at' s.upd.minSec 0 0
  at' inp.loaderOk c true &&
    ((at' s.upd.copies c none).isNone || Config.loaderSound (loaderCopy s c).image) && (m == 0 || m ≤ (loaderCopy s c).sec)

/-- Loader records (R577, R580). -/
def measureLoader (s : State) (c : Nat) : State :=
  let l := loaderCopy s c
  let s1 := extend s 2 2 (Config.sha384 l.image) (le 1 0 ++ le 4 l.version ++ le 4 l.sec)
  let s2 := extendData s1 3 3 (le 1 c ++ le 1 s.upd.attempt ++ le 4 l.sec)
  (s2.modBoot fun b => { b with copy := c, attempt := s.upd.attempt, loaderVer := l.version }).modUpd fun x => { x with booted := c }

/-! ### Boot stage 5 (R652, R658, R660, R661) -/

/-- An interrupted activation is carried to its end (R660): an entry without `COMPLETE` restarts at its slot, one without `DONE` at its
target. -/
def resumeActivation (s : State) : State :=
  let x := s.upd
  let step := if x.step ≥ 6 then 5 else if (openEntry s).isSome then 2 else if x.entries.length < x.plan.length then 0 else 4
  let s1 := (List.range 2000).foldl (fun s _ => if lastFlashStep s then s else activateStep s true)
    (s.modUpd fun x => { x with step := step })
  let s2 := activateStep s1 true
  if s2.upd.kind = 1 then setStage s2 5
  else setStage (s2.modUpd fun x => { x with attempt := 1 }) 6

/-- The whole journal is replayed (R658). -/
def replayAll (s : State) : State := endReplay ((List.range 256).foldl (fun s _ => replayStep s true) s)

/-- The work of an activation or a replay that a boot finds (R660). -/
def bootFlashWork (s : State) (powerLoss : Bool) : State :=
  let cause := if powerLoss then 0 else 1
  if s.upd.stage = 4 then resumeActivation (raiseResumed s cause)
  else if s.upd.stage = 7 then replayAll (if s.upd.back.any fun b => b.2.1 == 0 then raiseResumed s cause else s)
  else s

/-- The register of a unit (R577). -/
def unitReg (n : Nat) : Nat := at' [2, 4, 5, 6, 6, 6, 6, 7, 8, 9] n 4

/-- A unit of the image is measured (R577, R580). -/
def measureUnit (s : State) (n : Nat) : State :=
  let e := (entryOf (manifest s) n).getD { unit := n, present := false, kept := false, version := 0, sec := 0, off := 0, len := 0, dest := 0, digest := zeros 48 }
  (extend s (unitReg n) 2 e.digest (le 1 n ++ le 4 e.version ++ le 4 e.sec)).modBoot fun b => { b with
    digests := tset b.digests n e.digest, unitVer := (padVer b.unitVer).set n e.version }
where
  /-- The versions, nine of them. -/
  padVer (l : List Nat) : List Nat := (List.range 9).map fun i => at' l i 0

/-! ### Boot stage 6 (R30, R577, R582, R607, R655) -/

/-- The settings of a bundle generation, if it verifies (R646). -/
def bundleCfg (s : State) (inp : BootInput) (i : Nat) : Option BundleCfg :=
  if !at' inp.bundleOk i true then none else (bundleGen s i).bind fun b => Config.bundleOf b.bytes (ownerOf s)

/-- The bundle generations in the order in which the loader tries them (R655): a trial one first while the image is unconfirmed, then the
higher number. -/
def bundleOrder (s : State) : List Nat :=
  let trial := fun (i : Nat) => (bundleGen s i).any (·.trial)
  let g := fun (i : Nat) => ((bundleGen s i).map (·.gen)).getD 0
  let first := if g 0 < g 1 then [1, 0] else [0, 1]
  if s.upd.stage = 6 then first.filter trial ++ first.filter fun i => !trial i else first.filter fun i => !trial i

/-- The bundle is chosen and measured (R577, R580, R583). -/
def chooseBundle (s : State) (inp : BootInput) : State :=
  let hit := (bundleOrder s).findSome? fun i => (bundleCfg s inp i).map fun c => (i, c)
  match hit.bind fun h => (bundleGen s h.1).map fun g => (h, g) with
  | some (h, g) =>
    let dg := padTo 48 (Config.sha384 g.bytes)
    (extend (s.modUpd fun x => { x with force := some h.1 }) 9 9 dg (le 4 g.gen)).modBoot fun b => { b with
      bundle := h.2, bundleGen := g.gen, bundleDigest := dg, digests := tset b.digests 9 dg }
  | none =>
    (extend (s.modUpd fun x => { x with force := none }) 9 9 (zeros 48) (le 4 0)).modBoot fun b => { b with
      bundle := { carve := 8 }, bundleGen := 0, bundleDigest := zeros 48 }

/-- The settings generation that the loader reads is measured (R577, R580). -/
def measureSettings (s : State) : State :=
  let g := at' s.upd.sets s.upd.curSet none
  let n := (g.map (·.gen)).getD 0
  let f := (g.map (·.fmt)).getD (writeFmt s)
  extend s 10 10 (Config.sha384 (Config.settingsBytes f n)) (le 4 n ++ le 2 f)

/-- The start-up comparator test (R607, R608) and the boot mode (R610). `fail`: the differences not caught. -/
def comparatorTest (s : State) (fail : Nat) : State :=
  let split : Bool := s.lode.splitOption && s.lifecycle ≤ 1
  let f := if split then 0 else setInter fail (0x1FF + 0x1FF * 65536)
  let s1 := s.modLode fun l => { l with splitMode := split, testFail := f, testBad := f != 0 }
  let s2 := raise s1 0xC7 (if f = 0 then 1 else 5) noLevel (srcId 0xC 0) (le 1 (if split then 2 else if f = 0 then 1 else 0) ++ zeros 3 ++ le 4 f)
  extendData s2 11 11 (le 1 (b2n split) ++ le 1 (b2n (!split && f == 0)))

/-- The end of boot stage 6 (R506, R582): the bundle and the settings are read, tokens are requested, the early ports train. -/
def endStage6 (s : State) : State :=
  let b := s.boot.bundle
  let d3 : Bool := s.keys.quarantine || s.upd.force.isNone
  let s1 := loadBundle s (if d3 then d3Only b else b)
  let s2 := loadPools (applySettings s1 (liveSettings s))
  let s3 := s2.modPow fun p => { p with on := true, state := 0, since := s.now, holds := [(0, { tokens := 160 })] }
  startPorts (blockTokens s3) (earlyPort s3)

/-! ### Boot stage 7 -/

/-- Raise BOOT_STAGE with the time of its stage (R113, R594). -/
def raiseStage (s : State) (r : StageRec) (unit : Nat) (time : Nat) : State :=
  emit s {
    type := 0xB0, sev := if r.2.1 = 1 then 4 else 1, level := noLevel, source := srcId 0xF (if r.1 ≤ 4 then 3 else 4), time := time
    payload := padTo 16 (le 1 r.1 ++ le 1 r.2.1 ++ le 1 s.boot.copy ++ le 1 s.boot.attempt ++ le 4 r.2.2 ++ le 2 unit) }

/-- Ikiora starts (R582, R614, R624, R654): the engines, the roles, MKA, the PSE, the buffer mode; then `READY`, and the events that waited
for it. -/
def bootStage7 (s : State) (inp : BootInput) (fellBack : Bool) (stages : List (StageRec × Nat)) : State :=
  let bundle : Bool := s.upd.force.isSome
  let q : Bool := s.keys.quarantine
  let s1 := adoptSettings (logStart s inp.badBlocks)
  let s2 := startPse (startPorts (startEngines s1) fun p => !earlyPort s p)
  let s3 := s2.modHost fun h => { h with bundleOk := bundle, fwVer := at' s.boot.unitVer 2 0 % 2 ^ 24, clkreq := true }
  let s4 := setMode s3 (if q || fellBack || !bundle then 3 else 1) (if q then 2 else if fellBack then 3 else 0)
  let s5 := (List.range 5).foldl mkaStart s4
  let s6 := setReason (setPairing (if s.lode.testBad || s.lode.debugSplit then barTakeover s5 else s5) (s.boot.bundle.pair.pair.enable)) 10 (q || !bundle)
  let s7 := (s6.modHost fun h => { h with ready := true }).modLode fun l => { l with
    nw := { l.nw with window := 2000, openPct := 0, start := s.time.aon, serviced := s.time.aon, bitten := false } }
  let s8 := stages.foldl (fun s x => raiseStage s x.1 0xFFFF x.2) s7
  let s9 := if q then
      raise s8 0xB2 5 noLevel (srcId 0xF 3)
        (le 1 s.boot.reason ++ le 1 s.keys.latched ++ le 1 s.keys.tamperCount ++ le 1 s.keys.clearCount ++ le 1 s.lifecycle)
    else s8
  startWindow s9

/-! ### The measured boot -/

/-- How a boot attempt ends. -/
inductive BootEnd where
  | done | again | stopped
deriving DecidableEq, Repr

/-- One attempt of a measured boot (R582, R583), from the release of reset. `deep`: nothing was retained, so Meridian starts at 0;
otherwise it is carried to the end of stage 3 (R518). -/
def bootAttempt (s : State) (deep powerLoss : Bool) (inp : BootInput) : State × BootEnd :=
  let ms := fun (i : Nat) => at' inp.stageMs i 0
  let s1 := bootStage1 s
  let s2 := bootStage2 s1
  let n := msCounts (ms 2)
  let s3 := if deep then s2.later n else (carryTime s2 n).modMb fun m => { m with upCounts := m.upCounts + n, uptimeMs := (m.upCounts + n) / 625000 }
  let s4 := countAttempt (s3.later (msCounts (ms 3 - ms 2)))
  let c := firstCopy s4
  let pick := if copyPasses s4 inp c then some c else if copyPasses s4 inp (1 - c) then some (1 - c) else none
  match pick with
  | none =>
    (raiseStage (s4.modBoot fun b => { b with stopped := true }) (4, 1, ms 3) 0 s4.now, .stopped)
  | some c' =>
    let s5 := bootFlashWork ((measureLoader s4 c').later (msCounts (ms 4 - ms 3))) powerLoss
    if s5.upd.stage = 5 ∧ s4.upd.stage = 4 ∧ s5.upd.resetAfter then (s5, .again)
    else match inp.unitBad with
    | some n => (raiseStage s5 (5, 1, ms 4) n s5.now, .again)
    | none =>
      let s6 := (List.range 8).foldl (fun s k => measureUnit s (k + 1)) s5
      let s7 := comparatorTest (measureSettings (chooseBundle (s6.later (msCounts (ms 5 - ms 4))) inp)) inp.testFail
      let s8 := (endStage6 s7).later (msCounts (ms 6 - ms 5))
      let q : Bool := s.keys.quarantine || s1.keys.quarantine
      let fell : Bool := s4.upd.stage == 7 && s5.upd.stage == 0
      let stages : List (StageRec × Nat) := [
        ((1, 0, ms 0), s1.now), ((2, if q then 2 else 0, ms 1), s2.now), ((3, 0, ms 2), s3.now), ((4, if c' = c then 0 else 3, ms 3), s4.now),
        ((5, 0, ms 4), s5.now), ((6, 0, ms 5), s7.now), ((7, 0, ms 6), s8.now)]
      let s9 := s8.modBoot fun b => { b with
        stageMs := (List.range 7).map (fun i => if i = 1 ∧ q then 0 else ms i), bootMs := ms 6 }
      (bootStage7 s9 inp fell stages, .done)

/-- Attempts of a measured boot, one per input, until one ends (R583, R656): each failed attempt resets the module. -/
def bootChain : List BootInput → State → Bool → Bool → State
  | [], s, _, _ => s
  | i :: is, s, deep, powerLoss =>
    match bootAttempt s deep powerLoss i with
    | (t, .again) => bootChain is (wipe t false) false false
    | (t, _) => t

/-- The inputs of a start followed by boots that meet no fault (assumption 33). -/
def withSoundBoots (bs : List BootInput) : List BootInput := bs ++ List.replicate 4 ({} : BootInput)

/-- The boots that a command or a fault leads to: free values (assumption 33). -/
def freeBoots (s : State) : List BootInput := (List.range 4).map fun k => Config.bootInput (s.free + k)

/-- A measured boot with its causes (R514, R517, R520): every cause is set in `RESET_CAUSE`; MODULE_RESET names the widest. A queue of log
records that was not flushed is lost but for those 50 ms old (R518). -/
def startModule (s : State) (deep powerLoss : Bool) (widest : Nat) (causes : List Nat) (boots : List BootInput) : State :=
  let before := s.power.state
  let age := (s.time.aon - s.keys.latchAt) / 625000
  let at_ := if s.power.on ∧ s.power.state = 3 then 3 else 4
  let s0 := s.modHost fun h => { h with resetCause := causes.foldl (fun c b => withBit c b true) h.resetCause }
  let s1 := bootChain (withSoundBoots boots) (countTamper (wipe s0 deep) at_ age) deep powerLoss
  if s1.boot.stopped then s1
  else raise s1 0x94 (if widest = 9 then 5 else 3) noLevel (srcId 0xF 1)
    (le 1 widest ++ le 1 before ++ le 2 s1.host.resetCause ++ le 4 s1.boot.bootMs ++ le 8 s1.power.uptimeWas)

/-- The log records that a reset without a flush loses (R518): those younger than 50 ms. -/
def dropYoung (s : State) : State :=
  let old := s.lode.logQueue.filter fun r => r.ev.time + 50000000 ≤ s.now
  flushLog (s.modLode fun l => { l with logQueue := old })

/-- A module warm reset (R514): by MODULE_RESET and as an outcome of other rules, the log flushed first (R518). -/
def warmReset (s : State) (boots : List BootInput) : State := startModule (flushLog s) false false 4 [4] boots

/-- A warm reset in a row that gives no inputs for its boots. -/
def warmResetFree (s : State) : State := let s1 := { s with free := s.free + 4 }; warmReset s1 (freeBoots s)

end Sys2Proof.Machine
end

