-- ==== Sys2Proof/Machine/RemoteRun.lean ====
section
/-! DEFINITION. Remote sessions: opening and closing (R91, R93, R95). -/

namespace Sys2Proof.Machine

/-- The session `i`. -/
def session (s : State) (i : Nat) : Session := at' s.mb.sessions i {}

/-- Raise REMOTE_SESSION (R95). -/
def raiseSession (s : State) (kind i : Nat) (x : Session) : State :=
  raise s 0x03 (if kind ≤ 1 then 1 else 3) noLevel (if i = 0xFF then srcId 0 0 else srcId 3 (8 + i))
    (le 1 kind ++ le 1 i ++ le 2 x.port ++ le 4 x.ipv4 ++ le 8 x.certId)

/-- The number that the first 8 bytes of a certificate's SHA-384 make; 0 without a certificate (R95). -/
def certIdOf (cert : List Byte) : Nat := if cert.isEmpty then 0 else leNat ((Config.sha384 cert).take 8)

/-- REMOTE_CONNECTION (R91, R95): a connection to the management port is refused at the limit of 4 sessions or at authentication, or opens a
session. -/
def execRemoteConnection (port ipv4 : Nat) (cert : List Byte) (auth : Bool) (s : State) : Host.Outcome State Fault Refusal :=
  if !awake s ∨ !s.host.ready then .next s else
  let x : Session := { isOpen := true, port := port, ipv4 := ipv4, certId := certIdOf cert, last := s.now }
  match (List.range 4).find? fun i => !(session s i).isOpen with
  | none => .next (raiseSession s 2 0xFF { x with certId := 0 })
  | some i =>
    if !auth then .next (raiseSession s 3 0xFF x)
    else .next (raiseSession (s.modMb fun m => { m with sessions := m.sessions.set i x }) 0 i x)

/-- A session closes (R93): a command that executes runs to its end with its completion discarded, one that has not started is dropped, and
its lock leases are broken (R474). -/
def closeSession (s : State) (i kind : Nat) : State :=
  let x := session s i
  if !x.isOpen then s else
  let s1 := s.modMb fun m => { m with
    sessions := m.sessions.set i {}
    submitted := m.submitted.filter fun c => c.req.src != 8 + i
    waiting := m.waiting.map fun w => if w.cmd.req.src = 8 + i then { w with drop := true } else w }
  raiseSession (breakLocks s1 (fun l => l.kind == 0 && l.who == 8 + i) 1) kind i x

/-- Every session closes (R654, R658). -/
def closeSessions (s : State) : State := (List.range 4).foldl (fun s i => closeSession s i 1) s

/-- REMOTE_CLOSE (R93). -/
def execRemoteClose (i : Nat) (s : State) : Host.Outcome State Fault Refusal := .next (closeSession s i 1)

/-- REMOTE_IDLE_TIMEOUT (R93): a session without a message for the idle limit is closed. -/
def execRemoteIdleTimeout (i : Nat) (s : State) : Host.Outcome State Fault Refusal :=
  let x := session s i
  if !x.isOpen then .next s else .next (closeSession (s.until (x.last + clampTo 30 3600 s.boot.bundle.idleS * secondNs)) i 4)

end Sys2Proof.Machine
end

