-- ==== Sys2Proof/Machine/UpdRun.lean ====
section
/-! DEFINITION. The update engine at work: download, verification, activation, hitless handover, confirmation, fallback (R643 to R661), its
events and the commands of group 0x0E (R663 to R670). -/

namespace Sys2Proof.Machine

/-! ### Handover of hitless units (R578, R645, R654, R658) -/

/-- The manifest before the activation: what the journal holds of image-area block 0. -/
def oldManifest (s : State) : List Byte := match s.upd.entries.find? fun e => e.target == 0 with
  | some e => e.old.take 1088
  | none => manifest s

/-- Whether the package activated last carries unit `n`. -/
def handsOver (s : State) (n : Nat) : Bool := bit s.upd.units n

/-- The cause of the kind 14 records of a handover: 1 for a fallback (R580). -/
def changeCause (s : State) : Nat := if s.upd.stage = 7 then 1 else 0

/-- The code of unit `n` runs now (R578): its register is extended with a kind 14 record if `log`, its version is in force. -/
def codeChanged (s : State) (n : Nat) (log : Bool) : State :=
  let m := if s.upd.stage = 7 then oldManifest s else manifest s
  match entryOf m n with
  | none => s
  | some e =>
    let s1 := s.modBoot fun b => { b with
      digests := tset b.digests n e.digest, unitVer := (measureUnit.padVer b.unitVer).set n e.version }
    let s2 := if n = 2 then s1.modHost fun h => { h with fwVer := e.version % 2 ^ 24 } else s1
    if log then extend s2 (unitReg n) 14 e.digest (le 1 n ++ le 4 e.version ++ le 4 e.sec ++ le 1 (changeCause s)) else s2

/-- The end of the handovers (R654, R656, R658): the image is unconfirmed and its window starts, or the journal is replayed in the background. -/
def handoverDone (s : State) : State :=
  if s.upd.stage = 7 then s.modUpd fun x => { x with step := 10 }
  else
    let s1 := setStage (s.modUpd fun x => { x with attempt := 1, resident := true, hitless := true }) 6
    startWindow (adoptSettings s1)

/-- Ikiora is handed over last (R654): remote sessions close, lock leases are kept. -/
def handIkiora (s : State) : State :=
  handoverDone (if handsOver s 2 then codeChanged (closeSessions s) 2 true else s)

/-- The engines from `e` on are handed over one at a time (R654): the next one restarts with cause 2; MREG6 is extended after the last. -/
def handEngines (s : State) (e : Nat) : State :=
  match ((List.range 4).drop e).find? fun k => handsOver s (3 + k) && (engine s k).on with
  | some k =>
    let s1 := if (engine s k).restart.isSome then s else stampChans s (beginRestart s k 2)
    s1.modUpd fun x => { x with step := 6 + k }
  | none =>
    let moved := (List.range 4).filter fun k => handsOver s (3 + k)
    handIkiora (moved.foldl (fun s k => codeChanged s (3 + k) (moved.getLast? == some k)) s)

/-- A hitless handover begins with the PSE (R654). -/
def handover (s : State) : State := handEngines (if handsOver s 7 then codeChanged s 7 true else s) 0

/-- Whether engine `e` is being handed over. -/
def handingOver (s : State) (e : Nat) : Bool := (s.upd.stage == 4 || s.upd.stage == 7) && s.upd.step == 6 + e

/-! ### Fallback (R656, R658) -/

/-- The end of a replay that runs in the background (R312, R658). -/
def replayEnds (s : State) : State := if replayDone s then setMode (endReplay s) 3 3 else s

/-- The unconfirmed image falls back (R656, R658): the hitless units switch back at once, or the module resets. -/
def fallBack (s : State) (cause check : Nat) : State :=
  if s.upd.stage ≠ 6 then s
  else if s.upd.hitless then handover (beginFallback s cause 0 check)
  else warmResetFree (beginFallback s cause 1 check)

/-- A health check fails (R656): 0 LOCKSTEP_ERROR, 1 LODESTAR_RESTART, 2 BE_RESTART, 3 NIGHTWATCH_BITE, 4 ECC. -/
def failHealth (s : State) (check : Nat) : State := fallBack s 2 check

/-! ### Interruptions (R660) -/

/-- The block writes in progress are abandoned: their blocks are missing and are erased before their next write. -/
def dropWrites (s : State) : State :=
  s.modUpd fun x => { x with write := [], toErase := (x.write.map (·.index)).filter (fun i => !x.toErase.contains i) ++ x.toErase }

/-- The UPDATE_BLOCKs in progress end with FAULT. -/
def failWrites (s : State) : State := s.upd.write.foldl (fun s w => failWaiting s (some w.src) .flash stFault) (dropWrites s)

/-- The resident loader restarts (R660): 2 with Lodestar, 3 as the owner of a stuck requester. -/
def loaderRestarts (s : State) (cause : Nat) : State :=
  let s1 := failWrites s
  if s1.upd.stage = 3 then setStage s1 2
  else if s1.upd.stage = 4 ∨ s1.upd.stage = 7 then
    raiseResumed (s1.modUpd fun x => { x with step := if x.step = 1 then 0 else if x.step = 3 then 2 else x.step }) cause
  else s1

/-! ### Download (R648, R649) -/

/-- A block that was refused or failed is accepted (R648): UPDATE_BLOCK_RESENT is raised as its programming begins. -/
def blockResent (s : State) (w : BlockWrite) : State :=
  match tget s.upd.tries w.index with
  | none => s
  | some (tries, cause) => raise s 0xD1 2 noLevel (srcId 0xF 4) (le 2 w.index ++ le 1 (min tries 255) ++ le 1 cause ++ le 4 w.crc)

/-- A block is refused or has failed (R648, R663). -/
def blockFailed (s : State) (i cause : Nat) : State :=
  s.modUpd fun x => { x with blocksBad := satAdd 32 x.blocksBad 1, tries := tset x.tries i ((tgetD x.tries i (0, 0)).1 + 1, cause) }

/-- The completion payload of UPDATE_BLOCK (R665). -/
def blockAnswer (s : State) (i : Nat) : List Byte := le 4 i ++ le 4 (missingList s).length ++ le 4 (firstMissing s)

/-- STAGING_ERASE_DONE (R648, R649): the oldest of the blocks that wait for their background erase is erased; a block that waits for it
begins its programming. -/
def execStagingEraseDone (s : State) : Host.Outcome State Fault Refusal :=
  if !awake s ∨ s.power.pfail then .next s else
  match s.upd.toErase with
  | [] => .next s
  | i :: rest =>
    let s1 := s.modUpd fun x => { x with toErase := rest }
    .next <| match s.upd.write.find? fun w => w.index == i with
      | some w => if rest.contains i then s1 else blockResent s1 w
      | none => s1

/-- The block write in progress, if its command executes now (R83, R648). -/
def writing (s : State) : Option BlockWrite :=
  match s.upd.write, s.mb.waiting with
  | w :: _, x :: _ => if x.kind == .flash && x.cmd.req.src == w.src then some w else none
  | _, _ => none

/-- A block has been programmed and read back (R648): `good` when its CRC matches. -/
def blockWritten (s : State) (w : BlockWrite) (good : Bool) : State :=
  if s.upd.toErase.contains w.index then s
  else if good then
    let s1 := s.modUpd fun x => { x with
      write := x.write.drop 1, staged := tset x.staged w.index w.data, missing := withBit x.missing w.index false, tries := tdel x.tries w.index }
    let s2 := if s1.upd.stage = 1 ∧ (missingList s1).isEmpty then setStage s1 2 else s1
    answerWaiting s2 (some w.src) .flash fun s => { st := s, payload := blockAnswer s w.index }
  else if w.fails < 2 then s.modUpd fun x => { x with write := { w with fails := w.fails + 1 } :: x.write.drop 1 }
  else
    let s1 := (blockFailed s w.index 1).modUpd fun x => { x with write := x.write.drop 1, toErase := w.index :: x.toErase }
    failWaiting s1 (some w.src) .flash stFault

/-! ### Activation (R652 to R655) -/

/-- The flash work of the activation is done (R654, R655). -/
def flashWorkDone (s : State) : State :=
  if s.upd.kind = 1 then
    let s1 := setStage s 5
    if s1.upd.resetAfter then s1.modPow fun p => { p with resetDue := some (s.time.aon + msCounts 2, 2) } else s1
  else handover s

/-- PAGE_PROGRAM_DONE (R648, R652, R658): a flash operation ends and its data reads back or not: a block of the download, a step of the
activation, or a restore of a background replay. During the power-fail warning none ends (R511, R644). -/
def execPageProgramDone (good : Bool) (s : State) : Host.Outcome State Fault Refusal :=
  if !awake s ∨ s.power.pfail ∨ s.lode.restart.isSome then .next s else
  match writing s with
  | some w => .next (blockWritten s w good)
  | none =>
    .next <|
      if s.upd.stage = 4 ∧ s.upd.step ≤ 5 then
        if lastFlashStep s then flashWorkDone (activateStep s good) else activateStep s good
      else if s.upd.stage = 7 ∧ s.upd.step = 10 then replayEnds (replayStep s good)
      else s

/-! ### Confirmation (R656, R657) -/

/-- HEALTH_WINDOW_EXPIRY (R656, R658). -/
def execHealthWindowExpiry (s : State) : Host.Outcome State Fault Refusal :=
  if s.upd.stage ≠ 6 ∨ !s.upd.winOn then .next s
  else .next (fallBack (s.later (s.upd.winAt + s.upd.winLeft - s.time.aon)) 1 0xFF)

/-- SETTLE_TIMER (R657): with AUTO_CONFIRM, the conditions have held for `SETTLE_S`. -/
def execSettleTimer (s : State) : Host.Outcome State Fault Refusal :=
  let x := s.upd
  let n := secCounts x.params.settleS
  if x.stage ≠ 6 ∨ !x.winOn ∨ !x.params.auto ∨ !s.host.ready ∨ !s.host.bundleOk ∨ x.winLeft < n then .next s
  else .next (confirmImage (s.later (x.winAt + n - s.time.aon)) 1)

/-- JOURNAL_ERASE_DONE (R657): the journal slots used are erased. -/
def execJournalEraseDone (s : State) : Host.Outcome State Fault Refusal :=
  .next (if awake s && !s.power.pfail then s.modUpd fun x => { x with eraseDue := false } else s)

/-! ### Commands of group 0x0E -/

/-- Permission of group 0x0E. -/
def updPermitted (s : State) (_ : Req) : Bool := s.lifecycle != 4

/-- UPDATE_STATUS_GET (R663). -/
def specUpdateStatusGet : CmdSpec := {
  opcode := 0x0E00, badLen := lenIs 0, permitted := updPermitted,
  body := fun s _ _ =>
    let x := s.upd
    .done {
      st := s
      payload := le 1 x.stage ++ le 1 x.kind ++ le 1 x.attempt ++ le 1 (b2n x.params.auto + 2 * b2n x.resident + 4 * b2n x.eraseDue) ++
        le 4 (pkgBlocks x.len) ++ le 4 (firstMissing s) ++ le 4 (missingList s).length ++ le 2 x.entries.length ++
        le 2 (if x.stage = 7 then (x.entries.filter (·.undone)).length else (x.entries.filter (·.done)).length) ++ le 4 (healthLeft s) ++
        padTo 48 x.digest ++ le 4 x.blocksBad ++ le 4 x.confirmed ++ le 4 x.fallbacks } }

/-- A new download begins (R647, R649): the index is written, the staging blocks are erased in the background. -/
def newDownload (s : State) (digest : List Byte) (len : Nat) : State :=
  setStage ((failWrites s).modUpd fun x => { x with
    digest := digest, len := len, missing := ones (pkgBlocks len), staged := [], toErase := List.range 1023, tries := [], kind := 0xFF
    units := 0, plan := [], entries := if x.stage = 0 then [] else x.entries }) 1

/-- UPDATE_BEGIN (R649, R664). -/
def specUpdateBegin : CmdSpec := {
  opcode := 0x0E01, badLen := lenIs 56, permitted := updPermitted,
  body := fun s _ p =>
    let digest := sub p 0 48
    let len := u p 48 4
    let st := s.upd.stage
    checked [
      { bad := len < 1088, status := stBadLength, off := 48 }, { bad := 67043328 < len, status := stNoResource, off := 48 },
      { bad := st == 4 || st == 7, status := stBusy }, { bad := st == 5 || st == 6, status := stConflict }] fun _ =>
      let s1 := if digest = s.upd.digest ∧ len = s.upd.len ∧ !bit (u p 52 1) 0 then
          setStage s (if st = 3 ∨ (missingList s).isEmpty then 2 else 1)
        else newDownload s digest len
      .done {
        st := s1
        payload := le 1 s1.upd.stage ++ zeros 3 ++ le 4 (pkgBlocks len) ++ le 4 (firstMissing s1) ++ le 4 (missingList s1).length } }

/-- UPDATE_BLOCK (R648, R665): an accepted block waits for its programming. -/
def specUpdateBlock : CmdSpec := {
  opcode := 0x0E02, bulkIn := true, permitted := updPermitted,
  badLen := fun _ total => if total < 16 then some 16 else none,
  body := fun s r p =>
    let i := u p 0 4
    let crc := u p 4 4
    let data := p.drop 16
    let x := s.upd
    let n := pkgBlockLen x.len i
    let bad : Bool := i < pkgBlocks x.len && (r.length != 16 || !bit r.flags 1 || data.length != n)
    checked [
      { bad := bad, status := stBadLength, off := 16 + n }, { bad := x.stage != 1 && x.stage != 2, status := stConflict },
      chkSup (pkgBlocks x.len ≤ i) 0] fun _ =>
      if crc32c data ≠ crc then .failWith stPolicy 4 [] (if bit x.missing i then blockFailed s i 0 else s)
      else if !bit x.missing i then .done { st := s, payload := blockAnswer s i }
      else
        let w : BlockWrite := { index := i, crc := crc, data := data, src := r.src }
        let s1 := s.modUpd fun x => { x with write := w :: x.write }
        .wait .flash (if x.toErase.contains i then s1 else blockResent s1 w) }

/-- UPDATE_VERIFY (R650, R666). -/
def specUpdateVerify : CmdSpec := {
  opcode := 0x0E03, badLen := lenIs 0, permitted := updPermitted,
  body := fun s _ _ =>
    checked [{ bad := s.upd.stage != 2, status := stConflict }] fun _ =>
      let pkg := stagedPackage s
      match verifyBad s pkg with
      | some (reason, unit, sec, min_) =>
        .failWith stPolicy noDetail [] (raise s 0xD2 4 noLevel (srcId 0xF 4)
          (le 1 reason ++ le 1 unit ++ zeros 2 ++ le 4 sec ++ le 4 min_ ++ le 4 (if reason = 6 then (changedBlocks s pkg).length else 0)))
      | none =>
        let plan := changedBlocks s pkg
        let kind := if nextReset pkg then 1 else 0
        let s1 := setStage (s.modUpd fun x => { x with kind := kind, units := unitSet pkg, plan := plan }) 3
        .done {
          st := s1
          payload := le 1 kind ++ le 1 (unitSet pkg / 2 % 256) ++ le 2 plan.length ++ le 4 (212 * plan.length) } }

/-- UPDATE_ACTIVATE (R652, R653, R655, R659, R667). -/
def specUpdateActivate : CmdSpec := {
  opcode := 0x0E04, badLen := lenIs 1, permitted := updPermitted,
  body := fun s _ p =>
    checked [
      { bad := s.upd.stage != 3 || s.power.state != 0, status := stConflict }, { bad := s.upd.eraseDue, status := stBusy }] fun _ =>
      let s1 := (pinSettings s).modUpd fun x => { x with
        entries := [], step := if x.plan.isEmpty then 4 else 0, attempt := 0, resetAfter := bit (u p 0 1) 0 }
      .done { st := setStage s1 4, payload := le 1 s.upd.kind ++ zeros 1 ++ le 2 s.upd.plan.length } }

/-- UPDATE_CONFIRM (R657, R668). -/
def specUpdateConfirm : CmdSpec := {
  opcode := 0x0E05, badLen := lenIs 0, permitted := updPermitted,
  body := fun s _ _ =>
    checked [{ bad := s.upd.stage != 6, status := stConflict }] fun _ =>
      .done { st := confirmImage s 0, payload := le 2 s.upd.units } }

/-- UPDATE_ABORT (R647, R656, R669). -/
def specUpdateAbort : CmdSpec := {
  opcode := 0x0E06, badLen := lenIs 1, permitted := updPermitted,
  body := fun s _ p =>
    let m := u p 0 1
    let st := s.upd.stage
    checked [chkSup (m > 1) 0, { bad := if m = 0 then st < 1 ∨ 3 < st else st ≠ 6, status := stConflict }] fun _ =>
      if m = 0 then
        let s1 := setStage (failWrites s) 0
        .done {
          payload := le 1 m
          st := s1.modUpd fun x => { x with
            digest := zeros 48, len := 0, missing := 0, staged := [], toErase := List.range 1023, tries := [], kind := 0xFF, units := 0, plan := [] } }
      else .done { st := s, payload := le 1 m, after := fun s => fallBack s 3 0xFF } }

/-- UPDATE_PARAMS_SET (R670). -/
def specUpdateParamsSet : CmdSpec := {
  opcode := 0x0E07, badLen := lenIs 8, permitted := updPermitted,
  body := fun s _ p =>
    let h := clampField 0 30 3600 (u p 0 2)
    let t := clampField 2 10 (h.val - 10) (u p 2 2)
    let f := u p 4 1 % 2
    .done {
      clamps := h.off ++ t.off
      st := s.modUpd fun x => { x with params := { healthS := h.val, settleS := t.val, auto := f = 1 } }
      payload := le 2 h.val ++ le 2 t.val ++ le 1 f ++ zeros 3 } }

/-! ### The rows of these commands -/

/-- UPDATE_STATUS_GET (R663): the command from its source. -/
def execUpdateStatusGet (r : Req) (s : State) : Host.Outcome State Fault Refusal := command specUpdateStatusGet r s

/-- UPDATE_BEGIN (R664): the command from its source. -/
def execUpdateBegin (r : Req) (s : State) : Host.Outcome State Fault Refusal := command specUpdateBegin r s

/-- UPDATE_BLOCK (R665): the command from its source. -/
def execUpdateBlock (r : Req) (s : State) : Host.Outcome State Fault Refusal := command specUpdateBlock r s

/-- UPDATE_VERIFY (R666): the command from its source. -/
def execUpdateVerify (r : Req) (s : State) : Host.Outcome State Fault Refusal := command specUpdateVerify r s

/-- UPDATE_ACTIVATE (R667): the command from its source. -/
def execUpdateActivate (r : Req) (s : State) : Host.Outcome State Fault Refusal := command specUpdateActivate r s

/-- UPDATE_CONFIRM (R668): the command from its source. -/
def execUpdateConfirm (r : Req) (s : State) : Host.Outcome State Fault Refusal := command specUpdateConfirm r s

/-- UPDATE_ABORT (R669): the command from its source. -/
def execUpdateAbort (r : Req) (s : State) : Host.Outcome State Fault Refusal := command specUpdateAbort r s

/-- UPDATE_PARAMS_SET (R670): the command from its source. -/
def execUpdateParamsSet (r : Req) (s : State) : Host.Outcome State Fault Refusal := command specUpdateParamsSet r s

end Sys2Proof.Machine
end

