-- ==== Sys2Proof/Machine/HealthRows.lean ====
section
/-! DEFINITION. The rows of Lodestar and of the bus engines whose events are health checks of an unconfirmed image (R656), and the restarts
that are verified against the measurement (R578). -/

namespace Sys2Proof.Machine

/-- A unit restarts from its copy in LPDDR (R578): a copy whose hash is the digest last extended makes a kind 16 record, any other a warm
reset. -/
def verifyCopy (s : State) (n : Nat) (copyOk : Bool) : State :=
  if copyOk then extend s 0 16 (tgetD s.boot.digests n (zeros 48)) (le 1 n) else warmResetFree s

/-- LOCKSTEP_MISMATCH (R605, R606, R656): pair, group, and the address of the blocked output or the two captured words of group 8. -/
def execLockstepMismatch (pair group word : Nat) (s : State) : Host.Outcome State Fault Refusal :=
  if pair > 1 ∨ group > 8 ∨ !comparing s pair then .next s
  else .next (failHealth (lockstepError s pair group word) 0)

/-- LODESTAR_ECC_ERROR (R611, R656). -/
def execLodestarEccError (memory requester addr obj : Nat) (uncorrected : Bool) (s : State) : Host.Outcome State Fault Refusal :=
  if !awake s ∨ memory > 2 ∨ requester > 11 then .next s
  else
    let s1 := eccError s memory requester addr obj uncorrected
    .next (if uncorrected then failHealth s1 4 else s1)

/-- LODESTAR_RESTART_DONE (R85, R514, R578, R614, R656, R659, R660): `badBlocks` are log blocks found bad, `copyOk` says whether Ikiora's copy
matches the digest last extended. -/
def execLodestarRestartDone (badBlocks : List Nat) (copyOk : Bool) (s : State) : Host.Outcome State Fault Refusal :=
  match s.lode.restart with
  | none => .next s
  | some r =>
    let s1 := adoptSettings (loaderRestarts (lodestarBack s badBlocks r) 2)
    .next (if copyOk then failHealth (verifyCopy s1 2 true) 1 else verifyCopy s1 2 false)

/-- BE_WATCHDOG (R429, R656): a bus engine's watchdog (cause 0) or ECC error (cause 1) starts its restart. -/
def execBeWatchdog (e : Nat) (ecc : Bool) (s : State) : Host.Outcome State Fault Refusal :=
  if !canRestart s e then .next s
  else .next (failHealth (stampChans s (beginRestart s e (b2n ecc))) 2)

/-- BE_RESTART_DONE (R429, R578, R654): the engine runs again `ms` after its restart began; `levels` are the levels of GPI0 to GPI15; the next
engine of a handover follows. -/
def execBeRestartDone (e ms levels : Nat) (copyOk : Bool) (s : State) : Host.Outcome State Fault Refusal :=
  if e > 3 ∨ (engine s e).restart.isNone then .next s
  else
    let s1 := restartDone s e ms levels
    .next (if handingOver s e then handEngines s1 (e + 1) else verifyCopy s1 (3 + e) copyOk)

end Sys2Proof.Machine
end

