-- ==== Sys2Proof/Machine/PowerRun.lean ====
section
/-! DEFINITION. Power states, entries and exits (R494 to R504), wake (R500), the last gasp (R510 to R513), Nightwatch's bites (R516, R612 to
R614), the resets of the module (R514, R515) and the commands of group 0x0A (R521 to R526). -/

namespace Sys2Proof.Machine

/-! ### Events (R520) -/

/-- Raise POWER_STATE for the present state. -/
def raisePower (s : State) (was cause : Nat) : State :=
  raise { s with free := s.free + 1 } 0x90 1 noLevel (srcId 0xF 1)
    (le 1 s.power.state ++ le 1 was ++ le 1 cause ++ zeros 1 ++ le 4 (Config.transitionUs s.free % 2 ^ 32) ++ le 2 (intUsed s))

/-- Raise WAKE: source code, state before, port or channel, how the module resumed, seconds slept, other sources latched. -/
def raiseWake (s : State) (code from_ index resume slept others : Nat) : State :=
  raise { s with free := s.free + 1 } 0x91 1 noLevel (srcId 0xF 1)
    (le 1 code ++ le 1 from_ ++ le 1 index ++ le 1 resume ++ le 4 (min slept (2 ^ 32 - 1)) ++
      le 4 (min (Config.forwardUs s.free) (2 ^ 32 - 1)) ++ le 1 (withBit (others % 128) code false))

/-- The state is entered: since when, and nothing in transition. -/
def enterState (s : State) (n : Nat) : State :=
  s.modPow fun p => { p with state := n, since := s.now, trans := none, duskExit := false, sleptFrom := s.time.aon }

/-- Seconds since the present state was entered. -/
def sleptS (s : State) : Nat := (s.time.aon - s.power.sleptFrom) / 625000000

/-! ### Dusk (R497, R502) -/

/-- Ports that only Day powers (R494): the edge ports and segments. -/
def dayPorts : List Nat := (List.range 28).map (· + 4)

/-- A port is powered down by a change of state: a sleeping port keeps its wake detector, its tokens are returned (R147, R161). -/
def darkenPort (s : State) (p : Nat) : State :=
  if (portRun s p).oper = 4 ∨ (portRun s p).oper = 0 then returnTokens s (16 + p) else stopPort s p 6 3

/-- The bus engines stop and return their tokens (R404, R497). -/
def darkenEngines (s : State) : State := (List.range 4).foldl (fun s e => returnTokens s (4 + e)) (stopEngines s)

/-- The cycles at work end with the gateway (R494, R497): they leave the in-flight counts of their epochs (R456). -/
def dropCycles (s : State) : State := (s.gw.run.foldl (fun s c => countOut s c.epoch) s).modGw fun g => { g with run := [] }

/-- Entry from Day to Dusk (R497). -/
def duskEntry (s : State) (cause : Nat) : State :=
  let s1 := pseAllOff (dropCycles (darkenEngines s))
  let s2 := dayPorts.foldl (fun s p => darkenPort (refreshRecord s p) p) s1
  let s3 := zenithRecheck (enterState (returnTokens s2 1) 1)
  raisePower s3 0 cause

/-- The gateway's process image returns to that of a fresh commit (R518). -/
def freshImage (s : State) : State :=
  s.modGw fun g => { g with slots := [], fields := [], targets := [], journal := [], carried := [], run := [], history := [] }

/-- Dusk exit (R502): the fabric step decides; engines, ports and PSE follow. A denial leaves the module in Dusk with the request due again. -/
def duskExit (s : State) (x : ExitInput) : State :=
  let p := s.power
  let q := requestTokens s 1 400
  if !q.1 then q.2.modPow fun p => { p with duskExit := true, trans := none }
  else
    let slept := sleptS s
    let s1 := (freshImage (enterState q.2 0)).modPow fun p => { p with wakeDrop := 0 }
    let s2 := startEngines ((List.range 4).foldl (fun s e => (requestTokens s (4 + e) 10).2) s1)
    let s3 := if x.copyOk then (List.range 4).foldl (fun s e => verifyCopy s (3 + e) true) s2 else s2
    let s4 := startPse (dayPorts.foldl (fun s p => startPort s p 3) s3)
    let s5 := raisePower (zenithRecheck s4) 1 (if p.wakeFirst = 7 then 0 else 3)
    let s6 := raiseWake s5 p.wakeFirst 1 p.wakeIndex 0 slept p.wakeLatch
    if x.copyOk then s6 else warmReset s6 x.boots

/-- A Dusk exit begins with its source (R500, R502). -/
def beginDuskExit (s : State) (code index others : Nat) (x : ExitInput) : State :=
  duskExit (s.modPow fun p => { p with wakeFirst := code, wakeIndex := index, wakeLatch := others }) x

/-- DUSK_EXIT_RETRY (R502): a denied request for the fabric step is repeated after 100 ms. -/
def execDuskExitRetry (x : ExitInput) (s : State) : Host.Outcome State Fault Refusal :=
  if !s.power.on ∨ s.power.state ≠ 1 ∨ !s.power.duskExit then .next s else .next (duskExit (s.later (msCounts 100)) x)

/-! ### Entry to Night and Dark (R498) -/

/-- The host link and the mailboxes end (R498 step 2): submitted commands are discarded, events go to the persistent log only. -/
def closeHost (s : State) : State :=
  let s1 := dropWrites (closeSessions s)
  let d : State := {}
  let s2 := { s1 with
    mb := { uptimeMs := s.mb.uptimeMs, upCounts := s.mb.upCounts }, eqs := d.eqs
    keys := { s1.keys with queue := [] }
    boot := { s1.boot with signings := [], tcp := List.replicate 4 none, pcie := {}, p0 := {} } }
  let s3 := s2.modHost fun h => { h with ready := false, linkUp := false, linkSpeed := 0, linkWidth := 0, clkreq := false, d3hot := false }
  if s.host.linkUp then raise s3 0x00 3 noLevel (srcId 1 33) (zeros 4 ++ le 4 s.host.retrains) else s3

/-- Steps 2 to 4 of R498. -/
def stopModule (s : State) : State :=
  let s1 := pseAllOff (darkenEngines (closeHost s))
  (List.range 33).foldl (fun s p =>
    if bit s.power.wake.tc10Ports p && (portRun s p).oper == 3 then returnTokens (tc10Sleep s p 3 false) (16 + p) else darkenPort s p) s1

/-- What is left in the fabric is flushed, and the older epoch ends with it (R309, R319, R498). -/
def emptyFabric (s : State) : State :=
  settleEpoch { s with
    ep := { s.ep with inCur := 0, inOld := 0, sweep := none }
    fab := { freshFabric s.fab.stored with overflowEn := s.fab.overflowEn, modeLimitS := s.fab.modeLimitS, wide := s.fab.wide, cutThrough := s.fab.cutThrough }
    egr := { s.egr with queues := [], charge := [], sending := [], held := [] } }

/-- Entry to Night (R498): learnt entries and sessions are discarded, retained training is refreshed, Meridian takes its snapshot. -/
def enterNight (s : State) (cause : Nat) : State :=
  let was := s.power.state
  let s1 := emptyFabric (stopModule ((List.range 33).foldl refreshRecord s))
  let s2 := { s1 with
    free := s1.free + 1, time := { s1.time with calib := Config.crystal s1.free }
    ing := { s1.ing with learnt := [] }, hor := { s1.hor with sessions := [], pending := [], spillBuf := [], spilled := [], restore := [], excQueue := [] } }
  let s3 := enterState (holdWindow s2) 2
  let s4 := s3.modPow fun p => { p with holds := [], pfail := false, pfailN := false, shedCodes := [], alarmArmed := p.wake.alarmS != 0, wakeLatch := 0 }
  raisePower (zenithRecheck s4) was cause

/-- Entry to Dark (R498, R501): the log is flushed; only the tamper core stays on. -/
def enterDark (s : State) (cause : Nat) : State :=
  let was := s.power.state
  let s1 := if was = 2 then s else holdWindow (emptyFabric (stopModule s))
  let s2 := (enterState s1 3).modPow fun p => { p with holds := [], pfail := false, pfailN := false, shedCodes := [], alarmArmed := false, wakeLatch := 0 }
  flushLog (raisePower s2 was cause)

/-- An entry is abandoned before its point of no return (R499): the module is in its state as before. -/
def abandonEntry (s : State) : State := raisePower (s.modPow fun p => { p with trans := none }) s.power.state 4

/-! ### Night resume (R503, R519, R585) -/

/-- Meridian, the uptime and the snapshot are carried over the Night (R393). -/
def carryNight (s : State) : State :=
  let n := s.time.aon - s.power.sleptFrom
  let s1 := carryTime { s with time := { s.time with aon := s.power.sleptFrom } } n
  s1.modMb fun m => { m with upCounts := m.upCounts + n, uptimeMs := (m.upCounts + n) / 625000 }

/-- The settings that run, as a bundle would give them: LPDDR keeps them over a Night (R518). -/
def runningSettings (s : State) : BundleCfg := { s.boot.bundle with
  tables := s.ep.cur, carve := s.carve, ports := s.ports.cfg, egr := s.egr.cfg, time := s.time.cfg, leg := s.leg.cfg, gw := s.gw.cfg
  pair := s.pair.cfg, keys := s.keys.cfg, horizon := s.hor.params, mirrors := s.ing.mirrors
  wide := s.fab.wide.map fun e => e.pending.getD e.handle, cutThrough := s.fab.cutThrough, bar2 := s.host.bar2Permit }

/-- What a Night exit leaves of the state (R518, R552). -/
def wipeNight (s : State) : State :=
  let d : State := {}
  { s with
    mb := { uptimeMs := s.mb.uptimeMs, upCounts := s.mb.upCounts }, eqs := d.eqs, routes := [], dma := {}
    host := {
      resetCause := withBit s.host.resetCause 2 true, fwVer := s.host.fwVer, bundleOk := s.host.bundleOk, bar2Permit := s.host.bar2Permit
      retrains := s.host.retrains, heldHost := s.host.heldHost, everUp := s.host.everUp }
    ports := { run := s.ports.run.map fun r => { train := r.train, noRec := r.noRec }, pse := s.ports.pse.map fun x => { faults := x.faults } }
    ing := {}, hor := {}, egr := {}
    fab := { freshFabric s.fab.stored with overflowEn := s.fab.overflowEn, modeLimitS := s.fab.modeLimitS }
    time := { s.time with run := [{}, {}], links := List.replicate 28 {}, offsets := [] }
    leg := { engines := s.leg.engines.map fun e => { restarts := e.restarts } }, gw := {}
    power := { s.power with wakeDrop := 0, monCount := List.replicate 16 0, pfailN := !s.power.bankOk }
    keys := { s.keys with mac := s.keys.mac.map fun m => { m with port := List.replicate 9 0 } }
    lode := { s.lode with
      logLost := 0, logRecords := 0, eccOk := 0, eccBad := 0, refused := 0, restart := none, nw := { bites := s.lode.nw.bites }
      shares := List.replicate 12 {}, lastGrant := 11, burst := none, samples := [], sensors := [] }
    pair := { barred := s.pair.barred } }

/-- Raise RETENTION_CONTINUITY (R594). -/
def raiseContinuity (s : State) (cause slept seq : Nat) : State :=
  raise s 0xB3 (if cause = 0 then 1 else 4) noLevel (srcId 0xF 0)
    (le 1 (b2n (cause != 0)) ++ le 1 cause ++ zeros 2 ++ le 4 s.boot.resumeCount ++ le 4 (min slept (2 ^ 32 - 1)) ++ le 4 seq)

/-- The resume is certified (R585): a kind 13 record extends MREG13. `raw` is `RAW` at the entry, `n` the counts slept. -/
def certify (s : State) (raw n : Nat) : State :=
  let s1 := s.modBoot fun b => { b with resumeCount := wrapAdd 32 b.resumeCount 1 }
  let seq := s1.boot.log.length
  raiseContinuity (extendData s1 13 13 (le 8 raw ++ le 8 (n * 32768 / 625000000) ++ le 8 s1.time.raw ++ le 4 s1.boot.resumeCount ++ le 4 0))
    0 (n / 625000000) seq

/-- Steps 5 to 7 of R503: settings from LPDDR, tokens in the order of R506, ports, engines, roles, `READY`. -/
def resumeModule (s : State) : State :=
  let b := runningSettings s
  let ep := { s.ep with draining := false, old := s.ep.cur, inCur := 0, inOld := 0 }
  let s1 := { loadBundle (wipeNight s) b with ep := ep, boot := s.boot }
  let s2 := (enterState s1 0).modPow fun p => { p with holds := [(0, { tokens := 160 })] }
  let s3 := startPse (startPorts (startEngines (blockTokens s2)) fun _ => true)
  let s4 := setMode (s3.modHost fun h => { h with clkreq := true }) 1 0
  let s5 := setReason (setPairing (if s.lode.testBad || s.lode.debugSplit then barTakeover s4 else s4) b.pair.pair.enable) 10
    (s.keys.quarantine || !s.host.bundleOk)
  let s6 := (s5.modHost fun h => { h with ready := true }).modLode fun l => { l with
    nw := { l.nw with window := 2000, openPct := 0, start := s.time.aon, serviced := s.time.aon, bitten := false } }
  resumeWindow (zenithRecheck s6)

/-- A wake in Night (R503): resumed where the witnesses are clear and the log has room, otherwise a warm reset (R519). -/
def nightWake (s : State) (code index others : Nat) (x : ExitInput) : State :=
  let n := s.time.aon - s.power.sleptFrom
  let slept := sleptS s
  let cause := x.witness % 4 + 4 * b2n (s.keys.latched != 0) + 8 * b2n (s.boot.log.length ≥ 16384 || s.boot.logFull)
  let s1 := carryNight s
  if cause = 0 then
    let s2 := resumeModule (certify s1 s.time.raw n)
    raiseWake (raisePower s2 2 3) code 2 index 0 slept others
  else
    let s2 := raiseContinuity s1 cause slept 0xFFFFFFFF
    let tamper : Bool := s.keys.latched != 0
    raiseWake (startModule (flushLog s2) false false (if tamper then 9 else 4) ([2, 4] ++ (if tamper then [9] else [])) x.boots)
      code 2 index 1 slept others

/-- A wake in Dark (R500, R514): a cold measured boot. -/
def darkWake (s : State) (code index others : Nat) (x : ExitInput) : State :=
  let slept := sleptS s
  raiseWake (startModule (s.modHost fun h => { h with resetCause := 0 }) true false 1 [1] x.boots) code 3 index 2 slept others

/-! ### Wake (R499, R500) -/

/-- Whether a wake source is enabled (R500, R523): tamper always. -/
def wakeEnabled (s : State) (code : Nat) : Bool := code == 6 || bit s.power.wake.enable code

/-- A wake source fires (R499, R500): it wakes the module from Night and Dark, from Dusk with `FROM_DUSK`, and abandons an entry that waits. -/
def wakeUp (s : State) (code index others : Nat) (x : ExitInput) : State :=
  if !s.power.on ∨ !wakeEnabled s code then s
  else match s.power.state with
  | 3 => if code ≤ 1 then darkWake s code index others x else s
  | 2 => nightWake s code index others x
  | n =>
    if s.power.trans.any fun t => 1 ≤ t.target && t.target != n then abandonEntry s
    else if n = 1 ∧ bit s.power.wake.flags 2 ∧ !s.power.duskExit ∧ s.power.trans.isNone then beginDuskExit s code index others x
    else if s.power.duskExit ∧ code ≠ s.power.wakeFirst then s.modPow fun p => { p with wakeLatch := withBit p.wakeLatch code true }
    else s

/-- WAKE_PIN (R500): WAKE_A (0) or WAKE_B (1) fires; `others` are sources that fire before the wake completes. -/
def execWakePin (pin others : Nat) (x : ExitInput) (s : State) : Host.Outcome State Fault Refusal :=
  if pin > 1 then .next s else .next (wakeUp s pin 0xFF others x)

/-- RTC_ALARM (R500): `ALARM_S` after the Night entry. -/
def execRtcAlarm (others : Nat) (x : ExitInput) (s : State) : Host.Outcome State Fault Refusal :=
  let p := s.power
  if !p.on ∨ p.state ≠ 2 ∨ !p.alarmArmed ∨ !wakeEnabled s 5 then .next s
  else .next (wakeUp (s.later (p.sleptFrom + secCounts p.wake.alarmS - s.time.aon)) 5 0xFF others x)

/-- TC10_WAKE_PULSE (R161, R500): the partner of a sleeping port sends a wake pulse. -/
def execTc10WakePulse (port others : Nat) (x : ExitInput) (s : State) : Host.Outcome State Fault Refusal :=
  if port > 32 ∨ !s.power.on ∨ (portRun s port).oper ≠ 4 then .next s
  else if portPowered s port then .next (tc10Wake s port)
  else if bit s.power.wake.tc10Ports port then .next (wakeUp s 2 port others x)
  else .next s

/-- CAN_WAKE_FRAME (R413, R500): what the selective wake detector of CAN0 or CAN1 sees while the bus engines are unpowered: a wake-up pattern,
a number of frame errors, or a frame. -/
def execCanWakeFrame (c : Nat) (pattern : Bool) (errors : Nat) (xtd : Bool) (ident dlc : Nat) (data : List Byte) (others : Nat) (x : ExitInput)
    (s : State) : Host.Outcome State Fault Refusal :=
  if c > 1 ∨ s.power.state = 0 ∨ s.power.state = 3 ∨ !canWakes (at' s.leg.cfg.wake c {}) pattern errors xtd ident dlc data then .next s
  else .next (wakeUp s (3 + c) c others x)

/-! ### Timers of the power controller -/

/-- A commanded state change begins (R498, R522). -/
def commandedState (s : State) (target : Nat) (x : ExitInput) : State :=
  match target with
  | 0 => beginDuskExit (s.modPow fun p => { p with trans := none }) 7 0xFF 0 x
  | 1 => duskEntry s 0
  | 2 => enterNight s 0
  | _ => enterDark s 0

/-- Whether an entry to Night or Dark waits for a key operation or slot write (R543). -/
def entryHeld (s : State) (target : Nat) : Bool := target ≥ 2 && s.mb.waiting.any fun w => w.kind == .island

/-- DELAY_MS_EXPIRY (R102, R498, R522): the delay of a MODULE_RESET or of a POWER_STATE_SET runs out. -/
def execDelayMsExpiry (x : ExitInput) (s : State) : Host.Outcome State Fault Refusal :=
  if !awake s then .next s else
  match s.power.resetDue, s.power.trans with
  | some r, _ => .next (warmReset (s.later (r.1 - s.time.aon)) x.boots)
  | none, some t =>
    if entryHeld s t.target then .next s
    else .next (commandedState (s.later (t.due - s.time.aon)) t.target x)
  | none, none => .next s

/-- AUTO_SLEEP_TIMER (R501, R653): the sleep pins have been inactive for `SLEEP_DELAY_S`; deferred during an activation or a fallback. -/
def execAutoSleepTimer (s : State) : Host.Outcome State Fault Refusal :=
  let a := s.power.wake.autoSleep
  if !awake s ∨ a = 0 ∨ s.power.trans.isSome ∨ s.upd.stage = 4 ∨ s.upd.stage = 7 ∨ entryHeld s 2 then .next s
  else .next (if a = 1 then enterNight s 1 else enterDark s 1)

/-- DARK_AFTER_TIMER (R501): `DARK_AFTER_H` hours in Night. -/
def execDarkAfterTimer (s : State) : Host.Outcome State Fault Refusal :=
  let h := s.power.wake.darkAfterH
  if !s.power.on ∨ s.power.state ≠ 2 ∨ h = 0 then .next s
  else .next (enterDark (s.later (s.power.sleptFrom + secCounts (3600 * h) - s.time.aon)) 2)

/-! ### Starts and resets (R510, R514, R515) -/

/-- COLD_POWER_ON (R510, R514): the input rises above 10.5 V with the module off. -/
def execColdPowerOn (boots : List BootInput) (s : State) : Host.Outcome State Fault Refusal :=
  if s.power.on then .next s
  else .next (startModule (s.modHost fun h => { h with resetCause := 0 }) true true 0 [0] boots)

/-- RESET_N (R499, R515): a warm reset at its rising edge in Day, Dusk and Night, and of a module whose boot ROM has stopped. -/
def execResetN (boots : List BootInput) (s : State) : Host.Outcome State Fault Refusal :=
  if !s.power.on then (if s.boot.stopped then .next (startModule s false false 3 [3] boots) else .next s)
  else if s.power.state = 3 then .next s
  else .next (startModule (dropYoung (if s.power.state = 2 then carryNight s else s)) false false 3 [3] boots)

/-- HOLDUP_EXHAUSTED (R510): the hold-up bank falls below its minimum and the module switches off. -/
def execHoldupExhausted (mv : Nat) (s : State) : Host.Outcome State Fault Refusal :=
  if !s.power.on then .next s else
  let n := at' s.power.monCount 1 0 + 1
  let s1 := raise s 0x95 3 noLevel (srcId 0xF 1) (le 1 1 ++ le 1 0 ++ zeros 2 ++ le 4 mv ++ le 4 18000 ++ le 4 n)
  let s2 := wipe s1 true
  .next { s2 with lode := { s2.lode with logQueue := [], lostRun := 0 }, host := { s2.host with resetCause := 0 } }

/-! ### Supply (R509 to R512, R520, R709) -/

/-- The holders that the last gasp sheds (R509 steps 1 and 2, R511). -/
def gaspOrder (s : State) : List Nat :=
  ([3, 2] ++ ((List.range 24).map fun k => 16 + 27 - k)).filter fun c => holdsTokens s c && !reservedCode s c

/-- POWER_FAIL_WARN (R499, R511): the last-gasp window begins in Day or Dusk. -/
def execPowerFailWarn (mv : Nat) (s : State) : Host.Outcome State Fault Refusal :=
  if !awake s ∨ s.power.pfail then .next s else
  let s1 := s.modPow fun p => { p with pfail := true, pfailAt := s.now, pfailN := true, inputMv := mv }
  let s2 := raise s1 0x92 5 noLevel (srcId 0xF 1)
    (zeros 4 ++ le 4 mv ++ le 2 s.power.holdupMs ++ le 2 s.power.loadDw)
  let codes := if s.power.supply.shed then gaspOrder s2 else []
  let s3 := (codes.foldl shedOne s2).modPow fun p => { p with shedCodes := codes }
  let s4 := flushLog s3
  .next (if s4.power.trans.any fun t => t.target == 1 then abandonEntry s4 else s4)

/-- A block requests its tokens again, or for the first time (R506, R507). -/
def requestBlock (s : State) (c : Nat) : State :=
  if holdsTokens s c then s
  else if c = 1 then (requestTokens s 1 400).2
  else if c = 2 ∨ c = 3 then (requestTokens s c 60).2
  else if 4 ≤ c ∧ c ≤ 7 then
    let q := requestTokens s c 10
    if q.1 then startEngine q.2 (c - 4) else q.2
  else if 8 ≤ c ∧ c ≤ 12 then (if (macCfg s (c - 8)).enable then (requestTokens s c 20).2 else s)
  else if 16 ≤ c ∧ c ≤ 48 then (if (portCfg s (c - 16)).admin ≠ 0 ∧ portPowered s (c - 16) then startPort s (c - 16) 3 else s)
  else if 56 ≤ c ∧ c ≤ 59 then (if (tgetD s.power.holds c {}).denied then (List.range 4).foldl (fun s k => pseStart s (4 * (c - 56) + k)) (pseController s (c - 56)) else s)
  else s

/-- POWER_FAIL_END (R511, R709): the input has stayed above `PFW_MV` + 0.5 V for 10 ms. -/
def execPowerFailEnd (mv : Nat) (s : State) : Host.Outcome State Fault Refusal :=
  if !awake s ∨ !s.power.pfail ∨ mv ≤ s.power.supply.pfwMv + 500 then .next s else
  let s1 := s.modPow fun p => { p with pfail := false, pfailN := !p.bankOk, inputMv := mv, shedCodes := [] }
  let s2 := raise s1 0x92 1 noLevel (srcId 0xF 1)
    (le 1 1 ++ zeros 3 ++ le 4 mv ++ le 2 s.power.holdupMs ++ le 2 s.power.loadDw ++ le 4 (min ((s.now - s.power.pfailAt) / 1000) (2 ^ 32 - 1)))
  .next (s.power.shedCodes.foldl requestBlock s2)

/-- TOKEN_REQUEST (R507): a requester that holds no tokens requests them; in Dusk those of the Dusk clock only. -/
def execTokenRequest (c : Nat) (s : State) : Host.Outcome State Fault Refusal :=
  if !awake s ∨ (s.power.state = 1 ∧ (c = 1 ∨ (4 ≤ c ∧ c ≤ 7) ∨ 56 ≤ c)) then .next s else .next (requestBlock s c)

/-- A monitor crosses a threshold (R510, R520): `kind` 0 under, 1 over. -/
def monitorBad (s : State) (m kind mv threshold : Nat) : State :=
  if bit s.power.monBad m then s else
  let n := at' s.power.monCount m 0 + 1
  raise (s.modPow fun p => { p with
      monBad := withBit p.monBad m true, monOver := withBit p.monOver m (kind == 1), monCount := p.monCount.set m (n % 2 ^ 32) })
    0x95 3 noLevel (srcId 0xF 1) (le 1 m ++ le 1 kind ++ zeros 2 ++ le 4 mv ++ le 4 threshold ++ le 4 n)

/-- The threshold of a monitor on a side (R510), in mV. -/
def monThreshold (m : Nat) (high : Bool) : Nat :=
  if m = 0 then (if high then 170000 else 8600) else if m = 1 then 18000
  else if high then railNominal (m - 2) * 105 / 100 else railNominal (m - 2) * 95 / 100

/-- INPUT_OVERVOLTAGE (R510): the input above 170 V for 1 ms. -/
def execInputOvervoltage (mv : Nat) (s : State) : Host.Outcome State Fault Refusal :=
  if !awake s ∨ mv ≤ 170000 then .next s else .next (monitorBad s 0 1 mv 170000)

/-- RAIL_OUT_OF_RANGE (R510): a rail outside ±5 % for 10 µs. -/
def execRailOutOfRange (rail mv : Nat) (s : State) : Host.Outcome State Fault Refusal :=
  let lo := monThreshold (rail + 2) false
  let hi := monThreshold (rail + 2) true
  if !awake s ∨ rail > 13 ∨ (lo ≤ mv ∧ mv ≤ hi) then .next s
  else .next (monitorBad s (rail + 2) (b2n (mv > hi)) mv (if mv > hi then hi else lo))

/-- SUPPLY_BACK_IN_RANGE (R520): a monitor returns into range. -/
def execSupplyBackInRange (m mv : Nat) (s : State) : Host.Outcome State Fault Refusal :=
  if !awake s ∨ m > 15 ∨ !bit s.power.monBad m then .next s else
  .next (raise (s.modPow fun p => { p with monBad := withBit p.monBad m false }) 0x95 1 noLevel (srcId 0xF 1)
    (le 1 m ++ le 1 2 ++ zeros 2 ++ le 4 mv ++ le 4 (monThreshold m (bit s.power.monOver m)) ++ le 4 (at' s.power.monCount m 0)))

/-- HOLDUP_ESTIMATE (R512): the estimate in ms and the measured load in 0.1 W; HOLDUP_LOW at its crossings. -/
def execHoldupEstimate (ms loadDw : Nat) (s : State) : Host.Outcome State Fault Refusal :=
  if !awake s then .next s else
  let req := s.power.supply.holdupMs
  let s1 := s.modPow fun p => { p with holdupMs := ms, loadDw := loadDw }
  let tell := fun (low : Bool) => raise (s1.modPow fun p => { p with holdupLow := low }) 0x96 (if low then 4 else 1) noLevel (srcId 0xF 1)
    (le 1 (b2n (!low)) ++ zeros 1 ++ le 2 ms ++ le 2 req ++ le 2 loadDw ++ le 4 (tgetD s.lode.samples 35 0).toNat)
  .next <|
    if ms < req ∧ !s.power.holdupLow then tell true
    else if req + 1 ≤ ms ∧ s.power.holdupLow then tell false
    else s1

/-- HOLDUP_BANK_CHARGED (R709): the bank first reaches 47.5 V; PFAIL_N is released. -/
def execHoldupBankCharged (s : State) : Host.Outcome State Fault Refusal :=
  if !s.power.on then .next s else .next (s.modPow fun p => { p with bankOk := true, pfailN := p.pfail })

/-! ### Nightwatch (R516, R612 to R614, R617) -/

/-- Raise NIGHTWATCH_BITE (R520). -/
def raiseBite (s : State) (stage requester : Nat) : State :=
  let w := s.lode.nw
  raise s 0x97 5 noLevel (srcId 0xF 2)
    (le 1 stage ++ le 1 requester ++ zeros 2 ++ le 4 w.window ++ le 4 (min ((s.time.aon - w.serviced) / 625000) (2 ^ 32 - 1)) ++ le 4 w.bites)

/-- Nightwatch bites (R516, R613, R617, R656). -/
def bite (s : State) : State :=
  let again := s.lode.nw.bitten
  let s1 := s.modLode fun l => { l with nw := { l.nw with bites := wrapAdd 32 l.nw.bites 1, start := s.time.aon, bitten := true } }
  if again then
    let s2 := raiseBite s1 2 0xFF
    let s3 := if s2.upd.stage = 6 then beginFallback s2 2 1 3 else s2
    startModule (dropYoung { s3 with free := s3.free + 4 }) false false 8 [8] (freeBoots s3)
  else match stuckReq s with
  | some b =>
    let s2 := raiseBite (memStuck s1 b) 1 b.1
    let s3 := if b.1 = 5 then loaderRestarts s2 3 else s2
    let s4 := if b.1 = 11 ∧ s3.power.trans.any fun t => t.target ≥ 2 then abandonEntry s3 else s3
    failHealth s4 3
  | none => failHealth (lodestarReset (raiseBite s1 1 0xFF) 0 0xFF) 3

/-- Whether Nightwatch runs (R612, R614): in Day and Dusk, not while Lodestar restarts. -/
def watching (s : State) : Bool := awake s && s.lode.restart.isNone

/-- NIGHTWATCH_SERVICE (R612 to R614): valid at or after the open point of the window; otherwise it bites. -/
def execNightwatchService (s : State) : Host.Outcome State Fault Refusal :=
  if !watching s then .next s else
  let w := s.lode.nw
  let gone := s.time.aon - w.start
  if msCounts w.window * w.openPct ≤ gone * 100 ∧ gone < msCounts w.window then
    .next (s.modLode fun l => { l with nw := { w with
      window := l.cfg.nw.windowMs, openPct := l.cfg.nw.openPct, start := s.time.aon, serviced := s.time.aon, bitten := false
      services := satAdd 32 w.services 1 } })
  else .next (bite s)

/-- NIGHTWATCH_WINDOW_CLOSE (R613): the window ends without a valid service. -/
def execNightwatchWindowClose (s : State) : Host.Outcome State Fault Refusal :=
  if !watching s then .next s
  else .next (bite (s.later (s.lode.nw.start + msCounts s.lode.nw.window - s.time.aon)))

/-! ### Commands of group 0x0A -/

/-- Whether a transition, a pending reset or a firmware activation stands in the way (R102, R522, R563, R653). -/
def powerBusy (s : State) : Bool :=
  s.power.trans.isSome || s.power.duskExit || s.power.resetDue.isSome || s.upd.stage == 4 || s.upd.stage == 7

/-- POWER_STATUS_GET (R521). -/
def specPowerStatusGet : CmdSpec := {
  opcode := 0x0A00, badLen := lenIs 0,
  body := fun s _ _ =>
    let p := s.power
    .done {
      st := s
      payload := le 1 p.state ++ le 1 (b2n (p.trans.isSome || p.duskExit) + 2 * b2n p.pfail + 4 * b2n p.holdupLow + 8 * b2n (intReserved s > 0)) ++
        le 2 p.intTokens ++ le 2 (intUsed s) ++ le 2 (intReserved s) ++ le 2 p.poeTokens ++ le 2 (poeUsed s) ++ le 4 p.inputMv ++ le 4 p.inputMa ++
        le 2 p.holdupMs ++ le 2 p.loadDw ++ le 4 p.wakeDrop ++ zeros 4 ++ le 8 p.since } }

/-- POWER_STATE_SET (R496, R522). -/
def specPowerStateSet : CmdSpec := {
  opcode := 0x0A01, badLen := lenIs 8,
  body := fun s _ p =>
    let t := u p 0 1
    let d := clampField 2 2 10000 (u p 2 2)
    let en := s.power.wake.enable
    checked [
      chkSup (t > 3) 0, { bad := t == s.power.state, status := stConflict, off := 0 },
      chkPol (t ≥ 2 && u p 4 4 != 0x9600DA4C) 4, chkPol ((t == 2 && en % 64 == 0) || (t == 3 && en % 4 == 0)) 0,
      { bad := powerBusy s, status := stBusy }] fun _ =>
      .done {
        clamps := d.off
        st := s.modPow fun p => { p with trans := some { target := t, cause := 0, due := s.time.aon + msCounts d.val } }
        payload := le 1 t ++ le 1 s.power.state ++ le 2 d.val } }

/-- The set of T1 edge ports (R523). -/
def t1Edge (s : State) : Nat := (((List.range 24).map (· + 4)).filter (isT1 s)).foldl (fun m p => m + 2 ^ p) 0

/-- WAKE_SET (R523). -/
def specWakeSet : CmdSpec := {
  opcode := 0x0A02, badLen := lenIs 24,
  body := fun s _ p =>
    let auto := u p 2 1
    let f := u p 3 1 % 8
    let d := clampField 4 1 3600 (u p 4 2)
    let h := clampField 6 0 720 (u p 6 2)
    let a := clampField 16 0 31536000 (u p 16 4)
    let w : WakeCfg := {
      enable := u p 0 1 % 64 + 64, pinMode := u p 1 1 % 16, autoSleep := auto, flags := f, delayS := d.val, darkAfterH := h.val
      tc10Ports := setInter (u p 8 8) (t1Edge s), alarmS := a.val }
    checked [chkSup (auto > 2) 2, chkConf (auto != 0 && f % 4 == 0) 3] fun _ =>
      .done {
        clamps := d.off ++ h.off ++ a.off
        st := s.modPow fun p => { p with wake := w, stored := { p.stored with wake := some w } }
        payload := le 1 w.enable ++ le 1 w.pinMode ++ le 1 auto ++ le 1 f ++ le 2 d.val ++ le 2 h.val ++ le 8 w.tc10Ports ++ le 4 a.val ++ zeros 4 } }

/-- POOL_SET (R171, R505, R509, R524). -/
def specPoolSet : CmdSpec := {
  opcode := 0x0A03, badLen := lenIs 8,
  body := fun s _ p =>
    let w := clampField 0 20 62 (u p 0 2)
    let e := clampField 2 0 (min s.power.poeDecl 960) (u p 2 2)
    let f := u p 4 1 % 2
    let n := 20 * w.val
    checked [chkPol (n < intUsed s && !canShed s n) 0] fun _ =>
      let s1 := s.modPow fun p => { p with intTokens := n, poeTokens := 20 * e.val }
      let shed := shedTo n (shedOrder s1) s1 []
      let off := pseShrink 16 shed.1 0
      let s2 := pseRetry off.1
      .done {
        clamps := w.off ++ e.off
        st := if f = 1 then s2.modPow fun p => { p with stored := { p.stored with internalW := some w.val, poeW := some e.val } } else s2
        payload := le 2 w.val ++ le 2 e.val ++ le 1 f ++ zeros 3 ++ le 2 n ++ le 2 (20 * e.val) ++ le 2 shed.2.length ++ le 2 off.2 } }

/-- ARBITER_GET (R506, R508, R525). -/
def specArbiterGet : CmdSpec := {
  opcode := 0x0A04, bulkOut := true, badLen := lenIs 2,
  body := fun s _ p =>
    let f := u p 0 1
    let c := clampField 1 1 (64 - f) (u p 1 1)
    checked [chkSup (f > 63) 0] fun _ =>
      .done {
        st := s, clamps := c.off
        payload := le 1 f ++ le 1 c.val ++ zeros 2 ++ (List.range c.val).flatMap fun k =>
          let h := tgetD s.power.holds (f + k) {}
          let state := if h.tokens > 0 then (if reservedCode s (f + k) then 2 else 1) else if h.denied then 3 else 0
          le 1 state ++ le 1 (f + k) ++ le 2 h.tokens } }

/-- SUPPLY_SET (R526). -/
def specSupplySet : CmdSpec := {
  opcode := 0x0A05, badLen := lenIs 8,
  body := fun s _ p =>
    let v := clampField 0 8600 100000 (u p 0 4)
    let h := clampField 4 1 50 (u p 4 2)
    let f := u p 6 1 % 2
    let c : SupplyCfg := { pfwMv := v.val, holdupMs := h.val, shed := f = 1 }
    .done {
      clamps := v.off ++ h.off
      st := s.modPow fun p => { p with supply := c, stored := { p.stored with supply := some c } }
      payload := le 4 v.val ++ le 2 h.val ++ le 1 f ++ zeros 1 } }

/-! ### The rows of these commands -/

/-- POWER_STATUS_GET (R521): the command from its source. -/
def execPowerStatusGet (r : Req) (s : State) : Host.Outcome State Fault Refusal := command specPowerStatusGet r s

/-- POWER_STATE_SET (R522): the command from its source. -/
def execPowerStateSet (r : Req) (s : State) : Host.Outcome State Fault Refusal := command specPowerStateSet r s

/-- WAKE_SET (R523): the command from its source. -/
def execWakeSet (r : Req) (s : State) : Host.Outcome State Fault Refusal := command specWakeSet r s

/-- POOL_SET (R524): the command from its source. -/
def execPoolSet (r : Req) (s : State) : Host.Outcome State Fault Refusal := command specPoolSet r s

/-- ARBITER_GET (R525): the command from its source. -/
def execArbiterGet (r : Req) (s : State) : Host.Outcome State Fault Refusal := command specArbiterGet r s

/-- SUPPLY_SET (R526): the command from its source. -/
def execSupplySet (r : Req) (s : State) : Host.Outcome State Fault Refusal := command specSupplySet r s

end Sys2Proof.Machine
end

