-- ==== Sys2Proof/Machine/LifeRun.lean ====
section
/-! DEFINITION. Life-cycle transitions (R529 to R533, R563) and the tamper response (R555 to R557). -/

namespace Sys2Proof.Machine

/-- The transitions that LIFECYCLE_SET permits (R529). -/
def lifeAllowed (from_ to_ : Nat) : Bool :=
  (at' [[1, 2, 4], [2, 3, 4], [3, 4], [2, 4], []] from_ ([] : List Nat)).contains to_

/-- A transition after its completion (R532): operations are aborted, keys zeroized, clear fuses blown, the entry programmed, the module
reset. `pub` is the owner key that a transition out of BLANK brings. -/
def lifeTransition (s : State) (target : Nat) (pub : List Byte) : State :=
  let was := s.lifecycle
  let s1 := zeroizeMac (abortIsland s 1)
  let arm := if was = 0 ∧ s.keys.armed = 0 then 0x7F else s.keys.armed
  let clears : Bool := was == 3 && target == 2 && s.keys.clearCount < s.keys.tamperCount
  warmResetFree (s1.modKeys fun k => { k with
    working := [], record := k.record ++ [target], owner := if was = 0 then padTo 48 (Config.sha384 pub) else k.owner
    clearCount := if was = 3 ∧ target = 2 then k.tamperCount else k.clearCount
    window := target == 2, armed := if target = 2 then arm ||| 0x3F else arm, change := some (was, clears) })

/-- LIFECYCLE_SET (R529, R530, R532, R563). -/
def specLifecycleSet : CmdSpec := {
  opcode := 0x0B01, badLen := lenIs 208,
  body := fun s _ p =>
    let t := u p 0 1
    let was := s.lifecycle
    let k := s.keys
    let pub := sub p 16 96
    let badSig : Bool :=
      if was = 0 then pub == zeros 96
      else !Config.ownerVerify k.owner (Config.sha384 (ascii "KZLC" ++ p.take 16)) (sub p 112 96)
    checked [
      chkSup (t > 4) 0, chkConf (!lifeAllowed was t) 0, chkPol (u p 4 4 != k.record.length) 4,
      chkPol (u p 8 8 != Config.serial % 2 ^ 64) 8, chkPol badSig (if was = 0 then 16 else 112),
      chkPol (t == 2 && (k.latched != 0 || (was == 1 && fuseBlown s))) 0,
      { bad := t != 4 && (63 ≤ k.record.length || k.tamperCount == 16), status := stNoResource }, { bad := powerBusy s, status := stBusy }] fun _ =>
      .done { st := s, payload := le 1 t ++ le 1 was ++ le 1 (k.record.length + 1), after := fun s => lifeTransition s t pub } }

/-! ### Tamper (R555 to R557) -/

/-- Whether a source is watched in the present power state (R555). -/
def tamperWatched (s : State) (source : Nat) : Bool :=
  s.power.on && source ≤ 6 &&
    (if source = 3 then s.power.state ≤ 1 else if source = 0 ∨ source = 1 ∨ source = 6 then true else s.power.state ≤ 2)

/-- Whether the life-cycle state answers a latch (R528, R557). -/
def tamperAnswers (s : State) : Bool := 1 ≤ s.lifecycle && s.lifecycle ≤ 3

/-- Raise TAMPER (R561). -/
def raiseTamper (s : State) (response : Nat) : State :=
  let k := s.keys
  raise s 0xA5 7 noLevel (srcId 0xF 0)
    (le 1 k.latched ++ le 1 k.first ++ le 1 s.power.state ++ le 1 response ++ le 1 k.tamperCount ++ le 1 k.clearCount ++ zeros 2 ++
      le 4 (min ((s.time.aon - k.latchAt) / 625000) (2 ^ 32 - 1)))

/-- A source sets its latch (R556). -/
def setLatch (s : State) (source : Nat) : State :=
  s.modKeys fun k => { k with
    latched := withBit k.latched source true
    first := if k.latched = 0 then source else k.first, latchAt := if k.latched = 0 then s.time.aon else k.latchAt }

/-- The island counts an episode that begins with the latch (R556). -/
def countEpisode (s : State) (new : Bool) : State :=
  if new then s.modKeys fun k => { k with tamperCount := min 16 (k.tamperCount + 1) } else s

/-- The response of a latch (R557). `new`: an episode begins. -/
def tamperResponse (s : State) (new : Bool) (x : ExitInput) : State :=
  if !tamperAnswers s then (if s.power.state = 3 then s else raiseTamper s 0)
  else match s.power.state with
  | 3 => s.modKeys fun k => { k with uncounted := k.uncounted || new }
  | 2 => wakeUp (raiseTamper (countEpisode (s.modKeys fun k => { k with working := [] }) new) 1) 6 0xFF 0 x
  | _ =>
    let s1 := zeroizeMac (abortSignings (abortIsland s 0) fun _ => true)
    let s2 := raiseTamper (countEpisode (s1.modKeys fun k => { k with working := [] }) new) 1
    startModule (flushLog s2) false false 9 [9] x.boots

/-- TAMPER_LATCH (R555 to R557): an armed source fires and sets its latch; in BLANK and RETIRED every source is recorded. -/
def execTamperLatch (source : Nat) (x : ExitInput) (s : State) : Host.Outcome State Fault Refusal :=
  if !tamperWatched s source ∨ (tamperAnswers s ∧ !bit s.keys.armed source) then .next s
  else if bit s.keys.latched source then .next s
  else .next (tamperResponse (setLatch s source) (s.keys.latched == 0) x)

/-! ### The rows of these commands -/

/-- LIFECYCLE_SET (R563): the command from its source. -/
def execLifecycleSet (r : Req) (s : State) : Host.Outcome State Fault Refusal := command specLifecycleSet r s

end Sys2Proof.Machine
end

