-- ==== Sys2Proof/Machine/EventRun.lean ====
section
/-! DEFINITION. The write engine of the event queues and the registers that steer it (spec 04, R107 to R114; registers R59). -/

namespace Sys2Proof.Machine

/-- Records a queue holds when full (R59). -/
def eqSize (e : EvQueue) : Nat := 2 ^ e.log2

/-- Records that the host has not consumed (R109). -/
def unconsumed (e : EvQueue) : Nat := (e.tail + eqSize e - e.head) % eqSize e

/-- Raw counts of `n` microseconds. -/
def usCounts (n : Nat) : Nat := 625 * n

/-- The state once `n` raw counts have passed since `from_`. -/
def laterFrom (s : State) (from_ n : Nat) : State := s.later (n - (s.time.raw + 2 ^ 64 - from_) % 2 ^ 64)

/-- Raw count at which the oldest unsignalled record was written (R111). -/
def oldestAt (e : EvQueue) (now : Nat) : Nat := e.times.getD (e.times.length - e.unsig) now

/-- Whether a queue's interrupt is due (R111). -/
def irqDue (e : EvQueue) (now : Nat) : Bool :=
  e.en && e.irqEn && e.unsig != 0 && (e.coalCnt ≤ e.unsig || usCounts e.coalUs ≤ (now + 2 ^ 64 - oldestAt e now) % 2 ^ 64)

/-- Raise the vector of queue `q` if it is due (R111). -/
def signal (s : State) (q : Nat) : State :=
  let e := s.eq q
  if irqDue e s.time.raw then raiseVec (s.modEq q fun e => { e with unsig := 0 }) e.vec else s

/-- A record write of queue `q` meets a translation fault (R114): `FAULT` is set, the record and those behind it are lost, and EQ_FAULT is
raised. -/
def eqFault (s : State) (q seq iova cause : Nat) : State :=
  let e := s.eq q
  raise (s.modEq q fun e => { e with fault := true, lost := satAdd 16 e.lost (1 + e.toWrite.length), toWrite := [] })
    0x05 4 noLevel (srcId 4 q) (le 8 iova ++ le 1 q ++ le 1 e.ctx ++ le 1 cause ++ zeros 1 ++ le 4 seq)

/-- A record is written at `EQ_TAIL` in two posted writes (R107): bytes 4 to 31, then bytes 0 to 3. -/
def writeRecord (s : State) (q seq : Nat) (r : EvRec) : State :=
  let e := s.eq q
  let b := eventBytes r seq e.phase
  let iova := e.base * 4096 + e.tail * 32
  let a := writeHost s e.ctx (iova + 4) (b.drop 4)
  match a.fault with
  | some (c, off) => eqFault a.st q seq (iova + 4 + off) c.code
  | none =>
    let w := writeHost a.st e.ctx iova (b.take 4)
    match w.fault with
    | some (c, off) => eqFault w.st q seq (iova + off) c.code
    | none =>
      let t := (e.tail + 1) % eqSize e
      signal (w.st.modEq q fun e => { e with
        tail := t, phase := if t = 0 then !e.phase else e.phase, unsig := min (e.unsig + 1) 65535, times := e.times ++ [s.time.raw] }) q

/-- The EQ_OVERFLOW record of queue `q` (R110, R137). -/
def overflowRec (q first time : Nat) : EvRec :=
  { type := 0x04, sev := 3, level := noLevel, source := srcId 4 q, time := time, payload := padTo 16 (le 4 first) }

/-- The persistent log receives an EQ_OVERFLOW record (R112, R625). -/
def logOverflow (s : State) (r : EvRec) (seq : Nat) : State :=
  if logTakes s r then logPut s { kind := 0, seq := seq, ev := r, detail := [], uptimeMs := s.mb.uptimeMs } else s

/-- A record finds its queue full (R110): it is lost, and the first loss writes EQ_OVERFLOW into the slot kept for it. -/
def loseRecord (s : State) (q seq : Nat) : State :=
  let e := s.eq q
  let s1 := s.modEq q fun e => { e with overflow := true, lost := satAdd 16 e.lost 1, lossRun := true }
  if e.lossRun then s1 else
  let r := overflowRec q seq s.now
  let s2 := logOverflow s1 r seq
  if unconsumed e + 1 < eqSize e then writeRecord s2 q seq r else s2

/-- EVENT_RECORD_WRITE (R107, R110, R114): the oldest delivered record of a queue is written, or lost. Nothing is written in D3hot (R43). -/
def execEventRecordWrite (q : Nat) (s : State) : Host.Outcome State Fault Refusal :=
  let e := s.eq q
  if q > 3 ∨ !e.en ∨ s.host.d3hot ∨ !awake s then .next s else
  match e.toWrite with
  | [] => .next s
  | (seq, r) :: rest =>
    let s1 := s.modEq q fun e => { e with toWrite := rest }
    if r.type = 0x04 then .next (if unconsumed e + 1 < eqSize e then writeRecord s1 q seq r else s1)
    else if unconsumed e + 2 < eqSize e then .next (writeRecord (s1.modEq q fun e => { e with lossRun := false }) q seq r)
    else .next (loseRecord s1 q seq)

/-- EQ_COALESCE_TIMEOUT (R111): the oldest unsignalled record reaches `TIME_US`. -/
def execEqCoalesceTimeout (q : Nat) (s : State) : Host.Outcome State Fault Refusal :=
  let e := s.eq q
  if q > 3 ∨ !e.en ∨ !e.irqEn ∨ e.unsig = 0 ∨ !awake s then .next s
  else .next (signal (laterFrom s (oldestAt e s.time.raw) (usCounts e.coalUs)) q)

/-! ### Registers of a queue (R59) -/

/-- A queue is enabled (R107): head, tail, sequence counter and phase start afresh, and the held host events come to it (R66, R112). -/
def enableEq (s : State) (q : Nat) : State :=
  let s1 := s.modEq q fun e => { e with
    en := true, head := 0, tail := 0, seq := 0, phase := true, unsig := 0, times := [], lossRun := false, toWrite := [], held := [], heldLost := none }
  s.host.heldHost.foldl (fun s r => deliver s q r) (s1.modHost fun h => { h with heldHost := [] })

/-- A queue is disabled: what was not written yet is no longer of the queue (R112). -/
def disableEq (s : State) (q : Nat) : State := s.modEq q fun e => { e with en := false, toWrite := [], held := [], heldLost := none }

/-- A write of `EQ_CTRL` (R48, R49, R59). -/
def writeEqCtrl (s : State) (q v : Nat) : State :=
  let was := (s.eq q).en
  let s1 := s.modEq q fun e => { e with irqEn := bit v 1, vec := bits v 13 8, ctx := if was then e.ctx else bits v 21 16 }
  let s2 := if was then (if bit v 0 then s1 else disableEq s1 q)
    else if bit v 0 ∧ (s1.eq q).ctx ≠ 0 then enableEq s1 q else s1
  signal s2 q

/-- A write of `EQ_HEAD` (R109 to R111): what is left unconsumed is unsignalled again, and what no
message has signalled yet stays so. -/
def writeEqHead (s : State) (q v : Nat) : State :=
  let s1 := s.modEq q fun e =>
    let e1 := { e with head := min (v % 65536) (eqSize e - 1) }
    let left := unconsumed e1
    let n := max left e.unsig
    { e1 with
      unsig := n, lossRun := e.lossRun && !(left + 2 < eqSize e)
      times := if n ≤ e.times.length then e.times.drop (e.times.length - n) else List.replicate (n - e.times.length) s.time.raw ++ e.times }
  signal s1 q

/-- A write of `EQ_STATUS` (R59, R114). -/
def writeEqStatus (s : State) (q v : Nat) : State :=
  s.modEq q fun e => { e with
    overflow := e.overflow && !bit v 0, lost := if e.overflow && bit v 0 then 0 else e.lost, fault := e.fault && !bit v 1 }

/-- A write of `EQ_BASE_LO`, `EQ_BASE_HI` or `EQ_SIZE`, which `EN` locks (R48, R59). -/
def writeEqCfg (s : State) (q reg v : Nat) : State :=
  s.modEq q fun e => if e.en then e else
    match reg with
    | 0 => { e with base := e.base / 2 ^ 20 * 2 ^ 20 + bits v 31 12 }
    | 1 => { e with base := e.base % 2 ^ 20 + bits v 15 0 * 2 ^ 20 }
    | _ => { e with log2 := clampTo 6 16 (bits v 4 0) }

/-- A write of `EQ_COAL` (R59). -/
def writeEqCoal (s : State) (q v : Nat) : State :=
  signal (s.modEq q fun e => { e with coalCnt := clampTo 1 255 (bits v 7 0), coalUs := bits v 23 8 }) q

/-- A register write of queue `q` at offset `off` of its block (R59). -/
def writeEq (s : State) (q off v : Nat) : State :=
  match off with
  | 0x00 => writeEqCfg s q 0 v
  | 0x04 => writeEqCfg s q 1 v
  | 0x08 => writeEqCfg s q 2 v
  | 0x0C => writeEqHead s q v
  | 0x14 => writeEqCtrl s q v
  | 0x18 => writeEqCoal s q v
  | 0x1C => writeEqStatus s q v
  | _ => s

/-- EQ_ENABLE (R107): a write of `EQ_CTRL` with `EN` 1. -/
def execEqEnable (q v : Nat) (s : State) : Host.Outcome State Fault Refusal :=
  .next (if q > 3 ∨ !awake s then s else writeEqCtrl s q (withBit v 0 true))

/-- EQ_HEAD_WRITE (R109). -/
def execEqHeadWrite (q v : Nat) (s : State) : Host.Outcome State Fault Refusal := .next (if q > 3 ∨ !awake s then s else writeEqHead s q v)

/-- EQ_STATUS_CLEAR (R114). -/
def execEqStatusClear (q v : Nat) (s : State) : Host.Outcome State Fault Refusal := .next (if q > 3 ∨ !awake s then s else writeEqStatus s q v)

end Sys2Proof.Machine
end

