-- ==== Sys2Proof/Machine/RingRun.lean ====
section
/-! DEFINITION. The DMA rings (spec 04, R116 to R132; registers R60, R61): TX chains and frames, RX descriptors and frames, write-backs,
faults and parking. -/

namespace Sys2Proof.Machine

/-- Descriptors of a ring (R60). -/
def ringSize (r : Ring) : Nat := 2 ^ r.log2

/-- IOVA of descriptor `i` of a ring (R60). -/
def descIova (r : Ring) (i : Nat) : Nat := r.base * 4096 + i * 32

/-- The index after `i` in a ring. -/
def nextIdx (r : Ring) (i : Nat) : Nat := (i + 1) % ringSize r

/-- A fault on a ring transfer parks the ring and raises PAGE_FAULT (R131, R137). The ATU has counted it already. -/
def park (s : State) (k idx iova : Nat) (wr : Bool) (access cause : Nat) : State :=
  let v := iova % 2 ^ 48
  let s1 := s.modRing k fun r => { r with parked := true, wr := wr, faultIdx := idx, faultIova := v, c4 := satAdd 32 r.c4 1 }
  raise s1 0x06 3 noLevel (srcId 2 k)
    (le 8 v ++ le 2 idx ++ le 1 k ++ le 1 (s.ring k).ctx ++ le 1 access ++ le 1 cause)

/-- An access that meets an error of its own (R130): a completion with an error or none at all, at a data read or a table read. It is given
by the access it is met at and the cause. -/
structure ReadErr where
  access : Nat
  cause  : FaultCause
  off    : Nat := 0

/-- The outcome of the read of a ring, which may meet an error. -/
def ringRead (s : State) (k iova n access : Nat) (err : Option ReadErr) : Transfer :=
  match err.filter (·.access == access) with
  | some e => { st := countFault s (s.ring k).ctx, fault := some (e.cause, min e.off (n - 1)) }
  | none => readHost s (s.ring k).ctx iova n

/-- The outcome of the write of a ring, which may meet an error at a table read. -/
def ringWrite (s : State) (k iova : Nat) (p : List Byte) (access : Nat) (err : Option ReadErr) : Transfer :=
  match err.filter (·.access == access) with
  | some e => { st := countFault s (s.ring k).ctx, fault := some (e.cause, min e.off (p.length - 1)) }
  | none => writeHost s (s.ring k).ctx iova p

/-! ### Write-backs (R120, R124, R131) -/

/-- The oldest write-back of ring `k` is written. A fault parks the ring; on a disabled ring the frame is abandoned (R126). -/
def writeBack (s : State) (k : Nat) (err : Option ReadErr) : State :=
  let r := s.ring k
  match r.wbacks with
  | [] => s
  | w :: ws =>
    let a := ringWrite s k (descIova r w.index) w.bytes 3 err
    match a.fault with
    | none =>
      let s1 := a.st.modRing k fun r => { r with wbacks := ws }
      if k < 32 ∧ r.irqEn ∧ bit (u w.bytes 10 2) 1 then raiseVec s1 r.vec else s1
    | some (c, off) =>
      if r.en then park a.st k w.index (descIova r w.index + off) true 3 c.code
      else match r.rxCur with
        | some x => fp12Drop (finishCopy (a.st.modRing k fun r => { r with
            wbacks := [], rxCur := none, c4 := satAdd 32 r.c4 1, c1 := satAdd 32 r.c1 1 }) x.held.frame.id 33)
        | none => a.st.modRing k fun r => { r with wbacks := [], txQueue := r.txQueue.drop 1, c4 := satAdd 32 r.c4 1 }

/-- Whether a ring may write its write-backs now (R131, R731). -/
def mayWriteBack (s : State) (k : Nat) : Bool := !s.host.d3hot && !((s.ring k).parked && (s.ring k).wr)

/-- Every write-back that is due is written, in ring order. -/
def flushBacks : Nat → State → Nat → Option ReadErr → State
  | 0, s, _, _ => s
  | n + 1, s, k, err => if mayWriteBack s k ∧ !(s.ring k).wbacks.isEmpty then flushBacks n (writeBack s k err) k none else s

/-- All write-backs that stand now. -/
def flushAll (s : State) (k : Nat) (err : Option ReadErr) : State := flushBacks (s.ring k).wbacks.length s k err

/-! ### TX frames (R118 to R121) -/

/-- Total length of a chain as fetched (R120). -/
def chainLen (ds : List TxDesc) : Nat := (ds.map (·.len)).sum

/-- A chain that breaks the rules of R119. -/
def chainBroken (ds : List TxDesc) : Bool := 32 < ds.length || ds.any (fun d => d.len == 0) || 9212 < chainLen ds

/-- A chain that has ended becomes a frame of its ring, or a discarded chain (R119, R121). -/
def closeChain (r : Ring) (bad : Bool) : Ring :=
  match r.chain with
  | [] => r
  | d :: ds =>
    let x : TxFrame := {
      descs := d :: ds, launch := if bit d.flags 2 then some d.launch else none, lateDrop := bit d.flags 3, bad := bad || chainBroken (d :: ds) }
    { r with chain := [], chainBad := false, txQueue := r.txQueue ++ [x] }

/-- A TX descriptor joins its ring's chain (R119). -/
def takeTxDesc (r : Ring) (d : TxDesc) : Ring :=
  let first := bit d.flags 0
  let r1 := if first ∧ !r.chain.isEmpty then closeChain r true else r
  let bad := if r1.chain.isEmpty then !first else r1.chainBad
  let r2 := { r1 with chain := r1.chain ++ [d], chainBad := bad }
  if bit d.flags 1 then closeChain r2 bad else r2

/-- The write-backs of a TX frame that has ended (R120). -/
def txBacks (x : TxFrame) (status ts : Nat) : List WriteBack :=
  x.descs.map fun d => {
    index := d.index
    bytes := le 8 ts ++ le 2 (min (chainLen x.descs) 65535) ++ le 2 (d.flags % 32768 + 32768) ++ le 1 status ++ zeros 19 }

/-- The first frame of a TX ring ends with a status (R120). -/
def endTx (s : State) (k status ts : Nat) : State :=
  s.modRing k fun r => match r.txQueue with
    | [] => r
    | x :: xs => { r with txQueue := { x with ended := some status } :: xs, wbacks := txBacks x status ts }

/-- Count a TX frame whose write-backs are complete (R136). -/
def countTx (r : Ring) (x : TxFrame) (status : Nat) : Ring :=
  let r1 := if status ≤ 1 then { r with frames := wrapAdd 64 r.frames 1, bytes := wrapAdd 64 r.bytes (chainLen x.descs) } else r
  match status with
  | 1 => { r1 with c0 := satAdd 32 r1.c0 1 }
  | 2 => { r1 with c1 := satAdd 32 r1.c1 1 }
  | 3 => { r1 with c2 := satAdd 32 r1.c2 1 }
  | 4 => { r1 with c3 := satAdd 32 r1.c3 1 }
  | _ => r1

/-- The index after the last descriptor of a chain. -/
def afterChain (r : Ring) (ds : List TxDesc) : Nat := nextIdx r ((ds.getLast?.map (·.index)).getD r.head)

/-- A ring goes on with its first frame (R119 to R121): an ended frame is written back and leaves; a discarded chain and a frame with
`LAUNCH_TIME` more than 1 s ahead end as they reach the head. -/
def txAdvance : Nat → State → Nat → Option ReadErr → State
  | 0, s, _, _ => s
  | n + 1, s, k, err =>
    match (s.ring k).txQueue with
    | [] => s
    | x :: _ =>
      match x.ended with
      | some status =>
        let s1 := flushAll s k err
        if !(s1.ring k).wbacks.isEmpty ∨ (s1.ring k).txQueue.isEmpty then s1
        else txAdvance n (s1.modRing k fun r => { countTx r x status with
          txQueue := r.txQueue.drop 1, head := afterChain r x.descs }) k none
      | none =>
        if x.atHead ∨ !(s.ring k).en then s
        else if x.bad then txAdvance n (endTx s k 4 0) k err
        else match x.launch with
          | some t => if s.now + secondNs < t then txAdvance n (endTx s k 3 0) k err
              else s.modRing k fun r => { r with txQueue := { x with atHead := true } :: r.txQueue.drop 1 }
          | none => s.modRing k fun r => { r with txQueue := { x with atHead := true } :: r.txQueue.drop 1 }

/-- A TX ring goes on as far as it can. -/
def txRun (s : State) (k : Nat) (err : Option ReadErr) : State := txAdvance (2 * (s.ring k).txQueue.length + 1) s k err

/-- What was fetched from `idx` on is fetched again (R131, R731). -/
def refetch (s : State) (k idx : Nat) : State :=
  s.modRing k fun r => { r with txQueue := [], chain := [], chainBad := false, fetchIdx := idx }

/-- Whether ring `k` may fetch a descriptor (R60, R126, R131, R731). -/
def mayFetch (s : State) (k : Nat) : Bool :=
  let r := s.ring k
  r.en && !r.parked && !s.host.d3hot && r.fetchIdx != r.tail % ringSize r

/-- The next TX descriptor is fetched (R118, R119). -/
def txFetch (s : State) (k : Nat) (err : Option ReadErr) : State :=
  let r := s.ring k
  if !mayFetch s k then s else
  let a := ringRead s k (descIova r r.fetchIdx) 32 0 err
  match a.fault with
  | some (c, off) => park a.st k r.fetchIdx (descIova r r.fetchIdx + off) false 0 c.code
  | none =>
    let d : TxDesc := { index := r.fetchIdx, addr := u a.data 0 8, len := u a.data 8 2, flags := u a.data 10 2, launch := u a.data 16 8 }
    txRun (a.st.modRing k fun r => { takeTxDesc r d with fetchIdx := nextIdx r r.fetchIdx }) k none

/-- The data of a chain is read, buffer by buffer; `off` counts what has been read (R119, R131). -/
def readChain (k : Nat) (err : Option ReadErr) : List TxDesc → State → Nat → Transfer
  | [], s, _ => { st := s }
  | d :: ds, s, off =>
    let here := err.filter fun e => e.access == 1 && off ≤ e.off && (ds.isEmpty || e.off < off + d.len)
    let a := ringRead s k d.addr d.len 1 (here.map fun e => { e with off := e.off - off })
    match a.fault with
    | some (c, o) => { st := a.st, fault := some (c, d.addr + o) }
    | none =>
      let b := readChain k err ds a.st (off + d.len)
      { b with data := a.data ++ b.data }

/-- The data of the first frame of a TX ring is read (R119): a fault parks the ring at its `FIRST` descriptor (R131). -/
def txData (s : State) (k : Nat) (err : Option ReadErr) : State :=
  let r := s.ring k
  match r.txQueue with
  | [] => s
  | x :: xs =>
    if !x.atHead ∨ x.data.isSome ∨ x.ended.isSome ∨ !r.en ∨ s.host.d3hot then s else
    let a := readChain k err x.descs s 0
    match a.fault with
    | some (c, iova) =>
      let idx := (x.descs.head?.map (·.index)).getD r.head
      park (refetch a.st k idx) k idx iova false 1 c.code
    | none => a.st.modRing k fun r => { r with txQueue := { x with data := some a.data } :: xs }

/-- The first frame of a TX ring is started into FP12 once its data is read and its `LAUNCH_TIME` has come, or is found late (R120,
R121). -/
def txAccept (s : State) (k : Nat) (err : Option ReadErr) : State :=
  match (s.ring k).txQueue with
  | [] => s
  | x :: _ =>
    match x.data with
    | none => s
    | some data =>
      if x.ended.isSome ∨ s.host.d3hot ∨ s.now < x.launch.getD 0 then s else
      let late : Bool := match x.launch with
        | some t => t + 50 < s.now
        | none => false
      if late ∧ x.lateDrop then txRun (endTx s k 2 0) k err
      else
        let e := enterPipeline s 33 (some k) { data := if data.length < 60 then padTo 60 data else data } true false
        txRun (endTx e.1 k (b2n late) s.now) k err

/-- TX_DESCRIPTOR_FETCHED (R119). -/
def execTxDescriptorFetched (k : Nat) (s : State) : Host.Outcome State Fault Refusal :=
  .next (if k > 31 ∨ !awake s then s else txFetch s k none)

/-- TX_FRAME_ACCEPTED (R120). -/
def execTxFrameAccepted (k : Nat) (s : State) : Host.Outcome State Fault Refusal :=
  .next (if k > 31 ∨ !awake s then s else txAccept s k none)

/-- LAUNCH_TIME_REACHED (R121): Meridian reaches the `LAUNCH_TIME` of the frame at the head of a ring. -/
def execLaunchTimeReached (k : Nat) (s : State) : Host.Outcome State Fault Refusal :=
  if k > 31 ∨ !awake s then .next s else
  match (s.ring k).txQueue with
  | [] => .next s
  | x :: _ =>
    match x.launch, x.data, x.ended with
    | some t, some _, none => .next (txAccept (s.until t) k none)
    | _, _, _ => .next s

/-! ### RX frames (R122 to R126) -/

/-- Held frames that the fetched descriptors now cover are no longer charged (R124, R125). -/
def releaseHeld (r : Ring) : Ring :=
  if r.parked then r else
  let cover := coveredBytes r
  let go := r.rxHeld.foldl (fun (a : List RxHeld × Nat) h =>
    let n := a.2 + (egressBytes h.frame 33).length
    (a.1 ++ [if n ≤ cover then { h with charge := 0 } else h], n)) ([], 0)
  { r with rxHeld := go.1 }

/-- The next RX descriptor is fetched (R122, R124). -/
def rxFetch (s : State) (k : Nat) (err : Option ReadErr) : State :=
  let r := s.ring k
  if !mayFetch s k then s else
  let a := ringRead s k (descIova r r.fetchIdx) 32 0 err
  match a.fault with
  | some (c, off) => park a.st k r.fetchIdx (descIova r r.fetchIdx + off) false 0 c.code
  | none =>
    let d : RxDesc := { index := r.fetchIdx, addr := u a.data 0 8 % 2 ^ 48 / 64 * 64, units := u a.data 8 2 }
    a.st.modRing k fun r => releaseHeld { r with rxDescs := r.rxDescs ++ [d], fetchIdx := nextIdx r r.fetchIdx }

/-- The descriptors that a frame of `n` bytes uses, each with the bytes it receives; none where they do not cover it (R122, R124). -/
def useDescs : List RxDesc → Nat → Option (List (RxDesc × Option Nat))
  | _, 0 => some []
  | [], _ => none
  | d :: ds, n =>
    let take := min n (64 * min 256 d.units)
    (useDescs ds (n - take)).map fun l => (d, if d.units = 0 then none else some take) :: l

/-- The data of a frame is written into its buffers (R124). -/
def writeBuffers (k : Nat) (err : Option ReadErr) : List (RxDesc × Option Nat) → List Byte → State → Transfer
  | [], _, s => { st := s }
  | (_, none) :: ds, p, s => writeBuffers k err ds p s
  | (d, some n) :: ds, p, s =>
    let a := ringWrite s k d.addr (p.take n) 2 err
    match a.fault with
    | some (c, o) => { st := a.st, fault := some (c, d.addr + o) }
    | none => writeBuffers k none ds (p.drop n) a.st

/-- The first held frame of an RX ring is written into buffers that cover it (R124). A fault parks the ring with the frame held and charged
(R131). -/
def rxBegin (s : State) (k : Nat) (err : Option ReadErr) : State :=
  let r := s.ring k
  match r.rxHeld, r.rxCur with
  | h :: hs, none =>
    if !r.en ∨ r.parked ∨ s.host.d3hot then s else
    let data := egressBytes h.frame 33
    match useDescs r.rxDescs data.length with
    | none => s
    | some used =>
      let a := writeBuffers k err used data s
      match a.fault with
      | some (c, iova) =>
        let size := at' poolSizes (poolFor (data.length + 4)) 9728
        let idx := ((used.find? fun x => x.2.isSome).map (·.1.index)).getD r.head
        park (a.st.modRing k fun r => { r with rxHeld := { h with charge := size } :: hs }) k idx iova true 2 c.code
      | none =>
        let s1 := a.st.modRing k fun r => { r with
          rxHeld := hs, rxDescs := r.rxDescs.drop used.length, rxCur := some { held := h, used := used } }
        let s2 := modTransit s1 h.frame.id fun t => { t with copies := setCopy t.copies 33 .started }
        perfCount (countedOut s2 h.frame.id) 0x22 1
  | _, _ => s

/-- The status of an RX frame by what its end has shown (R123, R302). -/
def rxStatus (bad : Option Nat) : Nat :=
  match bad with
  | none => 0
  | some 0 => 2
  | some 1 => 1
  | some _ => 3

/-- The write-backs of an RX frame (R123). -/
def rxBacks (x : RxCur) (status : Nat) : List WriteBack :=
  let f := x.held.frame
  let n := (egressBytes f 33).length
  let data := x.used.filterMap fun e => if e.2.isSome then some e.1.index else none
  x.used.map fun e => {
    index := e.1.index
    bytes := le 8 f.rxTime ++ le 2 (e.2.getD 0) ++
      le 2 (32768 + b2n (e.2.isSome && data.head? == some e.1.index) + 2 * b2n (e.2.isSome && data.getLast? == some e.1.index)) ++
      le 1 (if e.2.isSome then status else 4) ++ le 1 x.held.tc ++ le 1 f.domain ++ le 1 f.first ++ le 2 (f.stream.getD 0xFFFF) ++ le 2 n ++
      le 4 f.epoch ++ le 2 f.zone ++ zeros 6 }

/-- An RX frame whose write-backs are complete (R124, R136): `RING_HEAD` advances, the vector is raised, the copy is finished. -/
def rxDone (s : State) (k : Nat) (x : RxCur) (status : Nat) : State :=
  let n := (egressBytes x.held.frame 33).length
  let bads := (x.used.filter fun e => e.2.isNone).length
  let s1 := s.modRing k fun r => { r with
    rxCur := none, frames := wrapAdd 64 r.frames 1, bytes := wrapAdd 64 r.bytes n
    c3 := if 1 ≤ status ∧ status ≤ 3 then satAdd 32 r.c3 1 else r.c3, c5 := satAdd 32 r.c5 bads
    head := nextIdx r ((x.used.getLast?.map (·.1.index)).getD r.head) }
  let r := s.ring k
  let s2 := if r.irqEn then raiseVec s1 r.vec else s1
  let s3 := perfCount (bwCount (egrCount (egrCount s2 33 x.held.tc 0 1) 33 x.held.tc 1 (n + 4)) 33 false (n + 4)) 0x221 1
  finishCopy s3 x.held.frame.id 33

/-- The frame being written ends once its last byte has come (R124): its write-backs follow. -/
def rxEnd (s : State) (k : Nat) (err : Option ReadErr) : State :=
  match (s.ring k).rxCur with
  | none => s
  | some x =>
    let finish := fun (s : State) (status : Nat) =>
      let s1 := flushAll s k err
      if (s1.ring k).wbacks.isEmpty ∧ (s1.ring k).rxCur.isSome then rxDone s1 k x status else s1
    match x.ended with
    | some status => finish s status
    | none =>
      let t := transitOf s x.held.frame.id
      if (match t with
        | some t => !t.stored
        | none => false) then s
      else
        let status := rxStatus (t.bind (·.bad))
        finish (s.modRing k fun r => { r with rxCur := some { x with ended := some status }, wbacks := rxBacks x status }) status

/-- An RX ring goes on: the frame being written ends, or the next one is written (R124). -/
def rxRun (s : State) (k : Nat) (err : Option ReadErr) : State :=
  if (s.ring k).rxCur.isSome then rxEnd s k err else rxEnd (rxBegin s k err) k err

/-- RX_DESCRIPTOR_FETCHED (R124). -/
def execRxDescriptorFetched (k : Nat) (s : State) : Host.Outcome State Fault Refusal :=
  .next (if k > 31 ∨ !awake s then s else rxFetch s (32 + k) none)

/-- RX_FRAME_DELIVERY (R124). -/
def execRxFrameDelivery (k : Nat) (s : State) : Host.Outcome State Fault Refusal :=
  .next (if k > 31 ∨ !awake s then s else rxRun s (32 + k) none)

/-! ### Reads that end in an error (R130, R134) -/

/-- A ring access meets an error of a read (R130, R131): the access that is due is made and faults. -/
def ringError (s : State) (k : Nat) (e : ReadErr) : State :=
  match e.access with
  | 0 => if k < 32 then txFetch s k (some e) else rxFetch s k (some e)
  | 1 => if k < 32 then txData s k (some e) else s
  | 2 => if k < 32 ∨ (s.ring k).rxCur.isSome then s else rxBegin s k (some e)
  | _ => if k < 32 then (if ((s.ring k).txQueue.head?.bind (·.ended)).isSome then txRun s k (some e) else txAccept s k (some e))
      else rxRun s k (some e)

/-- An event record's write meets an error at a table read (R114, R130). -/
def queueError (s : State) (q : Nat) : State :=
  let e := s.eq q
  if q > 3 ∨ !e.en ∨ s.host.d3hot then s else
  match e.toWrite with
  | [] => s
  | (seq, _) :: rest =>
    eqFault (countFault (s.modEq q fun e => { e with toWrite := rest }) e.ctx) q seq (e.base * 4096 + e.tail * 32 + 4) FaultCause.walkError.code

/-- A device read ends with an error, or with no completion (R130): at a table read with WALK_ERROR, at a data read with DATA_ERROR. Writes
have no completion, so an error at one is met at a table read only. -/
def readFails (s : State) (t : DmaTarget) (table : Bool) : State :=
  let cause := if table then FaultCause.walkError else FaultCause.dataError
  match t with
  | .ring k access off => if k > 63 ∨ (!table ∧ access ≥ 2) then s else ringError s k { access := access, cause := cause, off := off }
  | .queue q => if table then queueError s q else s
  | .bulk off => { s with dma := { s.dma with bulkErr := some (off, table) } }

/-- DMA_READ_COMPLETION (R130, R134): a completion for a device read. A good one brings the data of the first frame of a TX ring; a
descriptor or a table entry that comes well is taken by the row of its own transfer. One with an error is a fault. -/
def execDmaReadCompletion (t : DmaTarget) (table good : Bool) (s : State) : Host.Outcome State Fault Refusal :=
  if !awake s then .next s
  else if good then match t with
    | .ring k 1 _ => .next (if k > 31 ∨ table then s else txData s k none)
    | _ => .next s
  else .next (readFails s t table)

/-- DMA_COMPLETION_TIMEOUT (R130): a device read has no completion within 50 ms. -/
def execDmaCompletionTimeout (t : DmaTarget) (table : Bool) (s : State) : Host.Outcome State Fault Refusal :=
  .next (if awake s then readFails s t table else s)

/-! ### Registers of a ring (R60, R61, R126) -/

/-- A ring is enabled (R126): `RING_HEAD` is 0, `RING_TAIL` stays. The first RX ring enable ends the count of drops after a reset (R66). -/
def enableRing (s : State) (k : Nat) : State :=
  let s1 := match (s.ring k).rxCur with
    | some x => finishCopy (s.modRing k fun r => { r with c1 := satAdd 32 r.c1 1 }) x.held.frame.id 33
    | none => s
  let s2 := s1.modRing k fun r => { r with
    en := true, head := 0, fetchIdx := 0, parked := false, chain := [], chainBad := false, txQueue := [], rxDescs := [], wbacks := [], rxCur := none }
  if k ≥ 32 then s2.modHost fun h => { h with fp12Count := false } else s2

/-- The RX frames held for a ring are dropped and counted in `DISABLED_DROP` (R126). -/
def dropHeld (s : State) (k : Nat) : State :=
  (s.ring k).rxHeld.foldl (fun s h => finishCopy (s.modRing k fun r => { r with c1 := satAdd 32 r.c1 1 }) h.frame.id 33) s

/-- A ring is disabled (R61, R126, R474): a frame whose transfer has begun completes, nothing further is fetched, held RX frames are
dropped, and the locks of a TX ring are broken. -/
def disableRing (s : State) (k : Nat) : State :=
  let s1 := dropHeld s k
  let s2 := s1.modRing k fun r => { r with
    en := false, parked := false, chain := [], chainBad := false, rxDescs := []
    txQueue := r.txQueue.take 1 |>.filter fun x => x.data.isSome || x.ended.isSome }
  let s3 := if k < 32 then txRun s2 k none else rxEnd s2 k none
  if k < 32 then breakLocks s3 (fun l => l.kind == 1 && l.who == k) 2 else s3

/-- A write of `RING_CTRL` (R48, R49, R60). -/
def writeRingCtrl (s : State) (k v : Nat) : State :=
  let was := (s.ring k).en
  let s1 := s.modRing k fun r => { r with
    irqEn := bit v 4, vec := bits v 13 8, prio := if was then r.prio else bits v 3 1, ctx := if was then r.ctx else bits v 21 16 }
  if was then (if bit v 0 then s1 else disableRing s1 k)
  else if bit v 0 ∧ (s1.ring k).ctx ≠ 0 then enableRing s1 k else s1

/-- A write of `RING_TAIL`: the ring's doorbell (R60, R61). -/
def writeRingTail (s : State) (k v : Nat) : State := s.modRing k fun r => { r with tail := min (v % 65536) (ringSize r - 1) }

/-- A write of `RING_RESUME` (R61, R131): the faulting access is repeated, and faults afresh if its mapping is still missing. -/
def writeRingResume (s : State) (k v : Nat) : State :=
  let r := s.ring k
  if !bit v 0 ∨ !r.parked then s else
  let s1 := s.modRing k fun r => releaseHeld { r with parked := false }
  if k < 32 then (if r.wr then txRun s1 k none else txFetch s1 k none)
  else if r.wr then rxRun s1 k none else rxFetch s1 k none

/-- A write of `RING_BASE_LO`, `RING_BASE_HI`, `RING_SIZE` or `RING_QUOTA`, which `EN` locks (R48, R60). -/
def writeRingCfg (s : State) (k reg v : Nat) : State :=
  s.modRing k fun r => if r.en then r else
    match reg with
    | 0 => { r with base := r.base / 2 ^ 20 * 2 ^ 20 + bits v 31 12 }
    | 1 => { r with base := r.base % 2 ^ 20 + bits v 15 0 * 2 ^ 20 }
    | 2 => { r with log2 := clampTo 6 15 (bits v 4 0) }
    | _ => if k < 32 then r else { r with quota := min 512 (bits v 9 0) }

/-- A register write of ring block `k` at offset `off` (R60). -/
def writeRing (s : State) (k off v : Nat) : State :=
  match off with
  | 0x00 => writeRingCfg s k 0 v
  | 0x04 => writeRingCfg s k 1 v
  | 0x08 => writeRingCfg s k 2 v
  | 0x0C => writeRingTail s k v
  | 0x14 => writeRingCtrl s k v
  | 0x18 => writeRingCfg s k 3 v
  | 0x28 => writeRingResume s k v
  | _ => s

/-- RING_ENABLE (R126): a write of `RING_CTRL` with `EN` 1. -/
def execRingEnable (k v : Nat) (s : State) : Host.Outcome State Fault Refusal :=
  .next (if k > 63 ∨ !awake s then s else writeRingCtrl s k (withBit v 0 true))

/-- RING_DISABLE (R126): a write of `RING_CTRL` with `EN` 0. -/
def execRingDisable (k v : Nat) (s : State) : Host.Outcome State Fault Refusal :=
  .next (if k > 63 ∨ !awake s then s else writeRingCtrl s k (withBit v 0 false))

/-- RING_TAIL_WRITE (R60). -/
def execRingTailWrite (k v : Nat) (s : State) : Host.Outcome State Fault Refusal := .next (if k > 63 ∨ !awake s then s else writeRingTail s k v)

/-- RING_RESUME (R61): a write of 1 to `RING_RESUME.GO`. -/
def execRingResume (k : Nat) (s : State) : Host.Outcome State Fault Refusal := .next (if k > 63 ∨ !awake s then s else writeRingResume s k 1)

end Sys2Proof.Machine
end

