-- ==== Sys2Proof/Machine/SysCmds.lean ====
section
/-! DEFINITION. The commands of groups 0x00 and 0x01 (R97 to R102, R138 to R144), PERF_GET and PERF_SET (R641), and the words that registers
and completions share. -/

namespace Sys2Proof.Machine

/-! ### Register words (R52, R57) -/

/-- A list of flags and fields as one word: value and place of each. -/
def packWord (l : List (Nat × Nat)) : Nat := (l.map fun (x : Nat × Nat) => x.1 * 2 ^ x.2).sum

/-- `DEV_STATUS.POWER_STATE` (R52): 0 Day, 1 Dusk, 2 between them. -/
def powerStateField (s : State) : Nat := if s.power.duskExit then 2 else s.power.state

/-- `DEV_STATUS` (R52). -/
def devStatus (s : State) : Nat := packWord [
  (b2n s.host.ready, 0), (b2n s.host.bundleOk, 1), (powerStateField s % 4, 2), (b2n s.keys.quarantine, 4), (b2n s.lode.debugSplit, 5),
  (b2n s.lode.splitMode, 6), (b2n s.fab.overflow, 7), (s.time.sync % 4, 8), (s.lifecycle % 8, 10), (s.pair.role % 4, 13),
  (b2n s.pair.armed, 15), (b2n s.ep.draining, 16)]

/-- `PERF_SELn` (R57). -/
def perfSel (c : PerfCnt) : Nat := packWord [(c.event % 1024, 0), (b2n c.en, 16), (b2n c.chain, 17)]

/-! ### Group 0x00 (R97 to R102) -/

/-- NOP (R97). -/
def specNop : CmdSpec := {
  opcode := 0x0000, bulkIn := true, bulkOut := true, badLen := lenAny
  body := fun s _ p => .done { st := s, payload := p } }

/-- Commands per group (R103). -/
def groupSizes : List Nat := [6, 7, 8, 16, 10, 7, 10, 5, 12, 11, 6, 13, 8, 12, 8, 8]

/-- The highest layout version of an opcode (R90, R98): 1, or 0 for an opcode that does not exist. -/
def highestVersion (op : Nat) : Nat := b2n (op % 256 < at' groupSizes (op / 256) 0)

/-- GET_VERSIONS (R98). -/
def specGetVersions : CmdSpec := {
  opcode := 0x0001, bulkOut := true, badLen := lenIs 4
  body := fun s _ p =>
    let first := u p 0 2
    let n := clampField 2 1 (min 256 (0x10000 - first)) (u p 2 2)
    .done {
      st := s, clamps := n.off
      payload := le 2 first ++ le 2 n.val ++ (List.range n.val).map fun k => BitVec.ofNat 8 (highestVersion (first + k)) } }

/-- The firmware version of a unit (R99, R645), packed as the manifest's (R646). -/
def unitVersion (s : State) (n : Nat) : Nat := at' s.boot.unitVer n 0

/-- GET_IDENTITY (R99). -/
def specGetIdentity : CmdSpec := {
  opcode := 0x0002, badLen := lenIs 0
  body := fun s _ _ =>
    .done {
      st := s
      payload := le 2 0x9600 ++ le 1 Config.stepping ++ le 1 0x4B ++ le 8 Config.serial ++ le 4 s.host.fwVer ++ le 4 0x00010000 ++
        le 1 s.lifecycle ++ le 1 (b2n s.lode.splitMode + 2 * b2n s.keys.quarantine + 4 * b2n s.lode.debugSplit) ++ zeros 2 ++
        (if s.host.bundleOk then padTo 48 s.boot.bundleDigest else zeros 48) ++ le 4 (if s.host.bundleOk then s.boot.bundleGen else 0) ++
        le 4 s.boot.loaderVer ++ le 4 (unitVersion s 1) ++ le 4 (unitVersion s 3) ++ le 4 (unitVersion s 4) ++ le 4 (unitVersion s 5) ++
        le 4 (unitVersion s 6) ++ le 4 (unitVersion s 7) ++ zeros 8 } }

/-- GET_STATUS (R100). -/
def specGetStatus : CmdSpec := {
  opcode := 0x0003, badLen := lenIs 0
  body := fun s _ _ =>
    .done {
      st := s
      payload := le 4 (devStatus s) ++ le 4 s.ep.epoch ++ le 4 s.host.resetCause ++ le 4 s.host.fwVer ++ le 8 s.mb.uptimeMs ++ le 8 s.now ++
        le 1 s.mb.ring ++ le 1 (s.mb.sessions.filter (·.isOpen)).length ++ le 1 (liveTokens s).length ++ zeros 5 } }

/-- GET_MB_STATS (R94, R101). -/
def specGetMbStats : CmdSpec := {
  opcode := 0x0004, badLen := lenIs 1
  body := fun s _ p =>
    .done {
      st := if bit (u p 0 1) 0 then s.modMb fun m => { m with counters := List.replicate 9 {} } else s
      payload := s.mb.counters.flatMap fun c =>
        le 4 c.ok ++ le 4 c.clamped ++ le 4 c.retry ++ le 4 c.busy ++ le 4 c.rejected ++ le 4 c.fault } }

/-- MODULE_RESET (R102): the reset comes when DELAY_MS has run out. -/
def specModuleReset : CmdSpec := {
  opcode := 0x0005, badLen := lenIs 8
  body := fun s _ p =>
    let d := clampField 4 2 10000 (u p 4 2)
    checked [chkPol (u p 0 4 != 0x9600A55A) 0, { bad := s.upd.stage == 4 || s.upd.stage == 7, status := stBusy }] fun _ =>
      .done {
        clamps := d.off, payload := le 2 d.val
        st := s.modPow fun x => { x with resetDue := some (s.time.aon + msCounts d.val, d.val) } } }

/-! ### Group 0x01 (R138 to R144) -/

/-- EVQ_GET_ROUTES (R138). -/
def specEvqGetRoutes : CmdSpec := {
  opcode := 0x0100, bulkOut := true, badLen := lenIs 4
  body := fun s _ p =>
    let first := u p 0 1
    let n := clampField 2 1 (256 - first) (u p 2 2)
    .done {
      st := s, clamps := n.off
      payload := le 1 first ++ zeros 1 ++ le 2 n.val ++ (List.range n.val).flatMap fun k =>
        le 1 (s.route (first + k)).queue ++ le 1 (s.route (first + k)).minSev } }

/-- The routing table with `n` types from `first` on routed as `r` says (R139). -/
def setRoutes (t : Tab Route) (first n : Nat) (r : Route) : Tab Route := (List.range n).foldl (fun t k => tset t (first + k) r) t

/-- EVQ_SET_ROUTE (R139). -/
def specEvqSetRoute : CmdSpec := {
  opcode := 0x0101, badLen := lenIs 4
  body := fun s _ p =>
    let first := u p 0 1
    let last := clampField 1 first 255 (u p 1 1)
    let q := u p 2 1
    let sev := clampField 3 0 7 (u p 3 1)
    checked [chkSup (q > 3 && q != 0xFF) 2] fun _ =>
      .done {
        clamps := last.off ++ sev.off
        payload := le 1 first ++ le 1 last.val ++ le 1 q ++ le 1 sev.val
        st := { s with routes := setRoutes s.routes first (last.val + 1 - first) { queue := q, minSev := sev.val } } } }

/-- RING_BIND (R116, R140). -/
def specRingBind : CmdSpec := {
  opcode := 0x0102, level := 4, badLen := lenIs 4
  body := fun s _ p =>
    let k := u p 0 1
    let d := u p 1 1
    checked [chkSup (k > 31) 0, chkSup (d > 7 && d != 0xFF) 1, chkConf (d != 0xFF && !inCarve s d) 1] fun _ =>
      let was := s.ep.cur.ing.ringBind
      .done {
        payload := le 1 k ++ le 1 d ++ le 1 (tgetD was k 0xFF), tables := 1, commits := true
        st := { s with ep := { s.ep with cur := { s.ep.cur with ing := { s.ep.cur.ing with
          ringBind := if d = 0xFF then tdel was k else tset was k d } } } } } }

/-- The values a selector of RX_STEER_SET stands for: one, or 0xFF for all eight (R141). -/
def eightOf (x : Nat) : List Nat := if x = 0xFF then List.range 8 else [x]

/-- RX_STEER_SET (R117, R141). -/
def specRxSteerSet : CmdSpec := {
  opcode := 0x0103, badLen := lenIs 4
  body := fun s _ p =>
    let d := u p 0 1
    let t := u p 1 1
    let k := u p 2 1
    checked [chkSup (d > 7 && d != 0xFF) 0, chkSup (t > 7 && t != 0xFF) 1, chkSup (k > 31) 2] fun _ =>
      let es := (eightOf d).flatMap fun d => (eightOf t).map fun t => 8 * d + t
      .done {
        payload := le 1 d ++ le 1 t ++ le 1 k ++ zeros 1 ++ le 1 es.length
        st := { s with dma := { s.dma with steer := es.foldl (fun m e => tset m e k) s.dma.steer } } } }

/-- RX_STEER_GET (R117, R142). -/
def specRxSteerGet : CmdSpec := {
  opcode := 0x0104, badLen := lenIs 0
  body := fun s _ _ => .done { st := s, payload := (List.range 64).map fun e => BitVec.ofNat 8 (tgetD s.dma.steer e (e % 8)) } }

/-- DMA_GET_COUNTERS (R136, R143). -/
def specDmaGetCounters : CmdSpec := {
  opcode := 0x0105, badLen := lenIs 2
  body := fun s _ p =>
    let k := u p 0 1
    checked [chkSup (k > 63) 0] fun _ =>
      let r := s.ring k
      .done {
        payload := le 1 k ++ zeros 7 ++ le 8 r.frames ++ le 8 r.bytes ++ le 4 r.c0 ++ le 4 r.c1 ++ le 4 r.c2 ++ le 4 r.c3 ++ le 4 r.c4 ++ le 4 r.c5
        st := if bit (u p 1 1) 0 then s.modRing k fun r => { r with frames := 0, bytes := 0, c0 := 0, c1 := 0, c2 := 0, c3 := 0, c4 := 0, c5 := 0 }
          else s } }

/-- ATU_GET_COUNTERS (R136, R144). -/
def specAtuGetCounters : CmdSpec := {
  opcode := 0x0106, badLen := lenIs 1
  body := fun s _ p =>
    let a := s.dma.atu
    .done {
      payload := le 8 a.hits ++ le 8 a.misses ++ le 8 a.reads ++ le 4 a.invals ++ le 4 a.faults
      st := if bit (u p 0 1) 0 then s.modAtu fun a => { a with hits := 0, misses := 0, reads := 0, invals := 0, faults := 0 } else s } }

/-! ### Performance counters (R57, R627, R641) -/

/-- Whether an event code is listed (R627). -/
def perfCodeOk (c : Nat) : Bool :=
  c ≤ 4 || (0x10 ≤ c && c ≤ 0x12) || (0x20 ≤ c && c ≤ 0x24) || c == 0x30 || c == 0x31 || c == 0x40 || c == 0x41 || c == 0x50 || c == 0x51 ||
    c == 0x60 || c == 0x61 || c == 0x70 || c == 0x71 || c == 0x80 || (0x100 ≤ c && c ≤ 0x10B) || (0x200 ≤ c && c ≤ 0x224) ||
    (0x280 ≤ c && c ≤ 0x2A4)

/-- A write of `PERF_SELn` (R17, R57): an undefined code leaves `EVENT` as it was, `CHAIN` is reserved in `PERF_SEL0`. -/
def writePerfSel (h : HostLink) (n v : Nat) : HostLink :=
  { h with perf := h.perf.modify n fun c => { c with
    event := if perfCodeOk (bits v 9 0) then bits v 9 0 else c.event, en := bit v 16, chain := n != 0 && bit v 17 } }

/-- A write of `PERF_CNTn` (R57). -/
def writePerfCnt (h : HostLink) (n v : Nat) : HostLink := { h with perf := h.perf.modify n fun c => { c with count := v % 2 ^ 32 } }

/-- A write of `PERF_CTL` (R57). -/
def writePerfCtl (h : HostLink) (v : Nat) : HostLink :=
  { h with perfFreeze := bit v 0, perf := if bit v 1 then h.perf.map fun c => { c with count := 0 } else h.perf }

/-- The completion of PERF_GET (R641). -/
def perfPayload (h : HostLink) : List Byte :=
  le 8 h.perfCycle ++ le 4 (b2n h.perfFreeze) ++ (h.perf.flatMap fun c => le 4 (perfSel c)) ++ h.perf.flatMap fun c => le 4 c.count

/-- PERF_GET (R641). -/
def specPerfGet : CmdSpec := {
  opcode := 0x0D0A, badLen := lenIs 0
  body := fun s _ _ => .done { st := s, payload := perfPayload s.host } }

/-- PERF_SET (R641): the same BAR0 writes, made in one clock. -/
def specPerfSet : CmdSpec := {
  opcode := 0x0D0B, badLen := lenIs 68
  body := fun s _ p =>
    let sel := bitList 8 (u p 0 1)
    let fl := u p 1 1
    checked (sel.map fun n => chkSup (!perfCodeOk (bits (u p (4 + 4 * n) 4) 9 0)) (4 + 4 * n)) fun _ =>
      let h1 := writePerfCtl s.host (fl % 4)
      let h2 := sel.foldl (fun h n => writePerfSel h n (u p (4 + 4 * n) 4)) h1
      let h3 := if bit fl 2 then sel.foldl (fun h n => writePerfCnt h n (u p (36 + 4 * n) 4)) h2 else h2
      .done { payload := perfPayload h3, st := s.modHost fun _ => h3 } }

/-! ### The rows of these commands -/

/-- NOP (R97): the command from its source. -/
def execNop (r : Req) (s : State) : Host.Outcome State Fault Refusal := command specNop r s

/-- GET_VERSIONS (R98): the command from its source. -/
def execGetVersions (r : Req) (s : State) : Host.Outcome State Fault Refusal := command specGetVersions r s

/-- GET_IDENTITY (R99): the command from its source. -/
def execGetIdentity (r : Req) (s : State) : Host.Outcome State Fault Refusal := command specGetIdentity r s

/-- GET_STATUS (R100): the command from its source. -/
def execGetStatus (r : Req) (s : State) : Host.Outcome State Fault Refusal := command specGetStatus r s

/-- GET_MB_STATS (R101): the command from its source. -/
def execGetMbStats (r : Req) (s : State) : Host.Outcome State Fault Refusal := command specGetMbStats r s

/-- MODULE_RESET (R102): the command from its source. -/
def execModuleReset (r : Req) (s : State) : Host.Outcome State Fault Refusal := command specModuleReset r s

/-- EVQ_GET_ROUTES (R138): the command from its source. -/
def execEvqGetRoutes (r : Req) (s : State) : Host.Outcome State Fault Refusal := command specEvqGetRoutes r s

/-- EVQ_SET_ROUTE (R139): the command from its source. -/
def execEvqSetRoute (r : Req) (s : State) : Host.Outcome State Fault Refusal := command specEvqSetRoute r s

/-- RING_BIND (R140): the command from its source. -/
def execRingBind (r : Req) (s : State) : Host.Outcome State Fault Refusal := command specRingBind r s

/-- RX_STEER_SET (R141): the command from its source. -/
def execRxSteerSet (r : Req) (s : State) : Host.Outcome State Fault Refusal := command specRxSteerSet r s

/-- RX_STEER_GET (R142): the command from its source. -/
def execRxSteerGet (r : Req) (s : State) : Host.Outcome State Fault Refusal := command specRxSteerGet r s

/-- DMA_GET_COUNTERS (R143): the command from its source. -/
def execDmaGetCounters (r : Req) (s : State) : Host.Outcome State Fault Refusal := command specDmaGetCounters r s

/-- ATU_GET_COUNTERS (R144): the command from its source. -/
def execAtuGetCounters (r : Req) (s : State) : Host.Outcome State Fault Refusal := command specAtuGetCounters r s

/-- PERF_GET (R641): the command from its source. -/
def execPerfGet (r : Req) (s : State) : Host.Outcome State Fault Refusal := command specPerfGet r s

/-- PERF_SET (R641): the command from its source. -/
def execPerfSet (r : Req) (s : State) : Host.Outcome State Fault Refusal := command specPerfSet r s

end Sys2Proof.Machine
end

