-- ==== Sys2Proof/Machine/ExecRun.lean ====
section
/-! DEFINITION. The command set by opcode (R103), and the executor: dispatch, the commit after a drain, retry tokens and remote messages
(R73, R82 to R84, R88, R92). -/

namespace Sys2Proof.Machine

/-- The commands of one group, in the order of their opcodes (R103). -/
def groupSpecs : Nat → List CmdSpec
  | 0 => [specNop, specGetVersions, specGetIdentity, specGetStatus, specGetMbStats, specModuleReset]
  | 1 => [specEvqGetRoutes, specEvqSetRoute, specRingBind, specRxSteerSet, specRxSteerGet, specDmaGetCounters, specAtuGetCounters]
  | 2 => [specPortGetStatus, specPortSet, specEdgeGroupSet, specPortGetCounters, specPlcaSet, specPseSet, specPseGetStatus,
    specTrainingClear]
  | 3 => [specDomainMapSet, specDomainParamsSet, specVlanSet, specFdbStaticSet, specFdbFlush, specFdbRead, specStreamIdSet,
    specStreamSet, specFilterSet, specGateSet, specMeterSet, specFrerSet, specMirrorSet, specCountersGet, specStateClear,
    specTableRead]
  | 4 => [specZoneSet, specZoneMapSet, specZonePairSet, specRuleSet, specLimiterSet, specHorizonParamsSet, specSessionRead,
    specSessionFlush, specHorizonCountersGet, specHorizonTableRead]
  | 5 => [specFabricStatusGet, specFabricStartSet, specFabricModeSet, specWideStreamSet, specCutThroughSet,
    specFabricCountersGet, specEpochSync]
  | 6 => [specQueueSet, specShaperSet, specCbsSet, specGclSet, specGclGet, specPreemptSet, specZenithAdmitSet,
    specZenithStatusGet, specQueueFlush, specEgressCountersGet]
  | 7 => [specTimeStatusGet, specTimeParamsSet, specGptpInstanceSet, specTimeStep, specGptpPortGet]
  | 8 => [specChannelStatusGet, specCanSet, specCanWakeSet, specCanRecover, specMvbSet, specMvbPortSet, specMvbAdminSet,
    specSerialSet, specLinSet, specLinScheduleSet, specDioSet, specChannelCountersGet]
  | 9 => [specGwCycleSet, specRouteTableSet, specEndpointSet, specAcfBusSet, specGwWrite, specGwRead, specGwLock, specGwExchange,
    specGwStatusGet, specGwCountersGet, specGwTableRead]
  | 10 => [specPowerStatusGet, specPowerStateSet, specWakeSet, specPoolSet, specArbiterGet, specSupplySet]
  | 11 => [specLifecycleGet, specLifecycleSet, specKeySlotWrite, specKeySlotErase, specKeySlotInfo, specKeyOp,
    specProvisionClose, specMacsecPortSet, specMacsecSaSet, specMkaSet, specMacsecStatusGet, specMacsecCountersGet, specTamperSet]
  | 12 => [specMeasGet, specMeasLogRead, specMeasExtend, specAttestGet, specBootStatusGet, specCertGet, specCertSet, specSpdmSet]
  | 13 => [specLodestarStatusGet, specLodestarModeSet, specSensorGet, specSensorThresholdSet, specNightwatchSet, specLogRead,
    specLogSet, specMemportSet, specMemportGet, specPortBwGet, specPerfGet, specPerfSet]
  | 14 => [specUpdateStatusGet, specUpdateBegin, specUpdateBlock, specUpdateVerify, specUpdateActivate, specUpdateConfirm,
    specUpdateAbort, specUpdateParamsSet]
  | 15 => [specPairStatusGet, specPairSet, specPairSwitch, specPairCountersGet, specTtdpSet, specTtdpStatusGet, specMrpSet,
    specMrpStatusGet]
  | _ => []

/-- An opcode that no chapter defines (R103). -/
def unknownSpec (op : Nat) : CmdSpec := { opcode := op, known := false, badLen := lenAny, body := fun _ _ _ => .fail stBadOpcode noDetail }

/-- The command of an opcode (R103). -/
def specOf (op : Nat) : CmdSpec := (groupSpecs (op / 256)).getD (op % 256) (unknownSpec op)

/-! ### The executor (R73, R82, R83) -/

/-- The rank of a source: MB0 first, the remote sessions with MB7 (R73). -/
def rankOf (src : Nat) : Nat := min src 7

/-- Whether a command goes before another (R73). -/
def goesBefore (a b : Cmd) : Bool := rankOf a.req.src < rankOf b.req.src || (rankOf a.req.src == rankOf b.req.src && a.order < b.order)

/-- The submitted command that goes first (R73). -/
def firstOf : List Cmd → Option Cmd
  | [] => none
  | c :: cs => match firstOf cs with
    | none => some c
    | some d => some (if goesBefore d c then d else c)

/-- The command the executor takes next: the first of those it is free for (R73, R83). -/
def nextCommand (s : State) : Option Cmd := firstOf (s.mb.submitted.filter fun c => executorFree s c.req.src)

/-- COMMAND_DISPATCH (R73): the executor takes the submitted command of the highest priority and runs it. -/
def execCommandDispatch (s : State) : Host.Outcome State Fault Refusal :=
  if !awake s ∨ !serving s then .next s else
  match nextCommand s with
  | none => .next s
  | some c =>
    .next (runCommand (s.modMb fun m => { m with submitted := m.submitted.filter fun x => x.order != c.order })
      (specOf c.opcode) c.req c.order false none)

/-- COMMIT_AFTER_DRAIN (R82, R84, R316, R330): the command in execution that waits for the older epoch goes on once it has drained. Its checks
are made again. -/
def execCommitAfterDrain (s : State) : Host.Outcome State Fault Refusal :=
  if !awake s ∨ !serving s ∨ s.ep.draining then .next s else
  match s.mb.waiting with
  | [] => .next s
  | w :: ws =>
    let s1 := s.modMb fun m => { m with waiting := ws }
    match w.kind with
    | .drain => .next (runCommand s1 (specOf w.cmd.opcode) w.cmd.req w.cmd.order w.drop (some w.since))
    | .sync =>
      .next (finishDone s1 w.cmd w.cmd.level { st := s1, payload := epochSyncPayload s ((s.now - w.since) / 1000) } w.drop 0)
    | _ => .next s

/-- RETRY_TOKEN_EXPIRY (R88): a token expires `RETRY_AFTER_MS` + 1,000 ms after its issue. -/
def execRetryTokenExpiry (token : Nat) (s : State) : Host.Outcome State Fault Refusal :=
  match s.mb.tokens.find? fun t => t.token == token with
  | none => .next s
  | some t => .next (dropToken (s.until (t.issued + (t.hintMs + 1000) * 1000000)) token)

/-! ### Requests as bytes (R74, R92) -/

/-- The request that a header says, with its payload and bulk payload (R74). -/
def reqOfHeader (src : Nat) (h payload bulk : List Byte) (unmatched : Bool) : Req := {
  src := src, version := u h 2 1, flags := u h 3 1, length := u h 4 2, tag := u h 6 2, token := u h 8 4, level := u h 12 1
  ctx := u h 13 1 % 64, bulkIova := u h 16 8, bulkLen := u h 24 4, payload := payload, bulk := bulk, unmatched := unmatched }

/-- The request in the window of mailbox `n` (R70). -/
def windowReq (s : State) (n : Nat) : Req :=
  let h := mread s.mb.windows (n * 0x1000) 32
  reqOfHeader n h (mread s.mb.windows (n * 0x1000 + 0x20) (min 2016 (u h 4 2))) [] false

/-- The doorbell of mailbox `n` rings (R71, R72): the command in its window is submitted. -/
def ringMailbox (s : State) (n : Nat) : State :=
  if sourceBusy s n then s else submit s (specOf (u (mread s.mb.windows (n * 0x1000) 2) 0 2)) (windowReq s n)

/-- The longest valid remote message (R92). -/
def maxMessage : Nat := 16779264

/-- REMOTE_MESSAGE (R92, R93): a message of `len` bytes on session `i`. A length out of range closes the session; one that does not match the
header is answered BAD_LENGTH. -/
def execRemoteMessage (i len : Nat) (msg : List Byte) (s : State) : Host.Outcome State Fault Refusal :=
  if i > 3 ∨ !awake s ∨ !(session s i).isOpen then .next s else
  let s1 := s.modMb fun m => { m with sessions := m.sessions.modify i fun x => { x with last := s.now } }
  if len < 32 ∨ maxMessage < len then .next (closeSession s1 i 1) else
  let n := u msg 4 2
  let bulk := bit (u msg 3 1) 1
  let want := 32 + n + if bulk then u msg 24 4 else 0
  .next (submit s1 (specOf (u msg 0 2))
    (reqOfHeader (8 + i) (msg.take 32) ((msg.drop 32).take n) (if bulk then (msg.drop (32 + n)).take (u msg 24 4) else []) (len != want)))

end Sys2Proof.Machine
end

