-- ==== Sys2Proof/Machine/HostRegs.lean ====
section
/-! DEFINITION. The BARs (spec 02, R44 to R69): what reads answer, the latches of R50, register writes, the ATU registers, bandwidth
windows, MSI-X, mailbox doorbells and windows. -/

namespace Sys2Proof.Machine

/-! ### What a read answers (R46, R47, R50 to R63, R68) -/

/-- Low and high half of a 64-bit value. -/
def lo32 (x : Nat) : Nat := x % 2 ^ 32
def hi32 (x : Nat) : Nat := x / 2 ^ 32 % 2 ^ 32

/-- `CAPS` (R52). -/
def capsWord (s : State) : Nat := 31 + 32 * b2n s.host.bar2Permit

/-- `MER_STATE` (R56). -/
def merState (s : State) : Nat :=
  packWord [(s.time.sync % 4, 0), (s.time.steering % 2, 2), (if s.time.sync ≥ 2 then min (ageS s) 65535 else 0, 16)]

/-- `BW_CTRL` (R57). -/
def bwCtrl (h : HostLink) : Nat := packWord [(h.bwWindowMs, 0), (h.bwPort, 16), (b2n h.bwIngress, 24)]

/-- A register of queue `q` (R59). -/
def readEq (e : EvQueue) (off : Nat) : Nat :=
  match off with
  | 0x00 => e.base % 2 ^ 20 * 4096
  | 0x04 => e.base / 2 ^ 20
  | 0x08 => e.log2
  | 0x0C => e.head
  | 0x10 => e.tail
  | 0x14 => packWord [(b2n e.en, 0), (b2n e.irqEn, 1), (e.vec, 8), (e.ctx, 16)]
  | 0x18 => packWord [(e.coalCnt, 0), (e.coalUs, 8)]
  | 0x1C => packWord [(b2n e.overflow, 0), (b2n e.fault, 1), (e.lost, 16)]
  | _ => 0

/-- A register of ring block `k` (R60). -/
def readRing (r : Ring) (k off : Nat) : Nat :=
  match off with
  | 0x00 => r.base % 2 ^ 20 * 4096
  | 0x04 => r.base / 2 ^ 20
  | 0x08 => r.log2
  | 0x0C => r.tail
  | 0x10 => r.head
  | 0x14 => packWord [(b2n r.en, 0), (r.prio, 1), (b2n r.irqEn, 4), (r.vec, 8), (r.ctx, 16)]
  | 0x18 => if k < 32 then 0 else r.quota
  | 0x1C => packWord [(b2n r.parked, 0), (b2n r.wr, 1), (r.faultIdx, 16)]
  | 0x20 => lo32 r.faultIova
  | 0x24 => r.faultIova / 2 ^ 32
  | _ => 0

/-- A register of ATU context `c` (R62). -/
def readCtx (x : AtuCtx) (off : Nat) : Nat :=
  match off with
  | 0x00 => x.root % 2 ^ 20 * 4096
  | 0x04 => x.root / 2 ^ 20
  | 0x08 => b2n x.valid
  | 0x0C => packWord [(b2n x.faulted, 0), (x.faults, 16)]
  | _ => 0

/-- A register of the blocks below 0x400 (R52, R54, R56, R57). -/
def readLow (s : State) (off : Nat) : Nat :=
  let h := s.host
  match off with
  | 0x000 => packWord [(0x9600, 0), (Config.stepping % 256, 16), (0x4B, 24)]
  | 0x004 => h.fwVer
  | 0x008 => 0x00010000
  | 0x00C => capsWord s
  | 0x010 => lo32 Config.serial
  | 0x014 => hi32 Config.serial
  | 0x020 => devStatus s
  | 0x024 => s.ep.epoch
  | 0x028 => h.resetCause
  | 0x030 => b2n h.bar2En
  | 0x100 => s.mb.ring
  | 0x104 => s.mb.done
  | 0x108 => packWord [(s.mb.irqVec, 0), (b2n s.mb.irqEn, 8)]
  | 0x200 => lo32 s.now
  | 0x204 => h.merHi
  | 0x208 => h.merRawLo
  | 0x20C => h.merRawHi
  | 0x210 => ofInt 32 s.time.rate
  | 0x214 => merState s
  | 0x218 => (errEst s).getD 0xFFFFFFFF
  | 0x300 => lo32 h.perfCycle
  | 0x304 => h.perfHi
  | 0x308 => b2n h.perfFreeze
  | 0x350 => bwCtrl h
  | 0x354 => lo32 h.bwBytes
  | 0x358 => h.bwLatchHi
  | 0x35C => h.bwLatchFr
  | 0x360 => h.bwLatchSeq
  | _ =>
    if 0x310 ≤ off ∧ off < 0x330 then perfSel (at' h.perf ((off - 0x310) / 4) {})
    else if 0x330 ≤ off ∧ off < 0x350 then (at' h.perf ((off - 0x330) / 4) {}).count
    else 0

/-- The content of the 32-bit register at a BAR0 offset below 0x8000 (R51, R47: reserved offsets read 0). -/
def readReg (s : State) (off : Nat) : Nat :=
  if off % 4 ≠ 0 then 0
  else if off < 0x400 then readLow s off
  else if off < 0x500 then readEq (s.eq ((off - 0x400) / 0x40)) (off % 0x40)
  else if off < 0x1000 then 0
  else if off < 0x2000 then readRing (s.ring ((off - 0x1000) / 0x40)) ((off - 0x1000) / 0x40) (off % 0x40)
  else if off < 0x2020 then 0
  else if off < 0x2800 then readCtx (at' s.dma.atu.ctxs ((off - 0x2000) / 0x20) {}) (off % 0x20)
  else
    let a := s.dma.atu
    match off with
    | 0x2800 => packWord [(b2n a.go, 0), (a.scope, 1), (a.invCtx, 8)]
    | 0x2804 => a.invAddr % 2 ^ 20 * 4096
    | 0x2808 => a.invAddr / 2 ^ 20
    | _ => 0

/-- What BAR2 reads (R68): live copies while the mirror is enabled, else 0. -/
def readMirror (s : State) (off : Nat) : Nat :=
  let h := s.host
  if !h.bar2En then 0 else
  match off with
  | 0x000 => lo32 h.perfCycle
  | 0x004 => hi32 h.perfCycle
  | 0x040 => lo32 h.bwBytes
  | 0x044 => hi32 h.bwBytes
  | 0x048 => h.bwFrames
  | 0x04C => h.bwSeq
  | _ => if 0x010 ≤ off ∧ off < 0x030 ∧ off % 4 = 0 then (at' h.perf ((off - 0x010) / 4) {}).count else 0

/-- What BAR4 reads (R44, R45): the MSI-X table and the pending bits. -/
def readMsix (s : State) (off : Nat) : Nat :=
  if off < 0x400 then
    let e := at' s.host.msix (off / 16) {}
    match off % 16 with
    | 0 => lo32 e.addr
    | 4 => hi32 e.addr
    | 8 => e.data
    | 12 => b2n e.mask
    | _ => 0
  else if off = 0x800 then lo32 s.host.msixPend
  else if off = 0x804 then hi32 s.host.msixPend
  else 0

/-! ### The latches (R50, R56, R57) -/

/-- MER_TIME_LO_READ (R56). -/
def execMerTimeLoRead (s : State) : Host.Outcome State Fault Refusal :=
  .next (if !awake s then s else s.modHost fun h => { h with
    merHi := hi32 s.now, merRawLo := lo32 s.time.raw, merRawHi := hi32 s.time.raw })

/-- PERF_CYCLE_LO_READ (R57). -/
def execPerfCycleLoRead (s : State) : Host.Outcome State Fault Refusal :=
  .next (if !awake s then s else s.modHost fun h => { h with perfHi := hi32 h.perfCycle })

/-- BW_BYTES_LO_READ (R57). -/
def execBwBytesLoRead (s : State) : Host.Outcome State Fault Refusal :=
  .next (if !awake s then s else s.modHost fun h => { h with
    bwLatchHi := hi32 h.bwBytes, bwLatchFr := h.bwFrames, bwLatchSeq := h.bwSeq })

/-! ### MSI-X (R45) -/

/-- The pending message of an unmasked vector is sent once (R45). -/
def sendPending (s : State) (v : Nat) : State :=
  if bit s.host.msixPend v ∧ !(at' s.host.msix v {}).mask ∧ !s.host.d3hot then
    s.modHost fun h => { h with msixPend := withBit h.msixPend v false, msixSent := tmod h.msixSent v 0 (· + 1) }
  else s

/-- A write of dword `w` of table entry `v` (R44 to R46). -/
def writeMsix (s : State) (v w x : Nat) : State :=
  let s1 := s.modHost fun h => { h with msix := h.msix.modify v fun e =>
    match w with
    | 0 => { e with addr := hi32 e.addr * 2 ^ 32 + x }
    | 1 => { e with addr := lo32 e.addr + x * 2 ^ 32 }
    | 2 => { e with data := x }
    | _ => { e with mask := bit x 0 } }
  if w = 3 then sendPending s1 v else s1

/-- MSIX_VECTOR_UNMASK (R45). -/
def execMsixVectorUnmask (v : Nat) (s : State) : Host.Outcome State Fault Refusal :=
  .next (if v > 63 ∨ !awake s then s else writeMsix s v 3 0)

/-! ### ATU registers (R62 to R64) -/

/-- A completed invalidation is counted (R136). -/
def countInval (a : Atu) : Atu := { a with invals := satAdd 32 a.invals 1 }

/-- A write of `ATU_ROOT_LO`, `ATU_ROOT_HI` or `ATU_CTX_CTRL`, with its implicit context-scope invalidation (R62, R64). -/
def writeAtuCtx (s : State) (c off v : Nat) : State :=
  s.modAtu fun a => countInval { a with
    tlb := a.tlb.filter fun e => e.ctx != c
    ctxs := a.ctxs.modify c fun x => match off with
      | 0x00 => { x with root := x.root / 2 ^ 20 * 2 ^ 20 + bits v 31 12 }
      | 0x04 => { x with root := x.root % 2 ^ 20 + v % 2 ^ 32 * 2 ^ 20 }
      | _ => { x with valid := bit v 0 } }

/-- A write of `ATU_CTX_STATUS` (R62). -/
def clearAtuStatus (s : State) (c v : Nat) : State :=
  s.modAtu fun a => { a with ctxs := a.ctxs.modify c fun x => if bit v 0 && x.faulted then { x with faulted := false, faults := 0 } else x }

/-- The entries that an invalidation removes are gone (R63, R64). -/
def invalidate (a : Atu) : Atu :=
  let iova := a.invAddr * 4096
  { a with tlb := a.tlb.filter fun e =>
    !(match a.scope with
      | 0 => e.ctx == a.invCtx && e.page == iova / 2 ^ e.size * 2 ^ e.size
      | 1 => e.ctx == a.invCtx
      | _ => true) }

/-- A write of `ATU_INV_CTRL` (R63, R64): ignored while `GO` is 1; `SCOPE` 3 is undefined (R17). -/
def writeAtuInv (s : State) (v : Nat) : State :=
  s.modAtu fun a => if a.go then a else
    let a1 := { a with scope := if bits v 2 1 = 3 then a.scope else bits v 2 1, invCtx := clampTo 1 63 (bits v 13 8) }
    if bit v 0 then invalidate { a1 with go := true } else a1

/-- A write of `ATU_INV_ADDR_LO` or `ATU_INV_ADDR_HI` (R63, R64). -/
def writeAtuAddr (s : State) (hi : Bool) (v : Nat) : State :=
  s.modAtu fun a => if a.go then a
    else if hi then { a with invAddr := a.invAddr % 2 ^ 20 + bits v 15 0 * 2 ^ 20 }
    else { a with invAddr := a.invAddr / 2 ^ 20 * 2 ^ 20 + bits v 31 12 }

/-- ATU_INVALIDATE (R64): a write of `ATU_INV_CTRL` with `GO` 1. -/
def execAtuInvalidate (v : Nat) (s : State) : Host.Outcome State Fault Refusal :=
  .next (if !awake s then s else writeAtuInv s (withBit v 0 true))

/-- ATU_INVALIDATION_COMPLETE (R64). -/
def execAtuInvalidationComplete (s : State) : Host.Outcome State Fault Refusal :=
  .next (if !s.dma.atu.go ∨ !awake s then s else s.modAtu fun a => countInval { invalidate a with go := false })

/-- ATU_CONTEXT_WRITE (R64): a write of `ATU_ROOT_LO` (offset 0), `ATU_ROOT_HI` (4) or `ATU_CTX_CTRL` (8) of context `c`. -/
def execAtuContextWrite (c off v : Nat) (s : State) : Host.Outcome State Fault Refusal :=
  .next (if c = 0 ∨ c > 63 ∨ (off ≠ 0 ∧ off ≠ 4 ∧ off ≠ 8) ∨ !awake s then s else writeAtuCtx s c off v)

/-- ATU_CTX_STATUS_CLEAR (R62). -/
def execAtuCtxStatusClear (c v : Nat) (s : State) : Host.Outcome State Fault Refusal :=
  .next (if c = 0 ∨ c > 63 ∨ !awake s then s else clearAtuStatus s c v)

/-! ### Bandwidth windows (R57, R58, R629) -/

/-- A window starts (R58, R629). -/
def startWindowBw (s : State) : State :=
  s.modHost fun h => { h with bwWindowAt := s.time.raw, bw := h.bw.map fun b => { b with nowIn := {}, nowOut := {} } }

/-- A write of `BW_CTRL` (R16, R17, R57, R58). -/
def writeBwCtrl (s : State) (v : Nat) : State :=
  let h := s.host
  let h1 := { h with
    bwWindowMs := clampTo 1 10000 (bits v 13 0), bwPort := if bits v 21 16 > 33 then h.bwPort else bits v 21 16, bwIngress := bit v 24 }
  let s1 := s.modHost fun _ => h1
  if bwCtrl h1 = bwCtrl h then s1 else startWindowBw s1

/-- BW_CTRL_WRITE (R58). -/
def execBwCtrlWrite (v : Nat) (s : State) : Host.Outcome State Fault Refusal := .next (if awake s then writeBwCtrl s v else s)

/-- BW_WINDOW_END (R57, R629): the window of `WINDOW_MS` ends and the next begins. -/
def execBwWindowEnd (s : State) : Host.Outcome State Fault Refusal :=
  if !awake s then .next s else
  let s1 := laterFrom s s.host.bwWindowAt (msCounts s.host.bwWindowMs)
  .next (startWindowBw (s1.modHost fun h =>
    let b := at' h.bw h.bwPort {}
    let f := if h.bwIngress then b.nowIn else b.nowOut
    { h with
      bwBytes := f.bytes, bwFrames := f.frames, bwSeq := wrapAdd 32 h.bwSeq 1
      bw := h.bw.map fun b => { b with lastIn := b.nowIn, lastOut := b.nowOut } }))

/-! ### Registers below 0x400 and the doorbells (R52, R54, R57) -/

/-- PERF_CTL_CLEAR (R57): a write of `PERF_CTL` with `CLEAR` 1. -/
def execPerfCtlClear (v : Nat) (s : State) : Host.Outcome State Fault Refusal :=
  .next (if awake s then s.modHost fun h => writePerfCtl h (withBit v 1 true) else s)

/-- A write of `HOST_CTRL` (R52). -/
def writeHostCtrl (s : State) (v : Nat) : State := s.modHost fun h => { h with bar2En := bit v 0 && h.bar2Permit }

/-- BAR2_ENABLE_WRITE (R52, R626). -/
def execBar2EnableWrite (v : Nat) (s : State) : Host.Outcome State Fault Refusal := .next (if awake s then writeHostCtrl s v else s)

/-- A write of `MB_DOORBELL` (R54, R72). -/
def writeDoorbell (s : State) (v : Nat) : State := (bitList 8 v).foldl ringMailbox s

/-- A write below 0x400 (R52, R54, R57); what is read-only or reserved ignores it (R13, R47). -/
def writeLow (s : State) (off v : Nat) : State :=
  match off with
  | 0x028 => s.modHost fun h => { h with resetCause := setDiff h.resetCause (v % 1024) }
  | 0x030 => writeHostCtrl s v
  | 0x100 => writeDoorbell s v
  | 0x104 => s.modMb fun m => { m with done := setDiff m.done (v % 256) }
  | 0x108 => s.modMb fun m => { m with irqVec := bits v 5 0, irqEn := bit v 8 }
  | 0x308 => s.modHost fun h => writePerfCtl h v
  | 0x350 => writeBwCtrl s v
  | _ =>
    if 0x310 ≤ off ∧ off < 0x330 then s.modHost fun h => writePerfSel h ((off - 0x310) / 4) v
    else if 0x330 ≤ off ∧ off < 0x350 then s.modHost fun h => writePerfCnt h ((off - 0x330) / 4) v
    else s

/-- A 32-bit write of the register at a BAR0 offset below 0x8000 (R48, R51). -/
def writeReg (s : State) (off v : Nat) : State :=
  if off < 0x400 then writeLow s off v
  else if off < 0x500 then writeEq s ((off - 0x400) / 0x40) (off % 0x40) v
  else if off < 0x1000 then s
  else if off < 0x2000 then writeRing s ((off - 0x1000) / 0x40) (off % 0x40) v
  else if off < 0x2020 then s
  else if off < 0x2800 then
    let c := (off - 0x2000) / 0x20
    let o := off % 0x20
    if o = 0x0C then clearAtuStatus s c v else if o = 0 ∨ o = 4 ∨ o = 8 then writeAtuCtx s c o v else s
  else match off with
    | 0x2800 => writeAtuInv s v
    | 0x2804 => writeAtuAddr s false v
    | 0x2808 => writeAtuAddr s true v
    | _ => s

/-- A byte written into a mailbox window at `off` from 0x8000 (R70, R71): the request area of an idle mailbox takes it. -/
def writeWindow (s : State) (off : Nat) (b : Byte) : State :=
  if 0x8000 ≤ off ∨ 0x800 ≤ off % 0x1000 ∨ sourceBusy s (off / 0x1000) then s
  else s.modMb fun m => { m with windows := mset m.windows off b }

/-- One dword of a write with its byte enables (R46). -/
def writeDword (s : State) (bar off v be : Nat) : State :=
  if bar = 0 ∧ 0x8000 ≤ off then
    (List.range 4).foldl (fun s i => if bit be i then writeWindow s (off - 0x8000 + i) (BitVec.ofNat 8 (v / 256 ^ i)) else s) s
  else if be % 16 ≠ 15 then s
  else if bar = 0 then writeReg s off (v % 2 ^ 32)
  else if bar = 4 ∧ off < 0x400 then writeMsix s (off / 16) (off % 16 / 4) (v % 2 ^ 32)
  else s

/-- The dwords of a write in address order. -/
def writeDwords (bar : Nat) : List (Nat × Nat) → Nat → State → State
  | [], _, s => s
  | d :: ds, off, s => writeDwords bar ds (off + 4) (writeDword s bar off d.1 d.2)

/-- REGISTER_WRITE (R46 to R48): a write of up to 64 bytes into BAR 0, 2 or 4, dword by dword with its byte enables. -/
def execRegisterWrite (bar off : Nat) (dwords : List (Nat × Nat)) (s : State) : Host.Outcome State Fault Refusal :=
  .next (if !awake s ∨ 16 < dwords.length then s else writeDwords bar dwords (off / 4 * 4) s)

end Sys2Proof.Machine
end

