-- ==== Sys2Proof/Machine/LinkRun.lean ====
section
/-! DEFINITION. The PCIe link and the resets seen from the host (spec 02, R43, R65, R66, R731; 19 R717). -/

namespace Sys2Proof.Machine

/-- Raise HOST_LINK (R66). -/
def raiseHostLink (s : State) (sev : Nat) : State :=
  let h := s.host
  raise s 0x00 sev noLevel (srcId 1 33)
    (le 1 (b2n h.linkUp) ++ le 1 h.linkSpeed ++ le 1 h.linkWidth ++ zeros 1 ++ le 4 h.retrains)

/-- PCIE_LINK_UP (R66): the link comes up at a speed (1 to 4) and width (1, 2, 4), or changes them. -/
def execPcieLinkUp (speed width : Nat) (s : State) : Host.Outcome State Fault Refusal :=
  let h := s.host
  if !awake s ∨ speed = 0 ∨ 4 < speed ∨ (width ≠ 1 ∧ width ≠ 2 ∧ width ≠ 4) ∨ (h.linkUp ∧ h.linkSpeed = speed ∧ h.linkWidth = width) then .next s
  else
    .next (raiseHostLink (s.modHost fun h => { h with
      linkUp := true, linkSpeed := speed, linkWidth := width, everUp := true
      retrains := if h.everUp then wrapAdd 32 h.retrains 1 else h.retrains }) (if speed = 4 ∧ width = 4 then 1 else 2))

/-- The frames that a ring held are dropped at a reset of H0 and counted at it; one whose data write had begun is abandoned (R65). -/
def dropRing (s : State) (k : Nat) (old : Ring) : State :=
  let s1 := match old.rxCur with
    | some x => finishCopy (fp12Drop s) x.held.frame.id 33
    | none => s
  old.rxHeld.foldl (fun s h => finishCopy (fp12Drop (s.modRing k fun r => { r with c1 := satAdd 32 r.c1 1 })) h.frame.id 33) s1

/-- A function-level reset (`kind` 0), hot reset (1) or link loss (2) of H0 (R65, R66, R474): its SPDM connection state ends (R591). -/
def hostReset (s : State) (kind : Nat) : State :=
  let d : State := {}
  let owned := fun (l : GwLock) => (l.kind == 0 && l.who < 8) || l.kind == 1
  let discarded := (s.mb.submitted.filter fun c => c.req.src < 8).length
  let s0 : State := { s with
    eqs := d.eqs, dma := { steer := s.dma.steer }
    mb := { s.mb with
      irqVec := 4, irqEn := false, submitted := s.mb.submitted.filter fun c => 8 ≤ c.req.src
      waiting := s.mb.waiting.map fun w => if w.cmd.req.src < 8 then { w with drop := true } else w
      resetDue := some (kind, discarded, (s.gw.locks.filter fun e => owned e.2).length) }
    host := { s.host with
      bar2En := false, msix := List.replicate 64 {}, msixPend := 0, d3hot := false, fp12Count := true, fp12Drops := 0
      resetCause := withBit s.host.resetCause (if kind = 0 then 7 else 6) true } }
  let s1 := abortSignings (s0.modBoot fun b => { b with pcie := {} }) fun g => g.transport == 1
  let s2 := (List.range 32).foldl (fun t k => dropRing t (32 + k) (s.ring (32 + k))) s1
  let s3 := if kind ≠ 0 ∧ s.host.linkUp then
      raiseHostLink (s2.modHost fun h => { h with linkUp := false, linkSpeed := 0, linkWidth := 0 }) 3
    else s2
  resetEnds (breakLocks s3 owned 3)

/-- FUNCTION_LEVEL_RESET (R65). -/
def execFunctionLevelReset (s : State) : Host.Outcome State Fault Refusal := .next (if awake s then hostReset s 0 else s)

/-- HOT_RESET (R65): the link retrains; PCIE_LINK_UP follows. -/
def execHotReset (s : State) : Host.Outcome State Fault Refusal := .next (if awake s then hostReset s 1 else s)

/-- PCIE_LINK_LOSS (R65). -/
def execPcieLinkLoss (s : State) : Host.Outcome State Fault Refusal := .next (if awake s then hostReset s 2 else s)

/-- PERST_ASSERT (R717): PERST_N low for `us` microseconds is handled as a link loss from 100 µs on. -/
def execPerstAssert (us : Nat) (s : State) : Host.Outcome State Fault Refusal := .next (if awake s ∧ 100 ≤ us then hostReset s 2 else s)

/-! ### D3hot (R43, R731) -/

/-- What becomes of a ring's work at the entry to D3hot (R731): a TX frame not yet accepted restarts from its `FIRST` descriptor, an RX frame
whose data write has begun is abandoned. -/
def ringSleeps (s : State) (k : Nat) : State :=
  let r := s.ring k
  match r.rxCur with
  | some x => fp12Drop (finishCopy (s.modRing k fun r => { r with rxCur := none, wbacks := [], c1 := satAdd 32 r.c1 1 }) x.held.frame.id 33)
  | none =>
    match r.txQueue.head? with
    | some x => if x.data.isSome ∧ x.ended.isNone then refetch s k ((x.descs.head?.map (·.index)).getD r.head) else s
    | none => s

/-- What a queue has not written is held (R731). -/
def eqSleeps (now : Nat) (e : EvQueue) : EvQueue := e.toWrite.foldl (holdRec now) { e with toWrite := [] }

/-- D3HOT_ENTRY (R43, R731). -/
def execD3hotEntry (s : State) : Host.Outcome State Fault Refusal :=
  if !awake s ∨ s.host.d3hot then .next s else
  let s1 := (List.range 64).foldl ringSleeps (s.modHost fun h => { h with d3hot := true })
  .next { s1 with eqs := s1.eqs.map (eqSleeps s.now) }

/-- A queue goes on after D3hot (R731): the held records, then EQ_OVERFLOW if any were lost. -/
def eqWakes (s : State) (q : Nat) : State :=
  let e := s.eq q
  let s1 := s.modEq q fun e => { e with toWrite := e.held ++ e.toWrite, held := [], heldLost := none }
  match e.heldLost with
  | none => s1
  | some (seq, time) =>
    let r := overflowRec q seq time
    logOverflow (s1.modEq q fun e => { e with toWrite := e.toWrite ++ [(seq, r)] }) r seq

/-- D0_RETURN (R43, R731): held records, write-backs and pending messages go out in their order. -/
def execD0Return (s : State) : Host.Outcome State Fault Refusal :=
  if !awake s ∨ !s.host.d3hot then .next s else
  let s1 := (List.range 4).foldl eqWakes (s.modHost fun h => { h with d3hot := false })
  let s2 := (List.range 64).foldl (fun s k => if k < 32 then txRun s k none else rxEnd s k none) s1
  .next ((List.range 64).foldl sendPending s2)

end Sys2Proof.Machine
end

