-- ==== Sys2Proof/Machine/Dispatch.lean ====
section
/-! DEFINITION. The meaning of each command: one arm per row, one call per arm. -/

namespace Sys2Proof.Machine

/-- The effect of a command on everything but the queue of waiting commands. -/
def exec (i : Instr) (s : State) : Host.Outcome State Fault Refusal :=
  match i with
  | .nop r => Sys2Proof.Machine.execNop r s
  | .getVersions r => Sys2Proof.Machine.execGetVersions r s
  | .getIdentity r => Sys2Proof.Machine.execGetIdentity r s
  | .getStatus r => Sys2Proof.Machine.execGetStatus r s
  | .getMbStats r => Sys2Proof.Machine.execGetMbStats r s
  | .moduleReset r => Sys2Proof.Machine.execModuleReset r s
  | .evqGetRoutes r => Sys2Proof.Machine.execEvqGetRoutes r s
  | .evqSetRoute r => Sys2Proof.Machine.execEvqSetRoute r s
  | .ringBind r => Sys2Proof.Machine.execRingBind r s
  | .rxSteerSet r => Sys2Proof.Machine.execRxSteerSet r s
  | .rxSteerGet r => Sys2Proof.Machine.execRxSteerGet r s
  | .dmaGetCounters r => Sys2Proof.Machine.execDmaGetCounters r s
  | .atuGetCounters r => Sys2Proof.Machine.execAtuGetCounters r s
  | .portGetStatus r => Sys2Proof.Machine.execPortGetStatus r s
  | .portSet r => Sys2Proof.Machine.execPortSet r s
  | .edgeGroupSet r => Sys2Proof.Machine.execEdgeGroupSet r s
  | .portGetCounters r => Sys2Proof.Machine.execPortGetCounters r s
  | .plcaSet r => Sys2Proof.Machine.execPlcaSet r s
  | .pseSet r => Sys2Proof.Machine.execPseSet r s
  | .pseGetStatus r => Sys2Proof.Machine.execPseGetStatus r s
  | .trainingClear r => Sys2Proof.Machine.execTrainingClear r s
  | .domainMapSet r => Sys2Proof.Machine.execDomainMapSet r s
  | .domainParamsSet r => Sys2Proof.Machine.execDomainParamsSet r s
  | .vlanSet r => Sys2Proof.Machine.execVlanSet r s
  | .fdbStaticSet r => Sys2Proof.Machine.execFdbStaticSet r s
  | .fdbFlush r => Sys2Proof.Machine.execFdbFlush r s
  | .fdbRead r => Sys2Proof.Machine.execFdbRead r s
  | .streamIdSet r => Sys2Proof.Machine.execStreamIdSet r s
  | .streamSet r => Sys2Proof.Machine.execStreamSet r s
  | .filterSet r => Sys2Proof.Machine.execFilterSet r s
  | .gateSet r => Sys2Proof.Machine.execGateSet r s
  | .meterSet r => Sys2Proof.Machine.execMeterSet r s
  | .frerSet r => Sys2Proof.Machine.execFrerSet r s
  | .mirrorSet r => Sys2Proof.Machine.execMirrorSet r s
  | .countersGet r => Sys2Proof.Machine.execCountersGet r s
  | .stateClear r => Sys2Proof.Machine.execStateClear r s
  | .tableRead r => Sys2Proof.Machine.execTableRead r s
  | .zoneSet r => Sys2Proof.Machine.execZoneSet r s
  | .zoneMapSet r => Sys2Proof.Machine.execZoneMapSet r s
  | .zonePairSet r => Sys2Proof.Machine.execZonePairSet r s
  | .ruleSet r => Sys2Proof.Machine.execRuleSet r s
  | .limiterSet r => Sys2Proof.Machine.execLimiterSet r s
  | .horizonParamsSet r => Sys2Proof.Machine.execHorizonParamsSet r s
  | .sessionRead r => Sys2Proof.Machine.execSessionRead r s
  | .sessionFlush r => Sys2Proof.Machine.execSessionFlush r s
  | .horizonCountersGet r => Sys2Proof.Machine.execHorizonCountersGet r s
  | .horizonTableRead r => Sys2Proof.Machine.execHorizonTableRead r s
  | .fabricStatusGet r => Sys2Proof.Machine.execFabricStatusGet r s
  | .fabricStartSet r => Sys2Proof.Machine.execFabricStartSet r s
  | .fabricModeSet r => Sys2Proof.Machine.execFabricModeSet r s
  | .wideStreamSet r => Sys2Proof.Machine.execWideStreamSet r s
  | .cutThroughSet r => Sys2Proof.Machine.execCutThroughSet r s
  | .fabricCountersGet r => Sys2Proof.Machine.execFabricCountersGet r s
  | .epochSync r => Sys2Proof.Machine.execEpochSync r s
  | .queueSet r => Sys2Proof.Machine.execQueueSet r s
  | .shaperSet r => Sys2Proof.Machine.execShaperSet r s
  | .cbsSet r => Sys2Proof.Machine.execCbsSet r s
  | .gclSet r => Sys2Proof.Machine.execGclSet r s
  | .gclGet r => Sys2Proof.Machine.execGclGet r s
  | .preemptSet r => Sys2Proof.Machine.execPreemptSet r s
  | .zenithAdmitSet r => Sys2Proof.Machine.execZenithAdmitSet r s
  | .zenithStatusGet r => Sys2Proof.Machine.execZenithStatusGet r s
  | .queueFlush r => Sys2Proof.Machine.execQueueFlush r s
  | .egressCountersGet r => Sys2Proof.Machine.execEgressCountersGet r s
  | .timeStatusGet r => Sys2Proof.Machine.execTimeStatusGet r s
  | .timeParamsSet r => Sys2Proof.Machine.execTimeParamsSet r s
  | .gptpInstanceSet r => Sys2Proof.Machine.execGptpInstanceSet r s
  | .timeStep r => Sys2Proof.Machine.execTimeStep r s
  | .gptpPortGet r => Sys2Proof.Machine.execGptpPortGet r s
  | .channelStatusGet r => Sys2Proof.Machine.execChannelStatusGet r s
  | .canSet r => Sys2Proof.Machine.execCanSet r s
  | .canWakeSet r => Sys2Proof.Machine.execCanWakeSet r s
  | .canRecover r => Sys2Proof.Machine.execCanRecover r s
  | .mvbSet r => Sys2Proof.Machine.execMvbSet r s
  | .mvbPortSet r => Sys2Proof.Machine.execMvbPortSet r s
  | .mvbAdminSet r => Sys2Proof.Machine.execMvbAdminSet r s
  | .serialSet r => Sys2Proof.Machine.execSerialSet r s
  | .linSet r => Sys2Proof.Machine.execLinSet r s
  | .linScheduleSet r => Sys2Proof.Machine.execLinScheduleSet r s
  | .dioSet r => Sys2Proof.Machine.execDioSet r s
  | .channelCountersGet r => Sys2Proof.Machine.execChannelCountersGet r s
  | .gwCycleSet r => Sys2Proof.Machine.execGwCycleSet r s
  | .routeTableSet r => Sys2Proof.Machine.execRouteTableSet r s
  | .endpointSet r => Sys2Proof.Machine.execEndpointSet r s
  | .acfBusSet r => Sys2Proof.Machine.execAcfBusSet r s
  | .gwWrite r => Sys2Proof.Machine.execGwWrite r s
  | .gwRead r => Sys2Proof.Machine.execGwRead r s
  | .gwLock r => Sys2Proof.Machine.execGwLock r s
  | .gwExchange r => Sys2Proof.Machine.execGwExchange r s
  | .gwStatusGet r => Sys2Proof.Machine.execGwStatusGet r s
  | .gwCountersGet r => Sys2Proof.Machine.execGwCountersGet r s
  | .gwTableRead r => Sys2Proof.Machine.execGwTableRead r s
  | .powerStatusGet r => Sys2Proof.Machine.execPowerStatusGet r s
  | .powerStateSet r => Sys2Proof.Machine.execPowerStateSet r s
  | .wakeSet r => Sys2Proof.Machine.execWakeSet r s
  | .poolSet r => Sys2Proof.Machine.execPoolSet r s
  | .arbiterGet r => Sys2Proof.Machine.execArbiterGet r s
  | .supplySet r => Sys2Proof.Machine.execSupplySet r s
  | .lifecycleGet r => Sys2Proof.Machine.execLifecycleGet r s
  | .lifecycleSet r => Sys2Proof.Machine.execLifecycleSet r s
  | .keySlotWrite r => Sys2Proof.Machine.execKeySlotWrite r s
  | .keySlotErase r => Sys2Proof.Machine.execKeySlotErase r s
  | .keySlotInfo r => Sys2Proof.Machine.execKeySlotInfo r s
  | .keyOp r => Sys2Proof.Machine.execKeyOp r s
  | .provisionClose r => Sys2Proof.Machine.execProvisionClose r s
  | .macsecPortSet r => Sys2Proof.Machine.execMacsecPortSet r s
  | .macsecSaSet r => Sys2Proof.Machine.execMacsecSaSet r s
  | .mkaSet r => Sys2Proof.Machine.execMkaSet r s
  | .macsecStatusGet r => Sys2Proof.Machine.execMacsecStatusGet r s
  | .macsecCountersGet r => Sys2Proof.Machine.execMacsecCountersGet r s
  | .tamperSet r => Sys2Proof.Machine.execTamperSet r s
  | .measGet r => Sys2Proof.Machine.execMeasGet r s
  | .measLogRead r => Sys2Proof.Machine.execMeasLogRead r s
  | .measExtend r => Sys2Proof.Machine.execMeasExtend r s
  | .attestGet r => Sys2Proof.Machine.execAttestGet r s
  | .bootStatusGet r => Sys2Proof.Machine.execBootStatusGet r s
  | .certGet r => Sys2Proof.Machine.execCertGet r s
  | .certSet r => Sys2Proof.Machine.execCertSet r s
  | .spdmSet r => Sys2Proof.Machine.execSpdmSet r s
  | .lodestarStatusGet r => Sys2Proof.Machine.execLodestarStatusGet r s
  | .lodestarModeSet r => Sys2Proof.Machine.execLodestarModeSet r s
  | .sensorGet r => Sys2Proof.Machine.execSensorGet r s
  | .sensorThresholdSet r => Sys2Proof.Machine.execSensorThresholdSet r s
  | .nightwatchSet r => Sys2Proof.Machine.execNightwatchSet r s
  | .logRead r => Sys2Proof.Machine.execLogRead r s
  | .logSet r => Sys2Proof.Machine.execLogSet r s
  | .memportSet r => Sys2Proof.Machine.execMemportSet r s
  | .memportGet r => Sys2Proof.Machine.execMemportGet r s
  | .portBwGet r => Sys2Proof.Machine.execPortBwGet r s
  | .perfGet r => Sys2Proof.Machine.execPerfGet r s
  | .perfSet r => Sys2Proof.Machine.execPerfSet r s
  | .updateStatusGet r => Sys2Proof.Machine.execUpdateStatusGet r s
  | .updateBegin r => Sys2Proof.Machine.execUpdateBegin r s
  | .updateBlock r => Sys2Proof.Machine.execUpdateBlock r s
  | .updateVerify r => Sys2Proof.Machine.execUpdateVerify r s
  | .updateActivate r => Sys2Proof.Machine.execUpdateActivate r s
  | .updateConfirm r => Sys2Proof.Machine.execUpdateConfirm r s
  | .updateAbort r => Sys2Proof.Machine.execUpdateAbort r s
  | .updateParamsSet r => Sys2Proof.Machine.execUpdateParamsSet r s
  | .pairStatusGet r => Sys2Proof.Machine.execPairStatusGet r s
  | .pairSet r => Sys2Proof.Machine.execPairSet r s
  | .pairSwitch r => Sys2Proof.Machine.execPairSwitch r s
  | .pairCountersGet r => Sys2Proof.Machine.execPairCountersGet r s
  | .ttdpSet r => Sys2Proof.Machine.execTtdpSet r s
  | .ttdpStatusGet r => Sys2Proof.Machine.execTtdpStatusGet r s
  | .mrpSet r => Sys2Proof.Machine.execMrpSet r s
  | .mrpStatusGet r => Sys2Proof.Machine.execMrpStatusGet r s
  | .commandDispatch => Sys2Proof.Machine.execCommandDispatch s
  | .commitAfterDrain => Sys2Proof.Machine.execCommitAfterDrain s
  | .retryTokenExpiry token => Sys2Proof.Machine.execRetryTokenExpiry token s
  | .remoteConnection port ipv4 cert auth => Sys2Proof.Machine.execRemoteConnection port ipv4 cert auth s
  | .remoteMessage j len msg => Sys2Proof.Machine.execRemoteMessage j len msg s
  | .remoteIdleTimeout j => Sys2Proof.Machine.execRemoteIdleTimeout j s
  | .remoteClose j => Sys2Proof.Machine.execRemoteClose j s
  | .eqEnable q v => Sys2Proof.Machine.execEqEnable q v s
  | .eqHeadWrite q v => Sys2Proof.Machine.execEqHeadWrite q v s
  | .eqStatusClear q v => Sys2Proof.Machine.execEqStatusClear q v s
  | .eqCoalesceTimeout q => Sys2Proof.Machine.execEqCoalesceTimeout q s
  | .eventRecordWrite q => Sys2Proof.Machine.execEventRecordWrite q s
  | .ringEnable k v => Sys2Proof.Machine.execRingEnable k v s
  | .ringDisable k v => Sys2Proof.Machine.execRingDisable k v s
  | .ringTailWrite k v => Sys2Proof.Machine.execRingTailWrite k v s
  | .ringResume k => Sys2Proof.Machine.execRingResume k s
  | .atuInvalidate v => Sys2Proof.Machine.execAtuInvalidate v s
  | .atuContextWrite c off v => Sys2Proof.Machine.execAtuContextWrite c off v s
  | .atuCtxStatusClear c v => Sys2Proof.Machine.execAtuCtxStatusClear c v s
  | .bwCtrlWrite v => Sys2Proof.Machine.execBwCtrlWrite v s
  | .perfCtlClear v => Sys2Proof.Machine.execPerfCtlClear v s
  | .bar2EnableWrite v => Sys2Proof.Machine.execBar2EnableWrite v s
  | .merTimeLoRead => Sys2Proof.Machine.execMerTimeLoRead s
  | .perfCycleLoRead => Sys2Proof.Machine.execPerfCycleLoRead s
  | .bwBytesLoRead => Sys2Proof.Machine.execBwBytesLoRead s
  | .registerWrite bar off dwords => Sys2Proof.Machine.execRegisterWrite bar off dwords s
  | .msixVectorUnmask v => Sys2Proof.Machine.execMsixVectorUnmask v s
  | .functionLevelReset => Sys2Proof.Machine.execFunctionLevelReset s
  | .hotReset => Sys2Proof.Machine.execHotReset s
  | .pcieLinkLoss => Sys2Proof.Machine.execPcieLinkLoss s
  | .perstAssert us => Sys2Proof.Machine.execPerstAssert us s
  | .pcieLinkUp speed width => Sys2Proof.Machine.execPcieLinkUp speed width s
  | .d3hotEntry => Sys2Proof.Machine.execD3hotEntry s
  | .d0Return => Sys2Proof.Machine.execD0Return s
  | .txDescriptorFetched k => Sys2Proof.Machine.execTxDescriptorFetched k s
  | .txFrameAccepted k => Sys2Proof.Machine.execTxFrameAccepted k s
  | .launchTimeReached k => Sys2Proof.Machine.execLaunchTimeReached k s
  | .rxDescriptorFetched k => Sys2Proof.Machine.execRxDescriptorFetched k s
  | .rxFrameDelivery k => Sys2Proof.Machine.execRxFrameDelivery k s
  | .dmaReadCompletion t table good => Sys2Proof.Machine.execDmaReadCompletion t table good s
  | .dmaCompletionTimeout t table => Sys2Proof.Machine.execDmaCompletionTimeout t table s
  | .frameArrival point w complete => Sys2Proof.Machine.execFrameArrival point w complete s
  | .frameEnd point => Sys2Proof.Machine.execFrameEnd point s
  | .recirculationEntry => Sys2Proof.Machine.execRecirculationEntry s
  | .fdbAging bucket => Sys2Proof.Machine.execFdbAging bucket s
  | .streamGateEntryBoundary g => Sys2Proof.Machine.execStreamGateEntryBoundary g s
  | .streamGateListChange g => Sys2Proof.Machine.execStreamGateListChange g s
  | .frerResetTimeout j => Sys2Proof.Machine.execFrerResetTimeout j s
  | .frerLatentPeriod j => Sys2Proof.Machine.execFrerLatentPeriod j s
  | .sessionInsertWrite => Sys2Proof.Machine.execSessionInsertWrite s
  | .spillWrite => Sys2Proof.Machine.execSpillWrite s
  | .sessionAgingSweep spilled j => Sys2Proof.Machine.execSessionAgingSweep spilled j s
  | .restoreComplete => Sys2Proof.Machine.execRestoreComplete s
  | .exceptionHandler => Sys2Proof.Machine.execExceptionHandler s
  | .exceptionDropEnd => Sys2Proof.Machine.execExceptionDropEnd s
  | .revocationSweepVisit => Sys2Proof.Machine.execRevocationSweepVisit s
  | .cellReceive stage sender receiver crcOk => Sys2Proof.Machine.execCellReceive stage sender receiver crcOk s
  | .replayRejection stage sender receiver => Sys2Proof.Machine.execReplayRejection stage sender receiver s
  | .reassemblyTimeout output => Sys2Proof.Machine.execReassemblyTimeout output s
  | .reseqTimeout w => Sys2Proof.Machine.execReseqTimeout w s
  | .wideStreamChangeApply w => Sys2Proof.Machine.execWideStreamChangeApply w s
  | .firstCellAtOutput output ecc => Sys2Proof.Machine.execFirstCellAtOutput output ecc s
  | .transmitOpportunity point ecc => Sys2Proof.Machine.execTransmitOpportunity point ecc s
  | .copyFinished point => Sys2Proof.Machine.execCopyFinished point s
  | .gclEntryBoundary p => Sys2Proof.Machine.execGclEntryBoundary p s
  | .gclChangeTime p => Sys2Proof.Machine.execGclChangeTime p s
  | .residencyScan => Sys2Proof.Machine.execResidencyScan s
  | .modeLimitExpiry => Sys2Proof.Machine.execModeLimitExpiry s
  | .preemptVerifyTimeout p => Sys2Proof.Machine.execPreemptVerifyTimeout p s
  | .preemptResponseRx p addFrag => Sys2Proof.Machine.execPreemptResponseRx p addFrag s
  | .gptpSyncRx j p malformed oneStep gmTime ratio => Sys2Proof.Machine.execGptpSyncRx j p malformed oneStep gmTime ratio s
  | .gptpAnnounceRx j p malformed ann => Sys2Proof.Machine.execGptpAnnounceRx j p malformed ann s
  | .gptpPdelayRx p malformed delayPs nrr => Sys2Proof.Machine.execGptpPdelayRx p malformed delayPs nrr s
  | .syncReceiptTimeout j => Sys2Proof.Machine.execSyncReceiptTimeout j s
  | .announceReceiptTimeout j p => Sys2Proof.Machine.execAnnounceReceiptTimeout j p s
  | .steeringUpdateTimeout => Sys2Proof.Machine.execSteeringUpdateTimeout s
  | .holdoverEvaluation => Sys2Proof.Machine.execHoldoverEvaluation s
  | .revertTimer => Sys2Proof.Machine.execRevertTimer s
  | .syncInterval j => Sys2Proof.Machine.execSyncInterval j s
  | .pdelayReqInterval p => Sys2Proof.Machine.execPdelayReqInterval p s
  | .partnerSignalDetected p => Sys2Proof.Machine.execPartnerSignalDetected p s
  | .trainingComplete p partnerRole at100 partnerEee coeffs finger => Sys2Proof.Machine.execTrainingComplete p partnerRole at100 partnerEee coeffs finger s
  | .trainingFailed p => Sys2Proof.Machine.execTrainingFailed p s
  | .linkLoss p pcs => Sys2Proof.Machine.execLinkLoss p pcs s
  | .fastStartInfofieldRx p finger answer => Sys2Proof.Machine.execFastStartInfofieldRx p finger answer s
  | .fastStartTimeout p => Sys2Proof.Machine.execFastStartTimeout p s
  | .tokenRetryTimer p => Sys2Proof.Machine.execTokenRetryTimer p s
  | .eeeIdleTimer p => Sys2Proof.Machine.execEeeIdleTimer p s
  | .tc10SleepRequestRx p => Sys2Proof.Machine.execTc10SleepRequestRx p s
  | .tc10WakePulse port others x => Sys2Proof.Machine.execTc10WakePulse port others x s
  | .plcaBeaconLoss g => Sys2Proof.Machine.execPlcaBeaconLoss g s
  | .plcaBeaconReturn g => Sys2Proof.Machine.execPlcaBeaconReturn g s
  | .pseDetection j valid => Sys2Proof.Machine.execPseDetection j valid s
  | .pseClassification j cls second => Sys2Proof.Machine.execPseClassification j cls second s
  | .pseOverload j peakMw railMv => Sys2Proof.Machine.execPseOverload j peakMw railMv s
  | .pseShort j peakMw railMv => Sys2Proof.Machine.execPseShort j peakMw railMv s
  | .pseHardShort j peakMw railMv => Sys2Proof.Machine.execPseHardShort j peakMw railMv s
  | .pseThermal j peakMw railMv => Sys2Proof.Machine.execPseThermal j peakMw railMv s
  | .pseSupplyFault railMv => Sys2Proof.Machine.execPseSupplyFault railMv s
  | .pseSupplyRecovery railMv => Sys2Proof.Machine.execPseSupplyRecovery railMv s
  | .pseDisconnect j => Sys2Proof.Machine.execPseDisconnect j s
  | .pseFaultWaitExpiry j => Sys2Proof.Machine.execPseFaultWaitExpiry j s
  | .canFrameRx c kind flags ident data => Sys2Proof.Machine.execCanFrameRx c kind flags ident data s
  | .canTxComplete c lost => Sys2Proof.Machine.execCanTxComplete c lost s
  | .canErrorDetected c sending tec rec_ => Sys2Proof.Machine.execCanErrorDetected c sending tec rec_ s
  | .canRecoverWaitExpiry c => Sys2Proof.Machine.execCanRecoverWaitExpiry c s
  | .canRecoveryDone c => Sys2Proof.Machine.execCanRecoveryDone c s
  | .canWakeFrame c pattern errors xtd ident dlc data others x => Sys2Proof.Machine.execCanWakeFrame c pattern errors xtd ident dlc data others x s
  | .j1939TpPacket c received ident data peer => Sys2Proof.Machine.execJ1939TpPacket c received ident data peer s
  | .j1939Timeout c peer which sender bam => Sys2Proof.Machine.execJ1939Timeout c peer which sender bam s
  | .mvbFrameRx c m okA okB => Sys2Proof.Machine.execMvbFrameRx c m okA okB s
  | .mvbSinkTimeExpiry c port => Sys2Proof.Machine.execMvbSinkTimeExpiry c port s
  | .mvbBasicPeriod c => Sys2Proof.Machine.execMvbBasicPeriod c s
  | .mvbMastershipOffer c => Sys2Proof.Machine.execMvbMastershipOffer c s
  | .mvbMastershipTimeout c => Sys2Proof.Machine.execMvbMastershipTimeout c s
  | .mvbSilentBus c => Sys2Proof.Machine.execMvbSilentBus c s
  | .serialMessageRx c err data => Sys2Proof.Machine.execSerialMessageRx c err data s
  | .modbusResponseTimeout c => Sys2Proof.Machine.execModbusResponseTimeout c s
  | .serialSilenceTimeout c => Sys2Proof.Machine.execSerialSilenceTimeout c s
  | .serialCurrentLimit c => Sys2Proof.Machine.execSerialCurrentLimit c s
  | .serialCurrentClear c => Sys2Proof.Machine.execSerialCurrentClear c s
  | .linSlotTimer c a => Sys2Proof.Machine.execLinSlotTimer c a s
  | .linWakeupRx c => Sys2Proof.Machine.execLinWakeupRx c s
  | .linResumeTimer c => Sys2Proof.Machine.execLinResumeTimer c s
  | .gpiDebounceExpiry c level overrun => Sys2Proof.Machine.execGpiDebounceExpiry c level overrun s
  | .gpoReadbackExpiry c level => Sys2Proof.Machine.execGpoReadbackExpiry c level s
  | .beWatchdog e ecc => Sys2Proof.Machine.execBeWatchdog e ecc s
  | .beRestartDone e ms levels copyOk => Sys2Proof.Machine.execBeRestartDone e ms levels copyOk s
  | .gwInputDelivery => Sys2Proof.Machine.execGwInputDelivery s
  | .gwCycleMark => Sys2Proof.Machine.execGwCycleMark s
  | .gwCycleExecute issue runUs ecc => Sys2Proof.Machine.execGwCycleExecute issue runUs ecc s
  | .gwCycleCut => Sys2Proof.Machine.execGwCycleCut s
  | .lockLeaseExpiry c => Sys2Proof.Machine.execLockLeaseExpiry c s
  | .gwFetchComplete token data => Sys2Proof.Machine.execGwFetchComplete token data s
  | .gwFetchTimeout token => Sys2Proof.Machine.execGwFetchTimeout token s
  | .trdpMrRx domain tcp ip port zone comId seq data => Sys2Proof.Machine.execTrdpMrRx domain tcp ip port zone comId seq data s
  | .trdpSessionIdle j => Sys2Proof.Machine.execTrdpSessionIdle j s
  | .coldPowerOn boots => Sys2Proof.Machine.execColdPowerOn boots s
  | .resetN boots => Sys2Proof.Machine.execResetN boots s
  | .powerFailWarn mv => Sys2Proof.Machine.execPowerFailWarn mv s
  | .powerFailEnd mv => Sys2Proof.Machine.execPowerFailEnd mv s
  | .holdupExhausted mv => Sys2Proof.Machine.execHoldupExhausted mv s
  | .inputOvervoltage mv => Sys2Proof.Machine.execInputOvervoltage mv s
  | .railOutOfRange rail mv => Sys2Proof.Machine.execRailOutOfRange rail mv s
  | .wakePin pin others x => Sys2Proof.Machine.execWakePin pin others x s
  | .rtcAlarm others x => Sys2Proof.Machine.execRtcAlarm others x s
  | .autoSleepTimer => Sys2Proof.Machine.execAutoSleepTimer s
  | .darkAfterTimer => Sys2Proof.Machine.execDarkAfterTimer s
  | .duskExitRetry x => Sys2Proof.Machine.execDuskExitRetry x s
  | .tokenRequest c => Sys2Proof.Machine.execTokenRequest c s
  | .holdupEstimate ms loadDw => Sys2Proof.Machine.execHoldupEstimate ms loadDw s
  | .nightwatchService => Sys2Proof.Machine.execNightwatchService s
  | .nightwatchWindowClose => Sys2Proof.Machine.execNightwatchWindowClose s
  | .lockstepMismatch pair group word => Sys2Proof.Machine.execLockstepMismatch pair group word s
  | .debugAttach pair => Sys2Proof.Machine.execDebugAttach pair s
  | .lodestarEccError memory requester addr obj uncorrected => Sys2Proof.Machine.execLodestarEccError memory requester addr obj uncorrected s
  | .sensorSample id value => Sys2Proof.Machine.execSensorSample id value s
  | .holdupCapMeasure loadDw v1 v2 => Sys2Proof.Machine.execHoldupCapMeasure loadDw v1 v2 s
  | .logRecordProgram => Sys2Proof.Machine.execLogRecordProgram s
  | .memportBurstBoundary mask addr => Sys2Proof.Machine.execMemportBurstBoundary mask addr s
  | .tamperLatch source x => Sys2Proof.Machine.execTamperLatch source x s
  | .slotUsersDone n => Sys2Proof.Machine.execSlotUsersDone n s
  | .islandRequestComplete ecdsa sound answered => Sys2Proof.Machine.execIslandRequestComplete ecdsa sound answered s
  | .mkpduRx port m => Sys2Proof.Machine.execMkpduRx port m s
  | .mkaHelloTimer port => Sys2Proof.Machine.execMkaHelloTimer port s
  | .mkaLifetimeExpiry port => Sys2Proof.Machine.execMkaLifetimeExpiry port s
  | .spdmRequest t conn q => Sys2Proof.Machine.execSpdmRequest t conn q s
  | .mctpControl cmd eid => Sys2Proof.Machine.execMctpControl cmd eid s
  | .signingComplete answered => Sys2Proof.Machine.execSigningComplete answered s
  | .stagingEraseDone => Sys2Proof.Machine.execStagingEraseDone s
  | .healthWindowExpiry => Sys2Proof.Machine.execHealthWindowExpiry s
  | .settleTimer => Sys2Proof.Machine.execSettleTimer s
  | .journalEraseDone => Sys2Proof.Machine.execJournalEraseDone s
  | .pairBlockRx b crcOk icvOk diff => Sys2Proof.Machine.execPairBlockRx b crcOk icvOk diff s
  | .pairResendTimer => Sys2Proof.Machine.execPairResendTimer s
  | .pairIdleTimer => Sys2Proof.Machine.execPairIdleTimer s
  | .pairLinkTimeout => Sys2Proof.Machine.execPairLinkTimeout s
  | .laneFailure lane => Sys2Proof.Machine.execLaneFailure lane s
  | .cycleCopyComplete => Sys2Proof.Machine.execCycleCopyComplete s
  | .copyDeadline => Sys2Proof.Machine.execCopyDeadline s
  | .reexecutionResult cycle ownDiffers partnerDiffers step3 => Sys2Proof.Machine.execReexecutionResult cycle ownDiffers partnerDiffers step3 s
  | .heartbeatAbsent => Sys2Proof.Machine.execHeartbeatAbsent s
  | .pairHelloTimer => Sys2Proof.Machine.execPairHelloTimer s
  | .ttdpHelloRx port f => Sys2Proof.Machine.execTtdpHelloRx port f s
  | .ttdpHelloTimer => Sys2Proof.Machine.execTtdpHelloTimer s
  | .ttdpHelloTimeout port => Sys2Proof.Machine.execTtdpHelloTimeout port s
  | .mrpTestTimer r back => Sys2Proof.Machine.execMrpTestTimer r back s
  | .mrpFrameRx r port f => Sys2Proof.Machine.execMrpFrameRx r port f s
  | .bwWindowEnd => Sys2Proof.Machine.execBwWindowEnd s
  | .lodestarRestartDone badBlocks copyOk => Sys2Proof.Machine.execLodestarRestartDone badBlocks copyOk s
  | .delayMsExpiry x => Sys2Proof.Machine.execDelayMsExpiry x s
  | .holdupBankCharged => Sys2Proof.Machine.execHoldupBankCharged s
  | .supplyBackInRange m mv => Sys2Proof.Machine.execSupplyBackInRange m mv s
  | .trdpConnectionClose j => Sys2Proof.Machine.execTrdpConnectionClose j s
  | .spdmTcpConnection e => Sys2Proof.Machine.execSpdmTcpConnection e s
  | .laneRecovery lane => Sys2Proof.Machine.execLaneRecovery lane s
  | .pageProgramDone good => Sys2Proof.Machine.execPageProgramDone good s
  | .debugDetach pair => Sys2Proof.Machine.execDebugDetach pair s
  | .atuInvalidationComplete => Sys2Proof.Machine.execAtuInvalidationComplete s

end Sys2Proof.Machine
end

