-- ==== Sys2Proof/Safety.lean ====
section
/-! DEFINITION. What counts as a sound state of the block: its memories in their canonical form, and every fixed array at the length the spec
gives it. Every command keeps it. -/

namespace Sys2Proof.Machine

/-- The canonical form of a sparse byte memory: addresses strictly rising, no byte listed that equals what an unlisted address reads as
(assumption 3). -/
def Memory.wf : Mem → Bool
  | [] => true
  | [c] => c.2 != 0
  | c :: d :: m => c.2 != 0 && c.1 < d.1 && Memory.wf (d :: m)

/-- The mailbox service is sound: nine sets of command counters (R94), four remote sessions (R91), the windows in canonical form. -/
structure InvMb (m : Mailbox) : Prop where
  counters : m.counters.length = 9
  sessions : m.sessions.length = 4
  windows  : Memory.wf m.windows = true

/-- H0 is sound: 64 vectors (R44), eight performance counters (R57), 34 ports with bandwidth figures (R640). -/
structure InvHost (h : HostLink) : Prop where
  msix : h.msix.length = 64
  perf : h.perf.length = 8
  bw   : h.bw.length = 34

/-- DMA is sound: 64 ring blocks (R60), 64 ATU contexts (R62). -/
structure InvDma (d : Dma) : Prop where
  rings : d.rings.length = 64
  ctxs  : d.atu.ctxs.length = 64

/-- A sound state: four event queues (R59), host memory in canonical form, and sound mailboxes, host link and DMA. -/
structure Inv (s : State) : Prop where
  mb      : InvMb s.mb
  eqs     : s.eqs.length = 4
  host    : InvHost s.host
  dma     : InvDma s.dma
  hostMem : Memory.wf s.hostMem = true

/-- What every meaning does to the queue of waiting commands and to soundness: the queue stays as it is, a sound state stays sound. -/
structure Keeps (s t : State) : Prop where
  queue : t.pending = s.pending
  inv   : Inv s → Inv t

/-- A step that goes on: it answers a next state, which keeps the queue and soundness. -/
def Goes (s : State) (o : Host.Outcome State Fault Refusal) : Prop := ∃ t, o = .next t ∧ Keeps s t

/-- A command body keeps the queue and soundness in every state it hands on. -/
def ResultKeeps (s : State) : Result → Prop
  | .fail _ _ => True
  | .failWith _ _ _ t => Keeps s t
  | .done d => Keeps s d.st ∧ ∀ t, Keeps s t → Keeps s (d.after t)
  | .retry _ _ t => Keeps s t
  | .wait _ t => Keeps s t

/-- A command whose body keeps the queue and soundness. -/
def SpecKeeps (sp : CmdSpec) : Prop := ∀ s0 s r p, Keeps s0 s → ResultKeeps s0 (sp.body s r p)

/-- An entry of a list command keeps the queue and soundness. -/
def EntryKeeps (s : State) (e : EntryRes) : Prop := ∀ t cl, e = .ok (t, cl) → Keeps s t

/-- A stage of the pipeline keeps the queue and soundness. -/
def StageKeeps (s : State) : StageRes → Prop
  | .pass _ t => Keeps s t
  | .drop _ t => Keeps s t
  | .away t => Keeps s t

/-! ### When a mailbox command's body runs, and how the command ends -/

/-- The state in which the command of request `r` executes: its header and payload stand in the mailbox's window, `MB_DONE` is cleared, the
doorbell bit is set (R70 to R72), and one more command has come. -/
def entered (s : State) (sp : CmdSpec) (r : Req) : State :=
  (postRequest s sp.opcode r).modMb fun m => { m with order := m.order + 1, ring := if r.src < 8 then withBit m.ring r.src true else m.ring }

/-- Source `r.src` may send a command now, and the executor takes it at once (R30, R65, R71, R73, R91, R93). -/
def Taken (s : State) (r : Req) : Prop :=
  r.src < 12 ∧ (8 ≤ r.src → (at' s.mb.sessions (r.src - 8) {}).isOpen = true) ∧ (r.src < 8 → s.mb.resetDue = none) ∧ sourceBusy s r.src = false ∧
    serving s = true ∧ executorFree s r.src = true

/-- The state once the whole request payload is at hand, and that payload: inline bytes, then the bulk bytes of a remote message (R92) or those
read from host memory (R86, R119); none where that read faults. -/
def fetched (s : State) (r : Req) : Option (State × List Byte) :=
  if !bit r.flags 1 then some (s, inlineOf r)
  else if r.src ≥ 8 then some (s, inlineOf r ++ padTo r.bulkLen r.bulk)
  else if s.host.d3hot then none
  else
    let t := bulkRead s r.ctx r.bulkIova r.bulkLen
    match t.fault with
    | some _ => none
    | none => some (t.st, inlineOf r ++ t.data)

/-- The body of command `sp` runs for request `r` sent in state `s`: the command is taken, no check of steps 1 to 7 of R77 fails, and the body
finds the state `s1` and the whole payload `p`. Every source and every form (inline, bulk) is among them. -/
def Runs (s : State) (sp : CmdSpec) (r : Req) (p : List Byte) (s1 : State) : Prop :=
  Taken s r ∧ preCheck (entered s sp r) sp (asSubmitted r) = none ∧ fetched (entered s sp r) (asSubmitted r) = some (s1, p) ∧
    sp.badLen p (totalLen r) = none

/-- The command as the executor holds it while its body runs. -/
def heldCmd (s : State) (sp : CmdSpec) (r : Req) (p : List Byte) : Cmd := {
  opcode := sp.opcode, order := s.mb.order, level := sp.level
  req := if bit r.flags 1 then { asSubmitted r with bulk := p.drop r.length } else asSubmitted r }

/-- The state after a command that was applied: `d` holds its completion payload, the offsets of its clamped fields, its effect on the state and
whether it commits; the completion follows (R76, R82, R87, R94). -/
def ends (s : State) (sp : CmdSpec) (r : Req) (p : List Byte) (s1 : State) (d : Done) : State :=
  finishDone s1 (heldCmd s sp r p) sp.level d false 0

/-- The state after a command that the executor keeps waiting, with the effect `t` it has had so far (R544, R587, R652). -/
def waits (s : State) (sp : CmdSpec) (r : Req) (p : List Byte) (s1 : State) (kind : WaitKind) (t : State) : State :=
  t.modMb fun m => { m with waiting := { cmd := heldCmd s sp r p, kind := kind, since := s1.now } :: m.waiting }

/-- The state after a command that answers RETRY with a token and a hint (R88). -/
def retries (s : State) (sp : CmdSpec) (r : Req) (p : List Byte) (token ms : Nat) (t : State) : State :=
  finish t (heldCmd s sp r p) { level := sp.level, status := stRetry, token := token, retryMs := ms } [] false

/-- The state after a command that ends without effect, with a status and a `DETAIL` (R77). -/
def refused (s : State) (sp : CmdSpec) (r : Req) (p : List Byte) (s1 : State) (status detail : Nat) : State :=
  reject s1 (heldCmd s sp r p) sp.level status detail false

/-- The entries of a list command's payload `p` all apply in list order, from `s1` to `t`, clamping the fields at `cl`, and no check of an
entry on the whole shadow fails (R218). -/
def ListApplies (size : Nat) (f : Nat → List Byte → State → EntryRes) (g : Nat → List Byte → State → List Check) (p : List Byte) (s1 t : State)
    (cl : List Nat) : Prop :=
  applyEntries size f (u p 0 2) 4 p s1 [] = .ok (t, cl) ∧ shadowBad size g (u p 0 2) 4 p t = none

/-- What a list command that applied hands on: its completion repeats `COUNT` (R218). -/
def listDone (p : List Byte) (t : State) (cl : List Nat) (tables : Nat) (commits : Bool) : Done :=
  { payload := le 2 (u p 0 2) ++ zeros 2, clamps := cl, st := t, tables := tables, commits := commits }

/-- What a row of the pair leaves once its effect is `t` (R687): times of changes stamped, and a hello after a change of what a hello carries. -/
def pairSettled (s t : State) : State :=
  let v := stampPair s t
  if v.pair.link ∧ v.pair.helloAt = s.pair.helloAt ∧ (v.pair.reasons ≠ s.pair.reasons ∨ ownDigest v ≠ ownDigest s ∨ v.pair.role ≠ s.pair.role)
  then sendHello v else v

/-- Every part of the state but the mailboxes, the queues and their events, H0 with its DMA, the log and the two counters of the model itself: none
differs. What a command that only reads leaves alone. -/
structure Untouched (s t : State) : Prop where
  ports  : t.ports = s.ports
  tables : t.ep = s.ep
  ing    : t.ing = s.ing
  hor    : t.hor = s.hor
  fab    : t.fab = s.fab
  egr    : t.egr = s.egr
  time   : t.time = s.time
  leg    : t.leg = s.leg
  gw     : t.gw = s.gw
  power  : t.power = s.power
  keys   : t.keys = s.keys
  boot   : t.boot = s.boot
  upd    : t.upd = s.upd
  pair   : t.pair = s.pair
  carve  : t.carve = s.carve

end Sys2Proof.Machine
end

