-- ==== Sys2Proof/Certificates/Slice0/Obligations.lean ====
section
/-! DEFINITION. The obligations: what the spec's rules say of this block, command by command and over the whole machine. Where a command's body runs (`Runs`), it
ends as `ends`, `waits`, `retries` or `refused` say, with the payload and the state that the clause gives: every part of the state that a
clause does not name is as it was. -/

open Sys2Proof Sys2Proof.Machine

/-! ### Commands of group 0x00, PERF_GET and PERF_SET -/

/-- Group 0x00 (R97 to R102): each command, once its body runs, answers what its table says.
What the spec leaves open follows the model's choice, assumptions 7 and 31. Tier 1. -/
def Obligations.systemCommandsComplete : Prop :=
  ∀ (r : Req) (s s1 : State) (p : List Byte),
    (Runs s specNop r p s1 → exec (.nop r) s = .next (ends s specNop r p s1 { st := s1, payload := p })) ∧
    (Runs s specGetVersions r p s1 → exec (.getVersions r) s = .next (ends s specGetVersions r p s1 {
      st := s1, clamps := (clampField 2 1 (min 256 (0x10000 - u p 0 2)) (u p 2 2)).off
      payload := le 2 (u p 0 2) ++ le 2 (clampTo 1 (min 256 (0x10000 - u p 0 2)) (u p 2 2)) ++
        (List.range (clampTo 1 (min 256 (0x10000 - u p 0 2)) (u p 2 2))).map fun k => BitVec.ofNat 8 (highestVersion (u p 0 2 + k)) })) ∧
    (Runs s specGetIdentity r p s1 → exec (.getIdentity r) s = .next (ends s specGetIdentity r p s1 {
      st := s1
      payload := le 2 0x9600 ++ le 1 Config.stepping ++ le 1 0x4B ++ le 8 Config.serial ++ le 4 s1.host.fwVer ++ le 4 0x00010000 ++
        le 1 s1.lifecycle ++ le 1 (b2n s1.lode.splitMode + 2 * b2n s1.keys.quarantine + 4 * b2n s1.lode.debugSplit) ++ zeros 2 ++
        (if s1.host.bundleOk then padTo 48 s1.boot.bundleDigest else zeros 48) ++ le 4 (if s1.host.bundleOk then s1.boot.bundleGen else 0) ++
        le 4 s1.boot.loaderVer ++ [1, 3, 4, 5, 6, 7].flatMap (fun n => le 4 (at' s1.boot.unitVer n 0)) ++ zeros 8 })) ∧
    (Runs s specGetStatus r p s1 → exec (.getStatus r) s = .next (ends s specGetStatus r p s1 {
      st := s1
      payload := le 4 (devStatus s1) ++ le 4 s1.ep.epoch ++ le 4 s1.host.resetCause ++ le 4 s1.host.fwVer ++ le 8 s1.mb.uptimeMs ++
        le 8 s1.now ++ le 1 s1.mb.ring ++ le 1 (s1.mb.sessions.filter (·.isOpen)).length ++ le 1 (liveTokens s1).length ++ zeros 5 })) ∧
    (Runs s specGetMbStats r p s1 → exec (.getMbStats r) s = .next (ends s specGetMbStats r p s1 {
      st := if (u p 0 1) % 2 = 1 then s1.modMb fun m => { m with counters := List.replicate 9 {} } else s1
      payload := s1.mb.counters.flatMap fun c => [c.ok, c.clamped, c.retry, c.busy, c.rejected, c.fault].flatMap (le 4) })) ∧
    (Runs s specModuleReset r p s1 → u p 0 4 = 0x9600A55A → s1.upd.stage ≠ 4 → s1.upd.stage ≠ 7 →
      exec (.moduleReset r) s = .next (ends s specModuleReset r p s1 {
        clamps := (clampField 4 2 10000 (u p 4 2)).off, payload := le 2 (clampTo 2 10000 (u p 4 2))
        st := s1.modPow fun x => { x with
          resetDue := some (s1.time.aon + msCounts (clampTo 2 10000 (u p 4 2)), clampTo 2 10000 (u p 4 2)) } })) ∧
    (Runs s specPerfGet r p s1 → exec (.perfGet r) s = .next (ends s specPerfGet r p s1 {
      st := s1
      payload := le 8 s1.host.perfCycle ++ le 4 (b2n s1.host.perfFreeze) ++ (s1.host.perf.flatMap fun c => le 4 (perfSel c)) ++
        s1.host.perf.flatMap fun c => le 4 c.count })) ∧
    (Runs s specPerfSet r p s1 → (∀ n ∈ bitList 8 (u p 0 1), perfCodeOk (bits (u p (4 + 4 * n) 4) 9 0) = true) →
      ∃ h, exec (.perfSet r) s = .next (ends s specPerfSet r p s1 { payload := perfPayload h, st := s1.modHost fun _ => h }) ∧
        h = (if bit (u p 1 1) 2 then bitList 8 (u p 0 1) else []).foldl (fun h n => writePerfCnt h n (u p (36 + 4 * n) 4))
          ((bitList 8 (u p 0 1)).foldl (fun h n => writePerfSel h n (u p (4 + 4 * n) 4)) (writePerfCtl s1.host (u p 1 1 % 4))))

/-! ### Commands of group 0x01 -/

/-- Group 0x01 (R138 to R144): event routes, ring binding, receive steering, DMA and ATU counters.
What the spec leaves open follows the model's choice, assumptions 6 and 31. Tier 1. -/
def Obligations.eventAndRingCommandsComplete : Prop :=
  ∀ (r : Req) (s s1 : State) (p : List Byte),
    (Runs s specEvqGetRoutes r p s1 → exec (.evqGetRoutes r) s = .next (ends s specEvqGetRoutes r p s1 {
      st := s1, clamps := (clampField 2 1 (256 - u p 0 1) (u p 2 2)).off
      payload := le 1 (u p 0 1) ++ zeros 1 ++ le 2 (clampTo 1 (256 - u p 0 1) (u p 2 2)) ++
        (List.range (clampTo 1 (256 - u p 0 1) (u p 2 2))).flatMap fun k =>
          le 1 (s1.route (u p 0 1 + k)).queue ++ le 1 (s1.route (u p 0 1 + k)).minSev })) ∧
    (Runs s specEvqSetRoute r p s1 → u p 2 1 ≤ 3 ∨ u p 2 1 = 0xFF →
      ∃ last sev, last = clampTo (u p 0 1) 255 (u p 1 1) ∧ sev = clampTo 0 7 (u p 3 1) ∧
        exec (.evqSetRoute r) s = .next (ends s specEvqSetRoute r p s1 {
          clamps := (clampField 1 (u p 0 1) 255 (u p 1 1)).off ++ (clampField 3 0 7 (u p 3 1)).off
          payload := le 1 (u p 0 1) ++ le 1 last ++ le 1 (u p 2 1) ++ le 1 sev
          st := { s1 with routes :=
            (List.range (last + 1 - u p 0 1)).foldl (fun t k => tset t (u p 0 1 + k) { queue := u p 2 1, minSev := sev }) s1.routes } })) ∧
    (Runs s specRingBind r p s1 → u p 0 1 ≤ 31 → (u p 1 1 ≤ 7 ∧ inCarve s1 (u p 1 1) = true) ∨ u p 1 1 = 0xFF → s1.ep.draining = false →
      exec (.ringBind r) s = .next (ends s specRingBind r p s1 {
        payload := le 1 (u p 0 1) ++ le 1 (u p 1 1) ++ le 1 (tgetD s1.it.ringBind (u p 0 1) 0xFF), tables := 1, commits := true
        st := s1.modIt fun t => { t with
          ringBind := if u p 1 1 = 0xFF then tdel t.ringBind (u p 0 1) else tset t.ringBind (u p 0 1) (u p 1 1) } })) ∧
    (Runs s specRxSteerSet r p s1 → u p 0 1 ≤ 7 ∨ u p 0 1 = 0xFF → u p 1 1 ≤ 7 ∨ u p 1 1 = 0xFF → u p 2 1 ≤ 31 →
      ∃ es, es = (eightOf (u p 0 1)).flatMap (fun d => (eightOf (u p 1 1)).map fun t => 8 * d + t) ∧
        exec (.rxSteerSet r) s = .next (ends s specRxSteerSet r p s1 {
          payload := le 1 (u p 0 1) ++ le 1 (u p 1 1) ++ le 1 (u p 2 1) ++ zeros 1 ++ le 1 es.length
          st := { s1 with dma := { s1.dma with steer := es.foldl (fun m e => tset m e (u p 2 1)) s1.dma.steer } } })) ∧
    (Runs s specRxSteerGet r p s1 → exec (.rxSteerGet r) s = .next (ends s specRxSteerGet r p s1 {
      st := s1, payload := (List.range 64).map fun e => BitVec.ofNat 8 (tgetD s1.dma.steer e (e % 8)) })) ∧
    (Runs s specDmaGetCounters r p s1 → u p 0 1 ≤ 63 → exec (.dmaGetCounters r) s = .next (ends s specDmaGetCounters r p s1 {
      payload := le 1 (u p 0 1) ++ zeros 7 ++ le 8 (s1.ring (u p 0 1)).frames ++ le 8 (s1.ring (u p 0 1)).bytes ++
        le 4 (s1.ring (u p 0 1)).c0 ++ le 4 (s1.ring (u p 0 1)).c1 ++ le 4 (s1.ring (u p 0 1)).c2 ++ le 4 (s1.ring (u p 0 1)).c3 ++
        le 4 (s1.ring (u p 0 1)).c4 ++ le 4 (s1.ring (u p 0 1)).c5
      st := if u p 1 1 % 2 = 1 then s1.modRing (u p 0 1) fun g => { g with frames := 0, bytes := 0, c0 := 0, c1 := 0, c2 := 0, c3 := 0, c4 := 0, c5 := 0 }
        else s1 })) ∧
    (Runs s specAtuGetCounters r p s1 → exec (.atuGetCounters r) s = .next (ends s specAtuGetCounters r p s1 {
      payload := le 8 s1.dma.atu.hits ++ le 8 s1.dma.atu.misses ++ le 8 s1.dma.atu.reads ++ le 4 s1.dma.atu.invals ++ le 4 s1.dma.atu.faults
      st := if u p 0 1 % 2 = 1 then s1.modAtu fun a => { a with hits := 0, misses := 0, reads := 0, invals := 0, faults := 0 } else s1 }))

/-! ### Commands of group 0x02 -/

/-- Group 0x02 (R174 to R181): ports, edge groups, PLCA, PSE, retained training.
What the spec leaves open follows the model's choice, assumptions 14, 20 and 37. Tier 1. -/
def Obligations.portCommandsComplete : Prop :=
  ∀ (r : Req) (s s1 : State) (p : List Byte),
    (Runs s specPortGetStatus r p s1 → u p 0 1 ≤ 32 →
      exec (.portGetStatus r) s = .next (ends s specPortGetStatus r p s1 {
      st := s1
      payload := le 1 (u p 0 1) ++ le 1 (portCfg s1 (u p 0 1)).admin ++ le 1 (portRun s1 (u p 0 1)).oper ++ le 1 (portRun s1 (u p 0 1)).speed ++
        le 1 (modeCode s1 (u p 0 1)) ++ le 1 (if isT1 s1 (u p 0 1) then (portCfg s1 (u p 0 1)).role else 0xFF) ++ le 1 (b2n ((portRun s1 (u p 0 1)).oper == 3 && bit (portCfg s1 (u p 0 1)).flags 0 && (portRun s1 (u p 0 1)).partnerEee) +
          2 * b2n (portRun s1 (u p 0 1)).partnerEee + 4 * b2n ((portRun s1 (u p 0 1)).oper == 3 && (portRun s1 (u p 0 1)).how == 1) +
          8 * b2n ((portRun s1 (u p 0 1)).train.any fun x => (recordBad s1 (u p 0 1) x).isNone) +
          16 * b2n (holdsTokens s1 (16 + u p 0 1) && reservedCode s1 (16 + u p 0 1))) ++ zeros 1 ++
        le 8 (portRun s1 (u p 0 1)).since })) ∧
    -- PORT_SET on an edge port whose ADMIN stays, and one that comes up
    (Runs s specPortSet r p s1 → 4 ≤ u p 0 1 → u p 0 1 ≤ 31 → isT1 s1 (u p 0 1) = false → u p 1 1 ≤ 1 →
      (bit (u p 5 1 % 8) 0 = true → zenithAt s1 (u p 0 1) = false) →
      ∃ c, c = { portCfg s1 (u p 0 1) with
          admin := u p 1 1, flags := u p 5 1 % 8, lpiIdleUs := clampTo 1 10000 (u p 6 2), maxAgeH := clampTo 1 8760 (u p 8 2) } ∧
        exec (.portSet r) s = .next (ends s specPortSet r p s1 {
          clamps := (clampField 6 1 10000 (u p 6 2)).off ++ (clampField 8 1 8760 (u p 8 2)).off
          st := zenithRecheck (applyAdmin (setPortCfg s1 (u p 0 1) c) (u p 0 1) (portCfg s1 (u p 0 1)).admin (u p 1 1))
          payload := le 1 (u p 0 1) ++ le 1 c.admin ++ le 1 c.mode ++ le 1 c.role ++ le 1 c.fec ++ le 1 c.flags ++ le 2 c.lpiIdleUs ++
            le 2 c.maxAgeH })) ∧
    (Runs s specEdgeGroupSet r p s1 → u p 0 1 ≤ 5 → u p 1 1 ≤ 3 → (∀ k, k < 4 → (portCfg s1 (4 + 4 * u p 0 1 + k)).admin = 0) →
      (u p 0 1 ≤ 3 → 2 ≤ u p 1 1 → ∀ k, k < 4 → (pseCfg s1 (4 * u p 0 1 + k)).enable = false) →
      ∃ g, g = s1.modPorts (fun x => { x with cfg := { x.cfg with groups := x.cfg.groups.set (u p 0 1) (u p 1 1) } }) ∧
        exec (.edgeGroupSet r) s = .next (ends s specEdgeGroupSet r p s1 {
          payload := le 1 (u p 0 1) ++ le 1 (u p 1 1) ++ le 1 (groupType s1 (u p 0 1))
          st := zenithRecheck (if u p 1 1 = groupType s1 (u p 0 1) then g else
            ((List.range 4).map fun k => 4 + 4 * u p 0 1 + k).foldl (fun s q => dropRecord s q .changed) g) })) ∧
    (Runs s specPortGetCounters r p s1 → u p 0 1 ≤ 32 → exec (.portGetCounters r) s = .next (ends s specPortGetCounters r p s1 {
      st := if u p 1 1 % 2 = 1 then modPort s1 (u p 0 1) fun x => { x with counters := List.replicate 16 0 } else s1
      payload := le 1 (u p 0 1) ++ zeros 7 ++ ((portRun s1 (u p 0 1)).counters.take 4).flatMap (le 8) ++
        ((portRun s1 (u p 0 1)).counters.drop 4).flatMap (le 4) })) ∧
    (Runs s specPlcaSet r p s1 → u p 0 1 ≤ 3 → u p 1 1 ≤ 1 → (portCfg s1 (28 + u p 0 1)).admin = 0 → u p 2 1 < clampTo 2 8 (u p 3 1) → u p 2 1 ≤ 7 →
      ∃ c : Plca, c = { enable := u p 1 1 = 1, nodeId := u p 2 1, nodeCount := clampTo 2 8 (u p 3 1), toTimer := clampTo 1 255 (u p 4 1)
                        burstCnt := u p 5 1, burstTmr := clampTo 1 255 (u p 6 1) } ∧
        exec (.plcaSet r) s = .next (ends s specPlcaSet r p s1 {
          clamps := (clampField 3 2 8 (u p 3 1)).off ++ (clampField 4 1 255 (u p 4 1)).off ++ (clampField 6 1 255 (u p 6 1)).off
          st := s1.modPorts fun x => { x with cfg := { x.cfg with plca := x.cfg.plca.set (u p 0 1) c } }
          payload := le 1 (u p 0 1) ++ le 1 (b2n c.enable) ++ le 1 c.nodeId ++ le 1 c.nodeCount ++ le 1 c.toTimer ++ le 1 c.burstCnt ++
            le 1 c.burstTmr })) ∧
    -- PSE_SET: a port that is switched off loses its power; one that was disabled or denied starts
    (Runs s specPseSet r p s1 → u p 0 1 ≤ 15 → u p 1 1 = 0 →
      exec (.pseSet r) s = .next (ends s specPseSet r p s1 {
        clamps := (clampField 2 0 3 (u p 2 1)).off ++ (clampField 3 1 6 (u p 3 1)).off
        st := pseRemove (pseController (s1.modPorts fun x => { x with cfg := { x.cfg with pse := x.cfg.pse.set (u p 0 1) {
          enable := false, prio := clampTo 0 3 (u p 2 1), maxClass := clampTo 1 6 (u p 3 1) } } }) (u p 0 1 / 4)) (u p 0 1) 0
        payload := le 1 (u p 0 1) ++ le 1 0 ++ le 1 (clampTo 0 3 (u p 2 1)) ++ le 1 (clampTo 1 6 (u p 3 1)) })) ∧
    (Runs s specPseSet r p s1 → u p 0 1 ≤ 15 → u p 1 1 = 1 → groupType s1 (u p 0 1 / 4) ≤ 1 → (pseRun s1 (u p 0 1)).state = 0 →
      exec (.pseSet r) s = .next (ends s specPseSet r p s1 {
        clamps := (clampField 2 0 3 (u p 2 1)).off ++ (clampField 3 1 6 (u p 3 1)).off
        st := pseStart (pseController (s1.modPorts fun x => { x with cfg := { x.cfg with pse := x.cfg.pse.set (u p 0 1) {
          enable := true, prio := clampTo 0 3 (u p 2 1), maxClass := clampTo 1 6 (u p 3 1) } } }) (u p 0 1 / 4)) (u p 0 1)
        payload := le 1 (u p 0 1) ++ le 1 1 ++ le 1 (clampTo 0 3 (u p 2 1)) ++ le 1 (clampTo 1 6 (u p 3 1)) })) ∧
    (Runs s specPseGetStatus r p s1 → u p 0 1 ≤ 15 → ∀ x, x = pseRun s1 (u p 0 1) →
      exec (.pseGetStatus r) s = .next (ends s specPseGetStatus r p s1 {
        st := s1
        payload := le 1 (u p 0 1) ++ le 1 x.state ++ le 1 x.reqClass ++ le 1 x.grant ++ le 2 x.tokens ++ le 2 x.powerMw ++ le 2 s1.ports.railMv ++
          le 2 s1.power.poeTokens ++ le 2 (poeFree s1) ++ le 2 x.badSig })) ∧
    (Runs s specTrainingClear r p s1 → u p 0 1 ≤ 27 →
      exec (.trainingClear r) s = .next (ends s specTrainingClear r p s1 {
        payload := le 1 (b2n ((portRun s1 (u p 0 1)).train.isSome && canFast s1 (u p 0 1)))
        st := if canFast s1 (u p 0 1) then dropRecord s1 (u p 0 1) .fresh else s1 }))

/-- Rows of the link state machine and the PSE (R148, R149, R151 to R165, R168 to R172): each row in the state it is for.
What the spec leaves open follows the model's choice, assumptions 14, 20 and 37. Tier 1. -/
def Obligations.portRowsComplete : Prop :=
  ∀ (p i : Nat) (s : State),
    -- a port in DOWN meets its partner: without training it comes UP, with training it trains
    (28 ≤ p → p ≤ 32 → (portRun s p).oper = 1 → exec (.partnerSignalDetected p) s = .next (setOper s p 3 6 2 (nominalSpeed s p))) ∧
    (4 ≤ p → p ≤ 27 → (portRun s p).oper = 1 → (portRun s p).train = none →
      exec (.partnerSignalDetected p) s =
        .next (setOper (modPort s p fun r => { r with fastTry := false, matched := false, fastAt := s.now }) p 2 6 0 0)) ∧
    -- training ends: the port is UP; a T1 port that retains training keeps a record
    (∀ role fin coeffs, p ≤ 27 → (portRun s p).oper = 2 → (portRun s p).fastTry = false → isT1 s p = true → role ≠ (portCfg s p).role →
      bit (portCfg s p).flags 1 = false →
      exec (.trainingComplete p role false false coeffs fin) s =
        .next (setOper (modPort s p fun r => { r with partnerEee := false }) p 3 6 0 (nominalSpeed s p))) ∧
    (∀ role fin coeffs, p ≤ 27 → (portRun s p).oper = 2 → (portRun s p).fastTry = true → (portRun s p).matched = true →
      role ≠ (portCfg s p).role →
      exec (.trainingComplete p role false false coeffs fin) s = .next (setOper (portCount s p 13 1) p 3 6 1 (nominalSpeed s p))) ∧
    (p ≤ 32 → (portRun s p).oper = 2 → (portRun s p).fastTry = false → exec (.trainingFailed p) s = .next (setOper s p 1 1 0 0)) ∧
    (∀ pcs, p ≤ 32 → (portRun s p).oper = 3 →
      exec (.linkLoss p pcs) s = .next (setOper (modPort s p fun r => { r with fullNext := true }) p 1 (if pcs then 2 else 1) 0 0)) ∧
    (∀ fin t, p ≤ 27 → (portRun s p).oper = 2 → (portRun s p).fastTry = true → (portRun s p).matched = false → (portRun s p).train = some t →
      (portCfg s p).role = 1 → fin = t.finger →
      exec (.fastStartInfofieldRx p fin false) s = .next (modPort s p fun r => { r with matched := true })) ∧
    (∀ fin t, p ≤ 27 → (portRun s p).oper = 2 → (portRun s p).fastTry = true → (portRun s p).matched = false → (portRun s p).train = some t →
      (portCfg s p).role = 1 → fin ≠ t.finger →
      exec (.fastStartInfofieldRx p fin false) s = .next (fallback s p 6 ((s.now - (portRun s p).fastAt) / 1000))) ∧
    (p ≤ 27 → (portRun s p).oper = 2 → (portRun s p).fastTry = true → (portRun s p).matched = false →
      ∃ t, t = s.until ((portRun s p).fastAt + 2000000) ∧
        exec (.fastStartTimeout p) s = .next (fallback t p 5 ((t.now - (portRun s p).fastAt) / 1000))) ∧
    (p ≤ 32 → (portRun s p).oper = 5 → exec (.tokenRetryTimer p) s = .next (startPort s p 0)) ∧
    (4 ≤ p → p ≤ 27 → isT1 s p = false → (portRun s p).oper = 3 → (portRun s p).lpi = false → bit (portCfg s p).flags 0 = true →
      (portRun s p).partnerEee = true → zenithAt s p = false → portIdle s p = true → (portRun s p).lpiEvAt = some s.now →
      exec (.eeeIdleTimer p) s = .next (portCount (modPort s p fun r => { r with lpi := true, lpiSince := r.lpiSince + 1 }) p 15 1)) ∧
    (p ≤ 27 → isT1 s p = true → (portRun s p).oper = 3 → bit (portCfg s p).flags 2 = true →
      exec (.tc10SleepRequestRx p) s = .next (tc10Sleep s p 1 true)) ∧
    (i ≤ 3 → (at' s.ports.cfg.plca i {}).nodeId ≠ 0 → exec (.plcaBeaconLoss i) s = .next (setPlca s i false)) ∧
    (i ≤ 3 → (at' s.ports.cfg.plca i {}).nodeId ≠ 0 → (at' s.ports.cfg.plca i {}).enable = true → portUp s (28 + i) = true →
      exec (.plcaBeaconReturn i) s = .next (setPlca s i true)) ∧
    -- the PSE: DETECTING, CLASSIFYING, POWERED, DENIED, FAULT (R168)
    (i ≤ 15 → (pseRun s i).state = 1 → exec (.pseDetection i true) s = .next (modPse s i fun r => { r with state := 2 })) ∧
    (i ≤ 15 → (pseRun s i).state = 1 → exec (.pseDetection i false) s = .next (modPse s i fun r => { r with badSig := satAdd 16 r.badSig 1 })) ∧
    (∀ cls, i ≤ 15 → (pseRun s i).state = 2 → cls ≤ 8 →
      exec (.pseClassification i cls 0) s =
        .next (pseRequest (raisePse (modPse s i fun r => { r with reqClass := cls, need := classTokens (demote s i cls) }) i 0) i)) ∧
    -- a fault of a powered port: power removed, FAULT, PSE_FAULT with its cause; denied ports request again (R172, R173)
    (∀ peak rail, i ≤ 15 → (pseRun s i).state = 3 →
      ∃ t : State, t = modPse (pseOff s i 5) i (fun r => { r with faults := wrapAdd 32 r.faults 1, reqClass := 0xFF }) ∧
        ∃ ev : Nat → State, (∀ c, ev c = pseRetry (raise t 0x85 4 noLevel (srcId 1 (4 + i))
            (le 1 i ++ le 1 c ++ le 2 (min peak 65535) ++ le 2 rail ++ zeros 2 ++ le 4 (pseRun t i).faults))) ∧
          exec (.pseOverload i peak rail) s = .next (ev 0) ∧ exec (.pseShort i peak rail) s = .next (ev 1) ∧
          exec (.pseHardShort i peak rail) s = .next (ev 1) ∧ exec (.pseThermal i peak rail) s = .next (ev 2)) ∧
    (∀ rail, s.ports.supplyFault = false → ∃ t, exec (.pseSupplyFault rail) s = .next t ∧ t.ports.supplyFault = true ∧ t.ports.railMv = rail) ∧
    (∀ rail, s.ports.supplyFault = true →
      exec (.pseSupplyRecovery rail) s = .next ((List.range 16).foldl
        (fun s i => if (pseRun s i).state = 5 then modPse s i fun r => { r with state := 1 } else s)
        (s.modPorts fun x => { x with supplyFault := false, railMv := rail }))) ∧
    (i ≤ 15 → (pseRun s i).state = 3 ∨ (pseRun s i).state = 4 → exec (.pseDisconnect i) s = .next (pseRemove s i 1)) ∧
    (i ≤ 15 → (pseRun s i).state = 5 → s.ports.supplyFault = false →
      exec (.pseFaultWaitExpiry i) s = .next (modPse s i fun r => { r with state := 1 }))

/-! ### Commands of group 0x03 -/

/-- List commands of group 0x03 (R218): once every entry applies and no check on the whole shadow fails, the command ends with the shadow that
its entries leave, and commits the tables named. What an entry does is said by `ingressEntriesApply`.
What the spec leaves open follows the model's choice, assumption 39. Tier 1. -/
def Obligations.ingressListsComplete : Prop :=
  ∀ (r : Req) (s s1 t : State) (p : List Byte) (cl : List Nat),
    (Runs s specDomainMapSet r p s1 → ListApplies 16 entryDomainMap noShadowCheck p s1 t cl → s1.ep.draining = false →
      exec (.domainMapSet r) s = .next (ends s specDomainMapSet r p s1 (listDone p t cl 1 true))) ∧
    (Runs s specDomainParamsSet r p s1 → ListApplies 72 entryDomainParams noShadowCheck p s1 t cl → s1.ep.draining = false →
      exec (.domainParamsSet r) s = .next (ends s specDomainParamsSet r p s1 (listDone p t cl 1 true))) ∧
    (Runs s specVlanSet r p s1 → ListApplies 24 entryVlan noShadowCheck p s1 t cl → s1.ep.draining = false →
      exec (.vlanSet r) s = .next (ends s specVlanSet r p s1 (listDone p t cl 1 true))) ∧
    (Runs s specFdbStaticSet r p s1 → ListApplies 24 entryFdbStatic noShadowCheck p s1 t cl → s1.ep.draining = false →
      exec (.fdbStaticSet r) s = .next (ends s specFdbStaticSet r p s1 (listDone p t cl 2 true))) ∧
    (Runs s specStreamIdSet r p s1 → ListApplies 64 entryStreamId shadowStreamId p s1 t cl → s1.ep.draining = false →
      exec (.streamIdSet r) s = .next (ends s specStreamIdSet r p s1 (listDone p t cl 4 true))) ∧
    (Runs s specStreamSet r p s1 → ListApplies 16 entryStream shadowStream p s1 t cl → s1.ep.draining = false →
      exec (.streamSet r) s = .next (ends s specStreamSet r p s1 (listDone p t cl 4 true))) ∧
    (Runs s specFilterSet r p s1 → ListApplies 16 entryFilter shadowFilter p s1 t cl → s1.ep.draining = false →
      exec (.filterSet r) s = .next (ends s specFilterSet r p s1 (listDone p t cl 8 true))) ∧
    (Runs s specMeterSet r p s1 → ListApplies 24 entryMeter shadowMeter p s1 t cl → s1.ep.draining = false →
      exec (.meterSet r) s = .next (ends s specMeterSet r p s1 (listDone p t cl 8 true))) ∧
    (Runs s specFrerSet r p s1 → ListApplies 16 entryFrer shadowFrer p s1 t cl → s1.ep.draining = false →
      exec (.frerSet r) s = .next (ends s specFrerSet r p s1 (listDone p t cl 16 true))) ∧
    (Runs s specMirrorSet r p s1 → ListApplies 16 entryMirror noShadowCheck p s1 t cl →
      exec (.mirrorSet r) s = .next (ends s specMirrorSet r p s1 (listDone p t cl 0 false)))

/-- Entries of the lists of group 0x03 (R219 to R222, R225 to R227, R229 to R231): what one entry `e` at payload offset `off` leaves in the
shadow, and the fields it clamps. Everything else of the state is as it was.
What the spec leaves open follows the model's choice, assumptions 9 and 39. Tier 2. -/
def Obligations.ingressEntriesApply : Prop :=
  ∀ (off : Nat) (e : List Byte) (s : State),
    -- DOMAIN_MAP_SET: a default, a VID override, its removal
    (u e 0 1 ≤ 33 → u e 1 1 = 0 → u e 4 1 ≤ 7 → inCarve s (u e 4 1) = true → 1 ≤ u e 6 2 → u e 6 2 ≤ 4094 → u e 8 1 ≤ 2 → u e 9 1 ≤ 1 →
      entryDomainMap off e s = .ok (s.modIt fun t => { t with domDefault := tset t.domDefault (u e 0 1) {
        domain := u e 4 1, defPrio := clampTo 0 7 (u e 5 1), pvid := u e 6 2, accept := u e 8 1, trust := u e 9 1, flags := u e 10 1 % 4
        learnLimit := clampTo 1 65535 (u e 12 2) } },
        (clampField (off + 5) 0 7 (u e 5 1)).off ++ (clampField (off + 12) 1 65535 (u e 12 2)).off)) ∧
    (u e 0 1 ≤ 33 → u e 1 1 = 2 → 1 ≤ u e 2 2 → u e 2 2 ≤ 4094 → thas s.it.domOvr (4096 * u e 0 1 + u e 2 2) = true →
      entryDomainMap off e s = .ok (s.modIt fun t => { t with domOvr := tdel t.domOvr (4096 * u e 0 1 + u e 2 2) }, [])) ∧
    -- DOMAIN_PARAMS_SET
    (inCarve s (u e 0 1) = true → ∃ x cl, entryDomainParams off e s = .ok (s.modIt fun t => { t with domParams := tset t.domParams (u e 0 1) x }, cl) ∧
      x.flags = u e 1 1 % 8 ∧ x.agingS = clampTo 10 1000000 (u e 4 4) ∧ x.dscp = (List.range 64).map fun i => clampTo 0 7 (u e (8 + i) 1)) ∧
    -- VLAN_SET
    (inCarve s (u e 0 1) = true → u e 1 1 = 1 → 1 ≤ u e 2 2 → u e 2 2 ≤ 4094 →
      entryVlan off e s = .ok (s.modIt fun t => { t with
        vlans := setVlans (u e 0 1) none (clampTo (u e 2 2) 4094 (u e 4 2) + 1 - u e 2 2) (u e 2 2) t.vlans },
        (clampField (off + 4) (u e 2 2) 4094 (u e 4 2)).off)) ∧
    (inCarve s (u e 0 1) = true → u e 1 1 = 0 → 1 ≤ u e 2 2 → u e 2 2 ≤ 4094 → setInter (portSet (u e 16 8)) (portSet (u e 8 8)) = portSet (u e 16 8) →
      entryVlan off e s = .ok (s.modIt fun t => { t with
        vlans := setVlans (u e 0 1) (some { members := portSet (u e 8 8), untagged := portSet (u e 16 8) })
          (clampTo (u e 2 2) 4094 (u e 4 2) + 1 - u e 2 2) (u e 2 2) t.vlans },
        (clampField (off + 4) (u e 2 2) 4094 (u e 4 2)).off)) ∧
    -- STREAM_ID_SET
    (u e 0 2 ≤ 8191 → u e 4 1 = 0 → thas s.it.streamIds (u e 0 2) = true →
      entryStreamId off e s = .ok (s.modIt fun t => { t with streamIds := tdel t.streamIds (u e 0 2) }, [])) ∧
    (u e 0 2 ≤ 8191 → u e 2 2 ≤ 4095 → u e 4 1 = 1 ∨ u e 4 1 = 2 → u e 5 1 = 0xFF → u e 6 1 ≤ 2 → u e 16 2 = 0xFFFF →
      entryStreamId off e s = .ok (s.modIt fun t => { t with streamIds := tset t.streamIds (u e 0 2) (streamIdOf e) }, [])) ∧
    -- STREAM_SET
    (u e 0 2 ≤ 4095 → u e 2 1 = 1 → thas s.it.streams (u e 0 2) = true →
      entryStream off e s = .ok (s.modIt fun t => { t with streams := tdel t.streams (u e 0 2) }, [])) ∧
    (u e 0 2 ≤ 4095 → u e 2 1 = 0 → u e 6 2 ≤ 1023 ∨ u e 6 2 = 0xFFFF → u e 8 2 ≤ 1023 ∨ u e 8 2 = 0xFFFF → u e 10 1 ≤ 3 ∨ u e 10 1 = 0xFF →
      entryStream off e s = .ok (s.modIt fun t => { t with streams := tset t.streams (u e 0 2) {
        flags := u e 3 1 % 4, prio := clampTo 0 7 (u e 4 1), cdest := u e 5 1 % 8, gen := u e 6 2, rcvy := u e 8 2, mirror := u e 10 1 } },
        (clampField (off + 4) 0 7 (u e 4 1)).off)) ∧
    -- FILTER_SET: counters of an index that was deleted start from 0 (R215)
    (u e 0 2 ≤ 4095 → u e 2 1 = 0 → u e 4 2 ≤ 4095 → u e 6 1 ≤ 7 → u e 10 2 ≤ 1023 ∨ u e 10 2 = 0xFFFF → u e 12 2 ≤ 2047 ∨ u e 12 2 = 0xFFFF →
      entryFilter off e s = .ok (ctrAddIndex (s.modIt fun t => { t with filters := tset t.filters (u e 0 2) {
        flags := u e 3 1 % 16, handle := u e 4 2, prio := u e 6 1, maxSdu := clampTo 64 9216 (u e 8 2), gate := u e 10 2, meter := u e 12 2 } })
        0 (u e 0 2), (clampField (off + 8) 64 9216 (u e 8 2)).off)) ∧
    -- METER_SET without KEEP_TOKENS: both buckets are full
    (u e 0 2 ≤ 2047 → u e 2 1 = 0 → bit (u e 3 1) 4 = false →
      ∃ m cl, entryMeter off e s = .ok (ctrAddIndex ((s.modIt fun t => { t with meters := tset t.meters (u e 0 2) m }).modIng fun d => { d with
          meters := tset d.meters (u e 0 2) { tgetD s.ing.meters (u e 0 2) {} with tc := m.cbs * 1024, te := m.ebs * 1024, last := s.time.raw } })
          1 (u e 0 2), cl) ∧
        m = { flags := u e 3 1 % 32, cir := clampTo 0 100000000 (u e 4 4), cbs := clampTo 0 16777215 (u e 8 4)
              eir := clampTo 0 100000000 (u e 12 4), ebs := clampTo 0 16777215 (u e 16 4) }) ∧
    -- FRER_SET: a generation function, and a recovery function that is new
    (u e 0 2 ≤ 1023 → u e 2 1 = 0 → u e 3 1 = 0 →
      entryFrer off e s = .ok (ctrAddIndex (s.modIt fun t => { t with generation := tset t.generation (u e 0 2) () }) 3 (u e 0 2), [])) ∧
    (u e 0 2 ≤ 1023 → u e 2 1 = 0 → u e 3 1 = 1 → u e 4 1 ≤ 1 → tget s.it.recovery (u e 0 2) = none →
      ∃ x cl, entryFrer off e s = .ok ((ctrAddIndex (s.modIt fun t => { t with recovery := tset t.recovery (u e 0 2) x }) 2 (u e 0 2)).modIng
          fun d => { d with recovery := tset d.recovery (u e 0 2) {} }, cl) ∧
        x = { algo := u e 4 1, history := clampTo 2 64 (u e 5 1), flags := u e 6 1 % 8, paths := clampTo 2 8 (u e 7 1)
              resetMs := clampTo 1 65535 (u e 8 2), latentDiff := clampTo 1 65535 (u e 10 2), latentMs := clampTo 100 3600000 (u e 12 4) }) ∧
    -- MIRROR_SET
    (u e 0 1 ≤ 3 → u e 1 1 ≤ 1 → u e 2 1 ≤ 33 → u e 2 1 = 33 ∨ (tgetD s.it.domDefault (u e 2 1) {}).domain = 3 →
      entryMirror off e s = .ok (s.modIng fun x => { x with mirrors := x.mirrors.set (u e 0 1) {
        enable := u e 1 1 = 1, dest := u e 2 1, tc := clampTo 0 6 (u e 3 1), trunc := clampTo 64 9216 (u e 4 2), flags := u e 6 1 % 2
        srcPorts := portSet (u e 8 8) } }, (clampField (off + 3) 0 6 (u e 3 1)).off ++ (clampField (off + 4) 64 9216 (u e 4 2)).off))

/-- The other commands of group 0x03 (R223, R224, R228, R232 to R234).
What the spec leaves open follows the model's choice, assumptions 9 and 39. Tier 1. -/
def Obligations.ingressCommandsComplete : Prop :=
  ∀ (r : Req) (s s1 : State) (p : List Byte),
    -- FDB_FLUSH: the learnt entries that match go, and are counted
    (Runs s specFdbFlush r p s1 → u p 0 1 ≤ 7 ∨ u p 0 1 = 0xFF → bit (u p 1 1) 0 = true → u p 2 1 ≤ 33 → bit (u p 1 1) 1 = false →
      ∃ hit : FdbLearnt → Bool, (∀ f, hit f = ((u p 0 1 == 0xFF || f.domain == u p 0 1) && f.point == u p 2 1)) ∧
        exec (.fdbFlush r) s = .next (ends s specFdbFlush r p s1 {
          payload := le 4 (s1.ing.learnt.map fun b => (b.2.filter hit).length).sum
          st := s1.modIng fun i => { i with learnt := i.learnt.map fun b => (b.1, b.2.filter fun f => !hit f) } })) ∧
    (Runs s specFdbFlush r p s1 → u p 0 1 ≤ 7 ∨ u p 0 1 = 0xFF → u p 1 1 = 0 →
      ∃ hit : FdbLearnt → Bool, (∀ f, hit f = (u p 0 1 == 0xFF || f.domain == u p 0 1)) ∧
        exec (.fdbFlush r) s = .next (ends s specFdbFlush r p s1 {
          payload := le 4 (s1.ing.learnt.map fun b => (b.2.filter hit).length).sum
          st := s1.modIng fun i => { i with learnt := i.learnt.map fun b => (b.1, b.2.filter fun f => !hit f) } })) ∧
    (Runs s specFdbRead r p s1 → u p 0 4 ≤ 65535 →
      ∃ n rs, n = clampTo 1 (65536 - u p 0 4) (u p 4 4) ∧ rs = (fdbSlots s1).filter (fun e => u p 0 4 ≤ e.1 && e.1 < u p 0 4 + n) ∧
        exec (.fdbRead r) s = .next (ends s specFdbRead r p s1 {
          payload := le 4 (u p 0 4) ++ le 4 n ++ le 4 rs.length ++ rs.flatMap (·.2)
          clamps := (clampField 4 1 (65536 - u p 0 4) (u p 4 4)).off, st := s1 })) ∧
    -- GATE_SET: a gate is deleted; a gate gets a list, which is pending until its start
    (Runs s specGateSet r p s1 → u p 0 2 ≤ 1023 → u p 2 1 = 1 → u p 6 2 = 0 → thas s1.it.gates (u p 0 2) = true →
      (s1.it.filters.any fun f => f.2.gate == u p 0 2) = false → s1.ep.draining = false →
      exec (.gateSet r) s = .next (ends s specGateSet r p s1 {
        payload := le 2 (u p 0 2) ++ le 4 0 ++ le 8 0, tables := 8, commits := true
        st := (s1.modIt fun t => { t with gates := tdel t.gates (u p 0 2) }).modIng fun d => { d with gates := tdel d.gates (u p 0 2) } })) ∧
    (Runs s specGateSet r p s1 → u p 0 2 ≤ 1023 → u p 2 1 = 0 → 1 ≤ u p 6 2 → u p 6 2 ≤ 256 → u p 4 1 ≤ 1 → u p 5 1 ≤ 7 →
      (∀ x ∈ gateEntries p (u p 6 2), u x.2 8 1 ≤ 1 ∧ u x.2 9 1 ≤ 7) → s1.ep.draining = false →
      ∀ g : Gate, g.flags = u p 3 1 % 4 → g.initState = u p 4 1 → g.initIpv = u p 5 1 → g.base = u p 8 8 →
        g.cycle = (if u p 16 4 = 0 then 0 else clampTo 1000 1000000000 (u p 16 4)) →
        g.entries = (gateEntries p (u p 6 2)).map (fun x => (gateEntryOf x.1 x.2).1) →
        gatePool (s1.modIt fun t => { t with gates := tset t.gates (u p 0 2) g }).it ≤ 32768 →
        ∃ cl, exec (.gateSet r) s = .next (ends s specGateSet r p s1 {
          payload := le 2 (u p 0 2) ++ le 4 (gatePeriod g) ++ le 8 (scheduleStart g.base (gatePeriod g) s1.now), clamps := cl, tables := 8
          commits := true
          st := (s1.modIt fun t => { t with gates := tset t.gates (u p 0 2) g }).modIng fun d => { d with
            gates := tmod d.gates (u p 0 2) {} fun x => { x with pending := some (scheduleStart g.base (gatePeriod g) s1.now, g) } } })) ∧
    (Runs s specCountersGet r p s1 → u p 0 1 ≤ 5 → ingInPop (u p 0 1) (u p 2 2) = true → ingConfigured s1 (u p 0 1) (u p 2 2) = true →
      exec (.countersGet r) s = .next (ends s specCountersGet r p s1 {
        payload := le 1 (u p 0 1) ++ le 1 (b2n (s1.ing.deleted.contains (65536 * u p 0 1 + u p 2 2))) ++ le 2 (u p 2 2) ++ zeros 4 ++
          ctrBytes (ingWidths (u p 0 1)) (ingCtr s1 (u p 0 1) (u p 2 2)) ++ (if u p 0 1 = 3 then le 4 (tgetD s1.ing.nextSeq (u p 2 2) 0) else [])
        st := if u p 1 1 % 2 = 1 then s1.modIng fun d => { d with counters := tdel d.counters (65536 * u p 0 1 + u p 2 2) } else s1 })) ∧
    -- STATE_CLEAR of a filter, a meter and a gate
    (Runs s specStateClear r p s1 → u p 0 1 = 0 → u p 2 2 ≤ 4095 → thas s1.it.filters (u p 2 2) = true →
      exec (.stateClear r) s = .next (ends s specStateClear r p s1 {
        payload := le 1 (b2n (s1.ing.blocked.contains (u p 2 2))), st := s1.modIng fun d => { d with blocked := d.blocked.filter (· != u p 2 2) } })) ∧
    (Runs s specStateClear r p s1 → u p 0 1 = 1 → u p 2 2 ≤ 2047 → thas s1.it.meters (u p 2 2) = true →
      exec (.stateClear r) s = .next (ends s specStateClear r p s1 {
        payload := le 1 (b2n (tgetD s1.ing.meters (u p 2 2) {}).allRed)
        st := s1.modIng fun d => { d with meters := tmod d.meters (u p 2 2) {} fun m => { m with allRed := false } } })) ∧
    (Runs s specStateClear r p s1 → u p 0 1 = 3 → u p 2 2 ≤ 1023 → thas s1.it.gates (u p 2 2) = true →
      exec (.stateClear r) s = .next (ends s specStateClear r p s1 {
        payload := le 1 (b2n ((tgetD s1.ing.gates (u p 2 2) {}).latched != 0))
        st := s1.modIng fun d => { d with gates := tmod d.gates (u p 2 2) {} fun g => { g with latched := 0 } } })) ∧
    (Runs s specTableRead r p s1 → u p 0 1 ≤ 11 → u p 2 2 < ingPopulation (u p 0 1) →
      ∃ n, n = clampTo 1 (ingPopulation (u p 0 1) - u p 2 2) (u p 4 2) ∧
        exec (.tableRead r) s = .next (ends s specTableRead r p s1 {
          payload := le 2 (u p 2 2) ++ le 2 n ++ le 4 s1.ep.epoch ++
            ((ingTable s1 (u p 0 1)).filter fun e => u p 2 2 ≤ e.1 && e.1 < u p 2 2 + n).flatMap (·.2)
          clamps := (clampField 4 1 (ingPopulation (u p 0 1) - u p 2 2) (u p 4 2)).off, st := s1 }))

/-! ### Commands of group 0x04 -/

/-- Group 0x04 (R268 to R278): the lists once every entry applies, and the other commands.
What the spec leaves open follows the model's choice, assumptions 11 and 12. Tier 1. -/
def Obligations.horizonCommandsComplete : Prop :=
  ∀ (r : Req) (s s1 t : State) (p : List Byte) (cl : List Nat),
    (Runs s specZoneSet r p s1 → ListApplies 8 entryZone shadowZone p s1 t cl → s1.ep.draining = false →
      exec (.zoneSet r) s = .next (ends s specZoneSet r p s1 (listDone p t cl 32 true))) ∧
    (Runs s specZoneMapSet r p s1 → ListApplies 16 entryZoneMap shadowZoneMap p s1 t cl → s1.ep.draining = false →
      exec (.zoneMapSet r) s = .next (ends s specZoneMapSet r p s1 (listDone p t cl 32 true))) ∧
    (Runs s specZonePairSet r p s1 → ListApplies 16 entryZonePair shadowZonePair p s1 t cl → s1.ep.draining = false →
      exec (.zonePairSet r) s = .next (ends s specZonePairSet r p s1 (listDone p t cl 32 true))) ∧
    (Runs s specRuleSet r p s1 → ListApplies 72 entryRule noShadowCheck p s1 t cl → s1.ep.draining = false →
      exec (.ruleSet r) s = .next (ends s specRuleSet r p s1 (listDone p t cl 32 true))) ∧
    (Runs s specLimiterSet r p s1 → ListApplies 16 entryLimiter noShadowCheck p s1 t cl → s1.ep.draining = false →
      exec (.limiterSet r) s = .next (ends s specLimiterSet r p s1 (listDone p t cl 32 true))) ∧
    (Runs s specHorizonParamsSet r p s1 →
      ∃ (h : HorizonParams) (cs : List Nat), h.spillEn = bit (u p 0 1) 0 ∧ h.spillIdle = clampTo 100 60000 (u p 2 2) ∧
        h.excRate = clampTo 100 200000 (u p 4 4) ∧ h.excBurst = clampTo 1 2048 (u p 8 2) ∧
        h.profiles = (List.range 8).map (fun i => (profileOf p i).1) ∧
        exec (.horizonParamsSet r) s = .next (ends s specHorizonParamsSet r p s1 {
          payload := horParamBytes h, clamps := cs, st := s1.modHor fun x => { x with params := h } })) ∧
    (Runs s specSessionRead r p s1 → u p 8 1 = 0 → 1 ≤ u p 0 4 → u p 0 4 ≤ 16383 →
      ∃ n rs, n = clampTo 1 (16384 - u p 0 4) (u p 4 4) ∧ rs = s1.hor.sessions.filter (fun e => u p 0 4 ≤ e.1 && e.1 < u p 0 4 + n) ∧
        exec (.sessionRead r) s = .next (ends s specSessionRead r p s1 {
          payload := le 4 (u p 0 4) ++ le 4 n ++ le 4 rs.length ++ rs.flatMap fun e => sessRecord s1 false e.1 e.2
          clamps := (clampField 4 1 (16384 - u p 0 4) (u p 4 4)).off, st := s1 })) ∧
    (Runs s specSessionFlush r p s1 → u p 0 1 ≤ 7 ∨ u p 0 1 = 0xFF → u p 2 2 ≤ 255 ∨ u p 2 2 = 0xFFFF → bit (u p 1 1) 0 = false →
      ∃ hit : Sess → Bool,
        (∀ x, hit x = ((u p 0 1 == 0xFF || x.domain == u p 0 1) && (u p 2 2 == 0xFFFF || x.srcZone == u p 2 2 || x.dstZone == u p 2 2))) ∧
        exec (.sessionFlush r) s = .next (ends s specSessionFlush r p s1 {
          payload := le 4 ((s1.hor.sessions.filter fun e => hit e.2).length + (s1.hor.pending.filter hit).length)
          st := s1.modHor fun h => { h with
            sessions := h.sessions.filter fun e => !hit e.2, pending := h.pending.filter fun x => !hit x } })) ∧
    (Runs s specHorizonCountersGet r p s1 → u p 0 1 = 3 → u p 2 2 = 0 →
      exec (.horizonCountersGet r) s = .next (ends s specHorizonCountersGet r p s1 {
        payload := le 1 3 ++ le 1 (b2n (s1.hor.deleted.contains 196608)) ++ le 2 0 ++ zeros 4 ++ ctrBytes (horWidths 3) (horCtr s1 3 0) ++
          (le 4 (s1.hor.sessions.length + s1.hor.pending.length) ++ le 4 s1.hor.spilled.length)
        st := if u p 1 1 % 2 = 1 then s1.modHor fun h => { h with counters := tdel h.counters 196608 } else s1 })) ∧
    (Runs s specHorizonTableRead r p s1 → u p 0 1 ≤ 5 → u p 2 4 < horPopulation (u p 0 1) →
      ∃ n, n = clampTo 1 (horPopulation (u p 0 1) - u p 2 4) (u p 6 4) ∧
        exec (.horizonTableRead r) s = .next (ends s specHorizonTableRead r p s1 {
          payload := le 4 (u p 2 4) ++ le 4 n ++ le 4 s1.ep.epoch ++
            ((horTable s1 (u p 0 1)).filter fun e => u p 2 4 ≤ e.1 && e.1 < u p 2 4 + n).flatMap (·.2)
          clamps := (clampField 6 1 (horPopulation (u p 0 1) - u p 2 4) (u p 6 4)).off, st := s1 }))

/-- Entries of the lists of group 0x04 (R269 to R273): what one entry leaves in the shadow.
What the spec leaves open follows the model's choice, assumption 11. Tier 2. -/
def Obligations.horizonEntriesApply : Prop :=
  ∀ (off : Nat) (e : List Byte) (s : State),
    -- ZONE_SET: a zone that is not the default, and one deleted, whose counters go on (R215)
    (u e 1 1 = 0 → inCarve s (u e 2 1) = true → bit (u e 3 1) 0 = false → tget s.ht.zones (u e 0 1) = none →
      entryZone off e s = .ok (horAddIndex (s.modHt fun t => { t with zones := tset t.zones (u e 0 1) { domain := u e 2 1, isDefault := false } })
        2 (u e 0 1), [])) ∧
    (u e 1 1 = 1 → (tget s.ht.zones (u e 0 1)).isSome = true →
      entryZone off e s = .ok (horDelIndex (s.modHt fun t => { t with zones := tdel t.zones (u e 0 1) }) 2 (u e 0 1), [])) ∧
    -- ZONE_MAP_SET: a VID entry of a point, its removal, a stream's zone
    (u e 0 1 = 1 → inCarve s (u e 1 1) = true → u e 2 1 ≤ 35 → 1 ≤ u e 4 2 → u e 4 2 ≤ 4094 → s.ht.points.length < 4096 →
      entryZoneMap off e s = .ok (s.modHt fun t => { t with points := tset t.points (pointKey (u e 1 1) (u e 2 1) (u e 4 2)) (u e 8 1) }, [])) ∧
    (u e 0 1 = 3 → inCarve s (u e 1 1) = true → u e 2 1 ≤ 35 → 1 ≤ u e 4 2 → u e 4 2 ≤ 4094 →
      thas s.ht.points (pointKey (u e 1 1) (u e 2 1) (u e 4 2)) = true →
      entryZoneMap off e s = .ok (s.modHt fun t => { t with points := tdel t.points (pointKey (u e 1 1) (u e 2 1) (u e 4 2)) }, [])) ∧
    (u e 0 1 = 2 → u e 6 2 ≤ 4095 → u e 8 1 ≠ 0xFF →
      entryZoneMap off e s = .ok (s.modHt fun t => { t with streams := tset t.streams (u e 6 2) (u e 8 1) }, [])) ∧
    -- ZONE_PAIR_SET: a pair returns to the default, and one that permits by its rules
    (bit (u e 10 1) 1 = true →
      entryZonePair off e s = .ok (s.modHt fun t => { t with pairs := tdel t.pairs (256 * u e 0 1 + u e 1 1) }, [])) ∧
    (bit (u e 10 1) 1 = false → u e 2 1 = 2 → u e 3 1 ≤ 1 → u e 4 2 ≤ 8191 → u e 8 2 ≤ 1023 ∨ u e 8 2 = 0xFFFF →
      entryZonePair off e s = .ok (s.modHt fun t => { t with pairs := tset t.pairs (256 * u e 0 1 + u e 1 1) {
        policy := 2, dflt := u e 3 1, first := u e 4 2, count := clampTo 1 (8192 - u e 4 2) (u e 6 2), limiter := u e 8 2
        logDeny := bit (u e 10 1) 0 } }, (clampField (off + 6) 1 (8192 - u e 4 2) (u e 6 2)).off)) ∧
    -- RULE_SET: a rule deleted
    (u e 0 2 ≤ 8191 → u e 2 1 = 1 → thas s.ht.rules (u e 0 2) = true →
      entryRule off e s = .ok (horDelIndex (s.modHt fun t => { t with rules := tdel t.rules (u e 0 2) }) 0 (u e 0 2), [])) ∧
    -- RULE_SET: a rule that matches everything
    (u e 0 2 ≤ 8191 → u e 2 1 = 0 → u e 3 1 ≤ 4 → u e 4 2 = 0 → u e 6 1 % 16 = 0 → u e 65 1 ≤ 3 →
      ∃ x cl, entryRule off e s = .ok (horAddIndex (s.modHt fun t => { t with rules := tset t.rules (u e 0 2) x }) 0 (u e 0 2), cl) ∧
        x.action = u e 3 1 ∧ x.mtch = 0 ∧ x.flags = 0 ∧ x.profile = clampTo 0 7 (u e 64 1) ∧ x.handler = u e 65 1) ∧
    -- LIMITER_SET: a new limiter by bytes, its bucket full
    (u e 0 2 ≤ 1023 → u e 2 1 = 0 → u e 3 1 = 0 → bit (u e 12 1) 0 = false →
      ∃ b cl, b = clampTo 1600 16777215 (u e 8 4) ∧
        entryLimiter off e s = .ok (horAddIndex ((s.modHt fun t => { t with limiters := tset t.limiters (u e 0 2) {
            mode := 0, rate := clampTo 1 100000000 (u e 4 4), burst := b, flags := u e 12 1 % 2 } }).modHor fun h => { h with
              buckets := tset h.buckets (u e 0 2) { tokens := b * 1024, last := s.time.raw } }) 1 (u e 0 2), cl))

/-! ### Commands of groups 0x05 and 0x06 -/

/-- Group 0x05 (R324 to R330).
What the spec leaves open follows the model's choice, assumptions 13, 18 and 40. Tier 1. -/
def Obligations.fabricCommandsComplete : Prop :=
  ∀ (r : Req) (s s1 t : State) (p : List Byte) (cl : List Nat),
    (Runs s specFabricStatusGet r p s1 →
      exec (.fabricStatusGet r) s = .next (ends s specFabricStatusGet r p s1 { st := s1, payload := (
        le 4 s1.ep.epoch ++ le 4 (if s1.ep.draining then (s1.ep.epoch + 2 ^ 32 - 1) % 2 ^ 32 else 0xFFFFFFFF) ++
        le 4 (if s1.ep.draining then s1.ep.inOld else 0) ++ le 4 s1.ep.inCur ++ le 1 s1.fab.mode ++
        le 1 (b2n s1.fab.overflow + 2 * b2n s1.fab.overflowEn + 4 * b2n ((at' s1.fab.pools 3 {}).free < s1.fab.start.zenithReserve)) ++
        le 2 (modeLeftS s1) ++ ((List.range 6).flatMap fun k => le 4 (at' s1.fab.pools k {}).free) ++
        le 4 (regionChunks s1) ++ le 4 s1.fab.start.hashSeed ++ zeros 4) })) ∧
    -- FABRIC_START_SET: counts that are multiples of 64 within range are stored for the next start
    (Runs s specFabricStartSet r p s1 → (∀ k, k < 6 → 64 ≤ u p (4 * k) 4 ∧ u p (4 * k) 4 ≤ 131072 ∧ u p (4 * k) 4 % 64 = 0) →
      u p 28 2 ≤ 1024 → u p 28 2 ≤ u p 12 4 / 2 → 16 ≤ u p 30 2 → u p 30 2 ≤ 1024 → u p 30 2 % 16 = 0 →
      (((List.range 6).map fun k => u p (4 * k) 4).zip poolSizes |>.map fun x => x.1 * x.2).sum ≤ 16777216 →
      fabricLimit (u p 24 4) s1.fab.wide s1.ep.cur.ing = none →
      ∃ payload, exec (.fabricStartSet r) s = .next (ends s specFabricStartSet r p s1 { payload := payload, st := s1.modFab fun f => { f with
        stored := { counts := (List.range 6).map fun k => u p (4 * k) 4, hashSeed := u p 24 4, zenithReserve := u p 28 2
                    overflowMib := u p 30 2 } } })) ∧
    (Runs s specFabricModeSet r p s1 → u p 0 1 = 0 ∨ u p 0 1 = 3 ∨ (u p 0 1 = 2 ∧ (s1.lifecycle = 1 ∨ s1.lifecycle = 3)) →
      ∃ u1 : State, u1 = setMode (s1.modFab fun f => { f with overflowEn := bit (u p 1 1) 0, modeLimitS := clampTo 10 3600 (u p 2 2) }) (u p 0 1) 1 ∧
        exec (.fabricModeSet r) s = .next (ends s specFabricModeSet r p s1 {
          payload := le 1 (u p 0 1) ++ le 1 (b2n (bit (u p 1 1) 0)) ++ le 2 (clampTo 10 3600 (u p 2 2)) ++ le 1 s1.fab.mode ++ le 1 (b2n u1.fab.overflow)
          clamps := (clampField 2 10 3600 (u p 2 2)).off, st := u1 })) ∧
    (Runs s specWideStreamSet r p s1 → ListApplies 8 entryWide shadowWide p s1 t cl →
      exec (.wideStreamSet r) s = .next (ends s specWideStreamSet r p s1
        (listDone p ((List.range 16).foldl (fun s w => if wideWaits s w then s else applyWide s w) t) cl 0 false))) ∧
    (Runs s specCutThroughSet r p s1 →
      exec (.cutThroughSet r) s = .next (ends s specCutThroughSet r p s1 {
        payload := le 8 (u p 0 8 % 2 ^ 34), st := s1.modFab fun f => { f with cutThrough := u p 0 8 % 2 ^ 34 } })) ∧
    (Runs s specFabricCountersGet r p s1 → u p 0 1 ≤ 4 → u p 2 2 < at' fabPopulation (u p 0 1) 0 →
      exec (.fabricCountersGet r) s = .next (ends s specFabricCountersGet r p s1 {
        payload := le 1 (u p 0 1) ++ zeros 1 ++ le 2 (u p 2 2) ++ zeros 4 ++ layCounters (fabWidths (u p 0 1)) (fabValues s1 (u p 0 1) (u p 2 2))
        st := if bit (u p 1 1) 0 then fabClear s1 (u p 0 1) (u p 2 2) else s1 })) ∧
    -- EPOCH_SYNC: at once with one live epoch; waiting with two
    (Runs s specEpochSync r p s1 → s1.ep.draining = false →
      exec (.epochSync r) s = .next (ends s specEpochSync r p s1 { payload := le 4 s1.ep.epoch ++ le 4 0, st := s1 })) ∧
    (Runs s specEpochSync r p s1 → s1.ep.draining = true → bit r.flags 0 = false →
      exec (.epochSync r) s = .next (waits s specEpochSync r p s1 .sync s1)) ∧
    -- one entry of WIDE_STREAM_SET: a stream with one identification point waits for its index's frame boundary; an index without one is refused
    (∀ off e, u e 0 1 ≤ 15 → u e 1 1 = 0 → u e 2 2 ≤ 4095 → identPoints s.it (u e 2 2) = 1 →
      entryWide off e s = .ok (s.modFab fun f => { f with wide := f.wide.modify (u e 0 1) fun x => { x with pending := some (some (u e 2 2)) } }, [])) ∧
    (∀ off e, u e 0 1 ≤ 15 → u e 1 1 = 1 → ((at' s.fab.wide (u e 0 1) {}).pending.getD (at' s.fab.wide (u e 0 1) {}).handle).isSome = true →
      entryWide off e s = .ok (s.modFab fun f => { f with wide := f.wide.modify (u e 0 1) fun x => { x with pending := some none } }, []))

/-- Group 0x06 (R360 to R369).
What the spec leaves open follows the model's choice, assumptions 15, 16 and 40. Tier 1. -/
def Obligations.egressCommandsComplete : Prop :=
  ∀ (r : Req) (s s1 t : State) (p : List Byte) (cl : List Nat),
    (Runs s specQueueSet r p s1 → u p 0 1 ≤ 33 →
      ∃ payload cs, ∃ q : QueueCfg, q.prioMap = (List.range 8).map (fun i => clampTo 0 6 (u p (8 + i) 1)) ∧
        q.classes = (List.range 7).map (fun c => { limitKib := clampTo 4 8192 (u p (16 + 8 * c) 2)
                                                   yellowPct := clampTo 0 100 (u p (16 + 8 * c + 2) 1)
                                                   maxLen := clampTo 64 9216 (u p (16 + 8 * c + 4) 2) }) ∧
        exec (.queueSet r) s = .next (ends s specQueueSet r p s1 { payload := payload, clamps := cs, st := (
          zenithRecheck (s1.modEgr fun e => { e with cfg := { e.cfg with queues := e.cfg.queues.set (u p 0 1) q } })) })) ∧
    -- SHAPER_SET: the shaper of (port, class) by bytes; its bucket begins full with RESET_FULL, else empty
    (Runs s specShaperSet r p s1 → u p 0 1 ≤ 33 → u p 1 1 ≤ 7 → u p 2 1 ≤ 1 → u p 3 1 = 0 →
      (u p 1 1 = 7 → u p 2 1 = 1 → u p 0 1 ≤ 27 → admittedAt s1 (u p 0 1) = []) →
      ∃ payload cs, ∃ h : Shaper, h.enable = decide (u p 2 1 = 1) ∧ h.mode = 0 ∧ h.flags = u p 4 1 % 2 ∧ h.overhead = clampTo 0 63 (u p 5 1) ∧
        h.rate = clampTo 1 100000000 (u p 8 4) ∧ h.burst = clampTo 64 16777215 (u p 12 4) ∧
        exec (.shaperSet r) s = .next (ends s specShaperSet r p s1 { payload := payload, clamps := cs, st := s1.modEgr fun e => { e with
          cfg := { e.cfg with shapers := e.cfg.shapers.set (shapIdx (u p 0 1) (u p 1 1)) h }
          toks := e.toks.set (shapIdx (u p 0 1) (u p 1 1)) { tok := if h.flags = 1 then ((h.burst * 1024 : Nat) : Int) else 0, last := s1.time.raw } } })) ∧
    -- CBS_SET: a disabled credit-based shaper holds its values; the credit begins at 0 with RESET_FULL, else at its low limit
    (Runs s specCbsSet r p s1 → u p 0 1 ≤ 33 → u p 1 1 = 5 ∨ u p 1 1 = 6 → u p 2 1 = 0 →
      ∃ payload cs, ∃ h : Cbs, h.enable = false ∧ h.flags = u p 3 1 % 2 ∧ h.overhead = clampTo 0 63 (u p 4 1) ∧
        h.idle = clampTo 1 (nominalKbps s1 (u p 0 1)) (u p 8 4) ∧
        exec (.cbsSet r) s = .next (ends s specCbsSet r p s1 { payload := payload, clamps := cs, st := (settleCredits s1 (u p 0 1)).modEgr fun e => { e with
          cfg := { e.cfg with cbs := e.cfg.cbs.set (cbsIdx (u p 0 1) (u p 1 1)) h }
          credits := e.credits.set (cbsIdx (u p 0 1) (u p 1 1)) {
            credit := if h.flags = 1 then 0 else cbsLowCredit s1 (u p 0 1) (u p 1 1) h.overhead h.idle, last := s1.time.raw } } })) ∧
    -- GCL_SET: a list disabled at a base time to come becomes the port's pending list (no admitted stream: no rule of R353 to break)
    (Runs s specGclSet r p s1 → u p 0 1 ≤ 31 → u p 1 1 = 0 → u p 2 2 = 0 → s1.now ≤ u p 8 8 → admittedAt s1 (u p 0 1) = [] →
      ∃ payload cs, ∃ g : Gcl, g.enable = false ∧ g.entries = [] ∧ g.base = u p 8 8 ∧ g.change = u p 8 8 ∧
        g.ext = clampTo 0 1000000 (u p 4 4) ∧ g.cycle = clampTo 1000 1000000000 (u p 16 4) ∧
        exec (.gclSet r) s = .next (ends s specGclSet r p s1 { payload := payload, clamps := cs, st := (
          modGcl s1 (u p 0 1) fun x => { x with pending := some g }) })) ∧
    (∀ g, Runs s specGclGet r p s1 → u p 0 1 ≤ 31 → u p 1 1 = 1 → (gclOf s1 (u p 0 1)).pending = some g →
      exec (.gclGet r) s = .next (ends s specGclGet r p s1 { st := s1, payload := (
        le 1 (u p 0 1) ++ le 1 (b2n g.enable) ++ le 2 g.entries.length ++ le 4 g.ext ++ le 8 g.change ++ le 4 g.cycle ++ zeros 12 ++
          g.entries.flatMap fun e => le 1 e.gates ++ le 1 e.op ++ zeros 2 ++ le 4 e.interval) })) ∧
    (Runs s specPreemptSet r p s1 → u p 0 1 ≤ 27 → u p 1 1 ≤ 1 → u p 2 1 ≤ 1 →
      ∃ payload cs, ∃ c : PreemptCfg, ∃ u1 : State, c = {
          enable := u p 1 1 = 1, verify := u p 2 1 = 1, express := withBit (u p 3 1) 7 true, verifyMs := clampTo 1 128 (u p 4 1)
          addFrag := clampTo 0 3 (u p 5 1) } ∧
        u1 = s1.modEgr (fun e => { e with cfg := { e.cfg with preempt := e.cfg.preempt.set (u p 0 1) c } }) ∧
        exec (.preemptSet r) s = .next (ends s specPreemptSet r p s1 { payload := payload, clamps := cs, st := (
          if c.enable ≠ (at' s1.egr.cfg.preempt (u p 0 1) {}).enable ∨ c.verify ≠ (at' s1.egr.cfg.preempt (u p 0 1) {}).verify
          then restartVerify u1 (u p 0 1) else zenithRecheck u1) })) ∧
    (Runs s specZenithAdmitSet r p s1 → ListApplies 8 entryAdmit shadowAdmit p s1 t cl → zenithPorts t = none →
      exec (.zenithAdmitSet r) s = .next (ends s specZenithAdmitSet r p s1 (listDone p (zenithRecheck t) cl 0 false))) ∧
    (∀ off e, u e 0 1 ≤ 27 → u e 1 1 = 0 → u e 2 2 ≤ 4095 → zenithOn s.it (u e 2 2) = true → s.egr.cfg.minLens.length < 4096 →
      entryAdmit off e s = .ok (s.modEgr fun x => { x with cfg := { x.cfg with
        minLens := tset x.cfg.minLens (4096 * u e 0 1 + u e 2 2) (clampTo 64 1522 (u e 4 2)) } }, (clampField (off + 4) 64 1522 (u e 4 2)).off)) ∧
    -- ZENITH_STATUS_GET: state, causes, wire reservation, burst, and the three delays in picoseconds
    (Runs s specZenithStatusGet r p s1 → u p 0 1 ≤ 27 → admittedAt s1 (u p 0 1) ≠ [] →
      ∃ tail, exec (.zenithStatusGet r) s = .next (ends s specZenithStatusGet r p s1 { st := s1, payload := (
        le 1 (u p 0 1) ++ le 1 (b2n (zenDevNow s1 + zenPortNow s1 (u p 0 1) != 0)) ++ le 2 (admittedAt s1 (u p 0 1)).length ++
        le 4 (zenDevNow s1 + zenPortNow s1 (u p 0 1)) ++ le 4 (nominalKbps s1 (u p 0 1) / 1000) ++ le 4 (fceil (wireRes s1 (u p 0 1))) ++
        le 4 (fceil (admittedBurst s1 (u p 0 1))) ++ tail ++ zeros 3 ++
        le 8 (blockingPs s1 (u p 0 1)) ++ le 8 (queueingPs s1 (u p 0 1)) ++ le 8 (boundPs s1 (u p 0 1))) }) ∧ tail.length = 1) ∧
    (Runs s specQueueFlush r p s1 → u p 0 1 ≤ 36 →
      ∃ f, f = flushQueues (settleCredits s1 (u p 0 1)) (u p 0 1) (u p 1 1) (fun s => fabCount s 1 (u p 0 1) 6 1) ∧
        exec (.queueFlush r) s = .next (ends s specQueueFlush r p s1 { payload := le 4 f.2, st := f.1 })) ∧
    (Runs s specEgressCountersGet r p s1 → u p 0 1 = 0 → u p 2 1 ≤ 36 → u p 3 1 ≤ 7 →
      ∃ k, k = qKey (u p 2 1) (u p 3 1) ∧
        exec (.egressCountersGet r) s = .next (ends s specEgressCountersGet r p s1 {
          payload := le 1 0 ++ zeros 1 ++ le 1 (u p 2 1) ++ le 1 (u p 3 1) ++ zeros 4 ++
            (layCounters egrWidths (egrCtr s1 (u p 2 1) (u p 3 1)) ++ le 4 (kib (chargeOf s1 (u p 2 1) (u p 3 1))) ++ le 4 (kib (tgetD s1.egr.peak k 0)))
          st := if bit (u p 1 1) 0 then s1.modEgr (fun e => { e with
            counters := tdel e.counters k, peak := tset e.peak k (chargeOf s1 (u p 2 1) (u p 3 1)) }) else s1 })) ∧
    (Runs s specEgressCountersGet r p s1 → u p 0 1 = 1 → u p 2 1 ≤ 27 →
      exec (.egressCountersGet r) s = .next (ends s specEgressCountersGet r p s1 {
        payload := le 1 1 ++ zeros 1 ++ le 1 (u p 2 1) ++ le 1 (u p 3 1) ++ zeros 4 ++
          ((at' s1.egr.preempt (u p 2 1) {}).counters.flatMap (le 4) ++ le 4 (b2n (at' s1.egr.preempt (u p 2 1) {}).active))
        st := if bit (u p 1 1) 0 then modPre s1 (u p 2 1) (fun r => { r with counters := List.replicate 7 0 }) else s1 }))

/-- Rows of gate control lists and frame preemption (R341 to R350).
What the spec leaves open follows the model's choice, assumptions 2, 16 and 40. Tier 1. -/
def Obligations.gateAndPreemptRowsComplete : Prop :=
  ∀ (p : Nat) (s : State),
    (∀ l e d rest, p ≤ 31 → (gclOf s p).oper = some l → l.enable = true → aheadOf (gclOf s p) s.now = (e, d) :: rest → (gclOf s p).pending = none →
      exec (.gclEntryBoundary p) s = .next (enterEntry (settleWith s (s.until (s.now + d)) p) p
        (gclEntryNow (settleWith s (s.until (s.now + d)) p) p))) ∧
    (∀ g, (gclOf s p).pending = some g → exec (.gclChangeTime p) s = .next (gclSwitch (settleWith s (s.until g.change) p) p)) ∧
    -- up to three verify frames; after the third, verification has failed
    (p ≤ 27 → (at' s.egr.preempt p {}).waiting = true → (at' s.egr.preempt p {}).attempts < 3 →
      exec (.preemptVerifyTimeout p) s = .next (modPre (s.later (625000 * (at' s.egr.cfg.preempt p {}).verifyMs)) p
        fun r => { r with attempts := r.attempts + 1 })) ∧
    (p ≤ 27 → (at' s.egr.preempt p {}).waiting = true → 3 ≤ (at' s.egr.preempt p {}).attempts →
      exec (.preemptVerifyTimeout p) s = .next (raiseVerify (preCount (modPre (s.later (625000 * (at' s.egr.cfg.preempt p {}).verifyMs)) p
        fun r => { r with waiting := false, failed := true }) p 6 1) p 1)) ∧
    (∀ a, p ≤ 27 → (at' s.egr.preempt p {}).waiting = true →
      exec (.preemptResponseRx p a) s = .next (zenithRecheck (raiseVerify
        (modPre s p fun r => { r with waiting := false, failed := false, active := true, partner := some (a % 4) }) p 0)))

/-! ### Time, gPTP and steering: group 0x07 and its rows -/

/-- Group 0x07 (R397 to R401).
What the spec leaves open follows the model's choice, assumptions 17 and 39. Tier 1. -/
def Obligations.timeCommandsComplete : Prop :=
  ∀ (r : Req) (s s1 : State) (p : List Byte),
    (Runs s specTimeStatusGet r p s1 →
      ∃ b c d est tail, tail.length = 8 ∧ (errEst s1 = none → est = 2 ^ 64 - 1) ∧ (∀ e, errEst s1 = some e → est = min e (2 ^ 64 - 1)) ∧ exec (.timeStatusGet r) s = .next (ends s specTimeStatusGet r p s1 {
        payload := le 1 s1.time.sync ++ le 1 b ++ le 1 c ++ zeros 1 ++ le 4 (ofInt 32 s1.time.rate) ++ le 8 s1.now ++ le 8 s1.time.raw ++
          le 4 d ++ zeros 4 ++ le 8 est ++
          le 8 (ofInt 64 s1.time.offset) ++ be 8 (gmId s1 s1.time.steering) ++ tail
        st := s1 }) ∧
        b = (if (gptpCfg s1 0).enable || (gptpCfg s1 1).enable then s1.time.steering else 0xFF) ∧
        d = (if s1.time.sync ≥ 2 then min (ageS s1) (2 ^ 32 - 1) else 0)) ∧
    -- TIME_PARAMS_SET on a device whose steering instance is no grandmaster: parameters stored, steering chosen again
    (Runs s specTimeParamsSet r p s1 → u p 1 1 ≤ 1 → (gptpRun s1 s1.time.steering).isGm = false →
      ∃ payload cs, ∃ (c : TimeParams) (away : Bool), c = {
          selfRef := bit (u p 0 1) 0, preferred := u p 1 1, revertS := clampTo 0 600 (u p 2 2), stepLimit := clampTo 1000 1000000000 (u p 4 4)
          holdDrift := clampTo 1 10000 (u p 8 4), nightDrift := clampTo 100 500000 (u p 12 4), maxSlew := clampTo 1000 100000 (u p 16 4) } ∧
        away = (s1.time.away && c.preferred == (timeParams s1).preferred) ∧
        exec (.timeParamsSet r) s = .next (ends s specTimeParamsSet r p s1 { payload := payload, clamps := cs, st := (
          resteer (s1.modTime fun t => { t with
            cfg := { t.cfg with params := c }, away := away, awayAt := if away then t.awayAt else none }) 0) })) ∧
    (Runs s specGptpInstanceSet r p s1 → u p 0 1 ≤ 1 → u p 1 1 ≤ 1 → bit (u p 5 1) 0 = false →
      (u p 1 1 = 1 → (gptpCfg s1 (1 - u p 0 1)).enable = true → (gptpCfg s1 (1 - u p 0 1)).domainNo ≠ clampTo 0 127 (u p 2 1)) →
      ∃ payload cs, ∃ (c : GptpCfg) (v : State), c.enable = decide (u p 1 1 = 1) ∧ c.domainNo = clampTo 0 127 (u p 2 1) ∧ c.prio1 = u p 3 1 ∧
        c.prio2 = u p 4 1 ∧ c.flags = 0 ∧ c.syncTo = clampTo 2 255 (u p 9 1) ∧ c.annTo = clampTo 2 255 (u p 10 1) ∧
        c.thresh = clampTo 1 100000 (u p 12 4) ∧ c.ports = u p 16 8 % 2 ^ 28 ∧
        v = s1.modTime (fun t => { t with cfg := { t.cfg with inst := t.cfg.inst.set (u p 0 1) c } }) ∧
        exec (.gptpInstanceSet r) s = .next (ends s specGptpInstanceSet r p s1 { payload := payload, clamps := cs, st := (
          if c = gptpCfg s1 (u p 0 1) then v else runBmca v (u p 0 1)) })) ∧
    -- TIME_STEP to an absolute time, while nothing steers
    (Runs s specTimeStep r p s1 → u p 0 1 = 0 → qualifies s1 s1.time.steering = false →
      ∃ v : State, v = stepTime s1 (u p 8 8 * 281474976710656) 2 0xFF ∧
        exec (.timeStep r) s = .next (ends s specTimeStep r p s1 {
          payload := le 8 (ofInt 64 ((u p 8 8 : Int) - s1.now)) ++ le 8 v.now, st := v })) ∧
    (Runs s specGptpPortGet r p s1 → u p 0 1 ≤ 1 → u p 1 1 ≤ 27 → bit (gptpCfg s1 (u p 0 1)).ports (u p 1 1) = true →
      ∃ payload, exec (.gptpPortGet r) s = .next (ends s specGptpPortGet r p s1 { payload := payload, st := (
        if bit (u p 2 1) 0 then
          modLink (modGptpPort s1 (u p 0 1) (u p 1 1) fun x => { x with counters := List.replicate 7 0 }) (u p 1 1)
            fun l => { l with counters := List.replicate 3 0 }
        else s1) }) ∧
        payload.take 8 = le 1 (u p 0 1) ++ le 1 (u p 1 1) ++ le 1 (at' (gptpRun s1 (u p 0 1)).ports (u p 1 1) {}).role ++
          le 1 (b2n (asCapable s1 (u p 0 1) (u p 1 1)) + 2 * b2n (at' s1.time.links (u p 1 1) {}).oneStep) ++
          le 4 (min ((at' s1.time.links (u p 1 1) {}).meanPs.getD 0) (2 ^ 32 - 1)))

/-- Rows of gPTP and of holdover (R376 to R386, R395): each in the state it is for.
What the spec leaves open follows the model's choice, assumptions 2, 17 and 39. Tier 1. -/
def Obligations.timeRowsComplete : Prop :=
  ∀ (i p : Nat) (s : State),
    -- a malformed message is only counted; a Sync on another port than the slave port changes nothing
    (∀ one gm ratio, gptpLive s i p = true → exec (.gptpSyncRx i p true one gm ratio) s = .next (gptpCount s i p 4)) ∧
    -- a Sync on the slave port of an instance that does not steer: counted, and one more consecutive Sync
    (∀ one gm ratio, gptpLive s i p = true → (gptpRun s i).slave = some p → (gptpRun s i).syncs = 0 → s.time.steering ≠ i →
      ∃ a b c : State, a = gptpCount s i p 0 ∧ b = (if one then a else gptpCount a i p 1) ∧
        c = resteer (modGptp (modGptpPort (modLink b p fun l => { l with oneStep := one }) i p fun x => { x with receiptTo := false })
          i fun r => { r with syncs := 1, ratio := ratio }) 0 ∧
        (c.time.steering ≠ i → exec (.gptpSyncRx i p false one gm ratio) s = .next c)) ∧
    (∀ a, gptpLive s i p = true → a.gm ≠ ownClockId → a.steps < 255 →
      exec (.gptpAnnounceRx i p false a) s = .next (runBmca (modGptpPort (gptpCount s i p 2) i p fun x => { x with ann := some a }) i)) ∧
    (∀ d n, p ≤ 27 → gptpLive s 0 p = true ∨ gptpLive s 1 p = true → (at' s.time.links p {}).waiting = true →
      exec (.gptpPdelayRx p false d n) s = .next (resteer (modLink (linkCount s p 1) p fun l => { l with
        waiting := false, lostRun := 0, capable := true, meanPs := some d, nrr := n }) 0)) ∧
    (i ≤ 1 → (gptpRun s i).slave = some p → (at' (gptpRun s i).ports p {}).receiptTo = false →
      exec (.syncReceiptTimeout i) s = .next (resteer (modGptp (modGptpPort (gptpCount s i p 5) i p fun x => { x with receiptTo := true })
        i fun r => { r with syncs := 0, valid := none }) 1)) ∧
    (i ≤ 1 → p ≤ 27 → inInst s i p = true → s.host.ready = true →
      exec (.announceReceiptTimeout i p) s = .next (runBmca (modGptpPort (gptpCount s i p 6) i p fun x => { x with ann := none }) i)) ∧
    -- holdover: entered 1 s after the last steering update; E grows each second
    (s.time.sync = 1 → exec .steeringUpdateTimeout s = .next (enterHoldover (s.later (rawSecond - updateAge s)) 2)) ∧
    (2 ≤ s.time.sync → exec .holdoverEvaluation s =
      .next (checkUnsync (growError (s.later (rawSecond - (s.time.raw + 2 ^ 64 - s.time.evalRaw) % 2 ^ 64))))) ∧
    (∀ t, s.time.awayAt = some t → s.time.steering ≠ (timeParams s).preferred → qualifies s (timeParams s).preferred = true →
      exec .revertTimer s = .next (switchTo (s.later ((timeParams s).revertS * rawSecond - (s.time.raw + 2 ^ 64 - t) % 2 ^ 64))
        (timeParams s).preferred false)) ∧
    -- Sync is sent on the master ports; for a self-referenced grandmaster that is a steering update
    (i ≤ 1 → (gptpCfg s i).enable = true → s.host.ready = true → awake s = true →
      ∃ v, v = (List.range 28).foldl (fun s p => if (at' (gptpRun s i).ports p {}).role = 1 ∧ asCapable s i p then gptpCount s i p 3 else s) s ∧
        exec (.syncInterval i) s = .next (if i = v.time.steering ∧ selfGm v then v.modTime fun t => { t with lastUpd := t.raw } else v)) ∧
    (p ≤ 27 → gptpLive s 0 p = true ∨ gptpLive s 1 p = true → (at' s.time.links p {}).waiting = false →
      exec (.pdelayReqInterval p) s = .next (modLink (linkCount s p 0) p fun l => { l with waiting := true }))

/-! ### Legacy channels: group 0x08 and the rows of the buses -/

/-- Group 0x08 (R432 to R443): a command of a channel whose engine runs.
What the spec leaves open follows the model's choice, assumption 21. Tier 1. -/
def Obligations.channelCommandsComplete : Prop :=
  ∀ (r : Req) (s s1 t : State) (p : List Byte) (cl : List Nat),
    (Runs s specChannelStatusGet r p s1 → chanOk (u p 0 1) = true →
      ∃ payload, exec (.channelStatusGet r) s = .next (ends s specChannelStatusGet r p s1 { payload := payload, st := s1 }) ∧
        payload.take 3 = le 1 (u p 0 1) ++ le 1 (engineOf (u p 0 1)) ++ le 1 (chanState s1 (u p 0 1))) ∧
    -- CAN_SET: settings whose bit times are in range are stored and come into force
    (∀ f, Runs s specCanSet r p s1 → f = canFields p → u p 0 1 ≤ 7 → f.1.mode ≤ 3 → f.1.proto ≤ 1 →
      80 ≤ quanta f.1.nBrp f.1.nSeg1 f.1.nSeg2 → quanta f.1.nBrp f.1.nSeg1 f.1.nSeg2 ≤ 8000 →
      (f.1.proto = 1 → 10 ≤ quanta f.1.dBrp f.1.dSeg1 f.1.dSeg2 ∧ quanta f.1.dBrp f.1.dSeg1 f.1.dSeg2 ≤ quanta f.1.nBrp f.1.nSeg1 f.1.nSeg2) →
      (engine s1 (engineOf (u p 0 1))).restart = none →
      exec (.canSet r) s = .next (ends s specCanSet r p s1 {
        payload := canBytes (u p 0 1) f.1 ++ le 4 (80000000 / quanta f.1.nBrp f.1.nSeg1 f.1.nSeg2) ++
          le 4 (80000000 / quanta f.1.dBrp f.1.dSeg1 f.1.dSeg2) ++ le 4 0
        clamps := f.2, st := stampChans s1 (canApply s1 (u p 0 1) f.1) })) ∧
    (Runs s specCanWakeSet r p s1 → u p 0 1 ≤ 1 → u p 1 1 ≤ 1 → u p 20 1 ≤ 3 → (engine s1 0).restart = none →
      ∃ payload cs, ∃ w : CanWake, w.enable = (u p 1 1 == 1) ∧ w.flags = u p 2 1 % 4 ∧ w.dlc = clampTo 0 8 (u p 3 1) ∧
        w.ident = u p 4 4 % 2 ^ (if bit (u p 2 1 % 4) 0 then 29 else 11) ∧ w.mask = u p 8 4 ∧ w.dataMask = sub p 12 8 ∧ w.rate = u p 20 1 ∧
        exec (.canWakeSet r) s = .next (ends s specCanWakeSet r p s1 { payload := payload, clamps := cs, st :=
          (s1.modLeg fun l => { l with cfg := { l.cfg with wake := l.cfg.wake.set (u p 0 1) w } }) })) ∧
    (Runs s specCanRecover r p s1 → u p 0 1 ≤ 7 → 3 ≤ (canRun s1 (u p 0 1)).state → (engine s1 (engineOf (u p 0 1))).restart = none →
      exec (.canRecover r) s = .next (ends s specCanRecover r p s1 {
        st := stampChans s1 (modCan s1 (u p 0 1) fun r => { r with state := 4 }) })) ∧
    -- MVB_SET of a device that stays no administrator: a master first passes mastership on as lost
    (Runs s specMvbSet r p s1 → isMvb (u p 0 1) = true → u p 1 1 ≤ 1 → u p 2 2 ≤ 4095 → bit (u p 4 1 % 4) 1 = false → u p 5 1 ≤ 2 →
      (engine s1 2).restart = none → engineRuns s1 (u p 0 1) = true →
      ∃ payload cs, ∃ (k : MvbCfg) (v : State), k = {
          mode := u p 1 1, addr := u p 2 2, flags := u p 4 1 % 4, line := u p 5 1, fails := clampTo 4 255 (u p 6 1) } ∧
        v = (leaveMaster s1 (u p 0 1) 3 0).modLeg (fun l => { l with cfg := { l.cfg with mvb := l.cfg.mvb.set (u p 0 1 - 8) k } }) ∧
        exec (.mvbSet r) s = .next (ends s specMvbSet r p s1 { payload := payload, clamps := cs, st :=
          (stampChans s1 (modMvb v (u p 0 1) fun r => { r with on := k.mode == 1 })) })) ∧
    (Runs s specMvbPortSet r p s1 → (engine s1 2).restart = none → ListApplies 16 entryMvbPort noShadowCheck p s1 t cl →
      exec (.mvbPortSet r) s = .next (ends s specMvbPortSet r p s1 (listDone p t cl 0 false))) ∧
    -- MVB_ADMIN_SET with an empty poll list, from an administrator that is not master: in force at once
    (Runs s specMvbAdminSet r p s1 → isMvb (u p 0 1) = true → u p 2 2 = 0 → u p 1 1 = 1 → bit (mvbCfg s1 (u p 0 1)).flags 1 = true →
      u p 8 2 = (mvbCfg s1 (u p 0 1)).addr → (engine s1 2).restart = none → (mvbRun s1 (u p 0 1)).master = false →
      ∃ payload cs, ∃ a : MvbAdmin, a.admins = [u p 8 2] ∧ a.basicUs = clampTo 500 2000 (u p 4 2) / 500 * 500 ∧
        a.turns = clampTo 1 255 (u p 6 2) ∧ a.polls = [] ∧
        exec (.mvbAdminSet r) s = .next (ends s specMvbAdminSet r p s1 { payload := payload, clamps := cs, st :=
          (modMvb (s1.modLeg fun l => { l with cfg := { l.cfg with admin := l.cfg.admin.set (u p 0 1 - 8) a } }) (u p 0 1)
            fun r => { r with admin := a }) })) ∧
    -- SERIAL_SET while no message is on the line
    (Runs s specSerialSet r p s1 → isSerial (u p 0 1) = true → u p 1 1 ≤ 3 → u p 2 1 ≤ 1 → u p 3 1 % 16 / 2 % 4 ≠ 3 →
      thas s1.gw.locks (u p 0 1) = false → (engine s1 3).restart = none → (serRun s1 (u p 0 1)).cur = none →
      ∃ payload cs, ∃ k : SerialCfg, k.mode = u p 1 1 ∧ k.phy = u p 2 1 ∧ k.format = u p 3 1 % 16 ∧ k.baud = clampTo 1200 10000000 (u p 4 4) ∧
        k.flags = u p 8 1 % 4 ∧ k.gap = clampTo 2 255 (u p 9 1) ∧ k.deLead = clampTo 0 1000 (u p 10 2) ∧ k.respMs = clampTo 1 10000 (u p 12 2) ∧
        k.polls = clampTo 1 255 (u p 14 1) ∧ k.silenceMs = (if u p 16 2 = 0 then 0 else clampTo 10 60000 (u p 16 2)) ∧
        exec (.serialSet r) s = .next (ends s specSerialSet r p s1 { payload := payload, clamps := cs, st :=
          (stampChans s1 (serialPump 256 (serApply s1 (u p 0 1) k) (u p 0 1))) })) ∧
    -- LIN_SET to sleep
    (Runs s specLinSet r p s1 → isLin (u p 0 1) = true → u p 1 1 = 2 → u p 4 1 ≤ 7 → linTable s1 (u p 0 1) (u p 4 1) ≠ [] →
      (engine s1 1).restart = none → engineRuns s1 (u p 0 1) = true →
      ∃ payload cs, ∃ (k : LinCfg) (v : State), k = {
          mode := 2, baud := clampTo 1000 20000 (u p 2 2), table := u p 4 1
          base := clampTo 1 50 (u p 5 1), brk := clampTo 13 26 (u p 6 1) } ∧
        v = s1.modLeg (fun l => { l with cfg := { l.cfg with lin := l.cfg.lin.set (u p 0 1 - 24) k } }) ∧
        exec (.linSet r) s = .next (ends s specLinSet r p s1 { payload := payload, clamps := cs, st :=
          (stampChans s1 (modLin v (u p 0 1) fun r => { r with state := 2, resume := none })) })) ∧
    -- LIN_SCHEDULE_SET of a table without sporadic, event-triggered or faulty entries
    (Runs s specLinScheduleSet r p s1 → isLin (u p 0 1) = true → u p 1 1 ≤ 7 → u p 2 2 ≤ 64 → (u p 2 2 = 0 → (linCfg s1 (u p 0 1)).table ≠ u p 1 1) →
      (∀ i, i < u p 2 2 → u p (8 + 8 * i) 1 ≤ 63 ∧ u p (8 + 8 * i + 1) 1 ≤ 1) → (engine s1 1).restart = none →
      ∃ payload cs, ∃ es : List LinEntry, es.length = u p 2 2 ∧
        (∀ i, i < u p 2 2 → ∃ x, es[i]? = some x ∧ x.id = u p (8 + 8 * i) 1 ∧ x.type = u p (8 + 8 * i + 1) 1 ∧
          x.len = clampTo 1 8 (u p (8 + 8 * i + 2) 1) ∧ x.flags = u p (8 + 8 * i + 3) 1 % 2 ∧ x.slot = clampTo 1 255 (u p (8 + 8 * i + 4) 1)) ∧
        exec (.linScheduleSet r) s = .next (ends s specLinScheduleSet r p s1 { payload := payload, clamps := cs, st :=
          (s1.modLeg fun l => { l with cfg := { l.cfg with sched := l.cfg.sched.modify (u p 0 1 - 24) fun x => x.set (u p 1 1) es } }) })) ∧
    -- DIO_SET of an input, and of an output
    (Runs s specDioSet r p s1 → isGpi (u p 0 1) = true → 32 ≤ u p 0 1 → u p 0 1 ≤ 55 → (engine s1 3).restart = none →
      ∃ payload cs, exec (.dioSet r) s = .next (ends s specDioSet r p s1 { payload := payload, clamps := cs, st :=
        (s1.modLeg fun l => { l with cfg := { l.cfg with dio := l.cfg.dio.set (u p 0 1 - 32) {
          flags := u p 1 1 % 8, safe := 0, time := clampTo 0 100000 (u p 4 4) } } }) })) ∧
    (Runs s specDioSet r p s1 → isGpi (u p 0 1) = false → 32 ≤ u p 0 1 → u p 0 1 ≤ 55 → u p 2 1 ≤ 1 → (engine s1 3).restart = none →
      ∃ payload cs, exec (.dioSet r) s = .next (ends s specDioSet r p s1 { payload := payload, clamps := cs, st :=
        (s1.modLeg fun l => { l with cfg := { l.cfg with dio := l.cfg.dio.set (u p 0 1 - 32) {
          flags := u p 1 1 % 2, safe := u p 2 1, time := clampTo 1 1000 (u p 4 4) } } }) })) ∧
    (Runs s specChannelCountersGet r p s1 → chanOk (u p 0 1) = true → (engine s1 (engineOf (u p 0 1))).restart = none →
      exec (.channelCountersGet r) s = .next (ends s specChannelCountersGet r p s1 {
        payload := le 1 (u p 0 1) ++ zeros 7 ++ le 8 (chanOf s1 (u p 0 1)).rx ++ le 8 (chanOf s1 (u p 0 1)).tx ++
          (chanOf s1 (u p 0 1)).cs.flatMap (le 4) ++ le 4 (chanOf s1 (u p 0 1)).fifoDrop
        st := if bit (u p 1 1) 0 then
          modChan s1 (u p 0 1) (fun y => { y with rx := 0, tx := 0, cs := List.replicate 8 0, fifoDrop := 0 }) else s1 })) ∧
    -- one entry of MVB_PORT_SET: a port set, and one removed
    (∀ off e, isMvb (u e 0 1) = true → u e 1 1 = 1 → u e 2 2 ≤ 4095 → thas (at' s.leg.cfg.ports (u e 0 1 - 8) []) (u e 2 2) = true →
      entryMvbPort off e s = .ok (s.modLeg fun l => { l with
        cfg := { l.cfg with ports := l.cfg.ports.modify (u e 0 1 - 8) fun t => tdel t (u e 2 2) }
        mvbPorts := l.mvbPorts.modify (u e 0 1 - 8) fun t => tdel t (u e 2 2) }, []))

/-- Rows of the CAN, MVB, serial, LIN and discrete channels (R405 to R428): each in the state it is for.
What the spec leaves open follows the model's choice, assumptions 2, 21 and 23. Tier 1. -/
def Obligations.busRowsComplete : Prop :=
  ∀ (c : Nat) (s : State),
    -- CAN: a CAN XL frame, a message sent, an error, recovery, a transport packet and its timeout
    (∀ fl id d, c ≤ 7 → canOn s c = true → (canCfg s c).mode = 1 → (canCfg s c).proto = 2 → 9 ≤ d.length → d.length ≤ 2048 →
      exec (.canFrameRx c 1 fl id d) s = .next (stampChans s (canReceive s c {
        kind := 1, chan := c, flags := fl % 64, ident := id % 2 ^ 29, data := d }))) ∧
    (∀ tx, c ≤ 7 → canOn s c = true → (canCfg s c).mode = 1 → canFirst (chanOf s c).txq = some tx →
      exec (.canTxComplete c true) s = .next (stampChans s (chanCount s c 2 1)) ∧
      exec (.canTxComplete c false) s = .next (stampChans s (setErrors (chanTx (modChan s c fun x => { x with txq := x.txq.erase tx }) c) c
        ((canRun s c).tec - 1) (canRun s c).rec_))) ∧
    (∀ send t r, c ≤ 7 → canOn s c = true → (canCfg s c).mode ≠ 0 →
      exec (.canErrorDetected c send t r) s = .next (stampChans s (setErrors (chanCount s c (b2n send) 1) c (min t 511) (min r 255)))) ∧
    (c ≤ 7 → engineRuns s c = true → (canRun s c).state = 3 → bit (canCfg s c).flags 0 = true →
      exec (.canRecoverWaitExpiry c) s = .next (stampChans s (modCan (s.until ((canRun s c).offAt + (canCfg s c).recoverMs * 1000000)) c
        fun x => { x with state := 4 }))) ∧
    (c ≤ 7 → engineRuns s c = true → (canRun s c).state = 4 →
      exec (.canRecoveryDone c) s = .next (stampChans s (raiseCan (modCan s c fun x => { x with state := 1, tec := 0, rec_ := 0 }) c 3))) ∧
    (∀ id d peer, c ≤ 7 → canOn s c = true → bit (canCfg s c).flags 1 = true →
      exec (.j1939TpPacket c false id d peer) s = .next (stampChans s (tpSend s c peer))) ∧
    (∀ peer w sender bam x, c ≤ 7 → w ≤ 3 →
      (canRun s c).tp.find? (fun x => x.sender == sender && x.bam == bam && x.peer == peer) = some x →
      exec (.j1939Timeout c peer w sender bam) s = .next (stampChans s (tpAbort (tpDrop s c x) c x (0xF0 + w)))) ∧
    -- MVB: a data frame valid on both lines; supervision; the basic period; mastership
    (∀ port d, isMvb c = true → engineRuns s c = true → (mvbRun s c).on = true →
      exec (.mvbFrameRx c (.data port d) true true) s =
        .next (stampChans s (mvbData (lineAfter (lineAfter s c 0 true true) c 1 true true) c port d))) ∧
    (∀ port x, isMvb c = true → engineRuns s c = true → (mvbRun s c).on = true → mvbPort s c port = some x → x.sink = true →
      x.supervise = true → (mvbPortRun s c port).stale = false → (mvbPortRun s c port).watched = true →
      exec (.mvbSinkTimeExpiry c port) s = .next (stampChans s (raiseSink (modMvbPort
        (chanCount (s.until ((mvbPortRun s c port).since + x.sinkMs * 1000000)) c 2 1) c port fun x => { x with stale := true }) c port false 0))) ∧
    (isMvb c = true → engineRuns s c = true → (mvbRun s c).on = true → (mvbRun s c).master = true →
      ∃ t, exec (.mvbBasicPeriod c) s = .next t) ∧
    (isMvb c = true → engineRuns s c = true → (mvbRun s c).master = true → (mvbRun s c).offered = none →
      (mvbRun s c).admin.turns * 1024 ≤ (mvbRun s c).basic →
      exec (.mvbMastershipOffer c) s = .next (stampChans s (offerNext s c (mvbCfg s c).addr))) ∧
    (∀ a, isMvb c = true → engineRuns s c = true → (mvbRun s c).offered = some a →
      exec (.mvbMastershipTimeout c) s = .next (stampChans s (offerNext s c a))) ∧
    (isMvb c = true → engineRuns s c = true → (mvbRun s c).on = true → (mvbRun s c).master = false → bit (mvbCfg s c).flags 1 = true →
      exec (.mvbSilentBus c) s = .next (stampChans s (takeMaster s c 4 (mvbRun s c).masterAddr))) ∧
    -- serial ports: a received error, an over-long message, a response that does not come, a silent line, the driver's limit
    (∀ d e, isSerial c = true → engineRuns s c = true → (serCfg s c).mode ≠ 0 → d.length ≤ 2048 → e ≤ 2 →
      exec (.serialMessageRx c (some e) d) s = .next (stampChans s (raiseSampled (chanCount s c e 1) 0x66 2 noLevel (srcId 0xA c)
        fun n => le 1 c ++ le 1 e ++ le 2 d.length ++ le 4 n))) ∧
    (∀ d e, isSerial c = true → engineRuns s c = true → (serCfg s c).mode ≠ 0 → 2048 < d.length →
      exec (.serialMessageRx c e d) s = .next (stampChans s (chanCount s c 6 1))) ∧
    (∀ tx, isSerial c = true → engineRuns s c = true → (serRun s c).cur = some tx → (serCfg s c).mode = 3 → tx.msg.ident = 0 →
      exec (.modbusResponseTimeout c) s = .next (stampChans s (serialPump 256
        (modSer (s.until ((serRun s c).sentAt + (serCfg s c).respMs * 1000000)) c fun r => { r with cur := none }) c))) ∧
    (isSerial c = true → engineRuns s c = true → (serCfg s c).mode = 1 ∨ (serCfg s c).mode = 2 → (serCfg s c).silenceMs ≠ 0 →
      (serRun s c).brk = none →
      exec (.serialSilenceTimeout c) s = .next (stampChans s (lineBreak (s.until ((serRun s c).lastRx + (serCfg s c).silenceMs * 1000000)) c 0))) ∧
    (isSerial c = true → engineRuns s c = true → (serCfg s c).mode ≠ 0 →
      exec (.serialCurrentLimit c) s = .next (stampChans s (lineBreak (modSer s c fun r => { r with limit := true }) c 1))) ∧
    (isSerial c = true → engineRuns s c = true → (serRun s c).limit = true →
      ∃ v : State, v = modSer s c (fun r => { r with limit := false }) ∧
        exec (.serialCurrentClear c) s = .next (stampChans s (if (serRun v c).brk = some 1 then lineMend v c else v))) ∧
    -- LIN: a slot runs; a responder wakes the bus and its schedule resumes 100 ms later
    (∀ a, isLin c = true → engineRuns s c = true → (linRun s c).state = 1 → muted s = false → ∃ t, exec (.linSlotTimer c a) s = .next t) ∧
    (isLin c = true → engineRuns s c = true → (linRun s c).state = 2 →
      exec (.linWakeupRx c) s = .next (stampChans s (linWake (chanCount s c 4 1) c))) ∧
    (∀ t, isLin c = true → engineRuns s c = true → (linRun s c).resume = some t →
      exec (.linResumeTimer c) s = .next (stampChans s (modLin (s.until t) c
        fun r => { r with state := 1, resume := none, slotAt := (s.until t).now }))) ∧
    -- discrete signals: a debounced input, an overrun, an output's read-back
    (∀ v, isGpi c = true → engineRuns s c = true → (dioRun s c).level ≠ v % 2 →
      exec (.gpiDebounceExpiry c v false) s = .next (stampChans s (gpiReport s c (v % 2)))) ∧
    (∀ v, isGpi c = true → engineRuns s c = true →
      exec (.gpiDebounceExpiry c v true) s = .next (stampChans s (raiseSampled (chanCount s c 0 1) 0x69 2 noLevel (srcId 0xA c)
        fun n => le 1 c ++ le 1 (dioRun s c).level ++ zeros 2 ++ le 4 n))) ∧
    (∀ v, 48 ≤ c → c ≤ 55 → engineRuns s c = true → (dioRun s c).driven = false →
      exec (.gpoReadbackExpiry c v) s = .next (stampChans s (modDio s c fun x => { x with read := v % 2 }))) ∧
    (∀ v, 48 ≤ c → c ≤ 55 → engineRuns s c = true → (dioRun s c).driven = true → (dioRun s c).fault = false → v % 2 ≠ gpoLevel s c →
      exec (.gpoReadbackExpiry c v) s = .next (stampChans s (sideBand (raise (modDio (chanCount
        (modDio s c fun x => { x with read := v % 2 }) c 0 1) c fun x => { x with fault := true }) 0x6A 4 noLevel (srcId 0xA c)
        (le 1 c ++ le 1 0 ++ le 1 (gpoLevel s c) ++ le 1 (v % 2))) c 0x30 (be 2 (gpoLevel s c) ++ be 2 (v % 2)))))

/-! ### The gateway: group 0x09 and its rows -/

/-- Group 0x09 (R482 to R492): settings, tables, status.
What the spec leaves open follows the model's choice, assumptions 22 and 41. Tier 1. -/
def Obligations.gatewayCommandsComplete : Prop :=
  ∀ (r : Req) (s s1 t : State) (p : List Byte) (cl : List Nat),
    -- GW_CYCLE_SET: a period of whole 250 us; the new grid begins at its first mark
    (Runs s specGwCycleSet r p s1 → 250 ≤ u p 0 4 → u p 0 4 ≤ 100000 → u p 0 4 % 250 = 0 → u p 4 4 < u p 0 4 * 1000 →
      wcetOver s1.ep.cur.gw (u p 0 4) = false → copyOver s1 s1.ep.cur.gw = false →
      ∃ m, m = firstMark s1 (u p 0 4) (u p 4 4) ∧
        exec (.gwCycleSet r) s = .next (ends s specGwCycleSet r p s1 {
          payload := le 4 (u p 0 4) ++ le 4 (u p 4 4) ++ le 8 m ++ le 4 (wrapAdd 32 s1.gw.cycle 1)
          st := s1.modGw fun g => { g with
            cfg := { g.cfg with periodUs := u p 0 4, phaseNs := u p 4 4 }, nextGrid := some (u p 0 4, u p 4 4, m) } })) ∧
    (Runs s specRouteTableSet r p s1 → ListApplies 48 entryGateway gatewayShadow p s1 t cl → s1.ep.draining = false →
      exec (.routeTableSet r) s = .next (ends s specRouteTableSet r p s1 (listDone p t cl 0x40 true))) ∧
    (Runs s specEndpointSet r p s1 → u p 0 1 ≤ 7 → 1 ≤ u p 14 2 → u p 14 2 ≤ 4094 → bit (u p 1 1) 0 = true →
      ∃ cs, ∃ e : Endpoint, e = {
          flags := u p 1 1 % 4, mac := sub p 2 6, ipv4 := ub p 8 4, pfx := clampTo 8 30 (u p 12 1), vid := u p 14 2
          md := u p 16 4, idleS := clampTo 1 3600 (u p 20 2) } ∧
        exec (.endpointSet r) s = .next (ends s specEndpointSet r p s1 { payload := endpointBytes (u p 0 1) e, clamps := cs, st :=
          (s1.modGw fun g => { g with cfg := { g.cfg with ends := tset g.cfg.ends (u p 0 1) e } }) })) ∧
    (Runs s specAcfBusSet r p s1 → ListApplies 24 entryAcf (fun off e s =>
        [chkConf (u e 1 1 = 0 && s.gw.cfg.buses.any fun b => b.1 != u e 0 1 && b.2.stream == sub e 12 8) (off + 12)]) p s1 t cl →
      exec (.acfBusSet r) s = .next (ends s specAcfBusSet r p s1 (listDone p t cl 0 false))) ∧
    -- GW_WRITE of a message: it enters the write journal for the next cycle
    (Runs s specGwWrite r p s1 → chanOk (u p 0 1) = true → isGpi (u p 0 1) = false → u p 1 1 = 0 → muted s1 = false →
      isModbus s1 (u p 0 1) = false → u p 12 2 ≤ 2048 →
      lengthBad s1 (kindOf (u p 0 1)) (u p 0 1) (u p 4 4) (sub p 24 (u p 12 2)).length = false →
      journalFull s1 (sub p 24 (u p 12 2)).length = false →
      exec (.gwWrite r) s = .next (ends s specGwWrite r p s1 {
        payload := le 4 (wrapAdd 32 s1.gw.cycle 1)
        st := journalPut s1 {
          msg := { kind := kindOf (u p 0 1), chan := u p 0 1, flags := u p 2 1 % 8, ident := u p 4 4, data := sub p 24 (u p 12 2) }
          origin := .direct 1 (asSubmitted r).src (asSubmitted r).tag, func := 0, addr := 0 } })) ∧
    -- GW_READ of a discrete input: its level now
    (Runs s specGwRead r p s1 → chanOk (u p 0 1) = true → isGpi (u p 0 1) = true → u p 2 1 = 8 ∨ u p 2 1 = 16 ∨ u p 2 1 = 32 →
      isModbus s1 (u p 0 1) = false →
      ∃ v, v = (if bit (dioCfg s1 (u p 0 1)).flags 0 then 1 - (dioRun s1 (u p 0 1)).level else (dioRun s1 (u p 0 1)).level) ∧
        exec (.gwRead r) s = .next (ends s specGwRead r p s1 { st := s1, clamps := (clampField 12 1 10000 (u p 12 2)).off, payload :=
          (le 4 v ++ le 8 s1.now ++ le 4 (min ((s1.now - s1.now) / 1000) (2 ^ 32 - 1)) ++ le 1 0 ++ le 1 0 ++ zeros 2) })) ∧
    -- GW_LOCK of a free channel that nobody waits for
    (Runs s specGwLock r p s1 → isSerial (u p 0 1) = true → u p 1 1 = 0 → u p 2 1 = 0xFF → muted s1 = false → (serCfg s1 (u p 0 1)).mode ≠ 0 →
      tget s1.gw.locks (u p 0 1) = none → tget s1.gw.heir (u p 0 1) = none →
      ∃ ls, ls = clampTo 1 5000 (u p 4 2) ∧
        exec (.gwLock r) s = .next (ends s specGwLock r p s1 {
          payload := le 2 ls ++ le 8 (s1.now + ls * 1000000), clamps := (clampField 4 1 5000 (u p 4 2)).off
          tokenUsed := (findToken s1 (asSubmitted r).token (asSubmitted r).src 0x0906 p).isSome
          st := (spendToken (gwCount s1 1 (u p 0 1) 7 1) (actorOf (asSubmitted r)) 0x0906 (asSubmitted r).token p).modGw fun g => { g with
            locks := tset g.locks (u p 0 1) {
              kind := 0, who := (asSubmitted r).src, since := s1.now, leaseMs := ls
              expires := s1.now + ls * 1000000, exchanges := 0 }
            heir := tdel g.heir (u p 0 1) } })) ∧
    -- GW_LOCK of a channel that another holds: RETRY, with the remaining lease as hint
    (∀ l, Runs s specGwLock r p s1 → isSerial (u p 0 1) = true → u p 1 1 = 0 → u p 2 1 = 0xFF → muted s1 = false → (serCfg s1 (u p 0 1)).mode ≠ 0 →
      tget s1.gw.locks (u p 0 1) = some l → l.kind = 2 → findToken s1 (asSubmitted r).token (asSubmitted r).src 0x0906 p = none →
      ∃ k, k = issueToken (gwCount s1 1 (u p 0 1) 6 1) (asSubmitted r).src 0x0906 p (leaseLeft s1 l) (.failed stRetry) (u p 0 1) ∧
        exec (.gwLock r) s = .next (retries s specGwLock r p k.1 (leaseLeft s1 l) k.2)) ∧
    -- and with a token that is still valid: RETRY again with the same token and a new hint
    (∀ l x, Runs s specGwLock r p s1 → isSerial (u p 0 1) = true → u p 1 1 = 0 → u p 2 1 = 0xFF → muted s1 = false → (serCfg s1 (u p 0 1)).mode ≠ 0 →
      tget s1.gw.locks (u p 0 1) = some l → l.kind = 2 → findToken s1 (asSubmitted r).token (asSubmitted r).src 0x0906 p = some x →
      exec (.gwLock r) s = .next (retries s specGwLock r p (asSubmitted r).token (leaseLeft s1 l)
        (renewToken (gwCount s1 1 (u p 0 1) 6 1) (asSubmitted r).token (leaseLeft s1 l)))) ∧
    -- GW_EXCHANGE that expects no answer, on a channel no one has locked
    (Runs s specGwExchange r p s1 → isSerial (u p 0 1) = true → bit (u p 1 1) 0 = false → 1 ≤ u p 2 2 → u p 2 2 ≤ 2048 → muted s1 = false →
      cannotFetch s1 (u p 0 1) = false → findToken s1 (asSubmitted r).token (asSubmitted r).src 0x0907 p = none → tget s1.gw.locks (u p 0 1) = none →
      ((chanOf s1 (u p 0 1)).txq.filter fun x => !isPosted x).length < 64 →
      ∃ d, d = sub p 8 (u p 2 2) ∧
        exec (.gwExchange r) s = .next (ends s specGwExchange r p s1 { st := stampChans s1 (toChannel s1 {
          msg := { kind := 4, chan := u p 0 1, ident := if isModbus s1 (u p 0 1) then u d 0 1 else 0, data := d }
          origin := .exchange 0 (asSubmitted r).src 0, func := if isModbus s1 (u p 0 1) then u d 1 1 else 0, reply := false }) })) ∧
    (Runs s specGwStatusGet r p s1 →
      ∃ tail, exec (.gwStatusGet r) s = .next (ends s specGwStatusGet r p s1 { st := s1, payload :=
        (le 4 s1.gw.cycle ++ le 4 s1.gw.grid.1 ++ le 4 s1.gw.grid.2 ++ le 4 ((wcetNs s1.ep.cur.gw + 999) / 1000) ++ le 8 (nextMark s1) ++
        le 4 s1.gw.runUs ++ le 4 s1.gw.peakUs ++ le 4 (journalUsed s1) ++ tail) }) ∧ tail.length = 4) ∧
    (Runs s specGwCountersGet r p s1 → u p 0 1 = 1 → chanOk (u p 2 2) = true →
      exec (.gwCountersGet r) s = .next (ends s specGwCountersGet r p s1 {
        payload := le 1 1 ++ le 1 0 ++ le 2 (u p 2 2) ++ zeros 4 ++ layCounters (gwWidths 1) (gwCtr s1 1 (u p 2 2))
        st := if bit (u p 1 1) 0 then s1.modGw (fun g => { g with counters := tdel g.counters (65536 + u p 2 2) }) else s1 })) ∧
    (Runs s specGwTableRead r p s1 → u p 0 1 = 0 → u p 2 2 < 16384 →
      ∃ n, n = clampTo 0 (16384 - u p 2 2) (u p 4 2) ∧
        exec (.gwTableRead r) s = .next (ends s specGwTableRead r p s1 {
          payload := le 2 (u p 2 2) ++ le 2 n ++ le 4 s1.ep.epoch ++
            (s1.ep.cur.gw.routes.filter fun e => u p 2 2 ≤ e.1 && e.1 < u p 2 2 + n).flatMap (fun e => routeBytes e.1 e.2)
          clamps := (clampField 4 0 (16384 - u p 2 2) (u p 4 2)).off, st := s1 }))

/-- Entries of the lists of group 0x09 (R460 to R462, R485): deletions, and an ACF bus set.
What the spec leaves open follows the model's choice, assumption 22. Tier 2. -/
def Obligations.gatewayEntriesApply : Prop :=
  ∀ (off : Nat) (e : List Byte) (s : State),
    (u e 0 1 = 0 → u e 1 1 = 1 → u e 2 2 ≤ 16383 → thas s.ep.cur.gw.routes (u e 2 2) = true →
      entryGateway off e s = .ok ((modGwt s fun t => { t with routes := tdel t.routes (u e 2 2) }).modGw fun g => { g with
        deleted := if g.deleted.contains (0 * 65536 + u e 2 2) then g.deleted else (0 * 65536 + u e 2 2) :: g.deleted }, [])) ∧
    (u e 0 1 = 1 → u e 1 1 = 1 → u e 2 2 ≤ 16383 → thas s.ep.cur.gw.targets (u e 2 2) = true →
      entryGateway off e s = .ok ((modGwt s fun t => { t with targets := tdel t.targets (u e 2 2) }).modGw fun g => { g with
        targets := tdel g.targets (u e 2 2) }, [])) ∧
    (u e 0 1 = 2 → u e 1 1 = 1 → u e 2 2 ≤ 32767 → thas s.ep.cur.gw.fields (u e 2 2) = true →
      entryGateway off e s = .ok ((modGwt s fun t => { t with fields := tdel t.fields (u e 2 2) }).modGw fun g => { g with
        fields := tdel g.fields (u e 2 2) }, [])) ∧
    -- a copy field that the shadow did not hold keeps its safe value first
    (u e 0 1 = 2 → u e 1 1 = 0 → u e 2 2 ≤ 32767 → thas s.ep.cur.gw.fields (u e 2 2) = false → u e 4 1 = 0 → u e 7 1 ≤ 3 → inSplit s = false →
      1 ≤ u e 14 2 → u e 14 2 ≤ 2048 →
      ∃ f cs, f.type = 0 ∧ f.policy = u e 7 1 ∧ f.srcOff = u e 8 2 ∧ f.dstOff = u e 10 2 ∧ f.copyLen = u e 14 2 ∧ f.safe = toInt 32 (u e 36 4) ∧
        entryGateway off e s = .ok ((modGwt s fun t => { t with fields := tset t.fields (u e 2 2) f }).modGw fun g => { g with
          fields := tset g.fields (u e 2 2) f.safe }, cs)) ∧
    (u e 0 1 ≤ 31 → u e 1 1 = 0 → u e 2 1 ≤ 7 → u e 4 2 ≤ 4094 →
      entryAcf off e s = .ok (s.modGw fun g => { g with cfg := { g.cfg with buses := tset g.cfg.buses (u e 0 1) {
        domain := u e 2 1, prio := clampTo 0 7 (u e 3 1), vid := u e 4 2, da := sub e 6 6, stream := sub e 12 8 } } },
        (clampField (off + 3) 0 7 (u e 3 1)).off))

/-- Rows of the gateway and of message data access (R452 to R458, R471 to R477): each in the state it is for.
What the spec leaves open follows the model's choice, assumptions 2, 22 and 24. Tier 1. -/
def Obligations.gatewayRowsComplete : Prop :=
  ∀ (s : State),
    (gatewayOn s = true → deliverInternal s 34 = none → exec .gwInputDelivery s = .next s) ∧
    (∀ a t b, gatewayOn s = true → deliverInternal s 34 = some (a, t, b) →
      ∃ v : State, v = stampChans s (gatewayInput s t.frame) ∧ (deliverInternal v 34 = none → exec .gwInputDelivery s = .next v) ∧
        (∀ x, deliverInternal v 34 = some x → exec .gwInputDelivery s = .next x.2.2)) ∧
    -- a cycle mark with no cycle under way: the grid's next mark, the banks and journal swap into a snapshot
    (∀ gr : Nat × Nat, gatewayOn s = true → (s.gw.nextGrid = none ∧ gr = s.gw.grid) ∨ (∃ m, s.gw.nextGrid = some (gr.1, gr.2, m)) →
      ∀ v : State, v = pairAtMark ((s.until (nextMark s)).modGw fun g => { g with
        cycle := wrapAdd 32 g.cycle 1, lastMark := nextMark s, markRaw := some (s.until (nextMark s)).time.raw, grid := gr, nextGrid := none }) →
      (v.gw.run = [] → exec .gwCycleMark s = .next (execGwCycleMark.swap v (nextMark s))) ∧
      -- the mark of a cycle whose predecessor has not begun is skipped and reported (R456)
      (∀ c, v.gw.run = [c] → c.begun = false →
        exec .gwCycleMark s = .next (cycleOverrun (gwCount v 2 0 5 1) v.gw.cycle ((v.now - c.mark) / 1000) 1))) ∧
    -- a cycle that has begun issues outputs; without outputs left it ends
    (∀ c rest n us, gatewayOn s = true → s.gw.run = c :: rest → c.begun = true → c.outs.length ≤ n →
      exec (.gwCycleExecute n us none) s = .next (endCycle (stampChans s (c.outs.foldl (fun s o => issueOut s o c.cycle) s)) { c with outs := [] } us)) ∧
    (∀ c rest us, gatewayOn s = true → s.gw.run = c :: rest → c.begun = true → c.outs ≠ [] →
      exec (.gwCycleExecute 0 us none) s = .next ((stampChans s s).modGw fun g => { g with run := c :: rest })) ∧
    (∀ c rest, gatewayOn s = true → s.gw.run = c :: rest →
      ∃ v w : State, v = gwCount (s.until (c.mark + 40000000)) 2 0 6 1 ∧ w = cycleOverrun v c.cycle ((v.now - c.mark) / 1000) 2 ∧
        exec .gwCycleCut s = .next (countOut (w.modGw fun g => { g with run := g.run.drop 1, history := (c :: g.history).take 2 }) c.epoch)) ∧
    (∀ c l, tget s.gw.locks c = some l → exec (.lockLeaseExpiry c) s = .next (stampChans s (breakLock (s.until l.expires) c 0))) ∧
    (∀ tok d f, s.gw.fetches.find? (fun f => f.token == tok && f.how != 4) = some f → engineRuns s f.chan = true →
      exec (.gwFetchComplete tok d) s = .next (fetchDone (cachePut s {
        chan := f.chan, func := f.func, ident := f.ident
        addr := if f.how = 3 then f.addr else 0, time := s.now, data := d }) tok d)) ∧
    (∀ tok f, s.gw.fetches.find? (fun f => f.token == tok && f.how != 4) = some f →
      exec (.gwFetchTimeout tok) s = .next (fetchFail (modChan (s.until (f.since + f.timeoutMs * 1000000)) f.chan
        fun x => { x with txq := x.txq.filter fun t => t.origin != .fetch tok }) tok stTimeout 0)) ∧
    -- message data: a ComId that gives no access is answered Me; a session goes idle; its connection closes
    (∀ d ip port z com seq data e i v, endpointOf s d = some e → gatewayOn s = true → s.host.ready = true → sessionFor s d false ip port = some (i, v) →
      com < e.md →
      exec (.trdpMrRx d false ip port z com seq data) s = .next (v.modGw fun g => { g with
        sessions := g.sessions.map fun x => if x.1 = i then (i, { x.2 with outbox := x.2.outbox ++ [[]] }) else x })) ∧
    (∀ i x, tget s.gw.sessions i = some x →
      exec (.trdpSessionIdle i) s = .next (stampChans s (loseSession
        (s.until (x.last + ((tget s.gw.cfg.ends x.domain).map (·.idleS)).getD 30 * secondNs)) i 1))) ∧
    (∀ i x, tget s.gw.sessions i = some x → x.tcp = true → exec (.trdpConnectionClose i) s = .next (stampChans s (loseSession s i 0)))

/-! ### Power: group 0x0A and the rows of the power controller -/

/-- Group 0x0A (R521 to R526).
What the spec leaves open follows the model's choice, assumptions 14 and 38. Tier 1. -/
def Obligations.powerCommandsComplete : Prop :=
  ∀ (r : Req) (s s1 : State) (p : List Byte),
    (Runs s specPowerStatusGet r p s1 →
      exec (.powerStatusGet r) s = .next (ends s specPowerStatusGet r p s1 { st := s1, payload :=
        (le 1 s1.power.state ++ le 1 (b2n (s1.power.trans.isSome || s1.power.duskExit) + 2 * b2n s1.power.pfail + 4 * b2n s1.power.holdupLow +
          8 * b2n (intReserved s1 > 0)) ++ le 2 s1.power.intTokens ++ le 2 (intUsed s1) ++ le 2 (intReserved s1) ++ le 2 s1.power.poeTokens ++
        le 2 (poeUsed s1) ++ le 4 s1.power.inputMv ++ le 4 s1.power.inputMa ++ le 2 s1.power.holdupMs ++ le 2 s1.power.loadDw ++
        le 4 s1.power.wakeDrop ++ zeros 4 ++ le 8 s1.power.since) })) ∧
    -- POWER_STATE_SET between Day and Dusk, and to Night with the magic number and an enabled wake source: the entry waits for DELAY_MS
    (Runs s specPowerStateSet r p s1 → u p 0 1 ≤ 1 ∨ (u p 0 1 = 2 ∧ u p 4 4 = 0x9600DA4C ∧ s1.power.wake.enable % 64 ≠ 0) →
      u p 0 1 ≠ s1.power.state → powerBusy s1 = false →
      exec (.powerStateSet r) s = .next (ends s specPowerStateSet r p s1 {
        payload := le 1 (u p 0 1) ++ le 1 s1.power.state ++ le 2 (clampTo 2 10000 (u p 2 2)), clamps := (clampField 2 2 10000 (u p 2 2)).off
        st := s1.modPow fun x => { x with
          trans := some { target := u p 0 1, cause := 0, due := s1.time.aon + msCounts (clampTo 2 10000 (u p 2 2)) } } })) ∧
    (Runs s specWakeSet r p s1 → u p 2 1 ≤ 2 → u p 2 1 = 0 ∨ u p 3 1 % 4 ≠ 0 →
      ∃ payload cs, ∃ w : WakeCfg, w = {
          enable := u p 0 1 % 64 + 64, pinMode := u p 1 1 % 16, autoSleep := u p 2 1, flags := u p 3 1 % 8, delayS := clampTo 1 3600 (u p 4 2)
          darkAfterH := clampTo 0 720 (u p 6 2), tc10Ports := setInter (u p 8 8) (t1Edge s1), alarmS := clampTo 0 31536000 (u p 16 4) } ∧
        exec (.wakeSet r) s = .next (ends s specWakeSet r p s1 { payload := payload, clamps := cs, st :=
          (s1.modPow fun p => { p with wake := w, stored := { p.stored with wake := some w } }) })) ∧
    -- POOL_SET: new pools; what no longer fits is shed, PSE ports lose power, denied ports request again
    (Runs s specPoolSet r p s1 → intUsed s1 ≤ 20 * clampTo 20 62 (u p 0 2) → bit (u p 4 1) 0 = false →
      ∃ w e, ∃ (v : State) (sh : State × List Nat) (off : State × Nat),
        w = clampTo 20 62 (u p 0 2) ∧ e = clampTo 0 (min s1.power.poeDecl 960) (u p 2 2) ∧
        v = s1.modPow (fun x => { x with intTokens := 20 * w, poeTokens := 20 * e }) ∧ sh = shedTo (20 * w) (shedOrder v) v [] ∧
        off = pseShrink 16 sh.1 0 ∧
        exec (.poolSet r) s = .next (ends s specPoolSet r p s1 {
          payload := le 2 w ++ le 2 e ++ le 1 0 ++ zeros 3 ++ le 2 (20 * w) ++ le 2 (20 * e) ++ le 2 sh.2.length ++ le 2 off.2
          clamps := (clampField 0 20 62 (u p 0 2)).off ++ (clampField 2 0 (min s1.power.poeDecl 960) (u p 2 2)).off
          st := pseRetry off.1 })) ∧
    (Runs s specArbiterGet r p s1 → u p 0 1 ≤ 63 →
      ∃ n rows, n = clampTo 1 (64 - u p 0 1) (u p 1 1) ∧
        exec (.arbiterGet r) s = .next (ends s specArbiterGet r p s1 {
          payload := le 1 (u p 0 1) ++ le 1 n ++ zeros 2 ++ rows, clamps := (clampField 1 1 (64 - u p 0 1) (u p 1 1)).off, st := s1 }) ∧
        rows.length = 4 * n) ∧
    (Runs s specSupplySet r p s1 →
      ∃ c : SupplyCfg, c = { pfwMv := clampTo 8600 100000 (u p 0 4), holdupMs := clampTo 1 50 (u p 4 2), shed := u p 6 1 % 2 = 1 } ∧
        exec (.supplySet r) s = .next (ends s specSupplySet r p s1 {
          payload := le 4 c.pfwMv ++ le 2 c.holdupMs ++ le 1 (u p 6 1 % 2) ++ zeros 1
          clamps := (clampField 0 8600 100000 (u p 0 4)).off ++ (clampField 4 1 50 (u p 4 2)).off
          st := s1.modPow fun p => { p with supply := c, stored := { p.stored with supply := some c } } }))

/-- Rows of wake, sleep and start (R413, R497 to R503, R510, R514, R515, R522): each in the state it is for.
What the spec leaves open follows the model's choice, assumptions 2, 33 and 38. Tier 1. -/
def Obligations.wakeRowsComplete : Prop :=
  ∀ (k : Nat) (x : ExitInput) (b : List BootInput) (s : State),
    -- a wake pin wakes the module from Dark and from Night; in Dusk only with FROM_DUSK
    (∀ pin, pin ≤ 1 → s.power.on = true → bit s.power.wake.enable pin = true → s.power.state = 3 →
      exec (.wakePin pin k x) s = .next (darkWake s pin 0xFF k x)) ∧
    (∀ pin, pin ≤ 1 → s.power.on = true → bit s.power.wake.enable pin = true → s.power.state = 2 →
      exec (.wakePin pin k x) s = .next (nightWake s pin 0xFF k x)) ∧
    (∀ pin, pin ≤ 1 → s.power.on = true → bit s.power.wake.enable pin = true → s.power.state = 1 → bit s.power.wake.flags 2 = true →
      s.power.duskExit = false → s.power.trans = none → exec (.wakePin pin k x) s = .next (beginDuskExit s pin 0xFF k x)) ∧
    (s.power.on = true → s.power.state = 2 → s.power.alarmArmed = true → bit s.power.wake.enable 5 = true →
      ∃ t : State, t = s.later (s.power.sleptFrom + secCounts s.power.wake.alarmS - s.time.aon) ∧
        exec (.rtcAlarm k x) s = .next (nightWake t 5 0xFF k x)) ∧
    -- the partner of a sleeping port that is powered wakes the port; of one that is not, the module
    (∀ p, p ≤ 32 → s.power.on = true → (portRun s p).oper = 4 → portPowered s p = true → exec (.tc10WakePulse p k x) s = .next (tc10Wake s p)) ∧
    (∀ p, p ≤ 32 → s.power.on = true → (portRun s p).oper = 4 → portPowered s p = false → bit s.power.wake.tc10Ports p = true →
      bit s.power.wake.enable 2 = true → s.power.state = 2 → exec (.tc10WakePulse p k x) s = .next (nightWake s 2 p k x)) ∧
    (∀ c pat n xtd id dlc d, c ≤ 1 → s.power.on = true → s.power.state = 2 → bit s.power.wake.enable (3 + c) = true →
      canWakes (at' s.leg.cfg.wake c {}) pat n xtd id dlc d = true →
      exec (.canWakeFrame c pat n xtd id dlc d k x) s = .next (nightWake s (3 + c) c k x)) ∧
    (s.power.on = true → s.power.state = 1 → s.power.duskExit = true →
      exec (.duskExitRetry x) s = .next (duskExit (s.later (msCounts 100)) x)) ∧
    -- the delay of MODULE_RESET, and of POWER_STATE_SET to Dusk, to Night and to Dark
    (∀ d, awake s = true → s.power.resetDue = some d → exec (.delayMsExpiry x) s = .next (warmReset (s.later (d.1 - s.time.aon)) x.boots)) ∧
    (∀ t, awake s = true → s.power.resetDue = none → s.power.trans = some t → (∀ w, w ∈ s.mb.waiting → w.kind ≠ .island) →
      ∃ v : State, v = s.later (t.due - s.time.aon) ∧
        (t.target = 1 → exec (.delayMsExpiry x) s = .next (duskEntry v 0)) ∧
        (t.target = 2 → exec (.delayMsExpiry x) s = .next (enterNight v 0)) ∧
        (t.target = 3 → exec (.delayMsExpiry x) s = .next (enterDark v 0))) ∧
    (awake s = true → s.power.trans = none → s.upd.stage ≠ 4 → s.upd.stage ≠ 7 → (∀ w, w ∈ s.mb.waiting → w.kind ≠ .island) →
      (s.power.wake.autoSleep = 1 → exec .autoSleepTimer s = .next (enterNight s 1)) ∧
      (s.power.wake.autoSleep = 2 → exec .autoSleepTimer s = .next (enterDark s 1))) ∧
    (s.power.on = true → s.power.state = 2 → s.power.wake.darkAfterH ≠ 0 →
      exec .darkAfterTimer s =
        .next (enterDark (s.later (s.power.sleptFrom + secCounts (3600 * s.power.wake.darkAfterH) - s.time.aon)) 2)) ∧
    (s.power.on = false →
      exec (.coldPowerOn b) s = .next (startModule (s.modHost fun h => { h with resetCause := 0 }) true true 0 [0] b)) ∧
    (s.power.on = true → s.power.state ≤ 1 → exec (.resetN b) s = .next (startModule (dropYoung s) false false 3 [3] b)) ∧
    (s.power.on = true → s.power.state = 2 → exec (.resetN b) s = .next (startModule (dropYoung (carryNight s)) false false 3 [3] b))

/-- Rows of the supply, the arbiter and Nightwatch (R507, R510 to R512, R516, R520, R612 to R614, R709).
What the spec leaves open follows the model's choice, assumptions 2, 14 and 38. Tier 1. -/
def Obligations.supplyRowsComplete : Prop :=
  ∀ (mv : Nat) (s : State),
    -- the hold-up bank is spent: the module is off
    (s.power.on = true → ∃ t, exec (.holdupExhausted mv) s = .next t ∧ t.power.on = false ∧ t.host.resetCause = 0 ∧ t.lode.logQueue = []) ∧
    -- the last gasp, with and without shedding
    (awake s = true → s.power.pfail = false → s.power.supply.shed = false →
      ∃ t : State, t = raise (s.modPow fun p => { p with pfail := true, pfailAt := s.now, pfailN := true, inputMv := mv }) 0x92 5 noLevel (srcId 0xF 1)
          (zeros 4 ++ le 4 mv ++ le 2 s.power.holdupMs ++ le 2 s.power.loadDw) ∧
        ∃ v : State, v = flushLog (t.modPow fun p => { p with shedCodes := [] }) ∧
          exec (.powerFailWarn mv) s = .next (if v.power.trans.any fun x => x.target == 1 then abandonEntry v else v)) ∧
    (awake s = true → s.power.pfail = true → s.power.supply.pfwMv + 500 < mv → s.power.shedCodes = [] →
      exec (.powerFailEnd mv) s = .next (raise (s.modPow fun p => { p with
          pfail := false, pfailN := !p.bankOk, inputMv := mv, shedCodes := [] }) 0x92 1 noLevel (srcId 0xF 1)
        (le 1 1 ++ zeros 3 ++ le 4 mv ++ le 2 s.power.holdupMs ++ le 2 s.power.loadDw ++ le 4 (min ((s.now - s.power.pfailAt) / 1000) (2 ^ 32 - 1))))) ∧
    -- a requester that holds nothing requests: the fabric's second clock (400), a crypto engine (60); one that holds tokens changes nothing
    (awake s = true → s.power.state = 0 → holdsTokens s 1 = false → exec (.tokenRequest 1) s = .next (requestTokens s 1 400).2) ∧
    (∀ c, awake s = true → s.power.state = 0 → c = 2 ∨ c = 3 → holdsTokens s c = false → exec (.tokenRequest c) s = .next (requestTokens s c 60).2) ∧
    (∀ c, awake s = true → s.power.state = 0 → holdsTokens s c = true → exec (.tokenRequest c) s = .next s) ∧
    -- monitors: over-voltage, a rail out of range, back in range (SUPPLY_MONITOR 0x95)
    (awake s = true → 170000 < mv → exec (.inputOvervoltage mv) s = .next (monitorBad s 0 1 mv 170000)) ∧
    (∀ k, awake s = true → k ≤ 13 → mv < monThreshold (k + 2) false →
      exec (.railOutOfRange k mv) s = .next (monitorBad s (k + 2) (b2n (decide (mv > monThreshold (k + 2) true))) mv
        (if mv > monThreshold (k + 2) true then monThreshold (k + 2) true else monThreshold (k + 2) false))) ∧
    (∀ m, awake s = true → m ≤ 15 → bit s.power.monBad m = true →
      exec (.supplyBackInRange m mv) s = .next (raise (s.modPow fun p => { p with monBad := withBit p.monBad m false }) 0x95 1 noLevel (srcId 0xF 1)
        (le 1 m ++ le 1 2 ++ zeros 2 ++ le 4 mv ++ le 4 (monThreshold m (bit s.power.monOver m)) ++ le 4 (at' s.power.monCount m 0)))) ∧
    -- the hold-up estimate: HOLDUP_LOW below the requirement, once
    (∀ ms dw, awake s = true → ms < s.power.supply.holdupMs → s.power.holdupLow = false →
      exec (.holdupEstimate ms dw) s = .next (raise (s.modPow fun p => { p with holdupMs := ms, loadDw := dw, holdupLow := true }) 0x96 4 noLevel
        (srcId 0xF 1) (le 1 0 ++ zeros 1 ++ le 2 ms ++ le 2 s.power.supply.holdupMs ++ le 2 dw ++ le 4 (tgetD s.lode.samples 35 0).toNat))) ∧
    (s.power.on = true → exec .holdupBankCharged s = .next (s.modPow fun p => { p with bankOk := true, pfailN := p.pfail })) ∧
    -- Nightwatch: a service within the open part of the window; before it opens, and at its close, it bites
    (watching s = true → msCounts s.lode.nw.window * s.lode.nw.openPct ≤ (s.time.aon - s.lode.nw.start) * 100 →
      s.time.aon - s.lode.nw.start < msCounts s.lode.nw.window →
      exec .nightwatchService s = .next (s.modLode fun l => { l with nw := { s.lode.nw with
        window := l.cfg.nw.windowMs, openPct := l.cfg.nw.openPct, start := s.time.aon, serviced := s.time.aon, bitten := false
        services := satAdd 32 s.lode.nw.services 1 } })) ∧
    (watching s = true → (s.time.aon - s.lode.nw.start) * 100 < msCounts s.lode.nw.window * s.lode.nw.openPct →
      exec .nightwatchService s = .next (bite s)) ∧
    (watching s = true →
      exec .nightwatchWindowClose s = .next (bite (s.later (s.lode.nw.start + msCounts s.lode.nw.window - s.time.aon))))

/-! ### Keys, MACsec, MKA, tamper: group 0x0B and its rows -/

/-- Group 0x0B (R562 to R574): life cycle, key slots, MACsec, tamper. A command that needs the island waits for it (R544).
What the spec leaves open follows the model's choice, assumptions 4 and 32. Tier 1. -/
def Obligations.keyCommandsComplete : Prop :=
  ∀ (r : Req) (s s1 : State) (p : List Byte),
    (Runs s specLifecycleGet r p s1 →
      exec (.lifecycleGet r) s = .next (ends s specLifecycleGet r p s1 { st := s1, payload :=
        (le 1 s1.lifecycle ++ le 1 (b2n s1.keys.quarantine + 2 * b2n (fuseBlown s1) + 4 * b2n (!s1.keys.owner.isEmpty) +
          8 * b2n (s1.lifecycle == 0 || s1.lifecycle == 1 || s1.lifecycle == 3) + 16 * b2n s1.keys.window) ++ le 1 s1.keys.record.length ++
        zeros 1 ++ le 1 s1.keys.tamperCount ++ le 1 s1.keys.clearCount ++ le 1 s1.keys.latched ++ le 1 s1.keys.armed ++
        le 4 (if s1.lifecycle = 4 then 0 else rootGen s1 s1.lifecycle) ++ zeros 4 ++ padTo 48 s1.keys.owner) })) ∧
    -- LIFECYCLE_SET out of BLANK with an owner key, and by the owner's signature out of any other state; the transition follows the completion
    (Runs s specLifecycleSet r p s1 → lifeAllowed s1.lifecycle (u p 0 1) = true → u p 0 1 ≤ 4 → u p 4 4 = s1.keys.record.length →
      u p 8 8 = Config.serial % 2 ^ 64 →
      (s1.lifecycle = 0 → sub p 16 96 ≠ zeros 96) →
      (s1.lifecycle ≠ 0 → Config.ownerVerify s1.keys.owner (Config.sha384 (ascii "KZLC" ++ p.take 16)) (sub p 112 96) = true) →
      (u p 0 1 = 2 → s1.keys.latched = 0 ∧ (s1.lifecycle = 1 → fuseBlown s1 = false)) →
      (u p 0 1 ≠ 4 → s1.keys.record.length < 63 ∧ s1.keys.tamperCount ≠ 16) → powerBusy s1 = false →
      exec (.lifecycleSet r) s = .next (ends s specLifecycleSet r p s1 {
        st := s1, payload := le 1 (u p 0 1) ++ le 1 s1.lifecycle ++ le 1 (s1.keys.record.length + 1)
        after := fun t => lifeTransition t (u p 0 1) (sub p 16 96) })) ∧
    -- KEY_SLOT_WRITE: an imported key becomes a slot write that the island serves
    (Runs s specKeySlotWrite r p s1 → u p 0 1 ≤ 63 → u p 1 1 = 3 → u p 4 1 = 0 → u p 2 2 < 64 → u p 144 2 = 32 →
      (s1.lifecycle = 2 → s1.keys.window = true) → (keySlot s1 (u p 0 1)).erasing = false → selectedBank s1 (u p 0 1) = none →
      bankUsers s1 (u p 0 1) (inactiveBank s1 (u p 0 1)) ≠ 0 →
      ∃ b0 b : KeyBank, b0 = {
          source := 3, alg := 0, usage := u p 2 2, parent := 0xFF, labels := [], key := sub p 148 32, tagState := s1.lifecycle
          tagGen := rootGen s1 s1.lifecycle, gen := nextGen s1 (u p 0 1) } ∧ b = { b0 with kcv := kcvOf 0 (bankKey s1 6 b0), pub := [] } ∧
        exec (.keySlotWrite r) s = .next (waits s specKeySlotWrite r p s1 .island (askIsland s1 {
          level := 3, kind := 4, slot := u p 0 1, src := some (asSubmitted r).src, bank := some b, uses := []
          out := le 1 (u p 0 1) ++ zeros 3 ++ le 4 b.gen ++ b.kcv ++ b.pub }))) ∧
    (Runs s specKeySlotErase r p s1 → u p 0 1 ≤ 63 → (activeBank s1 (u p 0 1)).isSome = true → (keySlot s1 (u p 0 1)).erasing = false →
      bankUsers s1 (u p 0 1) (inactiveBank s1 (u p 0 1)) = 0 →
      exec (.keySlotErase r) s = .next (ends s specKeySlotErase r p s1 { st := (runErase s1 (u p 0 1)).1, payload := (runErase s1 (u p 0 1)).2 })) ∧
    (Runs s specKeySlotInfo r p s1 → u p 0 1 ≤ 63 → activeBank s1 (u p 0 1) = none →
      exec (.keySlotInfo r) s = .next (ends s specKeySlotInfo r p s1 { st := s1, payload := le 1 (u p 0 1) ++ zeros 119 })) ∧
    (∀ b, Runs s specKeySlotInfo r p s1 → u p 0 1 ≤ 63 → activeBank s1 (u p 0 1) = some b →
      ∃ st users, exec (.keySlotInfo r) s = .next (ends s specKeySlotInfo r p s1 { st := s1, payload :=
        (le 1 (u p 0 1) ++ st ++ le 1 b.source ++ le 1 b.alg ++ le 2 b.usage ++ le 1 (bankDepth s1 6 b) ++ users ++ le 4 b.gen ++
          le 1 (b2n ((keySlot s1 (u p 0 1)).saGen == some b.gen)) ++ zeros 3 ++ padTo 8 b.kcv ++ padTo 96 b.pub) }) ∧
        st.length = 1 ∧ users.length = 1) ∧
    -- KEY_OP: a CMAC with a slot's key
    (∀ b, Runs s specKeyOp r p s1 → u p 0 1 = 0 → u p 1 1 ≤ 63 → 1 ≤ u p 4 2 → u p 4 2 ≤ 2008 → slotUsable s1 (u p 1 1) 4 = true →
      (loadSlot 3 s1 (u p 1 1)).2 = some b →
      ∃ (v : State) (tag : List Byte), v = (loadSlot 3 s1 (u p 1 1)).1 ∧ tag = padTo 16 (Config.cmac (bankKey v 6 b) (sub p 8 (u p 4 2))) ∧
        exec (.keyOp r) s = .next (waits s specKeyOp r p s1 .island (askIsland (slotUsed v) {
          level := 3, kind := 0, slot := u p 1 1, src := some (asSubmitted r).src, uses := latchOf (slotUsed v) (u p 1 1)
          out := le 1 0 ++ le 1 (u p 1 1) ++ zeros 2 ++ le 4 b.gen ++ le 2 tag.length ++ zeros 6 ++ tag }))) ∧
    (Runs s specProvisionClose r p s1 → s1.lifecycle = 2 → s1.keys.window = true →
      exec (.provisionClose r) s = .next (ends s specProvisionClose r p s1 { st := s1.modKeys fun k => { k with window := false } })) ∧
    (∀ i, Runs s specMacsecPortSet r p s1 → macIdx (u p 0 1) = some i → u p 1 1 ≤ 1 → u p 2 1 ≤ 1 → u p 3 1 ≤ 2 → u p 5 1 = 0 ∨ u p 5 1 = 30 ∨ u p 5 1 = 50 →
      (u p 2 1 ≠ (macCfg s1 i).suite → (macRun s1 i).sas = []) → (macCfg s1 i).enable = decide (u p 1 1 = 1) →
      ∃ payload cs, ∃ c : MacCfg, c = {
          enable := u p 1 1 = 1, suite := u p 2 1, validate := u p 3 1, flags := u p 4 1 % 16, conf := u p 5 1
          window := clampTo 0 (2 ^ 30 - 1) (u p 8 4), pct := clampTo 50 99 (u p 12 1) } ∧
        exec (.macsecPortSet r) s = .next (ends s specMacsecPortSet r p s1 { payload := payload, clamps := cs, st :=
          (zenithRecheck (checkP0 (s1.modKeys fun k => { k with cfg := { k.cfg with ports := k.cfg.ports.set i c } }))) })) ∧
    -- MACSEC_SA_SET on the transmit channel: an SA is removed (1) or made the one in use (2)
    (∀ i k a, Runs s specMacsecSaSet r p s1 → macIdx (u p 0 1) = some i → u p 2 1 = 0 → u p 3 1 ≤ 3 → (mkaCfg s1 i).enable = false →
      namedSa (macRun s1 i) true 63 (u p 3 1) = some (k, a) →
      (u p 1 1 = 1 → exec (.macsecSaSet r) s = .next (ends s specMacsecSaSet r p s1 {
        st := zenithRecheck (checkP0 (retireSa s1 i k)), payload := p.take 6 ++ zeros 2 ++ le 1 k })) ∧
      (u p 1 1 = 2 → exec (.macsecSaSet r) s = .next (ends s specMacsecSaSet r p s1 {
        st := zenithRecheck (activateSa s1 i k), payload := p.take 6 ++ zeros 2 ++ le 1 k }))) ∧
    (∀ i, Runs s specMkaSet r p s1 → macIdx (u p 0 1) = some i → u p 1 1 = 0 → u p 2 1 ≤ 63 → 1 ≤ u p 4 1 → u p 4 1 ≤ 32 →
      slotUsable s1 (u p 2 1) 2 = true → (∀ e, e ∈ (macRun s1 i).sas → e.2.mka = true) → (mkaRun s1 i).ca = false →
      ∃ payload cs, ∃ c : MkaCfg, c = { enable := false, slot := u p 2 1, prio := u p 3 1, ckn := sub p 8 (u p 4 1), helloMs := clampTo 500 10000 (u p 40 2) } ∧
        exec (.mkaSet r) s = .next (ends s specMkaSet r p s1 { payload := payload, clamps := cs, st :=
          ((mkaStop s1 i).modKeys fun k => { k with cfg := { k.cfg with mka := k.cfg.mka.set i c } }) })) ∧
    (∀ i, Runs s specMacsecStatusGet r p s1 → macIdx (u p 0 1) = some i →
      ∃ mid, exec (.macsecStatusGet r) s = .next (ends s specMacsecStatusGet r p s1 { st := s1, payload :=
        (le 1 (u p 0 1) ++ le 1 (b2n (macCfg s1 i).enable) ++ le 1 (macCfg s1 i).suite ++ mid ++
          le 1 ((macRun s1 i).scs.filter fun e => e.1 < 63).length ++ le 1 (macRun s1 i).sas.length ++
          le 8 (((txSa s1 i).map fun e => e.2.pn).getD 0) ++ be 8 ((macRun s1 i).mka.peer.getD 0)) }) ∧ mid.length = 3) ∧
    (∀ i, Runs s specMacsecCountersGet r p s1 → macIdx (u p 0 1) = some i → u p 1 1 = 0 → u p 2 1 = 0 →
      exec (.macsecCountersGet r) s = .next (ends s specMacsecCountersGet r p s1 {
        payload := p.take 4 ++ zeros 4 ++ ((macRun s1 i).port.take 9).flatMap (le 8)
        st := if bit (u p 3 1) 0 then modMac s1 i (fun m => { m with port := m.port.map fun _ => 0 }) else s1 })) ∧
    -- TAMPER_SET: the armed sources; a latch is cleared where its source is no longer active (which is open, so a free value)
    (Runs s specTamperSet r p s1 →
      ∃ l, l = (if bit (u p 1 1) 0 then setInter s1.keys.latched (Config.tamperActive s1.free) else s1.keys.latched) ∧
        exec (.tamperSet r) s = .next (ends s specTamperSet r p s1 {
          payload := le 1 (u p 0 1 % 128) ++ le 1 l
          st := { s1 with free := s1.free + 1 }.modKeys fun k => { k with armed := u p 0 1 % 128, latched := l } }))

/-- Rows of the key island, MKA, tamper and the transmit scheduler (R337, R541 to R547, R553 to R557).
What the spec leaves open follows the model's choice, assumptions 2, 4 and 32. Tier 1. -/
def Obligations.keyRowsComplete : Prop :=
  ∀ (s : State),
    -- the island's request completes: not answered in 100 ms; a sound slot write is committed; an operation's output is released
    (∀ e i q, islandNext s e = some i → s.keys.queue[i]? = some q →
      ∃ v : State, v = s.modKeys (fun k => { k with queue := k.queue.eraseIdx i }) ∧
        (∀ snd, exec (.islandRequestComplete e snd false) s = .next (failWaiting v q.src .island stTimeout)) ∧
        (∀ b, q.kind = 4 → q.erase = false → q.bank = some b →
          exec (.islandRequestComplete e true true) s =
            .next (answerWaiting (commitBank v q.slot b) q.src .island fun t => { st := t, payload := q.out })) ∧
        (∀ snd, q.kind ≤ 2 →
          exec (.islandRequestComplete e snd true) s = .next (answerWaiting v q.src .island fun t => { st := t, payload := q.out }))) ∧
    -- the last user of an erase-pending bank: it is zeroized
    (∀ n, n < 64 → (keySlot s n).erasing = true → bankUsers s n ((keySlot s n).act.getD 0) = 0 → (finishErase s n).keys.queue = [] →
      exec (.slotUsersDone n) s = .next (finishErase s n)) ∧
    (∀ port m i, macIdx port = some i → awake s = true → portUp s port = true → (mkaRun s i).ca = true →
      exec (.mkpduRx port m) s = .next (askIsland s { level := 2, kind := 5, slot := (mkaCfg s i).slot, port := i, pdu := some m })) ∧
    (∀ port i, macIdx port = some i → awake s = true → (mkaRun s i).ca = true →
      ∃ v : State, v = s.until (mkaRun s i).helloAt ∧
        exec (.mkaHelloTimer port) s = .next (modMka v i fun r => { r with
          helloAt := v.now + (mkaCfg s i).helloMs * 1000000, sent := r.sent + b2n (portUp s port) })) ∧
    (∀ port i, macIdx port = some i → awake s = true → (mkaRun s i).peer.isSome = true →
      exec (.mkaLifetimeExpiry port) s =
        .next (zenithRecheck (checkP0 (retireMka (mkaLost (s.until ((mkaRun s i).peerAt + 6 * secondNs)) i) i [])))) ∧
    (∀ pt h, awake s = true → exec (.transmitOpportunity pt h) s = .next (transmitOpp protect s pt h)) ∧
    -- an armed source that is not latched sets its latch; the response follows
    (∀ src x, tamperWatched s src = true → tamperAnswers s = true → bit s.keys.armed src = true → bit s.keys.latched src = false →
      exec (.tamperLatch src x) s = .next (tamperResponse (setLatch s src) (s.keys.latched == 0) x))

/-! ### Measured boot and attestation: group 0x0C and its rows -/

/-- Group 0x0C (R595 to R602): measurements, the report, certificates, SPDM; and the rows of SPDM, MCTP and the signing (R587 to R592).
What the spec leaves open follows the model's choice, assumptions 4 and 33. Tier 1. -/
def Obligations.attestationComplete : Prop :=
  ∀ (r : Req) (s s1 : State) (p : List Byte),
    (Runs s specMeasGet r p s1 →
      exec (.measGet r) s = .next (ends s specMeasGet r p s1 {
        st := s1, payload := le 4 (u p 0 4 % 2 ^ 24) ++ le 4 s1.boot.log.length ++ maskedRegs s1 (u p 0 4 % 2 ^ 24) })) ∧
    (Runs s specMeasLogRead r p s1 → u p 0 4 ≤ 16383 →
      ∃ k, k = min (max 1 (u p 4 4)) (s1.boot.log.length - u p 0 4) ∧
        exec (.measLogRead r) s = .next (ends s specMeasLogRead r p s1 {
          st := s1, clamps := if u p 4 4 = k then [] else [4]
          payload := le 4 (u p 0 4) ++ le 4 k ++ zeros 8 ++ ((s1.boot.log.drop (u p 0 4)).take k).flatMap measRecord })) ∧
    -- MEAS_EXTEND of one of the host's registers 20 to 23: a record of kind 15
    (Runs s specMeasExtend r p s1 → u p 0 1 ≤ 23 → s1.boot.log.length < 16384 - 64 →
      ∃ v : State, v = extend s1 (u p 0 1) 15 (sub p 16 48) (sub p 64 48) ∧
        exec (.measExtend r) s = .next (ends s specMeasExtend r p s1 {
          st := v, payload := le 4 s1.boot.log.length ++ padTo 48 (at' v.boot.mregs (u p 0 1) []) })) ∧
    -- ATTEST_GET: the report is frozen and waits for its signature
    (Runs s specAttestGet r p s1 → s1.boot.signings.length < 8 →
      ∃ v : State, v = bootCountAt s1 0 0 ∧
        exec (.attestGet r) s = .next (waits s specAttestGet r p s1 .signing (askSigning { v with free := v.free + 1 } {
          transport := 0, src := (asSubmitted r).src, kind := 0, mask := u p 0 4 % 2 ^ 24, nonce := sub p 8 32
          body := reportBody v (u p 0 4 % 2 ^ 24) (sub p 8 32) v.free }))) ∧
    (Runs s specBootStatusGet r p s1 →
      ∃ stages, exec (.bootStatusGet r) s = .next (ends s specBootStatusGet r p s1 { st := s1, payload :=
        (le 4 s1.boot.bootCount ++ le 4 s1.boot.resumeCount ++ stages ++ le 1 s1.boot.copy ++ le 1 s1.boot.attempt ++ le 1 s1.boot.reason ++
          zeros 1 ++ le 4 s1.boot.log.length ++ s1.boot.counters.flatMap fun c => c.flatMap (le 4)) }) ∧ stages.length = 28) ∧
    (Runs s specCertGet r p s1 → u p 0 1 ≤ 1 → certChain s1 (u p 0 1) ≠ [] →
      ∃ part, part = ((certChain s1 (u p 0 1)).drop (u p 4 4)).take (clampTo 1 65536 (u p 8 4)) ∧
        exec (.certGet r) s = .next (ends s specCertGet r p s1 {
          st := s1, clamps := if part.length = u p 8 4 then [] else [8]
          payload := le 4 (certChain s1 (u p 0 1)).length ++ zeros 4 ++ part })) ∧
    -- CERT_SET: slot 1 holds a chain whose leaf key is the identity's, or nothing
    (Runs s specCertSet r p s1 → p = [] ∨ padTo 96 (Config.leafKey p) = identityPublic →
      exec (.certSet r) s = .next (ends s specCertSet r p s1 {
        st := s1.modBoot fun b => { b with chain1 := p }, payload := padTo 48 (Config.sha384 p) })) ∧
    (Runs s specSpdmSet r p s1 →
      ∃ v : State, v = s1.modBoot (fun b => { b with
          spdmFlags := u p 0 1 % 8, tcpPort := clampTo 1 65535 (u p 2 2), spdmSet := true
          pcie := if bit (u p 0 1 % 8) 0 then b.pcie else {}
          tcp := if bit (u p 0 1 % 8) 1 then b.tcp else List.replicate 4 none
          p0 := if bit (u p 0 1 % 8) 2 then b.p0 else {} }) ∧
        exec (.spdmSet r) s = .next (ends s specSpdmSet r p s1 {
          clamps := (clampField 2 1 65535 (u p 2 2)).off
          st := abortSignings v fun g => g.transport ≠ 0 && !bit (u p 0 1 % 8) (g.transport - 1)
          payload := le 1 (u p 0 1 % 8) ++ zeros 1 ++ le 2 (clampTo 1 65535 (u p 2 2)) })) ∧
    -- SPDM over PCIe: GET_VERSION always; a message out of its phase and an unknown code are errors
    (spdmOpen s 1 0 = true →
      exec (.spdmRequest 1 0 .getVersion) s = .next (spdmAnswer (modConn (bootCountAt s 1 0) 1 0 fun c => { c with phase := 1 }) 1 0 .version)) ∧
    (∀ c, spdmOpen s 1 0 = true → exec (.spdmRequest 1 0 (.other c)) s = .next (spdmAnswer (bootCountAt s 1 0) 1 0 (.error 7))) ∧
    (∀ slot nonce, spdmOpen s 1 0 = true → s.boot.pcie.phase < 3 →
      exec (.spdmRequest 1 0 (.challenge slot nonce)) s = .next (spdmAnswer (bootCountAt s 1 0) 1 0 (.error 4))) ∧
    -- the oldest signing ends: the report with its signature is the answer; without an answer of the island, TIMEOUT
    (∀ g gs, s.boot.signings = g :: gs → g.transport = 0 →
      ∃ v : State, v = s.modBoot (fun b => { b with signings := gs }) ∧
        exec (.signingComplete false) s = .next (failWaiting v (some g.src) .signing stTimeout) ∧
        exec (.signingComplete true) s = .next (answerWaiting
          (raiseAttest (bootCountAt { v with free := v.free + 1 } g.transport 1) g.transport g.kind g.slot g.mask g.nonce) (some g.src) .signing
          fun t => { st := t, payload := g.body ++ padTo 96 (Config.ecdsaSign identityKey (Config.sha384 g.body) v.free) })) ∧
    -- a TCP connection takes the first free place of four; a closed one ends its signings
    (∀ i, awake s = true → s.host.ready = true → bit s.boot.spdmFlags 1 = true →
      (List.range 4).find? (fun i => (at' s.boot.tcp i none).isNone) = some i →
      exec (.spdmTcpConnection .opened) s = .next (s.modBoot fun b => { b with tcp := b.tcp.set i (some {}) })) ∧
    (∀ i, exec (.spdmTcpConnection (.closed i)) s =
      .next (abortSignings (s.modBoot fun b => { b with tcp := b.tcp.set i none }) fun g => g.transport == 2 && g.conn == i)) ∧
    (∀ eid, awake s = true → s.host.linkUp = true → s.host.d3hot = false → bit s.boot.spdmFlags 0 = true → 8 ≤ eid → eid ≤ 254 →
      exec (.mctpControl 1 eid) s = .next ((s.modBoot fun b => { b with eid := eid }).modBoot fun b => { b with
        mctpOut := le 1 0 ++ le 1 0 ++ le 1 eid ++ le 1 0 }))

/-! ### Lodestar: group 0x0D and its rows -/

/-- Group 0x0D but PERF_GET and PERF_SET (R631 to R640).
What the spec leaves open follows the model's choice, assumption 34. Tier 1. -/
def Obligations.lodestarCommandsComplete : Prop :=
  ∀ (r : Req) (s s1 : State) (p : List Byte),
    -- LODESTAR_STATUS_GET: core loads are measured, so free values
    (Runs s specLodestarStatusGet r p s1 →
      ∃ loads, loads.length = 4 ∧ exec (.lodestarStatusGet r) s = .next (ends s specLodestarStatusGet r p s1 { st := { s1 with free := s1.free + 1 }, payload :=
        (le 1 (b2n s1.lode.splitMode) ++ le 1 (b2n (at' s1.lode.pairSplit 0 false) + 2 * b2n (at' s1.lode.pairSplit 1 false) +
          4 * b2n s1.lode.testBad + 8 * b2n s1.lode.splitOption + 16 * b2n (s1.pair.barred || bit s1.pair.reasons 5)) ++ zeros 2 ++
        le 4 s1.lode.testFail ++ le 4 (at' s1.lode.lockErrors 0 0) ++ le 4 (at' s1.lode.lockErrors 1 0) ++ le 4 s1.lode.restarts ++
        le 4 s1.lode.eccOk ++ le 4 s1.lode.eccBad ++ le 4 s1.lode.nw.services ++ le 4 s1.lode.logRecords ++ le 4 s1.lode.logLost ++
        le 4 s1.lode.refused ++ loads ++ le 8 s1.mb.uptimeMs) })) ∧
    -- LODESTAR_MODE_SET: in force from the next boot
    (Runs s specLodestarModeSet r p s1 → u p 0 1 ≤ 1 →
      exec (.lodestarModeSet r) s = .next (ends s specLodestarModeSet r p s1 {
        st := s1.modLode fun l => { l with splitOption := u p 0 1 = 1 }, payload := le 1 (u p 0 1) ++ le 1 (b2n s1.lode.splitMode) })) ∧
    (Runs s specSensorGet r p s1 → u p 0 1 ≤ 36 →
      ∃ n rows, n = clampTo 1 (37 - u p 0 1) (u p 1 1) ∧ rows.length = 8 * n ∧
        exec (.sensorGet r) s = .next (ends s specSensorGet r p s1 {
          st := s1, clamps := (clampField 1 1 (37 - u p 0 1) (u p 1 1)).off, payload := le 1 (u p 0 1) ++ le 1 n ++ zeros 2 ++ rows })) ∧
    -- SENSOR_THRESHOLD_SET of a temperature within its range
    (∀ hi lo hy : Int, Runs s specSensorThresholdSet r p s1 → 2 ≤ u p 0 1 → u p 0 1 ≤ 9 → hi = toInt 32 (u p 4 4) → lo = toInt 32 (u p 8 4) →
      hy = toInt 32 (u p 12 4) → hi ≤ 1200 → lo ≤ hi → -440 ≤ lo → 0 ≤ hy → hy ≤ 160 →
      exec (.sensorThresholdSet r) s = .next (ends s specSensorThresholdSet r p s1 {
        st := s1.modLode fun l => { l with cfg := { l.cfg with thresholds := tset l.cfg.thresholds (u p 0 1) ⟨hi, lo, hy⟩ } }
        payload := le 1 (u p 0 1) ++ zeros 3 ++ le 4 (ofInt 32 hi) ++ le 4 (ofInt 32 lo) ++ le 4 (ofInt 32 hy) })) ∧
    (Runs s specNightwatchSet r p s1 →
      ∃ w o, w = clampTo 10 60000 (u p 0 4) ∧ o = clampTo 0 90 (u p 4 1) ∧
        exec (.nightwatchSet r) s = .next (ends s specNightwatchSet r p s1 {
          clamps := (clampField 0 10 60000 (u p 0 4)).off ++ (clampField 4 0 90 (u p 4 1)).off
          st := s1.modLode fun l => { l with cfg := { l.cfg with nw := { windowMs := w, openPct := o } } }
          payload := le 4 w ++ le 1 o ++ zeros 3 ++ le 4 ((s1.lode.nw.start + msCounts s1.lode.nw.window - s1.time.aon) / 625000) })) ∧
    -- LOG_READ of an empty log
    (Runs s specLogRead r p s1 → (∀ b, b ∈ s1.lode.blocks → b.records = []) →
      exec (.logRead r) s = .next (ends s specLogRead r p s1 {
        st := s1, clamps := (clampField 4 1 129024 (u p 4 4)).off
        payload := le 4 s1.lode.logSeq ++ le 4 0 ++ le 4 s1.lode.logSeq ++ le 4 ((s1.lode.logSeq + 2 ^ 32 - 1) % 2 ^ 32) })) ∧
    (Runs s specLogSet r p s1 →
      exec (.logSet r) s = .next (ends s specLogSet r p s1 {
        clamps := (clampField 0 0 7 (u p 0 1)).off, payload := le 1 (clampTo 0 7 (u p 0 1))
        st := s1.modLode fun l => { l with cfg := { l.cfg with logMinSev := clampTo 0 7 (u p 0 1) } } })) ∧
    (Runs s specMemportSet r p s1 → u p 0 1 ≤ 11 →
      exec (.memportSet r) s = .next (ends s specMemportSet r p s1 {
        clamps := (clampField 1 0 3 (u p 1 1)).off ++ (clampField 2 1 255 (u p 2 1)).off
        st := s1.modLode fun l => { l with cfg := { l.cfg with
          shares := l.cfg.shares.set (u p 0 1) ⟨clampTo 0 3 (u p 1 1), clampTo 1 255 (u p 2 1)⟩ } }
        payload := le 1 (u p 0 1) ++ le 1 (clampTo 0 3 (u p 1 1)) ++ le 1 (clampTo 1 255 (u p 2 1)) })) ∧
    (Runs s specMemportGet r p s1 →
      ∃ rows, rows.length = 240 ∧ exec (.memportGet r) s = .next (ends s specMemportGet r p s1 { payload := rows, st :=
        (if bit (u p 0 1) 0 then s1.modLode fun l => { l with shares := l.shares.map fun x => { wait := x.wait, peak := x.wait } } else s1) })) ∧
    (Runs s specPortBwGet r p s1 →
      exec (.portBwGet r) s = .next (ends s specPortBwGet r p s1 { st := s1, payload :=
        (le 4 s1.host.bwSeq ++ le 4 s1.host.bwWindowMs ++ (List.range 34).flatMap fun p =>
          le 8 (at' s1.host.bw p {}).lastOut.bytes ++ le 4 (at' s1.host.bw p {}).lastOut.frames ++ le 8 (at' s1.host.bw p {}).lastIn.bytes ++
            le 4 (at' s1.host.bw p {}).lastIn.frames) }))

/-- Rows of Lodestar and the bus engines (R85, R429, R605 to R624, R656).
What the spec leaves open follows the model's choice, assumptions 2 and 34. Tier 1. -/
def Obligations.lodestarRowsComplete : Prop :=
  ∀ (s : State),
    -- lockstep: a mismatch of a comparing pair is a health check failed
    (∀ k g w, k ≤ 1 → g ≤ 8 → comparing s k = true → exec (.lockstepMismatch k g w) s = .next (failHealth (lockstepError s k g w) 0)) ∧
    (∀ m q a o, awake s = true → m ≤ 2 → q ≤ 11 → exec (.lodestarEccError m q a o false) s = .next (eccError s m q a o false)) ∧
    (∀ m q a o, awake s = true → m ≤ 2 → q ≤ 11 → exec (.lodestarEccError m q a o true) s = .next (failHealth (eccError s m q a o true) 4)) ∧
    (∀ x b, s.lode.restart = some x →
      ∃ v : State, v = adoptSettings (loaderRestarts (lodestarBack s b x) 2) ∧
        exec (.lodestarRestartDone b true) s = .next (failHealth (verifyCopy v 2 true) 1) ∧
        exec (.lodestarRestartDone b false) s = .next (verifyCopy v 2 false)) ∧
    (∀ e ecc, canRestart s e = true → exec (.beWatchdog e ecc) s = .next (failHealth (stampChans s (beginRestart s e (b2n ecc))) 2)) ∧
    (∀ e ms lv ok, e ≤ 3 → (engine s e).restart.isSome = true → handingOver s e = false →
      exec (.beRestartDone e ms lv ok) s = .next (verifyCopy (restartDone s e ms lv) (3 + e) ok)) ∧
    -- debug: an attach is refused and counted in DEPLOYED and RETIRED; a detach ends the session
    (∀ k, k ≤ 1 → awake s = true → s.lifecycle = 2 ∨ s.lifecycle = 4 →
      exec (.debugAttach k) s = .next (s.modLode fun l => { l with refused := satAdd 32 l.refused 1 })) ∧
    (∀ k, exec (.debugDetach k) s = .next (s.modLode fun l => { l with attached := l.attached.set k false })) ∧
    -- the memory port: no requester leaves it free; the granted one opens its burst, those that wait count one more
    (∀ m a, awake s = true → memGrant s m = none → exec (.memportBurstBoundary m a) s = .next (s.modLode fun l => { l with burst := none })) ∧
    (∀ m a q, awake s = true → memGrant s m = some (q, false) →
      exec (.memportBurstBoundary m a) s = .next (perfCount (perfCount (s.modLode fun l => { l with
        burst := some (q, s.now, a), lastGrant := q
        shares := (List.range 12).map fun k =>
          if k = q then { at' l.shares k {} with wait := 0, bursts := wrapAdd 64 (at' l.shares k {}).bursts 1 }
          else if bit m k then { at' l.shares k {} with
            wait := satAdd 16 (at' l.shares k {}).wait 1, peak := max (at' l.shares k {}).peak (satAdd 16 (at' l.shares k {}).wait 1) }
          else at' l.shares k {} }) 0x70 1) (0x100 + q) 1)) ∧
    -- a sensor without thresholds: its sample is kept, and the input voltage goes to the power controller
    (∀ v, awake s = true →
      exec (.sensorSample 32 v) s = .next ((s.modLode fun l => { l with samples := tset l.samples 32 v }).modPow fun p => { p with inputMv := v.toNat })) ∧
    (∀ dw v1 v2, s.power.on = true → s.power.state = 0 → s.power.pfail = false → flashWriting s = false → v2 < v1 →
      exec (.holdupCapMeasure dw v1 v2) s = .next (s.modLode fun l => { l with
        samples := tset l.samples 35 ((dw * 40000000000 / (88 * (v1 * v1 - v2 * v2)) : Nat) : Int) })) ∧
    (s.power.on = true → s.power.state ≤ 1 → s.power.pfail = false → exec .logRecordProgram s = .next (programOne s))

/-! ### Updates: group 0x0E and its rows -/

/-- Group 0x0E (R663 to R670) and the rows of the update engine (R648, R652 to R658).
What the spec leaves open follows the model's choice, assumptions 4 and 36. Tier 1. -/
def Obligations.updateComplete : Prop :=
  ∀ (r : Req) (s s1 : State) (p : List Byte),
    (Runs s specUpdateStatusGet r p s1 →
      ∃ payload, payload.take 4 = le 1 s1.upd.stage ++ le 1 s1.upd.kind ++ le 1 s1.upd.attempt ++
          le 1 (b2n s1.upd.params.auto + 2 * b2n s1.upd.resident + 4 * b2n s1.upd.eraseDue) ∧
        exec (.updateStatusGet r) s = .next (ends s specUpdateStatusGet r p s1 { st := s1, payload := payload })) ∧
    -- UPDATE_BEGIN of another package than the one staged: a new download
    (Runs s specUpdateBegin r p s1 → 1088 ≤ u p 48 4 → u p 48 4 ≤ 67043328 → s1.upd.stage ≤ 3 → sub p 0 48 ≠ s1.upd.digest →
      ∃ v : State, v = newDownload s1 (sub p 0 48) (u p 48 4) ∧
        exec (.updateBegin r) s = .next (ends s specUpdateBegin r p s1 { st := v, payload :=
          (le 1 v.upd.stage ++ zeros 3 ++ le 4 (pkgBlocks (u p 48 4)) ++ le 4 (firstMissing v) ++ le 4 (missingList v).length) })) ∧
    -- UPDATE_BLOCK: a block the staging area holds is answered at once; a missing one waits for its programming
    (Runs s specUpdateBlock r p s1 → s1.upd.stage = 1 ∨ s1.upd.stage = 2 → u p 0 4 < pkgBlocks s1.upd.len → (asSubmitted r).length = 16 →
      bit (asSubmitted r).flags 1 = true → (p.drop 16).length = pkgBlockLen s1.upd.len (u p 0 4) → crc32c (p.drop 16) = u p 4 4 →
      (bit s1.upd.missing (u p 0 4) = false →
        exec (.updateBlock r) s = .next (ends s specUpdateBlock r p s1 { st := s1, payload := blockAnswer s1 (u p 0 4) })) ∧
      (bit s1.upd.missing (u p 0 4) = true → s1.upd.toErase.contains (u p 0 4) = true →
        exec (.updateBlock r) s = .next (waits s specUpdateBlock r p s1 .flash (s1.modUpd fun x => { x with
          write := { index := u p 0 4, crc := u p 4 4, data := p.drop 16, src := (asSubmitted r).src } :: x.write })))) ∧
    -- UPDATE_VERIFY answers what the checks of R650 find. Whether a signature verifies is open in this model (assumption 4): both answers are stated
    (Runs s specUpdateVerify r p s1 → s1.upd.stage = 2 →
      ∃ plan k, plan = changedBlocks s1 (stagedPackage s1) ∧ k = (if nextReset (stagedPackage s1) then 1 else 0) ∧
        exec (.updateVerify r) s = .next (match verifyBad s1 (stagedPackage s1) with
          | none => ends s specUpdateVerify r p s1 {
              st := setStage (s1.modUpd fun x => { x with kind := k, units := unitSet (stagedPackage s1), plan := plan }) 3
              payload := le 1 k ++ le 1 (unitSet (stagedPackage s1) / 2 % 256) ++ le 2 plan.length ++ le 4 (212 * plan.length) }
          | some (reason, unit, sec, least) => finish
              (raise s1 0xD2 4 noLevel (srcId 0xF 4) (le 1 reason ++ le 1 unit ++ zeros 2 ++ le 4 sec ++ le 4 least ++
                le 4 (if reason = 6 then plan.length else 0)))
              (heldCmd s specUpdateVerify r p) { level := specUpdateVerify.level, status := stPolicy, detail := noDetail } [] false)) ∧
    (Runs s specUpdateActivate r p s1 → s1.upd.stage = 3 → s1.power.state = 0 → s1.upd.eraseDue = false →
      exec (.updateActivate r) s = .next (ends s specUpdateActivate r p s1 {
        st := setStage ((pinSettings s1).modUpd fun x => { x with
          entries := [], step := if x.plan.isEmpty then 4 else 0, attempt := 0, resetAfter := bit (u p 0 1) 0 }) 4
        payload := le 1 s1.upd.kind ++ zeros 1 ++ le 2 s1.upd.plan.length })) ∧
    (Runs s specUpdateConfirm r p s1 → s1.upd.stage = 6 →
      exec (.updateConfirm r) s = .next (ends s specUpdateConfirm r p s1 { st := confirmImage s1 0, payload := le 2 s1.upd.units })) ∧
    -- UPDATE_ABORT of a download; of an unconfirmed image, which falls back after the completion
    (Runs s specUpdateAbort r p s1 → u p 0 1 = 0 → 1 ≤ s1.upd.stage → s1.upd.stage ≤ 3 →
      exec (.updateAbort r) s = .next (ends s specUpdateAbort r p s1 {
        payload := le 1 0
        st := (setStage (failWrites s1) 0).modUpd fun x => { x with
          digest := zeros 48, len := 0, missing := 0, staged := [], toErase := List.range 1023, tries := [], kind := 0xFF, units := 0, plan := [] } })) ∧
    (Runs s specUpdateAbort r p s1 → u p 0 1 = 1 → s1.upd.stage = 6 →
      exec (.updateAbort r) s = .next (ends s specUpdateAbort r p s1 { st := s1, payload := le 1 1, after := fun t => fallBack t 3 0xFF })) ∧
    (Runs s specUpdateParamsSet r p s1 →
      ∃ h t, h = clampTo 30 3600 (u p 0 2) ∧ t = clampTo 10 (h - 10) (u p 2 2) ∧
        exec (.updateParamsSet r) s = .next (ends s specUpdateParamsSet r p s1 {
          clamps := (clampField 0 30 3600 (u p 0 2)).off ++ (clampField 2 10 (h - 10) (u p 2 2)).off
          st := s1.modUpd fun x => { x with params := { healthS := h, settleS := t, auto := u p 4 1 % 2 = 1 } }
          payload := le 2 h ++ le 2 t ++ le 1 (u p 4 1 % 2) ++ zeros 3 })) ∧
    -- the rows: the oldest background erase; a block programmed and read back well; the health window; the settle time; the journal
    (∀ i rest, awake s = true → s.power.pfail = false → s.upd.toErase = i :: rest → (∀ w, w ∈ s.upd.write → w.index ≠ i) →
      exec .stagingEraseDone s = .next (s.modUpd fun x => { x with toErase := rest })) ∧
    (∀ w good, awake s = true → s.power.pfail = false → s.lode.restart = none → writing s = some w →
      exec (.pageProgramDone good) s = .next (blockWritten s w good)) ∧
    (s.upd.stage = 6 → s.upd.winOn = true →
      exec .healthWindowExpiry s = .next (fallBack (s.later (s.upd.winAt + s.upd.winLeft - s.time.aon)) 1 0xFF)) ∧
    (s.upd.stage = 6 → s.upd.winOn = true → s.upd.params.auto = true → s.host.ready = true → s.host.bundleOk = true →
      secCounts s.upd.params.settleS ≤ s.upd.winLeft →
      exec .settleTimer s = .next (confirmImage (s.later (s.upd.winAt + secCounts s.upd.params.settleS - s.time.aon)) 1)) ∧
    (awake s = true → s.power.pfail = false → exec .journalEraseDone s = .next (s.modUpd fun x => { x with eraseDue := false }))

/-! ### Pairing, TTDP and MRP: group 0x0F and its rows -/

/-- Group 0x0F (R699 to R706).
What the spec leaves open follows the model's choice, assumption 30. Tier 1. -/
def Obligations.pairCommandsComplete : Prop :=
  ∀ (r : Req) (s s1 : State) (p : List Byte),
    (∀ h, Runs s specPairStatusGet r p s1 → s1.pair.partner = some h →
      exec (.pairStatusGet r) s = .next (ends s specPairStatusGet r p s1 { st := s1, payload :=
        (le 1 s1.pair.role ++ le 1 (pairState s1.pair) ++ le 1 (lanes s1) ++ le 1 h.rev ++ le 4 s1.pair.reasons ++ le 8 h.serial ++ le 4 h.ikiora ++
          le 1 h.role ++ le 1 (b2n (bit s1.pair.reasons 5) + 2 * b2n s1.pair.apart + 4 * b2n s1.pair.lastLate) ++ le 2 h.copyFmt ++
          le 8 (ofInt 64 s1.pair.diffNs) ++ le 4 s1.pair.compared ++ le 4 s1.pair.copyBytes ++ le 8 s1.pair.since) })) ∧
    (Runs s specPairStatusGet r p s1 → s1.pair.partner = none →
      ∃ payload, payload.length = 48 ∧ exec (.pairStatusGet r) s = .next (ends s specPairStatusGet r p s1 { st := s1, payload := payload })) ∧
    -- PAIR_SET that disables pairing, without a heartbeat on a bus
    (Runs s specPairSet r p s1 → u p 0 1 = 0 → u p 4 1 = 0xFF → u p 5 1 = 0xFF → u p 6 2 ≤ 4095 →
      ∃ payload cs, ∃ (c : PairCfg) (v : State), c = {
          enable := false, priority := u p 1 1, flags := u p 2 1 % 4, hbMiss := clampTo 1 8 (u p 3 1), hbCan := 0xFF, hbMvb := 0xFF
          hbMvbPort := u p 6 2, hbCanId := u p 8 4, resendUs := clampTo 10 1000 (u p 12 2) } ∧
        v = s1.modPair (fun x => { x with cfg := { x.cfg with pair := c } }) ∧
        (copyOver v s1.ep.cur.gw = false → exec (.pairSet r) s = .next (ends s specPairSet r p s1 { payload := payload, clamps := cs, st :=
          (stampPair s1 (if s1.pairCfg.enable = false then v else setPairing v false)) }))) ∧
    -- PAIR_SWITCH by the Primary whose Companion reports no reason against it
    (∀ h, Runs s specPairSwitch r p s1 → u p 0 4 = 0x96005A17 → s1.pair.role = 1 → s1.pair.link = true → s1.pair.partner = some h → h.role = 2 →
      h.reasons = 0 →
      ∃ k, k = wrapAdd 32 s1.gw.cycle 1 ∧ exec (.pairSwitch r) s = .next (ends s specPairSwitch r p s1 {
        st := sendPosted (s1.modPair fun x => { x with switching := some k }) 2 k (.switchOver k), payload := le 4 k })) ∧
    (Runs s specPairCountersGet r p s1 → u p 0 1 ≤ 1 → u p 2 1 = 0 →
      exec (.pairCountersGet r) s = .next (ends s specPairCountersGet r p s1 {
        payload := le 1 (u p 0 1) ++ le 1 (u p 1 1) ++ le 1 0 ++ zeros 5 ++
          ((at' s1.pair.counters (u p 0 1) []).zip (pairWidths (u p 0 1))).flatMap fun x => le (x.2 / 8) x.1
        st := if bit (u p 1 1) 0 then
          s1.modPair (fun x => { x with counters := x.counters.modify (u p 0 1) fun c => c.map fun _ => 0 }) else s1 })) ∧
    (Runs s specTtdpSet r p s1 → u p 0 1 = 0 → u p 1 1 ≤ 15 → u p 2 1 ≤ 15 → setInter (u p 1 1) (u p 2 1) = 0 →
      (bitList 4 (u p 1 1)).length ≤ 2 → (bitList 4 (u p 2 1)).length ≤ 2 →
      ∃ payload cs, ∃ c : TtdpCfg, c = {
          enable := false, dir1 := u p 1 1, dir2 := u p 2 1, fastMs := clampTo 5 100 (u p 4 2), slowMs := clampTo 50 1000 (u p 6 2), uuid := sub p 8 16 } ∧
        exec (.ttdpSet r) s = .next (ends s specTtdpSet r p s1 { payload := payload, clamps := cs, st :=
          (zenithRecheck (s1.modPair fun x => { x with
            cfg := { x.cfg with ttdp := c }, ttdp := { state := 0, since := s1.now, topo := x.ttdp.topo } })) })) ∧
    (Runs s specTtdpStatusGet r p s1 →
      exec (.ttdpStatusGet r) s = .next (ends s specTtdpStatusGet r p s1 { st := s1, payload :=
        (le 1 s1.pair.ttdp.state ++ le 1 s1.pair.ttdp.etbn ++ le 1 s1.pair.ttdp.count ++ le 1 s1.pair.ttdp.etb ++ le 4 s1.pair.ttdp.topo ++
          le 1 (at' s1.pair.ttdp.lines 0 0) ++ le 1 (at' s1.pair.ttdp.lines 1 0) ++ zeros 2 ++ le 4 s1.pair.ttdp.ipv4 ++
          le 8 s1.pair.ttdp.since) })) ∧
    -- MRP_SET that disables a ring
    (Runs s specMrpSet r p s1 → u p 0 1 ≤ 1 → u p 1 1 = 0 → u p 2 1 ≤ 1 → u p 3 1 ≤ 2 → u p 4 1 ≤ 3 → u p 5 1 ≤ 3 → u p 6 2 ≤ 4094 →
      u p 4 1 ≠ u p 5 1 →
      exec (.mrpSet r) s = .next (ends s specMrpSet r p s1 { payload := padTo 24 p, st :=
        (zenithRecheck (s1.modPair fun y => { y with
          cfg := { y.cfg with mrp := y.cfg.mrp.set (u p 0 1) {
            enable := false, role := u p 2 1, profile := u p 3 1, port1 := u p 4 1, port2 := u p 5 1, vid := u p 6 2, uuid := sub p 8 16 } }
          mrp := y.mrp.set (u p 0 1) { state := 0, blocked2 := false, since := s1.now, lastTx := s1.now } })) })) ∧
    (Runs s specMrpStatusGet r p s1 → u p 0 1 ≤ 1 →
      ∃ a b c, exec (.mrpStatusGet r) s = .next (ends s specMrpStatusGet r p s1 { st := s1, payload :=
        (le 1 (u p 0 1) ++ le 1 (mrpCfg s1 (u p 0 1)).role ++ le 1 a ++ le 1 b ++ le 1 c ++ zeros 3 ++ le 8 (mrpRun s1 (u p 0 1)).since) }) ∧
        ((mrpCfg s1 (u p 0 1)).enable = false → a = 0))

/-- Rows of the pair link, comparison, TTDP and MRP (R676 to R696): each in the state it is for.
What the spec leaves open follows the model's choice, assumptions 2 and 30. Tier 1. -/
def Obligations.pairRowsComplete : Prop :=
  ∀ (s : State),
    -- a pair block with a bad CRC is counted and answered by a negative acknowledgement
    (∀ b icv d, s.pairCfg.enable = true → awake s = true → portUp s 32 = true → p0Secured s = true →
      exec (.pairBlockRx b false icv d) s = .next (pairSettled s (sendOther (pairCount s 0 5 1)))) ∧
    (s.pair.link = true → s.pair.unacked ≠ [] →
      exec .pairResendTimer s = .next (pairSettled s (resendBlocks (s.until (s.pair.ackAt + s.pairCfg.resendUs * 1000))))) ∧
    (s.pair.link = true → exec .pairIdleTimer s = .next (pairSettled s (sendOther (s.until (s.pair.txAt + 20000))))) ∧
    (s.pair.link = true → exec .pairLinkTimeout s = .next (pairSettled s (pairLost (s.until (s.pair.rxAt + 200000)) 0))) ∧
    (s.pair.link = true → exec .pairHelloTimer s = .next (pairSettled s (sendHello (s.until (s.pair.helloAt + secondNs))))) ∧
    -- a lane fails, with the other still used or not; both lanes return
    (∀ l, l ≤ 1 → portUp s 32 = true → at' s.pair.laneUp l true = true →
      ∃ v : State, v = s.modPair (fun p => { p with laneUp := p.laneUp.set l false }) ∧
        exec (.laneFailure l) s = .next (pairSettled s (if lanes v = 0 then pairLost v 2 else resendBlocks (raisePairLink v 2 0)))) ∧
    (∀ l, l ≤ 1 → portUp s 32 = true → at' s.pair.laneUp l true = false →
      ∃ v : State, v = s.modPair (fun p => { p with laneUp := p.laneUp.set l true }) ∧
        exec (.laneRecovery l) s = .next (pairSettled s (if lanes v = 2 then raisePairLink v 3 0 else v))) ∧
    -- the Companion compares a complete copy: equal lists; lists of another format
    (∀ c own, s.pair.copy = some c → s.pair.role = 2 → c.copyFmt = 1 → c.digest = own.digest →
      s.gw.history.find? (fun x => x.cycle == c.cycle) = some own → s.now ≤ own.mark + s.gw.grid.1 * 1000 + s.gw.grid.1 * 500 →
      firstDiff own.listed c.outs 0 = none → exec .cycleCopyComplete s = .next (pairSettled s (copyEqual s c))) ∧
    (∀ c, s.pair.copy = some c → s.pair.role = 2 → c.copyFmt ≠ 1 →
      exec .cycleCopyComplete s = .next (pairSettled s (setReason (s.modPair fun p => { p with copy := none }) 3 true))) ∧
    (∀ own rest, s.pair.link = true → s.pair.role = 2 → gatewayOn s = true → s.gw.history = own :: rest → s.pair.compared ≠ own.cycle →
      s.pair.mismatch = none →
      exec .copyDeadline s = .next (pairSettled s (copyLate (s.until (own.mark + s.gw.grid.1 * 1500))))) ∧
    -- the Primary's own re-execution agrees and its partner's differs: attributed to the Companion (result 1)
    (∀ cyc x3, s.pair.link = true → s.pair.role = 1 →
      exec (.reexecutionResult cyc false true x3) s = .next (pairSettled s ((raiseMismatch (s.modPair fun p => { p with mismatch := none })
        (s.pair.mismatch.getD (cyc % 2 ^ 32, 0xFFFF, 0)) 1).modPair fun p => { p with copy := none }))) ∧
    (s.pair.watch = true → s.pair.role = 2 → watchable s = true → s.pairCfg.hbMiss ≤ s.pair.hbMissed →
      exec .heartbeatAbsent s = .next (pairSettled s (s.modPair fun p => { p with takeover := some 1 }))) ∧
    -- TTDP: a HELLO on a line already known, a topology, the HELLO timer, a line that falls silent
    (∀ port d l, ttdpPlace s port = some (d, l) → s.pair.cfg.ttdp.enable = true → awake s = true → portUp s port = true →
      (∀ etbn n etb topo ip, exec (.ttdpHelloRx port (.topology etbn n etb topo ip)) s = .next (zenithRecheck (raiseTtdp (pairCount (modTtdp s fun t => { t with
        state := 2, etbn := etbn % 256, count := n % 256, etb := etb % 256, topo := topo % 2 ^ 32, ipv4 := ip % 2 ^ 32, since := s.now }) 1 2 1) 0 d)))) ∧
    (s.pair.cfg.ttdp.enable = true → awake s = true →
      ∃ v : State, v = s.until (s.pair.ttdp.lastTx + helloPeriod s) ∧
        exec .ttdpHelloTimer s = .next (pairCount (modTtdp v fun t => { t with lastTx := v.now }) 1 0 ((ttdpPorts s).filter (portUp s)).length)) ∧
    (∀ port t d l, tget s.pair.ttdp.heard port = some t → ttdpPlace s port = some (d, l) → s.pair.cfg.ttdp.enable = true → awake s = true →
      ∃ v n, v = modTtdp (s.until (t + 3 * helloPeriod s)) (fun t => { t with heard := tdel t.heard port }) ∧
        n = withBit (at' v.pair.ttdp.lines d 0) l false ∧
        exec (.ttdpHelloTimeout port) s = .next (zenithRecheck (if n = at' v.pair.ttdp.lines d 0 then v else setLines v d n))) ∧
    -- MRP: the manager's test frame came back; a topology change flushes the ring's ports; a link-down opens the ring
    (∀ r, r ≤ 1 → (mrpCfg s r).enable = true → (mrpCfg s r).role = 1 → awake s = true →
      ∃ v : State, v = s.until ((mrpRun s r).lastTx + mrpTestNs (mrpCfg s r).profile) ∧
        exec (.mrpTestTimer r true) s = .next (ringCloses (pairCount (pairCount (modMrp v r fun x => { x with lastTx := v.now, missed := 0 }) (2 + r) 0 2)
          (2 + r) 1 1) r)) ∧
    (∀ r, r ≤ 1 → (mrpCfg s r).enable = true → awake s = true → portUp s (mrpCfg s r).port1 = true →
      exec (.mrpFrameRx r (mrpCfg s r).port1 .topologyChange) s =
        .next (raiseMrp (flushRing (pairCount s (2 + r) 4 1) r) r 2 (mrpCfg s r).port1 0) ∧
      ((mrpCfg s r).role = 1 → exec (.mrpFrameRx r (mrpCfg s r).port1 .linkDown) s = .next (ringOpens s r (mrpCfg s r).port1)))

/-! ### Rows of the ingress pipeline and Horizon -/

/-- Frames at ports, recirculation, stream gates, FRER and the sessions of Horizon (R183 to R212, R249 to R264): each row in the state it is
for.
What the spec leaves open follows the model's choice, assumptions 10, 12 and 39. Tier 1. -/
def Obligations.ingressRowsComplete : Prop :=
  ∀ (s : State),
    -- a whole frame at a port that is UP, and one that MACsec does not take is received; one frame whose head only has come
    (∀ p w, awake s = true → p ≤ 32 → portUp s p = true → (portRun s p).rx = none → macTaken s p w = false → conBlocked s p = none →
      (macHead s p w).2 = true → exec (.frameArrival p w true) s = .next (receiveWhole (macHead s p w).1 p w)) ∧
    (∀ p w, awake s = true → p ≤ 32 → portUp s p = true → (portRun s p).rx = none → macTaken s p w = true →
      exec (.frameArrival p w true) s = .next (discardedEnd s p w) ∧
      exec (.frameArrival p w false) s = .next (modPort s p fun r => { r with rx := some { wire := w, held := true, gone := true } })) ∧
    -- the oldest message of the engines enters at FP13 (point 34); a frame of the module itself at FP14 (point 35)
    (∀ w c m, gatewayOn s = true → oldestMsg s = some m →
      exec (.frameArrival 34 w c) s = .next (enterPipeline
        (perfCount (modEngine s (engineOf m.chan) fun e => { e with fifo := e.fifo.erase m }) 0x061 1) 34 none
        { data := carriageFrame m s.gw.cycle } true false).1) ∧
    (∀ w c, awake s = true →
      exec (.frameArrival 35 w c) s = .next (enterPipeline s 35 none { w with fcsOk := true, icvOk := true } true false).1) ∧
    -- the end of a frame: discarded by MACsec at its head; one whose head went into the pipeline is judged
    (∀ p x, p ≤ 32 → (portRun s p).rx = some x → x.gone = true →
      exec (.frameEnd p) s = .next (discardedEnd (modPort s p fun r => { r with rx := none }) p x.wire)) ∧
    (∀ p x, p ≤ 32 → (portRun s p).rx = some x → x.gone = false → x.held = false →
      exec (.frameEnd p) s = .next (judgeEnd (modPort s p fun r => { r with rx := none }) p x)) ∧
    -- a mirror copy re-enters at FP15 and goes to the fabric
    (∀ f fs k, s.fab.recirc = f :: fs → f.mirrorOf = some k →
      exec .recirculationEntry s = .next (enterFabric { f with id := s.fab.nextId, point := 36, txRing := none } true
        (perfCount (perfCount (ingCount (s.modFab fun b => { b with recirc := fs, nextId := b.nextId + 1 }) 5 36 0 1) 0x002 1) (0x280 + 36) 1))) ∧
    -- FDB aging: a bucket keeps the learnt entries younger than AGING_S of their domain
    (∀ b keep, tgetD s.ing.learnt b [] ≠ [] →
      keep = (tgetD s.ing.learnt b []).filter (fun x => s.now < x.stamp + (domParams s.it x.domain).agingS * secondNs) →
      exec (.fdbAging b) s = .next (s.modIng fun i => { i with
        learnt := if keep.isEmpty then tdel i.learnt b else tset i.learnt b keep })) ∧
    -- stream gates: the next entry with its octets anew; the pending list
    (∀ g l, (tgetD s.ing.gates g {}).list = some l →
      ∃ v : State, v = s.until (gateNextBoundary l (tgetD s.ing.gates g {}) s.now) ∧
        exec (.streamGateEntryBoundary g) s = .next (v.modIng fun i => { i with gates := tset i.gates g { tgetD s.ing.gates g {} with
          index := gateIndexAt l (tgetD s.ing.gates g {}).start v.now, octets := 0 } })) ∧
    (∀ g x, (tgetD s.ing.gates g {}).pending = some x → exec (.streamGateListChange g) s = .next (startGateList (s.until x.1) g)) ∧
    -- FRER: the history resets after RESET_MS, reported in FRER_RESET; a latent period without a latent error counts anew
    (∀ i c, tget s.it.recovery i = some c → (tgetD s.ing.recovery i {}).takeAny = false →
      ∃ v : State, v = resetHistory (s.until ((tgetD s.ing.recovery i {}).lastPass + c.resetMs * 1000000)) i ∧
        exec (.frerResetTimeout i) s = .next (raiseSampled v 0x26 2 2 (recoverySource s.it i) fun n =>
          le 2 i ++ le 1 0 ++ zeros 1 ++ le 2 (tgetD s.ing.recovery i {}).lastSeq ++ zeros 2 ++ le 4 (at' (ingCtr v 2 i) 5 0) ++ le 4 n)) ∧
    (∀ i c, tget s.it.recovery i = some c → bit c.flags 1 = true →
      (((c.paths - 1) * (tgetD s.ing.recovery i {}).perPassed : Nat) - ((tgetD s.ing.recovery i {}).perDup : Int)).natAbs ≤ c.latentDiff →
      exec (.frerLatentPeriod i) s = .next (s.modIng fun x => { x with
        recovery := tset x.recovery i { tgetD s.ing.recovery i {} with perPassed := 0, perDup := 0 } })) ∧
    -- Horizon: a pending session is written on-die; a moved one is spilled into a store that holds others; a session times out
    (∀ x xs, s.hor.pending = x :: xs →
      exec .sessionInsertWrite s = .next (s.modHor fun h => { h with pending := xs, sessions := tset h.sessions x.index x })) ∧
    (∀ x xs, s.hor.spillBuf = x :: xs → s.hor.spilled ≠ [] → s.hor.spilled.length < 1048576 →
      ∃ slot, exec .spillWrite s = .next (s.modHor fun h => { h with spillBuf := xs, spilled := tset h.spilled slot x }) ∧
        (thas s.hor.spilled slot = false ∨ slot = 0)) ∧
    (∀ i x, tget s.hor.sessions i = some x → sessTimedOut s x = true →
      exec (.sessionAgingSweep false i) s = .next (horCount (s.modHor fun h => { h with sessions := tdel h.sessions i }) 3 0 1 1)) ∧
    (∀ i x, tget s.hor.sessions i = some x → sessTimedOut s x = false → exec (.sessionAgingSweep false i) s = .next s) ∧
    -- a frame whose key the store does not hold re-enters as a miss
    (∀ f fs w, s.hor.restore = f :: fs → flowOf f = some w →
      s.hor.spilled.find? (fun e => sameKey f.domain w e.2) = none → s.hor.spillBuf.find? (sameKey f.domain w) = none →
      exec .restoreComplete s = .next ((s.modHor fun h => { h with restore := fs }).modFab fun b => { b with recirc := b.recirc ++ [f] })) ∧
    -- Ikiora's handler 0 logs the frame of the exception queue; the overload ends
    (∀ x xs, s.hor.excQueue = x :: xs → s.host.ready = true → x.handler = 0 →
      exec .exceptionHandler s = .next (logException (countOut (s.modHor fun h => { h with excQueue := xs }) x.frame.epoch) x.rule)) ∧
    (s.hor.excOver = true → exec .exceptionDropEnd s = .next ((raiseOverload s 1).modHor fun h => { h with excOver := false })) ∧
    -- the revocation sweep: the next old session still permitted keeps its place; one that is not goes; with none left it ends
    (∀ i e y, s.ep.sweep = some i → s.hor.sessions.find? (fun e => i ≤ e.1 && e.2.epoch != s.ep.epoch) = some e → revalidate s e.2 = some y →
      exec .revocationSweepVisit s = .next ({ s with ep := { s.ep with sweep := some (e.1 + 1) } }.modHor fun h => { h with
        sessions := tset h.sessions e.1 y })) ∧
    (∀ i e, s.ep.sweep = some i → s.hor.sessions.find? (fun e => i ≤ e.1 && e.2.epoch != s.ep.epoch) = some e → revalidate s e.2 = none →
      exec .revocationSweepVisit s = .next (horCount ({ s with ep := { s.ep with sweep := some (e.1 + 1) } }.modHor fun h => { h with
        sessions := tdel h.sessions e.1 }) 3 0 5 1)) ∧
    (∀ i, s.ep.sweep = some i → s.hor.sessions.find? (fun e => i ≤ e.1 && e.2.epoch != s.ep.epoch) = none →
      exec .revocationSweepVisit s = .next { s with ep := { s.ep with sweep := none } })

/-! ### Rows of the fabric and of egress -/

/-- Cells, replay, reassembly, residency, modes, admission and transmission (R282 to R314, R334, R335): each row in the state it is for.
What the spec leaves open follows the model's choice, assumptions 2, 13 and 40. Tier 1. -/
def Obligations.fabricRowsComplete : Prop :=
  ∀ (s : State),
    -- a resent cell that is sound is accepted; a cell whose CRC fails is kept for its replay; resent again and bad, it is lost
    (∀ st a b c rest, st ≤ 1 → a ≤ 15 → b ≤ 15 → awake s = true → (tgetD s.fab.links (linkKey st a b) {}).resend = c :: rest →
      ∃ k l, k = linkKey st a b ∧ l = tgetD s.fab.links k {} ∧
        exec (.cellReceive st a b true) s = .next (acceptCell (s.modFab fun f => { f with
          links := tset f.links k { l with resend := rest, lseq := wrapAdd 8 l.lseq 1 } }) st b c) ∧
        (c.again = false → exec (.cellReceive st a b false) s = .next (s.modFab fun f => { f with
          links := tset f.links k { l with resend := [], lost := c :: rest, lseq := wrapAdd 8 l.lseq 1 } }))) ∧
    (∀ st a b c v, st ≤ 1 → a ≤ 15 → b ≤ 15 → awake s = true → (tgetD s.fab.links (linkKey st a b) {}).resend = [] →
      (tgetD s.fab.links (linkKey st a b) {}).lost = [] → takeCell s st a b = some (c, v) →
      ∃ k l, k = linkKey st a b ∧ l = tgetD s.fab.links k {} ∧
        exec (.cellReceive st a b true) s = .next (acceptCell (v.modFab fun f => { f with
          links := tset f.links k { l with lseq := wrapAdd 8 l.lseq 1 } }) st b c) ∧
        exec (.cellReceive st a b false) s = .next (v.modFab fun f => { f with
          links := tset f.links k { l with lost := [c], lseq := wrapAdd 8 l.lseq 1 } })) ∧
    (∀ a b c cs, a ≤ 15 → b ≤ 15 → (tgetD s.fab.links (linkKey 0 a b) {}).lost = c :: cs →
      exec (.replayRejection 0 a b) s = .next (perfCount (fabCount (s.modFab fun f => { f with
        links := tset f.links (linkKey 0 a b) { tgetD s.fab.links (linkKey 0 a b) {} with lost := [], resend := { c with again := true } :: cs } })
          0 a 2 1) 0x11 1)) ∧
    -- reassembly: the first frame that waits at the output ends bad with cause 2 (R296)
    (∀ o id t, s.fab.transit.find? (fun e => e.2.out == o && e.2.arrived > 0 && !e.2.stored && e.2.bad.isNone) = some (id, t) →
      exec (.reassemblyTimeout o) s = .next (makeBad (modTransit (raiseReplayFail (fabCount s 4 0 3 1) 2 t.middle o t) id
        fun t => { t with stored := true, inBad := some 2 }) id 2)) ∧
    -- a resequencer that waits moves on by one and reports it (RESEQ_TIMEOUT 0x17)
    (∀ w, w ≤ 15 → tgetD s.fab.reseq w [] = [] → exec (.reseqTimeout w) s = .next s) ∧
    (∀ w, w ≤ 15 → tgetD s.fab.reseq w [] ≠ [] → missingFrame s w (at' s.fab.wide w {}).expected = none →
      ∃ payload v, v = fabCount (s.modFab fun f => { f with wide := f.wide.modify w fun e => { e with expected := wrapAdd 8 e.expected 1 } }) 3 w 1 1 ∧
        exec (.reseqTimeout w) s = .next (drainReseq 65
          (raiseSampledKey v (65536 * 0x17 + w) 0x17 2 2 (srcId 7 ((at' s.fab.wide w {}).handle.getD 0)) payload) w)) ∧
    (∀ w, w ≤ 15 → wideWaits s w = false → exec (.wideStreamChangeApply w) s = .next (applyWide s w)) ∧
    (∀ t, s.fab.modeSince = some t → s.fab.mode % 2 = 1 →
      exec .modeLimitExpiry s = .next (setMode (s.later (t + modeLimitCounts s - s.mb.upCounts)) 0 4)) ∧
    -- residency: with no frame too old anywhere, nothing changes
    ((∀ e, e ∈ s.fab.transit → tooOld s e.2.frame = false) → (∀ f, f ∈ s.hor.restore → tooOld s f = false) →
      (∀ f, f ∈ s.fab.recirc → tooOld s f = false) → exec .residencyScan s = .next s) ∧
    -- admission: a frame already bad is dropped at every copy; one that some queue admits is stored
    (∀ o h id t, s.fab.transit.find? (fun e => e.2.out == o && e.2.arrived > 0 && !e.2.admitted) = some (id, t) → t.bad.isSome = true →
      exec (.firstCellAtOutput o h) s = .next (dropTransit ((bitList 37 t.frame.dest).foldl (fun s p => fabCount s 1 p 5 1) s) id)) ∧
    (∀ o id t, s.fab.transit.find? (fun e => e.2.out == o && e.2.arrived > 0 && !e.2.admitted) = some (id, t) → t.bad = none →
      ∃ a, a = admitCopies t (bitList 37 t.frame.dest) s [] ∧
        (a.2 = [] → exec (.firstCellAtOutput o .clean) s = .next (dropTransit a.1 id)) ∧
        (a.2 ≠ [] → exec (.firstCellAtOutput o .clean) s = .next (storeFrame a.1 id t a.2))) ∧
    -- a copy that a port sends ends: counted at the port and its class, and finished in the fabric
    (∀ p x t, tget s.egr.sending p = some x → transitOf (settleCredits s p) x.frame = some t → t.stored = true → t.bad = none →
      ∃ v : State, v = egrCount (egrCount (bwCount (portCount (portCount (settleCredits s p) p 2 1) p 3 t.len) p false t.len) p x.tc 0 1) p x.tc 1 t.len ∧
        exec (.copyFinished p) s = .next (finishCopy (perfCount (v.modEgr fun e => { e with
          sending := tdel e.sending p, sent := tset e.sent p (egressBytes t.frame p) }) (0x200 + p) 1) x.frame p))

/-! ### Rows of the executor, the remote sessions, the event queues, the rings and H0 -/

/-- The executor takes a command, a waiting command goes on, tokens expire, remote sessions open, send, idle and close (R73, R82, R84, R88,
R91 to R93).
What the spec leaves open follows the model's choice, assumptions 7 and 41. Tier 1. -/
def Obligations.executorRowsComplete : Prop :=
  ∀ (s : State),
    (∀ c, awake s = true → serving s = true → nextCommand s = some c →
      exec .commandDispatch s = .next (runCommand (s.modMb fun m => { m with submitted := m.submitted.filter fun x => x.order != c.order })
        (specOf c.opcode) c.req c.order false none)) ∧
    -- once the older epoch has drained, the command that waited for it is checked and run again; EPOCH_SYNC completes
    (∀ w ws, awake s = true → serving s = true → s.ep.draining = false → s.mb.waiting = w :: ws → w.kind = .drain →
      exec .commitAfterDrain s = .next (runCommand (s.modMb fun m => { m with waiting := ws })
        (specOf w.cmd.opcode) w.cmd.req w.cmd.order w.drop (some w.since))) ∧
    (∀ w ws, awake s = true → serving s = true → s.ep.draining = false → s.mb.waiting = w :: ws → w.kind = .sync →
      ∃ v : State, v = s.modMb (fun m => { m with waiting := ws }) ∧
        exec .commitAfterDrain s =
          .next (finishDone v w.cmd w.cmd.level { st := v, payload := epochSyncPayload s ((s.now - w.since) / 1000) } w.drop 0)) ∧
    (∀ token t, s.mb.tokens.find? (fun t => t.token == token) = some t →
      exec (.retryTokenExpiry token) s = .next (dropToken (s.until (t.issued + (t.hintMs + 1000) * 1000000)) token)) ∧
    -- a connection opens the first free session, or is refused at the limit or at authentication
    (∀ port ip cert i, awake s = true → s.host.ready = true → (List.range 4).find? (fun i => !(session s i).isOpen) = some i →
      ∃ x : Session, x = { isOpen := true, port := port, ipv4 := ip, certId := certIdOf cert, last := s.now } ∧
        exec (.remoteConnection port ip cert true) s =
          .next (raiseSession (s.modMb fun m => { m with sessions := m.sessions.set i x }) 0 i x) ∧
        exec (.remoteConnection port ip cert false) s = .next (raiseSession s 3 0xFF x)) ∧
    (∀ port ip cert auth, awake s = true → s.host.ready = true → (List.range 4).find? (fun i => !(session s i).isOpen) = none →
      exec (.remoteConnection port ip cert auth) s =
        .next (raiseSession s 2 0xFF { isOpen := true, port := port, ipv4 := ip, certId := 0, last := s.now })) ∧
    -- a message whose length matches its header submits its command; a length out of range closes the session
    (∀ i msg, i ≤ 3 → awake s = true → (session s i).isOpen = true →
      ∃ v : State, v = s.modMb (fun m => { m with sessions := m.sessions.modify i fun x => { x with last := s.now } }) ∧
        (bit (u msg 3 1) 1 = false → exec (.remoteMessage i (32 + u msg 4 2) msg) s =
          .next (submit v (specOf (u msg 0 2)) (reqOfHeader (8 + i) (msg.take 32) ((msg.drop 32).take (u msg 4 2)) [] false))) ∧
        (∀ len, len < 32 ∨ 16779264 < len → exec (.remoteMessage i len msg) s = .next (closeSession v i 1))) ∧
    (∀ i, (session s i).isOpen = true →
      ∃ close : State → Nat → State, (∀ t k, close t k = raiseSession (breakLocks (t.modMb fun m => { m with
            sessions := m.sessions.set i {}
            submitted := m.submitted.filter fun c => c.req.src != 8 + i
            waiting := m.waiting.map fun w => if w.cmd.req.src = 8 + i then { w with drop := true } else w })
          (fun l => l.kind == 0 && l.who == 8 + i) 1) k i (session t i)) ∧
        exec (.remoteClose i) s = .next (close s 1) ∧
        exec (.remoteIdleTimeout i) s = .next (close (s.until ((session s i).last + clampTo 30 3600 s.boot.bundle.idleS * secondNs)) 4))

/-- The event queues (R59, R107, R109 to R111, R114): the rows that write records and the rows that write registers.
What the spec leaves open follows the model's choice, assumptions 6 and 28. Tier 1. -/
def Obligations.eventRowsComplete : Prop :=
  ∀ (q v : Nat) (s : State), q ≤ 3 → awake s = true →
    -- the oldest record is written while fewer than size - 2 are unconsumed, else it is lost
    (∀ seq r rest, (s.eq q).en = true → s.host.d3hot = false → (s.eq q).toWrite = (seq, r) :: rest → r.type ≠ 4 →
      (unconsumed (s.eq q) + 2 < 2 ^ (s.eq q).log2 →
        exec (.eventRecordWrite q) s =
          .next (writeRecord ((s.modEq q fun e => { e with toWrite := rest }).modEq q fun e => { e with lossRun := false }) q seq r)) ∧
      (2 ^ (s.eq q).log2 ≤ unconsumed (s.eq q) + 2 →
        exec (.eventRecordWrite q) s = .next (loseRecord (s.modEq q fun e => { e with toWrite := rest }) q seq))) ∧
    ((s.eq q).en = true → (s.eq q).irqEn = true → (s.eq q).unsig ≠ 0 →
      exec (.eqCoalesceTimeout q) s = .next (signal (laterFrom s (oldestAt (s.eq q) s.time.raw) (usCounts (s.eq q).coalUs)) q)) ∧
    -- EQ_CTRL with EN 1: a queue that was off starts afresh, unless its context is 0; one that was on keeps CTX
    ((s.eq q).en = false → bits v 21 16 ≠ 0 → q < s.eqs.length →
      exec (.eqEnable q v) s = .next (signal (enableEq (s.modEq q fun e => { e with
        irqEn := bit v 1, vec := bits v 13 8, ctx := bits v 21 16 }) q) q)) ∧
    ((s.eq q).en = true →
      exec (.eqEnable q v) s = .next (signal (s.modEq q fun e => { e with
        irqEn := bit v 1, vec := bits v 13 8 }) q)) ∧
    exec (.eqHeadWrite q v) s = .next (writeEqHead s q v) ∧
    -- write 1 to clear
    exec (.eqStatusClear q v) s = .next (s.modEq q fun e => { e with
      overflow := e.overflow && !bit v 0, lost := if e.overflow && bit v 0 then 0 else e.lost, fault := e.fault && !bit v 1 })

/-- The DMA rings (R60, R61, R118 to R126, R130, R131): fetches, frames, faults and registers.
What the spec leaves open follows the model's choice, assumption 27. Tier 1. -/
def Obligations.ringRowsComplete : Prop :=
  ∀ (k v : Nat) (s : State), awake s = true →
    -- TX and RX descriptors: fetched at the fetch index, or the ring parks with access 0
    (∀ off c, k ≤ 31 → mayFetch s k = true → (readHost s (s.ring k).ctx (descIova (s.ring k) (s.ring k).fetchIdx) 32).fault = some (c, off) →
      ∃ a, a = (readHost s (s.ring k).ctx (descIova (s.ring k) (s.ring k).fetchIdx) 32).st ∧
        exec (.txDescriptorFetched k) s =
          .next (park a k (s.ring k).fetchIdx (descIova (s.ring k) (s.ring k).fetchIdx + off) false 0 c.code)) ∧
    (∀ a, mayFetch s k = true → a = readHost s (s.ring k).ctx (descIova (s.ring k) (s.ring k).fetchIdx) 32 → a.fault = none → k ≤ 31 →
      ∃ d : TxDesc, d = { index := (s.ring k).fetchIdx, addr := u a.data 0 8, len := u a.data 8 2, flags := u a.data 10 2, launch := u a.data 16 8 } ∧
        exec (.txDescriptorFetched k) s =
          .next (txRun (a.st.modRing k fun r => { takeTxDesc r d with fetchIdx := nextIdx r r.fetchIdx }) k none)) ∧
    (∀ n a, k ≤ 31 → n = 32 + k → mayFetch s n = true → a = readHost s (s.ring n).ctx (descIova (s.ring n) (s.ring n).fetchIdx) 32 → a.fault = none →
      ∃ d : RxDesc, d = { index := (s.ring n).fetchIdx, addr := u a.data 0 8 % 2 ^ 48 / 64 * 64, units := u a.data 8 2 } ∧
        exec (.rxDescriptorFetched k) s =
          .next (a.st.modRing n fun r => releaseHeld { r with rxDescs := r.rxDescs ++ [d], fetchIdx := nextIdx r r.fetchIdx })) ∧
    (k ≤ 31 → exec (.rxFrameDelivery k) s = .next (rxRun s (32 + k) none)) ∧
    -- a TX frame whose data is read starts once its launch time has come; more than 50 ns late, it may be dropped
    (∀ x xs data, k ≤ 31 → (s.ring k).txQueue = x :: xs → x.data = some data → x.ended = none → s.host.d3hot = false → x.launch.getD 0 ≤ s.now →
      (x.launch = none →
        ∃ e, e = enterPipeline s 33 (some k) { data := if data.length < 60 then padTo 60 data else data } true false ∧
          exec (.txFrameAccepted k) s = .next (txRun (endTx e.1 k 0 s.now) k none)) ∧
      (∀ t, x.launch = some t → t + 50 < s.now → x.lateDrop = true →
        exec (.txFrameAccepted k) s = .next (txRun (endTx s k 2 0) k none))) ∧
    (∀ x xs t data, k ≤ 31 → (s.ring k).txQueue = x :: xs → x.launch = some t → x.data = some data → x.ended = none →
      exec (.launchTimeReached k) s = .next (txAccept (s.until t) k none)) ∧
    -- the data of the first frame of a TX ring
    (∀ x xs off a, k ≤ 31 → (s.ring k).txQueue = x :: xs → x.atHead = true → x.data = none → x.ended = none → (s.ring k).en = true →
      s.host.d3hot = false → a = readChain k none x.descs s 0 → a.fault = none →
      exec (.dmaReadCompletion (.ring k 1 off) false true) s =
        .next (a.st.modRing k fun r => { r with txQueue := { x with data := some a.data } :: xs })) ∧
    -- a read that fails: cause WALK_ERROR at a table read, DATA_ERROR at a data read
    (∀ off table, k ≤ 63 →
      ∃ x, x = ringError s k { access := 0, cause := if table then .walkError else .dataError, off := off } ∧
        exec (.dmaReadCompletion (.ring k 0 off) table false) s = .next x ∧ exec (.dmaCompletionTimeout (.ring k 0 off) table) s = .next x) ∧
    -- RING_CTRL: a ring is enabled with its head at 0; an enabled ring keeps PRIO and CTX
    (k ≤ 31 → k < s.dma.rings.length → (s.ring k).en = false → (s.ring k).rxCur = none →
      bits v 21 16 ≠ 0 →
      exec (.ringEnable k v) s = .next ((s.modRing k fun r => { r with
        irqEn := bit v 4, vec := bits v 13 8, prio := bits v 3 1
        ctx := bits v 21 16 }).modRing k fun r => { r with
          en := true, head := 0, fetchIdx := 0, parked := false, chain := [], chainBad := false, txQueue := [], rxDescs := [], wbacks := [], rxCur := none })) ∧
    (k ≤ 63 → (s.ring k).en = true →
      exec (.ringEnable k v) s = .next (s.modRing k fun r => { r with
        irqEn := bit v 4, vec := bits v 13 8 })) ∧
    (k ≤ 63 → (s.ring k).en = true →
      exec (.ringDisable k v) s = .next (disableRing (s.modRing k fun r => { r with
        irqEn := bit v 4, vec := bits v 13 8 }) k)) ∧
    -- RING_TAIL is stored, clamped to the size, and nothing else changes; RING_RESUME is ignored unless the ring is parked
    (k ≤ 63 → exec (.ringTailWrite k v) s = .next (s.modRing k fun r => { r with tail := min (v % 65536) (2 ^ r.log2 - 1) })) ∧
    (k ≤ 63 → (s.ring k).parked = false → exec (.ringResume k) s = .next s) ∧
    (k ≤ 63 → (s.ring k).parked = true →
      ∃ t, t = s.modRing k (fun r => releaseHeld { r with parked := false }) ∧
        exec (.ringResume k) s = .next (if k < 32 then (if (s.ring k).wr then txRun t k none else txFetch t k none)
          else if (s.ring k).wr then rxRun t k none else rxFetch t k none))

/-- The registers of H0 that a row reads or writes (R45 to R50, R52, R54, R56 to R58, R62 to R64, R629).
What the spec leaves open follows the model's choice, assumptions 8, 29 and 31. Tier 1. -/
def Obligations.hostRegisterRowsComplete : Prop :=
  ∀ (v : Nat) (s : State), awake s = true →
    -- the latches (R50)
    exec .merTimeLoRead s = .next (s.modHost fun h => { h with
      merHi := s.now / 2 ^ 32 % 2 ^ 32, merRawLo := s.time.raw % 2 ^ 32, merRawHi := s.time.raw / 2 ^ 32 % 2 ^ 32 }) ∧
    exec .perfCycleLoRead s = .next (s.modHost fun h => { h with perfHi := h.perfCycle / 2 ^ 32 % 2 ^ 32 }) ∧
    exec .bwBytesLoRead s = .next (s.modHost fun h => { h with
      bwLatchHi := h.bwBytes / 2 ^ 32 % 2 ^ 32, bwLatchFr := h.bwFrames, bwLatchSeq := h.bwSeq }) ∧
    -- an unmasked vector whose pending bit is set sends its message once (R45)
    (∀ i, i ≤ 63 → i < s.host.msix.length → bit s.host.msixPend i = true → s.host.d3hot = false →
      exec (.msixVectorUnmask i) s = .next (s.modHost fun h => { h with
        msix := h.msix.modify i fun e => { e with mask := false }
        msixPend := withBit h.msixPend i false, msixSent := tmod h.msixSent i 0 (· + 1) })) ∧
    (∀ i, i ≤ 63 → bit s.host.msixPend i = false →
      exec (.msixVectorUnmask i) s = .next (s.modHost fun h => { h with msix := h.msix.modify i fun e => { e with mask := false } })) ∧
    -- invalidation (R63, R64): ignored while GO is 1; SCOPE 3 keeps the scope
    (s.dma.atu.go = true → exec (.atuInvalidate v) s = .next s) ∧
    (s.dma.atu.go = false → exec (.atuInvalidate v) s = .next (s.modAtu fun a => invalidate { a with
      scope := if bits v 2 1 = 3 then a.scope else bits v 2 1
      invCtx := clampTo 1 63 (bits v 13 8), go := true })) ∧
    (s.dma.atu.go = true → exec .atuInvalidationComplete s = .next (s.modAtu fun a =>
      { invalidate a with go := false, invals := satAdd 32 (invalidate a).invals 1 })) ∧
    (∀ c off, 1 ≤ c → c ≤ 63 → off = 0 ∨ off = 4 ∨ off = 8 →
      exec (.atuContextWrite c off v) s = .next (s.modAtu fun a => { a with
        invals := satAdd 32 a.invals 1, tlb := a.tlb.filter fun e => e.ctx != c
        ctxs := a.ctxs.modify c fun x =>
          if off = 0 then { x with root := x.root / 2 ^ 20 * 2 ^ 20 + bits v 31 12 }
          else if off = 4 then { x with root := x.root % 2 ^ 20 + v % 2 ^ 32 * 2 ^ 20 }
          else { x with valid := bit v 0 } })) ∧
    (∀ c, 1 ≤ c → c ≤ 63 → exec (.atuCtxStatusClear c v) s = .next (s.modAtu fun a => { a with
      ctxs := a.ctxs.modify c fun x => if bit v 0 && x.faulted then { x with faulted := false, faults := 0 } else x })) ∧
    -- BW_CTRL (R57, R58): PORT above 33 keeps the port; a change restarts the window
    (∃ h : HostLink, h = { s.host with
        bwWindowMs := clampTo 1 10000 (bits v 13 0), bwPort := if bits v 21 16 > 33 then s.host.bwPort else bits v 21 16, bwIngress := bit v 24 } ∧
      exec (.bwCtrlWrite v) s = .next (if bwCtrl h = bwCtrl s.host then s.modHost fun _ => h else startWindowBw (s.modHost fun _ => h))) ∧
    (∃ f : HostLink → BwFig, (∀ h, f h = if h.bwIngress then (at' h.bw h.bwPort {}).nowIn else (at' h.bw h.bwPort {}).nowOut) ∧
      exec .bwWindowEnd s = .next (startWindowBw ((laterFrom s s.host.bwWindowAt (msCounts s.host.bwWindowMs)).modHost fun h => { h with
        bwBytes := (f h).bytes, bwFrames := (f h).frames, bwSeq := wrapAdd 32 h.bwSeq 1
        bw := h.bw.map fun b => { b with lastIn := b.nowIn, lastOut := b.nowOut } }))) ∧
    exec (.perfCtlClear v) s = .next (s.modHost fun h => writePerfCtl h (withBit v 1 true)) ∧
    exec (.bar2EnableWrite v) s = .next (s.modHost fun h => { h with bar2En := bit v 0 && h.bar2Permit }) ∧
    -- register writes (R46 to R48, R54): whole dwords act; MB_DONE and RESET_CAUSE are write 1 to clear; others are ignored
    (v < 2 ^ 32 → exec (.registerWrite 0 0x104 [(v, 15)]) s = .next (s.modMb fun m => { m with done := setDiff m.done (v % 256) })) ∧
    (v < 2 ^ 32 → exec (.registerWrite 0 0x028 [(v, 15)]) s = .next (s.modHost fun h => { h with resetCause := setDiff h.resetCause (v % 1024) })) ∧
    (v < 2 ^ 32 → exec (.registerWrite 0 0x108 [(v, 15)]) s = .next (s.modMb fun m => { m with irqVec := bits v 5 0, irqEn := bit v 8 })) ∧
    (v < 2 ^ 32 → exec (.registerWrite 0 0x100 [(v, 15)]) s = .next ((bitList 8 v).foldl ringMailbox s)) ∧
    exec (.registerWrite 0 0x020 [(v, 15)]) s = .next s ∧
    (∀ off be, be % 16 ≠ 15 → off < 0x8000 → exec (.registerWrite 0 off [(v, be)]) s = .next s) ∧
    (∀ off ds, ds.length ≤ 16 → exec (.registerWrite 2 off ds) s = .next s)

/-- The PCIe link and the resets of H0 (R43, R65, R66, R717, R731).
What the spec leaves open follows the model's choice, assumptions 8, 25 and 26. Tier 1. -/
def Obligations.linkRowsComplete : Prop :=
  ∀ (s : State), awake s = true →
    (∀ speed width, 1 ≤ speed → speed ≤ 4 → width = 1 ∨ width = 2 ∨ width = 4 →
      ¬(s.host.linkUp = true ∧ s.host.linkSpeed = speed ∧ s.host.linkWidth = width) →
      exec (.pcieLinkUp speed width) s = .next (raiseHostLink (s.modHost fun h => { h with
        linkUp := true, linkSpeed := speed, linkWidth := width, everUp := true
        retrains := if h.everUp then wrapAdd 32 h.retrains 1 else h.retrains }) (if speed = 4 ∧ width = 4 then 1 else 2))) ∧
    exec .functionLevelReset s = .next (hostReset s 0) ∧
    exec .hotReset s = .next (hostReset s 1) ∧
    exec .pcieLinkLoss s = .next (hostReset s 2) ∧
    (∀ us, 100 ≤ us → exec (.perstAssert us) s = .next (hostReset s 2)) ∧
    (∀ us, us < 100 → exec (.perstAssert us) s = .next s) ∧
    (s.host.d3hot = false →
      ∃ t, t = (List.range 64).foldl ringSleeps (s.modHost fun h => { h with d3hot := true }) ∧
        exec .d3hotEntry s = .next { t with eqs := t.eqs.map fun e => e.toWrite.foldl (holdRec s.now) { e with toWrite := [] } }) ∧
    (s.host.d3hot = true →
      exec .d0Return s = .next ((List.range 64).foldl sendPending ((List.range 64).foldl (fun s k => if k < 32 then txRun s k none else rxEnd s k none)
        ((List.range 4).foldl eqWakes (s.modHost fun h => { h with d3hot := false })))))

/-! ### The step, soundness and reset -/

/-- A step runs the command at the front of the queue on the state with the queue's rest (assumption 1). Tier 1. -/
def Obligations.stepRunsFrontCommand : Prop :=
  ∀ (c : Instr) (rest : List Instr) (s : State), s.pending = c :: rest → step s = exec c { s with pending := rest }

/-- On an empty queue one raw count of the Meridian clock passes while the module is on in Day or Dusk, only the always-on clock moves in Night and
Dark, and nothing happens while it is off. The model's choice (assumption 1). Tier 1. -/
def Obligations.stepOnEmptyQueue : Prop :=
  ∀ (s : State), s.pending = [] →
    (s.power.on = false → step s = .next s) ∧
    (s.power.on = true → 2 ≤ s.power.state → step s = .next { s with time := { s.time with aon := s.time.aon + 1 } }) ∧
    (s.power.on = true → s.power.state ≤ 1 → ∃ t, step s = .next t ∧ t.time = { s.time with raw := (s.time.raw + 1) % 2 ^ 64, aon := s.time.aon + 1 } ∧
      t.mb.uptimeMs = (s.mb.upCounts + 1) / 625000 ∧ Untouched { s with time := t.time } t ∧ t.dma = s.dma ∧ t.eqs = s.eqs ∧ t.hostMem = s.hostMem ∧
      t.lode = s.lode ∧ t.host.msix = s.host.msix)

/-- Every step from every state ends in a next state, and takes exactly itself from the queue: none faults, none is refused. Tier 3. -/
def Obligations.stepAlwaysGoesOn : Prop :=
  ∀ (s : State), ∃ t, step s = .next t ∧ t.pending = s.pending.tail

/-- Every step keeps the state sound: host memory and the windows in canonical form, and every fixed array at its length. Tier 3. -/
def Obligations.stepKeepsInv : Prop :=
  ∀ (s t : State), Inv s → step s = .next t → Inv t

/-- The state after reset is sound. Tier 1. -/
def Obligations.resetInv : Prop := Inv State.reset

/-- What the state after reset holds: the module off with no command waiting; every event type routed to EQ0 with `MIN_SEV` 0 (R139); the frames of TC t
steered to RX ring t (R117); no queue and no ring enabled. Tier 1. -/
def Obligations.resetValues : Prop :=
  State.reset.power.on = false ∧ State.reset.pending = [] ∧
  (∀ ty, (State.reset.route ty).queue = 0 ∧ (State.reset.route ty).minSev = 0) ∧
  (∀ e, e ≤ 63 → tgetD State.reset.dma.steer e (e % 8) = e % 8) ∧
  (∀ q, q ≤ 3 → (State.reset.eq q).en = false ∧ (State.reset.eq q).log2 = 6) ∧ (∀ k, k ≤ 63 → (State.reset.ring k).en = false) ∧
  State.reset.mb.windows = [] ∧ State.reset.mb.ring = 0 ∧ State.reset.mb.done = 0

/-! ### The command protocol -/

/-- R75: whatever the opcode, a request whose `LEVEL` is neither the command's nor 0xF is answered NOT_SUPPORTED and has no effect; one of these two levels is
not. Tier 2. -/
def Obligations.levelRule : Prop :=
  ∀ (s : State) (c : Cmd), awake s = true → serving s = true → nextCommand s = some c → (specOf c.opcode).known = true → c.req.version = 1 →
    (c.req.level % 16 ≠ 15 → c.req.level % 16 ≠ (specOf c.opcode).level →
      exec .commandDispatch s = .next (finish (s.modMb fun m => { m with submitted := m.submitted.filter fun x => x.order != c.order })
        { opcode := (specOf c.opcode).opcode, req := c.req, order := c.order, level := (specOf c.opcode).level }
        { level := (specOf c.opcode).level, status := stNotSupported } [] false)) ∧
    (c.req.level % 16 = 15 ∨ c.req.level % 16 = (specOf c.opcode).level → ∀ v d, preCheck v (specOf c.opcode) c.req ≠ some (stNotSupported, d))

/-- Steps 1 to 6 of R77 in their order, whatever the opcode: a request that fails one is completed with its status, and nothing but the
completion happens. Tier 2. -/
def Obligations.checksInOrder : Prop :=
  ∀ (s : State) (c : Cmd), awake s = true → serving s = true → nextCommand s = some c →
    ∃ (sp : CmdSpec) (v : State) (refuse : Nat → Nat → Nat → State), sp = specOf c.opcode ∧
      v = s.modMb (fun m => { m with submitted := m.submitted.filter fun x => x.order != c.order }) ∧
      (∀ st d ver, refuse st d ver = finish v { opcode := sp.opcode, req := c.req, order := c.order, level := sp.level }
        { level := sp.level, status := st, detail := d, version := ver } [] false) ∧
      (sp.known = false → exec .commandDispatch s = .next (refuse stBadOpcode noDetail 0)) ∧
      (sp.known = true → c.req.version ≠ 1 → exec .commandDispatch s = .next (refuse stBadVersion noDetail 1)) ∧
      (sp.known = true → c.req.version = 1 → levelBad sp c.req = false → headerBad sp c.req = true →
        exec .commandDispatch s = .next (refuse stBadLength noDetail 1)) ∧
      (∀ d, sp.known = true → c.req.version = 1 → levelBad sp c.req = false → headerBad sp c.req = false →
        sp.badLen (inlineOf c.req) (totalLen c.req) = some d → exec .commandDispatch s = .next (refuse stBadLength d 1)) ∧
      (sp.known = true → c.req.version = 1 → levelBad sp c.req = false → headerBad sp c.req = false →
        sp.badLen (inlineOf c.req) (totalLen c.req) = none → sp.permitted v c.req = false →
        exec .commandDispatch s = .next (refuse stNotPermitted noDetail 1)) ∧
      (sp.known = true → c.req.version = 1 → levelBad sp c.req = false → headerBad sp c.req = false →
        sp.badLen (inlineOf c.req) (totalLen c.req) = none → sp.permitted v c.req = true → keysLocked v = true → sp.needsKeys (inlineOf c.req) = true →
        exec .commandDispatch s = .next (refuse stLocked noDetail 1))

/-- A completion (R55, R70, R76): its header and payload stand in the completion area of the mailbox's window, `MB_DONE` is set and the doorbell bit
cleared; every other byte of the windows and every other bit stays; with `MB_IRQ` enabled its vector is raised. Tier 2. -/
def Obligations.completionWritten : Prop :=
  ∀ (s : State) (c : Cmd) (k : Completion), c.req.src ≤ 7 → k.payload.length ≤ 2016 →
    ∃ t : State, t = writeCompletion s c k [] ∧
      mread t.mb.windows (c.req.src * 4096 + 2048) 32 = completionHeader s c k ∧
      mread t.mb.windows (c.req.src * 4096 + 2080) k.payload.length = k.payload ∧
      (∀ a, a < c.req.src * 4096 + 2048 ∨ c.req.src * 4096 + 2080 + k.payload.length ≤ a → mget t.mb.windows a = mget s.mb.windows a) ∧
      (∀ n, bit t.mb.done n = (bit s.mb.done n || n == c.req.src)) ∧ (∀ n, bit t.mb.ring n = (bit s.mb.ring n && n != c.req.src)) ∧
      (s.mb.irqEn = false → t.host = s.host) ∧ (s.mb.irqEn = true → t.host = (raiseVec s s.mb.irqVec).host) ∧
      t.hostMem = s.hostMem ∧ t.eqs = s.eqs ∧ t.dma = s.dma ∧ t.lode = s.lode ∧ Untouched s t

/-- A host write into a mailbox window (R46, R70, R71): a byte of the request area of an idle mailbox takes it, alone; the request area of a busy one and
every completion area do not. Tier 2. -/
def Obligations.windowWrites : Prop :=
  ∀ (s : State) (n off v : Nat), awake s = true → n ≤ 7 → off < 4096 → off % 4 = 0 →
    (bit s.mb.ring n = true ∨ 2048 ≤ off → exec (.registerWrite 0 (0x8000 + n * 4096 + off) [(v, 15)]) s = .next s) ∧
    (bit s.mb.ring n = false → off < 2048 →
      ∃ t, exec (.registerWrite 0 (0x8000 + n * 4096 + off) [(v, 1)]) s = .next t ∧
        t = { s with mb := { s.mb with windows := t.mb.windows } } ∧ mget t.mb.windows (n * 4096 + off) = BitVec.ofNat 8 v ∧
        ∀ a, a ≠ n * 4096 + off → mget t.mb.windows a = mget s.mb.windows a)

/-- Before Ikiora serves, a command that rings is held among the submitted ones (R30, R71); nothing else of the device changes. Tier 1. -/
def Obligations.heldUntilServing : Prop :=
  ∀ (s : State) (r : Req), r.src ≤ 7 → sourceBusy s r.src = false → s.mb.resetDue = none → serving s = false →
    exec (.nop r) s = .next (s.modMb fun m => { m with
      windows := mwrite m.windows (r.src * 4096) (requestHeader 0 r ++ r.payload.take 2016), done := withBit m.done r.src false
      order := m.order + 1, ring := withBit m.ring r.src true
      submitted := m.submitted ++ [{ opcode := 0, req := asSubmitted r, order := m.order, level := 15 }] })

/-- R82 at RING_BIND, a command that changes an epoch table: it advances `DEV_EPOCH` by one and leaves the tables in force before it to the older epoch; with
two epochs live it is answered BUSY without effect under `NONBLOCK`, and waits without it. Tier 2. -/
def Obligations.twoEpochsHoldBackACommit : Prop :=
  ∀ (s s1 : State) (r : Req) (p : List Byte), Runs s specRingBind r p s1 → u p 0 1 ≤ 31 → u p 1 1 ≤ 7 → inCarve s1 (u p 1 1) = true →
    bit r.flags 2 = false →
    (s1.ep.draining = false → ∃ t, exec (.ringBind r) s = .next t ∧ t.ep.epoch = (s1.ep.epoch + 1) % 2 ^ 32 ∧
      t.ep.cur = { s1.ep.cur with ing := { s1.ep.cur.ing with ringBind := tset s1.ep.cur.ing.ringBind (u p 0 1) (u p 1 1) } } ∧
      (0 < s1.ep.inCur → t.ep.draining = true ∧ t.ep.old = s1.ep.cur ∧ t.ep.inOld = s1.ep.inCur) ∧ (s1.ep.inCur = 0 → t.ep.draining = false)) ∧
    (s1.ep.draining = true → bit r.flags 0 = true → exec (.ringBind r) s = .next (refused s specRingBind r p s1 stBusy noDetail)) ∧
    (s1.ep.draining = true → bit r.flags 0 = false → exec (.ringBind r) s = .next (waits s specRingBind r p s1 .drain s1))

/-- What the commands that only read leave alone, whatever their outcome: every table, port, engine and register outside the mailboxes, events, H0
and the log. Tier 2. -/
def Obligations.readingCommandsFrame : Prop :=
  ∀ (r : Req) (s t : State),
    (exec (.nop r) s = .next t → Untouched s t) ∧ (exec (.getVersions r) s = .next t → Untouched s t) ∧
    (exec (.getIdentity r) s = .next t → Untouched s t) ∧ (exec (.getStatus r) s = .next t → Untouched s t) ∧
    (exec (.getMbStats r) s = .next t → Untouched s t) ∧ (exec (.evqGetRoutes r) s = .next t → Untouched s t) ∧
    (exec (.rxSteerGet r) s = .next t → Untouched s t) ∧ (exec (.portGetStatus r) s = .next t → Untouched s t) ∧
    (exec (.pseGetStatus r) s = .next t → Untouched s t) ∧ (exec (.fdbRead r) s = .next t → Untouched s t) ∧
    (exec (.tableRead r) s = .next t → Untouched s t) ∧ (exec (.sessionRead r) s = .next t → Untouched s t) ∧
    (exec (.horizonTableRead r) s = .next t → Untouched s t) ∧ (exec (.fabricStatusGet r) s = .next t → Untouched s t) ∧
    (exec (.gclGet r) s = .next t → Untouched s t) ∧ (exec (.zenithStatusGet r) s = .next t → Untouched s t) ∧
    (exec (.timeStatusGet r) s = .next t → Untouched s t) ∧ (exec (.channelStatusGet r) s = .next t → Untouched s t) ∧
    (exec (.gwStatusGet r) s = .next t → Untouched s t) ∧ (exec (.gwTableRead r) s = .next t → Untouched s t) ∧
    (exec (.arbiterGet r) s = .next t → Untouched s t) ∧ (exec (.powerStatusGet r) s = .next t → Untouched s t) ∧
    (exec (.keySlotInfo r) s = .next t → Untouched s t) ∧ (exec (.macsecStatusGet r) s = .next t → Untouched s t) ∧
    (exec (.measGet r) s = .next t → Untouched s t) ∧ (exec (.measLogRead r) s = .next t → Untouched s t) ∧
    (exec (.bootStatusGet r) s = .next t → Untouched s t) ∧ (exec (.certGet r) s = .next t → Untouched s t) ∧
    (exec (.sensorGet r) s = .next t → Untouched s t) ∧ (exec (.logRead r) s = .next t → Untouched s t) ∧
    (exec (.portBwGet r) s = .next t → Untouched s t) ∧ (exec (.updateStatusGet r) s = .next t → Untouched s t) ∧
    (exec (.pairStatusGet r) s = .next t → Untouched s t) ∧ (exec (.ttdpStatusGet r) s = .next t → Untouched s t) ∧
    (exec (.mrpStatusGet r) s = .next t → Untouched s t) ∧ (exec (.lifecycleGet r) s = .next t → Untouched s t)

/-- Retry tokens (R88): a token is non-zero and of 32 bits, at most 64 are outstanding, and a 65th takes the place of the oldest. Tier 1. -/
def Obligations.retryTokensBounded : Prop :=
  ∀ (s t : State) (src op hint obj tok : Nat) (p : List Byte) (f : FetchState), issueToken s src op p hint f obj = (tok, t) →
    0 < tok ∧ tok < 2 ^ 32 ∧ t.mb.tokens.length ≤ 64 ∧
    (∀ x, x ∈ liveTokens s ↔ x ∈ s.mb.tokens ∧ s.now < x.issued + (x.hintMs + 1000) * 1000000) ∧
    ((liveTokens s).length < 64 → ∃ e, t.mb.tokens = liveTokens s ++ [e] ∧ e.token = tok ∧ e.src = src ∧ e.opcode = op ∧ e.payload = p) ∧
    ((liveTokens s).length = 64 → ∃ e, t.mb.tokens = (liveTokens s).drop 1 ++ [e] ∧ e.token = tok ∧ e.issued = s.now)

/-! ### Registers, events, memory and resets -/

/-- R58: a write that changes a field of `BW_CTRL` restarts the window at once; `BW_BYTES`, `BW_FRAMES` and `BW_SEQ` keep their values until a window
completes; a `PORT` above 33 keeps the port. Tier 2. -/
def Obligations.bwCtrlRestartsWindow : Prop :=
  ∀ (v : Nat) (s : State), awake s = true →
    ∃ t, exec (.bwCtrlWrite v) s = .next t ∧
      t.host.bwWindowMs = min 10000 (max 1 (bits v 13 0)) ∧ t.host.bwIngress = bit v 24 ∧
      (33 < bits v 21 16 → t.host.bwPort = s.host.bwPort) ∧ (bits v 21 16 ≤ 33 → t.host.bwPort = bits v 21 16) ∧
      t.host.bwBytes = s.host.bwBytes ∧ t.host.bwFrames = s.host.bwFrames ∧ t.host.bwSeq = s.host.bwSeq ∧
      (t.host.bwWindowMs ≠ s.host.bwWindowMs ∨ t.host.bwPort ≠ s.host.bwPort ∨ t.host.bwIngress ≠ s.host.bwIngress →
        s.host.bwWindowMs ≤ 10000 → s.host.bwPort ≤ 33 →
        t.host.bwWindowAt = s.time.raw ∧ ∀ b, b ∈ t.host.bw → b.nowIn = {} ∧ b.nowOut = {}) ∧
      (∃ x, exec .bwWindowEnd s = .next x ∧ x.host.bwSeq = (s.host.bwSeq + 1) % 2 ^ 32) ∧
      t.hostMem = s.hostMem ∧ t.eqs = s.eqs ∧ t.dma = s.dma ∧ t.mb = s.mb ∧ t.lode = s.lode ∧ Untouched s t

/-- R142: RX_STEER_GET takes no payload; its completion holds 64 bytes, byte 8 × domain + TC the RX ring of that entry. Tier 1. -/
def Obligations.rxSteerGetTable : Prop :=
  specRxSteerGet.opcode = 0x0104 ∧ specOf 0x0104 = specRxSteerGet ∧ (∀ p n, specRxSteerGet.badLen p n = none ↔ n = 0) ∧
  (∀ (s : State) (r : Req), r.version ≠ 1 → preCheck s specRxSteerGet r = some (stBadVersion, noDetail)) ∧
  ∀ (r : Req) (s s1 : State) (p : List Byte), Runs s specRxSteerGet r p s1 →
    ∃ payload : List Byte, payload.length = 64 ∧
      (∀ d tc, d ≤ 7 → tc ≤ 7 → payload[8 * d + tc]? = some (BitVec.ofNat 8 (tgetD s1.dma.steer (8 * d + tc) tc))) ∧
      exec (.rxSteerGet r) s = .next (ends s specRxSteerGet r p s1 { payload := payload, st := s1 })

/-- Context 0 always means no access (R62, R86, R130): an access through it faults with cause 0, is counted device-wide and moves no data.
What the spec leaves open follows the model's choice, assumption 29. Tier 1. -/
def Obligations.contextZeroFaults : Prop :=
  ∀ (s : State) (iova n : Nat) (p : List Byte), iova < 2 ^ 48 → 0 < n → p ≠ [] →
    (readHost s 0 iova n).fault = some (.ctxInvalid, 0) ∧ (readHost s 0 iova n).data = [] ∧ (readHost s 0 iova n).st = countFault s 0 ∧
    (writeHost s 0 iova p).fault = some (.ctxInvalid, 0) ∧ (writeHost s 0 iova p).st = countFault s 0 ∧ (countFault s 0).hostMem = s.hostMem

/-- Delivery of an event of a routed type (R108, R112): to its queue where that is enabled and the severity reaches the minimum, taking the next sequence
number, which it keeps even when it is lost to a translation fault; else no number is taken. Tier 2. -/
def Obligations.eventDelivery : Prop :=
  ∀ (s : State) (ty sev level source q : Nat) (p : List Byte), s.eqs.length = 4 → 6 ≤ ty → q = (s.route ty).queue → q ≤ 3 →
    (s.eq q).en = true →
    (sev < (s.route ty).minSev → (raise s ty sev level source p).eqs = s.eqs) ∧
    ((s.route ty).minSev ≤ sev →
      ((raise s ty sev level source p).eq q).seq = ((s.eq q).seq + 1) % 2 ^ 32 ∧
      (∀ j, j ≠ q → (raise s ty sev level source p).eq j = s.eq j) ∧
      ((s.eq q).fault = false → s.host.d3hot = false →
        ((raise s ty sev level source p).eq q).toWrite = (s.eq q).toWrite ++ [((s.eq q).seq,
          { type := ty, sev := sev, level := level, source := source, time := s.now, payload := padTo 16 p })]) ∧
      ((s.eq q).fault = true → ((raise s ty sev level source p).eq q).toWrite = (s.eq q).toWrite ∧
        ((raise s ty sev level source p).eq q).lost = min 65535 ((s.eq q).lost + 1)))

/-- A queue that is enabled starts afresh (R107): `EQ_HEAD` and `EQ_TAIL` 0, sequence counter 0, write phase 1; its base, size and coalescing stay, and the other
queues too. Stated without held host events (R66).
What the spec leaves open follows the model's choice, assumption 6. Tier 2. -/
def Obligations.eqEnableStartsAfresh : Prop :=
  ∀ (s : State) (q v : Nat), awake s = true → s.eqs.length = 4 → q ≤ 3 → (s.eq q).en = false → bits v 21 16 ≠ 0 → s.host.heldHost = [] →
    ∃ t, exec (.eqEnable q v) s = .next t ∧
      t.eq q = { s.eq q with
        en := true, head := 0, tail := 0, seq := 0, phase := true, irqEn := bit v 1, vec := bits v 13 8, ctx := bits v 21 16, unsig := 0, times := []
        lossRun := false, toWrite := [], held := [], heldLost := none } ∧
      (∀ j, j ≠ q → t.eq j = s.eq j) ∧ t.hostMem = s.hostMem ∧ t.dma = s.dma ∧ t.mb = s.mb ∧ t.lode = s.lode ∧ Untouched s t

/-- The lock of R48: while a queue or a ring is enabled, a write of its base or size changes nothing; while it is not, the field takes the value. Tier 2. -/
def Obligations.enabledFieldsLocked : Prop :=
  ∀ (s : State) (n v : Nat), awake s = true → v < 2 ^ 32 →
    (n ≤ 3 → (s.eq n).en = true → ∀ off, off = 0 ∨ off = 4 ∨ off = 8 → exec (.registerWrite 0 (0x400 + n * 0x40 + off) [(v, 15)]) s = .next s) ∧
    (n ≤ 3 → (s.eq n).en = false → s.eqs.length = 4 → ∃ t, exec (.registerWrite 0 (0x400 + n * 0x40 + 8) [(v, 15)]) s = .next t ∧
      t.eq n = { s.eq n with log2 := clampTo 6 16 (bits v 4 0) } ∧ ∀ j, j ≠ n → t.eq j = s.eq j) ∧
    (n ≤ 63 → (s.ring n).en = true → ∀ off, off = 0 ∨ off = 4 ∨ off = 8 ∨ off = 0x18 →
      exec (.registerWrite 0 (0x1000 + n * 0x40 + off) [(v, 15)]) s = .next s) ∧
    (n ≤ 63 → (s.ring n).en = false → s.dma.rings.length = 64 → ∃ t, exec (.registerWrite 0 (0x1000 + n * 0x40 + 8) [(v, 15)]) s = .next t ∧
      t.ring n = { s.ring n with log2 := clampTo 6 15 (bits v 4 0) } ∧ ∀ j, j ≠ n → t.ring j = s.ring j)

/-- The latch of R50 at `MER_TIME_LO` (R56): after its read the latched registers give the high half of the time and both halves of the raw count of that clock,
and they keep them whatever the clock does until the next read. Tier 1. -/
def Obligations.merTimeLatch : Prop :=
  ∀ (s : State), awake s = true →
    ∃ t, exec .merTimeLoRead s = .next t ∧ readReg t 0x204 = s.now / 2 ^ 32 % 2 ^ 32 ∧ readReg t 0x208 = s.time.raw % 2 ^ 32 ∧
      readReg t 0x20C = s.time.raw / 2 ^ 32 % 2 ^ 32 ∧
      (∀ n, readReg (t.later n) 0x204 = readReg t 0x204 ∧ readReg (t.later n) 0x208 = readReg t 0x208 ∧ readReg (t.later n) 0x20C = readReg t 0x20C) ∧
      t.time = s.time ∧ t.mb = s.mb ∧ t.eqs = s.eqs ∧ t.dma = s.dma ∧ t.hostMem = s.hostMem ∧ t.lode = s.lode ∧ Untouched s t

/-- A function-level reset (R65) while no command of a mailbox executes, no lock is held and no RX ring holds a frame: queues and rings are disabled at their reset values, the
ATU contexts are invalid, the mailbox windows, doorbells, `MB_DONE` and `MB_IRQ` are at theirs, and every vector is as after reset; the link stays as it is.
What the spec leaves open follows the model's choice, assumption 25. Tier 2. -/
def Obligations.hostResetClears : Prop :=
  ∀ (s : State), awake s = true → (∀ w, w ∈ s.mb.waiting → 8 ≤ w.cmd.req.src) → (∀ k, (s.ring k).rxCur = none ∧ (s.ring k).rxHeld = []) → s.gw.locks = [] →
    ∃ t, exec .functionLevelReset s = .next t ∧ t.eqs = State.reset.eqs ∧ t.dma = { State.reset.dma with steer := s.dma.steer } ∧
      t.mb.windows = [] ∧ t.mb.ring = 0 ∧ t.mb.done = 0 ∧ t.mb.irqVec = 4 ∧ t.mb.irqEn = false ∧ (∀ c, c ∈ t.mb.submitted → 8 ≤ c.req.src) ∧
      t.host.msix = State.reset.host.msix ∧ t.host.msixPend = 0 ∧ t.host.bar2En = false ∧ t.host.d3hot = false ∧ bit t.host.resetCause 7 = true ∧
      t.host.linkUp = s.host.linkUp ∧ t.hostMem = s.hostMem ∧ t.ports = s.ports ∧ t.ep = s.ep ∧ t.gw = s.gw ∧ t.time = s.time ∧ t.keys = s.keys

/-- The byte memories (mailbox windows R70, host memory R9): a read after a write of as many bytes gives them, every other byte stays, and the canonical form is kept. Tier 2. -/
def Obligations.memoryReadAfterWrite : Prop :=
  ∀ (m : Mem) (a : Nat) (p : List Byte),
    mread (mwrite m a p) a p.length = p ∧ (∀ b, b < a ∨ a + p.length ≤ b → mget (mwrite m a p) b = mget m b) ∧
    (Memory.wf m = true → Memory.wf (mwrite m a p) = true)
end

