-- ==== Sys2Proof/Laws/Memory.lean ====
section
/-! SUPPORT. Sparse memories and tables: a write keeps the canonical form, a read after a write. -/

namespace Sys2Proof.Machine

theorem wf_cons {c : Host.Cell} {m : Mem} :
    Memory.wf (c :: m) = true ↔ c.2 ≠ 0 ∧ (∀ d ∈ m.head?, c.1 < d.1) ∧ Memory.wf m = true := by
  cases m with
  | nil => simp [Memory.wf]
  | cons d m => simp [Memory.wf, and_assoc]

/-- Every address of a canonical memory above its first is larger. -/
theorem wf_lt {c : Host.Cell} {m : Mem} (h : Memory.wf (c :: m) = true) : ∀ d ∈ m, c.1 < d.1 := by
  induction m generalizing c with
  | nil => simp
  | cons e m ih =>
    obtain ⟨_, h2, h3⟩ := wf_cons.1 h
    have he : c.1 < e.1 := h2 e (by simp)
    intro d hd
    rcases List.mem_cons.1 hd with rfl | hd
    · exact he
    · exact Nat.lt_trans he (ih h3 d hd)

theorem wf_tdel {m : Mem} (a : Nat) (h : Memory.wf m = true) : Memory.wf (tdel m a) = true := by
  induction m with
  | nil => simp [tdel, Memory.wf]
  | cons c m ih =>
    obtain ⟨h1, _, h3⟩ := wf_cons.1 h
    have hr := ih h3
    by_cases hc : c.1 = a
    · simpa [tdel, hc] using hr
    · have : tdel (c :: m) a = c :: tdel m a := by simp [tdel, hc]
      rw [this, wf_cons]
      refine ⟨h1, ?_, hr⟩
      intro d hd
      exact wf_lt h d (List.mem_filter.1 (List.mem_of_mem_head? hd)).1

theorem wf_tset {m : Mem} (a : Nat) {b : Byte} (hb : b ≠ 0) (h : Memory.wf m = true) : Memory.wf (tset m a b) = true := by
  induction m with
  | nil => simpa [tset, Memory.wf] using hb
  | cons c m ih =>
    obtain ⟨h1, h2, h3⟩ := wf_cons.1 h
    simp only [tset]
    split
    · rename_i hlt
      rw [wf_cons]
      exact ⟨hb, by simpa using hlt, h⟩
    · split
      · rename_i heq
        rw [wf_cons]
        subst heq
        exact ⟨hb, h2, h3⟩
      · rename_i hlt hne
        rw [wf_cons]
        refine ⟨h1, ?_, ih h3⟩
        intro d hd
        cases m with
        | nil =>
          simp [tset] at hd
          subst hd
          simp
          omega
        | cons e m =>
          have he := h2 e (by simp)
          simp only [tset] at hd
          split at hd
          · simp at hd
            subst hd
            simp
            omega
          · split at hd
            · simp at hd
              subst hd
              simp
              omega
            · simp at hd
              subst hd
              exact he

/-- A write of one byte keeps the canonical form. -/
theorem wf_mset {m : Mem} (a : Nat) (b : Byte) (h : Memory.wf m = true) : Memory.wf (mset m a b) = true := by
  unfold mset
  split
  · exact wf_tdel a h
  · rename_i hb
    exact wf_tset a hb h

/-- A write of a byte string keeps the canonical form. -/
theorem wf_mwrite {m : Mem} (a : Nat) (bs : List Byte) (h : Memory.wf m = true) : Memory.wf (mwrite m a bs) = true := by
  induction bs generalizing m a with
  | nil => exact h
  | cons b bs ih => exact ih (a + 1) (wf_mset a b h)

/-! ### Tables -/

theorem tget_tdel_same {α : Type} (t : Tab α) (k : Nat) : tget (tdel t k) k = none := by
  simp [tget, tdel, List.find?_filter]

theorem tget_tdel_other {α : Type} (t : Tab α) {k j : Nat} (h : j ≠ k) : tget (tdel t k) j = tget t j := by
  have : ∀ l : Tab α, (l.filter fun e => e.1 != k).find? (fun e => e.1 == j) = l.find? (fun e => e.1 == j) := by
    intro l
    induction l with
    | nil => rfl
    | cons e l ih =>
      by_cases he : e.1 = k
      · have hj : (e.1 == j) = false := by simp; omega
        simp [he, List.find?_cons, ih]
        simp [← he, hj]
      · simp [he, List.find?_cons, ih]
  simp [tget, tdel, this]

theorem tget_tset_same {α : Type} (t : Tab α) (k : Nat) (v : α) : tget (tset t k v) k = some v := by
  induction t with
  | nil => simp [tset, tget]
  | cons e t ih =>
    simp only [tset]
    split
    · simp [tget]
    · split
      · simp [tget]
      · have : (e.1 == k) = false := by simp; omega
        simpa [tget, List.find?_cons, this] using ih

theorem tget_tset_other {α : Type} (t : Tab α) {k j : Nat} (v : α) (h : j ≠ k) : tget (tset t k v) j = tget t j := by
  have hk : (k == j) = false := by simp; omega
  induction t with
  | nil => simp [tset, tget, hk]
  | cons e t ih =>
    simp only [tset]
    split
    · simp [tget, List.find?_cons, hk]
    · split
      · rename_i heq
        have : (e.1 == j) = false := by simp; omega
        simp [tget, hk, this]
      · by_cases he : (e.1 == j) = true
        · simp [tget, he]
        · have he' : (e.1 == j) = false := by simpa using he
          simpa [tget, List.find?_cons, he'] using ih

theorem tgetD_tset_same {α : Type} (t : Tab α) (k : Nat) (v d : α) : tgetD (tset t k v) k d = v := by simp [tgetD, tget_tset_same]

theorem tgetD_tset_other {α : Type} (t : Tab α) {k j : Nat} (v d : α) (h : j ≠ k) : tgetD (tset t k v) j d = tgetD t j d := by
  simp [tgetD, tget_tset_other t v h]

/-- A byte reads as it was written. -/
theorem mget_mset_same (m : Mem) (a : Nat) (b : Byte) : mget (mset m a b) a = b := by
  unfold mset mget
  split
  · rename_i hb
    simp [tgetD, tget_tdel_same, hb]
  · exact tgetD_tset_same m a b 0

/-- A write leaves every other byte as it was. -/
theorem mget_mset_other (m : Mem) {a j : Nat} (b : Byte) (h : j ≠ a) : mget (mset m a b) j = mget m j := by
  unfold mset mget
  split
  · simp [tgetD, tget_tdel_other m h]
  · exact tgetD_tset_other m b 0 h

/-- A byte outside a string written stays. -/
theorem mget_mwrite_other (m : Mem) (a : Nat) (bs : List Byte) {j : Nat} (h : j < a ∨ a + bs.length ≤ j) :
    mget (mwrite m a bs) j = mget m j := by
  induction bs generalizing m a with
  | nil => rfl
  | cons b bs ih =>
    simp only [List.length_cons] at h
    rw [mwrite, ih (mset m a b) (a + 1) (by omega), mget_mset_other m b (by omega)]

/-- A byte of a string written reads as the string has it. -/
theorem mget_mwrite_in (m : Mem) (a : Nat) (bs : List Byte) {i : Nat} (h : i < bs.length) :
    mget (mwrite m a bs) (a + i) = bs.getD i 0 := by
  induction bs generalizing m a i with
  | nil => simp at h
  | cons b bs ih =>
    cases i with
    | zero => simp [mwrite, mget_mwrite_other _ (a + 1) bs (j := a) (by omega), mget_mset_same]
    | succ i =>
      simp only [List.length_cons] at h
      have := ih (mset m a b) (a + 1) (i := i) (by omega)
      rw [show a + (i + 1) = a + 1 + i by omega, mwrite, this]
      simp

/-- A string reads back as it was written. -/
theorem mread_mwrite (m : Mem) (a : Nat) (bs : List Byte) : mread (mwrite m a bs) a bs.length = bs := by
  suffices h : ∀ (n i : Nat), i + n = bs.length → mread (mwrite m a bs) (a + i) n = bs.drop i by
    simpa using h bs.length 0 (by omega)
  intro n
  induction n with
  | zero => intro i hi; simp [mread]; omega
  | succ n ih =>
    intro i hi
    have hlt : i < bs.length := by omega
    rw [mread, mget_mwrite_in m a bs hlt, show a + i + 1 = a + (i + 1) by omega, ih (i + 1) (by omega)]
    rw [List.drop_eq_getElem_cons hlt]
    simp [hlt]

end Sys2Proof.Machine
end

