-- ==== Sys2Proof/Laws/Keeps.lean ====
section
/-! SUPPORT. How `Keeps` composes: the rules by which the laws of the meanings are proved. -/

namespace Sys2Proof.Machine

theorem Keeps.refl (s : State) : Keeps s s := ⟨rfl, id⟩

theorem Keeps.trans {s t r : State} (h : Keeps s t) (k : Keeps t r) : Keeps s r := ⟨k.queue.trans h.queue, fun i => k.inv (h.inv i)⟩

/-- What `Keeps` asks of the tracked parts of a state that is written out. -/
structure KeepsParts (s : State) (mb : Mailbox) (eqs : List EvQueue) (host : HostLink) (dma : Dma) (hostMem : Mem) (pending : List Instr) : Prop where
  queue : pending = s.pending
  inv   : Inv s → InvMb mb ∧ eqs.length = 4 ∧ InvHost host ∧ InvDma dma ∧ Memory.wf hostMem = true

theorem keeps_mk {s : State} {mb : Mailbox} {eqs : List EvQueue} {routes : Tab Route} {host : HostLink} {dma : Dma} {hostMem : Mem} {ports : Ports}
    {ep : Epochs} {ing : Ingress} {hor : Horizon} {fab : Fabric} {egr : Egress} {time : Time} {leg : Legacy} {gw : Gateway} {power : Power}
    {keys : Keys} {boot : Boot} {lode : Lodestar} {upd : Update} {pair : Pair} {carve free : Nat} {pending : List Instr} :
    Keeps s (State.mk mb eqs routes host dma hostMem ports ep ing hor fab egr time leg gw power keys boot lode upd pair carve free pending) ↔
      KeepsParts s mb eqs host dma hostMem pending :=
  ⟨fun h => ⟨h.queue, fun i => let j := h.inv i; ⟨j.mb, j.eqs, j.host, j.dma, j.hostMem⟩⟩,
   fun h => ⟨h.queue, fun i => let j := h.inv i; ⟨j.1, j.2.1, j.2.2.1, j.2.2.2.1, j.2.2.2.2⟩⟩⟩

/-- A record update keeps the queue and soundness if it keeps each tracked part. -/
theorem KeepsParts.of {s t : State} {mb : Mailbox} {eqs : List EvQueue} {host : HostLink} {dma : Dma} {hostMem : Mem} {pending : List Instr}
    (hq : pending = t.pending) (h : Keeps s t) (h1 : InvMb t.mb → InvMb mb) (h2 : t.eqs.length = 4 → eqs.length = 4) (h3 : InvHost t.host → InvHost host)
    (h4 : InvDma t.dma → InvDma dma) (h5 : Memory.wf t.hostMem = true → Memory.wf hostMem = true) :
    KeepsParts s mb eqs host dma hostMem pending :=
  ⟨hq.trans h.queue, fun i => let j := h.inv i; ⟨h1 j.mb, h2 j.eqs, h3 j.host, h4 j.dma, h5 j.hostMem⟩⟩

theorem Keeps.modMb {s t : State} {f : Mailbox → Mailbox} (h : Keeps s t) (hf : InvMb t.mb → InvMb (f t.mb)) : Keeps s (t.modMb f) :=
  ⟨h.queue, fun i => let j := h.inv i; ⟨hf j.mb, j.eqs, j.host, j.dma, j.hostMem⟩⟩

theorem Keeps.modHost {s t : State} {f : HostLink → HostLink} (h : Keeps s t) (hf : InvHost t.host → InvHost (f t.host)) : Keeps s (t.modHost f) :=
  ⟨h.queue, fun i => let j := h.inv i; ⟨j.mb, j.eqs, hf j.host, j.dma, j.hostMem⟩⟩

theorem Keeps.modEq {s t : State} {q : Nat} {f : EvQueue → EvQueue} (h : Keeps s t) : Keeps s (t.modEq q f) :=
  ⟨h.queue, fun i => let j := h.inv i; ⟨j.mb, by simpa [State.modEq] using j.eqs, j.host, j.dma, j.hostMem⟩⟩

theorem Keeps.modRing {s t : State} {k : Nat} {f : Ring → Ring} (h : Keeps s t) : Keeps s (t.modRing k f) :=
  ⟨h.queue, fun i => let j := h.inv i; ⟨j.mb, j.eqs, j.host, ⟨by simpa [State.modRing] using j.dma.rings, j.dma.ctxs⟩, j.hostMem⟩⟩

theorem Keeps.modAtu {s t : State} {f : Atu → Atu} (h : Keeps s t) (hf : t.dma.atu.ctxs.length = 64 → (f t.dma.atu).ctxs.length = 64) :
    Keeps s (t.modAtu f) :=
  ⟨h.queue, fun i => let j := h.inv i; ⟨j.mb, j.eqs, j.host, ⟨j.dma.rings, hf j.dma.ctxs⟩, j.hostMem⟩⟩

theorem Keeps.ite {s a b : State} {c : Prop} [Decidable c] (ha : Keeps s a) (hb : Keeps s b) : Keeps s (if c then a else b) := by
  split <;> assumption

/-- A fold of steps that keep. -/
theorem Keeps.foldl {α : Type} {s t : State} {f : State → α → State} {l : List α} (h : Keeps s t)
    (hf : ∀ r x, Keeps s r → Keeps s (f r x)) : Keeps s (l.foldl f t) := by
  induction l generalizing t with
  | nil => exact h
  | cons x l ih => exact ih (hf t x h)

/-- The first component of a pair that is known to be `p`. -/
theorem Keeps.fst {α : Type} {s a : State} {b : α} {p : State × α} (e : p = (a, b)) (h : Keeps s p.1) : Keeps s a := by
  subst e; exact h

/-- The second component of a pair that is known to be `p`. -/
theorem Keeps.snd {α : Type} {s a : State} {b : α} {p : α × State} (e : p = (b, a)) (h : Keeps s p.2) : Keeps s a := by
  subst e; exact h

theorem Goes.next {s t : State} (h : Keeps s t) : Goes s (.next t) := ⟨t, rfl, h⟩

theorem Goes.ite {s : State} {a b : Host.Outcome State Fault Refusal} {c : Prop} [Decidable c] (ha : Goes s a) (hb : Goes s b) :
    Goes s (if c then a else b) := by
  split <;> assumption

/-! ### Command bodies, list entries, pipeline stages -/

theorem ResultKeeps.ite {s : State} {a b : Result} {c : Prop} [Decidable c] (ha : ResultKeeps s a) (hb : ResultKeeps s b) :
    ResultKeeps s (if c then a else b) := by
  split <;> assumption

theorem ResultKeeps.fail {s : State} {status detail : Nat} : ResultKeeps s (.fail status detail) := trivial

theorem ResultKeeps.failWith {s t : State} {status detail : Nat} {p : List Byte} (h : Keeps s t) : ResultKeeps s (.failWith status detail p t) := h

theorem ResultKeeps.doneMk {s t : State} {payload : List Byte} {clamps : List Nat} {tables : Nat} {commits tokenUsed : Bool} {after : State → State}
    (h : Keeps s t) (ha : ∀ r, Keeps s r → Keeps s (after r)) :
    ResultKeeps s (.done { payload := payload, clamps := clamps, st := t, tables := tables, commits := commits, tokenUsed := tokenUsed, after := after }) :=
  ⟨h, ha⟩

theorem ResultKeeps.retry {s t : State} {token ms : Nat} (h : Keeps s t) : ResultKeeps s (.retry token ms t) := h

theorem ResultKeeps.wait {s t : State} {k : WaitKind} (h : Keeps s t) : ResultKeeps s (.wait k t) := h

theorem ResultKeeps.checked {s : State} {cs : List Check} {k : Unit → Result} (h : ResultKeeps s (k ())) : ResultKeeps s (checked cs k) := by
  unfold Machine.checked
  split
  · trivial
  · exact h

theorem ResultKeeps.of_done {s : State} {r : Result} {d : Done} (e : r = .done d) (h : ResultKeeps s r) : Keeps s d.st := by subst e; exact h.1

theorem ResultKeeps.of_after {s : State} {r : Result} {d : Done} (e : r = .done d) (h : ResultKeeps s r) (t : State) (ht : Keeps s t) :
    Keeps s (d.after t) := by subst e; exact h.2 t ht

theorem EntryKeeps.ite {s : State} {a b : EntryRes} {c : Prop} [Decidable c] (ha : EntryKeeps s a) (hb : EntryKeeps s b) :
    EntryKeeps s (if c then a else b) := by
  split <;> assumption

theorem EntryKeeps.ok {s t : State} {cl : List Nat} (h : Keeps s t) : EntryKeeps s (.ok (t, cl)) := by
  intro r c e
  cases e
  exact h

theorem EntryKeeps.error {s : State} {x : Nat × Nat} : EntryKeeps s (.error x) := by
  intro r c e
  cases e

theorem EntryKeeps.entryOk {s : State} {cs : List Check} {k : Unit → EntryRes} (h : EntryKeeps s (k ())) : EntryKeeps s (entryOk cs k) := by
  unfold Machine.entryOk
  split
  · exact .error
  · exact h

/-- Applying the entries of a list keeps what each entry keeps. -/
theorem keep_applyEntries {s0 : State} {size : Nat} {f : Nat → List Byte → State → EntryRes}
    (hf : ∀ off e s, Keeps s0 s → EntryKeeps s0 (f off e s)) (n off : Nat) (p : List Byte) (s : State) (cl : List Nat) (h : Keeps s0 s) :
    EntryKeeps s0 (applyEntries size f n off p s cl) := by
  induction n generalizing off s cl with
  | zero => exact .ok h
  | succ n ih =>
    unfold applyEntries
    split
    · exact .error
    · rename_i he
      exact ih _ _ _ (hf _ _ _ h _ _ he)

theorem keep_listBody {s0 : State} {size : Nat} {f : Nat → List Byte → State → EntryRes} {g : Nat → List Byte → State → List Check} {tables : Nat}
    {commits : Bool} {s : State} {r : Req} {p : List Byte} (hf : ∀ off e s, Keeps s0 s → EntryKeeps s0 (f off e s)) (h : Keeps s0 s) :
    ResultKeeps s0 (listBody size f g tables commits s r p) := by
  unfold listBody
  dsimp -proj only
  split
  · trivial
  · rename_i he
    split
    · trivial
    · exact ⟨keep_applyEntries hf _ _ _ _ _ h _ _ he, fun _ h => h⟩

theorem StageKeeps.ite {s : State} {a b : StageRes} {c : Prop} [Decidable c] (ha : StageKeeps s a) (hb : StageKeeps s b) :
    StageKeeps s (if c then a else b) := by
  split <;> assumption

theorem StageKeeps.pass {s t : State} {f : Frame} (h : Keeps s t) : StageKeeps s (.pass f t) := h

theorem StageKeeps.drop {s t : State} {f : Frame} (h : Keeps s t) : StageKeeps s (.drop f t) := h

theorem StageKeeps.away {s t : State} (h : Keeps s t) : StageKeeps s (.away t) := h

theorem StageKeeps.andThen {s : State} {r : StageRes} {k : Frame → State → StageRes} (h : StageKeeps s r)
    (hk : ∀ f t, Keeps s t → StageKeeps s (k f t)) : StageKeeps s (r.andThen k) := by
  cases r with
  | pass f t => exact hk f t h
  | drop f t => exact h
  | away t => exact h

theorem StageKeeps.of_pass {s t : State} {f : Frame} {r : StageRes} (e : r = .pass f t) (h : StageKeeps s r) : Keeps s t := by subst e; exact h

theorem StageKeeps.of_drop {s t : State} {f : Frame} {r : StageRes} (e : r = .drop f t) (h : StageKeeps s r) : Keeps s t := by subst e; exact h

theorem StageKeeps.of_away {s t : State} {r : StageRes} (e : r = .away t) (h : StageKeeps s r) : Keeps s t := by subst e; exact h

/-! ### The tracked parts -/

theorem invHost_perf {h : HostLink} (code n : Nat) (i : InvHost h) : InvHost (perfHost h code n) := by
  have hs : ∀ (l : List PerfCnt) (c : Nat), (perfStep code n l c).length = l.length := by
    intro l
    induction l with
    | nil => intro c; rfl
    | cons x l ih => intro c; simp [perfStep, ih]
  obtain ⟨h1, h2, h3⟩ := i
  unfold perfHost
  dsimp only
  split <;> split <;> exact ⟨h1, by simpa [hs] using h2, h3⟩

theorem invHost_clock {h : HostLink} (n : Nat) (i : InvHost h) : InvHost (clockHost h n) :=
  invHost_perf _ _ (invHost_perf _ _ ⟨i.1, i.2, i.3⟩)

theorem keepMb {m n : Mailbox} (i : InvMb m) (h1 : n.counters.length = m.counters.length) (h2 : n.sessions.length = m.sessions.length)
    (h3 : Memory.wf m.windows = true → Memory.wf n.windows = true) : InvMb n :=
  ⟨h1.trans i.counters, h2.trans i.sessions, h3 i.windows⟩

theorem keepHost {m n : HostLink} (i : InvHost m) (h1 : n.msix.length = m.msix.length) (h2 : n.perf.length = m.perf.length)
    (h3 : n.bw.length = m.bw.length) : InvHost n :=
  ⟨h1.trans i.msix, h2.trans i.perf, h3.trans i.bw⟩

theorem keepDma {m n : Dma} (i : InvDma m) (h1 : n.rings.length = m.rings.length) (h2 : n.atu.ctxs.length = m.atu.ctxs.length) : InvDma n :=
  ⟨h1.trans i.rings, h2.trans i.ctxs⟩

theorem invMb_reset : InvMb {} := ⟨rfl, rfl, rfl⟩

theorem invHost_reset : InvHost {} := ⟨rfl, rfl, rfl⟩

theorem invDma_reset : InvDma {} := ⟨rfl, rfl⟩

end Sys2Proof.Machine
end

