-- ==== Sys2Proof/Laws/Ops.lean ====
section
/-! SUPPORT. Laws of Machine/Ops.lean: each operation keeps the queue of waiting commands and soundness; each meaning goes on. -/

namespace Sys2Proof.Machine

theorem keep_State_later {z0 : State} (s : State) (n : Nat) (h : Keeps z0 s) : Keeps z0 (State.later s n) := by
  unfold State.later
  try dsimp -proj only
  repeat' first
    | with_reducible exact h
    | with_reducible apply Keeps.ite
    | (simp -proj only [keeps_mk]; with_reducible refine KeepsParts.of rfl ?_ ?_ ?_ ?_ ?_ ?_)
    | with_reducible exact fun i => i
    | with_reducible exact fun i => InvHost.mk i.1 i.2 i.3
    | with_reducible exact fun i => InvMb.mk i.1 i.2 i.3
    | with_reducible exact fun i => invHost_clock _ i
    | with_reducible assumption
    | with_reducible exact fun _ i => i
    | split
    | exact fun i => keepMb i (by simp [i.1]) (by simp [i.2]) (by intro hw; repeat' first | with_reducible exact hw | with_reducible apply wf_mwrite | with_reducible apply wf_mset | exact rfl)
    | exact fun i => keepHost i (by simp [i.1]) (by simp [i.2]) (by simp [i.3])
    | exact fun i => by simpa using i

theorem keep_State_idle {z0 : State} (s : State) (h : Keeps z0 s) : Keeps z0 (State.idle s) := by
  unfold State.idle
  try dsimp -proj only
  repeat' first
    | with_reducible exact h
    | with_reducible apply Keeps.ite
    | with_reducible apply keep_State_later
    | with_reducible assumption
    | split

theorem keep_State_until {z0 : State} (s : State) (t : Nat) (h : Keeps z0 s) : Keeps z0 (State.until s t) := by
  unfold State.until
  try dsimp -proj only
  repeat' first
    | with_reducible exact h
    | with_reducible apply Keeps.ite
    | with_reducible apply keep_State_later
    | with_reducible assumption
    | split

theorem keep_raiseVec {s0 : State} (s : State) (v : Nat) (h : Keeps s0 s) : Keeps s0 (raiseVec s v) := by
  unfold raiseVec
  dsimp -proj only
  split <;> exact h.modHost fun i => ⟨i.1, i.2, i.3⟩
theorem keep_perfCount {z0 : State} (s : State) (code n : Nat) (h : Keeps z0 s) : Keeps z0 (perfCount s code n) := by
  unfold perfCount
  try dsimp -proj only
  repeat' first
    | with_reducible exact h
    | with_reducible apply Keeps.modHost
    | with_reducible exact fun i => i
    | with_reducible exact fun i => InvHost.mk i.1 i.2 i.3
    | with_reducible exact fun i => invHost_perf _ _ i
    | with_reducible assumption
    | exact fun i => keepHost i (by simp [i.1]) (by simp [i.2]) (by simp [i.3])

theorem keep_logPut {z0 : State} (s : State) (r : LogRec) (h : Keeps z0 s) : Keeps z0 (logPut s r) := by
  unfold logPut
  try dsimp -proj only
  repeat' first
    | with_reducible exact h
    | with_reducible apply Keeps.ite
    | (simp -proj only [keeps_mk]; with_reducible refine KeepsParts.of rfl ?_ ?_ ?_ ?_ ?_ ?_)
    | with_reducible exact fun i => i
    | with_reducible assumption
    | with_reducible exact fun _ i => i
    | split
    | exact fun i => by simpa using i

theorem keep_deliver {z0 : State} (s : State) (q : Nat) (r : EvRec) (h : Keeps z0 s) : Keeps z0 (deliver s q r) := by
  unfold deliver
  try dsimp -proj only
  repeat' first
    | with_reducible exact h
    | with_reducible apply Keeps.ite
    | with_reducible apply Keeps.modEq
    | (simp -proj only [keeps_mk]; with_reducible refine KeepsParts.of rfl ?_ ?_ ?_ ?_ ?_ ?_)
    | with_reducible exact fun i => i
    | with_reducible assumption
    | with_reducible exact fun _ i => i
    | split
    | exact fun i => by simpa using i

theorem keep_emit {z0 : State} (s : State) (r : EvRec) (h : Keeps z0 s) : Keeps z0 (emit s r) := by
  unfold emit
  try dsimp -proj only
  repeat' first
    | with_reducible exact h
    | with_reducible apply Keeps.ite
    | with_reducible apply keep_logPut
    | with_reducible apply keep_deliver
    | with_reducible apply Keeps.modHost
    | (simp -proj only [keeps_mk]; with_reducible refine KeepsParts.of rfl ?_ ?_ ?_ ?_ ?_ ?_)
    | with_reducible exact fun i => i
    | with_reducible exact fun i => InvHost.mk i.1 i.2 i.3
    | with_reducible assumption
    | with_reducible exact fun _ i => i
    | split
    | exact fun i => keepHost i (by simp [i.1]) (by simp [i.2]) (by simp [i.3])
    | exact fun i => by simpa using i

theorem keep_raise {z0 : State} (s : State) (ty sev level source : Nat) (payload : List Byte) (h : Keeps z0 s) : Keeps z0 (raise s ty sev level source payload) := by
  unfold raise
  try dsimp -proj only
  repeat' first
    | with_reducible exact h
    | with_reducible apply keep_emit
    | with_reducible assumption

theorem keep_raiseSampledKey {z0 : State} (s : State) (key ty sev level source : Nat) (mk : Nat → List Byte) (h : Keeps z0 s) : Keeps z0 (raiseSampledKey s key ty sev level source mk) := by
  unfold raiseSampledKey
  try dsimp -proj only
  repeat' first
    | with_reducible exact h
    | with_reducible apply Keeps.ite
    | with_reducible apply keep_raise
    | (simp -proj only [keeps_mk]; with_reducible refine KeepsParts.of rfl ?_ ?_ ?_ ?_ ?_ ?_)
    | with_reducible exact fun i => i
    | with_reducible assumption
    | with_reducible exact fun _ i => i
    | split
    | exact fun i => by simpa using i

theorem keep_raiseSampled {z0 : State} (s : State) (ty sev level source : Nat) (mk : Nat → List Byte) (h : Keeps z0 s) : Keeps z0 (raiseSampled s ty sev level source mk) := by
  unfold raiseSampled
  try dsimp -proj only
  repeat' first
    | with_reducible exact h
    | with_reducible apply keep_raiseSampledKey
    | with_reducible assumption

theorem keep_countFault {s0 : State} (s : State) (ctx : Nat) (h : Keeps s0 s) : Keeps s0 (countFault s ctx) :=
  h.modAtu fun i => by simpa using i
theorem keep_translate {s0 : State} (s : State) (ctx iova : Nat) (write : Bool) (h : Keeps s0 s) : Keeps s0 (translate s ctx iova write).st := by
  unfold translate
  dsimp -proj only
  split
  · exact keep_countFault _ _ h
  · split
    · exact keep_countFault _ _ h
    · split
      · have h1 : Keeps s0 (s.modAtu fun a => { a with hits := wrapAdd 64 a.hits 1 }) := h.modAtu id
        split
        · exact h1
        · exact keep_countFault _ _ h1
      · have h1 := fun n => keep_perfCount (s.modAtu fun a => { a with misses := wrapAdd 64 a.misses 1, reads := wrapAdd 64 a.reads n }) 0x41 1
          (h.modAtu id)
        split
        · exact keep_countFault _ _ (h1 _)
        · split
          · exact Keeps.modAtu (f := fun a => { a with tlb := _ }) (h1 _) fun i => i
          · exact keep_countFault _ _ (h1 _)
theorem keep_dmaRead {s0 : State} (fuel : Nat) (s : State) (ctx iova n off : Nat) (h : Keeps s0 s) :
    Keeps s0 (dmaRead fuel s ctx iova n off).st := by
  induction fuel generalizing s iova n off with
  | zero => exact h
  | succ fuel ih =>
    unfold dmaRead
    dsimp -proj only
    split
    · exact h
    · split
      · exact keep_translate s ctx iova false h
      · exact ih _ _ _ _ (keep_perfCount _ _ _ (keep_translate s ctx iova false h))
theorem keep_dmaWrite {s0 : State} (fuel : Nat) (s : State) (ctx iova : Nat) (p : List Byte) (off : Nat) (h : Keeps s0 s) :
    Keeps s0 (dmaWrite fuel s ctx iova p off).st := by
  induction fuel generalizing s iova p off with
  | zero => exact h
  | succ fuel ih =>
    unfold dmaWrite
    dsimp -proj only
    split
    · exact h
    · have ha := keep_translate s ctx iova true h
      split
      · exact ha
      · exact ih _ _ _ _ (keep_perfCount _ _ _ (keeps_mk.2 (.of rfl ha id id id id (wf_mwrite _ _))))
theorem keep_readHost {z0 : State} (s : State) (ctx iova n : Nat) (h : Keeps z0 s) : Keeps z0 (readHost s ctx iova n).st := by
  unfold readHost
  try dsimp -proj only
  repeat' first
    | with_reducible exact h
    | with_reducible apply keep_dmaRead
    | with_reducible assumption

theorem keep_writeHost {z0 : State} (s : State) (ctx iova : Nat) (p : List Byte) (h : Keeps z0 s) : Keeps z0 (writeHost s ctx iova p).st := by
  unfold writeHost
  try dsimp -proj only
  repeat' first
    | with_reducible exact h
    | with_reducible apply keep_dmaWrite
    | with_reducible assumption

end Sys2Proof.Machine
end

