-- ==== Sys2Proof/Laws/Command.lean ====
section
/-! SUPPORT. Laws of Machine/Command.lean: each operation keeps the queue of waiting commands and soundness; each meaning goes on. -/

namespace Sys2Proof.Machine

theorem keep_settleEpoch {z0 : State} (s : State) (h : Keeps z0 s) : Keeps z0 (settleEpoch s) := by
  unfold settleEpoch
  try dsimp -proj only
  repeat' first
    | with_reducible exact h
    | with_reducible apply Keeps.ite
    | with_reducible apply keep_raise
    | (simp -proj only [keeps_mk]; with_reducible refine KeepsParts.of rfl ?_ ?_ ?_ ?_ ?_ ?_)
    | with_reducible exact fun i => i
    | with_reducible assumption
    | with_reducible exact fun _ i => i
    | split
    | exact fun i => by simpa using i

theorem keep_commitEpoch {s0 : State} (s t : State) (tables opcode tag src waitUs : Nat) (h : Keeps s0 t) :
    Keeps s0 (commitEpoch s t tables opcode tag src waitUs) := by
  unfold commitEpoch
  dsimp -proj only
  exact keep_settleEpoch _ (keep_raise _ _ _ _ _ _ (keeps_mk.2 (.of rfl h id id id id id)))
theorem keep_writeCompletion {z0 : State} (s : State) (c : Cmd) (k : Completion) (remoteOut : List Byte) (h : Keeps z0 s) : Keeps z0 (writeCompletion s c k remoteOut) := by
  unfold writeCompletion
  try dsimp -proj only
  repeat' first
    | with_reducible exact h
    | with_reducible apply Keeps.ite
    | with_reducible apply keep_raiseVec
    | with_reducible apply Keeps.modMb
    | (simp -proj only [keeps_mk]; with_reducible refine KeepsParts.of rfl ?_ ?_ ?_ ?_ ?_ ?_)
    | with_reducible exact fun i => i
    | with_reducible exact fun i => InvMb.mk i.1 i.2 i.3
    | with_reducible assumption
    | with_reducible exact fun _ i => i
    | split
    | exact fun i => keepMb i (by simp [i.1]) (by simp [i.2]) (by intro hw; repeat' first | with_reducible exact hw | with_reducible apply wf_mwrite | with_reducible apply wf_mset | exact rfl)
    | exact fun i => by simpa using i

theorem keep_logDiscarded {z0 : State} (s : State) (c : Cmd) (status : Nat) (h : Keeps z0 s) : Keeps z0 (logDiscarded s c status) := by
  unfold logDiscarded
  try dsimp -proj only
  repeat' first
    | with_reducible exact h
    | with_reducible apply keep_logPut
    | with_reducible assumption

theorem keep_resetEnds {z0 : State} (s : State) (h : Keeps z0 s) : Keeps z0 (resetEnds s) := by
  unfold resetEnds
  try dsimp -proj only
  repeat' first
    | with_reducible exact h
    | with_reducible apply Keeps.ite
    | with_reducible apply keep_raise
    | with_reducible apply Keeps.modMb
    | (simp -proj only [keeps_mk]; with_reducible refine KeepsParts.of rfl ?_ ?_ ?_ ?_ ?_ ?_)
    | with_reducible exact fun i => i
    | with_reducible exact fun i => InvMb.mk i.1 i.2 i.3
    | with_reducible assumption
    | with_reducible exact fun _ i => i
    | split
    | exact fun i => keepMb i (by simp [i.1]) (by simp [i.2]) (by intro hw; repeat' first | with_reducible exact hw | with_reducible apply wf_mwrite | with_reducible apply wf_mset | exact rfl)
    | exact fun i => by simpa using i

theorem keep_finish {z0 : State} (s : State) (c : Cmd) (k : Completion) (remoteOut : List Byte) (drop : Bool) (h : Keeps z0 s) : Keeps z0 (finish s c k remoteOut drop) := by
  unfold finish
  try dsimp -proj only
  repeat' first
    | with_reducible exact h
    | with_reducible apply Keeps.ite
    | with_reducible apply keep_resetEnds
    | with_reducible apply keep_logDiscarded
    | with_reducible apply keep_writeCompletion
    | with_reducible apply Keeps.modMb
    | (simp -proj only [keeps_mk]; with_reducible refine KeepsParts.of rfl ?_ ?_ ?_ ?_ ?_ ?_)
    | with_reducible exact fun i => i
    | with_reducible exact fun i => InvMb.mk i.1 i.2 i.3
    | with_reducible assumption
    | with_reducible exact fun _ i => i
    | split
    | exact fun i => keepMb i (by simp [i.1]) (by simp [i.2]) (by intro hw; repeat' first | with_reducible exact hw | with_reducible apply wf_mwrite | with_reducible apply wf_mset | exact rfl)
    | exact fun i => by simpa using i

theorem keep_mbFault {z0 : State} (s : State) (c : Cmd) (cause status iova : Nat) (h : Keeps z0 s) : Keeps z0 (mbFault s c cause status iova) := by
  unfold mbFault
  try dsimp -proj only
  repeat' first
    | with_reducible exact h
    | with_reducible apply keep_raise
    | with_reducible assumption

theorem keep_reject {z0 : State} (s : State) (c : Cmd) (level status detail : Nat) (drop : Bool) (h : Keeps z0 s) : Keeps z0 (reject s c level status detail drop) := by
  unfold reject
  try dsimp -proj only
  repeat' first
    | with_reducible exact h
    | with_reducible apply Keeps.ite
    | with_reducible apply keep_mbFault
    | with_reducible apply keep_finish
    | with_reducible assumption
    | split

theorem keep_bulkRead {z0 : State} (s : State) (ctx iova n : Nat) (h : Keeps z0 s) : Keeps z0 (bulkRead s ctx iova n).st := by
  unfold bulkRead
  try dsimp -proj only
  repeat' first
    | with_reducible exact h
    | with_reducible apply Keeps.ite
    | with_reducible apply keep_countFault
    | with_reducible apply keep_readHost
    | (simp -proj only [keeps_mk]; with_reducible refine KeepsParts.of rfl ?_ ?_ ?_ ?_ ?_ ?_)
    | with_reducible exact fun i => i
    | with_reducible exact fun i => InvDma.mk i.1 i.2
    | with_reducible assumption
    | with_reducible exact fun _ i => i
    | split
    | exact fun i => keepDma i (by simp [i.1]) (by simp [i.2])
    | exact fun i => by simpa using i

theorem keep_bulkWrite {z0 : State} (s : State) (ctx iova : Nat) (p : List Byte) (h : Keeps z0 s) : Keeps z0 (bulkWrite s ctx iova p).st := by
  unfold bulkWrite
  try dsimp -proj only
  repeat' first
    | with_reducible exact h
    | with_reducible apply keep_countFault
    | with_reducible apply keep_writeHost
    | (simp -proj only [keeps_mk]; with_reducible refine KeepsParts.of rfl ?_ ?_ ?_ ?_ ?_ ?_)
    | with_reducible exact fun i => i
    | with_reducible exact fun i => InvDma.mk i.1 i.2
    | with_reducible assumption
    | with_reducible exact fun _ i => i
    | split
    | exact fun i => keepDma i (by simp [i.1]) (by simp [i.2])
    | exact fun i => by simpa using i

theorem keep_finishDone {s0 : State} (s : State) (c : Cmd) (level : Nat) (d : Done) (drop : Bool) (waitUs : Nat) (h : Keeps s0 s)
    (hd : Keeps s0 d.st) (ha : ∀ t, Keeps s0 t → Keeps s0 (d.after t)) : Keeps s0 (finishDone s c level d drop waitUs) := by
  have hc := fun t tables (ht : Keeps s0 t) => keep_commitEpoch s t tables c.opcode c.req.tag (srcId 3 c.req.src) waitUs ht
  unfold finishDone
  dsimp -proj only
  refine ha _ ?_
  repeat' first
    | with_reducible assumption
    | with_reducible apply Keeps.ite
    | with_reducible apply hc
    | with_reducible apply keep_finish
    | with_reducible apply keep_mbFault
    | with_reducible apply keep_bulkWrite
    | exact keeps_mk.2 ⟨h.queue, fun i => let j := h.inv i; ⟨j.mb, j.eqs, j.host, ⟨j.dma.rings, ((keep_bulkWrite _ _ _ _ hd).inv i).dma.ctxs⟩, j.hostMem⟩⟩
    | split
theorem keep_settle {s0 : State} (s : State) (c : Cmd) (sp : CmdSpec) (res : Result) (drop : Bool) (since : Option Nat) (h : Keeps s0 s)
    (hr : ResultKeeps s0 res) : Keeps s0 (settle s c sp res drop since) := by
  unfold settle
  cases res with
  | fail => exact keep_reject _ _ _ _ _ _ h
  | failWith status detail p st =>
    dsimp -proj only
    refine keep_finish _ _ _ _ _ ?_
    split
    · exact keep_mbFault _ _ _ _ _ hr
    · split
      · exact keep_mbFault _ _ _ _ _ hr
      · exact hr
  | retry => exact keep_finish _ _ _ _ _ hr
  | wait => exact hr.modMb fun i => ⟨i.1, i.2, i.3⟩
  | done d =>
    dsimp -proj only
    split
    · split
      · exact keep_reject _ _ _ _ _ _ h
      · exact h.modMb fun i => ⟨i.1, i.2, i.3⟩
    · exact keep_finishDone _ _ _ _ _ _ h hr.1 hr.2
theorem keep_runCommand {s0 : State} (s : State) {sp : CmdSpec} (r : Req) (order : Nat) (drop : Bool) (since : Option Nat) (hs : SpecKeeps sp)
    (h : Keeps s0 s) : Keeps s0 (runCommand s sp r order drop since) := by
  unfold runCommand
  dsimp -proj only
  repeat' first
    | with_reducible assumption
    | with_reducible apply Keeps.ite
    | with_reducible apply keep_settle
    | with_reducible apply keep_finish
    | with_reducible apply keep_mbFault
    | with_reducible apply keep_bulkRead
    | exact hs _ _ _ _ (by with_reducible first | assumption | exact keep_bulkRead _ _ _ _ h)
    | split
theorem keep_submit {s0 : State} (s : State) {sp : CmdSpec} (r : Req) (hs : SpecKeeps sp) (h : Keeps s0 s) : Keeps s0 (submit s sp r) := by
  unfold submit
  dsimp -proj only
  repeat' first
    | with_reducible assumption
    | with_reducible apply Keeps.ite
    | with_reducible apply keep_runCommand
    | with_reducible apply keep_finish
    | with_reducible apply Keeps.modMb
    | with_reducible exact fun i => InvMb.mk i.1 i.2 i.3
theorem keep_postRequest {z0 : State} (s : State) (opcode : Nat) (r : Req) (h : Keeps z0 s) : Keeps z0 (postRequest s opcode r) := by
  unfold postRequest
  try dsimp -proj only
  repeat' first
    | with_reducible exact h
    | with_reducible apply Keeps.ite
    | with_reducible apply Keeps.modMb
    | (simp -proj only [keeps_mk]; with_reducible refine KeepsParts.of rfl ?_ ?_ ?_ ?_ ?_ ?_)
    | with_reducible exact fun i => i
    | with_reducible exact fun i => InvMb.mk i.1 i.2 i.3
    | with_reducible assumption
    | with_reducible exact fun _ i => i
    | split
    | exact fun i => keepMb i (by simp [i.1]) (by simp [i.2]) (by intro hw; repeat' first | with_reducible exact hw | with_reducible apply wf_mwrite | with_reducible apply wf_mset | exact rfl)
    | exact fun i => by simpa using i

theorem keep_command {sp : CmdSpec} (hs : SpecKeeps sp) (r : Req) (s : State) : Goes s (command sp r s) :=
  .next (keep_submit _ _ hs (keep_postRequest _ _ _ (.refl s)))
end Sys2Proof.Machine
end

