-- ==== Sys2Proof/Laws/TokenOps.lean ====
section
/-! SUPPORT. Laws of Machine/TokenOps.lean: each operation keeps the queue of waiting commands and soundness; each meaning goes on. -/

namespace Sys2Proof.Machine

theorem keep_State_modPorts {z0 : State} (s : State) (f : Ports → Ports) (h : Keeps z0 s) : Keeps z0 (State.modPorts s f) := by
  unfold State.modPorts
  try dsimp -proj only
  repeat' first
    | with_reducible exact h
    | (simp -proj only [keeps_mk]; with_reducible refine KeepsParts.of rfl ?_ ?_ ?_ ?_ ?_ ?_)
    | with_reducible exact fun i => i
    | with_reducible assumption
    | with_reducible exact fun _ i => i
    | exact fun i => by simpa using i

theorem keep_State_modEgr {z0 : State} (s : State) (f : Egress → Egress) (h : Keeps z0 s) : Keeps z0 (State.modEgr s f) := by
  unfold State.modEgr
  try dsimp -proj only
  repeat' first
    | with_reducible exact h
    | (simp -proj only [keeps_mk]; with_reducible refine KeepsParts.of rfl ?_ ?_ ?_ ?_ ?_ ?_)
    | with_reducible exact fun i => i
    | with_reducible assumption
    | with_reducible exact fun _ i => i
    | exact fun i => by simpa using i

theorem keep_State_modPow {z0 : State} (s : State) (f : Power → Power) (h : Keeps z0 s) : Keeps z0 (State.modPow s f) := by
  unfold State.modPow
  try dsimp -proj only
  repeat' first
    | with_reducible exact h
    | (simp -proj only [keeps_mk]; with_reducible refine KeepsParts.of rfl ?_ ?_ ?_ ?_ ?_ ?_)
    | with_reducible exact fun i => i
    | with_reducible assumption
    | with_reducible exact fun _ i => i
    | exact fun i => by simpa using i

theorem keep_modPort {z0 : State} (s : State) (p : Nat) (f : PortRun → PortRun) (h : Keeps z0 s) : Keeps z0 (modPort s p f) := by
  unfold modPort
  try dsimp -proj only
  repeat' first
    | with_reducible exact h
    | with_reducible apply keep_State_modPorts
    | (simp -proj only [keeps_mk]; with_reducible refine KeepsParts.of rfl ?_ ?_ ?_ ?_ ?_ ?_)
    | with_reducible exact fun i => i
    | with_reducible assumption
    | with_reducible exact fun _ i => i
    | exact fun i => by simpa using i

theorem keep_portCount {z0 : State} (s : State) (p pos n : Nat) (h : Keeps z0 s) : Keeps z0 (portCount s p pos n) := by
  unfold portCount
  try dsimp -proj only
  repeat' first
    | with_reducible exact h
    | with_reducible apply Keeps.ite
    | with_reducible apply keep_modPort
    | (simp -proj only [keeps_mk]; with_reducible refine KeepsParts.of rfl ?_ ?_ ?_ ?_ ?_ ?_)
    | with_reducible exact fun i => i
    | with_reducible assumption
    | with_reducible exact fun _ i => i
    | split
    | exact fun i => by simpa using i

theorem keep_bwCount {z0 : State} (s : State) (p : Nat) (ingress : Bool) (len : Nat) (h : Keeps z0 s) : Keeps z0 (bwCount s p ingress len) := by
  unfold bwCount
  try dsimp -proj only
  repeat' first
    | with_reducible exact h
    | with_reducible apply Keeps.ite
    | with_reducible apply Keeps.modHost
    | (simp -proj only [keeps_mk]; with_reducible refine KeepsParts.of rfl ?_ ?_ ?_ ?_ ?_ ?_)
    | with_reducible exact fun i => i
    | with_reducible exact fun i => InvHost.mk i.1 i.2 i.3
    | with_reducible assumption
    | with_reducible exact fun _ i => i
    | split
    | exact fun i => keepHost i (by simp [i.1]) (by simp [i.2]) (by simp [i.3])
    | exact fun i => by simpa using i

theorem keep_requestTokens {z0 : State} (s : State) (c n : Nat) (h : Keeps z0 s) : Keeps z0 (requestTokens s c n).2 := by
  unfold requestTokens
  try dsimp -proj only
  repeat' first
    | with_reducible exact h
    | with_reducible apply Keeps.ite
    | with_reducible apply keep_State_modPow
    | with_reducible apply keep_raiseSampledKey
    | (simp -proj only [keeps_mk]; with_reducible refine KeepsParts.of rfl ?_ ?_ ?_ ?_ ?_ ?_)
    | with_reducible exact fun i => i
    | with_reducible assumption
    | with_reducible exact fun _ i => i
    | split
    | exact fun i => by simpa using i

theorem keep_returnTokens {z0 : State} (s : State) (c : Nat) (h : Keeps z0 s) : Keeps z0 (returnTokens s c) := by
  unfold returnTokens
  try dsimp -proj only
  repeat' first
    | with_reducible exact h
    | with_reducible apply keep_State_modPow
    | (simp -proj only [keeps_mk]; with_reducible refine KeepsParts.of rfl ?_ ?_ ?_ ?_ ?_ ?_)
    | with_reducible exact fun i => i
    | with_reducible assumption
    | with_reducible exact fun _ i => i
    | exact fun i => by simpa using i

end Sys2Proof.Machine
end

