-- ==== Sys2Proof/Laws/ZenithOps.lean ====
section
/-! SUPPORT. Laws of Machine/ZenithOps.lean: each operation keeps the queue of waiting commands and soundness; each meaning goes on. -/

namespace Sys2Proof.Machine

theorem keep_raiseZenith {z0 : State} (s : State) (dev : Bool) (p kind reasons : Nat) (h : Keeps z0 s) : Keeps z0 (raiseZenith s dev p kind reasons) := by
  unfold raiseZenith
  try dsimp -proj only
  repeat' first
    | with_reducible exact h
    | with_reducible apply Keeps.ite
    | with_reducible apply keep_raise
    | with_reducible assumption
    | split

theorem keep_recheckPort {z0 : State} (s : State) (p : Nat) (h : Keeps z0 s) : Keeps z0 (recheckPort s p) := by
  unfold recheckPort
  try dsimp -proj only
  repeat' first
    | with_reducible exact h
    | with_reducible apply Keeps.ite
    | with_reducible apply keep_State_modEgr
    | with_reducible apply keep_raiseZenith
    | (simp -proj only [keeps_mk]; with_reducible refine KeepsParts.of rfl ?_ ?_ ?_ ?_ ?_ ?_)
    | with_reducible exact fun i => i
    | with_reducible assumption
    | with_reducible exact fun _ i => i
    | split
    | exact fun i => by simpa using i

theorem keep_zenithRecheck {z0 : State} (s : State) (h : Keeps z0 s) : Keeps z0 (zenithRecheck s) := by
  unfold zenithRecheck
  try dsimp -proj only
  repeat' first
    | with_reducible exact h
    | with_reducible apply Keeps.ite
    | with_reducible apply keep_State_modEgr
    | with_reducible apply keep_raiseZenith
    | with_reducible apply keep_recheckPort
    | (simp -proj only [keeps_mk]; with_reducible refine KeepsParts.of rfl ?_ ?_ ?_ ?_ ?_ ?_)
    | with_reducible exact fun i => i
    | with_reducible apply Keeps.foldl
    | (intro r x hr; try dsimp -proj only)
    | with_reducible assumption
    | with_reducible exact fun _ i => i
    | split
    | exact fun i => by simpa using i

end Sys2Proof.Machine
end

