-- ==== Sys2Proof/Laws/IngressCmds.lean ====
section
/-! SUPPORT. Laws of Machine/IngressCmds.lean: each operation keeps the queue of waiting commands and soundness; each meaning goes on. -/

namespace Sys2Proof.Machine

theorem keep_State_modIt {z0 : State} (s : State) (f : IngressTables → IngressTables) (h : Keeps z0 s) : Keeps z0 (State.modIt s f) := by
  unfold State.modIt
  try dsimp -proj only
  repeat' first
    | with_reducible exact h
    | (simp -proj only [keeps_mk]; with_reducible refine KeepsParts.of rfl ?_ ?_ ?_ ?_ ?_ ?_)
    | with_reducible exact fun i => i
    | with_reducible assumption
    | with_reducible exact fun _ i => i
    | exact fun i => by simpa using i

theorem keep_State_modIng {z0 : State} (s : State) (f : Ingress → Ingress) (h : Keeps z0 s) : Keeps z0 (State.modIng s f) := by
  unfold State.modIng
  try dsimp -proj only
  repeat' first
    | with_reducible exact h
    | (simp -proj only [keeps_mk]; with_reducible refine KeepsParts.of rfl ?_ ?_ ?_ ?_ ?_ ?_)
    | with_reducible exact fun i => i
    | with_reducible assumption
    | with_reducible exact fun _ i => i
    | exact fun i => by simpa using i

theorem keep_ingCount {z0 : State} (s : State) (tbl idx pos n : Nat) (h : Keeps z0 s) : Keeps z0 (ingCount s tbl idx pos n) := by
  unfold ingCount
  try dsimp -proj only
  repeat' first
    | with_reducible exact h
    | with_reducible apply keep_State_modIng
    | (simp -proj only [keeps_mk]; with_reducible refine KeepsParts.of rfl ?_ ?_ ?_ ?_ ?_ ?_)
    | with_reducible exact fun i => i
    | with_reducible assumption
    | with_reducible exact fun _ i => i
    | exact fun i => by simpa using i

theorem keep_ctrAddIndex {z0 : State} (s : State) (tbl idx : Nat) (h : Keeps z0 s) : Keeps z0 (ctrAddIndex s tbl idx) := by
  unfold ctrAddIndex
  try dsimp -proj only
  repeat' first
    | with_reducible exact h
    | with_reducible apply Keeps.ite
    | with_reducible apply keep_State_modIng
    | (simp -proj only [keeps_mk]; with_reducible refine KeepsParts.of rfl ?_ ?_ ?_ ?_ ?_ ?_)
    | with_reducible exact fun i => i
    | with_reducible assumption
    | with_reducible exact fun _ i => i
    | split
    | exact fun i => by simpa using i

theorem keep_ctrDelIndex {z0 : State} (s : State) (tbl idx : Nat) (h : Keeps z0 s) : Keeps z0 (ctrDelIndex s tbl idx) := by
  unfold ctrDelIndex
  try dsimp -proj only
  repeat' first
    | with_reducible exact h
    | with_reducible apply Keeps.ite
    | with_reducible apply keep_State_modIng
    | (simp -proj only [keeps_mk]; with_reducible refine KeepsParts.of rfl ?_ ?_ ?_ ?_ ?_ ?_)
    | with_reducible exact fun i => i
    | with_reducible assumption
    | with_reducible exact fun _ i => i
    | split
    | exact fun i => by simpa using i

theorem keep_entryDomainMap {z0 : State} (off : Nat) (e : List Byte) (s : State) (h : Keeps z0 s) : EntryKeeps z0 (entryDomainMap off e s) := by
  unfold entryDomainMap
  try dsimp -proj only
  repeat' first
    | with_reducible exact h
    | with_reducible apply Keeps.ite
    | with_reducible apply EntryKeeps.entryOk
    | with_reducible apply EntryKeeps.ite
    | with_reducible exact EntryKeeps.error
    | with_reducible apply EntryKeeps.ok
    | with_reducible apply keep_State_modIt
    | (simp -proj only [keeps_mk]; with_reducible refine KeepsParts.of rfl ?_ ?_ ?_ ?_ ?_ ?_)
    | with_reducible exact fun i => i
    | with_reducible assumption
    | with_reducible exact fun _ i => i
    | split
    | exact fun i => by simpa using i

theorem keep_specDomainMapSet : SpecKeeps specDomainMapSet := by
  intro z0 s r p h
  unfold specDomainMapSet
  try dsimp only
  repeat' first
    | with_reducible exact h
    | with_reducible apply ResultKeeps.checked
    | with_reducible apply ResultKeeps.ite
    | with_reducible exact ResultKeeps.fail
    | with_reducible apply ResultKeeps.doneMk
    | with_reducible apply ResultKeeps.failWith
    | with_reducible apply ResultKeeps.retry
    | with_reducible apply ResultKeeps.wait
    | exact keep_listBody (fun _ _ _ hs => by first | exact keep_entryDomainMap _ _ _ hs) h
    | (with_reducible refine ResultKeeps.of_done (by assumption) ?_; exact keep_listBody (fun _ _ _ hs => by first | exact keep_entryDomainMap _ _ _ hs) h)
    | (with_reducible refine ResultKeeps.of_after (by assumption) ?_ _ hr; exact keep_listBody (fun _ _ _ hs => by first | exact keep_entryDomainMap _ _ _ hs) h)
    | with_reducible apply keep_entryDomainMap
    | (intro r hr; try dsimp only [id])
    | with_reducible assumption

theorem keep_entryDomainParams {z0 : State} (off : Nat) (e : List Byte) (s : State) (h : Keeps z0 s) : EntryKeeps z0 (entryDomainParams off e s) := by
  unfold entryDomainParams
  try dsimp -proj only
  repeat' first
    | with_reducible exact h
    | with_reducible apply EntryKeeps.entryOk
    | with_reducible apply EntryKeeps.ite
    | with_reducible exact EntryKeeps.error
    | with_reducible apply EntryKeeps.ok
    | with_reducible apply keep_State_modIt
    | (simp -proj only [keeps_mk]; with_reducible refine KeepsParts.of rfl ?_ ?_ ?_ ?_ ?_ ?_)
    | with_reducible exact fun i => i
    | with_reducible assumption
    | with_reducible exact fun _ i => i
    | exact fun i => by simpa using i

theorem keep_specDomainParamsSet : SpecKeeps specDomainParamsSet := by
  intro z0 s r p h
  unfold specDomainParamsSet
  try dsimp only
  repeat' first
    | with_reducible exact h
    | with_reducible apply ResultKeeps.checked
    | with_reducible apply ResultKeeps.ite
    | with_reducible exact ResultKeeps.fail
    | with_reducible apply ResultKeeps.doneMk
    | with_reducible apply ResultKeeps.failWith
    | with_reducible apply ResultKeeps.retry
    | with_reducible apply ResultKeeps.wait
    | exact keep_listBody (fun _ _ _ hs => by first | exact keep_entryDomainParams _ _ _ hs) h
    | (with_reducible refine ResultKeeps.of_done (by assumption) ?_; exact keep_listBody (fun _ _ _ hs => by first | exact keep_entryDomainParams _ _ _ hs) h)
    | (with_reducible refine ResultKeeps.of_after (by assumption) ?_ _ hr; exact keep_listBody (fun _ _ _ hs => by first | exact keep_entryDomainParams _ _ _ hs) h)
    | with_reducible apply keep_entryDomainParams
    | (intro r hr; try dsimp only [id])
    | with_reducible assumption

theorem keep_entryVlan {z0 : State} (off : Nat) (e : List Byte) (s : State) (h : Keeps z0 s) : EntryKeeps z0 (entryVlan off e s) := by
  unfold entryVlan
  try dsimp -proj only
  repeat' first
    | with_reducible exact h
    | with_reducible apply Keeps.ite
    | with_reducible apply EntryKeeps.entryOk
    | with_reducible apply EntryKeeps.ite
    | with_reducible exact EntryKeeps.error
    | with_reducible apply EntryKeeps.ok
    | with_reducible apply keep_State_modIt
    | (simp -proj only [keeps_mk]; with_reducible refine KeepsParts.of rfl ?_ ?_ ?_ ?_ ?_ ?_)
    | with_reducible exact fun i => i
    | with_reducible assumption
    | with_reducible exact fun _ i => i
    | split
    | exact fun i => by simpa using i

theorem keep_specVlanSet : SpecKeeps specVlanSet := by
  intro z0 s r p h
  unfold specVlanSet
  try dsimp only
  repeat' first
    | with_reducible exact h
    | with_reducible apply ResultKeeps.checked
    | with_reducible apply ResultKeeps.ite
    | with_reducible exact ResultKeeps.fail
    | with_reducible apply ResultKeeps.doneMk
    | with_reducible apply ResultKeeps.failWith
    | with_reducible apply ResultKeeps.retry
    | with_reducible apply ResultKeeps.wait
    | exact keep_listBody (fun _ _ _ hs => by first | exact keep_entryVlan _ _ _ hs) h
    | (with_reducible refine ResultKeeps.of_done (by assumption) ?_; exact keep_listBody (fun _ _ _ hs => by first | exact keep_entryVlan _ _ _ hs) h)
    | (with_reducible refine ResultKeeps.of_after (by assumption) ?_ _ hr; exact keep_listBody (fun _ _ _ hs => by first | exact keep_entryVlan _ _ _ hs) h)
    | with_reducible apply keep_entryVlan
    | (intro r hr; try dsimp only [id])
    | with_reducible assumption

theorem keep_entryFdbStatic {z0 : State} (off : Nat) (e : List Byte) (s : State) (h : Keeps z0 s) : EntryKeeps z0 (entryFdbStatic off e s) := by
  unfold entryFdbStatic
  try dsimp -proj only
  repeat' first
    | with_reducible exact h
    | with_reducible apply Keeps.ite
    | with_reducible apply EntryKeeps.entryOk
    | with_reducible apply EntryKeeps.ite
    | with_reducible exact EntryKeeps.error
    | with_reducible apply EntryKeeps.ok
    | with_reducible apply keep_State_modIt
    | with_reducible apply keep_State_modIng
    | (simp -proj only [keeps_mk]; with_reducible refine KeepsParts.of rfl ?_ ?_ ?_ ?_ ?_ ?_)
    | with_reducible exact fun i => i
    | with_reducible assumption
    | with_reducible exact fun _ i => i
    | split
    | exact fun i => by simpa using i

theorem keep_specFdbStaticSet : SpecKeeps specFdbStaticSet := by
  intro z0 s r p h
  unfold specFdbStaticSet
  try dsimp only
  repeat' first
    | with_reducible exact h
    | with_reducible apply ResultKeeps.checked
    | with_reducible apply ResultKeeps.ite
    | with_reducible exact ResultKeeps.fail
    | with_reducible apply ResultKeeps.doneMk
    | with_reducible apply ResultKeeps.failWith
    | with_reducible apply ResultKeeps.retry
    | with_reducible apply ResultKeeps.wait
    | exact keep_listBody (fun _ _ _ hs => by first | exact keep_entryFdbStatic _ _ _ hs) h
    | (with_reducible refine ResultKeeps.of_done (by assumption) ?_; exact keep_listBody (fun _ _ _ hs => by first | exact keep_entryFdbStatic _ _ _ hs) h)
    | (with_reducible refine ResultKeeps.of_after (by assumption) ?_ _ hr; exact keep_listBody (fun _ _ _ hs => by first | exact keep_entryFdbStatic _ _ _ hs) h)
    | with_reducible apply keep_entryFdbStatic
    | (intro r hr; try dsimp only [id])
    | with_reducible assumption

theorem keep_specFdbFlush : SpecKeeps specFdbFlush := by
  intro z0 s r p h
  unfold specFdbFlush
  try dsimp only
  repeat' first
    | with_reducible exact h
    | with_reducible apply ResultKeeps.checked
    | with_reducible apply ResultKeeps.ite
    | with_reducible exact ResultKeeps.fail
    | with_reducible apply ResultKeeps.doneMk
    | with_reducible apply ResultKeeps.failWith
    | with_reducible apply ResultKeeps.retry
    | with_reducible apply ResultKeeps.wait
    | with_reducible apply keep_State_modIng
    | (simp -proj only [keeps_mk]; with_reducible refine KeepsParts.of rfl ?_ ?_ ?_ ?_ ?_ ?_)
    | with_reducible exact fun i => i
    | (intro r hr; try dsimp only [id])
    | with_reducible assumption
    | with_reducible exact fun _ i => i
    | exact fun i => by simpa using i

theorem keep_specFdbRead : SpecKeeps specFdbRead := by
  intro z0 s r p h
  unfold specFdbRead
  try dsimp only
  repeat' first
    | with_reducible exact h
    | with_reducible apply ResultKeeps.checked
    | with_reducible apply ResultKeeps.ite
    | with_reducible exact ResultKeeps.fail
    | with_reducible apply ResultKeeps.doneMk
    | with_reducible apply ResultKeeps.failWith
    | with_reducible apply ResultKeeps.retry
    | with_reducible apply ResultKeeps.wait
    | (intro r hr; try dsimp only [id])
    | with_reducible assumption

theorem keep_entryStreamId {z0 : State} (off : Nat) (e : List Byte) (s : State) (h : Keeps z0 s) : EntryKeeps z0 (entryStreamId off e s) := by
  unfold entryStreamId
  try dsimp -proj only
  repeat' first
    | with_reducible exact h
    | with_reducible apply Keeps.ite
    | with_reducible apply EntryKeeps.entryOk
    | with_reducible apply EntryKeeps.ite
    | with_reducible exact EntryKeeps.error
    | with_reducible apply EntryKeeps.ok
    | with_reducible apply keep_State_modIt
    | (simp -proj only [keeps_mk]; with_reducible refine KeepsParts.of rfl ?_ ?_ ?_ ?_ ?_ ?_)
    | with_reducible exact fun i => i
    | with_reducible assumption
    | with_reducible exact fun _ i => i
    | split
    | exact fun i => by simpa using i

theorem keep_specStreamIdSet : SpecKeeps specStreamIdSet := by
  intro z0 s r p h
  unfold specStreamIdSet
  try dsimp only
  repeat' first
    | with_reducible exact h
    | with_reducible apply ResultKeeps.checked
    | with_reducible apply ResultKeeps.ite
    | with_reducible exact ResultKeeps.fail
    | with_reducible apply ResultKeeps.doneMk
    | with_reducible apply ResultKeeps.failWith
    | with_reducible apply ResultKeeps.retry
    | with_reducible apply ResultKeeps.wait
    | exact keep_listBody (fun _ _ _ hs => by first | exact keep_entryStreamId _ _ _ hs) h
    | (with_reducible refine ResultKeeps.of_done (by assumption) ?_; exact keep_listBody (fun _ _ _ hs => by first | exact keep_entryStreamId _ _ _ hs) h)
    | (with_reducible refine ResultKeeps.of_after (by assumption) ?_ _ hr; exact keep_listBody (fun _ _ _ hs => by first | exact keep_entryStreamId _ _ _ hs) h)
    | with_reducible apply keep_entryStreamId
    | (intro r hr; try dsimp only [id])
    | with_reducible assumption

theorem keep_entryStream {z0 : State} (off : Nat) (e : List Byte) (s : State) (h : Keeps z0 s) : EntryKeeps z0 (entryStream off e s) := by
  unfold entryStream
  try dsimp -proj only
  repeat' first
    | with_reducible exact h
    | with_reducible apply Keeps.ite
    | with_reducible apply EntryKeeps.entryOk
    | with_reducible apply EntryKeeps.ite
    | with_reducible exact EntryKeeps.error
    | with_reducible apply EntryKeeps.ok
    | with_reducible apply keep_State_modIt
    | (simp -proj only [keeps_mk]; with_reducible refine KeepsParts.of rfl ?_ ?_ ?_ ?_ ?_ ?_)
    | with_reducible exact fun i => i
    | with_reducible assumption
    | with_reducible exact fun _ i => i
    | split
    | exact fun i => by simpa using i

theorem keep_specStreamSet : SpecKeeps specStreamSet := by
  intro z0 s r p h
  unfold specStreamSet
  try dsimp only
  repeat' first
    | with_reducible exact h
    | with_reducible apply ResultKeeps.checked
    | with_reducible apply ResultKeeps.ite
    | with_reducible exact ResultKeeps.fail
    | with_reducible apply ResultKeeps.doneMk
    | with_reducible apply ResultKeeps.failWith
    | with_reducible apply ResultKeeps.retry
    | with_reducible apply ResultKeeps.wait
    | exact keep_listBody (fun _ _ _ hs => by first | exact keep_entryStream _ _ _ hs) h
    | (with_reducible refine ResultKeeps.of_done (by assumption) ?_; exact keep_listBody (fun _ _ _ hs => by first | exact keep_entryStream _ _ _ hs) h)
    | (with_reducible refine ResultKeeps.of_after (by assumption) ?_ _ hr; exact keep_listBody (fun _ _ _ hs => by first | exact keep_entryStream _ _ _ hs) h)
    | with_reducible apply keep_entryStream
    | (intro r hr; try dsimp only [id])
    | with_reducible assumption

theorem keep_entryFilter {z0 : State} (off : Nat) (e : List Byte) (s : State) (h : Keeps z0 s) : EntryKeeps z0 (entryFilter off e s) := by
  unfold entryFilter
  try dsimp -proj only
  repeat' first
    | with_reducible exact h
    | with_reducible apply Keeps.ite
    | with_reducible apply EntryKeeps.entryOk
    | with_reducible apply EntryKeeps.ite
    | with_reducible exact EntryKeeps.error
    | with_reducible apply EntryKeeps.ok
    | with_reducible apply keep_ctrDelIndex
    | with_reducible apply keep_State_modIt
    | with_reducible apply keep_ctrAddIndex
    | (simp -proj only [keeps_mk]; with_reducible refine KeepsParts.of rfl ?_ ?_ ?_ ?_ ?_ ?_)
    | with_reducible exact fun i => i
    | with_reducible assumption
    | with_reducible exact fun _ i => i
    | split
    | exact fun i => by simpa using i

theorem keep_specFilterSet : SpecKeeps specFilterSet := by
  intro z0 s r p h
  unfold specFilterSet
  try dsimp only
  repeat' first
    | with_reducible exact h
    | with_reducible apply ResultKeeps.checked
    | with_reducible apply ResultKeeps.ite
    | with_reducible exact ResultKeeps.fail
    | with_reducible apply ResultKeeps.doneMk
    | with_reducible apply ResultKeeps.failWith
    | with_reducible apply ResultKeeps.retry
    | with_reducible apply ResultKeeps.wait
    | exact keep_listBody (fun _ _ _ hs => by first | exact keep_entryFilter _ _ _ hs) h
    | (with_reducible refine ResultKeeps.of_done (by assumption) ?_; exact keep_listBody (fun _ _ _ hs => by first | exact keep_entryFilter _ _ _ hs) h)
    | (with_reducible refine ResultKeeps.of_after (by assumption) ?_ _ hr; exact keep_listBody (fun _ _ _ hs => by first | exact keep_entryFilter _ _ _ hs) h)
    | with_reducible apply keep_entryFilter
    | (intro r hr; try dsimp only [id])
    | with_reducible assumption

theorem keep_bodyGateSet {z0 : State} (s : State) (x1 : Req) (p : List Byte) (h : Keeps z0 s) : ResultKeeps z0 (bodyGateSet s x1 p) := by
  unfold bodyGateSet
  try dsimp -proj only
  repeat' first
    | with_reducible exact h
    | with_reducible apply Keeps.ite
    | with_reducible apply ResultKeeps.checked
    | with_reducible apply ResultKeeps.ite
    | with_reducible exact ResultKeeps.fail
    | with_reducible apply ResultKeeps.doneMk
    | with_reducible apply ResultKeeps.failWith
    | with_reducible apply ResultKeeps.retry
    | with_reducible apply ResultKeeps.wait
    | with_reducible apply keep_State_modIt
    | with_reducible apply keep_State_modIng
    | (simp -proj only [keeps_mk]; with_reducible refine KeepsParts.of rfl ?_ ?_ ?_ ?_ ?_ ?_)
    | with_reducible exact fun i => i
    | (intro r hr; try dsimp only [id])
    | with_reducible assumption
    | with_reducible exact fun _ i => i
    | split
    | exact fun i => by simpa using i

theorem keep_specGateSet : SpecKeeps specGateSet := by
  intro z0 s r p h
  unfold specGateSet
  try dsimp only
  repeat' first
    | with_reducible exact h
    | with_reducible apply ResultKeeps.checked
    | with_reducible apply ResultKeeps.ite
    | with_reducible exact ResultKeeps.fail
    | with_reducible apply ResultKeeps.doneMk
    | with_reducible apply ResultKeeps.failWith
    | with_reducible apply ResultKeeps.retry
    | with_reducible apply ResultKeeps.wait
    | with_reducible apply keep_bodyGateSet
    | (intro r hr; try dsimp only [id])
    | with_reducible assumption

theorem keep_entryMeter {z0 : State} (off : Nat) (e : List Byte) (s : State) (h : Keeps z0 s) : EntryKeeps z0 (entryMeter off e s) := by
  unfold entryMeter
  try dsimp -proj only
  repeat' first
    | with_reducible exact h
    | with_reducible apply Keeps.ite
    | with_reducible apply EntryKeeps.entryOk
    | with_reducible apply EntryKeeps.ite
    | with_reducible exact EntryKeeps.error
    | with_reducible apply EntryKeeps.ok
    | with_reducible apply keep_ctrDelIndex
    | with_reducible apply keep_State_modIt
    | with_reducible apply keep_ctrAddIndex
    | with_reducible apply keep_State_modIng
    | (simp -proj only [keeps_mk]; with_reducible refine KeepsParts.of rfl ?_ ?_ ?_ ?_ ?_ ?_)
    | with_reducible exact fun i => i
    | with_reducible assumption
    | with_reducible exact fun _ i => i
    | split
    | exact fun i => by simpa using i

theorem keep_specMeterSet : SpecKeeps specMeterSet := by
  intro z0 s r p h
  unfold specMeterSet
  try dsimp only
  repeat' first
    | with_reducible exact h
    | with_reducible apply ResultKeeps.checked
    | with_reducible apply ResultKeeps.ite
    | with_reducible exact ResultKeeps.fail
    | with_reducible apply ResultKeeps.doneMk
    | with_reducible apply ResultKeeps.failWith
    | with_reducible apply ResultKeeps.retry
    | with_reducible apply ResultKeeps.wait
    | exact keep_listBody (fun _ _ _ hs => by first | exact keep_entryMeter _ _ _ hs) h
    | (with_reducible refine ResultKeeps.of_done (by assumption) ?_; exact keep_listBody (fun _ _ _ hs => by first | exact keep_entryMeter _ _ _ hs) h)
    | (with_reducible refine ResultKeeps.of_after (by assumption) ?_ _ hr; exact keep_listBody (fun _ _ _ hs => by first | exact keep_entryMeter _ _ _ hs) h)
    | with_reducible apply keep_entryMeter
    | (intro r hr; try dsimp only [id])
    | with_reducible assumption

theorem keep_raiseFrerReset {z0 : State} (s : State) (src i cause : Nat) (h : Keeps z0 s) : Keeps z0 (raiseFrerReset s src i cause) := by
  unfold raiseFrerReset
  try dsimp -proj only
  repeat' first
    | with_reducible exact h
    | with_reducible apply keep_raise
    | with_reducible assumption

theorem keep_resetHistory {z0 : State} (s : State) (i : Nat) (h : Keeps z0 s) : Keeps z0 (resetHistory s i) := by
  unfold resetHistory
  try dsimp -proj only
  repeat' first
    | with_reducible exact h
    | with_reducible apply keep_ingCount
    | with_reducible apply keep_State_modIng
    | (simp -proj only [keeps_mk]; with_reducible refine KeepsParts.of rfl ?_ ?_ ?_ ?_ ?_ ?_)
    | with_reducible exact fun i => i
    | with_reducible assumption
    | with_reducible exact fun _ i => i
    | exact fun i => by simpa using i

theorem keep_entryFrer {z0 : State} (off : Nat) (e : List Byte) (s : State) (h : Keeps z0 s) : EntryKeeps z0 (entryFrer off e s) := by
  unfold entryFrer
  try dsimp -proj only
  repeat' first
    | with_reducible exact h
    | with_reducible apply Keeps.ite
    | with_reducible apply EntryKeeps.entryOk
    | with_reducible apply EntryKeeps.ite
    | with_reducible exact EntryKeeps.error
    | with_reducible apply EntryKeeps.ok
    | with_reducible apply keep_ctrDelIndex
    | with_reducible apply keep_State_modIt
    | with_reducible apply keep_ctrAddIndex
    | with_reducible apply keep_State_modIng
    | with_reducible apply keep_resetHistory
    | with_reducible apply keep_raiseFrerReset
    | (simp -proj only [keeps_mk]; with_reducible refine KeepsParts.of rfl ?_ ?_ ?_ ?_ ?_ ?_)
    | with_reducible exact fun i => i
    | with_reducible assumption
    | with_reducible exact fun _ i => i
    | split
    | exact fun i => by simpa using i

theorem keep_specFrerSet : SpecKeeps specFrerSet := by
  intro z0 s r p h
  unfold specFrerSet
  try dsimp only
  repeat' first
    | with_reducible exact h
    | with_reducible apply ResultKeeps.checked
    | with_reducible apply ResultKeeps.ite
    | with_reducible exact ResultKeeps.fail
    | with_reducible apply ResultKeeps.doneMk
    | with_reducible apply ResultKeeps.failWith
    | with_reducible apply ResultKeeps.retry
    | with_reducible apply ResultKeeps.wait
    | exact keep_listBody (fun _ _ _ hs => by first | exact keep_entryFrer _ _ _ hs) h
    | (with_reducible refine ResultKeeps.of_done (by assumption) ?_; exact keep_listBody (fun _ _ _ hs => by first | exact keep_entryFrer _ _ _ hs) h)
    | (with_reducible refine ResultKeeps.of_after (by assumption) ?_ _ hr; exact keep_listBody (fun _ _ _ hs => by first | exact keep_entryFrer _ _ _ hs) h)
    | with_reducible apply keep_entryFrer
    | (intro r hr; try dsimp only [id])
    | with_reducible assumption

theorem keep_entryMirror {z0 : State} (off : Nat) (e : List Byte) (s : State) (h : Keeps z0 s) : EntryKeeps z0 (entryMirror off e s) := by
  unfold entryMirror
  try dsimp -proj only
  repeat' first
    | with_reducible exact h
    | with_reducible apply EntryKeeps.entryOk
    | with_reducible apply EntryKeeps.ite
    | with_reducible exact EntryKeeps.error
    | with_reducible apply EntryKeeps.ok
    | with_reducible apply keep_State_modIng
    | (simp -proj only [keeps_mk]; with_reducible refine KeepsParts.of rfl ?_ ?_ ?_ ?_ ?_ ?_)
    | with_reducible exact fun i => i
    | with_reducible assumption
    | with_reducible exact fun _ i => i
    | exact fun i => by simpa using i

theorem keep_specMirrorSet : SpecKeeps specMirrorSet := by
  intro z0 s r p h
  unfold specMirrorSet
  try dsimp only
  repeat' first
    | with_reducible exact h
    | with_reducible apply ResultKeeps.checked
    | with_reducible apply ResultKeeps.ite
    | with_reducible exact ResultKeeps.fail
    | with_reducible apply ResultKeeps.doneMk
    | with_reducible apply ResultKeeps.failWith
    | with_reducible apply ResultKeeps.retry
    | with_reducible apply ResultKeeps.wait
    | exact keep_listBody (fun _ _ _ hs => by first | exact keep_entryMirror _ _ _ hs) h
    | (with_reducible refine ResultKeeps.of_done (by assumption) ?_; exact keep_listBody (fun _ _ _ hs => by first | exact keep_entryMirror _ _ _ hs) h)
    | (with_reducible refine ResultKeeps.of_after (by assumption) ?_ _ hr; exact keep_listBody (fun _ _ _ hs => by first | exact keep_entryMirror _ _ _ hs) h)
    | with_reducible apply keep_entryMirror
    | (intro r hr; try dsimp only [id])
    | with_reducible assumption

theorem keep_specCountersGet : SpecKeeps specCountersGet := by
  intro z0 s r p h
  unfold specCountersGet
  try dsimp only
  repeat' first
    | with_reducible exact h
    | with_reducible apply Keeps.ite
    | with_reducible apply ResultKeeps.checked
    | with_reducible apply ResultKeeps.ite
    | with_reducible exact ResultKeeps.fail
    | with_reducible apply ResultKeeps.doneMk
    | with_reducible apply ResultKeeps.failWith
    | with_reducible apply ResultKeeps.retry
    | with_reducible apply ResultKeeps.wait
    | with_reducible apply keep_State_modIng
    | (simp -proj only [keeps_mk]; with_reducible refine KeepsParts.of rfl ?_ ?_ ?_ ?_ ?_ ?_)
    | with_reducible exact fun i => i
    | (intro r hr; try dsimp only [id])
    | with_reducible assumption
    | with_reducible exact fun _ i => i
    | split
    | exact fun i => by simpa using i

theorem keep_specStateClear : SpecKeeps specStateClear := by
  intro z0 s r p h
  unfold specStateClear
  try dsimp only
  repeat' first
    | with_reducible exact h
    | with_reducible apply ResultKeeps.checked
    | with_reducible apply ResultKeeps.ite
    | with_reducible exact ResultKeeps.fail
    | with_reducible apply ResultKeeps.doneMk
    | with_reducible apply ResultKeeps.failWith
    | with_reducible apply ResultKeeps.retry
    | with_reducible apply ResultKeeps.wait
    | with_reducible apply keep_State_modIng
    | with_reducible apply keep_resetHistory
    | with_reducible apply keep_raiseFrerReset
    | (simp -proj only [keeps_mk]; with_reducible refine KeepsParts.of rfl ?_ ?_ ?_ ?_ ?_ ?_)
    | with_reducible exact fun i => i
    | (intro r hr; try dsimp only [id])
    | with_reducible assumption
    | with_reducible exact fun _ i => i
    | split
    | exact fun i => by simpa using i

theorem keep_specTableRead : SpecKeeps specTableRead := by
  intro z0 s r p h
  unfold specTableRead
  try dsimp only
  repeat' first
    | with_reducible exact h
    | with_reducible apply ResultKeeps.checked
    | with_reducible apply ResultKeeps.ite
    | with_reducible exact ResultKeeps.fail
    | with_reducible apply ResultKeeps.doneMk
    | with_reducible apply ResultKeeps.failWith
    | with_reducible apply ResultKeeps.retry
    | with_reducible apply ResultKeeps.wait
    | (intro r hr; try dsimp only [id])
    | with_reducible assumption

theorem keep_execDomainMapSet (r : Req) (s : State) : Goes s (execDomainMapSet r s) := keep_command keep_specDomainMapSet r s

theorem keep_execDomainParamsSet (r : Req) (s : State) : Goes s (execDomainParamsSet r s) := keep_command keep_specDomainParamsSet r s

theorem keep_execVlanSet (r : Req) (s : State) : Goes s (execVlanSet r s) := keep_command keep_specVlanSet r s

theorem keep_execFdbStaticSet (r : Req) (s : State) : Goes s (execFdbStaticSet r s) := keep_command keep_specFdbStaticSet r s

theorem keep_execFdbFlush (r : Req) (s : State) : Goes s (execFdbFlush r s) := keep_command keep_specFdbFlush r s

theorem keep_execFdbRead (r : Req) (s : State) : Goes s (execFdbRead r s) := keep_command keep_specFdbRead r s

theorem keep_execStreamIdSet (r : Req) (s : State) : Goes s (execStreamIdSet r s) := keep_command keep_specStreamIdSet r s

theorem keep_execStreamSet (r : Req) (s : State) : Goes s (execStreamSet r s) := keep_command keep_specStreamSet r s

theorem keep_execFilterSet (r : Req) (s : State) : Goes s (execFilterSet r s) := keep_command keep_specFilterSet r s

theorem keep_execGateSet (r : Req) (s : State) : Goes s (execGateSet r s) := keep_command keep_specGateSet r s

theorem keep_execMeterSet (r : Req) (s : State) : Goes s (execMeterSet r s) := keep_command keep_specMeterSet r s

theorem keep_execFrerSet (r : Req) (s : State) : Goes s (execFrerSet r s) := keep_command keep_specFrerSet r s

theorem keep_execMirrorSet (r : Req) (s : State) : Goes s (execMirrorSet r s) := keep_command keep_specMirrorSet r s

theorem keep_execCountersGet (r : Req) (s : State) : Goes s (execCountersGet r s) := keep_command keep_specCountersGet r s

theorem keep_execStateClear (r : Req) (s : State) : Goes s (execStateClear r s) := keep_command keep_specStateClear r s

theorem keep_execTableRead (r : Req) (s : State) : Goes s (execTableRead r s) := keep_command keep_specTableRead r s

end Sys2Proof.Machine
end

