-- ==== Sys2Proof/Laws/HorizonCmds.lean ====
section
/-! SUPPORT. Laws of Machine/HorizonCmds.lean: each operation keeps the queue of waiting commands and soundness; each meaning goes on. -/

namespace Sys2Proof.Machine

theorem keep_State_modHt {z0 : State} (s : State) (f : HorizonTables → HorizonTables) (h : Keeps z0 s) : Keeps z0 (State.modHt s f) := by
  unfold State.modHt
  try dsimp -proj only
  repeat' first
    | with_reducible exact h
    | (simp -proj only [keeps_mk]; with_reducible refine KeepsParts.of rfl ?_ ?_ ?_ ?_ ?_ ?_)
    | with_reducible exact fun i => i
    | with_reducible assumption
    | with_reducible exact fun _ i => i
    | exact fun i => by simpa using i

theorem keep_State_modHor {z0 : State} (s : State) (f : Horizon → Horizon) (h : Keeps z0 s) : Keeps z0 (State.modHor s f) := by
  unfold State.modHor
  try dsimp -proj only
  repeat' first
    | with_reducible exact h
    | (simp -proj only [keeps_mk]; with_reducible refine KeepsParts.of rfl ?_ ?_ ?_ ?_ ?_ ?_)
    | with_reducible exact fun i => i
    | with_reducible assumption
    | with_reducible exact fun _ i => i
    | exact fun i => by simpa using i

theorem keep_horCount {z0 : State} (s : State) (tbl idx pos n : Nat) (h : Keeps z0 s) : Keeps z0 (horCount s tbl idx pos n) := by
  unfold horCount
  try dsimp -proj only
  repeat' first
    | with_reducible exact h
    | with_reducible apply keep_State_modHor
    | (simp -proj only [keeps_mk]; with_reducible refine KeepsParts.of rfl ?_ ?_ ?_ ?_ ?_ ?_)
    | with_reducible exact fun i => i
    | with_reducible assumption
    | with_reducible exact fun _ i => i
    | exact fun i => by simpa using i

theorem keep_horAddIndex {z0 : State} (s : State) (tbl idx : Nat) (h : Keeps z0 s) : Keeps z0 (horAddIndex s tbl idx) := by
  unfold horAddIndex
  try dsimp -proj only
  repeat' first
    | with_reducible exact h
    | with_reducible apply Keeps.ite
    | with_reducible apply keep_State_modHor
    | (simp -proj only [keeps_mk]; with_reducible refine KeepsParts.of rfl ?_ ?_ ?_ ?_ ?_ ?_)
    | with_reducible exact fun i => i
    | with_reducible assumption
    | with_reducible exact fun _ i => i
    | split
    | exact fun i => by simpa using i

theorem keep_horDelIndex {z0 : State} (s : State) (tbl idx : Nat) (h : Keeps z0 s) : Keeps z0 (horDelIndex s tbl idx) := by
  unfold horDelIndex
  try dsimp -proj only
  repeat' first
    | with_reducible exact h
    | with_reducible apply Keeps.ite
    | with_reducible apply keep_State_modHor
    | (simp -proj only [keeps_mk]; with_reducible refine KeepsParts.of rfl ?_ ?_ ?_ ?_ ?_ ?_)
    | with_reducible exact fun i => i
    | with_reducible assumption
    | with_reducible exact fun _ i => i
    | split
    | exact fun i => by simpa using i

theorem keep_entryZone {z0 : State} (off : Nat) (e : List Byte) (s : State) (h : Keeps z0 s) : EntryKeeps z0 (entryZone off e s) := by
  unfold entryZone
  try dsimp -proj only
  repeat' first
    | with_reducible exact h
    | with_reducible apply Keeps.ite
    | with_reducible apply EntryKeeps.entryOk
    | with_reducible apply EntryKeeps.ite
    | with_reducible exact EntryKeeps.error
    | with_reducible apply EntryKeeps.ok
    | with_reducible apply keep_horDelIndex
    | with_reducible apply keep_State_modHt
    | with_reducible apply keep_horAddIndex
    | (simp -proj only [keeps_mk]; with_reducible refine KeepsParts.of rfl ?_ ?_ ?_ ?_ ?_ ?_)
    | with_reducible exact fun i => i
    | with_reducible assumption
    | with_reducible exact fun _ i => i
    | split
    | exact fun i => by simpa using i

theorem keep_specZoneSet : SpecKeeps specZoneSet := by
  intro z0 s r p h
  unfold specZoneSet
  try dsimp only
  repeat' first
    | with_reducible exact h
    | with_reducible apply ResultKeeps.checked
    | with_reducible apply ResultKeeps.ite
    | with_reducible exact ResultKeeps.fail
    | with_reducible apply ResultKeeps.doneMk
    | with_reducible apply ResultKeeps.failWith
    | with_reducible apply ResultKeeps.retry
    | with_reducible apply ResultKeeps.wait
    | exact keep_listBody (fun _ _ _ hs => by first | exact keep_entryZone _ _ _ hs) h
    | (with_reducible refine ResultKeeps.of_done (by assumption) ?_; exact keep_listBody (fun _ _ _ hs => by first | exact keep_entryZone _ _ _ hs) h)
    | (with_reducible refine ResultKeeps.of_after (by assumption) ?_ _ hr; exact keep_listBody (fun _ _ _ hs => by first | exact keep_entryZone _ _ _ hs) h)
    | with_reducible apply keep_entryZone
    | (intro r hr; try dsimp only [id])
    | with_reducible assumption

theorem keep_entryZoneMap {z0 : State} (off : Nat) (e : List Byte) (s : State) (h : Keeps z0 s) : EntryKeeps z0 (entryZoneMap off e s) := by
  unfold entryZoneMap
  try dsimp -proj only
  repeat' first
    | with_reducible exact h
    | with_reducible apply Keeps.ite
    | with_reducible apply EntryKeeps.entryOk
    | with_reducible apply EntryKeeps.ite
    | with_reducible exact EntryKeeps.error
    | with_reducible apply EntryKeeps.ok
    | with_reducible apply keep_State_modHt
    | (simp -proj only [keeps_mk]; with_reducible refine KeepsParts.of rfl ?_ ?_ ?_ ?_ ?_ ?_)
    | with_reducible exact fun i => i
    | with_reducible assumption
    | with_reducible exact fun _ i => i
    | split
    | exact fun i => by simpa using i

theorem keep_specZoneMapSet : SpecKeeps specZoneMapSet := by
  intro z0 s r p h
  unfold specZoneMapSet
  try dsimp only
  repeat' first
    | with_reducible exact h
    | with_reducible apply ResultKeeps.checked
    | with_reducible apply ResultKeeps.ite
    | with_reducible exact ResultKeeps.fail
    | with_reducible apply ResultKeeps.doneMk
    | with_reducible apply ResultKeeps.failWith
    | with_reducible apply ResultKeeps.retry
    | with_reducible apply ResultKeeps.wait
    | exact keep_listBody (fun _ _ _ hs => by first | exact keep_entryZoneMap _ _ _ hs) h
    | (with_reducible refine ResultKeeps.of_done (by assumption) ?_; exact keep_listBody (fun _ _ _ hs => by first | exact keep_entryZoneMap _ _ _ hs) h)
    | (with_reducible refine ResultKeeps.of_after (by assumption) ?_ _ hr; exact keep_listBody (fun _ _ _ hs => by first | exact keep_entryZoneMap _ _ _ hs) h)
    | with_reducible apply keep_entryZoneMap
    | (intro r hr; try dsimp only [id])
    | with_reducible assumption

theorem keep_entryZonePair {z0 : State} (off : Nat) (e : List Byte) (s : State) (h : Keeps z0 s) : EntryKeeps z0 (entryZonePair off e s) := by
  unfold entryZonePair
  try dsimp -proj only
  repeat' first
    | with_reducible exact h
    | with_reducible apply Keeps.ite
    | with_reducible apply EntryKeeps.entryOk
    | with_reducible apply EntryKeeps.ite
    | with_reducible exact EntryKeeps.error
    | with_reducible apply EntryKeeps.ok
    | with_reducible apply keep_State_modHt
    | (simp -proj only [keeps_mk]; with_reducible refine KeepsParts.of rfl ?_ ?_ ?_ ?_ ?_ ?_)
    | with_reducible exact fun i => i
    | with_reducible assumption
    | with_reducible exact fun _ i => i
    | split
    | exact fun i => by simpa using i

theorem keep_specZonePairSet : SpecKeeps specZonePairSet := by
  intro z0 s r p h
  unfold specZonePairSet
  try dsimp only
  repeat' first
    | with_reducible exact h
    | with_reducible apply ResultKeeps.checked
    | with_reducible apply ResultKeeps.ite
    | with_reducible exact ResultKeeps.fail
    | with_reducible apply ResultKeeps.doneMk
    | with_reducible apply ResultKeeps.failWith
    | with_reducible apply ResultKeeps.retry
    | with_reducible apply ResultKeeps.wait
    | exact keep_listBody (fun _ _ _ hs => by first | exact keep_entryZonePair _ _ _ hs) h
    | (with_reducible refine ResultKeeps.of_done (by assumption) ?_; exact keep_listBody (fun _ _ _ hs => by first | exact keep_entryZonePair _ _ _ hs) h)
    | (with_reducible refine ResultKeeps.of_after (by assumption) ?_ _ hr; exact keep_listBody (fun _ _ _ hs => by first | exact keep_entryZonePair _ _ _ hs) h)
    | with_reducible apply keep_entryZonePair
    | (intro r hr; try dsimp only [id])
    | with_reducible assumption

theorem keep_entryRule {z0 : State} (off : Nat) (e : List Byte) (s : State) (h : Keeps z0 s) : EntryKeeps z0 (entryRule off e s) := by
  unfold entryRule
  try dsimp -proj only
  repeat' first
    | with_reducible exact h
    | with_reducible apply Keeps.ite
    | with_reducible apply EntryKeeps.entryOk
    | with_reducible apply EntryKeeps.ite
    | with_reducible exact EntryKeeps.error
    | with_reducible apply EntryKeeps.ok
    | with_reducible apply keep_horDelIndex
    | with_reducible apply keep_State_modHt
    | with_reducible apply keep_horAddIndex
    | (simp -proj only [keeps_mk]; with_reducible refine KeepsParts.of rfl ?_ ?_ ?_ ?_ ?_ ?_)
    | with_reducible exact fun i => i
    | with_reducible assumption
    | with_reducible exact fun _ i => i
    | split
    | exact fun i => by simpa using i

theorem keep_specRuleSet : SpecKeeps specRuleSet := by
  intro z0 s r p h
  unfold specRuleSet
  try dsimp only
  repeat' first
    | with_reducible exact h
    | with_reducible apply ResultKeeps.checked
    | with_reducible apply ResultKeeps.ite
    | with_reducible exact ResultKeeps.fail
    | with_reducible apply ResultKeeps.doneMk
    | with_reducible apply ResultKeeps.failWith
    | with_reducible apply ResultKeeps.retry
    | with_reducible apply ResultKeeps.wait
    | exact keep_listBody (fun _ _ _ hs => by first | exact keep_entryRule _ _ _ hs) h
    | (with_reducible refine ResultKeeps.of_done (by assumption) ?_; exact keep_listBody (fun _ _ _ hs => by first | exact keep_entryRule _ _ _ hs) h)
    | (with_reducible refine ResultKeeps.of_after (by assumption) ?_ _ hr; exact keep_listBody (fun _ _ _ hs => by first | exact keep_entryRule _ _ _ hs) h)
    | with_reducible apply keep_entryRule
    | (intro r hr; try dsimp only [id])
    | with_reducible assumption

theorem keep_entryLimiter {z0 : State} (off : Nat) (e : List Byte) (s : State) (h : Keeps z0 s) : EntryKeeps z0 (entryLimiter off e s) := by
  unfold entryLimiter
  try dsimp -proj only
  repeat' first
    | with_reducible exact h
    | with_reducible apply Keeps.ite
    | with_reducible apply EntryKeeps.entryOk
    | with_reducible apply EntryKeeps.ite
    | with_reducible exact EntryKeeps.error
    | with_reducible apply EntryKeeps.ok
    | with_reducible apply keep_horDelIndex
    | with_reducible apply keep_State_modHt
    | with_reducible apply keep_horAddIndex
    | with_reducible apply keep_State_modHor
    | (simp -proj only [keeps_mk]; with_reducible refine KeepsParts.of rfl ?_ ?_ ?_ ?_ ?_ ?_)
    | with_reducible exact fun i => i
    | with_reducible assumption
    | with_reducible exact fun _ i => i
    | split
    | exact fun i => by simpa using i

theorem keep_specLimiterSet : SpecKeeps specLimiterSet := by
  intro z0 s r p h
  unfold specLimiterSet
  try dsimp only
  repeat' first
    | with_reducible exact h
    | with_reducible apply ResultKeeps.checked
    | with_reducible apply ResultKeeps.ite
    | with_reducible exact ResultKeeps.fail
    | with_reducible apply ResultKeeps.doneMk
    | with_reducible apply ResultKeeps.failWith
    | with_reducible apply ResultKeeps.retry
    | with_reducible apply ResultKeeps.wait
    | exact keep_listBody (fun _ _ _ hs => by first | exact keep_entryLimiter _ _ _ hs) h
    | (with_reducible refine ResultKeeps.of_done (by assumption) ?_; exact keep_listBody (fun _ _ _ hs => by first | exact keep_entryLimiter _ _ _ hs) h)
    | (with_reducible refine ResultKeeps.of_after (by assumption) ?_ _ hr; exact keep_listBody (fun _ _ _ hs => by first | exact keep_entryLimiter _ _ _ hs) h)
    | with_reducible apply keep_entryLimiter
    | (intro r hr; try dsimp only [id])
    | with_reducible assumption

theorem keep_specHorizonParamsSet : SpecKeeps specHorizonParamsSet := by
  intro z0 s r p h
  unfold specHorizonParamsSet
  try dsimp only
  repeat' first
    | with_reducible exact h
    | with_reducible apply ResultKeeps.checked
    | with_reducible apply ResultKeeps.ite
    | with_reducible exact ResultKeeps.fail
    | with_reducible apply ResultKeeps.doneMk
    | with_reducible apply ResultKeeps.failWith
    | with_reducible apply ResultKeeps.retry
    | with_reducible apply ResultKeeps.wait
    | with_reducible apply keep_State_modHor
    | (simp -proj only [keeps_mk]; with_reducible refine KeepsParts.of rfl ?_ ?_ ?_ ?_ ?_ ?_)
    | with_reducible exact fun i => i
    | (intro r hr; try dsimp only [id])
    | with_reducible assumption
    | with_reducible exact fun _ i => i
    | exact fun i => by simpa using i

theorem keep_specSessionRead : SpecKeeps specSessionRead := by
  intro z0 s r p h
  unfold specSessionRead
  try dsimp only
  repeat' first
    | with_reducible exact h
    | with_reducible apply Keeps.ite
    | with_reducible apply ResultKeeps.checked
    | with_reducible apply ResultKeeps.ite
    | with_reducible exact ResultKeeps.fail
    | with_reducible apply ResultKeeps.doneMk
    | with_reducible apply ResultKeeps.failWith
    | with_reducible apply ResultKeeps.retry
    | with_reducible apply ResultKeeps.wait
    | (intro r hr; try dsimp only [id])
    | with_reducible assumption
    | split

theorem keep_raiseSpill {z0 : State} (s : State) (kind : Nat) (h : Keeps z0 s) : Keeps z0 (raiseSpill s kind) := by
  unfold raiseSpill
  try dsimp -proj only
  repeat' first
    | with_reducible exact h
    | with_reducible apply keep_raise
    | with_reducible assumption

theorem keep_spillEmptied {z0 : State} (before s : State) (h : Keeps z0 s) : Keeps z0 (spillEmptied before s) := by
  unfold spillEmptied
  try dsimp -proj only
  repeat' first
    | with_reducible exact h
    | with_reducible apply Keeps.ite
    | with_reducible apply keep_raiseSpill
    | with_reducible assumption
    | split

theorem keep_specSessionFlush : SpecKeeps specSessionFlush := by
  intro z0 s r p h
  unfold specSessionFlush
  try dsimp only
  repeat' first
    | with_reducible exact h
    | with_reducible apply Keeps.ite
    | with_reducible apply ResultKeeps.checked
    | with_reducible apply ResultKeeps.ite
    | with_reducible exact ResultKeeps.fail
    | with_reducible apply ResultKeeps.doneMk
    | with_reducible apply ResultKeeps.failWith
    | with_reducible apply ResultKeeps.retry
    | with_reducible apply ResultKeeps.wait
    | with_reducible apply keep_State_modHor
    | with_reducible apply keep_spillEmptied
    | (simp -proj only [keeps_mk]; with_reducible refine KeepsParts.of rfl ?_ ?_ ?_ ?_ ?_ ?_)
    | with_reducible exact fun i => i
    | (intro r hr; try dsimp only [id])
    | with_reducible assumption
    | with_reducible exact fun _ i => i
    | split
    | exact fun i => by simpa using i

theorem keep_specHorizonCountersGet : SpecKeeps specHorizonCountersGet := by
  intro z0 s r p h
  unfold specHorizonCountersGet
  try dsimp only
  repeat' first
    | with_reducible exact h
    | with_reducible apply Keeps.ite
    | with_reducible apply ResultKeeps.checked
    | with_reducible apply ResultKeeps.ite
    | with_reducible exact ResultKeeps.fail
    | with_reducible apply ResultKeeps.doneMk
    | with_reducible apply ResultKeeps.failWith
    | with_reducible apply ResultKeeps.retry
    | with_reducible apply ResultKeeps.wait
    | with_reducible apply keep_State_modHor
    | (simp -proj only [keeps_mk]; with_reducible refine KeepsParts.of rfl ?_ ?_ ?_ ?_ ?_ ?_)
    | with_reducible exact fun i => i
    | (intro r hr; try dsimp only [id])
    | with_reducible assumption
    | with_reducible exact fun _ i => i
    | split
    | exact fun i => by simpa using i

theorem keep_specHorizonTableRead : SpecKeeps specHorizonTableRead := by
  intro z0 s r p h
  unfold specHorizonTableRead
  try dsimp only
  repeat' first
    | with_reducible exact h
    | with_reducible apply ResultKeeps.checked
    | with_reducible apply ResultKeeps.ite
    | with_reducible exact ResultKeeps.fail
    | with_reducible apply ResultKeeps.doneMk
    | with_reducible apply ResultKeeps.failWith
    | with_reducible apply ResultKeeps.retry
    | with_reducible apply ResultKeeps.wait
    | (intro r hr; try dsimp only [id])
    | with_reducible assumption

theorem keep_execZoneSet (r : Req) (s : State) : Goes s (execZoneSet r s) := keep_command keep_specZoneSet r s

theorem keep_execZoneMapSet (r : Req) (s : State) : Goes s (execZoneMapSet r s) := keep_command keep_specZoneMapSet r s

theorem keep_execZonePairSet (r : Req) (s : State) : Goes s (execZonePairSet r s) := keep_command keep_specZonePairSet r s

theorem keep_execRuleSet (r : Req) (s : State) : Goes s (execRuleSet r s) := keep_command keep_specRuleSet r s

theorem keep_execLimiterSet (r : Req) (s : State) : Goes s (execLimiterSet r s) := keep_command keep_specLimiterSet r s

theorem keep_execHorizonParamsSet (r : Req) (s : State) : Goes s (execHorizonParamsSet r s) := keep_command keep_specHorizonParamsSet r s

theorem keep_execSessionRead (r : Req) (s : State) : Goes s (execSessionRead r s) := keep_command keep_specSessionRead r s

theorem keep_execSessionFlush (r : Req) (s : State) : Goes s (execSessionFlush r s) := keep_command keep_specSessionFlush r s

theorem keep_execHorizonCountersGet (r : Req) (s : State) : Goes s (execHorizonCountersGet r s) := keep_command keep_specHorizonCountersGet r s

theorem keep_execHorizonTableRead (r : Req) (s : State) : Goes s (execHorizonTableRead r s) := keep_command keep_specHorizonTableRead r s

end Sys2Proof.Machine
end

