-- ==== Sys2Proof/Laws/IngressStages.lean ====
section
/-! SUPPORT. Laws of Machine/IngressStages.lean: each operation keeps the queue of waiting commands and soundness; each meaning goes on. -/

namespace Sys2Proof.Machine

theorem keep_countIn {z0 : State} (s : State) (epoch : Nat) (h : Keeps z0 s) : Keeps z0 (countIn s epoch) := by
  unfold countIn
  try dsimp -proj only
  repeat' first
    | with_reducible exact h
    | with_reducible apply Keeps.ite
    | (simp -proj only [keeps_mk]; with_reducible refine KeepsParts.of rfl ?_ ?_ ?_ ?_ ?_ ?_)
    | with_reducible exact fun i => i
    | with_reducible assumption
    | with_reducible exact fun _ i => i
    | split
    | exact fun i => by simpa using i

theorem keep_countOut {z0 : State} (s : State) (epoch : Nat) (h : Keeps z0 s) : Keeps z0 (countOut s epoch) := by
  unfold countOut
  try dsimp -proj only
  repeat' first
    | with_reducible exact h
    | with_reducible apply Keeps.ite
    | with_reducible apply keep_settleEpoch
    | (simp -proj only [keeps_mk]; with_reducible refine KeepsParts.of rfl ?_ ?_ ?_ ?_ ?_ ?_)
    | with_reducible exact fun i => i
    | with_reducible assumption
    | with_reducible exact fun _ i => i
    | split
    | exact fun i => by simpa using i

theorem keep_dropAt {z0 : State} (f : Frame) (s : State) (pos : Nat) (h : Keeps z0 s) : StageKeeps z0 (dropAt f s pos) := by
  unfold dropAt
  try dsimp -proj only
  repeat' first
    | with_reducible exact h
    | with_reducible apply StageKeeps.ite
    | with_reducible apply StageKeeps.pass
    | with_reducible apply StageKeeps.drop
    | with_reducible apply StageKeeps.away
    | with_reducible apply StageKeeps.andThen
    | (intro f t ht; try dsimp -proj only)
    | with_reducible apply keep_ingCount
    | with_reducible assumption

theorem keep_parseDiscard {z0 : State} (f : Frame) (s : State) (reason : Nat) (h : Keeps z0 s) : StageKeeps z0 (parseDiscard f s reason) := by
  unfold parseDiscard
  try dsimp -proj only
  repeat' first
    | with_reducible exact h
    | with_reducible apply Keeps.ite
    | with_reducible apply StageKeeps.ite
    | with_reducible apply StageKeeps.pass
    | with_reducible apply StageKeeps.drop
    | with_reducible apply StageKeeps.away
    | with_reducible apply StageKeeps.andThen
    | (intro f t ht; try dsimp -proj only)
    | with_reducible apply keep_dropAt
    | (with_reducible refine StageKeeps.of_pass (by assumption) ?_; with_reducible apply keep_dropAt)
    | (with_reducible refine StageKeeps.of_drop (by assumption) ?_; with_reducible apply keep_dropAt)
    | (with_reducible refine StageKeeps.of_away (by assumption) ?_; with_reducible apply keep_dropAt)
    | with_reducible apply keep_raiseSampled
    | with_reducible assumption
    | split

theorem keep_stageDomain {z0 : State} (f : Frame) (inner : Nat) (ipBad : Option Nat) (s : State) (h : Keeps z0 s) : StageKeeps z0 (stageDomain f inner ipBad s) := by
  unfold stageDomain
  try dsimp -proj only
  repeat' first
    | with_reducible exact h
    | with_reducible apply Keeps.ite
    | with_reducible apply StageKeeps.ite
    | with_reducible apply StageKeeps.pass
    | with_reducible apply StageKeeps.drop
    | with_reducible apply StageKeeps.away
    | with_reducible apply StageKeeps.andThen
    | (intro f t ht; try dsimp -proj only)
    | with_reducible apply keep_dropAt
    | (with_reducible refine StageKeeps.of_pass (by assumption) ?_; with_reducible apply keep_dropAt)
    | (with_reducible refine StageKeeps.of_drop (by assumption) ?_; with_reducible apply keep_dropAt)
    | (with_reducible refine StageKeeps.of_away (by assumption) ?_; with_reducible apply keep_dropAt)
    | with_reducible apply keep_parseDiscard
    | (with_reducible refine StageKeeps.of_pass (by assumption) ?_; with_reducible apply keep_parseDiscard)
    | (with_reducible refine StageKeeps.of_drop (by assumption) ?_; with_reducible apply keep_parseDiscard)
    | (with_reducible refine StageKeeps.of_away (by assumption) ?_; with_reducible apply keep_parseDiscard)
    | (simp -proj only [keeps_mk]; with_reducible refine KeepsParts.of rfl ?_ ?_ ?_ ?_ ?_ ?_)
    | with_reducible exact fun i => i
    | with_reducible assumption
    | with_reducible exact fun _ i => i
    | split
    | exact fun i => by simpa using i

theorem keep_stageVlan {z0 : State} (f : Frame) (s : State) (h : Keeps z0 s) : StageKeeps z0 (stageVlan f s) := by
  unfold stageVlan
  try dsimp -proj only
  repeat' first
    | with_reducible exact h
    | with_reducible apply Keeps.ite
    | with_reducible apply StageKeeps.ite
    | with_reducible apply StageKeeps.pass
    | with_reducible apply StageKeeps.drop
    | with_reducible apply StageKeeps.away
    | with_reducible apply StageKeeps.andThen
    | (intro f t ht; try dsimp -proj only)
    | with_reducible apply keep_dropAt
    | (with_reducible refine StageKeeps.of_pass (by assumption) ?_; with_reducible apply keep_dropAt)
    | (with_reducible refine StageKeeps.of_drop (by assumption) ?_; with_reducible apply keep_dropAt)
    | (with_reducible refine StageKeeps.of_away (by assumption) ?_; with_reducible apply keep_dropAt)
    | (simp -proj only [keeps_mk]; with_reducible refine KeepsParts.of rfl ?_ ?_ ?_ ?_ ?_ ?_)
    | with_reducible exact fun i => i
    | with_reducible assumption
    | with_reducible exact fun _ i => i
    | split
    | exact fun i => by simpa using i

theorem keep_stageFdb {z0 : State} (f : Frame) (s : State) (h : Keeps z0 s) : StageKeeps z0 (stageFdb f s) := by
  unfold stageFdb
  try dsimp -proj only
  repeat' first
    | with_reducible exact h
    | with_reducible apply Keeps.ite
    | with_reducible apply StageKeeps.ite
    | with_reducible apply StageKeeps.pass
    | with_reducible apply StageKeeps.drop
    | with_reducible apply StageKeeps.away
    | with_reducible apply StageKeeps.andThen
    | (intro f t ht; try dsimp -proj only)
    | with_reducible apply keep_dropAt
    | (with_reducible refine StageKeeps.of_pass (by assumption) ?_; with_reducible apply keep_dropAt)
    | (with_reducible refine StageKeeps.of_drop (by assumption) ?_; with_reducible apply keep_dropAt)
    | (with_reducible refine StageKeeps.of_away (by assumption) ?_; with_reducible apply keep_dropAt)
    | with_reducible apply keep_ingCount
    | (simp -proj only [keeps_mk]; with_reducible refine KeepsParts.of rfl ?_ ?_ ?_ ?_ ?_ ?_)
    | with_reducible exact fun i => i
    | with_reducible assumption
    | with_reducible exact fun _ i => i
    | split
    | exact fun i => by simpa using i

theorem keep_learn {z0 : State} (s : State) (q : LearnReq) (h : Keeps z0 s) : Keeps z0 (learn s q) := by
  unfold learn
  try dsimp -proj only
  repeat' first
    | with_reducible exact h
    | with_reducible apply Keeps.ite
    | with_reducible apply keep_State_modIng
    | with_reducible apply keep_raiseSampled
    | with_reducible apply keep_ingCount
    | (simp -proj only [keeps_mk]; with_reducible refine KeepsParts.of rfl ?_ ?_ ?_ ?_ ?_ ?_)
    | with_reducible exact fun i => i
    | with_reducible assumption
    | with_reducible exact fun _ i => i
    | split
    | exact fun i => by simpa using i

theorem keep_stageStream {z0 : State} (f : Frame) (s : State) (h : Keeps z0 s) : StageKeeps z0 (stageStream f s) := by
  unfold stageStream
  try dsimp -proj only
  repeat' first
    | with_reducible exact h
    | with_reducible apply Keeps.ite
    | with_reducible apply StageKeeps.ite
    | with_reducible apply StageKeeps.pass
    | with_reducible apply StageKeeps.drop
    | with_reducible apply StageKeeps.away
    | with_reducible apply StageKeeps.andThen
    | (intro f t ht; try dsimp -proj only)
    | with_reducible apply keep_dropAt
    | (with_reducible refine StageKeeps.of_pass (by assumption) ?_; with_reducible apply keep_dropAt)
    | (with_reducible refine StageKeeps.of_drop (by assumption) ?_; with_reducible apply keep_dropAt)
    | (with_reducible refine StageKeeps.of_away (by assumption) ?_; with_reducible apply keep_dropAt)
    | (simp -proj only [keeps_mk]; with_reducible refine KeepsParts.of rfl ?_ ?_ ?_ ?_ ?_ ?_)
    | with_reducible exact fun i => i
    | with_reducible assumption
    | with_reducible exact fun _ i => i
    | split
    | exact fun i => by simpa using i

theorem keep_gateSample {z0 : State} (s : State) (f : Frame) (g fi cause : Nat) (h : Keeps z0 s) : Keeps z0 (gateSample s f g fi cause) := by
  unfold gateSample
  try dsimp -proj only
  repeat' first
    | with_reducible exact h
    | with_reducible apply keep_raiseSampled
    | with_reducible assumption

theorem keep_stageGate {z0 : State} (fi : Nat) (x : Filter) (f : Frame) (s : State) (h : Keeps z0 s) : StageKeeps z0 (stageGate fi x f s) := by
  unfold stageGate
  try dsimp -proj only
  repeat' first
    | with_reducible exact h
    | with_reducible apply Keeps.ite
    | with_reducible apply StageKeeps.ite
    | with_reducible apply StageKeeps.pass
    | with_reducible apply StageKeeps.drop
    | with_reducible apply StageKeeps.away
    | with_reducible apply StageKeeps.andThen
    | (intro f t ht; try dsimp -proj only)
    | with_reducible apply keep_State_modIng
    | with_reducible apply keep_gateSample
    | with_reducible apply keep_ingCount
    | (simp -proj only [keeps_mk]; with_reducible refine KeepsParts.of rfl ?_ ?_ ?_ ?_ ?_ ?_)
    | with_reducible exact fun i => i
    | with_reducible assumption
    | with_reducible exact fun _ i => i
    | split
    | exact fun i => by simpa using i

theorem keep_stageMeter {z0 : State} (fi : Nat) (x : Filter) (f : Frame) (s : State) (h : Keeps z0 s) : StageKeeps z0 (stageMeter fi x f s) := by
  unfold stageMeter
  try dsimp -proj only
  repeat' first
    | with_reducible exact h
    | with_reducible apply Keeps.ite
    | with_reducible apply StageKeeps.ite
    | with_reducible apply StageKeeps.pass
    | with_reducible apply StageKeeps.drop
    | with_reducible apply StageKeeps.away
    | with_reducible apply StageKeeps.andThen
    | (intro f t ht; try dsimp -proj only)
    | with_reducible apply keep_State_modIng
    | with_reducible apply keep_ingCount
    | with_reducible apply keep_raiseSampled
    | (simp -proj only [keeps_mk]; with_reducible refine KeepsParts.of rfl ?_ ?_ ?_ ?_ ?_ ?_)
    | with_reducible exact fun i => i
    | with_reducible assumption
    | with_reducible exact fun _ i => i
    | split
    | exact fun i => by simpa using i

theorem keep_stageFilter {z0 : State} (f : Frame) (s : State) (h : Keeps z0 s) : StageKeeps z0 (stageFilter f s) := by
  unfold stageFilter
  try dsimp -proj only
  repeat' first
    | with_reducible exact h
    | with_reducible apply Keeps.ite
    | with_reducible apply StageKeeps.ite
    | with_reducible apply StageKeeps.pass
    | with_reducible apply StageKeeps.drop
    | with_reducible apply StageKeeps.away
    | with_reducible apply StageKeeps.andThen
    | (intro f t ht; try dsimp -proj only)
    | with_reducible apply keep_ingCount
    | with_reducible apply keep_raise
    | with_reducible apply keep_State_modIng
    | with_reducible apply keep_stageGate
    | (with_reducible refine StageKeeps.of_pass (by assumption) ?_; with_reducible apply keep_stageGate)
    | (with_reducible refine StageKeeps.of_drop (by assumption) ?_; with_reducible apply keep_stageGate)
    | (with_reducible refine StageKeeps.of_away (by assumption) ?_; with_reducible apply keep_stageGate)
    | with_reducible apply keep_stageMeter
    | (with_reducible refine StageKeeps.of_pass (by assumption) ?_; with_reducible apply keep_stageMeter)
    | (with_reducible refine StageKeeps.of_drop (by assumption) ?_; with_reducible apply keep_stageMeter)
    | (with_reducible refine StageKeeps.of_away (by assumption) ?_; with_reducible apply keep_stageMeter)
    | (simp -proj only [keeps_mk]; with_reducible refine KeepsParts.of rfl ?_ ?_ ?_ ?_ ?_ ?_)
    | with_reducible exact fun i => i
    | with_reducible assumption
    | with_reducible exact fun _ i => i
    | split
    | exact fun i => by simpa using i

theorem keep_recoveryPass {z0 : State} (s : State) (i : Nat) (h : Keeps z0 s) : Keeps z0 (recoveryPass s i) := by
  unfold recoveryPass
  try dsimp -proj only
  repeat' first
    | with_reducible exact h
    | with_reducible apply keep_ingCount
    | with_reducible apply keep_State_modIng
    | (simp -proj only [keeps_mk]; with_reducible refine KeepsParts.of rfl ?_ ?_ ?_ ?_ ?_ ?_)
    | with_reducible exact fun i => i
    | with_reducible assumption
    | with_reducible exact fun _ i => i
    | exact fun i => by simpa using i

theorem keep_stageRecovery {z0 : State} (i : Nat) (c : Recovery) (f : Frame) (s : State) (h : Keeps z0 s) : StageKeeps z0 (stageRecovery i c f s) := by
  unfold stageRecovery
  try dsimp -proj only
  repeat' first
    | with_reducible exact h
    | with_reducible apply Keeps.ite
    | with_reducible apply StageKeeps.ite
    | with_reducible apply StageKeeps.pass
    | with_reducible apply StageKeeps.drop
    | with_reducible apply StageKeeps.away
    | with_reducible apply StageKeeps.andThen
    | (intro f t ht; try dsimp -proj only)
    | with_reducible apply keep_ingCount
    | with_reducible apply keep_recoveryPass
    | with_reducible apply keep_State_modIng
    | (simp -proj only [keeps_mk]; with_reducible refine KeepsParts.of rfl ?_ ?_ ?_ ?_ ?_ ?_)
    | with_reducible exact fun i => i
    | with_reducible assumption
    | with_reducible exact fun _ i => i
    | split
    | exact fun i => by simpa using i

theorem keep_stageFrer {z0 : State} (f : Frame) (s : State) (h : Keeps z0 s) : StageKeeps z0 (stageFrer f s) := by
  unfold stageFrer
  try dsimp -proj only
  repeat' first
    | with_reducible exact h
    | with_reducible apply Keeps.ite
    | with_reducible apply StageKeeps.ite
    | with_reducible apply StageKeeps.pass
    | with_reducible apply StageKeeps.drop
    | with_reducible apply StageKeeps.away
    | with_reducible apply StageKeeps.andThen
    | (intro f t ht; try dsimp -proj only)
    | with_reducible apply keep_ingCount
    | with_reducible apply keep_State_modIng
    | with_reducible apply keep_stageRecovery
    | (with_reducible refine StageKeeps.of_pass (by assumption) ?_; with_reducible apply keep_stageRecovery)
    | (with_reducible refine StageKeeps.of_drop (by assumption) ?_; with_reducible apply keep_stageRecovery)
    | (with_reducible refine StageKeeps.of_away (by assumption) ?_; with_reducible apply keep_stageRecovery)
    | (simp -proj only [keeps_mk]; with_reducible refine KeepsParts.of rfl ?_ ?_ ?_ ?_ ?_ ?_)
    | with_reducible exact fun i => i
    | with_reducible assumption
    | with_reducible exact fun _ i => i
    | split
    | exact fun i => by simpa using i

end Sys2Proof.Machine
end

