-- ==== Sys2Proof/Laws/HorizonStage.lean ====
section
/-! SUPPORT. Laws of Machine/HorizonStage.lean: each operation keeps the queue of waiting commands and soundness; each meaning goes on. -/

namespace Sys2Proof.Machine

theorem keep_touchSess {z0 : State} (s : State) (i : Nat) (w : Flow) (flags : Nat) (h : Keeps z0 s) : Keeps z0 (touchSess s i w flags) := by
  unfold touchSess
  try dsimp -proj only
  repeat' first
    | with_reducible exact h
    | with_reducible apply Keeps.ite
    | with_reducible apply keep_State_modHor
    | (simp -proj only [keeps_mk]; with_reducible refine KeepsParts.of rfl ?_ ?_ ?_ ?_ ?_ ?_)
    | with_reducible exact fun i => i
    | with_reducible assumption
    | with_reducible exact fun _ i => i
    | split
    | exact fun i => by simpa using i

theorem keep_takeIndex {z0 : State} (s : State) (b : Nat) {zi : Nat} {zt : State} (h : Keeps z0 s) (e : takeIndex s b = some (zi, zt)) : Keeps z0 zt := by
  unfold takeIndex at e
  try dsimp -proj only at e
  repeat' split at e
  all_goals first | injection e with e | skip
  all_goals first | cases e | skip
  all_goals repeat' first
    | with_reducible exact h
    | with_reducible apply Keeps.ite
    | with_reducible apply keep_horCount
    | with_reducible apply keep_State_modHor
    | (simp -proj only [keeps_mk]; with_reducible refine KeepsParts.of rfl ?_ ?_ ?_ ?_ ?_ ?_)
    | with_reducible exact fun i => i
    | with_reducible assumption
    | with_reducible exact fun _ i => i
    | split
    | exact fun i => by simpa using i

theorem keep_raiseTableFull {z0 : State} (s : State) (domain bucket zone : Nat) (h : Keeps z0 s) : Keeps z0 (raiseTableFull s domain bucket zone) := by
  unfold raiseTableFull
  try dsimp -proj only
  repeat' first
    | with_reducible exact h
    | with_reducible apply keep_raiseSampledKey
    | with_reducible assumption

theorem keep_createSess {z0 : State} (s : State) (d : Nat) (w : Flow) (a b rule profile : Nat) (mid admitted : Bool)  {zt : State} (h : Keeps z0 s) (e : createSess s d w a b rule profile mid admitted = some zt) : Keeps z0 zt := by
  unfold createSess at e
  try dsimp -proj only at e
  repeat' split at e
  all_goals first | injection e with e | skip
  all_goals first | cases e | skip
  all_goals repeat' first
    | with_reducible exact h
    | (with_reducible refine keep_takeIndex _ _ ?_ (by assumption))
    | with_reducible apply keep_horCount
    | with_reducible apply keep_State_modHor
    | (simp -proj only [keeps_mk]; with_reducible refine KeepsParts.of rfl ?_ ?_ ?_ ?_ ?_ ?_)
    | with_reducible exact fun i => i
    | with_reducible assumption
    | with_reducible exact fun _ i => i
    | split
    | exact fun i => by simpa using i

theorem keep_chargeLimiter {z0 : State} (s : State) (i : Nat) (l : Limiter) (len zone dst : Nat) (h : Keeps z0 s) : Keeps z0 (chargeLimiter s i l len zone dst).2 := by
  unfold chargeLimiter
  try dsimp -proj only
  repeat' first
    | with_reducible exact h
    | with_reducible apply Keeps.ite
    | with_reducible apply keep_horCount
    | with_reducible apply keep_State_modHor
    | with_reducible apply keep_raiseSampled
    | (simp -proj only [keeps_mk]; with_reducible refine KeepsParts.of rfl ?_ ?_ ?_ ?_ ?_ ?_)
    | with_reducible exact fun i => i
    | with_reducible assumption
    | with_reducible exact fun _ i => i
    | split
    | exact fun i => by simpa using i

theorem keep_raiseOverload {z0 : State} (s : State) (kind : Nat) (h : Keeps z0 s) : Keeps z0 (raiseOverload s kind) := by
  unfold raiseOverload
  try dsimp -proj only
  repeat' first
    | with_reducible exact h
    | with_reducible apply keep_raise
    | with_reducible apply keep_State_modHor
    | (simp -proj only [keeps_mk]; with_reducible refine KeepsParts.of rfl ?_ ?_ ?_ ?_ ?_ ?_)
    | with_reducible exact fun i => i
    | with_reducible assumption
    | with_reducible exact fun _ i => i
    | exact fun i => by simpa using i

theorem keep_excDrop {z0 : State} (s : State) (cause : Nat) (h : Keeps z0 s) : Keeps z0 (excDrop s cause) := by
  unfold excDrop
  try dsimp -proj only
  repeat' first
    | with_reducible exact h
    | with_reducible apply Keeps.ite
    | with_reducible apply keep_horCount
    | with_reducible apply keep_State_modHor
    | with_reducible apply keep_raiseOverload
    | (simp -proj only [keeps_mk]; with_reducible refine KeepsParts.of rfl ?_ ?_ ?_ ?_ ?_ ?_)
    | with_reducible exact fun i => i
    | with_reducible assumption
    | with_reducible exact fun _ i => i
    | split
    | exact fun i => by simpa using i

theorem keep_sendException {z0 : State} (s : State) (x : ExcFrame) (h : Keeps z0 s) : Keeps z0 (sendException s x) := by
  unfold sendException
  try dsimp -proj only
  repeat' first
    | with_reducible exact h
    | with_reducible apply Keeps.ite
    | with_reducible apply keep_horCount
    | with_reducible apply keep_excDrop
    | with_reducible apply keep_State_modHor
    | with_reducible apply keep_countIn
    | (simp -proj only [keeps_mk]; with_reducible refine KeepsParts.of rfl ?_ ?_ ?_ ?_ ?_ ?_)
    | with_reducible exact fun i => i
    | with_reducible assumption
    | with_reducible exact fun _ i => i
    | split
    | exact fun i => by simpa using i

theorem keep_logVerdict {z0 : State} (s : State) (t : HorizonTables) (a b : Nat) (v : RuleView) (x : Verdict) (len : Nat) (gw : Bool) (h : Keeps z0 s) : Keeps z0 (logVerdict s t a b v x len gw) := by
  unfold logVerdict
  try dsimp -proj only
  repeat' first
    | with_reducible exact h
    | with_reducible apply Keeps.ite
    | with_reducible apply keep_horCount
    | with_reducible apply keep_raiseSampledKey
    | (simp -proj only [keeps_mk]; with_reducible refine KeepsParts.of rfl ?_ ?_ ?_ ?_ ?_ ?_)
    | with_reducible exact fun i => i
    | with_reducible assumption
    | with_reducible exact fun _ i => i
    | split
    | exact fun i => by simpa using i

theorem keep_chargeGroups {z0 : State} (t : HorizonTables) (f : Frame) (x1 : List Group) (x2 : List (Nat × Bool)) (x3 : List Group) (s : State) (h : Keeps z0 s) : Keeps z0 (chargeGroups t f x1 x2 x3 s).2 := by
  induction x1 generalizing x2 x3 s with
  | nil => exact h
  | cons y ys ih =>
    unfold chargeGroups
    try dsimp -proj only
    repeat' first
      | with_reducible exact h
      | with_reducible apply Keeps.ite
      | with_reducible apply ih
      | (with_reducible refine Keeps.snd (by assumption) ?_; with_reducible apply ih)
      | (with_reducible refine Keeps.snd (by assumption) ?_; with_reducible apply keep_chargeLimiter)
      | with_reducible apply keep_chargeLimiter
      | (simp -proj only [keeps_mk]; with_reducible refine KeepsParts.of rfl ?_ ?_ ?_ ?_ ?_ ?_)
      | with_reducible exact fun i => i
      | with_reducible assumption
      | with_reducible exact fun _ i => i
      | split
      | exact fun i => by simpa using i

theorem keep_finishGroup {z0 : State} (t : HorizonTables) (f : Frame) (v : RuleView) (reinj : Bool) (g : Group) (s : State) (sent : Bool) (h : Keeps z0 s) : Keeps z0 (finishGroup t f v reinj g s sent).1 := by
  unfold finishGroup
  try dsimp -proj only
  repeat' first
    | with_reducible exact h
    | with_reducible apply Keeps.ite
    | with_reducible apply keep_horCount
    | with_reducible apply keep_touchSess
    | with_reducible apply keep_logVerdict
    | with_reducible apply keep_sendException
    | (with_reducible refine keep_createSess _ _ _ _ _ _ _ _ _ ?_ (by assumption))
    | with_reducible apply keep_raiseTableFull
    | (simp -proj only [keeps_mk]; with_reducible refine KeepsParts.of rfl ?_ ?_ ?_ ?_ ?_ ?_)
    | with_reducible exact fun i => i
    | with_reducible assumption
    | with_reducible exact fun _ i => i
    | split
    | exact fun i => by simpa using i

theorem keep_finishGroups {z0 : State} (t : HorizonTables) (f : Frame) (v : RuleView) (reinj : Bool) (x1 : List Group) (s : State) (x2 : Nat) (x3 : Bool) (h : Keeps z0 s) : Keeps z0 (finishGroups t f v reinj x1 s x2 x3).1 := by
  induction x1 generalizing s x2 x3 with
  | nil => exact h
  | cons y ys ih =>
    unfold finishGroups
    try dsimp -proj only
    repeat' first
      | with_reducible exact h
      | with_reducible apply ih
      | (with_reducible refine Keeps.fst (by assumption) ?_; with_reducible apply ih)
      | (with_reducible refine Keeps.fst (by assumption) ?_; with_reducible apply keep_finishGroup)
      | with_reducible apply keep_finishGroup
      | with_reducible assumption

theorem keep_decideFrame {z0 : State} (t : HorizonTables) (f : Frame) (gs : List Group) (x : Option Sess) (reinj : Bool) (s : State) (h : Keeps z0 s) : StageKeeps z0 (decideFrame t f gs x reinj s) := by
  unfold decideFrame
  try dsimp -proj only
  repeat' first
    | with_reducible exact h
    | with_reducible apply Keeps.ite
    | with_reducible apply StageKeeps.ite
    | with_reducible apply StageKeeps.pass
    | with_reducible apply StageKeeps.drop
    | with_reducible apply StageKeeps.away
    | with_reducible apply StageKeeps.andThen
    | (intro f t ht; try dsimp -proj only)
    | (with_reducible refine Keeps.snd (by assumption) ?_; with_reducible apply keep_chargeGroups)
    | with_reducible apply keep_chargeGroups
    | (with_reducible refine Keeps.fst (by assumption) ?_; with_reducible apply keep_finishGroups)
    | with_reducible apply keep_finishGroups
    | (simp -proj only [keeps_mk]; with_reducible refine KeepsParts.of rfl ?_ ?_ ?_ ?_ ?_ ?_)
    | with_reducible exact fun i => i
    | with_reducible assumption
    | with_reducible exact fun _ i => i
    | split
    | exact fun i => by simpa using i

theorem keep_stageZoned {z0 : State} (f : Frame) (reinj restored : Bool) (s : State) (h : Keeps z0 s) : StageKeeps z0 (stageZoned f reinj restored s) := by
  unfold stageZoned
  try dsimp -proj only
  repeat' first
    | with_reducible exact h
    | with_reducible apply Keeps.ite
    | with_reducible apply StageKeeps.ite
    | with_reducible apply StageKeeps.pass
    | with_reducible apply StageKeeps.drop
    | with_reducible apply StageKeeps.away
    | with_reducible apply StageKeeps.andThen
    | (intro f t ht; try dsimp -proj only)
    | with_reducible apply keep_horCount
    | with_reducible apply keep_decideFrame
    | (with_reducible refine StageKeeps.of_pass (by assumption) ?_; with_reducible apply keep_decideFrame)
    | (with_reducible refine StageKeeps.of_drop (by assumption) ?_; with_reducible apply keep_decideFrame)
    | (with_reducible refine StageKeeps.of_away (by assumption) ?_; with_reducible apply keep_decideFrame)
    | with_reducible apply keep_State_modHor
    | (simp -proj only [keeps_mk]; with_reducible refine KeepsParts.of rfl ?_ ?_ ?_ ?_ ?_ ?_)
    | with_reducible exact fun i => i
    | with_reducible assumption
    | with_reducible exact fun _ i => i
    | split
    | exact fun i => by simpa using i

theorem keep_stageHorizon {z0 : State} (f : Frame) (inner : Nat) (reinj : Bool) (s : State) (h : Keeps z0 s) : StageKeeps z0 (stageHorizon f inner reinj s) := by
  unfold stageHorizon
  try dsimp -proj only
  repeat' first
    | with_reducible exact h
    | with_reducible apply Keeps.ite
    | with_reducible apply StageKeeps.ite
    | with_reducible apply StageKeeps.pass
    | with_reducible apply StageKeeps.drop
    | with_reducible apply StageKeeps.away
    | with_reducible apply StageKeeps.andThen
    | (intro f t ht; try dsimp -proj only)
    | with_reducible apply keep_horCount
    | with_reducible apply keep_stageZoned
    | (with_reducible refine StageKeeps.of_pass (by assumption) ?_; with_reducible apply keep_stageZoned)
    | (with_reducible refine StageKeeps.of_drop (by assumption) ?_; with_reducible apply keep_stageZoned)
    | (with_reducible refine StageKeeps.of_away (by assumption) ?_; with_reducible apply keep_stageZoned)
    | (simp -proj only [keeps_mk]; with_reducible refine KeepsParts.of rfl ?_ ?_ ?_ ?_ ?_ ?_)
    | with_reducible exact fun i => i
    | with_reducible assumption
    | with_reducible exact fun _ i => i
    | split
    | exact fun i => by simpa using i

theorem keep_gatewayCheck {z0 : State} (s : State) (epoch zone kind channel ident len : Nat) (domain : Nat) (h : Keeps z0 s) : Keeps z0 (gatewayCheck s epoch zone kind channel ident len domain).2 := by
  unfold gatewayCheck
  try dsimp -proj only
  repeat' first
    | with_reducible exact h
    | with_reducible apply Keeps.ite
    | with_reducible apply keep_horCount
    | with_reducible apply keep_logVerdict
    | (with_reducible refine Keeps.snd (by assumption) ?_; with_reducible apply keep_chargeLimiter)
    | with_reducible apply keep_chargeLimiter
    | (simp -proj only [keeps_mk]; with_reducible refine KeepsParts.of rfl ?_ ?_ ?_ ?_ ?_ ?_)
    | with_reducible exact fun i => i
    | with_reducible assumption
    | with_reducible exact fun _ i => i
    | split
    | exact fun i => by simpa using i

theorem keep_execSessionInsertWrite (s : State) : Goes s (execSessionInsertWrite s) := by
  have h := Keeps.refl s
  unfold execSessionInsertWrite
  try dsimp -proj only
  repeat' first
    | with_reducible exact h
    | with_reducible apply Goes.ite
    | with_reducible apply Goes.next
    | with_reducible apply keep_State_modHor
    | (simp -proj only [keeps_mk]; with_reducible refine KeepsParts.of rfl ?_ ?_ ?_ ?_ ?_ ?_)
    | with_reducible exact fun i => i
    | (intro r hr; try dsimp -proj only)
    | with_reducible assumption
    | with_reducible exact fun _ i => i
    | split
    | exact fun i => by simpa using i

theorem keep_execSpillWrite (s : State) : Goes s (execSpillWrite s) := by
  have h := Keeps.refl s
  unfold execSpillWrite
  try dsimp -proj only
  repeat' first
    | with_reducible exact h
    | with_reducible apply Keeps.ite
    | with_reducible apply Goes.ite
    | with_reducible apply Goes.next
    | with_reducible apply keep_horCount
    | with_reducible apply keep_State_modHor
    | with_reducible apply keep_raiseSpill
    | (simp -proj only [keeps_mk]; with_reducible refine KeepsParts.of rfl ?_ ?_ ?_ ?_ ?_ ?_)
    | with_reducible exact fun i => i
    | (intro r hr; try dsimp -proj only)
    | with_reducible assumption
    | with_reducible exact fun _ i => i
    | split
    | exact fun i => by simpa using i

theorem keep_execSessionAgingSweep (spilled : Bool) (i : Nat) (s : State) : Goes s (execSessionAgingSweep spilled i s) := by
  have h := Keeps.refl s
  unfold execSessionAgingSweep
  try dsimp -proj only
  repeat' first
    | with_reducible exact h
    | with_reducible apply Keeps.ite
    | with_reducible apply Goes.ite
    | with_reducible apply Goes.next
    | with_reducible apply keep_horCount
    | with_reducible apply keep_State_modHor
    | with_reducible apply keep_spillEmptied
    | (simp -proj only [keeps_mk]; with_reducible refine KeepsParts.of rfl ?_ ?_ ?_ ?_ ?_ ?_)
    | with_reducible exact fun i => i
    | (intro r hr; try dsimp -proj only)
    | with_reducible assumption
    | with_reducible exact fun _ i => i
    | split
    | exact fun i => by simpa using i

theorem keep_execRevocationSweepVisit (s : State) : Goes s (execRevocationSweepVisit s) := by
  have h := Keeps.refl s
  unfold execRevocationSweepVisit
  try dsimp -proj only
  repeat' first
    | with_reducible exact h
    | with_reducible apply Goes.ite
    | with_reducible apply Goes.next
    | with_reducible apply keep_State_modHor
    | with_reducible apply keep_horCount
    | (simp -proj only [keeps_mk]; with_reducible refine KeepsParts.of rfl ?_ ?_ ?_ ?_ ?_ ?_)
    | with_reducible exact fun i => i
    | (intro r hr; try dsimp -proj only)
    | with_reducible assumption
    | with_reducible exact fun _ i => i
    | split
    | exact fun i => by simpa using i

theorem keep_execExceptionDropEnd (s : State) : Goes s (execExceptionDropEnd s) := by
  have h := Keeps.refl s
  unfold execExceptionDropEnd
  try dsimp -proj only
  repeat' first
    | with_reducible exact h
    | with_reducible apply Keeps.ite
    | with_reducible apply Goes.ite
    | with_reducible apply Goes.next
    | with_reducible apply keep_raiseOverload
    | with_reducible apply keep_State_modHor
    | (simp -proj only [keeps_mk]; with_reducible refine KeepsParts.of rfl ?_ ?_ ?_ ?_ ?_ ?_)
    | with_reducible exact fun i => i
    | (intro r hr; try dsimp -proj only)
    | with_reducible assumption
    | with_reducible exact fun _ i => i
    | split
    | exact fun i => by simpa using i

end Sys2Proof.Machine
end

