-- ==== Sys2Proof/Laws/FabricRun.lean ====
section
/-! SUPPORT. Laws of Machine/FabricRun.lean: each operation keeps the queue of waiting commands and soundness; each meaning goes on. -/

namespace Sys2Proof.Machine

theorem keep_State_modFab {z0 : State} (s : State) (f : Fabric → Fabric) (h : Keeps z0 s) : Keeps z0 (State.modFab s f) := by
  unfold State.modFab
  try dsimp -proj only
  repeat' first
    | with_reducible exact h
    | (simp -proj only [keeps_mk]; with_reducible refine KeepsParts.of rfl ?_ ?_ ?_ ?_ ?_ ?_)
    | with_reducible exact fun i => i
    | with_reducible assumption
    | with_reducible exact fun _ i => i
    | exact fun i => by simpa using i

theorem keep_fabCount {z0 : State} (s : State) (tbl idx pos n : Nat) (h : Keeps z0 s) : Keeps z0 (fabCount s tbl idx pos n) := by
  unfold fabCount
  try dsimp -proj only
  repeat' first
    | with_reducible exact h
    | with_reducible apply keep_State_modFab
    | (simp -proj only [keeps_mk]; with_reducible refine KeepsParts.of rfl ?_ ?_ ?_ ?_ ?_ ?_)
    | with_reducible exact fun i => i
    | with_reducible assumption
    | with_reducible exact fun _ i => i
    | exact fun i => by simpa using i

theorem keep_fabPeak {z0 : State} (s : State) (tbl idx pos n : Nat) (h : Keeps z0 s) : Keeps z0 (fabPeak s tbl idx pos n) := by
  unfold fabPeak
  try dsimp -proj only
  repeat' first
    | with_reducible exact h
    | with_reducible apply keep_State_modFab
    | (simp -proj only [keeps_mk]; with_reducible refine KeepsParts.of rfl ?_ ?_ ?_ ?_ ?_ ?_)
    | with_reducible exact fun i => i
    | with_reducible assumption
    | with_reducible exact fun _ i => i
    | exact fun i => by simpa using i

theorem keep_modTransit {z0 : State} (s : State) (id : Nat) (f : Transit → Transit) (h : Keeps z0 s) : Keeps z0 (modTransit s id f) := by
  unfold modTransit
  try dsimp -proj only
  repeat' first
    | with_reducible exact h
    | with_reducible apply keep_State_modFab
    | (simp -proj only [keeps_mk]; with_reducible refine KeepsParts.of rfl ?_ ?_ ?_ ?_ ?_ ?_)
    | with_reducible exact fun i => i
    | with_reducible assumption
    | with_reducible exact fun _ i => i
    | split
    | exact fun i => by simpa using i

theorem keep_uncount {z0 : State} (s : State) (id : Nat) (h : Keeps z0 s) : Keeps z0 (uncount s id) := by
  unfold uncount
  try dsimp -proj only
  repeat' first
    | with_reducible exact h
    | with_reducible apply Keeps.ite
    | with_reducible apply keep_countOut
    | with_reducible apply keep_modTransit
    | (simp -proj only [keeps_mk]; with_reducible refine KeepsParts.of rfl ?_ ?_ ?_ ?_ ?_ ?_)
    | with_reducible exact fun i => i
    | with_reducible assumption
    | with_reducible exact fun _ i => i
    | split
    | exact fun i => by simpa using i

theorem keep_dropTransit {z0 : State} (s : State) (id : Nat) (h : Keeps z0 s) : Keeps z0 (dropTransit s id) := by
  unfold dropTransit
  try dsimp -proj only
  repeat' first
    | with_reducible exact h
    | with_reducible apply keep_uncount
    | with_reducible apply keep_State_modFab
    | (simp -proj only [keeps_mk]; with_reducible refine KeepsParts.of rfl ?_ ?_ ?_ ?_ ?_ ?_)
    | with_reducible exact fun i => i
    | with_reducible assumption
    | with_reducible exact fun _ i => i
    | exact fun i => by simpa using i

theorem keep_raiseOverflow {z0 : State} (s : State) (on : Bool) (reason : Nat) (h : Keeps z0 s) : Keeps z0 (raiseOverflow s on reason) := by
  unfold raiseOverflow
  try dsimp -proj only
  repeat' first
    | with_reducible exact h
    | with_reducible apply Keeps.ite
    | with_reducible apply keep_raise
    | with_reducible assumption
    | split

theorem keep_overflowUpdate {z0 : State} (s : State) (reason : Nat) (h : Keeps z0 s) : Keeps z0 (overflowUpdate s reason) := by
  unfold overflowUpdate
  try dsimp -proj only
  repeat' first
    | with_reducible exact h
    | with_reducible apply Keeps.ite
    | with_reducible apply keep_zenithRecheck
    | with_reducible apply keep_raiseOverflow
    | with_reducible apply keep_State_modFab
    | (simp -proj only [keeps_mk]; with_reducible refine KeepsParts.of rfl ?_ ?_ ?_ ?_ ?_ ?_)
    | with_reducible exact fun i => i
    | with_reducible assumption
    | with_reducible exact fun _ i => i
    | split
    | exact fun i => by simpa using i

theorem keep_releaseBuffer {z0 : State} (s : State) (id : Nat) (t : Transit) (h : Keeps z0 s) : Keeps z0 (releaseBuffer s id t) := by
  unfold releaseBuffer
  try dsimp -proj only
  repeat' first
    | with_reducible exact h
    | with_reducible apply Keeps.ite
    | with_reducible apply keep_uncount
    | with_reducible apply keep_State_modFab
    | with_reducible apply keep_overflowUpdate
    | (simp -proj only [keeps_mk]; with_reducible refine KeepsParts.of rfl ?_ ?_ ?_ ?_ ?_ ?_)
    | with_reducible exact fun i => i
    | with_reducible assumption
    | with_reducible exact fun _ i => i
    | split
    | exact fun i => by simpa using i

theorem keep_unchargeCopy {z0 : State} (s : State) (point : Nat) (c : Copy) (h : Keeps z0 s) : Keeps z0 (unchargeCopy s point c) := by
  unfold unchargeCopy
  try dsimp -proj only
  repeat' first
    | with_reducible exact h
    | with_reducible apply keep_State_modEgr
    | (simp -proj only [keeps_mk]; with_reducible refine KeepsParts.of rfl ?_ ?_ ?_ ?_ ?_ ?_)
    | with_reducible exact fun i => i
    | with_reducible assumption
    | with_reducible exact fun _ i => i
    | exact fun i => by simpa using i

theorem keep_countedOut {z0 : State} (s : State) (id : Nat) (h : Keeps z0 s) : Keeps z0 (countedOut s id) := by
  unfold countedOut
  try dsimp -proj only
  repeat' first
    | with_reducible exact h
    | with_reducible apply Keeps.ite
    | with_reducible apply keep_uncount
    | (simp -proj only [keeps_mk]; with_reducible refine KeepsParts.of rfl ?_ ?_ ?_ ?_ ?_ ?_)
    | with_reducible exact fun i => i
    | with_reducible assumption
    | with_reducible exact fun _ i => i
    | split
    | exact fun i => by simpa using i

theorem keep_unholdRings {z0 : State} (s : State) (id : Nat) (h : Keeps z0 s) : Keeps z0 (unholdRings s id) := by
  unfold unholdRings
  try dsimp -proj only
  repeat' first
    | with_reducible exact h
    | (simp -proj only [keeps_mk]; with_reducible refine KeepsParts.of rfl ?_ ?_ ?_ ?_ ?_ ?_)
    | with_reducible exact fun i => i
    | with_reducible exact fun i => InvDma.mk i.1 i.2
    | with_reducible assumption
    | with_reducible exact fun _ i => i
    | exact fun i => keepDma i (by simp [i.1]) (by simp [i.2])
    | exact fun i => by simpa using i

theorem keep_finishCopy {z0 : State} (s0 : State) (id point : Nat) (h : Keeps z0 s0) : Keeps z0 (finishCopy s0 id point) := by
  unfold finishCopy
  try dsimp -proj only
  repeat' first
    | with_reducible exact h
    | with_reducible apply Keeps.ite
    | with_reducible apply keep_unholdRings
    | with_reducible apply keep_unchargeCopy
    | with_reducible apply keep_State_modEgr
    | with_reducible apply keep_releaseBuffer
    | with_reducible apply keep_countedOut
    | with_reducible apply keep_modTransit
    | (simp -proj only [keeps_mk]; with_reducible refine KeepsParts.of rfl ?_ ?_ ?_ ?_ ?_ ?_)
    | with_reducible exact fun i => i
    | with_reducible assumption
    | with_reducible exact fun _ i => i
    | split
    | exact fun i => by simpa using i

theorem keep_discardBad {z0 : State} (s : State) (id : Nat) (c : Copy) (h : Keeps z0 s) : Keeps z0 (discardBad s id c) := by
  unfold discardBad
  try dsimp -proj only
  repeat' first
    | with_reducible exact h
    | with_reducible apply keep_finishCopy
    | with_reducible apply keep_fabCount
    | with_reducible assumption

theorem keep_stomp {z0 : State} (s : State) (t : Transit) (point cause : Nat) (h : Keeps z0 s) : Keeps z0 (stomp s t point cause) := by
  unfold stomp
  try dsimp -proj only
  repeat' first
    | with_reducible exact h
    | with_reducible apply keep_raiseSampled
    | with_reducible apply keep_perfCount
    | with_reducible apply keep_fabCount
    | with_reducible apply keep_portCount
    | with_reducible assumption

theorem keep_discardUnstarted {z0 : State} (s : State) (id : Nat) (h : Keeps z0 s) : Keeps z0 (discardUnstarted s id) := by
  unfold discardUnstarted
  try dsimp -proj only
  repeat' first
    | with_reducible exact h
    | with_reducible apply keep_discardBad
    | (simp -proj only [keeps_mk]; with_reducible refine KeepsParts.of rfl ?_ ?_ ?_ ?_ ?_ ?_)
    | with_reducible exact fun i => i
    | with_reducible apply Keeps.foldl
    | (intro r x hr; try dsimp -proj only)
    | with_reducible assumption
    | with_reducible exact fun _ i => i
    | split
    | exact fun i => by simpa using i

theorem keep_makeBad {z0 : State} (s : State) (id cause : Nat) (h : Keeps z0 s) : Keeps z0 (makeBad s id cause) := by
  unfold makeBad
  try dsimp -proj only
  repeat' first
    | with_reducible exact h
    | with_reducible apply Keeps.ite
    | with_reducible apply keep_discardUnstarted
    | with_reducible apply keep_modTransit
    | (simp -proj only [keeps_mk]; with_reducible refine KeepsParts.of rfl ?_ ?_ ?_ ?_ ?_ ?_)
    | with_reducible exact fun i => i
    | with_reducible assumption
    | with_reducible exact fun _ i => i
    | split
    | exact fun i => by simpa using i

theorem keep_takeMirror {z0 : State} (f : Frame) (s : State) (k : Nat) (h : Keeps z0 s) : Keeps z0 (takeMirror f s k) := by
  unfold takeMirror
  try dsimp -proj only
  repeat' first
    | with_reducible exact h
    | with_reducible apply Keeps.ite
    | with_reducible apply keep_ingCount
    | with_reducible apply keep_learn
    | with_reducible apply keep_countIn
    | with_reducible apply keep_State_modFab
    | (simp -proj only [keeps_mk]; with_reducible refine KeepsParts.of rfl ?_ ?_ ?_ ?_ ?_ ?_)
    | with_reducible exact fun i => i
    | with_reducible assumption
    | with_reducible exact fun _ i => i
    | split
    | exact fun i => by simpa using i

theorem keep_mirrorFrame {z0 : State} (f : Frame) (dropped : Bool) (s : State) (h : Keeps z0 s) : Keeps z0 (mirrorFrame f dropped s) := by
  unfold mirrorFrame
  try dsimp -proj only
  repeat' first
    | with_reducible exact h
    | with_reducible apply keep_takeMirror
    | (simp -proj only [keeps_mk]; with_reducible refine KeepsParts.of rfl ?_ ?_ ?_ ?_ ?_ ?_)
    | with_reducible apply Keeps.foldl
    | (intro r x hr; try dsimp -proj only)
    | with_reducible assumption

theorem keep_cutCells {z0 : State}  (x1 : Nat) (s : State) (x2 : Nat) (x3 : Bool) (h : Keeps z0 s) : Keeps z0 (cutCells x1 s x2 x3) := by
  induction x1 generalizing s x2 x3 with
  | zero => exact h
  | succ n ih =>
    unfold cutCells
    try dsimp -proj only
    repeat' first
      | with_reducible exact h
      | with_reducible apply ih
      | with_reducible apply keep_fabCount
      | with_reducible apply keep_State_modFab
      | (simp -proj only [keeps_mk]; with_reducible refine KeepsParts.of rfl ?_ ?_ ?_ ?_ ?_ ?_)
      | with_reducible exact fun i => i
      | with_reducible assumption
      | with_reducible exact fun _ i => i
      | split
      | exact fun i => by simpa using i

theorem keep_cutFrame {z0 : State} (s : State) (id : Nat) (h : Keeps z0 s) : Keeps z0 (cutFrame s id) := by
  unfold cutFrame
  try dsimp -proj only
  repeat' first
    | with_reducible exact h
    | with_reducible apply Keeps.ite
    | with_reducible apply keep_modTransit
    | with_reducible apply keep_cutCells
    | with_reducible apply keep_dropTransit
    | with_reducible apply keep_perfCount
    | with_reducible apply keep_fabCount
    | (simp -proj only [keeps_mk]; with_reducible refine KeepsParts.of rfl ?_ ?_ ?_ ?_ ?_ ?_)
    | with_reducible exact fun i => i
    | with_reducible assumption
    | with_reducible exact fun _ i => i
    | split
    | exact fun i => by simpa using i

theorem keep_enterFabric {z0 : State} (f : Frame) (complete : Bool) (s : State) (h : Keeps z0 s) : Keeps z0 (enterFabric f complete s) := by
  unfold enterFabric
  try dsimp -proj only
  repeat' first
    | with_reducible exact h
    | with_reducible apply Keeps.ite
    | with_reducible apply keep_State_modFab
    | with_reducible apply keep_cutFrame
    | (simp -proj only [keeps_mk]; with_reducible refine KeepsParts.of rfl ?_ ?_ ?_ ?_ ?_ ?_)
    | with_reducible exact fun i => i
    | with_reducible assumption
    | with_reducible exact fun _ i => i
    | split
    | exact fun i => by simpa using i

end Sys2Proof.Machine
end

