-- ==== Sys2Proof/Laws/FabricRows.lean ====
section
/-! SUPPORT. Laws of Machine/FabricRows.lean: each operation keeps the queue of waiting commands and soundness; each meaning goes on. -/

namespace Sys2Proof.Machine

theorem keep_takeCell {z0 : State} (s : State) (stage a b : Nat) {zi : Cell} {zt : State} (h : Keeps z0 s) (e : takeCell s stage a b = some (zi, zt)) : Keeps z0 zt := by
  unfold takeCell at e
  try dsimp -proj only at e
  repeat' split at e
  all_goals first | injection e with e | skip
  all_goals first | cases e | skip
  all_goals repeat' first
    | with_reducible exact h
    | with_reducible apply Keeps.ite
    | with_reducible apply keep_State_modFab
    | (simp -proj only [keeps_mk]; with_reducible refine KeepsParts.of rfl ?_ ?_ ?_ ?_ ?_ ?_)
    | with_reducible exact fun i => i
    | with_reducible assumption
    | with_reducible exact fun _ i => i
    | split
    | exact fun i => by simpa using i

theorem keep_storeCell {z0 : State} (s : State) (c : Cell) (h : Keeps z0 s) : Keeps z0 (storeCell s c) := by
  unfold storeCell
  try dsimp -proj only
  repeat' first
    | with_reducible exact h
    | with_reducible apply Keeps.ite
    | with_reducible apply keep_modTransit
    | with_reducible apply keep_makeBad
    | (simp -proj only [keeps_mk]; with_reducible refine KeepsParts.of rfl ?_ ?_ ?_ ?_ ?_ ?_)
    | with_reducible exact fun i => i
    | with_reducible assumption
    | with_reducible exact fun _ i => i
    | split
    | exact fun i => by simpa using i

theorem keep_drainReseq {z0 : State}  (x1 : Nat) (s : State) (x2 : Nat) (h : Keeps z0 s) : Keeps z0 (drainReseq x1 s x2) := by
  induction x1 generalizing s x2 with
  | zero => exact h
  | succ n ih =>
    unfold drainReseq
    try dsimp -proj only
    repeat' first
      | with_reducible exact h
      | with_reducible apply ih
      | with_reducible apply keep_storeCell
      | with_reducible apply keep_State_modFab
      | (simp -proj only [keeps_mk]; with_reducible refine KeepsParts.of rfl ?_ ?_ ?_ ?_ ?_ ?_)
      | with_reducible exact fun i => i
      | with_reducible assumption
      | with_reducible exact fun _ i => i
      | split
      | exact fun i => by simpa using i

theorem keep_outputCell {z0 : State} (s : State) (c : Cell) (h : Keeps z0 s) : Keeps z0 (outputCell s c) := by
  unfold outputCell
  try dsimp -proj only
  repeat' first
    | with_reducible exact h
    | with_reducible apply Keeps.ite
    | with_reducible apply keep_storeCell
    | with_reducible apply keep_drainReseq
    | with_reducible apply keep_fabPeak
    | with_reducible apply keep_State_modFab
    | (simp -proj only [keeps_mk]; with_reducible refine KeepsParts.of rfl ?_ ?_ ?_ ?_ ?_ ?_)
    | with_reducible exact fun i => i
    | with_reducible assumption
    | with_reducible exact fun _ i => i
    | split
    | exact fun i => by simpa using i

theorem keep_acceptCell {z0 : State} (s : State) (stage b : Nat) (c : Cell) (h : Keeps z0 s) : Keeps z0 (acceptCell s stage b c) := by
  unfold acceptCell
  try dsimp -proj only
  repeat' first
    | with_reducible exact h
    | with_reducible apply Keeps.ite
    | with_reducible apply keep_perfCount
    | with_reducible apply keep_State_modFab
    | with_reducible apply keep_outputCell
    | (simp -proj only [keeps_mk]; with_reducible refine KeepsParts.of rfl ?_ ?_ ?_ ?_ ?_ ?_)
    | with_reducible exact fun i => i
    | with_reducible assumption
    | with_reducible exact fun _ i => i
    | split
    | exact fun i => by simpa using i

theorem keep_raiseReplayFail {z0 : State} (s : State) (stage a b : Nat) (t : Transit) (h : Keeps z0 s) : Keeps z0 (raiseReplayFail s stage a b t) := by
  unfold raiseReplayFail
  try dsimp -proj only
  repeat' first
    | with_reducible exact h
    | with_reducible apply Keeps.ite
    | with_reducible apply keep_raise
    | with_reducible apply keep_State_modFab
    | (simp -proj only [keeps_mk]; with_reducible refine KeepsParts.of rfl ?_ ?_ ?_ ?_ ?_ ?_)
    | with_reducible exact fun i => i
    | with_reducible assumption
    | with_reducible exact fun _ i => i
    | split
    | exact fun i => by simpa using i

theorem keep_replayFailed {z0 : State} (s : State) (stage a b : Nat) (c : Cell) (h : Keeps z0 s) : Keeps z0 (replayFailed s stage a b c) := by
  unfold replayFailed
  try dsimp -proj only
  repeat' first
    | with_reducible exact h
    | with_reducible apply Keeps.ite
    | with_reducible apply keep_modTransit
    | with_reducible apply keep_raiseReplayFail
    | with_reducible apply keep_fabCount
    | with_reducible apply keep_acceptCell
    | (simp -proj only [keeps_mk]; with_reducible refine KeepsParts.of rfl ?_ ?_ ?_ ?_ ?_ ?_)
    | with_reducible exact fun i => i
    | with_reducible assumption
    | with_reducible exact fun _ i => i
    | split
    | exact fun i => by simpa using i

theorem keep_execCellReceive (stage sender receiver : Nat) (crcOk : Bool) (s : State) : Goes s (execCellReceive stage sender receiver crcOk s) := by
  have h := Keeps.refl s
  unfold execCellReceive
  try dsimp -proj only
  repeat' first
    | with_reducible exact h
    | with_reducible apply Keeps.ite
    | with_reducible apply Goes.ite
    | with_reducible apply Goes.next
    | with_reducible apply keep_State_modFab
    | with_reducible apply keep_acceptCell
    | with_reducible apply keep_replayFailed
    | (with_reducible refine keep_takeCell _ _ _ _ ?_ (by assumption))
    | (simp -proj only [keeps_mk]; with_reducible refine KeepsParts.of rfl ?_ ?_ ?_ ?_ ?_ ?_)
    | with_reducible exact fun i => i
    | (intro r hr; try dsimp -proj only)
    | with_reducible assumption
    | with_reducible exact fun _ i => i
    | split
    | exact fun i => by simpa using i

theorem keep_execReplayRejection (stage sender receiver : Nat) (s : State) : Goes s (execReplayRejection stage sender receiver s) := by
  have h := Keeps.refl s
  unfold execReplayRejection
  try dsimp -proj only
  repeat' first
    | with_reducible exact h
    | with_reducible apply Keeps.ite
    | with_reducible apply Goes.ite
    | with_reducible apply Goes.next
    | with_reducible apply keep_State_modFab
    | with_reducible apply keep_perfCount
    | with_reducible apply keep_fabCount
    | (simp -proj only [keeps_mk]; with_reducible refine KeepsParts.of rfl ?_ ?_ ?_ ?_ ?_ ?_)
    | with_reducible exact fun i => i
    | (intro r hr; try dsimp -proj only)
    | with_reducible assumption
    | with_reducible exact fun _ i => i
    | split
    | exact fun i => by simpa using i

theorem keep_execReassemblyTimeout (output : Nat) (s : State) : Goes s (execReassemblyTimeout output s) := by
  have h := Keeps.refl s
  unfold execReassemblyTimeout
  try dsimp -proj only
  repeat' first
    | with_reducible exact h
    | with_reducible apply Goes.ite
    | with_reducible apply Goes.next
    | with_reducible apply keep_raiseReplayFail
    | with_reducible apply keep_fabCount
    | with_reducible apply keep_makeBad
    | with_reducible apply keep_modTransit
    | (simp -proj only [keeps_mk]; with_reducible refine KeepsParts.of rfl ?_ ?_ ?_ ?_ ?_ ?_)
    | with_reducible exact fun i => i
    | (intro r hr; try dsimp -proj only)
    | with_reducible assumption
    | with_reducible exact fun _ i => i
    | split
    | exact fun i => by simpa using i

theorem keep_execReseqTimeout (w : Nat) (s : State) : Goes s (execReseqTimeout w s) := by
  have h := Keeps.refl s
  unfold execReseqTimeout
  try dsimp -proj only
  repeat' first
    | with_reducible exact h
    | with_reducible apply Keeps.ite
    | with_reducible apply Goes.ite
    | with_reducible apply Goes.next
    | with_reducible apply keep_State_modFab
    | with_reducible apply keep_raiseSampledKey
    | with_reducible apply keep_fabCount
    | with_reducible apply keep_makeBad
    | with_reducible apply keep_modTransit
    | with_reducible apply keep_drainReseq
    | (simp -proj only [keeps_mk]; with_reducible refine KeepsParts.of rfl ?_ ?_ ?_ ?_ ?_ ?_)
    | with_reducible exact fun i => i
    | (intro r hr; try dsimp -proj only)
    | with_reducible assumption
    | with_reducible exact fun _ i => i
    | split
    | exact fun i => by simpa using i

theorem keep_applyWide {z0 : State} (s : State) (w : Nat) (h : Keeps z0 s) : Keeps z0 (applyWide s w) := by
  unfold applyWide
  try dsimp -proj only
  repeat' first
    | with_reducible exact h
    | with_reducible apply keep_State_modFab
    | with_reducible apply keep_cutFrame
    | with_reducible apply keep_modTransit
    | (simp -proj only [keeps_mk]; with_reducible refine KeepsParts.of rfl ?_ ?_ ?_ ?_ ?_ ?_)
    | with_reducible exact fun i => i
    | with_reducible apply Keeps.foldl
    | (intro r x hr; try dsimp -proj only)
    | with_reducible assumption
    | with_reducible exact fun _ i => i
    | split
    | exact fun i => by simpa using i

theorem keep_execWideStreamChangeApply (w : Nat) (s : State) : Goes s (execWideStreamChangeApply w s) := by
  have h := Keeps.refl s
  unfold execWideStreamChangeApply
  try dsimp -proj only
  repeat' first
    | with_reducible exact h
    | with_reducible apply Keeps.ite
    | with_reducible apply Goes.ite
    | with_reducible apply Goes.next
    | with_reducible apply keep_applyWide
    | (intro r hr; try dsimp -proj only)
    | with_reducible assumption
    | split

theorem keep_setMode {z0 : State} (s : State) (mode reason : Nat) (h : Keeps z0 s) : Keeps z0 (setMode s mode reason) := by
  unfold setMode
  try dsimp -proj only
  repeat' first
    | with_reducible exact h
    | with_reducible apply Keeps.ite
    | with_reducible apply keep_overflowUpdate
    | with_reducible apply keep_State_modFab
    | (simp -proj only [keeps_mk]; with_reducible refine KeepsParts.of rfl ?_ ?_ ?_ ?_ ?_ ?_)
    | with_reducible exact fun i => i
    | with_reducible assumption
    | with_reducible exact fun _ i => i
    | split
    | exact fun i => by simpa using i

theorem keep_execModeLimitExpiry (s : State) : Goes s (execModeLimitExpiry s) := by
  have h := Keeps.refl s
  unfold execModeLimitExpiry
  try dsimp -proj only
  repeat' first
    | with_reducible exact h
    | with_reducible apply Keeps.ite
    | with_reducible apply Goes.ite
    | with_reducible apply Goes.next
    | with_reducible apply keep_setMode
    | with_reducible apply keep_State_later
    | (simp -proj only [keeps_mk]; with_reducible refine KeepsParts.of rfl ?_ ?_ ?_ ?_ ?_ ?_)
    | with_reducible exact fun i => i
    | (intro r hr; try dsimp -proj only)
    | with_reducible assumption
    | with_reducible exact fun _ i => i
    | split
    | exact fun i => by simpa using i

theorem keep_residencyCount {z0 : State} (s : State) (point place tc : Nat) (epoch : Nat) (h : Keeps z0 s) : Keeps z0 (residencyCount s point place tc epoch) := by
  unfold residencyCount
  try dsimp -proj only
  repeat' first
    | with_reducible exact h
    | with_reducible apply Keeps.ite
    | with_reducible apply keep_fabCount
    | with_reducible apply keep_raiseSampled
    | (simp -proj only [keeps_mk]; with_reducible refine KeepsParts.of rfl ?_ ?_ ?_ ?_ ?_ ?_)
    | with_reducible exact fun i => i
    | with_reducible assumption
    | with_reducible exact fun _ i => i
    | split
    | exact fun i => by simpa using i

theorem keep_scanCopy {z0 : State} (s : State) (id : Nat) (c : Copy) (h : Keeps z0 s) : Keeps z0 (scanCopy s id c) := by
  unfold scanCopy
  try dsimp -proj only
  repeat' first
    | with_reducible exact h
    | with_reducible apply Keeps.ite
    | with_reducible apply keep_finishCopy
    | with_reducible apply keep_residencyCount
    | with_reducible apply Keeps.modRing
    | (simp -proj only [keeps_mk]; with_reducible refine KeepsParts.of rfl ?_ ?_ ?_ ?_ ?_ ?_)
    | with_reducible exact fun i => i
    | with_reducible assumption
    | with_reducible exact fun _ i => i
    | split
    | exact fun i => by simpa using i

theorem keep_execResidencyScan (s : State) : Goes s (execResidencyScan s) := by
  have h := Keeps.refl s
  unfold execResidencyScan
  try dsimp -proj only
  repeat' first
    | with_reducible exact h
    | with_reducible apply Goes.ite
    | with_reducible apply Goes.next
    | with_reducible apply keep_scanCopy
    | with_reducible apply keep_countOut
    | with_reducible apply keep_residencyCount
    | with_reducible apply keep_State_modHor
    | with_reducible apply keep_State_modFab
    | (simp -proj only [keeps_mk]; with_reducible refine KeepsParts.of rfl ?_ ?_ ?_ ?_ ?_ ?_)
    | with_reducible exact fun i => i
    | with_reducible apply Keeps.foldl
    | (intro r x hr; try dsimp -proj only)
    | (intro r hr; try dsimp -proj only)
    | with_reducible assumption
    | with_reducible exact fun _ i => i
    | exact fun i => by simpa using i

end Sys2Proof.Machine
end

