-- ==== Sys2Proof/Laws/KeyOps.lean ====
section
/-! SUPPORT. Laws of Machine/KeyOps.lean: each operation keeps the queue of waiting commands and soundness; each meaning goes on. -/

namespace Sys2Proof.Machine

theorem keep_State_modKeys {z0 : State} (s : State) (f : Keys → Keys) (h : Keeps z0 s) : Keeps z0 (State.modKeys s f) := by
  unfold State.modKeys
  try dsimp -proj only
  repeat' first
    | with_reducible exact h
    | (simp -proj only [keeps_mk]; with_reducible refine KeepsParts.of rfl ?_ ?_ ?_ ?_ ?_ ?_)
    | with_reducible exact fun i => i
    | with_reducible assumption
    | with_reducible exact fun _ i => i
    | exact fun i => by simpa using i

theorem keep_modSlot {z0 : State} (s : State) (n : Nat) (f : KeySlot → KeySlot) (h : Keeps z0 s) : Keeps z0 (modSlot s n f) := by
  unfold modSlot
  try dsimp -proj only
  repeat' first
    | with_reducible exact h
    | with_reducible apply keep_State_modKeys
    | (simp -proj only [keeps_mk]; with_reducible refine KeepsParts.of rfl ?_ ?_ ?_ ?_ ?_ ?_)
    | with_reducible exact fun i => i
    | with_reducible assumption
    | with_reducible exact fun _ i => i
    | exact fun i => by simpa using i

theorem keep_keyErased {z0 : State} (s : State) (n cause banks users gen waitUs : Nat) (h : Keeps z0 s) : Keeps z0 (keyErased s n cause banks users gen waitUs) := by
  unfold keyErased
  try dsimp -proj only
  repeat' first
    | with_reducible exact h
    | with_reducible apply Keeps.ite
    | with_reducible apply keep_raise
    | with_reducible assumption
    | split

theorem keep_loadSlot {z0 : State}  (x1 : Nat) (s : State) (x2 : Nat) (h : Keeps z0 s) : Keeps z0 (loadSlot x1 s x2).1 := by
  induction x1 generalizing s x2 with
  | zero => exact h
  | succ n ih =>
    unfold loadSlot
    try dsimp -proj only
    repeat' first
      | with_reducible exact h
      | with_reducible apply Keeps.ite
      | with_reducible apply ih
      | (with_reducible refine Keeps.fst (by assumption) ?_; with_reducible apply ih)
      | with_reducible apply keep_State_modKeys
      | with_reducible apply keep_keyErased
      | with_reducible apply keep_modSlot
      | (simp -proj only [keeps_mk]; with_reducible refine KeepsParts.of rfl ?_ ?_ ?_ ?_ ?_ ?_)
      | with_reducible exact fun i => i
      | with_reducible assumption
      | with_reducible exact fun _ i => i
      | split
      | exact fun i => by simpa using i

theorem keep_slotUsed {z0 : State} (s : State) (h : Keeps z0 s) : Keeps z0 (slotUsed s) := by
  unfold slotUsed
  try dsimp -proj only
  repeat' first
    | with_reducible exact h
    | with_reducible apply keep_State_modKeys
    | (simp -proj only [keeps_mk]; with_reducible refine KeepsParts.of rfl ?_ ?_ ?_ ?_ ?_ ?_)
    | with_reducible exact fun i => i
    | with_reducible assumption
    | with_reducible exact fun _ i => i
    | exact fun i => by simpa using i

theorem keep_modMac {z0 : State} (s : State) (i : Nat) (f : MacRun → MacRun) (h : Keeps z0 s) : Keeps z0 (modMac s i f) := by
  unfold modMac
  try dsimp -proj only
  repeat' first
    | with_reducible exact h
    | with_reducible apply keep_State_modKeys
    | (simp -proj only [keeps_mk]; with_reducible refine KeepsParts.of rfl ?_ ?_ ?_ ?_ ?_ ?_)
    | with_reducible exact fun i => i
    | with_reducible assumption
    | with_reducible exact fun _ i => i
    | exact fun i => by simpa using i

theorem keep_macCount {z0 : State} (s : State) (i pos : Nat) (h : Keeps z0 s) : Keeps z0 (macCount s i pos) := by
  unfold macCount
  try dsimp -proj only
  repeat' first
    | with_reducible exact h
    | with_reducible apply keep_modMac
    | (simp -proj only [keeps_mk]; with_reducible refine KeepsParts.of rfl ?_ ?_ ?_ ?_ ?_ ?_)
    | with_reducible exact fun i => i
    | with_reducible assumption
    | with_reducible exact fun _ i => i
    | exact fun i => by simpa using i

theorem keep_scCount {z0 : State} (s : State) (i k pos n : Nat) (h : Keeps z0 s) : Keeps z0 (scCount s i k pos n) := by
  unfold scCount
  try dsimp -proj only
  repeat' first
    | with_reducible exact h
    | with_reducible apply Keeps.ite
    | with_reducible apply keep_modMac
    | (simp -proj only [keeps_mk]; with_reducible refine KeepsParts.of rfl ?_ ?_ ?_ ?_ ?_ ?_)
    | with_reducible exact fun i => i
    | with_reducible assumption
    | with_reducible exact fun _ i => i
    | split
    | exact fun i => by simpa using i

theorem keep_modSa {z0 : State} (s : State) (i k : Nat) (f : MacSa → MacSa) (h : Keeps z0 s) : Keeps z0 (modSa s i k f) := by
  unfold modSa
  try dsimp -proj only
  repeat' first
    | with_reducible exact h
    | with_reducible apply Keeps.ite
    | with_reducible apply keep_modMac
    | (simp -proj only [keeps_mk]; with_reducible refine KeepsParts.of rfl ?_ ?_ ?_ ?_ ?_ ?_)
    | with_reducible exact fun i => i
    | with_reducible assumption
    | with_reducible exact fun _ i => i
    | split
    | exact fun i => by simpa using i

theorem keep_saCount {z0 : State} (s : State) (i k pos : Nat) (h : Keeps z0 s) : Keeps z0 (saCount s i k pos) := by
  unfold saCount
  try dsimp -proj only
  repeat' first
    | with_reducible exact h
    | with_reducible apply keep_modSa
    | (simp -proj only [keeps_mk]; with_reducible refine KeepsParts.of rfl ?_ ?_ ?_ ?_ ?_ ?_)
    | with_reducible exact fun i => i
    | with_reducible assumption
    | with_reducible exact fun _ i => i
    | exact fun i => by simpa using i

theorem keep_saState {z0 : State} (s : State) (i kind : Nat) (a : MacSa) (h : Keeps z0 s) : Keeps z0 (saState s i kind a) := by
  unfold saState
  try dsimp -proj only
  repeat' first
    | with_reducible exact h
    | with_reducible apply Keeps.ite
    | with_reducible apply keep_raise
    | with_reducible assumption
    | split

theorem keep_retireSa {z0 : State} (s : State) (i k : Nat) (h : Keeps z0 s) : Keeps z0 (retireSa s i k) := by
  unfold retireSa
  try dsimp -proj only
  repeat' first
    | with_reducible exact h
    | with_reducible apply keep_saState
    | with_reducible apply keep_modMac
    | (simp -proj only [keeps_mk]; with_reducible refine KeepsParts.of rfl ?_ ?_ ?_ ?_ ?_ ?_)
    | with_reducible exact fun i => i
    | with_reducible assumption
    | with_reducible exact fun _ i => i
    | split
    | exact fun i => by simpa using i

theorem keep_installSa {z0 : State} (s : State) (i k sci : Nat) (a : MacSa) (h : Keeps z0 s) : Keeps z0 (installSa s i k sci a) := by
  unfold installSa
  try dsimp -proj only
  repeat' first
    | with_reducible exact h
    | with_reducible apply Keeps.ite
    | with_reducible apply keep_saState
    | with_reducible apply keep_modMac
    | (simp -proj only [keeps_mk]; with_reducible refine KeepsParts.of rfl ?_ ?_ ?_ ?_ ?_ ?_)
    | with_reducible exact fun i => i
    | with_reducible assumption
    | with_reducible exact fun _ i => i
    | split
    | exact fun i => by simpa using i

theorem keep_activateSa {z0 : State} (s : State) (i k : Nat) (h : Keeps z0 s) : Keeps z0 (activateSa s i k) := by
  unfold activateSa
  try dsimp -proj only
  repeat' first
    | with_reducible exact h
    | with_reducible apply Keeps.ite
    | with_reducible apply keep_modMac
    | with_reducible apply keep_saState
    | (simp -proj only [keeps_mk]; with_reducible refine KeepsParts.of rfl ?_ ?_ ?_ ?_ ?_ ?_)
    | with_reducible exact fun i => i
    | with_reducible assumption
    | with_reducible exact fun _ i => i
    | split
    | exact fun i => by simpa using i

theorem keep_zeroizeMac {z0 : State} (s : State) (h : Keeps z0 s) : Keeps z0 (zeroizeMac s) := by
  unfold zeroizeMac
  try dsimp -proj only
  repeat' first
    | with_reducible exact h
    | with_reducible apply keep_State_modKeys
    | (simp -proj only [keeps_mk]; with_reducible refine KeepsParts.of rfl ?_ ?_ ?_ ?_ ?_ ?_)
    | with_reducible exact fun i => i
    | with_reducible assumption
    | with_reducible exact fun _ i => i
    | exact fun i => by simpa using i

theorem keep_modMka {z0 : State} (s : State) (i : Nat) (f : MkaRun → MkaRun) (h : Keeps z0 s) : Keeps z0 (modMka s i f) := by
  unfold modMka
  try dsimp -proj only
  repeat' first
    | with_reducible exact h
    | with_reducible apply keep_modMac
    | (simp -proj only [keeps_mk]; with_reducible refine KeepsParts.of rfl ?_ ?_ ?_ ?_ ?_ ?_)
    | with_reducible exact fun i => i
    | with_reducible assumption
    | with_reducible exact fun _ i => i
    | exact fun i => by simpa using i

theorem keep_mkaPeer {z0 : State} (s : State) (i kind sci : Nat) (h : Keeps z0 s) : Keeps z0 (mkaPeer s i kind sci) := by
  unfold mkaPeer
  try dsimp -proj only
  repeat' first
    | with_reducible exact h
    | with_reducible apply Keeps.ite
    | with_reducible apply keep_raise
    | with_reducible assumption
    | split

theorem keep_retireMka {z0 : State} (s : State) (i : Nat) (keep : List Nat) (h : Keeps z0 s) : Keeps z0 (retireMka s i keep) := by
  unfold retireMka
  try dsimp -proj only
  repeat' first
    | with_reducible exact h
    | with_reducible apply keep_retireSa
    | (simp -proj only [keeps_mk]; with_reducible refine KeepsParts.of rfl ?_ ?_ ?_ ?_ ?_ ?_)
    | with_reducible apply Keeps.foldl
    | (intro r x hr; try dsimp -proj only)
    | with_reducible assumption

theorem keep_mkaInstall {z0 : State} (s : State) (i kn an sci : Nat) (key : List Byte) (h : Keeps z0 s) : Keeps z0 (mkaInstall s i kn an sci key) := by
  unfold mkaInstall
  try dsimp -proj only
  repeat' first
    | with_reducible exact h
    | with_reducible apply keep_activateSa
    | with_reducible apply keep_installSa
    | with_reducible apply keep_modMka
    | with_reducible apply keep_retireMka
    | (simp -proj only [keeps_mk]; with_reducible refine KeepsParts.of rfl ?_ ?_ ?_ ?_ ?_ ?_)
    | with_reducible exact fun i => i
    | with_reducible assumption
    | with_reducible exact fun _ i => i
    | split
    | exact fun i => by simpa using i

theorem keep_mkaRekey {z0 : State} (s : State) (i : Nat) (h : Keeps z0 s) : Keeps z0 (mkaRekey s i) := by
  unfold mkaRekey
  try dsimp -proj only
  repeat' first
    | with_reducible exact h
    | with_reducible apply Keeps.ite
    | with_reducible apply keep_modMka
    | with_reducible apply keep_mkaInstall
    | (simp -proj only [keeps_mk]; with_reducible refine KeepsParts.of rfl ?_ ?_ ?_ ?_ ?_ ?_)
    | with_reducible exact fun i => i
    | with_reducible assumption
    | with_reducible exact fun _ i => i
    | split
    | exact fun i => by simpa using i

theorem keep_mkaLost {z0 : State} (s : State) (i : Nat) (h : Keeps z0 s) : Keeps z0 (mkaLost s i) := by
  unfold mkaLost
  try dsimp -proj only
  repeat' first
    | with_reducible exact h
    | with_reducible apply keep_modMka
    | with_reducible apply keep_mkaPeer
    | (simp -proj only [keeps_mk]; with_reducible refine KeepsParts.of rfl ?_ ?_ ?_ ?_ ?_ ?_)
    | with_reducible exact fun i => i
    | with_reducible assumption
    | with_reducible exact fun _ i => i
    | split
    | exact fun i => by simpa using i

theorem keep_mkaStart {z0 : State} (s : State) (i : Nat) (h : Keeps z0 s) : Keeps z0 (mkaStart s i) := by
  unfold mkaStart
  try dsimp -proj only
  repeat' first
    | with_reducible exact h
    | with_reducible apply Keeps.ite
    | (with_reducible refine Keeps.fst (by assumption) ?_; with_reducible apply keep_loadSlot)
    | with_reducible apply keep_loadSlot
    | with_reducible apply keep_modMka
    | with_reducible apply keep_slotUsed
    | (simp -proj only [keeps_mk]; with_reducible refine KeepsParts.of rfl ?_ ?_ ?_ ?_ ?_ ?_)
    | with_reducible exact fun i => i
    | with_reducible assumption
    | with_reducible exact fun _ i => i
    | split
    | exact fun i => by simpa using i

theorem keep_mkaStop {z0 : State} (s : State) (i : Nat) (h : Keeps z0 s) : Keeps z0 (mkaStop s i) := by
  unfold mkaStop
  try dsimp -proj only
  repeat' first
    | with_reducible exact h
    | with_reducible apply keep_modMka
    | with_reducible apply keep_mkaLost
    | (simp -proj only [keeps_mk]; with_reducible refine KeepsParts.of rfl ?_ ?_ ?_ ?_ ?_ ?_)
    | with_reducible exact fun i => i
    | with_reducible assumption
    | with_reducible exact fun _ i => i
    | exact fun i => by simpa using i

theorem keep_mkaRestart {z0 : State} (s : State) (i : Nat) (h : Keeps z0 s) : Keeps z0 (mkaRestart s i) := by
  unfold mkaRestart
  try dsimp -proj only
  repeat' first
    | with_reducible exact h
    | with_reducible apply keep_mkaStart
    | with_reducible apply keep_mkaStop
    | with_reducible assumption

theorem keep_macsecSend {z0 : State} (s : State) (p len : Nat) (h : Keeps z0 s) : Keeps z0 (macsecSend s p len).1 := by
  unfold macsecSend
  try dsimp -proj only
  repeat' first
    | with_reducible exact h
    | with_reducible apply Keeps.ite
    | with_reducible apply keep_macCount
    | with_reducible apply keep_saCount
    | with_reducible apply keep_scCount
    | with_reducible apply keep_modSa
    | with_reducible apply keep_mkaRekey
    | with_reducible apply keep_saState
    | (simp -proj only [keeps_mk]; with_reducible refine KeepsParts.of rfl ?_ ?_ ?_ ?_ ?_ ?_)
    | with_reducible exact fun i => i
    | with_reducible assumption
    | with_reducible exact fun _ i => i
    | split
    | exact fun i => by simpa using i

theorem keep_macHead {z0 : State} (s : State) (p : Nat) (w : WireFrame) (h : Keeps z0 s) : Keeps z0 (macHead s p w).1 := by
  unfold macHead
  try dsimp -proj only
  repeat' first
    | with_reducible exact h
    | with_reducible apply Keeps.ite
    | with_reducible apply keep_macCount
    | with_reducible apply keep_saCount
    | with_reducible apply keep_scCount
    | (simp -proj only [keeps_mk]; with_reducible refine KeepsParts.of rfl ?_ ?_ ?_ ?_ ?_ ?_)
    | with_reducible exact fun i => i
    | with_reducible assumption
    | with_reducible exact fun _ i => i
    | split
    | exact fun i => by simpa using i

theorem keep_macEnd {z0 : State} (s : State) (p : Nat) (w : WireFrame) (cut : Bool) (h : Keeps z0 s) : Keeps z0 (macEnd s p w cut) := by
  unfold macEnd
  try dsimp -proj only
  repeat' first
    | with_reducible exact h
    | with_reducible apply Keeps.ite
    | with_reducible apply keep_scCount
    | with_reducible apply keep_saCount
    | with_reducible apply keep_modSa
    | with_reducible apply keep_macCount
    | with_reducible apply keep_raiseSampled
    | (simp -proj only [keeps_mk]; with_reducible refine KeepsParts.of rfl ?_ ?_ ?_ ?_ ?_ ?_)
    | with_reducible exact fun i => i
    | with_reducible assumption
    | with_reducible exact fun _ i => i
    | split
    | exact fun i => by simpa using i

theorem keep_State_modPair {z0 : State} (s : State) (f : Pair → Pair) (h : Keeps z0 s) : Keeps z0 (State.modPair s f) := by
  unfold State.modPair
  try dsimp -proj only
  repeat' first
    | with_reducible exact h
    | (simp -proj only [keeps_mk]; with_reducible refine KeepsParts.of rfl ?_ ?_ ?_ ?_ ?_ ?_)
    | with_reducible exact fun i => i
    | with_reducible assumption
    | with_reducible exact fun _ i => i
    | exact fun i => by simpa using i

theorem keep_pairCount {z0 : State} (s : State) (t pos n : Nat) (h : Keeps z0 s) : Keeps z0 (pairCount s t pos n) := by
  unfold pairCount
  try dsimp -proj only
  repeat' first
    | with_reducible exact h
    | with_reducible apply keep_State_modPair
    | (simp -proj only [keeps_mk]; with_reducible refine KeepsParts.of rfl ?_ ?_ ?_ ?_ ?_ ?_)
    | with_reducible exact fun i => i
    | with_reducible assumption
    | with_reducible exact fun _ i => i
    | exact fun i => by simpa using i

theorem keep_countBlocked {z0 : State} (s : State) (k : Nat) (h : Keeps z0 s) : Keeps z0 (countBlocked s k) := by
  unfold countBlocked
  try dsimp -proj only
  repeat' first
    | with_reducible exact h
    | with_reducible apply Keeps.ite
    | with_reducible apply keep_pairCount
    | with_reducible assumption
    | split

theorem keep_protect {z0 : State} (s : State) (p : Nat) (t : Transit) (h : Keeps z0 s) : Keeps z0 (protect s p t).1 := by
  unfold protect
  try dsimp -proj only
  repeat' first
    | with_reducible exact h
    | with_reducible apply Keeps.ite
    | (with_reducible refine Keeps.fst (by assumption) ?_; with_reducible apply keep_macsecSend)
    | with_reducible apply keep_macsecSend
    | with_reducible apply keep_countBlocked
    | (simp -proj only [keeps_mk]; with_reducible refine KeepsParts.of rfl ?_ ?_ ?_ ?_ ?_ ?_)
    | with_reducible exact fun i => i
    | with_reducible assumption
    | with_reducible exact fun _ i => i
    | split
    | exact fun i => by simpa using i

end Sys2Proof.Machine
end

