-- ==== Sys2Proof/Laws/Pipeline.lean ====
section
/-! SUPPORT. Laws of Machine/Pipeline.lean: each operation keeps the queue of waiting commands and soundness; each meaning goes on. -/

namespace Sys2Proof.Machine

theorem keep_stageParse {z0 : State} (f : Frame) (s : State) (h : Keeps z0 s) : StageKeeps z0 (stageParse f s).1 := by
  unfold stageParse
  try dsimp -proj only
  repeat' first
    | with_reducible exact h
    | with_reducible apply Keeps.ite
    | with_reducible apply StageKeeps.ite
    | with_reducible apply StageKeeps.pass
    | with_reducible apply StageKeeps.drop
    | with_reducible apply StageKeeps.away
    | with_reducible apply StageKeeps.andThen
    | (intro f t ht; try dsimp -proj only)
    | with_reducible apply keep_dropAt
    | (with_reducible refine StageKeeps.of_pass (by assumption) ?_; with_reducible apply keep_dropAt)
    | (with_reducible refine StageKeeps.of_drop (by assumption) ?_; with_reducible apply keep_dropAt)
    | (with_reducible refine StageKeeps.of_away (by assumption) ?_; with_reducible apply keep_dropAt)
    | with_reducible apply keep_parseDiscard
    | (with_reducible refine StageKeeps.of_pass (by assumption) ?_; with_reducible apply keep_parseDiscard)
    | (with_reducible refine StageKeeps.of_drop (by assumption) ?_; with_reducible apply keep_parseDiscard)
    | (with_reducible refine StageKeeps.of_away (by assumption) ?_; with_reducible apply keep_parseDiscard)
    | (simp -proj only [keeps_mk]; with_reducible refine KeepsParts.of rfl ?_ ?_ ?_ ?_ ?_ ?_)
    | with_reducible exact fun i => i
    | with_reducible assumption
    | with_reducible exact fun _ i => i
    | split
    | exact fun i => by simpa using i

theorem keep_runStages {z0 : State} (f : Frame) (w : WireFrame) (reinj : Bool) (s : State) (h : Keeps z0 s) : StageKeeps z0 (runStages f w reinj s) := by
  unfold runStages
  try dsimp -proj only
  repeat' first
    | with_reducible exact h
    | with_reducible apply StageKeeps.ite
    | with_reducible apply StageKeeps.pass
    | with_reducible apply StageKeeps.drop
    | with_reducible apply StageKeeps.away
    | with_reducible apply StageKeeps.andThen
    | (intro f t ht; try dsimp -proj only)
    | with_reducible apply keep_perfCount
    | with_reducible apply keep_ingCount
    | with_reducible apply keep_stageParse
    | with_reducible apply keep_stageDomain
    | (with_reducible refine StageKeeps.of_pass (by assumption) ?_; with_reducible apply keep_stageDomain)
    | (with_reducible refine StageKeeps.of_drop (by assumption) ?_; with_reducible apply keep_stageDomain)
    | (with_reducible refine StageKeeps.of_away (by assumption) ?_; with_reducible apply keep_stageDomain)
    | with_reducible apply keep_stageVlan
    | (with_reducible refine StageKeeps.of_pass (by assumption) ?_; with_reducible apply keep_stageVlan)
    | (with_reducible refine StageKeeps.of_drop (by assumption) ?_; with_reducible apply keep_stageVlan)
    | (with_reducible refine StageKeeps.of_away (by assumption) ?_; with_reducible apply keep_stageVlan)
    | with_reducible apply keep_stageFdb
    | (with_reducible refine StageKeeps.of_pass (by assumption) ?_; with_reducible apply keep_stageFdb)
    | (with_reducible refine StageKeeps.of_drop (by assumption) ?_; with_reducible apply keep_stageFdb)
    | (with_reducible refine StageKeeps.of_away (by assumption) ?_; with_reducible apply keep_stageFdb)
    | with_reducible apply keep_stageStream
    | (with_reducible refine StageKeeps.of_pass (by assumption) ?_; with_reducible apply keep_stageStream)
    | (with_reducible refine StageKeeps.of_drop (by assumption) ?_; with_reducible apply keep_stageStream)
    | (with_reducible refine StageKeeps.of_away (by assumption) ?_; with_reducible apply keep_stageStream)
    | with_reducible apply keep_stageFilter
    | (with_reducible refine StageKeeps.of_pass (by assumption) ?_; with_reducible apply keep_stageFilter)
    | (with_reducible refine StageKeeps.of_drop (by assumption) ?_; with_reducible apply keep_stageFilter)
    | (with_reducible refine StageKeeps.of_away (by assumption) ?_; with_reducible apply keep_stageFilter)
    | with_reducible apply keep_stageFrer
    | (with_reducible refine StageKeeps.of_pass (by assumption) ?_; with_reducible apply keep_stageFrer)
    | (with_reducible refine StageKeeps.of_drop (by assumption) ?_; with_reducible apply keep_stageFrer)
    | (with_reducible refine StageKeeps.of_away (by assumption) ?_; with_reducible apply keep_stageFrer)
    | with_reducible apply keep_stageHorizon
    | (with_reducible refine StageKeeps.of_pass (by assumption) ?_; with_reducible apply keep_stageHorizon)
    | (with_reducible refine StageKeeps.of_drop (by assumption) ?_; with_reducible apply keep_stageHorizon)
    | (with_reducible refine StageKeeps.of_away (by assumption) ?_; with_reducible apply keep_stageHorizon)
    | with_reducible assumption

theorem keep_afterStages {s0 : State} (r : StageRes) (complete : Bool) (h : StageKeeps s0 r) : Keeps s0 (afterStages r complete).1 := by
  unfold afterStages
  cases r with
  | away s => exact h
  | drop f s => exact keep_countOut _ _ (keep_perfCount _ _ _ (keep_mirrorFrame _ _ _ h))
  | pass f s =>
    have h1 : Keeps s0 (mirrorFrame f false s) := keep_mirrorFrame _ _ _ h
    dsimp -proj only
    refine keep_enterFabric _ _ _ ?_
    repeat' first
      | with_reducible exact h1
      | with_reducible apply keep_learn
      | split
theorem keep_enterPipeline {z0 : State} (s : State) (point : Nat) (txRing : Option Nat) (w : WireFrame) (complete reinj : Bool) (h : Keeps z0 s) : Keeps z0 (enterPipeline s point txRing w complete reinj).1 := by
  unfold enterPipeline
  try dsimp -proj only
  repeat' first
    | with_reducible exact h
    | with_reducible apply keep_afterStages
    | with_reducible apply keep_runStages
    | (with_reducible refine StageKeeps.of_pass (by assumption) ?_; with_reducible apply keep_runStages)
    | (with_reducible refine StageKeeps.of_drop (by assumption) ?_; with_reducible apply keep_runStages)
    | (with_reducible refine StageKeeps.of_away (by assumption) ?_; with_reducible apply keep_runStages)
    | with_reducible apply keep_countIn
    | with_reducible apply keep_State_modFab
    | (simp -proj only [keeps_mk]; with_reducible refine KeepsParts.of rfl ?_ ?_ ?_ ?_ ?_ ?_)
    | with_reducible exact fun i => i
    | with_reducible assumption
    | with_reducible exact fun _ i => i
    | exact fun i => by simpa using i

theorem keep_countRx {z0 : State} (s : State) (p len : Nat) (h : Keeps z0 s) : Keeps z0 (countRx s p len) := by
  unfold countRx
  try dsimp -proj only
  repeat' first
    | with_reducible exact h
    | with_reducible apply keep_bwCount
    | with_reducible apply keep_portCount
    | with_reducible assumption

theorem keep_macJudge {z0 : State} (s : State) (p : Nat) (w : WireFrame) (h : Keeps z0 s) : Keeps z0 (macJudge s p w).1 := by
  unfold macJudge
  try dsimp -proj only
  repeat' first
    | with_reducible exact h
    | with_reducible apply Keeps.ite
    | with_reducible apply keep_portCount
    | with_reducible apply keep_countRx
    | with_reducible apply keep_macEnd
    | with_reducible apply keep_State_modPow
    | (simp -proj only [keeps_mk]; with_reducible refine KeepsParts.of rfl ?_ ?_ ?_ ?_ ?_ ?_)
    | with_reducible exact fun i => i
    | with_reducible assumption
    | with_reducible exact fun _ i => i
    | split
    | exact fun i => by simpa using i

theorem keep_endInFabric {z0 : State} (s : State) (id len : Nat) (bad : Option Nat) (h : Keeps z0 s) : Keeps z0 (endInFabric s id len bad) := by
  unfold endInFabric
  try dsimp -proj only
  repeat' first
    | with_reducible exact h
    | with_reducible apply Keeps.ite
    | with_reducible apply keep_modTransit
    | with_reducible apply keep_cutFrame
    | with_reducible apply keep_cutCells
    | (simp -proj only [keeps_mk]; with_reducible refine KeepsParts.of rfl ?_ ?_ ?_ ?_ ?_ ?_)
    | with_reducible exact fun i => i
    | with_reducible assumption
    | with_reducible exact fun _ i => i
    | split
    | exact fun i => by simpa using i

theorem keep_judgeEnd {z0 : State} (s : State) (p : Nat) (x : RxOpen) (h : Keeps z0 s) : Keeps z0 (judgeEnd s p x) := by
  unfold judgeEnd
  try dsimp -proj only
  repeat' first
    | with_reducible exact h
    | with_reducible apply Keeps.ite
    | with_reducible apply keep_endInFabric
    | with_reducible apply keep_portCount
    | with_reducible apply keep_macEnd
    | with_reducible apply keep_countRx
    | with_reducible apply keep_learn
    | (simp -proj only [keeps_mk]; with_reducible refine KeepsParts.of rfl ?_ ?_ ?_ ?_ ?_ ?_)
    | with_reducible exact fun i => i
    | with_reducible assumption
    | with_reducible exact fun _ i => i
    | split
    | exact fun i => by simpa using i

theorem keep_receiveWhole {z0 : State} (s : State) (p : Nat) (w : WireFrame) (h : Keeps z0 s) : Keeps z0 (receiveWhole s p w) := by
  unfold receiveWhole
  try dsimp -proj only
  repeat' first
    | with_reducible exact h
    | with_reducible apply Keeps.ite
    | (with_reducible refine Keeps.fst (by assumption) ?_; with_reducible apply keep_macJudge)
    | with_reducible apply keep_macJudge
    | (with_reducible refine Keeps.fst (by assumption) ?_; with_reducible apply keep_enterPipeline)
    | with_reducible apply keep_enterPipeline
    | with_reducible apply keep_judgeEnd
    | (simp -proj only [keeps_mk]; with_reducible refine KeepsParts.of rfl ?_ ?_ ?_ ?_ ?_ ?_)
    | with_reducible exact fun i => i
    | with_reducible assumption
    | with_reducible exact fun _ i => i
    | split
    | exact fun i => by simpa using i

theorem keep_discardedEnd {z0 : State} (s : State) (p : Nat) (w : WireFrame) (h : Keeps z0 s) : Keeps z0 (discardedEnd s p w) := by
  unfold discardedEnd
  try dsimp -proj only
  repeat' first
    | with_reducible exact h
    | with_reducible apply Keeps.ite
    | with_reducible apply keep_portCount
    | with_reducible apply keep_countRx
    | with_reducible assumption
    | split

theorem keep_portArrival (point : Nat) (w : WireFrame) (complete : Bool) (s : State) : Goes s (portArrival point w complete s) := by
  have h := Keeps.refl s
  unfold portArrival
  try dsimp -proj only
  repeat' first
    | with_reducible exact h
    | with_reducible apply Keeps.ite
    | with_reducible apply Goes.ite
    | with_reducible apply Goes.next
    | with_reducible apply keep_discardedEnd
    | with_reducible apply keep_modPort
    | with_reducible apply keep_countBlocked
    | (with_reducible refine Keeps.fst (by assumption) ?_; with_reducible apply keep_macHead)
    | with_reducible apply keep_macHead
    | with_reducible apply keep_receiveWhole
    | (with_reducible refine Keeps.fst (by assumption) ?_; with_reducible apply keep_enterPipeline)
    | with_reducible apply keep_enterPipeline
    | with_reducible apply keep_learn
    | (simp -proj only [keeps_mk]; with_reducible refine KeepsParts.of rfl ?_ ?_ ?_ ?_ ?_ ?_)
    | with_reducible exact fun i => i
    | (intro r hr; try dsimp -proj only)
    | with_reducible assumption
    | with_reducible exact fun _ i => i
    | split
    | exact fun i => by simpa using i

theorem keep_execFrameEnd (point : Nat) (s : State) : Goes s (execFrameEnd point s) := by
  have h := Keeps.refl s
  unfold execFrameEnd
  try dsimp -proj only
  repeat' first
    | with_reducible exact h
    | with_reducible apply Keeps.ite
    | with_reducible apply Goes.ite
    | with_reducible apply Goes.next
    | with_reducible apply keep_modPort
    | with_reducible apply keep_discardedEnd
    | (with_reducible refine Keeps.fst (by assumption) ?_; with_reducible apply keep_macJudge)
    | with_reducible apply keep_macJudge
    | (with_reducible refine Keeps.fst (by assumption) ?_; with_reducible apply keep_enterPipeline)
    | with_reducible apply keep_enterPipeline
    | with_reducible apply keep_judgeEnd
    | (simp -proj only [keeps_mk]; with_reducible refine KeepsParts.of rfl ?_ ?_ ?_ ?_ ?_ ?_)
    | with_reducible exact fun i => i
    | (intro r hr; try dsimp -proj only)
    | with_reducible assumption
    | with_reducible exact fun _ i => i
    | split
    | exact fun i => by simpa using i

theorem keep_execRecirculationEntry (s : State) : Goes s (execRecirculationEntry s) := by
  have h := Keeps.refl s
  unfold execRecirculationEntry
  try dsimp -proj only
  repeat' first
    | with_reducible exact h
    | with_reducible apply Goes.ite
    | with_reducible apply Goes.next
    | with_reducible apply keep_State_modFab
    | with_reducible apply keep_perfCount
    | with_reducible apply keep_ingCount
    | with_reducible apply keep_enterFabric
    | with_reducible apply keep_afterStages
    | with_reducible apply keep_stageZoned
    | (with_reducible refine StageKeeps.of_pass (by assumption) ?_; with_reducible apply keep_stageZoned)
    | (with_reducible refine StageKeeps.of_drop (by assumption) ?_; with_reducible apply keep_stageZoned)
    | (with_reducible refine StageKeeps.of_away (by assumption) ?_; with_reducible apply keep_stageZoned)
    | (simp -proj only [keeps_mk]; with_reducible refine KeepsParts.of rfl ?_ ?_ ?_ ?_ ?_ ?_)
    | with_reducible exact fun i => i
    | (intro r hr; try dsimp -proj only)
    | with_reducible assumption
    | with_reducible exact fun _ i => i
    | split
    | exact fun i => by simpa using i

theorem keep_execRestoreComplete (s : State) : Goes s (execRestoreComplete s) := by
  have h := Keeps.refl s
  unfold execRestoreComplete
  try dsimp -proj only
  repeat' first
    | with_reducible exact h
    | with_reducible apply Keeps.ite
    | with_reducible apply Goes.ite
    | with_reducible apply Goes.next
    | with_reducible apply keep_State_modHor
    | with_reducible apply keep_State_modFab
    | (with_reducible refine keep_takeIndex _ _ ?_ (by assumption))
    | with_reducible apply keep_spillEmptied
    | (simp -proj only [keeps_mk]; with_reducible refine KeepsParts.of rfl ?_ ?_ ?_ ?_ ?_ ?_)
    | with_reducible exact fun i => i
    | (intro r hr; try dsimp -proj only)
    | with_reducible assumption
    | with_reducible exact fun _ i => i
    | split
    | exact fun i => by simpa using i

theorem keep_logException {z0 : State} (s : State) (rule : Nat) (h : Keeps z0 s) : Keeps z0 (logException s rule) := by
  unfold logException
  try dsimp -proj only
  repeat' first
    | with_reducible exact h
    | with_reducible apply Keeps.ite
    | with_reducible apply keep_logPut
    | with_reducible apply keep_State_modIng
    | (simp -proj only [keeps_mk]; with_reducible refine KeepsParts.of rfl ?_ ?_ ?_ ?_ ?_ ?_)
    | with_reducible exact fun i => i
    | with_reducible assumption
    | with_reducible exact fun _ i => i
    | split
    | exact fun i => by simpa using i

theorem keep_reinject {z0 : State} (s : State) (f : Frame) (h : Keeps z0 s) : Keeps z0 (reinject s f) := by
  unfold reinject
  try dsimp -proj only
  repeat' first
    | with_reducible exact h
    | (with_reducible refine Keeps.fst (by assumption) ?_; with_reducible apply keep_enterPipeline)
    | with_reducible apply keep_enterPipeline
    | with_reducible assumption

theorem keep_execExceptionHandler (s : State) : Goes s (execExceptionHandler s) := by
  have h := Keeps.refl s
  unfold execExceptionHandler
  try dsimp -proj only
  repeat' first
    | with_reducible exact h
    | with_reducible apply Keeps.ite
    | with_reducible apply Goes.ite
    | with_reducible apply Goes.next
    | with_reducible apply keep_countOut
    | with_reducible apply keep_State_modHor
    | with_reducible apply keep_logException
    | with_reducible apply keep_learn
    | with_reducible apply keep_enterFabric
    | with_reducible apply keep_countIn
    | with_reducible apply keep_State_modFab
    | with_reducible apply keep_reinject
    | (with_reducible refine keep_createSess _ _ _ _ _ _ _ _ _ ?_ (by assumption))
    | with_reducible apply keep_raiseTableFull
    | with_reducible apply keep_horCount
    | (simp -proj only [keeps_mk]; with_reducible refine KeepsParts.of rfl ?_ ?_ ?_ ?_ ?_ ?_)
    | with_reducible exact fun i => i
    | (intro r hr; try dsimp -proj only)
    | with_reducible assumption
    | with_reducible exact fun _ i => i
    | split
    | exact fun i => by simpa using i

theorem keep_execFdbAging (bucket : Nat) (s : State) : Goes s (execFdbAging bucket s) := by
  have h := Keeps.refl s
  unfold execFdbAging
  try dsimp -proj only
  repeat' first
    | with_reducible exact h
    | with_reducible apply Keeps.ite
    | with_reducible apply Goes.ite
    | with_reducible apply Goes.next
    | with_reducible apply keep_State_modIng
    | (simp -proj only [keeps_mk]; with_reducible refine KeepsParts.of rfl ?_ ?_ ?_ ?_ ?_ ?_)
    | with_reducible exact fun i => i
    | (intro r hr; try dsimp -proj only)
    | with_reducible assumption
    | with_reducible exact fun _ i => i
    | split
    | exact fun i => by simpa using i

theorem keep_execStreamGateEntryBoundary (g : Nat) (s : State) : Goes s (execStreamGateEntryBoundary g s) := by
  have h := Keeps.refl s
  unfold execStreamGateEntryBoundary
  try dsimp -proj only
  repeat' first
    | with_reducible exact h
    | with_reducible apply Goes.ite
    | with_reducible apply Goes.next
    | with_reducible apply keep_State_until
    | with_reducible apply keep_State_modIng
    | (simp -proj only [keeps_mk]; with_reducible refine KeepsParts.of rfl ?_ ?_ ?_ ?_ ?_ ?_)
    | with_reducible exact fun i => i
    | (intro r hr; try dsimp -proj only)
    | with_reducible assumption
    | with_reducible exact fun _ i => i
    | split
    | exact fun i => by simpa using i

theorem keep_startGateList {z0 : State} (s : State) (g : Nat) (h : Keeps z0 s) : Keeps z0 (startGateList s g) := by
  unfold startGateList
  try dsimp -proj only
  repeat' first
    | with_reducible exact h
    | with_reducible apply keep_State_modIng
    | (simp -proj only [keeps_mk]; with_reducible refine KeepsParts.of rfl ?_ ?_ ?_ ?_ ?_ ?_)
    | with_reducible exact fun i => i
    | with_reducible assumption
    | with_reducible exact fun _ i => i
    | split
    | exact fun i => by simpa using i

theorem keep_execStreamGateListChange (g : Nat) (s : State) : Goes s (execStreamGateListChange g s) := by
  have h := Keeps.refl s
  unfold execStreamGateListChange
  try dsimp -proj only
  repeat' first
    | with_reducible exact h
    | with_reducible apply Goes.ite
    | with_reducible apply Goes.next
    | with_reducible apply keep_startGateList
    | with_reducible apply keep_State_until
    | (simp -proj only [keeps_mk]; with_reducible refine KeepsParts.of rfl ?_ ?_ ?_ ?_ ?_ ?_)
    | with_reducible exact fun i => i
    | (intro r hr; try dsimp -proj only)
    | with_reducible assumption
    | with_reducible exact fun _ i => i
    | split
    | exact fun i => by simpa using i

theorem keep_stepGates {z0 : State} (s : State) (h : Keeps z0 s) : Keeps z0 (stepGates s) := by
  unfold stepGates
  try dsimp -proj only
  repeat' first
    | with_reducible exact h
    | with_reducible apply keep_startGateList
    | with_reducible apply keep_State_modIng
    | (simp -proj only [keeps_mk]; with_reducible refine KeepsParts.of rfl ?_ ?_ ?_ ?_ ?_ ?_)
    | with_reducible exact fun i => i
    | with_reducible apply Keeps.foldl
    | (intro r x hr; try dsimp -proj only)
    | with_reducible assumption
    | with_reducible exact fun _ i => i
    | split
    | exact fun i => by simpa using i

theorem keep_execFrerResetTimeout (i : Nat) (s : State) : Goes s (execFrerResetTimeout i s) := by
  have h := Keeps.refl s
  unfold execFrerResetTimeout
  try dsimp -proj only
  repeat' first
    | with_reducible exact h
    | with_reducible apply Keeps.ite
    | with_reducible apply Goes.ite
    | with_reducible apply Goes.next
    | with_reducible apply keep_resetHistory
    | with_reducible apply keep_State_until
    | with_reducible apply keep_raiseSampled
    | (simp -proj only [keeps_mk]; with_reducible refine KeepsParts.of rfl ?_ ?_ ?_ ?_ ?_ ?_)
    | with_reducible exact fun i => i
    | (intro r hr; try dsimp -proj only)
    | with_reducible assumption
    | with_reducible exact fun _ i => i
    | split
    | exact fun i => by simpa using i

theorem keep_execFrerLatentPeriod (i : Nat) (s : State) : Goes s (execFrerLatentPeriod i s) := by
  have h := Keeps.refl s
  unfold execFrerLatentPeriod
  try dsimp -proj only
  repeat' first
    | with_reducible exact h
    | with_reducible apply Keeps.ite
    | with_reducible apply Goes.ite
    | with_reducible apply Goes.next
    | with_reducible apply keep_State_modIng
    | with_reducible apply keep_raise
    | with_reducible apply keep_ingCount
    | (simp -proj only [keeps_mk]; with_reducible refine KeepsParts.of rfl ?_ ?_ ?_ ?_ ?_ ?_)
    | with_reducible exact fun i => i
    | (intro r hr; try dsimp -proj only)
    | with_reducible assumption
    | with_reducible exact fun _ i => i
    | split
    | exact fun i => by simpa using i

end Sys2Proof.Machine
end

