-- ==== Sys2Proof/Laws/EgressRun.lean ====
section
/-! SUPPORT. Laws of Machine/EgressRun.lean: each operation keeps the queue of waiting commands and soundness; each meaning goes on. -/

namespace Sys2Proof.Machine

theorem keep_egrCount {z0 : State} (s : State) (point tc pos n : Nat) (h : Keeps z0 s) : Keeps z0 (egrCount s point tc pos n) := by
  unfold egrCount
  try dsimp -proj only
  repeat' first
    | with_reducible exact h
    | with_reducible apply keep_State_modEgr
    | (simp -proj only [keeps_mk]; with_reducible refine KeepsParts.of rfl ?_ ?_ ?_ ?_ ?_ ?_)
    | with_reducible exact fun i => i
    | with_reducible assumption
    | with_reducible exact fun _ i => i
    | exact fun i => by simpa using i

theorem keep_preCount {z0 : State} (s : State) (p pos n : Nat) (h : Keeps z0 s) : Keeps z0 (preCount s p pos n) := by
  unfold preCount
  try dsimp -proj only
  repeat' first
    | with_reducible exact h
    | with_reducible apply keep_State_modEgr
    | (simp -proj only [keeps_mk]; with_reducible refine KeepsParts.of rfl ?_ ?_ ?_ ?_ ?_ ?_)
    | with_reducible exact fun i => i
    | with_reducible assumption
    | with_reducible exact fun _ i => i
    | exact fun i => by simpa using i

theorem keep_raiseClass {z0 : State} (s : State) (point tc ty sev : Nat) (mk : Nat → List Byte) (h : Keeps z0 s) : Keeps z0 (raiseClass s point tc ty sev mk) := by
  unfold raiseClass
  try dsimp -proj only
  repeat' first
    | with_reducible exact h
    | with_reducible apply keep_raiseSampledKey
    | with_reducible assumption

theorem keep_queueDrop {z0 : State} (s : State) (f : Frame) (point tc pos cause : Nat) (h : Keeps z0 s) : Keeps z0 (queueDrop s f point tc pos cause) := by
  unfold queueDrop
  try dsimp -proj only
  repeat' first
    | with_reducible exact h
    | with_reducible apply keep_raiseClass
    | with_reducible apply keep_egrCount
    | with_reducible assumption

theorem keep_oversizeDrop {z0 : State} (s : State) (f : Frame) (p c len when_ : Nat) (g : Option Gcl) (h : Keeps z0 s) : Keeps z0 (oversizeDrop s f p c len when_ g) := by
  unfold oversizeDrop
  try dsimp -proj only
  repeat' first
    | with_reducible exact h
    | with_reducible apply keep_raiseClass
    | with_reducible apply keep_egrCount
    | with_reducible assumption

theorem keep_refuseCopy {z0 : State} (s : State) (t : Transit) (point c : Nat)  {zt : State} (h : Keeps z0 s) (e : refuseCopy s t point c = some zt) : Keeps z0 zt := by
  unfold refuseCopy at e
  try dsimp -proj only at e
  repeat' split at e
  all_goals first | injection e with e | skip
  all_goals first | cases e | skip
  all_goals repeat' first
    | with_reducible exact h
    | with_reducible apply Keeps.ite
    | with_reducible apply keep_portCount
    | with_reducible apply keep_queueDrop
    | with_reducible apply keep_oversizeDrop
    | with_reducible assumption
    | split

theorem keep_admitCopies {z0 : State} (t : Transit) (x1 : List Nat) (s : State) (x2 : List Copy) (h : Keeps z0 s) : Keeps z0 (admitCopies t x1 s x2).1 := by
  induction x1 generalizing s x2 with
  | nil => exact h
  | cons y ys ih =>
    unfold admitCopies
    try dsimp -proj only
    repeat' first
      | with_reducible exact h
      | with_reducible apply ih
      | (with_reducible refine Keeps.fst (by assumption) ?_; with_reducible apply ih)
      | (with_reducible refine keep_refuseCopy _ _ _ _ ?_ (by assumption))
      | (simp -proj only [keeps_mk]; with_reducible refine KeepsParts.of rfl ?_ ?_ ?_ ?_ ?_ ?_)
      | with_reducible exact fun i => i
      | with_reducible assumption
      | with_reducible exact fun _ i => i
      | split
      | exact fun i => by simpa using i

theorem keep_poolExhausted {z0 : State} (s : State) (k : Nat) (reserve : Bool) (h : Keeps z0 s) : Keeps z0 (poolExhausted s k reserve) := by
  unfold poolExhausted
  try dsimp -proj only
  repeat' first
    | with_reducible exact h
    | with_reducible apply Keeps.ite
    | with_reducible apply keep_State_modFab
    | with_reducible apply keep_raise
    | (simp -proj only [keeps_mk]; with_reducible refine KeepsParts.of rfl ?_ ?_ ?_ ?_ ?_ ?_)
    | with_reducible exact fun i => i
    | with_reducible assumption
    | with_reducible exact fun _ i => i
    | split
    | exact fun i => by simpa using i

theorem keep_takeBuffer {z0 : State} (s : State) (k want : Nat) (zenith : Bool) (h : Keeps z0 s) : Keeps z0 (takeBuffer s k want zenith) := by
  unfold takeBuffer
  try dsimp -proj only
  repeat' first
    | with_reducible exact h
    | with_reducible apply Keeps.ite
    | with_reducible apply keep_perfCount
    | with_reducible apply keep_State_modFab
    | with_reducible apply keep_poolExhausted
    | (simp -proj only [keeps_mk]; with_reducible refine KeepsParts.of rfl ?_ ?_ ?_ ?_ ?_ ?_)
    | with_reducible exact fun i => i
    | with_reducible assumption
    | with_reducible exact fun _ i => i
    | split
    | exact fun i => by simpa using i

theorem keep_queueCopies {z0 : State} (s : State) (id : Nat) (cs : List Copy) (h : Keeps z0 s) : Keeps z0 (queueCopies s id cs) := by
  unfold queueCopies
  try dsimp -proj only
  repeat' first
    | with_reducible exact h
    | with_reducible apply keep_State_modEgr
    | with_reducible apply keep_fabCount
    | (simp -proj only [keeps_mk]; with_reducible refine KeepsParts.of rfl ?_ ?_ ?_ ?_ ?_ ?_)
    | with_reducible exact fun i => i
    | with_reducible apply Keeps.foldl
    | (intro r x hr; try dsimp -proj only)
    | with_reducible assumption
    | with_reducible exact fun _ i => i
    | exact fun i => by simpa using i

theorem keep_storeFrame {z0 : State} (s : State) (id : Nat) (t : Transit) (cs : List Copy) (h : Keeps z0 s) : Keeps z0 (storeFrame s id t cs) := by
  unfold storeFrame
  try dsimp -proj only
  repeat' first
    | with_reducible exact h
    | with_reducible apply Keeps.ite
    | with_reducible apply keep_queueCopies
    | with_reducible apply keep_modTransit
    | with_reducible apply keep_dropTransit
    | with_reducible apply keep_fabCount
    | with_reducible apply keep_State_modFab
    | with_reducible apply keep_fabPeak
    | with_reducible apply keep_takeBuffer
    | (simp -proj only [keeps_mk]; with_reducible refine KeepsParts.of rfl ?_ ?_ ?_ ?_ ?_ ?_)
    | with_reducible exact fun i => i
    | with_reducible assumption
    | with_reducible exact fun _ i => i
    | split
    | exact fun i => by simpa using i

theorem keep_pointerError {z0 : State} (s : State) (k : Nat) (h : Keeps z0 s) : Keeps z0 (pointerError s k) := by
  unfold pointerError
  try dsimp -proj only
  repeat' first
    | with_reducible exact h
    | with_reducible apply keep_fabCount
    | with_reducible apply keep_State_modFab
    | with_reducible apply keep_raise
    | (simp -proj only [keeps_mk]; with_reducible refine KeepsParts.of rfl ?_ ?_ ?_ ?_ ?_ ?_)
    | with_reducible exact fun i => i
    | with_reducible assumption
    | with_reducible exact fun _ i => i
    | exact fun i => by simpa using i

theorem keep_eccCorrected {z0 : State} (s : State) (h : Keeps z0 s) : Keeps z0 (eccCorrected s) := by
  unfold eccCorrected
  try dsimp -proj only
  repeat' first
    | with_reducible exact h
    | with_reducible apply keep_fabCount
    | with_reducible apply keep_State_modFab
    | (simp -proj only [keeps_mk]; with_reducible refine KeepsParts.of rfl ?_ ?_ ?_ ?_ ?_ ?_)
    | with_reducible exact fun i => i
    | with_reducible assumption
    | with_reducible exact fun _ i => i
    | exact fun i => by simpa using i

theorem keep_execFirstCellAtOutput (output : Nat) (ecc : EccHit) (s : State) : Goes s (execFirstCellAtOutput output ecc s) := by
  have h := Keeps.refl s
  unfold execFirstCellAtOutput
  try dsimp -proj only
  repeat' first
    | with_reducible exact h
    | with_reducible apply Keeps.ite
    | with_reducible apply Goes.ite
    | with_reducible apply Goes.next
    | with_reducible apply keep_dropTransit
    | with_reducible apply keep_fabCount
    | (with_reducible refine Keeps.fst (by assumption) ?_; with_reducible apply keep_admitCopies)
    | with_reducible apply keep_admitCopies
    | with_reducible apply keep_eccCorrected
    | with_reducible apply keep_pointerError
    | with_reducible apply keep_storeFrame
    | (simp -proj only [keeps_mk]; with_reducible refine KeepsParts.of rfl ?_ ?_ ?_ ?_ ?_ ?_)
    | with_reducible exact fun i => i
    | with_reducible apply Keeps.foldl
    | (intro r x hr; try dsimp -proj only)
    | (intro r hr; try dsimp -proj only)
    | with_reducible assumption
    | with_reducible exact fun _ i => i
    | split
    | exact fun i => by simpa using i

theorem keep_tokCharge {z0 : State} (s : State) (p c len : Nat) (fragment : Bool) (h : Keeps z0 s) : Keeps z0 (tokCharge s p c len fragment) := by
  unfold tokCharge
  try dsimp -proj only
  repeat' first
    | with_reducible exact h
    | with_reducible apply Keeps.ite
    | with_reducible apply keep_State_modEgr
    | (simp -proj only [keeps_mk]; with_reducible refine KeepsParts.of rfl ?_ ?_ ?_ ?_ ?_ ?_)
    | with_reducible exact fun i => i
    | with_reducible assumption
    | with_reducible exact fun _ i => i
    | split
    | exact fun i => by simpa using i

theorem keep_settleWith {z0 : State} (was s : State) (p : Nat) (h : Keeps z0 s) : Keeps z0 (settleWith was s p) := by
  unfold settleWith
  try dsimp -proj only
  repeat' first
    | with_reducible exact h
    | with_reducible apply Keeps.ite
    | with_reducible apply keep_State_modEgr
    | (simp -proj only [keeps_mk]; with_reducible refine KeepsParts.of rfl ?_ ?_ ?_ ?_ ?_ ?_)
    | with_reducible exact fun i => i
    | with_reducible assumption
    | with_reducible exact fun _ i => i
    | split
    | exact fun i => by simpa using i

theorem keep_settleCredits {z0 : State} (s : State) (p : Nat) (h : Keeps z0 s) : Keeps z0 (settleCredits s p) := by
  unfold settleCredits
  try dsimp -proj only
  repeat' first
    | with_reducible exact h
    | with_reducible apply keep_settleWith
    | with_reducible assumption

theorem keep_countMiss {z0 : State} (s : State) (p c : Nat) (h : Keeps z0 s) : Keeps z0 (countMiss s p c) := by
  unfold countMiss
  try dsimp -proj only
  repeat' first
    | with_reducible exact h
    | with_reducible apply Keeps.ite
    | with_reducible apply keep_modTransit
    | with_reducible apply keep_raiseClass
    | with_reducible apply keep_perfCount
    | with_reducible apply keep_egrCount
    | (simp -proj only [keeps_mk]; with_reducible refine KeepsParts.of rfl ?_ ?_ ?_ ?_ ?_ ?_)
    | with_reducible exact fun i => i
    | with_reducible assumption
    | with_reducible exact fun _ i => i
    | split
    | exact fun i => by simpa using i

theorem keep_startCopy {z0 : State} (protect : State → Nat → Transit → State × Bool) (s : State) (p c : Nat) (hp : ∀ r a b, Keeps z0 r → Keeps z0 (protect r a b).1) (h : Keeps z0 s) : Keeps z0 (startCopy protect s p c) := by
  unfold startCopy
  try dsimp -proj only
  repeat' first
    | with_reducible exact h
    | with_reducible apply Keeps.ite
    | with_reducible exact hp
    | with_reducible apply hp
    | (with_reducible refine Keeps.fst (by assumption) ?_; with_reducible apply hp)
    | (intro r a b hr)
    | with_reducible apply keep_finishCopy
    | with_reducible apply keep_modTransit
    | with_reducible apply keep_State_modEgr
    | with_reducible apply keep_perfCount
    | with_reducible apply keep_tokCharge
    | with_reducible apply keep_modPort
    | with_reducible apply keep_countedOut
    | with_reducible apply keep_fabCount
    | (simp -proj only [keeps_mk]; with_reducible refine KeepsParts.of rfl ?_ ?_ ?_ ?_ ?_ ?_)
    | with_reducible exact fun i => i
    | with_reducible assumption
    | with_reducible exact fun _ i => i
    | split
    | exact fun i => by simpa using i

theorem keep_resumeHeld {z0 : State} (s : State) (p : Nat) (x : Sending) (h : Keeps z0 s) : Keeps z0 (resumeHeld s p x) := by
  unfold resumeHeld
  try dsimp -proj only
  repeat' first
    | with_reducible exact h
    | with_reducible apply keep_preCount
    | with_reducible apply keep_tokCharge
    | with_reducible apply keep_State_modEgr
    | (simp -proj only [keeps_mk]; with_reducible refine KeepsParts.of rfl ?_ ?_ ?_ ?_ ?_ ?_)
    | with_reducible exact fun i => i
    | with_reducible assumption
    | with_reducible exact fun _ i => i
    | exact fun i => by simpa using i

theorem keep_preemptCopy {z0 : State} (s : State) (p : Nat) (x : Sending) (h : Keeps z0 s) : Keeps z0 (preemptCopy s p x) := by
  unfold preemptCopy
  try dsimp -proj only
  repeat' first
    | with_reducible exact h
    | with_reducible apply keep_perfCount
    | with_reducible apply keep_State_modEgr
    | (simp -proj only [keeps_mk]; with_reducible refine KeepsParts.of rfl ?_ ?_ ?_ ?_ ?_ ?_)
    | with_reducible exact fun i => i
    | with_reducible assumption
    | with_reducible exact fun _ i => i
    | exact fun i => by simpa using i

theorem keep_eccAtSend {z0 : State} (s : State) (id : Nat) (hit : EccHit) (h : Keeps z0 s) : Keeps z0 (eccAtSend s id hit) := by
  unfold eccAtSend
  try dsimp -proj only
  repeat' first
    | with_reducible exact h
    | with_reducible apply keep_raise
    | with_reducible apply keep_State_modFab
    | with_reducible apply keep_eccCorrected
    | with_reducible apply keep_makeBad
    | with_reducible apply keep_fabCount
    | with_reducible apply keep_discardUnstarted
    | with_reducible apply keep_modTransit
    | (simp -proj only [keeps_mk]; with_reducible refine KeepsParts.of rfl ?_ ?_ ?_ ?_ ?_ ?_)
    | with_reducible exact fun i => i
    | with_reducible assumption
    | with_reducible exact fun _ i => i
    | split
    | exact fun i => by simpa using i

theorem keep_transmitAt {z0 : State} (protect : State → Nat → Transit → State × Bool) (s : State) (p : Nat) (hp : ∀ r a b, Keeps z0 r → Keeps z0 (protect r a b).1) (h : Keeps z0 s) : Keeps z0 (transmitAt protect s p) := by
  unfold transmitAt
  try dsimp -proj only
  repeat' first
    | with_reducible exact h
    | with_reducible apply Keeps.ite
    | with_reducible exact hp
    | with_reducible apply hp
    | (with_reducible refine Keeps.fst (by assumption) ?_; with_reducible apply hp)
    | (intro r a b hr)
    | with_reducible apply keep_settleCredits
    | with_reducible apply keep_startCopy
    | with_reducible apply keep_preemptCopy
    | with_reducible apply keep_countMiss
    | with_reducible apply keep_resumeHeld
    | (simp -proj only [keeps_mk]; with_reducible refine KeepsParts.of rfl ?_ ?_ ?_ ?_ ?_ ?_)
    | with_reducible exact fun i => i
    | with_reducible apply Keeps.foldl
    | (intro r x hr; try dsimp -proj only)
    | with_reducible assumption
    | with_reducible exact fun _ i => i
    | split
    | exact fun i => by simpa using i

theorem keep_quotaDrop {z0 : State} (s : State) (k : Nat) (reason : Nat) (h : Keeps z0 s) : Keeps z0 (quotaDrop s k reason) := by
  unfold quotaDrop
  try dsimp -proj only
  repeat' first
    | with_reducible exact h
    | with_reducible apply Keeps.ite
    | with_reducible apply keep_raise
    | with_reducible apply Keeps.modRing
    | (simp -proj only [keeps_mk]; with_reducible refine KeepsParts.of rfl ?_ ?_ ?_ ?_ ?_ ?_)
    | with_reducible exact fun i => i
    | with_reducible assumption
    | with_reducible exact fun _ i => i
    | split
    | exact fun i => by simpa using i

theorem keep_fp12Drop {z0 : State} (s : State) (h : Keeps z0 s) : Keeps z0 (fp12Drop s) := by
  unfold fp12Drop
  try dsimp -proj only
  repeat' first
    | with_reducible exact h
    | with_reducible apply Keeps.ite
    | with_reducible apply Keeps.modHost
    | (simp -proj only [keeps_mk]; with_reducible refine KeepsParts.of rfl ?_ ?_ ?_ ?_ ?_ ?_)
    | with_reducible exact fun i => i
    | with_reducible exact fun i => InvHost.mk i.1 i.2 i.3
    | with_reducible apply Keeps.foldl
    | (intro r x hr; try dsimp -proj only)
    | with_reducible assumption
    | with_reducible exact fun _ i => i
    | split
    | exact fun i => keepHost i (by simp [i.1]) (by simp [i.2]) (by simp [i.3])
    | exact fun i => by simpa using i

theorem keep_steerCopy {z0 : State} (s : State) (c : Nat) (h : Keeps z0 s) : Keeps z0 (steerCopy s c) := by
  unfold steerCopy
  try dsimp -proj only
  repeat' first
    | with_reducible exact h
    | with_reducible apply Keeps.ite
    | with_reducible apply keep_finishCopy
    | with_reducible apply keep_fp12Drop
    | with_reducible apply keep_quotaDrop
    | with_reducible apply keep_tokCharge
    | with_reducible apply keep_State_modEgr
    | with_reducible apply Keeps.modRing
    | (simp -proj only [keeps_mk]; with_reducible refine KeepsParts.of rfl ?_ ?_ ?_ ?_ ?_ ?_)
    | with_reducible exact fun i => i
    | with_reducible assumption
    | with_reducible exact fun _ i => i
    | split
    | exact fun i => by simpa using i

theorem keep_deliverInternal {z0 : State} (s : State) (p : Nat) {zi : Nat} {zk : Transit} {zt : State} (h : Keeps z0 s) (e : deliverInternal s p = some (zi, zk, zt)) : Keeps z0 zt := by
  unfold deliverInternal at e
  try dsimp -proj only at e
  repeat' split at e
  all_goals first | injection e with e | skip
  all_goals first | cases e | skip
  all_goals repeat' first
    | with_reducible exact h
    | with_reducible apply keep_egrCount
    | with_reducible apply keep_perfCount
    | with_reducible apply keep_finishCopy
    | (simp -proj only [keeps_mk]; with_reducible refine KeepsParts.of rfl ?_ ?_ ?_ ?_ ?_ ?_)
    | with_reducible exact fun i => i
    | with_reducible assumption
    | with_reducible exact fun _ i => i
    | split
    | exact fun i => by simpa using i

theorem keep_transmitOpp {z0 : State} (protect : State → Nat → Transit → State × Bool) (s : State) (p : Nat) (hit : EccHit) (hp : ∀ r a b, Keeps z0 r → Keeps z0 (protect r a b).1) (h : Keeps z0 s) : Keeps z0 (transmitOpp protect s p hit) := by
  unfold transmitOpp
  try dsimp -proj only
  repeat' first
    | with_reducible exact h
    | with_reducible apply Keeps.ite
    | with_reducible exact hp
    | with_reducible apply hp
    | (with_reducible refine Keeps.fst (by assumption) ?_; with_reducible apply hp)
    | (intro r a b hr)
    | with_reducible apply keep_transmitAt
    | with_reducible apply keep_eccAtSend
    | with_reducible apply keep_settleCredits
    | with_reducible apply keep_steerCopy
    | (with_reducible refine keep_deliverInternal _ _ ?_ (by assumption))
    | (simp -proj only [keeps_mk]; with_reducible refine KeepsParts.of rfl ?_ ?_ ?_ ?_ ?_ ?_)
    | with_reducible exact fun i => i
    | with_reducible assumption
    | with_reducible exact fun _ i => i
    | split
    | exact fun i => by simpa using i

theorem keep_execCopyFinished (point : Nat) (s : State) : Goes s (execCopyFinished point s) := by
  have h := Keeps.refl s
  unfold execCopyFinished
  try dsimp -proj only
  repeat' first
    | with_reducible exact h
    | with_reducible apply Keeps.ite
    | with_reducible apply Goes.ite
    | with_reducible apply Goes.next
    | with_reducible apply keep_settleCredits
    | with_reducible apply keep_makeBad
    | with_reducible apply keep_State_modEgr
    | with_reducible apply keep_stomp
    | with_reducible apply keep_egrCount
    | with_reducible apply keep_bwCount
    | with_reducible apply keep_portCount
    | with_reducible apply keep_perfCount
    | with_reducible apply keep_finishCopy
    | (simp -proj only [keeps_mk]; with_reducible refine KeepsParts.of rfl ?_ ?_ ?_ ?_ ?_ ?_)
    | with_reducible exact fun i => i
    | (intro r hr; try dsimp -proj only)
    | with_reducible assumption
    | with_reducible exact fun _ i => i
    | split
    | exact fun i => by simpa using i

theorem keep_flushQueues {s0 : State} (s : State) (point mask : Nat) (ctr : State → State) (hc : ∀ r, Keeps s0 r → Keeps s0 (ctr r)) (h : Keeps s0 s) :
    Keeps s0 (flushQueues s point mask ctr).1 :=
  h.foldl fun r x hr => keep_finishCopy (ctr r) x point (hc r hr)
theorem keep_flushPort {z0 : State} (s : State) (p : Nat) (h : Keeps z0 s) : Keeps z0 (flushPort s p) := by
  unfold flushPort
  try dsimp -proj only
  repeat' first
    | with_reducible exact h
    | with_reducible apply keep_flushQueues
    | with_reducible apply keep_portCount
    | with_reducible apply keep_finishCopy
    | with_reducible apply keep_State_modEgr
    | (simp -proj only [keeps_mk]; with_reducible refine KeepsParts.of rfl ?_ ?_ ?_ ?_ ?_ ?_)
    | with_reducible exact fun i => i
    | with_reducible apply Keeps.foldl
    | (intro r x hr; try dsimp -proj only)
    | (intro r hr; try dsimp -proj only)
    | with_reducible assumption
    | with_reducible exact fun _ i => i
    | exact fun i => by simpa using i

end Sys2Proof.Machine
end

