-- ==== Sys2Proof/Laws/EgressCmds.lean ====
section
/-! SUPPORT. Laws of Machine/EgressCmds.lean: each operation keeps the queue of waiting commands and soundness; each meaning goes on. -/

namespace Sys2Proof.Machine

theorem keep_specFabricStatusGet : SpecKeeps specFabricStatusGet := by
  intro z0 s r p h
  unfold specFabricStatusGet
  try dsimp only
  repeat' first
    | with_reducible exact h
    | with_reducible apply Keeps.ite
    | with_reducible apply ResultKeeps.checked
    | with_reducible apply ResultKeeps.ite
    | with_reducible exact ResultKeeps.fail
    | with_reducible apply ResultKeeps.doneMk
    | with_reducible apply ResultKeeps.failWith
    | with_reducible apply ResultKeeps.retry
    | with_reducible apply ResultKeeps.wait
    | (intro r hr; try dsimp only [id])
    | with_reducible assumption
    | split

theorem keep_specFabricStartSet : SpecKeeps specFabricStartSet := by
  intro z0 s r p h
  unfold specFabricStartSet
  try dsimp only
  repeat' first
    | with_reducible exact h
    | with_reducible apply Keeps.ite
    | with_reducible apply ResultKeeps.checked
    | with_reducible apply ResultKeeps.ite
    | with_reducible exact ResultKeeps.fail
    | with_reducible apply ResultKeeps.doneMk
    | with_reducible apply ResultKeeps.failWith
    | with_reducible apply ResultKeeps.retry
    | with_reducible apply ResultKeeps.wait
    | with_reducible apply keep_State_modFab
    | (simp -proj only [keeps_mk]; with_reducible refine KeepsParts.of rfl ?_ ?_ ?_ ?_ ?_ ?_)
    | with_reducible exact fun i => i
    | (intro r hr; try dsimp only [id])
    | with_reducible assumption
    | with_reducible exact fun _ i => i
    | split
    | exact fun i => by simpa using i

theorem keep_specFabricModeSet : SpecKeeps specFabricModeSet := by
  intro z0 s r p h
  unfold specFabricModeSet
  try dsimp only
  repeat' first
    | with_reducible exact h
    | with_reducible apply ResultKeeps.checked
    | with_reducible apply ResultKeeps.ite
    | with_reducible exact ResultKeeps.fail
    | with_reducible apply ResultKeeps.doneMk
    | with_reducible apply ResultKeeps.failWith
    | with_reducible apply ResultKeeps.retry
    | with_reducible apply ResultKeeps.wait
    | with_reducible apply keep_setMode
    | with_reducible apply keep_State_modFab
    | (simp -proj only [keeps_mk]; with_reducible refine KeepsParts.of rfl ?_ ?_ ?_ ?_ ?_ ?_)
    | with_reducible exact fun i => i
    | (intro r hr; try dsimp only [id])
    | with_reducible assumption
    | with_reducible exact fun _ i => i
    | exact fun i => by simpa using i

theorem keep_entryWide {z0 : State} (off : Nat) (e : List Byte) (s : State) (h : Keeps z0 s) : EntryKeeps z0 (entryWide off e s) := by
  unfold entryWide
  try dsimp -proj only
  repeat' first
    | with_reducible exact h
    | with_reducible apply Keeps.ite
    | with_reducible apply EntryKeeps.entryOk
    | with_reducible apply EntryKeeps.ite
    | with_reducible exact EntryKeeps.error
    | with_reducible apply EntryKeeps.ok
    | with_reducible apply keep_State_modFab
    | (simp -proj only [keeps_mk]; with_reducible refine KeepsParts.of rfl ?_ ?_ ?_ ?_ ?_ ?_)
    | with_reducible exact fun i => i
    | with_reducible assumption
    | with_reducible exact fun _ i => i
    | split
    | exact fun i => by simpa using i

theorem keep_specWideStreamSet : SpecKeeps specWideStreamSet := by
  intro z0 s r p h
  unfold specWideStreamSet
  try dsimp only
  repeat' first
    | with_reducible exact h
    | with_reducible apply Keeps.ite
    | with_reducible apply ResultKeeps.checked
    | with_reducible apply ResultKeeps.ite
    | with_reducible exact ResultKeeps.fail
    | with_reducible apply ResultKeeps.doneMk
    | with_reducible apply ResultKeeps.failWith
    | with_reducible apply ResultKeeps.retry
    | with_reducible apply ResultKeeps.wait
    | exact keep_listBody (fun _ _ _ hs => by first | exact keep_entryWide _ _ _ hs) h
    | (with_reducible refine ResultKeeps.of_done (by assumption) ?_; exact keep_listBody (fun _ _ _ hs => by first | exact keep_entryWide _ _ _ hs) h)
    | (with_reducible refine ResultKeeps.of_after (by assumption) ?_ _ hr; exact keep_listBody (fun _ _ _ hs => by first | exact keep_entryWide _ _ _ hs) h)
    | with_reducible apply keep_entryWide
    | with_reducible apply keep_applyWide
    | (simp -proj only [keeps_mk]; with_reducible refine KeepsParts.of rfl ?_ ?_ ?_ ?_ ?_ ?_)
    | with_reducible exact fun i => i
    | with_reducible apply Keeps.foldl
    | (intro r x hr; try dsimp -proj only)
    | (intro r hr; try dsimp only [id])
    | with_reducible assumption
    | with_reducible exact fun _ i => i
    | split
    | exact fun i => by simpa using i

theorem keep_specCutThroughSet : SpecKeeps specCutThroughSet := by
  intro z0 s r p h
  unfold specCutThroughSet
  try dsimp only
  repeat' first
    | with_reducible exact h
    | with_reducible apply ResultKeeps.checked
    | with_reducible apply ResultKeeps.ite
    | with_reducible exact ResultKeeps.fail
    | with_reducible apply ResultKeeps.doneMk
    | with_reducible apply ResultKeeps.failWith
    | with_reducible apply ResultKeeps.retry
    | with_reducible apply ResultKeeps.wait
    | with_reducible apply keep_State_modFab
    | (simp -proj only [keeps_mk]; with_reducible refine KeepsParts.of rfl ?_ ?_ ?_ ?_ ?_ ?_)
    | with_reducible exact fun i => i
    | (intro r hr; try dsimp only [id])
    | with_reducible assumption
    | with_reducible exact fun _ i => i
    | exact fun i => by simpa using i

theorem keep_fabClear {z0 : State} (s : State) (t i : Nat) (h : Keeps z0 s) : Keeps z0 (fabClear s t i) := by
  unfold fabClear
  try dsimp -proj only
  repeat' first
    | with_reducible exact h
    | with_reducible apply Keeps.ite
    | with_reducible apply keep_State_modFab
    | (simp -proj only [keeps_mk]; with_reducible refine KeepsParts.of rfl ?_ ?_ ?_ ?_ ?_ ?_)
    | with_reducible exact fun i => i
    | with_reducible assumption
    | with_reducible exact fun _ i => i
    | split
    | exact fun i => by simpa using i

theorem keep_specFabricCountersGet : SpecKeeps specFabricCountersGet := by
  intro z0 s r p h
  unfold specFabricCountersGet
  try dsimp only
  repeat' first
    | with_reducible exact h
    | with_reducible apply Keeps.ite
    | with_reducible apply ResultKeeps.checked
    | with_reducible apply ResultKeeps.ite
    | with_reducible exact ResultKeeps.fail
    | with_reducible apply ResultKeeps.doneMk
    | with_reducible apply ResultKeeps.failWith
    | with_reducible apply ResultKeeps.retry
    | with_reducible apply ResultKeeps.wait
    | with_reducible apply keep_fabClear
    | (intro r hr; try dsimp only [id])
    | with_reducible assumption
    | split

theorem keep_specEpochSync : SpecKeeps specEpochSync := by
  intro z0 s r p h
  unfold specEpochSync
  try dsimp only
  repeat' first
    | with_reducible exact h
    | with_reducible apply Keeps.ite
    | with_reducible apply ResultKeeps.checked
    | with_reducible apply ResultKeeps.ite
    | with_reducible exact ResultKeeps.fail
    | with_reducible apply ResultKeeps.doneMk
    | with_reducible apply ResultKeeps.failWith
    | with_reducible apply ResultKeeps.retry
    | with_reducible apply ResultKeeps.wait
    | (intro r hr; try dsimp only [id])
    | with_reducible assumption
    | split

theorem keep_specQueueSet : SpecKeeps specQueueSet := by
  intro z0 s r p h
  unfold specQueueSet
  try dsimp only
  repeat' first
    | with_reducible exact h
    | with_reducible apply Keeps.ite
    | with_reducible apply ResultKeeps.checked
    | with_reducible apply ResultKeeps.ite
    | with_reducible exact ResultKeeps.fail
    | with_reducible apply ResultKeeps.doneMk
    | with_reducible apply ResultKeeps.failWith
    | with_reducible apply ResultKeeps.retry
    | with_reducible apply ResultKeeps.wait
    | with_reducible apply keep_zenithRecheck
    | with_reducible apply keep_State_modEgr
    | (simp -proj only [keeps_mk]; with_reducible refine KeepsParts.of rfl ?_ ?_ ?_ ?_ ?_ ?_)
    | with_reducible exact fun i => i
    | (intro r hr; try dsimp only [id])
    | with_reducible assumption
    | with_reducible exact fun _ i => i
    | split
    | exact fun i => by simpa using i

theorem keep_specShaperSet : SpecKeeps specShaperSet := by
  intro z0 s r p h
  unfold specShaperSet
  try dsimp only
  repeat' first
    | with_reducible exact h
    | with_reducible apply Keeps.ite
    | with_reducible apply ResultKeeps.checked
    | with_reducible apply ResultKeeps.ite
    | with_reducible exact ResultKeeps.fail
    | with_reducible apply ResultKeeps.doneMk
    | with_reducible apply ResultKeeps.failWith
    | with_reducible apply ResultKeeps.retry
    | with_reducible apply ResultKeeps.wait
    | with_reducible apply keep_State_modEgr
    | (simp -proj only [keeps_mk]; with_reducible refine KeepsParts.of rfl ?_ ?_ ?_ ?_ ?_ ?_)
    | with_reducible exact fun i => i
    | (intro r hr; try dsimp only [id])
    | with_reducible assumption
    | with_reducible exact fun _ i => i
    | split
    | exact fun i => by simpa using i

theorem keep_specCbsSet : SpecKeeps specCbsSet := by
  intro z0 s r p h
  unfold specCbsSet
  try dsimp only
  repeat' first
    | with_reducible exact h
    | with_reducible apply Keeps.ite
    | with_reducible apply ResultKeeps.checked
    | with_reducible apply ResultKeeps.ite
    | with_reducible exact ResultKeeps.fail
    | with_reducible apply ResultKeeps.doneMk
    | with_reducible apply ResultKeeps.failWith
    | with_reducible apply ResultKeeps.retry
    | with_reducible apply ResultKeeps.wait
    | with_reducible apply keep_State_idle
    | with_reducible apply keep_settleCredits
    | with_reducible apply keep_State_modEgr
    | (simp -proj only [keeps_mk]; with_reducible refine KeepsParts.of rfl ?_ ?_ ?_ ?_ ?_ ?_)
    | with_reducible exact fun i => i
    | (intro r hr; try dsimp only [id])
    | with_reducible assumption
    | with_reducible exact fun _ i => i
    | split
    | exact fun i => by simpa using i

theorem keep_modGcl {z0 : State} (s : State) (p : Nat) (f : GclPort → GclPort) (h : Keeps z0 s) : Keeps z0 (modGcl s p f) := by
  unfold modGcl
  try dsimp -proj only
  repeat' first
    | with_reducible exact h
    | with_reducible apply keep_State_modEgr
    | (simp -proj only [keeps_mk]; with_reducible refine KeepsParts.of rfl ?_ ?_ ?_ ?_ ?_ ?_)
    | with_reducible exact fun i => i
    | with_reducible assumption
    | with_reducible exact fun _ i => i
    | exact fun i => by simpa using i

theorem keep_modPre {z0 : State} (s : State) (p : Nat) (f : PreemptRun → PreemptRun) (h : Keeps z0 s) : Keeps z0 (modPre s p f) := by
  unfold modPre
  try dsimp -proj only
  repeat' first
    | with_reducible exact h
    | with_reducible apply keep_State_modEgr
    | (simp -proj only [keeps_mk]; with_reducible refine KeepsParts.of rfl ?_ ?_ ?_ ?_ ?_ ?_)
    | with_reducible exact fun i => i
    | with_reducible assumption
    | with_reducible exact fun _ i => i
    | exact fun i => by simpa using i

theorem keep_specGclSet : SpecKeeps specGclSet := by
  intro z0 s r p h
  unfold specGclSet
  try dsimp only
  repeat' first
    | with_reducible exact h
    | with_reducible apply Keeps.ite
    | with_reducible apply ResultKeeps.checked
    | with_reducible apply ResultKeeps.ite
    | with_reducible exact ResultKeeps.fail
    | with_reducible apply ResultKeeps.doneMk
    | with_reducible apply ResultKeeps.failWith
    | with_reducible apply ResultKeeps.retry
    | with_reducible apply ResultKeeps.wait
    | with_reducible apply keep_modGcl
    | with_reducible apply keep_raise
    | (simp -proj only [keeps_mk]; with_reducible refine KeepsParts.of rfl ?_ ?_ ?_ ?_ ?_ ?_)
    | with_reducible exact fun i => i
    | (intro r hr; try dsimp only [id])
    | with_reducible assumption
    | with_reducible exact fun _ i => i
    | split
    | exact fun i => by simpa using i

theorem keep_specGclGet : SpecKeeps specGclGet := by
  intro z0 s r p h
  unfold specGclGet
  try dsimp only
  repeat' first
    | with_reducible exact h
    | with_reducible apply Keeps.ite
    | with_reducible apply ResultKeeps.checked
    | with_reducible apply ResultKeeps.ite
    | with_reducible exact ResultKeeps.fail
    | with_reducible apply ResultKeeps.doneMk
    | with_reducible apply ResultKeeps.failWith
    | with_reducible apply ResultKeeps.retry
    | with_reducible apply ResultKeeps.wait
    | (intro r hr; try dsimp only [id])
    | with_reducible assumption
    | split

theorem keep_enterEntry {z0 : State} (s : State) (p : Nat) (e : Option GclEntry) (h : Keeps z0 s) : Keeps z0 (enterEntry s p e) := by
  unfold enterEntry
  try dsimp -proj only
  repeat' first
    | with_reducible exact h
    | with_reducible apply Keeps.ite
    | with_reducible apply keep_modPre
    | with_reducible apply keep_preCount
    | (simp -proj only [keeps_mk]; with_reducible refine KeepsParts.of rfl ?_ ?_ ?_ ?_ ?_ ?_)
    | with_reducible exact fun i => i
    | with_reducible assumption
    | with_reducible exact fun _ i => i
    | split
    | exact fun i => by simpa using i

theorem keep_rejudge {z0 : State} (s : State) (p c : Nat) (g : Option Gcl) (h : Keeps z0 s) : Keeps z0 (rejudge s p c g) := by
  unfold rejudge
  try dsimp -proj only
  repeat' first
    | with_reducible exact h
    | with_reducible apply Keeps.ite
    | with_reducible apply keep_finishCopy
    | with_reducible apply keep_oversizeDrop
    | (simp -proj only [keeps_mk]; with_reducible refine KeepsParts.of rfl ?_ ?_ ?_ ?_ ?_ ?_)
    | with_reducible exact fun i => i
    | with_reducible apply Keeps.foldl
    | (intro r x hr; try dsimp -proj only)
    | with_reducible assumption
    | with_reducible exact fun _ i => i
    | split
    | exact fun i => by simpa using i

theorem keep_gclSwitch {z0 : State} (s : State) (p : Nat) (h : Keeps z0 s) : Keeps z0 (gclSwitch s p) := by
  unfold gclSwitch
  try dsimp -proj only
  repeat' first
    | with_reducible exact h
    | with_reducible apply keep_modGcl
    | with_reducible apply keep_raise
    | with_reducible apply keep_enterEntry
    | with_reducible apply keep_rejudge
    | (simp -proj only [keeps_mk]; with_reducible refine KeepsParts.of rfl ?_ ?_ ?_ ?_ ?_ ?_)
    | with_reducible exact fun i => i
    | with_reducible apply Keeps.foldl
    | (intro r x hr; try dsimp -proj only)
    | with_reducible assumption
    | with_reducible exact fun _ i => i
    | split
    | exact fun i => by simpa using i

theorem keep_stepGcls {z0 : State} (s : State) (h : Keeps z0 s) : Keeps z0 (stepGcls s) := by
  unfold stepGcls
  try dsimp -proj only
  repeat' first
    | with_reducible exact h
    | with_reducible apply Keeps.ite
    | with_reducible apply keep_gclSwitch
    | (simp -proj only [keeps_mk]; with_reducible refine KeepsParts.of rfl ?_ ?_ ?_ ?_ ?_ ?_)
    | with_reducible exact fun i => i
    | with_reducible apply Keeps.foldl
    | (intro r x hr; try dsimp -proj only)
    | with_reducible assumption
    | with_reducible exact fun _ i => i
    | split
    | exact fun i => by simpa using i

theorem keep_execGclEntryBoundary (p : Nat) (s : State) : Goes s (execGclEntryBoundary p s) := by
  have h := Keeps.refl s
  unfold execGclEntryBoundary
  try dsimp -proj only
  repeat' first
    | with_reducible exact h
    | with_reducible apply Keeps.ite
    | with_reducible apply Goes.ite
    | with_reducible apply Goes.next
    | with_reducible apply keep_settleWith
    | with_reducible apply keep_State_until
    | with_reducible apply keep_enterEntry
    | (simp -proj only [keeps_mk]; with_reducible refine KeepsParts.of rfl ?_ ?_ ?_ ?_ ?_ ?_)
    | with_reducible exact fun i => i
    | (intro r hr; try dsimp -proj only)
    | with_reducible assumption
    | with_reducible exact fun _ i => i
    | split
    | exact fun i => by simpa using i

theorem keep_execGclChangeTime (p : Nat) (s : State) : Goes s (execGclChangeTime p s) := by
  have h := Keeps.refl s
  unfold execGclChangeTime
  try dsimp -proj only
  repeat' first
    | with_reducible exact h
    | with_reducible apply Goes.ite
    | with_reducible apply Goes.next
    | with_reducible apply keep_gclSwitch
    | with_reducible apply keep_settleWith
    | with_reducible apply keep_State_until
    | (simp -proj only [keeps_mk]; with_reducible refine KeepsParts.of rfl ?_ ?_ ?_ ?_ ?_ ?_)
    | with_reducible exact fun i => i
    | (intro r hr; try dsimp -proj only)
    | with_reducible assumption
    | with_reducible exact fun _ i => i
    | split
    | exact fun i => by simpa using i

theorem keep_raiseVerify {z0 : State} (s : State) (p status : Nat) (h : Keeps z0 s) : Keeps z0 (raiseVerify s p status) := by
  unfold raiseVerify
  try dsimp -proj only
  repeat' first
    | with_reducible exact h
    | with_reducible apply Keeps.ite
    | with_reducible apply keep_raise
    | with_reducible assumption
    | split

theorem keep_restartVerify {z0 : State} (s : State) (p : Nat) (h : Keeps z0 s) : Keeps z0 (restartVerify s p) := by
  unfold restartVerify
  try dsimp -proj only
  repeat' first
    | with_reducible exact h
    | with_reducible apply Keeps.ite
    | with_reducible apply keep_modPre
    | with_reducible apply keep_zenithRecheck
    | with_reducible apply keep_raiseVerify
    | (simp -proj only [keeps_mk]; with_reducible refine KeepsParts.of rfl ?_ ?_ ?_ ?_ ?_ ?_)
    | with_reducible exact fun i => i
    | with_reducible assumption
    | with_reducible exact fun _ i => i
    | split
    | exact fun i => by simpa using i

theorem keep_specPreemptSet : SpecKeeps specPreemptSet := by
  intro z0 s r p h
  unfold specPreemptSet
  try dsimp only
  repeat' first
    | with_reducible exact h
    | with_reducible apply Keeps.ite
    | with_reducible apply ResultKeeps.checked
    | with_reducible apply ResultKeeps.ite
    | with_reducible exact ResultKeeps.fail
    | with_reducible apply ResultKeeps.doneMk
    | with_reducible apply ResultKeeps.failWith
    | with_reducible apply ResultKeeps.retry
    | with_reducible apply ResultKeeps.wait
    | with_reducible apply keep_State_modEgr
    | with_reducible apply keep_restartVerify
    | with_reducible apply keep_zenithRecheck
    | (simp -proj only [keeps_mk]; with_reducible refine KeepsParts.of rfl ?_ ?_ ?_ ?_ ?_ ?_)
    | with_reducible exact fun i => i
    | (intro r hr; try dsimp only [id])
    | with_reducible assumption
    | with_reducible exact fun _ i => i
    | split
    | exact fun i => by simpa using i

theorem keep_execPreemptVerifyTimeout (p : Nat) (s : State) : Goes s (execPreemptVerifyTimeout p s) := by
  have h := Keeps.refl s
  unfold execPreemptVerifyTimeout
  try dsimp -proj only
  repeat' first
    | with_reducible exact h
    | with_reducible apply Keeps.ite
    | with_reducible apply Goes.ite
    | with_reducible apply Goes.next
    | with_reducible apply keep_State_later
    | with_reducible apply keep_modPre
    | with_reducible apply keep_raiseVerify
    | with_reducible apply keep_preCount
    | (simp -proj only [keeps_mk]; with_reducible refine KeepsParts.of rfl ?_ ?_ ?_ ?_ ?_ ?_)
    | with_reducible exact fun i => i
    | (intro r hr; try dsimp -proj only)
    | with_reducible assumption
    | with_reducible exact fun _ i => i
    | split
    | exact fun i => by simpa using i

theorem keep_execPreemptResponseRx (p addFrag : Nat) (s : State) : Goes s (execPreemptResponseRx p addFrag s) := by
  have h := Keeps.refl s
  unfold execPreemptResponseRx
  try dsimp -proj only
  repeat' first
    | with_reducible exact h
    | with_reducible apply Keeps.ite
    | with_reducible apply Goes.ite
    | with_reducible apply Goes.next
    | with_reducible apply keep_zenithRecheck
    | with_reducible apply keep_raiseVerify
    | with_reducible apply keep_modPre
    | (simp -proj only [keeps_mk]; with_reducible refine KeepsParts.of rfl ?_ ?_ ?_ ?_ ?_ ?_)
    | with_reducible exact fun i => i
    | (intro r hr; try dsimp -proj only)
    | with_reducible assumption
    | with_reducible exact fun _ i => i
    | split
    | exact fun i => by simpa using i

theorem keep_entryAdmit {z0 : State} (off : Nat) (e : List Byte) (s : State) (h : Keeps z0 s) : EntryKeeps z0 (entryAdmit off e s) := by
  unfold entryAdmit
  try dsimp -proj only
  repeat' first
    | with_reducible exact h
    | with_reducible apply Keeps.ite
    | with_reducible apply EntryKeeps.entryOk
    | with_reducible apply EntryKeeps.ite
    | with_reducible exact EntryKeeps.error
    | with_reducible apply EntryKeeps.ok
    | with_reducible apply keep_State_modEgr
    | (simp -proj only [keeps_mk]; with_reducible refine KeepsParts.of rfl ?_ ?_ ?_ ?_ ?_ ?_)
    | with_reducible exact fun i => i
    | with_reducible assumption
    | with_reducible exact fun _ i => i
    | split
    | exact fun i => by simpa using i

theorem keep_specZenithAdmitSet : SpecKeeps specZenithAdmitSet := by
  intro z0 s r p h
  unfold specZenithAdmitSet
  try dsimp only
  repeat' first
    | with_reducible exact h
    | with_reducible apply Keeps.ite
    | with_reducible apply ResultKeeps.checked
    | with_reducible apply ResultKeeps.ite
    | with_reducible exact ResultKeeps.fail
    | with_reducible apply ResultKeeps.doneMk
    | with_reducible apply ResultKeeps.failWith
    | with_reducible apply ResultKeeps.retry
    | with_reducible apply ResultKeeps.wait
    | exact keep_listBody (fun _ _ _ hs => by first | exact keep_entryAdmit _ _ _ hs) h
    | (with_reducible refine ResultKeeps.of_done (by assumption) ?_; exact keep_listBody (fun _ _ _ hs => by first | exact keep_entryAdmit _ _ _ hs) h)
    | (with_reducible refine ResultKeeps.of_after (by assumption) ?_ _ hr; exact keep_listBody (fun _ _ _ hs => by first | exact keep_entryAdmit _ _ _ hs) h)
    | with_reducible apply keep_entryAdmit
    | with_reducible apply keep_zenithRecheck
    | (simp -proj only [keeps_mk]; with_reducible refine KeepsParts.of rfl ?_ ?_ ?_ ?_ ?_ ?_)
    | with_reducible exact fun i => i
    | (intro r hr; try dsimp only [id])
    | with_reducible assumption
    | with_reducible exact fun _ i => i
    | split
    | exact fun i => by simpa using i

theorem keep_specZenithStatusGet : SpecKeeps specZenithStatusGet := by
  intro z0 s r p h
  unfold specZenithStatusGet
  try dsimp only
  repeat' first
    | with_reducible exact h
    | with_reducible apply Keeps.ite
    | with_reducible apply ResultKeeps.checked
    | with_reducible apply ResultKeeps.ite
    | with_reducible exact ResultKeeps.fail
    | with_reducible apply ResultKeeps.doneMk
    | with_reducible apply ResultKeeps.failWith
    | with_reducible apply ResultKeeps.retry
    | with_reducible apply ResultKeeps.wait
    | (simp -proj only [keeps_mk]; with_reducible refine KeepsParts.of rfl ?_ ?_ ?_ ?_ ?_ ?_)
    | with_reducible exact fun i => i
    | (intro r hr; try dsimp only [id])
    | with_reducible assumption
    | with_reducible exact fun _ i => i
    | split
    | exact fun i => by simpa using i

theorem keep_specQueueFlush : SpecKeeps specQueueFlush := by
  intro z0 s r p h
  unfold specQueueFlush
  try dsimp only
  repeat' first
    | with_reducible exact h
    | with_reducible apply ResultKeeps.checked
    | with_reducible apply ResultKeeps.ite
    | with_reducible exact ResultKeeps.fail
    | with_reducible apply ResultKeeps.doneMk
    | with_reducible apply ResultKeeps.failWith
    | with_reducible apply ResultKeeps.retry
    | with_reducible apply ResultKeeps.wait
    | with_reducible apply keep_flushQueues
    | with_reducible apply keep_settleCredits
    | with_reducible apply keep_fabCount
    | (intro r hr; try dsimp only [id])
    | (intro r hr; try dsimp -proj only)
    | with_reducible assumption

theorem keep_specEgressCountersGet : SpecKeeps specEgressCountersGet := by
  intro z0 s r p h
  unfold specEgressCountersGet
  try dsimp only
  repeat' first
    | with_reducible exact h
    | with_reducible apply Keeps.ite
    | with_reducible apply ResultKeeps.checked
    | with_reducible apply ResultKeeps.ite
    | with_reducible exact ResultKeeps.fail
    | with_reducible apply ResultKeeps.doneMk
    | with_reducible apply ResultKeeps.failWith
    | with_reducible apply ResultKeeps.retry
    | with_reducible apply ResultKeeps.wait
    | with_reducible apply keep_State_modEgr
    | with_reducible apply keep_modPre
    | (simp -proj only [keeps_mk]; with_reducible refine KeepsParts.of rfl ?_ ?_ ?_ ?_ ?_ ?_)
    | with_reducible exact fun i => i
    | (intro r hr; try dsimp only [id])
    | with_reducible assumption
    | with_reducible exact fun _ i => i
    | split
    | exact fun i => by simpa using i

theorem keep_execFabricStatusGet (r : Req) (s : State) : Goes s (execFabricStatusGet r s) := keep_command keep_specFabricStatusGet r s

theorem keep_execFabricStartSet (r : Req) (s : State) : Goes s (execFabricStartSet r s) := keep_command keep_specFabricStartSet r s

theorem keep_execFabricModeSet (r : Req) (s : State) : Goes s (execFabricModeSet r s) := keep_command keep_specFabricModeSet r s

theorem keep_execWideStreamSet (r : Req) (s : State) : Goes s (execWideStreamSet r s) := keep_command keep_specWideStreamSet r s

theorem keep_execCutThroughSet (r : Req) (s : State) : Goes s (execCutThroughSet r s) := keep_command keep_specCutThroughSet r s

theorem keep_execFabricCountersGet (r : Req) (s : State) : Goes s (execFabricCountersGet r s) := keep_command keep_specFabricCountersGet r s

theorem keep_execEpochSync (r : Req) (s : State) : Goes s (execEpochSync r s) := keep_command keep_specEpochSync r s

theorem keep_execQueueSet (r : Req) (s : State) : Goes s (execQueueSet r s) := keep_command keep_specQueueSet r s

theorem keep_execShaperSet (r : Req) (s : State) : Goes s (execShaperSet r s) := keep_command keep_specShaperSet r s

theorem keep_execCbsSet (r : Req) (s : State) : Goes s (execCbsSet r s) := keep_command keep_specCbsSet r s

theorem keep_execGclSet (r : Req) (s : State) : Goes s (execGclSet r s) := keep_command keep_specGclSet r s

theorem keep_execGclGet (r : Req) (s : State) : Goes s (execGclGet r s) := keep_command keep_specGclGet r s

theorem keep_execPreemptSet (r : Req) (s : State) : Goes s (execPreemptSet r s) := keep_command keep_specPreemptSet r s

theorem keep_execZenithAdmitSet (r : Req) (s : State) : Goes s (execZenithAdmitSet r s) := keep_command keep_specZenithAdmitSet r s

theorem keep_execZenithStatusGet (r : Req) (s : State) : Goes s (execZenithStatusGet r s) := keep_command keep_specZenithStatusGet r s

theorem keep_execQueueFlush (r : Req) (s : State) : Goes s (execQueueFlush r s) := keep_command keep_specQueueFlush r s

theorem keep_execEgressCountersGet (r : Req) (s : State) : Goes s (execEgressCountersGet r s) := keep_command keep_specEgressCountersGet r s

end Sys2Proof.Machine
end

