-- ==== Sys2Proof/Laws/TimeRun.lean ====
section
/-! SUPPORT. Laws of Machine/TimeRun.lean: each operation keeps the queue of waiting commands and soundness; each meaning goes on. -/

namespace Sys2Proof.Machine

theorem keep_State_modTime {z0 : State} (s : State) (f : Time → Time) (h : Keeps z0 s) : Keeps z0 (State.modTime s f) := by
  unfold State.modTime
  try dsimp -proj only
  repeat' first
    | with_reducible exact h
    | (simp -proj only [keeps_mk]; with_reducible refine KeepsParts.of rfl ?_ ?_ ?_ ?_ ?_ ?_)
    | with_reducible exact fun i => i
    | with_reducible assumption
    | with_reducible exact fun _ i => i
    | exact fun i => by simpa using i

theorem keep_modGptp {z0 : State} (s : State) (i : Nat) (f : GptpRun → GptpRun) (h : Keeps z0 s) : Keeps z0 (modGptp s i f) := by
  unfold modGptp
  try dsimp -proj only
  repeat' first
    | with_reducible exact h
    | with_reducible apply keep_State_modTime
    | (simp -proj only [keeps_mk]; with_reducible refine KeepsParts.of rfl ?_ ?_ ?_ ?_ ?_ ?_)
    | with_reducible exact fun i => i
    | with_reducible assumption
    | with_reducible exact fun _ i => i
    | exact fun i => by simpa using i

theorem keep_modGptpPort {z0 : State} (s : State) (i p : Nat) (f : GptpPort → GptpPort) (h : Keeps z0 s) : Keeps z0 (modGptpPort s i p f) := by
  unfold modGptpPort
  try dsimp -proj only
  repeat' first
    | with_reducible exact h
    | with_reducible apply keep_modGptp
    | (simp -proj only [keeps_mk]; with_reducible refine KeepsParts.of rfl ?_ ?_ ?_ ?_ ?_ ?_)
    | with_reducible exact fun i => i
    | with_reducible assumption
    | with_reducible exact fun _ i => i
    | exact fun i => by simpa using i

theorem keep_gptpCount {z0 : State} (s : State) (i p pos : Nat) (h : Keeps z0 s) : Keeps z0 (gptpCount s i p pos) := by
  unfold gptpCount
  try dsimp -proj only
  repeat' first
    | with_reducible exact h
    | with_reducible apply keep_modGptpPort
    | (simp -proj only [keeps_mk]; with_reducible refine KeepsParts.of rfl ?_ ?_ ?_ ?_ ?_ ?_)
    | with_reducible exact fun i => i
    | with_reducible assumption
    | with_reducible exact fun _ i => i
    | exact fun i => by simpa using i

theorem keep_modLink {z0 : State} (s : State) (p : Nat) (f : LinkDelay → LinkDelay) (h : Keeps z0 s) : Keeps z0 (modLink s p f) := by
  unfold modLink
  try dsimp -proj only
  repeat' first
    | with_reducible exact h
    | with_reducible apply keep_State_modTime
    | (simp -proj only [keeps_mk]; with_reducible refine KeepsParts.of rfl ?_ ?_ ?_ ?_ ?_ ?_)
    | with_reducible exact fun i => i
    | with_reducible assumption
    | with_reducible exact fun _ i => i
    | exact fun i => by simpa using i

theorem keep_linkCount {z0 : State} (s : State) (p pos : Nat) (h : Keeps z0 s) : Keeps z0 (linkCount s p pos) := by
  unfold linkCount
  try dsimp -proj only
  repeat' first
    | with_reducible exact h
    | with_reducible apply keep_modLink
    | (simp -proj only [keeps_mk]; with_reducible refine KeepsParts.of rfl ?_ ?_ ?_ ?_ ?_ ?_)
    | with_reducible exact fun i => i
    | with_reducible assumption
    | with_reducible exact fun _ i => i
    | exact fun i => by simpa using i

theorem keep_setRate {z0 : State} (s : State) (r : Int) (h : Keeps z0 s) : Keeps z0 (setRate s r) := by
  unfold setRate
  try dsimp -proj only
  repeat' first
    | with_reducible exact h
    | with_reducible apply keep_State_modTime
    | (simp -proj only [keeps_mk]; with_reducible refine KeepsParts.of rfl ?_ ?_ ?_ ?_ ?_ ?_)
    | with_reducible exact fun i => i
    | with_reducible assumption
    | with_reducible exact fun _ i => i
    | exact fun i => by simpa using i

theorem keep_unsync {z0 : State} (s : State) (h : Keeps z0 s) : Keeps z0 (unsync s) := by
  unfold unsync
  try dsimp -proj only
  repeat' first
    | with_reducible exact h
    | with_reducible apply keep_raise
    | with_reducible apply keep_State_modTime
    | (simp -proj only [keeps_mk]; with_reducible refine KeepsParts.of rfl ?_ ?_ ?_ ?_ ?_ ?_)
    | with_reducible exact fun i => i
    | with_reducible assumption
    | with_reducible exact fun _ i => i
    | exact fun i => by simpa using i

theorem keep_checkUnsync {z0 : State} (s : State) (h : Keeps z0 s) : Keeps z0 (checkUnsync s) := by
  unfold checkUnsync
  try dsimp -proj only
  repeat' first
    | with_reducible exact h
    | with_reducible apply Keeps.ite
    | with_reducible apply keep_unsync
    | with_reducible assumption
    | split

theorem keep_growError {z0 : State} (s : State) (h : Keeps z0 s) : Keeps z0 (growError s) := by
  unfold growError
  try dsimp -proj only
  repeat' first
    | with_reducible exact h
    | with_reducible apply keep_State_modTime
    | (simp -proj only [keeps_mk]; with_reducible refine KeepsParts.of rfl ?_ ?_ ?_ ?_ ?_ ?_)
    | with_reducible exact fun i => i
    | with_reducible assumption
    | with_reducible exact fun _ i => i
    | exact fun i => by simpa using i

theorem keep_raiseHoldover {z0 : State} (s : State) (left : Bool) (cause err : Nat) (h : Keeps z0 s) : Keeps z0 (raiseHoldover s left cause err) := by
  unfold raiseHoldover
  try dsimp -proj only
  repeat' first
    | with_reducible exact h
    | with_reducible apply Keeps.ite
    | with_reducible apply keep_raise
    | with_reducible assumption
    | split

theorem keep_enterHoldover {z0 : State} (s : State) (cause : Nat) (h : Keeps z0 s) : Keeps z0 (enterHoldover s cause) := by
  unfold enterHoldover
  try dsimp -proj only
  repeat' first
    | with_reducible exact h
    | with_reducible apply Keeps.ite
    | with_reducible apply keep_growError
    | with_reducible apply keep_State_modTime
    | with_reducible apply keep_checkUnsync
    | with_reducible apply keep_raiseHoldover
    | (simp -proj only [keeps_mk]; with_reducible refine KeepsParts.of rfl ?_ ?_ ?_ ?_ ?_ ?_)
    | with_reducible exact fun i => i
    | with_reducible assumption
    | with_reducible exact fun _ i => i
    | split
    | exact fun i => by simpa using i

theorem keep_stepTime {z0 : State} (s : State) (fine cause inst : Nat) (h : Keeps z0 s) : Keeps z0 (stepTime s fine cause inst) := by
  unfold stepTime
  try dsimp -proj only
  repeat' first
    | with_reducible exact h
    | with_reducible apply keep_settleCredits
    | with_reducible apply keep_State_modTime
    | with_reducible apply keep_stepGcls
    | with_reducible apply keep_stepGates
    | with_reducible apply keep_raise
    | (simp -proj only [keeps_mk]; with_reducible refine KeepsParts.of rfl ?_ ?_ ?_ ?_ ?_ ?_)
    | with_reducible exact fun i => i
    | with_reducible apply Keeps.foldl
    | (intro r x hr; try dsimp -proj only)
    | with_reducible assumption
    | with_reducible exact fun _ i => i
    | exact fun i => by simpa using i

theorem keep_raiseGm {z0 : State} (s : State) (i kind id : Nat) (off : Int) (h : Keeps z0 s) : Keeps z0 (raiseGm s i kind id off) := by
  unfold raiseGm
  try dsimp -proj only
  repeat' first
    | with_reducible exact h
    | with_reducible apply keep_raise
    | with_reducible assumption

theorem keep_startSelfRef {z0 : State} (s : State) (h : Keeps z0 s) : Keeps z0 (startSelfRef s) := by
  unfold startSelfRef
  try dsimp -proj only
  repeat' first
    | with_reducible exact h
    | with_reducible apply keep_State_modTime
    | (simp -proj only [keeps_mk]; with_reducible refine KeepsParts.of rfl ?_ ?_ ?_ ?_ ?_ ?_)
    | with_reducible exact fun i => i
    | with_reducible assumption
    | with_reducible exact fun _ i => i
    | exact fun i => by simpa using i

theorem keep_switchTo {z0 : State} (s : State) (i : Nat) (away : Bool) (h : Keeps z0 s) : Keeps z0 (switchTo s i away) := by
  unfold switchTo
  try dsimp -proj only
  repeat' first
    | with_reducible exact h
    | with_reducible apply Keeps.ite
    | with_reducible apply keep_raiseGm
    | with_reducible apply keep_State_modTime
    | with_reducible apply keep_startSelfRef
    | (simp -proj only [keeps_mk]; with_reducible refine KeepsParts.of rfl ?_ ?_ ?_ ?_ ?_ ?_)
    | with_reducible exact fun i => i
    | with_reducible assumption
    | with_reducible exact fun _ i => i
    | split
    | exact fun i => by simpa using i

theorem keep_resteer {z0 : State} (s : State) (cause : Nat) (h : Keeps z0 s) : Keeps z0 (resteer s cause) := by
  unfold resteer
  try dsimp -proj only
  repeat' first
    | with_reducible exact h
    | with_reducible apply Keeps.ite
    | with_reducible apply keep_switchTo
    | with_reducible apply keep_State_modTime
    | with_reducible apply keep_enterHoldover
    | (simp -proj only [keeps_mk]; with_reducible refine KeepsParts.of rfl ?_ ?_ ?_ ?_ ?_ ?_)
    | with_reducible exact fun i => i
    | with_reducible assumption
    | with_reducible exact fun _ i => i
    | split
    | exact fun i => by simpa using i

theorem keep_timeLink {z0 : State} (s : State) (p : Nat) (h : Keeps z0 s) : Keeps z0 (timeLink s p) := by
  unfold timeLink
  try dsimp -proj only
  repeat' first
    | with_reducible exact h
    | with_reducible apply Keeps.ite
    | with_reducible apply keep_modLink
    | with_reducible apply keep_resteer
    | with_reducible apply keep_modGptp
    | (simp -proj only [keeps_mk]; with_reducible refine KeepsParts.of rfl ?_ ?_ ?_ ?_ ?_ ?_)
    | with_reducible exact fun i => i
    | with_reducible apply Keeps.foldl
    | (intro r x hr; try dsimp -proj only)
    | with_reducible assumption
    | with_reducible exact fun _ i => i
    | split
    | exact fun i => by simpa using i

theorem keep_runBmca {z0 : State} (s : State) (i : Nat) (h : Keeps z0 s) : Keeps z0 (runBmca s i) := by
  unfold runBmca
  try dsimp -proj only
  repeat' first
    | with_reducible exact h
    | with_reducible apply Keeps.ite
    | with_reducible apply keep_modGptp
    | with_reducible apply keep_raiseGm
    | with_reducible apply keep_startSelfRef
    | with_reducible apply keep_enterHoldover
    | with_reducible apply keep_resteer
    | (simp -proj only [keeps_mk]; with_reducible refine KeepsParts.of rfl ?_ ?_ ?_ ?_ ?_ ?_)
    | with_reducible exact fun i => i
    | with_reducible assumption
    | with_reducible exact fun _ i => i
    | split
    | exact fun i => by simpa using i

theorem keep_servoUpdate {z0 : State} (s : State) (ratio off : Int) (h : Keeps z0 s) : Keeps z0 (servoUpdate s ratio off) := by
  unfold servoUpdate
  try dsimp -proj only
  repeat' first
    | with_reducible exact h
    | with_reducible apply Keeps.ite
    | with_reducible apply keep_setRate
    | with_reducible apply keep_State_modTime
    | (simp -proj only [keeps_mk]; with_reducible refine KeepsParts.of rfl ?_ ?_ ?_ ?_ ?_ ?_)
    | with_reducible exact fun i => i
    | with_reducible assumption
    | with_reducible exact fun _ i => i
    | split
    | exact fun i => by simpa using i

theorem keep_steer {z0 : State} (s : State) (i : Nat) (gmTime : Nat) (ratio off : Int) (valid : Bool) (h : Keeps z0 s) : Keeps z0 (steer s i gmTime ratio off valid) := by
  unfold steer
  try dsimp -proj only
  repeat' first
    | with_reducible exact h
    | with_reducible apply Keeps.ite
    | with_reducible apply keep_servoUpdate
    | with_reducible apply keep_raiseHoldover
    | with_reducible apply keep_State_modTime
    | with_reducible apply keep_setRate
    | with_reducible apply keep_stepTime
    | (simp -proj only [keeps_mk]; with_reducible refine KeepsParts.of rfl ?_ ?_ ?_ ?_ ?_ ?_)
    | with_reducible exact fun i => i
    | with_reducible assumption
    | with_reducible exact fun _ i => i
    | split
    | exact fun i => by simpa using i

theorem keep_execGptpSyncRx (i p : Nat) (malformed oneStep : Bool) (gmTime : Nat) (ratio : Int) (s : State) : Goes s (execGptpSyncRx i p malformed oneStep gmTime ratio s) := by
  have h := Keeps.refl s
  unfold execGptpSyncRx
  try dsimp -proj only
  repeat' first
    | with_reducible exact h
    | with_reducible apply Keeps.ite
    | with_reducible apply Goes.ite
    | with_reducible apply Goes.next
    | with_reducible apply keep_gptpCount
    | with_reducible apply keep_modGptpPort
    | with_reducible apply keep_modLink
    | with_reducible apply keep_resteer
    | with_reducible apply keep_modGptp
    | with_reducible apply keep_raiseGm
    | with_reducible apply keep_steer
    | (simp -proj only [keeps_mk]; with_reducible refine KeepsParts.of rfl ?_ ?_ ?_ ?_ ?_ ?_)
    | with_reducible exact fun i => i
    | (intro r hr; try dsimp -proj only)
    | with_reducible assumption
    | with_reducible exact fun _ i => i
    | split
    | exact fun i => by simpa using i

theorem keep_execGptpAnnounceRx (i p : Nat) (malformed : Bool) (ann : Announce) (s : State) : Goes s (execGptpAnnounceRx i p malformed ann s) := by
  have h := Keeps.refl s
  unfold execGptpAnnounceRx
  try dsimp -proj only
  repeat' first
    | with_reducible exact h
    | with_reducible apply Keeps.ite
    | with_reducible apply Goes.ite
    | with_reducible apply Goes.next
    | with_reducible apply keep_gptpCount
    | with_reducible apply keep_runBmca
    | with_reducible apply keep_modGptpPort
    | (simp -proj only [keeps_mk]; with_reducible refine KeepsParts.of rfl ?_ ?_ ?_ ?_ ?_ ?_)
    | with_reducible exact fun i => i
    | (intro r hr; try dsimp -proj only)
    | with_reducible assumption
    | with_reducible exact fun _ i => i
    | split
    | exact fun i => by simpa using i

theorem keep_execGptpPdelayRx (p : Nat) (malformed : Bool) (delayPs : Nat) (nrr : Int) (s : State) : Goes s (execGptpPdelayRx p malformed delayPs nrr s) := by
  have h := Keeps.refl s
  unfold execGptpPdelayRx
  try dsimp -proj only
  repeat' first
    | with_reducible exact h
    | with_reducible apply Keeps.ite
    | with_reducible apply Goes.ite
    | with_reducible apply Goes.next
    | with_reducible apply keep_gptpCount
    | with_reducible apply keep_resteer
    | with_reducible apply keep_modLink
    | with_reducible apply keep_linkCount
    | (simp -proj only [keeps_mk]; with_reducible refine KeepsParts.of rfl ?_ ?_ ?_ ?_ ?_ ?_)
    | with_reducible exact fun i => i
    | with_reducible apply Keeps.foldl
    | (intro r x hr; try dsimp -proj only)
    | (intro r hr; try dsimp -proj only)
    | with_reducible assumption
    | with_reducible exact fun _ i => i
    | split
    | exact fun i => by simpa using i

theorem keep_execSyncReceiptTimeout (i : Nat) (s : State) : Goes s (execSyncReceiptTimeout i s) := by
  have h := Keeps.refl s
  unfold execSyncReceiptTimeout
  try dsimp -proj only
  repeat' first
    | with_reducible exact h
    | with_reducible apply Keeps.ite
    | with_reducible apply Goes.ite
    | with_reducible apply Goes.next
    | with_reducible apply keep_resteer
    | with_reducible apply keep_modGptp
    | with_reducible apply keep_modGptpPort
    | with_reducible apply keep_gptpCount
    | (simp -proj only [keeps_mk]; with_reducible refine KeepsParts.of rfl ?_ ?_ ?_ ?_ ?_ ?_)
    | with_reducible exact fun i => i
    | (intro r hr; try dsimp -proj only)
    | with_reducible assumption
    | with_reducible exact fun _ i => i
    | split
    | exact fun i => by simpa using i

theorem keep_execAnnounceReceiptTimeout (i p : Nat) (s : State) : Goes s (execAnnounceReceiptTimeout i p s) := by
  have h := Keeps.refl s
  unfold execAnnounceReceiptTimeout
  try dsimp -proj only
  repeat' first
    | with_reducible exact h
    | with_reducible apply Keeps.ite
    | with_reducible apply Goes.ite
    | with_reducible apply Goes.next
    | with_reducible apply keep_runBmca
    | with_reducible apply keep_modGptpPort
    | with_reducible apply keep_gptpCount
    | (simp -proj only [keeps_mk]; with_reducible refine KeepsParts.of rfl ?_ ?_ ?_ ?_ ?_ ?_)
    | with_reducible exact fun i => i
    | (intro r hr; try dsimp -proj only)
    | with_reducible assumption
    | with_reducible exact fun _ i => i
    | split
    | exact fun i => by simpa using i

theorem keep_execSteeringUpdateTimeout (s : State) : Goes s (execSteeringUpdateTimeout s) := by
  have h := Keeps.refl s
  unfold execSteeringUpdateTimeout
  try dsimp -proj only
  repeat' first
    | with_reducible exact h
    | with_reducible apply Keeps.ite
    | with_reducible apply Goes.ite
    | with_reducible apply Goes.next
    | with_reducible apply keep_enterHoldover
    | with_reducible apply keep_State_later
    | (intro r hr; try dsimp -proj only)
    | with_reducible assumption
    | split

theorem keep_execHoldoverEvaluation (s : State) : Goes s (execHoldoverEvaluation s) := by
  have h := Keeps.refl s
  unfold execHoldoverEvaluation
  try dsimp -proj only
  repeat' first
    | with_reducible exact h
    | with_reducible apply Keeps.ite
    | with_reducible apply Goes.ite
    | with_reducible apply Goes.next
    | with_reducible apply keep_checkUnsync
    | with_reducible apply keep_growError
    | with_reducible apply keep_State_later
    | (intro r hr; try dsimp -proj only)
    | with_reducible assumption
    | split

theorem keep_execRevertTimer (s : State) : Goes s (execRevertTimer s) := by
  have h := Keeps.refl s
  unfold execRevertTimer
  try dsimp -proj only
  repeat' first
    | with_reducible exact h
    | with_reducible apply Keeps.ite
    | with_reducible apply Goes.ite
    | with_reducible apply Goes.next
    | with_reducible apply keep_switchTo
    | with_reducible apply keep_State_later
    | (simp -proj only [keeps_mk]; with_reducible refine KeepsParts.of rfl ?_ ?_ ?_ ?_ ?_ ?_)
    | with_reducible exact fun i => i
    | (intro r hr; try dsimp -proj only)
    | with_reducible assumption
    | with_reducible exact fun _ i => i
    | split
    | exact fun i => by simpa using i

theorem keep_execSyncInterval (i : Nat) (s : State) : Goes s (execSyncInterval i s) := by
  have h := Keeps.refl s
  unfold execSyncInterval
  try dsimp -proj only
  repeat' first
    | with_reducible exact h
    | with_reducible apply Keeps.ite
    | with_reducible apply Goes.ite
    | with_reducible apply Goes.next
    | with_reducible apply keep_gptpCount
    | with_reducible apply keep_State_modTime
    | (simp -proj only [keeps_mk]; with_reducible refine KeepsParts.of rfl ?_ ?_ ?_ ?_ ?_ ?_)
    | with_reducible exact fun i => i
    | with_reducible apply Keeps.foldl
    | (intro r x hr; try dsimp -proj only)
    | (intro r hr; try dsimp -proj only)
    | with_reducible assumption
    | with_reducible exact fun _ i => i
    | split
    | exact fun i => by simpa using i

theorem keep_execPdelayReqInterval (p : Nat) (s : State) : Goes s (execPdelayReqInterval p s) := by
  have h := Keeps.refl s
  unfold execPdelayReqInterval
  try dsimp -proj only
  repeat' first
    | with_reducible exact h
    | with_reducible apply Keeps.ite
    | with_reducible apply Goes.ite
    | with_reducible apply Goes.next
    | with_reducible apply keep_modLink
    | with_reducible apply keep_linkCount
    | with_reducible apply keep_resteer
    | (simp -proj only [keeps_mk]; with_reducible refine KeepsParts.of rfl ?_ ?_ ?_ ?_ ?_ ?_)
    | with_reducible exact fun i => i
    | (intro r hr; try dsimp -proj only)
    | with_reducible assumption
    | with_reducible exact fun _ i => i
    | split
    | exact fun i => by simpa using i

theorem keep_specTimeStatusGet : SpecKeeps specTimeStatusGet := by
  intro z0 s r p h
  unfold specTimeStatusGet
  try dsimp only
  repeat' first
    | with_reducible exact h
    | with_reducible apply Keeps.ite
    | with_reducible apply ResultKeeps.checked
    | with_reducible apply ResultKeeps.ite
    | with_reducible exact ResultKeeps.fail
    | with_reducible apply ResultKeeps.doneMk
    | with_reducible apply ResultKeeps.failWith
    | with_reducible apply ResultKeeps.retry
    | with_reducible apply ResultKeeps.wait
    | (simp -proj only [keeps_mk]; with_reducible refine KeepsParts.of rfl ?_ ?_ ?_ ?_ ?_ ?_)
    | with_reducible exact fun i => i
    | (intro r hr; try dsimp only [id])
    | with_reducible assumption
    | with_reducible exact fun _ i => i
    | split
    | exact fun i => by simpa using i

theorem keep_specTimeParamsSet : SpecKeeps specTimeParamsSet := by
  intro z0 s r p h
  unfold specTimeParamsSet
  try dsimp only
  repeat' first
    | with_reducible exact h
    | with_reducible apply Keeps.ite
    | with_reducible apply ResultKeeps.checked
    | with_reducible apply ResultKeeps.ite
    | with_reducible exact ResultKeeps.fail
    | with_reducible apply ResultKeeps.doneMk
    | with_reducible apply ResultKeeps.failWith
    | with_reducible apply ResultKeeps.retry
    | with_reducible apply ResultKeeps.wait
    | with_reducible apply keep_State_modTime
    | with_reducible apply keep_startSelfRef
    | with_reducible apply keep_enterHoldover
    | with_reducible apply keep_resteer
    | (simp -proj only [keeps_mk]; with_reducible refine KeepsParts.of rfl ?_ ?_ ?_ ?_ ?_ ?_)
    | with_reducible exact fun i => i
    | (intro r hr; try dsimp only [id])
    | with_reducible assumption
    | with_reducible exact fun _ i => i
    | split
    | exact fun i => by simpa using i

theorem keep_specGptpInstanceSet : SpecKeeps specGptpInstanceSet := by
  intro z0 s r p h
  unfold specGptpInstanceSet
  try dsimp only
  repeat' first
    | with_reducible exact h
    | with_reducible apply Keeps.ite
    | with_reducible apply ResultKeeps.checked
    | with_reducible apply ResultKeeps.ite
    | with_reducible exact ResultKeeps.fail
    | with_reducible apply ResultKeeps.doneMk
    | with_reducible apply ResultKeeps.failWith
    | with_reducible apply ResultKeeps.retry
    | with_reducible apply ResultKeeps.wait
    | with_reducible apply keep_State_modTime
    | with_reducible apply keep_runBmca
    | (simp -proj only [keeps_mk]; with_reducible refine KeepsParts.of rfl ?_ ?_ ?_ ?_ ?_ ?_)
    | with_reducible exact fun i => i
    | (intro r hr; try dsimp only [id])
    | with_reducible assumption
    | with_reducible exact fun _ i => i
    | split
    | exact fun i => by simpa using i

theorem keep_specTimeStep : SpecKeeps specTimeStep := by
  intro z0 s r p h
  unfold specTimeStep
  try dsimp only
  repeat' first
    | with_reducible exact h
    | with_reducible apply Keeps.ite
    | with_reducible apply ResultKeeps.checked
    | with_reducible apply ResultKeeps.ite
    | with_reducible exact ResultKeeps.fail
    | with_reducible apply ResultKeeps.doneMk
    | with_reducible apply ResultKeeps.failWith
    | with_reducible apply ResultKeeps.retry
    | with_reducible apply ResultKeeps.wait
    | with_reducible apply keep_raiseHoldover
    | with_reducible apply keep_stepTime
    | with_reducible apply keep_modGptp
    | with_reducible apply keep_State_modTime
    | (simp -proj only [keeps_mk]; with_reducible refine KeepsParts.of rfl ?_ ?_ ?_ ?_ ?_ ?_)
    | with_reducible exact fun i => i
    | (intro r hr; try dsimp only [id])
    | with_reducible assumption
    | with_reducible exact fun _ i => i
    | split
    | exact fun i => by simpa using i

theorem keep_specGptpPortGet : SpecKeeps specGptpPortGet := by
  intro z0 s r p h
  unfold specGptpPortGet
  try dsimp only
  repeat' first
    | with_reducible exact h
    | with_reducible apply Keeps.ite
    | with_reducible apply ResultKeeps.checked
    | with_reducible apply ResultKeeps.ite
    | with_reducible exact ResultKeeps.fail
    | with_reducible apply ResultKeeps.doneMk
    | with_reducible apply ResultKeeps.failWith
    | with_reducible apply ResultKeeps.retry
    | with_reducible apply ResultKeeps.wait
    | with_reducible apply keep_modLink
    | with_reducible apply keep_modGptpPort
    | (simp -proj only [keeps_mk]; with_reducible refine KeepsParts.of rfl ?_ ?_ ?_ ?_ ?_ ?_)
    | with_reducible exact fun i => i
    | (intro r hr; try dsimp only [id])
    | with_reducible assumption
    | with_reducible exact fun _ i => i
    | split
    | exact fun i => by simpa using i

theorem keep_carryTime {z0 : State} (s : State) (n : Nat) (h : Keeps z0 s) : Keeps z0 (carryTime s n) := by
  unfold carryTime
  try dsimp -proj only
  repeat' first
    | with_reducible exact h
    | with_reducible apply Keeps.ite
    | with_reducible apply keep_State_modTime
    | with_reducible apply keep_checkUnsync
    | with_reducible apply keep_raiseHoldover
    | (simp -proj only [keeps_mk]; with_reducible refine KeepsParts.of rfl ?_ ?_ ?_ ?_ ?_ ?_)
    | with_reducible exact fun i => i
    | with_reducible assumption
    | with_reducible exact fun _ i => i
    | split
    | exact fun i => by simpa using i

theorem keep_execTimeStatusGet (r : Req) (s : State) : Goes s (execTimeStatusGet r s) := keep_command keep_specTimeStatusGet r s

theorem keep_execTimeParamsSet (r : Req) (s : State) : Goes s (execTimeParamsSet r s) := keep_command keep_specTimeParamsSet r s

theorem keep_execGptpInstanceSet (r : Req) (s : State) : Goes s (execGptpInstanceSet r s) := keep_command keep_specGptpInstanceSet r s

theorem keep_execTimeStep (r : Req) (s : State) : Goes s (execTimeStep r s) := keep_command keep_specTimeStep r s

theorem keep_execGptpPortGet (r : Req) (s : State) : Goes s (execGptpPortGet r s) := keep_command keep_specGptpPortGet r s

end Sys2Proof.Machine
end

