-- ==== Sys2Proof/Laws/PairLink.lean ====
section
/-! SUPPORT. Laws of Machine/PairLink.lean: each operation keeps the queue of waiting commands and soundness. -/

namespace Sys2Proof.Machine

theorem keep_stampPair {z0 : State} (s s1 : State) (h : Keeps z0 s1) : Keeps z0 (stampPair s s1) := by
  unfold stampPair
  try dsimp -proj only
  repeat' first
    | with_reducible exact h
    | with_reducible apply Keeps.ite
    | with_reducible apply keep_State_modPair
    | (simp -proj only [keeps_mk]; with_reducible refine KeepsParts.of rfl ?_ ?_ ?_ ?_ ?_ ?_)
    | with_reducible exact fun i => i
    | with_reducible assumption
    | with_reducible exact fun _ i => i
    | split
    | exact fun i => by simpa using i

theorem keep_raiseArming {z0 : State} (s : State) (kind : Nat) (h : Keeps z0 s) : Keeps z0 (raiseArming s kind) := by
  unfold raiseArming
  try dsimp -proj only
  repeat' first
    | with_reducible exact h
    | with_reducible apply Keeps.ite
    | with_reducible apply keep_raise
    | with_reducible assumption
    | split

theorem keep_updateArming {z0 : State} (s : State) (h : Keeps z0 s) : Keeps z0 (updateArming s) := by
  unfold updateArming
  try dsimp -proj only
  repeat' first
    | with_reducible exact h
    | with_reducible apply Keeps.ite
    | with_reducible apply keep_raiseArming
    | with_reducible apply keep_State_modPair
    | (simp -proj only [keeps_mk]; with_reducible refine KeepsParts.of rfl ?_ ?_ ?_ ?_ ?_ ?_)
    | with_reducible exact fun i => i
    | with_reducible assumption
    | with_reducible exact fun _ i => i
    | split
    | exact fun i => by simpa using i

theorem keep_setReason {z0 : State} (s : State) (b : Nat) (on : Bool) (h : Keeps z0 s) : Keeps z0 (setReason s b on) := by
  unfold setReason
  try dsimp -proj only
  repeat' first
    | with_reducible exact h
    | with_reducible apply Keeps.ite
    | with_reducible apply keep_updateArming
    | with_reducible apply keep_State_modPair
    | (simp -proj only [keeps_mk]; with_reducible refine KeepsParts.of rfl ?_ ?_ ?_ ?_ ?_ ?_)
    | with_reducible exact fun i => i
    | with_reducible assumption
    | with_reducible exact fun _ i => i
    | split
    | exact fun i => by simpa using i

theorem keep_raisePairLink {z0 : State} (s : State) (kind cause : Nat) (h : Keeps z0 s) : Keeps z0 (raisePairLink s kind cause) := by
  unfold raisePairLink
  try dsimp -proj only
  repeat' first
    | with_reducible exact h
    | with_reducible apply keep_raise
    | with_reducible assumption

theorem keep_raiseMismatch {z0 : State} (s : State) (m : Nat × Nat × Nat) (result : Nat) (h : Keeps z0 s) : Keeps z0 (raiseMismatch s m result) := by
  unfold raiseMismatch
  try dsimp -proj only
  repeat' first
    | with_reducible exact h
    | with_reducible apply keep_raise
    | with_reducible assumption

theorem keep_pairLost {z0 : State} (s : State) (cause : Nat) (h : Keeps z0 s) : Keeps z0 (pairLost s cause) := by
  unfold pairLost
  try dsimp -proj only
  repeat' first
    | with_reducible exact h
    | with_reducible apply Keeps.ite
    | with_reducible apply keep_pairCount
    | with_reducible apply keep_State_modPair
    | with_reducible apply keep_raisePairLink
    | with_reducible apply keep_raiseMismatch
    | with_reducible apply keep_raiseArming
    | with_reducible apply keep_setReason
    | (simp -proj only [keeps_mk]; with_reducible refine KeepsParts.of rfl ?_ ?_ ?_ ?_ ?_ ?_)
    | with_reducible exact fun i => i
    | with_reducible assumption
    | with_reducible exact fun _ i => i
    | split
    | exact fun i => by simpa using i

end Sys2Proof.Machine
end

