-- ==== Sys2Proof/Laws/PortOps.lean ====
section
/-! SUPPORT. Laws of Machine/PortOps.lean: each operation keeps the queue of waiting commands and soundness; each meaning goes on. -/

namespace Sys2Proof.Machine

theorem keep_raiseLink {z0 : State} (s : State) (p reason : Nat) (h : Keeps z0 s) : Keeps z0 (raiseLink s p reason) := by
  unfold raiseLink
  try dsimp -proj only
  repeat' first
    | with_reducible exact h
    | with_reducible apply Keeps.ite
    | with_reducible apply keep_raise
    | with_reducible assumption
    | split

theorem keep_setPlca {z0 : State} (s : State) (g : Nat) (on : Bool) (h : Keeps z0 s) : Keeps z0 (setPlca s g on) := by
  unfold setPlca
  try dsimp -proj only
  repeat' first
    | with_reducible exact h
    | with_reducible apply Keeps.ite
    | with_reducible apply keep_raise
    | with_reducible apply keep_State_modPorts
    | (simp -proj only [keeps_mk]; with_reducible refine KeepsParts.of rfl ?_ ?_ ?_ ?_ ?_ ?_)
    | with_reducible exact fun i => i
    | with_reducible assumption
    | with_reducible exact fun _ i => i
    | split
    | exact fun i => by simpa using i

theorem keep_leaveUp {z0 : State} (s : State) (p to_ : Nat) (h : Keeps z0 s) : Keeps z0 (leaveUp s p to_) := by
  unfold leaveUp
  try dsimp -proj only
  repeat' first
    | with_reducible exact h
    | with_reducible apply Keeps.ite
    | with_reducible apply keep_flushPort
    | with_reducible apply keep_portCount
    | with_reducible apply keep_modPort
    | with_reducible apply keep_endInFabric
    | (simp -proj only [keeps_mk]; with_reducible refine KeepsParts.of rfl ?_ ?_ ?_ ?_ ?_ ?_)
    | with_reducible exact fun i => i
    | with_reducible assumption
    | with_reducible exact fun _ i => i
    | split
    | exact fun i => by simpa using i

theorem keep_setOper {z0 : State} (s : State) (p to_ reason how speed : Nat) (h : Keeps z0 s) : Keeps z0 (setOper s p to_ reason how speed) := by
  unfold setOper
  try dsimp -proj only
  repeat' first
    | with_reducible exact h
    | with_reducible apply keep_stampPair
    | with_reducible apply keep_pairLost
    | with_reducible apply Keeps.ite
    | with_reducible apply keep_leaveUp
    | with_reducible apply keep_modPort
    | with_reducible apply keep_raiseLink
    | with_reducible apply keep_setPlca
    | with_reducible apply keep_timeLink
    | with_reducible apply keep_restartVerify
    | with_reducible apply keep_zenithRecheck
    | (simp -proj only [keeps_mk]; with_reducible refine KeepsParts.of rfl ?_ ?_ ?_ ?_ ?_ ?_)
    | with_reducible exact fun i => i
    | with_reducible assumption
    | with_reducible exact fun _ i => i
    | split
    | exact fun i => by simpa using i

theorem keep_fallback {z0 : State} (s : State) (p reason fastUs : Nat) (h : Keeps z0 s) : Keeps z0 (fallback s p reason fastUs) := by
  unfold fallback
  try dsimp -proj only
  repeat' first
    | with_reducible exact h
    | with_reducible apply keep_portCount
    | with_reducible apply keep_raise
    | with_reducible apply keep_modPort
    | (simp -proj only [keeps_mk]; with_reducible refine KeepsParts.of rfl ?_ ?_ ?_ ?_ ?_ ?_)
    | with_reducible exact fun i => i
    | with_reducible assumption
    | with_reducible exact fun _ i => i
    | split
    | exact fun i => by simpa using i

theorem keep_checkRecord {z0 : State} (s : State) (p : Nat) (h : Keeps z0 s) : Keeps z0 (checkRecord s p) := by
  unfold checkRecord
  try dsimp -proj only
  repeat' first
    | with_reducible exact h
    | with_reducible apply Keeps.ite
    | with_reducible apply keep_modPort
    | with_reducible apply keep_fallback
    | (simp -proj only [keeps_mk]; with_reducible refine KeepsParts.of rfl ?_ ?_ ?_ ?_ ?_ ?_)
    | with_reducible exact fun i => i
    | with_reducible assumption
    | with_reducible exact fun _ i => i
    | split
    | exact fun i => by simpa using i

theorem keep_dropRecord {z0 : State} (s : State) (p : Nat) (why : NoRec) (h : Keeps z0 s) : Keeps z0 (dropRecord s p why) := by
  unfold dropRecord
  try dsimp -proj only
  repeat' first
    | with_reducible exact h
    | with_reducible apply keep_modPort
    | (simp -proj only [keeps_mk]; with_reducible refine KeepsParts.of rfl ?_ ?_ ?_ ?_ ?_ ?_)
    | with_reducible exact fun i => i
    | with_reducible assumption
    | with_reducible exact fun _ i => i
    | exact fun i => by simpa using i

theorem keep_refreshRecord {z0 : State} (s : State) (p : Nat) (h : Keeps z0 s) : Keeps z0 (refreshRecord s p) := by
  unfold refreshRecord
  try dsimp -proj only
  repeat' first
    | with_reducible exact h
    | with_reducible apply Keeps.ite
    | with_reducible apply keep_modPort
    | (simp -proj only [keeps_mk]; with_reducible refine KeepsParts.of rfl ?_ ?_ ?_ ?_ ?_ ?_)
    | with_reducible exact fun i => i
    | with_reducible assumption
    | with_reducible exact fun _ i => i
    | split
    | exact fun i => by simpa using i

theorem keep_raiseTc10 {z0 : State} (s : State) (p : Nat) (left partner : Bool) (h : Keeps z0 s) : Keeps z0 (raiseTc10 s p left partner) := by
  unfold raiseTc10
  try dsimp -proj only
  repeat' first
    | with_reducible exact h
    | with_reducible apply keep_raise
    | with_reducible apply keep_modPort
    | (simp -proj only [keeps_mk]; with_reducible refine KeepsParts.of rfl ?_ ?_ ?_ ?_ ?_ ?_)
    | with_reducible exact fun i => i
    | with_reducible assumption
    | with_reducible exact fun _ i => i
    | exact fun i => by simpa using i

theorem keep_tc10Sleep {z0 : State} (s : State) (p reason : Nat) (partner : Bool) (h : Keeps z0 s) : Keeps z0 (tc10Sleep s p reason partner) := by
  unfold tc10Sleep
  try dsimp -proj only
  repeat' first
    | with_reducible exact h
    | with_reducible apply keep_setOper
    | with_reducible apply keep_raiseTc10
    | with_reducible apply keep_portCount
    | with_reducible apply keep_modPort
    | (simp -proj only [keeps_mk]; with_reducible refine KeepsParts.of rfl ?_ ?_ ?_ ?_ ?_ ?_)
    | with_reducible exact fun i => i
    | with_reducible assumption
    | with_reducible exact fun _ i => i
    | exact fun i => by simpa using i

theorem keep_startPort {z0 : State} (s : State) (p reason : Nat) (h : Keeps z0 s) : Keeps z0 (startPort s p reason) := by
  unfold startPort
  try dsimp -proj only
  repeat' first
    | with_reducible exact h
    | with_reducible apply Keeps.ite
    | with_reducible apply keep_setOper
    | (with_reducible refine Keeps.snd (by assumption) ?_; with_reducible apply keep_requestTokens)
    | with_reducible apply keep_requestTokens
    | with_reducible apply keep_checkRecord
    | with_reducible apply keep_tc10Sleep
    | with_reducible assumption
    | split

theorem keep_stopPort {z0 : State} (s : State) (p to_ reason : Nat) (h : Keeps z0 s) : Keeps z0 (stopPort s p to_ reason) := by
  unfold stopPort
  try dsimp -proj only
  repeat' first
    | with_reducible exact h
    | with_reducible apply keep_returnTokens
    | with_reducible apply keep_setOper
    | with_reducible assumption

theorem keep_retrain {z0 : State} (s : State) (p : Nat) (h : Keeps z0 s) : Keeps z0 (retrain s p) := by
  unfold retrain
  try dsimp -proj only
  repeat' first
    | with_reducible exact h
    | with_reducible apply Keeps.ite
    | with_reducible apply keep_checkRecord
    | with_reducible apply keep_setOper
    | with_reducible assumption
    | split

theorem keep_modPse {z0 : State} (s : State) (i : Nat) (f : PseRun → PseRun) (h : Keeps z0 s) : Keeps z0 (modPse s i f) := by
  unfold modPse
  try dsimp -proj only
  repeat' first
    | with_reducible exact h
    | with_reducible apply keep_State_modPorts
    | (simp -proj only [keeps_mk]; with_reducible refine KeepsParts.of rfl ?_ ?_ ?_ ?_ ?_ ?_)
    | with_reducible exact fun i => i
    | with_reducible assumption
    | with_reducible exact fun _ i => i
    | exact fun i => by simpa using i

theorem keep_raisePse {z0 : State} (s : State) (i reason : Nat) (h : Keeps z0 s) : Keeps z0 (raisePse s i reason) := by
  unfold raisePse
  try dsimp -proj only
  repeat' first
    | with_reducible exact h
    | with_reducible apply keep_raise
    | with_reducible assumption

theorem keep_pseRequest {z0 : State} (s : State) (i : Nat) (h : Keeps z0 s) : Keeps z0 (pseRequest s i) := by
  unfold pseRequest
  try dsimp -proj only
  repeat' first
    | with_reducible exact h
    | with_reducible apply Keeps.ite
    | with_reducible apply keep_raisePse
    | with_reducible apply keep_modPse
    | with_reducible apply keep_raise
    | (simp -proj only [keeps_mk]; with_reducible refine KeepsParts.of rfl ?_ ?_ ?_ ?_ ?_ ?_)
    | with_reducible exact fun i => i
    | with_reducible assumption
    | with_reducible exact fun _ i => i
    | split
    | exact fun i => by simpa using i

theorem keep_pseRetry {z0 : State} (s : State) (h : Keeps z0 s) : Keeps z0 (pseRetry s) := by
  unfold pseRetry
  try dsimp -proj only
  repeat' first
    | with_reducible exact h
    | with_reducible apply Keeps.ite
    | with_reducible apply keep_pseRequest
    | (simp -proj only [keeps_mk]; with_reducible refine KeepsParts.of rfl ?_ ?_ ?_ ?_ ?_ ?_)
    | with_reducible apply Keeps.foldl
    | (intro r x hr; try dsimp -proj only)
    | with_reducible assumption
    | split

theorem keep_pseOff {z0 : State} (s : State) (i to_ : Nat) (h : Keeps z0 s) : Keeps z0 (pseOff s i to_) := by
  unfold pseOff
  try dsimp -proj only
  repeat' first
    | with_reducible exact h
    | with_reducible apply keep_modPse
    | (simp -proj only [keeps_mk]; with_reducible refine KeepsParts.of rfl ?_ ?_ ?_ ?_ ?_ ?_)
    | with_reducible exact fun i => i
    | with_reducible assumption
    | with_reducible exact fun _ i => i
    | exact fun i => by simpa using i

theorem keep_pseRemove {z0 : State} (s : State) (i to_ : Nat) (h : Keeps z0 s) : Keeps z0 (pseRemove s i to_) := by
  unfold pseRemove
  try dsimp -proj only
  repeat' first
    | with_reducible exact h
    | with_reducible apply Keeps.ite
    | with_reducible apply keep_modPse
    | with_reducible apply keep_pseOff
    | with_reducible apply keep_pseRetry
    | with_reducible apply keep_raise
    | (simp -proj only [keeps_mk]; with_reducible refine KeepsParts.of rfl ?_ ?_ ?_ ?_ ?_ ?_)
    | with_reducible exact fun i => i
    | with_reducible assumption
    | with_reducible exact fun _ i => i
    | split
    | exact fun i => by simpa using i

theorem keep_pseShrink {z0 : State}  (x1 : Nat) (s : State) (x2 : Nat) (h : Keeps z0 s) : Keeps z0 (pseShrink x1 s x2).1 := by
  induction x1 generalizing s x2 with
  | zero => exact h
  | succ n ih =>
    unfold pseShrink
    try dsimp -proj only
    repeat' first
      | with_reducible exact h
      | with_reducible apply Keeps.ite
      | with_reducible apply ih
      | (with_reducible refine Keeps.fst (by assumption) ?_; with_reducible apply ih)
      | with_reducible apply keep_raisePse
      | with_reducible apply keep_pseOff
      | (simp -proj only [keeps_mk]; with_reducible refine KeepsParts.of rfl ?_ ?_ ?_ ?_ ?_ ?_)
      | with_reducible exact fun i => i
      | with_reducible assumption
      | with_reducible exact fun _ i => i
      | split
      | exact fun i => by simpa using i

theorem keep_pseFault {z0 : State} (s : State) (i cause peakMw railMv : Nat) (h : Keeps z0 s) : Keeps z0 (pseFault s i cause peakMw railMv) := by
  unfold pseFault
  try dsimp -proj only
  repeat' first
    | with_reducible exact h
    | with_reducible apply Keeps.ite
    | with_reducible apply keep_modPse
    | with_reducible apply keep_pseOff
    | with_reducible apply keep_pseRetry
    | with_reducible apply keep_raise
    | (simp -proj only [keeps_mk]; with_reducible refine KeepsParts.of rfl ?_ ?_ ?_ ?_ ?_ ?_)
    | with_reducible exact fun i => i
    | with_reducible assumption
    | with_reducible exact fun _ i => i
    | split
    | exact fun i => by simpa using i

theorem keep_pseController {z0 : State} (s : State) (g : Nat) (h : Keeps z0 s) : Keeps z0 (pseController s g) := by
  unfold pseController
  try dsimp -proj only
  repeat' first
    | with_reducible exact h
    | with_reducible apply Keeps.ite
    | (with_reducible refine Keeps.snd (by assumption) ?_; with_reducible apply keep_requestTokens)
    | with_reducible apply keep_requestTokens
    | with_reducible apply keep_returnTokens
    | with_reducible assumption
    | split

theorem keep_pseStart {z0 : State} (s : State) (i : Nat) (h : Keeps z0 s) : Keeps z0 (pseStart s i) := by
  unfold pseStart
  try dsimp -proj only
  repeat' first
    | with_reducible exact h
    | with_reducible apply Keeps.ite
    | with_reducible apply keep_modPse
    | (simp -proj only [keeps_mk]; with_reducible refine KeepsParts.of rfl ?_ ?_ ?_ ?_ ?_ ?_)
    | with_reducible exact fun i => i
    | with_reducible assumption
    | with_reducible exact fun _ i => i
    | split
    | exact fun i => by simpa using i

theorem keep_pseAllOff {z0 : State} (s : State) (h : Keeps z0 s) : Keeps z0 (pseAllOff s) := by
  unfold pseAllOff
  try dsimp -proj only
  repeat' first
    | with_reducible exact h
    | with_reducible apply Keeps.ite
    | with_reducible apply keep_modPse
    | with_reducible apply keep_pseOff
    | with_reducible apply keep_raise
    | with_reducible apply keep_returnTokens
    | (simp -proj only [keeps_mk]; with_reducible refine KeepsParts.of rfl ?_ ?_ ?_ ?_ ?_ ?_)
    | with_reducible exact fun i => i
    | with_reducible apply Keeps.foldl
    | (intro r x hr; try dsimp -proj only)
    | with_reducible assumption
    | with_reducible exact fun _ i => i
    | split
    | exact fun i => by simpa using i

theorem keep_shedOne {z0 : State} (s : State) (c : Nat) (h : Keeps z0 s) : Keeps z0 (shedOne s c) := by
  unfold shedOne
  try dsimp -proj only
  repeat' first
    | with_reducible exact h
    | with_reducible apply Keeps.ite
    | with_reducible apply keep_setOper
    | with_reducible apply keep_State_modPow
    | (simp -proj only [keeps_mk]; with_reducible refine KeepsParts.of rfl ?_ ?_ ?_ ?_ ?_ ?_)
    | with_reducible exact fun i => i
    | with_reducible assumption
    | with_reducible exact fun _ i => i
    | split
    | exact fun i => by simpa using i

theorem keep_shedTo {z0 : State} (limit : Nat) (x1 : List Nat) (s : State) (x2 : List Nat) (h : Keeps z0 s) : Keeps z0 (shedTo limit x1 s x2).1 := by
  induction x1 generalizing s x2 with
  | nil => exact h
  | cons y ys ih =>
    unfold shedTo
    try dsimp -proj only
    repeat' first
      | with_reducible exact h
      | with_reducible apply Keeps.ite
      | with_reducible apply ih
      | (with_reducible refine Keeps.fst (by assumption) ?_; with_reducible apply ih)
      | with_reducible apply keep_shedOne
      | with_reducible assumption
      | split

end Sys2Proof.Machine
end

