-- ==== Sys2Proof/Laws/PortCmds.lean ====
section
/-! SUPPORT. Laws of Machine/PortCmds.lean: each operation keeps the queue of waiting commands and soundness; each meaning goes on. -/

namespace Sys2Proof.Machine

theorem keep_specPortGetStatus : SpecKeeps specPortGetStatus := by
  intro z0 s r p h
  unfold specPortGetStatus
  try dsimp only
  repeat' first
    | with_reducible exact h
    | with_reducible apply Keeps.ite
    | with_reducible apply ResultKeeps.checked
    | with_reducible apply ResultKeeps.ite
    | with_reducible exact ResultKeeps.fail
    | with_reducible apply ResultKeeps.doneMk
    | with_reducible apply ResultKeeps.failWith
    | with_reducible apply ResultKeeps.retry
    | with_reducible apply ResultKeeps.wait
    | (simp -proj only [keeps_mk]; with_reducible refine KeepsParts.of rfl ?_ ?_ ?_ ?_ ?_ ?_)
    | with_reducible exact fun i => i
    | (intro r hr; try dsimp only [id])
    | with_reducible assumption
    | with_reducible exact fun _ i => i
    | split
    | exact fun i => by simpa using i

theorem keep_setPortCfg {z0 : State} (s : State) (p : Nat) (c : PortCfg) (h : Keeps z0 s) : Keeps z0 (setPortCfg s p c) := by
  unfold setPortCfg
  try dsimp -proj only
  repeat' first
    | with_reducible exact h
    | with_reducible apply keep_State_modPorts
    | (simp -proj only [keeps_mk]; with_reducible refine KeepsParts.of rfl ?_ ?_ ?_ ?_ ?_ ?_)
    | with_reducible exact fun i => i
    | with_reducible assumption
    | with_reducible exact fun _ i => i
    | exact fun i => by simpa using i

theorem keep_applyAdmin {z0 : State} (s : State) (p was now : Nat) (h : Keeps z0 s) : Keeps z0 (applyAdmin s p was now) := by
  unfold applyAdmin
  try dsimp -proj only
  repeat' first
    | with_reducible exact h
    | with_reducible apply Keeps.ite
    | with_reducible apply keep_stopPort
    | with_reducible apply keep_startPort
    | with_reducible apply keep_tc10Sleep
    | with_reducible apply keep_checkRecord
    | with_reducible apply keep_raiseTc10
    | with_reducible apply keep_setOper
    | with_reducible assumption
    | split

theorem keep_specPortSet : SpecKeeps specPortSet := by
  intro z0 s r p h
  unfold specPortSet
  try dsimp only
  repeat' first
    | with_reducible exact h
    | with_reducible apply Keeps.ite
    | with_reducible apply ResultKeeps.checked
    | with_reducible apply ResultKeeps.ite
    | with_reducible exact ResultKeeps.fail
    | with_reducible apply ResultKeeps.doneMk
    | with_reducible apply ResultKeeps.failWith
    | with_reducible apply ResultKeeps.retry
    | with_reducible apply ResultKeeps.wait
    | with_reducible apply keep_setPortCfg
    | with_reducible apply keep_dropRecord
    | with_reducible apply keep_retrain
    | with_reducible apply keep_zenithRecheck
    | with_reducible apply keep_applyAdmin
    | (intro r hr; try dsimp only [id])
    | with_reducible assumption
    | split

theorem keep_specEdgeGroupSet : SpecKeeps specEdgeGroupSet := by
  intro z0 s r p h
  unfold specEdgeGroupSet
  try dsimp only
  repeat' first
    | with_reducible exact h
    | with_reducible apply Keeps.ite
    | with_reducible apply ResultKeeps.checked
    | with_reducible apply ResultKeeps.ite
    | with_reducible exact ResultKeeps.fail
    | with_reducible apply ResultKeeps.doneMk
    | with_reducible apply ResultKeeps.failWith
    | with_reducible apply ResultKeeps.retry
    | with_reducible apply ResultKeeps.wait
    | with_reducible apply keep_State_modPorts
    | with_reducible apply keep_dropRecord
    | with_reducible apply keep_zenithRecheck
    | (simp -proj only [keeps_mk]; with_reducible refine KeepsParts.of rfl ?_ ?_ ?_ ?_ ?_ ?_)
    | with_reducible exact fun i => i
    | with_reducible apply Keeps.foldl
    | (intro r x hr; try dsimp -proj only)
    | (intro r hr; try dsimp only [id])
    | with_reducible assumption
    | with_reducible exact fun _ i => i
    | split
    | exact fun i => by simpa using i

theorem keep_specPortGetCounters : SpecKeeps specPortGetCounters := by
  intro z0 s r p h
  unfold specPortGetCounters
  try dsimp only
  repeat' first
    | with_reducible exact h
    | with_reducible apply Keeps.ite
    | with_reducible apply ResultKeeps.checked
    | with_reducible apply ResultKeeps.ite
    | with_reducible exact ResultKeeps.fail
    | with_reducible apply ResultKeeps.doneMk
    | with_reducible apply ResultKeeps.failWith
    | with_reducible apply ResultKeeps.retry
    | with_reducible apply ResultKeeps.wait
    | with_reducible apply keep_modPort
    | (simp -proj only [keeps_mk]; with_reducible refine KeepsParts.of rfl ?_ ?_ ?_ ?_ ?_ ?_)
    | with_reducible exact fun i => i
    | (intro r hr; try dsimp only [id])
    | with_reducible assumption
    | with_reducible exact fun _ i => i
    | split
    | exact fun i => by simpa using i

theorem keep_specPlcaSet : SpecKeeps specPlcaSet := by
  intro z0 s r p h
  unfold specPlcaSet
  try dsimp only
  repeat' first
    | with_reducible exact h
    | with_reducible apply ResultKeeps.checked
    | with_reducible apply ResultKeeps.ite
    | with_reducible exact ResultKeeps.fail
    | with_reducible apply ResultKeeps.doneMk
    | with_reducible apply ResultKeeps.failWith
    | with_reducible apply ResultKeeps.retry
    | with_reducible apply ResultKeeps.wait
    | with_reducible apply keep_State_modPorts
    | (simp -proj only [keeps_mk]; with_reducible refine KeepsParts.of rfl ?_ ?_ ?_ ?_ ?_ ?_)
    | with_reducible exact fun i => i
    | (intro r hr; try dsimp only [id])
    | with_reducible assumption
    | with_reducible exact fun _ i => i
    | exact fun i => by simpa using i

theorem keep_specPseSet : SpecKeeps specPseSet := by
  intro z0 s r p h
  unfold specPseSet
  try dsimp only
  repeat' first
    | with_reducible exact h
    | with_reducible apply Keeps.ite
    | with_reducible apply ResultKeeps.checked
    | with_reducible apply ResultKeeps.ite
    | with_reducible exact ResultKeeps.fail
    | with_reducible apply ResultKeeps.doneMk
    | with_reducible apply ResultKeeps.failWith
    | with_reducible apply ResultKeeps.retry
    | with_reducible apply ResultKeeps.wait
    | with_reducible apply keep_pseController
    | with_reducible apply keep_State_modPorts
    | with_reducible apply keep_pseRemove
    | with_reducible apply keep_pseStart
    | (simp -proj only [keeps_mk]; with_reducible refine KeepsParts.of rfl ?_ ?_ ?_ ?_ ?_ ?_)
    | with_reducible exact fun i => i
    | (intro r hr; try dsimp only [id])
    | with_reducible assumption
    | with_reducible exact fun _ i => i
    | split
    | exact fun i => by simpa using i

theorem keep_specPseGetStatus : SpecKeeps specPseGetStatus := by
  intro z0 s r p h
  unfold specPseGetStatus
  try dsimp only
  repeat' first
    | with_reducible exact h
    | with_reducible apply ResultKeeps.checked
    | with_reducible apply ResultKeeps.ite
    | with_reducible exact ResultKeeps.fail
    | with_reducible apply ResultKeeps.doneMk
    | with_reducible apply ResultKeeps.failWith
    | with_reducible apply ResultKeeps.retry
    | with_reducible apply ResultKeeps.wait
    | (intro r hr; try dsimp only [id])
    | with_reducible assumption

theorem keep_specTrainingClear : SpecKeeps specTrainingClear := by
  intro z0 s r p h
  unfold specTrainingClear
  try dsimp only
  repeat' first
    | with_reducible exact h
    | with_reducible apply Keeps.ite
    | with_reducible apply ResultKeeps.checked
    | with_reducible apply ResultKeeps.ite
    | with_reducible exact ResultKeeps.fail
    | with_reducible apply ResultKeeps.doneMk
    | with_reducible apply ResultKeeps.failWith
    | with_reducible apply ResultKeeps.retry
    | with_reducible apply ResultKeeps.wait
    | with_reducible apply keep_dropRecord
    | (simp -proj only [keeps_mk]; with_reducible refine KeepsParts.of rfl ?_ ?_ ?_ ?_ ?_ ?_)
    | with_reducible apply Keeps.foldl
    | (intro r x hr; try dsimp -proj only)
    | (intro r hr; try dsimp only [id])
    | with_reducible assumption
    | split

theorem keep_execPartnerSignalDetected (p : Nat) (s : State) : Goes s (execPartnerSignalDetected p s) := by
  have h := Keeps.refl s
  unfold execPartnerSignalDetected
  try dsimp -proj only
  repeat' first
    | with_reducible exact h
    | with_reducible apply Keeps.ite
    | with_reducible apply Goes.ite
    | with_reducible apply Goes.next
    | with_reducible apply keep_setOper
    | with_reducible apply keep_modPort
    | (simp -proj only [keeps_mk]; with_reducible refine KeepsParts.of rfl ?_ ?_ ?_ ?_ ?_ ?_)
    | with_reducible exact fun i => i
    | (intro r hr; try dsimp -proj only)
    | with_reducible assumption
    | with_reducible exact fun _ i => i
    | split
    | exact fun i => by simpa using i

theorem keep_execTrainingComplete (p partnerRole : Nat) (at100 partnerEee : Bool) (coeffs finger : Nat) (s : State) : Goes s (execTrainingComplete p partnerRole at100 partnerEee coeffs finger s) := by
  have h := Keeps.refl s
  unfold execTrainingComplete
  try dsimp -proj only
  repeat' first
    | with_reducible exact h
    | with_reducible apply Keeps.ite
    | with_reducible apply Goes.ite
    | with_reducible apply Goes.next
    | with_reducible apply keep_setOper
    | with_reducible apply keep_portCount
    | with_reducible apply keep_modPort
    | (simp -proj only [keeps_mk]; with_reducible refine KeepsParts.of rfl ?_ ?_ ?_ ?_ ?_ ?_)
    | with_reducible exact fun i => i
    | (intro r hr; try dsimp -proj only)
    | with_reducible assumption
    | with_reducible exact fun _ i => i
    | split
    | exact fun i => by simpa using i

theorem keep_execTrainingFailed (p : Nat) (s : State) : Goes s (execTrainingFailed p s) := by
  have h := Keeps.refl s
  unfold execTrainingFailed
  try dsimp -proj only
  repeat' first
    | with_reducible exact h
    | with_reducible apply Keeps.ite
    | with_reducible apply Goes.ite
    | with_reducible apply Goes.next
    | with_reducible apply keep_setOper
    | (intro r hr; try dsimp -proj only)
    | with_reducible assumption
    | split

theorem keep_execLinkLoss (p : Nat) (pcs : Bool) (s : State) : Goes s (execLinkLoss p pcs s) := by
  have h := Keeps.refl s
  unfold execLinkLoss
  try dsimp -proj only
  repeat' first
    | with_reducible exact h
    | with_reducible apply Keeps.ite
    | with_reducible apply Goes.ite
    | with_reducible apply Goes.next
    | with_reducible apply keep_setOper
    | with_reducible apply keep_modPort
    | (simp -proj only [keeps_mk]; with_reducible refine KeepsParts.of rfl ?_ ?_ ?_ ?_ ?_ ?_)
    | with_reducible exact fun i => i
    | (intro r hr; try dsimp -proj only)
    | with_reducible assumption
    | with_reducible exact fun _ i => i
    | split
    | exact fun i => by simpa using i

theorem keep_execFastStartInfofieldRx (p finger : Nat) (answer : Bool) (s : State) : Goes s (execFastStartInfofieldRx p finger answer s) := by
  have h := Keeps.refl s
  unfold execFastStartInfofieldRx
  try dsimp -proj only
  repeat' first
    | with_reducible exact h
    | with_reducible apply Keeps.ite
    | with_reducible apply Goes.ite
    | with_reducible apply Goes.next
    | with_reducible apply keep_modPort
    | with_reducible apply keep_fallback
    | (simp -proj only [keeps_mk]; with_reducible refine KeepsParts.of rfl ?_ ?_ ?_ ?_ ?_ ?_)
    | with_reducible exact fun i => i
    | (intro r hr; try dsimp -proj only)
    | with_reducible assumption
    | with_reducible exact fun _ i => i
    | split
    | exact fun i => by simpa using i

theorem keep_execFastStartTimeout (p : Nat) (s : State) : Goes s (execFastStartTimeout p s) := by
  have h := Keeps.refl s
  unfold execFastStartTimeout
  try dsimp -proj only
  repeat' first
    | with_reducible exact h
    | with_reducible apply Keeps.ite
    | with_reducible apply Goes.ite
    | with_reducible apply Goes.next
    | with_reducible apply keep_State_until
    | with_reducible apply keep_fallback
    | (intro r hr; try dsimp -proj only)
    | with_reducible assumption
    | split

theorem keep_execTokenRetryTimer (p : Nat) (s : State) : Goes s (execTokenRetryTimer p s) := by
  have h := Keeps.refl s
  unfold execTokenRetryTimer
  try dsimp -proj only
  repeat' first
    | with_reducible exact h
    | with_reducible apply Keeps.ite
    | with_reducible apply Goes.ite
    | with_reducible apply Goes.next
    | with_reducible apply keep_startPort
    | (intro r hr; try dsimp -proj only)
    | with_reducible assumption
    | split

theorem keep_execEeeIdleTimer (p : Nat) (s : State) : Goes s (execEeeIdleTimer p s) := by
  have h := Keeps.refl s
  unfold execEeeIdleTimer
  try dsimp -proj only
  repeat' first
    | with_reducible exact h
    | with_reducible apply Keeps.ite
    | with_reducible apply Goes.ite
    | with_reducible apply Goes.next
    | with_reducible apply keep_portCount
    | with_reducible apply keep_modPort
    | with_reducible apply keep_raise
    | (simp -proj only [keeps_mk]; with_reducible refine KeepsParts.of rfl ?_ ?_ ?_ ?_ ?_ ?_)
    | with_reducible exact fun i => i
    | (intro r hr; try dsimp -proj only)
    | with_reducible assumption
    | with_reducible exact fun _ i => i
    | split
    | exact fun i => by simpa using i

theorem keep_execTc10SleepRequestRx (p : Nat) (s : State) : Goes s (execTc10SleepRequestRx p s) := by
  have h := Keeps.refl s
  unfold execTc10SleepRequestRx
  try dsimp -proj only
  repeat' first
    | with_reducible exact h
    | with_reducible apply Keeps.ite
    | with_reducible apply Goes.ite
    | with_reducible apply Goes.next
    | with_reducible apply keep_tc10Sleep
    | (intro r hr; try dsimp -proj only)
    | with_reducible assumption
    | split

theorem keep_tc10Wake {z0 : State} (s : State) (p : Nat) (h : Keeps z0 s) : Keeps z0 (tc10Wake s p) := by
  unfold tc10Wake
  try dsimp -proj only
  repeat' first
    | with_reducible exact h
    | with_reducible apply Keeps.ite
    | with_reducible apply keep_checkRecord
    | with_reducible apply keep_raiseTc10
    | with_reducible apply keep_setOper
    | with_reducible apply keep_setPortCfg
    | (simp -proj only [keeps_mk]; with_reducible refine KeepsParts.of rfl ?_ ?_ ?_ ?_ ?_ ?_)
    | with_reducible exact fun i => i
    | with_reducible assumption
    | with_reducible exact fun _ i => i
    | split
    | exact fun i => by simpa using i

theorem keep_execPlcaBeaconLoss (g : Nat) (s : State) : Goes s (execPlcaBeaconLoss g s) := by
  have h := Keeps.refl s
  unfold execPlcaBeaconLoss
  try dsimp -proj only
  repeat' first
    | with_reducible exact h
    | with_reducible apply Keeps.ite
    | with_reducible apply Goes.ite
    | with_reducible apply Goes.next
    | with_reducible apply keep_setPlca
    | (intro r hr; try dsimp -proj only)
    | with_reducible assumption
    | split

theorem keep_execPlcaBeaconReturn (g : Nat) (s : State) : Goes s (execPlcaBeaconReturn g s) := by
  have h := Keeps.refl s
  unfold execPlcaBeaconReturn
  try dsimp -proj only
  repeat' first
    | with_reducible exact h
    | with_reducible apply Keeps.ite
    | with_reducible apply Goes.ite
    | with_reducible apply Goes.next
    | with_reducible apply keep_setPlca
    | (intro r hr; try dsimp -proj only)
    | with_reducible assumption
    | split

theorem keep_execPseDetection (i : Nat) (valid : Bool) (s : State) : Goes s (execPseDetection i valid s) := by
  have h := Keeps.refl s
  unfold execPseDetection
  try dsimp -proj only
  repeat' first
    | with_reducible exact h
    | with_reducible apply Keeps.ite
    | with_reducible apply Goes.ite
    | with_reducible apply Goes.next
    | with_reducible apply keep_modPse
    | (simp -proj only [keeps_mk]; with_reducible refine KeepsParts.of rfl ?_ ?_ ?_ ?_ ?_ ?_)
    | with_reducible exact fun i => i
    | (intro r hr; try dsimp -proj only)
    | with_reducible assumption
    | with_reducible exact fun _ i => i
    | split
    | exact fun i => by simpa using i

theorem keep_execPseClassification (i cls second : Nat) (s : State) : Goes s (execPseClassification i cls second s) := by
  have h := Keeps.refl s
  unfold execPseClassification
  try dsimp -proj only
  repeat' first
    | with_reducible exact h
    | with_reducible apply Keeps.ite
    | with_reducible apply Goes.ite
    | with_reducible apply Goes.next
    | with_reducible apply keep_modPse
    | with_reducible apply keep_pseRequest
    | with_reducible apply keep_raisePse
    | (simp -proj only [keeps_mk]; with_reducible refine KeepsParts.of rfl ?_ ?_ ?_ ?_ ?_ ?_)
    | with_reducible exact fun i => i
    | (intro r hr; try dsimp -proj only)
    | with_reducible assumption
    | with_reducible exact fun _ i => i
    | split
    | exact fun i => by simpa using i

theorem keep_execPseOverload (i peakMw railMv : Nat) (s : State) : Goes s (execPseOverload i peakMw railMv s) := by
  have h := Keeps.refl s
  unfold execPseOverload
  try dsimp -proj only
  repeat' first
    | with_reducible exact h
    | with_reducible apply Goes.ite
    | with_reducible apply Goes.next
    | with_reducible apply keep_pseFault
    | (intro r hr; try dsimp -proj only)
    | with_reducible assumption

theorem keep_execPseShort (i peakMw railMv : Nat) (s : State) : Goes s (execPseShort i peakMw railMv s) := by
  have h := Keeps.refl s
  unfold execPseShort
  try dsimp -proj only
  repeat' first
    | with_reducible exact h
    | with_reducible apply Goes.ite
    | with_reducible apply Goes.next
    | with_reducible apply keep_pseFault
    | (intro r hr; try dsimp -proj only)
    | with_reducible assumption

theorem keep_execPseHardShort (i peakMw railMv : Nat) (s : State) : Goes s (execPseHardShort i peakMw railMv s) := by
  have h := Keeps.refl s
  unfold execPseHardShort
  try dsimp -proj only
  repeat' first
    | with_reducible exact h
    | with_reducible apply Goes.ite
    | with_reducible apply Goes.next
    | with_reducible apply keep_pseFault
    | (intro r hr; try dsimp -proj only)
    | with_reducible assumption

theorem keep_execPseThermal (i peakMw railMv : Nat) (s : State) : Goes s (execPseThermal i peakMw railMv s) := by
  have h := Keeps.refl s
  unfold execPseThermal
  try dsimp -proj only
  repeat' first
    | with_reducible exact h
    | with_reducible apply Goes.ite
    | with_reducible apply Goes.next
    | with_reducible apply keep_pseFault
    | (intro r hr; try dsimp -proj only)
    | with_reducible assumption

theorem keep_execPseSupplyFault (railMv : Nat) (s : State) : Goes s (execPseSupplyFault railMv s) := by
  have h := Keeps.refl s
  unfold execPseSupplyFault
  try dsimp -proj only
  repeat' first
    | with_reducible exact h
    | with_reducible apply Keeps.ite
    | with_reducible apply Goes.ite
    | with_reducible apply Goes.next
    | with_reducible apply keep_modPse
    | with_reducible apply keep_pseOff
    | with_reducible apply keep_State_modPorts
    | with_reducible apply keep_raise
    | (simp -proj only [keeps_mk]; with_reducible refine KeepsParts.of rfl ?_ ?_ ?_ ?_ ?_ ?_)
    | with_reducible exact fun i => i
    | with_reducible apply Keeps.foldl
    | (intro r x hr; try dsimp -proj only)
    | (intro r hr; try dsimp -proj only)
    | with_reducible assumption
    | with_reducible exact fun _ i => i
    | split
    | exact fun i => by simpa using i

theorem keep_execPseSupplyRecovery (railMv : Nat) (s : State) : Goes s (execPseSupplyRecovery railMv s) := by
  have h := Keeps.refl s
  unfold execPseSupplyRecovery
  try dsimp -proj only
  repeat' first
    | with_reducible exact h
    | with_reducible apply Keeps.ite
    | with_reducible apply Goes.ite
    | with_reducible apply Goes.next
    | with_reducible apply keep_State_modPorts
    | with_reducible apply keep_modPse
    | (simp -proj only [keeps_mk]; with_reducible refine KeepsParts.of rfl ?_ ?_ ?_ ?_ ?_ ?_)
    | with_reducible exact fun i => i
    | with_reducible apply Keeps.foldl
    | (intro r x hr; try dsimp -proj only)
    | (intro r hr; try dsimp -proj only)
    | with_reducible assumption
    | with_reducible exact fun _ i => i
    | split
    | exact fun i => by simpa using i

theorem keep_execPseDisconnect (i : Nat) (s : State) : Goes s (execPseDisconnect i s) := by
  have h := Keeps.refl s
  unfold execPseDisconnect
  try dsimp -proj only
  repeat' first
    | with_reducible exact h
    | with_reducible apply Keeps.ite
    | with_reducible apply Goes.ite
    | with_reducible apply Goes.next
    | with_reducible apply keep_pseRemove
    | (intro r hr; try dsimp -proj only)
    | with_reducible assumption
    | split

theorem keep_execPseFaultWaitExpiry (i : Nat) (s : State) : Goes s (execPseFaultWaitExpiry i s) := by
  have h := Keeps.refl s
  unfold execPseFaultWaitExpiry
  try dsimp -proj only
  repeat' first
    | with_reducible exact h
    | with_reducible apply Keeps.ite
    | with_reducible apply Goes.ite
    | with_reducible apply Goes.next
    | with_reducible apply keep_modPse
    | (simp -proj only [keeps_mk]; with_reducible refine KeepsParts.of rfl ?_ ?_ ?_ ?_ ?_ ?_)
    | with_reducible exact fun i => i
    | (intro r hr; try dsimp -proj only)
    | with_reducible assumption
    | with_reducible exact fun _ i => i
    | split
    | exact fun i => by simpa using i

theorem keep_execPortGetStatus (r : Req) (s : State) : Goes s (execPortGetStatus r s) := keep_command keep_specPortGetStatus r s

theorem keep_execPortSet (r : Req) (s : State) : Goes s (execPortSet r s) := keep_command keep_specPortSet r s

theorem keep_execEdgeGroupSet (r : Req) (s : State) : Goes s (execEdgeGroupSet r s) := keep_command keep_specEdgeGroupSet r s

theorem keep_execPortGetCounters (r : Req) (s : State) : Goes s (execPortGetCounters r s) := keep_command keep_specPortGetCounters r s

theorem keep_execPlcaSet (r : Req) (s : State) : Goes s (execPlcaSet r s) := keep_command keep_specPlcaSet r s

theorem keep_execPseSet (r : Req) (s : State) : Goes s (execPseSet r s) := keep_command keep_specPseSet r s

theorem keep_execPseGetStatus (r : Req) (s : State) : Goes s (execPseGetStatus r s) := keep_command keep_specPseGetStatus r s

theorem keep_execTrainingClear (r : Req) (s : State) : Goes s (execTrainingClear r s) := keep_command keep_specTrainingClear r s

end Sys2Proof.Machine
end

