-- ==== Sys2Proof/Laws/GatewayOps.lean ====
section
/-! SUPPORT. Laws of Machine/GatewayOps.lean: each operation keeps the queue of waiting commands and soundness; each meaning goes on. -/

namespace Sys2Proof.Machine

theorem keep_State_modLeg {z0 : State} (s : State) (f : Legacy → Legacy) (h : Keeps z0 s) : Keeps z0 (State.modLeg s f) := by
  unfold State.modLeg
  try dsimp -proj only
  repeat' first
    | with_reducible exact h
    | (simp -proj only [keeps_mk]; with_reducible refine KeepsParts.of rfl ?_ ?_ ?_ ?_ ?_ ?_)
    | with_reducible exact fun i => i
    | with_reducible assumption
    | with_reducible exact fun _ i => i
    | exact fun i => by simpa using i

theorem keep_State_modGw {z0 : State} (s : State) (f : Gateway → Gateway) (h : Keeps z0 s) : Keeps z0 (State.modGw s f) := by
  unfold State.modGw
  try dsimp -proj only
  repeat' first
    | with_reducible exact h
    | (simp -proj only [keeps_mk]; with_reducible refine KeepsParts.of rfl ?_ ?_ ?_ ?_ ?_ ?_)
    | with_reducible exact fun i => i
    | with_reducible assumption
    | with_reducible exact fun _ i => i
    | exact fun i => by simpa using i

theorem keep_modChan {z0 : State} (s : State) (c : Nat) (f : ChanRun → ChanRun) (h : Keeps z0 s) : Keeps z0 (modChan s c f) := by
  unfold modChan
  try dsimp -proj only
  repeat' first
    | with_reducible exact h
    | with_reducible apply keep_State_modLeg
    | (simp -proj only [keeps_mk]; with_reducible refine KeepsParts.of rfl ?_ ?_ ?_ ?_ ?_ ?_)
    | with_reducible exact fun i => i
    | with_reducible assumption
    | with_reducible exact fun _ i => i
    | exact fun i => by simpa using i

theorem keep_chanCount {z0 : State} (s : State) (c pos n : Nat) (h : Keeps z0 s) : Keeps z0 (chanCount s c pos n) := by
  unfold chanCount
  try dsimp -proj only
  repeat' first
    | with_reducible exact h
    | with_reducible apply keep_modChan
    | (simp -proj only [keeps_mk]; with_reducible refine KeepsParts.of rfl ?_ ?_ ?_ ?_ ?_ ?_)
    | with_reducible exact fun i => i
    | with_reducible assumption
    | with_reducible exact fun _ i => i
    | exact fun i => by simpa using i

theorem keep_chanCount7 {z0 : State} (s : State) (c half n : Nat) (h : Keeps z0 s) : Keeps z0 (chanCount7 s c half n) := by
  unfold chanCount7
  try dsimp -proj only
  repeat' first
    | with_reducible exact h
    | with_reducible apply Keeps.ite
    | with_reducible apply keep_modChan
    | (simp -proj only [keeps_mk]; with_reducible refine KeepsParts.of rfl ?_ ?_ ?_ ?_ ?_ ?_)
    | with_reducible exact fun i => i
    | with_reducible assumption
    | with_reducible exact fun _ i => i
    | split
    | exact fun i => by simpa using i

theorem keep_chanRx {z0 : State} (s : State) (c : Nat) (h : Keeps z0 s) : Keeps z0 (chanRx s c) := by
  unfold chanRx
  try dsimp -proj only
  repeat' first
    | with_reducible exact h
    | with_reducible apply keep_modChan
    | (simp -proj only [keeps_mk]; with_reducible refine KeepsParts.of rfl ?_ ?_ ?_ ?_ ?_ ?_)
    | with_reducible exact fun i => i
    | with_reducible assumption
    | with_reducible exact fun _ i => i
    | exact fun i => by simpa using i

theorem keep_chanTx {z0 : State} (s : State) (c : Nat) (h : Keeps z0 s) : Keeps z0 (chanTx s c) := by
  unfold chanTx
  try dsimp -proj only
  repeat' first
    | with_reducible exact h
    | with_reducible apply keep_modChan
    | (simp -proj only [keeps_mk]; with_reducible refine KeepsParts.of rfl ?_ ?_ ?_ ?_ ?_ ?_)
    | with_reducible exact fun i => i
    | with_reducible assumption
    | with_reducible exact fun _ i => i
    | exact fun i => by simpa using i

theorem keep_restartDrop {z0 : State} (s : State) (c : Nat) (h : Keeps z0 s) : Keeps z0 (restartDrop s c) := by
  unfold restartDrop
  try dsimp -proj only
  repeat' first
    | with_reducible exact h
    | with_reducible apply Keeps.ite
    | with_reducible apply keep_chanCount7
    | with_reducible apply keep_chanCount
    | with_reducible assumption
    | split

theorem keep_modCan {z0 : State} (s : State) (c : Nat) (f : CanRun → CanRun) (h : Keeps z0 s) : Keeps z0 (modCan s c f) := by
  unfold modCan
  try dsimp -proj only
  repeat' first
    | with_reducible exact h
    | with_reducible apply keep_State_modLeg
    | (simp -proj only [keeps_mk]; with_reducible refine KeepsParts.of rfl ?_ ?_ ?_ ?_ ?_ ?_)
    | with_reducible exact fun i => i
    | with_reducible assumption
    | with_reducible exact fun _ i => i
    | exact fun i => by simpa using i

theorem keep_modMvb {z0 : State} (s : State) (c : Nat) (f : MvbRun → MvbRun) (h : Keeps z0 s) : Keeps z0 (modMvb s c f) := by
  unfold modMvb
  try dsimp -proj only
  repeat' first
    | with_reducible exact h
    | with_reducible apply keep_State_modLeg
    | (simp -proj only [keeps_mk]; with_reducible refine KeepsParts.of rfl ?_ ?_ ?_ ?_ ?_ ?_)
    | with_reducible exact fun i => i
    | with_reducible assumption
    | with_reducible exact fun _ i => i
    | exact fun i => by simpa using i

theorem keep_modMvbPort {z0 : State} (s : State) (c p : Nat) (f : MvbPortRun → MvbPortRun) (h : Keeps z0 s) : Keeps z0 (modMvbPort s c p f) := by
  unfold modMvbPort
  try dsimp -proj only
  repeat' first
    | with_reducible exact h
    | with_reducible apply keep_State_modLeg
    | (simp -proj only [keeps_mk]; with_reducible refine KeepsParts.of rfl ?_ ?_ ?_ ?_ ?_ ?_)
    | with_reducible exact fun i => i
    | with_reducible assumption
    | with_reducible exact fun _ i => i
    | exact fun i => by simpa using i

theorem keep_modSer {z0 : State} (s : State) (c : Nat) (f : SerialRun → SerialRun) (h : Keeps z0 s) : Keeps z0 (modSer s c f) := by
  unfold modSer
  try dsimp -proj only
  repeat' first
    | with_reducible exact h
    | with_reducible apply keep_State_modLeg
    | (simp -proj only [keeps_mk]; with_reducible refine KeepsParts.of rfl ?_ ?_ ?_ ?_ ?_ ?_)
    | with_reducible exact fun i => i
    | with_reducible assumption
    | with_reducible exact fun _ i => i
    | exact fun i => by simpa using i

theorem keep_modLin {z0 : State} (s : State) (c : Nat) (f : LinRun → LinRun) (h : Keeps z0 s) : Keeps z0 (modLin s c f) := by
  unfold modLin
  try dsimp -proj only
  repeat' first
    | with_reducible exact h
    | with_reducible apply keep_State_modLeg
    | (simp -proj only [keeps_mk]; with_reducible refine KeepsParts.of rfl ?_ ?_ ?_ ?_ ?_ ?_)
    | with_reducible exact fun i => i
    | with_reducible assumption
    | with_reducible exact fun _ i => i
    | exact fun i => by simpa using i

theorem keep_modDio {z0 : State} (s : State) (c : Nat) (f : DioRun → DioRun) (h : Keeps z0 s) : Keeps z0 (modDio s c f) := by
  unfold modDio
  try dsimp -proj only
  repeat' first
    | with_reducible exact h
    | with_reducible apply keep_State_modLeg
    | (simp -proj only [keeps_mk]; with_reducible refine KeepsParts.of rfl ?_ ?_ ?_ ?_ ?_ ?_)
    | with_reducible exact fun i => i
    | with_reducible assumption
    | with_reducible exact fun _ i => i
    | exact fun i => by simpa using i

theorem keep_modEngine {z0 : State} (s : State) (e : Nat) (f : Engine → Engine) (h : Keeps z0 s) : Keeps z0 (modEngine s e f) := by
  unfold modEngine
  try dsimp -proj only
  repeat' first
    | with_reducible exact h
    | with_reducible apply keep_State_modLeg
    | (simp -proj only [keeps_mk]; with_reducible refine KeepsParts.of rfl ?_ ?_ ?_ ?_ ?_ ?_)
    | with_reducible exact fun i => i
    | with_reducible assumption
    | with_reducible exact fun _ i => i
    | exact fun i => by simpa using i

theorem keep_stampChans {z0 : State} (s s1 : State) (h : Keeps z0 s1) : Keeps z0 (stampChans s s1) := by
  unfold stampChans
  try dsimp -proj only
  repeat' first
    | with_reducible exact h
    | with_reducible apply keep_modChan
    | (simp -proj only [keeps_mk]; with_reducible refine KeepsParts.of rfl ?_ ?_ ?_ ?_ ?_ ?_)
    | with_reducible exact fun i => i
    | with_reducible apply Keeps.foldl
    | (intro r x hr; try dsimp -proj only)
    | with_reducible assumption
    | with_reducible exact fun _ i => i
    | exact fun i => by simpa using i

theorem keep_legRow (s : State) (f : State → State) (hf : ∀ r, Keeps s r → Keeps s (f r)) : Goes s (legRow s f) :=
  .next (keep_stampChans s (f s) (hf s (.refl s)))
theorem keep_gwCount {z0 : State} (s : State) (tbl idx pos n : Nat) (h : Keeps z0 s) : Keeps z0 (gwCount s tbl idx pos n) := by
  unfold gwCount
  try dsimp -proj only
  repeat' first
    | with_reducible exact h
    | with_reducible apply keep_State_modGw
    | (simp -proj only [keeps_mk]; with_reducible refine KeepsParts.of rfl ?_ ?_ ?_ ?_ ?_ ?_)
    | with_reducible exact fun i => i
    | with_reducible assumption
    | with_reducible exact fun _ i => i
    | exact fun i => by simpa using i

theorem keep_raisePosted {z0 : State} (s : State) (tx : TxMsg) (cause : Nat) (h : Keeps z0 s) : Keeps z0 (raisePosted s tx cause) := by
  unfold raisePosted
  try dsimp -proj only
  repeat' first
    | with_reducible exact h
    | with_reducible apply Keeps.ite
    | with_reducible apply keep_State_modGw
    | with_reducible apply keep_logPut
    | with_reducible apply keep_emit
    | (simp -proj only [keeps_mk]; with_reducible refine KeepsParts.of rfl ?_ ?_ ?_ ?_ ?_ ?_)
    | with_reducible exact fun i => i
    | with_reducible assumption
    | with_reducible exact fun _ i => i
    | split
    | exact fun i => by simpa using i

theorem keep_postedFail {z0 : State} (s : State) (tx : TxMsg) (cause : Nat) (h : Keeps z0 s) : Keeps z0 (postedFail s tx cause) := by
  unfold postedFail
  try dsimp -proj only
  repeat' first
    | with_reducible exact h
    | with_reducible apply keep_raisePosted
    | with_reducible apply keep_gwCount
    | (simp -proj only [keeps_mk]; with_reducible refine KeepsParts.of rfl ?_ ?_ ?_ ?_ ?_ ?_)
    | with_reducible exact fun i => i
    | with_reducible assumption
    | with_reducible exact fun _ i => i
    | split
    | exact fun i => by simpa using i

theorem keep_issueToken {z0 : State} (s : State) (src opcode : Nat) (payload : List Byte) (hint : Nat) (fetch : FetchState) (object : Nat)
    (h : Keeps z0 s) : Keeps z0 (issueToken s src opcode payload hint fetch object).2 :=
  keeps_mk.2 (.of (t := s.modMb _) rfl (h.modMb fun i => ⟨i.1, i.2, i.3⟩) id id id id id)
theorem keep_dropToken {z0 : State} (s : State) (tok : Nat) (h : Keeps z0 s) : Keeps z0 (dropToken s tok) := by
  unfold dropToken
  try dsimp -proj only
  repeat' first
    | with_reducible exact h
    | with_reducible apply Keeps.modMb
    | (simp -proj only [keeps_mk]; with_reducible refine KeepsParts.of rfl ?_ ?_ ?_ ?_ ?_ ?_)
    | with_reducible exact fun i => i
    | with_reducible exact fun i => InvMb.mk i.1 i.2 i.3
    | with_reducible assumption
    | with_reducible exact fun _ i => i
    | exact fun i => keepMb i (by simp [i.1]) (by simp [i.2]) (by intro hw; repeat' first | with_reducible exact hw | with_reducible apply wf_mwrite | with_reducible apply wf_mset | exact rfl)
    | exact fun i => by simpa using i

theorem keep_renewToken {z0 : State} (s : State) (tok hint : Nat) (h : Keeps z0 s) : Keeps z0 (renewToken s tok hint) := by
  unfold renewToken
  try dsimp -proj only
  repeat' first
    | with_reducible exact h
    | with_reducible apply Keeps.ite
    | with_reducible apply Keeps.modMb
    | (simp -proj only [keeps_mk]; with_reducible refine KeepsParts.of rfl ?_ ?_ ?_ ?_ ?_ ?_)
    | with_reducible exact fun i => i
    | with_reducible exact fun i => InvMb.mk i.1 i.2 i.3
    | with_reducible assumption
    | with_reducible exact fun _ i => i
    | split
    | exact fun i => keepMb i (by simp [i.1]) (by simp [i.2]) (by intro hw; repeat' first | with_reducible exact hw | with_reducible apply wf_mwrite | with_reducible apply wf_mset | exact rfl)
    | exact fun i => by simpa using i

theorem keep_setFetch {z0 : State} (s : State) (tok : Nat) (f : FetchState) (h : Keeps z0 s) : Keeps z0 (setFetch s tok f) := by
  unfold setFetch
  try dsimp -proj only
  repeat' first
    | with_reducible exact h
    | with_reducible apply Keeps.ite
    | with_reducible apply Keeps.modMb
    | (simp -proj only [keeps_mk]; with_reducible refine KeepsParts.of rfl ?_ ?_ ?_ ?_ ?_ ?_)
    | with_reducible exact fun i => i
    | with_reducible exact fun i => InvMb.mk i.1 i.2 i.3
    | with_reducible assumption
    | with_reducible exact fun _ i => i
    | split
    | exact fun i => keepMb i (by simp [i.1]) (by simp [i.2]) (by intro hw; repeat' first | with_reducible exact hw | with_reducible apply wf_mwrite | with_reducible apply wf_mset | exact rfl)
    | exact fun i => by simpa using i

theorem keep_fetchFail {z0 : State} (s : State) (tok status cause : Nat) (h : Keeps z0 s) : Keeps z0 (fetchFail s tok status cause) := by
  unfold fetchFail
  try dsimp -proj only
  repeat' first
    | with_reducible exact h
    | with_reducible apply Keeps.ite
    | with_reducible apply keep_setFetch
    | with_reducible apply keep_State_modGw
    | with_reducible apply keep_raise
    | with_reducible apply keep_gwCount
    | (simp -proj only [keeps_mk]; with_reducible refine KeepsParts.of rfl ?_ ?_ ?_ ?_ ?_ ?_)
    | with_reducible exact fun i => i
    | with_reducible assumption
    | with_reducible exact fun _ i => i
    | split
    | exact fun i => by simpa using i

theorem keep_failTx {z0 : State} (s : State) (tx : TxMsg) (cause fetchCause : Nat) (h : Keeps z0 s) : Keeps z0 (failTx s tx cause fetchCause) := by
  unfold failTx
  try dsimp -proj only
  repeat' first
    | with_reducible exact h
    | with_reducible apply Keeps.ite
    | with_reducible apply keep_fetchFail
    | with_reducible apply keep_postedFail
    | (simp -proj only [keeps_mk]; with_reducible refine KeepsParts.of rfl ?_ ?_ ?_ ?_ ?_ ?_)
    | with_reducible exact fun i => i
    | with_reducible assumption
    | with_reducible exact fun _ i => i
    | split
    | exact fun i => by simpa using i

theorem keep_fifoPush {z0 : State} (s : State) (m : BusMsg) (h : Keeps z0 s) : Keeps z0 (fifoPush s m) := by
  unfold fifoPush
  try dsimp -proj only
  repeat' first
    | with_reducible exact h
    | with_reducible apply Keeps.ite
    | with_reducible apply keep_modChan
    | with_reducible apply keep_modEngine
    | (simp -proj only [keeps_mk]; with_reducible refine KeepsParts.of rfl ?_ ?_ ?_ ?_ ?_ ?_)
    | with_reducible exact fun i => i
    | with_reducible assumption
    | with_reducible exact fun _ i => i
    | split
    | exact fun i => by simpa using i

theorem keep_sideBand {z0 : State} (s : State) (c code : Nat) (detail : List Byte) (h : Keeps z0 s) : Keeps z0 (sideBand s c code detail) := by
  unfold sideBand
  try dsimp -proj only
  repeat' first
    | with_reducible exact h
    | with_reducible apply keep_fifoPush
    | with_reducible assumption

theorem keep_noteSeen {z0 : State} (s : State) (c ident : Nat) (h : Keeps z0 s) : Keeps z0 (noteSeen s c ident) := by
  unfold noteSeen
  try dsimp -proj only
  repeat' first
    | with_reducible exact h
    | with_reducible apply keep_State_modGw
    | (simp -proj only [keeps_mk]; with_reducible refine KeepsParts.of rfl ?_ ?_ ?_ ?_ ?_ ?_)
    | with_reducible exact fun i => i
    | with_reducible assumption
    | with_reducible exact fun _ i => i
    | split
    | exact fun i => by simpa using i

theorem keep_serApply {z0 : State} (s : State) (c : Nat) (k : SerialCfg) (h : Keeps z0 s) : Keeps z0 (serApply s c k) := by
  unfold serApply
  try dsimp -proj only
  repeat' first
    | with_reducible exact h
    | with_reducible apply Keeps.ite
    | with_reducible apply keep_modSer
    | with_reducible apply keep_State_modLeg
    | with_reducible apply keep_failTx
    | with_reducible apply keep_modChan
    | (simp -proj only [keeps_mk]; with_reducible refine KeepsParts.of rfl ?_ ?_ ?_ ?_ ?_ ?_)
    | with_reducible exact fun i => i
    | with_reducible apply Keeps.foldl
    | (intro r x hr; try dsimp -proj only)
    | with_reducible assumption
    | with_reducible exact fun _ i => i
    | split
    | exact fun i => by simpa using i

theorem keep_serialPump {z0 : State}  (x1 : Nat) (s : State) (x2 : Nat) (h : Keeps z0 s) : Keeps z0 (serialPump x1 s x2) := by
  induction x1 generalizing s x2 with
  | zero => exact h
  | succ n ih =>
    unfold serialPump
    try dsimp -proj only
    repeat' first
      | with_reducible exact h
      | with_reducible apply Keeps.ite
      | with_reducible apply ih
      | with_reducible apply keep_serApply
      | with_reducible apply keep_chanTx
      | with_reducible apply keep_modChan
      | with_reducible apply keep_State_modGw
      | with_reducible apply keep_modSer
      | (simp -proj only [keeps_mk]; with_reducible refine KeepsParts.of rfl ?_ ?_ ?_ ?_ ?_ ?_)
      | with_reducible exact fun i => i
      | with_reducible assumption
      | with_reducible exact fun _ i => i
      | split
      | exact fun i => by simpa using i

theorem keep_queueTx {z0 : State} (s : State) (tx : TxMsg) (h : Keeps z0 s) : Keeps z0 (queueTx s tx) := by
  unfold queueTx
  try dsimp -proj only
  repeat' first
    | with_reducible exact h
    | with_reducible apply Keeps.ite
    | with_reducible apply keep_gwCount
    | with_reducible apply keep_modChan
    | with_reducible apply keep_postedFail
    | with_reducible apply keep_failTx
    | (simp -proj only [keeps_mk]; with_reducible refine KeepsParts.of rfl ?_ ?_ ?_ ?_ ?_ ?_)
    | with_reducible exact fun i => i
    | with_reducible assumption
    | with_reducible exact fun _ i => i
    | split
    | exact fun i => by simpa using i

theorem keep_tpAbort {z0 : State} (s : State) (c : Nat) (x : TpSession) (reason : Nat) (h : Keeps z0 s) : Keeps z0 (tpAbort s c x reason) := by
  unfold tpAbort
  try dsimp -proj only
  repeat' first
    | with_reducible exact h
    | with_reducible apply keep_raise
    | with_reducible apply keep_chanCount
    | with_reducible assumption

theorem keep_tpOpen {z0 : State} (s : State) (tx : TxMsg) (h : Keeps z0 s) : Keeps z0 (tpOpen s tx) := by
  unfold tpOpen
  try dsimp -proj only
  repeat' first
    | with_reducible exact h
    | with_reducible apply Keeps.ite
    | with_reducible apply keep_tpAbort
    | with_reducible apply keep_modCan
    | (simp -proj only [keeps_mk]; with_reducible refine KeepsParts.of rfl ?_ ?_ ?_ ?_ ?_ ?_)
    | with_reducible exact fun i => i
    | with_reducible assumption
    | with_reducible exact fun _ i => i
    | split
    | exact fun i => by simpa using i

theorem keep_restartFail {z0 : State} (s : State) (tx : TxMsg) (h : Keeps z0 s) : Keeps z0 (restartFail s tx) := by
  unfold restartFail
  try dsimp -proj only
  repeat' first
    | with_reducible exact h
    | with_reducible apply Keeps.ite
    | with_reducible apply keep_gwCount
    | with_reducible apply keep_postedFail
    | with_reducible apply keep_modEngine
    | with_reducible apply keep_failTx
    | (simp -proj only [keeps_mk]; with_reducible refine KeepsParts.of rfl ?_ ?_ ?_ ?_ ?_ ?_)
    | with_reducible exact fun i => i
    | with_reducible assumption
    | with_reducible exact fun _ i => i
    | split
    | exact fun i => by simpa using i

theorem keep_toChannel {z0 : State} (s : State) (tx : TxMsg) (h : Keeps z0 s) : Keeps z0 (toChannel s tx) := by
  unfold toChannel
  try dsimp -proj only
  repeat' first
    | with_reducible exact h
    | with_reducible apply Keeps.ite
    | with_reducible apply keep_failTx
    | with_reducible apply keep_restartFail
    | with_reducible apply keep_restartDrop
    | with_reducible apply keep_chanCount
    | with_reducible apply keep_tpOpen
    | with_reducible apply keep_queueTx
    | with_reducible apply keep_modMvbPort
    | with_reducible apply keep_serialPump
    | with_reducible apply keep_modLin
    | with_reducible apply keep_chanTx
    | with_reducible apply keep_modDio
    | (simp -proj only [keeps_mk]; with_reducible refine KeepsParts.of rfl ?_ ?_ ?_ ?_ ?_ ?_)
    | with_reducible exact fun i => i
    | with_reducible assumption
    | with_reducible exact fun _ i => i
    | split
    | exact fun i => by simpa using i

theorem keep_endLock {z0 : State} (s : State) (c : Nat) (h : Keeps z0 s) : Keeps z0 (endLock s c) := by
  unfold endLock
  try dsimp -proj only
  repeat' first
    | with_reducible exact h
    | with_reducible apply keep_State_modGw
    | with_reducible apply keep_serialPump
    | (simp -proj only [keeps_mk]; with_reducible refine KeepsParts.of rfl ?_ ?_ ?_ ?_ ?_ ?_)
    | with_reducible exact fun i => i
    | with_reducible assumption
    | with_reducible exact fun _ i => i
    | split
    | exact fun i => by simpa using i

theorem keep_failOwned {z0 : State} (s : State) (c : Nat) (l : GwLock) (h : Keeps z0 s) : Keeps z0 (failOwned s c l) := by
  unfold failOwned
  try dsimp -proj only
  repeat' first
    | with_reducible exact h
    | with_reducible apply keep_postedFail
    | with_reducible apply keep_modChan
    | (simp -proj only [keeps_mk]; with_reducible refine KeepsParts.of rfl ?_ ?_ ?_ ?_ ?_ ?_)
    | with_reducible exact fun i => i
    | with_reducible apply Keeps.foldl
    | (intro r x hr; try dsimp -proj only)
    | with_reducible assumption
    | with_reducible exact fun _ i => i
    | exact fun i => by simpa using i

theorem keep_breakLock {z0 : State} (s : State) (c cause : Nat) (h : Keeps z0 s) : Keeps z0 (breakLock s c cause) := by
  unfold breakLock
  try dsimp -proj only
  repeat' first
    | with_reducible exact h
    | with_reducible apply Keeps.ite
    | with_reducible apply keep_modSer
    | with_reducible apply keep_fetchFail
    | with_reducible apply keep_postedFail
    | with_reducible apply keep_raise
    | with_reducible apply keep_gwCount
    | with_reducible apply keep_endLock
    | with_reducible apply keep_failOwned
    | (simp -proj only [keeps_mk]; with_reducible refine KeepsParts.of rfl ?_ ?_ ?_ ?_ ?_ ?_)
    | with_reducible exact fun i => i
    | with_reducible assumption
    | with_reducible exact fun _ i => i
    | split
    | exact fun i => by simpa using i

theorem keep_breakLocks {z0 : State} (s : State) (which : GwLock → Bool) (cause : Nat) (h : Keeps z0 s) : Keeps z0 (breakLocks s which cause) := by
  unfold breakLocks
  try dsimp -proj only
  repeat' first
    | with_reducible exact h
    | with_reducible apply keep_breakLock
    | (simp -proj only [keeps_mk]; with_reducible refine KeepsParts.of rfl ?_ ?_ ?_ ?_ ?_ ?_)
    | with_reducible apply Keeps.foldl
    | (intro r x hr; try dsimp -proj only)
    | with_reducible assumption

theorem keep_targetCheck {z0 : State} (s : State) (epoch zone t : Nat) (h : Keeps z0 s) : Keeps z0 (targetCheck s epoch zone t).2 := by
  unfold targetCheck
  try dsimp -proj only
  repeat' first
    | with_reducible exact h
    | with_reducible apply Keeps.ite
    | (with_reducible refine Keeps.snd (by assumption) ?_; with_reducible apply keep_gatewayCheck)
    | with_reducible apply keep_gatewayCheck
    | (simp -proj only [keeps_mk]; with_reducible refine KeepsParts.of rfl ?_ ?_ ?_ ?_ ?_ ?_)
    | with_reducible exact fun i => i
    | with_reducible assumption
    | with_reducible exact fun _ i => i
    | split
    | exact fun i => by simpa using i

theorem keep_permitMask {z0 : State} (s : State) (epoch zone : Nat) (x1 : List Nat) (x2 : Nat) (h : Keeps z0 s) :
    Keeps z0 (permitMask s epoch zone x1 x2).2 := by
  induction x1 generalizing s x2 with
  | nil => exact h
  | cons y ys ih => exact ih _ _ (keep_targetCheck _ _ _ _ h)
theorem keep_latchInput {z0 : State} (s : State) (x : GwInput) (h : Keeps z0 s) : Keeps z0 (latchInput s x) := by
  unfold latchInput
  try dsimp -proj only
  repeat' first
    | with_reducible exact h
    | with_reducible apply Keeps.ite
    | with_reducible apply keep_gwCount
    | (with_reducible refine Keeps.snd (by assumption) ?_; with_reducible apply keep_permitMask)
    | with_reducible apply keep_permitMask
    | with_reducible apply keep_State_modGw
    | (simp -proj only [keeps_mk]; with_reducible refine KeepsParts.of rfl ?_ ?_ ?_ ?_ ?_ ?_)
    | with_reducible exact fun i => i
    | with_reducible assumption
    | with_reducible exact fun _ i => i
    | split
    | exact fun i => by simpa using i

theorem keep_updateStatus {z0 : State} (s : State) (c code : Nat) (data : List Byte) (h : Keeps z0 s) : Keeps z0 (updateStatus s c code data) := by
  unfold updateStatus
  try dsimp -proj only
  repeat' first
    | with_reducible exact h
    | with_reducible apply Keeps.ite
    | with_reducible apply keep_State_modGw
    | (simp -proj only [keeps_mk]; with_reducible refine KeepsParts.of rfl ?_ ?_ ?_ ?_ ?_ ?_)
    | with_reducible exact fun i => i
    | with_reducible assumption
    | with_reducible exact fun _ i => i
    | split
    | exact fun i => by simpa using i

theorem keep_engineIndication {z0 : State} (s : State) (e code : Nat) (h : Keeps z0 s) : Keeps z0 (engineIndication s e code) := by
  unfold engineIndication
  try dsimp -proj only
  repeat' first
    | with_reducible exact h
    | with_reducible apply keep_latchInput
    | with_reducible apply keep_updateStatus
    | (simp -proj only [keeps_mk]; with_reducible refine KeepsParts.of rfl ?_ ?_ ?_ ?_ ?_ ?_)
    | with_reducible apply Keeps.foldl
    | (intro r x hr; try dsimp -proj only)
    | with_reducible assumption

end Sys2Proof.Machine
end

