-- ==== Sys2Proof/Laws/LegacyRun.lean ====
section
/-! SUPPORT. Laws of Machine/LegacyRun.lean: each operation keeps the queue of waiting commands and soundness; each meaning goes on. -/

namespace Sys2Proof.Machine

theorem keep_raiseCan {z0 : State} (s : State) (c kind : Nat) (h : Keeps z0 s) : Keeps z0 (raiseCan s c kind) := by
  unfold raiseCan
  try dsimp -proj only
  repeat' first
    | with_reducible exact h
    | with_reducible apply Keeps.ite
    | with_reducible apply keep_raise
    | with_reducible apply keep_sideBand
    | (simp -proj only [keeps_mk]; with_reducible refine KeepsParts.of rfl ?_ ?_ ?_ ?_ ?_ ?_)
    | with_reducible exact fun i => i
    | with_reducible assumption
    | with_reducible exact fun _ i => i
    | split
    | exact fun i => by simpa using i

theorem keep_busOff {z0 : State} (s : State) (c : Nat) (h : Keeps z0 s) : Keeps z0 (busOff s c) := by
  unfold busOff
  try dsimp -proj only
  repeat' first
    | with_reducible exact h
    | with_reducible apply keep_chanCount
    | with_reducible apply keep_modChan
    | with_reducible apply keep_raiseCan
    | with_reducible apply keep_modCan
    | with_reducible apply keep_failTx
    | (simp -proj only [keeps_mk]; with_reducible refine KeepsParts.of rfl ?_ ?_ ?_ ?_ ?_ ?_)
    | with_reducible exact fun i => i
    | with_reducible apply Keeps.foldl
    | (intro r x hr; try dsimp -proj only)
    | with_reducible assumption
    | with_reducible exact fun _ i => i
    | exact fun i => by simpa using i

theorem keep_setErrors {z0 : State} (s : State) (c tec rec_ : Nat) (h : Keeps z0 s) : Keeps z0 (setErrors s c tec rec_) := by
  unfold setErrors
  try dsimp -proj only
  repeat' first
    | with_reducible exact h
    | with_reducible apply Keeps.ite
    | with_reducible apply keep_modCan
    | with_reducible apply keep_busOff
    | with_reducible apply keep_raiseCan
    | (simp -proj only [keeps_mk]; with_reducible refine KeepsParts.of rfl ?_ ?_ ?_ ?_ ?_ ?_)
    | with_reducible exact fun i => i
    | with_reducible assumption
    | with_reducible exact fun _ i => i
    | split
    | exact fun i => by simpa using i

theorem keep_canReceive {z0 : State} (s : State) (c : Nat) (m : BusMsg) (h : Keeps z0 s) : Keeps z0 (canReceive s c m) := by
  unfold canReceive
  try dsimp -proj only
  repeat' first
    | with_reducible exact h
    | with_reducible apply Keeps.ite
    | with_reducible apply keep_fifoPush
    | with_reducible apply keep_noteSeen
    | with_reducible apply keep_chanRx
    | (simp -proj only [keeps_mk]; with_reducible refine KeepsParts.of rfl ?_ ?_ ?_ ?_ ?_ ?_)
    | with_reducible exact fun i => i
    | with_reducible assumption
    | with_reducible exact fun _ i => i
    | split
    | exact fun i => by simpa using i

theorem keep_tpDrop {z0 : State} (s : State) (c : Nat) (x : TpSession) (h : Keeps z0 s) : Keeps z0 (tpDrop s c x) := by
  unfold tpDrop
  try dsimp -proj only
  repeat' first
    | with_reducible exact h
    | with_reducible apply keep_modCan
    | (simp -proj only [keeps_mk]; with_reducible refine KeepsParts.of rfl ?_ ?_ ?_ ?_ ?_ ?_)
    | with_reducible exact fun i => i
    | with_reducible assumption
    | with_reducible exact fun _ i => i
    | exact fun i => by simpa using i

theorem keep_tpSet {z0 : State} (s : State) (c : Nat) (x y : TpSession) (h : Keeps z0 s) : Keeps z0 (tpSet s c x y) := by
  unfold tpSet
  try dsimp -proj only
  repeat' first
    | with_reducible exact h
    | with_reducible apply Keeps.ite
    | with_reducible apply keep_modCan
    | (simp -proj only [keeps_mk]; with_reducible refine KeepsParts.of rfl ?_ ?_ ?_ ?_ ?_ ?_)
    | with_reducible exact fun i => i
    | with_reducible assumption
    | with_reducible exact fun _ i => i
    | split
    | exact fun i => by simpa using i

theorem keep_tpDeliver {z0 : State} (s : State) (c : Nat) (x : TpSession) (h : Keeps z0 s) : Keeps z0 (tpDeliver s c x) := by
  unfold tpDeliver
  try dsimp -proj only
  repeat' first
    | with_reducible exact h
    | with_reducible apply Keeps.ite
    | with_reducible apply keep_fifoPush
    | with_reducible apply keep_noteSeen
    | with_reducible apply keep_chanRx
    | with_reducible apply keep_tpDrop
    | with_reducible assumption
    | split

theorem keep_tpReceive {z0 : State} (s : State) (c : Nat) (m : BusMsg) (h : Keeps z0 s) : Keeps z0 (tpReceive s c m) := by
  unfold tpReceive
  try dsimp -proj only
  repeat' first
    | with_reducible exact h
    | with_reducible apply Keeps.ite
    | with_reducible apply keep_tpAbort
    | with_reducible apply keep_modCan
    | with_reducible apply keep_tpSet
    | with_reducible apply keep_chanTx
    | with_reducible apply keep_tpDrop
    | with_reducible apply keep_tpDeliver
    | (simp -proj only [keeps_mk]; with_reducible refine KeepsParts.of rfl ?_ ?_ ?_ ?_ ?_ ?_)
    | with_reducible exact fun i => i
    | with_reducible assumption
    | with_reducible exact fun _ i => i
    | split
    | exact fun i => by simpa using i

theorem keep_tpSend {z0 : State} (s : State) (c peer : Nat) (h : Keeps z0 s) : Keeps z0 (tpSend s c peer) := by
  unfold tpSend
  try dsimp -proj only
  repeat' first
    | with_reducible exact h
    | with_reducible apply Keeps.ite
    | with_reducible apply keep_chanTx
    | with_reducible apply keep_tpDrop
    | with_reducible apply keep_tpSet
    | (simp -proj only [keeps_mk]; with_reducible refine KeepsParts.of rfl ?_ ?_ ?_ ?_ ?_ ?_)
    | with_reducible exact fun i => i
    | with_reducible assumption
    | with_reducible exact fun _ i => i
    | split
    | exact fun i => by simpa using i

theorem keep_execCanFrameRx (c kind flags ident : Nat) (data : List Byte) (s : State) : Goes s (execCanFrameRx c kind flags ident data s) := by
  have h := Keeps.refl s
  unfold execCanFrameRx
  try dsimp -proj only
  repeat' first
    | with_reducible exact h
    | with_reducible apply Keeps.ite
    | with_reducible apply Goes.ite
    | with_reducible apply Goes.next
    | with_reducible apply keep_legRow
    | with_reducible apply keep_chanCount7
    | with_reducible apply keep_canReceive
    | with_reducible apply keep_setErrors
    | with_reducible apply keep_tpReceive
    | (intro r hr; try dsimp -proj only)
    | with_reducible assumption
    | split

theorem keep_execCanTxComplete (c : Nat) (lost : Bool) (s : State) : Goes s (execCanTxComplete c lost s) := by
  have h := Keeps.refl s
  unfold execCanTxComplete
  try dsimp -proj only
  repeat' first
    | with_reducible exact h
    | with_reducible apply Keeps.ite
    | with_reducible apply Goes.ite
    | with_reducible apply Goes.next
    | with_reducible apply keep_legRow
    | with_reducible apply keep_chanCount
    | with_reducible apply keep_chanTx
    | with_reducible apply keep_modChan
    | with_reducible apply keep_setErrors
    | with_reducible apply keep_canReceive
    | (simp -proj only [keeps_mk]; with_reducible refine KeepsParts.of rfl ?_ ?_ ?_ ?_ ?_ ?_)
    | with_reducible exact fun i => i
    | (intro r hr; try dsimp -proj only)
    | with_reducible assumption
    | with_reducible exact fun _ i => i
    | split
    | exact fun i => by simpa using i

theorem keep_execCanErrorDetected (c : Nat) (sending : Bool) (tec rec_ : Nat) (s : State) : Goes s (execCanErrorDetected c sending tec rec_ s) := by
  have h := Keeps.refl s
  unfold execCanErrorDetected
  try dsimp -proj only
  repeat' first
    | with_reducible exact h
    | with_reducible apply Keeps.ite
    | with_reducible apply Goes.ite
    | with_reducible apply Goes.next
    | with_reducible apply keep_legRow
    | with_reducible apply keep_setErrors
    | with_reducible apply keep_chanCount
    | (intro r hr; try dsimp -proj only)
    | with_reducible assumption
    | split

theorem keep_execCanRecoverWaitExpiry (c : Nat) (s : State) : Goes s (execCanRecoverWaitExpiry c s) := by
  have h := Keeps.refl s
  unfold execCanRecoverWaitExpiry
  try dsimp -proj only
  repeat' first
    | with_reducible exact h
    | with_reducible apply Keeps.ite
    | with_reducible apply Goes.ite
    | with_reducible apply Goes.next
    | with_reducible apply keep_legRow
    | with_reducible apply keep_modCan
    | with_reducible apply keep_State_until
    | (simp -proj only [keeps_mk]; with_reducible refine KeepsParts.of rfl ?_ ?_ ?_ ?_ ?_ ?_)
    | with_reducible exact fun i => i
    | (intro r hr; try dsimp -proj only)
    | with_reducible assumption
    | with_reducible exact fun _ i => i
    | split
    | exact fun i => by simpa using i

theorem keep_execCanRecoveryDone (c : Nat) (s : State) : Goes s (execCanRecoveryDone c s) := by
  have h := Keeps.refl s
  unfold execCanRecoveryDone
  try dsimp -proj only
  repeat' first
    | with_reducible exact h
    | with_reducible apply Keeps.ite
    | with_reducible apply Goes.ite
    | with_reducible apply Goes.next
    | with_reducible apply keep_legRow
    | with_reducible apply keep_raiseCan
    | with_reducible apply keep_modCan
    | (simp -proj only [keeps_mk]; with_reducible refine KeepsParts.of rfl ?_ ?_ ?_ ?_ ?_ ?_)
    | with_reducible exact fun i => i
    | (intro r hr; try dsimp -proj only)
    | with_reducible assumption
    | with_reducible exact fun _ i => i
    | split
    | exact fun i => by simpa using i

theorem keep_execJ1939TpPacket (c : Nat) (received : Bool) (ident : Nat) (data : List Byte) (peer : Nat) (s : State) : Goes s (execJ1939TpPacket c received ident data peer s) := by
  have h := Keeps.refl s
  unfold execJ1939TpPacket
  try dsimp -proj only
  repeat' first
    | with_reducible exact h
    | with_reducible apply Keeps.ite
    | with_reducible apply Goes.ite
    | with_reducible apply Goes.next
    | with_reducible apply keep_legRow
    | with_reducible apply keep_tpReceive
    | with_reducible apply keep_tpSend
    | (intro r hr; try dsimp -proj only)
    | with_reducible assumption
    | split

theorem keep_execJ1939Timeout (c peer which : Nat) (sender bam : Bool) (s : State) : Goes s (execJ1939Timeout c peer which sender bam s) := by
  have h := Keeps.refl s
  unfold execJ1939Timeout
  try dsimp -proj only
  repeat' first
    | with_reducible exact h
    | with_reducible apply Keeps.ite
    | with_reducible apply Goes.ite
    | with_reducible apply Goes.next
    | with_reducible apply keep_legRow
    | with_reducible apply keep_tpAbort
    | with_reducible apply keep_tpDrop
    | (simp -proj only [keeps_mk]; with_reducible refine KeepsParts.of rfl ?_ ?_ ?_ ?_ ?_ ?_)
    | with_reducible exact fun i => i
    | (intro r hr; try dsimp -proj only)
    | with_reducible assumption
    | with_reducible exact fun _ i => i
    | split
    | exact fun i => by simpa using i

theorem keep_raiseLine {z0 : State} (s : State) (c line kind : Nat) (h : Keeps z0 s) : Keeps z0 (raiseLine s c line kind) := by
  unfold raiseLine
  try dsimp -proj only
  repeat' first
    | with_reducible exact h
    | with_reducible apply Keeps.ite
    | with_reducible apply keep_sideBand
    | with_reducible apply keep_raise
    | with_reducible assumption
    | split

theorem keep_lineAfter {z0 : State} (s : State) (c line : Nat) (ok other : Bool) (h : Keeps z0 s) : Keeps z0 (lineAfter s c line ok other) := by
  unfold lineAfter
  try dsimp -proj only
  repeat' first
    | with_reducible exact h
    | with_reducible apply Keeps.ite
    | with_reducible apply keep_modMvb
    | with_reducible apply keep_chanCount
    | with_reducible apply keep_raiseLine
    | with_reducible apply keep_sideBand
    | (simp -proj only [keeps_mk]; with_reducible refine KeepsParts.of rfl ?_ ?_ ?_ ?_ ?_ ?_)
    | with_reducible exact fun i => i
    | with_reducible assumption
    | with_reducible exact fun _ i => i
    | split
    | exact fun i => by simpa using i

theorem keep_raiseSink {z0 : State} (s : State) (c port : Nat) (fresh : Bool) (ageMs : Nat) (h : Keeps z0 s) : Keeps z0 (raiseSink s c port fresh ageMs) := by
  unfold raiseSink
  try dsimp -proj only
  repeat' first
    | with_reducible exact h
    | with_reducible apply Keeps.ite
    | with_reducible apply keep_sideBand
    | with_reducible apply keep_raise
    | (simp -proj only [keeps_mk]; with_reducible refine KeepsParts.of rfl ?_ ?_ ?_ ?_ ?_ ?_)
    | with_reducible exact fun i => i
    | with_reducible assumption
    | with_reducible exact fun _ i => i
    | split
    | exact fun i => by simpa using i

theorem keep_raiseMaster {z0 : State} (s : State) (c kind peer : Nat) (h : Keeps z0 s) : Keeps z0 (raiseMaster s c kind peer) := by
  unfold raiseMaster
  try dsimp -proj only
  repeat' first
    | with_reducible exact h
    | with_reducible apply keep_sideBand
    | with_reducible apply keep_raise
    | with_reducible assumption

theorem keep_takeMaster {z0 : State} (s : State) (c kind peer : Nat) (h : Keeps z0 s) : Keeps z0 (takeMaster s c kind peer) := by
  unfold takeMaster
  try dsimp -proj only
  repeat' first
    | with_reducible exact h
    | with_reducible apply keep_raiseMaster
    | with_reducible apply keep_modMvb
    | with_reducible apply keep_chanCount
    | (simp -proj only [keeps_mk]; with_reducible refine KeepsParts.of rfl ?_ ?_ ?_ ?_ ?_ ?_)
    | with_reducible exact fun i => i
    | with_reducible assumption
    | with_reducible exact fun _ i => i
    | exact fun i => by simpa using i

theorem keep_leaveMaster {z0 : State} (s : State) (c kind peer : Nat) (h : Keeps z0 s) : Keeps z0 (leaveMaster s c kind peer) := by
  unfold leaveMaster
  try dsimp -proj only
  repeat' first
    | with_reducible exact h
    | with_reducible apply Keeps.ite
    | with_reducible apply keep_raiseMaster
    | with_reducible apply keep_modMvb
    | with_reducible apply keep_chanCount
    | (simp -proj only [keeps_mk]; with_reducible refine KeepsParts.of rfl ?_ ?_ ?_ ?_ ?_ ?_)
    | with_reducible exact fun i => i
    | with_reducible assumption
    | with_reducible exact fun _ i => i
    | split
    | exact fun i => by simpa using i

theorem keep_mvbData {z0 : State} (s : State) (c port : Nat) (d : List Byte) (h : Keeps z0 s) : Keeps z0 (mvbData s c port d) := by
  unfold mvbData
  try dsimp -proj only
  repeat' first
    | with_reducible exact h
    | with_reducible apply Keeps.ite
    | with_reducible apply keep_chanTx
    | with_reducible apply keep_fifoPush
    | with_reducible apply keep_noteSeen
    | with_reducible apply keep_chanRx
    | with_reducible apply keep_modMvbPort
    | with_reducible apply keep_raiseSink
    | (simp -proj only [keeps_mk]; with_reducible refine KeepsParts.of rfl ?_ ?_ ?_ ?_ ?_ ?_)
    | with_reducible exact fun i => i
    | with_reducible assumption
    | with_reducible exact fun _ i => i
    | split
    | exact fun i => by simpa using i

theorem keep_execMvbFrameRx (c : Nat) (m : MvbRx) (okA okB : Bool) (s : State) : Goes s (execMvbFrameRx c m okA okB s) := by
  have h := Keeps.refl s
  unfold execMvbFrameRx
  try dsimp -proj only
  repeat' first
    | with_reducible exact h
    | with_reducible apply Keeps.ite
    | with_reducible apply Goes.ite
    | with_reducible apply Goes.next
    | with_reducible apply keep_legRow
    | with_reducible apply keep_lineAfter
    | with_reducible apply keep_mvbData
    | with_reducible apply keep_fifoPush
    | with_reducible apply keep_noteSeen
    | with_reducible apply keep_chanCount
    | with_reducible apply keep_takeMaster
    | with_reducible apply keep_leaveMaster
    | (simp -proj only [keeps_mk]; with_reducible refine KeepsParts.of rfl ?_ ?_ ?_ ?_ ?_ ?_)
    | with_reducible exact fun i => i
    | (intro r hr; try dsimp -proj only)
    | with_reducible assumption
    | with_reducible exact fun _ i => i
    | split
    | exact fun i => by simpa using i

theorem keep_execMvbSinkTimeExpiry (c port : Nat) (s : State) : Goes s (execMvbSinkTimeExpiry c port s) := by
  have h := Keeps.refl s
  unfold execMvbSinkTimeExpiry
  try dsimp -proj only
  repeat' first
    | with_reducible exact h
    | with_reducible apply Keeps.ite
    | with_reducible apply Goes.ite
    | with_reducible apply Goes.next
    | with_reducible apply keep_legRow
    | with_reducible apply keep_chanCount
    | with_reducible apply keep_State_until
    | with_reducible apply keep_raiseSink
    | with_reducible apply keep_modMvbPort
    | (simp -proj only [keeps_mk]; with_reducible refine KeepsParts.of rfl ?_ ?_ ?_ ?_ ?_ ?_)
    | with_reducible exact fun i => i
    | (intro r hr; try dsimp -proj only)
    | with_reducible assumption
    | with_reducible exact fun _ i => i
    | split
    | exact fun i => by simpa using i

theorem keep_execMvbBasicPeriod (c : Nat) (s : State) : Goes s (execMvbBasicPeriod c s) := by
  have h := Keeps.refl s
  unfold execMvbBasicPeriod
  try dsimp -proj only
  repeat' first
    | with_reducible exact h
    | with_reducible apply Keeps.ite
    | with_reducible apply Goes.ite
    | with_reducible apply Goes.next
    | with_reducible apply keep_legRow
    | with_reducible apply keep_State_until
    | with_reducible apply keep_modMvb
    | with_reducible apply keep_chanTx
    | with_reducible apply keep_modChan
    | with_reducible apply keep_chanCount
    | (simp -proj only [keeps_mk]; with_reducible refine KeepsParts.of rfl ?_ ?_ ?_ ?_ ?_ ?_)
    | with_reducible exact fun i => i
    | with_reducible apply Keeps.foldl
    | (intro r x hr; try dsimp -proj only)
    | (intro r hr; try dsimp -proj only)
    | with_reducible assumption
    | with_reducible exact fun _ i => i
    | split
    | exact fun i => by simpa using i

theorem keep_offerNext {z0 : State} (s : State) (c a : Nat) (h : Keeps z0 s) : Keeps z0 (offerNext s c a) := by
  unfold offerNext
  try dsimp -proj only
  repeat' first
    | with_reducible exact h
    | with_reducible apply keep_raiseMaster
    | with_reducible apply keep_modMvb
    | (simp -proj only [keeps_mk]; with_reducible refine KeepsParts.of rfl ?_ ?_ ?_ ?_ ?_ ?_)
    | with_reducible exact fun i => i
    | with_reducible assumption
    | with_reducible exact fun _ i => i
    | split
    | exact fun i => by simpa using i

theorem keep_execMvbMastershipOffer (c : Nat) (s : State) : Goes s (execMvbMastershipOffer c s) := by
  have h := Keeps.refl s
  unfold execMvbMastershipOffer
  try dsimp -proj only
  repeat' first
    | with_reducible exact h
    | with_reducible apply Keeps.ite
    | with_reducible apply Goes.ite
    | with_reducible apply Goes.next
    | with_reducible apply keep_legRow
    | with_reducible apply keep_offerNext
    | (intro r hr; try dsimp -proj only)
    | with_reducible assumption
    | split

theorem keep_execMvbMastershipTimeout (c : Nat) (s : State) : Goes s (execMvbMastershipTimeout c s) := by
  have h := Keeps.refl s
  unfold execMvbMastershipTimeout
  try dsimp -proj only
  repeat' first
    | with_reducible exact h
    | with_reducible apply Keeps.ite
    | with_reducible apply Goes.ite
    | with_reducible apply Goes.next
    | with_reducible apply keep_legRow
    | with_reducible apply keep_offerNext
    | (simp -proj only [keeps_mk]; with_reducible refine KeepsParts.of rfl ?_ ?_ ?_ ?_ ?_ ?_)
    | with_reducible exact fun i => i
    | (intro r hr; try dsimp -proj only)
    | with_reducible assumption
    | with_reducible exact fun _ i => i
    | split
    | exact fun i => by simpa using i

theorem keep_execMvbSilentBus (c : Nat) (s : State) : Goes s (execMvbSilentBus c s) := by
  have h := Keeps.refl s
  unfold execMvbSilentBus
  try dsimp -proj only
  repeat' first
    | with_reducible exact h
    | with_reducible apply Keeps.ite
    | with_reducible apply Goes.ite
    | with_reducible apply Goes.next
    | with_reducible apply keep_legRow
    | with_reducible apply keep_takeMaster
    | (intro r hr; try dsimp -proj only)
    | with_reducible assumption
    | split

theorem keep_raiseSerialLine {z0 : State} (s : State) (c kind cause : Nat) (h : Keeps z0 s) : Keeps z0 (raiseSerialLine s c kind cause) := by
  unfold raiseSerialLine
  try dsimp -proj only
  repeat' first
    | with_reducible exact h
    | with_reducible apply Keeps.ite
    | with_reducible apply keep_sideBand
    | with_reducible apply keep_raise
    | with_reducible assumption
    | split

theorem keep_lineBreak {z0 : State} (s : State) (c cause : Nat) (h : Keeps z0 s) : Keeps z0 (lineBreak s c cause) := by
  unfold lineBreak
  try dsimp -proj only
  repeat' first
    | with_reducible exact h
    | with_reducible apply Keeps.ite
    | with_reducible apply keep_raiseSerialLine
    | with_reducible apply keep_modSer
    | with_reducible apply keep_chanCount
    | (simp -proj only [keeps_mk]; with_reducible refine KeepsParts.of rfl ?_ ?_ ?_ ?_ ?_ ?_)
    | with_reducible exact fun i => i
    | with_reducible assumption
    | with_reducible exact fun _ i => i
    | split
    | exact fun i => by simpa using i

theorem keep_lineMend {z0 : State} (s : State) (c : Nat) (h : Keeps z0 s) : Keeps z0 (lineMend s c) := by
  unfold lineMend
  try dsimp -proj only
  repeat' first
    | with_reducible exact h
    | with_reducible apply keep_raiseSerialLine
    | with_reducible apply keep_modSer
    | (simp -proj only [keeps_mk]; with_reducible refine KeepsParts.of rfl ?_ ?_ ?_ ?_ ?_ ?_)
    | with_reducible exact fun i => i
    | with_reducible assumption
    | with_reducible exact fun _ i => i
    | split
    | exact fun i => by simpa using i

theorem keep_cachePut {z0 : State} (s : State) (e : GwCache) (h : Keeps z0 s) : Keeps z0 (cachePut s e) := by
  unfold cachePut
  try dsimp -proj only
  repeat' first
    | with_reducible exact h
    | with_reducible apply keep_State_modGw
    | (simp -proj only [keeps_mk]; with_reducible refine KeepsParts.of rfl ?_ ?_ ?_ ?_ ?_ ?_)
    | with_reducible exact fun i => i
    | with_reducible assumption
    | with_reducible exact fun _ i => i
    | exact fun i => by simpa using i

theorem keep_fetchDone {z0 : State} (s : State) (tok : Nat) (data : List Byte) (h : Keeps z0 s) : Keeps z0 (fetchDone s tok data) := by
  unfold fetchDone
  try dsimp -proj only
  repeat' first
    | with_reducible exact h
    | with_reducible apply keep_setFetch
    | with_reducible apply keep_State_modGw
    | (simp -proj only [keeps_mk]; with_reducible refine KeepsParts.of rfl ?_ ?_ ?_ ?_ ?_ ?_)
    | with_reducible exact fun i => i
    | with_reducible assumption
    | with_reducible exact fun _ i => i
    | exact fun i => by simpa using i

theorem keep_serialAnswer {z0 : State} (s : State) (c : Nat) (tx : TxMsg) (d : List Byte) (h : Keeps z0 s) : Keeps z0 (serialAnswer s c tx d) := by
  unfold serialAnswer
  try dsimp -proj only
  repeat' first
    | with_reducible exact h
    | with_reducible apply Keeps.ite
    | with_reducible apply keep_modSer
    | with_reducible apply keep_chanCount
    | with_reducible apply keep_raise
    | with_reducible apply keep_fetchDone
    | with_reducible apply keep_cachePut
    | with_reducible apply keep_postedFail
    | (simp -proj only [keeps_mk]; with_reducible refine KeepsParts.of rfl ?_ ?_ ?_ ?_ ?_ ?_)
    | with_reducible exact fun i => i
    | with_reducible assumption
    | with_reducible exact fun _ i => i
    | split
    | exact fun i => by simpa using i

theorem keep_execSerialMessageRx (c : Nat) (err : Option Nat) (data : List Byte) (s : State) : Goes s (execSerialMessageRx c err data s) := by
  have h := Keeps.refl s
  unfold execSerialMessageRx
  try dsimp -proj only
  repeat' first
    | with_reducible exact h
    | with_reducible apply Keeps.ite
    | with_reducible apply Goes.ite
    | with_reducible apply Goes.next
    | with_reducible apply keep_legRow
    | with_reducible apply keep_chanCount
    | with_reducible apply keep_raiseSampled
    | with_reducible apply keep_modSer
    | with_reducible apply keep_lineMend
    | with_reducible apply keep_noteSeen
    | with_reducible apply keep_chanRx
    | with_reducible apply keep_fifoPush
    | with_reducible apply keep_serialPump
    | with_reducible apply keep_serialAnswer
    | (simp -proj only [keeps_mk]; with_reducible refine KeepsParts.of rfl ?_ ?_ ?_ ?_ ?_ ?_)
    | with_reducible exact fun i => i
    | (intro r hr; try dsimp -proj only)
    | with_reducible assumption
    | with_reducible exact fun _ i => i
    | split
    | exact fun i => by simpa using i

theorem keep_execModbusResponseTimeout (c : Nat) (s : State) : Goes s (execModbusResponseTimeout c s) := by
  have h := Keeps.refl s
  unfold execModbusResponseTimeout
  try dsimp -proj only
  repeat' first
    | with_reducible exact h
    | with_reducible apply Keeps.ite
    | with_reducible apply Goes.ite
    | with_reducible apply Goes.next
    | with_reducible apply keep_legRow
    | with_reducible apply keep_modSer
    | with_reducible apply keep_State_until
    | with_reducible apply keep_serialPump
    | with_reducible apply keep_chanCount
    | with_reducible apply keep_fetchFail
    | with_reducible apply keep_postedFail
    | with_reducible apply keep_lineBreak
    | (simp -proj only [keeps_mk]; with_reducible refine KeepsParts.of rfl ?_ ?_ ?_ ?_ ?_ ?_)
    | with_reducible exact fun i => i
    | (intro r hr; try dsimp -proj only)
    | with_reducible assumption
    | with_reducible exact fun _ i => i
    | split
    | exact fun i => by simpa using i

theorem keep_execSerialSilenceTimeout (c : Nat) (s : State) : Goes s (execSerialSilenceTimeout c s) := by
  have h := Keeps.refl s
  unfold execSerialSilenceTimeout
  try dsimp -proj only
  repeat' first
    | with_reducible exact h
    | with_reducible apply Keeps.ite
    | with_reducible apply Goes.ite
    | with_reducible apply Goes.next
    | with_reducible apply keep_legRow
    | with_reducible apply keep_lineBreak
    | with_reducible apply keep_State_until
    | (intro r hr; try dsimp -proj only)
    | with_reducible assumption
    | split

theorem keep_execSerialCurrentLimit (c : Nat) (s : State) : Goes s (execSerialCurrentLimit c s) := by
  have h := Keeps.refl s
  unfold execSerialCurrentLimit
  try dsimp -proj only
  repeat' first
    | with_reducible exact h
    | with_reducible apply Keeps.ite
    | with_reducible apply Goes.ite
    | with_reducible apply Goes.next
    | with_reducible apply keep_legRow
    | with_reducible apply keep_lineBreak
    | with_reducible apply keep_modSer
    | (simp -proj only [keeps_mk]; with_reducible refine KeepsParts.of rfl ?_ ?_ ?_ ?_ ?_ ?_)
    | with_reducible exact fun i => i
    | (intro r hr; try dsimp -proj only)
    | with_reducible assumption
    | with_reducible exact fun _ i => i
    | split
    | exact fun i => by simpa using i

theorem keep_execSerialCurrentClear (c : Nat) (s : State) : Goes s (execSerialCurrentClear c s) := by
  have h := Keeps.refl s
  unfold execSerialCurrentClear
  try dsimp -proj only
  repeat' first
    | with_reducible exact h
    | with_reducible apply Keeps.ite
    | with_reducible apply Goes.ite
    | with_reducible apply Goes.next
    | with_reducible apply keep_legRow
    | with_reducible apply keep_modSer
    | with_reducible apply keep_lineMend
    | (simp -proj only [keeps_mk]; with_reducible refine KeepsParts.of rfl ?_ ?_ ?_ ?_ ?_ ?_)
    | with_reducible exact fun i => i
    | (intro r hr; try dsimp -proj only)
    | with_reducible assumption
    | with_reducible exact fun _ i => i
    | split
    | exact fun i => by simpa using i

theorem keep_linSubscribe {z0 : State} (s : State) (c : Nat) (e : LinEntry) (id : Nat) (a : LinResp) (h : Keeps z0 s) : Keeps z0 (linSubscribe s c e id a) := by
  unfold linSubscribe
  try dsimp -proj only
  repeat' first
    | with_reducible exact h
    | with_reducible apply keep_raiseSampled
    | with_reducible apply keep_fifoPush
    | with_reducible apply keep_noteSeen
    | with_reducible apply keep_chanRx
    | with_reducible apply keep_chanCount
    | (simp -proj only [keeps_mk]; with_reducible refine KeepsParts.of rfl ?_ ?_ ?_ ?_ ?_ ?_)
    | with_reducible exact fun i => i
    | with_reducible assumption
    | with_reducible exact fun _ i => i
    | split
    | exact fun i => by simpa using i

theorem keep_linPublish {z0 : State} (s : State) (c id : Nat) (sporadic : Bool) (h : Keeps z0 s) : Keeps z0 (linPublish s c id sporadic) := by
  unfold linPublish
  try dsimp -proj only
  repeat' first
    | with_reducible exact h
    | with_reducible apply Keeps.ite
    | with_reducible apply keep_chanTx
    | with_reducible apply keep_modLin
    | (simp -proj only [keeps_mk]; with_reducible refine KeepsParts.of rfl ?_ ?_ ?_ ?_ ?_ ?_)
    | with_reducible exact fun i => i
    | with_reducible assumption
    | with_reducible exact fun _ i => i
    | split
    | exact fun i => by simpa using i

theorem keep_execLinSlotTimer (c : Nat) (a : LinResp) (s : State) : Goes s (execLinSlotTimer c a s) := by
  have h := Keeps.refl s
  unfold execLinSlotTimer
  try dsimp -proj only
  repeat' first
    | with_reducible exact h
    | with_reducible apply Keeps.ite
    | with_reducible apply Goes.ite
    | with_reducible apply Goes.next
    | with_reducible apply keep_legRow
    | with_reducible apply keep_State_until
    | with_reducible apply keep_modLin
    | with_reducible apply keep_linPublish
    | with_reducible apply keep_linSubscribe
    | with_reducible apply keep_chanCount
    | (simp -proj only [keeps_mk]; with_reducible refine KeepsParts.of rfl ?_ ?_ ?_ ?_ ?_ ?_)
    | with_reducible exact fun i => i
    | (intro r hr; try dsimp -proj only)
    | with_reducible assumption
    | with_reducible exact fun _ i => i
    | split
    | exact fun i => by simpa using i

theorem keep_linWake {z0 : State} (s : State) (c : Nat) (h : Keeps z0 s) : Keeps z0 (linWake s c) := by
  unfold linWake
  try dsimp -proj only
  repeat' first
    | with_reducible exact h
    | with_reducible apply keep_modLin
    | (simp -proj only [keeps_mk]; with_reducible refine KeepsParts.of rfl ?_ ?_ ?_ ?_ ?_ ?_)
    | with_reducible exact fun i => i
    | with_reducible assumption
    | with_reducible exact fun _ i => i
    | exact fun i => by simpa using i

theorem keep_execLinWakeupRx (c : Nat) (s : State) : Goes s (execLinWakeupRx c s) := by
  have h := Keeps.refl s
  unfold execLinWakeupRx
  try dsimp -proj only
  repeat' first
    | with_reducible exact h
    | with_reducible apply Keeps.ite
    | with_reducible apply Goes.ite
    | with_reducible apply Goes.next
    | with_reducible apply keep_legRow
    | with_reducible apply keep_linWake
    | with_reducible apply keep_chanCount
    | (intro r hr; try dsimp -proj only)
    | with_reducible assumption
    | split

theorem keep_execLinResumeTimer (c : Nat) (s : State) : Goes s (execLinResumeTimer c s) := by
  have h := Keeps.refl s
  unfold execLinResumeTimer
  try dsimp -proj only
  repeat' first
    | with_reducible exact h
    | with_reducible apply Keeps.ite
    | with_reducible apply Goes.ite
    | with_reducible apply Goes.next
    | with_reducible apply keep_legRow
    | with_reducible apply keep_State_until
    | with_reducible apply keep_modLin
    | (simp -proj only [keeps_mk]; with_reducible refine KeepsParts.of rfl ?_ ?_ ?_ ?_ ?_ ?_)
    | with_reducible exact fun i => i
    | (intro r hr; try dsimp -proj only)
    | with_reducible assumption
    | with_reducible exact fun _ i => i
    | split
    | exact fun i => by simpa using i

theorem keep_gpiReport {z0 : State} (s : State) (c v : Nat) (h : Keeps z0 s) : Keeps z0 (gpiReport s c v) := by
  unfold gpiReport
  try dsimp -proj only
  repeat' first
    | with_reducible exact h
    | with_reducible apply Keeps.ite
    | with_reducible apply keep_modDio
    | with_reducible apply keep_fifoPush
    | with_reducible apply keep_chanRx
    | (simp -proj only [keeps_mk]; with_reducible refine KeepsParts.of rfl ?_ ?_ ?_ ?_ ?_ ?_)
    | with_reducible exact fun i => i
    | with_reducible assumption
    | with_reducible exact fun _ i => i
    | split
    | exact fun i => by simpa using i

theorem keep_execGpiDebounceExpiry (c level : Nat) (overrun : Bool) (s : State) : Goes s (execGpiDebounceExpiry c level overrun s) := by
  have h := Keeps.refl s
  unfold execGpiDebounceExpiry
  try dsimp -proj only
  repeat' first
    | with_reducible exact h
    | with_reducible apply Keeps.ite
    | with_reducible apply Goes.ite
    | with_reducible apply Goes.next
    | with_reducible apply keep_legRow
    | with_reducible apply keep_raiseSampled
    | with_reducible apply keep_chanCount
    | with_reducible apply keep_gpiReport
    | (intro r hr; try dsimp -proj only)
    | with_reducible assumption
    | split

theorem keep_execGpoReadbackExpiry (c level : Nat) (s : State) : Goes s (execGpoReadbackExpiry c level s) := by
  have h := Keeps.refl s
  unfold execGpoReadbackExpiry
  try dsimp -proj only
  repeat' first
    | with_reducible exact h
    | with_reducible apply Keeps.ite
    | with_reducible apply Goes.ite
    | with_reducible apply Goes.next
    | with_reducible apply keep_legRow
    | with_reducible apply keep_modDio
    | with_reducible apply keep_raise
    | with_reducible apply keep_sideBand
    | with_reducible apply keep_chanCount
    | (simp -proj only [keeps_mk]; with_reducible refine KeepsParts.of rfl ?_ ?_ ?_ ?_ ?_ ?_)
    | with_reducible exact fun i => i
    | (intro r hr; try dsimp -proj only)
    | with_reducible assumption
    | with_reducible exact fun _ i => i
    | split
    | exact fun i => by simpa using i

theorem keep_stopChan {z0 : State} (s : State) (c cause : Nat) (h : Keeps z0 s) : Keeps z0 (stopChan s c cause) := by
  unfold stopChan
  try dsimp -proj only
  repeat' first
    | with_reducible exact h
    | with_reducible apply Keeps.ite
    | with_reducible apply keep_modChan
    | with_reducible apply keep_restartFail
    | with_reducible apply keep_restartDrop
    | with_reducible apply keep_failTx
    | with_reducible apply keep_modCan
    | with_reducible apply keep_modMvb
    | with_reducible apply keep_leaveMaster
    | with_reducible apply keep_modSer
    | with_reducible apply keep_modLin
    | (simp -proj only [keeps_mk]; with_reducible refine KeepsParts.of rfl ?_ ?_ ?_ ?_ ?_ ?_)
    | with_reducible exact fun i => i
    | with_reducible apply Keeps.foldl
    | (intro r x hr; try dsimp -proj only)
    | with_reducible assumption
    | with_reducible exact fun _ i => i
    | split
    | exact fun i => by simpa using i

theorem keep_startChan {z0 : State} (s : State) (c : Nat) (h : Keeps z0 s) : Keeps z0 (startChan s c) := by
  unfold startChan
  try dsimp -proj only
  repeat' first
    | with_reducible exact h
    | with_reducible apply Keeps.ite
    | with_reducible apply keep_modCan
    | with_reducible apply keep_modMvb
    | with_reducible apply keep_State_modLeg
    | with_reducible apply keep_modSer
    | with_reducible apply keep_modLin
    | (simp -proj only [keeps_mk]; with_reducible refine KeepsParts.of rfl ?_ ?_ ?_ ?_ ?_ ?_)
    | with_reducible exact fun i => i
    | with_reducible assumption
    | with_reducible exact fun _ i => i
    | split
    | exact fun i => by simpa using i

theorem keep_breakSerialLocks {z0 : State} (s : State) (h : Keeps z0 s) : Keeps z0 (breakSerialLocks s) := by
  unfold breakSerialLocks
  try dsimp -proj only
  repeat' first
    | with_reducible exact h
    | with_reducible apply keep_modEngine
    | with_reducible apply keep_breakLocks
    | (simp -proj only [keeps_mk]; with_reducible refine KeepsParts.of rfl ?_ ?_ ?_ ?_ ?_ ?_)
    | with_reducible exact fun i => i
    | with_reducible assumption
    | with_reducible exact fun _ i => i
    | exact fun i => by simpa using i

theorem keep_beginRestart {z0 : State} (s : State) (e cause : Nat) (h : Keeps z0 s) : Keeps z0 (beginRestart s e cause) := by
  unfold beginRestart
  try dsimp -proj only
  repeat' first
    | with_reducible exact h
    | with_reducible apply Keeps.ite
    | with_reducible apply keep_modChan
    | with_reducible apply keep_modEngine
    | with_reducible apply keep_breakSerialLocks
    | with_reducible apply keep_stopChan
    | with_reducible apply keep_engineIndication
    | (simp -proj only [keeps_mk]; with_reducible refine KeepsParts.of rfl ?_ ?_ ?_ ?_ ?_ ?_)
    | with_reducible exact fun i => i
    | with_reducible apply Keeps.foldl
    | (intro r x hr; try dsimp -proj only)
    | with_reducible assumption
    | with_reducible exact fun _ i => i
    | split
    | exact fun i => by simpa using i

theorem keep_endRestart {z0 : State} (s : State) (e levels : Nat) (h : Keeps z0 s) : Keeps z0 (endRestart s e levels) := by
  unfold endRestart
  try dsimp -proj only
  repeat' first
    | with_reducible exact h
    | with_reducible apply Keeps.ite
    | with_reducible apply keep_modEngine
    | with_reducible apply keep_startChan
    | with_reducible apply keep_modDio
    | with_reducible apply keep_gpiReport
    | with_reducible apply keep_raise
    | with_reducible apply keep_engineIndication
    | (simp -proj only [keeps_mk]; with_reducible refine KeepsParts.of rfl ?_ ?_ ?_ ?_ ?_ ?_)
    | with_reducible exact fun i => i
    | with_reducible apply Keeps.foldl
    | (intro r x hr; try dsimp -proj only)
    | with_reducible assumption
    | with_reducible exact fun _ i => i
    | split
    | exact fun i => by simpa using i

theorem keep_restartDone {z0 : State} (s : State) (e ms levels : Nat) (h : Keeps z0 s) : Keeps z0 (restartDone s e ms levels) := by
  unfold restartDone
  try dsimp -proj only
  repeat' first
    | with_reducible exact h
    | with_reducible apply keep_stampChans
    | with_reducible apply keep_endRestart
    | with_reducible apply keep_State_until
    | with_reducible assumption

theorem keep_startEngine {z0 : State} (s : State) (e : Nat) (h : Keeps z0 s) : Keeps z0 (startEngine s e) := by
  unfold startEngine
  try dsimp -proj only
  repeat' first
    | with_reducible exact h
    | with_reducible apply Keeps.ite
    | with_reducible apply keep_startChan
    | with_reducible apply keep_modEngine
    | with_reducible apply keep_stampChans
    | with_reducible apply keep_modDio
    | (simp -proj only [keeps_mk]; with_reducible refine KeepsParts.of rfl ?_ ?_ ?_ ?_ ?_ ?_)
    | with_reducible exact fun i => i
    | with_reducible apply Keeps.foldl
    | (intro r x hr; try dsimp -proj only)
    | with_reducible assumption
    | with_reducible exact fun _ i => i
    | split
    | exact fun i => by simpa using i

theorem keep_startEngines {z0 : State} (s : State) (h : Keeps z0 s) : Keeps z0 (startEngines s) := by
  unfold startEngines
  try dsimp -proj only
  repeat' first
    | with_reducible exact h
    | with_reducible apply keep_startEngine
    | (simp -proj only [keeps_mk]; with_reducible refine KeepsParts.of rfl ?_ ?_ ?_ ?_ ?_ ?_)
    | with_reducible apply Keeps.foldl
    | (intro r x hr; try dsimp -proj only)
    | with_reducible assumption

theorem keep_stopEngines {z0 : State} (s : State) (h : Keeps z0 s) : Keeps z0 (stopEngines s) := by
  unfold stopEngines
  try dsimp -proj only
  repeat' first
    | with_reducible exact h
    | with_reducible apply keep_breakLocks
    | with_reducible apply keep_stopChan
    | with_reducible apply keep_modEngine
    | with_reducible apply keep_stampChans
    | with_reducible apply keep_modDio
    | (simp -proj only [keeps_mk]; with_reducible refine KeepsParts.of rfl ?_ ?_ ?_ ?_ ?_ ?_)
    | with_reducible exact fun i => i
    | with_reducible apply Keeps.foldl
    | (intro r x hr; try dsimp -proj only)
    | with_reducible assumption
    | with_reducible exact fun _ i => i
    | exact fun i => by simpa using i

end Sys2Proof.Machine
end

