-- ==== Sys2Proof/Laws/LegacyCmds.lean ====
section
/-! SUPPORT. Laws of Machine/LegacyCmds.lean: each operation keeps the queue of waiting commands and soundness; each meaning goes on. -/

namespace Sys2Proof.Machine

theorem keep_ifEngine {z0 : State} (s : State) (e : Nat) (k : Unit → Result) (hk : ResultKeeps z0 (k ())) : ResultKeeps z0 (ifEngine s e k) := by
  unfold ifEngine
  split
  · trivial
  · exact hk
theorem keep_specChannelStatusGet : SpecKeeps specChannelStatusGet := by
  intro z0 s r p h
  unfold specChannelStatusGet
  try dsimp only
  repeat' first
    | with_reducible exact h
    | with_reducible apply Keeps.ite
    | with_reducible apply ResultKeeps.checked
    | with_reducible apply ResultKeeps.ite
    | with_reducible exact ResultKeeps.fail
    | with_reducible apply ResultKeeps.doneMk
    | with_reducible apply ResultKeeps.failWith
    | with_reducible apply ResultKeeps.retry
    | with_reducible apply ResultKeeps.wait
    | (intro r hr; try dsimp only [id])
    | with_reducible assumption
    | split

theorem keep_canApply {z0 : State} (s : State) (c : Nat) (k : CanCfg) (h : Keeps z0 s) : Keeps z0 (canApply s c k) := by
  unfold canApply
  try dsimp -proj only
  repeat' first
    | with_reducible exact h
    | with_reducible apply Keeps.ite
    | with_reducible apply keep_State_modLeg
    | with_reducible apply keep_modCan
    | (simp -proj only [keeps_mk]; with_reducible refine KeepsParts.of rfl ?_ ?_ ?_ ?_ ?_ ?_)
    | with_reducible exact fun i => i
    | with_reducible assumption
    | with_reducible exact fun _ i => i
    | split
    | exact fun i => by simpa using i

theorem keep_specCanSet : SpecKeeps specCanSet := by
  intro z0 s r p h
  unfold specCanSet
  try dsimp only
  repeat' first
    | with_reducible exact h
    | with_reducible apply Keeps.ite
    | with_reducible apply ResultKeeps.checked
    | with_reducible apply ResultKeeps.ite
    | with_reducible exact ResultKeeps.fail
    | with_reducible apply ResultKeeps.doneMk
    | with_reducible apply ResultKeeps.failWith
    | with_reducible apply ResultKeeps.retry
    | with_reducible apply ResultKeeps.wait
    | with_reducible apply keep_ifEngine
    | with_reducible apply keep_stampChans
    | with_reducible apply keep_canApply
    | (intro r hr; try dsimp only [id])
    | with_reducible assumption
    | split

theorem keep_specCanWakeSet : SpecKeeps specCanWakeSet := by
  intro z0 s r p h
  unfold specCanWakeSet
  try dsimp only
  repeat' first
    | with_reducible exact h
    | with_reducible apply Keeps.ite
    | with_reducible apply ResultKeeps.checked
    | with_reducible apply ResultKeeps.ite
    | with_reducible exact ResultKeeps.fail
    | with_reducible apply ResultKeeps.doneMk
    | with_reducible apply ResultKeeps.failWith
    | with_reducible apply ResultKeeps.retry
    | with_reducible apply ResultKeeps.wait
    | with_reducible apply keep_ifEngine
    | with_reducible apply keep_State_modLeg
    | (simp -proj only [keeps_mk]; with_reducible refine KeepsParts.of rfl ?_ ?_ ?_ ?_ ?_ ?_)
    | with_reducible exact fun i => i
    | (intro r hr; try dsimp only [id])
    | with_reducible assumption
    | with_reducible exact fun _ i => i
    | split
    | exact fun i => by simpa using i

theorem keep_specCanRecover : SpecKeeps specCanRecover := by
  intro z0 s r p h
  unfold specCanRecover
  try dsimp only
  repeat' first
    | with_reducible exact h
    | with_reducible apply ResultKeeps.checked
    | with_reducible apply ResultKeeps.ite
    | with_reducible exact ResultKeeps.fail
    | with_reducible apply ResultKeeps.doneMk
    | with_reducible apply ResultKeeps.failWith
    | with_reducible apply ResultKeeps.retry
    | with_reducible apply ResultKeeps.wait
    | with_reducible apply keep_ifEngine
    | with_reducible apply keep_stampChans
    | with_reducible apply keep_modCan
    | (simp -proj only [keeps_mk]; with_reducible refine KeepsParts.of rfl ?_ ?_ ?_ ?_ ?_ ?_)
    | with_reducible exact fun i => i
    | (intro r hr; try dsimp only [id])
    | with_reducible assumption
    | with_reducible exact fun _ i => i
    | exact fun i => by simpa using i

theorem keep_specMvbSet : SpecKeeps specMvbSet := by
  intro z0 s r p h
  unfold specMvbSet
  try dsimp only
  repeat' first
    | with_reducible exact h
    | with_reducible apply Keeps.ite
    | with_reducible apply ResultKeeps.checked
    | with_reducible apply ResultKeeps.ite
    | with_reducible exact ResultKeeps.fail
    | with_reducible apply ResultKeeps.doneMk
    | with_reducible apply ResultKeeps.failWith
    | with_reducible apply ResultKeeps.retry
    | with_reducible apply ResultKeeps.wait
    | with_reducible apply keep_ifEngine
    | with_reducible apply keep_leaveMaster
    | with_reducible apply keep_State_modLeg
    | with_reducible apply keep_stampChans
    | with_reducible apply keep_modMvb
    | (simp -proj only [keeps_mk]; with_reducible refine KeepsParts.of rfl ?_ ?_ ?_ ?_ ?_ ?_)
    | with_reducible exact fun i => i
    | (intro r hr; try dsimp only [id])
    | with_reducible assumption
    | with_reducible exact fun _ i => i
    | split
    | exact fun i => by simpa using i

theorem keep_entryMvbPort {z0 : State} (off : Nat) (e : List Byte) (s : State) (h : Keeps z0 s) : EntryKeeps z0 (entryMvbPort off e s) := by
  unfold entryMvbPort
  try dsimp -proj only
  repeat' first
    | with_reducible exact h
    | with_reducible apply Keeps.ite
    | with_reducible apply EntryKeeps.entryOk
    | with_reducible apply EntryKeeps.ite
    | with_reducible exact EntryKeeps.error
    | with_reducible apply EntryKeeps.ok
    | with_reducible apply keep_State_modLeg
    | (simp -proj only [keeps_mk]; with_reducible refine KeepsParts.of rfl ?_ ?_ ?_ ?_ ?_ ?_)
    | with_reducible exact fun i => i
    | with_reducible assumption
    | with_reducible exact fun _ i => i
    | split
    | exact fun i => by simpa using i

theorem keep_specMvbPortSet : SpecKeeps specMvbPortSet := by
  intro z0 s r p h
  unfold specMvbPortSet
  try dsimp only
  repeat' first
    | with_reducible exact h
    | with_reducible apply ResultKeeps.checked
    | with_reducible apply ResultKeeps.ite
    | with_reducible exact ResultKeeps.fail
    | with_reducible apply ResultKeeps.doneMk
    | with_reducible apply ResultKeeps.failWith
    | with_reducible apply ResultKeeps.retry
    | with_reducible apply ResultKeeps.wait
    | with_reducible apply keep_ifEngine
    | exact keep_listBody (fun _ _ _ hs => by first | exact keep_entryMvbPort _ _ _ hs) h
    | (with_reducible refine ResultKeeps.of_done (by assumption) ?_; exact keep_listBody (fun _ _ _ hs => by first | exact keep_entryMvbPort _ _ _ hs) h)
    | (with_reducible refine ResultKeeps.of_after (by assumption) ?_ _ hr; exact keep_listBody (fun _ _ _ hs => by first | exact keep_entryMvbPort _ _ _ hs) h)
    | with_reducible apply keep_entryMvbPort
    | (intro r hr; try dsimp only [id])
    | with_reducible assumption

theorem keep_specMvbAdminSet : SpecKeeps specMvbAdminSet := by
  intro z0 s r p h
  unfold specMvbAdminSet
  try dsimp only
  repeat' first
    | with_reducible exact h
    | with_reducible apply Keeps.ite
    | with_reducible apply ResultKeeps.checked
    | with_reducible apply ResultKeeps.ite
    | with_reducible exact ResultKeeps.fail
    | with_reducible apply ResultKeeps.doneMk
    | with_reducible apply ResultKeeps.failWith
    | with_reducible apply ResultKeeps.retry
    | with_reducible apply ResultKeeps.wait
    | with_reducible apply keep_ifEngine
    | with_reducible apply keep_State_modLeg
    | with_reducible apply keep_modMvb
    | (simp -proj only [keeps_mk]; with_reducible refine KeepsParts.of rfl ?_ ?_ ?_ ?_ ?_ ?_)
    | with_reducible exact fun i => i
    | (intro r hr; try dsimp only [id])
    | with_reducible assumption
    | with_reducible exact fun _ i => i
    | split
    | exact fun i => by simpa using i

theorem keep_specSerialSet : SpecKeeps specSerialSet := by
  intro z0 s r p h
  unfold specSerialSet
  try dsimp only
  repeat' first
    | with_reducible exact h
    | with_reducible apply Keeps.ite
    | with_reducible apply ResultKeeps.checked
    | with_reducible apply ResultKeeps.ite
    | with_reducible exact ResultKeeps.fail
    | with_reducible apply ResultKeeps.doneMk
    | with_reducible apply ResultKeeps.failWith
    | with_reducible apply ResultKeeps.retry
    | with_reducible apply ResultKeeps.wait
    | with_reducible apply keep_ifEngine
    | with_reducible apply keep_modSer
    | with_reducible apply keep_serialPump
    | with_reducible apply keep_serApply
    | with_reducible apply keep_stampChans
    | (simp -proj only [keeps_mk]; with_reducible refine KeepsParts.of rfl ?_ ?_ ?_ ?_ ?_ ?_)
    | with_reducible exact fun i => i
    | (intro r hr; try dsimp only [id])
    | with_reducible assumption
    | with_reducible exact fun _ i => i
    | split
    | exact fun i => by simpa using i

theorem keep_specLinSet : SpecKeeps specLinSet := by
  intro z0 s r p h
  unfold specLinSet
  try dsimp only
  repeat' first
    | with_reducible exact h
    | with_reducible apply Keeps.ite
    | with_reducible apply ResultKeeps.checked
    | with_reducible apply ResultKeeps.ite
    | with_reducible exact ResultKeeps.fail
    | with_reducible apply ResultKeeps.doneMk
    | with_reducible apply ResultKeeps.failWith
    | with_reducible apply ResultKeeps.retry
    | with_reducible apply ResultKeeps.wait
    | with_reducible apply keep_ifEngine
    | with_reducible apply keep_State_modLeg
    | with_reducible apply keep_linWake
    | with_reducible apply keep_startChan
    | with_reducible apply keep_modLin
    | with_reducible apply keep_stampChans
    | (simp -proj only [keeps_mk]; with_reducible refine KeepsParts.of rfl ?_ ?_ ?_ ?_ ?_ ?_)
    | with_reducible exact fun i => i
    | (intro r hr; try dsimp only [id])
    | with_reducible assumption
    | with_reducible exact fun _ i => i
    | split
    | exact fun i => by simpa using i

theorem keep_specLinScheduleSet : SpecKeeps specLinScheduleSet := by
  intro z0 s r p h
  unfold specLinScheduleSet
  try dsimp only
  repeat' first
    | with_reducible exact h
    | with_reducible apply Keeps.ite
    | with_reducible apply ResultKeeps.checked
    | with_reducible apply ResultKeeps.ite
    | with_reducible exact ResultKeeps.fail
    | with_reducible apply ResultKeeps.doneMk
    | with_reducible apply ResultKeeps.failWith
    | with_reducible apply ResultKeeps.retry
    | with_reducible apply ResultKeeps.wait
    | with_reducible apply keep_ifEngine
    | with_reducible apply keep_State_modLeg
    | (simp -proj only [keeps_mk]; with_reducible refine KeepsParts.of rfl ?_ ?_ ?_ ?_ ?_ ?_)
    | with_reducible exact fun i => i
    | (intro r hr; try dsimp only [id])
    | with_reducible assumption
    | with_reducible exact fun _ i => i
    | split
    | exact fun i => by simpa using i

theorem keep_specDioSet : SpecKeeps specDioSet := by
  intro z0 s r p h
  unfold specDioSet
  try dsimp only
  repeat' first
    | with_reducible exact h
    | with_reducible apply Keeps.ite
    | with_reducible apply ResultKeeps.checked
    | with_reducible apply ResultKeeps.ite
    | with_reducible exact ResultKeeps.fail
    | with_reducible apply ResultKeeps.doneMk
    | with_reducible apply ResultKeeps.failWith
    | with_reducible apply ResultKeeps.retry
    | with_reducible apply ResultKeeps.wait
    | with_reducible apply keep_ifEngine
    | with_reducible apply keep_State_modLeg
    | (simp -proj only [keeps_mk]; with_reducible refine KeepsParts.of rfl ?_ ?_ ?_ ?_ ?_ ?_)
    | with_reducible exact fun i => i
    | (intro r hr; try dsimp only [id])
    | with_reducible assumption
    | with_reducible exact fun _ i => i
    | split
    | exact fun i => by simpa using i

theorem keep_specChannelCountersGet : SpecKeeps specChannelCountersGet := by
  intro z0 s r p h
  unfold specChannelCountersGet
  try dsimp only
  repeat' first
    | with_reducible exact h
    | with_reducible apply Keeps.ite
    | with_reducible apply ResultKeeps.checked
    | with_reducible apply ResultKeeps.ite
    | with_reducible exact ResultKeeps.fail
    | with_reducible apply ResultKeeps.doneMk
    | with_reducible apply ResultKeeps.failWith
    | with_reducible apply ResultKeeps.retry
    | with_reducible apply ResultKeeps.wait
    | with_reducible apply keep_ifEngine
    | with_reducible apply keep_modChan
    | (simp -proj only [keeps_mk]; with_reducible refine KeepsParts.of rfl ?_ ?_ ?_ ?_ ?_ ?_)
    | with_reducible exact fun i => i
    | (intro r hr; try dsimp only [id])
    | with_reducible assumption
    | with_reducible exact fun _ i => i
    | split
    | exact fun i => by simpa using i

theorem keep_execChannelStatusGet (r : Req) (s : State) : Goes s (execChannelStatusGet r s) := keep_command keep_specChannelStatusGet r s

theorem keep_execCanSet (r : Req) (s : State) : Goes s (execCanSet r s) := keep_command keep_specCanSet r s

theorem keep_execCanWakeSet (r : Req) (s : State) : Goes s (execCanWakeSet r s) := keep_command keep_specCanWakeSet r s

theorem keep_execCanRecover (r : Req) (s : State) : Goes s (execCanRecover r s) := keep_command keep_specCanRecover r s

theorem keep_execMvbSet (r : Req) (s : State) : Goes s (execMvbSet r s) := keep_command keep_specMvbSet r s

theorem keep_execMvbPortSet (r : Req) (s : State) : Goes s (execMvbPortSet r s) := keep_command keep_specMvbPortSet r s

theorem keep_execMvbAdminSet (r : Req) (s : State) : Goes s (execMvbAdminSet r s) := keep_command keep_specMvbAdminSet r s

theorem keep_execSerialSet (r : Req) (s : State) : Goes s (execSerialSet r s) := keep_command keep_specSerialSet r s

theorem keep_execLinSet (r : Req) (s : State) : Goes s (execLinSet r s) := keep_command keep_specLinSet r s

theorem keep_execLinScheduleSet (r : Req) (s : State) : Goes s (execLinScheduleSet r s) := keep_command keep_specLinScheduleSet r s

theorem keep_execDioSet (r : Req) (s : State) : Goes s (execDioSet r s) := keep_command keep_specDioSet r s

theorem keep_execChannelCountersGet (r : Req) (s : State) : Goes s (execChannelCountersGet r s) := keep_command keep_specChannelCountersGet r s

end Sys2Proof.Machine
end

