-- ==== Sys2Proof/Laws/PairOps.lean ====
section
/-! SUPPORT. Laws of Machine/PairOps.lean: each operation keeps the queue of waiting commands and soundness; each meaning goes on. -/

namespace Sys2Proof.Machine

theorem keep_pairRow (s : State) (f : State → State) (hf : ∀ r, Keeps s r → Keeps s (f r)) : Goes s (pairRow s f) :=
  .next (keep_stampPair s (f s) (hf s (.refl s)))
theorem keep_sendPosted {z0 : State} (s : State) (type cycle : Nat) (body : PairBody) (h : Keeps z0 s) : Keeps z0 (sendPosted s type cycle body) := by
  unfold sendPosted
  try dsimp -proj only
  repeat' first
    | with_reducible exact h
    | with_reducible apply Keeps.ite
    | with_reducible apply keep_State_modPair
    | with_reducible apply keep_pairCount
    | (simp -proj only [keeps_mk]; with_reducible refine KeepsParts.of rfl ?_ ?_ ?_ ?_ ?_ ?_)
    | with_reducible exact fun i => i
    | with_reducible assumption
    | with_reducible exact fun _ i => i
    | split
    | exact fun i => by simpa using i

theorem keep_sendHello {z0 : State} (s : State) (h : Keeps z0 s) : Keeps z0 (sendHello s) := by
  unfold sendHello
  try dsimp -proj only
  repeat' first
    | with_reducible exact h
    | with_reducible apply Keeps.ite
    | with_reducible apply keep_sendPosted
    | with_reducible apply keep_State_modPair
    | (simp -proj only [keeps_mk]; with_reducible refine KeepsParts.of rfl ?_ ?_ ?_ ?_ ?_ ?_)
    | with_reducible exact fun i => i
    | with_reducible assumption
    | with_reducible exact fun _ i => i
    | split
    | exact fun i => by simpa using i

theorem keep_refreshHello {z0 : State} (s : State) (h : Keeps z0 s) : Keeps z0 (refreshHello s) := by
  unfold refreshHello
  try dsimp -proj only
  repeat' first
    | with_reducible exact h
    | with_reducible apply Keeps.ite
    | with_reducible apply keep_sendHello
    | with_reducible apply keep_setReason
    | split

theorem keep_sendOther {z0 : State} (s : State) (h : Keeps z0 s) : Keeps z0 (sendOther s) := by
  unfold sendOther
  try dsimp -proj only
  repeat' first
    | with_reducible exact h
    | with_reducible apply Keeps.ite
    | with_reducible apply keep_pairCount
    | with_reducible apply keep_State_modPair
    | (simp -proj only [keeps_mk]; with_reducible refine KeepsParts.of rfl ?_ ?_ ?_ ?_ ?_ ?_)
    | with_reducible exact fun i => i
    | with_reducible assumption
    | with_reducible exact fun _ i => i
    | split
    | exact fun i => by simpa using i

theorem keep_mute {z0 : State} (s : State) (h : Keeps z0 s) : Keeps z0 (mute s) := by
  unfold mute
  try dsimp -proj only
  repeat' first
    | with_reducible exact h
    | with_reducible apply Keeps.ite
    | with_reducible apply keep_pairCount
    | with_reducible apply keep_State_modGw
    | with_reducible apply keep_modChan
    | with_reducible apply keep_modDio
    | (simp -proj only [keeps_mk]; with_reducible refine KeepsParts.of rfl ?_ ?_ ?_ ?_ ?_ ?_)
    | with_reducible exact fun i => i
    | with_reducible apply Keeps.foldl
    | (intro r x hr; try dsimp -proj only)
    | with_reducible assumption
    | with_reducible exact fun _ i => i
    | split
    | exact fun i => by simpa using i

theorem keep_unmute {z0 : State} (s : State) (h : Keeps z0 s) : Keeps z0 (unmute s) := by
  unfold unmute
  try dsimp -proj only
  repeat' first
    | with_reducible exact h
    | with_reducible apply keep_modLin
    | with_reducible apply keep_modDio
    | (simp -proj only [keeps_mk]; with_reducible refine KeepsParts.of rfl ?_ ?_ ?_ ?_ ?_ ?_)
    | with_reducible exact fun i => i
    | with_reducible apply Keeps.foldl
    | (intro r x hr; try dsimp -proj only)
    | with_reducible assumption
    | with_reducible exact fun _ i => i
    | exact fun i => by simpa using i

theorem keep_takeRole {z0 : State} (s : State) (role : Nat) (h : Keeps z0 s) : Keeps z0 (takeRole s role) := by
  unfold takeRole
  try dsimp -proj only
  repeat' first
    | with_reducible exact h
    | with_reducible apply Keeps.ite
    | with_reducible apply keep_State_modPair
    | with_reducible apply keep_unmute
    | with_reducible apply keep_mute
    | (simp -proj only [keeps_mk]; with_reducible refine KeepsParts.of rfl ?_ ?_ ?_ ?_ ?_ ?_)
    | with_reducible exact fun i => i
    | with_reducible assumption
    | with_reducible exact fun _ i => i
    | split
    | exact fun i => by simpa using i

theorem keep_takeOver {z0 : State} (s : State) (cause : Nat) (h : Keeps z0 s) : Keeps z0 (takeOver s cause) := by
  unfold takeOver
  try dsimp -proj only
  repeat' first
    | with_reducible exact h
    | with_reducible apply keep_takeRole
    | with_reducible apply keep_pairCount
    | with_reducible apply keep_State_modPair
    | with_reducible apply keep_raise
    | (simp -proj only [keeps_mk]; with_reducible refine KeepsParts.of rfl ?_ ?_ ?_ ?_ ?_ ?_)
    | with_reducible exact fun i => i
    | with_reducible assumption
    | with_reducible exact fun _ i => i
    | exact fun i => by simpa using i

theorem keep_sendHeartbeat {z0 : State} (s : State) (h : Keeps z0 s) : Keeps z0 (sendHeartbeat s) := by
  unfold sendHeartbeat
  try dsimp -proj only
  repeat' first
    | with_reducible exact h
    | with_reducible apply Keeps.ite
    | with_reducible apply keep_modChan
    | with_reducible apply keep_modMvbPort
    | (simp -proj only [keeps_mk]; with_reducible refine KeepsParts.of rfl ?_ ?_ ?_ ?_ ?_ ?_)
    | with_reducible exact fun i => i
    | with_reducible assumption
    | with_reducible exact fun _ i => i
    | split
    | exact fun i => by simpa using i

theorem keep_pairAtMark {z0 : State} (s : State) (h : Keeps z0 s) : Keeps z0 (pairAtMark s) := by
  unfold pairAtMark
  try dsimp -proj only
  repeat' first
    | with_reducible exact h
    | with_reducible apply keep_refreshHello
    | with_reducible apply Keeps.ite
    | with_reducible apply keep_State_modPair
    | with_reducible apply keep_takeRole
    | with_reducible apply keep_takeOver
    | with_reducible apply keep_sendHeartbeat
    | with_reducible apply keep_stampPair
    | (simp -proj only [keeps_mk]; with_reducible refine KeepsParts.of rfl ?_ ?_ ?_ ?_ ?_ ?_)
    | with_reducible exact fun i => i
    | with_reducible assumption
    | with_reducible exact fun _ i => i
    | split
    | exact fun i => by simpa using i

theorem keep_sendCopy {z0 : State} (s : State) (c : GwSnap) (h : Keeps z0 s) : Keeps z0 (sendCopy s c) := by
  unfold sendCopy
  try dsimp -proj only
  repeat' first
    | with_reducible exact h
    | with_reducible apply Keeps.ite
    | with_reducible apply keep_sendPosted
    | with_reducible apply keep_State_modPair
    | (simp -proj only [keeps_mk]; with_reducible refine KeepsParts.of rfl ?_ ?_ ?_ ?_ ?_ ?_)
    | with_reducible exact fun i => i
    | with_reducible assumption
    | with_reducible exact fun _ i => i
    | split
    | exact fun i => by simpa using i

end Sys2Proof.Machine
end

