-- ==== Sys2Proof/Laws/GatewayRun.lean ====
section
/-! SUPPORT. Laws of Machine/GatewayRun.lean: each operation keeps the queue of waiting commands and soundness; each meaning goes on. -/

namespace Sys2Proof.Machine

theorem keep_sendPd {z0 : State} (s : State) (domain type comId prio idx dmac dip : Nat) (d : List Byte) (h : Keeps z0 s) : Keeps z0 (sendPd s domain type comId prio idx dmac dip d) := by
  unfold sendPd
  try dsimp -proj only
  repeat' first
    | with_reducible exact h
    | with_reducible apply keep_gwCount
    | with_reducible apply keep_State_modGw
    | (with_reducible refine Keeps.fst (by assumption) ?_; with_reducible apply keep_enterPipeline)
    | with_reducible apply keep_enterPipeline
    | (simp -proj only [keeps_mk]; with_reducible refine KeepsParts.of rfl ?_ ?_ ?_ ?_ ?_ ?_)
    | with_reducible exact fun i => i
    | with_reducible assumption
    | with_reducible exact fun _ i => i
    | split
    | exact fun i => by simpa using i

theorem keep_issueOut {z0 : State} (s : State) (o : GwOut) (cycle : Nat) (h : Keeps z0 s) : Keeps z0 (issueOut s o cycle) := by
  unfold issueOut
  try dsimp -proj only
  repeat' first
    | with_reducible exact h
    | with_reducible apply keep_gwCount
    | with_reducible apply keep_toChannel
    | with_reducible apply keep_sendPd
    | with_reducible apply keep_State_modGw
    | (with_reducible refine Keeps.fst (by assumption) ?_; with_reducible apply keep_enterPipeline)
    | with_reducible apply keep_enterPipeline
    | with_reducible apply keep_perfCount
    | (simp -proj only [keeps_mk]; with_reducible refine KeepsParts.of rfl ?_ ?_ ?_ ?_ ?_ ?_)
    | with_reducible exact fun i => i
    | with_reducible assumption
    | with_reducible exact fun _ i => i
    | split
    | exact fun i => by simpa using i

theorem keep_journalPut {z0 : State} (s : State) (tx : TxMsg) (h : Keeps z0 s) : Keeps z0 (journalPut s tx) := by
  unfold journalPut
  try dsimp -proj only
  repeat' first
    | with_reducible exact h
    | with_reducible apply keep_gwCount
    | with_reducible apply keep_State_modGw
    | (simp -proj only [keeps_mk]; with_reducible refine KeepsParts.of rfl ?_ ?_ ?_ ?_ ?_ ?_)
    | with_reducible exact fun i => i
    | with_reducible assumption
    | with_reducible exact fun _ i => i
    | exact fun i => by simpa using i

theorem keep_directFrame {z0 : State} (s : State) (f : Frame) (c : CarriageInfo) (ring : Nat) (h : Keeps z0 s) : Keeps z0 (directFrame s f c ring) := by
  unfold directFrame
  try dsimp -proj only
  repeat' first
    | with_reducible exact h
    | with_reducible apply Keeps.ite
    | with_reducible apply keep_gwCount
    | with_reducible apply keep_raisePosted
    | (with_reducible refine Keeps.snd (by assumption) ?_; with_reducible apply keep_gatewayCheck)
    | with_reducible apply keep_gatewayCheck
    | with_reducible apply keep_journalPut
    | with_reducible assumption
    | split

theorem keep_pdInput {z0 : State} (s : State) (f : Frame) (ip : IpInfo) (h : Keeps z0 s) : Keeps z0 (pdInput s f ip) := by
  unfold pdInput
  try dsimp -proj only
  repeat' first
    | with_reducible exact h
    | with_reducible apply Keeps.ite
    | with_reducible apply keep_gwCount
    | with_reducible apply keep_sendPd
    | with_reducible apply keep_latchInput
    | (simp -proj only [keeps_mk]; with_reducible refine KeepsParts.of rfl ?_ ?_ ?_ ?_ ?_ ?_)
    | with_reducible exact fun i => i
    | with_reducible assumption
    | with_reducible exact fun _ i => i
    | split
    | exact fun i => by simpa using i

theorem keep_acfInputs {z0 : State}  (x1 : Nat) (s : State) (x2 : Frame) (x3 : Nat) (x4 : List Byte) (h : Keeps z0 s) : Keeps z0 (acfInputs x1 s x2 x3 x4) := by
  induction x1 generalizing s x2 x3 x4 with
  | zero => exact h
  | succ n ih =>
    unfold acfInputs
    try dsimp -proj only
    repeat' first
      | with_reducible exact h
      | with_reducible apply Keeps.ite
      | with_reducible apply ih
      | with_reducible apply keep_latchInput
      | with_reducible apply keep_gwCount
      | with_reducible assumption
      | split

theorem keep_gatewayInput {z0 : State} (s : State) (f : Frame) (h : Keeps z0 s) : Keeps z0 (gatewayInput s f) := by
  unfold gatewayInput
  try dsimp -proj only
  repeat' first
    | with_reducible exact h
    | with_reducible apply Keeps.ite
    | with_reducible apply keep_gwCount
    | with_reducible apply keep_directFrame
    | with_reducible apply keep_updateStatus
    | with_reducible apply keep_latchInput
    | with_reducible apply keep_acfInputs
    | with_reducible apply keep_pdInput
    | (simp -proj only [keeps_mk]; with_reducible refine KeepsParts.of rfl ?_ ?_ ?_ ?_ ?_ ?_)
    | with_reducible exact fun i => i
    | with_reducible assumption
    | with_reducible exact fun _ i => i
    | split
    | exact fun i => by simpa using i

theorem keep_execGwInputDelivery (s : State) : Goes s (execGwInputDelivery s) := by
  have h := Keeps.refl s
  unfold execGwInputDelivery
  try dsimp -proj only
  repeat' first
    | with_reducible exact h
    | with_reducible apply Keeps.ite
    | with_reducible apply Goes.ite
    | with_reducible apply Goes.next
    | (with_reducible refine keep_deliverInternal _ _ ?_ (by assumption))
    | with_reducible apply keep_stampChans
    | with_reducible apply keep_gatewayInput
    | (simp -proj only [keeps_mk]; with_reducible refine KeepsParts.of rfl ?_ ?_ ?_ ?_ ?_ ?_)
    | with_reducible exact fun i => i
    | (intro r hr; try dsimp -proj only)
    | with_reducible assumption
    | with_reducible exact fun _ i => i
    | split
    | exact fun i => by simpa using i

theorem keep_execFrameArrival (point : Nat) (w : WireFrame) (complete : Bool) (s : State) : Goes s (execFrameArrival point w complete s) := by
  have h := Keeps.refl s
  unfold execFrameArrival
  try dsimp -proj only
  repeat' first
    | with_reducible exact h
    | with_reducible apply Keeps.ite
    | with_reducible apply Goes.ite
    | with_reducible apply Goes.next
    | with_reducible apply keep_perfCount
    | with_reducible apply keep_modEngine
    | (with_reducible refine Keeps.fst (by assumption) ?_; with_reducible apply keep_enterPipeline)
    | with_reducible apply keep_enterPipeline
    | with_reducible apply keep_portArrival
    | (simp -proj only [keeps_mk]; with_reducible refine KeepsParts.of rfl ?_ ?_ ?_ ?_ ?_ ?_)
    | with_reducible exact fun i => i
    | (intro r hr; try dsimp -proj only)
    | with_reducible assumption
    | with_reducible exact fun _ i => i
    | split
    | exact fun i => by simpa using i

theorem keep_runField {z0 : State} (r src : Nat) (d : List Byte) (stale : Bool) (i : Nat) (f : FieldMap) (b : Built) (h : Keeps z0 b.st) :
    Keeps z0 (runField r src d stale i f b).st := by
  unfold runField
  repeat' first
    | with_reducible exact h
    | with_reducible apply Keeps.ite
    | with_reducible apply keep_raiseSampledKey
    | with_reducible apply keep_gwCount
    | with_reducible apply keep_State_modGw
    | with_reducible assumption
    | split
    | dsimp only
theorem keep_buildTarget {z0 : State} (s : State) (t : GwTables) (r src i : Nat) (x : GwTarget) (d : List Byte) (stale : Bool) (h : Keeps z0 s) :
    Keeps z0 (buildTarget s t r src i x d stale).st := by
  unfold buildTarget
  generalize hb : ({ st := s, buf := padTo x.len (targetRun s i).buf } : Built) = b
  have hk : Keeps z0 b.st := by subst hb; exact h
  clear hb
  induction targetFields x generalizing b with
  | nil => exact hk
  | cons y ys ih =>
    refine ih _ ?_
    dsimp only
    split
    · exact keep_runField _ _ _ _ _ _ _ hk
    · exact hk

theorem keep_accFold {z0 : State} {α : Type} {f : Acc → α → Acc} (hf : ∀ a x, Keeps z0 a.st → Keeps z0 (f a x).st) (l : List α) (a : Acc)
    (h : Keeps z0 a.st) : Keeps z0 (l.foldl f a).st := by
  induction l generalizing a with
  | nil => exact h
  | cons x l ih => exact ih _ (hf a x h)

theorem keep_accAdd {z0 : State} (a : Acc) (r : GwRoute) (o : GwOut) (h : Keeps z0 a.st) : Keeps z0 (a.add r o).st := by
  unfold Acc.add
  split <;> exact h
theorem keep_modTarget {z0 : State} (s : State) (i : Nat) (f : TargetRun → TargetRun) (h : Keeps z0 s) : Keeps z0 (modTarget s i f) := by
  unfold modTarget
  try dsimp -proj only
  repeat' first
    | with_reducible exact h
    | with_reducible apply keep_State_modGw
    | (simp -proj only [keeps_mk]; with_reducible refine KeepsParts.of rfl ?_ ?_ ?_ ?_ ?_ ?_)
    | with_reducible exact fun i => i
    | with_reducible assumption
    | with_reducible exact fun _ i => i
    | exact fun i => by simpa using i

theorem keep_writeTarget {z0 : State} (c : GwSnap) (r : GwRoute) (ri ti : Nat) (x : GwTarget) (b : Built) (time : Nat) (stale : Bool) (a : Acc)
    (h : Keeps z0 b.st) : Keeps z0 (writeTarget c r ri ti x b time stale a).st := by
  have h1 : ∀ s f, Keeps z0 s → Keeps z0 (modTarget s ti f) := fun s f hs => keep_modTarget s ti f hs
  unfold writeTarget
  dsimp only
  repeat' first
    | with_reducible exact h
    | with_reducible apply keep_accAdd
    | with_reducible apply h1
    | with_reducible apply Keeps.ite
    | with_reducible apply keep_gwCount
    | split
    | dsimp only
theorem keep_cyclicTarget {z0 : State} (c : GwSnap) (t : GwTables) (r : GwRoute) (ri src : Nat) (latest : Option GwRec) (stale : Bool) (a : Acc)
    (ti : Nat) (h : Keeps z0 a.st) : Keeps z0 (cyclicTarget c t r ri src latest stale a ti).st := by
  unfold cyclicTarget
  dsimp only
  repeat' first
    | with_reducible exact h
    | with_reducible apply keep_writeTarget
    | with_reducible apply keep_targetCheck
    | with_reducible apply keep_buildTarget
    | with_reducible apply keep_gwCount
    | split
    | dsimp only
theorem keep_eventTarget {z0 : State} (c : GwSnap) (t : GwTables) (r : GwRoute) (ri src : Nat) (x : GwRec) (stale : Bool) (a : Acc) (n : Nat)
    (h : Keeps z0 a.st) : Keeps z0 (eventTarget c t r ri src x stale a n).st := by
  unfold eventTarget
  dsimp only
  repeat' first
    | with_reducible exact h
    | with_reducible apply keep_writeTarget
    | with_reducible apply keep_buildTarget
    | with_reducible apply keep_gwCount
    | split
    | dsimp only
theorem keep_duePending {z0 : State} (c : GwSnap) (t : GwTables) (r : GwRoute) (a : Acc) (ti : Nat) (h : Keeps z0 a.st) :
    Keeps z0 (duePending c t r a ti).st := by
  unfold duePending
  repeat' first
    | with_reducible exact h
    | exact keep_accAdd _ _ _ (keep_modTarget _ _ _ h)
    | split
    | dsimp only
theorem keep_markStale {z0 : State} (s : State) (c : GwSnap) (t : GwTables) (i : Nat) (r : GwRoute) (sl : Slot) (cause : Option Nat) (h : Keeps z0 s) : Keeps z0 (markStale s c t i r sl cause) := by
  unfold markStale
  try dsimp -proj only
  repeat' first
    | with_reducible exact h
    | with_reducible apply Keeps.ite
    | with_reducible apply keep_raise
    | with_reducible apply keep_State_modGw
    | with_reducible apply keep_gwCount
    | (simp -proj only [keeps_mk]; with_reducible refine KeepsParts.of rfl ?_ ?_ ?_ ?_ ?_ ?_)
    | with_reducible exact fun i => i
    | with_reducible assumption
    | with_reducible exact fun _ i => i
    | split
    | exact fun i => by simpa using i

theorem keep_runRoute {z0 : State} (c : GwSnap) (t : GwTables) (a : Acc) (e : Nat × GwRoute) (h : Keeps z0 a.st) :
    Keeps z0 (runRoute c t a e).st := by
  have h1 := keep_markStale a.st c t e.1 e.2 (tgetD c.slots e.1 {}) (staleCause c e.2 (tgetD c.slots e.1 {})) h
  unfold runRoute
  dsimp only
  split
  · exact keep_accFold (fun a x ha => keep_cyclicTarget _ _ _ _ _ _ _ a x ha) _ _ h1
  · refine keep_accFold (fun a x ha => keep_accFold (fun a y ha => ?_) _ _ ha) _ _ ?_
    · exact keep_eventTarget _ _ _ _ _ _ _ a y ha
    · exact keep_accFold (fun a x ha => keep_duePending _ _ _ a x ha) _ _ h1
theorem keep_beginCycle {z0 : State} (s : State) (c : GwSnap) (h : Keeps z0 s) : Keeps z0 (beginCycle s c).1 := by
  have ha : ∀ s0, Keeps z0 s0 → Keeps z0 ((tablesOf s c.epoch).gw.routes.foldl (runRoute c (tablesOf s c.epoch).gw) { st := s0 }).st :=
    fun s0 hs => keep_accFold (fun a x ha => keep_runRoute _ _ a x ha) _ _ hs
  unfold beginCycle
  dsimp -proj only
  repeat' first
    | with_reducible exact h
    | with_reducible apply Keeps.ite
    | with_reducible apply ha
    | with_reducible apply keep_pairCount
    | with_reducible apply keep_gwCount
    | with_reducible apply keep_State_modGw
    | split
theorem keep_cycleOverrun {z0 : State} (s : State) (cycle runUs kind : Nat) (h : Keeps z0 s) : Keeps z0 (cycleOverrun s cycle runUs kind) := by
  unfold cycleOverrun
  try dsimp -proj only
  repeat' first
    | with_reducible exact h
    | with_reducible apply keep_gwCount
    | with_reducible apply keep_raise
    | with_reducible assumption

theorem keep_execGwCycleMark_swap {z0 : State} (s : State) (m : Nat) (h : Keeps z0 s) : Keeps z0 (execGwCycleMark.swap s m) := by
  unfold execGwCycleMark.swap
  try dsimp -proj only
  repeat' first
    | with_reducible exact h
    | with_reducible apply keep_gwCount
    | with_reducible apply keep_countIn
    | with_reducible apply keep_State_modGw
    | (simp -proj only [keeps_mk]; with_reducible refine KeepsParts.of rfl ?_ ?_ ?_ ?_ ?_ ?_)
    | with_reducible exact fun i => i
    | with_reducible assumption
    | with_reducible exact fun _ i => i
    | exact fun i => by simpa using i

theorem keep_execGwCycleMark (s : State) : Goes s (execGwCycleMark s) := by
  have h := Keeps.refl s
  unfold execGwCycleMark
  try dsimp -proj only
  repeat' first
    | with_reducible exact h
    | with_reducible apply Keeps.ite
    | with_reducible apply Goes.ite
    | with_reducible apply Goes.next
    | with_reducible apply keep_State_until
    | with_reducible apply keep_State_modGw
    | with_reducible apply keep_pairAtMark
    | with_reducible apply keep_cycleOverrun
    | with_reducible apply keep_gwCount
    | with_reducible apply keep_execGwCycleMark_swap
    | (simp -proj only [keeps_mk]; with_reducible refine KeepsParts.of rfl ?_ ?_ ?_ ?_ ?_ ?_)
    | with_reducible exact fun i => i
    | (intro r hr; try dsimp -proj only)
    | with_reducible assumption
    | with_reducible exact fun _ i => i
    | split
    | exact fun i => by simpa using i

theorem keep_imageEcc {z0 : State} (s : State) (c : GwSnap) (region idx off corrected : Nat) (h : Keeps z0 s) : Keeps z0 (imageEcc s c region idx off corrected).1 := by
  unfold imageEcc
  try dsimp -proj only
  repeat' first
    | with_reducible exact h
    | with_reducible apply keep_raise
    | with_reducible apply keep_State_modGw
    | with_reducible apply keep_postedFail
    | (simp -proj only [keeps_mk]; with_reducible refine KeepsParts.of rfl ?_ ?_ ?_ ?_ ?_ ?_)
    | with_reducible exact fun i => i
    | with_reducible assumption
    | with_reducible exact fun _ i => i
    | split
    | exact fun i => by simpa using i

theorem keep_endCycle {z0 : State} (s : State) (c : GwSnap) (runUs : Nat) (h : Keeps z0 s) : Keeps z0 (endCycle s c runUs) := by
  unfold endCycle
  try dsimp -proj only
  repeat' first
    | with_reducible exact h
    | with_reducible apply keep_State_until
    | with_reducible apply keep_State_modGw
    | with_reducible apply keep_perfCount
    | with_reducible apply keep_sendCopy
    | with_reducible apply keep_countOut
    | (simp -proj only [keeps_mk]; with_reducible refine KeepsParts.of rfl ?_ ?_ ?_ ?_ ?_ ?_)
    | with_reducible exact fun i => i
    | with_reducible assumption
    | with_reducible exact fun _ i => i
    | exact fun i => by simpa using i

theorem keep_execGwCycleExecute (issue runUs : Nat) (ecc : Option (Nat × Nat × Nat × Nat)) (s : State) : Goes s (execGwCycleExecute issue runUs ecc s) := by
  have h := Keeps.refl s
  unfold execGwCycleExecute
  try dsimp -proj only
  repeat' first
    | with_reducible exact h
    | with_reducible apply Keeps.ite
    | with_reducible apply Goes.ite
    | with_reducible apply Goes.next
    | with_reducible apply keep_State_until
    | with_reducible apply keep_cycleOverrun
    | (with_reducible refine Keeps.fst (by assumption) ?_; with_reducible apply keep_imageEcc)
    | with_reducible apply keep_imageEcc
    | (with_reducible refine Keeps.fst (by assumption) ?_; with_reducible apply keep_beginCycle)
    | with_reducible apply keep_beginCycle
    | with_reducible apply keep_stampChans
    | with_reducible apply keep_issueOut
    | with_reducible apply keep_endCycle
    | with_reducible apply keep_State_modGw
    | (simp -proj only [keeps_mk]; with_reducible refine KeepsParts.of rfl ?_ ?_ ?_ ?_ ?_ ?_)
    | with_reducible exact fun i => i
    | with_reducible apply Keeps.foldl
    | (intro r x hr; try dsimp -proj only)
    | (intro r hr; try dsimp -proj only)
    | with_reducible assumption
    | with_reducible exact fun _ i => i
    | split
    | exact fun i => by simpa using i

theorem keep_execGwCycleCut (s : State) : Goes s (execGwCycleCut s) := by
  have h := Keeps.refl s
  unfold execGwCycleCut
  try dsimp -proj only
  repeat' first
    | with_reducible exact h
    | with_reducible apply Keeps.ite
    | with_reducible apply Goes.ite
    | with_reducible apply Goes.next
    | with_reducible apply keep_State_until
    | with_reducible apply keep_gwCount
    | with_reducible apply keep_cycleOverrun
    | with_reducible apply keep_countOut
    | with_reducible apply keep_State_modGw
    | (simp -proj only [keeps_mk]; with_reducible refine KeepsParts.of rfl ?_ ?_ ?_ ?_ ?_ ?_)
    | with_reducible exact fun i => i
    | (intro r hr; try dsimp -proj only)
    | with_reducible assumption
    | with_reducible exact fun _ i => i
    | split
    | exact fun i => by simpa using i

theorem keep_execLockLeaseExpiry (c : Nat) (s : State) : Goes s (execLockLeaseExpiry c s) := by
  have h := Keeps.refl s
  unfold execLockLeaseExpiry
  try dsimp -proj only
  repeat' first
    | with_reducible exact h
    | with_reducible apply Goes.ite
    | with_reducible apply Goes.next
    | with_reducible apply keep_legRow
    | with_reducible apply keep_breakLock
    | with_reducible apply keep_State_until
    | (simp -proj only [keeps_mk]; with_reducible refine KeepsParts.of rfl ?_ ?_ ?_ ?_ ?_ ?_)
    | with_reducible exact fun i => i
    | (intro r hr; try dsimp -proj only)
    | with_reducible assumption
    | with_reducible exact fun _ i => i
    | split
    | exact fun i => by simpa using i

theorem keep_execGwFetchComplete (token : Nat) (data : List Byte) (s : State) : Goes s (execGwFetchComplete token data s) := by
  have h := Keeps.refl s
  unfold execGwFetchComplete
  try dsimp -proj only
  repeat' first
    | with_reducible exact h
    | with_reducible apply Keeps.ite
    | with_reducible apply Goes.ite
    | with_reducible apply Goes.next
    | with_reducible apply keep_fetchFail
    | with_reducible apply keep_fetchDone
    | with_reducible apply keep_cachePut
    | (simp -proj only [keeps_mk]; with_reducible refine KeepsParts.of rfl ?_ ?_ ?_ ?_ ?_ ?_)
    | with_reducible exact fun i => i
    | (intro r hr; try dsimp -proj only)
    | with_reducible assumption
    | with_reducible exact fun _ i => i
    | split
    | exact fun i => by simpa using i

theorem keep_execGwFetchTimeout (token : Nat) (s : State) : Goes s (execGwFetchTimeout token s) := by
  have h := Keeps.refl s
  unfold execGwFetchTimeout
  try dsimp -proj only
  repeat' first
    | with_reducible exact h
    | with_reducible apply Goes.ite
    | with_reducible apply Goes.next
    | with_reducible apply keep_State_until
    | with_reducible apply keep_fetchFail
    | with_reducible apply keep_modChan
    | (simp -proj only [keeps_mk]; with_reducible refine KeepsParts.of rfl ?_ ?_ ?_ ?_ ?_ ?_)
    | with_reducible exact fun i => i
    | (intro r hr; try dsimp -proj only)
    | with_reducible assumption
    | with_reducible exact fun _ i => i
    | split
    | exact fun i => by simpa using i

end Sys2Proof.Machine
end

