-- ==== Sys2Proof/Laws/GatewayCmds.lean ====
section
/-! SUPPORT. Laws of Machine/GatewayCmds.lean: each operation keeps the queue of waiting commands and soundness; each meaning goes on. -/

namespace Sys2Proof.Machine

theorem keep_specGwCycleSet : SpecKeeps specGwCycleSet := by
  intro z0 s r p h
  unfold specGwCycleSet
  try dsimp only
  repeat' first
    | with_reducible exact h
    | with_reducible apply ResultKeeps.checked
    | with_reducible apply ResultKeeps.ite
    | with_reducible exact ResultKeeps.fail
    | with_reducible apply ResultKeeps.doneMk
    | with_reducible apply ResultKeeps.failWith
    | with_reducible apply ResultKeeps.retry
    | with_reducible apply ResultKeeps.wait
    | with_reducible apply keep_State_modGw
    | (simp -proj only [keeps_mk]; with_reducible refine KeepsParts.of rfl ?_ ?_ ?_ ?_ ?_ ?_)
    | with_reducible exact fun i => i
    | (intro r hr; try dsimp only [id])
    | with_reducible assumption
    | with_reducible exact fun _ i => i
    | exact fun i => by simpa using i

theorem keep_modGwt {z0 : State} (s : State) (f : GwTables → GwTables) (h : Keeps z0 s) : Keeps z0 (modGwt s f) := by
  unfold modGwt
  try dsimp -proj only
  repeat' first
    | with_reducible exact h
    | (simp -proj only [keeps_mk]; with_reducible refine KeepsParts.of rfl ?_ ?_ ?_ ?_ ?_ ?_)
    | with_reducible exact fun i => i
    | with_reducible assumption
    | with_reducible exact fun _ i => i
    | exact fun i => by simpa using i

theorem keep_entryRoute {z0 : State} (off i : Nat) (del : Bool) (e : List Byte) (s : State) (h : Keeps z0 s) : EntryKeeps z0 (entryRoute off i del e s) := by
  unfold entryRoute
  try dsimp -proj only
  repeat' first
    | with_reducible exact h
    | with_reducible apply Keeps.ite
    | with_reducible apply EntryKeeps.entryOk
    | with_reducible apply EntryKeeps.ite
    | with_reducible exact EntryKeeps.error
    | with_reducible apply EntryKeeps.ok
    | with_reducible apply keep_modGwt
    | with_reducible apply keep_State_modGw
    | (simp -proj only [keeps_mk]; with_reducible refine KeepsParts.of rfl ?_ ?_ ?_ ?_ ?_ ?_)
    | with_reducible exact fun i => i
    | with_reducible assumption
    | with_reducible exact fun _ i => i
    | split
    | exact fun i => by simpa using i

theorem keep_entryTarget {z0 : State} (off i : Nat) (del : Bool) (e : List Byte) (s : State) (h : Keeps z0 s) : EntryKeeps z0 (entryTarget off i del e s) := by
  unfold entryTarget
  try dsimp -proj only
  repeat' first
    | with_reducible exact h
    | with_reducible apply Keeps.ite
    | with_reducible apply EntryKeeps.entryOk
    | with_reducible apply EntryKeeps.ite
    | with_reducible exact EntryKeeps.error
    | with_reducible apply EntryKeeps.ok
    | with_reducible apply keep_modGwt
    | with_reducible apply keep_State_modGw
    | (simp -proj only [keeps_mk]; with_reducible refine KeepsParts.of rfl ?_ ?_ ?_ ?_ ?_ ?_)
    | with_reducible exact fun i => i
    | with_reducible assumption
    | with_reducible exact fun _ i => i
    | split
    | exact fun i => by simpa using i

theorem keep_entryField {z0 : State} (off i : Nat) (del : Bool) (e : List Byte) (s : State) (h : Keeps z0 s) : EntryKeeps z0 (entryField off i del e s) := by
  unfold entryField
  try dsimp -proj only
  repeat' first
    | with_reducible exact h
    | with_reducible apply Keeps.ite
    | with_reducible apply EntryKeeps.entryOk
    | with_reducible apply EntryKeeps.ite
    | with_reducible exact EntryKeeps.error
    | with_reducible apply EntryKeeps.ok
    | with_reducible apply keep_modGwt
    | with_reducible apply keep_State_modGw
    | (simp -proj only [keeps_mk]; with_reducible refine KeepsParts.of rfl ?_ ?_ ?_ ?_ ?_ ?_)
    | with_reducible exact fun i => i
    | with_reducible assumption
    | with_reducible exact fun _ i => i
    | split
    | exact fun i => by simpa using i

theorem keep_entryGateway {z0 : State} (off : Nat) (e : List Byte) (s : State) (h : Keeps z0 s) : EntryKeeps z0 (entryGateway off e s) := by
  unfold entryGateway
  try dsimp -proj only
  repeat' first
    | with_reducible exact h
    | with_reducible apply Keeps.ite
    | with_reducible apply EntryKeeps.entryOk
    | with_reducible apply EntryKeeps.ite
    | with_reducible exact EntryKeeps.error
    | with_reducible apply EntryKeeps.ok
    | with_reducible apply keep_entryRoute
    | with_reducible apply keep_entryTarget
    | with_reducible apply keep_entryField
    | (simp -proj only [keeps_mk]; with_reducible refine KeepsParts.of rfl ?_ ?_ ?_ ?_ ?_ ?_)
    | with_reducible exact fun i => i
    | with_reducible assumption
    | with_reducible exact fun _ i => i
    | split
    | exact fun i => by simpa using i

theorem keep_specRouteTableSet : SpecKeeps specRouteTableSet := by
  intro z0 s r p h
  unfold specRouteTableSet
  try dsimp only
  repeat' first
    | with_reducible exact h
    | with_reducible apply ResultKeeps.checked
    | with_reducible apply ResultKeeps.ite
    | with_reducible exact ResultKeeps.fail
    | with_reducible apply ResultKeeps.doneMk
    | with_reducible apply ResultKeeps.failWith
    | with_reducible apply ResultKeeps.retry
    | with_reducible apply ResultKeeps.wait
    | exact keep_listBody (fun _ _ _ hs => by first | exact keep_entryGateway _ _ _ hs) h
    | (with_reducible refine ResultKeeps.of_done (by assumption) ?_; exact keep_listBody (fun _ _ _ hs => by first | exact keep_entryGateway _ _ _ hs) h)
    | (with_reducible refine ResultKeeps.of_after (by assumption) ?_ _ hr; exact keep_listBody (fun _ _ _ hs => by first | exact keep_entryGateway _ _ _ hs) h)
    | with_reducible apply keep_entryGateway
    | (intro r hr; try dsimp only [id])
    | with_reducible assumption

theorem keep_raiseTrdp {z0 : State} (s : State) (i : Nat) (x : TrdpSession) (lost : Bool) (cause broken : Nat) (h : Keeps z0 s) : Keeps z0 (raiseTrdp s i x lost cause broken) := by
  unfold raiseTrdp
  try dsimp -proj only
  repeat' first
    | with_reducible exact h
    | with_reducible apply Keeps.ite
    | with_reducible apply keep_raise
    | with_reducible assumption
    | split

theorem keep_loseSession {z0 : State} (s : State) (i cause : Nat) (h : Keeps z0 s) : Keeps z0 (loseSession s i cause) := by
  unfold loseSession
  try dsimp -proj only
  repeat' first
    | with_reducible exact h
    | with_reducible apply keep_breakLocks
    | with_reducible apply keep_raiseTrdp
    | with_reducible apply keep_State_modGw
    | (simp -proj only [keeps_mk]; with_reducible refine KeepsParts.of rfl ?_ ?_ ?_ ?_ ?_ ?_)
    | with_reducible exact fun i => i
    | with_reducible assumption
    | with_reducible exact fun _ i => i
    | split
    | exact fun i => by simpa using i

theorem keep_loseSessions {z0 : State} (s : State) (which : TrdpSession → Bool) (cause : Nat) (h : Keeps z0 s) : Keeps z0 (loseSessions s which cause) := by
  unfold loseSessions
  try dsimp -proj only
  repeat' first
    | with_reducible exact h
    | with_reducible apply keep_loseSession
    | (simp -proj only [keeps_mk]; with_reducible refine KeepsParts.of rfl ?_ ?_ ?_ ?_ ?_ ?_)
    | with_reducible apply Keeps.foldl
    | (intro r x hr; try dsimp -proj only)
    | with_reducible assumption

theorem keep_specEndpointSet : SpecKeeps specEndpointSet := by
  intro z0 s r p h
  unfold specEndpointSet
  try dsimp only
  repeat' first
    | with_reducible exact h
    | with_reducible apply Keeps.ite
    | with_reducible apply ResultKeeps.checked
    | with_reducible apply ResultKeeps.ite
    | with_reducible exact ResultKeeps.fail
    | with_reducible apply ResultKeeps.doneMk
    | with_reducible apply ResultKeeps.failWith
    | with_reducible apply ResultKeeps.retry
    | with_reducible apply ResultKeeps.wait
    | with_reducible apply keep_State_modGw
    | with_reducible apply keep_loseSessions
    | (simp -proj only [keeps_mk]; with_reducible refine KeepsParts.of rfl ?_ ?_ ?_ ?_ ?_ ?_)
    | with_reducible exact fun i => i
    | (intro r hr; try dsimp only [id])
    | with_reducible assumption
    | with_reducible exact fun _ i => i
    | split
    | exact fun i => by simpa using i

theorem keep_entryAcf {z0 : State} (off : Nat) (e : List Byte) (s : State) (h : Keeps z0 s) : EntryKeeps z0 (entryAcf off e s) := by
  unfold entryAcf
  try dsimp -proj only
  repeat' first
    | with_reducible exact h
    | with_reducible apply Keeps.ite
    | with_reducible apply EntryKeeps.entryOk
    | with_reducible apply EntryKeeps.ite
    | with_reducible exact EntryKeeps.error
    | with_reducible apply EntryKeeps.ok
    | with_reducible apply keep_State_modGw
    | (simp -proj only [keeps_mk]; with_reducible refine KeepsParts.of rfl ?_ ?_ ?_ ?_ ?_ ?_)
    | with_reducible exact fun i => i
    | with_reducible assumption
    | with_reducible exact fun _ i => i
    | split
    | exact fun i => by simpa using i

theorem keep_specAcfBusSet : SpecKeeps specAcfBusSet := by
  intro z0 s r p h
  unfold specAcfBusSet
  try dsimp only
  repeat' first
    | with_reducible exact h
    | with_reducible apply ResultKeeps.checked
    | with_reducible apply ResultKeeps.ite
    | with_reducible exact ResultKeeps.fail
    | with_reducible apply ResultKeeps.doneMk
    | with_reducible apply ResultKeeps.failWith
    | with_reducible apply ResultKeeps.retry
    | with_reducible apply ResultKeeps.wait
    | exact keep_listBody (fun _ _ _ hs => by first | exact keep_entryAcf _ _ _ hs) h
    | (with_reducible refine ResultKeeps.of_done (by assumption) ?_; exact keep_listBody (fun _ _ _ hs => by first | exact keep_entryAcf _ _ _ hs) h)
    | (with_reducible refine ResultKeeps.of_after (by assumption) ?_ _ hr; exact keep_listBody (fun _ _ _ hs => by first | exact keep_entryAcf _ _ _ hs) h)
    | with_reducible apply keep_entryAcf
    | (intro r hr; try dsimp only [id])
    | with_reducible assumption

theorem keep_retryLater {z0 : State} (s : State) (a : Actor) (op tok : Nat) (p : List Byte) (hint c : Nat) (h : Keeps z0 s) : ResultKeeps z0 (retryLater s a op tok p hint c) := by
  unfold retryLater
  try dsimp -proj only
  repeat' first
    | with_reducible exact h
    | with_reducible apply ResultKeeps.checked
    | with_reducible apply ResultKeeps.ite
    | with_reducible exact ResultKeeps.fail
    | with_reducible apply ResultKeeps.doneMk
    | with_reducible apply ResultKeeps.failWith
    | with_reducible apply ResultKeeps.retry
    | with_reducible apply ResultKeeps.wait
    | (with_reducible refine Keeps.snd (by assumption) ?_; with_reducible apply keep_issueToken)
    | with_reducible apply keep_issueToken
    | with_reducible apply keep_renewToken
    | with_reducible apply keep_gwCount
    | (intro r hr; try dsimp only [id])
    | with_reducible assumption

theorem keep_spendToken {z0 : State} (s : State) (a : Actor) (op tok : Nat) (p : List Byte) (h : Keeps z0 s) : Keeps z0 (spendToken s a op tok p) := by
  unfold spendToken
  repeat' first
    | with_reducible exact h
    | with_reducible apply Keeps.ite
    | with_reducible apply keep_dropToken

theorem keep_gwWrite {z0 : State} (s : State) (a : Actor) (p : List Byte) (h : Keeps z0 s) : ResultKeeps z0 (gwWrite s a p) := by
  unfold gwWrite
  try dsimp -proj only
  repeat' first
    | with_reducible exact h
    | with_reducible apply Keeps.ite
    | with_reducible apply ResultKeeps.checked
    | with_reducible apply ResultKeeps.ite
    | with_reducible exact ResultKeeps.fail
    | with_reducible apply ResultKeeps.doneMk
    | with_reducible apply ResultKeeps.failWith
    | with_reducible apply ResultKeeps.retry
    | with_reducible apply ResultKeeps.wait
    | (with_reducible refine Keeps.snd (by assumption) ?_; with_reducible apply keep_gatewayCheck)
    | with_reducible apply keep_gatewayCheck
    | with_reducible apply keep_journalPut
    | (simp -proj only [keeps_mk]; with_reducible refine KeepsParts.of rfl ?_ ?_ ?_ ?_ ?_ ?_)
    | with_reducible exact fun i => i
    | with_reducible exact fun i => InvMb.mk i.1 i.2 i.3
    | (intro r hr; try dsimp only [id])
    | with_reducible assumption
    | with_reducible exact fun _ i => i
    | split
    | exact fun i => keepMb i (by simp [i.1]) (by simp [i.2]) (by intro hw; repeat' first | with_reducible exact hw | with_reducible apply wf_mwrite | with_reducible apply wf_mset | exact rfl)
    | exact fun i => by simpa using i

theorem keep_readDone {z0 : State} (s : State) (v time : Nat) (flags exc : Nat) (cs : List Nat) (used : Bool) (h : Keeps z0 s) : ResultKeeps z0 (readDone s v time flags exc cs used) := by
  unfold readDone
  try dsimp -proj only
  repeat' first
    | with_reducible exact h
    | with_reducible apply ResultKeeps.checked
    | with_reducible apply ResultKeeps.ite
    | with_reducible exact ResultKeeps.fail
    | with_reducible apply ResultKeeps.doneMk
    | with_reducible apply ResultKeeps.failWith
    | with_reducible apply ResultKeeps.retry
    | with_reducible apply ResultKeeps.wait
    | (intro r hr; try dsimp only [id])
    | with_reducible assumption

theorem keep_readFrom {z0 : State} (s : State) (d : List Byte) (off w : Nat) (little : Bool) (time flags : Nat) (cs : List Nat) (used : Bool) (h : Keeps z0 s) : ResultKeeps z0 (readFrom s d off w little time flags cs used) := by
  unfold readFrom
  try dsimp -proj only
  repeat' first
    | with_reducible exact h
    | with_reducible apply ResultKeeps.checked
    | with_reducible apply ResultKeeps.ite
    | with_reducible exact ResultKeeps.fail
    | with_reducible apply ResultKeeps.doneMk
    | with_reducible apply ResultKeeps.failWith
    | with_reducible apply ResultKeeps.retry
    | with_reducible apply ResultKeeps.wait
    | with_reducible apply keep_readDone
    | (simp -proj only [keeps_mk]; with_reducible refine KeepsParts.of rfl ?_ ?_ ?_ ?_ ?_ ?_)
    | with_reducible exact fun i => i
    | (intro r hr; try dsimp only [id])
    | with_reducible assumption
    | with_reducible exact fun _ i => i
    | split
    | exact fun i => by simpa using i

theorem keep_gwRead_start {z0 : State} (s : State) (c fl w fn ident addr : Nat) (to_ : Clamped) (a : Actor) (p : List Byte) (big mb : Bool) (h : Keeps z0 s) : ResultKeeps z0 (gwRead.start s c fl w fn ident addr to_ a p big mb) := by
  unfold gwRead.start
  try dsimp -proj only
  repeat' first
    | with_reducible exact h
    | with_reducible apply Keeps.ite
    | with_reducible apply ResultKeeps.checked
    | with_reducible apply ResultKeeps.ite
    | with_reducible exact ResultKeeps.fail
    | with_reducible apply ResultKeeps.doneMk
    | with_reducible apply ResultKeeps.failWith
    | with_reducible apply ResultKeeps.retry
    | with_reducible apply ResultKeeps.wait
    | with_reducible apply keep_readFrom
    | with_reducible apply keep_raise
    | with_reducible apply keep_gwCount
    | (with_reducible refine Keeps.snd (by assumption) ?_; with_reducible apply keep_issueToken)
    | with_reducible apply keep_issueToken
    | with_reducible apply keep_State_modGw
    | with_reducible apply keep_toChannel
    | (simp -proj only [keeps_mk]; with_reducible refine KeepsParts.of rfl ?_ ?_ ?_ ?_ ?_ ?_)
    | with_reducible exact fun i => i
    | (intro r hr; try dsimp only [id])
    | with_reducible assumption
    | with_reducible exact fun _ i => i
    | split
    | exact fun i => by simpa using i

theorem keep_gwRead {z0 : State} (s : State) (a : Actor) (tok : Nat) (p : List Byte) (h : Keeps z0 s) : ResultKeeps z0 (gwRead s a tok p) := by
  unfold gwRead
  try dsimp -proj only
  repeat' first
    | with_reducible exact h
    | with_reducible apply Keeps.ite
    | with_reducible apply ResultKeeps.checked
    | with_reducible apply ResultKeeps.ite
    | with_reducible exact ResultKeeps.fail
    | with_reducible apply ResultKeeps.doneMk
    | with_reducible apply ResultKeeps.failWith
    | with_reducible apply ResultKeeps.retry
    | with_reducible apply ResultKeeps.wait
    | with_reducible apply keep_readDone
    | with_reducible apply keep_dropToken
    | with_reducible apply keep_readFrom
    | with_reducible apply keep_gwRead_start
    | with_reducible apply keep_renewToken
    | with_reducible apply keep_gwCount
    | (simp -proj only [keeps_mk]; with_reducible refine KeepsParts.of rfl ?_ ?_ ?_ ?_ ?_ ?_)
    | with_reducible exact fun i => i
    | with_reducible exact fun i => InvMb.mk i.1 i.2 i.3
    | (intro r hr; try dsimp only [id])
    | with_reducible assumption
    | with_reducible exact fun _ i => i
    | split
    | exact fun i => keepMb i (by simp [i.1]) (by simp [i.2]) (by intro hw; repeat' first | with_reducible exact hw | with_reducible apply wf_mwrite | with_reducible apply wf_mset | exact rfl)
    | exact fun i => by simpa using i

theorem keep_gwLock {z0 : State} (s : State) (a : Actor) (tok : Nat) (p : List Byte) (h : Keeps z0 s) : ResultKeeps z0 (gwLock s a tok p) := by
  unfold gwLock
  try dsimp -proj only
  repeat' first
    | with_reducible exact h
    | with_reducible apply Keeps.ite
    | with_reducible apply ResultKeeps.checked
    | with_reducible apply ResultKeeps.ite
    | with_reducible exact ResultKeeps.fail
    | with_reducible apply ResultKeeps.doneMk
    | with_reducible apply ResultKeeps.failWith
    | with_reducible apply ResultKeeps.retry
    | with_reducible apply ResultKeeps.wait
    | with_reducible apply keep_State_modGw
    | with_reducible apply keep_stampChans
    | with_reducible apply keep_endLock
    | with_reducible apply keep_spendToken
    | with_reducible apply keep_retryLater
    | with_reducible apply keep_gwCount
    | (simp -proj only [keeps_mk]; with_reducible refine KeepsParts.of rfl ?_ ?_ ?_ ?_ ?_ ?_)
    | with_reducible exact fun i => i
    | (intro r hr; try dsimp only [id])
    | with_reducible assumption
    | with_reducible exact fun _ i => i
    | split
    | exact fun i => by simpa using i

theorem keep_gwExchange_go {z0 : State} (s : State) (c : Nat) (a : Actor) (tok : Nat) (p : List Byte) (expect : Bool) (len queued : Nat) (tx : Nat → TxMsg) (h : Keeps z0 s) : ResultKeeps z0 (gwExchange.go s c a tok p expect len queued tx) := by
  unfold gwExchange.go
  try dsimp -proj only
  repeat' first
    | with_reducible exact h
    | with_reducible apply Keeps.ite
    | with_reducible apply ResultKeeps.checked
    | with_reducible apply ResultKeeps.ite
    | with_reducible exact ResultKeeps.fail
    | with_reducible apply ResultKeeps.doneMk
    | with_reducible apply ResultKeeps.failWith
    | with_reducible apply ResultKeeps.retry
    | with_reducible apply ResultKeeps.wait
    | with_reducible apply keep_stampChans
    | with_reducible apply keep_spendToken
    | with_reducible apply keep_toChannel
    | (with_reducible refine Keeps.snd (by assumption) ?_; with_reducible apply keep_issueToken)
    | with_reducible apply keep_issueToken
    | with_reducible apply keep_gwCount
    | with_reducible apply keep_State_modGw
    | (simp -proj only [keeps_mk]; with_reducible refine KeepsParts.of rfl ?_ ?_ ?_ ?_ ?_ ?_)
    | with_reducible exact fun i => i
    | (intro r hr; try dsimp only [id])
    | with_reducible assumption
    | with_reducible exact fun _ i => i
    | split
    | exact fun i => by simpa using i

theorem keep_gwExchange_start {z0 : State} (s : State) (c : Nat) (a : Actor) (tok : Nat) (p : List Byte) (expect : Bool) (len queued : Nat) (tx : Nat → TxMsg) (h : Keeps z0 s) : ResultKeeps z0 (gwExchange.start s c a tok p expect len queued tx) := by
  unfold gwExchange.start
  try dsimp -proj only
  repeat' first
    | with_reducible exact h
    | with_reducible apply Keeps.ite
    | with_reducible apply ResultKeeps.checked
    | with_reducible apply ResultKeeps.ite
    | with_reducible exact ResultKeeps.fail
    | with_reducible apply ResultKeeps.doneMk
    | with_reducible apply ResultKeeps.failWith
    | with_reducible apply ResultKeeps.retry
    | with_reducible apply ResultKeeps.wait
    | with_reducible apply keep_gwExchange_go
    | with_reducible apply keep_retryLater
    | (simp -proj only [keeps_mk]; with_reducible refine KeepsParts.of rfl ?_ ?_ ?_ ?_ ?_ ?_)
    | with_reducible exact fun i => i
    | (intro r hr; try dsimp only [id])
    | with_reducible assumption
    | with_reducible exact fun _ i => i
    | split
    | exact fun i => by simpa using i

theorem keep_gwExchange {z0 : State} (s : State) (a : Actor) (tok : Nat) (p : List Byte) (h : Keeps z0 s) : ResultKeeps z0 (gwExchange s a tok p) := by
  unfold gwExchange
  try dsimp -proj only
  repeat' first
    | with_reducible exact h
    | with_reducible apply Keeps.ite
    | with_reducible apply ResultKeeps.checked
    | with_reducible apply ResultKeeps.ite
    | with_reducible exact ResultKeeps.fail
    | with_reducible apply ResultKeeps.doneMk
    | with_reducible apply ResultKeeps.failWith
    | with_reducible apply ResultKeeps.retry
    | with_reducible apply ResultKeeps.wait
    | with_reducible apply keep_dropToken
    | with_reducible apply keep_renewToken
    | with_reducible apply keep_gwCount
    | with_reducible apply keep_gwExchange_start
    | (simp -proj only [keeps_mk]; with_reducible refine KeepsParts.of rfl ?_ ?_ ?_ ?_ ?_ ?_)
    | with_reducible exact fun i => i
    | (intro r hr; try dsimp only [id])
    | with_reducible assumption
    | with_reducible exact fun _ i => i
    | split
    | exact fun i => by simpa using i

theorem keep_specGwWrite : SpecKeeps specGwWrite := by
  intro z0 s r p h
  unfold specGwWrite
  try dsimp only
  repeat' first
    | with_reducible exact h
    | with_reducible apply ResultKeeps.checked
    | with_reducible apply ResultKeeps.ite
    | with_reducible exact ResultKeeps.fail
    | with_reducible apply ResultKeeps.doneMk
    | with_reducible apply ResultKeeps.failWith
    | with_reducible apply ResultKeeps.retry
    | with_reducible apply ResultKeeps.wait
    | with_reducible apply keep_gwWrite
    | (intro r hr; try dsimp only [id])
    | with_reducible assumption

theorem keep_specGwRead : SpecKeeps specGwRead := by
  intro z0 s r p h
  unfold specGwRead
  try dsimp only
  repeat' first
    | with_reducible exact h
    | with_reducible apply ResultKeeps.checked
    | with_reducible apply ResultKeeps.ite
    | with_reducible exact ResultKeeps.fail
    | with_reducible apply ResultKeeps.doneMk
    | with_reducible apply ResultKeeps.failWith
    | with_reducible apply ResultKeeps.retry
    | with_reducible apply ResultKeeps.wait
    | with_reducible apply keep_gwRead
    | (intro r hr; try dsimp only [id])
    | with_reducible assumption

theorem keep_specGwLock : SpecKeeps specGwLock := by
  intro z0 s r p h
  unfold specGwLock
  try dsimp only
  repeat' first
    | with_reducible exact h
    | with_reducible apply ResultKeeps.checked
    | with_reducible apply ResultKeeps.ite
    | with_reducible exact ResultKeeps.fail
    | with_reducible apply ResultKeeps.doneMk
    | with_reducible apply ResultKeeps.failWith
    | with_reducible apply ResultKeeps.retry
    | with_reducible apply ResultKeeps.wait
    | with_reducible apply keep_gwLock
    | (intro r hr; try dsimp only [id])
    | with_reducible assumption

theorem keep_specGwExchange : SpecKeeps specGwExchange := by
  intro z0 s r p h
  unfold specGwExchange
  try dsimp only
  repeat' first
    | with_reducible exact h
    | with_reducible apply ResultKeeps.checked
    | with_reducible apply ResultKeeps.ite
    | with_reducible exact ResultKeeps.fail
    | with_reducible apply ResultKeeps.doneMk
    | with_reducible apply ResultKeeps.failWith
    | with_reducible apply ResultKeeps.retry
    | with_reducible apply ResultKeeps.wait
    | with_reducible apply keep_gwExchange
    | (intro r hr; try dsimp only [id])
    | with_reducible assumption

theorem keep_specGwStatusGet : SpecKeeps specGwStatusGet := by
  intro z0 s r p h
  unfold specGwStatusGet
  try dsimp only
  repeat' first
    | with_reducible exact h
    | with_reducible apply Keeps.ite
    | with_reducible apply ResultKeeps.checked
    | with_reducible apply ResultKeeps.ite
    | with_reducible exact ResultKeeps.fail
    | with_reducible apply ResultKeeps.doneMk
    | with_reducible apply ResultKeeps.failWith
    | with_reducible apply ResultKeeps.retry
    | with_reducible apply ResultKeeps.wait
    | (intro r hr; try dsimp only [id])
    | with_reducible assumption
    | split

theorem keep_specGwCountersGet : SpecKeeps specGwCountersGet := by
  intro z0 s r p h
  unfold specGwCountersGet
  try dsimp only
  repeat' first
    | with_reducible exact h
    | with_reducible apply Keeps.ite
    | with_reducible apply ResultKeeps.checked
    | with_reducible apply ResultKeeps.ite
    | with_reducible exact ResultKeeps.fail
    | with_reducible apply ResultKeeps.doneMk
    | with_reducible apply ResultKeeps.failWith
    | with_reducible apply ResultKeeps.retry
    | with_reducible apply ResultKeeps.wait
    | with_reducible apply keep_State_modGw
    | (simp -proj only [keeps_mk]; with_reducible refine KeepsParts.of rfl ?_ ?_ ?_ ?_ ?_ ?_)
    | with_reducible exact fun i => i
    | (intro r hr; try dsimp only [id])
    | with_reducible assumption
    | with_reducible exact fun _ i => i
    | split
    | exact fun i => by simpa using i

theorem keep_specGwTableRead : SpecKeeps specGwTableRead := by
  intro z0 s r p h
  unfold specGwTableRead
  try dsimp only
  repeat' first
    | with_reducible exact h
    | with_reducible apply ResultKeeps.checked
    | with_reducible apply ResultKeeps.ite
    | with_reducible exact ResultKeeps.fail
    | with_reducible apply ResultKeeps.doneMk
    | with_reducible apply ResultKeeps.failWith
    | with_reducible apply ResultKeeps.retry
    | with_reducible apply ResultKeeps.wait
    | (simp -proj only [keeps_mk]; with_reducible refine KeepsParts.of rfl ?_ ?_ ?_ ?_ ?_ ?_)
    | with_reducible exact fun i => i
    | (intro r hr; try dsimp only [id])
    | with_reducible assumption
    | with_reducible exact fun _ i => i
    | split
    | exact fun i => by simpa using i

theorem keep_mrAnswer {z0 : State} (s : State) (k i : Nat) (res : Result) (hres : ResultKeeps z0 res) (h : Keeps z0 s) :
    Keeps z0 (mrAnswer s k i res) := by
  unfold mrAnswer
  dsimp -proj only
  cases res with
  | fail => exact keep_State_modGw _ _ h
  | failWith => exact keep_State_modGw _ _ hres
  | done d => exact keep_State_modGw _ _ hres.1
  | retry => exact keep_State_modGw _ _ hres
  | wait => exact hres
theorem keep_sessionFor {z0 : State} (s : State) (domain : Nat) (tcp : Bool) (ip port : Nat) {zi : Nat} {zt : State} (h : Keeps z0 s) (e : sessionFor s domain tcp ip port = some (zi, zt)) : Keeps z0 zt := by
  unfold sessionFor at e
  try dsimp -proj only at e
  repeat' split at e
  all_goals first | injection e with e | skip
  all_goals first | cases e | skip
  all_goals repeat' first
    | with_reducible exact h
    | with_reducible apply Keeps.ite
    | with_reducible apply keep_State_modGw
    | with_reducible apply keep_raiseTrdp
    | (simp -proj only [keeps_mk]; with_reducible refine KeepsParts.of rfl ?_ ?_ ?_ ?_ ?_ ?_)
    | with_reducible exact fun i => i
    | with_reducible assumption
    | with_reducible exact fun _ i => i
    | split
    | exact fun i => by simpa using i

theorem keep_execTrdpMrRx (domain : Nat) (tcp : Bool) (ip port zone comId seq : Nat) (data : List Byte) (s : State) : Goes s (execTrdpMrRx domain tcp ip port zone comId seq data s) := by
  have h := Keeps.refl s
  unfold execTrdpMrRx
  try dsimp -proj only
  repeat' first
    | with_reducible exact h
    | with_reducible apply Keeps.ite
    | with_reducible apply Goes.ite
    | with_reducible apply Goes.next
    | (with_reducible refine keep_sessionFor _ _ _ _ _ ?_ (by assumption))
    | with_reducible apply keep_State_modGw
    | with_reducible apply keep_gwWrite
    | with_reducible apply keep_gwRead
    | with_reducible apply keep_gwLock
    | with_reducible apply keep_gwExchange
    | with_reducible apply keep_stampChans
    | with_reducible apply keep_mrAnswer
    | (simp -proj only [keeps_mk]; with_reducible refine KeepsParts.of rfl ?_ ?_ ?_ ?_ ?_ ?_)
    | with_reducible exact fun i => i
    | with_reducible exact ResultKeeps.fail
    | (intro r hr; try dsimp -proj only)
    | with_reducible assumption
    | with_reducible exact fun _ i => i
    | split
    | exact fun i => by simpa using i

theorem keep_execTrdpSessionIdle (i : Nat) (s : State) : Goes s (execTrdpSessionIdle i s) := by
  have h := Keeps.refl s
  unfold execTrdpSessionIdle
  try dsimp -proj only
  repeat' first
    | with_reducible exact h
    | with_reducible apply Goes.ite
    | with_reducible apply Goes.next
    | with_reducible apply keep_State_idle
    | with_reducible apply keep_legRow
    | with_reducible apply keep_loseSession
    | with_reducible apply keep_State_until
    | (simp -proj only [keeps_mk]; with_reducible refine KeepsParts.of rfl ?_ ?_ ?_ ?_ ?_ ?_)
    | with_reducible exact fun i => i
    | (intro r hr; try dsimp -proj only)
    | with_reducible assumption
    | with_reducible exact fun _ i => i
    | split
    | exact fun i => by simpa using i

theorem keep_execTrdpConnectionClose (i : Nat) (s : State) : Goes s (execTrdpConnectionClose i s) := by
  have h := Keeps.refl s
  unfold execTrdpConnectionClose
  try dsimp -proj only
  repeat' first
    | with_reducible exact h
    | with_reducible apply Keeps.ite
    | with_reducible apply Goes.ite
    | with_reducible apply Goes.next
    | with_reducible apply keep_legRow
    | with_reducible apply keep_loseSession
    | (simp -proj only [keeps_mk]; with_reducible refine KeepsParts.of rfl ?_ ?_ ?_ ?_ ?_ ?_)
    | with_reducible exact fun i => i
    | (intro r hr; try dsimp -proj only)
    | with_reducible assumption
    | with_reducible exact fun _ i => i
    | split
    | exact fun i => by simpa using i

theorem keep_execGwCycleSet (r : Req) (s : State) : Goes s (execGwCycleSet r s) := keep_command keep_specGwCycleSet r s

theorem keep_execRouteTableSet (r : Req) (s : State) : Goes s (execRouteTableSet r s) := keep_command keep_specRouteTableSet r s

theorem keep_execEndpointSet (r : Req) (s : State) : Goes s (execEndpointSet r s) := keep_command keep_specEndpointSet r s

theorem keep_execAcfBusSet (r : Req) (s : State) : Goes s (execAcfBusSet r s) := keep_command keep_specAcfBusSet r s

theorem keep_execGwWrite (r : Req) (s : State) : Goes s (execGwWrite r s) := keep_command keep_specGwWrite r s

theorem keep_execGwRead (r : Req) (s : State) : Goes s (execGwRead r s) := keep_command keep_specGwRead r s

theorem keep_execGwLock (r : Req) (s : State) : Goes s (execGwLock r s) := keep_command keep_specGwLock r s

theorem keep_execGwExchange (r : Req) (s : State) : Goes s (execGwExchange r s) := keep_command keep_specGwExchange r s

theorem keep_execGwStatusGet (r : Req) (s : State) : Goes s (execGwStatusGet r s) := keep_command keep_specGwStatusGet r s

theorem keep_execGwCountersGet (r : Req) (s : State) : Goes s (execGwCountersGet r s) := keep_command keep_specGwCountersGet r s

theorem keep_execGwTableRead (r : Req) (s : State) : Goes s (execGwTableRead r s) := keep_command keep_specGwTableRead r s

end Sys2Proof.Machine
end

