-- ==== Sys2Proof/Laws/PairRun.lean ====
section
/-! SUPPORT. Laws of Machine/PairRun.lean: each operation keeps the queue of waiting commands and soundness; each meaning goes on. -/

namespace Sys2Proof.Machine

theorem keep_pairStep (s : State) (f : State → State) (hf : ∀ r, Keeps s r → Keeps s (f r)) : Goes s (pairStep s f) := by
  have h1 := keep_stampPair s (f s) (hf s (.refl s))
  unfold pairStep
  dsimp -proj only
  exact .next (.ite (keep_sendHello _ h1) h1)
theorem keep_checkP0 {z0 : State} (s : State) (h : Keeps z0 s) : Keeps z0 (checkP0 s) := by
  unfold checkP0
  try dsimp -proj only
  repeat' first
    | with_reducible exact h
    | with_reducible apply Keeps.ite
    | with_reducible apply keep_pairLost
    | with_reducible assumption
    | split

theorem keep_pairUp {z0 : State} (s : State) (h : Keeps z0 s) : Keeps z0 (pairUp s) := by
  unfold pairUp
  try dsimp -proj only
  repeat' first
    | with_reducible exact h
    | with_reducible apply Keeps.ite
    | with_reducible apply keep_raisePairLink
    | with_reducible apply keep_State_modPair
    | with_reducible apply keep_sendHello
    | with_reducible apply keep_setReason
    | (simp -proj only [keeps_mk]; with_reducible refine KeepsParts.of rfl ?_ ?_ ?_ ?_ ?_ ?_)
    | with_reducible exact fun i => i
    | with_reducible assumption
    | with_reducible exact fun _ i => i
    | split
    | exact fun i => by simpa using i

theorem keep_resendBlocks {z0 : State} (s : State) (h : Keeps z0 s) : Keeps z0 (resendBlocks s) := by
  unfold resendBlocks
  try dsimp -proj only
  repeat' first
    | with_reducible exact h
    | with_reducible apply Keeps.ite
    | with_reducible apply keep_pairLost
    | with_reducible apply keep_pairCount
    | with_reducible apply keep_State_modPair
    | (simp -proj only [keeps_mk]; with_reducible refine KeepsParts.of rfl ?_ ?_ ?_ ?_ ?_ ?_)
    | with_reducible exact fun i => i
    | with_reducible assumption
    | with_reducible exact fun _ i => i
    | split
    | exact fun i => by simpa using i

theorem keep_takeAck {z0 : State} (s : State) (ack : Nat) (h : Keeps z0 s) : Keeps z0 (takeAck s ack) := by
  unfold takeAck
  try dsimp -proj only
  repeat' first
    | with_reducible exact h
    | with_reducible apply Keeps.ite
    | with_reducible apply keep_State_modPair
    | with_reducible apply keep_pairCount
    | (simp -proj only [keeps_mk]; with_reducible refine KeepsParts.of rfl ?_ ?_ ?_ ?_ ?_ ?_)
    | with_reducible exact fun i => i
    | with_reducible assumption
    | with_reducible exact fun _ i => i
    | split
    | exact fun i => by simpa using i

theorem keep_faultAttributed {z0 : State} (s : State) (unit cause cycle serial : Nat) (h : Keeps z0 s) : Keeps z0 (faultAttributed s unit cause cycle serial) := by
  unfold faultAttributed
  try dsimp -proj only
  repeat' first
    | with_reducible exact h
    | with_reducible apply keep_raise
    | with_reducible assumption

theorem keep_declareFaulty {z0 : State} (s : State) (cause cycle : Nat) (keep : Bool) (h : Keeps z0 s) : Keeps z0 (declareFaulty s cause cycle keep) := by
  unfold declareFaulty
  try dsimp -proj only
  repeat' first
    | with_reducible exact h
    | with_reducible apply Keeps.ite
    | with_reducible apply keep_faultAttributed
    | with_reducible apply keep_State_modPair
    | with_reducible apply keep_setReason
    | with_reducible apply keep_sendPosted
    | with_reducible apply keep_takeRole
    | (simp -proj only [keeps_mk]; with_reducible refine KeepsParts.of rfl ?_ ?_ ?_ ?_ ?_ ?_)
    | with_reducible exact fun i => i
    | with_reducible assumption
    | with_reducible exact fun _ i => i
    | split
    | exact fun i => by simpa using i

theorem keep_partnerFault {z0 : State} (s : State) (cause cycle : Nat) (h : Keeps z0 s) : Keeps z0 (partnerFault s cause cycle) := by
  unfold partnerFault
  try dsimp -proj only
  repeat' first
    | with_reducible exact h
    | with_reducible apply Keeps.ite
    | with_reducible apply keep_faultAttributed
    | with_reducible apply keep_State_modPair
    | (simp -proj only [keeps_mk]; with_reducible refine KeepsParts.of rfl ?_ ?_ ?_ ?_ ?_ ?_)
    | with_reducible exact fun i => i
    | with_reducible assumption
    | with_reducible exact fun _ i => i
    | split
    | exact fun i => by simpa using i

theorem keep_decideRole {z0 : State} (s : State) (hh : PairHello) (h : Keeps z0 s) : Keeps z0 (decideRole s hh) := by
  unfold decideRole
  try dsimp -proj only
  repeat' first
    | with_reducible exact h
    | with_reducible apply Keeps.ite
    | with_reducible apply keep_takeRole
    | (simp -proj only [keeps_mk]; with_reducible refine KeepsParts.of rfl ?_ ?_ ?_ ?_ ?_ ?_)
    | with_reducible exact fun i => i
    | with_reducible assumption
    | with_reducible exact fun _ i => i
    | split
    | exact fun i => by simpa using i

theorem keep_takeHello {z0 : State} (s : State) (hh : PairHello) (cycle : Nat) (h : Keeps z0 s) : Keeps z0 (takeHello s hh cycle) := by
  unfold takeHello
  try dsimp -proj only
  repeat' first
    | with_reducible exact h
    | with_reducible apply Keeps.ite
    | with_reducible apply keep_State_modPair
    | with_reducible apply keep_decideRole
    | with_reducible apply keep_setReason
    | with_reducible apply keep_State_modGw
    | (simp -proj only [keeps_mk]; with_reducible refine KeepsParts.of rfl ?_ ?_ ?_ ?_ ?_ ?_)
    | with_reducible exact fun i => i
    | with_reducible assumption
    | with_reducible exact fun _ i => i
    | split
    | exact fun i => by simpa using i

theorem keep_takeDiff {z0 : State} (s : State) (d : Int) (h : Keeps z0 s) : Keeps z0 (takeDiff s d) := by
  unfold takeDiff
  try dsimp -proj only
  repeat' first
    | with_reducible exact h
    | with_reducible apply Keeps.ite
    | with_reducible apply keep_State_modPair
    | with_reducible apply keep_raiseSampled
    | with_reducible apply keep_raise
    | with_reducible apply keep_setReason
    | (simp -proj only [keeps_mk]; with_reducible refine KeepsParts.of rfl ?_ ?_ ?_ ?_ ?_ ?_)
    | with_reducible exact fun i => i
    | with_reducible assumption
    | with_reducible exact fun _ i => i
    | split
    | exact fun i => by simpa using i

theorem keep_takePosted {z0 : State} (s : State) (b : PairBlock) (h : Keeps z0 s) : Keeps z0 (takePosted s b) := by
  unfold takePosted
  try dsimp -proj only
  repeat' first
    | with_reducible exact h
    | with_reducible apply Keeps.ite
    | with_reducible apply keep_State_modPair
    | with_reducible apply keep_takeHello
    | with_reducible apply keep_partnerFault
    | with_reducible apply keep_sendPosted
    | (simp -proj only [keeps_mk]; with_reducible refine KeepsParts.of rfl ?_ ?_ ?_ ?_ ?_ ?_)
    | with_reducible exact fun i => i
    | with_reducible assumption
    | with_reducible exact fun _ i => i
    | split
    | exact fun i => by simpa using i

theorem keep_execPairBlockRx (b : PairBlock) (crcOk icvOk : Bool) (diff : Option Int) (s : State) : Goes s (execPairBlockRx b crcOk icvOk diff s) := by
  have h := Keeps.refl s
  unfold execPairBlockRx
  try dsimp -proj only
  repeat' first
    | with_reducible exact h
    | with_reducible apply Keeps.ite
    | with_reducible apply Goes.ite
    | with_reducible apply Goes.next
    | with_reducible apply keep_pairStep
    | with_reducible apply keep_sendOther
    | with_reducible apply keep_pairCount
    | with_reducible apply keep_pairUp
    | with_reducible apply keep_State_modPair
    | with_reducible apply keep_takeAck
    | with_reducible apply keep_resendBlocks
    | with_reducible apply keep_takeDiff
    | with_reducible apply keep_takePosted
    | with_reducible apply keep_setReason
    | (simp -proj only [keeps_mk]; with_reducible refine KeepsParts.of rfl ?_ ?_ ?_ ?_ ?_ ?_)
    | with_reducible exact fun i => i
    | (intro r hr; try dsimp -proj only)
    | with_reducible assumption
    | with_reducible exact fun _ i => i
    | split
    | exact fun i => by simpa using i

theorem keep_execPairResendTimer (s : State) : Goes s (execPairResendTimer s) := by
  have h := Keeps.refl s
  unfold execPairResendTimer
  try dsimp -proj only
  repeat' first
    | with_reducible exact h
    | with_reducible apply Keeps.ite
    | with_reducible apply Goes.ite
    | with_reducible apply Goes.next
    | with_reducible apply keep_pairStep
    | with_reducible apply keep_resendBlocks
    | with_reducible apply keep_State_until
    | (intro r hr; try dsimp -proj only)
    | with_reducible assumption
    | split

theorem keep_execPairIdleTimer (s : State) : Goes s (execPairIdleTimer s) := by
  have h := Keeps.refl s
  unfold execPairIdleTimer
  try dsimp -proj only
  repeat' first
    | with_reducible exact h
    | with_reducible apply Keeps.ite
    | with_reducible apply Goes.ite
    | with_reducible apply Goes.next
    | with_reducible apply keep_pairStep
    | with_reducible apply keep_sendOther
    | with_reducible apply keep_State_until
    | (intro r hr; try dsimp -proj only)
    | with_reducible assumption
    | split

theorem keep_execPairLinkTimeout (s : State) : Goes s (execPairLinkTimeout s) := by
  have h := Keeps.refl s
  unfold execPairLinkTimeout
  try dsimp -proj only
  repeat' first
    | with_reducible exact h
    | with_reducible apply Keeps.ite
    | with_reducible apply Goes.ite
    | with_reducible apply Goes.next
    | with_reducible apply keep_pairStep
    | with_reducible apply keep_pairLost
    | with_reducible apply keep_State_until
    | (intro r hr; try dsimp -proj only)
    | with_reducible assumption
    | split

theorem keep_execPairHelloTimer (s : State) : Goes s (execPairHelloTimer s) := by
  have h := Keeps.refl s
  unfold execPairHelloTimer
  try dsimp -proj only
  repeat' first
    | with_reducible exact h
    | with_reducible apply Keeps.ite
    | with_reducible apply Goes.ite
    | with_reducible apply Goes.next
    | with_reducible apply keep_pairStep
    | with_reducible apply keep_sendHello
    | with_reducible apply keep_State_until
    | (intro r hr; try dsimp -proj only)
    | with_reducible assumption
    | split

theorem keep_execLaneFailure (lane : Nat) (s : State) : Goes s (execLaneFailure lane s) := by
  have h := Keeps.refl s
  unfold execLaneFailure
  try dsimp -proj only
  repeat' first
    | with_reducible exact h
    | with_reducible apply Keeps.ite
    | with_reducible apply Goes.ite
    | with_reducible apply Goes.next
    | with_reducible apply keep_pairStep
    | with_reducible apply keep_State_modPair
    | with_reducible apply keep_pairLost
    | with_reducible apply keep_resendBlocks
    | with_reducible apply keep_raisePairLink
    | (simp -proj only [keeps_mk]; with_reducible refine KeepsParts.of rfl ?_ ?_ ?_ ?_ ?_ ?_)
    | with_reducible exact fun i => i
    | (intro r hr; try dsimp -proj only)
    | with_reducible assumption
    | with_reducible exact fun _ i => i
    | split
    | exact fun i => by simpa using i

theorem keep_execLaneRecovery (lane : Nat) (s : State) : Goes s (execLaneRecovery lane s) := by
  have h := Keeps.refl s
  unfold execLaneRecovery
  try dsimp -proj only
  repeat' first
    | with_reducible exact h
    | with_reducible apply Keeps.ite
    | with_reducible apply Goes.ite
    | with_reducible apply Goes.next
    | with_reducible apply keep_pairStep
    | with_reducible apply keep_State_modPair
    | with_reducible apply keep_raisePairLink
    | (simp -proj only [keeps_mk]; with_reducible refine KeepsParts.of rfl ?_ ?_ ?_ ?_ ?_ ?_)
    | with_reducible exact fun i => i
    | (intro r hr; try dsimp -proj only)
    | with_reducible assumption
    | with_reducible exact fun _ i => i
    | split
    | exact fun i => by simpa using i

theorem keep_copyLate {z0 : State} (s : State) (h : Keeps z0 s) : Keeps z0 (copyLate s) := by
  unfold copyLate
  try dsimp -proj only
  repeat' first
    | with_reducible exact h
    | with_reducible apply Keeps.ite
    | with_reducible apply keep_pairCount
    | with_reducible apply keep_State_modPair
    | with_reducible apply keep_setReason
    | (simp -proj only [keeps_mk]; with_reducible refine KeepsParts.of rfl ?_ ?_ ?_ ?_ ?_ ?_)
    | with_reducible exact fun i => i
    | with_reducible assumption
    | with_reducible exact fun _ i => i
    | split
    | exact fun i => by simpa using i

theorem keep_copyEqual {z0 : State} (s : State) (c : PairCopy) (h : Keeps z0 s) : Keeps z0 (copyEqual s c) := by
  unfold copyEqual
  try dsimp -proj only
  repeat' first
    | with_reducible exact h
    | with_reducible apply Keeps.ite
    | with_reducible apply keep_pairCount
    | with_reducible apply keep_State_modGw
    | with_reducible apply keep_State_modPair
    | with_reducible apply keep_setReason
    | with_reducible apply keep_updateArming
    | (simp -proj only [keeps_mk]; with_reducible refine KeepsParts.of rfl ?_ ?_ ?_ ?_ ?_ ?_)
    | with_reducible exact fun i => i
    | with_reducible apply Keeps.foldl
    | (intro r x hr; try dsimp -proj only)
    | with_reducible assumption
    | with_reducible exact fun _ i => i
    | split
    | exact fun i => by simpa using i

theorem keep_execCycleCopyComplete (s : State) : Goes s (execCycleCopyComplete s) := by
  have h := Keeps.refl s
  unfold execCycleCopyComplete
  try dsimp -proj only
  repeat' first
    | with_reducible exact h
    | with_reducible apply Keeps.ite
    | with_reducible apply Goes.ite
    | with_reducible apply Goes.next
    | with_reducible apply keep_State_modPair
    | with_reducible apply keep_pairStep
    | with_reducible apply keep_setReason
    | with_reducible apply keep_copyLate
    | with_reducible apply keep_copyEqual
    | with_reducible apply keep_pairCount
    | (simp -proj only [keeps_mk]; with_reducible refine KeepsParts.of rfl ?_ ?_ ?_ ?_ ?_ ?_)
    | with_reducible exact fun i => i
    | (intro r hr; try dsimp -proj only)
    | with_reducible assumption
    | with_reducible exact fun _ i => i
    | split
    | exact fun i => by simpa using i

theorem keep_execCopyDeadline (s : State) : Goes s (execCopyDeadline s) := by
  have h := Keeps.refl s
  unfold execCopyDeadline
  try dsimp -proj only
  repeat' first
    | with_reducible exact h
    | with_reducible apply Keeps.ite
    | with_reducible apply Goes.ite
    | with_reducible apply Goes.next
    | with_reducible apply keep_pairStep
    | with_reducible apply keep_copyLate
    | with_reducible apply keep_State_until
    | (simp -proj only [keeps_mk]; with_reducible refine KeepsParts.of rfl ?_ ?_ ?_ ?_ ?_ ?_)
    | with_reducible exact fun i => i
    | (intro r hr; try dsimp -proj only)
    | with_reducible assumption
    | with_reducible exact fun _ i => i
    | split
    | exact fun i => by simpa using i

theorem keep_execReexecutionResult (cycle : Nat) (ownDiffers partnerDiffers step3 : Bool) (s : State) : Goes s (execReexecutionResult cycle ownDiffers partnerDiffers step3 s) := by
  have h := Keeps.refl s
  unfold execReexecutionResult
  try dsimp -proj only
  repeat' first
    | with_reducible exact h
    | with_reducible apply Keeps.ite
    | with_reducible apply Goes.ite
    | with_reducible apply Goes.next
    | with_reducible apply keep_pairStep
    | with_reducible apply keep_State_modPair
    | with_reducible apply keep_raiseMismatch
    | with_reducible apply keep_pairCount
    | with_reducible apply keep_declareFaulty
    | with_reducible apply keep_setReason
    | with_reducible apply keep_State_modGw
    | (simp -proj only [keeps_mk]; with_reducible refine KeepsParts.of rfl ?_ ?_ ?_ ?_ ?_ ?_)
    | with_reducible exact fun i => i
    | with_reducible apply Keeps.foldl
    | (intro r x hr; try dsimp -proj only)
    | (intro r hr; try dsimp -proj only)
    | with_reducible assumption
    | with_reducible exact fun _ i => i
    | split
    | exact fun i => by simpa using i

theorem keep_execHeartbeatAbsent (s : State) : Goes s (execHeartbeatAbsent s) := by
  have h := Keeps.refl s
  unfold execHeartbeatAbsent
  try dsimp -proj only
  repeat' first
    | with_reducible exact h
    | with_reducible apply Keeps.ite
    | with_reducible apply Goes.ite
    | with_reducible apply Goes.next
    | with_reducible apply keep_pairStep
    | with_reducible apply keep_State_modPair
    | (simp -proj only [keeps_mk]; with_reducible refine KeepsParts.of rfl ?_ ?_ ?_ ?_ ?_ ?_)
    | with_reducible exact fun i => i
    | (intro r hr; try dsimp -proj only)
    | with_reducible assumption
    | with_reducible exact fun _ i => i
    | split
    | exact fun i => by simpa using i

theorem keep_modTtdp {z0 : State} (s : State) (f : TtdpRun → TtdpRun) (h : Keeps z0 s) : Keeps z0 (modTtdp s f) := by
  unfold modTtdp
  try dsimp -proj only
  repeat' first
    | with_reducible exact h
    | with_reducible apply keep_State_modPair
    | (simp -proj only [keeps_mk]; with_reducible refine KeepsParts.of rfl ?_ ?_ ?_ ?_ ?_ ?_)
    | with_reducible exact fun i => i
    | with_reducible assumption
    | with_reducible exact fun _ i => i
    | exact fun i => by simpa using i

theorem keep_raiseTtdp {z0 : State} (s : State) (kind dir : Nat) (h : Keeps z0 s) : Keeps z0 (raiseTtdp s kind dir) := by
  unfold raiseTtdp
  try dsimp -proj only
  repeat' first
    | with_reducible exact h
    | with_reducible apply keep_raise
    | with_reducible assumption

theorem keep_setLines {z0 : State} (s : State) (d lines : Nat) (h : Keeps z0 s) : Keeps z0 (setLines s d lines) := by
  unfold setLines
  try dsimp -proj only
  repeat' first
    | with_reducible exact h
    | with_reducible apply Keeps.ite
    | with_reducible apply keep_modTtdp
    | with_reducible apply keep_raiseTtdp
    | with_reducible apply keep_pairCount
    | (simp -proj only [keeps_mk]; with_reducible refine KeepsParts.of rfl ?_ ?_ ?_ ?_ ?_ ?_)
    | with_reducible exact fun i => i
    | with_reducible assumption
    | with_reducible exact fun _ i => i
    | split
    | exact fun i => by simpa using i

theorem keep_execTtdpHelloRx (port : Nat) (f : TtdpFrame) (s : State) : Goes s (execTtdpHelloRx port f s) := by
  have h := Keeps.refl s
  unfold execTtdpHelloRx
  try dsimp -proj only
  repeat' first
    | with_reducible exact h
    | with_reducible apply Keeps.ite
    | with_reducible apply Goes.ite
    | with_reducible apply Goes.next
    | with_reducible apply keep_pairCount
    | with_reducible apply keep_modTtdp
    | with_reducible apply keep_zenithRecheck
    | with_reducible apply keep_setLines
    | with_reducible apply keep_raiseTtdp
    | (simp -proj only [keeps_mk]; with_reducible refine KeepsParts.of rfl ?_ ?_ ?_ ?_ ?_ ?_)
    | with_reducible exact fun i => i
    | (intro r hr; try dsimp -proj only)
    | with_reducible assumption
    | with_reducible exact fun _ i => i
    | split
    | exact fun i => by simpa using i

theorem keep_execTtdpHelloTimer (s : State) : Goes s (execTtdpHelloTimer s) := by
  have h := Keeps.refl s
  unfold execTtdpHelloTimer
  try dsimp -proj only
  repeat' first
    | with_reducible exact h
    | with_reducible apply Keeps.ite
    | with_reducible apply Goes.ite
    | with_reducible apply Goes.next
    | with_reducible apply keep_State_until
    | with_reducible apply keep_pairCount
    | with_reducible apply keep_modTtdp
    | (simp -proj only [keeps_mk]; with_reducible refine KeepsParts.of rfl ?_ ?_ ?_ ?_ ?_ ?_)
    | with_reducible exact fun i => i
    | (intro r hr; try dsimp -proj only)
    | with_reducible assumption
    | with_reducible exact fun _ i => i
    | split
    | exact fun i => by simpa using i

theorem keep_execTtdpHelloTimeout (port : Nat) (s : State) : Goes s (execTtdpHelloTimeout port s) := by
  have h := Keeps.refl s
  unfold execTtdpHelloTimeout
  try dsimp -proj only
  repeat' first
    | with_reducible exact h
    | with_reducible apply Keeps.ite
    | with_reducible apply Goes.ite
    | with_reducible apply Goes.next
    | with_reducible apply keep_modTtdp
    | with_reducible apply keep_State_until
    | with_reducible apply keep_zenithRecheck
    | with_reducible apply keep_setLines
    | (simp -proj only [keeps_mk]; with_reducible refine KeepsParts.of rfl ?_ ?_ ?_ ?_ ?_ ?_)
    | with_reducible exact fun i => i
    | (intro r hr; try dsimp -proj only)
    | with_reducible assumption
    | with_reducible exact fun _ i => i
    | split
    | exact fun i => by simpa using i

theorem keep_modMrp {z0 : State} (s : State) (r : Nat) (f : MrpRun → MrpRun) (h : Keeps z0 s) : Keeps z0 (modMrp s r f) := by
  unfold modMrp
  try dsimp -proj only
  repeat' first
    | with_reducible exact h
    | with_reducible apply keep_State_modPair
    | (simp -proj only [keeps_mk]; with_reducible refine KeepsParts.of rfl ?_ ?_ ?_ ?_ ?_ ?_)
    | with_reducible exact fun i => i
    | with_reducible assumption
    | with_reducible exact fun _ i => i
    | exact fun i => by simpa using i

theorem keep_raiseMrp {z0 : State} (s : State) (r kind port openMs : Nat) (h : Keeps z0 s) : Keeps z0 (raiseMrp s r kind port openMs) := by
  unfold raiseMrp
  try dsimp -proj only
  repeat' first
    | with_reducible exact h
    | with_reducible apply Keeps.ite
    | with_reducible apply keep_raise
    | with_reducible assumption
    | split

theorem keep_flushRing {z0 : State} (s : State) (r : Nat) (h : Keeps z0 s) : Keeps z0 (flushRing s r) := by
  unfold flushRing
  try dsimp -proj only
  repeat' first
    | with_reducible exact h
    | with_reducible apply keep_State_modIng
    | (simp -proj only [keeps_mk]; with_reducible refine KeepsParts.of rfl ?_ ?_ ?_ ?_ ?_ ?_)
    | with_reducible exact fun i => i
    | with_reducible assumption
    | with_reducible exact fun _ i => i
    | exact fun i => by simpa using i

theorem keep_ringOpens {z0 : State} (s : State) (r port : Nat) (h : Keeps z0 s) : Keeps z0 (ringOpens s r port) := by
  unfold ringOpens
  try dsimp -proj only
  repeat' first
    | with_reducible exact h
    | with_reducible apply Keeps.ite
    | with_reducible apply keep_modMrp
    | with_reducible apply keep_zenithRecheck
    | with_reducible apply keep_flushRing
    | with_reducible apply keep_pairCount
    | with_reducible apply keep_raiseMrp
    | (simp -proj only [keeps_mk]; with_reducible refine KeepsParts.of rfl ?_ ?_ ?_ ?_ ?_ ?_)
    | with_reducible exact fun i => i
    | with_reducible assumption
    | with_reducible exact fun _ i => i
    | split
    | exact fun i => by simpa using i

theorem keep_ringCloses {z0 : State} (s : State) (r : Nat) (h : Keeps z0 s) : Keeps z0 (ringCloses s r) := by
  unfold ringCloses
  try dsimp -proj only
  repeat' first
    | with_reducible exact h
    | with_reducible apply Keeps.ite
    | with_reducible apply keep_zenithRecheck
    | with_reducible apply keep_raiseMrp
    | with_reducible apply keep_modMrp
    | (simp -proj only [keeps_mk]; with_reducible refine KeepsParts.of rfl ?_ ?_ ?_ ?_ ?_ ?_)
    | with_reducible exact fun i => i
    | with_reducible assumption
    | with_reducible exact fun _ i => i
    | split
    | exact fun i => by simpa using i

theorem keep_execMrpTestTimer (r : Nat) (back : Bool) (s : State) : Goes s (execMrpTestTimer r back s) := by
  have h := Keeps.refl s
  unfold execMrpTestTimer
  try dsimp -proj only
  repeat' first
    | with_reducible exact h
    | with_reducible apply Keeps.ite
    | with_reducible apply Goes.ite
    | with_reducible apply Goes.next
    | with_reducible apply keep_State_until
    | with_reducible apply keep_pairCount
    | with_reducible apply keep_modMrp
    | with_reducible apply keep_ringCloses
    | with_reducible apply keep_ringOpens
    | (simp -proj only [keeps_mk]; with_reducible refine KeepsParts.of rfl ?_ ?_ ?_ ?_ ?_ ?_)
    | with_reducible exact fun i => i
    | (intro r hr; try dsimp -proj only)
    | with_reducible assumption
    | with_reducible exact fun _ i => i
    | split
    | exact fun i => by simpa using i

theorem keep_execMrpFrameRx (r port : Nat) (f : MrpFrame) (s : State) : Goes s (execMrpFrameRx r port f s) := by
  have h := Keeps.refl s
  unfold execMrpFrameRx
  try dsimp -proj only
  repeat' first
    | with_reducible exact h
    | with_reducible apply Keeps.ite
    | with_reducible apply Goes.ite
    | with_reducible apply Goes.next
    | with_reducible apply keep_ringCloses
    | with_reducible apply keep_modMrp
    | with_reducible apply keep_pairCount
    | with_reducible apply keep_raiseMrp
    | with_reducible apply keep_flushRing
    | with_reducible apply keep_ringOpens
    | (simp -proj only [keeps_mk]; with_reducible refine KeepsParts.of rfl ?_ ?_ ?_ ?_ ?_ ?_)
    | with_reducible exact fun i => i
    | (intro r hr; try dsimp -proj only)
    | with_reducible assumption
    | with_reducible exact fun _ i => i
    | split
    | exact fun i => by simpa using i

theorem keep_specPairStatusGet : SpecKeeps specPairStatusGet := by
  intro z0 s r p h
  unfold specPairStatusGet
  try dsimp only
  repeat' first
    | with_reducible exact h
    | with_reducible apply ResultKeeps.checked
    | with_reducible apply ResultKeeps.ite
    | with_reducible exact ResultKeeps.fail
    | with_reducible apply ResultKeeps.doneMk
    | with_reducible apply ResultKeeps.failWith
    | with_reducible apply ResultKeeps.retry
    | with_reducible apply ResultKeeps.wait
    | (intro r hr; try dsimp only [id])
    | with_reducible assumption

theorem keep_startRole {z0 : State} (s : State) (h : Keeps z0 s) : Keeps z0 (startRole s) := by
  unfold startRole
  try dsimp -proj only
  repeat' first
    | with_reducible exact h
    | with_reducible apply Keeps.ite
    | with_reducible apply keep_State_modPair
    | with_reducible apply keep_mute
    | with_reducible apply keep_takeRole
    | (simp -proj only [keeps_mk]; with_reducible refine KeepsParts.of rfl ?_ ?_ ?_ ?_ ?_ ?_)
    | with_reducible exact fun i => i
    | with_reducible assumption
    | with_reducible exact fun _ i => i
    | split
    | exact fun i => by simpa using i

theorem keep_setPairing {z0 : State} (s : State) (on : Bool) (h : Keeps z0 s) : Keeps z0 (setPairing s on) := by
  unfold setPairing
  try dsimp -proj only
  repeat' first
    | with_reducible exact h
    | with_reducible apply Keeps.ite
    | with_reducible apply keep_State_modPair
    | with_reducible apply keep_startRole
    | with_reducible apply keep_pairLost
    | with_reducible apply keep_unmute
    | (simp -proj only [keeps_mk]; with_reducible refine KeepsParts.of rfl ?_ ?_ ?_ ?_ ?_ ?_)
    | with_reducible exact fun i => i
    | with_reducible assumption
    | with_reducible exact fun _ i => i
    | split
    | exact fun i => by simpa using i

theorem keep_specPairSet : SpecKeeps specPairSet := by
  intro z0 s r p h
  unfold specPairSet
  try dsimp only
  repeat' first
    | with_reducible exact h
    | with_reducible apply Keeps.ite
    | with_reducible apply ResultKeeps.checked
    | with_reducible apply ResultKeeps.ite
    | with_reducible exact ResultKeeps.fail
    | with_reducible apply ResultKeeps.doneMk
    | with_reducible apply ResultKeeps.failWith
    | with_reducible apply ResultKeeps.retry
    | with_reducible apply ResultKeeps.wait
    | with_reducible apply keep_State_modPair
    | with_reducible apply keep_stampPair
    | with_reducible apply keep_setPairing
    | (simp -proj only [keeps_mk]; with_reducible refine KeepsParts.of rfl ?_ ?_ ?_ ?_ ?_ ?_)
    | with_reducible exact fun i => i
    | (intro r hr; try dsimp only [id])
    | with_reducible assumption
    | with_reducible exact fun _ i => i
    | split
    | exact fun i => by simpa using i

theorem keep_specPairSwitch : SpecKeeps specPairSwitch := by
  intro z0 s r p h
  unfold specPairSwitch
  try dsimp only
  repeat' first
    | with_reducible exact h
    | with_reducible apply ResultKeeps.checked
    | with_reducible apply ResultKeeps.ite
    | with_reducible exact ResultKeeps.fail
    | with_reducible apply ResultKeeps.doneMk
    | with_reducible apply ResultKeeps.failWith
    | with_reducible apply ResultKeeps.retry
    | with_reducible apply ResultKeeps.wait
    | with_reducible apply keep_sendPosted
    | with_reducible apply keep_State_modPair
    | (simp -proj only [keeps_mk]; with_reducible refine KeepsParts.of rfl ?_ ?_ ?_ ?_ ?_ ?_)
    | with_reducible exact fun i => i
    | (intro r hr; try dsimp only [id])
    | with_reducible assumption
    | with_reducible exact fun _ i => i
    | exact fun i => by simpa using i

theorem keep_specPairCountersGet : SpecKeeps specPairCountersGet := by
  intro z0 s r p h
  unfold specPairCountersGet
  try dsimp only
  repeat' first
    | with_reducible exact h
    | with_reducible apply Keeps.ite
    | with_reducible apply ResultKeeps.checked
    | with_reducible apply ResultKeeps.ite
    | with_reducible exact ResultKeeps.fail
    | with_reducible apply ResultKeeps.doneMk
    | with_reducible apply ResultKeeps.failWith
    | with_reducible apply ResultKeeps.retry
    | with_reducible apply ResultKeeps.wait
    | with_reducible apply keep_State_modPair
    | (simp -proj only [keeps_mk]; with_reducible refine KeepsParts.of rfl ?_ ?_ ?_ ?_ ?_ ?_)
    | with_reducible exact fun i => i
    | (intro r hr; try dsimp only [id])
    | with_reducible assumption
    | with_reducible exact fun _ i => i
    | split
    | exact fun i => by simpa using i

theorem keep_specTtdpSet : SpecKeeps specTtdpSet := by
  intro z0 s r p h
  unfold specTtdpSet
  try dsimp only
  repeat' first
    | with_reducible exact h
    | with_reducible apply Keeps.ite
    | with_reducible apply ResultKeeps.checked
    | with_reducible apply ResultKeeps.ite
    | with_reducible exact ResultKeeps.fail
    | with_reducible apply ResultKeeps.doneMk
    | with_reducible apply ResultKeeps.failWith
    | with_reducible apply ResultKeeps.retry
    | with_reducible apply ResultKeeps.wait
    | with_reducible apply keep_zenithRecheck
    | with_reducible apply keep_State_modPair
    | (simp -proj only [keeps_mk]; with_reducible refine KeepsParts.of rfl ?_ ?_ ?_ ?_ ?_ ?_)
    | with_reducible exact fun i => i
    | with_reducible apply Keeps.foldl
    | (intro r x hr; try dsimp -proj only)
    | (intro r hr; try dsimp only [id])
    | with_reducible assumption
    | with_reducible exact fun _ i => i
    | split
    | exact fun i => by simpa using i

theorem keep_specTtdpStatusGet : SpecKeeps specTtdpStatusGet := by
  intro z0 s r p h
  unfold specTtdpStatusGet
  try dsimp only
  repeat' first
    | with_reducible exact h
    | with_reducible apply ResultKeeps.checked
    | with_reducible apply ResultKeeps.ite
    | with_reducible exact ResultKeeps.fail
    | with_reducible apply ResultKeeps.doneMk
    | with_reducible apply ResultKeeps.failWith
    | with_reducible apply ResultKeeps.retry
    | with_reducible apply ResultKeeps.wait
    | (intro r hr; try dsimp only [id])
    | with_reducible assumption

theorem keep_specMrpSet : SpecKeeps specMrpSet := by
  intro z0 s r p h
  unfold specMrpSet
  try dsimp only
  repeat' first
    | with_reducible exact h
    | with_reducible apply ResultKeeps.checked
    | with_reducible apply ResultKeeps.ite
    | with_reducible exact ResultKeeps.fail
    | with_reducible apply ResultKeeps.doneMk
    | with_reducible apply ResultKeeps.failWith
    | with_reducible apply ResultKeeps.retry
    | with_reducible apply ResultKeeps.wait
    | with_reducible apply keep_zenithRecheck
    | with_reducible apply keep_State_modPair
    | (simp -proj only [keeps_mk]; with_reducible refine KeepsParts.of rfl ?_ ?_ ?_ ?_ ?_ ?_)
    | with_reducible exact fun i => i
    | (intro r hr; try dsimp only [id])
    | with_reducible assumption
    | with_reducible exact fun _ i => i
    | exact fun i => by simpa using i

theorem keep_specMrpStatusGet : SpecKeeps specMrpStatusGet := by
  intro z0 s r p h
  unfold specMrpStatusGet
  try dsimp only
  repeat' first
    | with_reducible exact h
    | with_reducible apply Keeps.ite
    | with_reducible apply ResultKeeps.checked
    | with_reducible apply ResultKeeps.ite
    | with_reducible exact ResultKeeps.fail
    | with_reducible apply ResultKeeps.doneMk
    | with_reducible apply ResultKeeps.failWith
    | with_reducible apply ResultKeeps.retry
    | with_reducible apply ResultKeeps.wait
    | (intro r hr; try dsimp only [id])
    | with_reducible assumption
    | split

theorem keep_execPairStatusGet (r : Req) (s : State) : Goes s (execPairStatusGet r s) := keep_command keep_specPairStatusGet r s

theorem keep_execPairSet (r : Req) (s : State) : Goes s (execPairSet r s) := keep_command keep_specPairSet r s

theorem keep_execPairSwitch (r : Req) (s : State) : Goes s (execPairSwitch r s) := keep_command keep_specPairSwitch r s

theorem keep_execPairCountersGet (r : Req) (s : State) : Goes s (execPairCountersGet r s) := keep_command keep_specPairCountersGet r s

theorem keep_execTtdpSet (r : Req) (s : State) : Goes s (execTtdpSet r s) := keep_command keep_specTtdpSet r s

theorem keep_execTtdpStatusGet (r : Req) (s : State) : Goes s (execTtdpStatusGet r s) := keep_command keep_specTtdpStatusGet r s

theorem keep_execMrpSet (r : Req) (s : State) : Goes s (execMrpSet r s) := keep_command keep_specMrpSet r s

theorem keep_execMrpStatusGet (r : Req) (s : State) : Goes s (execMrpStatusGet r s) := keep_command keep_specMrpStatusGet r s

end Sys2Proof.Machine
end

