-- ==== Sys2Proof/Laws/KeyCmds.lean ====
section
/-! SUPPORT. Laws of Machine/KeyCmds.lean: each operation keeps the queue of waiting commands and soundness; each meaning goes on. -/

namespace Sys2Proof.Machine

theorem keep_stopWaiting {z0 : State} (s : State) (w : Waiting) (h : Keeps z0 s) : Keeps z0 (stopWaiting s w) := by
  unfold stopWaiting
  try dsimp -proj only
  repeat' first
    | with_reducible exact h
    | with_reducible apply Keeps.modMb
    | (simp -proj only [keeps_mk]; with_reducible refine KeepsParts.of rfl ?_ ?_ ?_ ?_ ?_ ?_)
    | with_reducible exact fun i => i
    | with_reducible exact fun i => InvMb.mk i.1 i.2 i.3
    | with_reducible assumption
    | with_reducible exact fun _ i => i
    | exact fun i => keepMb i (by simp [i.1]) (by simp [i.2]) (by intro hw; repeat' first | with_reducible exact hw | with_reducible apply wf_mwrite | with_reducible apply wf_mset | exact rfl)
    | exact fun i => by simpa using i

theorem keep_answerWaiting {z0 : State} (s : State) (src : Option Nat) (kind : WaitKind) (d : State → Done) (h : Keeps z0 s)
    (hd : ∀ r, Keeps z0 r → Keeps z0 (d r).st ∧ ∀ t, Keeps z0 t → Keeps z0 ((d r).after t)) : Keeps z0 (answerWaiting s src kind d) := by
  unfold answerWaiting
  split
  · exact h
  · have h1 := fun w => keep_stopWaiting s w h
    dsimp -proj only
    exact keep_finishDone _ _ _ _ _ _ (h1 _) (hd _ (h1 _)).1 (hd _ (h1 _)).2
theorem keep_failWaiting {z0 : State} (s : State) (src : Option Nat) (kind : WaitKind) (status : Nat) (h : Keeps z0 s) : Keeps z0 (failWaiting s src kind status) := by
  unfold failWaiting
  try dsimp -proj only
  repeat' first
    | with_reducible exact h
    | with_reducible apply keep_reject
    | with_reducible apply keep_stopWaiting
    | (simp -proj only [keeps_mk]; with_reducible refine KeepsParts.of rfl ?_ ?_ ?_ ?_ ?_ ?_)
    | with_reducible exact fun i => i
    | with_reducible assumption
    | with_reducible exact fun _ i => i
    | split
    | exact fun i => by simpa using i

theorem keep_askIsland {z0 : State} (s : State) (q : IslandReq) (h : Keeps z0 s) : Keeps z0 (askIsland s q) := by
  unfold askIsland
  try dsimp -proj only
  repeat' first
    | with_reducible exact h
    | with_reducible apply keep_State_modKeys
    | (simp -proj only [keeps_mk]; with_reducible refine KeepsParts.of rfl ?_ ?_ ?_ ?_ ?_ ?_)
    | with_reducible exact fun i => i
    | with_reducible assumption
    | with_reducible exact fun _ i => i
    | exact fun i => by simpa using i

theorem keep_commitBank {z0 : State} (s : State) (n : Nat) (b : KeyBank) (h : Keeps z0 s) : Keeps z0 (commitBank s n b) := by
  unfold commitBank
  try dsimp -proj only
  repeat' first
    | with_reducible exact h
    | with_reducible apply Keeps.ite
    | with_reducible apply keep_modSlot
    | with_reducible apply keep_raise
    | with_reducible apply keep_State_modKeys
    | with_reducible apply keep_mkaRestart
    | (simp -proj only [keeps_mk]; with_reducible refine KeepsParts.of rfl ?_ ?_ ?_ ?_ ?_ ?_)
    | with_reducible exact fun i => i
    | with_reducible apply Keeps.foldl
    | (intro r x hr; try dsimp -proj only)
    | with_reducible assumption
    | with_reducible exact fun _ i => i
    | split
    | exact fun i => by simpa using i

theorem keep_finishErase {z0 : State} (s : State) (n : Nat) (h : Keeps z0 s) : Keeps z0 (finishErase s n) := by
  unfold finishErase
  try dsimp -proj only
  repeat' first
    | with_reducible exact h
    | with_reducible apply keep_modSlot
    | with_reducible apply keep_keyErased
    | with_reducible apply keep_State_modKeys
    | (simp -proj only [keeps_mk]; with_reducible refine KeepsParts.of rfl ?_ ?_ ?_ ?_ ?_ ?_)
    | with_reducible exact fun i => i
    | with_reducible assumption
    | with_reducible exact fun _ i => i
    | split
    | exact fun i => by simpa using i

theorem keep_runErase {z0 : State} (s : State) (n : Nat) (h : Keeps z0 s) : Keeps z0 (runErase s n).1 := by
  unfold runErase
  try dsimp -proj only
  repeat' first
    | with_reducible exact h
    | with_reducible apply Keeps.ite
    | with_reducible apply keep_modSlot
    | with_reducible apply keep_mkaStop
    | with_reducible apply keep_finishErase
    | (simp -proj only [keeps_mk]; with_reducible refine KeepsParts.of rfl ?_ ?_ ?_ ?_ ?_ ?_)
    | with_reducible exact fun i => i
    | with_reducible apply Keeps.foldl
    | (intro r x hr; try dsimp -proj only)
    | with_reducible assumption
    | with_reducible exact fun _ i => i
    | split
    | exact fun i => by simpa using i

theorem keep_dropErase {z0 : State} (s : State) (q : IslandReq) (h : Keeps z0 s) : Keeps z0 (dropErase s q) := by
  unfold dropErase
  repeat' first
    | with_reducible exact h
    | with_reducible apply Keeps.ite
    | with_reducible apply keep_modSlot

theorem keep_serveWrite {z0 : State} (s : State) (q : IslandReq) (sound : Bool) (h : Keeps z0 s) : Keeps z0 (serveWrite s q sound) := by
  unfold serveWrite
  try dsimp -proj only
  repeat' first
    | with_reducible exact h
    | with_reducible apply Keeps.ite
    | (with_reducible refine Keeps.fst (by assumption) ?_; with_reducible apply keep_runErase)
    | with_reducible apply keep_runErase
    | with_reducible apply keep_answerWaiting
    | with_reducible apply keep_commitBank
    | with_reducible apply keep_failWaiting
    | with_reducible apply keep_modSlot
    | (simp -proj only [keeps_mk]; with_reducible refine KeepsParts.of rfl ?_ ?_ ?_ ?_ ?_ ?_)
    | with_reducible exact fun i => i
    | (intro r hr; refine ⟨?_, fun _ ht => ht⟩; try dsimp only)
    | with_reducible assumption
    | exact ⟨hr, fun _ ht => ht⟩
    | exact fun r hr => ⟨hr, fun _ ht => ht⟩
    | with_reducible exact fun _ i => i
    | split
    | exact fun i => by simpa using i

theorem keep_serveMkpdu {z0 : State} (s : State) (i : Nat) (m : Mkpdu) (h : Keeps z0 s) : Keeps z0 (serveMkpdu s i m) := by
  unfold serveMkpdu
  try dsimp -proj only
  repeat' first
    | with_reducible exact h
    | with_reducible apply Keeps.ite
    | with_reducible apply keep_mkaPeer
    | with_reducible apply keep_modMka
    | with_reducible apply keep_mkaRekey
    | with_reducible apply keep_mkaInstall
    | (simp -proj only [keeps_mk]; with_reducible refine KeepsParts.of rfl ?_ ?_ ?_ ?_ ?_ ?_)
    | with_reducible exact fun i => i
    | with_reducible assumption
    | with_reducible exact fun _ i => i
    | split
    | exact fun i => by simpa using i

theorem keep_serveIsland {z0 : State} (s : State) (q : IslandReq) (sound : Bool) (h : Keeps z0 s) : Keeps z0 (serveIsland s q sound) := by
  unfold serveIsland
  try dsimp -proj only
  repeat' first
    | with_reducible exact h
    | with_reducible apply Keeps.ite
    | with_reducible apply keep_serveWrite
    | with_reducible apply keep_serveMkpdu
    | with_reducible apply keep_installSa
    | with_reducible apply keep_modSlot
    | with_reducible apply keep_answerWaiting
    | (simp -proj only [keeps_mk]; with_reducible refine KeepsParts.of rfl ?_ ?_ ?_ ?_ ?_ ?_)
    | with_reducible exact fun i => i
    | (intro r hr; refine ⟨?_, fun _ ht => ht⟩; try dsimp only)
    | with_reducible assumption
    | exact ⟨hr, fun _ ht => ht⟩
    | exact fun r hr => ⟨hr, fun _ ht => ht⟩
    | with_reducible exact fun _ i => i
    | split
    | exact fun i => by simpa using i

theorem keep_execIslandRequestComplete (ecdsa sound answered : Bool) (s : State) : Goes s (execIslandRequestComplete ecdsa sound answered s) := by
  have h := Keeps.refl s
  unfold execIslandRequestComplete
  try dsimp -proj only
  repeat' first
    | with_reducible exact h
    | with_reducible apply keep_dropErase
    | with_reducible apply Keeps.ite
    | with_reducible apply Goes.ite
    | with_reducible apply Goes.next
    | with_reducible apply keep_State_modKeys
    | with_reducible apply keep_serveIsland
    | with_reducible apply keep_failWaiting
    | (simp -proj only [keeps_mk]; with_reducible refine KeepsParts.of rfl ?_ ?_ ?_ ?_ ?_ ?_)
    | with_reducible exact fun i => i
    | (intro r hr; try dsimp -proj only)
    | with_reducible assumption
    | with_reducible exact fun _ i => i
    | split
    | exact fun i => by simpa using i

theorem keep_execSlotUsersDone (n : Nat) (s : State) : Goes s (execSlotUsersDone n s) := by
  have h := Keeps.refl s
  unfold execSlotUsersDone
  try dsimp -proj only
  repeat' first
    | with_reducible exact h
    | with_reducible apply Keeps.ite
    | with_reducible apply Goes.ite
    | with_reducible apply Goes.next
    | with_reducible apply keep_finishErase
    | with_reducible apply keep_serveWrite
    | with_reducible apply keep_State_modKeys
    | (simp -proj only [keeps_mk]; with_reducible refine KeepsParts.of rfl ?_ ?_ ?_ ?_ ?_ ?_)
    | with_reducible exact fun i => i
    | (intro r hr; try dsimp -proj only)
    | with_reducible assumption
    | with_reducible exact fun _ i => i
    | split
    | exact fun i => by simpa using i

theorem keep_abortIsland {z0 : State} (s : State) (cause : Nat) (h : Keeps z0 s) : Keeps z0 (abortIsland s cause) := by
  unfold abortIsland
  try dsimp -proj only
  repeat' first
    | with_reducible exact h
    | with_reducible apply keep_dropErase
    | with_reducible apply keep_raise
    | with_reducible apply keep_State_modKeys
    | (simp -proj only [keeps_mk]; with_reducible refine KeepsParts.of rfl ?_ ?_ ?_ ?_ ?_ ?_)
    | with_reducible exact fun i => i
    | with_reducible apply Keeps.foldl
    | (intro r x hr; try dsimp -proj only)
    | with_reducible assumption
    | with_reducible exact fun _ i => i
    | exact fun i => by simpa using i

theorem keep_execMkpduRx (port : Nat) (m : Mkpdu) (s : State) : Goes s (execMkpduRx port m s) := by
  have h := Keeps.refl s
  unfold execMkpduRx
  try dsimp -proj only
  repeat' first
    | with_reducible exact h
    | with_reducible apply Keeps.ite
    | with_reducible apply Goes.ite
    | with_reducible apply Goes.next
    | with_reducible apply keep_askIsland
    | (simp -proj only [keeps_mk]; with_reducible refine KeepsParts.of rfl ?_ ?_ ?_ ?_ ?_ ?_)
    | with_reducible exact fun i => i
    | (intro r hr; try dsimp -proj only)
    | with_reducible assumption
    | with_reducible exact fun _ i => i
    | split
    | exact fun i => by simpa using i

theorem keep_execMkaHelloTimer (port : Nat) (s : State) : Goes s (execMkaHelloTimer port s) := by
  have h := Keeps.refl s
  unfold execMkaHelloTimer
  try dsimp -proj only
  repeat' first
    | with_reducible exact h
    | with_reducible apply Keeps.ite
    | with_reducible apply Goes.ite
    | with_reducible apply Goes.next
    | with_reducible apply keep_State_until
    | with_reducible apply keep_modMka
    | (simp -proj only [keeps_mk]; with_reducible refine KeepsParts.of rfl ?_ ?_ ?_ ?_ ?_ ?_)
    | with_reducible exact fun i => i
    | (intro r hr; try dsimp -proj only)
    | with_reducible assumption
    | with_reducible exact fun _ i => i
    | split
    | exact fun i => by simpa using i

theorem keep_execMkaLifetimeExpiry (port : Nat) (s : State) : Goes s (execMkaLifetimeExpiry port s) := by
  have h := Keeps.refl s
  unfold execMkaLifetimeExpiry
  try dsimp -proj only
  repeat' first
    | with_reducible exact h
    | with_reducible apply Keeps.ite
    | with_reducible apply Goes.ite
    | with_reducible apply Goes.next
    | with_reducible apply keep_State_until
    | with_reducible apply keep_zenithRecheck
    | with_reducible apply keep_checkP0
    | with_reducible apply keep_retireMka
    | with_reducible apply keep_mkaLost
    | (simp -proj only [keeps_mk]; with_reducible refine KeepsParts.of rfl ?_ ?_ ?_ ?_ ?_ ?_)
    | with_reducible exact fun i => i
    | (intro r hr; try dsimp -proj only)
    | with_reducible assumption
    | with_reducible exact fun _ i => i
    | split
    | exact fun i => by simpa using i

theorem keep_execTransmitOpportunity (point : Nat) (ecc : EccHit) (s : State) : Goes s (execTransmitOpportunity point ecc s) := by
  have h := Keeps.refl s
  unfold execTransmitOpportunity
  try dsimp -proj only
  repeat' first
    | with_reducible exact h
    | with_reducible apply Keeps.ite
    | (intro r a b hr)
    | with_reducible apply Goes.ite
    | with_reducible apply Goes.next
    | with_reducible apply keep_transmitOpp
    | (with_reducible refine Keeps.fst (by assumption) ?_; with_reducible apply keep_protect)
    | with_reducible apply keep_protect
    | (intro r hr; try dsimp -proj only)
    | with_reducible assumption
    | split

theorem keep_specLifecycleGet : SpecKeeps specLifecycleGet := by
  intro z0 s r p h
  unfold specLifecycleGet
  try dsimp only
  repeat' first
    | with_reducible exact h
    | with_reducible apply Keeps.ite
    | with_reducible apply ResultKeeps.checked
    | with_reducible apply ResultKeeps.ite
    | with_reducible exact ResultKeeps.fail
    | with_reducible apply ResultKeeps.doneMk
    | with_reducible apply ResultKeeps.failWith
    | with_reducible apply ResultKeeps.retry
    | with_reducible apply ResultKeeps.wait
    | (intro r hr; try dsimp only [id])
    | with_reducible assumption
    | split

theorem keep_specKeySlotWrite : SpecKeeps specKeySlotWrite := by
  intro z0 s r p h
  unfold specKeySlotWrite
  try dsimp only
  repeat' first
    | with_reducible exact h
    | with_reducible apply Keeps.ite
    | with_reducible apply ResultKeeps.checked
    | with_reducible apply ResultKeeps.ite
    | with_reducible exact ResultKeeps.fail
    | with_reducible apply ResultKeeps.doneMk
    | with_reducible apply ResultKeeps.failWith
    | with_reducible apply ResultKeeps.retry
    | with_reducible apply ResultKeeps.wait
    | (with_reducible refine Keeps.fst (by assumption) ?_; with_reducible apply keep_loadSlot)
    | with_reducible apply keep_loadSlot
    | with_reducible apply keep_modSlot
    | with_reducible apply keep_askIsland
    | (simp -proj only [keeps_mk]; with_reducible refine KeepsParts.of rfl ?_ ?_ ?_ ?_ ?_ ?_)
    | with_reducible exact fun i => i
    | (intro r hr; try dsimp only [id])
    | with_reducible assumption
    | with_reducible exact fun _ i => i
    | split
    | exact fun i => by simpa using i

theorem keep_specKeySlotErase : SpecKeeps specKeySlotErase := by
  intro z0 s r p h
  unfold specKeySlotErase
  try dsimp only
  repeat' first
    | with_reducible exact h
    | with_reducible apply keep_modSlot
    | with_reducible apply Keeps.ite
    | with_reducible apply ResultKeeps.checked
    | with_reducible apply ResultKeeps.ite
    | with_reducible exact ResultKeeps.fail
    | with_reducible apply ResultKeeps.doneMk
    | with_reducible apply ResultKeeps.failWith
    | with_reducible apply ResultKeeps.retry
    | with_reducible apply ResultKeeps.wait
    | (with_reducible refine Keeps.fst (by assumption) ?_; with_reducible apply keep_runErase)
    | with_reducible apply keep_runErase
    | with_reducible apply keep_askIsland
    | (intro r hr; try dsimp only [id])
    | with_reducible assumption
    | split

theorem keep_specKeySlotInfo : SpecKeeps specKeySlotInfo := by
  intro z0 s r p h
  unfold specKeySlotInfo
  try dsimp only
  repeat' first
    | with_reducible exact h
    | with_reducible apply Keeps.ite
    | with_reducible apply ResultKeeps.checked
    | with_reducible apply ResultKeeps.ite
    | with_reducible exact ResultKeeps.fail
    | with_reducible apply ResultKeeps.doneMk
    | with_reducible apply ResultKeeps.failWith
    | with_reducible apply ResultKeeps.retry
    | with_reducible apply ResultKeeps.wait
    | (simp -proj only [keeps_mk]; with_reducible refine KeepsParts.of rfl ?_ ?_ ?_ ?_ ?_ ?_)
    | with_reducible exact fun i => i
    | (intro r hr; try dsimp only [id])
    | with_reducible assumption
    | with_reducible exact fun _ i => i
    | split
    | exact fun i => by simpa using i

theorem keep_specKeyOp : SpecKeeps specKeyOp := by
  intro z0 s r p h
  unfold specKeyOp
  try dsimp only
  repeat' first
    | with_reducible exact h
    | with_reducible apply Keeps.ite
    | with_reducible apply ResultKeeps.checked
    | with_reducible apply ResultKeeps.ite
    | with_reducible exact ResultKeeps.fail
    | with_reducible apply ResultKeeps.doneMk
    | with_reducible apply ResultKeeps.failWith
    | with_reducible apply ResultKeeps.retry
    | with_reducible apply ResultKeeps.wait
    | (with_reducible refine Keeps.fst (by assumption) ?_; with_reducible apply keep_loadSlot)
    | with_reducible apply keep_loadSlot
    | with_reducible apply keep_slotUsed
    | with_reducible apply keep_askIsland
    | (simp -proj only [keeps_mk]; with_reducible refine KeepsParts.of rfl ?_ ?_ ?_ ?_ ?_ ?_)
    | with_reducible exact fun i => i
    | (intro r hr; try dsimp only [id])
    | with_reducible assumption
    | with_reducible exact fun _ i => i
    | split
    | exact fun i => by simpa using i

theorem keep_specProvisionClose : SpecKeeps specProvisionClose := by
  intro z0 s r p h
  unfold specProvisionClose
  try dsimp only
  repeat' first
    | with_reducible exact h
    | with_reducible apply ResultKeeps.checked
    | with_reducible apply ResultKeeps.ite
    | with_reducible exact ResultKeeps.fail
    | with_reducible apply ResultKeeps.doneMk
    | with_reducible apply ResultKeeps.failWith
    | with_reducible apply ResultKeeps.retry
    | with_reducible apply ResultKeeps.wait
    | with_reducible apply keep_State_modKeys
    | (simp -proj only [keeps_mk]; with_reducible refine KeepsParts.of rfl ?_ ?_ ?_ ?_ ?_ ?_)
    | with_reducible exact fun i => i
    | (intro r hr; try dsimp only [id])
    | with_reducible assumption
    | with_reducible exact fun _ i => i
    | exact fun i => by simpa using i

theorem keep_specMacsecPortSet : SpecKeeps specMacsecPortSet := by
  intro z0 s r p h
  unfold specMacsecPortSet
  try dsimp only
  repeat' first
    | with_reducible exact h
    | with_reducible apply Keeps.ite
    | with_reducible apply ResultKeeps.checked
    | with_reducible apply ResultKeeps.ite
    | with_reducible exact ResultKeeps.fail
    | with_reducible apply ResultKeeps.doneMk
    | with_reducible apply ResultKeeps.failWith
    | with_reducible apply ResultKeeps.retry
    | with_reducible apply ResultKeeps.wait
    | with_reducible apply keep_State_modKeys
    | (with_reducible refine Keeps.snd (by assumption) ?_; with_reducible apply keep_requestTokens)
    | with_reducible apply keep_requestTokens
    | with_reducible apply keep_returnTokens
    | with_reducible apply keep_zenithRecheck
    | with_reducible apply keep_checkP0
    | (simp -proj only [keeps_mk]; with_reducible refine KeepsParts.of rfl ?_ ?_ ?_ ?_ ?_ ?_)
    | with_reducible exact fun i => i
    | (intro r hr; try dsimp only [id])
    | with_reducible assumption
    | with_reducible exact fun _ i => i
    | split
    | exact fun i => by simpa using i

theorem keep_specMacsecSaSet : SpecKeeps specMacsecSaSet := by
  intro z0 s r p h
  unfold specMacsecSaSet
  try dsimp only
  repeat' first
    | with_reducible exact h
    | with_reducible apply Keeps.ite
    | with_reducible apply ResultKeeps.checked
    | with_reducible apply ResultKeeps.ite
    | with_reducible exact ResultKeeps.fail
    | with_reducible apply ResultKeeps.doneMk
    | with_reducible apply ResultKeeps.failWith
    | with_reducible apply ResultKeeps.retry
    | with_reducible apply ResultKeeps.wait
    | (with_reducible refine Keeps.fst (by assumption) ?_; with_reducible apply keep_loadSlot)
    | with_reducible apply keep_loadSlot
    | with_reducible apply keep_slotUsed
    | with_reducible apply keep_retireSa
    | with_reducible apply keep_askIsland
    | with_reducible apply keep_zenithRecheck
    | with_reducible apply keep_checkP0
    | with_reducible apply keep_activateSa
    | (simp -proj only [keeps_mk]; with_reducible refine KeepsParts.of rfl ?_ ?_ ?_ ?_ ?_ ?_)
    | with_reducible exact fun i => i
    | (intro r hr; try dsimp only [id])
    | with_reducible assumption
    | with_reducible exact fun _ i => i
    | split
    | exact fun i => by simpa using i

theorem keep_specMkaSet : SpecKeeps specMkaSet := by
  intro z0 s r p h
  unfold specMkaSet
  try dsimp only
  repeat' first
    | with_reducible exact h
    | with_reducible apply Keeps.ite
    | with_reducible apply ResultKeeps.checked
    | with_reducible apply ResultKeeps.ite
    | with_reducible exact ResultKeeps.fail
    | with_reducible apply ResultKeeps.doneMk
    | with_reducible apply ResultKeeps.failWith
    | with_reducible apply ResultKeeps.retry
    | with_reducible apply ResultKeeps.wait
    | with_reducible apply keep_mkaStop
    | with_reducible apply keep_State_modKeys
    | with_reducible apply keep_mkaStart
    | (simp -proj only [keeps_mk]; with_reducible refine KeepsParts.of rfl ?_ ?_ ?_ ?_ ?_ ?_)
    | with_reducible exact fun i => i
    | (intro r hr; try dsimp only [id])
    | with_reducible assumption
    | with_reducible exact fun _ i => i
    | split
    | exact fun i => by simpa using i

theorem keep_specMacsecStatusGet : SpecKeeps specMacsecStatusGet := by
  intro z0 s r p h
  unfold specMacsecStatusGet
  try dsimp only
  repeat' first
    | with_reducible exact h
    | with_reducible apply Keeps.ite
    | with_reducible apply ResultKeeps.checked
    | with_reducible apply ResultKeeps.ite
    | with_reducible exact ResultKeeps.fail
    | with_reducible apply ResultKeeps.doneMk
    | with_reducible apply ResultKeeps.failWith
    | with_reducible apply ResultKeeps.retry
    | with_reducible apply ResultKeeps.wait
    | (simp -proj only [keeps_mk]; with_reducible refine KeepsParts.of rfl ?_ ?_ ?_ ?_ ?_ ?_)
    | with_reducible exact fun i => i
    | (intro r hr; try dsimp only [id])
    | with_reducible assumption
    | with_reducible exact fun _ i => i
    | split
    | exact fun i => by simpa using i

theorem keep_specMacsecCountersGet : SpecKeeps specMacsecCountersGet := by
  intro z0 s r p h
  unfold specMacsecCountersGet
  try dsimp only
  repeat' first
    | with_reducible exact h
    | with_reducible apply Keeps.ite
    | with_reducible apply ResultKeeps.checked
    | with_reducible apply ResultKeeps.ite
    | with_reducible exact ResultKeeps.fail
    | with_reducible apply ResultKeeps.doneMk
    | with_reducible apply ResultKeeps.failWith
    | with_reducible apply ResultKeeps.retry
    | with_reducible apply ResultKeeps.wait
    | with_reducible apply keep_modMac
    | with_reducible apply keep_modSa
    | (simp -proj only [keeps_mk]; with_reducible refine KeepsParts.of rfl ?_ ?_ ?_ ?_ ?_ ?_)
    | with_reducible exact fun i => i
    | (intro r hr; try dsimp only [id])
    | with_reducible assumption
    | with_reducible exact fun _ i => i
    | split
    | exact fun i => by simpa using i

theorem keep_specTamperSet : SpecKeeps specTamperSet := by
  intro z0 s r p h
  unfold specTamperSet
  try dsimp only
  repeat' first
    | with_reducible exact h
    | with_reducible apply Keeps.ite
    | with_reducible apply ResultKeeps.checked
    | with_reducible apply ResultKeeps.ite
    | with_reducible exact ResultKeeps.fail
    | with_reducible apply ResultKeeps.doneMk
    | with_reducible apply ResultKeeps.failWith
    | with_reducible apply ResultKeeps.retry
    | with_reducible apply ResultKeeps.wait
    | with_reducible apply keep_State_modKeys
    | (simp -proj only [keeps_mk]; with_reducible refine KeepsParts.of rfl ?_ ?_ ?_ ?_ ?_ ?_)
    | with_reducible exact fun i => i
    | (intro r hr; try dsimp only [id])
    | with_reducible assumption
    | with_reducible exact fun _ i => i
    | split
    | exact fun i => by simpa using i

theorem keep_execLifecycleGet (r : Req) (s : State) : Goes s (execLifecycleGet r s) := keep_command keep_specLifecycleGet r s

theorem keep_execKeySlotWrite (r : Req) (s : State) : Goes s (execKeySlotWrite r s) := keep_command keep_specKeySlotWrite r s

theorem keep_execKeySlotErase (r : Req) (s : State) : Goes s (execKeySlotErase r s) := keep_command keep_specKeySlotErase r s

theorem keep_execKeySlotInfo (r : Req) (s : State) : Goes s (execKeySlotInfo r s) := keep_command keep_specKeySlotInfo r s

theorem keep_execKeyOp (r : Req) (s : State) : Goes s (execKeyOp r s) := keep_command keep_specKeyOp r s

theorem keep_execProvisionClose (r : Req) (s : State) : Goes s (execProvisionClose r s) := keep_command keep_specProvisionClose r s

theorem keep_execMacsecPortSet (r : Req) (s : State) : Goes s (execMacsecPortSet r s) := keep_command keep_specMacsecPortSet r s

theorem keep_execMacsecSaSet (r : Req) (s : State) : Goes s (execMacsecSaSet r s) := keep_command keep_specMacsecSaSet r s

theorem keep_execMkaSet (r : Req) (s : State) : Goes s (execMkaSet r s) := keep_command keep_specMkaSet r s

theorem keep_execMacsecStatusGet (r : Req) (s : State) : Goes s (execMacsecStatusGet r s) := keep_command keep_specMacsecStatusGet r s

theorem keep_execMacsecCountersGet (r : Req) (s : State) : Goes s (execMacsecCountersGet r s) := keep_command keep_specMacsecCountersGet r s

theorem keep_execTamperSet (r : Req) (s : State) : Goes s (execTamperSet r s) := keep_command keep_specTamperSet r s

end Sys2Proof.Machine
end

