-- ==== Sys2Proof/Laws/Attest.lean ====
section
/-! SUPPORT. Laws of Machine/Attest.lean: each operation keeps the queue of waiting commands and soundness; each meaning goes on. -/

namespace Sys2Proof.Machine

theorem keep_State_modBoot {z0 : State} (s : State) (f : Boot → Boot) (h : Keeps z0 s) : Keeps z0 (State.modBoot s f) := by
  unfold State.modBoot
  try dsimp -proj only
  repeat' first
    | with_reducible exact h
    | (simp -proj only [keeps_mk]; with_reducible refine KeepsParts.of rfl ?_ ?_ ?_ ?_ ?_ ?_)
    | with_reducible exact fun i => i
    | with_reducible assumption
    | with_reducible exact fun _ i => i
    | exact fun i => by simpa using i

theorem keep_raiseMeasure {z0 : State} (s : State) (m : MeasRec) (h : Keeps z0 s) : Keeps z0 (raiseMeasure s m) := by
  unfold raiseMeasure
  try dsimp -proj only
  repeat' first
    | with_reducible exact h
    | with_reducible apply Keeps.ite
    | with_reducible apply keep_raise
    | with_reducible assumption
    | split

theorem keep_extendAt {z0 : State} (s : State) (mreg kind : Nat) (digest data : List Byte) (early : Bool) (h : Keeps z0 s) : Keeps z0 (extendAt s mreg kind digest data early) := by
  unfold extendAt
  try dsimp -proj only
  repeat' first
    | with_reducible exact h
    | with_reducible apply Keeps.ite
    | with_reducible apply keep_State_modBoot
    | with_reducible apply keep_raiseMeasure
    | (simp -proj only [keeps_mk]; with_reducible refine KeepsParts.of rfl ?_ ?_ ?_ ?_ ?_ ?_)
    | with_reducible exact fun i => i
    | with_reducible assumption
    | with_reducible exact fun _ i => i
    | split
    | exact fun i => by simpa using i

theorem keep_extend {z0 : State} (s : State) (mreg kind : Nat) (digest data : List Byte) (h : Keeps z0 s) : Keeps z0 (extend s mreg kind digest data) := by
  unfold extend
  try dsimp -proj only
  repeat' first
    | with_reducible exact h
    | with_reducible apply keep_extendAt
    | with_reducible assumption

theorem keep_extendData {z0 : State} (s : State) (mreg kind : Nat) (data : List Byte) (h : Keeps z0 s) : Keeps z0 (extendData s mreg kind data) := by
  unfold extendData
  try dsimp -proj only
  repeat' first
    | with_reducible exact h
    | with_reducible apply keep_extend
    | with_reducible assumption

theorem keep_bootCountAt {z0 : State} (s : State) (t pos : Nat) (h : Keeps z0 s) : Keeps z0 (bootCountAt s t pos) := by
  unfold bootCountAt
  try dsimp -proj only
  repeat' first
    | with_reducible exact h
    | with_reducible apply keep_State_modBoot
    | (simp -proj only [keeps_mk]; with_reducible refine KeepsParts.of rfl ?_ ?_ ?_ ?_ ?_ ?_)
    | with_reducible exact fun i => i
    | with_reducible assumption
    | with_reducible exact fun _ i => i
    | exact fun i => by simpa using i

theorem keep_raiseAttest {z0 : State} (s : State) (t kind slot mask : Nat) (nonce : List Byte) (h : Keeps z0 s) : Keeps z0 (raiseAttest s t kind slot mask nonce) := by
  unfold raiseAttest
  try dsimp -proj only
  repeat' first
    | with_reducible exact h
    | with_reducible apply Keeps.ite
    | with_reducible apply keep_raise
    | with_reducible assumption
    | split

theorem keep_abortSignings {z0 : State} (s : State) (hit : Signing → Bool) (h : Keeps z0 s) : Keeps z0 (abortSignings s hit) := by
  unfold abortSignings
  try dsimp -proj only
  repeat' first
    | with_reducible exact h
    | with_reducible apply keep_raiseAttest
    | with_reducible apply keep_bootCountAt
    | with_reducible apply keep_State_modBoot
    | (simp -proj only [keeps_mk]; with_reducible refine KeepsParts.of rfl ?_ ?_ ?_ ?_ ?_ ?_)
    | with_reducible exact fun i => i
    | with_reducible apply Keeps.foldl
    | (intro r x hr; try dsimp -proj only)
    | with_reducible assumption
    | with_reducible exact fun _ i => i
    | exact fun i => by simpa using i

theorem keep_modConn {z0 : State} (s : State) (t conn : Nat) (f : SpdmConn → SpdmConn) (h : Keeps z0 s) : Keeps z0 (modConn s t conn f) := by
  unfold modConn
  try dsimp -proj only
  repeat' first
    | with_reducible exact h
    | with_reducible apply Keeps.ite
    | with_reducible apply keep_State_modBoot
    | (simp -proj only [keeps_mk]; with_reducible refine KeepsParts.of rfl ?_ ?_ ?_ ?_ ?_ ?_)
    | with_reducible exact fun i => i
    | with_reducible assumption
    | with_reducible exact fun _ i => i
    | split
    | exact fun i => by simpa using i

theorem keep_spdmAnswer {z0 : State} (s : State) (t conn : Nat) (r : SpdmRsp) (h : Keeps z0 s) : Keeps z0 (spdmAnswer s t conn r) := by
  unfold spdmAnswer
  try dsimp -proj only
  repeat' first
    | with_reducible exact h
    | with_reducible apply Keeps.ite
    | with_reducible apply keep_modConn
    | with_reducible apply keep_bootCountAt
    | (simp -proj only [keeps_mk]; with_reducible refine KeepsParts.of rfl ?_ ?_ ?_ ?_ ?_ ?_)
    | with_reducible exact fun i => i
    | with_reducible assumption
    | with_reducible exact fun _ i => i
    | split
    | exact fun i => by simpa using i

theorem keep_askSigning {z0 : State} (s : State) (g : Signing) (h : Keeps z0 s) : Keeps z0 (askSigning s g) := by
  unfold askSigning
  try dsimp -proj only
  repeat' first
    | with_reducible exact h
    | with_reducible apply Keeps.ite
    | with_reducible apply keep_raiseAttest
    | with_reducible apply keep_bootCountAt
    | with_reducible apply keep_sendOther
    | with_reducible apply keep_pairCount
    | with_reducible apply keep_spdmAnswer
    | with_reducible apply keep_State_modBoot
    | (simp -proj only [keeps_mk]; with_reducible refine KeepsParts.of rfl ?_ ?_ ?_ ?_ ?_ ?_)
    | with_reducible exact fun i => i
    | with_reducible assumption
    | with_reducible exact fun _ i => i
    | split
    | exact fun i => by simpa using i

theorem keep_execSpdmRequest (t conn : Nat) (q : SpdmReq) (s : State) : Goes s (execSpdmRequest t conn q s) := by
  have h := Keeps.refl s
  unfold execSpdmRequest
  try dsimp -proj only
  repeat' first
    | with_reducible exact h
    | with_reducible apply Keeps.ite
    | with_reducible apply Goes.ite
    | with_reducible apply Goes.next
    | with_reducible apply keep_State_modPair
    | with_reducible apply keep_bootCountAt
    | with_reducible apply keep_spdmAnswer
    | with_reducible apply keep_modConn
    | with_reducible apply keep_askSigning
    | (simp -proj only [keeps_mk]; with_reducible refine KeepsParts.of rfl ?_ ?_ ?_ ?_ ?_ ?_)
    | with_reducible exact fun i => i
    | (intro r hr; try dsimp -proj only)
    | with_reducible assumption
    | with_reducible exact fun _ i => i
    | split
    | exact fun i => by simpa using i

theorem keep_execSigningComplete (answered : Bool) (s : State) : Goes s (execSigningComplete answered s) := by
  have h := Keeps.refl s
  unfold execSigningComplete
  try dsimp -proj only
  repeat' first
    | with_reducible exact h
    | with_reducible apply Keeps.ite
    | with_reducible apply Goes.ite
    | with_reducible apply Goes.next
    | with_reducible apply keep_State_modBoot
    | with_reducible apply keep_failWaiting
    | with_reducible apply keep_raiseAttest
    | with_reducible apply keep_bootCountAt
    | with_reducible apply keep_answerWaiting
    | with_reducible apply keep_spdmAnswer
    | (simp -proj only [keeps_mk]; with_reducible refine KeepsParts.of rfl ?_ ?_ ?_ ?_ ?_ ?_)
    | with_reducible exact fun i => i
    | (intro r hr; try dsimp -proj only)
    | (intro r hr; refine ⟨?_, fun _ ht => ht⟩; try dsimp only)
    | with_reducible assumption
    | exact ⟨hr, fun _ ht => ht⟩
    | exact fun r hr => ⟨hr, fun _ ht => ht⟩
    | with_reducible exact fun _ i => i
    | split
    | exact fun i => by simpa using i

theorem keep_execSpdmTcpConnection (e : TcpEvent) (s : State) : Goes s (execSpdmTcpConnection e s) := by
  have h := Keeps.refl s
  unfold execSpdmTcpConnection
  try dsimp -proj only
  repeat' first
    | with_reducible exact h
    | with_reducible apply Keeps.ite
    | with_reducible apply Goes.ite
    | with_reducible apply Goes.next
    | with_reducible apply keep_State_modBoot
    | with_reducible apply keep_abortSignings
    | (simp -proj only [keeps_mk]; with_reducible refine KeepsParts.of rfl ?_ ?_ ?_ ?_ ?_ ?_)
    | with_reducible exact fun i => i
    | (intro r hr; try dsimp -proj only)
    | with_reducible assumption
    | with_reducible exact fun _ i => i
    | split
    | exact fun i => by simpa using i

theorem keep_execMctpControl (cmd eid : Nat) (s : State) : Goes s (execMctpControl cmd eid s) := by
  have h := Keeps.refl s
  unfold execMctpControl
  try dsimp -proj only
  repeat' first
    | with_reducible exact h
    | with_reducible apply Keeps.ite
    | with_reducible apply Goes.ite
    | with_reducible apply Goes.next
    | with_reducible apply keep_State_modBoot
    | (simp -proj only [keeps_mk]; with_reducible refine KeepsParts.of rfl ?_ ?_ ?_ ?_ ?_ ?_)
    | with_reducible exact fun i => i
    | (intro r hr; try dsimp -proj only)
    | with_reducible assumption
    | with_reducible exact fun _ i => i
    | split
    | exact fun i => by simpa using i

theorem keep_specMeasGet : SpecKeeps specMeasGet := by
  intro z0 s r p h
  unfold specMeasGet
  try dsimp only
  repeat' first
    | with_reducible exact h
    | with_reducible apply ResultKeeps.checked
    | with_reducible apply ResultKeeps.ite
    | with_reducible exact ResultKeeps.fail
    | with_reducible apply ResultKeeps.doneMk
    | with_reducible apply ResultKeeps.failWith
    | with_reducible apply ResultKeeps.retry
    | with_reducible apply ResultKeeps.wait
    | (intro r hr; try dsimp only [id])
    | with_reducible assumption

theorem keep_specMeasLogRead : SpecKeeps specMeasLogRead := by
  intro z0 s r p h
  unfold specMeasLogRead
  try dsimp only
  repeat' first
    | with_reducible exact h
    | with_reducible apply Keeps.ite
    | with_reducible apply ResultKeeps.checked
    | with_reducible apply ResultKeeps.ite
    | with_reducible exact ResultKeeps.fail
    | with_reducible apply ResultKeeps.doneMk
    | with_reducible apply ResultKeeps.failWith
    | with_reducible apply ResultKeeps.retry
    | with_reducible apply ResultKeeps.wait
    | (intro r hr; try dsimp only [id])
    | with_reducible assumption
    | split

theorem keep_specMeasExtend : SpecKeeps specMeasExtend := by
  intro z0 s r p h
  unfold specMeasExtend
  try dsimp only
  repeat' first
    | with_reducible exact h
    | with_reducible apply ResultKeeps.checked
    | with_reducible apply ResultKeeps.ite
    | with_reducible exact ResultKeeps.fail
    | with_reducible apply ResultKeeps.doneMk
    | with_reducible apply ResultKeeps.failWith
    | with_reducible apply ResultKeeps.retry
    | with_reducible apply ResultKeeps.wait
    | with_reducible apply keep_extend
    | (intro r hr; try dsimp only [id])
    | with_reducible assumption

theorem keep_specAttestGet : SpecKeeps specAttestGet := by
  intro z0 s r p h
  unfold specAttestGet
  try dsimp only
  repeat' first
    | with_reducible exact h
    | with_reducible apply Keeps.ite
    | with_reducible apply ResultKeeps.checked
    | with_reducible apply ResultKeeps.ite
    | with_reducible exact ResultKeeps.fail
    | with_reducible apply ResultKeeps.doneMk
    | with_reducible apply ResultKeeps.failWith
    | with_reducible apply ResultKeeps.retry
    | with_reducible apply ResultKeeps.wait
    | with_reducible apply keep_bootCountAt
    | with_reducible apply keep_raiseAttest
    | with_reducible apply keep_askSigning
    | (simp -proj only [keeps_mk]; with_reducible refine KeepsParts.of rfl ?_ ?_ ?_ ?_ ?_ ?_)
    | with_reducible exact fun i => i
    | (intro r hr; try dsimp only [id])
    | with_reducible assumption
    | with_reducible exact fun _ i => i
    | split
    | exact fun i => by simpa using i

theorem keep_specBootStatusGet : SpecKeeps specBootStatusGet := by
  intro z0 s r p h
  unfold specBootStatusGet
  try dsimp only
  repeat' first
    | with_reducible exact h
    | with_reducible apply ResultKeeps.checked
    | with_reducible apply ResultKeeps.ite
    | with_reducible exact ResultKeeps.fail
    | with_reducible apply ResultKeeps.doneMk
    | with_reducible apply ResultKeeps.failWith
    | with_reducible apply ResultKeeps.retry
    | with_reducible apply ResultKeeps.wait
    | (intro r hr; try dsimp only [id])
    | with_reducible assumption

theorem keep_specCertGet : SpecKeeps specCertGet := by
  intro z0 s r p h
  unfold specCertGet
  try dsimp only
  repeat' first
    | with_reducible exact h
    | with_reducible apply Keeps.ite
    | with_reducible apply ResultKeeps.checked
    | with_reducible apply ResultKeeps.ite
    | with_reducible exact ResultKeeps.fail
    | with_reducible apply ResultKeeps.doneMk
    | with_reducible apply ResultKeeps.failWith
    | with_reducible apply ResultKeeps.retry
    | with_reducible apply ResultKeeps.wait
    | (intro r hr; try dsimp only [id])
    | with_reducible assumption
    | split

theorem keep_specCertSet : SpecKeeps specCertSet := by
  intro z0 s r p h
  unfold specCertSet
  try dsimp only
  repeat' first
    | with_reducible exact h
    | with_reducible apply Keeps.ite
    | with_reducible apply ResultKeeps.checked
    | with_reducible apply ResultKeeps.ite
    | with_reducible exact ResultKeeps.fail
    | with_reducible apply ResultKeeps.doneMk
    | with_reducible apply ResultKeeps.failWith
    | with_reducible apply ResultKeeps.retry
    | with_reducible apply ResultKeeps.wait
    | with_reducible apply keep_State_modBoot
    | (simp -proj only [keeps_mk]; with_reducible refine KeepsParts.of rfl ?_ ?_ ?_ ?_ ?_ ?_)
    | with_reducible exact fun i => i
    | (intro r hr; try dsimp only [id])
    | with_reducible assumption
    | with_reducible exact fun _ i => i
    | split
    | exact fun i => by simpa using i

theorem keep_specSpdmSet : SpecKeeps specSpdmSet := by
  intro z0 s r p h
  unfold specSpdmSet
  try dsimp only
  repeat' first
    | with_reducible exact h
    | with_reducible apply Keeps.ite
    | with_reducible apply ResultKeeps.checked
    | with_reducible apply ResultKeeps.ite
    | with_reducible exact ResultKeeps.fail
    | with_reducible apply ResultKeeps.doneMk
    | with_reducible apply ResultKeeps.failWith
    | with_reducible apply ResultKeeps.retry
    | with_reducible apply ResultKeeps.wait
    | with_reducible apply keep_State_modBoot
    | with_reducible apply keep_abortSignings
    | (simp -proj only [keeps_mk]; with_reducible refine KeepsParts.of rfl ?_ ?_ ?_ ?_ ?_ ?_)
    | with_reducible exact fun i => i
    | (intro r hr; try dsimp only [id])
    | with_reducible assumption
    | with_reducible exact fun _ i => i
    | split
    | exact fun i => by simpa using i

theorem keep_execMeasGet (r : Req) (s : State) : Goes s (execMeasGet r s) := keep_command keep_specMeasGet r s

theorem keep_execMeasLogRead (r : Req) (s : State) : Goes s (execMeasLogRead r s) := keep_command keep_specMeasLogRead r s

theorem keep_execMeasExtend (r : Req) (s : State) : Goes s (execMeasExtend r s) := keep_command keep_specMeasExtend r s

theorem keep_execAttestGet (r : Req) (s : State) : Goes s (execAttestGet r s) := keep_command keep_specAttestGet r s

theorem keep_execBootStatusGet (r : Req) (s : State) : Goes s (execBootStatusGet r s) := keep_command keep_specBootStatusGet r s

theorem keep_execCertGet (r : Req) (s : State) : Goes s (execCertGet r s) := keep_command keep_specCertGet r s

theorem keep_execCertSet (r : Req) (s : State) : Goes s (execCertSet r s) := keep_command keep_specCertSet r s

theorem keep_execSpdmSet (r : Req) (s : State) : Goes s (execSpdmSet r s) := keep_command keep_specSpdmSet r s

end Sys2Proof.Machine
end

