-- ==== Sys2Proof/Laws/LodeRun.lean ====
section
/-! SUPPORT. Laws of Machine/LodeRun.lean: each operation keeps the queue of waiting commands and soundness; each meaning goes on. -/

namespace Sys2Proof.Machine

theorem keep_State_modLode {z0 : State} (s : State) (f : Lodestar → Lodestar) (h : Keeps z0 s) : Keeps z0 (State.modLode s f) := by
  unfold State.modLode
  try dsimp -proj only
  repeat' first
    | with_reducible exact h
    | (simp -proj only [keeps_mk]; with_reducible refine KeepsParts.of rfl ?_ ?_ ?_ ?_ ?_ ?_)
    | with_reducible exact fun i => i
    | with_reducible assumption
    | with_reducible exact fun _ i => i
    | exact fun i => by simpa using i

theorem keep_logCommit {z0 : State} (s : State) (r : LogRec) (h : Keeps z0 s) : Keeps z0 (logCommit s r) := by
  unfold logCommit
  try dsimp -proj only
  repeat' first
    | with_reducible exact h
    | with_reducible apply Keeps.ite
    | with_reducible apply keep_State_modLode
    | (simp -proj only [keeps_mk]; with_reducible refine KeepsParts.of rfl ?_ ?_ ?_ ?_ ?_ ?_)
    | with_reducible exact fun i => i
    | with_reducible assumption
    | with_reducible exact fun _ i => i
    | split
    | exact fun i => by simpa using i

theorem keep_programOne {z0 : State} (s : State) (h : Keeps z0 s) : Keeps z0 (programOne s) := by
  unfold programOne
  try dsimp -proj only
  repeat' first
    | with_reducible exact h
    | with_reducible apply Keeps.ite
    | with_reducible apply keep_logCommit
    | with_reducible apply keep_State_modLode
    | (simp -proj only [keeps_mk]; with_reducible refine KeepsParts.of rfl ?_ ?_ ?_ ?_ ?_ ?_)
    | with_reducible exact fun i => i
    | with_reducible assumption
    | with_reducible exact fun _ i => i
    | split
    | exact fun i => by simpa using i

theorem keep_flushLog {z0 : State} (s : State) (h : Keeps z0 s) : Keeps z0 (flushLog s) := by
  unfold flushLog
  try dsimp -proj only
  repeat' first
    | with_reducible exact h
    | with_reducible apply keep_programOne
    | (simp -proj only [keeps_mk]; with_reducible refine KeepsParts.of rfl ?_ ?_ ?_ ?_ ?_ ?_)
    | with_reducible apply Keeps.foldl
    | (intro r x hr; try dsimp -proj only)
    | with_reducible assumption

theorem keep_execLogRecordProgram (s : State) : Goes s (execLogRecordProgram s) := by
  have h := Keeps.refl s
  unfold execLogRecordProgram
  try dsimp -proj only
  repeat' first
    | with_reducible exact h
    | with_reducible apply Keeps.ite
    | with_reducible apply Goes.ite
    | with_reducible apply Goes.next
    | with_reducible apply keep_programOne
    | (intro r hr; try dsimp -proj only)
    | with_reducible assumption
    | split

theorem keep_logStart {z0 : State} (s : State) (bad : List Nat) (h : Keeps z0 s) : Keeps z0 (logStart s bad) := by
  unfold logStart
  try dsimp -proj only
  repeat' first
    | with_reducible exact h
    | with_reducible apply Keeps.ite
    | with_reducible apply keep_logCommit
    | with_reducible apply keep_State_modLode
    | with_reducible apply keep_raise
    | (simp -proj only [keeps_mk]; with_reducible refine KeepsParts.of rfl ?_ ?_ ?_ ?_ ?_ ?_)
    | with_reducible exact fun i => i
    | with_reducible apply Keeps.foldl
    | (intro r x hr; try dsimp -proj only)
    | with_reducible assumption
    | with_reducible exact fun _ i => i
    | split
    | exact fun i => by simpa using i

theorem keep_lodestarReset {z0 : State} (s : State) (cause pair : Nat) (h : Keeps z0 s) : Keeps z0 (lodestarReset s cause pair) := by
  unfold lodestarReset
  try dsimp -proj only
  repeat' first
    | with_reducible exact h
    | exact Keeps.foldl (by assumption) fun _ _ hr => keep_dropErase _ _ hr
    | with_reducible apply keep_dropErase
    | with_reducible apply Keeps.ite
    | with_reducible apply keep_State_modLode
    | with_reducible apply keep_loseSessions
    | with_reducible apply keep_breakLocks
    | with_reducible apply keep_State_modKeys
    | with_reducible apply Keeps.modHost
    | (simp -proj only [keeps_mk]; with_reducible refine KeepsParts.of rfl ?_ ?_ ?_ ?_ ?_ ?_)
    | with_reducible exact fun i => i
    | with_reducible exact fun i => InvHost.mk i.1 i.2 i.3
    | with_reducible apply Keeps.foldl
    | (intro r x hr; try dsimp -proj only)
    | with_reducible assumption
    | with_reducible exact fun _ i => i
    | split
    | exact fun i => keepHost i (by simp [i.1]) (by simp [i.2]) (by simp [i.3])
    | exact fun i => by simpa using i

theorem keep_lodestarBack {z0 : State} (s : State) (badBlocks : List Nat) (r : Nat × Nat × Nat) (h : Keeps z0 s) : Keeps z0 (lodestarBack s badBlocks r) := by
  unfold lodestarBack
  try dsimp -proj only
  repeat' first
    | with_reducible exact h
    | with_reducible apply keep_finish
    | with_reducible apply keep_mbFault
    | with_reducible apply keep_logStart
    | with_reducible apply keep_State_modLode
    | with_reducible apply keep_raise
    | with_reducible apply Keeps.modHost
    | with_reducible apply Keeps.modMb
    | (simp -proj only [keeps_mk]; with_reducible refine KeepsParts.of rfl ?_ ?_ ?_ ?_ ?_ ?_)
    | with_reducible exact fun i => i
    | with_reducible exact fun i => InvHost.mk i.1 i.2 i.3
    | with_reducible exact fun i => InvMb.mk i.1 i.2 i.3
    | with_reducible apply Keeps.foldl
    | (intro r x hr; try dsimp -proj only)
    | with_reducible assumption
    | with_reducible exact fun _ i => i
    | exact fun i => keepMb i (by simp [i.1]) (by simp [i.2]) (by intro hw; repeat' first | with_reducible exact hw | with_reducible apply wf_mwrite | with_reducible apply wf_mset | exact rfl)
    | exact fun i => keepHost i (by simp [i.1]) (by simp [i.2]) (by simp [i.3])
    | exact fun i => by simpa using i

theorem keep_barTakeover {z0 : State} (s : State) (h : Keeps z0 s) : Keeps z0 (barTakeover s) := by
  unfold barTakeover
  try dsimp -proj only
  repeat' first
    | with_reducible exact h
    | with_reducible apply keep_stampPair
    | with_reducible apply keep_setReason
    | with_reducible apply keep_State_modPair
    | (simp -proj only [keeps_mk]; with_reducible refine KeepsParts.of rfl ?_ ?_ ?_ ?_ ?_ ?_)
    | with_reducible exact fun i => i
    | with_reducible assumption
    | with_reducible exact fun _ i => i
    | exact fun i => by simpa using i

theorem keep_lockstepError {z0 : State} (s : State) (pair group word : Nat) (h : Keeps z0 s) : Keeps z0 (lockstepError s pair group word) := by
  unfold lockstepError
  try dsimp -proj only
  repeat' first
    | with_reducible exact h
    | with_reducible apply keep_State_modLode
    | with_reducible apply keep_raise
    | with_reducible apply keep_lodestarReset
    | with_reducible apply keep_stampPair
    | with_reducible apply keep_declareFaulty
    | (simp -proj only [keeps_mk]; with_reducible refine KeepsParts.of rfl ?_ ?_ ?_ ?_ ?_ ?_)
    | with_reducible exact fun i => i
    | with_reducible assumption
    | with_reducible exact fun _ i => i
    | exact fun i => by simpa using i

theorem keep_execDebugAttach (pair : Nat) (s : State) : Goes s (execDebugAttach pair s) := by
  have h := Keeps.refl s
  unfold execDebugAttach
  try dsimp -proj only
  repeat' first
    | with_reducible exact h
    | with_reducible apply Keeps.ite
    | with_reducible apply Goes.ite
    | with_reducible apply Goes.next
    | with_reducible apply keep_State_modLode
    | with_reducible apply keep_raise
    | with_reducible apply keep_barTakeover
    | with_reducible apply keep_extendData
    | with_reducible apply keep_stampPair
    | with_reducible apply keep_declareFaulty
    | (simp -proj only [keeps_mk]; with_reducible refine KeepsParts.of rfl ?_ ?_ ?_ ?_ ?_ ?_)
    | with_reducible exact fun i => i
    | (intro r hr; try dsimp -proj only)
    | with_reducible assumption
    | with_reducible exact fun _ i => i
    | split
    | exact fun i => by simpa using i

theorem keep_execDebugDetach (pair : Nat) (s : State) : Goes s (execDebugDetach pair s) := by
  have h := Keeps.refl s
  unfold execDebugDetach
  try dsimp -proj only
  repeat' first
    | with_reducible exact h
    | with_reducible apply Goes.ite
    | with_reducible apply Goes.next
    | with_reducible apply keep_State_modLode
    | (simp -proj only [keeps_mk]; with_reducible refine KeepsParts.of rfl ?_ ?_ ?_ ?_ ?_ ?_)
    | with_reducible exact fun i => i
    | (intro r hr; try dsimp -proj only)
    | with_reducible assumption
    | with_reducible exact fun _ i => i
    | exact fun i => by simpa using i

theorem keep_execMemportBurstBoundary (mask addr : Nat) (s : State) : Goes s (execMemportBurstBoundary mask addr s) := by
  have h := Keeps.refl s
  unfold execMemportBurstBoundary
  try dsimp -proj only
  repeat' first
    | with_reducible exact h
    | with_reducible apply Keeps.ite
    | with_reducible apply Goes.ite
    | with_reducible apply Goes.next
    | with_reducible apply keep_State_modLode
    | with_reducible apply keep_perfCount
    | (simp -proj only [keeps_mk]; with_reducible refine KeepsParts.of rfl ?_ ?_ ?_ ?_ ?_ ?_)
    | with_reducible exact fun i => i
    | (intro r hr; try dsimp -proj only)
    | with_reducible assumption
    | with_reducible exact fun _ i => i
    | split
    | exact fun i => by simpa using i

theorem keep_faultExecuting {z0 : State} (s : State) (h : Keeps z0 s) : Keeps z0 (faultExecuting s) := by
  unfold faultExecuting
  try dsimp -proj only
  repeat' first
    | with_reducible exact h
    | with_reducible apply keep_reject
    | with_reducible apply keep_stopWaiting
    | (simp -proj only [keeps_mk]; with_reducible refine KeepsParts.of rfl ?_ ?_ ?_ ?_ ?_ ?_)
    | with_reducible exact fun i => i
    | with_reducible assumption
    | with_reducible exact fun _ i => i
    | split
    | exact fun i => by simpa using i

theorem keep_discardRegion {z0 : State} (s : State) (ids : List Nat) (h : Keeps z0 s) : Keeps z0 (discardRegion s ids) := by
  unfold discardRegion
  try dsimp -proj only
  repeat' first
    | with_reducible exact h
    | with_reducible apply keep_discardBad
    | (simp -proj only [keeps_mk]; with_reducible refine KeepsParts.of rfl ?_ ?_ ?_ ?_ ?_ ?_)
    | with_reducible exact fun i => i
    | with_reducible apply Keeps.foldl
    | (intro r x hr; try dsimp -proj only)
    | with_reducible assumption
    | with_reducible exact fun _ i => i
    | split
    | exact fun i => by simpa using i

theorem keep_restartOwner {z0 : State} (s : State) (r : Nat) (h : Keeps z0 s) : Keeps z0 (restartOwner s r) := by
  unfold restartOwner
  try dsimp -proj only
  repeat' first
    | with_reducible exact h
    | with_reducible apply Keeps.ite
    | with_reducible apply keep_discardRegion
    | with_reducible apply keep_State_modHor
    | with_reducible apply keep_faultExecuting
    | with_reducible apply keep_State_modLeg
    | with_reducible apply keep_State_modPair
    | with_reducible apply keep_State_modLode
    | (simp -proj only [keeps_mk]; with_reducible refine KeepsParts.of rfl ?_ ?_ ?_ ?_ ?_ ?_)
    | with_reducible exact fun i => i
    | with_reducible assumption
    | with_reducible exact fun _ i => i
    | split
    | exact fun i => by simpa using i

theorem keep_memStuck {z0 : State} (s : State) (b : Nat × Nat × Nat) (h : Keeps z0 s) : Keeps z0 (memStuck s b) := by
  unfold memStuck
  try dsimp -proj only
  repeat' first
    | with_reducible exact h
    | with_reducible apply Keeps.ite
    | with_reducible apply keep_State_modLode
    | with_reducible apply keep_lodestarReset
    | with_reducible apply keep_restartOwner
    | with_reducible apply keep_raise
    | (simp -proj only [keeps_mk]; with_reducible refine KeepsParts.of rfl ?_ ?_ ?_ ?_ ?_ ?_)
    | with_reducible exact fun i => i
    | with_reducible assumption
    | with_reducible exact fun _ i => i
    | split
    | exact fun i => by simpa using i

theorem keep_eccError {z0 : State} (s : State) (memory requester addr obj : Nat) (uncorrected : Bool) (h : Keeps z0 s) : Keeps z0 (eccError s memory requester addr obj uncorrected) := by
  unfold eccError
  try dsimp -proj only
  repeat' first
    | with_reducible exact h
    | with_reducible apply Keeps.ite
    | with_reducible apply keep_raiseSampled
    | with_reducible apply keep_State_modLode
    | with_reducible apply keep_raise
    | with_reducible apply keep_lodestarReset
    | with_reducible apply keep_discardRegion
    | with_reducible apply keep_State_modHor
    | with_reducible apply keep_faultExecuting
    | with_reducible apply keep_modEngine
    | with_reducible apply keep_State_modPair
    | with_reducible apply keep_State_modBoot
    | (simp -proj only [keeps_mk]; with_reducible refine KeepsParts.of rfl ?_ ?_ ?_ ?_ ?_ ?_)
    | with_reducible exact fun i => i
    | with_reducible assumption
    | with_reducible exact fun _ i => i
    | split
    | exact fun i => by simpa using i

theorem keep_sensorEvent {z0 : State} (s : State) (i kind : Nat) (v t : Int) (r : SensorRun) (h : Keeps z0 s) : Keeps z0 (sensorEvent s i kind v t r) := by
  unfold sensorEvent
  try dsimp -proj only
  repeat' first
    | with_reducible exact h
    | with_reducible apply Keeps.ite
    | with_reducible apply keep_raise
    | with_reducible apply keep_State_modLode
    | (simp -proj only [keeps_mk]; with_reducible refine KeepsParts.of rfl ?_ ?_ ?_ ?_ ?_ ?_)
    | with_reducible exact fun i => i
    | with_reducible assumption
    | with_reducible exact fun _ i => i
    | split
    | exact fun i => by simpa using i

theorem keep_execSensorSample (id : Nat) (value : Int) (s : State) : Goes s (execSensorSample id value s) := by
  have h := Keeps.refl s
  unfold execSensorSample
  try dsimp -proj only
  repeat' first
    | with_reducible exact h
    | with_reducible apply Keeps.ite
    | with_reducible apply Goes.ite
    | with_reducible apply Goes.next
    | with_reducible apply keep_State_modLode
    | with_reducible apply keep_State_modPow
    | with_reducible apply keep_sensorEvent
    | (simp -proj only [keeps_mk]; with_reducible refine KeepsParts.of rfl ?_ ?_ ?_ ?_ ?_ ?_)
    | with_reducible exact fun i => i
    | (intro r hr; try dsimp -proj only)
    | with_reducible assumption
    | with_reducible exact fun _ i => i
    | split
    | exact fun i => by simpa using i

theorem keep_execHoldupCapMeasure (loadDw v1 v2 : Nat) (s : State) : Goes s (execHoldupCapMeasure loadDw v1 v2 s) := by
  have h := Keeps.refl s
  unfold execHoldupCapMeasure
  try dsimp -proj only
  repeat' first
    | with_reducible exact h
    | with_reducible apply Keeps.ite
    | with_reducible apply Goes.ite
    | with_reducible apply Goes.next
    | with_reducible apply keep_State_modLode
    | (simp -proj only [keeps_mk]; with_reducible refine KeepsParts.of rfl ?_ ?_ ?_ ?_ ?_ ?_)
    | with_reducible exact fun i => i
    | (intro r hr; try dsimp -proj only)
    | with_reducible assumption
    | with_reducible exact fun _ i => i
    | split
    | exact fun i => by simpa using i

theorem keep_specLodestarStatusGet : SpecKeeps specLodestarStatusGet := by
  intro z0 s r p h
  unfold specLodestarStatusGet
  try dsimp only
  repeat' first
    | with_reducible exact h
    | with_reducible apply Keeps.ite
    | with_reducible apply ResultKeeps.checked
    | with_reducible apply ResultKeeps.ite
    | with_reducible exact ResultKeeps.fail
    | with_reducible apply ResultKeeps.doneMk
    | with_reducible apply ResultKeeps.failWith
    | with_reducible apply ResultKeeps.retry
    | with_reducible apply ResultKeeps.wait
    | (simp -proj only [keeps_mk]; with_reducible refine KeepsParts.of rfl ?_ ?_ ?_ ?_ ?_ ?_)
    | with_reducible exact fun i => i
    | (intro r hr; try dsimp only [id])
    | with_reducible assumption
    | with_reducible exact fun _ i => i
    | split
    | exact fun i => by simpa using i

theorem keep_specLodestarModeSet : SpecKeeps specLodestarModeSet := by
  intro z0 s r p h
  unfold specLodestarModeSet
  try dsimp only
  repeat' first
    | with_reducible exact h
    | with_reducible apply ResultKeeps.checked
    | with_reducible apply ResultKeeps.ite
    | with_reducible exact ResultKeeps.fail
    | with_reducible apply ResultKeeps.doneMk
    | with_reducible apply ResultKeeps.failWith
    | with_reducible apply ResultKeeps.retry
    | with_reducible apply ResultKeeps.wait
    | with_reducible apply keep_State_modLode
    | (simp -proj only [keeps_mk]; with_reducible refine KeepsParts.of rfl ?_ ?_ ?_ ?_ ?_ ?_)
    | with_reducible exact fun i => i
    | (intro r hr; try dsimp only [id])
    | with_reducible assumption
    | with_reducible exact fun _ i => i
    | exact fun i => by simpa using i

theorem keep_specSensorGet : SpecKeeps specSensorGet := by
  intro z0 s r p h
  unfold specSensorGet
  try dsimp only
  repeat' first
    | with_reducible exact h
    | with_reducible apply ResultKeeps.checked
    | with_reducible apply ResultKeeps.ite
    | with_reducible exact ResultKeeps.fail
    | with_reducible apply ResultKeeps.doneMk
    | with_reducible apply ResultKeeps.failWith
    | with_reducible apply ResultKeeps.retry
    | with_reducible apply ResultKeeps.wait
    | (intro r hr; try dsimp only [id])
    | with_reducible assumption

theorem keep_specSensorThresholdSet : SpecKeeps specSensorThresholdSet := by
  intro z0 s r p h
  unfold specSensorThresholdSet
  try dsimp only
  repeat' first
    | with_reducible exact h
    | with_reducible apply Keeps.ite
    | with_reducible apply ResultKeeps.checked
    | with_reducible apply ResultKeeps.ite
    | with_reducible exact ResultKeeps.fail
    | with_reducible apply ResultKeeps.doneMk
    | with_reducible apply ResultKeeps.failWith
    | with_reducible apply ResultKeeps.retry
    | with_reducible apply ResultKeeps.wait
    | with_reducible apply keep_State_modLode
    | (simp -proj only [keeps_mk]; with_reducible refine KeepsParts.of rfl ?_ ?_ ?_ ?_ ?_ ?_)
    | with_reducible exact fun i => i
    | (intro r hr; try dsimp only [id])
    | with_reducible assumption
    | with_reducible exact fun _ i => i
    | split
    | exact fun i => by simpa using i

theorem keep_specNightwatchSet : SpecKeeps specNightwatchSet := by
  intro z0 s r p h
  unfold specNightwatchSet
  try dsimp only
  repeat' first
    | with_reducible exact h
    | with_reducible apply ResultKeeps.checked
    | with_reducible apply ResultKeeps.ite
    | with_reducible exact ResultKeeps.fail
    | with_reducible apply ResultKeeps.doneMk
    | with_reducible apply ResultKeeps.failWith
    | with_reducible apply ResultKeeps.retry
    | with_reducible apply ResultKeeps.wait
    | with_reducible apply keep_State_modLode
    | (simp -proj only [keeps_mk]; with_reducible refine KeepsParts.of rfl ?_ ?_ ?_ ?_ ?_ ?_)
    | with_reducible exact fun i => i
    | (intro r hr; try dsimp only [id])
    | with_reducible assumption
    | with_reducible exact fun _ i => i
    | exact fun i => by simpa using i

theorem keep_specLogRead : SpecKeeps specLogRead := by
  intro z0 s r p h
  unfold specLogRead
  try dsimp only
  repeat' first
    | with_reducible exact h
    | with_reducible apply Keeps.ite
    | with_reducible apply ResultKeeps.checked
    | with_reducible apply ResultKeeps.ite
    | with_reducible exact ResultKeeps.fail
    | with_reducible apply ResultKeeps.doneMk
    | with_reducible apply ResultKeeps.failWith
    | with_reducible apply ResultKeeps.retry
    | with_reducible apply ResultKeeps.wait
    | (intro r hr; try dsimp only [id])
    | with_reducible assumption
    | split

theorem keep_specLogSet : SpecKeeps specLogSet := by
  intro z0 s r p h
  unfold specLogSet
  try dsimp only
  repeat' first
    | with_reducible exact h
    | with_reducible apply ResultKeeps.checked
    | with_reducible apply ResultKeeps.ite
    | with_reducible exact ResultKeeps.fail
    | with_reducible apply ResultKeeps.doneMk
    | with_reducible apply ResultKeeps.failWith
    | with_reducible apply ResultKeeps.retry
    | with_reducible apply ResultKeeps.wait
    | with_reducible apply keep_State_modLode
    | (simp -proj only [keeps_mk]; with_reducible refine KeepsParts.of rfl ?_ ?_ ?_ ?_ ?_ ?_)
    | with_reducible exact fun i => i
    | (intro r hr; try dsimp only [id])
    | with_reducible assumption
    | with_reducible exact fun _ i => i
    | exact fun i => by simpa using i

theorem keep_specMemportSet : SpecKeeps specMemportSet := by
  intro z0 s r p h
  unfold specMemportSet
  try dsimp only
  repeat' first
    | with_reducible exact h
    | with_reducible apply ResultKeeps.checked
    | with_reducible apply ResultKeeps.ite
    | with_reducible exact ResultKeeps.fail
    | with_reducible apply ResultKeeps.doneMk
    | with_reducible apply ResultKeeps.failWith
    | with_reducible apply ResultKeeps.retry
    | with_reducible apply ResultKeeps.wait
    | with_reducible apply keep_State_modLode
    | (simp -proj only [keeps_mk]; with_reducible refine KeepsParts.of rfl ?_ ?_ ?_ ?_ ?_ ?_)
    | with_reducible exact fun i => i
    | (intro r hr; try dsimp only [id])
    | with_reducible assumption
    | with_reducible exact fun _ i => i
    | exact fun i => by simpa using i

theorem keep_specMemportGet : SpecKeeps specMemportGet := by
  intro z0 s r p h
  unfold specMemportGet
  try dsimp only
  repeat' first
    | with_reducible exact h
    | with_reducible apply Keeps.ite
    | with_reducible apply ResultKeeps.checked
    | with_reducible apply ResultKeeps.ite
    | with_reducible exact ResultKeeps.fail
    | with_reducible apply ResultKeeps.doneMk
    | with_reducible apply ResultKeeps.failWith
    | with_reducible apply ResultKeeps.retry
    | with_reducible apply ResultKeeps.wait
    | with_reducible apply keep_State_modLode
    | (simp -proj only [keeps_mk]; with_reducible refine KeepsParts.of rfl ?_ ?_ ?_ ?_ ?_ ?_)
    | with_reducible exact fun i => i
    | (intro r hr; try dsimp only [id])
    | with_reducible assumption
    | with_reducible exact fun _ i => i
    | split
    | exact fun i => by simpa using i

theorem keep_specPortBwGet : SpecKeeps specPortBwGet := by
  intro z0 s r p h
  unfold specPortBwGet
  try dsimp only
  repeat' first
    | with_reducible exact h
    | with_reducible apply ResultKeeps.checked
    | with_reducible apply ResultKeeps.ite
    | with_reducible exact ResultKeeps.fail
    | with_reducible apply ResultKeeps.doneMk
    | with_reducible apply ResultKeeps.failWith
    | with_reducible apply ResultKeeps.retry
    | with_reducible apply ResultKeeps.wait
    | (intro r hr; try dsimp only [id])
    | with_reducible assumption

theorem keep_execLodestarStatusGet (r : Req) (s : State) : Goes s (execLodestarStatusGet r s) := keep_command keep_specLodestarStatusGet r s

theorem keep_execLodestarModeSet (r : Req) (s : State) : Goes s (execLodestarModeSet r s) := keep_command keep_specLodestarModeSet r s

theorem keep_execSensorGet (r : Req) (s : State) : Goes s (execSensorGet r s) := keep_command keep_specSensorGet r s

theorem keep_execSensorThresholdSet (r : Req) (s : State) : Goes s (execSensorThresholdSet r s) := keep_command keep_specSensorThresholdSet r s

theorem keep_execNightwatchSet (r : Req) (s : State) : Goes s (execNightwatchSet r s) := keep_command keep_specNightwatchSet r s

theorem keep_execLogRead (r : Req) (s : State) : Goes s (execLogRead r s) := keep_command keep_specLogRead r s

theorem keep_execLogSet (r : Req) (s : State) : Goes s (execLogSet r s) := keep_command keep_specLogSet r s

theorem keep_execMemportSet (r : Req) (s : State) : Goes s (execMemportSet r s) := keep_command keep_specMemportSet r s

theorem keep_execMemportGet (r : Req) (s : State) : Goes s (execMemportGet r s) := keep_command keep_specMemportGet r s

theorem keep_execPortBwGet (r : Req) (s : State) : Goes s (execPortBwGet r s) := keep_command keep_specPortBwGet r s

end Sys2Proof.Machine
end

