-- ==== Sys2Proof/Laws/BootRun.lean ====
section
/-! SUPPORT. Laws of Machine/BootRun.lean: each operation keeps the queue of waiting commands and soundness; each meaning goes on. -/

namespace Sys2Proof.Machine

theorem keep_wipe {z0 : State} (s : State) (deep : Bool) (h : Keeps z0 s) : Keeps z0 (wipe s deep) := by
  unfold wipe
  try dsimp -proj only
  repeat' first
    | with_reducible exact h
    | with_reducible apply Keeps.ite
    | (simp -proj only [keeps_mk]; with_reducible refine KeepsParts.of rfl ?_ ?_ ?_ ?_ ?_ ?_)
    | with_reducible exact fun i => i
    | with_reducible exact fun i => InvHost.mk i.1 i.2 i.3
    | with_reducible exact fun i => InvMb.mk i.1 i.2 i.3
    | with_reducible exact fun i => InvDma.mk i.1 i.2
    | with_reducible assumption
    | with_reducible exact fun _ i => i
    | split
    | exact fun i => keepMb i (by simp [i.1]) (by simp [i.2]) (by intro hw; repeat' first | with_reducible exact hw | with_reducible apply wf_mwrite | with_reducible apply wf_mset | exact rfl)
    | exact fun i => keepHost i (by simp [i.1]) (by simp [i.2]) (by simp [i.3])
    | exact fun i => keepDma i (by simp [i.1]) (by simp [i.2])
    | exact fun i => by simpa using i

theorem keep_loadBundle {z0 : State} (s : State) (b : BundleCfg) (h : Keeps z0 s) : Keeps z0 (loadBundle s b) := by
  unfold loadBundle
  try dsimp -proj only
  repeat' first
    | with_reducible exact h
    | with_reducible apply Keeps.ite
    | (simp -proj only [keeps_mk]; with_reducible refine KeepsParts.of rfl ?_ ?_ ?_ ?_ ?_ ?_)
    | with_reducible exact fun i => i
    | with_reducible exact fun i => InvHost.mk i.1 i.2 i.3
    | with_reducible assumption
    | with_reducible exact fun _ i => i
    | split
    | exact fun i => keepHost i (by simp [i.1]) (by simp [i.2]) (by simp [i.3])
    | exact fun i => by simpa using i

theorem keep_loadPools {z0 : State} (s : State) (h : Keeps z0 s) : Keeps z0 (loadPools s) := by
  unfold loadPools
  try dsimp -proj only
  repeat' first
    | with_reducible exact h
    | with_reducible apply keep_State_modPow
    | (simp -proj only [keeps_mk]; with_reducible refine KeepsParts.of rfl ?_ ?_ ?_ ?_ ?_ ?_)
    | with_reducible exact fun i => i
    | with_reducible assumption
    | with_reducible exact fun _ i => i
    | exact fun i => by simpa using i

theorem keep_blockTokens {z0 : State} (s : State) (h : Keeps z0 s) : Keeps z0 (blockTokens s) := by
  unfold blockTokens
  try dsimp -proj only
  repeat' first
    | with_reducible exact h
    | (with_reducible refine Keeps.snd (by assumption) ?_; with_reducible apply keep_requestTokens)
    | with_reducible apply keep_requestTokens
    | (simp -proj only [keeps_mk]; with_reducible refine KeepsParts.of rfl ?_ ?_ ?_ ?_ ?_ ?_)
    | with_reducible apply Keeps.foldl
    | (intro r x hr; try dsimp -proj only)
    | with_reducible assumption

theorem keep_startPorts {z0 : State} (s : State) (which : Nat → Bool) (h : Keeps z0 s) : Keeps z0 (startPorts s which) := by
  unfold startPorts
  try dsimp -proj only
  repeat' first
    | with_reducible exact h
    | with_reducible apply keep_startPort
    | (simp -proj only [keeps_mk]; with_reducible refine KeepsParts.of rfl ?_ ?_ ?_ ?_ ?_ ?_)
    | with_reducible apply Keeps.foldl
    | (intro r x hr; try dsimp -proj only)
    | with_reducible assumption

theorem keep_startPse {z0 : State} (s : State) (h : Keeps z0 s) : Keeps z0 (startPse s) := by
  unfold startPse
  try dsimp -proj only
  repeat' first
    | with_reducible exact h
    | with_reducible apply keep_pseStart
    | with_reducible apply keep_pseController
    | (simp -proj only [keeps_mk]; with_reducible refine KeepsParts.of rfl ?_ ?_ ?_ ?_ ?_ ?_)
    | with_reducible apply Keeps.foldl
    | (intro r x hr; try dsimp -proj only)
    | with_reducible assumption

theorem keep_countTamper {z0 : State} (s : State) (where_ ageMs : Nat) (h : Keeps z0 s) : Keeps z0 (countTamper s where_ ageMs) := by
  unfold countTamper
  try dsimp -proj only
  repeat' first
    | with_reducible exact h
    | with_reducible apply Keeps.ite
    | with_reducible apply keep_State_modKeys
    | with_reducible apply keep_raise
    | (simp -proj only [keeps_mk]; with_reducible refine KeepsParts.of rfl ?_ ?_ ?_ ?_ ?_ ?_)
    | with_reducible exact fun i => i
    | with_reducible assumption
    | with_reducible exact fun _ i => i
    | split
    | exact fun i => by simpa using i

theorem keep_bootStage1 {z0 : State} (s : State) (h : Keeps z0 s) : Keeps z0 (bootStage1 s) := by
  unfold bootStage1
  try dsimp -proj only
  repeat' first
    | with_reducible exact h
    | with_reducible apply Keeps.ite
    | with_reducible apply keep_State_modKeys
    | with_reducible apply keep_State_modBoot
    | with_reducible apply keep_extendAt
    | (simp -proj only [keeps_mk]; with_reducible refine KeepsParts.of rfl ?_ ?_ ?_ ?_ ?_ ?_)
    | with_reducible exact fun i => i
    | with_reducible assumption
    | with_reducible exact fun _ i => i
    | split
    | exact fun i => by simpa using i

theorem keep_bootSlot {z0 : State} (s : State) (n : Nat) (h : Keeps z0 s) : Keeps z0 (bootSlot s n) := by
  unfold bootSlot
  try dsimp -proj only
  repeat' first
    | with_reducible exact h
    | with_reducible apply Keeps.ite
    | with_reducible apply keep_modSlot
    | with_reducible apply keep_keyErased
    | (simp -proj only [keeps_mk]; with_reducible refine KeepsParts.of rfl ?_ ?_ ?_ ?_ ?_ ?_)
    | with_reducible exact fun i => i
    | with_reducible apply Keeps.foldl
    | (intro r x hr; try dsimp -proj only)
    | with_reducible assumption
    | with_reducible exact fun _ i => i
    | split
    | exact fun i => by simpa using i

theorem keep_bootStage2 {z0 : State} (s : State) (h : Keeps z0 s) : Keeps z0 (bootStage2 s) := by
  unfold bootStage2
  try dsimp -proj only
  repeat' first
    | with_reducible exact h
    | with_reducible apply Keeps.ite
    | with_reducible apply keep_bootSlot
    | with_reducible apply keep_raise
    | with_reducible apply keep_State_modKeys
    | (simp -proj only [keeps_mk]; with_reducible refine KeepsParts.of rfl ?_ ?_ ?_ ?_ ?_ ?_)
    | with_reducible exact fun i => i
    | with_reducible apply Keeps.foldl
    | (intro r x hr; try dsimp -proj only)
    | with_reducible assumption
    | with_reducible exact fun _ i => i
    | split
    | exact fun i => by simpa using i

theorem keep_beginFallback {z0 : State} (s : State) (cause mode check : Nat) (h : Keeps z0 s) : Keeps z0 (beginFallback s cause mode check) := by
  unfold beginFallback
  try dsimp -proj only
  repeat' first
    | with_reducible exact h
    | with_reducible apply keep_setStage
    | with_reducible apply keep_State_modUpd
    | (simp -proj only [keeps_mk]; with_reducible refine KeepsParts.of rfl ?_ ?_ ?_ ?_ ?_ ?_)
    | with_reducible exact fun i => i
    | with_reducible assumption
    | with_reducible exact fun _ i => i
    | exact fun i => by simpa using i

theorem keep_countAttempt {z0 : State} (s : State) (h : Keeps z0 s) : Keeps z0 (countAttempt s) := by
  unfold countAttempt
  try dsimp -proj only
  repeat' first
    | with_reducible exact h
    | with_reducible apply Keeps.ite
    | with_reducible apply keep_setStage
    | with_reducible apply keep_State_modUpd
    | with_reducible apply keep_beginFallback
    | (simp -proj only [keeps_mk]; with_reducible refine KeepsParts.of rfl ?_ ?_ ?_ ?_ ?_ ?_)
    | with_reducible exact fun i => i
    | with_reducible assumption
    | with_reducible exact fun _ i => i
    | split
    | exact fun i => by simpa using i

theorem keep_measureLoader {z0 : State} (s : State) (c : Nat) (h : Keeps z0 s) : Keeps z0 (measureLoader s c) := by
  unfold measureLoader
  try dsimp -proj only
  repeat' first
    | with_reducible exact h
    | with_reducible apply keep_extend
    | with_reducible apply keep_extendData
    | with_reducible apply keep_State_modBoot
    | with_reducible apply keep_State_modUpd
    | (simp -proj only [keeps_mk]; with_reducible refine KeepsParts.of rfl ?_ ?_ ?_ ?_ ?_ ?_)
    | with_reducible exact fun i => i
    | with_reducible assumption
    | with_reducible exact fun _ i => i
    | exact fun i => by simpa using i

theorem keep_resumeActivation {z0 : State} (s : State) (h : Keeps z0 s) : Keeps z0 (resumeActivation s) := by
  unfold resumeActivation
  try dsimp -proj only
  repeat' first
    | with_reducible exact h
    | with_reducible apply Keeps.ite
    | with_reducible apply keep_activateStep
    | with_reducible apply keep_State_modUpd
    | with_reducible apply keep_setStage
    | (simp -proj only [keeps_mk]; with_reducible refine KeepsParts.of rfl ?_ ?_ ?_ ?_ ?_ ?_)
    | with_reducible exact fun i => i
    | with_reducible apply Keeps.foldl
    | (intro r x hr; try dsimp -proj only)
    | with_reducible assumption
    | with_reducible exact fun _ i => i
    | split
    | exact fun i => by simpa using i

theorem keep_replayAll {z0 : State} (s : State) (h : Keeps z0 s) : Keeps z0 (replayAll s) := by
  unfold replayAll
  try dsimp -proj only
  repeat' first
    | with_reducible exact h
    | with_reducible apply keep_endReplay
    | with_reducible apply keep_replayStep
    | (simp -proj only [keeps_mk]; with_reducible refine KeepsParts.of rfl ?_ ?_ ?_ ?_ ?_ ?_)
    | with_reducible apply Keeps.foldl
    | (intro r x hr; try dsimp -proj only)
    | with_reducible assumption

theorem keep_bootFlashWork {z0 : State} (s : State) (powerLoss : Bool) (h : Keeps z0 s) : Keeps z0 (bootFlashWork s powerLoss) := by
  unfold bootFlashWork
  try dsimp -proj only
  repeat' first
    | with_reducible exact h
    | with_reducible apply Keeps.ite
    | with_reducible apply keep_resumeActivation
    | with_reducible apply keep_raiseResumed
    | with_reducible apply keep_replayAll
    | with_reducible assumption
    | split

theorem keep_measureUnit {z0 : State} (s : State) (n : Nat) (h : Keeps z0 s) : Keeps z0 (measureUnit s n) := by
  unfold measureUnit
  try dsimp -proj only
  repeat' first
    | with_reducible exact h
    | with_reducible apply keep_extend
    | with_reducible apply keep_State_modBoot
    | (simp -proj only [keeps_mk]; with_reducible refine KeepsParts.of rfl ?_ ?_ ?_ ?_ ?_ ?_)
    | with_reducible exact fun i => i
    | with_reducible assumption
    | with_reducible exact fun _ i => i
    | exact fun i => by simpa using i

theorem keep_chooseBundle {z0 : State} (s : State) (inp : BootInput) (h : Keeps z0 s) : Keeps z0 (chooseBundle s inp) := by
  unfold chooseBundle
  try dsimp -proj only
  repeat' first
    | with_reducible exact h
    | with_reducible apply keep_extend
    | with_reducible apply keep_State_modUpd
    | with_reducible apply keep_State_modBoot
    | (simp -proj only [keeps_mk]; with_reducible refine KeepsParts.of rfl ?_ ?_ ?_ ?_ ?_ ?_)
    | with_reducible exact fun i => i
    | with_reducible assumption
    | with_reducible exact fun _ i => i
    | split
    | exact fun i => by simpa using i

theorem keep_measureSettings {z0 : State} (s : State) (h : Keeps z0 s) : Keeps z0 (measureSettings s) := by
  unfold measureSettings
  try dsimp -proj only
  repeat' first
    | with_reducible exact h
    | with_reducible apply keep_extend
    | with_reducible assumption

theorem keep_comparatorTest {z0 : State} (s : State) (fail : Nat) (h : Keeps z0 s) : Keeps z0 (comparatorTest s fail) := by
  unfold comparatorTest
  try dsimp -proj only
  repeat' first
    | with_reducible exact h
    | with_reducible apply Keeps.ite
    | with_reducible apply keep_State_modLode
    | with_reducible apply keep_raise
    | with_reducible apply keep_extendData
    | (simp -proj only [keeps_mk]; with_reducible refine KeepsParts.of rfl ?_ ?_ ?_ ?_ ?_ ?_)
    | with_reducible exact fun i => i
    | with_reducible assumption
    | with_reducible exact fun _ i => i
    | split
    | exact fun i => by simpa using i

theorem keep_endStage6 {z0 : State} (s : State) (h : Keeps z0 s) : Keeps z0 (endStage6 s) := by
  unfold endStage6
  try dsimp -proj only
  repeat' first
    | with_reducible exact h
    | with_reducible apply Keeps.ite
    | with_reducible apply keep_loadBundle
    | with_reducible apply keep_loadPools
    | with_reducible apply keep_applySettings
    | with_reducible apply keep_State_modPow
    | with_reducible apply keep_startPorts
    | with_reducible apply keep_blockTokens
    | (simp -proj only [keeps_mk]; with_reducible refine KeepsParts.of rfl ?_ ?_ ?_ ?_ ?_ ?_)
    | with_reducible exact fun i => i
    | with_reducible assumption
    | with_reducible exact fun _ i => i
    | split
    | exact fun i => by simpa using i

theorem keep_raiseStage {z0 : State} (s : State) (r : StageRec) (unit : Nat) (time : Nat) (h : Keeps z0 s) : Keeps z0 (raiseStage s r unit time) := by
  unfold raiseStage
  try dsimp -proj only
  repeat' first
    | with_reducible exact h
    | with_reducible apply Keeps.ite
    | with_reducible apply keep_emit
    | with_reducible assumption
    | split

theorem keep_bootStage7 {z0 : State} (s : State) (inp : BootInput) (fellBack : Bool) (stages : List (StageRec × Nat)) (h : Keeps z0 s) : Keeps z0 (bootStage7 s inp fellBack stages) := by
  unfold bootStage7
  try dsimp -proj only
  repeat' first
    | with_reducible exact h
    | with_reducible apply Keeps.ite
    | with_reducible apply keep_adoptSettings
    | with_reducible apply keep_logStart
    | with_reducible apply keep_startPse
    | with_reducible apply keep_startPorts
    | with_reducible apply keep_startEngines
    | with_reducible apply keep_setMode
    | with_reducible apply keep_mkaStart
    | with_reducible apply keep_setReason
    | with_reducible apply keep_setPairing
    | with_reducible apply keep_barTakeover
    | with_reducible apply keep_State_modLode
    | with_reducible apply keep_raiseStage
    | with_reducible apply keep_raise
    | with_reducible apply keep_startWindow
    | with_reducible apply Keeps.modHost
    | (simp -proj only [keeps_mk]; with_reducible refine KeepsParts.of rfl ?_ ?_ ?_ ?_ ?_ ?_)
    | with_reducible exact fun i => i
    | with_reducible exact fun i => InvHost.mk i.1 i.2 i.3
    | with_reducible apply Keeps.foldl
    | (intro r x hr; try dsimp -proj only)
    | with_reducible assumption
    | with_reducible exact fun _ i => i
    | split
    | exact fun i => keepHost i (by simp [i.1]) (by simp [i.2]) (by simp [i.3])
    | exact fun i => by simpa using i

theorem keep_bootAttempt {z0 : State} (s : State) (deep powerLoss : Bool) (inp : BootInput) (h : Keeps z0 s) : Keeps z0 (bootAttempt s deep powerLoss inp).1 := by
  unfold bootAttempt
  try dsimp -proj only
  repeat' first
    | with_reducible exact h
    | with_reducible apply Keeps.ite
    | with_reducible apply keep_bootStage1
    | with_reducible apply keep_bootStage2
    | with_reducible apply keep_State_later
    | with_reducible apply keep_carryTime
    | with_reducible apply keep_countAttempt
    | with_reducible apply keep_raiseStage
    | with_reducible apply keep_State_modBoot
    | with_reducible apply keep_bootFlashWork
    | with_reducible apply keep_measureLoader
    | with_reducible apply keep_measureUnit
    | with_reducible apply keep_comparatorTest
    | with_reducible apply keep_measureSettings
    | with_reducible apply keep_chooseBundle
    | with_reducible apply keep_endStage6
    | with_reducible apply keep_bootStage7
    | with_reducible apply Keeps.modMb
    | (simp -proj only [keeps_mk]; with_reducible refine KeepsParts.of rfl ?_ ?_ ?_ ?_ ?_ ?_)
    | with_reducible exact fun i => i
    | with_reducible exact fun i => InvMb.mk i.1 i.2 i.3
    | with_reducible apply Keeps.foldl
    | (intro r x hr; try dsimp -proj only)
    | with_reducible assumption
    | with_reducible exact fun _ i => i
    | split
    | exact fun i => keepMb i (by simp [i.1]) (by simp [i.2]) (by intro hw; repeat' first | with_reducible exact hw | with_reducible apply wf_mwrite | with_reducible apply wf_mset | exact rfl)
    | exact fun i => by simpa using i

theorem keep_bootChain {z0 : State}  (x1 : List BootInput) (s : State) (x2 : Bool) (x3 : Bool) (h : Keeps z0 s) : Keeps z0 (bootChain x1 s x2 x3) := by
  induction x1 generalizing s x2 x3 with
  | nil => exact h
  | cons y ys ih =>
    unfold bootChain
    try dsimp -proj only
    repeat' first
      | with_reducible exact h
      | with_reducible apply ih
      | (with_reducible refine Keeps.fst (by assumption) ?_; with_reducible apply keep_bootAttempt)
      | with_reducible apply keep_bootAttempt
      | with_reducible apply keep_wipe
      | (simp -proj only [keeps_mk]; with_reducible refine KeepsParts.of rfl ?_ ?_ ?_ ?_ ?_ ?_)
      | with_reducible exact fun i => i
      | with_reducible assumption
      | with_reducible exact fun _ i => i
      | split
      | exact fun i => by simpa using i

theorem keep_startModule {z0 : State} (s : State) (deep powerLoss : Bool) (widest : Nat) (causes : List Nat) (boots : List BootInput) (h : Keeps z0 s) : Keeps z0 (startModule s deep powerLoss widest causes boots) := by
  unfold startModule
  try dsimp -proj only
  repeat' first
    | with_reducible exact h
    | with_reducible apply Keeps.ite
    | with_reducible apply keep_bootChain
    | with_reducible apply keep_countTamper
    | with_reducible apply keep_wipe
    | with_reducible apply keep_raise
    | with_reducible apply Keeps.modHost
    | (simp -proj only [keeps_mk]; with_reducible refine KeepsParts.of rfl ?_ ?_ ?_ ?_ ?_ ?_)
    | with_reducible exact fun i => i
    | with_reducible exact fun i => InvHost.mk i.1 i.2 i.3
    | with_reducible apply Keeps.foldl
    | (intro r x hr; try dsimp -proj only)
    | with_reducible assumption
    | with_reducible exact fun _ i => i
    | split
    | exact fun i => keepHost i (by simp [i.1]) (by simp [i.2]) (by simp [i.3])
    | exact fun i => by simpa using i

theorem keep_dropYoung {z0 : State} (s : State) (h : Keeps z0 s) : Keeps z0 (dropYoung s) := by
  unfold dropYoung
  try dsimp -proj only
  repeat' first
    | with_reducible exact h
    | with_reducible apply keep_flushLog
    | with_reducible apply keep_State_modLode
    | (simp -proj only [keeps_mk]; with_reducible refine KeepsParts.of rfl ?_ ?_ ?_ ?_ ?_ ?_)
    | with_reducible exact fun i => i
    | with_reducible assumption
    | with_reducible exact fun _ i => i
    | exact fun i => by simpa using i

theorem keep_warmReset {z0 : State} (s : State) (boots : List BootInput) (h : Keeps z0 s) : Keeps z0 (warmReset s boots) := by
  unfold warmReset
  try dsimp -proj only
  repeat' first
    | with_reducible exact h
    | with_reducible apply keep_startModule
    | with_reducible apply keep_flushLog
    | with_reducible assumption

theorem keep_warmResetFree {z0 : State} (s : State) (h : Keeps z0 s) : Keeps z0 (warmResetFree s) := by
  unfold warmResetFree
  try dsimp -proj only
  repeat' first
    | with_reducible exact h
    | with_reducible apply keep_warmReset
    | (simp -proj only [keeps_mk]; with_reducible refine KeepsParts.of rfl ?_ ?_ ?_ ?_ ?_ ?_)
    | with_reducible exact fun i => i
    | with_reducible assumption
    | with_reducible exact fun _ i => i
    | exact fun i => by simpa using i

end Sys2Proof.Machine
end

