-- ==== Sys2Proof/Laws/RemoteRun.lean ====
section
/-! SUPPORT. Laws of Machine/RemoteRun.lean: each operation keeps the queue of waiting commands and soundness; each meaning goes on. -/

namespace Sys2Proof.Machine

theorem keep_raiseSession {z0 : State} (s : State) (kind i : Nat) (x : Session) (h : Keeps z0 s) : Keeps z0 (raiseSession s kind i x) := by
  unfold raiseSession
  try dsimp -proj only
  repeat' first
    | with_reducible exact h
    | with_reducible apply Keeps.ite
    | with_reducible apply keep_raise
    | with_reducible assumption
    | split

theorem keep_execRemoteConnection (port ipv4 : Nat) (cert : List Byte) (auth : Bool) (s : State) : Goes s (execRemoteConnection port ipv4 cert auth s) := by
  have h := Keeps.refl s
  unfold execRemoteConnection
  try dsimp -proj only
  repeat' first
    | with_reducible exact h
    | with_reducible apply Keeps.ite
    | with_reducible apply Goes.ite
    | with_reducible apply Goes.next
    | with_reducible apply keep_raiseSession
    | with_reducible apply Keeps.modMb
    | (simp -proj only [keeps_mk]; with_reducible refine KeepsParts.of rfl ?_ ?_ ?_ ?_ ?_ ?_)
    | with_reducible exact fun i => i
    | with_reducible exact fun i => InvMb.mk i.1 i.2 i.3
    | (intro r hr; try dsimp -proj only)
    | with_reducible assumption
    | with_reducible exact fun _ i => i
    | split
    | exact fun i => keepMb i (by simp [i.1]) (by simp [i.2]) (by intro hw; repeat' first | with_reducible exact hw | with_reducible apply wf_mwrite | with_reducible apply wf_mset | exact rfl)
    | exact fun i => by simpa using i

theorem keep_closeSession {z0 : State} (s : State) (i kind : Nat) (h : Keeps z0 s) : Keeps z0 (closeSession s i kind) := by
  unfold closeSession
  try dsimp -proj only
  repeat' first
    | with_reducible exact h
    | with_reducible apply Keeps.ite
    | with_reducible apply keep_raiseSession
    | with_reducible apply keep_breakLocks
    | with_reducible apply Keeps.modMb
    | (simp -proj only [keeps_mk]; with_reducible refine KeepsParts.of rfl ?_ ?_ ?_ ?_ ?_ ?_)
    | with_reducible exact fun i => i
    | with_reducible exact fun i => InvMb.mk i.1 i.2 i.3
    | with_reducible assumption
    | with_reducible exact fun _ i => i
    | split
    | exact fun i => keepMb i (by simp [i.1]) (by simp [i.2]) (by intro hw; repeat' first | with_reducible exact hw | with_reducible apply wf_mwrite | with_reducible apply wf_mset | exact rfl)
    | exact fun i => by simpa using i

theorem keep_closeSessions {z0 : State} (s : State) (h : Keeps z0 s) : Keeps z0 (closeSessions s) := by
  unfold closeSessions
  try dsimp -proj only
  repeat' first
    | with_reducible exact h
    | with_reducible apply keep_closeSession
    | (simp -proj only [keeps_mk]; with_reducible refine KeepsParts.of rfl ?_ ?_ ?_ ?_ ?_ ?_)
    | with_reducible apply Keeps.foldl
    | (intro r x hr; try dsimp -proj only)
    | with_reducible assumption

theorem keep_execRemoteClose (i : Nat) (s : State) : Goes s (execRemoteClose i s) := by
  have h := Keeps.refl s
  unfold execRemoteClose
  try dsimp -proj only
  repeat' first
    | with_reducible exact h
    | with_reducible apply Goes.ite
    | with_reducible apply Goes.next
    | with_reducible apply keep_closeSession
    | (intro r hr; try dsimp -proj only)
    | with_reducible assumption

theorem keep_execRemoteIdleTimeout (i : Nat) (s : State) : Goes s (execRemoteIdleTimeout i s) := by
  have h := Keeps.refl s
  unfold execRemoteIdleTimeout
  try dsimp -proj only
  repeat' first
    | with_reducible exact h
    | with_reducible apply Keeps.ite
    | with_reducible apply Goes.ite
    | with_reducible apply Goes.next
    | with_reducible apply keep_closeSession
    | with_reducible apply keep_State_until
    | (intro r hr; try dsimp -proj only)
    | with_reducible assumption
    | split

end Sys2Proof.Machine
end

