-- ==== Sys2Proof/Laws/UpdRun.lean ====
section
/-! SUPPORT. Laws of Machine/UpdRun.lean: each operation keeps the queue of waiting commands and soundness; each meaning goes on. -/

namespace Sys2Proof.Machine

theorem keep_codeChanged {z0 : State} (s : State) (n : Nat) (log : Bool) (h : Keeps z0 s) : Keeps z0 (codeChanged s n log) := by
  unfold codeChanged
  try dsimp -proj only
  repeat' first
    | with_reducible exact h
    | with_reducible apply Keeps.ite
    | with_reducible apply keep_State_modBoot
    | with_reducible apply keep_extend
    | with_reducible apply Keeps.modHost
    | (simp -proj only [keeps_mk]; with_reducible refine KeepsParts.of rfl ?_ ?_ ?_ ?_ ?_ ?_)
    | with_reducible exact fun i => i
    | with_reducible exact fun i => InvHost.mk i.1 i.2 i.3
    | with_reducible assumption
    | with_reducible exact fun _ i => i
    | split
    | exact fun i => keepHost i (by simp [i.1]) (by simp [i.2]) (by simp [i.3])
    | exact fun i => by simpa using i

theorem keep_handoverDone {z0 : State} (s : State) (h : Keeps z0 s) : Keeps z0 (handoverDone s) := by
  unfold handoverDone
  try dsimp -proj only
  repeat' first
    | with_reducible exact h
    | with_reducible apply Keeps.ite
    | with_reducible apply keep_State_modUpd
    | with_reducible apply keep_setStage
    | with_reducible apply keep_startWindow
    | with_reducible apply keep_adoptSettings
    | (simp -proj only [keeps_mk]; with_reducible refine KeepsParts.of rfl ?_ ?_ ?_ ?_ ?_ ?_)
    | with_reducible exact fun i => i
    | with_reducible assumption
    | with_reducible exact fun _ i => i
    | split
    | exact fun i => by simpa using i

theorem keep_handIkiora {z0 : State} (s : State) (h : Keeps z0 s) : Keeps z0 (handIkiora s) := by
  unfold handIkiora
  try dsimp -proj only
  repeat' first
    | with_reducible exact h
    | with_reducible apply Keeps.ite
    | with_reducible apply keep_handoverDone
    | with_reducible apply keep_codeChanged
    | with_reducible apply keep_closeSessions
    | with_reducible assumption
    | split

theorem keep_handEngines {z0 : State} (s : State) (e : Nat) (h : Keeps z0 s) : Keeps z0 (handEngines s e) := by
  unfold handEngines
  try dsimp -proj only
  repeat' first
    | with_reducible exact h
    | with_reducible apply Keeps.ite
    | with_reducible apply keep_stampChans
    | with_reducible apply keep_beginRestart
    | with_reducible apply keep_State_modUpd
    | with_reducible apply keep_handIkiora
    | with_reducible apply keep_codeChanged
    | (simp -proj only [keeps_mk]; with_reducible refine KeepsParts.of rfl ?_ ?_ ?_ ?_ ?_ ?_)
    | with_reducible exact fun i => i
    | with_reducible apply Keeps.foldl
    | (intro r x hr; try dsimp -proj only)
    | with_reducible assumption
    | with_reducible exact fun _ i => i
    | split
    | exact fun i => by simpa using i

theorem keep_handover {z0 : State} (s : State) (h : Keeps z0 s) : Keeps z0 (handover s) := by
  unfold handover
  try dsimp -proj only
  repeat' first
    | with_reducible exact h
    | with_reducible apply Keeps.ite
    | with_reducible apply keep_handEngines
    | with_reducible apply keep_codeChanged
    | with_reducible assumption
    | split

theorem keep_replayEnds {z0 : State} (s : State) (h : Keeps z0 s) : Keeps z0 (replayEnds s) := by
  unfold replayEnds
  try dsimp -proj only
  repeat' first
    | with_reducible exact h
    | with_reducible apply Keeps.ite
    | with_reducible apply keep_setMode
    | with_reducible apply keep_endReplay
    | with_reducible assumption
    | split

theorem keep_fallBack {z0 : State} (s : State) (cause check : Nat) (h : Keeps z0 s) : Keeps z0 (fallBack s cause check) := by
  unfold fallBack
  try dsimp -proj only
  repeat' first
    | with_reducible exact h
    | with_reducible apply Keeps.ite
    | with_reducible apply keep_handover
    | with_reducible apply keep_beginFallback
    | with_reducible apply keep_warmResetFree
    | with_reducible assumption
    | split

theorem keep_failHealth {z0 : State} (s : State) (check : Nat) (h : Keeps z0 s) : Keeps z0 (failHealth s check) := by
  unfold failHealth
  try dsimp -proj only
  repeat' first
    | with_reducible exact h
    | with_reducible apply keep_fallBack
    | with_reducible assumption

theorem keep_dropWrites {z0 : State} (s : State) (h : Keeps z0 s) : Keeps z0 (dropWrites s) := by
  unfold dropWrites
  try dsimp -proj only
  repeat' first
    | with_reducible exact h
    | with_reducible apply keep_State_modUpd
    | (simp -proj only [keeps_mk]; with_reducible refine KeepsParts.of rfl ?_ ?_ ?_ ?_ ?_ ?_)
    | with_reducible exact fun i => i
    | with_reducible assumption
    | with_reducible exact fun _ i => i
    | exact fun i => by simpa using i

theorem keep_failWrites {z0 : State} (s : State) (h : Keeps z0 s) : Keeps z0 (failWrites s) := by
  unfold failWrites
  try dsimp -proj only
  repeat' first
    | with_reducible exact h
    | with_reducible apply keep_failWaiting
    | with_reducible apply keep_dropWrites
    | (simp -proj only [keeps_mk]; with_reducible refine KeepsParts.of rfl ?_ ?_ ?_ ?_ ?_ ?_)
    | with_reducible apply Keeps.foldl
    | (intro r x hr; try dsimp -proj only)
    | with_reducible assumption

theorem keep_loaderRestarts {z0 : State} (s : State) (cause : Nat) (h : Keeps z0 s) : Keeps z0 (loaderRestarts s cause) := by
  unfold loaderRestarts
  try dsimp -proj only
  repeat' first
    | with_reducible exact h
    | with_reducible apply Keeps.ite
    | with_reducible apply keep_failWrites
    | with_reducible apply keep_setStage
    | with_reducible apply keep_raiseResumed
    | with_reducible apply keep_State_modUpd
    | (simp -proj only [keeps_mk]; with_reducible refine KeepsParts.of rfl ?_ ?_ ?_ ?_ ?_ ?_)
    | with_reducible exact fun i => i
    | with_reducible assumption
    | with_reducible exact fun _ i => i
    | split
    | exact fun i => by simpa using i

theorem keep_blockResent {z0 : State} (s : State) (w : BlockWrite) (h : Keeps z0 s) : Keeps z0 (blockResent s w) := by
  unfold blockResent
  try dsimp -proj only
  repeat' first
    | with_reducible exact h
    | with_reducible apply keep_raise
    | (simp -proj only [keeps_mk]; with_reducible refine KeepsParts.of rfl ?_ ?_ ?_ ?_ ?_ ?_)
    | with_reducible exact fun i => i
    | with_reducible assumption
    | with_reducible exact fun _ i => i
    | split
    | exact fun i => by simpa using i

theorem keep_blockFailed {z0 : State} (s : State) (i cause : Nat) (h : Keeps z0 s) : Keeps z0 (blockFailed s i cause) := by
  unfold blockFailed
  try dsimp -proj only
  repeat' first
    | with_reducible exact h
    | with_reducible apply keep_State_modUpd
    | (simp -proj only [keeps_mk]; with_reducible refine KeepsParts.of rfl ?_ ?_ ?_ ?_ ?_ ?_)
    | with_reducible exact fun i => i
    | with_reducible assumption
    | with_reducible exact fun _ i => i
    | exact fun i => by simpa using i

theorem keep_execStagingEraseDone (s : State) : Goes s (execStagingEraseDone s) := by
  have h := Keeps.refl s
  unfold execStagingEraseDone
  try dsimp -proj only
  repeat' first
    | with_reducible exact h
    | with_reducible apply Keeps.ite
    | with_reducible apply Goes.ite
    | with_reducible apply Goes.next
    | with_reducible apply keep_State_modUpd
    | with_reducible apply keep_blockResent
    | (simp -proj only [keeps_mk]; with_reducible refine KeepsParts.of rfl ?_ ?_ ?_ ?_ ?_ ?_)
    | with_reducible exact fun i => i
    | (intro r hr; try dsimp -proj only)
    | with_reducible assumption
    | with_reducible exact fun _ i => i
    | split
    | exact fun i => by simpa using i

theorem keep_blockWritten {z0 : State} (s : State) (w : BlockWrite) (good : Bool) (h : Keeps z0 s) : Keeps z0 (blockWritten s w good) := by
  unfold blockWritten
  try dsimp -proj only
  repeat' first
    | with_reducible exact h
    | with_reducible apply Keeps.ite
    | with_reducible apply keep_State_modUpd
    | with_reducible apply keep_setStage
    | with_reducible apply keep_answerWaiting
    | with_reducible apply keep_blockFailed
    | with_reducible apply keep_failWaiting
    | (simp -proj only [keeps_mk]; with_reducible refine KeepsParts.of rfl ?_ ?_ ?_ ?_ ?_ ?_)
    | with_reducible exact fun i => i
    | (intro r hr; refine ⟨?_, fun _ ht => ht⟩; try dsimp only)
    | with_reducible assumption
    | exact ⟨hr, fun _ ht => ht⟩
    | exact fun r hr => ⟨hr, fun _ ht => ht⟩
    | with_reducible exact fun _ i => i
    | split
    | exact fun i => by simpa using i

theorem keep_flashWorkDone {z0 : State} (s : State) (h : Keeps z0 s) : Keeps z0 (flashWorkDone s) := by
  unfold flashWorkDone
  try dsimp -proj only
  repeat' first
    | with_reducible exact h
    | with_reducible apply Keeps.ite
    | with_reducible apply keep_setStage
    | with_reducible apply keep_State_modPow
    | with_reducible apply keep_handover
    | (simp -proj only [keeps_mk]; with_reducible refine KeepsParts.of rfl ?_ ?_ ?_ ?_ ?_ ?_)
    | with_reducible exact fun i => i
    | with_reducible assumption
    | with_reducible exact fun _ i => i
    | split
    | exact fun i => by simpa using i

theorem keep_execPageProgramDone (good : Bool) (s : State) : Goes s (execPageProgramDone good s) := by
  have h := Keeps.refl s
  unfold execPageProgramDone
  try dsimp -proj only
  repeat' first
    | with_reducible exact h
    | with_reducible apply Keeps.ite
    | with_reducible apply Goes.ite
    | with_reducible apply Goes.next
    | with_reducible apply keep_blockWritten
    | with_reducible apply keep_flashWorkDone
    | with_reducible apply keep_activateStep
    | with_reducible apply keep_replayEnds
    | with_reducible apply keep_replayStep
    | (simp -proj only [keeps_mk]; with_reducible refine KeepsParts.of rfl ?_ ?_ ?_ ?_ ?_ ?_)
    | with_reducible exact fun i => i
    | (intro r hr; try dsimp -proj only)
    | with_reducible assumption
    | with_reducible exact fun _ i => i
    | split
    | exact fun i => by simpa using i

theorem keep_execHealthWindowExpiry (s : State) : Goes s (execHealthWindowExpiry s) := by
  have h := Keeps.refl s
  unfold execHealthWindowExpiry
  try dsimp -proj only
  repeat' first
    | with_reducible exact h
    | with_reducible apply Keeps.ite
    | with_reducible apply Goes.ite
    | with_reducible apply Goes.next
    | with_reducible apply keep_fallBack
    | with_reducible apply keep_State_later
    | (intro r hr; try dsimp -proj only)
    | with_reducible assumption
    | split

theorem keep_execSettleTimer (s : State) : Goes s (execSettleTimer s) := by
  have h := Keeps.refl s
  unfold execSettleTimer
  try dsimp -proj only
  repeat' first
    | with_reducible exact h
    | with_reducible apply Keeps.ite
    | with_reducible apply Goes.ite
    | with_reducible apply Goes.next
    | with_reducible apply keep_confirmImage
    | with_reducible apply keep_State_later
    | (intro r hr; try dsimp -proj only)
    | with_reducible assumption
    | split

theorem keep_execJournalEraseDone (s : State) : Goes s (execJournalEraseDone s) := by
  have h := Keeps.refl s
  unfold execJournalEraseDone
  try dsimp -proj only
  repeat' first
    | with_reducible exact h
    | with_reducible apply Keeps.ite
    | with_reducible apply Goes.ite
    | with_reducible apply Goes.next
    | with_reducible apply keep_State_modUpd
    | (simp -proj only [keeps_mk]; with_reducible refine KeepsParts.of rfl ?_ ?_ ?_ ?_ ?_ ?_)
    | with_reducible exact fun i => i
    | (intro r hr; try dsimp -proj only)
    | with_reducible assumption
    | with_reducible exact fun _ i => i
    | split
    | exact fun i => by simpa using i

theorem keep_specUpdateStatusGet : SpecKeeps specUpdateStatusGet := by
  intro z0 s r p h
  unfold specUpdateStatusGet
  try dsimp only
  repeat' first
    | with_reducible exact h
    | with_reducible apply Keeps.ite
    | with_reducible apply ResultKeeps.checked
    | with_reducible apply ResultKeeps.ite
    | with_reducible exact ResultKeeps.fail
    | with_reducible apply ResultKeeps.doneMk
    | with_reducible apply ResultKeeps.failWith
    | with_reducible apply ResultKeeps.retry
    | with_reducible apply ResultKeeps.wait
    | (intro r hr; try dsimp only [id])
    | with_reducible assumption
    | split

theorem keep_newDownload {z0 : State} (s : State) (digest : List Byte) (len : Nat) (h : Keeps z0 s) : Keeps z0 (newDownload s digest len) := by
  unfold newDownload
  try dsimp -proj only
  repeat' first
    | with_reducible exact h
    | with_reducible apply Keeps.ite
    | with_reducible apply keep_setStage
    | with_reducible apply keep_failWrites
    | with_reducible apply keep_State_modUpd
    | (simp -proj only [keeps_mk]; with_reducible refine KeepsParts.of rfl ?_ ?_ ?_ ?_ ?_ ?_)
    | with_reducible exact fun i => i
    | with_reducible assumption
    | with_reducible exact fun _ i => i
    | split
    | exact fun i => by simpa using i

theorem keep_specUpdateBegin : SpecKeeps specUpdateBegin := by
  intro z0 s r p h
  unfold specUpdateBegin
  try dsimp only
  repeat' first
    | with_reducible exact h
    | with_reducible apply Keeps.ite
    | with_reducible apply ResultKeeps.checked
    | with_reducible apply ResultKeeps.ite
    | with_reducible exact ResultKeeps.fail
    | with_reducible apply ResultKeeps.doneMk
    | with_reducible apply ResultKeeps.failWith
    | with_reducible apply ResultKeeps.retry
    | with_reducible apply ResultKeeps.wait
    | with_reducible apply keep_setStage
    | with_reducible apply keep_newDownload
    | (intro r hr; try dsimp only [id])
    | with_reducible assumption
    | split

theorem keep_specUpdateBlock : SpecKeeps specUpdateBlock := by
  intro z0 s r p h
  unfold specUpdateBlock
  try dsimp only
  repeat' first
    | with_reducible exact h
    | with_reducible apply Keeps.ite
    | with_reducible apply ResultKeeps.checked
    | with_reducible apply ResultKeeps.ite
    | with_reducible exact ResultKeeps.fail
    | with_reducible apply ResultKeeps.doneMk
    | with_reducible apply ResultKeeps.failWith
    | with_reducible apply ResultKeeps.retry
    | with_reducible apply ResultKeeps.wait
    | with_reducible apply keep_blockFailed
    | with_reducible apply keep_State_modUpd
    | with_reducible apply keep_blockResent
    | (simp -proj only [keeps_mk]; with_reducible refine KeepsParts.of rfl ?_ ?_ ?_ ?_ ?_ ?_)
    | with_reducible exact fun i => i
    | (intro r hr; try dsimp only [id])
    | with_reducible assumption
    | with_reducible exact fun _ i => i
    | split
    | exact fun i => by simpa using i

theorem keep_specUpdateVerify : SpecKeeps specUpdateVerify := by
  intro z0 s r p h
  unfold specUpdateVerify
  try dsimp only
  repeat' first
    | with_reducible exact h
    | with_reducible apply Keeps.ite
    | with_reducible apply ResultKeeps.checked
    | with_reducible apply ResultKeeps.ite
    | with_reducible exact ResultKeeps.fail
    | with_reducible apply ResultKeeps.doneMk
    | with_reducible apply ResultKeeps.failWith
    | with_reducible apply ResultKeeps.retry
    | with_reducible apply ResultKeeps.wait
    | with_reducible apply keep_raise
    | with_reducible apply keep_setStage
    | with_reducible apply keep_State_modUpd
    | (simp -proj only [keeps_mk]; with_reducible refine KeepsParts.of rfl ?_ ?_ ?_ ?_ ?_ ?_)
    | with_reducible exact fun i => i
    | (intro r hr; try dsimp only [id])
    | with_reducible assumption
    | with_reducible exact fun _ i => i
    | split
    | exact fun i => by simpa using i

theorem keep_specUpdateActivate : SpecKeeps specUpdateActivate := by
  intro z0 s r p h
  unfold specUpdateActivate
  try dsimp only
  repeat' first
    | with_reducible exact h
    | with_reducible apply Keeps.ite
    | with_reducible apply ResultKeeps.checked
    | with_reducible apply ResultKeeps.ite
    | with_reducible exact ResultKeeps.fail
    | with_reducible apply ResultKeeps.doneMk
    | with_reducible apply ResultKeeps.failWith
    | with_reducible apply ResultKeeps.retry
    | with_reducible apply ResultKeeps.wait
    | with_reducible apply keep_pinSettings
    | with_reducible apply keep_State_modUpd
    | with_reducible apply keep_setStage
    | (simp -proj only [keeps_mk]; with_reducible refine KeepsParts.of rfl ?_ ?_ ?_ ?_ ?_ ?_)
    | with_reducible exact fun i => i
    | (intro r hr; try dsimp only [id])
    | with_reducible assumption
    | with_reducible exact fun _ i => i
    | split
    | exact fun i => by simpa using i

theorem keep_specUpdateConfirm : SpecKeeps specUpdateConfirm := by
  intro z0 s r p h
  unfold specUpdateConfirm
  try dsimp only
  repeat' first
    | with_reducible exact h
    | with_reducible apply ResultKeeps.checked
    | with_reducible apply ResultKeeps.ite
    | with_reducible exact ResultKeeps.fail
    | with_reducible apply ResultKeeps.doneMk
    | with_reducible apply ResultKeeps.failWith
    | with_reducible apply ResultKeeps.retry
    | with_reducible apply ResultKeeps.wait
    | with_reducible apply keep_confirmImage
    | (intro r hr; try dsimp only [id])
    | with_reducible assumption

theorem keep_specUpdateAbort : SpecKeeps specUpdateAbort := by
  intro z0 s r p h
  unfold specUpdateAbort
  try dsimp only
  repeat' first
    | with_reducible exact h
    | with_reducible apply Keeps.ite
    | with_reducible apply ResultKeeps.checked
    | with_reducible apply ResultKeeps.ite
    | with_reducible exact ResultKeeps.fail
    | with_reducible apply ResultKeeps.doneMk
    | with_reducible apply ResultKeeps.failWith
    | with_reducible apply ResultKeeps.retry
    | with_reducible apply ResultKeeps.wait
    | with_reducible apply keep_setStage
    | with_reducible apply keep_failWrites
    | with_reducible apply keep_State_modUpd
    | with_reducible apply keep_fallBack
    | (simp -proj only [keeps_mk]; with_reducible refine KeepsParts.of rfl ?_ ?_ ?_ ?_ ?_ ?_)
    | with_reducible exact fun i => i
    | (intro r hr; try dsimp only [id])
    | with_reducible assumption
    | with_reducible exact fun _ i => i
    | split
    | exact fun i => by simpa using i

theorem keep_specUpdateParamsSet : SpecKeeps specUpdateParamsSet := by
  intro z0 s r p h
  unfold specUpdateParamsSet
  try dsimp only
  repeat' first
    | with_reducible exact h
    | with_reducible apply ResultKeeps.checked
    | with_reducible apply ResultKeeps.ite
    | with_reducible exact ResultKeeps.fail
    | with_reducible apply ResultKeeps.doneMk
    | with_reducible apply ResultKeeps.failWith
    | with_reducible apply ResultKeeps.retry
    | with_reducible apply ResultKeeps.wait
    | with_reducible apply keep_State_modUpd
    | (simp -proj only [keeps_mk]; with_reducible refine KeepsParts.of rfl ?_ ?_ ?_ ?_ ?_ ?_)
    | with_reducible exact fun i => i
    | (intro r hr; try dsimp only [id])
    | with_reducible assumption
    | with_reducible exact fun _ i => i
    | exact fun i => by simpa using i

theorem keep_execUpdateStatusGet (r : Req) (s : State) : Goes s (execUpdateStatusGet r s) := keep_command keep_specUpdateStatusGet r s

theorem keep_execUpdateBegin (r : Req) (s : State) : Goes s (execUpdateBegin r s) := keep_command keep_specUpdateBegin r s

theorem keep_execUpdateBlock (r : Req) (s : State) : Goes s (execUpdateBlock r s) := keep_command keep_specUpdateBlock r s

theorem keep_execUpdateVerify (r : Req) (s : State) : Goes s (execUpdateVerify r s) := keep_command keep_specUpdateVerify r s

theorem keep_execUpdateActivate (r : Req) (s : State) : Goes s (execUpdateActivate r s) := keep_command keep_specUpdateActivate r s

theorem keep_execUpdateConfirm (r : Req) (s : State) : Goes s (execUpdateConfirm r s) := keep_command keep_specUpdateConfirm r s

theorem keep_execUpdateAbort (r : Req) (s : State) : Goes s (execUpdateAbort r s) := keep_command keep_specUpdateAbort r s

theorem keep_execUpdateParamsSet (r : Req) (s : State) : Goes s (execUpdateParamsSet r s) := keep_command keep_specUpdateParamsSet r s

end Sys2Proof.Machine
end

