-- ==== Sys2Proof/Laws/HealthRows.lean ====
section
/-! SUPPORT. Laws of Machine/HealthRows.lean: each operation keeps the queue of waiting commands and soundness; each meaning goes on. -/

namespace Sys2Proof.Machine

theorem keep_verifyCopy {z0 : State} (s : State) (n : Nat) (copyOk : Bool) (h : Keeps z0 s) : Keeps z0 (verifyCopy s n copyOk) := by
  unfold verifyCopy
  try dsimp -proj only
  repeat' first
    | with_reducible exact h
    | with_reducible apply Keeps.ite
    | with_reducible apply keep_extend
    | with_reducible apply keep_warmResetFree
    | with_reducible assumption
    | split

theorem keep_execLockstepMismatch (pair group word : Nat) (s : State) : Goes s (execLockstepMismatch pair group word s) := by
  have h := Keeps.refl s
  unfold execLockstepMismatch
  try dsimp -proj only
  repeat' first
    | with_reducible exact h
    | with_reducible apply Keeps.ite
    | with_reducible apply Goes.ite
    | with_reducible apply Goes.next
    | with_reducible apply keep_failHealth
    | with_reducible apply keep_lockstepError
    | (intro r hr; try dsimp -proj only)
    | with_reducible assumption
    | split

theorem keep_execLodestarEccError (memory requester addr obj : Nat) (uncorrected : Bool) (s : State) : Goes s (execLodestarEccError memory requester addr obj uncorrected s) := by
  have h := Keeps.refl s
  unfold execLodestarEccError
  try dsimp -proj only
  repeat' first
    | with_reducible exact h
    | with_reducible apply Keeps.ite
    | with_reducible apply Goes.ite
    | with_reducible apply Goes.next
    | with_reducible apply keep_eccError
    | with_reducible apply keep_failHealth
    | (intro r hr; try dsimp -proj only)
    | with_reducible assumption
    | split

theorem keep_execLodestarRestartDone (badBlocks : List Nat) (copyOk : Bool) (s : State) : Goes s (execLodestarRestartDone badBlocks copyOk s) := by
  have h := Keeps.refl s
  unfold execLodestarRestartDone
  try dsimp -proj only
  repeat' first
    | with_reducible exact h
    | with_reducible apply Keeps.ite
    | with_reducible apply Goes.ite
    | with_reducible apply Goes.next
    | with_reducible apply keep_adoptSettings
    | with_reducible apply keep_loaderRestarts
    | with_reducible apply keep_lodestarBack
    | with_reducible apply keep_failHealth
    | with_reducible apply keep_verifyCopy
    | (simp -proj only [keeps_mk]; with_reducible refine KeepsParts.of rfl ?_ ?_ ?_ ?_ ?_ ?_)
    | with_reducible exact fun i => i
    | (intro r hr; try dsimp -proj only)
    | with_reducible assumption
    | with_reducible exact fun _ i => i
    | split
    | exact fun i => by simpa using i

theorem keep_execBeWatchdog (e : Nat) (ecc : Bool) (s : State) : Goes s (execBeWatchdog e ecc s) := by
  have h := Keeps.refl s
  unfold execBeWatchdog
  try dsimp -proj only
  repeat' first
    | with_reducible exact h
    | with_reducible apply Keeps.ite
    | with_reducible apply Goes.ite
    | with_reducible apply Goes.next
    | with_reducible apply keep_failHealth
    | with_reducible apply keep_stampChans
    | with_reducible apply keep_beginRestart
    | (intro r hr; try dsimp -proj only)
    | with_reducible assumption
    | split

theorem keep_execBeRestartDone (e ms levels : Nat) (copyOk : Bool) (s : State) : Goes s (execBeRestartDone e ms levels copyOk s) := by
  have h := Keeps.refl s
  unfold execBeRestartDone
  try dsimp -proj only
  repeat' first
    | with_reducible exact h
    | with_reducible apply Keeps.ite
    | with_reducible apply Goes.ite
    | with_reducible apply Goes.next
    | with_reducible apply keep_restartDone
    | with_reducible apply keep_handEngines
    | with_reducible apply keep_verifyCopy
    | (intro r hr; try dsimp -proj only)
    | with_reducible assumption
    | split

end Sys2Proof.Machine
end

