-- ==== Sys2Proof/Laws/PowerRun.lean ====
section
/-! SUPPORT. Laws of Machine/PowerRun.lean: each operation keeps the queue of waiting commands and soundness; each meaning goes on. -/

namespace Sys2Proof.Machine

theorem keep_raisePower {z0 : State} (s : State) (was cause : Nat) (h : Keeps z0 s) : Keeps z0 (raisePower s was cause) := by
  unfold raisePower
  try dsimp -proj only
  repeat' first
    | with_reducible exact h
    | with_reducible apply keep_raise
    | (simp -proj only [keeps_mk]; with_reducible refine KeepsParts.of rfl ?_ ?_ ?_ ?_ ?_ ?_)
    | with_reducible exact fun i => i
    | with_reducible assumption
    | with_reducible exact fun _ i => i
    | exact fun i => by simpa using i

theorem keep_raiseWake {z0 : State} (s : State) (code from_ index resume slept others : Nat) (h : Keeps z0 s) : Keeps z0 (raiseWake s code from_ index resume slept others) := by
  unfold raiseWake
  try dsimp -proj only
  repeat' first
    | with_reducible exact h
    | with_reducible apply keep_raise
    | (simp -proj only [keeps_mk]; with_reducible refine KeepsParts.of rfl ?_ ?_ ?_ ?_ ?_ ?_)
    | with_reducible exact fun i => i
    | with_reducible assumption
    | with_reducible exact fun _ i => i
    | exact fun i => by simpa using i

theorem keep_enterState {z0 : State} (s : State) (n : Nat) (h : Keeps z0 s) : Keeps z0 (enterState s n) := by
  unfold enterState
  try dsimp -proj only
  repeat' first
    | with_reducible exact h
    | with_reducible apply keep_State_modPow
    | (simp -proj only [keeps_mk]; with_reducible refine KeepsParts.of rfl ?_ ?_ ?_ ?_ ?_ ?_)
    | with_reducible exact fun i => i
    | with_reducible assumption
    | with_reducible exact fun _ i => i
    | exact fun i => by simpa using i

theorem keep_darkenPort {z0 : State} (s : State) (p : Nat) (h : Keeps z0 s) : Keeps z0 (darkenPort s p) := by
  unfold darkenPort
  try dsimp -proj only
  repeat' first
    | with_reducible exact h
    | with_reducible apply Keeps.ite
    | with_reducible apply keep_returnTokens
    | with_reducible apply keep_stopPort
    | with_reducible assumption
    | split

theorem keep_darkenEngines {z0 : State} (s : State) (h : Keeps z0 s) : Keeps z0 (darkenEngines s) := by
  unfold darkenEngines
  try dsimp -proj only
  repeat' first
    | with_reducible exact h
    | with_reducible apply keep_returnTokens
    | with_reducible apply keep_stopEngines
    | (simp -proj only [keeps_mk]; with_reducible refine KeepsParts.of rfl ?_ ?_ ?_ ?_ ?_ ?_)
    | with_reducible apply Keeps.foldl
    | (intro r x hr; try dsimp -proj only)
    | with_reducible assumption

theorem keep_dropCycles {z0 : State} (s : State) (h : Keeps z0 s) : Keeps z0 (dropCycles s) := by
  unfold dropCycles
  exact keep_State_modGw _ _ (Keeps.foldl h fun _ _ hr => keep_countOut _ _ hr)

theorem keep_duskEntry {z0 : State} (s : State) (cause : Nat) (h : Keeps z0 s) : Keeps z0 (duskEntry s cause) := by
  unfold duskEntry
  try dsimp -proj only
  repeat' first
    | with_reducible exact h
    | with_reducible apply keep_pseAllOff
    | with_reducible apply keep_dropCycles
    | with_reducible apply keep_darkenEngines
    | with_reducible apply keep_darkenPort
    | with_reducible apply keep_refreshRecord
    | with_reducible apply keep_zenithRecheck
    | with_reducible apply keep_enterState
    | with_reducible apply keep_returnTokens
    | with_reducible apply keep_raisePower
    | (simp -proj only [keeps_mk]; with_reducible refine KeepsParts.of rfl ?_ ?_ ?_ ?_ ?_ ?_)
    | with_reducible apply Keeps.foldl
    | (intro r x hr; try dsimp -proj only)
    | with_reducible assumption

theorem keep_freshImage {z0 : State} (s : State) (h : Keeps z0 s) : Keeps z0 (freshImage s) := by
  unfold freshImage
  try dsimp -proj only
  repeat' first
    | with_reducible exact h
    | with_reducible apply keep_State_modGw
    | (simp -proj only [keeps_mk]; with_reducible refine KeepsParts.of rfl ?_ ?_ ?_ ?_ ?_ ?_)
    | with_reducible exact fun i => i
    | with_reducible assumption
    | with_reducible exact fun _ i => i
    | exact fun i => by simpa using i

theorem keep_duskExit {z0 : State} (s : State) (x : ExitInput) (h : Keeps z0 s) : Keeps z0 (duskExit s x) := by
  unfold duskExit
  try dsimp -proj only
  repeat' first
    | with_reducible exact h
    | with_reducible apply Keeps.ite
    | (with_reducible refine Keeps.snd (by assumption) ?_; with_reducible apply keep_requestTokens)
    | with_reducible apply keep_requestTokens
    | with_reducible apply keep_State_modPow
    | with_reducible apply keep_freshImage
    | with_reducible apply keep_enterState
    | with_reducible apply keep_startEngines
    | with_reducible apply keep_verifyCopy
    | with_reducible apply keep_startPse
    | with_reducible apply keep_startPort
    | with_reducible apply keep_raisePower
    | with_reducible apply keep_zenithRecheck
    | with_reducible apply keep_raiseWake
    | with_reducible apply keep_warmReset
    | (simp -proj only [keeps_mk]; with_reducible refine KeepsParts.of rfl ?_ ?_ ?_ ?_ ?_ ?_)
    | with_reducible exact fun i => i
    | with_reducible apply Keeps.foldl
    | (intro r x hr; try dsimp -proj only)
    | with_reducible assumption
    | with_reducible exact fun _ i => i
    | split
    | exact fun i => by simpa using i

theorem keep_beginDuskExit {z0 : State} (s : State) (code index others : Nat) (x : ExitInput) (h : Keeps z0 s) : Keeps z0 (beginDuskExit s code index others x) := by
  unfold beginDuskExit
  try dsimp -proj only
  repeat' first
    | with_reducible exact h
    | with_reducible apply keep_duskExit
    | with_reducible apply keep_State_modPow
    | (simp -proj only [keeps_mk]; with_reducible refine KeepsParts.of rfl ?_ ?_ ?_ ?_ ?_ ?_)
    | with_reducible exact fun i => i
    | with_reducible assumption
    | with_reducible exact fun _ i => i
    | exact fun i => by simpa using i

theorem keep_execDuskExitRetry (x : ExitInput) (s : State) : Goes s (execDuskExitRetry x s) := by
  have h := Keeps.refl s
  unfold execDuskExitRetry
  try dsimp -proj only
  repeat' first
    | with_reducible exact h
    | with_reducible apply Keeps.ite
    | with_reducible apply Goes.ite
    | with_reducible apply Goes.next
    | with_reducible apply keep_duskExit
    | with_reducible apply keep_State_later
    | (intro r hr; try dsimp -proj only)
    | with_reducible assumption
    | split

theorem keep_closeHost {z0 : State} (s : State) (h : Keeps z0 s) : Keeps z0 (closeHost s) := by
  unfold closeHost
  try dsimp -proj only
  repeat' first
    | with_reducible exact h
    | with_reducible apply Keeps.ite
    | with_reducible apply keep_dropWrites
    | with_reducible apply keep_closeSessions
    | with_reducible apply keep_raise
    | with_reducible apply Keeps.modHost
    | (simp -proj only [keeps_mk]; with_reducible refine KeepsParts.of rfl ?_ ?_ ?_ ?_ ?_ ?_)
    | with_reducible exact fun i => i
    | with_reducible exact fun i => InvHost.mk i.1 i.2 i.3
    | with_reducible exact fun i => InvMb.mk i.1 i.2 i.3
    | with_reducible assumption
    | with_reducible exact fun _ i => i
    | split
    | exact fun i => keepMb i (by simp [i.1]) (by simp [i.2]) (by intro hw; repeat' first | with_reducible exact hw | with_reducible apply wf_mwrite | with_reducible apply wf_mset | exact rfl)
    | exact fun i => keepHost i (by simp [i.1]) (by simp [i.2]) (by simp [i.3])
    | exact fun i => by simpa using i

theorem keep_stopModule {z0 : State} (s : State) (h : Keeps z0 s) : Keeps z0 (stopModule s) := by
  unfold stopModule
  try dsimp -proj only
  repeat' first
    | with_reducible exact h
    | with_reducible apply Keeps.ite
    | with_reducible apply keep_pseAllOff
    | with_reducible apply keep_darkenEngines
    | with_reducible apply keep_closeHost
    | with_reducible apply keep_returnTokens
    | with_reducible apply keep_tc10Sleep
    | with_reducible apply keep_darkenPort
    | (simp -proj only [keeps_mk]; with_reducible refine KeepsParts.of rfl ?_ ?_ ?_ ?_ ?_ ?_)
    | with_reducible apply Keeps.foldl
    | (intro r x hr; try dsimp -proj only)
    | with_reducible assumption
    | split

theorem keep_emptyFabric {z0 : State} (s : State) (h : Keeps z0 s) : Keeps z0 (emptyFabric s) := by
  unfold emptyFabric
  try dsimp -proj only
  repeat' first
    | with_reducible exact h
    | with_reducible apply keep_settleEpoch
    | (simp -proj only [keeps_mk]; with_reducible refine KeepsParts.of rfl ?_ ?_ ?_ ?_ ?_ ?_)
    | with_reducible exact fun i => i
    | with_reducible assumption
    | with_reducible exact fun _ i => i
    | exact fun i => by simpa using i

theorem keep_enterNight {z0 : State} (s : State) (cause : Nat) (h : Keeps z0 s) : Keeps z0 (enterNight s cause) := by
  unfold enterNight
  try dsimp -proj only
  repeat' first
    | with_reducible exact h
    | with_reducible apply keep_emptyFabric
    | with_reducible apply keep_stopModule
    | with_reducible apply keep_refreshRecord
    | with_reducible apply keep_enterState
    | with_reducible apply keep_holdWindow
    | with_reducible apply keep_State_modPow
    | with_reducible apply keep_raisePower
    | with_reducible apply keep_zenithRecheck
    | (simp -proj only [keeps_mk]; with_reducible refine KeepsParts.of rfl ?_ ?_ ?_ ?_ ?_ ?_)
    | with_reducible exact fun i => i
    | with_reducible apply Keeps.foldl
    | (intro r x hr; try dsimp -proj only)
    | with_reducible assumption
    | with_reducible exact fun _ i => i
    | exact fun i => by simpa using i

theorem keep_enterDark {z0 : State} (s : State) (cause : Nat) (h : Keeps z0 s) : Keeps z0 (enterDark s cause) := by
  unfold enterDark
  try dsimp -proj only
  repeat' first
    | with_reducible exact h
    | with_reducible apply Keeps.ite
    | with_reducible apply keep_holdWindow
    | with_reducible apply keep_emptyFabric
    | with_reducible apply keep_stopModule
    | with_reducible apply keep_enterState
    | with_reducible apply keep_State_modPow
    | with_reducible apply keep_flushLog
    | with_reducible apply keep_raisePower
    | (simp -proj only [keeps_mk]; with_reducible refine KeepsParts.of rfl ?_ ?_ ?_ ?_ ?_ ?_)
    | with_reducible exact fun i => i
    | with_reducible assumption
    | with_reducible exact fun _ i => i
    | split
    | exact fun i => by simpa using i

theorem keep_abandonEntry {z0 : State} (s : State) (h : Keeps z0 s) : Keeps z0 (abandonEntry s) := by
  unfold abandonEntry
  try dsimp -proj only
  repeat' first
    | with_reducible exact h
    | with_reducible apply keep_raisePower
    | with_reducible apply keep_State_modPow
    | (simp -proj only [keeps_mk]; with_reducible refine KeepsParts.of rfl ?_ ?_ ?_ ?_ ?_ ?_)
    | with_reducible exact fun i => i
    | with_reducible assumption
    | with_reducible exact fun _ i => i
    | exact fun i => by simpa using i

theorem keep_carryNight {z0 : State} (s : State) (h : Keeps z0 s) : Keeps z0 (carryNight s) := by
  unfold carryNight
  try dsimp -proj only
  repeat' first
    | with_reducible exact h
    | with_reducible apply keep_carryTime
    | with_reducible apply Keeps.modMb
    | (simp -proj only [keeps_mk]; with_reducible refine KeepsParts.of rfl ?_ ?_ ?_ ?_ ?_ ?_)
    | with_reducible exact fun i => i
    | with_reducible exact fun i => InvMb.mk i.1 i.2 i.3
    | with_reducible assumption
    | with_reducible exact fun _ i => i
    | exact fun i => keepMb i (by simp [i.1]) (by simp [i.2]) (by intro hw; repeat' first | with_reducible exact hw | with_reducible apply wf_mwrite | with_reducible apply wf_mset | exact rfl)
    | exact fun i => by simpa using i

theorem keep_wipeNight {z0 : State} (s : State) (h : Keeps z0 s) : Keeps z0 (wipeNight s) := by
  unfold wipeNight
  try dsimp -proj only
  repeat' first
    | with_reducible exact h
    | (simp -proj only [keeps_mk]; with_reducible refine KeepsParts.of rfl ?_ ?_ ?_ ?_ ?_ ?_)
    | with_reducible exact fun i => i
    | with_reducible exact fun i => InvHost.mk i.1 i.2 i.3
    | with_reducible exact fun i => InvMb.mk i.1 i.2 i.3
    | with_reducible exact fun i => InvDma.mk i.1 i.2
    | with_reducible assumption
    | with_reducible exact fun _ i => i
    | exact fun i => keepMb i (by simp [i.1]) (by simp [i.2]) (by intro hw; repeat' first | with_reducible exact hw | with_reducible apply wf_mwrite | with_reducible apply wf_mset | exact rfl)
    | exact fun i => keepHost i (by simp [i.1]) (by simp [i.2]) (by simp [i.3])
    | exact fun i => keepDma i (by simp [i.1]) (by simp [i.2])
    | exact fun i => by simpa using i

theorem keep_raiseContinuity {z0 : State} (s : State) (cause slept seq : Nat) (h : Keeps z0 s) : Keeps z0 (raiseContinuity s cause slept seq) := by
  unfold raiseContinuity
  try dsimp -proj only
  repeat' first
    | with_reducible exact h
    | with_reducible apply Keeps.ite
    | with_reducible apply keep_raise
    | with_reducible assumption
    | split

theorem keep_certify {z0 : State} (s : State) (raw n : Nat) (h : Keeps z0 s) : Keeps z0 (certify s raw n) := by
  unfold certify
  try dsimp -proj only
  repeat' first
    | with_reducible exact h
    | with_reducible apply keep_State_modBoot
    | with_reducible apply keep_raiseContinuity
    | with_reducible apply keep_extendData
    | (simp -proj only [keeps_mk]; with_reducible refine KeepsParts.of rfl ?_ ?_ ?_ ?_ ?_ ?_)
    | with_reducible exact fun i => i
    | with_reducible assumption
    | with_reducible exact fun _ i => i
    | exact fun i => by simpa using i

theorem keep_resumeModule {z0 : State} (s : State) (h : Keeps z0 s) : Keeps z0 (resumeModule s) := by
  unfold resumeModule
  try dsimp -proj only
  repeat' first
    | with_reducible exact h
    | with_reducible apply Keeps.ite
    | with_reducible apply keep_loadBundle
    | with_reducible apply keep_wipeNight
    | with_reducible apply keep_enterState
    | with_reducible apply keep_State_modPow
    | with_reducible apply keep_startPse
    | with_reducible apply keep_startPorts
    | with_reducible apply keep_startEngines
    | with_reducible apply keep_blockTokens
    | with_reducible apply keep_setMode
    | with_reducible apply keep_setReason
    | with_reducible apply keep_setPairing
    | with_reducible apply keep_barTakeover
    | with_reducible apply keep_State_modLode
    | with_reducible apply keep_resumeWindow
    | with_reducible apply keep_zenithRecheck
    | with_reducible apply Keeps.modHost
    | (simp -proj only [keeps_mk]; with_reducible refine KeepsParts.of rfl ?_ ?_ ?_ ?_ ?_ ?_)
    | with_reducible exact fun i => i
    | with_reducible exact fun i => InvHost.mk i.1 i.2 i.3
    | with_reducible assumption
    | with_reducible exact fun _ i => i
    | split
    | exact fun i => keepHost i (by simp [i.1]) (by simp [i.2]) (by simp [i.3])
    | exact fun i => by simpa using i

theorem keep_nightWake {z0 : State} (s : State) (code index others : Nat) (x : ExitInput) (h : Keeps z0 s) : Keeps z0 (nightWake s code index others x) := by
  unfold nightWake
  try dsimp -proj only
  repeat' first
    | with_reducible exact h
    | with_reducible apply Keeps.ite
    | with_reducible apply keep_carryNight
    | with_reducible apply keep_resumeModule
    | with_reducible apply keep_certify
    | with_reducible apply keep_raiseWake
    | with_reducible apply keep_raisePower
    | with_reducible apply keep_raiseContinuity
    | with_reducible apply keep_startModule
    | with_reducible apply keep_flushLog
    | with_reducible assumption
    | split

theorem keep_darkWake {z0 : State} (s : State) (code index others : Nat) (x : ExitInput) (h : Keeps z0 s) : Keeps z0 (darkWake s code index others x) := by
  unfold darkWake
  try dsimp -proj only
  repeat' first
    | with_reducible exact h
    | with_reducible apply keep_raiseWake
    | with_reducible apply keep_startModule
    | with_reducible apply Keeps.modHost
    | (simp -proj only [keeps_mk]; with_reducible refine KeepsParts.of rfl ?_ ?_ ?_ ?_ ?_ ?_)
    | with_reducible exact fun i => i
    | with_reducible exact fun i => InvHost.mk i.1 i.2 i.3
    | with_reducible assumption
    | with_reducible exact fun _ i => i
    | exact fun i => keepHost i (by simp [i.1]) (by simp [i.2]) (by simp [i.3])
    | exact fun i => by simpa using i

theorem keep_wakeUp {z0 : State} (s : State) (code index others : Nat) (x : ExitInput) (h : Keeps z0 s) : Keeps z0 (wakeUp s code index others x) := by
  unfold wakeUp
  try dsimp -proj only
  repeat' first
    | with_reducible exact h
    | with_reducible apply Keeps.ite
    | with_reducible apply keep_darkWake
    | with_reducible apply keep_nightWake
    | with_reducible apply keep_abandonEntry
    | with_reducible apply keep_beginDuskExit
    | with_reducible apply keep_State_modPow
    | (simp -proj only [keeps_mk]; with_reducible refine KeepsParts.of rfl ?_ ?_ ?_ ?_ ?_ ?_)
    | with_reducible exact fun i => i
    | with_reducible assumption
    | with_reducible exact fun _ i => i
    | split
    | exact fun i => by simpa using i

theorem keep_execWakePin (pin others : Nat) (x : ExitInput) (s : State) : Goes s (execWakePin pin others x s) := by
  have h := Keeps.refl s
  unfold execWakePin
  try dsimp -proj only
  repeat' first
    | with_reducible exact h
    | with_reducible apply Keeps.ite
    | with_reducible apply Goes.ite
    | with_reducible apply Goes.next
    | with_reducible apply keep_wakeUp
    | (intro r hr; try dsimp -proj only)
    | with_reducible assumption
    | split

theorem keep_execRtcAlarm (others : Nat) (x : ExitInput) (s : State) : Goes s (execRtcAlarm others x s) := by
  have h := Keeps.refl s
  unfold execRtcAlarm
  try dsimp -proj only
  repeat' first
    | with_reducible exact h
    | with_reducible apply Keeps.ite
    | with_reducible apply Goes.ite
    | with_reducible apply Goes.next
    | with_reducible apply keep_wakeUp
    | with_reducible apply keep_State_later
    | (intro r hr; try dsimp -proj only)
    | with_reducible assumption
    | split

theorem keep_execTc10WakePulse (port others : Nat) (x : ExitInput) (s : State) : Goes s (execTc10WakePulse port others x s) := by
  have h := Keeps.refl s
  unfold execTc10WakePulse
  try dsimp -proj only
  repeat' first
    | with_reducible exact h
    | with_reducible apply Keeps.ite
    | with_reducible apply Goes.ite
    | with_reducible apply Goes.next
    | with_reducible apply keep_tc10Wake
    | with_reducible apply keep_wakeUp
    | (intro r hr; try dsimp -proj only)
    | with_reducible assumption
    | split

theorem keep_execCanWakeFrame (c : Nat) (pattern : Bool) (errors : Nat) (xtd : Bool) (ident dlc : Nat) (data : List Byte) (others : Nat) (x : ExitInput) (s : State) : Goes s (execCanWakeFrame c pattern errors xtd ident dlc data others x s) := by
  have h := Keeps.refl s
  unfold execCanWakeFrame
  try dsimp -proj only
  repeat' first
    | with_reducible exact h
    | with_reducible apply Keeps.ite
    | with_reducible apply Goes.ite
    | with_reducible apply Goes.next
    | with_reducible apply keep_wakeUp
    | (intro r hr; try dsimp -proj only)
    | with_reducible assumption
    | split

theorem keep_commandedState {z0 : State} (s : State) (target : Nat) (x : ExitInput) (h : Keeps z0 s) : Keeps z0 (commandedState s target x) := by
  unfold commandedState
  try dsimp -proj only
  repeat' first
    | with_reducible exact h
    | with_reducible apply keep_beginDuskExit
    | with_reducible apply keep_State_modPow
    | with_reducible apply keep_duskEntry
    | with_reducible apply keep_enterNight
    | with_reducible apply keep_enterDark
    | (simp -proj only [keeps_mk]; with_reducible refine KeepsParts.of rfl ?_ ?_ ?_ ?_ ?_ ?_)
    | with_reducible exact fun i => i
    | with_reducible assumption
    | with_reducible exact fun _ i => i
    | split
    | exact fun i => by simpa using i

theorem keep_execDelayMsExpiry (x : ExitInput) (s : State) : Goes s (execDelayMsExpiry x s) := by
  have h := Keeps.refl s
  unfold execDelayMsExpiry
  try dsimp -proj only
  repeat' first
    | with_reducible exact h
    | with_reducible apply Keeps.ite
    | with_reducible apply Goes.ite
    | with_reducible apply Goes.next
    | with_reducible apply keep_warmReset
    | with_reducible apply keep_State_later
    | with_reducible apply keep_commandedState
    | (simp -proj only [keeps_mk]; with_reducible refine KeepsParts.of rfl ?_ ?_ ?_ ?_ ?_ ?_)
    | with_reducible exact fun i => i
    | (intro r hr; try dsimp -proj only)
    | with_reducible assumption
    | with_reducible exact fun _ i => i
    | split
    | exact fun i => by simpa using i

theorem keep_execAutoSleepTimer (s : State) : Goes s (execAutoSleepTimer s) := by
  have h := Keeps.refl s
  unfold execAutoSleepTimer
  try dsimp -proj only
  repeat' first
    | with_reducible exact h
    | with_reducible apply Keeps.ite
    | with_reducible apply Goes.ite
    | with_reducible apply Goes.next
    | with_reducible apply keep_enterNight
    | with_reducible apply keep_enterDark
    | (intro r hr; try dsimp -proj only)
    | with_reducible assumption
    | split

theorem keep_execDarkAfterTimer (s : State) : Goes s (execDarkAfterTimer s) := by
  have h := Keeps.refl s
  unfold execDarkAfterTimer
  try dsimp -proj only
  repeat' first
    | with_reducible exact h
    | with_reducible apply Keeps.ite
    | with_reducible apply Goes.ite
    | with_reducible apply Goes.next
    | with_reducible apply keep_enterDark
    | with_reducible apply keep_State_later
    | (intro r hr; try dsimp -proj only)
    | with_reducible assumption
    | split

theorem keep_execColdPowerOn (boots : List BootInput) (s : State) : Goes s (execColdPowerOn boots s) := by
  have h := Keeps.refl s
  unfold execColdPowerOn
  try dsimp -proj only
  repeat' first
    | with_reducible exact h
    | with_reducible apply Keeps.ite
    | with_reducible apply Goes.ite
    | with_reducible apply Goes.next
    | with_reducible apply keep_startModule
    | with_reducible apply Keeps.modHost
    | (simp -proj only [keeps_mk]; with_reducible refine KeepsParts.of rfl ?_ ?_ ?_ ?_ ?_ ?_)
    | with_reducible exact fun i => i
    | with_reducible exact fun i => InvHost.mk i.1 i.2 i.3
    | (intro r hr; try dsimp -proj only)
    | with_reducible assumption
    | with_reducible exact fun _ i => i
    | split
    | exact fun i => keepHost i (by simp [i.1]) (by simp [i.2]) (by simp [i.3])
    | exact fun i => by simpa using i

theorem keep_execResetN (boots : List BootInput) (s : State) : Goes s (execResetN boots s) := by
  have h := Keeps.refl s
  unfold execResetN
  try dsimp -proj only
  repeat' first
    | with_reducible exact h
    | with_reducible apply Keeps.ite
    | with_reducible apply Goes.ite
    | with_reducible apply Goes.next
    | with_reducible apply keep_startModule
    | with_reducible apply keep_dropYoung
    | with_reducible apply keep_carryNight
    | (intro r hr; try dsimp -proj only)
    | with_reducible assumption
    | split

theorem keep_execHoldupExhausted (mv : Nat) (s : State) : Goes s (execHoldupExhausted mv s) := by
  have h := Keeps.refl s
  unfold execHoldupExhausted
  try dsimp -proj only
  repeat' first
    | with_reducible exact h
    | with_reducible apply Keeps.ite
    | with_reducible apply Goes.ite
    | with_reducible apply Goes.next
    | with_reducible apply keep_raise
    | with_reducible apply keep_wipe
    | (simp -proj only [keeps_mk]; with_reducible refine KeepsParts.of rfl ?_ ?_ ?_ ?_ ?_ ?_)
    | with_reducible exact fun i => i
    | with_reducible exact fun i => InvHost.mk i.1 i.2 i.3
    | (intro r hr; try dsimp -proj only)
    | with_reducible assumption
    | with_reducible exact fun _ i => i
    | split
    | exact fun i => keepHost i (by simp [i.1]) (by simp [i.2]) (by simp [i.3])
    | exact fun i => by simpa using i

theorem keep_execPowerFailWarn (mv : Nat) (s : State) : Goes s (execPowerFailWarn mv s) := by
  have h := Keeps.refl s
  unfold execPowerFailWarn
  try dsimp -proj only
  repeat' first
    | with_reducible exact h
    | with_reducible apply Keeps.ite
    | with_reducible apply Goes.ite
    | with_reducible apply Goes.next
    | with_reducible apply keep_State_modPow
    | with_reducible apply keep_raise
    | with_reducible apply keep_shedOne
    | with_reducible apply keep_flushLog
    | with_reducible apply keep_abandonEntry
    | (simp -proj only [keeps_mk]; with_reducible refine KeepsParts.of rfl ?_ ?_ ?_ ?_ ?_ ?_)
    | with_reducible exact fun i => i
    | with_reducible apply Keeps.foldl
    | (intro r x hr; try dsimp -proj only)
    | (intro r hr; try dsimp -proj only)
    | with_reducible assumption
    | with_reducible exact fun _ i => i
    | split
    | exact fun i => by simpa using i

theorem keep_requestBlock {z0 : State} (s : State) (c : Nat) (h : Keeps z0 s) : Keeps z0 (requestBlock s c) := by
  unfold requestBlock
  try dsimp -proj only
  repeat' first
    | with_reducible exact h
    | with_reducible apply Keeps.ite
    | (with_reducible refine Keeps.snd (by assumption) ?_; with_reducible apply keep_requestTokens)
    | with_reducible apply keep_requestTokens
    | with_reducible apply keep_startEngine
    | with_reducible apply keep_startPort
    | with_reducible apply keep_pseStart
    | with_reducible apply keep_pseController
    | (simp -proj only [keeps_mk]; with_reducible refine KeepsParts.of rfl ?_ ?_ ?_ ?_ ?_ ?_)
    | with_reducible apply Keeps.foldl
    | (intro r x hr; try dsimp -proj only)
    | with_reducible assumption
    | split

theorem keep_execPowerFailEnd (mv : Nat) (s : State) : Goes s (execPowerFailEnd mv s) := by
  have h := Keeps.refl s
  unfold execPowerFailEnd
  try dsimp -proj only
  repeat' first
    | with_reducible exact h
    | with_reducible apply Keeps.ite
    | with_reducible apply Goes.ite
    | with_reducible apply Goes.next
    | with_reducible apply keep_State_modPow
    | with_reducible apply keep_raise
    | with_reducible apply keep_requestBlock
    | (simp -proj only [keeps_mk]; with_reducible refine KeepsParts.of rfl ?_ ?_ ?_ ?_ ?_ ?_)
    | with_reducible exact fun i => i
    | with_reducible apply Keeps.foldl
    | (intro r x hr; try dsimp -proj only)
    | (intro r hr; try dsimp -proj only)
    | with_reducible assumption
    | with_reducible exact fun _ i => i
    | split
    | exact fun i => by simpa using i

theorem keep_execTokenRequest (c : Nat) (s : State) : Goes s (execTokenRequest c s) := by
  have h := Keeps.refl s
  unfold execTokenRequest
  try dsimp -proj only
  repeat' first
    | with_reducible exact h
    | with_reducible apply Keeps.ite
    | with_reducible apply Goes.ite
    | with_reducible apply Goes.next
    | with_reducible apply keep_requestBlock
    | (intro r hr; try dsimp -proj only)
    | with_reducible assumption
    | split

theorem keep_monitorBad {z0 : State} (s : State) (m kind mv threshold : Nat) (h : Keeps z0 s) : Keeps z0 (monitorBad s m kind mv threshold) := by
  unfold monitorBad
  try dsimp -proj only
  repeat' first
    | with_reducible exact h
    | with_reducible apply Keeps.ite
    | with_reducible apply keep_raise
    | with_reducible apply keep_State_modPow
    | (simp -proj only [keeps_mk]; with_reducible refine KeepsParts.of rfl ?_ ?_ ?_ ?_ ?_ ?_)
    | with_reducible exact fun i => i
    | with_reducible assumption
    | with_reducible exact fun _ i => i
    | split
    | exact fun i => by simpa using i

theorem keep_execInputOvervoltage (mv : Nat) (s : State) : Goes s (execInputOvervoltage mv s) := by
  have h := Keeps.refl s
  unfold execInputOvervoltage
  try dsimp -proj only
  repeat' first
    | with_reducible exact h
    | with_reducible apply Keeps.ite
    | with_reducible apply Goes.ite
    | with_reducible apply Goes.next
    | with_reducible apply keep_monitorBad
    | (intro r hr; try dsimp -proj only)
    | with_reducible assumption
    | split

theorem keep_execRailOutOfRange (rail mv : Nat) (s : State) : Goes s (execRailOutOfRange rail mv s) := by
  have h := Keeps.refl s
  unfold execRailOutOfRange
  try dsimp -proj only
  repeat' first
    | with_reducible exact h
    | with_reducible apply Keeps.ite
    | with_reducible apply Goes.ite
    | with_reducible apply Goes.next
    | with_reducible apply keep_monitorBad
    | (intro r hr; try dsimp -proj only)
    | with_reducible assumption
    | split

theorem keep_execSupplyBackInRange (m mv : Nat) (s : State) : Goes s (execSupplyBackInRange m mv s) := by
  have h := Keeps.refl s
  unfold execSupplyBackInRange
  try dsimp -proj only
  repeat' first
    | with_reducible exact h
    | with_reducible apply Keeps.ite
    | with_reducible apply Goes.ite
    | with_reducible apply Goes.next
    | with_reducible apply keep_raise
    | with_reducible apply keep_State_modPow
    | (simp -proj only [keeps_mk]; with_reducible refine KeepsParts.of rfl ?_ ?_ ?_ ?_ ?_ ?_)
    | with_reducible exact fun i => i
    | (intro r hr; try dsimp -proj only)
    | with_reducible assumption
    | with_reducible exact fun _ i => i
    | split
    | exact fun i => by simpa using i

theorem keep_execHoldupEstimate (ms loadDw : Nat) (s : State) : Goes s (execHoldupEstimate ms loadDw s) := by
  have h := Keeps.refl s
  unfold execHoldupEstimate
  try dsimp -proj only
  repeat' first
    | with_reducible exact h
    | with_reducible apply Keeps.ite
    | with_reducible apply Goes.ite
    | with_reducible apply Goes.next
    | with_reducible apply keep_State_modPow
    | with_reducible apply keep_raise
    | (simp -proj only [keeps_mk]; with_reducible refine KeepsParts.of rfl ?_ ?_ ?_ ?_ ?_ ?_)
    | with_reducible exact fun i => i
    | (intro r hr; try dsimp -proj only)
    | with_reducible assumption
    | with_reducible exact fun _ i => i
    | split
    | exact fun i => by simpa using i

theorem keep_execHoldupBankCharged (s : State) : Goes s (execHoldupBankCharged s) := by
  have h := Keeps.refl s
  unfold execHoldupBankCharged
  try dsimp -proj only
  repeat' first
    | with_reducible exact h
    | with_reducible apply Keeps.ite
    | with_reducible apply Goes.ite
    | with_reducible apply Goes.next
    | with_reducible apply keep_State_modPow
    | (simp -proj only [keeps_mk]; with_reducible refine KeepsParts.of rfl ?_ ?_ ?_ ?_ ?_ ?_)
    | with_reducible exact fun i => i
    | (intro r hr; try dsimp -proj only)
    | with_reducible assumption
    | with_reducible exact fun _ i => i
    | split
    | exact fun i => by simpa using i

theorem keep_raiseBite {z0 : State} (s : State) (stage requester : Nat) (h : Keeps z0 s) : Keeps z0 (raiseBite s stage requester) := by
  unfold raiseBite
  try dsimp -proj only
  repeat' first
    | with_reducible exact h
    | with_reducible apply keep_raise
    | with_reducible assumption

theorem keep_bite {z0 : State} (s : State) (h : Keeps z0 s) : Keeps z0 (bite s) := by
  unfold bite
  try dsimp -proj only
  repeat' first
    | with_reducible exact h
    | with_reducible apply Keeps.ite
    | with_reducible apply keep_State_modLode
    | with_reducible apply keep_raiseBite
    | with_reducible apply keep_beginFallback
    | with_reducible apply keep_startModule
    | with_reducible apply keep_dropYoung
    | with_reducible apply keep_memStuck
    | with_reducible apply keep_loaderRestarts
    | with_reducible apply keep_abandonEntry
    | with_reducible apply keep_failHealth
    | with_reducible apply keep_lodestarReset
    | (simp -proj only [keeps_mk]; with_reducible refine KeepsParts.of rfl ?_ ?_ ?_ ?_ ?_ ?_)
    | with_reducible exact fun i => i
    | with_reducible assumption
    | with_reducible exact fun _ i => i
    | split
    | exact fun i => by simpa using i

theorem keep_execNightwatchService (s : State) : Goes s (execNightwatchService s) := by
  have h := Keeps.refl s
  unfold execNightwatchService
  try dsimp -proj only
  repeat' first
    | with_reducible exact h
    | with_reducible apply Keeps.ite
    | with_reducible apply Goes.ite
    | with_reducible apply Goes.next
    | with_reducible apply keep_State_modLode
    | with_reducible apply keep_bite
    | (simp -proj only [keeps_mk]; with_reducible refine KeepsParts.of rfl ?_ ?_ ?_ ?_ ?_ ?_)
    | with_reducible exact fun i => i
    | (intro r hr; try dsimp -proj only)
    | with_reducible assumption
    | with_reducible exact fun _ i => i
    | split
    | exact fun i => by simpa using i

theorem keep_execNightwatchWindowClose (s : State) : Goes s (execNightwatchWindowClose s) := by
  have h := Keeps.refl s
  unfold execNightwatchWindowClose
  try dsimp -proj only
  repeat' first
    | with_reducible exact h
    | with_reducible apply Keeps.ite
    | with_reducible apply Goes.ite
    | with_reducible apply Goes.next
    | with_reducible apply keep_bite
    | with_reducible apply keep_State_later
    | (intro r hr; try dsimp -proj only)
    | with_reducible assumption
    | split

theorem keep_specPowerStatusGet : SpecKeeps specPowerStatusGet := by
  intro z0 s r p h
  unfold specPowerStatusGet
  try dsimp only
  repeat' first
    | with_reducible exact h
    | with_reducible apply ResultKeeps.checked
    | with_reducible apply ResultKeeps.ite
    | with_reducible exact ResultKeeps.fail
    | with_reducible apply ResultKeeps.doneMk
    | with_reducible apply ResultKeeps.failWith
    | with_reducible apply ResultKeeps.retry
    | with_reducible apply ResultKeeps.wait
    | (intro r hr; try dsimp only [id])
    | with_reducible assumption

theorem keep_specPowerStateSet : SpecKeeps specPowerStateSet := by
  intro z0 s r p h
  unfold specPowerStateSet
  try dsimp only
  repeat' first
    | with_reducible exact h
    | with_reducible apply ResultKeeps.checked
    | with_reducible apply ResultKeeps.ite
    | with_reducible exact ResultKeeps.fail
    | with_reducible apply ResultKeeps.doneMk
    | with_reducible apply ResultKeeps.failWith
    | with_reducible apply ResultKeeps.retry
    | with_reducible apply ResultKeeps.wait
    | with_reducible apply keep_State_modPow
    | (simp -proj only [keeps_mk]; with_reducible refine KeepsParts.of rfl ?_ ?_ ?_ ?_ ?_ ?_)
    | with_reducible exact fun i => i
    | (intro r hr; try dsimp only [id])
    | with_reducible assumption
    | with_reducible exact fun _ i => i
    | exact fun i => by simpa using i

theorem keep_specWakeSet : SpecKeeps specWakeSet := by
  intro z0 s r p h
  unfold specWakeSet
  try dsimp only
  repeat' first
    | with_reducible exact h
    | with_reducible apply ResultKeeps.checked
    | with_reducible apply ResultKeeps.ite
    | with_reducible exact ResultKeeps.fail
    | with_reducible apply ResultKeeps.doneMk
    | with_reducible apply ResultKeeps.failWith
    | with_reducible apply ResultKeeps.retry
    | with_reducible apply ResultKeeps.wait
    | with_reducible apply keep_State_modPow
    | (simp -proj only [keeps_mk]; with_reducible refine KeepsParts.of rfl ?_ ?_ ?_ ?_ ?_ ?_)
    | with_reducible exact fun i => i
    | (intro r hr; try dsimp only [id])
    | with_reducible assumption
    | with_reducible exact fun _ i => i
    | exact fun i => by simpa using i

theorem keep_specPoolSet : SpecKeeps specPoolSet := by
  intro z0 s r p h
  unfold specPoolSet
  try dsimp only
  repeat' first
    | with_reducible exact h
    | with_reducible apply Keeps.ite
    | with_reducible apply ResultKeeps.checked
    | with_reducible apply ResultKeeps.ite
    | with_reducible exact ResultKeeps.fail
    | with_reducible apply ResultKeeps.doneMk
    | with_reducible apply ResultKeeps.failWith
    | with_reducible apply ResultKeeps.retry
    | with_reducible apply ResultKeeps.wait
    | with_reducible apply keep_State_modPow
    | (with_reducible refine Keeps.fst (by assumption) ?_; with_reducible apply keep_shedTo)
    | with_reducible apply keep_shedTo
    | (with_reducible refine Keeps.fst (by assumption) ?_; with_reducible apply keep_pseShrink)
    | with_reducible apply keep_pseShrink
    | with_reducible apply keep_pseRetry
    | (simp -proj only [keeps_mk]; with_reducible refine KeepsParts.of rfl ?_ ?_ ?_ ?_ ?_ ?_)
    | with_reducible exact fun i => i
    | (intro r hr; try dsimp only [id])
    | with_reducible assumption
    | with_reducible exact fun _ i => i
    | split
    | exact fun i => by simpa using i

theorem keep_specArbiterGet : SpecKeeps specArbiterGet := by
  intro z0 s r p h
  unfold specArbiterGet
  try dsimp only
  repeat' first
    | with_reducible exact h
    | with_reducible apply Keeps.ite
    | with_reducible apply ResultKeeps.checked
    | with_reducible apply ResultKeeps.ite
    | with_reducible exact ResultKeeps.fail
    | with_reducible apply ResultKeeps.doneMk
    | with_reducible apply ResultKeeps.failWith
    | with_reducible apply ResultKeeps.retry
    | with_reducible apply ResultKeeps.wait
    | (intro r hr; try dsimp only [id])
    | with_reducible assumption
    | split

theorem keep_specSupplySet : SpecKeeps specSupplySet := by
  intro z0 s r p h
  unfold specSupplySet
  try dsimp only
  repeat' first
    | with_reducible exact h
    | with_reducible apply ResultKeeps.checked
    | with_reducible apply ResultKeeps.ite
    | with_reducible exact ResultKeeps.fail
    | with_reducible apply ResultKeeps.doneMk
    | with_reducible apply ResultKeeps.failWith
    | with_reducible apply ResultKeeps.retry
    | with_reducible apply ResultKeeps.wait
    | with_reducible apply keep_State_modPow
    | (simp -proj only [keeps_mk]; with_reducible refine KeepsParts.of rfl ?_ ?_ ?_ ?_ ?_ ?_)
    | with_reducible exact fun i => i
    | (intro r hr; try dsimp only [id])
    | with_reducible assumption
    | with_reducible exact fun _ i => i
    | exact fun i => by simpa using i

theorem keep_execPowerStatusGet (r : Req) (s : State) : Goes s (execPowerStatusGet r s) := keep_command keep_specPowerStatusGet r s

theorem keep_execPowerStateSet (r : Req) (s : State) : Goes s (execPowerStateSet r s) := keep_command keep_specPowerStateSet r s

theorem keep_execWakeSet (r : Req) (s : State) : Goes s (execWakeSet r s) := keep_command keep_specWakeSet r s

theorem keep_execPoolSet (r : Req) (s : State) : Goes s (execPoolSet r s) := keep_command keep_specPoolSet r s

theorem keep_execArbiterGet (r : Req) (s : State) : Goes s (execArbiterGet r s) := keep_command keep_specArbiterGet r s

theorem keep_execSupplySet (r : Req) (s : State) : Goes s (execSupplySet r s) := keep_command keep_specSupplySet r s

end Sys2Proof.Machine
end

