-- ==== Sys2Proof/Laws/LifeRun.lean ====
section
/-! SUPPORT. Laws of Machine/LifeRun.lean: each operation keeps the queue of waiting commands and soundness; each meaning goes on. -/

namespace Sys2Proof.Machine

theorem keep_lifeTransition {z0 : State} (s : State) (target : Nat) (pub : List Byte) (h : Keeps z0 s) : Keeps z0 (lifeTransition s target pub) := by
  unfold lifeTransition
  try dsimp -proj only
  repeat' first
    | with_reducible exact h
    | with_reducible apply Keeps.ite
    | with_reducible apply keep_zeroizeMac
    | with_reducible apply keep_abortIsland
    | with_reducible apply keep_warmResetFree
    | with_reducible apply keep_State_modKeys
    | (simp -proj only [keeps_mk]; with_reducible refine KeepsParts.of rfl ?_ ?_ ?_ ?_ ?_ ?_)
    | with_reducible exact fun i => i
    | with_reducible assumption
    | with_reducible exact fun _ i => i
    | split
    | exact fun i => by simpa using i

theorem keep_specLifecycleSet : SpecKeeps specLifecycleSet := by
  intro z0 s r p h
  unfold specLifecycleSet
  try dsimp only
  repeat' first
    | with_reducible exact h
    | with_reducible apply Keeps.ite
    | with_reducible apply ResultKeeps.checked
    | with_reducible apply ResultKeeps.ite
    | with_reducible exact ResultKeeps.fail
    | with_reducible apply ResultKeeps.doneMk
    | with_reducible apply ResultKeeps.failWith
    | with_reducible apply ResultKeeps.retry
    | with_reducible apply ResultKeeps.wait
    | with_reducible apply keep_lifeTransition
    | (intro r hr; try dsimp only [id])
    | with_reducible assumption
    | split

theorem keep_raiseTamper {z0 : State} (s : State) (response : Nat) (h : Keeps z0 s) : Keeps z0 (raiseTamper s response) := by
  unfold raiseTamper
  try dsimp -proj only
  repeat' first
    | with_reducible exact h
    | with_reducible apply keep_raise
    | with_reducible assumption

theorem keep_setLatch {z0 : State} (s : State) (source : Nat) (h : Keeps z0 s) : Keeps z0 (setLatch s source) := by
  unfold setLatch
  try dsimp -proj only
  repeat' first
    | with_reducible exact h
    | with_reducible apply Keeps.ite
    | with_reducible apply keep_State_modKeys
    | (simp -proj only [keeps_mk]; with_reducible refine KeepsParts.of rfl ?_ ?_ ?_ ?_ ?_ ?_)
    | with_reducible exact fun i => i
    | with_reducible assumption
    | with_reducible exact fun _ i => i
    | split
    | exact fun i => by simpa using i

theorem keep_countEpisode {z0 : State} (s : State) (new : Bool) (h : Keeps z0 s) : Keeps z0 (countEpisode s new) := by
  unfold countEpisode
  try dsimp -proj only
  repeat' first
    | with_reducible exact h
    | with_reducible apply Keeps.ite
    | with_reducible apply keep_State_modKeys
    | (simp -proj only [keeps_mk]; with_reducible refine KeepsParts.of rfl ?_ ?_ ?_ ?_ ?_ ?_)
    | with_reducible exact fun i => i
    | with_reducible assumption
    | with_reducible exact fun _ i => i
    | split
    | exact fun i => by simpa using i

theorem keep_tamperResponse {z0 : State} (s : State) (new : Bool) (x : ExitInput) (h : Keeps z0 s) : Keeps z0 (tamperResponse s new x) := by
  unfold tamperResponse
  try dsimp -proj only
  repeat' first
    | with_reducible exact h
    | with_reducible apply Keeps.ite
    | with_reducible apply keep_raiseTamper
    | with_reducible apply keep_State_modKeys
    | with_reducible apply keep_wakeUp
    | with_reducible apply keep_countEpisode
    | with_reducible apply keep_zeroizeMac
    | with_reducible apply keep_abortSignings
    | with_reducible apply keep_abortIsland
    | with_reducible apply keep_startModule
    | with_reducible apply keep_flushLog
    | (simp -proj only [keeps_mk]; with_reducible refine KeepsParts.of rfl ?_ ?_ ?_ ?_ ?_ ?_)
    | with_reducible exact fun i => i
    | with_reducible assumption
    | with_reducible exact fun _ i => i
    | split
    | exact fun i => by simpa using i

theorem keep_execTamperLatch (source : Nat) (x : ExitInput) (s : State) : Goes s (execTamperLatch source x s) := by
  have h := Keeps.refl s
  unfold execTamperLatch
  try dsimp -proj only
  repeat' first
    | with_reducible exact h
    | with_reducible apply Keeps.ite
    | with_reducible apply Goes.ite
    | with_reducible apply Goes.next
    | with_reducible apply keep_tamperResponse
    | with_reducible apply keep_setLatch
    | (intro r hr; try dsimp -proj only)
    | with_reducible assumption
    | split

theorem keep_execLifecycleSet (r : Req) (s : State) : Goes s (execLifecycleSet r s) := keep_command keep_specLifecycleSet r s

end Sys2Proof.Machine
end

