-- ==== Sys2Proof/Laws/EventRun.lean ====
section
/-! SUPPORT. Laws of Machine/EventRun.lean: each operation keeps the queue of waiting commands and soundness; each meaning goes on. -/

namespace Sys2Proof.Machine

theorem keep_laterFrom {z0 : State} (s : State) (from_ n : Nat) (h : Keeps z0 s) : Keeps z0 (laterFrom s from_ n) := by
  unfold laterFrom
  try dsimp -proj only
  repeat' first
    | with_reducible exact h
    | with_reducible apply keep_State_later
    | with_reducible assumption

theorem keep_signal {z0 : State} (s : State) (q : Nat) (h : Keeps z0 s) : Keeps z0 (signal s q) := by
  unfold signal
  try dsimp -proj only
  repeat' first
    | with_reducible exact h
    | with_reducible apply Keeps.ite
    | with_reducible apply keep_raiseVec
    | with_reducible apply Keeps.modEq
    | (simp -proj only [keeps_mk]; with_reducible refine KeepsParts.of rfl ?_ ?_ ?_ ?_ ?_ ?_)
    | with_reducible exact fun i => i
    | with_reducible assumption
    | with_reducible exact fun _ i => i
    | split
    | exact fun i => by simpa using i

theorem keep_eqFault {z0 : State} (s : State) (q seq iova cause : Nat) (h : Keeps z0 s) : Keeps z0 (eqFault s q seq iova cause) := by
  unfold eqFault
  try dsimp -proj only
  repeat' first
    | with_reducible exact h
    | with_reducible apply keep_raise
    | with_reducible apply Keeps.modEq
    | (simp -proj only [keeps_mk]; with_reducible refine KeepsParts.of rfl ?_ ?_ ?_ ?_ ?_ ?_)
    | with_reducible exact fun i => i
    | with_reducible assumption
    | with_reducible exact fun _ i => i
    | exact fun i => by simpa using i

theorem keep_writeRecord {z0 : State} (s : State) (q seq : Nat) (r : EvRec) (h : Keeps z0 s) : Keeps z0 (writeRecord s q seq r) := by
  unfold writeRecord
  try dsimp -proj only
  repeat' first
    | with_reducible exact h
    | with_reducible apply Keeps.ite
    | with_reducible apply keep_writeHost
    | with_reducible apply keep_eqFault
    | with_reducible apply keep_signal
    | with_reducible apply Keeps.modEq
    | (simp -proj only [keeps_mk]; with_reducible refine KeepsParts.of rfl ?_ ?_ ?_ ?_ ?_ ?_)
    | with_reducible exact fun i => i
    | with_reducible assumption
    | with_reducible exact fun _ i => i
    | split
    | exact fun i => by simpa using i

theorem keep_logOverflow {z0 : State} (s : State) (r : EvRec) (seq : Nat) (h : Keeps z0 s) : Keeps z0 (logOverflow s r seq) := by
  unfold logOverflow
  try dsimp -proj only
  repeat' first
    | with_reducible exact h
    | with_reducible apply Keeps.ite
    | with_reducible apply keep_logPut
    | with_reducible assumption
    | split

theorem keep_loseRecord {z0 : State} (s : State) (q seq : Nat) (h : Keeps z0 s) : Keeps z0 (loseRecord s q seq) := by
  unfold loseRecord
  try dsimp -proj only
  repeat' first
    | with_reducible exact h
    | with_reducible apply Keeps.ite
    | with_reducible apply keep_logOverflow
    | with_reducible apply keep_writeRecord
    | with_reducible apply Keeps.modEq
    | (simp -proj only [keeps_mk]; with_reducible refine KeepsParts.of rfl ?_ ?_ ?_ ?_ ?_ ?_)
    | with_reducible exact fun i => i
    | with_reducible assumption
    | with_reducible exact fun _ i => i
    | split
    | exact fun i => by simpa using i

theorem keep_execEventRecordWrite (q : Nat) (s : State) : Goes s (execEventRecordWrite q s) := by
  have h := Keeps.refl s
  unfold execEventRecordWrite
  try dsimp -proj only
  repeat' first
    | with_reducible exact h
    | with_reducible apply Keeps.ite
    | with_reducible apply Goes.ite
    | with_reducible apply Goes.next
    | with_reducible apply keep_writeRecord
    | with_reducible apply keep_loseRecord
    | with_reducible apply Keeps.modEq
    | (simp -proj only [keeps_mk]; with_reducible refine KeepsParts.of rfl ?_ ?_ ?_ ?_ ?_ ?_)
    | with_reducible exact fun i => i
    | (intro r hr; try dsimp -proj only)
    | with_reducible assumption
    | with_reducible exact fun _ i => i
    | split
    | exact fun i => by simpa using i

theorem keep_execEqCoalesceTimeout (q : Nat) (s : State) : Goes s (execEqCoalesceTimeout q s) := by
  have h := Keeps.refl s
  unfold execEqCoalesceTimeout
  try dsimp -proj only
  repeat' first
    | with_reducible exact h
    | with_reducible apply Keeps.ite
    | with_reducible apply Goes.ite
    | with_reducible apply Goes.next
    | with_reducible apply keep_signal
    | with_reducible apply keep_laterFrom
    | (intro r hr; try dsimp -proj only)
    | with_reducible assumption
    | split

theorem keep_enableEq {z0 : State} (s : State) (q : Nat) (h : Keeps z0 s) : Keeps z0 (enableEq s q) := by
  unfold enableEq
  try dsimp -proj only
  repeat' first
    | with_reducible exact h
    | with_reducible apply keep_deliver
    | with_reducible apply Keeps.modEq
    | with_reducible apply Keeps.modHost
    | (simp -proj only [keeps_mk]; with_reducible refine KeepsParts.of rfl ?_ ?_ ?_ ?_ ?_ ?_)
    | with_reducible exact fun i => i
    | with_reducible exact fun i => InvHost.mk i.1 i.2 i.3
    | with_reducible apply Keeps.foldl
    | (intro r x hr; try dsimp -proj only)
    | with_reducible assumption
    | with_reducible exact fun _ i => i
    | exact fun i => keepHost i (by simp [i.1]) (by simp [i.2]) (by simp [i.3])
    | exact fun i => by simpa using i

theorem keep_disableEq {z0 : State} (s : State) (q : Nat) (h : Keeps z0 s) : Keeps z0 (disableEq s q) := by
  unfold disableEq
  try dsimp -proj only
  repeat' first
    | with_reducible exact h
    | with_reducible apply Keeps.modEq
    | (simp -proj only [keeps_mk]; with_reducible refine KeepsParts.of rfl ?_ ?_ ?_ ?_ ?_ ?_)
    | with_reducible exact fun i => i
    | with_reducible assumption
    | with_reducible exact fun _ i => i
    | exact fun i => by simpa using i

theorem keep_writeEqCtrl {z0 : State} (s : State) (q v : Nat) (h : Keeps z0 s) : Keeps z0 (writeEqCtrl s q v) := by
  unfold writeEqCtrl
  try dsimp -proj only
  repeat' first
    | with_reducible exact h
    | with_reducible apply Keeps.ite
    | with_reducible apply keep_disableEq
    | with_reducible apply keep_enableEq
    | with_reducible apply keep_signal
    | with_reducible apply Keeps.modEq
    | (simp -proj only [keeps_mk]; with_reducible refine KeepsParts.of rfl ?_ ?_ ?_ ?_ ?_ ?_)
    | with_reducible exact fun i => i
    | with_reducible assumption
    | with_reducible exact fun _ i => i
    | split
    | exact fun i => by simpa using i

theorem keep_writeEqHead {z0 : State} (s : State) (q v : Nat) (h : Keeps z0 s) : Keeps z0 (writeEqHead s q v) := by
  unfold writeEqHead
  try dsimp -proj only
  repeat' first
    | with_reducible exact h
    | with_reducible apply Keeps.ite
    | with_reducible apply keep_signal
    | with_reducible apply Keeps.modEq
    | (simp -proj only [keeps_mk]; with_reducible refine KeepsParts.of rfl ?_ ?_ ?_ ?_ ?_ ?_)
    | with_reducible exact fun i => i
    | with_reducible assumption
    | with_reducible exact fun _ i => i
    | split
    | exact fun i => by simpa using i

theorem keep_writeEqStatus {z0 : State} (s : State) (q v : Nat) (h : Keeps z0 s) : Keeps z0 (writeEqStatus s q v) := by
  unfold writeEqStatus
  try dsimp -proj only
  repeat' first
    | with_reducible exact h
    | with_reducible apply Keeps.ite
    | with_reducible apply Keeps.modEq
    | (simp -proj only [keeps_mk]; with_reducible refine KeepsParts.of rfl ?_ ?_ ?_ ?_ ?_ ?_)
    | with_reducible exact fun i => i
    | with_reducible assumption
    | with_reducible exact fun _ i => i
    | split
    | exact fun i => by simpa using i

theorem keep_writeEqCfg {z0 : State} (s : State) (q reg v : Nat) (h : Keeps z0 s) : Keeps z0 (writeEqCfg s q reg v) := by
  unfold writeEqCfg
  try dsimp -proj only
  repeat' first
    | with_reducible exact h
    | with_reducible apply Keeps.ite
    | with_reducible apply Keeps.modEq
    | (simp -proj only [keeps_mk]; with_reducible refine KeepsParts.of rfl ?_ ?_ ?_ ?_ ?_ ?_)
    | with_reducible exact fun i => i
    | with_reducible assumption
    | with_reducible exact fun _ i => i
    | split
    | exact fun i => by simpa using i

theorem keep_writeEqCoal {z0 : State} (s : State) (q v : Nat) (h : Keeps z0 s) : Keeps z0 (writeEqCoal s q v) := by
  unfold writeEqCoal
  try dsimp -proj only
  repeat' first
    | with_reducible exact h
    | with_reducible apply keep_signal
    | with_reducible apply Keeps.modEq
    | (simp -proj only [keeps_mk]; with_reducible refine KeepsParts.of rfl ?_ ?_ ?_ ?_ ?_ ?_)
    | with_reducible exact fun i => i
    | with_reducible assumption
    | with_reducible exact fun _ i => i
    | exact fun i => by simpa using i

theorem keep_writeEq {z0 : State} (s : State) (q off v : Nat) (h : Keeps z0 s) : Keeps z0 (writeEq s q off v) := by
  unfold writeEq
  try dsimp -proj only
  repeat' first
    | with_reducible exact h
    | with_reducible apply keep_writeEqCfg
    | with_reducible apply keep_writeEqHead
    | with_reducible apply keep_writeEqCtrl
    | with_reducible apply keep_writeEqCoal
    | with_reducible apply keep_writeEqStatus
    | (simp -proj only [keeps_mk]; with_reducible refine KeepsParts.of rfl ?_ ?_ ?_ ?_ ?_ ?_)
    | with_reducible exact fun i => i
    | with_reducible assumption
    | with_reducible exact fun _ i => i
    | split
    | exact fun i => by simpa using i

theorem keep_execEqEnable (q v : Nat) (s : State) : Goes s (execEqEnable q v s) := by
  have h := Keeps.refl s
  unfold execEqEnable
  try dsimp -proj only
  repeat' first
    | with_reducible exact h
    | with_reducible apply Keeps.ite
    | with_reducible apply Goes.ite
    | with_reducible apply Goes.next
    | with_reducible apply keep_writeEqCtrl
    | (simp -proj only [keeps_mk]; with_reducible refine KeepsParts.of rfl ?_ ?_ ?_ ?_ ?_ ?_)
    | with_reducible exact fun i => i
    | (intro r hr; try dsimp -proj only)
    | with_reducible assumption
    | with_reducible exact fun _ i => i
    | split
    | exact fun i => by simpa using i

theorem keep_execEqHeadWrite (q v : Nat) (s : State) : Goes s (execEqHeadWrite q v s) := by
  have h := Keeps.refl s
  unfold execEqHeadWrite
  try dsimp -proj only
  repeat' first
    | with_reducible exact h
    | with_reducible apply Keeps.ite
    | with_reducible apply Goes.ite
    | with_reducible apply Goes.next
    | with_reducible apply keep_writeEqHead
    | (intro r hr; try dsimp -proj only)
    | with_reducible assumption
    | split

theorem keep_execEqStatusClear (q v : Nat) (s : State) : Goes s (execEqStatusClear q v s) := by
  have h := Keeps.refl s
  unfold execEqStatusClear
  try dsimp -proj only
  repeat' first
    | with_reducible exact h
    | with_reducible apply Keeps.ite
    | with_reducible apply Goes.ite
    | with_reducible apply Goes.next
    | with_reducible apply keep_writeEqStatus
    | (intro r hr; try dsimp -proj only)
    | with_reducible assumption
    | split

end Sys2Proof.Machine
end

