-- ==== Sys2Proof/Laws/RingRun.lean ====
section
/-! SUPPORT. Laws of Machine/RingRun.lean: each operation keeps the queue of waiting commands and soundness; each meaning goes on. -/

namespace Sys2Proof.Machine

theorem keep_park {z0 : State} (s : State) (k idx iova : Nat) (wr : Bool) (access cause : Nat) (h : Keeps z0 s) : Keeps z0 (park s k idx iova wr access cause) := by
  unfold park
  try dsimp -proj only
  repeat' first
    | with_reducible exact h
    | with_reducible apply keep_raise
    | with_reducible apply Keeps.modRing
    | (simp -proj only [keeps_mk]; with_reducible refine KeepsParts.of rfl ?_ ?_ ?_ ?_ ?_ ?_)
    | with_reducible exact fun i => i
    | with_reducible assumption
    | with_reducible exact fun _ i => i
    | exact fun i => by simpa using i

theorem keep_ringRead {z0 : State} (s : State) (k iova n access : Nat) (err : Option ReadErr) (h : Keeps z0 s) : Keeps z0 (ringRead s k iova n access err).st := by
  unfold ringRead
  try dsimp -proj only
  repeat' first
    | with_reducible exact h
    | with_reducible apply keep_countFault
    | with_reducible apply keep_readHost
    | (simp -proj only [keeps_mk]; with_reducible refine KeepsParts.of rfl ?_ ?_ ?_ ?_ ?_ ?_)
    | with_reducible exact fun i => i
    | with_reducible assumption
    | with_reducible exact fun _ i => i
    | split
    | exact fun i => by simpa using i

theorem keep_ringWrite {z0 : State} (s : State) (k iova : Nat) (p : List Byte) (access : Nat) (err : Option ReadErr) (h : Keeps z0 s) : Keeps z0 (ringWrite s k iova p access err).st := by
  unfold ringWrite
  try dsimp -proj only
  repeat' first
    | with_reducible exact h
    | with_reducible apply keep_countFault
    | with_reducible apply keep_writeHost
    | (simp -proj only [keeps_mk]; with_reducible refine KeepsParts.of rfl ?_ ?_ ?_ ?_ ?_ ?_)
    | with_reducible exact fun i => i
    | with_reducible assumption
    | with_reducible exact fun _ i => i
    | split
    | exact fun i => by simpa using i

theorem keep_writeBack {z0 : State} (s : State) (k : Nat) (err : Option ReadErr) (h : Keeps z0 s) : Keeps z0 (writeBack s k err) := by
  unfold writeBack
  try dsimp -proj only
  repeat' first
    | with_reducible exact h
    | with_reducible apply Keeps.ite
    | with_reducible apply keep_ringWrite
    | with_reducible apply keep_raiseVec
    | with_reducible apply keep_park
    | with_reducible apply keep_fp12Drop
    | with_reducible apply keep_finishCopy
    | with_reducible apply Keeps.modRing
    | (simp -proj only [keeps_mk]; with_reducible refine KeepsParts.of rfl ?_ ?_ ?_ ?_ ?_ ?_)
    | with_reducible exact fun i => i
    | with_reducible assumption
    | with_reducible exact fun _ i => i
    | split
    | exact fun i => by simpa using i

theorem keep_flushBacks {z0 : State}  (x1 : Nat) (s : State) (x2 : Nat) (x3 : Option ReadErr) (h : Keeps z0 s) : Keeps z0 (flushBacks x1 s x2 x3) := by
  induction x1 generalizing s x2 x3 with
  | zero => exact h
  | succ n ih =>
    unfold flushBacks
    try dsimp -proj only
    repeat' first
      | with_reducible exact h
      | with_reducible apply Keeps.ite
      | with_reducible apply ih
      | with_reducible apply keep_writeBack
      | with_reducible assumption
      | split

theorem keep_flushAll {z0 : State} (s : State) (k : Nat) (err : Option ReadErr) (h : Keeps z0 s) : Keeps z0 (flushAll s k err) := by
  unfold flushAll
  try dsimp -proj only
  repeat' first
    | with_reducible exact h
    | with_reducible apply keep_flushBacks
    | with_reducible assumption

theorem keep_endTx {z0 : State} (s : State) (k status ts : Nat) (h : Keeps z0 s) : Keeps z0 (endTx s k status ts) := by
  unfold endTx
  try dsimp -proj only
  repeat' first
    | with_reducible exact h
    | with_reducible apply Keeps.modRing
    | (simp -proj only [keeps_mk]; with_reducible refine KeepsParts.of rfl ?_ ?_ ?_ ?_ ?_ ?_)
    | with_reducible exact fun i => i
    | with_reducible assumption
    | with_reducible exact fun _ i => i
    | split
    | exact fun i => by simpa using i

theorem keep_txAdvance {z0 : State}  (x1 : Nat) (s : State) (x2 : Nat) (x3 : Option ReadErr) (h : Keeps z0 s) : Keeps z0 (txAdvance x1 s x2 x3) := by
  induction x1 generalizing s x2 x3 with
  | zero => exact h
  | succ n ih =>
    unfold txAdvance
    try dsimp -proj only
    repeat' first
      | with_reducible exact h
      | with_reducible apply Keeps.ite
      | with_reducible apply ih
      | with_reducible apply keep_flushAll
      | with_reducible apply keep_endTx
      | with_reducible apply Keeps.modRing
      | (simp -proj only [keeps_mk]; with_reducible refine KeepsParts.of rfl ?_ ?_ ?_ ?_ ?_ ?_)
      | with_reducible exact fun i => i
      | with_reducible assumption
      | with_reducible exact fun _ i => i
      | split
      | exact fun i => by simpa using i

theorem keep_txRun {z0 : State} (s : State) (k : Nat) (err : Option ReadErr) (h : Keeps z0 s) : Keeps z0 (txRun s k err) := by
  unfold txRun
  try dsimp -proj only
  repeat' first
    | with_reducible exact h
    | with_reducible apply keep_txAdvance
    | with_reducible assumption

theorem keep_refetch {z0 : State} (s : State) (k idx : Nat) (h : Keeps z0 s) : Keeps z0 (refetch s k idx) := by
  unfold refetch
  try dsimp -proj only
  repeat' first
    | with_reducible exact h
    | with_reducible apply Keeps.modRing
    | (simp -proj only [keeps_mk]; with_reducible refine KeepsParts.of rfl ?_ ?_ ?_ ?_ ?_ ?_)
    | with_reducible exact fun i => i
    | with_reducible assumption
    | with_reducible exact fun _ i => i
    | exact fun i => by simpa using i

theorem keep_txFetch {z0 : State} (s : State) (k : Nat) (err : Option ReadErr) (h : Keeps z0 s) : Keeps z0 (txFetch s k err) := by
  unfold txFetch
  try dsimp -proj only
  repeat' first
    | with_reducible exact h
    | with_reducible apply Keeps.ite
    | with_reducible apply keep_ringRead
    | with_reducible apply keep_park
    | with_reducible apply keep_txRun
    | with_reducible apply Keeps.modRing
    | (simp -proj only [keeps_mk]; with_reducible refine KeepsParts.of rfl ?_ ?_ ?_ ?_ ?_ ?_)
    | with_reducible exact fun i => i
    | with_reducible assumption
    | with_reducible exact fun _ i => i
    | split
    | exact fun i => by simpa using i

theorem keep_readChain {z0 : State} (k : Nat) (err : Option ReadErr) (x1 : List TxDesc) (s : State) (x2 : Nat) (h : Keeps z0 s) : Keeps z0 (readChain k err x1 s x2).st := by
  induction x1 generalizing s x2 with
  | nil => exact h
  | cons y ys ih =>
    unfold readChain
    try dsimp -proj only
    repeat' first
      | with_reducible exact h
      | with_reducible apply ih
      | with_reducible apply keep_ringRead
      | (simp -proj only [keeps_mk]; with_reducible refine KeepsParts.of rfl ?_ ?_ ?_ ?_ ?_ ?_)
      | with_reducible exact fun i => i
      | with_reducible assumption
      | with_reducible exact fun _ i => i
      | split
      | exact fun i => by simpa using i

theorem keep_txData {z0 : State} (s : State) (k : Nat) (err : Option ReadErr) (h : Keeps z0 s) : Keeps z0 (txData s k err) := by
  unfold txData
  try dsimp -proj only
  repeat' first
    | with_reducible exact h
    | with_reducible apply Keeps.ite
    | with_reducible apply keep_readChain
    | with_reducible apply keep_park
    | with_reducible apply keep_refetch
    | with_reducible apply Keeps.modRing
    | (simp -proj only [keeps_mk]; with_reducible refine KeepsParts.of rfl ?_ ?_ ?_ ?_ ?_ ?_)
    | with_reducible exact fun i => i
    | with_reducible assumption
    | with_reducible exact fun _ i => i
    | split
    | exact fun i => by simpa using i

theorem keep_txAccept {z0 : State} (s : State) (k : Nat) (err : Option ReadErr) (h : Keeps z0 s) : Keeps z0 (txAccept s k err) := by
  unfold txAccept
  try dsimp -proj only
  repeat' first
    | with_reducible exact h
    | with_reducible apply Keeps.ite
    | with_reducible apply keep_txRun
    | with_reducible apply keep_endTx
    | (with_reducible refine Keeps.fst (by assumption) ?_; with_reducible apply keep_enterPipeline)
    | with_reducible apply keep_enterPipeline
    | (simp -proj only [keeps_mk]; with_reducible refine KeepsParts.of rfl ?_ ?_ ?_ ?_ ?_ ?_)
    | with_reducible exact fun i => i
    | with_reducible assumption
    | with_reducible exact fun _ i => i
    | split
    | exact fun i => by simpa using i

theorem keep_execTxDescriptorFetched (k : Nat) (s : State) : Goes s (execTxDescriptorFetched k s) := by
  have h := Keeps.refl s
  unfold execTxDescriptorFetched
  try dsimp -proj only
  repeat' first
    | with_reducible exact h
    | with_reducible apply Keeps.ite
    | with_reducible apply Goes.ite
    | with_reducible apply Goes.next
    | with_reducible apply keep_txFetch
    | (intro r hr; try dsimp -proj only)
    | with_reducible assumption
    | split

theorem keep_execTxFrameAccepted (k : Nat) (s : State) : Goes s (execTxFrameAccepted k s) := by
  have h := Keeps.refl s
  unfold execTxFrameAccepted
  try dsimp -proj only
  repeat' first
    | with_reducible exact h
    | with_reducible apply Keeps.ite
    | with_reducible apply Goes.ite
    | with_reducible apply Goes.next
    | with_reducible apply keep_txAccept
    | (intro r hr; try dsimp -proj only)
    | with_reducible assumption
    | split

theorem keep_execLaunchTimeReached (k : Nat) (s : State) : Goes s (execLaunchTimeReached k s) := by
  have h := Keeps.refl s
  unfold execLaunchTimeReached
  try dsimp -proj only
  repeat' first
    | with_reducible exact h
    | with_reducible apply Keeps.ite
    | with_reducible apply Goes.ite
    | with_reducible apply Goes.next
    | with_reducible apply keep_txAccept
    | with_reducible apply keep_State_until
    | (simp -proj only [keeps_mk]; with_reducible refine KeepsParts.of rfl ?_ ?_ ?_ ?_ ?_ ?_)
    | with_reducible exact fun i => i
    | (intro r hr; try dsimp -proj only)
    | with_reducible assumption
    | with_reducible exact fun _ i => i
    | split
    | exact fun i => by simpa using i

theorem keep_rxFetch {z0 : State} (s : State) (k : Nat) (err : Option ReadErr) (h : Keeps z0 s) : Keeps z0 (rxFetch s k err) := by
  unfold rxFetch
  try dsimp -proj only
  repeat' first
    | with_reducible exact h
    | with_reducible apply Keeps.ite
    | with_reducible apply keep_ringRead
    | with_reducible apply keep_park
    | with_reducible apply Keeps.modRing
    | (simp -proj only [keeps_mk]; with_reducible refine KeepsParts.of rfl ?_ ?_ ?_ ?_ ?_ ?_)
    | with_reducible exact fun i => i
    | with_reducible assumption
    | with_reducible exact fun _ i => i
    | split
    | exact fun i => by simpa using i

theorem keep_writeBuffers {z0 : State} (k : Nat) (err : Option ReadErr) (ds : List (RxDesc × Option Nat)) (p : List Byte) (s : State)
    (h : Keeps z0 s) : Keeps z0 (writeBuffers k err ds p s).st := by
  induction ds generalizing err p s with
  | nil => exact h
  | cons y ys ih =>
    obtain ⟨d, o⟩ := y
    cases o with
    | none => exact ih _ _ _ h
    | some n =>
      have hw := keep_ringWrite s k d.addr (p.take n) 2 err h
      unfold writeBuffers
      dsimp -proj only
      split
      · exact hw
      · exact ih _ _ _ hw
theorem keep_rxBegin {z0 : State} (s : State) (k : Nat) (err : Option ReadErr) (h : Keeps z0 s) : Keeps z0 (rxBegin s k err) := by
  unfold rxBegin
  try dsimp -proj only
  repeat' first
    | with_reducible exact h
    | with_reducible apply Keeps.ite
    | with_reducible apply keep_writeBuffers
    | with_reducible apply keep_park
    | with_reducible apply keep_modTransit
    | with_reducible apply keep_perfCount
    | with_reducible apply keep_countedOut
    | with_reducible apply Keeps.modRing
    | (simp -proj only [keeps_mk]; with_reducible refine KeepsParts.of rfl ?_ ?_ ?_ ?_ ?_ ?_)
    | with_reducible exact fun i => i
    | with_reducible assumption
    | with_reducible exact fun _ i => i
    | split
    | exact fun i => by simpa using i

theorem keep_rxDone {z0 : State} (s : State) (k : Nat) (x : RxCur) (status : Nat) (h : Keeps z0 s) : Keeps z0 (rxDone s k x status) := by
  unfold rxDone
  try dsimp -proj only
  repeat' first
    | with_reducible exact h
    | with_reducible apply Keeps.ite
    | with_reducible apply keep_raiseVec
    | with_reducible apply keep_perfCount
    | with_reducible apply keep_bwCount
    | with_reducible apply keep_egrCount
    | with_reducible apply keep_finishCopy
    | with_reducible apply Keeps.modRing
    | (simp -proj only [keeps_mk]; with_reducible refine KeepsParts.of rfl ?_ ?_ ?_ ?_ ?_ ?_)
    | with_reducible exact fun i => i
    | with_reducible assumption
    | with_reducible exact fun _ i => i
    | split
    | exact fun i => by simpa using i

theorem keep_rxEnd {z0 : State} (s : State) (k : Nat) (err : Option ReadErr) (h : Keeps z0 s) : Keeps z0 (rxEnd s k err) := by
  unfold rxEnd
  try dsimp -proj only
  repeat' first
    | with_reducible exact h
    | with_reducible apply Keeps.ite
    | with_reducible apply keep_finish
    | with_reducible apply keep_flushAll
    | with_reducible apply keep_rxDone
    | with_reducible apply Keeps.modRing
    | (simp -proj only [keeps_mk]; with_reducible refine KeepsParts.of rfl ?_ ?_ ?_ ?_ ?_ ?_)
    | with_reducible exact fun i => i
    | with_reducible assumption
    | with_reducible exact fun _ i => i
    | split
    | exact fun i => by simpa using i

theorem keep_rxRun {z0 : State} (s : State) (k : Nat) (err : Option ReadErr) (h : Keeps z0 s) : Keeps z0 (rxRun s k err) := by
  unfold rxRun
  try dsimp -proj only
  repeat' first
    | with_reducible exact h
    | with_reducible apply Keeps.ite
    | with_reducible apply keep_rxEnd
    | with_reducible apply keep_rxBegin
    | with_reducible assumption
    | split

theorem keep_execRxDescriptorFetched (k : Nat) (s : State) : Goes s (execRxDescriptorFetched k s) := by
  have h := Keeps.refl s
  unfold execRxDescriptorFetched
  try dsimp -proj only
  repeat' first
    | with_reducible exact h
    | with_reducible apply Keeps.ite
    | with_reducible apply Goes.ite
    | with_reducible apply Goes.next
    | with_reducible apply keep_rxFetch
    | (intro r hr; try dsimp -proj only)
    | with_reducible assumption
    | split

theorem keep_execRxFrameDelivery (k : Nat) (s : State) : Goes s (execRxFrameDelivery k s) := by
  have h := Keeps.refl s
  unfold execRxFrameDelivery
  try dsimp -proj only
  repeat' first
    | with_reducible exact h
    | with_reducible apply Keeps.ite
    | with_reducible apply Goes.ite
    | with_reducible apply Goes.next
    | with_reducible apply keep_rxRun
    | (intro r hr; try dsimp -proj only)
    | with_reducible assumption
    | split

theorem keep_ringError {z0 : State} (s : State) (k : Nat) (e : ReadErr) (h : Keeps z0 s) : Keeps z0 (ringError s k e) := by
  unfold ringError
  try dsimp -proj only
  repeat' first
    | with_reducible exact h
    | with_reducible apply Keeps.ite
    | with_reducible apply keep_txFetch
    | with_reducible apply keep_rxFetch
    | with_reducible apply keep_txData
    | with_reducible apply keep_rxBegin
    | with_reducible apply keep_txRun
    | with_reducible apply keep_txAccept
    | with_reducible apply keep_rxRun
    | (simp -proj only [keeps_mk]; with_reducible refine KeepsParts.of rfl ?_ ?_ ?_ ?_ ?_ ?_)
    | with_reducible exact fun i => i
    | with_reducible assumption
    | with_reducible exact fun _ i => i
    | split
    | exact fun i => by simpa using i

theorem keep_queueError {z0 : State} (s : State) (q : Nat) (h : Keeps z0 s) : Keeps z0 (queueError s q) := by
  unfold queueError
  try dsimp -proj only
  repeat' first
    | with_reducible exact h
    | with_reducible apply Keeps.ite
    | with_reducible apply keep_eqFault
    | with_reducible apply keep_countFault
    | with_reducible apply Keeps.modEq
    | (simp -proj only [keeps_mk]; with_reducible refine KeepsParts.of rfl ?_ ?_ ?_ ?_ ?_ ?_)
    | with_reducible exact fun i => i
    | with_reducible assumption
    | with_reducible exact fun _ i => i
    | split
    | exact fun i => by simpa using i

theorem keep_readFails {z0 : State} (s : State) (t : DmaTarget) (table : Bool) (h : Keeps z0 s) : Keeps z0 (readFails s t table) := by
  unfold readFails
  try dsimp -proj only
  repeat' first
    | with_reducible exact h
    | with_reducible apply Keeps.ite
    | with_reducible apply keep_ringError
    | with_reducible apply keep_queueError
    | (simp -proj only [keeps_mk]; with_reducible refine KeepsParts.of rfl ?_ ?_ ?_ ?_ ?_ ?_)
    | with_reducible exact fun i => i
    | with_reducible exact fun i => InvDma.mk i.1 i.2
    | with_reducible assumption
    | with_reducible exact fun _ i => i
    | split
    | exact fun i => keepDma i (by simp [i.1]) (by simp [i.2])
    | exact fun i => by simpa using i

theorem keep_execDmaReadCompletion (t : DmaTarget) (table good : Bool) (s : State) : Goes s (execDmaReadCompletion t table good s) := by
  have h := Keeps.refl s
  unfold execDmaReadCompletion
  try dsimp -proj only
  repeat' first
    | with_reducible exact h
    | with_reducible apply Keeps.ite
    | with_reducible apply Goes.ite
    | with_reducible apply Goes.next
    | with_reducible apply keep_txData
    | with_reducible apply keep_readFails
    | (simp -proj only [keeps_mk]; with_reducible refine KeepsParts.of rfl ?_ ?_ ?_ ?_ ?_ ?_)
    | with_reducible exact fun i => i
    | (intro r hr; try dsimp -proj only)
    | with_reducible assumption
    | with_reducible exact fun _ i => i
    | split
    | exact fun i => by simpa using i

theorem keep_execDmaCompletionTimeout (t : DmaTarget) (table : Bool) (s : State) : Goes s (execDmaCompletionTimeout t table s) := by
  have h := Keeps.refl s
  unfold execDmaCompletionTimeout
  try dsimp -proj only
  repeat' first
    | with_reducible exact h
    | with_reducible apply Keeps.ite
    | with_reducible apply Goes.ite
    | with_reducible apply Goes.next
    | with_reducible apply keep_readFails
    | (intro r hr; try dsimp -proj only)
    | with_reducible assumption
    | split

theorem keep_enableRing {z0 : State} (s : State) (k : Nat) (h : Keeps z0 s) : Keeps z0 (enableRing s k) := by
  unfold enableRing
  try dsimp -proj only
  repeat' first
    | with_reducible exact h
    | with_reducible apply Keeps.ite
    | with_reducible apply keep_finishCopy
    | with_reducible apply Keeps.modRing
    | with_reducible apply Keeps.modHost
    | (simp -proj only [keeps_mk]; with_reducible refine KeepsParts.of rfl ?_ ?_ ?_ ?_ ?_ ?_)
    | with_reducible exact fun i => i
    | with_reducible exact fun i => InvHost.mk i.1 i.2 i.3
    | with_reducible assumption
    | with_reducible exact fun _ i => i
    | split
    | exact fun i => keepHost i (by simp [i.1]) (by simp [i.2]) (by simp [i.3])
    | exact fun i => by simpa using i

theorem keep_dropHeld {z0 : State} (s : State) (k : Nat) (h : Keeps z0 s) : Keeps z0 (dropHeld s k) := by
  unfold dropHeld
  try dsimp -proj only
  repeat' first
    | with_reducible exact h
    | with_reducible apply keep_finishCopy
    | with_reducible apply Keeps.modRing
    | (simp -proj only [keeps_mk]; with_reducible refine KeepsParts.of rfl ?_ ?_ ?_ ?_ ?_ ?_)
    | with_reducible exact fun i => i
    | with_reducible apply Keeps.foldl
    | (intro r x hr; try dsimp -proj only)
    | with_reducible assumption
    | with_reducible exact fun _ i => i
    | exact fun i => by simpa using i

theorem keep_disableRing {z0 : State} (s : State) (k : Nat) (h : Keeps z0 s) : Keeps z0 (disableRing s k) := by
  unfold disableRing
  try dsimp -proj only
  repeat' first
    | with_reducible exact h
    | with_reducible apply Keeps.ite
    | with_reducible apply keep_dropHeld
    | with_reducible apply keep_txRun
    | with_reducible apply keep_rxEnd
    | with_reducible apply keep_breakLocks
    | with_reducible apply Keeps.modRing
    | (simp -proj only [keeps_mk]; with_reducible refine KeepsParts.of rfl ?_ ?_ ?_ ?_ ?_ ?_)
    | with_reducible exact fun i => i
    | with_reducible assumption
    | with_reducible exact fun _ i => i
    | split
    | exact fun i => by simpa using i

theorem keep_writeRingCtrl {z0 : State} (s : State) (k v : Nat) (h : Keeps z0 s) : Keeps z0 (writeRingCtrl s k v) := by
  unfold writeRingCtrl
  try dsimp -proj only
  repeat' first
    | with_reducible exact h
    | with_reducible apply Keeps.ite
    | with_reducible apply keep_disableRing
    | with_reducible apply keep_enableRing
    | with_reducible apply Keeps.modRing
    | (simp -proj only [keeps_mk]; with_reducible refine KeepsParts.of rfl ?_ ?_ ?_ ?_ ?_ ?_)
    | with_reducible exact fun i => i
    | with_reducible assumption
    | with_reducible exact fun _ i => i
    | split
    | exact fun i => by simpa using i

theorem keep_writeRingTail {z0 : State} (s : State) (k v : Nat) (h : Keeps z0 s) : Keeps z0 (writeRingTail s k v) := by
  unfold writeRingTail
  try dsimp -proj only
  repeat' first
    | with_reducible exact h
    | with_reducible apply Keeps.modRing
    | (simp -proj only [keeps_mk]; with_reducible refine KeepsParts.of rfl ?_ ?_ ?_ ?_ ?_ ?_)
    | with_reducible exact fun i => i
    | with_reducible assumption
    | with_reducible exact fun _ i => i
    | exact fun i => by simpa using i

theorem keep_writeRingResume {z0 : State} (s : State) (k v : Nat) (h : Keeps z0 s) : Keeps z0 (writeRingResume s k v) := by
  unfold writeRingResume
  try dsimp -proj only
  repeat' first
    | with_reducible exact h
    | with_reducible apply Keeps.ite
    | with_reducible apply keep_txRun
    | with_reducible apply keep_txFetch
    | with_reducible apply keep_rxRun
    | with_reducible apply keep_rxFetch
    | with_reducible apply Keeps.modRing
    | (simp -proj only [keeps_mk]; with_reducible refine KeepsParts.of rfl ?_ ?_ ?_ ?_ ?_ ?_)
    | with_reducible exact fun i => i
    | with_reducible assumption
    | with_reducible exact fun _ i => i
    | split
    | exact fun i => by simpa using i

theorem keep_writeRingCfg {z0 : State} (s : State) (k reg v : Nat) (h : Keeps z0 s) : Keeps z0 (writeRingCfg s k reg v) := by
  unfold writeRingCfg
  try dsimp -proj only
  repeat' first
    | with_reducible exact h
    | with_reducible apply Keeps.ite
    | with_reducible apply Keeps.modRing
    | (simp -proj only [keeps_mk]; with_reducible refine KeepsParts.of rfl ?_ ?_ ?_ ?_ ?_ ?_)
    | with_reducible exact fun i => i
    | with_reducible assumption
    | with_reducible exact fun _ i => i
    | split
    | exact fun i => by simpa using i

theorem keep_writeRing {z0 : State} (s : State) (k off v : Nat) (h : Keeps z0 s) : Keeps z0 (writeRing s k off v) := by
  unfold writeRing
  try dsimp -proj only
  repeat' first
    | with_reducible exact h
    | with_reducible apply keep_writeRingCfg
    | with_reducible apply keep_writeRingTail
    | with_reducible apply keep_writeRingCtrl
    | with_reducible apply keep_writeRingResume
    | (simp -proj only [keeps_mk]; with_reducible refine KeepsParts.of rfl ?_ ?_ ?_ ?_ ?_ ?_)
    | with_reducible exact fun i => i
    | with_reducible assumption
    | with_reducible exact fun _ i => i
    | split
    | exact fun i => by simpa using i

theorem keep_execRingEnable (k v : Nat) (s : State) : Goes s (execRingEnable k v s) := by
  have h := Keeps.refl s
  unfold execRingEnable
  try dsimp -proj only
  repeat' first
    | with_reducible exact h
    | with_reducible apply Keeps.ite
    | with_reducible apply Goes.ite
    | with_reducible apply Goes.next
    | with_reducible apply keep_writeRingCtrl
    | (simp -proj only [keeps_mk]; with_reducible refine KeepsParts.of rfl ?_ ?_ ?_ ?_ ?_ ?_)
    | with_reducible exact fun i => i
    | (intro r hr; try dsimp -proj only)
    | with_reducible assumption
    | with_reducible exact fun _ i => i
    | split
    | exact fun i => by simpa using i

theorem keep_execRingDisable (k v : Nat) (s : State) : Goes s (execRingDisable k v s) := by
  have h := Keeps.refl s
  unfold execRingDisable
  try dsimp -proj only
  repeat' first
    | with_reducible exact h
    | with_reducible apply Keeps.ite
    | with_reducible apply Goes.ite
    | with_reducible apply Goes.next
    | with_reducible apply keep_writeRingCtrl
    | (simp -proj only [keeps_mk]; with_reducible refine KeepsParts.of rfl ?_ ?_ ?_ ?_ ?_ ?_)
    | with_reducible exact fun i => i
    | (intro r hr; try dsimp -proj only)
    | with_reducible assumption
    | with_reducible exact fun _ i => i
    | split
    | exact fun i => by simpa using i

theorem keep_execRingTailWrite (k v : Nat) (s : State) : Goes s (execRingTailWrite k v s) := by
  have h := Keeps.refl s
  unfold execRingTailWrite
  try dsimp -proj only
  repeat' first
    | with_reducible exact h
    | with_reducible apply Keeps.ite
    | with_reducible apply Goes.ite
    | with_reducible apply Goes.next
    | with_reducible apply keep_writeRingTail
    | (intro r hr; try dsimp -proj only)
    | with_reducible assumption
    | split

theorem keep_execRingResume (k : Nat) (s : State) : Goes s (execRingResume k s) := by
  have h := Keeps.refl s
  unfold execRingResume
  try dsimp -proj only
  repeat' first
    | with_reducible exact h
    | with_reducible apply Keeps.ite
    | with_reducible apply Goes.ite
    | with_reducible apply Goes.next
    | with_reducible apply keep_writeRingResume
    | (intro r hr; try dsimp -proj only)
    | with_reducible assumption
    | split

end Sys2Proof.Machine
end

