-- ==== Sys2Proof/Laws/SysCmds.lean ====
section
/-! SUPPORT. Laws of Machine/SysCmds.lean: each operation keeps the queue of waiting commands and soundness; each meaning goes on. -/

namespace Sys2Proof.Machine

theorem keep_specNop : SpecKeeps specNop := by
  intro z0 s r p h
  unfold specNop
  try dsimp only
  repeat' first
    | with_reducible exact h
    | with_reducible apply ResultKeeps.checked
    | with_reducible apply ResultKeeps.ite
    | with_reducible exact ResultKeeps.fail
    | with_reducible apply ResultKeeps.doneMk
    | with_reducible apply ResultKeeps.failWith
    | with_reducible apply ResultKeeps.retry
    | with_reducible apply ResultKeeps.wait
    | (intro r hr; try dsimp only [id])
    | with_reducible assumption

theorem keep_specGetVersions : SpecKeeps specGetVersions := by
  intro z0 s r p h
  unfold specGetVersions
  try dsimp only
  repeat' first
    | with_reducible exact h
    | with_reducible apply ResultKeeps.checked
    | with_reducible apply ResultKeeps.ite
    | with_reducible exact ResultKeeps.fail
    | with_reducible apply ResultKeeps.doneMk
    | with_reducible apply ResultKeeps.failWith
    | with_reducible apply ResultKeeps.retry
    | with_reducible apply ResultKeeps.wait
    | (intro r hr; try dsimp only [id])
    | with_reducible assumption

theorem keep_specGetIdentity : SpecKeeps specGetIdentity := by
  intro z0 s r p h
  unfold specGetIdentity
  try dsimp only
  repeat' first
    | with_reducible exact h
    | with_reducible apply Keeps.ite
    | with_reducible apply ResultKeeps.checked
    | with_reducible apply ResultKeeps.ite
    | with_reducible exact ResultKeeps.fail
    | with_reducible apply ResultKeeps.doneMk
    | with_reducible apply ResultKeeps.failWith
    | with_reducible apply ResultKeeps.retry
    | with_reducible apply ResultKeeps.wait
    | (intro r hr; try dsimp only [id])
    | with_reducible assumption
    | split

theorem keep_specGetStatus : SpecKeeps specGetStatus := by
  intro z0 s r p h
  unfold specGetStatus
  try dsimp only
  repeat' first
    | with_reducible exact h
    | with_reducible apply ResultKeeps.checked
    | with_reducible apply ResultKeeps.ite
    | with_reducible exact ResultKeeps.fail
    | with_reducible apply ResultKeeps.doneMk
    | with_reducible apply ResultKeeps.failWith
    | with_reducible apply ResultKeeps.retry
    | with_reducible apply ResultKeeps.wait
    | (intro r hr; try dsimp only [id])
    | with_reducible assumption

theorem keep_specGetMbStats : SpecKeeps specGetMbStats := by
  intro z0 s r p h
  unfold specGetMbStats
  try dsimp only
  repeat' first
    | with_reducible exact h
    | with_reducible apply Keeps.ite
    | with_reducible apply ResultKeeps.checked
    | with_reducible apply ResultKeeps.ite
    | with_reducible exact ResultKeeps.fail
    | with_reducible apply ResultKeeps.doneMk
    | with_reducible apply ResultKeeps.failWith
    | with_reducible apply ResultKeeps.retry
    | with_reducible apply ResultKeeps.wait
    | with_reducible apply Keeps.modMb
    | (simp -proj only [keeps_mk]; with_reducible refine KeepsParts.of rfl ?_ ?_ ?_ ?_ ?_ ?_)
    | with_reducible exact fun i => i
    | with_reducible exact fun i => InvMb.mk i.1 i.2 i.3
    | (intro r hr; try dsimp only [id])
    | with_reducible assumption
    | with_reducible exact fun _ i => i
    | split
    | exact fun i => keepMb i (by simp [i.1]) (by simp [i.2]) (by intro hw; repeat' first | with_reducible exact hw | with_reducible apply wf_mwrite | with_reducible apply wf_mset | exact rfl)
    | exact fun i => by simpa using i

theorem keep_specModuleReset : SpecKeeps specModuleReset := by
  intro z0 s r p h
  unfold specModuleReset
  try dsimp only
  repeat' first
    | with_reducible exact h
    | with_reducible apply ResultKeeps.checked
    | with_reducible apply ResultKeeps.ite
    | with_reducible exact ResultKeeps.fail
    | with_reducible apply ResultKeeps.doneMk
    | with_reducible apply ResultKeeps.failWith
    | with_reducible apply ResultKeeps.retry
    | with_reducible apply ResultKeeps.wait
    | with_reducible apply keep_State_modPow
    | (simp -proj only [keeps_mk]; with_reducible refine KeepsParts.of rfl ?_ ?_ ?_ ?_ ?_ ?_)
    | with_reducible exact fun i => i
    | (intro r hr; try dsimp only [id])
    | with_reducible assumption
    | with_reducible exact fun _ i => i
    | exact fun i => by simpa using i

theorem keep_specEvqGetRoutes : SpecKeeps specEvqGetRoutes := by
  intro z0 s r p h
  unfold specEvqGetRoutes
  try dsimp only
  repeat' first
    | with_reducible exact h
    | with_reducible apply ResultKeeps.checked
    | with_reducible apply ResultKeeps.ite
    | with_reducible exact ResultKeeps.fail
    | with_reducible apply ResultKeeps.doneMk
    | with_reducible apply ResultKeeps.failWith
    | with_reducible apply ResultKeeps.retry
    | with_reducible apply ResultKeeps.wait
    | (intro r hr; try dsimp only [id])
    | with_reducible assumption

theorem keep_specEvqSetRoute : SpecKeeps specEvqSetRoute := by
  intro z0 s r p h
  unfold specEvqSetRoute
  try dsimp only
  repeat' first
    | with_reducible exact h
    | with_reducible apply ResultKeeps.checked
    | with_reducible apply ResultKeeps.ite
    | with_reducible exact ResultKeeps.fail
    | with_reducible apply ResultKeeps.doneMk
    | with_reducible apply ResultKeeps.failWith
    | with_reducible apply ResultKeeps.retry
    | with_reducible apply ResultKeeps.wait
    | (simp -proj only [keeps_mk]; with_reducible refine KeepsParts.of rfl ?_ ?_ ?_ ?_ ?_ ?_)
    | with_reducible exact fun i => i
    | (intro r hr; try dsimp only [id])
    | with_reducible assumption
    | with_reducible exact fun _ i => i
    | exact fun i => by simpa using i

theorem keep_specRingBind : SpecKeeps specRingBind := by
  intro z0 s r p h
  unfold specRingBind
  try dsimp only
  repeat' first
    | with_reducible exact h
    | with_reducible apply Keeps.ite
    | with_reducible apply ResultKeeps.checked
    | with_reducible apply ResultKeeps.ite
    | with_reducible exact ResultKeeps.fail
    | with_reducible apply ResultKeeps.doneMk
    | with_reducible apply ResultKeeps.failWith
    | with_reducible apply ResultKeeps.retry
    | with_reducible apply ResultKeeps.wait
    | (simp -proj only [keeps_mk]; with_reducible refine KeepsParts.of rfl ?_ ?_ ?_ ?_ ?_ ?_)
    | with_reducible exact fun i => i
    | (intro r hr; try dsimp only [id])
    | with_reducible assumption
    | with_reducible exact fun _ i => i
    | split
    | exact fun i => by simpa using i

theorem keep_specRxSteerSet : SpecKeeps specRxSteerSet := by
  intro z0 s r p h
  unfold specRxSteerSet
  try dsimp only
  repeat' first
    | with_reducible exact h
    | with_reducible apply ResultKeeps.checked
    | with_reducible apply ResultKeeps.ite
    | with_reducible exact ResultKeeps.fail
    | with_reducible apply ResultKeeps.doneMk
    | with_reducible apply ResultKeeps.failWith
    | with_reducible apply ResultKeeps.retry
    | with_reducible apply ResultKeeps.wait
    | with_reducible apply keep_steer
    | (simp -proj only [keeps_mk]; with_reducible refine KeepsParts.of rfl ?_ ?_ ?_ ?_ ?_ ?_)
    | with_reducible exact fun i => i
    | with_reducible exact fun i => InvDma.mk i.1 i.2
    | with_reducible apply Keeps.foldl
    | (intro r x hr; try dsimp -proj only)
    | (intro r hr; try dsimp only [id])
    | with_reducible assumption
    | with_reducible exact fun _ i => i
    | exact fun i => keepDma i (by simp [i.1]) (by simp [i.2])
    | exact fun i => by simpa using i

theorem keep_specRxSteerGet : SpecKeeps specRxSteerGet := by
  intro z0 s r p h
  unfold specRxSteerGet
  try dsimp only
  repeat' first
    | with_reducible exact h
    | with_reducible apply ResultKeeps.checked
    | with_reducible apply ResultKeeps.ite
    | with_reducible exact ResultKeeps.fail
    | with_reducible apply ResultKeeps.doneMk
    | with_reducible apply ResultKeeps.failWith
    | with_reducible apply ResultKeeps.retry
    | with_reducible apply ResultKeeps.wait
    | (intro r hr; try dsimp only [id])
    | with_reducible assumption

theorem keep_specDmaGetCounters : SpecKeeps specDmaGetCounters := by
  intro z0 s r p h
  unfold specDmaGetCounters
  try dsimp only
  repeat' first
    | with_reducible exact h
    | with_reducible apply Keeps.ite
    | with_reducible apply ResultKeeps.checked
    | with_reducible apply ResultKeeps.ite
    | with_reducible exact ResultKeeps.fail
    | with_reducible apply ResultKeeps.doneMk
    | with_reducible apply ResultKeeps.failWith
    | with_reducible apply ResultKeeps.retry
    | with_reducible apply ResultKeeps.wait
    | with_reducible apply Keeps.modRing
    | (simp -proj only [keeps_mk]; with_reducible refine KeepsParts.of rfl ?_ ?_ ?_ ?_ ?_ ?_)
    | with_reducible exact fun i => i
    | (intro r hr; try dsimp only [id])
    | with_reducible assumption
    | with_reducible exact fun _ i => i
    | split
    | exact fun i => by simpa using i

theorem keep_specAtuGetCounters : SpecKeeps specAtuGetCounters := by
  intro z0 s r p h
  unfold specAtuGetCounters
  try dsimp only
  repeat' first
    | with_reducible exact h
    | with_reducible apply Keeps.ite
    | with_reducible apply ResultKeeps.checked
    | with_reducible apply ResultKeeps.ite
    | with_reducible exact ResultKeeps.fail
    | with_reducible apply ResultKeeps.doneMk
    | with_reducible apply ResultKeeps.failWith
    | with_reducible apply ResultKeeps.retry
    | with_reducible apply ResultKeeps.wait
    | with_reducible apply Keeps.modAtu
    | (simp -proj only [keeps_mk]; with_reducible refine KeepsParts.of rfl ?_ ?_ ?_ ?_ ?_ ?_)
    | with_reducible exact fun i => i
    | (intro r hr; try dsimp only [id])
    | with_reducible assumption
    | with_reducible exact fun _ i => i
    | split
    | exact fun i => by simpa using i

theorem keep_writePerfSel {h : HostLink} {n v : Nat} (i : InvHost h) : InvHost (writePerfSel h n v) :=
  keepHost i rfl (by simp [writePerfSel]) rfl

theorem keep_writePerfCnt {h : HostLink} {n v : Nat} (i : InvHost h) : InvHost (writePerfCnt h n v) :=
  keepHost i rfl (by simp [writePerfCnt]) rfl

theorem keep_writePerfCtl {h : HostLink} {v : Nat} (i : InvHost h) : InvHost (writePerfCtl h v) :=
  keepHost i rfl (by unfold writePerfCtl; dsimp only; split <;> simp) rfl

theorem invHost_fold {f : HostLink → Nat → HostLink} (hf : ∀ h n, InvHost h → InvHost (f h n)) (l : List Nat) (h : HostLink) (i : InvHost h) :
    InvHost (l.foldl f h) := by
  induction l generalizing h with
  | nil => exact i
  | cons x l ih => exact ih _ (hf h x i)
theorem keep_specPerfGet : SpecKeeps specPerfGet := by
  intro z0 s r p h
  unfold specPerfGet
  try dsimp only
  repeat' first
    | with_reducible exact h
    | with_reducible apply ResultKeeps.checked
    | with_reducible apply ResultKeeps.ite
    | with_reducible exact ResultKeeps.fail
    | with_reducible apply ResultKeeps.doneMk
    | with_reducible apply ResultKeeps.failWith
    | with_reducible apply ResultKeeps.retry
    | with_reducible apply ResultKeeps.wait
    | (intro r hr; try dsimp only [id])
    | with_reducible assumption

theorem keep_specPerfSet : SpecKeeps specPerfSet := by
  intro z0 s r p h
  unfold specPerfSet
  try dsimp only
  repeat' first
    | with_reducible exact h
    | with_reducible apply Keeps.ite
    | with_reducible apply ResultKeeps.checked
    | with_reducible apply ResultKeeps.ite
    | with_reducible exact ResultKeeps.fail
    | with_reducible apply ResultKeeps.doneMk
    | with_reducible apply ResultKeeps.failWith
    | with_reducible apply ResultKeeps.retry
    | with_reducible apply ResultKeeps.wait
    | exact fun i => keep_writePerfCtl i
    | exact fun i => by with_reducible first | exact keep_writePerfSel i | exact invHost_fold (fun _ _ j => keep_writePerfSel j) _ _ (keep_writePerfCtl i)
    | exact fun i => by with_reducible first | exact keep_writePerfCnt i | exact invHost_fold (fun _ _ j => keep_writePerfCnt j) _ _ (invHost_fold (fun _ _ j => keep_writePerfSel j) _ _ (keep_writePerfCtl i))
    | with_reducible apply Keeps.modHost
    | (simp -proj only [keeps_mk]; with_reducible refine KeepsParts.of rfl ?_ ?_ ?_ ?_ ?_ ?_)
    | with_reducible exact fun i => i
    | with_reducible exact fun i => InvHost.mk i.1 i.2 i.3
    | with_reducible apply Keeps.foldl
    | (intro r x hr; try dsimp -proj only)
    | (intro r hr; try dsimp only [id])
    | with_reducible assumption
    | split
    | exact fun i => keepHost i (by simp [i.1]) (by simp [i.2]) (by simp [i.3])

theorem keep_execNop (r : Req) (s : State) : Goes s (execNop r s) := keep_command keep_specNop r s

theorem keep_execGetVersions (r : Req) (s : State) : Goes s (execGetVersions r s) := keep_command keep_specGetVersions r s

theorem keep_execGetIdentity (r : Req) (s : State) : Goes s (execGetIdentity r s) := keep_command keep_specGetIdentity r s

theorem keep_execGetStatus (r : Req) (s : State) : Goes s (execGetStatus r s) := keep_command keep_specGetStatus r s

theorem keep_execGetMbStats (r : Req) (s : State) : Goes s (execGetMbStats r s) := keep_command keep_specGetMbStats r s

theorem keep_execModuleReset (r : Req) (s : State) : Goes s (execModuleReset r s) := keep_command keep_specModuleReset r s

theorem keep_execEvqGetRoutes (r : Req) (s : State) : Goes s (execEvqGetRoutes r s) := keep_command keep_specEvqGetRoutes r s

theorem keep_execEvqSetRoute (r : Req) (s : State) : Goes s (execEvqSetRoute r s) := keep_command keep_specEvqSetRoute r s

theorem keep_execRingBind (r : Req) (s : State) : Goes s (execRingBind r s) := keep_command keep_specRingBind r s

theorem keep_execRxSteerSet (r : Req) (s : State) : Goes s (execRxSteerSet r s) := keep_command keep_specRxSteerSet r s

theorem keep_execRxSteerGet (r : Req) (s : State) : Goes s (execRxSteerGet r s) := keep_command keep_specRxSteerGet r s

theorem keep_execDmaGetCounters (r : Req) (s : State) : Goes s (execDmaGetCounters r s) := keep_command keep_specDmaGetCounters r s

theorem keep_execAtuGetCounters (r : Req) (s : State) : Goes s (execAtuGetCounters r s) := keep_command keep_specAtuGetCounters r s

theorem keep_execPerfGet (r : Req) (s : State) : Goes s (execPerfGet r s) := keep_command keep_specPerfGet r s

theorem keep_execPerfSet (r : Req) (s : State) : Goes s (execPerfSet r s) := keep_command keep_specPerfSet r s

end Sys2Proof.Machine
end

