-- ==== Sys2Proof/Laws/ExecRun.lean ====
section
/-! SUPPORT. Laws of Machine/ExecRun.lean: each operation keeps the queue of waiting commands and soundness; each meaning goes on. -/

namespace Sys2Proof.Machine

theorem keep_group0 : ∀ sp ∈ groupSpecs 0, SpecKeeps sp := by
  intro sp h
  simp only [groupSpecs, List.mem_cons, List.not_mem_nil, or_false] at h
  rcases h with rfl | rfl | rfl | rfl | rfl | rfl
  · exact keep_specNop
  · exact keep_specGetVersions
  · exact keep_specGetIdentity
  · exact keep_specGetStatus
  · exact keep_specGetMbStats
  · exact keep_specModuleReset

theorem keep_group1 : ∀ sp ∈ groupSpecs 1, SpecKeeps sp := by
  intro sp h
  simp only [groupSpecs, List.mem_cons, List.not_mem_nil, or_false] at h
  rcases h with rfl | rfl | rfl | rfl | rfl | rfl | rfl
  · exact keep_specEvqGetRoutes
  · exact keep_specEvqSetRoute
  · exact keep_specRingBind
  · exact keep_specRxSteerSet
  · exact keep_specRxSteerGet
  · exact keep_specDmaGetCounters
  · exact keep_specAtuGetCounters

theorem keep_group2 : ∀ sp ∈ groupSpecs 2, SpecKeeps sp := by
  intro sp h
  simp only [groupSpecs, List.mem_cons, List.not_mem_nil, or_false] at h
  rcases h with rfl | rfl | rfl | rfl | rfl | rfl | rfl | rfl
  · exact keep_specPortGetStatus
  · exact keep_specPortSet
  · exact keep_specEdgeGroupSet
  · exact keep_specPortGetCounters
  · exact keep_specPlcaSet
  · exact keep_specPseSet
  · exact keep_specPseGetStatus
  · exact keep_specTrainingClear

theorem keep_group3 : ∀ sp ∈ groupSpecs 3, SpecKeeps sp := by
  intro sp h
  simp only [groupSpecs, List.mem_cons, List.not_mem_nil, or_false] at h
  rcases h with rfl | rfl | rfl | rfl | rfl | rfl | rfl | rfl | rfl | rfl | rfl | rfl | rfl | rfl | rfl | rfl
  · exact keep_specDomainMapSet
  · exact keep_specDomainParamsSet
  · exact keep_specVlanSet
  · exact keep_specFdbStaticSet
  · exact keep_specFdbFlush
  · exact keep_specFdbRead
  · exact keep_specStreamIdSet
  · exact keep_specStreamSet
  · exact keep_specFilterSet
  · exact keep_specGateSet
  · exact keep_specMeterSet
  · exact keep_specFrerSet
  · exact keep_specMirrorSet
  · exact keep_specCountersGet
  · exact keep_specStateClear
  · exact keep_specTableRead

theorem keep_group4 : ∀ sp ∈ groupSpecs 4, SpecKeeps sp := by
  intro sp h
  simp only [groupSpecs, List.mem_cons, List.not_mem_nil, or_false] at h
  rcases h with rfl | rfl | rfl | rfl | rfl | rfl | rfl | rfl | rfl | rfl
  · exact keep_specZoneSet
  · exact keep_specZoneMapSet
  · exact keep_specZonePairSet
  · exact keep_specRuleSet
  · exact keep_specLimiterSet
  · exact keep_specHorizonParamsSet
  · exact keep_specSessionRead
  · exact keep_specSessionFlush
  · exact keep_specHorizonCountersGet
  · exact keep_specHorizonTableRead

theorem keep_group5 : ∀ sp ∈ groupSpecs 5, SpecKeeps sp := by
  intro sp h
  simp only [groupSpecs, List.mem_cons, List.not_mem_nil, or_false] at h
  rcases h with rfl | rfl | rfl | rfl | rfl | rfl | rfl
  · exact keep_specFabricStatusGet
  · exact keep_specFabricStartSet
  · exact keep_specFabricModeSet
  · exact keep_specWideStreamSet
  · exact keep_specCutThroughSet
  · exact keep_specFabricCountersGet
  · exact keep_specEpochSync

theorem keep_group6 : ∀ sp ∈ groupSpecs 6, SpecKeeps sp := by
  intro sp h
  simp only [groupSpecs, List.mem_cons, List.not_mem_nil, or_false] at h
  rcases h with rfl | rfl | rfl | rfl | rfl | rfl | rfl | rfl | rfl | rfl
  · exact keep_specQueueSet
  · exact keep_specShaperSet
  · exact keep_specCbsSet
  · exact keep_specGclSet
  · exact keep_specGclGet
  · exact keep_specPreemptSet
  · exact keep_specZenithAdmitSet
  · exact keep_specZenithStatusGet
  · exact keep_specQueueFlush
  · exact keep_specEgressCountersGet

theorem keep_group7 : ∀ sp ∈ groupSpecs 7, SpecKeeps sp := by
  intro sp h
  simp only [groupSpecs, List.mem_cons, List.not_mem_nil, or_false] at h
  rcases h with rfl | rfl | rfl | rfl | rfl
  · exact keep_specTimeStatusGet
  · exact keep_specTimeParamsSet
  · exact keep_specGptpInstanceSet
  · exact keep_specTimeStep
  · exact keep_specGptpPortGet

theorem keep_group8 : ∀ sp ∈ groupSpecs 8, SpecKeeps sp := by
  intro sp h
  simp only [groupSpecs, List.mem_cons, List.not_mem_nil, or_false] at h
  rcases h with rfl | rfl | rfl | rfl | rfl | rfl | rfl | rfl | rfl | rfl | rfl | rfl
  · exact keep_specChannelStatusGet
  · exact keep_specCanSet
  · exact keep_specCanWakeSet
  · exact keep_specCanRecover
  · exact keep_specMvbSet
  · exact keep_specMvbPortSet
  · exact keep_specMvbAdminSet
  · exact keep_specSerialSet
  · exact keep_specLinSet
  · exact keep_specLinScheduleSet
  · exact keep_specDioSet
  · exact keep_specChannelCountersGet

theorem keep_group9 : ∀ sp ∈ groupSpecs 9, SpecKeeps sp := by
  intro sp h
  simp only [groupSpecs, List.mem_cons, List.not_mem_nil, or_false] at h
  rcases h with rfl | rfl | rfl | rfl | rfl | rfl | rfl | rfl | rfl | rfl | rfl
  · exact keep_specGwCycleSet
  · exact keep_specRouteTableSet
  · exact keep_specEndpointSet
  · exact keep_specAcfBusSet
  · exact keep_specGwWrite
  · exact keep_specGwRead
  · exact keep_specGwLock
  · exact keep_specGwExchange
  · exact keep_specGwStatusGet
  · exact keep_specGwCountersGet
  · exact keep_specGwTableRead

theorem keep_group10 : ∀ sp ∈ groupSpecs 10, SpecKeeps sp := by
  intro sp h
  simp only [groupSpecs, List.mem_cons, List.not_mem_nil, or_false] at h
  rcases h with rfl | rfl | rfl | rfl | rfl | rfl
  · exact keep_specPowerStatusGet
  · exact keep_specPowerStateSet
  · exact keep_specWakeSet
  · exact keep_specPoolSet
  · exact keep_specArbiterGet
  · exact keep_specSupplySet

theorem keep_group11 : ∀ sp ∈ groupSpecs 11, SpecKeeps sp := by
  intro sp h
  simp only [groupSpecs, List.mem_cons, List.not_mem_nil, or_false] at h
  rcases h with rfl | rfl | rfl | rfl | rfl | rfl | rfl | rfl | rfl | rfl | rfl | rfl | rfl
  · exact keep_specLifecycleGet
  · exact keep_specLifecycleSet
  · exact keep_specKeySlotWrite
  · exact keep_specKeySlotErase
  · exact keep_specKeySlotInfo
  · exact keep_specKeyOp
  · exact keep_specProvisionClose
  · exact keep_specMacsecPortSet
  · exact keep_specMacsecSaSet
  · exact keep_specMkaSet
  · exact keep_specMacsecStatusGet
  · exact keep_specMacsecCountersGet
  · exact keep_specTamperSet

theorem keep_group12 : ∀ sp ∈ groupSpecs 12, SpecKeeps sp := by
  intro sp h
  simp only [groupSpecs, List.mem_cons, List.not_mem_nil, or_false] at h
  rcases h with rfl | rfl | rfl | rfl | rfl | rfl | rfl | rfl
  · exact keep_specMeasGet
  · exact keep_specMeasLogRead
  · exact keep_specMeasExtend
  · exact keep_specAttestGet
  · exact keep_specBootStatusGet
  · exact keep_specCertGet
  · exact keep_specCertSet
  · exact keep_specSpdmSet

theorem keep_group13 : ∀ sp ∈ groupSpecs 13, SpecKeeps sp := by
  intro sp h
  simp only [groupSpecs, List.mem_cons, List.not_mem_nil, or_false] at h
  rcases h with rfl | rfl | rfl | rfl | rfl | rfl | rfl | rfl | rfl | rfl | rfl | rfl
  · exact keep_specLodestarStatusGet
  · exact keep_specLodestarModeSet
  · exact keep_specSensorGet
  · exact keep_specSensorThresholdSet
  · exact keep_specNightwatchSet
  · exact keep_specLogRead
  · exact keep_specLogSet
  · exact keep_specMemportSet
  · exact keep_specMemportGet
  · exact keep_specPortBwGet
  · exact keep_specPerfGet
  · exact keep_specPerfSet

theorem keep_group14 : ∀ sp ∈ groupSpecs 14, SpecKeeps sp := by
  intro sp h
  simp only [groupSpecs, List.mem_cons, List.not_mem_nil, or_false] at h
  rcases h with rfl | rfl | rfl | rfl | rfl | rfl | rfl | rfl
  · exact keep_specUpdateStatusGet
  · exact keep_specUpdateBegin
  · exact keep_specUpdateBlock
  · exact keep_specUpdateVerify
  · exact keep_specUpdateActivate
  · exact keep_specUpdateConfirm
  · exact keep_specUpdateAbort
  · exact keep_specUpdateParamsSet

theorem keep_group15 : ∀ sp ∈ groupSpecs 15, SpecKeeps sp := by
  intro sp h
  simp only [groupSpecs, List.mem_cons, List.not_mem_nil, or_false] at h
  rcases h with rfl | rfl | rfl | rfl | rfl | rfl | rfl | rfl
  · exact keep_specPairStatusGet
  · exact keep_specPairSet
  · exact keep_specPairSwitch
  · exact keep_specPairCountersGet
  · exact keep_specTtdpSet
  · exact keep_specTtdpStatusGet
  · exact keep_specMrpSet
  · exact keep_specMrpStatusGet

theorem keep_groupSpecs : ∀ g, ∀ sp ∈ groupSpecs g, SpecKeeps sp
  | 0 => keep_group0
  | 1 => keep_group1
  | 2 => keep_group2
  | 3 => keep_group3
  | 4 => keep_group4
  | 5 => keep_group5
  | 6 => keep_group6
  | 7 => keep_group7
  | 8 => keep_group8
  | 9 => keep_group9
  | 10 => keep_group10
  | 11 => keep_group11
  | 12 => keep_group12
  | 13 => keep_group13
  | 14 => keep_group14
  | 15 => keep_group15
  | _ + 16 => by intro sp h; simp [groupSpecs] at h
theorem keep_unknownSpec (op : Nat) : SpecKeeps (unknownSpec op) := fun _ _ _ _ _ => trivial
theorem keep_specOf (op : Nat) : SpecKeeps (specOf op) := by
  unfold specOf
  rw [List.getD_eq_getElem?_getD]
  cases hg : (groupSpecs (op / 256))[op % 256]? with
  | none => exact keep_unknownSpec op
  | some sp => exact keep_groupSpecs _ sp (List.mem_of_getElem? hg)
theorem keep_execCommandDispatch (s : State) : Goes s (execCommandDispatch s) := by
  have h := Keeps.refl s
  unfold execCommandDispatch
  try dsimp -proj only
  repeat' first
    | with_reducible exact h
    | with_reducible apply Keeps.ite
    | with_reducible apply Goes.ite
    | with_reducible apply Goes.next
    | with_reducible apply keep_runCommand
    | exact keep_specOf _
    | with_reducible apply Keeps.modMb
    | (simp -proj only [keeps_mk]; with_reducible refine KeepsParts.of rfl ?_ ?_ ?_ ?_ ?_ ?_)
    | with_reducible exact fun i => i
    | with_reducible exact fun i => InvMb.mk i.1 i.2 i.3
    | (intro r hr; try dsimp -proj only)
    | with_reducible assumption
    | with_reducible exact fun _ i => i
    | split
    | exact fun i => keepMb i (by simp [i.1]) (by simp [i.2]) (by intro hw; repeat' first | with_reducible exact hw | with_reducible apply wf_mwrite | with_reducible apply wf_mset | exact rfl)
    | exact fun i => by simpa using i

theorem keep_execCommitAfterDrain (s : State) : Goes s (execCommitAfterDrain s) := by
  have h := Keeps.refl s
  unfold execCommitAfterDrain
  try dsimp -proj only
  repeat' first
    | with_reducible exact h
    | with_reducible apply Keeps.ite
    | with_reducible apply Goes.ite
    | with_reducible apply Goes.next
    | with_reducible apply keep_runCommand
    | exact keep_specOf _
    | with_reducible apply keep_finishDone
    | with_reducible apply Keeps.modMb
    | (simp -proj only [keeps_mk]; with_reducible refine KeepsParts.of rfl ?_ ?_ ?_ ?_ ?_ ?_)
    | with_reducible exact fun i => i
    | with_reducible exact fun i => InvMb.mk i.1 i.2 i.3
    | (intro r hr; try dsimp -proj only)
    | with_reducible assumption
    | exact hr
    | with_reducible exact fun _ i => i
    | split
    | exact fun i => keepMb i (by simp [i.1]) (by simp [i.2]) (by intro hw; repeat' first | with_reducible exact hw | with_reducible apply wf_mwrite | with_reducible apply wf_mset | exact rfl)
    | exact fun i => by simpa using i

theorem keep_execRetryTokenExpiry (token : Nat) (s : State) : Goes s (execRetryTokenExpiry token s) := by
  have h := Keeps.refl s
  unfold execRetryTokenExpiry
  try dsimp -proj only
  repeat' first
    | with_reducible exact h
    | with_reducible apply Goes.ite
    | with_reducible apply Goes.next
    | with_reducible apply keep_dropToken
    | with_reducible apply keep_State_until
    | (simp -proj only [keeps_mk]; with_reducible refine KeepsParts.of rfl ?_ ?_ ?_ ?_ ?_ ?_)
    | with_reducible exact fun i => i
    | (intro r hr; try dsimp -proj only)
    | with_reducible assumption
    | with_reducible exact fun _ i => i
    | split
    | exact fun i => by simpa using i

theorem keep_ringMailbox {z0 : State} (s : State) (n : Nat) (h : Keeps z0 s) : Keeps z0 (ringMailbox s n) := by
  unfold ringMailbox
  try dsimp -proj only
  repeat' first
    | with_reducible exact h
    | with_reducible apply Keeps.ite
    | with_reducible apply keep_submit
    | exact keep_specOf _
    | with_reducible assumption
    | split

theorem keep_execRemoteMessage (i len : Nat) (msg : List Byte) (s : State) : Goes s (execRemoteMessage i len msg s) := by
  have h := Keeps.refl s
  unfold execRemoteMessage
  try dsimp -proj only
  repeat' first
    | with_reducible exact h
    | with_reducible apply Keeps.ite
    | with_reducible apply Goes.ite
    | with_reducible apply Goes.next
    | with_reducible apply keep_closeSession
    | with_reducible apply keep_submit
    | exact keep_specOf _
    | with_reducible apply Keeps.modMb
    | (simp -proj only [keeps_mk]; with_reducible refine KeepsParts.of rfl ?_ ?_ ?_ ?_ ?_ ?_)
    | with_reducible exact fun i => i
    | with_reducible exact fun i => InvMb.mk i.1 i.2 i.3
    | (intro r hr; try dsimp -proj only)
    | with_reducible assumption
    | with_reducible exact fun _ i => i
    | split
    | exact fun i => keepMb i (by simp [i.1]) (by simp [i.2]) (by intro hw; repeat' first | with_reducible exact hw | with_reducible apply wf_mwrite | with_reducible apply wf_mset | exact rfl)
    | exact fun i => by simpa using i

end Sys2Proof.Machine
end

