-- ==== Sys2Proof/Laws/HostRegs.lean ====
section
/-! SUPPORT. Laws of Machine/HostRegs.lean: each operation keeps the queue of waiting commands and soundness; each meaning goes on. -/

namespace Sys2Proof.Machine

theorem keep_execMerTimeLoRead (s : State) : Goes s (execMerTimeLoRead s) := by
  have h := Keeps.refl s
  unfold execMerTimeLoRead
  try dsimp -proj only
  repeat' first
    | with_reducible exact h
    | with_reducible apply Keeps.ite
    | with_reducible apply Goes.ite
    | with_reducible apply Goes.next
    | with_reducible apply Keeps.modHost
    | (simp -proj only [keeps_mk]; with_reducible refine KeepsParts.of rfl ?_ ?_ ?_ ?_ ?_ ?_)
    | with_reducible exact fun i => i
    | with_reducible exact fun i => InvHost.mk i.1 i.2 i.3
    | (intro r hr; try dsimp -proj only)
    | with_reducible assumption
    | with_reducible exact fun _ i => i
    | split
    | exact fun i => keepHost i (by simp [i.1]) (by simp [i.2]) (by simp [i.3])
    | exact fun i => by simpa using i

theorem keep_execPerfCycleLoRead (s : State) : Goes s (execPerfCycleLoRead s) := by
  have h := Keeps.refl s
  unfold execPerfCycleLoRead
  try dsimp -proj only
  repeat' first
    | with_reducible exact h
    | with_reducible apply Keeps.ite
    | with_reducible apply Goes.ite
    | with_reducible apply Goes.next
    | with_reducible apply Keeps.modHost
    | (simp -proj only [keeps_mk]; with_reducible refine KeepsParts.of rfl ?_ ?_ ?_ ?_ ?_ ?_)
    | with_reducible exact fun i => i
    | with_reducible exact fun i => InvHost.mk i.1 i.2 i.3
    | (intro r hr; try dsimp -proj only)
    | with_reducible assumption
    | with_reducible exact fun _ i => i
    | split
    | exact fun i => keepHost i (by simp [i.1]) (by simp [i.2]) (by simp [i.3])
    | exact fun i => by simpa using i

theorem keep_execBwBytesLoRead (s : State) : Goes s (execBwBytesLoRead s) := by
  have h := Keeps.refl s
  unfold execBwBytesLoRead
  try dsimp -proj only
  repeat' first
    | with_reducible exact h
    | with_reducible apply Keeps.ite
    | with_reducible apply Goes.ite
    | with_reducible apply Goes.next
    | with_reducible apply Keeps.modHost
    | (simp -proj only [keeps_mk]; with_reducible refine KeepsParts.of rfl ?_ ?_ ?_ ?_ ?_ ?_)
    | with_reducible exact fun i => i
    | with_reducible exact fun i => InvHost.mk i.1 i.2 i.3
    | (intro r hr; try dsimp -proj only)
    | with_reducible assumption
    | with_reducible exact fun _ i => i
    | split
    | exact fun i => keepHost i (by simp [i.1]) (by simp [i.2]) (by simp [i.3])
    | exact fun i => by simpa using i

theorem keep_sendPending {z0 : State} (s : State) (v : Nat) (h : Keeps z0 s) : Keeps z0 (sendPending s v) := by
  unfold sendPending
  try dsimp -proj only
  repeat' first
    | with_reducible exact h
    | with_reducible apply Keeps.ite
    | with_reducible apply Keeps.modHost
    | (simp -proj only [keeps_mk]; with_reducible refine KeepsParts.of rfl ?_ ?_ ?_ ?_ ?_ ?_)
    | with_reducible exact fun i => i
    | with_reducible exact fun i => InvHost.mk i.1 i.2 i.3
    | with_reducible assumption
    | with_reducible exact fun _ i => i
    | split
    | exact fun i => keepHost i (by simp [i.1]) (by simp [i.2]) (by simp [i.3])
    | exact fun i => by simpa using i

theorem keep_writeMsix {z0 : State} (s : State) (v w x : Nat) (h : Keeps z0 s) : Keeps z0 (writeMsix s v w x) := by
  unfold writeMsix
  try dsimp -proj only
  repeat' first
    | with_reducible exact h
    | with_reducible apply Keeps.ite
    | with_reducible apply keep_sendPending
    | with_reducible apply Keeps.modHost
    | (simp -proj only [keeps_mk]; with_reducible refine KeepsParts.of rfl ?_ ?_ ?_ ?_ ?_ ?_)
    | with_reducible exact fun i => i
    | with_reducible exact fun i => InvHost.mk i.1 i.2 i.3
    | with_reducible assumption
    | with_reducible exact fun _ i => i
    | split
    | exact fun i => keepHost i (by simp [i.1]) (by simp [i.2]) (by simp [i.3])
    | exact fun i => by simpa using i

theorem keep_execMsixVectorUnmask (v : Nat) (s : State) : Goes s (execMsixVectorUnmask v s) := by
  have h := Keeps.refl s
  unfold execMsixVectorUnmask
  try dsimp -proj only
  repeat' first
    | with_reducible exact h
    | with_reducible apply Keeps.ite
    | with_reducible apply Goes.ite
    | with_reducible apply Goes.next
    | with_reducible apply keep_writeMsix
    | (intro r hr; try dsimp -proj only)
    | with_reducible assumption
    | split

theorem keep_writeAtuCtx {z0 : State} (s : State) (c off v : Nat) (h : Keeps z0 s) : Keeps z0 (writeAtuCtx s c off v) := by
  unfold writeAtuCtx
  try dsimp -proj only
  repeat' first
    | with_reducible exact h
    | with_reducible apply Keeps.modAtu
    | (simp -proj only [keeps_mk]; with_reducible refine KeepsParts.of rfl ?_ ?_ ?_ ?_ ?_ ?_)
    | with_reducible exact fun i => i
    | with_reducible assumption
    | with_reducible exact fun _ i => i
    | split
    | exact fun i => by simpa [countInval] using i

theorem keep_clearAtuStatus {z0 : State} (s : State) (c v : Nat) (h : Keeps z0 s) : Keeps z0 (clearAtuStatus s c v) := by
  unfold clearAtuStatus
  try dsimp -proj only
  repeat' first
    | with_reducible exact h
    | with_reducible apply Keeps.ite
    | with_reducible apply Keeps.modAtu
    | (simp -proj only [keeps_mk]; with_reducible refine KeepsParts.of rfl ?_ ?_ ?_ ?_ ?_ ?_)
    | with_reducible exact fun i => i
    | with_reducible assumption
    | with_reducible exact fun _ i => i
    | split
    | exact fun i => by simpa using i

theorem keep_writeAtuInv {z0 : State} (s : State) (v : Nat) (h : Keeps z0 s) : Keeps z0 (writeAtuInv s v) := by
  unfold writeAtuInv
  try dsimp -proj only
  repeat' first
    | with_reducible exact h
    | with_reducible apply Keeps.ite
    | with_reducible apply Keeps.modAtu
    | (simp -proj only [keeps_mk]; with_reducible refine KeepsParts.of rfl ?_ ?_ ?_ ?_ ?_ ?_)
    | with_reducible exact fun i => i
    | with_reducible assumption
    | with_reducible exact fun _ i => i
    | split
    | exact fun i => by simpa [invalidate] using i

theorem keep_writeAtuAddr {z0 : State} (s : State) (hi : Bool) (v : Nat) (h : Keeps z0 s) : Keeps z0 (writeAtuAddr s hi v) := by
  unfold writeAtuAddr
  try dsimp -proj only
  repeat' first
    | with_reducible exact h
    | with_reducible apply Keeps.ite
    | with_reducible apply Keeps.modAtu
    | (simp -proj only [keeps_mk]; with_reducible refine KeepsParts.of rfl ?_ ?_ ?_ ?_ ?_ ?_)
    | with_reducible exact fun i => i
    | with_reducible assumption
    | with_reducible exact fun _ i => i
    | split
    | exact fun i => by simpa using i

theorem keep_execAtuInvalidate (v : Nat) (s : State) : Goes s (execAtuInvalidate v s) := by
  have h := Keeps.refl s
  unfold execAtuInvalidate
  try dsimp -proj only
  repeat' first
    | with_reducible exact h
    | with_reducible apply Keeps.ite
    | with_reducible apply Goes.ite
    | with_reducible apply Goes.next
    | with_reducible apply keep_writeAtuInv
    | (simp -proj only [keeps_mk]; with_reducible refine KeepsParts.of rfl ?_ ?_ ?_ ?_ ?_ ?_)
    | with_reducible exact fun i => i
    | (intro r hr; try dsimp -proj only)
    | with_reducible assumption
    | with_reducible exact fun _ i => i
    | split
    | exact fun i => by simpa using i

theorem keep_execAtuInvalidationComplete (s : State) : Goes s (execAtuInvalidationComplete s) := by
  have h := Keeps.refl s
  unfold execAtuInvalidationComplete
  try dsimp -proj only
  repeat' first
    | with_reducible exact h
    | with_reducible apply Keeps.ite
    | with_reducible apply Goes.ite
    | with_reducible apply Goes.next
    | with_reducible apply Keeps.modAtu
    | (simp -proj only [keeps_mk]; with_reducible refine KeepsParts.of rfl ?_ ?_ ?_ ?_ ?_ ?_)
    | with_reducible exact fun i => i
    | (intro r hr; try dsimp -proj only)
    | with_reducible assumption
    | with_reducible exact fun _ i => i
    | split
    | exact fun i => by simpa [countInval, invalidate] using i

theorem keep_execAtuContextWrite (c off v : Nat) (s : State) : Goes s (execAtuContextWrite c off v s) := by
  have h := Keeps.refl s
  unfold execAtuContextWrite
  try dsimp -proj only
  repeat' first
    | with_reducible exact h
    | with_reducible apply Keeps.ite
    | with_reducible apply Goes.ite
    | with_reducible apply Goes.next
    | with_reducible apply keep_writeAtuCtx
    | (intro r hr; try dsimp -proj only)
    | with_reducible assumption
    | split

theorem keep_execAtuCtxStatusClear (c v : Nat) (s : State) : Goes s (execAtuCtxStatusClear c v s) := by
  have h := Keeps.refl s
  unfold execAtuCtxStatusClear
  try dsimp -proj only
  repeat' first
    | with_reducible exact h
    | with_reducible apply Keeps.ite
    | with_reducible apply Goes.ite
    | with_reducible apply Goes.next
    | with_reducible apply keep_clearAtuStatus
    | (intro r hr; try dsimp -proj only)
    | with_reducible assumption
    | split

theorem keep_startWindowBw {z0 : State} (s : State) (h : Keeps z0 s) : Keeps z0 (startWindowBw s) := by
  unfold startWindowBw
  try dsimp -proj only
  repeat' first
    | with_reducible exact h
    | with_reducible apply Keeps.modHost
    | (simp -proj only [keeps_mk]; with_reducible refine KeepsParts.of rfl ?_ ?_ ?_ ?_ ?_ ?_)
    | with_reducible exact fun i => i
    | with_reducible exact fun i => InvHost.mk i.1 i.2 i.3
    | with_reducible assumption
    | with_reducible exact fun _ i => i
    | exact fun i => keepHost i (by simp [i.1]) (by simp [i.2]) (by simp [i.3])
    | exact fun i => by simpa using i

theorem keep_writeBwCtrl {z0 : State} (s : State) (v : Nat) (h : Keeps z0 s) : Keeps z0 (writeBwCtrl s v) := by
  unfold writeBwCtrl
  try dsimp -proj only
  repeat' first
    | with_reducible exact h
    | with_reducible apply Keeps.ite
    | with_reducible apply keep_startWindowBw
    | with_reducible apply Keeps.modHost
    | (simp -proj only [keeps_mk]; with_reducible refine KeepsParts.of rfl ?_ ?_ ?_ ?_ ?_ ?_)
    | with_reducible exact fun i => i
    | with_reducible exact fun i => InvHost.mk i.1 i.2 i.3
    | with_reducible assumption
    | with_reducible exact fun _ i => i
    | split
    | exact fun i => keepHost i (by simp [i.1]) (by simp [i.2]) (by simp [i.3])
    | exact fun i => by simpa using i

theorem keep_execBwCtrlWrite (v : Nat) (s : State) : Goes s (execBwCtrlWrite v s) := by
  have h := Keeps.refl s
  unfold execBwCtrlWrite
  try dsimp -proj only
  repeat' first
    | with_reducible exact h
    | with_reducible apply Keeps.ite
    | with_reducible apply Goes.ite
    | with_reducible apply Goes.next
    | with_reducible apply keep_writeBwCtrl
    | (intro r hr; try dsimp -proj only)
    | with_reducible assumption
    | split

theorem keep_execBwWindowEnd (s : State) : Goes s (execBwWindowEnd s) := by
  have h := Keeps.refl s
  unfold execBwWindowEnd
  try dsimp -proj only
  repeat' first
    | with_reducible exact h
    | with_reducible apply Keeps.ite
    | with_reducible apply Goes.ite
    | with_reducible apply Goes.next
    | with_reducible apply keep_laterFrom
    | with_reducible apply keep_startWindowBw
    | with_reducible apply Keeps.modHost
    | (simp -proj only [keeps_mk]; with_reducible refine KeepsParts.of rfl ?_ ?_ ?_ ?_ ?_ ?_)
    | with_reducible exact fun i => i
    | with_reducible exact fun i => InvHost.mk i.1 i.2 i.3
    | (intro r hr; try dsimp -proj only)
    | with_reducible assumption
    | with_reducible exact fun _ i => i
    | split
    | exact fun i => keepHost i (by simp [i.1]) (by simp [i.2]) (by simp [i.3])
    | exact fun i => by simpa using i

theorem keep_execPerfCtlClear (v : Nat) (s : State) : Goes s (execPerfCtlClear v s) := by
  have h := Keeps.refl s
  unfold execPerfCtlClear
  try dsimp -proj only
  repeat' first
    | with_reducible exact h
    | with_reducible apply Keeps.ite
    | with_reducible apply Goes.ite
    | with_reducible apply Goes.next
    | exact fun i => keep_writePerfCtl i
    | with_reducible apply Keeps.modHost
    | (simp -proj only [keeps_mk]; with_reducible refine KeepsParts.of rfl ?_ ?_ ?_ ?_ ?_ ?_)
    | with_reducible exact fun i => i
    | with_reducible exact fun i => InvHost.mk i.1 i.2 i.3
    | (intro r hr; try dsimp -proj only)
    | with_reducible assumption
    | with_reducible exact fun _ i => i
    | split
    | exact fun i => keepHost i (by simp [i.1]) (by simp [i.2]) (by simp [i.3])
    | exact fun i => by simpa using i

theorem keep_writeHostCtrl {z0 : State} (s : State) (v : Nat) (h : Keeps z0 s) : Keeps z0 (writeHostCtrl s v) := by
  unfold writeHostCtrl
  try dsimp -proj only
  repeat' first
    | with_reducible exact h
    | with_reducible apply Keeps.modHost
    | (simp -proj only [keeps_mk]; with_reducible refine KeepsParts.of rfl ?_ ?_ ?_ ?_ ?_ ?_)
    | with_reducible exact fun i => i
    | with_reducible exact fun i => InvHost.mk i.1 i.2 i.3
    | with_reducible assumption
    | with_reducible exact fun _ i => i
    | exact fun i => keepHost i (by simp [i.1]) (by simp [i.2]) (by simp [i.3])
    | exact fun i => by simpa using i

theorem keep_execBar2EnableWrite (v : Nat) (s : State) : Goes s (execBar2EnableWrite v s) := by
  have h := Keeps.refl s
  unfold execBar2EnableWrite
  try dsimp -proj only
  repeat' first
    | with_reducible exact h
    | with_reducible apply Keeps.ite
    | with_reducible apply Goes.ite
    | with_reducible apply Goes.next
    | with_reducible apply keep_writeHostCtrl
    | (intro r hr; try dsimp -proj only)
    | with_reducible assumption
    | split

theorem keep_writeDoorbell {z0 : State} (s : State) (v : Nat) (h : Keeps z0 s) : Keeps z0 (writeDoorbell s v) := by
  unfold writeDoorbell
  try dsimp -proj only
  repeat' first
    | with_reducible exact h
    | with_reducible apply keep_ringMailbox
    | (simp -proj only [keeps_mk]; with_reducible refine KeepsParts.of rfl ?_ ?_ ?_ ?_ ?_ ?_)
    | with_reducible apply Keeps.foldl
    | (intro r x hr; try dsimp -proj only)
    | with_reducible assumption

theorem keep_writeLow {z0 : State} (s : State) (off v : Nat) (h : Keeps z0 s) : Keeps z0 (writeLow s off v) := by
  unfold writeLow
  try dsimp -proj only
  repeat' first
    | with_reducible exact h
    | with_reducible apply Keeps.ite
    | with_reducible apply keep_writeHostCtrl
    | with_reducible apply keep_writeDoorbell
    | exact fun i => keep_writePerfCtl i
    | with_reducible apply keep_writeBwCtrl
    | exact fun i => by with_reducible first | exact keep_writePerfSel i | exact invHost_fold (fun _ _ j => keep_writePerfSel j) _ _ (keep_writePerfCtl i)
    | exact fun i => by with_reducible first | exact keep_writePerfCnt i | exact invHost_fold (fun _ _ j => keep_writePerfCnt j) _ _ (invHost_fold (fun _ _ j => keep_writePerfSel j) _ _ (keep_writePerfCtl i))
    | with_reducible apply Keeps.modHost
    | with_reducible apply Keeps.modMb
    | (simp -proj only [keeps_mk]; with_reducible refine KeepsParts.of rfl ?_ ?_ ?_ ?_ ?_ ?_)
    | with_reducible exact fun i => i
    | with_reducible exact fun i => InvHost.mk i.1 i.2 i.3
    | with_reducible exact fun i => InvMb.mk i.1 i.2 i.3
    | with_reducible assumption
    | with_reducible exact fun _ i => i
    | split
    | exact fun i => keepMb i (by simp [i.1]) (by simp [i.2]) (by intro hw; repeat' first | with_reducible exact hw | with_reducible apply wf_mwrite | with_reducible apply wf_mset | exact rfl)
    | exact fun i => keepHost i (by simp [i.1]) (by simp [i.2]) (by simp [i.3])
    | exact fun i => by simpa using i

theorem keep_writeReg {z0 : State} (s : State) (off v : Nat) (h : Keeps z0 s) : Keeps z0 (writeReg s off v) := by
  unfold writeReg
  try dsimp -proj only
  repeat' first
    | with_reducible exact h
    | with_reducible apply Keeps.ite
    | with_reducible apply keep_writeLow
    | with_reducible apply keep_writeEq
    | with_reducible apply keep_writeRing
    | with_reducible apply keep_clearAtuStatus
    | with_reducible apply keep_writeAtuCtx
    | with_reducible apply keep_writeAtuInv
    | with_reducible apply keep_writeAtuAddr
    | (simp -proj only [keeps_mk]; with_reducible refine KeepsParts.of rfl ?_ ?_ ?_ ?_ ?_ ?_)
    | with_reducible exact fun i => i
    | with_reducible assumption
    | with_reducible exact fun _ i => i
    | split
    | exact fun i => by simpa using i

theorem keep_writeWindow {z0 : State} (s : State) (off : Nat) (b : Byte) (h : Keeps z0 s) : Keeps z0 (writeWindow s off b) := by
  unfold writeWindow
  try dsimp -proj only
  repeat' first
    | with_reducible exact h
    | with_reducible apply Keeps.ite
    | with_reducible apply Keeps.modMb
    | (simp -proj only [keeps_mk]; with_reducible refine KeepsParts.of rfl ?_ ?_ ?_ ?_ ?_ ?_)
    | with_reducible exact fun i => i
    | with_reducible exact fun i => InvMb.mk i.1 i.2 i.3
    | with_reducible assumption
    | with_reducible exact fun _ i => i
    | split
    | exact fun i => keepMb i (by simp [i.1]) (by simp [i.2]) (by intro hw; repeat' first | with_reducible exact hw | with_reducible apply wf_mwrite | with_reducible apply wf_mset | exact rfl)
    | exact fun i => by simpa using i

theorem keep_writeDword {z0 : State} (s : State) (bar off v be : Nat) (h : Keeps z0 s) : Keeps z0 (writeDword s bar off v be) := by
  unfold writeDword
  try dsimp -proj only
  repeat' first
    | with_reducible exact h
    | with_reducible apply Keeps.ite
    | with_reducible apply keep_writeWindow
    | with_reducible apply keep_writeReg
    | with_reducible apply keep_writeMsix
    | (simp -proj only [keeps_mk]; with_reducible refine KeepsParts.of rfl ?_ ?_ ?_ ?_ ?_ ?_)
    | with_reducible apply Keeps.foldl
    | (intro r x hr; try dsimp -proj only)
    | with_reducible assumption
    | split

theorem keep_writeDwords {z0 : State} (bar : Nat) (x1 : List (Nat × Nat)) (x2 : Nat) (s : State) (h : Keeps z0 s) : Keeps z0 (writeDwords bar x1 x2 s) := by
  induction x1 generalizing x2 s with
  | nil => exact h
  | cons y ys ih =>
    unfold writeDwords
    try dsimp -proj only
    repeat' first
      | with_reducible exact h
      | with_reducible apply ih
      | with_reducible apply keep_writeDword
      | with_reducible assumption

theorem keep_execRegisterWrite (bar off : Nat) (dwords : List (Nat × Nat)) (s : State) : Goes s (execRegisterWrite bar off dwords s) := by
  have h := Keeps.refl s
  unfold execRegisterWrite
  try dsimp -proj only
  repeat' first
    | with_reducible exact h
    | with_reducible apply Keeps.ite
    | with_reducible apply Goes.ite
    | with_reducible apply Goes.next
    | with_reducible apply keep_writeDwords
    | (intro r hr; try dsimp -proj only)
    | with_reducible assumption
    | split

end Sys2Proof.Machine
end

