-- ==== Sys2Proof/Laws/LinkRun.lean ====
section
/-! SUPPORT. Laws of Machine/LinkRun.lean: each operation keeps the queue of waiting commands and soundness; each meaning goes on. -/

namespace Sys2Proof.Machine

theorem keep_raiseHostLink {z0 : State} (s : State) (sev : Nat) (h : Keeps z0 s) : Keeps z0 (raiseHostLink s sev) := by
  unfold raiseHostLink
  try dsimp -proj only
  repeat' first
    | with_reducible exact h
    | with_reducible apply keep_raise
    | with_reducible assumption

theorem keep_execPcieLinkUp (speed width : Nat) (s : State) : Goes s (execPcieLinkUp speed width s) := by
  have h := Keeps.refl s
  unfold execPcieLinkUp
  try dsimp -proj only
  repeat' first
    | with_reducible exact h
    | with_reducible apply Keeps.ite
    | with_reducible apply Goes.ite
    | with_reducible apply Goes.next
    | with_reducible apply keep_raiseHostLink
    | with_reducible apply Keeps.modHost
    | (simp -proj only [keeps_mk]; with_reducible refine KeepsParts.of rfl ?_ ?_ ?_ ?_ ?_ ?_)
    | with_reducible exact fun i => i
    | with_reducible exact fun i => InvHost.mk i.1 i.2 i.3
    | (intro r hr; try dsimp -proj only)
    | with_reducible assumption
    | with_reducible exact fun _ i => i
    | split
    | exact fun i => keepHost i (by simp [i.1]) (by simp [i.2]) (by simp [i.3])
    | exact fun i => by simpa using i

theorem keep_dropRing {z0 : State} (s : State) (k : Nat) (old : Ring) (h : Keeps z0 s) : Keeps z0 (dropRing s k old) := by
  unfold dropRing
  try dsimp -proj only
  repeat' first
    | with_reducible exact h
    | with_reducible apply keep_finishCopy
    | with_reducible apply keep_fp12Drop
    | with_reducible apply Keeps.modRing
    | (simp -proj only [keeps_mk]; with_reducible refine KeepsParts.of rfl ?_ ?_ ?_ ?_ ?_ ?_)
    | with_reducible exact fun i => i
    | with_reducible apply Keeps.foldl
    | (intro r x hr; try dsimp -proj only)
    | with_reducible assumption
    | with_reducible exact fun _ i => i
    | split
    | exact fun i => by simpa using i

theorem keep_hostReset {z0 : State} (s : State) (kind : Nat) (h : Keeps z0 s) : Keeps z0 (hostReset s kind) := by
  unfold hostReset
  try dsimp -proj only
  repeat' first
    | with_reducible exact h
    | with_reducible apply keep_abortSignings
    | with_reducible apply keep_State_modBoot
    | with_reducible apply Keeps.ite
    | with_reducible apply keep_steer
    | with_reducible apply keep_dropRing
    | with_reducible apply keep_raiseHostLink
    | with_reducible apply keep_resetEnds
    | with_reducible apply keep_breakLocks
    | with_reducible apply Keeps.modHost
    | (simp -proj only [keeps_mk]; with_reducible refine KeepsParts.of rfl ?_ ?_ ?_ ?_ ?_ ?_)
    | with_reducible exact fun i => i
    | with_reducible exact fun i => InvHost.mk i.1 i.2 i.3
    | with_reducible exact fun i => InvMb.mk i.1 i.2 i.3
    | with_reducible exact fun i => InvDma.mk i.1 i.2
    | with_reducible apply Keeps.foldl
    | (intro r x hr; try dsimp -proj only)
    | with_reducible assumption
    | with_reducible exact fun _ i => i
    | split
    | exact fun i => keepMb i (by simp [i.1]) (by simp [i.2]) (by intro hw; repeat' first | with_reducible exact hw | with_reducible apply wf_mwrite | with_reducible apply wf_mset | exact rfl)
    | exact fun i => keepHost i (by simp [i.1]) (by simp [i.2]) (by simp [i.3])
    | exact fun i => keepDma i (by simp [i.1]) (by simp [i.2])
    | exact fun i => by simpa using i

theorem keep_execFunctionLevelReset (s : State) : Goes s (execFunctionLevelReset s) := by
  have h := Keeps.refl s
  unfold execFunctionLevelReset
  try dsimp -proj only
  repeat' first
    | with_reducible exact h
    | with_reducible apply Keeps.ite
    | with_reducible apply Goes.ite
    | with_reducible apply Goes.next
    | with_reducible apply keep_hostReset
    | (intro r hr; try dsimp -proj only)
    | with_reducible assumption
    | split

theorem keep_execHotReset (s : State) : Goes s (execHotReset s) := by
  have h := Keeps.refl s
  unfold execHotReset
  try dsimp -proj only
  repeat' first
    | with_reducible exact h
    | with_reducible apply Keeps.ite
    | with_reducible apply Goes.ite
    | with_reducible apply Goes.next
    | with_reducible apply keep_hostReset
    | (intro r hr; try dsimp -proj only)
    | with_reducible assumption
    | split

theorem keep_execPcieLinkLoss (s : State) : Goes s (execPcieLinkLoss s) := by
  have h := Keeps.refl s
  unfold execPcieLinkLoss
  try dsimp -proj only
  repeat' first
    | with_reducible exact h
    | with_reducible apply Keeps.ite
    | with_reducible apply Goes.ite
    | with_reducible apply Goes.next
    | with_reducible apply keep_hostReset
    | (intro r hr; try dsimp -proj only)
    | with_reducible assumption
    | split

theorem keep_execPerstAssert (us : Nat) (s : State) : Goes s (execPerstAssert us s) := by
  have h := Keeps.refl s
  unfold execPerstAssert
  try dsimp -proj only
  repeat' first
    | with_reducible exact h
    | with_reducible apply Keeps.ite
    | with_reducible apply Goes.ite
    | with_reducible apply Goes.next
    | with_reducible apply keep_hostReset
    | (intro r hr; try dsimp -proj only)
    | with_reducible assumption
    | split

theorem keep_ringSleeps {z0 : State} (s : State) (k : Nat) (h : Keeps z0 s) : Keeps z0 (ringSleeps s k) := by
  unfold ringSleeps
  try dsimp -proj only
  repeat' first
    | with_reducible exact h
    | with_reducible apply Keeps.ite
    | with_reducible apply keep_fp12Drop
    | with_reducible apply keep_finishCopy
    | with_reducible apply keep_refetch
    | with_reducible apply Keeps.modRing
    | (simp -proj only [keeps_mk]; with_reducible refine KeepsParts.of rfl ?_ ?_ ?_ ?_ ?_ ?_)
    | with_reducible exact fun i => i
    | with_reducible assumption
    | with_reducible exact fun _ i => i
    | split
    | exact fun i => by simpa using i

theorem keep_execD3hotEntry (s : State) : Goes s (execD3hotEntry s) := by
  have h := Keeps.refl s
  unfold execD3hotEntry
  try dsimp -proj only
  repeat' first
    | with_reducible exact h
    | with_reducible apply Keeps.ite
    | with_reducible apply Goes.ite
    | with_reducible apply Goes.next
    | with_reducible apply keep_ringSleeps
    | with_reducible apply Keeps.modHost
    | (simp -proj only [keeps_mk]; with_reducible refine KeepsParts.of rfl ?_ ?_ ?_ ?_ ?_ ?_)
    | with_reducible exact fun i => i
    | with_reducible exact fun i => InvHost.mk i.1 i.2 i.3
    | with_reducible apply Keeps.foldl
    | (intro r x hr; try dsimp -proj only)
    | (intro r hr; try dsimp -proj only)
    | with_reducible assumption
    | with_reducible exact fun _ i => i
    | split
    | exact fun i => keepHost i (by simp [i.1]) (by simp [i.2]) (by simp [i.3])
    | exact fun i => by simpa using i

theorem keep_eqWakes {z0 : State} (s : State) (q : Nat) (h : Keeps z0 s) : Keeps z0 (eqWakes s q) := by
  unfold eqWakes
  try dsimp -proj only
  repeat' first
    | with_reducible exact h
    | with_reducible apply keep_logOverflow
    | with_reducible apply Keeps.modEq
    | (simp -proj only [keeps_mk]; with_reducible refine KeepsParts.of rfl ?_ ?_ ?_ ?_ ?_ ?_)
    | with_reducible exact fun i => i
    | with_reducible assumption
    | with_reducible exact fun _ i => i
    | split
    | exact fun i => by simpa using i

theorem keep_execD0Return (s : State) : Goes s (execD0Return s) := by
  have h := Keeps.refl s
  unfold execD0Return
  try dsimp -proj only
  repeat' first
    | with_reducible exact h
    | with_reducible apply Keeps.ite
    | with_reducible apply Goes.ite
    | with_reducible apply Goes.next
    | with_reducible apply keep_eqWakes
    | with_reducible apply keep_txRun
    | with_reducible apply keep_rxEnd
    | with_reducible apply keep_sendPending
    | with_reducible apply Keeps.modHost
    | (simp -proj only [keeps_mk]; with_reducible refine KeepsParts.of rfl ?_ ?_ ?_ ?_ ?_ ?_)
    | with_reducible exact fun i => i
    | with_reducible exact fun i => InvHost.mk i.1 i.2 i.3
    | with_reducible apply Keeps.foldl
    | (intro r x hr; try dsimp -proj only)
    | (intro r hr; try dsimp -proj only)
    | with_reducible assumption
    | with_reducible exact fun _ i => i
    | split
    | exact fun i => keepHost i (by simp [i.1]) (by simp [i.2]) (by simp [i.3])
    | exact fun i => by simpa using i

end Sys2Proof.Machine
end

