-- ==== Sys2Proof/Laws/ListCmds.lean ====
section
/-! SUPPORT. Laws of Machine/ListCmds.lean: each operation keeps the queue of waiting commands and soundness; each meaning goes on. -/

namespace Sys2Proof.Machine

-- kind none
-- kind none
-- kind none
-- kind raw:exact keep_listBody (fun _ _ _ hs => by first @ENTRIES@) h
end Sys2Proof.Machine
end

