-- ==== Sys2Proof/Laws/Runs.lean ====
section
/-! SUPPORT. What a mailbox command that runs comes to: its body's answer, given back (R77). -/

namespace Sys2Proof.Machine

theorem inlineOf_length (r : Req) : (inlineOf r).length = r.length := by
  simp [inlineOf, padTo, sub] <;> omega

@[simp] theorem asSubmitted_src (r : Req) : (asSubmitted r).src = r.src := by unfold asSubmitted; split <;> rfl

@[simp] theorem asSubmitted_flags (r : Req) : (asSubmitted r).flags = r.flags := by unfold asSubmitted; split <;> rfl

@[simp] theorem asSubmitted_length (r : Req) : (asSubmitted r).length = r.length := by unfold asSubmitted; split <;> rfl

@[simp] theorem asSubmitted_bulkLen (r : Req) : (asSubmitted r).bulkLen = r.bulkLen := by unfold asSubmitted; split <;> rfl

@[simp] theorem asSubmitted_totalLen (r : Req) : totalLen (asSubmitted r) = totalLen r := by simp [totalLen]

/-- Posting a request changes the mailbox window and `MB_DONE` only. -/
theorem postRequest_eq (s : State) (op : Nat) (r : Req) :
    ∃ w d, postRequest s op r = s.modMb fun m => { m with windows := w, done := d } := by
  unfold postRequest
  split
  · exact ⟨_, _, rfl⟩
  · exact ⟨s.mb.windows, s.mb.done, rfl⟩

/-- A command that is taken runs in the state in which its request has entered. -/
theorem submit_taken {s : State} {sp : CmdSpec} {r : Req} (h : Taken s r) :
    submit (postRequest s sp.opcode r) sp (asSubmitted r) = runCommand (entered s sp r) sp (asSubmitted r) s.mb.order false none := by
  obtain ⟨h1, h2, h3, h4, h5, h6⟩ := h
  unfold entered
  obtain ⟨w, d, e⟩ := postRequest_eq s sp.opcode r
  rw [e]
  have a1 : ¬ 12 ≤ r.src := by omega
  have a2 : ¬ (8 ≤ r.src ∧ !(at' s.mb.sessions (r.src - 8) {}).isOpen) := by
    intro ⟨a, b⟩
    simp [h2 a] at b
  have a3 : ¬ (r.src < 8 ∧ s.mb.resetDue.isSome) := by
    intro ⟨a, b⟩
    simp [h3 a] at b
  have a4 : sourceBusy (s.modMb fun m => { m with windows := w, done := d }) r.src = false := h4
  have a5 : serving (s.modMb fun m => { m with windows := w, done := d }) = true := h5
  have a6 : executorFree (s.modMb fun m => { m with windows := w, done := d }) r.src = true := h6
  unfold submit
  simp only [asSubmitted_src]
  rw [if_neg a1, if_neg (by exact a2), if_neg (by exact a3), a4, if_neg (by simp), if_pos ⟨a5, a6⟩]
  rfl

/-- A command that runs answers what its body answers. -/
theorem command_runs {s s1 : State} {sp : CmdSpec} {r : Req} {p : List Byte} (h : Runs s sp r p s1) :
    command sp r s = .next (settle s1 (heldCmd s sp r p) sp (sp.body s1 (asSubmitted r) p) false none) := by
  obtain ⟨ht, hp, hf, hl⟩ := h
  unfold command
  rw [submit_taken ht]
  congr 1
  unfold runCommand
  rw [hp]
  simp only
  unfold fetched at hf
  unfold heldCmd
  by_cases hb : bit r.flags 1
  · simp only [asSubmitted_flags, hb, Bool.not_true, Bool.false_eq_true, if_false, asSubmitted_src, if_true] at hf ⊢
    have hn := inlineOf_length (asSubmitted r)
    rw [asSubmitted_length] at hn
    by_cases hr : r.src ≥ 8
    · rw [if_pos hr] at hf
      rw [if_pos (.inl hr)]
      obtain ⟨rfl, rfl⟩ := Prod.mk.inj (Option.some.inj hf)
      simp only [asSubmitted_totalLen, hl]
      rw [← hn, List.drop_left]
    · rw [if_neg hr] at hf
      rw [if_neg (by simp [hr])]
      by_cases hd : (entered s sp r).host.d3hot
      · simp [hd] at hf
      · simp only [hd, Bool.false_eq_true, if_false] at hf ⊢
        split at hf
        · cases hf
        · rename_i e
          try rw [e]
          obtain ⟨rfl, rfl⟩ := Prod.mk.inj (Option.some.inj hf)
          simp only [asSubmitted_totalLen, hl]
          rw [← hn, List.drop_left]
  · simp only [asSubmitted_flags, hb, Bool.not_false, if_true, Bool.false_eq_true, if_false] at hf ⊢
    obtain ⟨rfl, rfl⟩ := Prod.mk.inj (Option.some.inj hf)
    rfl

/-- A command whose body is applied and that does not meet two live epochs with a commit. -/
theorem command_done {s s1 : State} {sp : CmdSpec} {r : Req} {p : List Byte} {d : Done} (h : Runs s sp r p s1)
    (hd : sp.body s1 (asSubmitted r) p = .done d) (hc : d.commits = true → s1.ep.draining = false) :
    command sp r s = .next (ends s sp r p s1 d) := by
  rw [command_runs h, hd]
  unfold settle ends
  simp only
  rw [if_neg (by intro ⟨a, b⟩; simp [hc a] at b)]

/-- A command whose body fails. -/
theorem command_fail {s s1 : State} {sp : CmdSpec} {r : Req} {p : List Byte} {status detail : Nat} (h : Runs s sp r p s1)
    (hd : sp.body s1 (asSubmitted r) p = .fail status detail) : command sp r s = .next (refused s sp r p s1 status detail) := by
  rw [command_runs h, hd]
  rfl

/-- A command whose body answers RETRY. -/
theorem command_retry {s s1 t : State} {sp : CmdSpec} {r : Req} {p : List Byte} {token ms : Nat} (h : Runs s sp r p s1)
    (hd : sp.body s1 (asSubmitted r) p = .retry token ms t) : command sp r s = .next (retries s sp r p token ms t) := by
  rw [command_runs h, hd]
  rfl

/-- A command that the executor keeps waiting. -/
theorem command_wait {s s1 t : State} {sp : CmdSpec} {r : Req} {p : List Byte} {kind : WaitKind} (h : Runs s sp r p s1)
    (hd : sp.body s1 (asSubmitted r) p = .wait kind t) : command sp r s = .next (waits s sp r p s1 kind t) := by
  rw [command_runs h, hd]
  rfl

/-- Checks none of which fails let the body run. -/
theorem checked_pass {cs : List Check} {k : Unit → Result} (h : ∀ c ∈ cs, c.bad = false) : checked cs k = k () := by
  unfold checked
  rw [show firstBad cs = none from List.find?_eq_none.2 fun c hc => by simp [h c hc]]

/-- Checks none of which fails let an entry apply. -/
theorem entryOk_pass {cs : List Check} {k : Unit → EntryRes} (h : ∀ c ∈ cs, c.bad = false) : entryOk cs k = k () := by
  unfold entryOk
  rw [show firstBad cs = none from List.find?_eq_none.2 fun c hc => by simp [h c hc]]

/-- A list whose entries all apply. -/
theorem listBody_of {size tables : Nat} {f : Nat → List Byte → State → EntryRes} {g : Nat → List Byte → State → List Check} {commits : Bool}
    {s t : State} {p : List Byte} {cl : List Nat} (h : ListApplies size f g p s t cl) (r : Req) :
    listBody size f g tables commits s r p = .done (listDone p t cl tables commits) := by
  obtain ⟨h1, h2⟩ := h
  unfold listBody
  dsimp only
  rw [h1]
  dsimp only
  rw [h2]
  rfl

end Sys2Proof.Machine
end

