-- ==== Sys2Proof/Laws/State.lean ====
section
/-! SUPPORT. One lemma per field of the state per update of it. -/

namespace Sys2Proof.Machine

variable (s : State)

@[simp] theorem State.modHt_mb (f : HorizonTables → HorizonTables) : (s.modHt f).mb = s.mb := rfl
@[simp] theorem State.modHt_eqs (f : HorizonTables → HorizonTables) : (s.modHt f).eqs = s.eqs := rfl
@[simp] theorem State.modHt_routes (f : HorizonTables → HorizonTables) : (s.modHt f).routes = s.routes := rfl
@[simp] theorem State.modHt_host (f : HorizonTables → HorizonTables) : (s.modHt f).host = s.host := rfl
@[simp] theorem State.modHt_dma (f : HorizonTables → HorizonTables) : (s.modHt f).dma = s.dma := rfl
@[simp] theorem State.modHt_hostMem (f : HorizonTables → HorizonTables) : (s.modHt f).hostMem = s.hostMem := rfl
@[simp] theorem State.modHt_ports (f : HorizonTables → HorizonTables) : (s.modHt f).ports = s.ports := rfl
@[simp] theorem State.modHt_ep (f : HorizonTables → HorizonTables) : (s.modHt f).ep = { s.ep with cur := { s.ep.cur with hor := f s.ep.cur.hor } } := rfl
@[simp] theorem State.modHt_ing (f : HorizonTables → HorizonTables) : (s.modHt f).ing = s.ing := rfl
@[simp] theorem State.modHt_hor (f : HorizonTables → HorizonTables) : (s.modHt f).hor = s.hor := rfl
@[simp] theorem State.modHt_fab (f : HorizonTables → HorizonTables) : (s.modHt f).fab = s.fab := rfl
@[simp] theorem State.modHt_egr (f : HorizonTables → HorizonTables) : (s.modHt f).egr = s.egr := rfl
@[simp] theorem State.modHt_time (f : HorizonTables → HorizonTables) : (s.modHt f).time = s.time := rfl
@[simp] theorem State.modHt_leg (f : HorizonTables → HorizonTables) : (s.modHt f).leg = s.leg := rfl
@[simp] theorem State.modHt_gw (f : HorizonTables → HorizonTables) : (s.modHt f).gw = s.gw := rfl
@[simp] theorem State.modHt_power (f : HorizonTables → HorizonTables) : (s.modHt f).power = s.power := rfl
@[simp] theorem State.modHt_keys (f : HorizonTables → HorizonTables) : (s.modHt f).keys = s.keys := rfl
@[simp] theorem State.modHt_boot (f : HorizonTables → HorizonTables) : (s.modHt f).boot = s.boot := rfl
@[simp] theorem State.modHt_lode (f : HorizonTables → HorizonTables) : (s.modHt f).lode = s.lode := rfl
@[simp] theorem State.modHt_upd (f : HorizonTables → HorizonTables) : (s.modHt f).upd = s.upd := rfl
@[simp] theorem State.modHt_pair (f : HorizonTables → HorizonTables) : (s.modHt f).pair = s.pair := rfl
@[simp] theorem State.modHt_carve (f : HorizonTables → HorizonTables) : (s.modHt f).carve = s.carve := rfl
@[simp] theorem State.modHt_free (f : HorizonTables → HorizonTables) : (s.modHt f).free = s.free := rfl
@[simp] theorem State.modHt_pending (f : HorizonTables → HorizonTables) : (s.modHt f).pending = s.pending := rfl

@[simp] theorem State.modIt_mb (f : IngressTables → IngressTables) : (s.modIt f).mb = s.mb := rfl
@[simp] theorem State.modIt_eqs (f : IngressTables → IngressTables) : (s.modIt f).eqs = s.eqs := rfl
@[simp] theorem State.modIt_routes (f : IngressTables → IngressTables) : (s.modIt f).routes = s.routes := rfl
@[simp] theorem State.modIt_host (f : IngressTables → IngressTables) : (s.modIt f).host = s.host := rfl
@[simp] theorem State.modIt_dma (f : IngressTables → IngressTables) : (s.modIt f).dma = s.dma := rfl
@[simp] theorem State.modIt_hostMem (f : IngressTables → IngressTables) : (s.modIt f).hostMem = s.hostMem := rfl
@[simp] theorem State.modIt_ports (f : IngressTables → IngressTables) : (s.modIt f).ports = s.ports := rfl
@[simp] theorem State.modIt_ep (f : IngressTables → IngressTables) : (s.modIt f).ep = { s.ep with cur := { s.ep.cur with ing := f s.ep.cur.ing } } := rfl
@[simp] theorem State.modIt_ing (f : IngressTables → IngressTables) : (s.modIt f).ing = s.ing := rfl
@[simp] theorem State.modIt_hor (f : IngressTables → IngressTables) : (s.modIt f).hor = s.hor := rfl
@[simp] theorem State.modIt_fab (f : IngressTables → IngressTables) : (s.modIt f).fab = s.fab := rfl
@[simp] theorem State.modIt_egr (f : IngressTables → IngressTables) : (s.modIt f).egr = s.egr := rfl
@[simp] theorem State.modIt_time (f : IngressTables → IngressTables) : (s.modIt f).time = s.time := rfl
@[simp] theorem State.modIt_leg (f : IngressTables → IngressTables) : (s.modIt f).leg = s.leg := rfl
@[simp] theorem State.modIt_gw (f : IngressTables → IngressTables) : (s.modIt f).gw = s.gw := rfl
@[simp] theorem State.modIt_power (f : IngressTables → IngressTables) : (s.modIt f).power = s.power := rfl
@[simp] theorem State.modIt_keys (f : IngressTables → IngressTables) : (s.modIt f).keys = s.keys := rfl
@[simp] theorem State.modIt_boot (f : IngressTables → IngressTables) : (s.modIt f).boot = s.boot := rfl
@[simp] theorem State.modIt_lode (f : IngressTables → IngressTables) : (s.modIt f).lode = s.lode := rfl
@[simp] theorem State.modIt_upd (f : IngressTables → IngressTables) : (s.modIt f).upd = s.upd := rfl
@[simp] theorem State.modIt_pair (f : IngressTables → IngressTables) : (s.modIt f).pair = s.pair := rfl
@[simp] theorem State.modIt_carve (f : IngressTables → IngressTables) : (s.modIt f).carve = s.carve := rfl
@[simp] theorem State.modIt_free (f : IngressTables → IngressTables) : (s.modIt f).free = s.free := rfl
@[simp] theorem State.modIt_pending (f : IngressTables → IngressTables) : (s.modIt f).pending = s.pending := rfl

@[simp] theorem State.modAtu_mb (f : Atu → Atu) : (s.modAtu f).mb = s.mb := rfl
@[simp] theorem State.modAtu_eqs (f : Atu → Atu) : (s.modAtu f).eqs = s.eqs := rfl
@[simp] theorem State.modAtu_routes (f : Atu → Atu) : (s.modAtu f).routes = s.routes := rfl
@[simp] theorem State.modAtu_host (f : Atu → Atu) : (s.modAtu f).host = s.host := rfl
@[simp] theorem State.modAtu_dma (f : Atu → Atu) : (s.modAtu f).dma = { s.dma with atu := f s.dma.atu } := rfl
@[simp] theorem State.modAtu_hostMem (f : Atu → Atu) : (s.modAtu f).hostMem = s.hostMem := rfl
@[simp] theorem State.modAtu_ports (f : Atu → Atu) : (s.modAtu f).ports = s.ports := rfl
@[simp] theorem State.modAtu_ep (f : Atu → Atu) : (s.modAtu f).ep = s.ep := rfl
@[simp] theorem State.modAtu_ing (f : Atu → Atu) : (s.modAtu f).ing = s.ing := rfl
@[simp] theorem State.modAtu_hor (f : Atu → Atu) : (s.modAtu f).hor = s.hor := rfl
@[simp] theorem State.modAtu_fab (f : Atu → Atu) : (s.modAtu f).fab = s.fab := rfl
@[simp] theorem State.modAtu_egr (f : Atu → Atu) : (s.modAtu f).egr = s.egr := rfl
@[simp] theorem State.modAtu_time (f : Atu → Atu) : (s.modAtu f).time = s.time := rfl
@[simp] theorem State.modAtu_leg (f : Atu → Atu) : (s.modAtu f).leg = s.leg := rfl
@[simp] theorem State.modAtu_gw (f : Atu → Atu) : (s.modAtu f).gw = s.gw := rfl
@[simp] theorem State.modAtu_power (f : Atu → Atu) : (s.modAtu f).power = s.power := rfl
@[simp] theorem State.modAtu_keys (f : Atu → Atu) : (s.modAtu f).keys = s.keys := rfl
@[simp] theorem State.modAtu_boot (f : Atu → Atu) : (s.modAtu f).boot = s.boot := rfl
@[simp] theorem State.modAtu_lode (f : Atu → Atu) : (s.modAtu f).lode = s.lode := rfl
@[simp] theorem State.modAtu_upd (f : Atu → Atu) : (s.modAtu f).upd = s.upd := rfl
@[simp] theorem State.modAtu_pair (f : Atu → Atu) : (s.modAtu f).pair = s.pair := rfl
@[simp] theorem State.modAtu_carve (f : Atu → Atu) : (s.modAtu f).carve = s.carve := rfl
@[simp] theorem State.modAtu_free (f : Atu → Atu) : (s.modAtu f).free = s.free := rfl
@[simp] theorem State.modAtu_pending (f : Atu → Atu) : (s.modAtu f).pending = s.pending := rfl

@[simp] theorem State.modBoot_mb (f : Boot → Boot) : (s.modBoot f).mb = s.mb := rfl
@[simp] theorem State.modBoot_eqs (f : Boot → Boot) : (s.modBoot f).eqs = s.eqs := rfl
@[simp] theorem State.modBoot_routes (f : Boot → Boot) : (s.modBoot f).routes = s.routes := rfl
@[simp] theorem State.modBoot_host (f : Boot → Boot) : (s.modBoot f).host = s.host := rfl
@[simp] theorem State.modBoot_dma (f : Boot → Boot) : (s.modBoot f).dma = s.dma := rfl
@[simp] theorem State.modBoot_hostMem (f : Boot → Boot) : (s.modBoot f).hostMem = s.hostMem := rfl
@[simp] theorem State.modBoot_ports (f : Boot → Boot) : (s.modBoot f).ports = s.ports := rfl
@[simp] theorem State.modBoot_ep (f : Boot → Boot) : (s.modBoot f).ep = s.ep := rfl
@[simp] theorem State.modBoot_ing (f : Boot → Boot) : (s.modBoot f).ing = s.ing := rfl
@[simp] theorem State.modBoot_hor (f : Boot → Boot) : (s.modBoot f).hor = s.hor := rfl
@[simp] theorem State.modBoot_fab (f : Boot → Boot) : (s.modBoot f).fab = s.fab := rfl
@[simp] theorem State.modBoot_egr (f : Boot → Boot) : (s.modBoot f).egr = s.egr := rfl
@[simp] theorem State.modBoot_time (f : Boot → Boot) : (s.modBoot f).time = s.time := rfl
@[simp] theorem State.modBoot_leg (f : Boot → Boot) : (s.modBoot f).leg = s.leg := rfl
@[simp] theorem State.modBoot_gw (f : Boot → Boot) : (s.modBoot f).gw = s.gw := rfl
@[simp] theorem State.modBoot_power (f : Boot → Boot) : (s.modBoot f).power = s.power := rfl
@[simp] theorem State.modBoot_keys (f : Boot → Boot) : (s.modBoot f).keys = s.keys := rfl
@[simp] theorem State.modBoot_boot (f : Boot → Boot) : (s.modBoot f).boot = f s.boot := rfl
@[simp] theorem State.modBoot_lode (f : Boot → Boot) : (s.modBoot f).lode = s.lode := rfl
@[simp] theorem State.modBoot_upd (f : Boot → Boot) : (s.modBoot f).upd = s.upd := rfl
@[simp] theorem State.modBoot_pair (f : Boot → Boot) : (s.modBoot f).pair = s.pair := rfl
@[simp] theorem State.modBoot_carve (f : Boot → Boot) : (s.modBoot f).carve = s.carve := rfl
@[simp] theorem State.modBoot_free (f : Boot → Boot) : (s.modBoot f).free = s.free := rfl
@[simp] theorem State.modBoot_pending (f : Boot → Boot) : (s.modBoot f).pending = s.pending := rfl

@[simp] theorem State.modFab_mb (f : Fabric → Fabric) : (s.modFab f).mb = s.mb := rfl
@[simp] theorem State.modFab_eqs (f : Fabric → Fabric) : (s.modFab f).eqs = s.eqs := rfl
@[simp] theorem State.modFab_routes (f : Fabric → Fabric) : (s.modFab f).routes = s.routes := rfl
@[simp] theorem State.modFab_host (f : Fabric → Fabric) : (s.modFab f).host = s.host := rfl
@[simp] theorem State.modFab_dma (f : Fabric → Fabric) : (s.modFab f).dma = s.dma := rfl
@[simp] theorem State.modFab_hostMem (f : Fabric → Fabric) : (s.modFab f).hostMem = s.hostMem := rfl
@[simp] theorem State.modFab_ports (f : Fabric → Fabric) : (s.modFab f).ports = s.ports := rfl
@[simp] theorem State.modFab_ep (f : Fabric → Fabric) : (s.modFab f).ep = s.ep := rfl
@[simp] theorem State.modFab_ing (f : Fabric → Fabric) : (s.modFab f).ing = s.ing := rfl
@[simp] theorem State.modFab_hor (f : Fabric → Fabric) : (s.modFab f).hor = s.hor := rfl
@[simp] theorem State.modFab_fab (f : Fabric → Fabric) : (s.modFab f).fab = f s.fab := rfl
@[simp] theorem State.modFab_egr (f : Fabric → Fabric) : (s.modFab f).egr = s.egr := rfl
@[simp] theorem State.modFab_time (f : Fabric → Fabric) : (s.modFab f).time = s.time := rfl
@[simp] theorem State.modFab_leg (f : Fabric → Fabric) : (s.modFab f).leg = s.leg := rfl
@[simp] theorem State.modFab_gw (f : Fabric → Fabric) : (s.modFab f).gw = s.gw := rfl
@[simp] theorem State.modFab_power (f : Fabric → Fabric) : (s.modFab f).power = s.power := rfl
@[simp] theorem State.modFab_keys (f : Fabric → Fabric) : (s.modFab f).keys = s.keys := rfl
@[simp] theorem State.modFab_boot (f : Fabric → Fabric) : (s.modFab f).boot = s.boot := rfl
@[simp] theorem State.modFab_lode (f : Fabric → Fabric) : (s.modFab f).lode = s.lode := rfl
@[simp] theorem State.modFab_upd (f : Fabric → Fabric) : (s.modFab f).upd = s.upd := rfl
@[simp] theorem State.modFab_pair (f : Fabric → Fabric) : (s.modFab f).pair = s.pair := rfl
@[simp] theorem State.modFab_carve (f : Fabric → Fabric) : (s.modFab f).carve = s.carve := rfl
@[simp] theorem State.modFab_free (f : Fabric → Fabric) : (s.modFab f).free = s.free := rfl
@[simp] theorem State.modFab_pending (f : Fabric → Fabric) : (s.modFab f).pending = s.pending := rfl

@[simp] theorem State.modLeg_mb (f : Legacy → Legacy) : (s.modLeg f).mb = s.mb := rfl
@[simp] theorem State.modLeg_eqs (f : Legacy → Legacy) : (s.modLeg f).eqs = s.eqs := rfl
@[simp] theorem State.modLeg_routes (f : Legacy → Legacy) : (s.modLeg f).routes = s.routes := rfl
@[simp] theorem State.modLeg_host (f : Legacy → Legacy) : (s.modLeg f).host = s.host := rfl
@[simp] theorem State.modLeg_dma (f : Legacy → Legacy) : (s.modLeg f).dma = s.dma := rfl
@[simp] theorem State.modLeg_hostMem (f : Legacy → Legacy) : (s.modLeg f).hostMem = s.hostMem := rfl
@[simp] theorem State.modLeg_ports (f : Legacy → Legacy) : (s.modLeg f).ports = s.ports := rfl
@[simp] theorem State.modLeg_ep (f : Legacy → Legacy) : (s.modLeg f).ep = s.ep := rfl
@[simp] theorem State.modLeg_ing (f : Legacy → Legacy) : (s.modLeg f).ing = s.ing := rfl
@[simp] theorem State.modLeg_hor (f : Legacy → Legacy) : (s.modLeg f).hor = s.hor := rfl
@[simp] theorem State.modLeg_fab (f : Legacy → Legacy) : (s.modLeg f).fab = s.fab := rfl
@[simp] theorem State.modLeg_egr (f : Legacy → Legacy) : (s.modLeg f).egr = s.egr := rfl
@[simp] theorem State.modLeg_time (f : Legacy → Legacy) : (s.modLeg f).time = s.time := rfl
@[simp] theorem State.modLeg_leg (f : Legacy → Legacy) : (s.modLeg f).leg = f s.leg := rfl
@[simp] theorem State.modLeg_gw (f : Legacy → Legacy) : (s.modLeg f).gw = s.gw := rfl
@[simp] theorem State.modLeg_power (f : Legacy → Legacy) : (s.modLeg f).power = s.power := rfl
@[simp] theorem State.modLeg_keys (f : Legacy → Legacy) : (s.modLeg f).keys = s.keys := rfl
@[simp] theorem State.modLeg_boot (f : Legacy → Legacy) : (s.modLeg f).boot = s.boot := rfl
@[simp] theorem State.modLeg_lode (f : Legacy → Legacy) : (s.modLeg f).lode = s.lode := rfl
@[simp] theorem State.modLeg_upd (f : Legacy → Legacy) : (s.modLeg f).upd = s.upd := rfl
@[simp] theorem State.modLeg_pair (f : Legacy → Legacy) : (s.modLeg f).pair = s.pair := rfl
@[simp] theorem State.modLeg_carve (f : Legacy → Legacy) : (s.modLeg f).carve = s.carve := rfl
@[simp] theorem State.modLeg_free (f : Legacy → Legacy) : (s.modLeg f).free = s.free := rfl
@[simp] theorem State.modLeg_pending (f : Legacy → Legacy) : (s.modLeg f).pending = s.pending := rfl

@[simp] theorem State.modGw_mb (f : Gateway → Gateway) : (s.modGw f).mb = s.mb := rfl
@[simp] theorem State.modGw_eqs (f : Gateway → Gateway) : (s.modGw f).eqs = s.eqs := rfl
@[simp] theorem State.modGw_routes (f : Gateway → Gateway) : (s.modGw f).routes = s.routes := rfl
@[simp] theorem State.modGw_host (f : Gateway → Gateway) : (s.modGw f).host = s.host := rfl
@[simp] theorem State.modGw_dma (f : Gateway → Gateway) : (s.modGw f).dma = s.dma := rfl
@[simp] theorem State.modGw_hostMem (f : Gateway → Gateway) : (s.modGw f).hostMem = s.hostMem := rfl
@[simp] theorem State.modGw_ports (f : Gateway → Gateway) : (s.modGw f).ports = s.ports := rfl
@[simp] theorem State.modGw_ep (f : Gateway → Gateway) : (s.modGw f).ep = s.ep := rfl
@[simp] theorem State.modGw_ing (f : Gateway → Gateway) : (s.modGw f).ing = s.ing := rfl
@[simp] theorem State.modGw_hor (f : Gateway → Gateway) : (s.modGw f).hor = s.hor := rfl
@[simp] theorem State.modGw_fab (f : Gateway → Gateway) : (s.modGw f).fab = s.fab := rfl
@[simp] theorem State.modGw_egr (f : Gateway → Gateway) : (s.modGw f).egr = s.egr := rfl
@[simp] theorem State.modGw_time (f : Gateway → Gateway) : (s.modGw f).time = s.time := rfl
@[simp] theorem State.modGw_leg (f : Gateway → Gateway) : (s.modGw f).leg = s.leg := rfl
@[simp] theorem State.modGw_gw (f : Gateway → Gateway) : (s.modGw f).gw = f s.gw := rfl
@[simp] theorem State.modGw_power (f : Gateway → Gateway) : (s.modGw f).power = s.power := rfl
@[simp] theorem State.modGw_keys (f : Gateway → Gateway) : (s.modGw f).keys = s.keys := rfl
@[simp] theorem State.modGw_boot (f : Gateway → Gateway) : (s.modGw f).boot = s.boot := rfl
@[simp] theorem State.modGw_lode (f : Gateway → Gateway) : (s.modGw f).lode = s.lode := rfl
@[simp] theorem State.modGw_upd (f : Gateway → Gateway) : (s.modGw f).upd = s.upd := rfl
@[simp] theorem State.modGw_pair (f : Gateway → Gateway) : (s.modGw f).pair = s.pair := rfl
@[simp] theorem State.modGw_carve (f : Gateway → Gateway) : (s.modGw f).carve = s.carve := rfl
@[simp] theorem State.modGw_free (f : Gateway → Gateway) : (s.modGw f).free = s.free := rfl
@[simp] theorem State.modGw_pending (f : Gateway → Gateway) : (s.modGw f).pending = s.pending := rfl

@[simp] theorem State.modHor_mb (f : Horizon → Horizon) : (s.modHor f).mb = s.mb := rfl
@[simp] theorem State.modHor_eqs (f : Horizon → Horizon) : (s.modHor f).eqs = s.eqs := rfl
@[simp] theorem State.modHor_routes (f : Horizon → Horizon) : (s.modHor f).routes = s.routes := rfl
@[simp] theorem State.modHor_host (f : Horizon → Horizon) : (s.modHor f).host = s.host := rfl
@[simp] theorem State.modHor_dma (f : Horizon → Horizon) : (s.modHor f).dma = s.dma := rfl
@[simp] theorem State.modHor_hostMem (f : Horizon → Horizon) : (s.modHor f).hostMem = s.hostMem := rfl
@[simp] theorem State.modHor_ports (f : Horizon → Horizon) : (s.modHor f).ports = s.ports := rfl
@[simp] theorem State.modHor_ep (f : Horizon → Horizon) : (s.modHor f).ep = s.ep := rfl
@[simp] theorem State.modHor_ing (f : Horizon → Horizon) : (s.modHor f).ing = s.ing := rfl
@[simp] theorem State.modHor_hor (f : Horizon → Horizon) : (s.modHor f).hor = f s.hor := rfl
@[simp] theorem State.modHor_fab (f : Horizon → Horizon) : (s.modHor f).fab = s.fab := rfl
@[simp] theorem State.modHor_egr (f : Horizon → Horizon) : (s.modHor f).egr = s.egr := rfl
@[simp] theorem State.modHor_time (f : Horizon → Horizon) : (s.modHor f).time = s.time := rfl
@[simp] theorem State.modHor_leg (f : Horizon → Horizon) : (s.modHor f).leg = s.leg := rfl
@[simp] theorem State.modHor_gw (f : Horizon → Horizon) : (s.modHor f).gw = s.gw := rfl
@[simp] theorem State.modHor_power (f : Horizon → Horizon) : (s.modHor f).power = s.power := rfl
@[simp] theorem State.modHor_keys (f : Horizon → Horizon) : (s.modHor f).keys = s.keys := rfl
@[simp] theorem State.modHor_boot (f : Horizon → Horizon) : (s.modHor f).boot = s.boot := rfl
@[simp] theorem State.modHor_lode (f : Horizon → Horizon) : (s.modHor f).lode = s.lode := rfl
@[simp] theorem State.modHor_upd (f : Horizon → Horizon) : (s.modHor f).upd = s.upd := rfl
@[simp] theorem State.modHor_pair (f : Horizon → Horizon) : (s.modHor f).pair = s.pair := rfl
@[simp] theorem State.modHor_carve (f : Horizon → Horizon) : (s.modHor f).carve = s.carve := rfl
@[simp] theorem State.modHor_free (f : Horizon → Horizon) : (s.modHor f).free = s.free := rfl
@[simp] theorem State.modHor_pending (f : Horizon → Horizon) : (s.modHor f).pending = s.pending := rfl

@[simp] theorem State.modIng_mb (f : Ingress → Ingress) : (s.modIng f).mb = s.mb := rfl
@[simp] theorem State.modIng_eqs (f : Ingress → Ingress) : (s.modIng f).eqs = s.eqs := rfl
@[simp] theorem State.modIng_routes (f : Ingress → Ingress) : (s.modIng f).routes = s.routes := rfl
@[simp] theorem State.modIng_host (f : Ingress → Ingress) : (s.modIng f).host = s.host := rfl
@[simp] theorem State.modIng_dma (f : Ingress → Ingress) : (s.modIng f).dma = s.dma := rfl
@[simp] theorem State.modIng_hostMem (f : Ingress → Ingress) : (s.modIng f).hostMem = s.hostMem := rfl
@[simp] theorem State.modIng_ports (f : Ingress → Ingress) : (s.modIng f).ports = s.ports := rfl
@[simp] theorem State.modIng_ep (f : Ingress → Ingress) : (s.modIng f).ep = s.ep := rfl
@[simp] theorem State.modIng_ing (f : Ingress → Ingress) : (s.modIng f).ing = f s.ing := rfl
@[simp] theorem State.modIng_hor (f : Ingress → Ingress) : (s.modIng f).hor = s.hor := rfl
@[simp] theorem State.modIng_fab (f : Ingress → Ingress) : (s.modIng f).fab = s.fab := rfl
@[simp] theorem State.modIng_egr (f : Ingress → Ingress) : (s.modIng f).egr = s.egr := rfl
@[simp] theorem State.modIng_time (f : Ingress → Ingress) : (s.modIng f).time = s.time := rfl
@[simp] theorem State.modIng_leg (f : Ingress → Ingress) : (s.modIng f).leg = s.leg := rfl
@[simp] theorem State.modIng_gw (f : Ingress → Ingress) : (s.modIng f).gw = s.gw := rfl
@[simp] theorem State.modIng_power (f : Ingress → Ingress) : (s.modIng f).power = s.power := rfl
@[simp] theorem State.modIng_keys (f : Ingress → Ingress) : (s.modIng f).keys = s.keys := rfl
@[simp] theorem State.modIng_boot (f : Ingress → Ingress) : (s.modIng f).boot = s.boot := rfl
@[simp] theorem State.modIng_lode (f : Ingress → Ingress) : (s.modIng f).lode = s.lode := rfl
@[simp] theorem State.modIng_upd (f : Ingress → Ingress) : (s.modIng f).upd = s.upd := rfl
@[simp] theorem State.modIng_pair (f : Ingress → Ingress) : (s.modIng f).pair = s.pair := rfl
@[simp] theorem State.modIng_carve (f : Ingress → Ingress) : (s.modIng f).carve = s.carve := rfl
@[simp] theorem State.modIng_free (f : Ingress → Ingress) : (s.modIng f).free = s.free := rfl
@[simp] theorem State.modIng_pending (f : Ingress → Ingress) : (s.modIng f).pending = s.pending := rfl

@[simp] theorem State.modKeys_mb (f : Keys → Keys) : (s.modKeys f).mb = s.mb := rfl
@[simp] theorem State.modKeys_eqs (f : Keys → Keys) : (s.modKeys f).eqs = s.eqs := rfl
@[simp] theorem State.modKeys_routes (f : Keys → Keys) : (s.modKeys f).routes = s.routes := rfl
@[simp] theorem State.modKeys_host (f : Keys → Keys) : (s.modKeys f).host = s.host := rfl
@[simp] theorem State.modKeys_dma (f : Keys → Keys) : (s.modKeys f).dma = s.dma := rfl
@[simp] theorem State.modKeys_hostMem (f : Keys → Keys) : (s.modKeys f).hostMem = s.hostMem := rfl
@[simp] theorem State.modKeys_ports (f : Keys → Keys) : (s.modKeys f).ports = s.ports := rfl
@[simp] theorem State.modKeys_ep (f : Keys → Keys) : (s.modKeys f).ep = s.ep := rfl
@[simp] theorem State.modKeys_ing (f : Keys → Keys) : (s.modKeys f).ing = s.ing := rfl
@[simp] theorem State.modKeys_hor (f : Keys → Keys) : (s.modKeys f).hor = s.hor := rfl
@[simp] theorem State.modKeys_fab (f : Keys → Keys) : (s.modKeys f).fab = s.fab := rfl
@[simp] theorem State.modKeys_egr (f : Keys → Keys) : (s.modKeys f).egr = s.egr := rfl
@[simp] theorem State.modKeys_time (f : Keys → Keys) : (s.modKeys f).time = s.time := rfl
@[simp] theorem State.modKeys_leg (f : Keys → Keys) : (s.modKeys f).leg = s.leg := rfl
@[simp] theorem State.modKeys_gw (f : Keys → Keys) : (s.modKeys f).gw = s.gw := rfl
@[simp] theorem State.modKeys_power (f : Keys → Keys) : (s.modKeys f).power = s.power := rfl
@[simp] theorem State.modKeys_keys (f : Keys → Keys) : (s.modKeys f).keys = f s.keys := rfl
@[simp] theorem State.modKeys_boot (f : Keys → Keys) : (s.modKeys f).boot = s.boot := rfl
@[simp] theorem State.modKeys_lode (f : Keys → Keys) : (s.modKeys f).lode = s.lode := rfl
@[simp] theorem State.modKeys_upd (f : Keys → Keys) : (s.modKeys f).upd = s.upd := rfl
@[simp] theorem State.modKeys_pair (f : Keys → Keys) : (s.modKeys f).pair = s.pair := rfl
@[simp] theorem State.modKeys_carve (f : Keys → Keys) : (s.modKeys f).carve = s.carve := rfl
@[simp] theorem State.modKeys_free (f : Keys → Keys) : (s.modKeys f).free = s.free := rfl
@[simp] theorem State.modKeys_pending (f : Keys → Keys) : (s.modKeys f).pending = s.pending := rfl

@[simp] theorem State.modPair_mb (f : Pair → Pair) : (s.modPair f).mb = s.mb := rfl
@[simp] theorem State.modPair_eqs (f : Pair → Pair) : (s.modPair f).eqs = s.eqs := rfl
@[simp] theorem State.modPair_routes (f : Pair → Pair) : (s.modPair f).routes = s.routes := rfl
@[simp] theorem State.modPair_host (f : Pair → Pair) : (s.modPair f).host = s.host := rfl
@[simp] theorem State.modPair_dma (f : Pair → Pair) : (s.modPair f).dma = s.dma := rfl
@[simp] theorem State.modPair_hostMem (f : Pair → Pair) : (s.modPair f).hostMem = s.hostMem := rfl
@[simp] theorem State.modPair_ports (f : Pair → Pair) : (s.modPair f).ports = s.ports := rfl
@[simp] theorem State.modPair_ep (f : Pair → Pair) : (s.modPair f).ep = s.ep := rfl
@[simp] theorem State.modPair_ing (f : Pair → Pair) : (s.modPair f).ing = s.ing := rfl
@[simp] theorem State.modPair_hor (f : Pair → Pair) : (s.modPair f).hor = s.hor := rfl
@[simp] theorem State.modPair_fab (f : Pair → Pair) : (s.modPair f).fab = s.fab := rfl
@[simp] theorem State.modPair_egr (f : Pair → Pair) : (s.modPair f).egr = s.egr := rfl
@[simp] theorem State.modPair_time (f : Pair → Pair) : (s.modPair f).time = s.time := rfl
@[simp] theorem State.modPair_leg (f : Pair → Pair) : (s.modPair f).leg = s.leg := rfl
@[simp] theorem State.modPair_gw (f : Pair → Pair) : (s.modPair f).gw = s.gw := rfl
@[simp] theorem State.modPair_power (f : Pair → Pair) : (s.modPair f).power = s.power := rfl
@[simp] theorem State.modPair_keys (f : Pair → Pair) : (s.modPair f).keys = s.keys := rfl
@[simp] theorem State.modPair_boot (f : Pair → Pair) : (s.modPair f).boot = s.boot := rfl
@[simp] theorem State.modPair_lode (f : Pair → Pair) : (s.modPair f).lode = s.lode := rfl
@[simp] theorem State.modPair_upd (f : Pair → Pair) : (s.modPair f).upd = s.upd := rfl
@[simp] theorem State.modPair_pair (f : Pair → Pair) : (s.modPair f).pair = f s.pair := rfl
@[simp] theorem State.modPair_carve (f : Pair → Pair) : (s.modPair f).carve = s.carve := rfl
@[simp] theorem State.modPair_free (f : Pair → Pair) : (s.modPair f).free = s.free := rfl
@[simp] theorem State.modPair_pending (f : Pair → Pair) : (s.modPair f).pending = s.pending := rfl

@[simp] theorem State.modLode_mb (f : Lodestar → Lodestar) : (s.modLode f).mb = s.mb := rfl
@[simp] theorem State.modLode_eqs (f : Lodestar → Lodestar) : (s.modLode f).eqs = s.eqs := rfl
@[simp] theorem State.modLode_routes (f : Lodestar → Lodestar) : (s.modLode f).routes = s.routes := rfl
@[simp] theorem State.modLode_host (f : Lodestar → Lodestar) : (s.modLode f).host = s.host := rfl
@[simp] theorem State.modLode_dma (f : Lodestar → Lodestar) : (s.modLode f).dma = s.dma := rfl
@[simp] theorem State.modLode_hostMem (f : Lodestar → Lodestar) : (s.modLode f).hostMem = s.hostMem := rfl
@[simp] theorem State.modLode_ports (f : Lodestar → Lodestar) : (s.modLode f).ports = s.ports := rfl
@[simp] theorem State.modLode_ep (f : Lodestar → Lodestar) : (s.modLode f).ep = s.ep := rfl
@[simp] theorem State.modLode_ing (f : Lodestar → Lodestar) : (s.modLode f).ing = s.ing := rfl
@[simp] theorem State.modLode_hor (f : Lodestar → Lodestar) : (s.modLode f).hor = s.hor := rfl
@[simp] theorem State.modLode_fab (f : Lodestar → Lodestar) : (s.modLode f).fab = s.fab := rfl
@[simp] theorem State.modLode_egr (f : Lodestar → Lodestar) : (s.modLode f).egr = s.egr := rfl
@[simp] theorem State.modLode_time (f : Lodestar → Lodestar) : (s.modLode f).time = s.time := rfl
@[simp] theorem State.modLode_leg (f : Lodestar → Lodestar) : (s.modLode f).leg = s.leg := rfl
@[simp] theorem State.modLode_gw (f : Lodestar → Lodestar) : (s.modLode f).gw = s.gw := rfl
@[simp] theorem State.modLode_power (f : Lodestar → Lodestar) : (s.modLode f).power = s.power := rfl
@[simp] theorem State.modLode_keys (f : Lodestar → Lodestar) : (s.modLode f).keys = s.keys := rfl
@[simp] theorem State.modLode_boot (f : Lodestar → Lodestar) : (s.modLode f).boot = s.boot := rfl
@[simp] theorem State.modLode_lode (f : Lodestar → Lodestar) : (s.modLode f).lode = f s.lode := rfl
@[simp] theorem State.modLode_upd (f : Lodestar → Lodestar) : (s.modLode f).upd = s.upd := rfl
@[simp] theorem State.modLode_pair (f : Lodestar → Lodestar) : (s.modLode f).pair = s.pair := rfl
@[simp] theorem State.modLode_carve (f : Lodestar → Lodestar) : (s.modLode f).carve = s.carve := rfl
@[simp] theorem State.modLode_free (f : Lodestar → Lodestar) : (s.modLode f).free = s.free := rfl
@[simp] theorem State.modLode_pending (f : Lodestar → Lodestar) : (s.modLode f).pending = s.pending := rfl

@[simp] theorem State.modHost_mb (f : HostLink → HostLink) : (s.modHost f).mb = s.mb := rfl
@[simp] theorem State.modHost_eqs (f : HostLink → HostLink) : (s.modHost f).eqs = s.eqs := rfl
@[simp] theorem State.modHost_routes (f : HostLink → HostLink) : (s.modHost f).routes = s.routes := rfl
@[simp] theorem State.modHost_host (f : HostLink → HostLink) : (s.modHost f).host = f s.host := rfl
@[simp] theorem State.modHost_dma (f : HostLink → HostLink) : (s.modHost f).dma = s.dma := rfl
@[simp] theorem State.modHost_hostMem (f : HostLink → HostLink) : (s.modHost f).hostMem = s.hostMem := rfl
@[simp] theorem State.modHost_ports (f : HostLink → HostLink) : (s.modHost f).ports = s.ports := rfl
@[simp] theorem State.modHost_ep (f : HostLink → HostLink) : (s.modHost f).ep = s.ep := rfl
@[simp] theorem State.modHost_ing (f : HostLink → HostLink) : (s.modHost f).ing = s.ing := rfl
@[simp] theorem State.modHost_hor (f : HostLink → HostLink) : (s.modHost f).hor = s.hor := rfl
@[simp] theorem State.modHost_fab (f : HostLink → HostLink) : (s.modHost f).fab = s.fab := rfl
@[simp] theorem State.modHost_egr (f : HostLink → HostLink) : (s.modHost f).egr = s.egr := rfl
@[simp] theorem State.modHost_time (f : HostLink → HostLink) : (s.modHost f).time = s.time := rfl
@[simp] theorem State.modHost_leg (f : HostLink → HostLink) : (s.modHost f).leg = s.leg := rfl
@[simp] theorem State.modHost_gw (f : HostLink → HostLink) : (s.modHost f).gw = s.gw := rfl
@[simp] theorem State.modHost_power (f : HostLink → HostLink) : (s.modHost f).power = s.power := rfl
@[simp] theorem State.modHost_keys (f : HostLink → HostLink) : (s.modHost f).keys = s.keys := rfl
@[simp] theorem State.modHost_boot (f : HostLink → HostLink) : (s.modHost f).boot = s.boot := rfl
@[simp] theorem State.modHost_lode (f : HostLink → HostLink) : (s.modHost f).lode = s.lode := rfl
@[simp] theorem State.modHost_upd (f : HostLink → HostLink) : (s.modHost f).upd = s.upd := rfl
@[simp] theorem State.modHost_pair (f : HostLink → HostLink) : (s.modHost f).pair = s.pair := rfl
@[simp] theorem State.modHost_carve (f : HostLink → HostLink) : (s.modHost f).carve = s.carve := rfl
@[simp] theorem State.modHost_free (f : HostLink → HostLink) : (s.modHost f).free = s.free := rfl
@[simp] theorem State.modHost_pending (f : HostLink → HostLink) : (s.modHost f).pending = s.pending := rfl

@[simp] theorem State.modMb_mb (f : Mailbox → Mailbox) : (s.modMb f).mb = f s.mb := rfl
@[simp] theorem State.modMb_eqs (f : Mailbox → Mailbox) : (s.modMb f).eqs = s.eqs := rfl
@[simp] theorem State.modMb_routes (f : Mailbox → Mailbox) : (s.modMb f).routes = s.routes := rfl
@[simp] theorem State.modMb_host (f : Mailbox → Mailbox) : (s.modMb f).host = s.host := rfl
@[simp] theorem State.modMb_dma (f : Mailbox → Mailbox) : (s.modMb f).dma = s.dma := rfl
@[simp] theorem State.modMb_hostMem (f : Mailbox → Mailbox) : (s.modMb f).hostMem = s.hostMem := rfl
@[simp] theorem State.modMb_ports (f : Mailbox → Mailbox) : (s.modMb f).ports = s.ports := rfl
@[simp] theorem State.modMb_ep (f : Mailbox → Mailbox) : (s.modMb f).ep = s.ep := rfl
@[simp] theorem State.modMb_ing (f : Mailbox → Mailbox) : (s.modMb f).ing = s.ing := rfl
@[simp] theorem State.modMb_hor (f : Mailbox → Mailbox) : (s.modMb f).hor = s.hor := rfl
@[simp] theorem State.modMb_fab (f : Mailbox → Mailbox) : (s.modMb f).fab = s.fab := rfl
@[simp] theorem State.modMb_egr (f : Mailbox → Mailbox) : (s.modMb f).egr = s.egr := rfl
@[simp] theorem State.modMb_time (f : Mailbox → Mailbox) : (s.modMb f).time = s.time := rfl
@[simp] theorem State.modMb_leg (f : Mailbox → Mailbox) : (s.modMb f).leg = s.leg := rfl
@[simp] theorem State.modMb_gw (f : Mailbox → Mailbox) : (s.modMb f).gw = s.gw := rfl
@[simp] theorem State.modMb_power (f : Mailbox → Mailbox) : (s.modMb f).power = s.power := rfl
@[simp] theorem State.modMb_keys (f : Mailbox → Mailbox) : (s.modMb f).keys = s.keys := rfl
@[simp] theorem State.modMb_boot (f : Mailbox → Mailbox) : (s.modMb f).boot = s.boot := rfl
@[simp] theorem State.modMb_lode (f : Mailbox → Mailbox) : (s.modMb f).lode = s.lode := rfl
@[simp] theorem State.modMb_upd (f : Mailbox → Mailbox) : (s.modMb f).upd = s.upd := rfl
@[simp] theorem State.modMb_pair (f : Mailbox → Mailbox) : (s.modMb f).pair = s.pair := rfl
@[simp] theorem State.modMb_carve (f : Mailbox → Mailbox) : (s.modMb f).carve = s.carve := rfl
@[simp] theorem State.modMb_free (f : Mailbox → Mailbox) : (s.modMb f).free = s.free := rfl
@[simp] theorem State.modMb_pending (f : Mailbox → Mailbox) : (s.modMb f).pending = s.pending := rfl

@[simp] theorem State.modTime_mb (f : Time → Time) : (s.modTime f).mb = s.mb := rfl
@[simp] theorem State.modTime_eqs (f : Time → Time) : (s.modTime f).eqs = s.eqs := rfl
@[simp] theorem State.modTime_routes (f : Time → Time) : (s.modTime f).routes = s.routes := rfl
@[simp] theorem State.modTime_host (f : Time → Time) : (s.modTime f).host = s.host := rfl
@[simp] theorem State.modTime_dma (f : Time → Time) : (s.modTime f).dma = s.dma := rfl
@[simp] theorem State.modTime_hostMem (f : Time → Time) : (s.modTime f).hostMem = s.hostMem := rfl
@[simp] theorem State.modTime_ports (f : Time → Time) : (s.modTime f).ports = s.ports := rfl
@[simp] theorem State.modTime_ep (f : Time → Time) : (s.modTime f).ep = s.ep := rfl
@[simp] theorem State.modTime_ing (f : Time → Time) : (s.modTime f).ing = s.ing := rfl
@[simp] theorem State.modTime_hor (f : Time → Time) : (s.modTime f).hor = s.hor := rfl
@[simp] theorem State.modTime_fab (f : Time → Time) : (s.modTime f).fab = s.fab := rfl
@[simp] theorem State.modTime_egr (f : Time → Time) : (s.modTime f).egr = s.egr := rfl
@[simp] theorem State.modTime_time (f : Time → Time) : (s.modTime f).time = f s.time := rfl
@[simp] theorem State.modTime_leg (f : Time → Time) : (s.modTime f).leg = s.leg := rfl
@[simp] theorem State.modTime_gw (f : Time → Time) : (s.modTime f).gw = s.gw := rfl
@[simp] theorem State.modTime_power (f : Time → Time) : (s.modTime f).power = s.power := rfl
@[simp] theorem State.modTime_keys (f : Time → Time) : (s.modTime f).keys = s.keys := rfl
@[simp] theorem State.modTime_boot (f : Time → Time) : (s.modTime f).boot = s.boot := rfl
@[simp] theorem State.modTime_lode (f : Time → Time) : (s.modTime f).lode = s.lode := rfl
@[simp] theorem State.modTime_upd (f : Time → Time) : (s.modTime f).upd = s.upd := rfl
@[simp] theorem State.modTime_pair (f : Time → Time) : (s.modTime f).pair = s.pair := rfl
@[simp] theorem State.modTime_carve (f : Time → Time) : (s.modTime f).carve = s.carve := rfl
@[simp] theorem State.modTime_free (f : Time → Time) : (s.modTime f).free = s.free := rfl
@[simp] theorem State.modTime_pending (f : Time → Time) : (s.modTime f).pending = s.pending := rfl

@[simp] theorem State.modPorts_mb (f : Ports → Ports) : (s.modPorts f).mb = s.mb := rfl
@[simp] theorem State.modPorts_eqs (f : Ports → Ports) : (s.modPorts f).eqs = s.eqs := rfl
@[simp] theorem State.modPorts_routes (f : Ports → Ports) : (s.modPorts f).routes = s.routes := rfl
@[simp] theorem State.modPorts_host (f : Ports → Ports) : (s.modPorts f).host = s.host := rfl
@[simp] theorem State.modPorts_dma (f : Ports → Ports) : (s.modPorts f).dma = s.dma := rfl
@[simp] theorem State.modPorts_hostMem (f : Ports → Ports) : (s.modPorts f).hostMem = s.hostMem := rfl
@[simp] theorem State.modPorts_ports (f : Ports → Ports) : (s.modPorts f).ports = f s.ports := rfl
@[simp] theorem State.modPorts_ep (f : Ports → Ports) : (s.modPorts f).ep = s.ep := rfl
@[simp] theorem State.modPorts_ing (f : Ports → Ports) : (s.modPorts f).ing = s.ing := rfl
@[simp] theorem State.modPorts_hor (f : Ports → Ports) : (s.modPorts f).hor = s.hor := rfl
@[simp] theorem State.modPorts_fab (f : Ports → Ports) : (s.modPorts f).fab = s.fab := rfl
@[simp] theorem State.modPorts_egr (f : Ports → Ports) : (s.modPorts f).egr = s.egr := rfl
@[simp] theorem State.modPorts_time (f : Ports → Ports) : (s.modPorts f).time = s.time := rfl
@[simp] theorem State.modPorts_leg (f : Ports → Ports) : (s.modPorts f).leg = s.leg := rfl
@[simp] theorem State.modPorts_gw (f : Ports → Ports) : (s.modPorts f).gw = s.gw := rfl
@[simp] theorem State.modPorts_power (f : Ports → Ports) : (s.modPorts f).power = s.power := rfl
@[simp] theorem State.modPorts_keys (f : Ports → Ports) : (s.modPorts f).keys = s.keys := rfl
@[simp] theorem State.modPorts_boot (f : Ports → Ports) : (s.modPorts f).boot = s.boot := rfl
@[simp] theorem State.modPorts_lode (f : Ports → Ports) : (s.modPorts f).lode = s.lode := rfl
@[simp] theorem State.modPorts_upd (f : Ports → Ports) : (s.modPorts f).upd = s.upd := rfl
@[simp] theorem State.modPorts_pair (f : Ports → Ports) : (s.modPorts f).pair = s.pair := rfl
@[simp] theorem State.modPorts_carve (f : Ports → Ports) : (s.modPorts f).carve = s.carve := rfl
@[simp] theorem State.modPorts_free (f : Ports → Ports) : (s.modPorts f).free = s.free := rfl
@[simp] theorem State.modPorts_pending (f : Ports → Ports) : (s.modPorts f).pending = s.pending := rfl

@[simp] theorem State.modEgr_mb (f : Egress → Egress) : (s.modEgr f).mb = s.mb := rfl
@[simp] theorem State.modEgr_eqs (f : Egress → Egress) : (s.modEgr f).eqs = s.eqs := rfl
@[simp] theorem State.modEgr_routes (f : Egress → Egress) : (s.modEgr f).routes = s.routes := rfl
@[simp] theorem State.modEgr_host (f : Egress → Egress) : (s.modEgr f).host = s.host := rfl
@[simp] theorem State.modEgr_dma (f : Egress → Egress) : (s.modEgr f).dma = s.dma := rfl
@[simp] theorem State.modEgr_hostMem (f : Egress → Egress) : (s.modEgr f).hostMem = s.hostMem := rfl
@[simp] theorem State.modEgr_ports (f : Egress → Egress) : (s.modEgr f).ports = s.ports := rfl
@[simp] theorem State.modEgr_ep (f : Egress → Egress) : (s.modEgr f).ep = s.ep := rfl
@[simp] theorem State.modEgr_ing (f : Egress → Egress) : (s.modEgr f).ing = s.ing := rfl
@[simp] theorem State.modEgr_hor (f : Egress → Egress) : (s.modEgr f).hor = s.hor := rfl
@[simp] theorem State.modEgr_fab (f : Egress → Egress) : (s.modEgr f).fab = s.fab := rfl
@[simp] theorem State.modEgr_egr (f : Egress → Egress) : (s.modEgr f).egr = f s.egr := rfl
@[simp] theorem State.modEgr_time (f : Egress → Egress) : (s.modEgr f).time = s.time := rfl
@[simp] theorem State.modEgr_leg (f : Egress → Egress) : (s.modEgr f).leg = s.leg := rfl
@[simp] theorem State.modEgr_gw (f : Egress → Egress) : (s.modEgr f).gw = s.gw := rfl
@[simp] theorem State.modEgr_power (f : Egress → Egress) : (s.modEgr f).power = s.power := rfl
@[simp] theorem State.modEgr_keys (f : Egress → Egress) : (s.modEgr f).keys = s.keys := rfl
@[simp] theorem State.modEgr_boot (f : Egress → Egress) : (s.modEgr f).boot = s.boot := rfl
@[simp] theorem State.modEgr_lode (f : Egress → Egress) : (s.modEgr f).lode = s.lode := rfl
@[simp] theorem State.modEgr_upd (f : Egress → Egress) : (s.modEgr f).upd = s.upd := rfl
@[simp] theorem State.modEgr_pair (f : Egress → Egress) : (s.modEgr f).pair = s.pair := rfl
@[simp] theorem State.modEgr_carve (f : Egress → Egress) : (s.modEgr f).carve = s.carve := rfl
@[simp] theorem State.modEgr_free (f : Egress → Egress) : (s.modEgr f).free = s.free := rfl
@[simp] theorem State.modEgr_pending (f : Egress → Egress) : (s.modEgr f).pending = s.pending := rfl

@[simp] theorem State.modPow_mb (f : Power → Power) : (s.modPow f).mb = s.mb := rfl
@[simp] theorem State.modPow_eqs (f : Power → Power) : (s.modPow f).eqs = s.eqs := rfl
@[simp] theorem State.modPow_routes (f : Power → Power) : (s.modPow f).routes = s.routes := rfl
@[simp] theorem State.modPow_host (f : Power → Power) : (s.modPow f).host = s.host := rfl
@[simp] theorem State.modPow_dma (f : Power → Power) : (s.modPow f).dma = s.dma := rfl
@[simp] theorem State.modPow_hostMem (f : Power → Power) : (s.modPow f).hostMem = s.hostMem := rfl
@[simp] theorem State.modPow_ports (f : Power → Power) : (s.modPow f).ports = s.ports := rfl
@[simp] theorem State.modPow_ep (f : Power → Power) : (s.modPow f).ep = s.ep := rfl
@[simp] theorem State.modPow_ing (f : Power → Power) : (s.modPow f).ing = s.ing := rfl
@[simp] theorem State.modPow_hor (f : Power → Power) : (s.modPow f).hor = s.hor := rfl
@[simp] theorem State.modPow_fab (f : Power → Power) : (s.modPow f).fab = s.fab := rfl
@[simp] theorem State.modPow_egr (f : Power → Power) : (s.modPow f).egr = s.egr := rfl
@[simp] theorem State.modPow_time (f : Power → Power) : (s.modPow f).time = s.time := rfl
@[simp] theorem State.modPow_leg (f : Power → Power) : (s.modPow f).leg = s.leg := rfl
@[simp] theorem State.modPow_gw (f : Power → Power) : (s.modPow f).gw = s.gw := rfl
@[simp] theorem State.modPow_power (f : Power → Power) : (s.modPow f).power = f s.power := rfl
@[simp] theorem State.modPow_keys (f : Power → Power) : (s.modPow f).keys = s.keys := rfl
@[simp] theorem State.modPow_boot (f : Power → Power) : (s.modPow f).boot = s.boot := rfl
@[simp] theorem State.modPow_lode (f : Power → Power) : (s.modPow f).lode = s.lode := rfl
@[simp] theorem State.modPow_upd (f : Power → Power) : (s.modPow f).upd = s.upd := rfl
@[simp] theorem State.modPow_pair (f : Power → Power) : (s.modPow f).pair = s.pair := rfl
@[simp] theorem State.modPow_carve (f : Power → Power) : (s.modPow f).carve = s.carve := rfl
@[simp] theorem State.modPow_free (f : Power → Power) : (s.modPow f).free = s.free := rfl
@[simp] theorem State.modPow_pending (f : Power → Power) : (s.modPow f).pending = s.pending := rfl

@[simp] theorem State.modUpd_mb (f : Update → Update) : (s.modUpd f).mb = s.mb := rfl
@[simp] theorem State.modUpd_eqs (f : Update → Update) : (s.modUpd f).eqs = s.eqs := rfl
@[simp] theorem State.modUpd_routes (f : Update → Update) : (s.modUpd f).routes = s.routes := rfl
@[simp] theorem State.modUpd_host (f : Update → Update) : (s.modUpd f).host = s.host := rfl
@[simp] theorem State.modUpd_dma (f : Update → Update) : (s.modUpd f).dma = s.dma := rfl
@[simp] theorem State.modUpd_hostMem (f : Update → Update) : (s.modUpd f).hostMem = s.hostMem := rfl
@[simp] theorem State.modUpd_ports (f : Update → Update) : (s.modUpd f).ports = s.ports := rfl
@[simp] theorem State.modUpd_ep (f : Update → Update) : (s.modUpd f).ep = s.ep := rfl
@[simp] theorem State.modUpd_ing (f : Update → Update) : (s.modUpd f).ing = s.ing := rfl
@[simp] theorem State.modUpd_hor (f : Update → Update) : (s.modUpd f).hor = s.hor := rfl
@[simp] theorem State.modUpd_fab (f : Update → Update) : (s.modUpd f).fab = s.fab := rfl
@[simp] theorem State.modUpd_egr (f : Update → Update) : (s.modUpd f).egr = s.egr := rfl
@[simp] theorem State.modUpd_time (f : Update → Update) : (s.modUpd f).time = s.time := rfl
@[simp] theorem State.modUpd_leg (f : Update → Update) : (s.modUpd f).leg = s.leg := rfl
@[simp] theorem State.modUpd_gw (f : Update → Update) : (s.modUpd f).gw = s.gw := rfl
@[simp] theorem State.modUpd_power (f : Update → Update) : (s.modUpd f).power = s.power := rfl
@[simp] theorem State.modUpd_keys (f : Update → Update) : (s.modUpd f).keys = s.keys := rfl
@[simp] theorem State.modUpd_boot (f : Update → Update) : (s.modUpd f).boot = s.boot := rfl
@[simp] theorem State.modUpd_lode (f : Update → Update) : (s.modUpd f).lode = s.lode := rfl
@[simp] theorem State.modUpd_upd (f : Update → Update) : (s.modUpd f).upd = f s.upd := rfl
@[simp] theorem State.modUpd_pair (f : Update → Update) : (s.modUpd f).pair = s.pair := rfl
@[simp] theorem State.modUpd_carve (f : Update → Update) : (s.modUpd f).carve = s.carve := rfl
@[simp] theorem State.modUpd_free (f : Update → Update) : (s.modUpd f).free = s.free := rfl
@[simp] theorem State.modUpd_pending (f : Update → Update) : (s.modUpd f).pending = s.pending := rfl

@[simp] theorem State.modRing_mb (k : Nat) (f : Ring → Ring) : (s.modRing k f).mb = s.mb := rfl
@[simp] theorem State.modRing_eqs (k : Nat) (f : Ring → Ring) : (s.modRing k f).eqs = s.eqs := rfl
@[simp] theorem State.modRing_routes (k : Nat) (f : Ring → Ring) : (s.modRing k f).routes = s.routes := rfl
@[simp] theorem State.modRing_host (k : Nat) (f : Ring → Ring) : (s.modRing k f).host = s.host := rfl
@[simp] theorem State.modRing_dma (k : Nat) (f : Ring → Ring) : (s.modRing k f).dma = { s.dma with rings := s.dma.rings.modify k f } := rfl
@[simp] theorem State.modRing_hostMem (k : Nat) (f : Ring → Ring) : (s.modRing k f).hostMem = s.hostMem := rfl
@[simp] theorem State.modRing_ports (k : Nat) (f : Ring → Ring) : (s.modRing k f).ports = s.ports := rfl
@[simp] theorem State.modRing_ep (k : Nat) (f : Ring → Ring) : (s.modRing k f).ep = s.ep := rfl
@[simp] theorem State.modRing_ing (k : Nat) (f : Ring → Ring) : (s.modRing k f).ing = s.ing := rfl
@[simp] theorem State.modRing_hor (k : Nat) (f : Ring → Ring) : (s.modRing k f).hor = s.hor := rfl
@[simp] theorem State.modRing_fab (k : Nat) (f : Ring → Ring) : (s.modRing k f).fab = s.fab := rfl
@[simp] theorem State.modRing_egr (k : Nat) (f : Ring → Ring) : (s.modRing k f).egr = s.egr := rfl
@[simp] theorem State.modRing_time (k : Nat) (f : Ring → Ring) : (s.modRing k f).time = s.time := rfl
@[simp] theorem State.modRing_leg (k : Nat) (f : Ring → Ring) : (s.modRing k f).leg = s.leg := rfl
@[simp] theorem State.modRing_gw (k : Nat) (f : Ring → Ring) : (s.modRing k f).gw = s.gw := rfl
@[simp] theorem State.modRing_power (k : Nat) (f : Ring → Ring) : (s.modRing k f).power = s.power := rfl
@[simp] theorem State.modRing_keys (k : Nat) (f : Ring → Ring) : (s.modRing k f).keys = s.keys := rfl
@[simp] theorem State.modRing_boot (k : Nat) (f : Ring → Ring) : (s.modRing k f).boot = s.boot := rfl
@[simp] theorem State.modRing_lode (k : Nat) (f : Ring → Ring) : (s.modRing k f).lode = s.lode := rfl
@[simp] theorem State.modRing_upd (k : Nat) (f : Ring → Ring) : (s.modRing k f).upd = s.upd := rfl
@[simp] theorem State.modRing_pair (k : Nat) (f : Ring → Ring) : (s.modRing k f).pair = s.pair := rfl
@[simp] theorem State.modRing_carve (k : Nat) (f : Ring → Ring) : (s.modRing k f).carve = s.carve := rfl
@[simp] theorem State.modRing_free (k : Nat) (f : Ring → Ring) : (s.modRing k f).free = s.free := rfl
@[simp] theorem State.modRing_pending (k : Nat) (f : Ring → Ring) : (s.modRing k f).pending = s.pending := rfl

@[simp] theorem State.modEq_mb (k : Nat) (f : EvQueue → EvQueue) : (s.modEq k f).mb = s.mb := rfl
@[simp] theorem State.modEq_eqs (k : Nat) (f : EvQueue → EvQueue) : (s.modEq k f).eqs = s.eqs.modify k f := rfl
@[simp] theorem State.modEq_routes (k : Nat) (f : EvQueue → EvQueue) : (s.modEq k f).routes = s.routes := rfl
@[simp] theorem State.modEq_host (k : Nat) (f : EvQueue → EvQueue) : (s.modEq k f).host = s.host := rfl
@[simp] theorem State.modEq_dma (k : Nat) (f : EvQueue → EvQueue) : (s.modEq k f).dma = s.dma := rfl
@[simp] theorem State.modEq_hostMem (k : Nat) (f : EvQueue → EvQueue) : (s.modEq k f).hostMem = s.hostMem := rfl
@[simp] theorem State.modEq_ports (k : Nat) (f : EvQueue → EvQueue) : (s.modEq k f).ports = s.ports := rfl
@[simp] theorem State.modEq_ep (k : Nat) (f : EvQueue → EvQueue) : (s.modEq k f).ep = s.ep := rfl
@[simp] theorem State.modEq_ing (k : Nat) (f : EvQueue → EvQueue) : (s.modEq k f).ing = s.ing := rfl
@[simp] theorem State.modEq_hor (k : Nat) (f : EvQueue → EvQueue) : (s.modEq k f).hor = s.hor := rfl
@[simp] theorem State.modEq_fab (k : Nat) (f : EvQueue → EvQueue) : (s.modEq k f).fab = s.fab := rfl
@[simp] theorem State.modEq_egr (k : Nat) (f : EvQueue → EvQueue) : (s.modEq k f).egr = s.egr := rfl
@[simp] theorem State.modEq_time (k : Nat) (f : EvQueue → EvQueue) : (s.modEq k f).time = s.time := rfl
@[simp] theorem State.modEq_leg (k : Nat) (f : EvQueue → EvQueue) : (s.modEq k f).leg = s.leg := rfl
@[simp] theorem State.modEq_gw (k : Nat) (f : EvQueue → EvQueue) : (s.modEq k f).gw = s.gw := rfl
@[simp] theorem State.modEq_power (k : Nat) (f : EvQueue → EvQueue) : (s.modEq k f).power = s.power := rfl
@[simp] theorem State.modEq_keys (k : Nat) (f : EvQueue → EvQueue) : (s.modEq k f).keys = s.keys := rfl
@[simp] theorem State.modEq_boot (k : Nat) (f : EvQueue → EvQueue) : (s.modEq k f).boot = s.boot := rfl
@[simp] theorem State.modEq_lode (k : Nat) (f : EvQueue → EvQueue) : (s.modEq k f).lode = s.lode := rfl
@[simp] theorem State.modEq_upd (k : Nat) (f : EvQueue → EvQueue) : (s.modEq k f).upd = s.upd := rfl
@[simp] theorem State.modEq_pair (k : Nat) (f : EvQueue → EvQueue) : (s.modEq k f).pair = s.pair := rfl
@[simp] theorem State.modEq_carve (k : Nat) (f : EvQueue → EvQueue) : (s.modEq k f).carve = s.carve := rfl
@[simp] theorem State.modEq_free (k : Nat) (f : EvQueue → EvQueue) : (s.modEq k f).free = s.free := rfl
@[simp] theorem State.modEq_pending (k : Nat) (f : EvQueue → EvQueue) : (s.modEq k f).pending = s.pending := rfl

end Sys2Proof.Machine
end

