-- ==== Sys2Proof/WellFormed.lean ====
section
/-! DEFINITION. Well-formed commands: every operand fits the field or the population the spec gives it. A command that is not well-formed
cannot reach the block. -/

namespace Sys2Proof

/-- A request whose header fields fit R74 and whose payload fits R70. -/
def Req.wf (r : Req) : Bool :=
  r.src < 12 && r.version < 256 && r.flags < 256 && r.length < 65536 && r.tag < 65536 && r.token < 2 ^ 32 && r.level < 256 && r.ctx < 64 &&
  r.bulkIova < 2 ^ 64 && r.bulkLen < 2 ^ 32 && r.payload.length ≤ 2016 && r.bulk.length ≤ 16777216

/-- A frame of at most 16,384 bytes whose internal header fits its fields (R190, R192, R239). -/
def WireFrame.wf (w : WireFrame) : Bool := w.data.length ≤ 16384 && w.domain < 256 && w.prio < 8 && w.zone < 256

/-- The dwords of a write TLP: at most 64 bytes (R46). -/
def dwordsWf (l : List (Nat × Nat)) : Bool := l.length ≤ 16 && l.all fun (x : Nat × Nat) => x.1 < 2 ^ 32 && x.2 < 16

/-- The read that a completion concerns (R130). -/
def DmaTarget.wf : DmaTarget → Bool
  | .ring k access off => k < 64 && access < 4 && off < 2 ^ 24
  | .queue q => q < 4
  | .bulk off => off < 2 ^ 24

/-- Whether every operand of a command fits. -/
def Instr.wf : Instr → Bool
  | .nop r => r.wf
  | .getVersions r => r.wf
  | .getIdentity r => r.wf
  | .getStatus r => r.wf
  | .getMbStats r => r.wf
  | .moduleReset r => r.wf
  | .evqGetRoutes r => r.wf
  | .evqSetRoute r => r.wf
  | .ringBind r => r.wf
  | .rxSteerSet r => r.wf
  | .rxSteerGet r => r.wf
  | .dmaGetCounters r => r.wf
  | .atuGetCounters r => r.wf
  | .portGetStatus r => r.wf
  | .portSet r => r.wf
  | .edgeGroupSet r => r.wf
  | .portGetCounters r => r.wf
  | .plcaSet r => r.wf
  | .pseSet r => r.wf
  | .pseGetStatus r => r.wf
  | .trainingClear r => r.wf
  | .domainMapSet r => r.wf
  | .domainParamsSet r => r.wf
  | .vlanSet r => r.wf
  | .fdbStaticSet r => r.wf
  | .fdbFlush r => r.wf
  | .fdbRead r => r.wf
  | .streamIdSet r => r.wf
  | .streamSet r => r.wf
  | .filterSet r => r.wf
  | .gateSet r => r.wf
  | .meterSet r => r.wf
  | .frerSet r => r.wf
  | .mirrorSet r => r.wf
  | .countersGet r => r.wf
  | .stateClear r => r.wf
  | .tableRead r => r.wf
  | .zoneSet r => r.wf
  | .zoneMapSet r => r.wf
  | .zonePairSet r => r.wf
  | .ruleSet r => r.wf
  | .limiterSet r => r.wf
  | .horizonParamsSet r => r.wf
  | .sessionRead r => r.wf
  | .sessionFlush r => r.wf
  | .horizonCountersGet r => r.wf
  | .horizonTableRead r => r.wf
  | .fabricStatusGet r => r.wf
  | .fabricStartSet r => r.wf
  | .fabricModeSet r => r.wf
  | .wideStreamSet r => r.wf
  | .cutThroughSet r => r.wf
  | .fabricCountersGet r => r.wf
  | .epochSync r => r.wf
  | .queueSet r => r.wf
  | .shaperSet r => r.wf
  | .cbsSet r => r.wf
  | .gclSet r => r.wf
  | .gclGet r => r.wf
  | .preemptSet r => r.wf
  | .zenithAdmitSet r => r.wf
  | .zenithStatusGet r => r.wf
  | .queueFlush r => r.wf
  | .egressCountersGet r => r.wf
  | .timeStatusGet r => r.wf
  | .timeParamsSet r => r.wf
  | .gptpInstanceSet r => r.wf
  | .timeStep r => r.wf
  | .gptpPortGet r => r.wf
  | .channelStatusGet r => r.wf
  | .canSet r => r.wf
  | .canWakeSet r => r.wf
  | .canRecover r => r.wf
  | .mvbSet r => r.wf
  | .mvbPortSet r => r.wf
  | .mvbAdminSet r => r.wf
  | .serialSet r => r.wf
  | .linSet r => r.wf
  | .linScheduleSet r => r.wf
  | .dioSet r => r.wf
  | .channelCountersGet r => r.wf
  | .gwCycleSet r => r.wf
  | .routeTableSet r => r.wf
  | .endpointSet r => r.wf
  | .acfBusSet r => r.wf
  | .gwWrite r => r.wf
  | .gwRead r => r.wf
  | .gwLock r => r.wf
  | .gwExchange r => r.wf
  | .gwStatusGet r => r.wf
  | .gwCountersGet r => r.wf
  | .gwTableRead r => r.wf
  | .powerStatusGet r => r.wf
  | .powerStateSet r => r.wf
  | .wakeSet r => r.wf
  | .poolSet r => r.wf
  | .arbiterGet r => r.wf
  | .supplySet r => r.wf
  | .lifecycleGet r => r.wf
  | .lifecycleSet r => r.wf
  | .keySlotWrite r => r.wf
  | .keySlotErase r => r.wf
  | .keySlotInfo r => r.wf
  | .keyOp r => r.wf
  | .provisionClose r => r.wf
  | .macsecPortSet r => r.wf
  | .macsecSaSet r => r.wf
  | .mkaSet r => r.wf
  | .macsecStatusGet r => r.wf
  | .macsecCountersGet r => r.wf
  | .tamperSet r => r.wf
  | .measGet r => r.wf
  | .measLogRead r => r.wf
  | .measExtend r => r.wf
  | .attestGet r => r.wf
  | .bootStatusGet r => r.wf
  | .certGet r => r.wf
  | .certSet r => r.wf
  | .spdmSet r => r.wf
  | .lodestarStatusGet r => r.wf
  | .lodestarModeSet r => r.wf
  | .sensorGet r => r.wf
  | .sensorThresholdSet r => r.wf
  | .nightwatchSet r => r.wf
  | .logRead r => r.wf
  | .logSet r => r.wf
  | .memportSet r => r.wf
  | .memportGet r => r.wf
  | .portBwGet r => r.wf
  | .perfGet r => r.wf
  | .perfSet r => r.wf
  | .updateStatusGet r => r.wf
  | .updateBegin r => r.wf
  | .updateBlock r => r.wf
  | .updateVerify r => r.wf
  | .updateActivate r => r.wf
  | .updateConfirm r => r.wf
  | .updateAbort r => r.wf
  | .updateParamsSet r => r.wf
  | .pairStatusGet r => r.wf
  | .pairSet r => r.wf
  | .pairSwitch r => r.wf
  | .pairCountersGet r => r.wf
  | .ttdpSet r => r.wf
  | .ttdpStatusGet r => r.wf
  | .mrpSet r => r.wf
  | .mrpStatusGet r => r.wf
  | .commandDispatch => true
  | .commitAfterDrain => true
  | .retryTokenExpiry token => token < 2 ^ 32
  | .remoteConnection port ipv4 cert _ => port < 65536 && ipv4 < 2 ^ 32 && cert.length ≤ 65536
  | .remoteMessage i len msg => i < 4 && len < 2 ^ 32 && msg.length ≤ 16779264
  | .remoteIdleTimeout i => i < 4
  | .remoteClose i => i < 4
  | .eqEnable q v => q < 4 && v < 2 ^ 32
  | .eqHeadWrite q v => q < 4 && v < 2 ^ 32
  | .eqStatusClear q v => q < 4 && v < 2 ^ 32
  | .eqCoalesceTimeout q => q < 4
  | .eventRecordWrite q => q < 4
  | .ringEnable k v => k < 64 && v < 2 ^ 32
  | .ringDisable k v => k < 64 && v < 2 ^ 32
  | .ringTailWrite k v => k < 64 && v < 2 ^ 32
  | .ringResume k => k < 64
  | .atuInvalidate v => v < 2 ^ 32
  | .atuContextWrite c off v => c < 64 && off < 12 && v < 2 ^ 32
  | .atuCtxStatusClear c v => c < 64 && v < 2 ^ 32
  | .bwCtrlWrite v => v < 2 ^ 32
  | .perfCtlClear v => v < 2 ^ 32
  | .bar2EnableWrite v => v < 2 ^ 32
  | .merTimeLoRead => true
  | .perfCycleLoRead => true
  | .bwBytesLoRead => true
  | .registerWrite bar off dwords => bar < 5 && off < 65536 && dwordsWf dwords
  | .msixVectorUnmask v => v < 64
  | .functionLevelReset => true
  | .hotReset => true
  | .pcieLinkLoss => true
  | .perstAssert us => us < 2 ^ 32
  | .pcieLinkUp speed width => speed < 5 && width < 5
  | .d3hotEntry => true
  | .d0Return => true
  | .txDescriptorFetched k => k < 32
  | .txFrameAccepted k => k < 32
  | .launchTimeReached k => k < 32
  | .rxDescriptorFetched k => k < 32
  | .rxFrameDelivery k => k < 32
  | .dmaReadCompletion t _ _ => t.wf
  | .dmaCompletionTimeout t _ => t.wf
  | .frameArrival point w _ => point < 37 && w.wf
  | .frameEnd point => point < 37
  | .recirculationEntry => true
  | .fdbAging bucket => bucket < 65536
  | .streamGateEntryBoundary g => g < 1024
  | .streamGateListChange g => g < 1024
  | .frerResetTimeout i => i < 1024
  | .frerLatentPeriod i => i < 1024
  | .sessionInsertWrite => true
  | .spillWrite => true
  | .sessionAgingSweep _ i => i < 2 ^ 32
  | .restoreComplete => true
  | .exceptionHandler => true
  | .exceptionDropEnd => true
  | .revocationSweepVisit => true
  | .cellReceive stage sender receiver _ => stage < 2 && sender < 16 && receiver < 16
  | .replayRejection stage sender receiver => stage < 2 && sender < 16 && receiver < 16
  | .reassemblyTimeout output => output < 16
  | .reseqTimeout w => w < 16
  | .wideStreamChangeApply w => w < 16
  | .firstCellAtOutput output _ => output < 16
  | .transmitOpportunity point _ => point < 37
  | .copyFinished point => point < 37
  | .gclEntryBoundary p => p < 33
  | .gclChangeTime p => p < 33
  | .residencyScan => true
  | .modeLimitExpiry => true
  | .preemptVerifyTimeout p => p < 33
  | .preemptResponseRx p addFrag => p < 33 && addFrag < 4
  | .gptpSyncRx i p _ _ gmTime _ => i < 2 && p < 33 && gmTime < 2 ^ 64
  | .gptpAnnounceRx i p _ _ => i < 2 && p < 33
  | .gptpPdelayRx p _ delayPs _ => p < 33 && delayPs < 2 ^ 32
  | .syncReceiptTimeout i => i < 2
  | .announceReceiptTimeout i p => i < 2 && p < 33
  | .steeringUpdateTimeout => true
  | .holdoverEvaluation => true
  | .revertTimer => true
  | .syncInterval i => i < 2
  | .pdelayReqInterval p => p < 33
  | .partnerSignalDetected p => p < 33
  | .trainingComplete p partnerRole _ _ coeffs finger => p < 33 && partnerRole < 2 && coeffs < 2 ^ 64 && finger < 2 ^ 64
  | .trainingFailed p => p < 33
  | .linkLoss p _ => p < 33
  | .fastStartInfofieldRx p finger _ => p < 33 && finger < 2 ^ 64
  | .fastStartTimeout p => p < 33
  | .tokenRetryTimer p => p < 33
  | .eeeIdleTimer p => p < 33
  | .tc10SleepRequestRx p => p < 33
  | .tc10WakePulse port others _ => port < 33 && others < 256
  | .plcaBeaconLoss g => g < 4
  | .plcaBeaconReturn g => g < 4
  | .pseDetection i _ => i < 16
  | .pseClassification i cls second => i < 16 && cls < 16 && second < 16
  | .pseOverload i peakMw railMv => i < 16 && peakMw < 2 ^ 32 && railMv < 2 ^ 32
  | .pseShort i peakMw railMv => i < 16 && peakMw < 2 ^ 32 && railMv < 2 ^ 32
  | .pseHardShort i peakMw railMv => i < 16 && peakMw < 2 ^ 32 && railMv < 2 ^ 32
  | .pseThermal i peakMw railMv => i < 16 && peakMw < 2 ^ 32 && railMv < 2 ^ 32
  | .pseSupplyFault railMv => railMv < 2 ^ 32
  | .pseSupplyRecovery railMv => railMv < 2 ^ 32
  | .pseDisconnect i => i < 16
  | .pseFaultWaitExpiry i => i < 16
  | .canFrameRx c kind flags ident data => c < 64 && kind < 16 && flags < 2 ^ 16 && ident < 2 ^ 32 && data.length ≤ 65536
  | .canTxComplete c _ => c < 64
  | .canErrorDetected c _ tec rec_ => c < 64 && tec < 2 ^ 16 && rec_ < 2 ^ 16
  | .canRecoverWaitExpiry c => c < 64
  | .canRecoveryDone c => c < 64
  | .canWakeFrame c _ errors _ ident dlc data others _ => c < 64 && errors < 256 && ident < 2 ^ 32 && dlc < 16 && data.length ≤ 65536 && others < 256
  | .j1939TpPacket c _ ident data peer => c < 64 && ident < 2 ^ 32 && data.length ≤ 65536 && peer < 256
  | .j1939Timeout c peer which _ _ => c < 64 && peer < 256 && which < 4
  | .mvbFrameRx c _ _ _ => c < 64
  | .mvbSinkTimeExpiry c port => c < 64 && port < 4096
  | .mvbBasicPeriod c => c < 64
  | .mvbMastershipOffer c => c < 64
  | .mvbMastershipTimeout c => c < 64
  | .mvbSilentBus c => c < 64
  | .serialMessageRx c _ data => c < 64 && data.length ≤ 65536
  | .modbusResponseTimeout c => c < 64
  | .serialSilenceTimeout c => c < 64
  | .serialCurrentLimit c => c < 64
  | .serialCurrentClear c => c < 64
  | .linSlotTimer c _ => c < 64
  | .linWakeupRx c => c < 64
  | .linResumeTimer c => c < 64
  | .gpiDebounceExpiry c level _ => c < 64 && level < 2
  | .gpoReadbackExpiry c level => c < 64 && level < 2
  | .beWatchdog e _ => e < 4
  | .beRestartDone e ms levels _ => e < 4 && ms < 2 ^ 32 && levels < 2 ^ 32
  | .gwInputDelivery => true
  | .gwCycleMark => true
  | .gwCycleExecute issue runUs _ => issue < 2 ^ 16 && runUs < 2 ^ 32
  | .gwCycleCut => true
  | .lockLeaseExpiry c => c < 64
  | .gwFetchComplete token data => token < 2 ^ 32 && data.length ≤ 65536
  | .gwFetchTimeout token => token < 2 ^ 32
  | .trdpMrRx domain _ ip port zone comId seq data => domain < 8 && ip < 2 ^ 32 && port < 65536 && zone < 256 && comId < 2 ^ 32 && seq < 2 ^ 32 && data.length ≤ 65536
  | .trdpSessionIdle i => i < 65536
  | .coldPowerOn _ => true
  | .resetN _ => true
  | .powerFailWarn mv => mv < 2 ^ 32
  | .powerFailEnd mv => mv < 2 ^ 32
  | .holdupExhausted mv => mv < 2 ^ 32
  | .inputOvervoltage mv => mv < 2 ^ 32
  | .railOutOfRange rail mv => rail < 14 && mv < 2 ^ 32
  | .wakePin pin others _ => pin < 2 && others < 256
  | .rtcAlarm others _ => others < 256
  | .autoSleepTimer => true
  | .darkAfterTimer => true
  | .duskExitRetry _ => true
  | .tokenRequest c => c < 64
  | .holdupEstimate ms loadDw => ms < 2 ^ 32 && loadDw < 2 ^ 16
  | .nightwatchService => true
  | .nightwatchWindowClose => true
  | .lockstepMismatch pair group word => pair < 2 && group < 9 && word < 2 ^ 64
  | .debugAttach pair => pair < 2
  | .lodestarEccError memory requester addr obj _ => memory < 3 && requester < 12 && addr < 2 ^ 64 && obj < 2 ^ 32
  | .sensorSample id _ => id < 64
  | .holdupCapMeasure loadDw v1 v2 => loadDw < 2 ^ 16 && v1 < 2 ^ 32 && v2 < 2 ^ 32
  | .logRecordProgram => true
  | .memportBurstBoundary mask addr => mask < 4096 && addr < 2 ^ 64
  | .tamperLatch source _ => source < 7
  | .slotUsersDone n => n < 64
  | .islandRequestComplete _ _ _ => true
  | .mkpduRx port _ => port < 33
  | .mkaHelloTimer port => port < 33
  | .mkaLifetimeExpiry port => port < 33
  | .spdmRequest t conn _ => t < 4 && conn < 4
  | .mctpControl cmd eid => cmd < 256 && eid < 256
  | .signingComplete _ => true
  | .stagingEraseDone => true
  | .healthWindowExpiry => true
  | .settleTimer => true
  | .journalEraseDone => true
  | .pairBlockRx _ _ _ _ => true
  | .pairResendTimer => true
  | .pairIdleTimer => true
  | .pairLinkTimeout => true
  | .laneFailure lane => lane < 2
  | .cycleCopyComplete => true
  | .copyDeadline => true
  | .reexecutionResult cycle _ _ _ => cycle < 2 ^ 32
  | .heartbeatAbsent => true
  | .pairHelloTimer => true
  | .ttdpHelloRx port _ => port < 33
  | .ttdpHelloTimer => true
  | .ttdpHelloTimeout port => port < 33
  | .mrpTestTimer r _ => r < 2
  | .mrpFrameRx r port _ => r < 2 && port < 33
  | .bwWindowEnd => true
  | .lodestarRestartDone _ _ => true
  | .delayMsExpiry _ => true
  | .holdupBankCharged => true
  | .supplyBackInRange m mv => m < 16 && mv < 2 ^ 32
  | .trdpConnectionClose i => i < 65536
  | .spdmTcpConnection _ => true
  | .laneRecovery lane => lane < 2
  | .pageProgramDone _ => true
  | .debugDetach pair => pair < 2
  | .atuInvalidationComplete => true

end Sys2Proof
end

