-- ==== Sys2Proof/Tests/Slice0.lean ====
section
/-! SUPPORT. The author's own tests: ill-formed commands that the checks refuse, single steps whose results the spec gives, and for every
statement with hypotheses a theorem that shows, clause by clause, a concrete state and operands that meet them. -/

namespace Sys2Proof.Tests

open Sys2Proof.Machine

set_option Elab.async false

/-! ### Small states -/

/-- The module awake: powered, Ikiora serving, everything else at its reset value. -/
def up : State := { State.reset with power := { on := true }, host := { ready := true } }

/-- The payload of `n` bytes whose fields are given by offset, width and value, zero elsewhere. -/
def fld (n : Nat) (l : List (Nat × Nat × Nat)) : List Byte := l.foldl (fun b x => b.take x.1 ++ le x.2.1 x.2.2 ++ b.drop (x.1 + x.2.1)) (zeros n)

/-- Payload `p` inline, through MB0. -/
def rq (p : List Byte) : Req := { src := 0, length := p.length, payload := p }

/-- Whether the body of command `sp` runs for payload `p` sent inline through MB0. -/
def runs? (s : State) (sp : CmdSpec) (p : List Byte) : Bool :=
  s.mb.resetDue.isNone && !sourceBusy s 0 && serving s && executorFree s 0 && (preCheck (entered s sp (rq p)) sp (rq p)).isNone &&
    (sp.badLen p p.length).isNone

theorem inlineOf_rq (p : List Byte) : inlineOf (rq p) = p := by simp [inlineOf, rq, padTo, sub]

theorem runs_here {s : State} {sp : CmdSpec} {p : List Byte} (h : runs? s sp p = true) :
    Runs s sp (rq p) p (entered s sp (rq p)) := by
  simp only [runs?, Bool.and_eq_true, Bool.not_eq_true', Option.isNone_iff_eq_none] at h
  obtain ⟨⟨⟨⟨⟨h1, h2⟩, h3⟩, h4⟩, h5⟩, h6⟩ := h
  have hs : asSubmitted (rq p) = rq p := rfl
  refine ⟨⟨by simp [rq], by simp [rq], fun _ => h1, h2, h3, h4⟩, by rw [hs]; exact h5, ?_, ?_⟩
  · rw [hs]
    have : bit (rq p).flags 1 = false := by simp only [rq]; decide
    simp only [fetched, this, inlineOf_rq]; rfl
  · have : totalLen (rq p) = p.length := by
      have : bit (rq p).flags 1 = false := by simp only [rq]; decide
      simp only [totalLen, this]; rfl
    rw [this]; exact h6

/-- Whether the entries of list payload `p` all apply, to a state with `q`. -/
def listOk? (size : Nat) (f : Nat → List Byte → State → EntryRes) (g : Nat → List Byte → State → List Check) (p : List Byte) (s1 : State)
    (q : State → Bool) : Bool :=
  match applyEntries size f (u p 0 2) 4 p s1 [] with
  | .ok (t, _) => (shadowBad size g (u p 0 2) 4 p t).isNone && q t
  | _ => false

theorem list_here {size : Nat} {f : Nat → List Byte → State → EntryRes} {g : Nat → List Byte → State → List Check} {p : List Byte} {s1 : State}
    {q : State → Bool} (h : listOk? size f g p s1 q = true) : ∃ t cl, ListApplies size f g p s1 t cl ∧ q t = true := by
  unfold listOk? at h
  split at h
  · rename_i t cl heq
    rw [Bool.and_eq_true] at h
    exact ⟨t, cl, ⟨heq, Option.isNone_iff_eq_none.mp h.1⟩, h.2⟩
  · cases h

/-- Port `p` in state `o` of its link. -/
def portAt (p o : Nat) : State := modPort up p fun r => { r with oper := o }
/-- Awake, all eight domains in the bundle's carve. -/
def carved : State := { up with carve := 255 }
/-- Every port with settings `c`. -/
def portsSet (c : PortCfg) (s : State) : State := s.modPorts fun x => { x with cfg := { x.cfg with ports := List.replicate 33 c } }
/-- A training record with fingerprint 5. -/
def trained : TrainRec := { coeffs := 0, mode := 0, role := 1, finger := 5, temp := 0, at_ := 0 }
/-- Port `p` in a fast start with that record. -/
def fastTry (p : Nat) : State := modPort (portAt p 2) p fun r => { r with fastTry := true, train := some trained }
/-- PSE port 15 in state `n`. -/
def pseAt (n : Nat) : State := modPse up 15 fun r => { r with state := n }
/-- PLCA node 1 on TB3, its port up. -/
def plca : State := (portAt 31 3).modPorts fun x => { x with cfg := { x.cfg with plca := List.replicate 4 { nodeId := 1 } } }
/-- Streams, an identity, a filter, a gate, a meter, an override and a route each at the highest number of its table. -/
def streams : State := { carved with ep := { carved.ep with cur := { carved.ep.cur with
  ing := { domOvr := [(4096 * 33 + 4094, {})], streamIds := [(8191, { handle := 4095, type := 1, domain := 0, tagged := 2, ports := 0, vid := 0xFFFF, mac := zeros 6, ipVer := 0, dscp := 0, proto := 0, matchB := 0, l4Dst := 0, l4Src := 0, ipDst := [], ipSrc := [], kind := 0, channel := 0, ident := 0, mask := 0 })], streams := [(4095, {})]
           filters := [(4095, { flags := 0, handle := 0, prio := 0, maxSdu := 0, gate := 0xFFFF, meter := 0xFFFF })], meters := [(2047, { flags := 0, cir := 0, cbs := 0, eir := 0, ebs := 0 })]
           gates := [(1023, { flags := 0, initState := 0, initIpv := 0, base := 0, cycle := 0, entries := [] })] }
  gw := { routes := [(16383, { space := 0, kind := 0, chan := 0, event := false, ident := 0, mask := 0, slotLen := 8, eventMax := 0, coalesce := false, staleMs := 0, first := 0, count := 0 })] } } } }
/-- A stream gate of one entry. -/
def gate1 : Gate := { flags := 0, initState := 1, initIpv := 7, base := 0, cycle := 0, entries := [{ interval := 1000, octetMax := 0, isOpen := true, ipv := 7 }] }
/-- A rule that matches everything. -/
def rule0 : Rule := { action := 0, mtch := 0, flags := 0, pcp := 0, etherType := 0, vid := 0, ipVer := 0, proto := 0, dscp := 0, srcPfx := 0, dstPfx := 0, tcpFlags := 0, tcpMask := 0, icmpType := 0, icmpCode := 0, stream := 0, srcLo := 0, srcHi := 0, dstLo := 0, dstHi := 0, ipSrc := [], ipDst := [], kind := 0, channel := 0, ident := 0, mask := 0, profile := 0, handler := 0 }
/-- Zone 255 of domain 7, with an attachment point and rule 8,191. -/
def zones : State := carved.modHt fun _ => { zones := [(255, { domain := 7, isDefault := false })], points := [(pointKey 7 35 4094, 255)]
                                             rules := [(8191, rule0)] }
/-- Stream 4,095 with its identity at point 0 and a Zenith filter on it. -/
def wideS : State := carved.modIt fun _ => { streamIds := [(0, { handle := 4095, type := 1, domain := 0, tagged := 2, ports := 1, vid := 0xFFFF, mac := zeros 6, ipVer := 0, dscp := 0, proto := 0, matchB := 0, l4Dst := 0, l4Src := 0, ipDst := [], ipSrc := [], kind := 0, channel := 0, ident := 0, mask := 0 })]
                                             filters := [(0, { flags := 2, handle := 4095, prio := 0, maxSdu := 0, gate := 0xFFFF, meter := 0xFFFF })] }
/-- Two epochs live. -/
def draining : State := { carved with ep := { carved.ep with draining := true } }
/-- Stream 4,095 admitted at port 27. -/
def admitted : State := wideS.modEgr fun x => { x with cfg := { x.cfg with minLens := [(4096 * 27 + 4095, 64)] } }
/-- A gate list of one entry. -/
def gcl1 : Gcl := { enable := true, ext := 0, base := 0, cycle := 1000, change := 0, entries := [{ gates := 255, op := 0, interval := 1000 }] }
/-- Port 31 with an operational gate list of one entry. -/
def gated : State := modGcl up 31 fun g => { g with oper := some gcl1 }
/-- Port 27 waiting for a verification response, after `n` attempts. -/
def verifying (n : Nat) : State := modPre up 27 fun r => { r with waiting := true, attempts := n }
/-- Port 3 up, in gPTP instance 0. -/
def gptpUp : State := portAt 3 3
/-- Every bus engine powered. -/
def buses : State := up.modLeg fun l => { l with engines := List.replicate 4 { on := true } }
/-- CAN channel 7 in state `n`, its settings `k`. -/
def canAt (n : Nat) (k : CanCfg) : State := modCan (buses.modLeg fun l => { l with cfg := { l.cfg with can := List.replicate 8 k } }) 7 fun r => { r with state := n }
/-- A message for channel `c`. -/
def msgTo (c : Nat) : TxMsg := { msg := { kind := 1, chan := c }, origin := .fetch 1 }
/-- A J1939 session. -/
def tp1 : TpSession := { sender := true, bam := false, peer := 255, pgn := 0, size := 9 }
/-- MVB channel 9 on, with settings `k`, sink port 4,095 supervised and a schedule. -/
def mvbOn (k : MvbCfg) (f : MvbRun → MvbRun) : State :=
  modMvb (buses.modLeg fun l => { l with cfg := { l.cfg with mvb := List.replicate 2 k, ports := [[], [(4095, { sink := true, fcode := 0, supervise := true, sinkMs := 1 })]] } }) 9
    fun r => f { r with on := true }
/-- Serial channel 21 with settings `k`. -/
def serOn (k : SerialCfg) : State := buses.modLeg fun l => { l with cfg := { l.cfg with serial := List.replicate 6 k } }
/-- LIN channel 25, its schedule table 7 filled. -/
def linOn : State := buses.modLeg fun l => { l with cfg := { l.cfg with sched := List.replicate 2 (List.replicate 8 [{ id := 63, type := 0, len := 8, flags := 0, slot := 10, coll := 0 }]) } }
/-- A snapshot of a cycle that has begun, with output `o`. -/
def snap (o : List GwOut) : GwSnap := { begun := true, outs := o }
/-- An exclusive lock held by MB1. -/
def lock1 : GwLock := { kind := 2, who := 1, since := 0, leaseMs := 1, expires := 1 }
/-- A fetch under way on CAN channel 7. -/
def fetch1 : GwFetch := { token := 9, chan := 7, how := 1 }
/-- A TRDP session. -/
def trdp1 : TrdpSession := { tcp := true, domain := 7, ip := 1, port := 2, last := 0 }
/-- A field map that copies one byte. -/
def field0 : FieldMap := { type := 0, srcFmt := 0, dstFmt := 0, policy := 0, srcOff := 0, dstOff := 0, srcW := 8, dstW := 8, copyLen := 1, mul := 1, shift := 0, clampEn := false, add := 0, min := 0, max := 0, safe := 0, ramp := 0, slew := 0 }
/-- A target on CAN channel 7. -/
def target0 : GwTarget := { space := 0, kind := 0, chan := 7, flags := 0, ident := 0, len := 8, func := 0, prio := 0, addr := 0, firstField := 0, fieldCount := 0, onChange := false, period := 0, refresh := 0 }
/-- A frame of 64 bytes stored for point `o`. -/
def transit0 (o : Nat) : Transit := { frame := { id := 1 }, len := 64, input := 0, middle := 0, out := o, cells := 2, arrived := 1, stored := true }
/-- A lock request of MB0 that carries its token, and the port locked by another. -/
def lockPay : List Byte := fld 6 [(0, 1, 21), (2, 1, 0xFF)]
def lockReq : Req := { src := 0, length := 6, token := 9, payload := lockPay }
def lockTok : RetryTok := { token := 9, src := 0, opcode := 0x0906, payload := lockPay, hintMs := 1, fetch := .failed stRetry, object := 21, issued := 0 }
def lockedUp : State := (up.modGw fun g => { g with locks := [(21, lock1)] }).modMb fun m => { m with tokens := [lockTok] }
/-- An output for CAN channel 7. -/
def out0 : GwOut := { space := 0, tx := msgTo 7 }
/-- The module powered in state `n`, every wake source enabled. -/
def asleep (n : Nat) : State := up.modPow fun p => { p with state := n, wake := { p.wake with enable := 127, flags := 4, tc10Ports := 2 ^ 33 - 1 }, alarmArmed := true }
/-- Port 32 asleep by TC10 in power state `n`. -/
def tc10At (n : Nat) : State := modPort (asleep n) 32 fun r => { r with oper := 4 }
/-- A symmetric key of source 3 with every use. -/
def key3 : KeyBank := { source := 3, usage := 63, key := zeros 32 }
/-- Key slot 63 selected with that key, loaded. -/
def keyed : State := (modSlot up 63 fun _ => { banks := [some key3, none], act := some 0 }).modKeys fun k => { k with working := [(63, 0)] }
/-- A transmit SA of P0, number 3. -/
def sa3 : MacSa := { tx := true, sc := 63, an := 3, key := [], pn := 1 }
/-- MKA on P0 with a connectivity association. -/
def mkaOn : State := modMka (portAt 32 3) 4 fun m => { m with ca := true }
/-- A lifecycle payload that leaves BLANK for the first deployed state, with the device's serial number. -/
def lifePay : List Byte := fld 8 [(0, 1, 1)] ++ (le 8 (Config.serial % 2 ^ 64) ++ List.replicate 192 1)

theorem leNat_le : ∀ n x, x < 256 ^ n → leNat (le n x) = x
  | 0, x, h => by simp at h; simp [le, leNat, h]
  | n + 1, x, h => by
    have := leNat_le n (x / 256) (by rw [Nat.div_lt_iff_lt_mul (by decide), ← Nat.pow_succ]; exact h)
    simp [le, leNat, this]; omega

theorem lifePay_serial : u lifePay 8 8 = Config.serial % 2 ^ 64 :=
  leNat_le 8 _ (Nat.mod_lt _ (by decide))
/-- Key slot 63 with nothing selected and its bank in use. -/
def busySlot : State := up.modKeys fun k => { k with queue := [{ level := 1, kind := 0, slot := 63, uses := [(63, 0), (63, 1)] }] }
/-- A request of the island. -/
def req0 : IslandReq := { level := 1, kind := 0, slot := 63 }
/-- The host link up. -/
def linkOn : State := up.modHost fun h => { h with linkUp := true }
/-- A signing asked by MB0. -/
def sign0 : Signing := { transport := 0, kind := 0, mask := 0, nonce := [], body := [] }
/-- The update engine in stage `n` of a package of 65,537 bytes. -/
def updAt (n : Nat) : State := (up.modUpd fun x => { x with stage := n, len := 65537, missing := 2, toErase := [1], winOn := true, winLeft := secCounts 60, params := { auto := true } }).modHost fun h => { h with bundleOk := true }
/-- Block 1 of that package, of one byte, sent over the remote session 0. -/
def blockPay : List Byte := fld 16 [(0, 4, 1), (4, 4, crc32c [1])] ++ [1]
def blockReq : Req := { src := 8, flags := 2, length := 16, payload := blockPay.take 16, bulkLen := 1, bulk := [1] }
def blockUp : State := (updAt 1).modMb fun m => { m with sessions := List.replicate 4 { isOpen := true } }
/-- A block write of MB0 that the executor waits for. -/
def write0 : BlockWrite := { index := 1, crc := 0, data := [], src := 0 }
def writing0 : State := (updAt 1).modUpd (fun x => { x with write := [write0], toErase := [] }) |>.modMb fun m => { m with waiting := [{ cmd := { opcode := 0x0E02, req := { src := 0 }, order := 0 }, kind := .flash, since := 0 }] }
/-- The pair enabled, its link up, this unit in role `n`. -/
def paired (n : Nat) (f : Pair → Pair) : State := portsSet {} ((portAt 32 3).modPair fun p => f { p with link := true, role := n, cfg := { p.cfg with pair := { enable := true, hbCan := 7, hbMiss := 0 }, ttdp := { enable := true, dir1 := 1, dir2 := 2 }, mrp := List.replicate 2 { enable := true, role := 1, port1 := 32 } } })
/-- The partner's hello, in role `n`. -/
def hello1 (n : Nat) : PairHello := { serial := 1, ikiora := 0, rev := 1, copyFmt := 1, digest := [], reasons := 0, role := n, priority := 128, takenAt := none }
/-- A partner's copy in format `n`. -/
def copy1 (n : Nat) : PairCopy := { cycle := 1, mark := 0, copyFmt := n, digest := [], outs := [], changed := [], bytes := 0 }
/-- A block not yet acknowledged. -/
def block1 : PairBlock := { type := 1 }
/-- The own snapshot of cycle 1. -/
def snap1 : GwSnap := { cycle := 1, begun := true }
/-- A frame of 60 zero bytes. -/
def wire0 : WireFrame := { data := zeros 60 }
/-- Reception under way. -/
def rx0 : RxOpen := { wire := wire0, held := false }
/-- A learnt address and one of the FDB's buckets. -/
def learnt0 : State := up.modIng fun i => { i with learnt := [(65535, [{ domain := 7, vid := 1, mac := zeros 6, point := 0, stamp := 0, way := 0 }])] }
/-- A sequence recovery with a latent error check. -/
def recov0 : Recovery := { algo := 0, history := 2, flags := 2, paths := 2, resetMs := 1, latentDiff := 0, latentMs := 1 }
/-- A session. -/
def sess0 : Sess := { index := 16383, domain := 7, ver := 4, proto := 17, src := zeros 4, dst := zeros 4, sport := 0, dport := 0, srcZone := 0, dstZone := 0, rule := 0, profile := 0, state := .udpNew, last := 0, epoch := 1 }
/-- A frame of an IPv4 flow. -/
def ipFrame : Frame := { domain := 7, parsed := { ip := some { ver := 4, src := zeros 4, dst := zeros 4, dscp := 0, ecn := 0, proto := 1, frag := false, laterFrag := false, ext := false } } }
/-- An exception frame for handler 0. -/
def exc0 : ExcFrame := { frame := {}, rule := 0, handler := 0, copy := false, dst := 0 }
/-- A revocation sweep over that session. -/
def sweeping : State := { up.modHor fun h => { h with sessions := [(16383, sess0)] } with ep := { up.ep with sweep := some 0 } }
/-- A fabric cell. -/
def cell0 : Cell := { frame := 1, idx := 0, last := true, inp := 15, out := 15, zenith := true }
/-- A transit not yet stored, towards output 15. -/
def arriving : Transit := { transit0 15 with stored := false }
def inTransit (t : Transit) : State := up.modFab fun b => { b with transit := [(1, t)] }
/-- A NOP of MB7, submitted. -/
def cmd0 : Cmd := { opcode := 0, req := { src := 7 }, order := 0 }
/-- A retry token. -/
def tok0 : RetryTok := { token := 9, src := 0, opcode := 0x0905, payload := [], hintMs := 1, fetch := .running, object := 0, issued := 0 }
/-- Awake with a command that waits for `k`. -/
def waitingFor (k : WaitKind) : State := up.modMb fun m => { m with waiting := [{ cmd := cmd0, kind := k, since := 0 }] }
/-- All four sessions open. -/
def sessions4 : State := up.modMb fun m => { m with sessions := List.replicate 4 { isOpen := true } }
/-- An event record. -/
def rec0 : EvRec := { type := 6, sev := 0, level := 0, source := 0, time := 0, payload := [] }
/-- EQ3 enabled, a record to write. -/
def eqOn : State := up.modEq 3 fun e => { e with en := true, irqEn := true, unsig := 1, toWrite := [(0, rec0)] }
/-- Context 1 valid, its first GiB in the IOTLB. -/
def mapped : State := up.modAtu fun a => { a with ctxs := a.ctxs.set 1 { valid := true }, tlb := [{ ctx := 1, page := 0, size := 30, addr := 0, rd := true, wr := true }] }
/-- Ring `k` enabled with a descriptor to fetch through context `c`. -/
def ringOn (k c : Nat) : State := mapped.modRing k fun r => { r with en := true, tail := 1, ctx := c }
/-- A TX frame whose data is read. -/
def txf0 : TxFrame := { descs := [], data := some (zeros 60), launch := some 0, lateDrop := false }
/-- Sixty-four retry tokens outstanding. -/
def tokens64 : State := up.modMb fun m => { m with tokens := List.replicate 64 tok0 }
/-- No ring holds a frame. -/
theorem up_rings (k : Nat) : (up.ring k).rxCur = none ∧ (up.ring k).rxHeld = [] := by
  by_cases h : k < 64
  · exact ⟨(by decide +kernel : ∀ k, k < 64 → (up.ring k).rxCur = none) k h, (by decide +kernel : ∀ k, k < 64 → (up.ring k).rxHeld = []) k h⟩
  · have : up.ring k = {} := by
      show ((List.replicate 64 ({} : Ring))[k]?).getD {} = {}
      rw [List.getElem?_eq_none (by simp; omega)]; rfl
    rw [this]; exact ⟨rfl, rfl⟩

/-! ### Well-formedness: one ill-formed term for each check, which the check refuses -/

-- the request header's fields (R74) and the bytes it brings
theorem test_wf_req : ([{ rq [] with src := 12 }, { rq [] with version := 256 }, { rq [] with flags := 256 }, { rq [] with length := 65536 }, { rq [] with tag := 65536 },
    { rq [] with token := 2 ^ 32 }, { rq [] with level := 256 }, { rq [] with ctx := 64 }, { rq [] with bulkIova := 2 ^ 64 }, { rq [] with bulkLen := 2 ^ 32 },
    { rq [] with payload := zeros 2017 }] : List Req).all (fun r => !r.wf) = true := by decide +kernel
theorem test_wf_req_bulk : Req.wf { rq [] with bulk := List.replicate 16777217 0 } = false := by
  simp only [Req.wf, List.length_replicate]; decide
theorem test_wf_req_good : (rq (zeros 2016)).wf = true := by decide +kernel
theorem test_wf_frame : ([{ wire0 with domain := 256 }, { wire0 with prio := 8 }, { wire0 with zone := 256 }] : List WireFrame).all (fun w => !w.wf) = true := by decide +kernel
theorem test_wf_frame_long : WireFrame.wf { wire0 with data := List.replicate 16385 0 } = false := by
  simp only [WireFrame.wf, List.length_replicate]; decide
theorem test_wf_frame_good : wire0.wf = true := by decide +kernel
theorem test_wf_dwords : ([[(2 ^ 32, 15)], [(0, 16)], List.replicate 17 (0, 15)] : List (List (Nat × Nat))).all (fun l => !dwordsWf l) = true := by decide +kernel
theorem test_wf_dwords_good : dwordsWf [(2 ^ 32 - 1, 15)] = true := by decide +kernel
theorem test_wf_target : ([.ring 64 0 0, .ring 0 4 0, .ring 0 0 (2 ^ 24), .queue 4, .bulk (2 ^ 24)] : List DmaTarget).all (fun t => !t.wf) = true := by decide +kernel
-- every command whose operands are a request checks it

theorem test_wf_requests_1 : ([
    .nop, .getVersions, .getIdentity, .getStatus, .getMbStats, .moduleReset, .evqGetRoutes, .evqSetRoute, .ringBind, .rxSteerSet, .rxSteerGet,
    .dmaGetCounters, .atuGetCounters, .portGetStatus, .portSet, .edgeGroupSet, .portGetCounters, .plcaSet, .pseSet, .pseGetStatus, .trainingClear,
    .domainMapSet, .domainParamsSet, .vlanSet, .fdbStaticSet, .fdbFlush, .fdbRead, .streamIdSet, .streamSet, .filterSet, .gateSet, .meterSet, .frerSet,
    .mirrorSet, .countersGet, .stateClear, .tableRead, .zoneSet, .zoneMapSet, .zonePairSet, .ruleSet, .limiterSet, .horizonParamsSet, .sessionRead,
    .sessionFlush, .horizonCountersGet, .horizonTableRead, .fabricStatusGet, .fabricStartSet, .fabricModeSet] : List (Req → Instr)).all (fun f => !(f { rq [] with src := 12 }).wf && (f (rq [])).wf) = true := by decide +kernel
theorem test_wf_requests_2 : ([
    .wideStreamSet, .cutThroughSet, .fabricCountersGet, .epochSync, .queueSet, .shaperSet, .cbsSet, .gclSet, .gclGet, .preemptSet, .zenithAdmitSet,
    .zenithStatusGet, .queueFlush, .egressCountersGet, .timeStatusGet, .timeParamsSet, .gptpInstanceSet, .timeStep, .gptpPortGet, .channelStatusGet,
    .canSet, .canWakeSet, .canRecover, .mvbSet, .mvbPortSet, .mvbAdminSet, .serialSet, .linSet, .linScheduleSet, .dioSet, .channelCountersGet,
    .gwCycleSet, .routeTableSet, .endpointSet, .acfBusSet, .gwWrite, .gwRead, .gwLock, .gwExchange, .gwStatusGet, .gwCountersGet, .gwTableRead,
    .powerStatusGet, .powerStateSet, .wakeSet, .poolSet, .arbiterGet, .supplySet, .lifecycleGet, .lifecycleSet] : List (Req → Instr)).all (fun f => !(f { rq [] with src := 12 }).wf && (f (rq [])).wf) = true := by decide +kernel
theorem test_wf_requests_3 : ([
    .keySlotWrite, .keySlotErase, .keySlotInfo, .keyOp, .provisionClose, .macsecPortSet, .macsecSaSet, .mkaSet, .macsecStatusGet, .macsecCountersGet,
    .tamperSet, .measGet, .measLogRead, .measExtend, .attestGet, .bootStatusGet, .certGet, .certSet, .spdmSet, .lodestarStatusGet, .lodestarModeSet,
    .sensorGet, .sensorThresholdSet, .nightwatchSet, .logRead, .logSet, .memportSet, .memportGet, .portBwGet, .perfGet, .perfSet, .updateStatusGet,
    .updateBegin, .updateBlock, .updateVerify, .updateActivate, .updateConfirm, .updateAbort, .updateParamsSet, .pairStatusGet, .pairSet, .pairSwitch,
    .pairCountersGet, .ttdpSet, .ttdpStatusGet, .mrpSet, .mrpStatusGet] : List (Req → Instr)).all (fun f => !(f { rq [] with src := 12 }).wf && (f (rq [])).wf) = true := by decide +kernel
theorem test_wf_operands_1 : ([
    .retryTokenExpiry (2 ^ 32), .remoteConnection 65536 0 [] false, .remoteConnection 0 (2 ^ 32) [] false, .remoteMessage 4 0 [],
    .remoteMessage 0 (2 ^ 32) [], .remoteIdleTimeout 4, .remoteClose 4, .eqEnable 4 0, .eqEnable 0 (2 ^ 32), .eqHeadWrite 4 0, .eqHeadWrite 0 (2 ^ 32),
    .eqStatusClear 4 0, .eqStatusClear 0 (2 ^ 32), .eqCoalesceTimeout 4, .eventRecordWrite 4, .ringEnable 64 0, .ringEnable 0 (2 ^ 32),
    .ringDisable 64 0, .ringDisable 0 (2 ^ 32), .ringTailWrite 64 0, .ringTailWrite 0 (2 ^ 32), .ringResume 64, .atuInvalidate (2 ^ 32),
    .atuContextWrite 64 0 0, .atuContextWrite 0 12 0, .atuContextWrite 0 0 (2 ^ 32), .atuCtxStatusClear 64 0, .atuCtxStatusClear 0 (2 ^ 32),
    .bwCtrlWrite (2 ^ 32), .perfCtlClear (2 ^ 32), .bar2EnableWrite (2 ^ 32), .registerWrite 5 0 [], .registerWrite 0 65536 [],
    .registerWrite 0 0 [(0, 16)], .msixVectorUnmask 64, .perstAssert (2 ^ 32), .pcieLinkUp 5 0, .pcieLinkUp 0 5, .txDescriptorFetched 32,
    .txFrameAccepted 32, .launchTimeReached 32, .rxDescriptorFetched 32, .rxFrameDelivery 32, .dmaReadCompletion (.ring 64 0 0) false false,
    .dmaCompletionTimeout (.ring 64 0 0) false, .frameArrival 37 wire0 false, .frameArrival 0 { wire0 with prio := 8 } false, .frameEnd 37,
    .fdbAging 65536, .streamGateEntryBoundary 1024, .streamGateListChange 1024, .frerResetTimeout 1024, .frerLatentPeriod 1024,
    .sessionAgingSweep false (2 ^ 32), .cellReceive 2 0 0 false, .cellReceive 0 16 0 false, .cellReceive 0 0 16 false, .replayRejection 2 0 0,
    .replayRejection 0 16 0, .replayRejection 0 0 16] : List Instr).all (fun i => !i.wf) = true := by decide +kernel
theorem test_wf_operands_2 : ([
    .reassemblyTimeout 16, .reseqTimeout 16, .wideStreamChangeApply 16, .firstCellAtOutput 16 .clean, .transmitOpportunity 37 .clean, .copyFinished 37,
    .gclEntryBoundary 33, .gclChangeTime 33, .preemptVerifyTimeout 33, .preemptResponseRx 33 0, .preemptResponseRx 0 4, .gptpSyncRx 2 0 false false 0 0,
    .gptpSyncRx 0 33 false false 0 0, .gptpSyncRx 0 0 false false (2 ^ 64) 0,
    .gptpAnnounceRx 2 0 false { prio1 := 0, cls := 0, acc := 0, variance := 0, prio2 := 0, gm := 0, steps := 0, sender := 0 },
    .gptpAnnounceRx 0 33 false { prio1 := 0, cls := 0, acc := 0, variance := 0, prio2 := 0, gm := 0, steps := 0, sender := 0 },
    .gptpPdelayRx 33 false 0 0, .gptpPdelayRx 0 false (2 ^ 32) 0, .syncReceiptTimeout 2, .announceReceiptTimeout 2 0, .announceReceiptTimeout 0 33,
    .syncInterval 2, .pdelayReqInterval 33, .partnerSignalDetected 33, .trainingComplete 33 0 false false 0 0, .trainingComplete 0 2 false false 0 0,
    .trainingComplete 0 0 false false (2 ^ 64) 0, .trainingComplete 0 0 false false 0 (2 ^ 64), .trainingFailed 33, .linkLoss 33 false,
    .fastStartInfofieldRx 33 0 false, .fastStartInfofieldRx 0 (2 ^ 64) false, .fastStartTimeout 33, .tokenRetryTimer 33, .eeeIdleTimer 33,
    .tc10SleepRequestRx 33, .tc10WakePulse 33 0 {}, .tc10WakePulse 0 256 {}, .plcaBeaconLoss 4, .plcaBeaconReturn 4, .pseDetection 16 false,
    .pseClassification 16 0 0, .pseClassification 0 16 0, .pseClassification 0 0 16, .pseOverload 16 0 0, .pseOverload 0 (2 ^ 32) 0,
    .pseOverload 0 0 (2 ^ 32), .pseShort 16 0 0, .pseShort 0 (2 ^ 32) 0, .pseShort 0 0 (2 ^ 32), .pseHardShort 16 0 0, .pseHardShort 0 (2 ^ 32) 0,
    .pseHardShort 0 0 (2 ^ 32), .pseThermal 16 0 0, .pseThermal 0 (2 ^ 32) 0, .pseThermal 0 0 (2 ^ 32), .pseSupplyFault (2 ^ 32),
    .pseSupplyRecovery (2 ^ 32), .pseDisconnect 16, .pseFaultWaitExpiry 16] : List Instr).all (fun i => !i.wf) = true := by decide +kernel
theorem test_wf_operands_3 : ([
    .canFrameRx 64 0 0 0 [], .canFrameRx 0 16 0 0 [], .canFrameRx 0 0 (2 ^ 16) 0 [], .canFrameRx 0 0 0 (2 ^ 32) [], .canTxComplete 64 false,
    .canErrorDetected 64 false 0 0, .canErrorDetected 0 false (2 ^ 16) 0, .canErrorDetected 0 false 0 (2 ^ 16), .canRecoverWaitExpiry 64,
    .canRecoveryDone 64, .canWakeFrame 64 false 0 false 0 0 [] 0 {}, .canWakeFrame 0 false 256 false 0 0 [] 0 {},
    .canWakeFrame 0 false 0 false (2 ^ 32) 0 [] 0 {}, .canWakeFrame 0 false 0 false 0 16 [] 0 {}, .canWakeFrame 0 false 0 false 0 0 [] 256 {},
    .j1939TpPacket 64 false 0 [] 0, .j1939TpPacket 0 false (2 ^ 32) [] 0, .j1939TpPacket 0 false 0 [] 256, .j1939Timeout 64 0 0 false false,
    .j1939Timeout 0 256 0 false false, .j1939Timeout 0 0 4 false false, .mvbFrameRx 64 (.offer 0) false false, .mvbSinkTimeExpiry 64 0,
    .mvbSinkTimeExpiry 0 4096, .mvbBasicPeriod 64, .mvbMastershipOffer 64, .mvbMastershipTimeout 64, .mvbSilentBus 64, .serialMessageRx 64 none [],
    .modbusResponseTimeout 64, .serialSilenceTimeout 64, .serialCurrentLimit 64, .serialCurrentClear 64, .linSlotTimer 64 .none', .linWakeupRx 64,
    .linResumeTimer 64, .gpiDebounceExpiry 64 0 false, .gpiDebounceExpiry 0 2 false, .gpoReadbackExpiry 64 0, .gpoReadbackExpiry 0 2,
    .beWatchdog 4 false, .beRestartDone 4 0 0 false, .beRestartDone 0 (2 ^ 32) 0 false, .beRestartDone 0 0 (2 ^ 32) false,
    .gwCycleExecute (2 ^ 16) 0 none, .gwCycleExecute 0 (2 ^ 32) none, .lockLeaseExpiry 64, .gwFetchComplete (2 ^ 32) [], .gwFetchTimeout (2 ^ 32),
    .trdpMrRx 8 false 0 0 0 0 0 [], .trdpMrRx 0 false (2 ^ 32) 0 0 0 0 [], .trdpMrRx 0 false 0 65536 0 0 0 [], .trdpMrRx 0 false 0 0 256 0 0 [],
    .trdpMrRx 0 false 0 0 0 (2 ^ 32) 0 [], .trdpMrRx 0 false 0 0 0 0 (2 ^ 32) [], .trdpSessionIdle 65536, .powerFailWarn (2 ^ 32),
    .powerFailEnd (2 ^ 32), .holdupExhausted (2 ^ 32), .inputOvervoltage (2 ^ 32)] : List Instr).all (fun i => !i.wf) = true := by decide +kernel
theorem test_wf_operands_4 : ([
    .railOutOfRange 14 0, .railOutOfRange 0 (2 ^ 32), .wakePin 2 0 {}, .wakePin 0 256 {}, .rtcAlarm 256 {}, .tokenRequest 64,
    .holdupEstimate (2 ^ 32) 0, .holdupEstimate 0 (2 ^ 16), .lockstepMismatch 2 0 0, .lockstepMismatch 0 9 0, .lockstepMismatch 0 0 (2 ^ 64),
    .debugAttach 2, .lodestarEccError 3 0 0 0 false, .lodestarEccError 0 12 0 0 false, .lodestarEccError 0 0 (2 ^ 64) 0 false,
    .lodestarEccError 0 0 0 (2 ^ 32) false, .sensorSample 64 0, .holdupCapMeasure (2 ^ 16) 0 0, .holdupCapMeasure 0 (2 ^ 32) 0,
    .holdupCapMeasure 0 0 (2 ^ 32), .memportBurstBoundary 4096 0, .memportBurstBoundary 0 (2 ^ 64), .tamperLatch 7 {}, .slotUsersDone 64,
    .mkpduRx 33 { ckn := [], icvOk := true, sci := 0, prio := 0, hearsUs := false }, .mkaHelloTimer 33, .mkaLifetimeExpiry 33,
    .spdmRequest 4 0 .getVersion, .spdmRequest 0 4 .getVersion, .mctpControl 256 0, .mctpControl 0 256, .laneFailure 2,
    .reexecutionResult (2 ^ 32) false false false, .ttdpHelloRx 33 .hello, .ttdpHelloTimeout 33, .mrpTestTimer 2 false, .mrpFrameRx 2 0 .test,
    .mrpFrameRx 0 33 .test, .supplyBackInRange 16 0, .supplyBackInRange 0 (2 ^ 32), .trdpConnectionClose 65536, .laneRecovery 2, .debugDetach 2] : List Instr).all (fun i => !i.wf) = true := by decide +kernel
theorem test_wf_lengths : Instr.wf (.remoteConnection 0 0 (List.replicate 65537 0) false) = false ∧
    Instr.wf (.remoteMessage 0 0 (List.replicate 16779265 0)) = false ∧
    Instr.wf (.canFrameRx 0 0 0 0 (List.replicate 65537 0)) = false ∧
    Instr.wf (.canWakeFrame 0 false 0 false 0 0 (List.replicate 65537 0) 0 {}) = false ∧
    Instr.wf (.j1939TpPacket 0 false 0 (List.replicate 65537 0) 0) = false ∧
    Instr.wf (.serialMessageRx 0 none (List.replicate 65537 0)) = false ∧
    Instr.wf (.gwFetchComplete 0 (List.replicate 65537 0)) = false ∧
    Instr.wf (.trdpMrRx 0 false 0 0 0 0 0 (List.replicate 65537 0)) = false := by
  simp only [Instr.wf, List.length_replicate]; decide
theorem test_wf_good : ([
    .eqEnable 3 (2 ^ 32 - 1), .ringEnable 63 0, .registerWrite 4 65535 [(0, 15)], .frameArrival 36 wire0 true, .cellReceive 1 15 15 true,
    .gptpSyncRx 1 32 false true 0 0, .pseShort 15 0 0, .canFrameRx 63 15 0 0 [], .gpoReadbackExpiry 63 1, .railOutOfRange 13 0, .tamperLatch 6 {},
    .mkaHelloTimer 32, .mrpTestTimer 1 true, .supplyBackInRange 15 0] : List Instr).all Instr.wf = true := by decide +kernel

/-! ### Steps of the spec, on small states

Expected values are those of the rules cited, or worked out by hand from them. -/

/-- The state after a command; the state before it where it stops. -/
def after (i : Instr) (s : State) : State := match exec i s with
  | .next t => t
  | _ => s

/-- The field of `n` bytes at `off` of MB0's completion (R70, R76). -/
def cpl (t : State) (off n : Nat) : Nat := u (mread t.mb.windows (0x800 + off) n) 0 n

-- R97: NOP returns the same bytes; R76: LENGTH at 4, STATUS at 8, LEVEL at 10, payload at 32
theorem test_nop_echoes : (cpl (after (.nop (rq [1, 2, 3])) up) 32 3, cpl (after (.nop (rq [1, 2, 3])) up) 4 2, cpl (after (.nop (rq [1, 2, 3])) up) 8 2) =
    (0x030201, 3, 0) := by decide +kernel
-- R76, R77 step 2: BAD_VERSION, with the highest version supported
theorem test_bad_version : (fun t => (cpl t 8 2, cpl t 2 1)) (after (.nop { rq [] with version := 2 }) up) = (0x12, 1) := by decide +kernel
-- R75: a level that is not the command's
theorem test_bad_level : cpl (after (.nop { rq [] with level := 5 }) up) 8 2 = 0x18 := by decide +kernel
-- R733 item 1: BAD_LENGTH with the length the layout fixes
theorem test_bad_length : (fun t => (cpl t 8 2, cpl t 16 4)) (after (.getMbStats (rq [])) up) = (0x11, 1) := by decide +kernel
-- R732: NOP permits bulk, GET_IDENTITY does not
theorem test_bulk_not_permitted : (fun t => (cpl t 8 2, cpl t 16 4)) (after (.getIdentity { rq [] with flags := 2, bulkLen := 1 }) up) = (0x11, 0xFFFFFFFF) := by
  decide +kernel
-- R80: an index beyond the population, and an object that is not configured
theorem test_no_such_port : cpl (after (.portGetStatus (rq [33])) up) 8 2 = 0x18 := by decide +kernel
theorem test_not_configured : cpl (after (.stateClear (rq (zeros 4))) up) 8 2 = 0x16 := by decide +kernel
-- R79, R175: LPI_IDLE_US 0 is clamped to 1; the first clamped field stands at offset 6, MAX_AGE_H at 8 is clamped as well
theorem test_port_set_clamps : (fun t => (cpl t 8 2, cpl t 16 4, cpl t 20 2, cpl t 38 2)) (after (.portSet (rq (fld 10 [(0, 1, 31)]))) up) = (1, 6, 2, 1) := by
  decide +kernel
-- R82: a commit advances DEV_EPOCH once and sets EPOCH_ADVANCED; with two epochs live it waits, or answers BUSY under NONBLOCK
theorem test_commit : (fun t => (cpl t 8 2, cpl t 12 4, cpl t 3 1)) (after (.ringBind (rq (fld 4 [(1, 1, 7)]))) carved) = (0, 1, 1) := by decide +kernel
theorem test_commit_waits : (after (.ringBind (rq (fld 4 [(1, 1, 7)]))) draining).mb.waiting.length = 1 := by decide +kernel
theorem test_commit_nonblock : cpl (after (.ringBind { rq (fld 4 [(1, 1, 7)]) with flags := 1 }) draining) 8 2 = 0x14 := by decide +kernel
-- R77 steps 5 and 6: RETIRED permits no key command; quarantine locks them
theorem test_retired : cpl (after (.keySlotErase (rq [0])) (up.modKeys fun k => { k with record := [4] })) 8 2 = 0x13 := by decide +kernel
theorem test_locked : cpl (after (.keySlotErase (rq [0])) (up.modKeys fun k => { k with quarantine := true })) 8 2 = 0x1B := by decide +kernel
-- R76, R78, R92: an unknown opcode on a remote session: BAD_OPCODE, LEVEL 0xF, SOURCE 8, VERSION 0
theorem test_unknown_opcode : ((session (after (.remoteMessage 0 32 (fld 32 [(0, 2, 0xFFFF), (2, 1, 1), (12, 1, 0xF)])) sessions4) 0).outbox.map
    fun m => (ub m 0 4, u m 6 1, u m 12 2, u m 14 1, u m 15 1)) = [(32, 0, 0x10, 0xF, 8)] := by decide +kernel
-- the published check values of CRC-32C and CRC-32 over "123456789"
theorem test_crc32c : crc32c (ascii "123456789") = 0xE3069283 := by decide +kernel
theorem test_crc32 : crc32 (ascii "123456789") = 0xCBF43926 := by decide +kernel
-- R49: EN is not set while CTX is 0; R46: a write without all four byte enables is ignored; R16: a tail beyond the ring is clamped
theorem test_eq_needs_context : ((after (.eqEnable 0 1) up).eq 0).en = false := by decide +kernel
theorem test_eq_enabled : ((after (.eqEnable 0 (2 ^ 16 + 1)) up).eq 0).en = true := by decide +kernel
theorem test_partial_write : (after (.registerWrite 0 0x408 [(15, 7)]) up).eqs = up.eqs := by decide +kernel
theorem test_size_clamped : ((after (.registerWrite 0 0x408 [(31, 15), (0, 0)]) up).eq 0).log2 ≤ 16 := by decide +kernel
theorem test_tail_clamped : ((after (.ringTailWrite 0 0xFFFF) up).ring 0).tail = 63 := by decide +kernel
-- R172: a port that loses its link trains again; R173, R165
theorem test_link_loss : (portRun (after (.linkLoss 32 false) (portAt 32 3)) 32).oper = 1 := by decide +kernel
-- R412: error passive at 128, bus-off when the TEC exceeds 255
theorem test_can_passive : (canRun (after (.canErrorDetected 7 true 128 0) (canAt 1 {})) 7).state = 2 := by decide +kernel
theorem test_can_not_yet_off : (canRun (after (.canErrorDetected 7 true 255 0) (canAt 1 {})) 7).state = 2 := by decide +kernel
theorem test_can_bus_off : (canRun (after (.canErrorDetected 7 true 256 0) (canAt 1 {})) 7).state = 3 := by decide +kernel
-- R613, R614: a service in the first window is valid at once; one before the open point of a later window bites
theorem test_nightwatch_first : (after .nightwatchService up).lode.nw.bites = 0 := by decide +kernel
theorem test_nightwatch_early : (after .nightwatchService (up.modLode fun l => { l with nw := { l.nw with openPct := 1 } })).lode.nw.bites = 1 := by decide +kernel
-- R556: the first latch of an episode counts it; R557: in BLANK nothing else happens
theorem test_tamper_counts : (after (.tamperLatch 0 {}) (up.modKeys fun k => { k with record := [2], armed := 127 })).keys.tamperCount = 1 := by decide +kernel
-- R649: UPDATE_BEGIN of a new package: stage 1 RECEIVING, two blocks missing of 65,537 bytes
theorem test_update_begin : (fun t => (t.upd.stage, t.upd.missing)) (after (.updateBegin (rq (fld 56 [(0, 1, 1), (48, 4, 65537)]))) up) = (1, 3) := by decide +kernel
-- R222, R196: a static FDB entry takes its bucket; R223: a flush takes learnt entries alone
theorem test_flush_learnt : (after (.fdbFlush (rq (fld 6 [(0, 1, 7)]))) learnt0).ing.learnt.flatMap (·.2) = [] := by decide +kernel
-- R253: a UDP session in its first direction times out after 30 s, not before
theorem test_session_kept : (after (.sessionAgingSweep false 16383) (up.modHor fun h => { h with sessions := [(16383, sess0)] })).hor.sessions.length = 1 := by
  decide +kernel
theorem test_session_gone : (after (.sessionAgingSweep false 16383) ((up.modHor fun h => { h with sessions := [(16383, sess0)] }).modTime fun t =>
    { t with tA := 30000000000 * 2 ^ 48 })).hor.sessions = [] := by decide +kernel
-- R371: 625 MHz; a step on an empty queue is one count of the raw counter; nothing counts before power
theorem test_idle_tick : (match step up with | .next t => t.time.raw | _ => 0) = 1 := by decide +kernel
theorem test_idle_unpowered : step State.reset = .next State.reset := by rfl
-- R185: a port that is not up receives nothing
theorem test_port_down : (after (.frameArrival 0 wire0 true) up).fab.transit = [] := by decide +kernel
-- R296: a frame whose cells stop coming ends bad with cause 2
theorem test_reassembly : ((after (.reassemblyTimeout 15) (inTransit arriving)).fab.transit.map fun e => e.2.bad) = [some 2] := by decide +kernel
-- R488: a second holder of a serial port is given a token to try again with
theorem test_lock_held : (after (.gwLock (rq (fld 6 [(0, 1, 21), (2, 1, 0xFF), (4, 2, 50)]))) (up.modGw fun g => { g with locks := [(21, lock1)] })).mb.tokens.length = 1 := by
  decide +kernel
-- R690: PAIR_SWITCH is refused unless this unit commands
theorem test_switch_refused : cpl (after (.pairSwitch (rq (fld 4 [(0, 4, 0x96005A17)]))) up) 8 2 = 0x16 := by decide +kernel
-- no row of the operation table gives bits
theorem test_no_words : decodeTableWord 32 0 = none := rfl

/-! ### Witnesses: every clause of every statement with hypotheses meets them somewhere -/

theorem wit_system_commands_complete :
    (∃ (r : Req) (s : State) (s1 : State) (p : List Byte), Runs s specNop r p s1) ∧
    (∃ (r : Req) (s : State) (s1 : State) (p : List Byte), Runs s specGetVersions r p s1) ∧
    (∃ (r : Req) (s : State) (s1 : State) (p : List Byte), Runs s specGetIdentity r p s1) ∧
    (∃ (r : Req) (s : State) (s1 : State) (p : List Byte), Runs s specGetStatus r p s1) ∧
    (∃ (r : Req) (s : State) (s1 : State) (p : List Byte), Runs s specGetMbStats r p s1) ∧
    (∃ (r : Req) (s : State) (s1 : State) (p : List Byte), Runs s specModuleReset r p s1 ∧ u p 0 4 = 0x9600A55A ∧ s1.upd.stage ≠ 4 ∧ s1.upd.stage ≠ 7) ∧
    (∃ (r : Req) (s : State) (s1 : State) (p : List Byte), Runs s specPerfGet r p s1) ∧
    (∃ (r : Req) (s : State) (s1 : State) (p : List Byte), Runs s specPerfSet r p s1 ∧ (∀ n ∈ bitList 8 (u p 0 1), perfCodeOk (bits (u p (4 + 4 * n) 4) 9 0) = true)) :=
  ⟨⟨rq [], up, _, [], runs_here (by decide +kernel)⟩,
  ⟨rq (fld 4 []), up, _, fld 4 [], runs_here (by decide +kernel)⟩,
  ⟨rq [], up, _, [], runs_here (by decide +kernel)⟩,
  ⟨rq [], up, _, [], runs_here (by decide +kernel)⟩,
  ⟨rq (fld 1 []), up, _, fld 1 [], runs_here (by decide +kernel)⟩,
  ⟨rq (fld 8 [(0, 4, 0x9600A55A)]), up, _, fld 8 [(0, 4, 0x9600A55A)], runs_here (by decide +kernel), by decide +kernel, by decide +kernel, by decide +kernel⟩,
  ⟨rq [], up, _, [], runs_here (by decide +kernel)⟩,
  ⟨rq (fld 68 []), up, _, fld 68 [], runs_here (by decide +kernel), by decide +kernel⟩⟩

theorem wit_event_and_ring_commands_complete :
    (∃ (r : Req) (s : State) (s1 : State) (p : List Byte), Runs s specEvqGetRoutes r p s1) ∧
    (∃ (r : Req) (s : State) (s1 : State) (p : List Byte), Runs s specEvqSetRoute r p s1 ∧ (u p 2 1 ≤ 3 ∨ u p 2 1 = 0xFF)) ∧
    (∃ (r : Req) (s : State) (s1 : State) (p : List Byte), Runs s specRingBind r p s1 ∧ u p 0 1 ≤ 31 ∧ ((u p 1 1 ≤ 7 ∧ inCarve s1 (u p 1 1) = true) ∨ u p 1 1 = 0xFF) ∧ s1.ep.draining = false) ∧
    (∃ (r : Req) (s : State) (s1 : State) (p : List Byte), Runs s specRxSteerSet r p s1 ∧ (u p 0 1 ≤ 7 ∨ u p 0 1 = 0xFF) ∧ (u p 1 1 ≤ 7 ∨ u p 1 1 = 0xFF) ∧ u p 2 1 ≤ 31) ∧
    (∃ (r : Req) (s : State) (s1 : State) (p : List Byte), Runs s specRxSteerGet r p s1) ∧
    (∃ (r : Req) (s : State) (s1 : State) (p : List Byte), Runs s specDmaGetCounters r p s1 ∧ u p 0 1 ≤ 63) ∧
    (∃ (r : Req) (s : State) (s1 : State) (p : List Byte), Runs s specAtuGetCounters r p s1) :=
  ⟨⟨rq (fld 4 []), up, _, fld 4 [], runs_here (by decide +kernel)⟩,
  ⟨rq (fld 4 [(1, 1, 255), (2, 1, 0xFF)]), up, _, fld 4 [(1, 1, 255), (2, 1, 0xFF)], runs_here (by decide +kernel), by decide +kernel⟩,
  ⟨rq (fld 4 [(0, 1, 31), (1, 1, 7)]), carved, _, fld 4 [(0, 1, 31), (1, 1, 7)], runs_here (by decide +kernel), by decide +kernel, by decide +kernel, by decide +kernel⟩,
  ⟨rq (fld 4 [(0, 1, 0xFF), (1, 1, 7), (2, 1, 31)]), up, _, fld 4 [(0, 1, 0xFF), (1, 1, 7), (2, 1, 31)], runs_here (by decide +kernel), by decide +kernel, by decide +kernel, by decide +kernel⟩,
  ⟨rq [], up, _, [], runs_here (by decide +kernel)⟩,
  ⟨rq (fld 2 [(0, 1, 63)]), up, _, fld 2 [(0, 1, 63)], runs_here (by decide +kernel), by decide +kernel⟩,
  ⟨rq (fld 1 []), up, _, fld 1 [], runs_here (by decide +kernel)⟩⟩

theorem wit_port_commands_complete :
    (∃ (r : Req) (s : State) (s1 : State) (p : List Byte), Runs s specPortGetStatus r p s1 ∧ u p 0 1 ≤ 32) ∧
    (∃ (r : Req) (s : State) (s1 : State) (p : List Byte), Runs s specPortSet r p s1 ∧ 4 ≤ u p 0 1 ∧ u p 0 1 ≤ 31 ∧ isT1 s1 (u p 0 1) = false ∧ u p 1 1 ≤ 1 ∧ (bit (u p 5 1 % 8) 0 = true → zenithAt s1 (u p 0 1) = false)) ∧
    (∃ (r : Req) (s : State) (s1 : State) (p : List Byte), Runs s specEdgeGroupSet r p s1 ∧ u p 0 1 ≤ 5 ∧ u p 1 1 ≤ 3 ∧ (∀ k, k < 4 → (portCfg s1 (4 + 4 * u p 0 1 + k)).admin = 0) ∧ (u p 0 1 ≤ 3 → 2 ≤ u p 1 1 → ∀ k, k < 4 → (pseCfg s1 (4 * u p 0 1 + k)).enable = false)) ∧
    (∃ (r : Req) (s : State) (s1 : State) (p : List Byte), Runs s specPortGetCounters r p s1 ∧ u p 0 1 ≤ 32) ∧
    (∃ (r : Req) (s : State) (s1 : State) (p : List Byte), Runs s specPlcaSet r p s1 ∧ u p 0 1 ≤ 3 ∧ u p 1 1 ≤ 1 ∧ (portCfg s1 (28 + u p 0 1)).admin = 0 ∧ u p 2 1 < clampTo 2 8 (u p 3 1) ∧ u p 2 1 ≤ 7) ∧
    (∃ (r : Req) (s : State) (s1 : State) (p : List Byte), Runs s specPseSet r p s1 ∧ u p 0 1 ≤ 15 ∧ u p 1 1 = 0) ∧
    (∃ (r : Req) (s : State) (s1 : State) (p : List Byte), Runs s specPseSet r p s1 ∧ u p 0 1 ≤ 15 ∧ u p 1 1 = 1 ∧ groupType s1 (u p 0 1 / 4) ≤ 1 ∧ (pseRun s1 (u p 0 1)).state = 0) ∧
    (∃ (r : Req) (s : State) (s1 : State) (p : List Byte) (x : _), Runs s specPseGetStatus r p s1 ∧ u p 0 1 ≤ 15 ∧ x = pseRun s1 (u p 0 1)) ∧
    (∃ (r : Req) (s : State) (s1 : State) (p : List Byte), Runs s specTrainingClear r p s1 ∧ u p 0 1 ≤ 27) :=
  ⟨⟨rq (fld 1 [(0, 1, 32)]), up, _, fld 1 [(0, 1, 32)], runs_here (by decide +kernel), by decide +kernel⟩,
  ⟨rq (fld 10 [(0, 1, 31), (1, 1, 1), (5, 1, 1)]), up, _, fld 10 [(0, 1, 31), (1, 1, 1), (5, 1, 1)], runs_here (by decide +kernel), by decide +kernel, by decide +kernel, by decide +kernel, by decide +kernel, by decide +kernel⟩,
  ⟨rq (fld 2 [(0, 1, 5), (1, 1, 3)]), portsSet { admin := 0 } up, _, fld 2 [(0, 1, 5), (1, 1, 3)], runs_here (by decide +kernel), by decide +kernel, by decide +kernel, by decide +kernel, by decide +kernel⟩,
  ⟨rq (fld 2 [(0, 1, 32)]), up, _, fld 2 [(0, 1, 32)], runs_here (by decide +kernel), by decide +kernel⟩,
  ⟨rq (fld 7 [(0, 1, 3), (1, 1, 1), (2, 1, 7), (3, 1, 8)]), portsSet { admin := 0 } up, _, fld 7 [(0, 1, 3), (1, 1, 1), (2, 1, 7), (3, 1, 8)], runs_here (by decide +kernel), by decide +kernel, by decide +kernel, by decide +kernel, by decide +kernel, by decide +kernel⟩,
  ⟨rq (fld 4 [(0, 1, 15)]), up, _, fld 4 [(0, 1, 15)], runs_here (by decide +kernel), by decide +kernel, by decide +kernel⟩,
  ⟨rq (fld 4 [(0, 1, 15), (1, 1, 1)]), up, _, fld 4 [(0, 1, 15), (1, 1, 1)], runs_here (by decide +kernel), by decide +kernel, by decide +kernel, by decide +kernel, by decide +kernel⟩,
  ⟨rq (fld 1 [(0, 1, 15)]), up, _, fld 1 [(0, 1, 15)], _, runs_here (by decide +kernel), by decide +kernel, rfl⟩,
  ⟨rq (fld 1 [(0, 1, 27)]), up, _, fld 1 [(0, 1, 27)], runs_here (by decide +kernel), by decide +kernel⟩⟩

theorem wit_port_rows_complete :
    (∃ (p : Nat) (s : State), 28 ≤ p ∧ p ≤ 32 ∧ (portRun s p).oper = 1) ∧
    (∃ (p : Nat) (s : State), 4 ≤ p ∧ p ≤ 27 ∧ (portRun s p).oper = 1 ∧ (portRun s p).train = none) ∧
    (∃ (p : Nat) (s : State) (role : _), p ≤ 27 ∧ (portRun s p).oper = 2 ∧ (portRun s p).fastTry = false ∧ isT1 s p = true ∧ role ≠ (portCfg s p).role ∧ bit (portCfg s p).flags 1 = false) ∧
    (∃ (p : Nat) (s : State) (role : _), p ≤ 27 ∧ (portRun s p).oper = 2 ∧ (portRun s p).fastTry = true ∧ (portRun s p).matched = true ∧ role ≠ (portCfg s p).role) ∧
    (∃ (p : Nat) (s : State), p ≤ 32 ∧ (portRun s p).oper = 2 ∧ (portRun s p).fastTry = false) ∧
    (∃ (p : Nat) (s : State), p ≤ 32 ∧ (portRun s p).oper = 3) ∧
    (∃ (p : Nat) (s : State) (fin : _) (t : _), p ≤ 27 ∧ (portRun s p).oper = 2 ∧ (portRun s p).fastTry = true ∧ (portRun s p).matched = false ∧ (portRun s p).train = some t ∧ (portCfg s p).role = 1 ∧ fin = t.finger) ∧
    (∃ (p : Nat) (s : State) (fin : _) (t : _), p ≤ 27 ∧ (portRun s p).oper = 2 ∧ (portRun s p).fastTry = true ∧ (portRun s p).matched = false ∧ (portRun s p).train = some t ∧ (portCfg s p).role = 1 ∧ fin ≠ t.finger) ∧
    (∃ (p : Nat) (s : State), p ≤ 27 ∧ (portRun s p).oper = 2 ∧ (portRun s p).fastTry = true ∧ (portRun s p).matched = false) ∧
    (∃ (p : Nat) (s : State), p ≤ 32 ∧ (portRun s p).oper = 5) ∧
    (∃ (p : Nat) (s : State), 4 ≤ p ∧ p ≤ 27 ∧ isT1 s p = false ∧ (portRun s p).oper = 3 ∧ (portRun s p).lpi = false ∧ bit (portCfg s p).flags 0 = true ∧ (portRun s p).partnerEee = true ∧ zenithAt s p = false ∧ portIdle s p = true ∧ (portRun s p).lpiEvAt = some s.now) ∧
    (∃ (p : Nat) (s : State), p ≤ 27 ∧ isT1 s p = true ∧ (portRun s p).oper = 3 ∧ bit (portCfg s p).flags 2 = true) ∧
    (∃ (i : Nat) (s : State), i ≤ 3 ∧ (at' s.ports.cfg.plca i {}).nodeId ≠ 0) ∧
    (∃ (i : Nat) (s : State), i ≤ 3 ∧ (at' s.ports.cfg.plca i {}).nodeId ≠ 0 ∧ (at' s.ports.cfg.plca i {}).enable = true ∧ portUp s (28 + i) = true) ∧
    (∃ (i : Nat) (s : State), i ≤ 15 ∧ (pseRun s i).state = 1) ∧
    (∃ (i : Nat) (s : State) (cls : _), i ≤ 15 ∧ (pseRun s i).state = 2 ∧ cls ≤ 8) ∧
    (∃ (i : Nat) (s : State), i ≤ 15 ∧ (pseRun s i).state = 3) ∧
    (∃ (s : State), s.ports.supplyFault = false) ∧
    (∃ (s : State), s.ports.supplyFault = true) ∧
    (∃ (i : Nat) (s : State), i ≤ 15 ∧ ((pseRun s i).state = 3 ∨ (pseRun s i).state = 4)) ∧
    (∃ (i : Nat) (s : State), i ≤ 15 ∧ (pseRun s i).state = 5 ∧ s.ports.supplyFault = false) :=
  ⟨⟨32, portAt 32 1, by decide +kernel, by decide +kernel, by decide +kernel⟩,
  ⟨27, portAt 27 1, by decide +kernel, by decide +kernel, by decide +kernel, by decide +kernel⟩,
  ⟨3, portsSet { flags := 0 } (portAt 3 2), 1, by decide +kernel, by decide +kernel, by decide +kernel, by decide +kernel, by decide +kernel, by decide +kernel⟩,
  ⟨27, modPort (portAt 27 2) 27 fun r => { r with fastTry := true, matched := true }, 1, by decide +kernel, by decide +kernel, by decide +kernel, by decide +kernel, by decide +kernel⟩,
  ⟨32, portAt 32 2, by decide +kernel, by decide +kernel, by decide +kernel⟩,
  ⟨32, portAt 32 3, by decide +kernel, by decide +kernel⟩,
  ⟨1, fastTry 1, 5, trained, by decide +kernel, by decide +kernel, by decide +kernel, by decide +kernel, by decide +kernel, by decide +kernel, by decide +kernel⟩,
  ⟨1, fastTry 1, 4, trained, by decide +kernel, by decide +kernel, by decide +kernel, by decide +kernel, by decide +kernel, by decide +kernel, by decide +kernel⟩,
  ⟨27, fastTry 27, by decide +kernel, by decide +kernel, by decide +kernel, by decide +kernel⟩,
  ⟨32, portAt 32 5, by decide +kernel, by decide +kernel⟩,
  ⟨27, portsSet { flags := 7 } (modPort (portAt 27 3) 27 fun r => { r with partnerEee := true, lpiEvAt := some 0 }), by decide +kernel, by decide +kernel, by decide +kernel, by decide +kernel, by decide +kernel, by decide +kernel, by decide +kernel, by decide +kernel, by decide +kernel, by decide +kernel⟩,
  ⟨3, portAt 3 3, by decide +kernel, by decide +kernel, by decide +kernel, by decide +kernel⟩,
  ⟨3, plca, by decide +kernel, by decide +kernel⟩,
  ⟨3, plca, by decide +kernel, by decide +kernel, by decide +kernel, by decide +kernel⟩,
  ⟨15, pseAt 1, by decide +kernel, by decide +kernel⟩,
  ⟨15, pseAt 2, 8, by decide +kernel, by decide +kernel, by decide +kernel⟩,
  ⟨15, pseAt 3, by decide +kernel, by decide +kernel⟩,
  ⟨up, by decide +kernel⟩,
  ⟨up.modPorts fun x => { x with supplyFault := true }, by decide +kernel⟩,
  ⟨15, pseAt 4, by decide +kernel, by decide +kernel⟩,
  ⟨15, pseAt 5, by decide +kernel, by decide +kernel, by decide +kernel⟩⟩

theorem wit_ingress_lists_complete :
    (∃ (r : Req) (s : State) (s1 : State) (t : State) (p : List Byte) (cl : List Nat), Runs s specDomainMapSet r p s1 ∧ ListApplies 16 entryDomainMap noShadowCheck p s1 t cl ∧ s1.ep.draining = false) ∧
    (∃ (r : Req) (s : State) (s1 : State) (t : State) (p : List Byte) (cl : List Nat), Runs s specDomainParamsSet r p s1 ∧ ListApplies 72 entryDomainParams noShadowCheck p s1 t cl ∧ s1.ep.draining = false) ∧
    (∃ (r : Req) (s : State) (s1 : State) (t : State) (p : List Byte) (cl : List Nat), Runs s specVlanSet r p s1 ∧ ListApplies 24 entryVlan noShadowCheck p s1 t cl ∧ s1.ep.draining = false) ∧
    (∃ (r : Req) (s : State) (s1 : State) (t : State) (p : List Byte) (cl : List Nat), Runs s specFdbStaticSet r p s1 ∧ ListApplies 24 entryFdbStatic noShadowCheck p s1 t cl ∧ s1.ep.draining = false) ∧
    (∃ (r : Req) (s : State) (s1 : State) (t : State) (p : List Byte) (cl : List Nat), Runs s specStreamIdSet r p s1 ∧ ListApplies 64 entryStreamId shadowStreamId p s1 t cl ∧ s1.ep.draining = false) ∧
    (∃ (r : Req) (s : State) (s1 : State) (t : State) (p : List Byte) (cl : List Nat), Runs s specStreamSet r p s1 ∧ ListApplies 16 entryStream shadowStream p s1 t cl ∧ s1.ep.draining = false) ∧
    (∃ (r : Req) (s : State) (s1 : State) (t : State) (p : List Byte) (cl : List Nat), Runs s specFilterSet r p s1 ∧ ListApplies 16 entryFilter shadowFilter p s1 t cl ∧ s1.ep.draining = false) ∧
    (∃ (r : Req) (s : State) (s1 : State) (t : State) (p : List Byte) (cl : List Nat), Runs s specMeterSet r p s1 ∧ ListApplies 24 entryMeter shadowMeter p s1 t cl ∧ s1.ep.draining = false) ∧
    (∃ (r : Req) (s : State) (s1 : State) (t : State) (p : List Byte) (cl : List Nat), Runs s specFrerSet r p s1 ∧ ListApplies 16 entryFrer shadowFrer p s1 t cl ∧ s1.ep.draining = false) ∧
    (∃ (r : Req) (s : State) (s1 : State) (t : State) (p : List Byte) (cl : List Nat), Runs s specMirrorSet r p s1 ∧ ListApplies 16 entryMirror noShadowCheck p s1 t cl) :=
  ⟨(by
      obtain ⟨t, cl, h, hq⟩ := list_here (size := 16) (f := entryDomainMap) (g := noShadowCheck) (p := (fld 20 [(0, 2, 1), (4, 1, 33), (5, 1, 0), (8, 1, 7), (10, 2, 4094), (12, 1, 2), (13, 1, 1)])) (s1 := entered carved specDomainMapSet (rq (fld 20 [(0, 2, 1), (4, 1, 33), (5, 1, 0), (8, 1, 7), (10, 2, 4094), (12, 1, 2), (13, 1, 1)]))) (q := fun _ => true) (by decide +kernel)
      exact ⟨rq (fld 20 [(0, 2, 1), (4, 1, 33), (5, 1, 0), (8, 1, 7), (10, 2, 4094), (12, 1, 2), (13, 1, 1)]), carved, _, t, fld 20 [(0, 2, 1), (4, 1, 33), (5, 1, 0), (8, 1, 7), (10, 2, 4094), (12, 1, 2), (13, 1, 1)], cl, runs_here (by decide +kernel), h, by decide +kernel⟩),
  (by
      obtain ⟨t, cl, h, hq⟩ := list_here (size := 72) (f := entryDomainParams) (g := noShadowCheck) (p := (fld 76 [(0, 2, 1), (4, 1, 7)])) (s1 := entered carved specDomainParamsSet (rq (fld 76 [(0, 2, 1), (4, 1, 7)]))) (q := fun _ => true) (by decide +kernel)
      exact ⟨rq (fld 76 [(0, 2, 1), (4, 1, 7)]), carved, _, t, fld 76 [(0, 2, 1), (4, 1, 7)], cl, runs_here (by decide +kernel), h, by decide +kernel⟩),
  (by
      obtain ⟨t, cl, h, hq⟩ := list_here (size := 24) (f := entryVlan) (g := noShadowCheck) (p := (fld 28 [(0, 2, 1), (4, 1, 7), (5, 1, 1), (6, 2, 4094)])) (s1 := entered carved specVlanSet (rq (fld 28 [(0, 2, 1), (4, 1, 7), (5, 1, 1), (6, 2, 4094)]))) (q := fun _ => true) (by decide +kernel)
      exact ⟨rq (fld 28 [(0, 2, 1), (4, 1, 7), (5, 1, 1), (6, 2, 4094)]), carved, _, t, fld 28 [(0, 2, 1), (4, 1, 7), (5, 1, 1), (6, 2, 4094)], cl, runs_here (by decide +kernel), h, by decide +kernel⟩),
  (by
      obtain ⟨t, cl, h, hq⟩ := list_here (size := 24) (f := entryFdbStatic) (g := noShadowCheck) (p := (fld 28 [(0, 2, 1), (4, 1, 7), (6, 2, 4094), (20, 8, 1)])) (s1 := entered carved specFdbStaticSet (rq (fld 28 [(0, 2, 1), (4, 1, 7), (6, 2, 4094), (20, 8, 1)]))) (q := fun _ => true) (by decide +kernel)
      exact ⟨rq (fld 28 [(0, 2, 1), (4, 1, 7), (6, 2, 4094), (20, 8, 1)]), carved, _, t, fld 28 [(0, 2, 1), (4, 1, 7), (6, 2, 4094), (20, 8, 1)], cl, runs_here (by decide +kernel), h, by decide +kernel⟩),
  (by
      obtain ⟨t, cl, h, hq⟩ := list_here (size := 64) (f := entryStreamId) (g := shadowStreamId) (p := (fld 68 [(0, 2, 1), (4, 2, 8191), (8, 1, 1), (9, 1, 0xFF), (20, 2, 0xFFFF)])) (s1 := entered carved specStreamIdSet (rq (fld 68 [(0, 2, 1), (4, 2, 8191), (8, 1, 1), (9, 1, 0xFF), (20, 2, 0xFFFF)]))) (q := fun _ => true) (by decide +kernel)
      exact ⟨rq (fld 68 [(0, 2, 1), (4, 2, 8191), (8, 1, 1), (9, 1, 0xFF), (20, 2, 0xFFFF)]), carved, _, t, fld 68 [(0, 2, 1), (4, 2, 8191), (8, 1, 1), (9, 1, 0xFF), (20, 2, 0xFFFF)], cl, runs_here (by decide +kernel), h, by decide +kernel⟩),
  (by
      obtain ⟨t, cl, h, hq⟩ := list_here (size := 16) (f := entryStream) (g := shadowStream) (p := (fld 20 [(0, 2, 1), (4, 2, 4095), (6, 1, 0), (10, 2, 0xFFFF), (12, 2, 0xFFFF), (14, 1, 0xFF)])) (s1 := entered streams specStreamSet (rq (fld 20 [(0, 2, 1), (4, 2, 4095), (6, 1, 0), (10, 2, 0xFFFF), (12, 2, 0xFFFF), (14, 1, 0xFF)]))) (q := fun _ => true) (by decide +kernel)
      exact ⟨rq (fld 20 [(0, 2, 1), (4, 2, 4095), (6, 1, 0), (10, 2, 0xFFFF), (12, 2, 0xFFFF), (14, 1, 0xFF)]), streams, _, t, fld 20 [(0, 2, 1), (4, 2, 4095), (6, 1, 0), (10, 2, 0xFFFF), (12, 2, 0xFFFF), (14, 1, 0xFF)], cl, runs_here (by decide +kernel), h, by decide +kernel⟩),
  (by
      obtain ⟨t, cl, h, hq⟩ := list_here (size := 16) (f := entryFilter) (g := shadowFilter) (p := (fld 20 [(0, 2, 1), (4, 2, 4095), (8, 2, 4095), (10, 1, 7), (14, 2, 0xFFFF), (16, 2, 0xFFFF)])) (s1 := entered streams specFilterSet (rq (fld 20 [(0, 2, 1), (4, 2, 4095), (8, 2, 4095), (10, 1, 7), (14, 2, 0xFFFF), (16, 2, 0xFFFF)]))) (q := fun _ => true) (by decide +kernel)
      exact ⟨rq (fld 20 [(0, 2, 1), (4, 2, 4095), (8, 2, 4095), (10, 1, 7), (14, 2, 0xFFFF), (16, 2, 0xFFFF)]), streams, _, t, fld 20 [(0, 2, 1), (4, 2, 4095), (8, 2, 4095), (10, 1, 7), (14, 2, 0xFFFF), (16, 2, 0xFFFF)], cl, runs_here (by decide +kernel), h, by decide +kernel⟩),
  (by
      obtain ⟨t, cl, h, hq⟩ := list_here (size := 24) (f := entryMeter) (g := shadowMeter) (p := (fld 28 [(0, 2, 1), (4, 2, 2047)])) (s1 := entered up specMeterSet (rq (fld 28 [(0, 2, 1), (4, 2, 2047)]))) (q := fun _ => true) (by decide +kernel)
      exact ⟨rq (fld 28 [(0, 2, 1), (4, 2, 2047)]), up, _, t, fld 28 [(0, 2, 1), (4, 2, 2047)], cl, runs_here (by decide +kernel), h, by decide +kernel⟩),
  (by
      obtain ⟨t, cl, h, hq⟩ := list_here (size := 16) (f := entryFrer) (g := shadowFrer) (p := (fld 20 [(0, 2, 1), (4, 2, 1023)])) (s1 := entered up specFrerSet (rq (fld 20 [(0, 2, 1), (4, 2, 1023)]))) (q := fun _ => true) (by decide +kernel)
      exact ⟨rq (fld 20 [(0, 2, 1), (4, 2, 1023)]), up, _, t, fld 20 [(0, 2, 1), (4, 2, 1023)], cl, runs_here (by decide +kernel), h, by decide +kernel⟩),
  (by
      obtain ⟨t, cl, h, hq⟩ := list_here (size := 16) (f := entryMirror) (g := noShadowCheck) (p := (fld 20 [(0, 2, 1), (4, 1, 3), (5, 1, 1), (6, 1, 33)])) (s1 := entered up specMirrorSet (rq (fld 20 [(0, 2, 1), (4, 1, 3), (5, 1, 1), (6, 1, 33)]))) (q := fun _ => true) (by decide +kernel)
      exact ⟨rq (fld 20 [(0, 2, 1), (4, 1, 3), (5, 1, 1), (6, 1, 33)]), up, _, t, fld 20 [(0, 2, 1), (4, 1, 3), (5, 1, 1), (6, 1, 33)], cl, runs_here (by decide +kernel), h⟩)⟩

theorem wit_ingress_entries_apply :
    (∃ (e : List Byte) (s : State), u e 0 1 ≤ 33 ∧ u e 1 1 = 0 ∧ u e 4 1 ≤ 7 ∧ inCarve s (u e 4 1) = true ∧ 1 ≤ u e 6 2 ∧ u e 6 2 ≤ 4094 ∧ u e 8 1 ≤ 2 ∧ u e 9 1 ≤ 1) ∧
    (∃ (e : List Byte) (s : State), u e 0 1 ≤ 33 ∧ u e 1 1 = 2 ∧ 1 ≤ u e 2 2 ∧ u e 2 2 ≤ 4094 ∧ thas s.it.domOvr (4096 * u e 0 1 + u e 2 2) = true) ∧
    (∃ (e : List Byte) (s : State), inCarve s (u e 0 1) = true) ∧
    (∃ (e : List Byte) (s : State), inCarve s (u e 0 1) = true ∧ u e 1 1 = 1 ∧ 1 ≤ u e 2 2 ∧ u e 2 2 ≤ 4094) ∧
    (∃ (e : List Byte) (s : State), inCarve s (u e 0 1) = true ∧ u e 1 1 = 0 ∧ 1 ≤ u e 2 2 ∧ u e 2 2 ≤ 4094 ∧ setInter (portSet (u e 16 8)) (portSet (u e 8 8)) = portSet (u e 16 8)) ∧
    (∃ (e : List Byte) (s : State), u e 0 2 ≤ 8191 ∧ u e 4 1 = 0 ∧ thas s.it.streamIds (u e 0 2) = true) ∧
    (∃ (e : List Byte), u e 0 2 ≤ 8191 ∧ u e 2 2 ≤ 4095 ∧ (u e 4 1 = 1 ∨ u e 4 1 = 2) ∧ u e 5 1 = 0xFF ∧ u e 6 1 ≤ 2 ∧ u e 16 2 = 0xFFFF) ∧
    (∃ (e : List Byte) (s : State), u e 0 2 ≤ 4095 ∧ u e 2 1 = 1 ∧ thas s.it.streams (u e 0 2) = true) ∧
    (∃ (e : List Byte), u e 0 2 ≤ 4095 ∧ u e 2 1 = 0 ∧ (u e 6 2 ≤ 1023 ∨ u e 6 2 = 0xFFFF) ∧ (u e 8 2 ≤ 1023 ∨ u e 8 2 = 0xFFFF) ∧ (u e 10 1 ≤ 3 ∨ u e 10 1 = 0xFF)) ∧
    (∃ (e : List Byte), u e 0 2 ≤ 4095 ∧ u e 2 1 = 0 ∧ u e 4 2 ≤ 4095 ∧ u e 6 1 ≤ 7 ∧ (u e 10 2 ≤ 1023 ∨ u e 10 2 = 0xFFFF) ∧ (u e 12 2 ≤ 2047 ∨ u e 12 2 = 0xFFFF)) ∧
    (∃ (e : List Byte), u e 0 2 ≤ 2047 ∧ u e 2 1 = 0 ∧ bit (u e 3 1) 4 = false) ∧
    (∃ (e : List Byte), u e 0 2 ≤ 1023 ∧ u e 2 1 = 0 ∧ u e 3 1 = 0) ∧
    (∃ (e : List Byte) (s : State), u e 0 2 ≤ 1023 ∧ u e 2 1 = 0 ∧ u e 3 1 = 1 ∧ u e 4 1 ≤ 1 ∧ tget s.it.recovery (u e 0 2) = none) ∧
    (∃ (e : List Byte) (s : State), u e 0 1 ≤ 3 ∧ u e 1 1 ≤ 1 ∧ u e 2 1 ≤ 33 ∧ (u e 2 1 = 33 ∨ (tgetD s.it.domDefault (u e 2 1) {}).domain = 3)) :=
  ⟨⟨fld 16 [(0, 1, 33), (4, 1, 7), (6, 2, 4094), (8, 1, 2), (9, 1, 1)], carved, by decide +kernel, by decide +kernel, by decide +kernel, by decide +kernel, by decide +kernel, by decide +kernel, by decide +kernel, by decide +kernel⟩,
  ⟨fld 16 [(0, 1, 33), (1, 1, 2), (2, 2, 4094)], streams, by decide +kernel, by decide +kernel, by decide +kernel, by decide +kernel, by decide +kernel⟩,
  ⟨fld 72 [(0, 1, 7)], carved, by decide +kernel⟩,
  ⟨fld 24 [(0, 1, 7), (1, 1, 1), (2, 2, 4094)], carved, by decide +kernel, by decide +kernel, by decide +kernel, by decide +kernel⟩,
  ⟨fld 24 [(0, 1, 7), (2, 2, 4094), (8, 8, 2^34-1), (16, 8, 1)], carved, by decide +kernel, by decide +kernel, by decide +kernel, by decide +kernel, by decide +kernel⟩,
  ⟨fld 64 [(0, 2, 8191)], streams, by decide +kernel, by decide +kernel, by decide +kernel⟩,
  ⟨fld 64 [(0, 2, 8191), (2, 2, 4095), (4, 1, 2), (5, 1, 0xFF), (6, 1, 2), (16, 2, 0xFFFF)], by decide +kernel, by decide +kernel, by decide +kernel, by decide +kernel, by decide +kernel, by decide +kernel⟩,
  ⟨fld 16 [(0, 2, 4095), (2, 1, 1)], streams, by decide +kernel, by decide +kernel, by decide +kernel⟩,
  ⟨fld 16 [(0, 2, 4095), (6, 2, 1023), (8, 2, 0xFFFF), (10, 1, 3)], by decide +kernel, by decide +kernel, by decide +kernel, by decide +kernel, by decide +kernel⟩,
  ⟨fld 16 [(0, 2, 4095), (4, 2, 4095), (6, 1, 7), (10, 2, 1023), (12, 2, 0xFFFF)], by decide +kernel, by decide +kernel, by decide +kernel, by decide +kernel, by decide +kernel, by decide +kernel⟩,
  ⟨fld 24 [(0, 2, 2047)], by decide +kernel, by decide +kernel, by decide +kernel⟩,
  ⟨fld 16 [(0, 2, 1023)], by decide +kernel, by decide +kernel, by decide +kernel⟩,
  ⟨fld 16 [(0, 2, 1023), (3, 1, 1), (4, 1, 1)], up, by decide +kernel, by decide +kernel, by decide +kernel, by decide +kernel, by decide +kernel⟩,
  ⟨fld 16 [(0, 1, 3), (1, 1, 1), (2, 1, 33)], up, by decide +kernel, by decide +kernel, by decide +kernel, by decide +kernel⟩⟩

theorem wit_ingress_commands_complete :
    (∃ (r : Req) (s : State) (s1 : State) (p : List Byte), Runs s specFdbFlush r p s1 ∧ (u p 0 1 ≤ 7 ∨ u p 0 1 = 0xFF) ∧ bit (u p 1 1) 0 = true ∧ u p 2 1 ≤ 33 ∧ bit (u p 1 1) 1 = false) ∧
    (∃ (r : Req) (s : State) (s1 : State) (p : List Byte), Runs s specFdbFlush r p s1 ∧ (u p 0 1 ≤ 7 ∨ u p 0 1 = 0xFF) ∧ u p 1 1 = 0) ∧
    (∃ (r : Req) (s : State) (s1 : State) (p : List Byte), Runs s specFdbRead r p s1 ∧ u p 0 4 ≤ 65535) ∧
    (∃ (r : Req) (s : State) (s1 : State) (p : List Byte), Runs s specGateSet r p s1 ∧ u p 0 2 ≤ 1023 ∧ u p 2 1 = 1 ∧ u p 6 2 = 0 ∧ thas s1.it.gates (u p 0 2) = true ∧ (s1.it.filters.any fun f => f.2.gate == u p 0 2) = false ∧ s1.ep.draining = false) ∧
    (∃ (r : Req) (s : State) (s1 : State) (p : List Byte) (g : Gate), Runs s specGateSet r p s1 ∧ u p 0 2 ≤ 1023 ∧ u p 2 1 = 0 ∧ 1 ≤ u p 6 2 ∧ u p 6 2 ≤ 256 ∧ u p 4 1 ≤ 1 ∧ u p 5 1 ≤ 7 ∧ (∀ x ∈ gateEntries p (u p 6 2), u x.2 8 1 ≤ 1 ∧ u x.2 9 1 ≤ 7) ∧ s1.ep.draining = false ∧ g.flags = u p 3 1 % 4 ∧ g.initState = u p 4 1 ∧ g.initIpv = u p 5 1 ∧ g.base = u p 8 8 ∧ g.cycle = (if u p 16 4 = 0 then 0 else clampTo 1000 1000000000 (u p 16 4)) ∧ g.entries = (gateEntries p (u p 6 2)).map (fun x => (gateEntryOf x.1 x.2).1) ∧ gatePool (s1.modIt fun t => { t with gates := tset t.gates (u p 0 2) g }).it ≤ 32768) ∧
    (∃ (r : Req) (s : State) (s1 : State) (p : List Byte), Runs s specCountersGet r p s1 ∧ u p 0 1 ≤ 5 ∧ ingInPop (u p 0 1) (u p 2 2) = true ∧ ingConfigured s1 (u p 0 1) (u p 2 2) = true) ∧
    (∃ (r : Req) (s : State) (s1 : State) (p : List Byte), Runs s specStateClear r p s1 ∧ u p 0 1 = 0 ∧ u p 2 2 ≤ 4095 ∧ thas s1.it.filters (u p 2 2) = true) ∧
    (∃ (r : Req) (s : State) (s1 : State) (p : List Byte), Runs s specStateClear r p s1 ∧ u p 0 1 = 1 ∧ u p 2 2 ≤ 2047 ∧ thas s1.it.meters (u p 2 2) = true) ∧
    (∃ (r : Req) (s : State) (s1 : State) (p : List Byte), Runs s specStateClear r p s1 ∧ u p 0 1 = 3 ∧ u p 2 2 ≤ 1023 ∧ thas s1.it.gates (u p 2 2) = true) ∧
    (∃ (r : Req) (s : State) (s1 : State) (p : List Byte), Runs s specTableRead r p s1 ∧ u p 0 1 ≤ 11 ∧ u p 2 2 < ingPopulation (u p 0 1)) :=
  ⟨⟨rq (fld 6 [(0, 1, 0xFF), (1, 1, 1), (2, 1, 33)]), up, _, fld 6 [(0, 1, 0xFF), (1, 1, 1), (2, 1, 33)], runs_here (by decide +kernel), by decide +kernel, by decide +kernel, by decide +kernel, by decide +kernel⟩,
  ⟨rq (fld 6 [(0, 1, 7)]), up, _, fld 6 [(0, 1, 7)], runs_here (by decide +kernel), by decide +kernel, by decide +kernel⟩,
  ⟨rq (fld 8 [(0, 4, 65535)]), up, _, fld 8 [(0, 4, 65535)], runs_here (by decide +kernel), by decide +kernel⟩,
  ⟨rq (fld 32 [(0, 2, 1023), (2, 1, 1)]), streams, _, fld 32 [(0, 2, 1023), (2, 1, 1)], runs_here (by decide +kernel), by decide +kernel, by decide +kernel, by decide +kernel, by decide +kernel, by decide +kernel, by decide +kernel⟩,
  ⟨rq (fld 44 [(0, 2, 1023), (6, 2, 1), (4, 1, 1), (5, 1, 7), (32, 4, 1000), (40, 1, 1), (41, 1, 7)]), up, _, fld 44 [(0, 2, 1023), (6, 2, 1), (4, 1, 1), (5, 1, 7), (32, 4, 1000), (40, 1, 1), (41, 1, 7)], gate1, runs_here (by decide +kernel), by decide +kernel, by decide +kernel, by decide +kernel, by decide +kernel, by decide +kernel, by decide +kernel, by decide +kernel, by decide +kernel, by decide +kernel, by decide +kernel, by decide +kernel, by decide +kernel, by decide +kernel, by decide +kernel, by decide +kernel⟩,
  ⟨rq (fld 4 [(2, 2, 4095)]), streams, _, fld 4 [(2, 2, 4095)], runs_here (by decide +kernel), by decide +kernel, by decide +kernel, by decide +kernel⟩,
  ⟨rq (fld 4 [(2, 2, 4095)]), streams, _, fld 4 [(2, 2, 4095)], runs_here (by decide +kernel), by decide +kernel, by decide +kernel, by decide +kernel⟩,
  ⟨rq (fld 4 [(0, 1, 1), (2, 2, 2047)]), streams, _, fld 4 [(0, 1, 1), (2, 2, 2047)], runs_here (by decide +kernel), by decide +kernel, by decide +kernel, by decide +kernel⟩,
  ⟨rq (fld 4 [(0, 1, 3), (2, 2, 1023)]), streams, _, fld 4 [(0, 1, 3), (2, 2, 1023)], runs_here (by decide +kernel), by decide +kernel, by decide +kernel, by decide +kernel⟩,
  ⟨rq (fld 6 [(0, 1, 11), (2, 2, 0)]), up, _, fld 6 [(0, 1, 11), (2, 2, 0)], runs_here (by decide +kernel), by decide +kernel, by decide +kernel⟩⟩

theorem wit_horizon_commands_complete :
    (∃ (r : Req) (s : State) (s1 : State) (t : State) (p : List Byte) (cl : List Nat), Runs s specZoneSet r p s1 ∧ ListApplies 8 entryZone shadowZone p s1 t cl ∧ s1.ep.draining = false) ∧
    (∃ (r : Req) (s : State) (s1 : State) (t : State) (p : List Byte) (cl : List Nat), Runs s specZoneMapSet r p s1 ∧ ListApplies 16 entryZoneMap shadowZoneMap p s1 t cl ∧ s1.ep.draining = false) ∧
    (∃ (r : Req) (s : State) (s1 : State) (t : State) (p : List Byte) (cl : List Nat), Runs s specZonePairSet r p s1 ∧ ListApplies 16 entryZonePair shadowZonePair p s1 t cl ∧ s1.ep.draining = false) ∧
    (∃ (r : Req) (s : State) (s1 : State) (t : State) (p : List Byte) (cl : List Nat), Runs s specRuleSet r p s1 ∧ ListApplies 72 entryRule noShadowCheck p s1 t cl ∧ s1.ep.draining = false) ∧
    (∃ (r : Req) (s : State) (s1 : State) (t : State) (p : List Byte) (cl : List Nat), Runs s specLimiterSet r p s1 ∧ ListApplies 16 entryLimiter noShadowCheck p s1 t cl ∧ s1.ep.draining = false) ∧
    (∃ (r : Req) (s : State) (s1 : State) (p : List Byte), Runs s specHorizonParamsSet r p s1) ∧
    (∃ (r : Req) (s : State) (s1 : State) (p : List Byte), Runs s specSessionRead r p s1 ∧ u p 8 1 = 0 ∧ 1 ≤ u p 0 4 ∧ u p 0 4 ≤ 16383) ∧
    (∃ (r : Req) (s : State) (s1 : State) (p : List Byte), Runs s specSessionFlush r p s1 ∧ (u p 0 1 ≤ 7 ∨ u p 0 1 = 0xFF) ∧ (u p 2 2 ≤ 255 ∨ u p 2 2 = 0xFFFF) ∧ bit (u p 1 1) 0 = false) ∧
    (∃ (r : Req) (s : State) (s1 : State) (p : List Byte), Runs s specHorizonCountersGet r p s1 ∧ u p 0 1 = 3 ∧ u p 2 2 = 0) ∧
    (∃ (r : Req) (s : State) (s1 : State) (p : List Byte), Runs s specHorizonTableRead r p s1 ∧ u p 0 1 ≤ 5 ∧ u p 2 4 < horPopulation (u p 0 1)) :=
  ⟨(by
      obtain ⟨t, cl, h, hq⟩ := list_here (size := 8) (f := entryZone) (g := shadowZone) (p := (fld 12 [(0, 2, 1), (4, 1, 255), (6, 1, 7)])) (s1 := entered carved specZoneSet (rq (fld 12 [(0, 2, 1), (4, 1, 255), (6, 1, 7)]))) (q := fun _ => true) (by decide +kernel)
      exact ⟨rq (fld 12 [(0, 2, 1), (4, 1, 255), (6, 1, 7)]), carved, _, t, fld 12 [(0, 2, 1), (4, 1, 255), (6, 1, 7)], cl, runs_here (by decide +kernel), h, by decide +kernel⟩),
  (by
      obtain ⟨t, cl, h, hq⟩ := list_here (size := 16) (f := entryZoneMap) (g := shadowZoneMap) (p := (fld 20 [(0, 2, 1), (4, 1, 1), (5, 1, 7), (6, 1, 35), (8, 2, 4094), (12, 1, 255)])) (s1 := entered zones specZoneMapSet (rq (fld 20 [(0, 2, 1), (4, 1, 1), (5, 1, 7), (6, 1, 35), (8, 2, 4094), (12, 1, 255)]))) (q := fun _ => true) (by decide +kernel)
      exact ⟨rq (fld 20 [(0, 2, 1), (4, 1, 1), (5, 1, 7), (6, 1, 35), (8, 2, 4094), (12, 1, 255)]), zones, _, t, fld 20 [(0, 2, 1), (4, 1, 1), (5, 1, 7), (6, 1, 35), (8, 2, 4094), (12, 1, 255)], cl, runs_here (by decide +kernel), h, by decide +kernel⟩),
  (by
      obtain ⟨t, cl, h, hq⟩ := list_here (size := 16) (f := entryZonePair) (g := shadowZonePair) (p := (fld 20 [(0, 2, 1), (4, 1, 255), (5, 1, 255), (6, 1, 2), (7, 1, 1), (12, 2, 0xFFFF)])) (s1 := entered zones specZonePairSet (rq (fld 20 [(0, 2, 1), (4, 1, 255), (5, 1, 255), (6, 1, 2), (7, 1, 1), (12, 2, 0xFFFF)]))) (q := fun _ => true) (by decide +kernel)
      exact ⟨rq (fld 20 [(0, 2, 1), (4, 1, 255), (5, 1, 255), (6, 1, 2), (7, 1, 1), (12, 2, 0xFFFF)]), zones, _, t, fld 20 [(0, 2, 1), (4, 1, 255), (5, 1, 255), (6, 1, 2), (7, 1, 1), (12, 2, 0xFFFF)], cl, runs_here (by decide +kernel), h, by decide +kernel⟩),
  (by
      obtain ⟨t, cl, h, hq⟩ := list_here (size := 72) (f := entryRule) (g := noShadowCheck) (p := (fld 76 [(0, 2, 1), (4, 2, 8191), (7, 1, 4), (69, 1, 3)])) (s1 := entered up specRuleSet (rq (fld 76 [(0, 2, 1), (4, 2, 8191), (7, 1, 4), (69, 1, 3)]))) (q := fun _ => true) (by decide +kernel)
      exact ⟨rq (fld 76 [(0, 2, 1), (4, 2, 8191), (7, 1, 4), (69, 1, 3)]), up, _, t, fld 76 [(0, 2, 1), (4, 2, 8191), (7, 1, 4), (69, 1, 3)], cl, runs_here (by decide +kernel), h, by decide +kernel⟩),
  (by
      obtain ⟨t, cl, h, hq⟩ := list_here (size := 16) (f := entryLimiter) (g := noShadowCheck) (p := (fld 20 [(0, 2, 1), (4, 2, 1023)])) (s1 := entered up specLimiterSet (rq (fld 20 [(0, 2, 1), (4, 2, 1023)]))) (q := fun _ => true) (by decide +kernel)
      exact ⟨rq (fld 20 [(0, 2, 1), (4, 2, 1023)]), up, _, t, fld 20 [(0, 2, 1), (4, 2, 1023)], cl, runs_here (by decide +kernel), h, by decide +kernel⟩),
  ⟨rq (fld 208 []), up, _, fld 208 [], runs_here (by decide +kernel)⟩,
  ⟨rq (fld 12 [(0, 4, 16383)]), up, _, fld 12 [(0, 4, 16383)], runs_here (by decide +kernel), by decide +kernel, by decide +kernel, by decide +kernel⟩,
  ⟨rq (fld 4 [(0, 1, 0xFF), (2, 2, 0xFFFF)]), up, _, fld 4 [(0, 1, 0xFF), (2, 2, 0xFFFF)], runs_here (by decide +kernel), by decide +kernel, by decide +kernel, by decide +kernel⟩,
  ⟨rq (fld 4 [(0, 1, 3)]), up, _, fld 4 [(0, 1, 3)], runs_here (by decide +kernel), by decide +kernel, by decide +kernel⟩,
  ⟨rq (fld 10 [(0, 1, 5)]), up, _, fld 10 [(0, 1, 5)], runs_here (by decide +kernel), by decide +kernel, by decide +kernel⟩⟩

theorem wit_horizon_entries_apply :
    (∃ (e : List Byte) (s : State), u e 1 1 = 0 ∧ inCarve s (u e 2 1) = true ∧ bit (u e 3 1) 0 = false ∧ tget s.ht.zones (u e 0 1) = none) ∧
    (∃ (e : List Byte) (s : State), u e 1 1 = 1 ∧ (tget s.ht.zones (u e 0 1)).isSome = true) ∧
    (∃ (e : List Byte) (s : State), u e 0 1 = 1 ∧ inCarve s (u e 1 1) = true ∧ u e 2 1 ≤ 35 ∧ 1 ≤ u e 4 2 ∧ u e 4 2 ≤ 4094 ∧ s.ht.points.length < 4096) ∧
    (∃ (e : List Byte) (s : State), u e 0 1 = 3 ∧ inCarve s (u e 1 1) = true ∧ u e 2 1 ≤ 35 ∧ 1 ≤ u e 4 2 ∧ u e 4 2 ≤ 4094 ∧ thas s.ht.points (pointKey (u e 1 1) (u e 2 1) (u e 4 2)) = true) ∧
    (∃ (e : List Byte), u e 0 1 = 2 ∧ u e 6 2 ≤ 4095 ∧ u e 8 1 ≠ 0xFF) ∧
    (∃ (e : List Byte), bit (u e 10 1) 1 = true) ∧
    (∃ (e : List Byte), bit (u e 10 1) 1 = false ∧ u e 2 1 = 2 ∧ u e 3 1 ≤ 1 ∧ u e 4 2 ≤ 8191 ∧ (u e 8 2 ≤ 1023 ∨ u e 8 2 = 0xFFFF)) ∧
    (∃ (e : List Byte) (s : State), u e 0 2 ≤ 8191 ∧ u e 2 1 = 1 ∧ thas s.ht.rules (u e 0 2) = true) ∧
    (∃ (e : List Byte), u e 0 2 ≤ 8191 ∧ u e 2 1 = 0 ∧ u e 3 1 ≤ 4 ∧ u e 4 2 = 0 ∧ u e 6 1 % 16 = 0 ∧ u e 65 1 ≤ 3) ∧
    (∃ (e : List Byte), u e 0 2 ≤ 1023 ∧ u e 2 1 = 0 ∧ u e 3 1 = 0 ∧ bit (u e 12 1) 0 = false) :=
  ⟨⟨fld 8 [(0, 1, 255), (2, 1, 7)], carved, by decide +kernel, by decide +kernel, by decide +kernel, by decide +kernel⟩,
  ⟨fld 8 [(0, 1, 255), (1, 1, 1)], zones, by decide +kernel, by decide +kernel⟩,
  ⟨fld 16 [(0, 1, 1), (1, 1, 7), (2, 1, 35), (4, 2, 4094)], carved, by decide +kernel, by decide +kernel, by decide +kernel, by decide +kernel, by decide +kernel, by decide +kernel⟩,
  ⟨fld 16 [(0, 1, 3), (1, 1, 7), (2, 1, 35), (4, 2, 4094)], zones, by decide +kernel, by decide +kernel, by decide +kernel, by decide +kernel, by decide +kernel, by decide +kernel⟩,
  ⟨fld 16 [(0, 1, 2), (6, 2, 4095)], by decide +kernel, by decide +kernel, by decide +kernel⟩,
  ⟨fld 16 [(10, 1, 2)], by decide +kernel⟩,
  ⟨fld 16 [(2, 1, 2), (3, 1, 1), (4, 2, 8191), (8, 2, 0xFFFF)], by decide +kernel, by decide +kernel, by decide +kernel, by decide +kernel, by decide +kernel⟩,
  ⟨fld 72 [(0, 2, 8191), (2, 1, 1)], zones, by decide +kernel, by decide +kernel, by decide +kernel⟩,
  ⟨fld 72 [(0, 2, 8191), (3, 1, 4), (65, 1, 3)], by decide +kernel, by decide +kernel, by decide +kernel, by decide +kernel, by decide +kernel, by decide +kernel⟩,
  ⟨fld 16 [(0, 2, 1023)], by decide +kernel, by decide +kernel, by decide +kernel, by decide +kernel⟩⟩

theorem wit_fabric_commands_complete :
    (∃ (r : Req) (s : State) (s1 : State) (p : List Byte), Runs s specFabricStatusGet r p s1) ∧
    (∃ (r : Req) (s : State) (s1 : State) (p : List Byte), Runs s specFabricStartSet r p s1 ∧ (∀ k, k < 6 → 64 ≤ u p (4 * k) 4 ∧ u p (4 * k) 4 ≤ 131072 ∧ u p (4 * k) 4 % 64 = 0) ∧ u p 28 2 ≤ 1024 ∧ u p 28 2 ≤ u p 12 4 / 2 ∧ 16 ≤ u p 30 2 ∧ u p 30 2 ≤ 1024 ∧ u p 30 2 % 16 = 0 ∧ (((List.range 6).map fun k => u p (4 * k) 4).zip poolSizes |>.map fun x => x.1 * x.2).sum ≤ 16777216 ∧ fabricLimit (u p 24 4) s1.fab.wide s1.ep.cur.ing = none) ∧
    (∃ (r : Req) (s : State) (s1 : State) (p : List Byte), Runs s specFabricModeSet r p s1 ∧ (u p 0 1 = 0 ∨ u p 0 1 = 3 ∨ (u p 0 1 = 2 ∧ (s1.lifecycle = 1 ∨ s1.lifecycle = 3)))) ∧
    (∃ (r : Req) (s : State) (s1 : State) (t : State) (p : List Byte) (cl : List Nat), Runs s specWideStreamSet r p s1 ∧ ListApplies 8 entryWide shadowWide p s1 t cl) ∧
    (∃ (r : Req) (s : State) (s1 : State) (p : List Byte), Runs s specCutThroughSet r p s1) ∧
    (∃ (r : Req) (s : State) (s1 : State) (p : List Byte), Runs s specFabricCountersGet r p s1 ∧ u p 0 1 ≤ 4 ∧ u p 2 2 < at' fabPopulation (u p 0 1) 0) ∧
    (∃ (r : Req) (s : State) (s1 : State) (p : List Byte), Runs s specEpochSync r p s1 ∧ s1.ep.draining = false) ∧
    (∃ (r : Req) (s : State) (s1 : State) (p : List Byte), Runs s specEpochSync r p s1 ∧ s1.ep.draining = true ∧ bit r.flags 0 = false) ∧
    (∃ (s : State) (e : _), u e 0 1 ≤ 15 ∧ u e 1 1 = 0 ∧ u e 2 2 ≤ 4095 ∧ identPoints s.it (u e 2 2) = 1) ∧
    (∃ (s : State) (e : _), u e 0 1 ≤ 15 ∧ u e 1 1 = 1 ∧ ((at' s.fab.wide (u e 0 1) {}).pending.getD (at' s.fab.wide (u e 0 1) {}).handle).isSome = true) :=
  ⟨⟨rq [], up, _, [], runs_here (by decide +kernel)⟩,
  ⟨rq (fld 32 [(0, 4, 16384), (4, 4, 8192), (8, 4, 4096), (12, 4, 2688), (16, 4, 1024), (20, 4, 384), (24, 4, 2^32-1), (28, 2, 256), (30, 2, 256)]), up, _, fld 32 [(0, 4, 16384), (4, 4, 8192), (8, 4, 4096), (12, 4, 2688), (16, 4, 1024), (20, 4, 384), (24, 4, 2^32-1), (28, 2, 256), (30, 2, 256)], runs_here (by decide +kernel), by decide +kernel, by decide +kernel, by decide +kernel, by decide +kernel, by decide +kernel, by decide +kernel, by decide +kernel, by decide +kernel⟩,
  ⟨rq (fld 4 [(0, 1, 3)]), up, _, fld 4 [(0, 1, 3)], runs_here (by decide +kernel), by decide +kernel⟩,
  (by
      obtain ⟨t, cl, h, hq⟩ := list_here (size := 8) (f := entryWide) (g := shadowWide) (p := (fld 12 [(0, 2, 1), (4, 1, 15), (6, 2, 4095)])) (s1 := entered wideS specWideStreamSet (rq (fld 12 [(0, 2, 1), (4, 1, 15), (6, 2, 4095)]))) (q := fun _ => true) (by decide +kernel)
      exact ⟨rq (fld 12 [(0, 2, 1), (4, 1, 15), (6, 2, 4095)]), wideS, _, t, fld 12 [(0, 2, 1), (4, 1, 15), (6, 2, 4095)], cl, runs_here (by decide +kernel), h⟩),
  ⟨rq (fld 8 [(0, 8, 2^34-1)]), up, _, fld 8 [(0, 8, 2^34-1)], runs_here (by decide +kernel)⟩,
  ⟨rq (fld 4 [(0, 1, 0)]), up, _, fld 4 [(0, 1, 0)], runs_here (by decide +kernel), by decide +kernel, by decide +kernel⟩,
  ⟨rq [], up, _, [], runs_here (by decide +kernel), by decide +kernel⟩,
  ⟨rq [], draining, _, [], runs_here (by decide +kernel), by decide +kernel, by decide +kernel⟩,
  ⟨wideS, fld 8 [(0, 1, 15), (2, 2, 4095)], by decide +kernel, by decide +kernel, by decide +kernel, by decide +kernel⟩,
  ⟨up.modFab fun x => { x with wide := List.replicate 16 { handle := some 7 } }, fld 8 [(0, 1, 15), (1, 1, 1)], by decide +kernel, by decide +kernel, by decide +kernel⟩⟩

theorem wit_egress_commands_complete :
    (∃ (r : Req) (s : State) (s1 : State) (p : List Byte), Runs s specQueueSet r p s1 ∧ u p 0 1 ≤ 33) ∧
    (∃ (r : Req) (s : State) (s1 : State) (p : List Byte), Runs s specShaperSet r p s1 ∧ u p 0 1 ≤ 33 ∧ u p 1 1 ≤ 7 ∧ u p 2 1 ≤ 1 ∧ u p 3 1 = 0 ∧ (u p 1 1 = 7 → u p 2 1 = 1 → u p 0 1 ≤ 27 → admittedAt s1 (u p 0 1) = [])) ∧
    (∃ (r : Req) (s : State) (s1 : State) (p : List Byte), Runs s specCbsSet r p s1 ∧ u p 0 1 ≤ 33 ∧ (u p 1 1 = 5 ∨ u p 1 1 = 6) ∧ u p 2 1 = 0) ∧
    (∃ (r : Req) (s : State) (s1 : State) (p : List Byte), Runs s specGclSet r p s1 ∧ u p 0 1 ≤ 31 ∧ u p 1 1 = 0 ∧ u p 2 2 = 0 ∧ s1.now ≤ u p 8 8 ∧ admittedAt s1 (u p 0 1) = []) ∧
    (∃ (r : Req) (s : State) (s1 : State) (p : List Byte) (g : _), Runs s specGclGet r p s1 ∧ u p 0 1 ≤ 31 ∧ u p 1 1 = 1 ∧ (gclOf s1 (u p 0 1)).pending = some g) ∧
    (∃ (r : Req) (s : State) (s1 : State) (p : List Byte), Runs s specPreemptSet r p s1 ∧ u p 0 1 ≤ 27 ∧ u p 1 1 ≤ 1 ∧ u p 2 1 ≤ 1) ∧
    (∃ (r : Req) (s : State) (s1 : State) (t : State) (p : List Byte) (cl : List Nat), Runs s specZenithAdmitSet r p s1 ∧ ListApplies 8 entryAdmit shadowAdmit p s1 t cl ∧ zenithPorts t = none) ∧
    (∃ (s : State) (e : _), u e 0 1 ≤ 27 ∧ u e 1 1 = 0 ∧ u e 2 2 ≤ 4095 ∧ zenithOn s.it (u e 2 2) = true ∧ s.egr.cfg.minLens.length < 4096) ∧
    (∃ (r : Req) (s : State) (s1 : State) (p : List Byte), Runs s specZenithStatusGet r p s1 ∧ u p 0 1 ≤ 27 ∧ admittedAt s1 (u p 0 1) ≠ []) ∧
    (∃ (r : Req) (s : State) (s1 : State) (p : List Byte), Runs s specQueueFlush r p s1 ∧ u p 0 1 ≤ 36) ∧
    (∃ (r : Req) (s : State) (s1 : State) (p : List Byte), Runs s specEgressCountersGet r p s1 ∧ u p 0 1 = 0 ∧ u p 2 1 ≤ 36 ∧ u p 3 1 ≤ 7) ∧
    (∃ (r : Req) (s : State) (s1 : State) (p : List Byte), Runs s specEgressCountersGet r p s1 ∧ u p 0 1 = 1 ∧ u p 2 1 ≤ 27) :=
  ⟨⟨rq (fld 72 [(0, 1, 33)]), up, _, fld 72 [(0, 1, 33)], runs_here (by decide +kernel), by decide +kernel⟩,
  ⟨rq (fld 16 [(0, 1, 33), (1, 1, 7), (2, 1, 1)]), up, _, fld 16 [(0, 1, 33), (1, 1, 7), (2, 1, 1)], runs_here (by decide +kernel), by decide +kernel, by decide +kernel, by decide +kernel, by decide +kernel, by decide +kernel⟩,
  ⟨rq (fld 12 [(0, 1, 33), (1, 1, 6)]), up, _, fld 12 [(0, 1, 33), (1, 1, 6)], runs_here (by decide +kernel), by decide +kernel, by decide +kernel, by decide +kernel⟩,
  ⟨rq (fld 32 [(0, 1, 31)]), up, _, fld 32 [(0, 1, 31)], runs_here (by decide +kernel), by decide +kernel, by decide +kernel, by decide +kernel, by decide +kernel, by decide +kernel⟩,
  ⟨rq (fld 2 [(0, 1, 31), (1, 1, 1)]), modGcl up 31 fun g => { g with pending := some gcl1 }, _, fld 2 [(0, 1, 31), (1, 1, 1)], gcl1, runs_here (by decide +kernel), by decide +kernel, by decide +kernel, by decide +kernel⟩,
  ⟨rq (fld 8 [(0, 1, 27), (1, 1, 1), (2, 1, 1)]), up, _, fld 8 [(0, 1, 27), (1, 1, 1), (2, 1, 1)], runs_here (by decide +kernel), by decide +kernel, by decide +kernel, by decide +kernel⟩,
  (by
      obtain ⟨t, cl, h, hq⟩ := list_here (size := 8) (f := entryAdmit) (g := shadowAdmit) (p := (fld 12 [(0, 2, 1), (4, 1, 27), (5, 1, 1), (6, 2, 4095)])) (s1 := entered admitted specZenithAdmitSet (rq (fld 12 [(0, 2, 1), (4, 1, 27), (5, 1, 1), (6, 2, 4095)]))) (q := fun t => decide (zenithPorts t = none)) (by decide +kernel)
      exact ⟨rq (fld 12 [(0, 2, 1), (4, 1, 27), (5, 1, 1), (6, 2, 4095)]), admitted, _, t, fld 12 [(0, 2, 1), (4, 1, 27), (5, 1, 1), (6, 2, 4095)], cl, runs_here (by decide +kernel), h, of_decide_eq_true hq⟩),
  ⟨wideS, fld 8 [(0, 1, 27), (2, 2, 4095)], by decide +kernel, by decide +kernel, by decide +kernel, by decide +kernel, by decide +kernel⟩,
  ⟨rq (fld 1 [(0, 1, 27)]), admitted, _, fld 1 [(0, 1, 27)], runs_here (by decide +kernel), by decide +kernel, by decide +kernel⟩,
  ⟨rq (fld 2 [(0, 1, 36)]), up, _, fld 2 [(0, 1, 36)], runs_here (by decide +kernel), by decide +kernel⟩,
  ⟨rq (fld 4 [(2, 1, 36), (3, 1, 7)]), up, _, fld 4 [(2, 1, 36), (3, 1, 7)], runs_here (by decide +kernel), by decide +kernel, by decide +kernel, by decide +kernel⟩,
  ⟨rq (fld 4 [(0, 1, 1), (2, 1, 27)]), up, _, fld 4 [(0, 1, 1), (2, 1, 27)], runs_here (by decide +kernel), by decide +kernel, by decide +kernel⟩⟩

theorem wit_gate_and_preempt_rows_complete :
    (∃ (p : Nat) (s : State) (l : _) (e : _) (d : _) (rest : _), p ≤ 31 ∧ (gclOf s p).oper = some l ∧ l.enable = true ∧ aheadOf (gclOf s p) s.now = (e, d) :: rest ∧ (gclOf s p).pending = none) ∧
    (∃ (p : Nat) (s : State) (g : _), (gclOf s p).pending = some g) ∧
    (∃ (p : Nat) (s : State), p ≤ 27 ∧ (at' s.egr.preempt p {}).waiting = true ∧ (at' s.egr.preempt p {}).attempts < 3) ∧
    (∃ (p : Nat) (s : State), p ≤ 27 ∧ (at' s.egr.preempt p {}).waiting = true ∧ 3 ≤ (at' s.egr.preempt p {}).attempts) ∧
    (∃ (p : Nat) (s : State), p ≤ 27 ∧ (at' s.egr.preempt p {}).waiting = true) :=
  ⟨⟨31, gated, gcl1, _, _, _, by decide +kernel, by decide +kernel, by decide +kernel, rfl, by decide +kernel⟩,
  ⟨31, modGcl up 31 fun g => { g with pending := some gcl1 }, gcl1, by decide +kernel⟩,
  ⟨27, verifying 2, by decide +kernel, by decide +kernel, by decide +kernel⟩,
  ⟨27, verifying 3, by decide +kernel, by decide +kernel, by decide +kernel⟩,
  ⟨27, verifying 0, by decide +kernel, by decide +kernel⟩⟩

theorem wit_time_commands_complete :
    (∃ (r : Req) (s : State) (s1 : State) (p : List Byte), Runs s specTimeStatusGet r p s1) ∧
    (∃ (r : Req) (s : State) (s1 : State) (p : List Byte), Runs s specTimeParamsSet r p s1 ∧ u p 1 1 ≤ 1 ∧ (gptpRun s1 s1.time.steering).isGm = false) ∧
    (∃ (r : Req) (s : State) (s1 : State) (p : List Byte), Runs s specGptpInstanceSet r p s1 ∧ u p 0 1 ≤ 1 ∧ u p 1 1 ≤ 1 ∧ bit (u p 5 1) 0 = false ∧ (u p 1 1 = 1 → (gptpCfg s1 (1 - u p 0 1)).enable = true → (gptpCfg s1 (1 - u p 0 1)).domainNo ≠ clampTo 0 127 (u p 2 1))) ∧
    (∃ (r : Req) (s : State) (s1 : State) (p : List Byte), Runs s specTimeStep r p s1 ∧ u p 0 1 = 0 ∧ qualifies s1 s1.time.steering = false) ∧
    (∃ (r : Req) (s : State) (s1 : State) (p : List Byte), Runs s specGptpPortGet r p s1 ∧ u p 0 1 ≤ 1 ∧ u p 1 1 ≤ 27 ∧ bit (gptpCfg s1 (u p 0 1)).ports (u p 1 1) = true) :=
  ⟨⟨rq [], up, _, [], runs_here (by decide +kernel)⟩,
  ⟨rq (fld 24 [(1, 1, 1)]), up, _, fld 24 [(1, 1, 1)], runs_here (by decide +kernel), by decide +kernel, by decide +kernel⟩,
  ⟨rq (fld 32 [(0, 1, 1), (1, 1, 1), (2, 1, 127)]), up, _, fld 32 [(0, 1, 1), (1, 1, 1), (2, 1, 127)], runs_here (by decide +kernel), by decide +kernel, by decide +kernel, by decide +kernel, by decide +kernel⟩,
  ⟨rq (fld 16 [(8, 8, 2^64-1)]), up, _, fld 16 [(8, 8, 2^64-1)], runs_here (by decide +kernel), by decide +kernel, by decide +kernel⟩,
  ⟨rq (fld 3 [(0, 1, 1), (1, 1, 3)]), up, _, fld 3 [(0, 1, 1), (1, 1, 3)], runs_here (by decide +kernel), by decide +kernel, by decide +kernel, by decide +kernel⟩⟩

theorem wit_time_rows_complete :
    (∃ (i : Nat) (p : Nat) (s : State), gptpLive s i p = true) ∧
    (∃ (i : Nat) (p : Nat) (s : State), gptpLive s i p = true ∧ (gptpRun s i).slave = some p ∧ (gptpRun s i).syncs = 0 ∧ s.time.steering ≠ i) ∧
    (∃ (i : Nat) (p : Nat) (s : State) (a : Announce), gptpLive s i p = true ∧ a.gm ≠ ownClockId ∧ a.steps < 255) ∧
    (∃ (p : Nat) (s : State), p ≤ 27 ∧ (gptpLive s 0 p = true ∨ gptpLive s 1 p = true) ∧ (at' s.time.links p {}).waiting = true) ∧
    (∃ (i : Nat) (p : Nat) (s : State), i ≤ 1 ∧ (gptpRun s i).slave = some p ∧ (at' (gptpRun s i).ports p {}).receiptTo = false) ∧
    (∃ (i : Nat) (p : Nat) (s : State), i ≤ 1 ∧ p ≤ 27 ∧ inInst s i p = true ∧ s.host.ready = true) ∧
    (∃ (s : State), s.time.sync = 1) ∧
    (∃ (s : State), 2 ≤ s.time.sync) ∧
    (∃ (s : State) (t : _), s.time.awayAt = some t ∧ s.time.steering ≠ (timeParams s).preferred ∧ qualifies s (timeParams s).preferred = true) ∧
    (∃ (i : Nat) (s : State), i ≤ 1 ∧ (gptpCfg s i).enable = true ∧ s.host.ready = true ∧ awake s = true) ∧
    (∃ (p : Nat) (s : State), p ≤ 27 ∧ (gptpLive s 0 p = true ∨ gptpLive s 1 p = true) ∧ (at' s.time.links p {}).waiting = false) :=
  ⟨⟨0, 3, gptpUp, by decide +kernel⟩,
  ⟨0, 3, modGptp (gptpUp.modTime fun t => { t with steering := 1 }) 0 fun r => { r with slave := some 3 }, by decide +kernel, by decide +kernel, by decide +kernel, by decide +kernel⟩,
  (by
      obtain ⟨g, hg⟩ : ∃ g, g ≠ ownClockId := ⟨ownClockId + 1, by omega⟩
      exact ⟨0, 3, gptpUp, { prio1 := 0, cls := 0, acc := 0, variance := 0, prio2 := 0, gm := g, steps := 254, sender := 0 }, by decide +kernel, hg, by show (254 : Nat) < 255; decide⟩),
  ⟨3, modLink gptpUp 3 fun l => { l with waiting := true }, by decide +kernel, by decide +kernel, by decide +kernel⟩,
  ⟨1, 3, modGptp up 1 fun r => { r with slave := some 3 }, by decide +kernel, by decide +kernel, by decide +kernel⟩,
  ⟨0, 3, up, by decide +kernel, by decide +kernel, by decide +kernel, by decide +kernel⟩,
  ⟨up.modTime fun t => { t with sync := 1 }, by decide +kernel⟩,
  ⟨up.modTime fun t => { t with sync := 2 }, by decide +kernel⟩,
  ⟨modGptp (modLink (gptpUp.modTime fun t => { t with steering := 1, awayAt := some 0 }) 3 fun l => { l with capable := true, meanPs := some 0 }) 0 fun r => { r with slave := some 3 }, 0, by decide +kernel, by decide +kernel, by decide +kernel⟩,
  ⟨0, up, by decide +kernel, by decide +kernel, by decide +kernel, by decide +kernel⟩,
  ⟨3, gptpUp, by decide +kernel, by decide +kernel, by decide +kernel⟩⟩

theorem wit_channel_commands_complete :
    (∃ (r : Req) (s : State) (s1 : State) (p : List Byte), Runs s specChannelStatusGet r p s1 ∧ chanOk (u p 0 1) = true) ∧
    (∃ (r : Req) (s : State) (s1 : State) (p : List Byte) (f : _), Runs s specCanSet r p s1 ∧ f = canFields p ∧ u p 0 1 ≤ 7 ∧ f.1.mode ≤ 3 ∧ f.1.proto ≤ 1 ∧ 80 ≤ quanta f.1.nBrp f.1.nSeg1 f.1.nSeg2 ∧ quanta f.1.nBrp f.1.nSeg1 f.1.nSeg2 ≤ 8000 ∧ (f.1.proto = 1 → 10 ≤ quanta f.1.dBrp f.1.dSeg1 f.1.dSeg2 ∧ quanta f.1.dBrp f.1.dSeg1 f.1.dSeg2 ≤ quanta f.1.nBrp f.1.nSeg1 f.1.nSeg2) ∧ (engine s1 (engineOf (u p 0 1))).restart = none) ∧
    (∃ (r : Req) (s : State) (s1 : State) (p : List Byte), Runs s specCanWakeSet r p s1 ∧ u p 0 1 ≤ 1 ∧ u p 1 1 ≤ 1 ∧ u p 20 1 ≤ 3 ∧ (engine s1 0).restart = none) ∧
    (∃ (r : Req) (s : State) (s1 : State) (p : List Byte), Runs s specCanRecover r p s1 ∧ u p 0 1 ≤ 7 ∧ 3 ≤ (canRun s1 (u p 0 1)).state ∧ (engine s1 (engineOf (u p 0 1))).restart = none) ∧
    (∃ (r : Req) (s : State) (s1 : State) (p : List Byte), Runs s specMvbSet r p s1 ∧ isMvb (u p 0 1) = true ∧ u p 1 1 ≤ 1 ∧ u p 2 2 ≤ 4095 ∧ bit (u p 4 1 % 4) 1 = false ∧ u p 5 1 ≤ 2 ∧ (engine s1 2).restart = none ∧ engineRuns s1 (u p 0 1) = true) ∧
    (∃ (r : Req) (s : State) (s1 : State) (t : State) (p : List Byte) (cl : List Nat), Runs s specMvbPortSet r p s1 ∧ (engine s1 2).restart = none ∧ ListApplies 16 entryMvbPort noShadowCheck p s1 t cl) ∧
    (∃ (r : Req) (s : State) (s1 : State) (p : List Byte), Runs s specMvbAdminSet r p s1 ∧ isMvb (u p 0 1) = true ∧ u p 2 2 = 0 ∧ u p 1 1 = 1 ∧ bit (mvbCfg s1 (u p 0 1)).flags 1 = true ∧ u p 8 2 = (mvbCfg s1 (u p 0 1)).addr ∧ (engine s1 2).restart = none ∧ (mvbRun s1 (u p 0 1)).master = false) ∧
    (∃ (r : Req) (s : State) (s1 : State) (p : List Byte), Runs s specSerialSet r p s1 ∧ isSerial (u p 0 1) = true ∧ u p 1 1 ≤ 3 ∧ u p 2 1 ≤ 1 ∧ u p 3 1 % 16 / 2 % 4 ≠ 3 ∧ thas s1.gw.locks (u p 0 1) = false ∧ (engine s1 3).restart = none ∧ (serRun s1 (u p 0 1)).cur = none) ∧
    (∃ (r : Req) (s : State) (s1 : State) (p : List Byte), Runs s specLinSet r p s1 ∧ isLin (u p 0 1) = true ∧ u p 1 1 = 2 ∧ u p 4 1 ≤ 7 ∧ linTable s1 (u p 0 1) (u p 4 1) ≠ [] ∧ (engine s1 1).restart = none ∧ engineRuns s1 (u p 0 1) = true) ∧
    (∃ (r : Req) (s : State) (s1 : State) (p : List Byte), Runs s specLinScheduleSet r p s1 ∧ isLin (u p 0 1) = true ∧ u p 1 1 ≤ 7 ∧ u p 2 2 ≤ 64 ∧ (u p 2 2 = 0 → (linCfg s1 (u p 0 1)).table ≠ u p 1 1) ∧ (∀ i, i < u p 2 2 → u p (8 + 8 * i) 1 ≤ 63 ∧ u p (8 + 8 * i + 1) 1 ≤ 1) ∧ (engine s1 1).restart = none) ∧
    (∃ (r : Req) (s : State) (s1 : State) (p : List Byte), Runs s specDioSet r p s1 ∧ isGpi (u p 0 1) = true ∧ 32 ≤ u p 0 1 ∧ u p 0 1 ≤ 55 ∧ (engine s1 3).restart = none) ∧
    (∃ (r : Req) (s : State) (s1 : State) (p : List Byte), Runs s specDioSet r p s1 ∧ isGpi (u p 0 1) = false ∧ 32 ≤ u p 0 1 ∧ u p 0 1 ≤ 55 ∧ u p 2 1 ≤ 1 ∧ (engine s1 3).restart = none) ∧
    (∃ (r : Req) (s : State) (s1 : State) (p : List Byte), Runs s specChannelCountersGet r p s1 ∧ chanOk (u p 0 1) = true ∧ (engine s1 (engineOf (u p 0 1))).restart = none) ∧
    (∃ (s : State) (e : _), isMvb (u e 0 1) = true ∧ u e 1 1 = 1 ∧ u e 2 2 ≤ 4095 ∧ thas (at' s.leg.cfg.ports (u e 0 1 - 8) []) (u e 2 2) = true) :=
  ⟨⟨rq (fld 1 [(0, 1, 55)]), up, _, fld 1 [(0, 1, 55)], runs_here (by decide +kernel), by decide +kernel⟩,
  ⟨rq (fld 32 [(0, 1, 7), (1, 1, 1), (2, 1, 1), (4, 2, 1), (6, 2, 63), (8, 1, 16), (10, 1, 1), (11, 1, 29), (12, 1, 10)]), up, _, fld 32 [(0, 1, 7), (1, 1, 1), (2, 1, 1), (4, 2, 1), (6, 2, 63), (8, 1, 16), (10, 1, 1), (11, 1, 29), (12, 1, 10)], canFields (fld 32 [(0, 1, 7), (1, 1, 1), (2, 1, 1), (4, 2, 1), (6, 2, 63), (8, 1, 16), (10, 1, 1), (11, 1, 29), (12, 1, 10)]), runs_here (by decide +kernel), rfl, by decide +kernel, by decide +kernel, by decide +kernel, by decide +kernel, by decide +kernel, by decide +kernel, by decide +kernel⟩,
  ⟨rq (fld 24 [(0, 1, 1), (1, 1, 1), (20, 1, 3)]), up, _, fld 24 [(0, 1, 1), (1, 1, 1), (20, 1, 3)], runs_here (by decide +kernel), by decide +kernel, by decide +kernel, by decide +kernel, by decide +kernel⟩,
  ⟨rq (fld 1 [(0, 1, 7)]), canAt 3 {}, _, fld 1 [(0, 1, 7)], runs_here (by decide +kernel), by decide +kernel, by decide +kernel, by decide +kernel⟩,
  ⟨rq (fld 8 [(0, 1, 9), (1, 1, 1), (2, 2, 4095), (4, 1, 1), (5, 1, 2)]), mvbOn {} id, _, fld 8 [(0, 1, 9), (1, 1, 1), (2, 2, 4095), (4, 1, 1), (5, 1, 2)], runs_here (by decide +kernel), by decide +kernel, by decide +kernel, by decide +kernel, by decide +kernel, by decide +kernel, by decide +kernel, by decide +kernel⟩,
  (by
      obtain ⟨t, cl, h, hq⟩ := list_here (size := 16) (f := entryMvbPort) (g := noShadowCheck) (p := (fld 20 [(0, 2, 1), (4, 1, 9), (5, 1, 1), (6, 2, 4095)])) (s1 := entered (mvbOn {} id) specMvbPortSet (rq (fld 20 [(0, 2, 1), (4, 1, 9), (5, 1, 1), (6, 2, 4095)]))) (q := fun _ => true) (by decide +kernel)
      exact ⟨rq (fld 20 [(0, 2, 1), (4, 1, 9), (5, 1, 1), (6, 2, 4095)]), mvbOn {} id, _, t, fld 20 [(0, 2, 1), (4, 1, 9), (5, 1, 1), (6, 2, 4095)], cl, runs_here (by decide +kernel), by decide +kernel, h⟩),
  ⟨rq (fld 48 [(0, 1, 9), (1, 1, 1), (2, 2, 0), (8, 2, 5)]), mvbOn { flags := 2, addr := 5 } id, _, fld 48 [(0, 1, 9), (1, 1, 1), (2, 2, 0), (8, 2, 5)], runs_here (by decide +kernel), by decide +kernel, by decide +kernel, by decide +kernel, by decide +kernel, by decide +kernel, by decide +kernel, by decide +kernel⟩,
  ⟨rq (fld 20 [(0, 1, 21), (1, 1, 3), (2, 1, 1), (3, 1, 4)]), up, _, fld 20 [(0, 1, 21), (1, 1, 3), (2, 1, 1), (3, 1, 4)], runs_here (by decide +kernel), by decide +kernel, by decide +kernel, by decide +kernel, by decide +kernel, by decide +kernel, by decide +kernel, by decide +kernel⟩,
  ⟨rq (fld 8 [(0, 1, 25), (1, 1, 2), (4, 1, 7)]), linOn, _, fld 8 [(0, 1, 25), (1, 1, 2), (4, 1, 7)], runs_here (by decide +kernel), by decide +kernel, by decide +kernel, by decide +kernel, by decide +kernel, by decide +kernel, by decide +kernel⟩,
  ⟨rq (fld 16 [(0, 1, 25), (1, 1, 7), (2, 2, 1), (8, 1, 63), (9, 1, 1)]), up, _, fld 16 [(0, 1, 25), (1, 1, 7), (2, 2, 1), (8, 1, 63), (9, 1, 1)], runs_here (by decide +kernel), by decide +kernel, by decide +kernel, by decide +kernel, by decide +kernel, by decide +kernel, by decide +kernel⟩,
  ⟨rq (fld 8 [(0, 1, 47)]), up, _, fld 8 [(0, 1, 47)], runs_here (by decide +kernel), by decide +kernel, by decide +kernel, by decide +kernel, by decide +kernel⟩,
  ⟨rq (fld 8 [(0, 1, 55), (2, 1, 1)]), up, _, fld 8 [(0, 1, 55), (2, 1, 1)], runs_here (by decide +kernel), by decide +kernel, by decide +kernel, by decide +kernel, by decide +kernel, by decide +kernel⟩,
  ⟨rq (fld 2 [(0, 1, 55)]), up, _, fld 2 [(0, 1, 55)], runs_here (by decide +kernel), by decide +kernel, by decide +kernel⟩,
  ⟨mvbOn {} id, fld 16 [(0, 1, 9), (1, 1, 1), (2, 2, 4095)], by decide +kernel, by decide +kernel, by decide +kernel, by decide +kernel⟩⟩

theorem wit_bus_rows_complete :
    (∃ (c : Nat) (s : State) (d : List Byte), c ≤ 7 ∧ canOn s c = true ∧ (canCfg s c).mode = 1 ∧ (canCfg s c).proto = 2 ∧ 9 ≤ d.length ∧ d.length ≤ 2048) ∧
    (∃ (c : Nat) (s : State) (tx : _), c ≤ 7 ∧ canOn s c = true ∧ (canCfg s c).mode = 1 ∧ canFirst (chanOf s c).txq = some tx) ∧
    (∃ (c : Nat) (s : State), c ≤ 7 ∧ canOn s c = true ∧ (canCfg s c).mode ≠ 0) ∧
    (∃ (c : Nat) (s : State), c ≤ 7 ∧ engineRuns s c = true ∧ (canRun s c).state = 3 ∧ bit (canCfg s c).flags 0 = true) ∧
    (∃ (c : Nat) (s : State), c ≤ 7 ∧ engineRuns s c = true ∧ (canRun s c).state = 4) ∧
    (∃ (c : Nat) (s : State), c ≤ 7 ∧ canOn s c = true ∧ bit (canCfg s c).flags 1 = true) ∧
    (∃ (c : Nat) (s : State) (peer : _) (w : _) (sender : _) (bam : _) (x : _), c ≤ 7 ∧ w ≤ 3 ∧ (canRun s c).tp.find? (fun x => x.sender == sender && x.bam == bam && x.peer == peer) = some x) ∧
    (∃ (c : Nat) (s : State), isMvb c = true ∧ engineRuns s c = true ∧ (mvbRun s c).on = true) ∧
    (∃ (c : Nat) (s : State) (port : _) (x : _), isMvb c = true ∧ engineRuns s c = true ∧ (mvbRun s c).on = true ∧ mvbPort s c port = some x ∧ x.sink = true ∧ x.supervise = true ∧ (mvbPortRun s c port).stale = false ∧ (mvbPortRun s c port).watched = true) ∧
    (∃ (c : Nat) (s : State), isMvb c = true ∧ engineRuns s c = true ∧ (mvbRun s c).on = true ∧ (mvbRun s c).master = true) ∧
    (∃ (c : Nat) (s : State), isMvb c = true ∧ engineRuns s c = true ∧ (mvbRun s c).master = true ∧ (mvbRun s c).offered = none ∧ (mvbRun s c).admin.turns * 1024 ≤ (mvbRun s c).basic) ∧
    (∃ (c : Nat) (s : State) (a : _), isMvb c = true ∧ engineRuns s c = true ∧ (mvbRun s c).offered = some a) ∧
    (∃ (c : Nat) (s : State), isMvb c = true ∧ engineRuns s c = true ∧ (mvbRun s c).on = true ∧ (mvbRun s c).master = false ∧ bit (mvbCfg s c).flags 1 = true) ∧
    (∃ (c : Nat) (s : State) (d : List Byte) (e : _), isSerial c = true ∧ engineRuns s c = true ∧ (serCfg s c).mode ≠ 0 ∧ d.length ≤ 2048 ∧ e ≤ 2) ∧
    (∃ (c : Nat) (s : State) (d : List Byte), isSerial c = true ∧ engineRuns s c = true ∧ (serCfg s c).mode ≠ 0 ∧ 2048 < d.length) ∧
    (∃ (c : Nat) (s : State) (tx : _), isSerial c = true ∧ engineRuns s c = true ∧ (serRun s c).cur = some tx ∧ (serCfg s c).mode = 3 ∧ tx.msg.ident = 0) ∧
    (∃ (c : Nat) (s : State), isSerial c = true ∧ engineRuns s c = true ∧ ((serCfg s c).mode = 1 ∨ (serCfg s c).mode = 2) ∧ (serCfg s c).silenceMs ≠ 0 ∧ (serRun s c).brk = none) ∧
    (∃ (c : Nat) (s : State), isSerial c = true ∧ engineRuns s c = true ∧ (serCfg s c).mode ≠ 0) ∧
    (∃ (c : Nat) (s : State), isSerial c = true ∧ engineRuns s c = true ∧ (serRun s c).limit = true) ∧
    (∃ (c : Nat) (s : State), isLin c = true ∧ engineRuns s c = true ∧ (linRun s c).state = 1 ∧ muted s = false) ∧
    (∃ (c : Nat) (s : State), isLin c = true ∧ engineRuns s c = true ∧ (linRun s c).state = 2) ∧
    (∃ (c : Nat) (s : State) (t : _), isLin c = true ∧ engineRuns s c = true ∧ (linRun s c).resume = some t) ∧
    (∃ (c : Nat) (s : State) (v : _), isGpi c = true ∧ engineRuns s c = true ∧ (dioRun s c).level ≠ v % 2) ∧
    (∃ (c : Nat) (s : State), isGpi c = true ∧ engineRuns s c = true) ∧
    (∃ (c : Nat) (s : State), 48 ≤ c ∧ c ≤ 55 ∧ engineRuns s c = true ∧ (dioRun s c).driven = false) ∧
    (∃ (c : Nat) (s : State) (v : _), 48 ≤ c ∧ c ≤ 55 ∧ engineRuns s c = true ∧ (dioRun s c).driven = true ∧ (dioRun s c).fault = false ∧ v % 2 ≠ gpoLevel s c) :=
  ⟨⟨7, canAt 1 { proto := 2 }, zeros 9, by decide +kernel, by decide +kernel, by decide +kernel, by decide +kernel, by decide +kernel, by decide +kernel⟩,
  ⟨7, modChan (canAt 2 {}) 7 fun x => { x with txq := [msgTo 7] }, msgTo 7, by decide +kernel, by decide +kernel, by decide +kernel, rfl⟩,
  ⟨7, canAt 1 {}, by decide +kernel, by decide +kernel, by decide +kernel⟩,
  ⟨7, canAt 3 { flags := 1 }, by decide +kernel, by decide +kernel, by decide +kernel, by decide +kernel⟩,
  ⟨7, canAt 4 {}, by decide +kernel, by decide +kernel, by decide +kernel⟩,
  ⟨7, canAt 1 { flags := 2 }, by decide +kernel, by decide +kernel, by decide +kernel⟩,
  ⟨7, modCan up 7 fun r => { r with tp := [tp1] }, 255, 3, true, false, tp1, by decide +kernel, by decide +kernel, by decide +kernel⟩,
  ⟨9, mvbOn {} id, by decide +kernel, by decide +kernel, by decide +kernel⟩,
  ⟨9, mvbOn {} id, 4095, { sink := true, fcode := 0, supervise := true, sinkMs := 1 }, by decide +kernel, by decide +kernel, by decide +kernel, rfl, rfl, rfl, by decide +kernel, by decide +kernel⟩,
  ⟨9, mvbOn {} fun r => { r with master := true }, by decide +kernel, by decide +kernel, by decide +kernel, by decide +kernel⟩,
  ⟨9, mvbOn {} fun r => { r with master := true, basic := 1024 }, by decide +kernel, by decide +kernel, by decide +kernel, by decide +kernel, by decide +kernel⟩,
  ⟨9, mvbOn {} fun r => { r with offered := some 5 }, 5, by decide +kernel, by decide +kernel, by decide +kernel⟩,
  ⟨9, mvbOn { flags := 2 } id, by decide +kernel, by decide +kernel, by decide +kernel, by decide +kernel, by decide +kernel⟩,
  ⟨21, buses, zeros 2048, 2, by decide +kernel, by decide +kernel, by decide +kernel, by decide +kernel, by decide +kernel⟩,
  ⟨21, buses, zeros 2049, by decide +kernel, by decide +kernel, by decide +kernel, by decide +kernel⟩,
  ⟨21, modSer buses 21 fun r => { r with cur := some (msgTo 21) }, msgTo 21, by decide +kernel, by decide +kernel, rfl, by decide +kernel, rfl⟩,
  ⟨21, serOn { mode := 2, silenceMs := 1 }, by decide +kernel, by decide +kernel, by decide +kernel, by decide +kernel, by decide +kernel⟩,
  ⟨21, buses, by decide +kernel, by decide +kernel, by decide +kernel⟩,
  ⟨21, modSer buses 21 fun r => { r with limit := true }, by decide +kernel, by decide +kernel, by decide +kernel⟩,
  ⟨25, modLin buses 25 fun r => { r with state := 1 }, by decide +kernel, by decide +kernel, by decide +kernel, by decide +kernel⟩,
  ⟨25, modLin buses 25 fun r => { r with state := 2 }, by decide +kernel, by decide +kernel, by decide +kernel⟩,
  ⟨25, modLin buses 25 fun r => { r with resume := some 0 }, 0, by decide +kernel, by decide +kernel, by decide +kernel⟩,
  ⟨47, buses, 1, by decide +kernel, by decide +kernel, by decide +kernel⟩,
  ⟨47, buses, by decide +kernel, by decide +kernel⟩,
  ⟨55, buses, by decide +kernel, by decide +kernel, by decide +kernel, by decide +kernel⟩,
  ⟨55, modDio buses 55 fun r => { r with driven := true }, 1, by decide +kernel, by decide +kernel, by decide +kernel, by decide +kernel, by decide +kernel, by decide +kernel⟩⟩

theorem wit_gateway_commands_complete :
    (∃ (r : Req) (s : State) (s1 : State) (p : List Byte), Runs s specGwCycleSet r p s1 ∧ 250 ≤ u p 0 4 ∧ u p 0 4 ≤ 100000 ∧ u p 0 4 % 250 = 0 ∧ u p 4 4 < u p 0 4 * 1000 ∧ wcetOver s1.ep.cur.gw (u p 0 4) = false ∧ copyOver s1 s1.ep.cur.gw = false) ∧
    (∃ (r : Req) (s : State) (s1 : State) (t : State) (p : List Byte) (cl : List Nat), Runs s specRouteTableSet r p s1 ∧ ListApplies 48 entryGateway gatewayShadow p s1 t cl ∧ s1.ep.draining = false) ∧
    (∃ (r : Req) (s : State) (s1 : State) (p : List Byte), Runs s specEndpointSet r p s1 ∧ u p 0 1 ≤ 7 ∧ 1 ≤ u p 14 2 ∧ u p 14 2 ≤ 4094 ∧ bit (u p 1 1) 0 = true) ∧
    (∃ (r : Req) (s : State) (s1 : State) (t : State) (p : List Byte) (cl : List Nat), Runs s specAcfBusSet r p s1 ∧ ListApplies 24 entryAcf (fun off e s => [chkConf (u e 1 1 = 0 && s.gw.cfg.buses.any fun b => b.1 != u e 0 1 && b.2.stream == sub e 12 8) (off + 12)]) p s1 t cl) ∧
    (∃ (r : Req) (s : State) (s1 : State) (p : List Byte), Runs s specGwWrite r p s1 ∧ chanOk (u p 0 1) = true ∧ isGpi (u p 0 1) = false ∧ u p 1 1 = 0 ∧ muted s1 = false ∧ isModbus s1 (u p 0 1) = false ∧ u p 12 2 ≤ 2048 ∧ lengthBad s1 (kindOf (u p 0 1)) (u p 0 1) (u p 4 4) (sub p 24 (u p 12 2)).length = false ∧ journalFull s1 (sub p 24 (u p 12 2)).length = false) ∧
    (∃ (r : Req) (s : State) (s1 : State) (p : List Byte), Runs s specGwRead r p s1 ∧ chanOk (u p 0 1) = true ∧ isGpi (u p 0 1) = true ∧ (u p 2 1 = 8 ∨ u p 2 1 = 16 ∨ u p 2 1 = 32) ∧ isModbus s1 (u p 0 1) = false) ∧
    (∃ (r : Req) (s : State) (s1 : State) (p : List Byte), Runs s specGwLock r p s1 ∧ isSerial (u p 0 1) = true ∧ u p 1 1 = 0 ∧ u p 2 1 = 0xFF ∧ muted s1 = false ∧ (serCfg s1 (u p 0 1)).mode ≠ 0 ∧ tget s1.gw.locks (u p 0 1) = none ∧ tget s1.gw.heir (u p 0 1) = none) ∧
    (∃ (r : Req) (s : State) (s1 : State) (p : List Byte) (l : _), Runs s specGwLock r p s1 ∧ isSerial (u p 0 1) = true ∧ u p 1 1 = 0 ∧ u p 2 1 = 0xFF ∧ muted s1 = false ∧ (serCfg s1 (u p 0 1)).mode ≠ 0 ∧ tget s1.gw.locks (u p 0 1) = some l ∧ l.kind = 2 ∧ findToken s1 (asSubmitted r).token (asSubmitted r).src 0x0906 p = none) ∧
    (∃ (r : Req) (s : State) (s1 : State) (p : List Byte) (l : _) (x : _), Runs s specGwLock r p s1 ∧ isSerial (u p 0 1) = true ∧ u p 1 1 = 0 ∧ u p 2 1 = 0xFF ∧ muted s1 = false ∧ (serCfg s1 (u p 0 1)).mode ≠ 0 ∧ tget s1.gw.locks (u p 0 1) = some l ∧ l.kind = 2 ∧ findToken s1 (asSubmitted r).token (asSubmitted r).src 0x0906 p = some x) ∧
    (∃ (r : Req) (s : State) (s1 : State) (p : List Byte), Runs s specGwExchange r p s1 ∧ isSerial (u p 0 1) = true ∧ bit (u p 1 1) 0 = false ∧ 1 ≤ u p 2 2 ∧ u p 2 2 ≤ 2048 ∧ muted s1 = false ∧ cannotFetch s1 (u p 0 1) = false ∧ findToken s1 (asSubmitted r).token (asSubmitted r).src 0x0907 p = none ∧ tget s1.gw.locks (u p 0 1) = none ∧ ((chanOf s1 (u p 0 1)).txq.filter fun x => !isPosted x).length < 64) ∧
    (∃ (r : Req) (s : State) (s1 : State) (p : List Byte), Runs s specGwStatusGet r p s1) ∧
    (∃ (r : Req) (s : State) (s1 : State) (p : List Byte), Runs s specGwCountersGet r p s1 ∧ u p 0 1 = 1 ∧ chanOk (u p 2 2) = true) ∧
    (∃ (r : Req) (s : State) (s1 : State) (p : List Byte), Runs s specGwTableRead r p s1 ∧ u p 0 1 = 0 ∧ u p 2 2 < 16384) :=
  ⟨⟨rq (fld 8 [(0, 4, 100000)]), up, _, fld 8 [(0, 4, 100000)], runs_here (by decide +kernel), by decide +kernel, by decide +kernel, by decide +kernel, by decide +kernel, by decide +kernel, by decide +kernel⟩,
  (by
      obtain ⟨t, cl, h, hq⟩ := list_here (size := 48) (f := entryGateway) (g := gatewayShadow) (p := (fld 52 [(0, 2, 1), (4, 1, 2), (5, 1, 1), (6, 2, 32767)])) (s1 := entered (modGwt carved fun t => { t with fields := [(32767, field0)] }) specRouteTableSet (rq (fld 52 [(0, 2, 1), (4, 1, 2), (5, 1, 1), (6, 2, 32767)]))) (q := fun _ => true) (by decide +kernel)
      exact ⟨rq (fld 52 [(0, 2, 1), (4, 1, 2), (5, 1, 1), (6, 2, 32767)]), modGwt carved fun t => { t with fields := [(32767, field0)] }, _, t, fld 52 [(0, 2, 1), (4, 1, 2), (5, 1, 1), (6, 2, 32767)], cl, runs_here (by decide +kernel), h, by decide +kernel⟩),
  ⟨rq (fld 32 [(0, 1, 7), (1, 1, 1), (14, 2, 4094)]), up, _, fld 32 [(0, 1, 7), (1, 1, 1), (14, 2, 4094)], runs_here (by decide +kernel), by decide +kernel, by decide +kernel, by decide +kernel, by decide +kernel⟩,
  (by
      obtain ⟨t, cl, h, hq⟩ := list_here (size := 24) (f := entryAcf) (g := (fun off e s => [chkConf (u e 1 1 = 0 && s.gw.cfg.buses.any fun b => b.1 != u e 0 1 && b.2.stream == sub e 12 8) (off + 12)])) (p := (fld 28 [(0, 2, 1), (4, 1, 31), (6, 1, 7), (8, 2, 4094)])) (s1 := entered up specAcfBusSet (rq (fld 28 [(0, 2, 1), (4, 1, 31), (6, 1, 7), (8, 2, 4094)]))) (q := fun _ => true) (by decide +kernel)
      exact ⟨rq (fld 28 [(0, 2, 1), (4, 1, 31), (6, 1, 7), (8, 2, 4094)]), up, _, t, fld 28 [(0, 2, 1), (4, 1, 31), (6, 1, 7), (8, 2, 4094)], cl, runs_here (by decide +kernel), h⟩),
  ⟨rq (fld 32 [(0, 1, 7), (12, 2, 8)]), buses, _, fld 32 [(0, 1, 7), (12, 2, 8)], runs_here (by decide +kernel), by decide +kernel, by decide +kernel, by decide +kernel, by decide +kernel, by decide +kernel, by decide +kernel, by decide +kernel, by decide +kernel⟩,
  ⟨rq (fld 16 [(0, 1, 47), (2, 1, 32)]), up, _, fld 16 [(0, 1, 47), (2, 1, 32)], runs_here (by decide +kernel), by decide +kernel, by decide +kernel, by decide +kernel, by decide +kernel⟩,
  ⟨rq (fld 6 [(0, 1, 21), (2, 1, 0xFF), (4, 2, 5000)]), up, _, fld 6 [(0, 1, 21), (2, 1, 0xFF), (4, 2, 5000)], runs_here (by decide +kernel), by decide +kernel, by decide +kernel, by decide +kernel, by decide +kernel, by decide +kernel, by decide +kernel, by decide +kernel⟩,
  ⟨rq (fld 6 [(0, 1, 21), (2, 1, 0xFF)]), up.modGw fun g => { g with locks := [(21, lock1)] }, _, fld 6 [(0, 1, 21), (2, 1, 0xFF)], lock1, runs_here (by decide +kernel), by decide +kernel, by decide +kernel, by decide +kernel, by decide +kernel, by decide +kernel, by decide +kernel, by decide +kernel, by decide +kernel⟩,
  ⟨lockReq, lockedUp, _, lockPay, lock1, lockTok, ⟨⟨by decide, by decide, fun _ => by decide +kernel, by decide +kernel, by decide +kernel, by decide +kernel⟩, by decide +kernel, rfl, by decide +kernel⟩, by decide +kernel, by decide +kernel, by decide +kernel, by decide +kernel, by decide +kernel, by decide +kernel, by decide +kernel, by decide +kernel⟩,
  ⟨rq (fld 9 [(0, 1, 21), (2, 2, 1)]), buses, _, fld 9 [(0, 1, 21), (2, 2, 1)], runs_here (by decide +kernel), by decide +kernel, by decide +kernel, by decide +kernel, by decide +kernel, by decide +kernel, by decide +kernel, by decide +kernel, by decide +kernel, by decide +kernel⟩,
  ⟨rq [], up, _, [], runs_here (by decide +kernel)⟩,
  ⟨rq (fld 4 [(0, 1, 1), (2, 2, 55)]), up, _, fld 4 [(0, 1, 1), (2, 2, 55)], runs_here (by decide +kernel), by decide +kernel, by decide +kernel⟩,
  ⟨rq (fld 6 [(2, 2, 16383)]), up, _, fld 6 [(2, 2, 16383)], runs_here (by decide +kernel), by decide +kernel, by decide +kernel⟩⟩

theorem wit_gateway_entries_apply :
    (∃ (e : List Byte) (s : State), u e 0 1 = 0 ∧ u e 1 1 = 1 ∧ u e 2 2 ≤ 16383 ∧ thas s.ep.cur.gw.routes (u e 2 2) = true) ∧
    (∃ (e : List Byte) (s : State), u e 0 1 = 1 ∧ u e 1 1 = 1 ∧ u e 2 2 ≤ 16383 ∧ thas s.ep.cur.gw.targets (u e 2 2) = true) ∧
    (∃ (e : List Byte) (s : State), u e 0 1 = 2 ∧ u e 1 1 = 1 ∧ u e 2 2 ≤ 32767 ∧ thas s.ep.cur.gw.fields (u e 2 2) = true) ∧
    (∃ (e : List Byte) (s : State), u e 0 1 = 2 ∧ u e 1 1 = 0 ∧ u e 2 2 ≤ 32767 ∧ thas s.ep.cur.gw.fields (u e 2 2) = false ∧ u e 4 1 = 0 ∧ u e 7 1 ≤ 3 ∧ inSplit s = false ∧ 1 ≤ u e 14 2 ∧ u e 14 2 ≤ 2048) ∧
    (∃ (e : List Byte), u e 0 1 ≤ 31 ∧ u e 1 1 = 0 ∧ u e 2 1 ≤ 7 ∧ u e 4 2 ≤ 4094) :=
  ⟨⟨fld 48 [(1, 1, 1), (2, 2, 16383)], streams, by decide +kernel, by decide +kernel, by decide +kernel, by decide +kernel⟩,
  ⟨fld 48 [(0, 1, 1), (1, 1, 1), (2, 2, 16383)], modGwt up fun t => { t with targets := [(16383, target0)] }, by decide +kernel, by decide +kernel, by decide +kernel, by decide +kernel⟩,
  ⟨fld 48 [(0, 1, 2), (1, 1, 1), (2, 2, 32767)], modGwt up fun t => { t with fields := [(32767, field0)] }, by decide +kernel, by decide +kernel, by decide +kernel, by decide +kernel⟩,
  ⟨fld 48 [(0, 1, 2), (2, 2, 32767), (7, 1, 3), (14, 2, 2048)], up, by decide +kernel, by decide +kernel, by decide +kernel, by decide +kernel, by decide +kernel, by decide +kernel, by decide +kernel, by decide +kernel, by decide +kernel⟩,
  ⟨fld 24 [(0, 1, 31), (2, 1, 7), (4, 2, 4094)], by decide +kernel, by decide +kernel, by decide +kernel, by decide +kernel⟩⟩

theorem wit_gateway_rows_complete :
    (∃ (s : State), gatewayOn s = true ∧ deliverInternal s 34 = none) ∧
    (∃ (s : State) (a : _) (t : _) (b : _), gatewayOn s = true ∧ deliverInternal s 34 = some (a, t, b)) ∧
    (∃ (s : State) (gr : Nat × Nat) (v : State), gatewayOn s = true ∧ ((s.gw.nextGrid = none ∧ gr = s.gw.grid) ∨ (∃ m, s.gw.nextGrid = some (gr.1, gr.2, m))) ∧ v = pairAtMark ((s.until (nextMark s)).modGw fun g => { g with cycle := wrapAdd 32 g.cycle 1, lastMark := nextMark s, markRaw := some (s.until (nextMark s)).time.raw, grid := gr, nextGrid := none })) ∧
    (∃ (s : State) (c : _) (rest : _) (n : _), gatewayOn s = true ∧ s.gw.run = c :: rest ∧ c.begun = true ∧ c.outs.length ≤ n) ∧
    (∃ (s : State) (c : _) (rest : _), gatewayOn s = true ∧ s.gw.run = c :: rest ∧ c.begun = true ∧ c.outs ≠ []) ∧
    (∃ (s : State) (c : _) (rest : _), gatewayOn s = true ∧ s.gw.run = c :: rest) ∧
    (∃ (s : State) (c : _) (l : _), tget s.gw.locks c = some l) ∧
    (∃ (s : State) (tok : _) (f : _), s.gw.fetches.find? (fun f => f.token == tok && f.how != 4) = some f ∧ engineRuns s f.chan = true) ∧
    (∃ (s : State) (tok : _) (f : _), s.gw.fetches.find? (fun f => f.token == tok && f.how != 4) = some f) ∧
    (∃ (s : State) (d : _) (ip : _) (port : _) (com : _) (e : _) (i : _) (v : _), endpointOf s d = some e ∧ gatewayOn s = true ∧ s.host.ready = true ∧ sessionFor s d false ip port = some (i, v) ∧ com < e.md) ∧
    (∃ (s : State) (i : _) (x : _), tget s.gw.sessions i = some x) ∧
    (∃ (s : State) (i : _) (x : _), tget s.gw.sessions i = some x ∧ x.tcp = true) :=
  ⟨⟨up, by decide +kernel, by decide +kernel⟩,
  ⟨(up.modFab fun b => { b with transit := [(1, transit0 13)] }).modEgr fun e => { e with queues := [(qKey 34 7, [1])] }, _, _, _, by decide +kernel, rfl⟩,
  ⟨up, (1000, 0), _, by decide +kernel, .inl ⟨rfl, rfl⟩, rfl⟩,
  ⟨up.modGw fun g => { g with run := [snap []] }, snap [], [], 0, by decide +kernel, rfl, by decide +kernel, by decide +kernel⟩,
  ⟨up.modGw fun g => { g with run := [snap [out0]] }, snap [out0], [], by decide +kernel, rfl, by decide +kernel, by decide +kernel⟩,
  ⟨up.modGw fun g => { g with run := [snap []] }, snap [], [], by decide +kernel, rfl⟩,
  ⟨up.modGw fun g => { g with locks := [(21, lock1)] }, 21, lock1, by decide +kernel⟩,
  ⟨buses.modGw fun g => { g with fetches := [fetch1] }, 9, fetch1, rfl, by decide +kernel⟩,
  ⟨up.modGw fun g => { g with fetches := [fetch1] }, 9, fetch1, rfl⟩,
  ⟨up.modGw fun g => { g with cfg := { g.cfg with ends := [(7, { flags := 1, md := 5 })] } }, 7, 1, 2, 4, { flags := 1, md := 5 }, _, _, rfl, by decide +kernel, by decide +kernel, rfl, by show 4 < 5; decide⟩,
  ⟨up.modGw fun g => { g with sessions := [(63, trdp1)] }, 63, trdp1, by decide +kernel⟩,
  ⟨up.modGw fun g => { g with sessions := [(63, trdp1)] }, 63, trdp1, by decide +kernel, by decide +kernel⟩⟩

theorem wit_power_commands_complete :
    (∃ (r : Req) (s : State) (s1 : State) (p : List Byte), Runs s specPowerStatusGet r p s1) ∧
    (∃ (r : Req) (s : State) (s1 : State) (p : List Byte), Runs s specPowerStateSet r p s1 ∧ (u p 0 1 ≤ 1 ∨ (u p 0 1 = 2 ∧ u p 4 4 = 0x9600DA4C ∧ s1.power.wake.enable % 64 ≠ 0)) ∧ u p 0 1 ≠ s1.power.state ∧ powerBusy s1 = false) ∧
    (∃ (r : Req) (s : State) (s1 : State) (p : List Byte), Runs s specWakeSet r p s1 ∧ u p 2 1 ≤ 2 ∧ (u p 2 1 = 0 ∨ u p 3 1 % 4 ≠ 0)) ∧
    (∃ (r : Req) (s : State) (s1 : State) (p : List Byte), Runs s specPoolSet r p s1 ∧ intUsed s1 ≤ 20 * clampTo 20 62 (u p 0 2) ∧ bit (u p 4 1) 0 = false) ∧
    (∃ (r : Req) (s : State) (s1 : State) (p : List Byte), Runs s specArbiterGet r p s1 ∧ u p 0 1 ≤ 63) ∧
    (∃ (r : Req) (s : State) (s1 : State) (p : List Byte), Runs s specSupplySet r p s1) :=
  ⟨⟨rq [], up, _, [], runs_here (by decide +kernel)⟩,
  ⟨rq (fld 8 [(0, 1, 2), (4, 4, 0x9600DA4C)]), up.modPow fun p => { p with wake := { p.wake with enable := 1 } }, _, fld 8 [(0, 1, 2), (4, 4, 0x9600DA4C)], runs_here (by decide +kernel), by decide +kernel, by decide +kernel, by decide +kernel⟩,
  ⟨rq (fld 24 [(2, 1, 2), (3, 1, 3)]), up, _, fld 24 [(2, 1, 2), (3, 1, 3)], runs_here (by decide +kernel), by decide +kernel, by decide +kernel⟩,
  ⟨rq (fld 8 [(0, 2, 62)]), up, _, fld 8 [(0, 2, 62)], runs_here (by decide +kernel), by decide +kernel, by decide +kernel⟩,
  ⟨rq (fld 2 [(0, 1, 63)]), up, _, fld 2 [(0, 1, 63)], runs_here (by decide +kernel), by decide +kernel⟩,
  ⟨rq (fld 8 []), up, _, fld 8 [], runs_here (by decide +kernel)⟩⟩

theorem wit_wake_rows_complete :
    (∃ (s : State) (pin : _), pin ≤ 1 ∧ s.power.on = true ∧ bit s.power.wake.enable pin = true ∧ s.power.state = 3) ∧
    (∃ (s : State) (pin : _), pin ≤ 1 ∧ s.power.on = true ∧ bit s.power.wake.enable pin = true ∧ s.power.state = 2) ∧
    (∃ (s : State) (pin : _), pin ≤ 1 ∧ s.power.on = true ∧ bit s.power.wake.enable pin = true ∧ s.power.state = 1 ∧ bit s.power.wake.flags 2 = true ∧ s.power.duskExit = false ∧ s.power.trans = none) ∧
    (∃ (s : State), s.power.on = true ∧ s.power.state = 2 ∧ s.power.alarmArmed = true ∧ bit s.power.wake.enable 5 = true) ∧
    (∃ (s : State) (p : _), p ≤ 32 ∧ s.power.on = true ∧ (portRun s p).oper = 4 ∧ portPowered s p = true) ∧
    (∃ (s : State) (p : _), p ≤ 32 ∧ s.power.on = true ∧ (portRun s p).oper = 4 ∧ portPowered s p = false ∧ bit s.power.wake.tc10Ports p = true ∧ bit s.power.wake.enable 2 = true ∧ s.power.state = 2) ∧
    (∃ (s : State) (c : _) (pat : _) (n : _) (xtd : _) (id : _) (dlc : _) (d : _), c ≤ 1 ∧ s.power.on = true ∧ s.power.state = 2 ∧ bit s.power.wake.enable (3 + c) = true ∧ canWakes (at' s.leg.cfg.wake c {}) pat n xtd id dlc d = true) ∧
    (∃ (s : State), s.power.on = true ∧ s.power.state = 1 ∧ s.power.duskExit = true) ∧
    (∃ (s : State) (d : _), awake s = true ∧ s.power.resetDue = some d) ∧
    (∃ (s : State) (t : _), awake s = true ∧ s.power.resetDue = none ∧ s.power.trans = some t ∧ (∀ w, w ∈ s.mb.waiting → w.kind ≠ .island)) ∧
    (∃ (s : State), awake s = true ∧ s.power.trans = none ∧ s.upd.stage ≠ 4 ∧ s.upd.stage ≠ 7 ∧ (∀ w, w ∈ s.mb.waiting → w.kind ≠ .island)) ∧
    (∃ (s : State), s.power.on = true ∧ s.power.state = 2 ∧ s.power.wake.darkAfterH ≠ 0) ∧
    (∃ (s : State), s.power.on = false) ∧
    (∃ (s : State), s.power.on = true ∧ s.power.state ≤ 1) ∧
    (∃ (s : State), s.power.on = true ∧ s.power.state = 2) :=
  ⟨⟨asleep 3, 1, by decide +kernel, by decide +kernel, by decide +kernel, by decide +kernel⟩,
  ⟨asleep 2, 1, by decide +kernel, by decide +kernel, by decide +kernel, by decide +kernel⟩,
  ⟨asleep 1, 1, by decide +kernel, by decide +kernel, by decide +kernel, by decide +kernel, by decide +kernel, by decide +kernel, by decide +kernel⟩,
  ⟨asleep 2, by decide +kernel, by decide +kernel, by decide +kernel, by decide +kernel⟩,
  ⟨tc10At 1, 32, by decide +kernel, by decide +kernel, by decide +kernel, by decide +kernel⟩,
  ⟨tc10At 2, 32, by decide +kernel, by decide +kernel, by decide +kernel, by decide +kernel, by decide +kernel, by decide +kernel, by decide +kernel⟩,
  ⟨(asleep 2).modLeg fun l => { l with cfg := { l.cfg with wake := List.replicate 2 { enable := true, flags := 2 } } }, 1, true, 0, false, 0, 0, [], by decide +kernel, by decide +kernel, by decide +kernel, by decide +kernel, by decide +kernel⟩,
  ⟨(asleep 1).modPow fun p => { p with duskExit := true }, by decide +kernel, by decide +kernel, by decide +kernel⟩,
  ⟨up.modPow fun p => { p with resetDue := some (0, 1) }, (0, 1), by decide +kernel, by decide +kernel⟩,
  ⟨up.modPow fun p => { p with trans := some { target := 1, cause := 0, due := 0 } }, { target := 1, cause := 0, due := 0 }, by decide +kernel, by decide +kernel, by decide +kernel, by decide +kernel⟩,
  ⟨up, by decide +kernel, by decide +kernel, by decide +kernel, by decide +kernel, by decide +kernel⟩,
  ⟨up.modPow fun p => { p with state := 2, wake := { p.wake with darkAfterH := 1 } }, by decide +kernel, by decide +kernel, by decide +kernel⟩,
  ⟨State.reset, by decide +kernel⟩,
  ⟨up, by decide +kernel, by decide +kernel⟩,
  ⟨asleep 2, by decide +kernel, by decide +kernel⟩⟩

theorem wit_supply_rows_complete :
    (∃ (s : State), s.power.on = true) ∧
    (∃ (s : State), awake s = true ∧ s.power.pfail = false ∧ s.power.supply.shed = false) ∧
    (∃ (mv : Nat) (s : State), awake s = true ∧ s.power.pfail = true ∧ s.power.supply.pfwMv + 500 < mv ∧ s.power.shedCodes = []) ∧
    (∃ (s : State), awake s = true ∧ s.power.state = 0 ∧ holdsTokens s 1 = false) ∧
    (∃ (s : State) (c : _), awake s = true ∧ s.power.state = 0 ∧ (c = 2 ∨ c = 3) ∧ holdsTokens s c = false) ∧
    (∃ (s : State) (c : _), awake s = true ∧ s.power.state = 0 ∧ holdsTokens s c = true) ∧
    (∃ (mv : Nat) (s : State), awake s = true ∧ 170000 < mv) ∧
    (∃ (mv : Nat) (s : State) (k : _), awake s = true ∧ k ≤ 13 ∧ mv < monThreshold (k + 2) false) ∧
    (∃ (s : State) (m : _), awake s = true ∧ m ≤ 15 ∧ bit s.power.monBad m = true) ∧
    (∃ (s : State) (ms : _), awake s = true ∧ ms < s.power.supply.holdupMs ∧ s.power.holdupLow = false) ∧
    (∃ (s : State), watching s = true ∧ msCounts s.lode.nw.window * s.lode.nw.openPct ≤ (s.time.aon - s.lode.nw.start) * 100 ∧ s.time.aon - s.lode.nw.start < msCounts s.lode.nw.window) ∧
    (∃ (s : State), watching s = true ∧ (s.time.aon - s.lode.nw.start) * 100 < msCounts s.lode.nw.window * s.lode.nw.openPct) ∧
    (∃ (s : State), watching s = true) :=
  ⟨⟨up, by decide +kernel⟩,
  ⟨up.modPow fun p => { p with supply := { p.supply with shed := false } }, by decide +kernel, by decide +kernel, by decide +kernel⟩,
  ⟨9101, up.modPow fun p => { p with pfail := true }, by decide +kernel, by decide +kernel, by decide +kernel, by decide +kernel⟩,
  ⟨up, by decide +kernel, by decide +kernel, by decide +kernel⟩,
  ⟨up, 3, by decide +kernel, by decide +kernel, by decide +kernel, by decide +kernel⟩,
  ⟨up.modPow fun p => { p with holds := [(1, { tokens := 400 })] }, 1, by decide +kernel, by decide +kernel, by decide +kernel⟩,
  ⟨170001, up, by decide +kernel, by decide +kernel⟩,
  ⟨0, up, 13, by decide +kernel, by decide +kernel, by decide +kernel⟩,
  ⟨up.modPow fun p => { p with monBad := 2 ^ 15 }, 15, by decide +kernel, by decide +kernel, by decide +kernel⟩,
  ⟨up, 9, by decide +kernel, by decide +kernel, by decide +kernel⟩,
  ⟨up, by decide +kernel, by decide +kernel, by decide +kernel⟩,
  ⟨up.modLode fun l => { l with nw := { l.nw with openPct := 1 } }, by decide +kernel, by decide +kernel⟩,
  ⟨up, by decide +kernel⟩⟩

theorem wit_key_commands_complete :
    (∃ (r : Req) (s : State) (s1 : State) (p : List Byte), Runs s specLifecycleGet r p s1) ∧
    (∃ (r : Req) (s : State) (s1 : State) (p : List Byte), Runs s specLifecycleSet r p s1 ∧ lifeAllowed s1.lifecycle (u p 0 1) = true ∧ u p 0 1 ≤ 4 ∧ u p 4 4 = s1.keys.record.length ∧ u p 8 8 = Config.serial % 2 ^ 64 ∧ (s1.lifecycle = 0 → sub p 16 96 ≠ zeros 96) ∧ (s1.lifecycle ≠ 0 → Config.ownerVerify s1.keys.owner (Config.sha384 (ascii "KZLC" ++ p.take 16)) (sub p 112 96) = true) ∧ (u p 0 1 = 2 → s1.keys.latched = 0 ∧ (s1.lifecycle = 1 → fuseBlown s1 = false)) ∧ (u p 0 1 ≠ 4 → s1.keys.record.length < 63 ∧ s1.keys.tamperCount ≠ 16) ∧ powerBusy s1 = false) ∧
    (∃ (r : Req) (s : State) (s1 : State) (p : List Byte), Runs s specKeySlotWrite r p s1 ∧ u p 0 1 ≤ 63 ∧ u p 1 1 = 3 ∧ u p 4 1 = 0 ∧ u p 2 2 < 64 ∧ u p 144 2 = 32 ∧ (s1.lifecycle = 2 → s1.keys.window = true) ∧ (keySlot s1 (u p 0 1)).erasing = false ∧ selectedBank s1 (u p 0 1) = none ∧ bankUsers s1 (u p 0 1) (inactiveBank s1 (u p 0 1)) ≠ 0) ∧
    (∃ (r : Req) (s : State) (s1 : State) (p : List Byte), Runs s specKeySlotErase r p s1 ∧ u p 0 1 ≤ 63 ∧ (activeBank s1 (u p 0 1)).isSome = true ∧ (keySlot s1 (u p 0 1)).erasing = false ∧ bankUsers s1 (u p 0 1) (inactiveBank s1 (u p 0 1)) = 0) ∧
    (∃ (r : Req) (s : State) (s1 : State) (p : List Byte), Runs s specKeySlotInfo r p s1 ∧ u p 0 1 ≤ 63 ∧ activeBank s1 (u p 0 1) = none) ∧
    (∃ (r : Req) (s : State) (s1 : State) (p : List Byte) (b : _), Runs s specKeySlotInfo r p s1 ∧ u p 0 1 ≤ 63 ∧ activeBank s1 (u p 0 1) = some b) ∧
    (∃ (r : Req) (s : State) (s1 : State) (p : List Byte) (b : _), Runs s specKeyOp r p s1 ∧ u p 0 1 = 0 ∧ u p 1 1 ≤ 63 ∧ 1 ≤ u p 4 2 ∧ u p 4 2 ≤ 2008 ∧ slotUsable s1 (u p 1 1) 4 = true ∧ (loadSlot 3 s1 (u p 1 1)).2 = some b) ∧
    (∃ (r : Req) (s : State) (s1 : State) (p : List Byte), Runs s specProvisionClose r p s1 ∧ s1.lifecycle = 2 ∧ s1.keys.window = true) ∧
    (∃ (r : Req) (s : State) (s1 : State) (p : List Byte) (i : _), Runs s specMacsecPortSet r p s1 ∧ macIdx (u p 0 1) = some i ∧ u p 1 1 ≤ 1 ∧ u p 2 1 ≤ 1 ∧ u p 3 1 ≤ 2 ∧ (u p 5 1 = 0 ∨ u p 5 1 = 30 ∨ u p 5 1 = 50) ∧ (u p 2 1 ≠ (macCfg s1 i).suite → (macRun s1 i).sas = []) ∧ (macCfg s1 i).enable = decide (u p 1 1 = 1)) ∧
    (∃ (r : Req) (s : State) (s1 : State) (p : List Byte) (i : _) (k : _) (a : _), Runs s specMacsecSaSet r p s1 ∧ macIdx (u p 0 1) = some i ∧ u p 2 1 = 0 ∧ u p 3 1 ≤ 3 ∧ (mkaCfg s1 i).enable = false ∧ namedSa (macRun s1 i) true 63 (u p 3 1) = some (k, a)) ∧
    (∃ (r : Req) (s : State) (s1 : State) (p : List Byte) (i : _), Runs s specMkaSet r p s1 ∧ macIdx (u p 0 1) = some i ∧ u p 1 1 = 0 ∧ u p 2 1 ≤ 63 ∧ 1 ≤ u p 4 1 ∧ u p 4 1 ≤ 32 ∧ slotUsable s1 (u p 2 1) 2 = true ∧ (∀ e, e ∈ (macRun s1 i).sas → e.2.mka = true) ∧ (mkaRun s1 i).ca = false) ∧
    (∃ (r : Req) (s : State) (s1 : State) (p : List Byte) (i : _), Runs s specMacsecStatusGet r p s1 ∧ macIdx (u p 0 1) = some i) ∧
    (∃ (r : Req) (s : State) (s1 : State) (p : List Byte) (i : _), Runs s specMacsecCountersGet r p s1 ∧ macIdx (u p 0 1) = some i ∧ u p 1 1 = 0 ∧ u p 2 1 = 0) ∧
    (∃ (r : Req) (s : State) (s1 : State) (p : List Byte), Runs s specTamperSet r p s1) :=
  ⟨⟨rq [], up, _, [], runs_here (by decide +kernel)⟩,
  ⟨rq lifePay, up, _, lifePay, runs_here (by decide +kernel), by decide +kernel, by decide +kernel, by decide +kernel, lifePay_serial, by decide +kernel, by decide +kernel, by decide +kernel, by decide +kernel, by decide +kernel⟩,
  ⟨rq (fld 208 [(0, 1, 63), (1, 1, 3), (2, 2, 63), (144, 2, 32)]), busySlot, _, fld 208 [(0, 1, 63), (1, 1, 3), (2, 2, 63), (144, 2, 32)], runs_here (by decide +kernel), by decide +kernel, by decide +kernel, by decide +kernel, by decide +kernel, by decide +kernel, by decide +kernel, by decide +kernel, by decide +kernel, by decide +kernel⟩,
  ⟨rq (fld 1 [(0, 1, 63)]), keyed, _, fld 1 [(0, 1, 63)], runs_here (by decide +kernel), by decide +kernel, by decide +kernel, by decide +kernel, by decide +kernel⟩,
  ⟨rq (fld 1 [(0, 1, 63)]), up, _, fld 1 [(0, 1, 63)], runs_here (by decide +kernel), by decide +kernel, by decide +kernel⟩,
  ⟨rq (fld 1 [(0, 1, 63)]), keyed, _, fld 1 [(0, 1, 63)], key3, runs_here (by decide +kernel), by decide +kernel, rfl⟩,
  ⟨rq (fld 9 [(0, 1, 0), (1, 1, 63), (4, 2, 1)]), keyed, _, fld 9 [(0, 1, 0), (1, 1, 63), (4, 2, 1)], key3, runs_here (by decide +kernel), by decide +kernel, by decide +kernel, by decide +kernel, by decide +kernel, by decide +kernel, rfl⟩,
  ⟨rq [], up.modKeys fun k => { k with record := [2], window := true }, _, [], runs_here (by decide +kernel), by decide +kernel, by decide +kernel⟩,
  ⟨rq (fld 16 [(0, 1, 32), (1, 1, 1), (2, 1, 1), (3, 1, 2), (5, 1, 50)]), up, _, fld 16 [(0, 1, 32), (1, 1, 1), (2, 1, 1), (3, 1, 2), (5, 1, 50)], 4, runs_here (by decide +kernel), by decide +kernel, by decide +kernel, by decide +kernel, by decide +kernel, by decide +kernel, by decide +kernel, by decide +kernel⟩,
  ⟨rq (fld 48 [(0, 1, 32), (1, 1, 1), (3, 1, 3)]), modMac up 4 fun m => { m with sas := [(0, sa3)] }, _, fld 48 [(0, 1, 32), (1, 1, 1), (3, 1, 3)], 4, 0, sa3, runs_here (by decide +kernel), by decide +kernel, by decide +kernel, by decide +kernel, by decide +kernel, by decide +kernel⟩,
  ⟨rq (fld 48 [(0, 1, 32), (2, 1, 63), (4, 1, 32)]), keyed, _, fld 48 [(0, 1, 32), (2, 1, 63), (4, 1, 32)], 4, runs_here (by decide +kernel), by decide +kernel, by decide +kernel, by decide +kernel, by decide +kernel, by decide +kernel, by decide +kernel, by decide +kernel, by decide +kernel⟩,
  ⟨rq (fld 1 [(0, 1, 32)]), up, _, fld 1 [(0, 1, 32)], 4, runs_here (by decide +kernel), by decide +kernel⟩,
  ⟨rq (fld 4 [(0, 1, 32)]), up, _, fld 4 [(0, 1, 32)], 4, runs_here (by decide +kernel), by decide +kernel, by decide +kernel, by decide +kernel⟩,
  ⟨rq (fld 4 []), up, _, fld 4 [], runs_here (by decide +kernel)⟩⟩

theorem wit_key_rows_complete :
    (∃ (s : State) (e : _) (i : _) (q : _), islandNext s e = some i ∧ s.keys.queue[i]? = some q) ∧
    (∃ (s : State) (n : _), n < 64 ∧ (keySlot s n).erasing = true ∧ bankUsers s n ((keySlot s n).act.getD 0) = 0 ∧ (finishErase s n).keys.queue = []) ∧
    (∃ (s : State) (port : _) (i : _), macIdx port = some i ∧ awake s = true ∧ portUp s port = true ∧ (mkaRun s i).ca = true) ∧
    (∃ (s : State) (port : _) (i : _), macIdx port = some i ∧ awake s = true ∧ (mkaRun s i).ca = true) ∧
    (∃ (s : State) (port : _) (i : _), macIdx port = some i ∧ awake s = true ∧ (mkaRun s i).peer.isSome = true) ∧
    (∃ (s : State), awake s = true) ∧
    (∃ (s : State) (src : _), tamperWatched s src = true ∧ tamperAnswers s = true ∧ bit s.keys.armed src = true ∧ bit s.keys.latched src = false) :=
  ⟨⟨up.modKeys fun k => { k with queue := [req0] }, false, 0, req0, by decide +kernel, by decide +kernel⟩,
  ⟨modSlot up 63 fun x => { x with erasing := true }, 63, by decide +kernel, by decide +kernel, by decide +kernel, by decide +kernel⟩,
  ⟨mkaOn, 32, 4, by decide +kernel, by decide +kernel, by decide +kernel, by decide +kernel⟩,
  ⟨mkaOn, 32, 4, by decide +kernel, by decide +kernel, by decide +kernel⟩,
  ⟨modMka mkaOn 4 fun m => { m with peer := some 1 }, 32, 4, by decide +kernel, by decide +kernel, by decide +kernel⟩,
  ⟨up, by decide +kernel⟩,
  ⟨up.modKeys fun k => { k with record := [1], armed := 127 }, 0, by decide +kernel, by decide +kernel, by decide +kernel, by decide +kernel⟩⟩

theorem wit_attestation_complete :
    (∃ (r : Req) (s : State) (s1 : State) (p : List Byte), Runs s specMeasGet r p s1) ∧
    (∃ (r : Req) (s : State) (s1 : State) (p : List Byte), Runs s specMeasLogRead r p s1 ∧ u p 0 4 ≤ 16383) ∧
    (∃ (r : Req) (s : State) (s1 : State) (p : List Byte), Runs s specMeasExtend r p s1 ∧ u p 0 1 ≤ 23 ∧ s1.boot.log.length < 16384 - 64) ∧
    (∃ (r : Req) (s : State) (s1 : State) (p : List Byte), Runs s specAttestGet r p s1 ∧ s1.boot.signings.length < 8) ∧
    (∃ (r : Req) (s : State) (s1 : State) (p : List Byte), Runs s specBootStatusGet r p s1) ∧
    (∃ (r : Req) (s : State) (s1 : State) (p : List Byte), Runs s specCertGet r p s1 ∧ u p 0 1 ≤ 1 ∧ certChain s1 (u p 0 1) ≠ []) ∧
    (∃ (r : Req) (s : State) (s1 : State) (p : List Byte), Runs s specCertSet r p s1 ∧ (p = [] ∨ padTo 96 (Config.leafKey p) = identityPublic)) ∧
    (∃ (r : Req) (s : State) (s1 : State) (p : List Byte), Runs s specSpdmSet r p s1) ∧
    (∃ (s : State), spdmOpen s 1 0 = true) ∧
    (∃ (s : State), spdmOpen s 1 0 = true ∧ s.boot.pcie.phase < 3) ∧
    (∃ (s : State) (g : _) (gs : _), s.boot.signings = g :: gs ∧ g.transport = 0) ∧
    (∃ (s : State) (i : _), awake s = true ∧ s.host.ready = true ∧ bit s.boot.spdmFlags 1 = true ∧ (List.range 4).find? (fun i => (at' s.boot.tcp i none).isNone) = some i) ∧
    (∃ (s : State) (eid : _), awake s = true ∧ s.host.linkUp = true ∧ s.host.d3hot = false ∧ bit s.boot.spdmFlags 0 = true ∧ 8 ≤ eid ∧ eid ≤ 254) :=
  ⟨⟨rq (fld 4 []), up, _, fld 4 [], runs_here (by decide +kernel)⟩,
  ⟨rq (fld 8 [(0, 4, 16383)]), up, _, fld 8 [(0, 4, 16383)], runs_here (by decide +kernel), by decide +kernel⟩,
  ⟨rq (fld 112 [(0, 1, 23)]), up, _, fld 112 [(0, 1, 23)], runs_here (by decide +kernel), by decide +kernel, by decide +kernel⟩,
  ⟨rq (fld 40 []), up, _, fld 40 [], runs_here (by decide +kernel), by decide +kernel⟩,
  ⟨rq [], up, _, [], runs_here (by decide +kernel)⟩,
  ⟨rq (fld 12 [(0, 1, 1)]), up.modBoot fun b => { b with chain1 := [1] }, _, fld 12 [(0, 1, 1)], runs_here (by decide +kernel), by decide +kernel, by decide +kernel⟩,
  ⟨rq [], up, _, [], runs_here (by decide +kernel), by decide +kernel⟩,
  ⟨rq (fld 4 []), up, _, fld 4 [], runs_here (by decide +kernel)⟩,
  ⟨linkOn, by decide +kernel⟩,
  ⟨linkOn, by decide +kernel, by decide +kernel⟩,
  ⟨up.modBoot fun b => { b with signings := [sign0] }, sign0, [], by decide +kernel, by decide +kernel⟩,
  ⟨up, 0, by decide +kernel, by decide +kernel, by decide +kernel, by decide +kernel⟩,
  ⟨linkOn, 254, by decide +kernel, by decide +kernel, by decide +kernel, by decide +kernel, by decide +kernel, by decide +kernel⟩⟩

theorem wit_lodestar_commands_complete :
    (∃ (r : Req) (s : State) (s1 : State) (p : List Byte), Runs s specLodestarStatusGet r p s1) ∧
    (∃ (r : Req) (s : State) (s1 : State) (p : List Byte), Runs s specLodestarModeSet r p s1 ∧ u p 0 1 ≤ 1) ∧
    (∃ (r : Req) (s : State) (s1 : State) (p : List Byte), Runs s specSensorGet r p s1 ∧ u p 0 1 ≤ 36) ∧
    (∃ (r : Req) (s : State) (s1 : State) (p : List Byte) (hi : Int) (lo : Int) (hy : Int), Runs s specSensorThresholdSet r p s1 ∧ 2 ≤ u p 0 1 ∧ u p 0 1 ≤ 9 ∧ hi = toInt 32 (u p 4 4) ∧ lo = toInt 32 (u p 8 4) ∧ hy = toInt 32 (u p 12 4) ∧ hi ≤ 1200 ∧ lo ≤ hi ∧ -440 ≤ lo ∧ 0 ≤ hy ∧ hy ≤ 160) ∧
    (∃ (r : Req) (s : State) (s1 : State) (p : List Byte), Runs s specNightwatchSet r p s1) ∧
    (∃ (r : Req) (s : State) (s1 : State) (p : List Byte), Runs s specLogRead r p s1 ∧ (∀ b, b ∈ s1.lode.blocks → b.records = [])) ∧
    (∃ (r : Req) (s : State) (s1 : State) (p : List Byte), Runs s specLogSet r p s1) ∧
    (∃ (r : Req) (s : State) (s1 : State) (p : List Byte), Runs s specMemportSet r p s1 ∧ u p 0 1 ≤ 11) ∧
    (∃ (r : Req) (s : State) (s1 : State) (p : List Byte), Runs s specMemportGet r p s1) ∧
    (∃ (r : Req) (s : State) (s1 : State) (p : List Byte), Runs s specPortBwGet r p s1) :=
  ⟨⟨rq [], up, _, [], runs_here (by decide +kernel)⟩,
  ⟨rq (fld 1 [(0, 1, 1)]), up, _, fld 1 [(0, 1, 1)], runs_here (by decide +kernel), by decide +kernel⟩,
  ⟨rq (fld 2 [(0, 1, 36)]), up, _, fld 2 [(0, 1, 36)], runs_here (by decide +kernel), by decide +kernel⟩,
  ⟨rq (fld 16 [(0, 1, 9), (4, 4, 1200), (8, 4, 2^32-440), (12, 4, 160)]), up, _, fld 16 [(0, 1, 9), (4, 4, 1200), (8, 4, 2^32-440), (12, 4, 160)], _, _, _, runs_here (by decide +kernel), by decide +kernel, by decide +kernel, rfl, rfl, rfl, by decide +kernel, by decide +kernel, by decide +kernel, by decide +kernel, by decide +kernel⟩,
  ⟨rq (fld 8 []), up, _, fld 8 [], runs_here (by decide +kernel)⟩,
  ⟨rq (fld 8 []), up, _, fld 8 [], runs_here (by decide +kernel), by decide +kernel⟩,
  ⟨rq (fld 1 []), up, _, fld 1 [], runs_here (by decide +kernel)⟩,
  ⟨rq (fld 3 [(0, 1, 11)]), up, _, fld 3 [(0, 1, 11)], runs_here (by decide +kernel), by decide +kernel⟩,
  ⟨rq (fld 1 []), up, _, fld 1 [], runs_here (by decide +kernel)⟩,
  ⟨rq [], up, _, [], runs_here (by decide +kernel)⟩⟩

theorem wit_lodestar_rows_complete :
    (∃ (s : State) (k : _) (g : _), k ≤ 1 ∧ g ≤ 8 ∧ comparing s k = true) ∧
    (∃ (s : State) (m : _) (q : _), awake s = true ∧ m ≤ 2 ∧ q ≤ 11) ∧
    (∃ (s : State) (x : _), s.lode.restart = some x) ∧
    (∃ (s : State) (e : _), canRestart s e = true) ∧
    (∃ (s : State) (e : _), e ≤ 3 ∧ (engine s e).restart.isSome = true ∧ handingOver s e = false) ∧
    (∃ (s : State) (k : _), k ≤ 1 ∧ awake s = true ∧ (s.lifecycle = 2 ∨ s.lifecycle = 4)) ∧
    (∃ (s : State) (m : _), awake s = true ∧ memGrant s m = none) ∧
    (∃ (s : State) (m : _) (q : _), awake s = true ∧ memGrant s m = some (q, false)) ∧
    (∃ (s : State), awake s = true) ∧
    (∃ (s : State) (v1 : Nat) (v2 : Nat), s.power.on = true ∧ s.power.state = 0 ∧ s.power.pfail = false ∧ flashWriting s = false ∧ v2 < v1) ∧
    (∃ (s : State), s.power.on = true ∧ s.power.state ≤ 1 ∧ s.power.pfail = false) :=
  ⟨⟨up, 1, 8, by decide +kernel, by decide +kernel, by decide +kernel⟩,
  ⟨up, 2, 11, by decide +kernel, by decide +kernel, by decide +kernel⟩,
  ⟨up.modLode fun l => { l with restart := some (1, 0, 0) }, (1, 0, 0), by decide +kernel⟩,
  ⟨buses, 3, by decide +kernel⟩,
  ⟨up.modLeg fun l => { l with engines := List.replicate 4 { on := true, restart := some 1 } }, 3, by decide +kernel, by decide +kernel, by decide +kernel⟩,
  ⟨up.modKeys fun k => { k with record := [2] }, 1, by decide +kernel, by decide +kernel, by decide +kernel⟩,
  ⟨up, 0, by decide +kernel, by decide +kernel⟩,
  ⟨up, 2 ^ 11, 11, by decide +kernel, by decide +kernel⟩,
  ⟨up, by decide +kernel⟩,
  ⟨up, 1, 0, by decide +kernel, by decide +kernel, by decide +kernel, by decide +kernel, by decide +kernel⟩,
  ⟨up, by decide +kernel, by decide +kernel, by decide +kernel⟩⟩

theorem wit_update_complete :
    (∃ (r : Req) (s : State) (s1 : State) (p : List Byte), Runs s specUpdateStatusGet r p s1) ∧
    (∃ (r : Req) (s : State) (s1 : State) (p : List Byte), Runs s specUpdateBegin r p s1 ∧ 1088 ≤ u p 48 4 ∧ u p 48 4 ≤ 67043328 ∧ s1.upd.stage ≤ 3 ∧ sub p 0 48 ≠ s1.upd.digest) ∧
    (∃ (r : Req) (s : State) (s1 : State) (p : List Byte), Runs s specUpdateBlock r p s1 ∧ (s1.upd.stage = 1 ∨ s1.upd.stage = 2) ∧ u p 0 4 < pkgBlocks s1.upd.len ∧ (asSubmitted r).length = 16 ∧ bit (asSubmitted r).flags 1 = true ∧ (p.drop 16).length = pkgBlockLen s1.upd.len (u p 0 4) ∧ crc32c (p.drop 16) = u p 4 4) ∧
    (∃ (r : Req) (s : State) (s1 : State) (p : List Byte), Runs s specUpdateVerify r p s1 ∧ s1.upd.stage = 2) ∧
    (∃ (r : Req) (s : State) (s1 : State) (p : List Byte), Runs s specUpdateActivate r p s1 ∧ s1.upd.stage = 3 ∧ s1.power.state = 0 ∧ s1.upd.eraseDue = false) ∧
    (∃ (r : Req) (s : State) (s1 : State) (p : List Byte), Runs s specUpdateConfirm r p s1 ∧ s1.upd.stage = 6) ∧
    (∃ (r : Req) (s : State) (s1 : State) (p : List Byte), Runs s specUpdateAbort r p s1 ∧ u p 0 1 = 0 ∧ 1 ≤ s1.upd.stage ∧ s1.upd.stage ≤ 3) ∧
    (∃ (r : Req) (s : State) (s1 : State) (p : List Byte), Runs s specUpdateAbort r p s1 ∧ u p 0 1 = 1 ∧ s1.upd.stage = 6) ∧
    (∃ (r : Req) (s : State) (s1 : State) (p : List Byte), Runs s specUpdateParamsSet r p s1) ∧
    (∃ (s : State) (i : _) (rest : _), awake s = true ∧ s.power.pfail = false ∧ s.upd.toErase = i :: rest ∧ (∀ w, w ∈ s.upd.write → w.index ≠ i)) ∧
    (∃ (s : State) (w : _), awake s = true ∧ s.power.pfail = false ∧ s.lode.restart = none ∧ writing s = some w) ∧
    (∃ (s : State), s.upd.stage = 6 ∧ s.upd.winOn = true) ∧
    (∃ (s : State), s.upd.stage = 6 ∧ s.upd.winOn = true ∧ s.upd.params.auto = true ∧ s.host.ready = true ∧ s.host.bundleOk = true ∧ secCounts s.upd.params.settleS ≤ s.upd.winLeft) ∧
    (∃ (s : State), awake s = true ∧ s.power.pfail = false) :=
  ⟨⟨rq [], up, _, [], runs_here (by decide +kernel)⟩,
  ⟨rq (fld 56 [(0, 1, 1), (48, 4, 67043328)]), up, _, fld 56 [(0, 1, 1), (48, 4, 67043328)], runs_here (by decide +kernel), by decide +kernel, by decide +kernel, by decide +kernel, by decide +kernel⟩,
  ⟨blockReq, blockUp, _, blockPay, ⟨⟨by decide, by decide +kernel, by decide, by decide +kernel, by decide +kernel, by decide +kernel⟩, by decide +kernel, rfl, by decide +kernel⟩, by decide +kernel, by decide +kernel, by decide +kernel, by decide +kernel, by decide +kernel, by decide +kernel⟩,
  ⟨rq [], updAt 2, _, [], runs_here (by decide +kernel), by decide +kernel⟩,
  ⟨rq (fld 1 []), updAt 3, _, fld 1 [], runs_here (by decide +kernel), by decide +kernel, by decide +kernel, by decide +kernel⟩,
  ⟨rq [], updAt 6, _, [], runs_here (by decide +kernel), by decide +kernel⟩,
  ⟨rq (fld 1 []), updAt 3, _, fld 1 [], runs_here (by decide +kernel), by decide +kernel, by decide +kernel, by decide +kernel⟩,
  ⟨rq (fld 1 [(0, 1, 1)]), updAt 6, _, fld 1 [(0, 1, 1)], runs_here (by decide +kernel), by decide +kernel, by decide +kernel⟩,
  ⟨rq (fld 8 []), up, _, fld 8 [], runs_here (by decide +kernel)⟩,
  ⟨updAt 1, 1, [], by decide +kernel, by decide +kernel, by decide +kernel, by decide +kernel⟩,
  ⟨writing0, write0, by decide +kernel, by decide +kernel, by decide +kernel, by decide +kernel⟩,
  ⟨updAt 6, by decide +kernel, by decide +kernel⟩,
  ⟨updAt 6, by decide +kernel, by decide +kernel, by decide +kernel, by decide +kernel, by decide +kernel, by decide +kernel⟩,
  ⟨up, by decide +kernel, by decide +kernel⟩⟩

theorem wit_pair_commands_complete :
    (∃ (r : Req) (s : State) (s1 : State) (p : List Byte) (h : _), Runs s specPairStatusGet r p s1 ∧ s1.pair.partner = some h) ∧
    (∃ (r : Req) (s : State) (s1 : State) (p : List Byte), Runs s specPairStatusGet r p s1 ∧ s1.pair.partner = none) ∧
    (∃ (r : Req) (s : State) (s1 : State) (p : List Byte), Runs s specPairSet r p s1 ∧ u p 0 1 = 0 ∧ u p 4 1 = 0xFF ∧ u p 5 1 = 0xFF ∧ u p 6 2 ≤ 4095) ∧
    (∃ (r : Req) (s : State) (s1 : State) (p : List Byte) (h : _), Runs s specPairSwitch r p s1 ∧ u p 0 4 = 0x96005A17 ∧ s1.pair.role = 1 ∧ s1.pair.link = true ∧ s1.pair.partner = some h ∧ h.role = 2 ∧ h.reasons = 0) ∧
    (∃ (r : Req) (s : State) (s1 : State) (p : List Byte), Runs s specPairCountersGet r p s1 ∧ u p 0 1 ≤ 1 ∧ u p 2 1 = 0) ∧
    (∃ (r : Req) (s : State) (s1 : State) (p : List Byte), Runs s specTtdpSet r p s1 ∧ u p 0 1 = 0 ∧ u p 1 1 ≤ 15 ∧ u p 2 1 ≤ 15 ∧ setInter (u p 1 1) (u p 2 1) = 0 ∧ (bitList 4 (u p 1 1)).length ≤ 2 ∧ (bitList 4 (u p 2 1)).length ≤ 2) ∧
    (∃ (r : Req) (s : State) (s1 : State) (p : List Byte), Runs s specTtdpStatusGet r p s1) ∧
    (∃ (r : Req) (s : State) (s1 : State) (p : List Byte), Runs s specMrpSet r p s1 ∧ u p 0 1 ≤ 1 ∧ u p 1 1 = 0 ∧ u p 2 1 ≤ 1 ∧ u p 3 1 ≤ 2 ∧ u p 4 1 ≤ 3 ∧ u p 5 1 ≤ 3 ∧ u p 6 2 ≤ 4094 ∧ u p 4 1 ≠ u p 5 1) ∧
    (∃ (r : Req) (s : State) (s1 : State) (p : List Byte), Runs s specMrpStatusGet r p s1 ∧ u p 0 1 ≤ 1) :=
  ⟨⟨rq [], paired 1 fun p => { p with partner := some (hello1 2) }, _, [], hello1 2, runs_here (by decide +kernel), rfl⟩,
  ⟨rq [], up, _, [], runs_here (by decide +kernel), by decide +kernel⟩,
  ⟨rq (fld 24 [(4, 1, 0xFF), (5, 1, 0xFF), (6, 2, 4095)]), up, _, fld 24 [(4, 1, 0xFF), (5, 1, 0xFF), (6, 2, 4095)], runs_here (by decide +kernel), by decide +kernel, by decide +kernel, by decide +kernel, by decide +kernel⟩,
  ⟨rq (fld 4 [(0, 4, 0x96005A17)]), paired 1 fun p => { p with partner := some (hello1 2) }, _, fld 4 [(0, 4, 0x96005A17)], hello1 2, runs_here (by decide +kernel), by decide +kernel, by decide +kernel, by decide +kernel, rfl, by decide +kernel, by decide +kernel⟩,
  ⟨rq (fld 3 [(0, 1, 1)]), up, _, fld 3 [(0, 1, 1)], runs_here (by decide +kernel), by decide +kernel, by decide +kernel⟩,
  ⟨rq (fld 24 [(1, 1, 12), (2, 1, 3)]), up, _, fld 24 [(1, 1, 12), (2, 1, 3)], runs_here (by decide +kernel), by decide +kernel, by decide +kernel, by decide +kernel, by decide +kernel, by decide +kernel, by decide +kernel⟩,
  ⟨rq [], up, _, [], runs_here (by decide +kernel)⟩,
  ⟨rq (fld 24 [(0, 1, 1), (2, 1, 1), (3, 1, 2), (4, 1, 3), (6, 2, 4094)]), up, _, fld 24 [(0, 1, 1), (2, 1, 1), (3, 1, 2), (4, 1, 3), (6, 2, 4094)], runs_here (by decide +kernel), by decide +kernel, by decide +kernel, by decide +kernel, by decide +kernel, by decide +kernel, by decide +kernel, by decide +kernel, by decide +kernel⟩,
  ⟨rq (fld 1 [(0, 1, 1)]), up, _, fld 1 [(0, 1, 1)], runs_here (by decide +kernel), by decide +kernel⟩⟩

theorem wit_pair_rows_complete :
    (∃ (s : State), s.pairCfg.enable = true ∧ awake s = true ∧ portUp s 32 = true ∧ p0Secured s = true) ∧
    (∃ (s : State), s.pair.link = true ∧ s.pair.unacked ≠ []) ∧
    (∃ (s : State), s.pair.link = true) ∧
    (∃ (s : State) (l : _), l ≤ 1 ∧ portUp s 32 = true ∧ at' s.pair.laneUp l true = true) ∧
    (∃ (s : State) (l : _), l ≤ 1 ∧ portUp s 32 = true ∧ at' s.pair.laneUp l true = false) ∧
    (∃ (s : State) (c : _) (own : _), s.pair.copy = some c ∧ s.pair.role = 2 ∧ c.copyFmt = 1 ∧ c.digest = own.digest ∧ s.gw.history.find? (fun x => x.cycle == c.cycle) = some own ∧ s.now ≤ own.mark + s.gw.grid.1 * 1000 + s.gw.grid.1 * 500 ∧ firstDiff own.listed c.outs 0 = none) ∧
    (∃ (s : State) (c : _), s.pair.copy = some c ∧ s.pair.role = 2 ∧ c.copyFmt ≠ 1) ∧
    (∃ (s : State) (own : _) (rest : _), s.pair.link = true ∧ s.pair.role = 2 ∧ gatewayOn s = true ∧ s.gw.history = own :: rest ∧ s.pair.compared ≠ own.cycle ∧ s.pair.mismatch = none) ∧
    (∃ (s : State), s.pair.link = true ∧ s.pair.role = 1) ∧
    (∃ (s : State), s.pair.watch = true ∧ s.pair.role = 2 ∧ watchable s = true ∧ s.pairCfg.hbMiss ≤ s.pair.hbMissed) ∧
    (∃ (s : State) (port : _) (d : _) (l : _), ttdpPlace s port = some (d, l) ∧ s.pair.cfg.ttdp.enable = true ∧ awake s = true ∧ portUp s port = true) ∧
    (∃ (s : State), s.pair.cfg.ttdp.enable = true ∧ awake s = true) ∧
    (∃ (s : State) (port : _) (t : _) (d : _) (l : _), tget s.pair.ttdp.heard port = some t ∧ ttdpPlace s port = some (d, l) ∧ s.pair.cfg.ttdp.enable = true ∧ awake s = true) ∧
    (∃ (s : State) (r : _), r ≤ 1 ∧ (mrpCfg s r).enable = true ∧ (mrpCfg s r).role = 1 ∧ awake s = true) ∧
    (∃ (s : State) (r : _), r ≤ 1 ∧ (mrpCfg s r).enable = true ∧ awake s = true ∧ portUp s (mrpCfg s r).port1 = true) :=
  ⟨⟨(paired 1 id).modKeys fun k => { k with cfg := { k.cfg with ports := List.replicate 5 { enable := false } } }, by decide +kernel, by decide +kernel, by decide +kernel, by decide +kernel⟩,
  ⟨paired 1 fun p => { p with unacked := [block1] }, by decide +kernel, by decide +kernel⟩,
  ⟨paired 1 id, by decide +kernel⟩,
  ⟨paired 1 id, 1, by decide +kernel, by decide +kernel, by decide +kernel⟩,
  ⟨paired 1 fun p => { p with laneUp := [true, false] }, 1, by decide +kernel, by decide +kernel, by decide +kernel⟩,
  ⟨(paired 2 fun p => { p with copy := some (copy1 1) }).modGw fun g => { g with history := [snap1] }, copy1 1, snap1, rfl, by decide +kernel, rfl, rfl, by decide +kernel, by decide +kernel, by decide +kernel⟩,
  ⟨paired 2 fun p => { p with copy := some (copy1 2) }, copy1 2, rfl, by decide +kernel, by decide +kernel⟩,
  ⟨(paired 2 id).modGw fun g => { g with history := [snap1] }, snap1, [], by decide +kernel, by decide +kernel, by decide +kernel, by decide +kernel, by decide +kernel, by decide +kernel⟩,
  ⟨paired 1 id, by decide +kernel, by decide +kernel⟩,
  ⟨paired 2 fun p => { p with watch := true }, by decide +kernel, by decide +kernel, by decide +kernel, by decide +kernel⟩,
  ⟨modPort (paired 1 id) 1 fun r => { r with oper := 3 }, 1, 1, 0, by decide +kernel, by decide +kernel, by decide +kernel, by decide +kernel⟩,
  ⟨paired 1 id, by decide +kernel, by decide +kernel⟩,
  ⟨modTtdp (paired 1 id) fun t => { t with heard := [(1, 0)] }, 1, 0, 1, 0, by decide +kernel, by decide +kernel, by decide +kernel, by decide +kernel⟩,
  ⟨paired 1 id, 1, by decide +kernel, by decide +kernel, by decide +kernel, by decide +kernel⟩,
  ⟨paired 1 id, 1, by decide +kernel, by decide +kernel, by decide +kernel, by decide +kernel⟩⟩

theorem wit_ingress_rows_complete :
    (∃ (s : State) (p : _) (w : _), awake s = true ∧ p ≤ 32 ∧ portUp s p = true ∧ (portRun s p).rx = none ∧ macTaken s p w = false ∧ conBlocked s p = none ∧ (macHead s p w).2 = true) ∧
    (∃ (s : State) (p : _) (w : _), awake s = true ∧ p ≤ 32 ∧ portUp s p = true ∧ (portRun s p).rx = none ∧ macTaken s p w = true) ∧
    (∃ (s : State) (m : _), gatewayOn s = true ∧ oldestMsg s = some m) ∧
    (∃ (s : State), awake s = true) ∧
    (∃ (s : State) (p : _) (x : _), p ≤ 32 ∧ (portRun s p).rx = some x ∧ x.gone = true) ∧
    (∃ (s : State) (p : _) (x : _), p ≤ 32 ∧ (portRun s p).rx = some x ∧ x.gone = false ∧ x.held = false) ∧
    (∃ (s : State) (f : _) (fs : _) (k : _), s.fab.recirc = f :: fs ∧ f.mirrorOf = some k) ∧
    (∃ (s : State) (b : _) (keep : _), tgetD s.ing.learnt b [] ≠ [] ∧ keep = (tgetD s.ing.learnt b []).filter (fun x => s.now < x.stamp + (domParams s.it x.domain).agingS * secondNs)) ∧
    (∃ (s : State) (g : _) (l : _), (tgetD s.ing.gates g {}).list = some l) ∧
    (∃ (s : State) (g : _) (x : _), (tgetD s.ing.gates g {}).pending = some x) ∧
    (∃ (s : State) (i : _) (c : _), tget s.it.recovery i = some c ∧ (tgetD s.ing.recovery i {}).takeAny = false) ∧
    (∃ (s : State) (i : _) (c : _), tget s.it.recovery i = some c ∧ bit c.flags 1 = true ∧ (((c.paths - 1) * (tgetD s.ing.recovery i {}).perPassed : Nat) - ((tgetD s.ing.recovery i {}).perDup : Int)).natAbs ≤ c.latentDiff) ∧
    (∃ (s : State) (x : _) (xs : _), s.hor.pending = x :: xs) ∧
    (∃ (s : State) (x : _) (xs : _), s.hor.spillBuf = x :: xs ∧ s.hor.spilled ≠ [] ∧ s.hor.spilled.length < 1048576) ∧
    (∃ (s : State) (i : _) (x : _), tget s.hor.sessions i = some x ∧ sessTimedOut s x = true) ∧
    (∃ (s : State) (i : _) (x : _), tget s.hor.sessions i = some x ∧ sessTimedOut s x = false) ∧
    (∃ (s : State) (f : _) (fs : _) (w : _), s.hor.restore = f :: fs ∧ flowOf f = some w ∧ s.hor.spilled.find? (fun e => sameKey f.domain w e.2) = none ∧ s.hor.spillBuf.find? (sameKey f.domain w) = none) ∧
    (∃ (s : State) (x : _) (xs : _), s.hor.excQueue = x :: xs ∧ s.host.ready = true ∧ x.handler = 0) ∧
    (∃ (s : State), s.hor.excOver = true) ∧
    (∃ (s : State) (i : _) (e : _) (y : _), s.ep.sweep = some i ∧ s.hor.sessions.find? (fun e => i ≤ e.1 && e.2.epoch != s.ep.epoch) = some e ∧ revalidate s e.2 = some y) ∧
    (∃ (s : State) (i : _) (e : _), s.ep.sweep = some i ∧ s.hor.sessions.find? (fun e => i ≤ e.1 && e.2.epoch != s.ep.epoch) = some e ∧ revalidate s e.2 = none) ∧
    (∃ (s : State) (i : _), s.ep.sweep = some i ∧ s.hor.sessions.find? (fun e => i ≤ e.1 && e.2.epoch != s.ep.epoch) = none) :=
  ⟨⟨portAt 32 3 |>.modKeys fun k => { k with cfg := { k.cfg with ports := List.replicate 5 { enable := false } } }, 32, wire0, by decide +kernel, by decide +kernel, by decide +kernel, by decide +kernel, by decide +kernel, by decide +kernel, by decide +kernel⟩,
  ⟨portAt 32 3, 32, { data := zeros 12 ++ be 2 0x88B6 ++ zeros 46 }, by decide +kernel, by decide +kernel, by decide +kernel, by decide +kernel, by decide +kernel⟩,
  ⟨buses.modLeg fun l => { l with engines := [{ fifo := [{ kind := 0, chan := 7 }] }] }, { kind := 0, chan := 7 }, by decide +kernel, by decide +kernel⟩,
  ⟨up, by decide +kernel⟩,
  ⟨modPort up 32 fun r => { r with rx := some { rx0 with gone := true } }, 32, { rx0 with gone := true }, by decide +kernel, rfl, by decide +kernel⟩,
  ⟨modPort up 32 fun r => { r with rx := some rx0 }, 32, rx0, by decide +kernel, rfl, by decide +kernel, by decide +kernel⟩,
  ⟨up.modFab fun b => { b with recirc := [{ mirrorOf := some 3 }] }, { mirrorOf := some 3 }, [], 3, rfl, rfl⟩,
  ⟨learnt0, 65535, _, by decide +kernel, rfl⟩,
  ⟨up.modIng fun i => { i with gates := [(1023, { list := some gate1 })] }, 1023, gate1, by decide +kernel⟩,
  ⟨up.modIng fun i => { i with gates := [(1023, { pending := some (0, gate1) })] }, 1023, (0, gate1), by decide +kernel⟩,
  ⟨(up.modIt fun t => { t with recovery := [(1023, recov0)] }).modIng fun i => { i with recovery := [(1023, { takeAny := false })] }, 1023, recov0, by decide +kernel, by decide +kernel⟩,
  ⟨up.modIt fun t => { t with recovery := [(1023, recov0)] }, 1023, recov0, by decide +kernel, by decide +kernel, by decide +kernel⟩,
  ⟨up.modHor fun h => { h with pending := [sess0] }, sess0, [], by decide +kernel⟩,
  ⟨up.modHor fun h => { h with spillBuf := [sess0], spilled := [(0, sess0)] }, sess0, [], by decide +kernel, by decide +kernel, by decide +kernel⟩,
  ⟨(up.modHor fun h => { h with sessions := [(16383, sess0)] }).modTime fun t => { t with tA := 60000000000 * 2 ^ 48 }, 16383, sess0, by decide +kernel, by decide +kernel⟩,
  ⟨up.modHor fun h => { h with sessions := [(16383, sess0)] }, 16383, sess0, by decide +kernel, by decide +kernel⟩,
  ⟨up.modHor fun h => { h with restore := [ipFrame] }, ipFrame, [], _, rfl, rfl, by decide +kernel, by decide +kernel⟩,
  ⟨up.modHor fun h => { h with excQueue := [exc0] }, exc0, [], by decide +kernel, by decide +kernel, rfl⟩,
  ⟨up.modHor fun h => { h with excOver := true }, by decide +kernel⟩,
  ⟨{ sweeping with ep := { sweeping.ep with cur := { sweeping.ep.cur with hor := { pairs := [(0, { policy := 2, count := 1 })], rules := [(0, { rule0 with action := 2 })] } } } }, 0, (16383, sess0), _, by decide +kernel, by decide +kernel, rfl⟩,
  ⟨sweeping, 0, (16383, sess0), by decide +kernel, by decide +kernel, by decide +kernel⟩,
  ⟨{ up with ep := { up.ep with sweep := some 0 } }, 0, by decide +kernel, by decide +kernel⟩⟩

theorem wit_fabric_rows_complete :
    (∃ (s : State) (st : _) (a : _) (b : _) (c : _) (rest : _), st ≤ 1 ∧ a ≤ 15 ∧ b ≤ 15 ∧ awake s = true ∧ (tgetD s.fab.links (linkKey st a b) {}).resend = c :: rest) ∧
    (∃ (s : State) (st : _) (a : _) (b : _) (c : _) (v : _), st ≤ 1 ∧ a ≤ 15 ∧ b ≤ 15 ∧ awake s = true ∧ (tgetD s.fab.links (linkKey st a b) {}).resend = [] ∧ (tgetD s.fab.links (linkKey st a b) {}).lost = [] ∧ takeCell s st a b = some (c, v)) ∧
    (∃ (s : State) (a : _) (b : _) (c : _) (cs : _), a ≤ 15 ∧ b ≤ 15 ∧ (tgetD s.fab.links (linkKey 0 a b) {}).lost = c :: cs) ∧
    (∃ (s : State) (o : _) (id : _) (t : _), s.fab.transit.find? (fun e => e.2.out == o && e.2.arrived > 0 && !e.2.stored && e.2.bad.isNone) = some (id, t)) ∧
    (∃ (s : State) (w : _), w ≤ 15 ∧ tgetD s.fab.reseq w [] = []) ∧
    (∃ (s : State) (w : _), w ≤ 15 ∧ tgetD s.fab.reseq w [] ≠ [] ∧ missingFrame s w (at' s.fab.wide w {}).expected = none) ∧
    (∃ (s : State) (w : _), w ≤ 15 ∧ wideWaits s w = false) ∧
    (∃ (s : State) (t : _), s.fab.modeSince = some t ∧ s.fab.mode % 2 = 1) ∧
    (∃ (s : State), (∀ e, e ∈ s.fab.transit → tooOld s e.2.frame = false) ∧ (∀ f, f ∈ s.hor.restore → tooOld s f = false) ∧ (∀ f, f ∈ s.fab.recirc → tooOld s f = false)) ∧
    (∃ (s : State) (o : _) (id : _) (t : _), s.fab.transit.find? (fun e => e.2.out == o && e.2.arrived > 0 && !e.2.admitted) = some (id, t) ∧ t.bad.isSome = true) ∧
    (∃ (s : State) (o : _) (id : _) (t : _), s.fab.transit.find? (fun e => e.2.out == o && e.2.arrived > 0 && !e.2.admitted) = some (id, t) ∧ t.bad = none) ∧
    (∃ (s : State) (p : _) (x : _) (t : _), tget s.egr.sending p = some x ∧ transitOf (settleCredits s p) x.frame = some t ∧ t.stored = true ∧ t.bad = none) :=
  ⟨⟨up.modFab fun x => { x with links := [(linkKey 1 15 15, { resend := [cell0] })] }, 1, 15, 15, cell0, [], by decide +kernel, by decide +kernel, by decide +kernel, by decide +kernel, by decide +kernel⟩,
  ⟨up.modFab fun x => { x with middles := [(midKey 15 15 true, [cell0])] }, 1, 15, 15, cell0, _, by decide +kernel, by decide +kernel, by decide +kernel, by decide +kernel, by decide +kernel, by decide +kernel, rfl⟩,
  ⟨up.modFab fun x => { x with links := [(linkKey 0 15 15, { lost := [cell0] })] }, 15, 15, cell0, [], by decide +kernel, by decide +kernel, by decide +kernel⟩,
  ⟨inTransit arriving, 15, 1, arriving, by decide +kernel⟩,
  ⟨up, 15, by decide +kernel, by decide +kernel⟩,
  ⟨up.modFab fun x => { x with reseq := [(15, [cell0])] }, 15, by decide +kernel, by decide +kernel, by decide +kernel⟩,
  ⟨up, 15, by decide +kernel, by decide +kernel⟩,
  ⟨up.modFab fun x => { x with modeSince := some 0 }, 0, by decide +kernel, by decide +kernel⟩,
  ⟨up, by decide +kernel, by decide +kernel, by decide +kernel⟩,
  ⟨inTransit { arriving with bad := some 1 }, 15, 1, { arriving with bad := some 1 }, by decide +kernel, by decide +kernel⟩,
  ⟨inTransit arriving, 15, 1, arriving, by decide +kernel, by decide +kernel⟩,
  ⟨(inTransit (transit0 0)).modEgr fun e => { e with sending := [(0, { frame := 1, tc := 7, express := true })] }, 0, { frame := 1, tc := 7, express := true }, transit0 0, by decide +kernel, by decide +kernel, by decide +kernel, by decide +kernel⟩⟩

theorem wit_executor_rows_complete :
    (∃ (s : State) (c : _), awake s = true ∧ serving s = true ∧ nextCommand s = some c) ∧
    (∃ (s : State) (w : _) (ws : _), awake s = true ∧ serving s = true ∧ s.ep.draining = false ∧ s.mb.waiting = w :: ws ∧ w.kind = .drain) ∧
    (∃ (s : State) (w : _) (ws : _), awake s = true ∧ serving s = true ∧ s.ep.draining = false ∧ s.mb.waiting = w :: ws ∧ w.kind = .sync) ∧
    (∃ (s : State) (token : _) (t : _), s.mb.tokens.find? (fun t => t.token == token) = some t) ∧
    (∃ (s : State) (i : _), awake s = true ∧ s.host.ready = true ∧ (List.range 4).find? (fun i => !(session s i).isOpen) = some i) ∧
    (∃ (s : State), awake s = true ∧ s.host.ready = true ∧ (List.range 4).find? (fun i => !(session s i).isOpen) = none) ∧
    (∃ (s : State) (i : _), i ≤ 3 ∧ awake s = true ∧ (session s i).isOpen = true) ∧
    (∃ (s : State) (i : _), (session s i).isOpen = true) :=
  ⟨⟨up.modMb fun m => { m with submitted := [cmd0] }, cmd0, by decide +kernel, by decide +kernel, by decide +kernel⟩,
  ⟨waitingFor .drain, { cmd := cmd0, kind := .drain, since := 0 }, [], by decide +kernel, by decide +kernel, by decide +kernel, by decide +kernel, rfl⟩,
  ⟨waitingFor .sync, { cmd := cmd0, kind := .sync, since := 0 }, [], by decide +kernel, by decide +kernel, by decide +kernel, by decide +kernel, rfl⟩,
  ⟨up.modMb fun m => { m with tokens := [tok0] }, 9, tok0, rfl⟩,
  ⟨up, 0, by decide +kernel, by decide +kernel, by decide +kernel⟩,
  ⟨sessions4, by decide +kernel, by decide +kernel, by decide +kernel⟩,
  ⟨sessions4, 3, by decide +kernel, by decide +kernel, by decide +kernel⟩,
  ⟨sessions4, 3, by decide +kernel⟩⟩

theorem wit_event_rows_complete :
    (∃ (q : Nat) (s : State) (seq : _) (r : _) (rest : _), q ≤ 3 ∧ awake s = true ∧ (s.eq q).en = true ∧ s.host.d3hot = false ∧ (s.eq q).toWrite = (seq, r) :: rest ∧ r.type ≠ 4) ∧
    (∃ (q : Nat) (s : State), q ≤ 3 ∧ awake s = true ∧ (s.eq q).en = true ∧ (s.eq q).irqEn = true ∧ (s.eq q).unsig ≠ 0) ∧
    (∃ (q : Nat) (v : Nat) (s : State), q ≤ 3 ∧ awake s = true ∧ (s.eq q).en = false ∧ bits v 21 16 ≠ 0 ∧ q < s.eqs.length) ∧
    (∃ (q : Nat) (s : State), q ≤ 3 ∧ awake s = true ∧ (s.eq q).en = true) ∧
    (∃ (q : Nat) (s : State), q ≤ 3 ∧ awake s = true) :=
  ⟨⟨3, eqOn, 0, rec0, [], by decide +kernel, by decide +kernel, by decide +kernel, by decide +kernel, by decide +kernel, by decide⟩,
  ⟨3, eqOn, by decide +kernel, by decide +kernel, by decide +kernel, by decide +kernel, by decide +kernel⟩,
  ⟨3, 2 ^ 16, up, by decide +kernel, by decide +kernel, by decide +kernel, by decide +kernel, by decide +kernel⟩,
  ⟨3, eqOn, by decide +kernel, by decide +kernel, by decide +kernel⟩,
  ⟨3, up, by decide +kernel, by decide +kernel⟩⟩

theorem wit_ring_rows_complete :
    (∃ (k : Nat) (s : State) (off : _) (c : _), awake s = true ∧ k ≤ 31 ∧ mayFetch s k = true ∧ (readHost s (s.ring k).ctx (descIova (s.ring k) (s.ring k).fetchIdx) 32).fault = some (c, off)) ∧
    (∃ (k : Nat) (s : State) (a : _), awake s = true ∧ mayFetch s k = true ∧ a = readHost s (s.ring k).ctx (descIova (s.ring k) (s.ring k).fetchIdx) 32 ∧ a.fault = none ∧ k ≤ 31) ∧
    (∃ (k : Nat) (s : State) (n : _) (a : _), awake s = true ∧ k ≤ 31 ∧ n = 32 + k ∧ mayFetch s n = true ∧ a = readHost s (s.ring n).ctx (descIova (s.ring n) (s.ring n).fetchIdx) 32 ∧ a.fault = none) ∧
    (∃ (k : Nat) (s : State), awake s = true ∧ k ≤ 31) ∧
    (∃ (k : Nat) (s : State) (x : _) (xs : _) (data : _), awake s = true ∧ k ≤ 31 ∧ (s.ring k).txQueue = x :: xs ∧ x.data = some data ∧ x.ended = none ∧ s.host.d3hot = false ∧ x.launch.getD 0 ≤ s.now) ∧
    (∃ (k : Nat) (s : State) (x : _) (xs : _) (t : _) (data : _), awake s = true ∧ k ≤ 31 ∧ (s.ring k).txQueue = x :: xs ∧ x.launch = some t ∧ x.data = some data ∧ x.ended = none) ∧
    (∃ (k : Nat) (s : State) (x : _) (xs : _) (a : _), awake s = true ∧ k ≤ 31 ∧ (s.ring k).txQueue = x :: xs ∧ x.atHead = true ∧ x.data = none ∧ x.ended = none ∧ (s.ring k).en = true ∧ s.host.d3hot = false ∧ a = readChain k none x.descs s 0 ∧ a.fault = none) ∧
    (∃ (k : Nat) (s : State), awake s = true ∧ k ≤ 63) ∧
    (∃ (k : Nat) (v : Nat) (s : State), awake s = true ∧ k ≤ 31 ∧ k < s.dma.rings.length ∧ (s.ring k).en = false ∧ (s.ring k).rxCur = none ∧ bits v 21 16 ≠ 0) ∧
    (∃ (k : Nat) (s : State), awake s = true ∧ k ≤ 63 ∧ (s.ring k).en = true) ∧
    (∃ (k : Nat) (s : State), awake s = true ∧ k ≤ 63 ∧ (s.ring k).parked = false) ∧
    (∃ (k : Nat) (s : State), awake s = true ∧ k ≤ 63 ∧ (s.ring k).parked = true) :=
  ⟨⟨31, ringOn 31 0, 0, .ctxInvalid, by decide +kernel, by decide +kernel, by decide +kernel, by decide +kernel⟩,
  ⟨31, ringOn 31 1, _, by decide +kernel, by decide +kernel, rfl, by decide +kernel, by decide +kernel⟩,
  ⟨31, ringOn 63 1, 63, _, by decide +kernel, by decide +kernel, by decide +kernel, by decide +kernel, rfl, by decide +kernel⟩,
  ⟨31, up, by decide +kernel, by decide +kernel⟩,
  ⟨31, up.modRing 31 fun r => { r with txQueue := [txf0] }, txf0, [], zeros 60, by decide +kernel, by decide +kernel, by decide +kernel, by decide +kernel, by decide +kernel, by decide +kernel, by decide +kernel⟩,
  ⟨31, up.modRing 31 fun r => { r with txQueue := [txf0] }, txf0, [], 0, zeros 60, by decide +kernel, by decide +kernel, by decide +kernel, by decide +kernel, by decide +kernel, by decide +kernel⟩,
  ⟨31, (ringOn 31 1).modRing 31 fun r => { r with txQueue := [{ txf0 with data := none, atHead := true }] }, { txf0 with data := none, atHead := true }, [], _, by decide +kernel, by decide +kernel, by decide +kernel, by decide +kernel, by decide +kernel, by decide +kernel, by decide +kernel, by decide +kernel, rfl, by decide +kernel⟩,
  ⟨63, up, by decide +kernel, by decide +kernel⟩,
  ⟨31, 2 ^ 16, up, by decide +kernel, by decide +kernel, by decide +kernel, by decide +kernel, by decide +kernel, by decide +kernel⟩,
  ⟨63, ringOn 63 1, by decide +kernel, by decide +kernel, by decide +kernel⟩,
  ⟨63, up, by decide +kernel, by decide +kernel, by decide +kernel⟩,
  ⟨63, up.modRing 63 fun r => { r with parked := true }, by decide +kernel, by decide +kernel, by decide +kernel⟩⟩

theorem wit_host_register_rows_complete :
    (∃ (s : State), awake s = true) ∧
    (∃ (s : State) (i : _), awake s = true ∧ i ≤ 63 ∧ i < s.host.msix.length ∧ bit s.host.msixPend i = true ∧ s.host.d3hot = false) ∧
    (∃ (s : State) (i : _), awake s = true ∧ i ≤ 63 ∧ bit s.host.msixPend i = false) ∧
    (∃ (s : State), awake s = true ∧ s.dma.atu.go = true) ∧
    (∃ (s : State), awake s = true ∧ s.dma.atu.go = false) ∧
    (∃ (s : State) (c : _) (off : _), awake s = true ∧ 1 ≤ c ∧ c ≤ 63 ∧ (off = 0 ∨ off = 4 ∨ off = 8)) ∧
    (∃ (s : State) (c : _), awake s = true ∧ 1 ≤ c ∧ c ≤ 63) ∧
    (∃ (v : Nat) (s : State), awake s = true ∧ v < 2 ^ 32) ∧
    (∃ (s : State) (off : _) (be : _), awake s = true ∧ be % 16 ≠ 15 ∧ off < 0x8000) ∧
    (∃ (s : State) (ds : List (Nat × Nat)), awake s = true ∧ ds.length ≤ 16) :=
  ⟨⟨up, by decide +kernel⟩,
  ⟨up.modHost fun h => { h with msixPend := 2 ^ 63 }, 63, by decide +kernel, by decide +kernel, by decide +kernel, by decide +kernel, by decide +kernel⟩,
  ⟨up, 63, by decide +kernel, by decide +kernel, by decide +kernel⟩,
  ⟨up.modAtu fun a => { a with go := true }, by decide +kernel, by decide +kernel⟩,
  ⟨up, by decide +kernel, by decide +kernel⟩,
  ⟨up, 63, 8, by decide +kernel, by decide +kernel, by decide +kernel, by decide +kernel⟩,
  ⟨up, 63, by decide +kernel, by decide +kernel, by decide +kernel⟩,
  ⟨2 ^ 32 - 1, up, by decide +kernel, by decide +kernel⟩,
  ⟨up, 0x7FFC, 14, by decide +kernel, by decide +kernel, by decide +kernel⟩,
  ⟨up, [(0, 0)], by decide +kernel, by decide +kernel⟩⟩

theorem wit_link_rows_complete :
    (∃ (s : State) (speed : _) (width : _), awake s = true ∧ 1 ≤ speed ∧ speed ≤ 4 ∧ (width = 1 ∨ width = 2 ∨ width = 4) ∧ ¬(s.host.linkUp = true ∧ s.host.linkSpeed = speed ∧ s.host.linkWidth = width)) ∧
    (∃ (s : State), awake s = true) ∧
    (∃ (s : State) (us : _), awake s = true ∧ 100 ≤ us) ∧
    (∃ (s : State) (us : _), awake s = true ∧ us < 100) ∧
    (∃ (s : State), awake s = true ∧ s.host.d3hot = false) ∧
    (∃ (s : State), awake s = true ∧ s.host.d3hot = true) :=
  ⟨⟨up, 4, 4, by decide +kernel, by decide +kernel, by decide +kernel, by decide +kernel, by decide +kernel⟩,
  ⟨up, by decide +kernel⟩,
  ⟨up, 100, by decide +kernel, by decide +kernel⟩,
  ⟨up, 99, by decide +kernel, by decide +kernel⟩,
  ⟨up, by decide +kernel, by decide +kernel⟩,
  ⟨up.modHost fun h => { h with d3hot := true }, by decide +kernel, by decide +kernel⟩⟩

theorem wit_step_runs_front_command : ∃ (c : Instr) (rest : List Instr) (s : State), s.pending = c :: rest :=
  ⟨.hotReset, [], { up with pending := [.hotReset] }, rfl⟩

theorem wit_step_on_empty_queue :
    (∃ (s : State), s.pending = [] ∧ s.power.on = false) ∧
    (∃ (s : State), s.pending = [] ∧ s.power.on = true ∧ 2 ≤ s.power.state) ∧
    (∃ (s : State), s.pending = [] ∧ s.power.on = true ∧ s.power.state ≤ 1) :=
  ⟨⟨State.reset, rfl, by decide +kernel⟩,
  ⟨asleep 2, rfl, by decide +kernel, by decide +kernel⟩,
  ⟨up, rfl, by decide +kernel, by decide +kernel⟩⟩

theorem wit_step_keeps_inv : ∃ (s : State) (t : State), Inv s ∧ step s = .next t :=
  ⟨State.reset, _, ⟨⟨rfl, rfl, rfl⟩, rfl, ⟨rfl, rfl, rfl⟩, ⟨rfl, rfl⟩, rfl⟩, rfl⟩

theorem wit_reset_values :
    (∃ (e : _), e ≤ 63) ∧
    (∃ (q : _), q ≤ 3) ∧
    (∃ (k : _), k ≤ 63) :=
  ⟨⟨63, by decide +kernel⟩,
  ⟨3, by decide +kernel⟩,
  ⟨63, by decide +kernel⟩⟩

theorem wit_level_rule :
    (∃ (s : State) (c : Cmd), awake s = true ∧ serving s = true ∧ nextCommand s = some c ∧ (specOf c.opcode).known = true ∧ c.req.version = 1) ∧
    (∃ (s : State) (c : Cmd), awake s = true ∧ serving s = true ∧ nextCommand s = some c ∧ (c.req.level % 16 = 15 ∨ c.req.level % 16 = (specOf c.opcode).level)) :=
  ⟨⟨up.modMb fun m => { m with submitted := [cmd0] }, cmd0, by decide +kernel, by decide +kernel, by decide +kernel, by decide +kernel, by decide +kernel⟩,
  ⟨up.modMb fun m => { m with submitted := [cmd0] }, cmd0, by decide +kernel, by decide +kernel, by decide +kernel, by decide +kernel⟩⟩

theorem wit_checks_in_order : ∃ (s : State) (c : Cmd), awake s = true ∧ serving s = true ∧ nextCommand s = some c :=
  ⟨up.modMb fun m => { m with submitted := [cmd0] }, cmd0, by decide +kernel, by decide +kernel, by decide +kernel⟩

theorem wit_completion_written : ∃ (c : Cmd) (k : Completion), c.req.src ≤ 7 ∧ k.payload.length ≤ 2016 :=
  ⟨cmd0, { level := 15, status := 0, payload := zeros 2016 }, by decide +kernel, by decide +kernel⟩

theorem wit_window_writes :
    (∃ (s : State) (n : Nat) (off : Nat), awake s = true ∧ n ≤ 7 ∧ off < 4096 ∧ off % 4 = 0 ∧ (bit s.mb.ring n = true ∨ 2048 ≤ off)) ∧
    (∃ (s : State) (n : Nat) (off : Nat), awake s = true ∧ n ≤ 7 ∧ off < 4096 ∧ off % 4 = 0 ∧ bit s.mb.ring n = false ∧ off < 2048) :=
  ⟨⟨up, 7, 4092, by decide +kernel, by decide +kernel, by decide +kernel, by decide +kernel, by decide +kernel⟩,
  ⟨up, 7, 2044, by decide +kernel, by decide +kernel, by decide +kernel, by decide +kernel, by decide +kernel, by decide +kernel⟩⟩

theorem wit_held_until_serving : ∃ (s : State) (r : Req), r.src ≤ 7 ∧ sourceBusy s r.src = false ∧ s.mb.resetDue = none ∧ serving s = false :=
  ⟨State.reset, { src := 7 }, by decide +kernel, by decide +kernel, by decide +kernel, by decide +kernel⟩

theorem wit_two_epochs_hold_back_a_commit :
    (∃ (s : State) (s1 : State) (r : Req) (p : List Byte), Runs s specRingBind r p s1 ∧ u p 0 1 ≤ 31 ∧ u p 1 1 ≤ 7 ∧ inCarve s1 (u p 1 1) = true ∧ bit r.flags 2 = false ∧ s1.ep.draining = false) ∧
    (∃ (s : State) (s1 : State) (r : Req) (p : List Byte), Runs s specRingBind r p s1 ∧ u p 0 1 ≤ 31 ∧ u p 1 1 ≤ 7 ∧ inCarve s1 (u p 1 1) = true ∧ bit r.flags 2 = false ∧ s1.ep.draining = true ∧ bit r.flags 0 = true) ∧
    (∃ (s : State) (s1 : State) (r : Req) (p : List Byte), Runs s specRingBind r p s1 ∧ u p 0 1 ≤ 31 ∧ u p 1 1 ≤ 7 ∧ inCarve s1 (u p 1 1) = true ∧ bit r.flags 2 = false ∧ s1.ep.draining = true ∧ bit r.flags 0 = false) :=
  ⟨⟨carved, _, rq (fld 4 [(0, 1, 31), (1, 1, 7)]), fld 4 [(0, 1, 31), (1, 1, 7)], runs_here (by decide +kernel), by decide +kernel, by decide +kernel, by decide +kernel, by decide +kernel, by decide +kernel⟩,
  ⟨draining, _, { rq (fld 4 [(0, 1, 31), (1, 1, 7)]) with flags := 1 }, fld 4 [(0, 1, 31), (1, 1, 7)], ⟨⟨by decide, by decide, by decide +kernel, by decide +kernel, by decide +kernel, by decide +kernel⟩, by decide +kernel, rfl, by decide +kernel⟩, by decide +kernel, by decide +kernel, by decide +kernel, by decide +kernel, by decide +kernel, by decide +kernel⟩,
  ⟨draining, _, rq (fld 4 [(0, 1, 31), (1, 1, 7)]), fld 4 [(0, 1, 31), (1, 1, 7)], runs_here (by decide +kernel), by decide +kernel, by decide +kernel, by decide +kernel, by decide +kernel, by decide +kernel, by decide +kernel⟩⟩

theorem wit_reading_commands_frame :
    (∃ (r : Req) (s : State) (t : State), exec (.nop r) s = .next t) ∧
    (∃ (r : Req) (s : State) (t : State), exec (.getVersions r) s = .next t) ∧
    (∃ (r : Req) (s : State) (t : State), exec (.getIdentity r) s = .next t) ∧
    (∃ (r : Req) (s : State) (t : State), exec (.getStatus r) s = .next t) ∧
    (∃ (r : Req) (s : State) (t : State), exec (.getMbStats r) s = .next t) ∧
    (∃ (r : Req) (s : State) (t : State), exec (.evqGetRoutes r) s = .next t) ∧
    (∃ (r : Req) (s : State) (t : State), exec (.rxSteerGet r) s = .next t) ∧
    (∃ (r : Req) (s : State) (t : State), exec (.portGetStatus r) s = .next t) ∧
    (∃ (r : Req) (s : State) (t : State), exec (.pseGetStatus r) s = .next t) ∧
    (∃ (r : Req) (s : State) (t : State), exec (.fdbRead r) s = .next t) ∧
    (∃ (r : Req) (s : State) (t : State), exec (.tableRead r) s = .next t) ∧
    (∃ (r : Req) (s : State) (t : State), exec (.sessionRead r) s = .next t) ∧
    (∃ (r : Req) (s : State) (t : State), exec (.horizonTableRead r) s = .next t) ∧
    (∃ (r : Req) (s : State) (t : State), exec (.fabricStatusGet r) s = .next t) ∧
    (∃ (r : Req) (s : State) (t : State), exec (.gclGet r) s = .next t) ∧
    (∃ (r : Req) (s : State) (t : State), exec (.zenithStatusGet r) s = .next t) ∧
    (∃ (r : Req) (s : State) (t : State), exec (.timeStatusGet r) s = .next t) ∧
    (∃ (r : Req) (s : State) (t : State), exec (.channelStatusGet r) s = .next t) ∧
    (∃ (r : Req) (s : State) (t : State), exec (.gwStatusGet r) s = .next t) ∧
    (∃ (r : Req) (s : State) (t : State), exec (.gwTableRead r) s = .next t) ∧
    (∃ (r : Req) (s : State) (t : State), exec (.arbiterGet r) s = .next t) ∧
    (∃ (r : Req) (s : State) (t : State), exec (.powerStatusGet r) s = .next t) ∧
    (∃ (r : Req) (s : State) (t : State), exec (.keySlotInfo r) s = .next t) ∧
    (∃ (r : Req) (s : State) (t : State), exec (.macsecStatusGet r) s = .next t) ∧
    (∃ (r : Req) (s : State) (t : State), exec (.measGet r) s = .next t) ∧
    (∃ (r : Req) (s : State) (t : State), exec (.measLogRead r) s = .next t) ∧
    (∃ (r : Req) (s : State) (t : State), exec (.bootStatusGet r) s = .next t) ∧
    (∃ (r : Req) (s : State) (t : State), exec (.certGet r) s = .next t) ∧
    (∃ (r : Req) (s : State) (t : State), exec (.sensorGet r) s = .next t) ∧
    (∃ (r : Req) (s : State) (t : State), exec (.logRead r) s = .next t) ∧
    (∃ (r : Req) (s : State) (t : State), exec (.portBwGet r) s = .next t) ∧
    (∃ (r : Req) (s : State) (t : State), exec (.updateStatusGet r) s = .next t) ∧
    (∃ (r : Req) (s : State) (t : State), exec (.pairStatusGet r) s = .next t) ∧
    (∃ (r : Req) (s : State) (t : State), exec (.ttdpStatusGet r) s = .next t) ∧
    (∃ (r : Req) (s : State) (t : State), exec (.mrpStatusGet r) s = .next t) ∧
    (∃ (r : Req) (s : State) (t : State), exec (.lifecycleGet r) s = .next t) :=
  ⟨⟨rq [], up, _, rfl⟩,
  ⟨rq [], up, _, rfl⟩,
  ⟨rq [], up, _, rfl⟩,
  ⟨rq [], up, _, rfl⟩,
  ⟨rq [], up, _, rfl⟩,
  ⟨rq [], up, _, rfl⟩,
  ⟨rq [], up, _, rfl⟩,
  ⟨rq [], up, _, rfl⟩,
  ⟨rq [], up, _, rfl⟩,
  ⟨rq [], up, _, rfl⟩,
  ⟨rq [], up, _, rfl⟩,
  ⟨rq [], up, _, rfl⟩,
  ⟨rq [], up, _, rfl⟩,
  ⟨rq [], up, _, rfl⟩,
  ⟨rq [], up, _, rfl⟩,
  ⟨rq [], up, _, rfl⟩,
  ⟨rq [], up, _, rfl⟩,
  ⟨rq [], up, _, rfl⟩,
  ⟨rq [], up, _, rfl⟩,
  ⟨rq [], up, _, rfl⟩,
  ⟨rq [], up, _, rfl⟩,
  ⟨rq [], up, _, rfl⟩,
  ⟨rq [], up, _, rfl⟩,
  ⟨rq [], up, _, rfl⟩,
  ⟨rq [], up, _, rfl⟩,
  ⟨rq [], up, _, rfl⟩,
  ⟨rq [], up, _, rfl⟩,
  ⟨rq [], up, _, rfl⟩,
  ⟨rq [], up, _, rfl⟩,
  ⟨rq [], up, _, rfl⟩,
  ⟨rq [], up, _, rfl⟩,
  ⟨rq [], up, _, rfl⟩,
  ⟨rq [], up, _, rfl⟩,
  ⟨rq [], up, _, rfl⟩,
  ⟨rq [], up, _, rfl⟩,
  ⟨rq [], up, _, rfl⟩⟩

theorem wit_retry_tokens_bounded :
    (∃ (s : State) (t : State) (src : Nat) (op : Nat) (hint : Nat) (obj : Nat) (tok : Nat) (p : List Byte) (f : FetchState), issueToken s src op p hint f obj = (tok, t) ∧ (liveTokens s).length < 64) ∧
    (∃ (s : State) (t : State) (src : Nat) (op : Nat) (hint : Nat) (obj : Nat) (tok : Nat) (p : List Byte) (f : FetchState), issueToken s src op p hint f obj = (tok, t) ∧ (liveTokens s).length = 64) :=
  ⟨⟨up, _, 0, 0x0905, 1, 0, _, [], .running, rfl, by decide +kernel⟩,
  ⟨tokens64, _, 0, 0x0905, 1, 0, _, [], .running, rfl, by decide +kernel⟩⟩

theorem wit_bw_ctrl_restarts_window : ∃ (s : State), awake s = true :=
  ⟨up, by decide +kernel⟩

theorem wit_rx_steer_get_table :
    (∃ (r : Req), r.version ≠ 1) ∧
    (∃ (r : Req) (s : State) (s1 : State) (p : List Byte), Runs s specRxSteerGet r p s1) ∧
    (∃ (d : _) (tc : _), d ≤ 7 ∧ tc ≤ 7) :=
  ⟨⟨{ src := 0, version := 2 }, by decide +kernel⟩,
  ⟨rq [], up, _, [], runs_here (by decide +kernel)⟩,
  ⟨7, 7, by decide +kernel, by decide +kernel⟩⟩

theorem wit_context_zero_faults : ∃ (iova : Nat) (n : Nat) (p : List Byte), iova < 2 ^ 48 ∧ 0 < n ∧ p ≠ [] :=
  ⟨2 ^ 48 - 1, 1, [0], by decide +kernel, by decide +kernel, by decide +kernel⟩

theorem wit_event_delivery :
    (∃ (s : State) (ty : Nat) (q : Nat), s.eqs.length = 4 ∧ 6 ≤ ty ∧ q = (s.route ty).queue ∧ q ≤ 3 ∧ (s.eq q).en = true) ∧
    (∃ (s : State) (ty : Nat) (sev : Nat) (q : Nat), s.eqs.length = 4 ∧ 6 ≤ ty ∧ q = (s.route ty).queue ∧ q ≤ 3 ∧ (s.route ty).minSev ≤ sev) :=
  ⟨⟨up.modEq 0 fun e => { e with en := true }, 6, 0, by decide +kernel, by decide +kernel, by decide +kernel, by decide +kernel, by decide +kernel⟩,
  ⟨up.modEq 0 fun e => { e with en := true }, 6, 7, 0, by decide +kernel, by decide +kernel, by decide +kernel, by decide +kernel, by decide +kernel⟩⟩

theorem wit_eq_enable_starts_afresh : ∃ (s : State) (q : Nat) (v : Nat), awake s = true ∧ s.eqs.length = 4 ∧ q ≤ 3 ∧ (s.eq q).en = false ∧ bits v 21 16 ≠ 0 ∧ s.host.heldHost = [] :=
  ⟨up, 3, 2 ^ 16, by decide +kernel, by decide +kernel, by decide +kernel, by decide +kernel, by decide +kernel, by decide +kernel⟩

theorem wit_enabled_fields_locked :
    (∃ (s : State) (n : Nat) (v : Nat) (off : _), awake s = true ∧ v < 2 ^ 32 ∧ n ≤ 3 ∧ (s.eq n).en = true ∧ (off = 0 ∨ off = 4 ∨ off = 8)) ∧
    (∃ (s : State) (n : Nat) (v : Nat), awake s = true ∧ v < 2 ^ 32 ∧ n ≤ 3 ∧ (s.eq n).en = false ∧ s.eqs.length = 4) ∧
    (∃ (s : State) (n : Nat) (v : Nat) (off : _), awake s = true ∧ v < 2 ^ 32 ∧ n ≤ 63 ∧ (s.ring n).en = true ∧ (off = 0 ∨ off = 4 ∨ off = 8 ∨ off = 0x18)) ∧
    (∃ (s : State) (n : Nat) (v : Nat), awake s = true ∧ v < 2 ^ 32 ∧ n ≤ 63 ∧ (s.ring n).en = false ∧ s.dma.rings.length = 64) :=
  ⟨⟨eqOn, 3, 2 ^ 32 - 1, 8, by decide +kernel, by decide +kernel, by decide +kernel, by decide +kernel, by decide +kernel⟩,
  ⟨up, 3, 2 ^ 32 - 1, by decide +kernel, by decide +kernel, by decide +kernel, by decide +kernel, by decide +kernel⟩,
  ⟨ringOn 63 1, 63, 2 ^ 32 - 1, 0x18, by decide +kernel, by decide +kernel, by decide +kernel, by decide +kernel, by decide +kernel⟩,
  ⟨up, 63, 2 ^ 32 - 1, by decide +kernel, by decide +kernel, by decide +kernel, by decide +kernel, by decide +kernel⟩⟩

theorem wit_mer_time_latch : ∃ (s : State), awake s = true :=
  ⟨up, by decide +kernel⟩

theorem wit_host_reset_clears : ∃ (s : State), awake s = true ∧ (∀ w, w ∈ s.mb.waiting → 8 ≤ w.cmd.req.src) ∧ (∀ k, (s.ring k).rxCur = none ∧ (s.ring k).rxHeld = []) ∧ s.gw.locks = [] :=
  ⟨up, by decide +kernel, by decide +kernel, up_rings, by decide +kernel⟩

theorem wit_memory_read_after_write :
    (∃ (a : Nat) (p : List Byte) (b : _), (b < a ∨ a + p.length ≤ b)) ∧
    (∃ (m : Mem), Memory.wf m = true) :=
  ⟨⟨1, [], 0, by decide +kernel⟩,
  ⟨[], by decide +kernel⟩⟩

end Sys2Proof.Tests
end

section
/-! PROOFS. The step takes the front command (assumption 1), and a mailbox command that rings before Ikiora serves is held (R30, R71). -/

namespace Sys2Proof.Machine

/-! ### The step on a queue that is not empty -/

/-- With a command at the front, the step is the meaning of that command on the state with the rest of the queue. -/
theorem step_of_pending_cons {s : State} {c : Instr} {rest : List Instr} (h : s.pending = c :: rest) :
    step s = exec c { s with pending := rest } := by
  unfold step
  rw [h]

/-- Settles O38: the one branch of `step` for a queue that is not empty. -/
theorem stepRunsFrontCommand : Obligations.stepRunsFrontCommand := by
  unfold Obligations.stepRunsFrontCommand
  intro c rest s h
  exact step_of_pending_cons h

/-! ### A mailbox command that rings while Ikiora does not serve -/

/-- Two changes of the mailboxes one after the other are one. -/
theorem State.modMb_modMb (s : State) (f g : Mailbox → Mailbox) : (s.modMb f).modMb g = s.modMb fun m => g (f m) := rfl

section
variable {s : State} {r : Req} (hsrc : r.src < 8) (hidle : sourceBusy s r.src = false) (hreset : s.mb.resetDue = none)
include hsrc hidle hreset

/-- Steps 1 and 2 of R72 at an idle mailbox that waits out no reset: the request is in the window, and the `MB_DONE` bit is cleared. -/
theorem postRequest_of_idle_mailbox (op : Nat) :
    postRequest s op r = s.modMb fun m => { m with
      windows := mwrite m.windows (r.src * 4096) (requestHeader op r ++ r.payload.take 2016), done := withBit m.done r.src false } := by
  unfold postRequest
  rw [if_pos (by simp [hsrc, hidle, hreset])]

/-- A command that an idle mailbox submits while Ikiora does not serve joins the submitted ones, whether or not the executor is free. -/
theorem submit_of_not_serving (hserve : serving s = false) (sp : CmdSpec) :
    submit s sp r = s.modMb fun m => { m with
      order := m.order + 1, ring := withBit m.ring r.src true
      submitted := m.submitted ++ [{ opcode := sp.opcode, req := r, order := m.order, level := sp.level }] } := by
  have hmailbox : ¬ 12 ≤ r.src := by omega
  have hnoSession : ¬ 8 ≤ r.src := by omega
  unfold submit
  simp only [hmailbox, hnoSession, hsrc, hidle, hreset, hserve, false_and, if_true, if_false, Option.isSome_none, Bool.false_eq_true, and_false]
  rfl

/-- Any mailbox command row while Ikiora does not serve: the request is posted, the doorbell bit is set and the command is held (R30, R71). -/
theorem command_of_not_serving (hserve : serving s = false) (sp : CmdSpec) :
    command sp r s = .next (s.modMb fun m => { m with
      windows := mwrite m.windows (r.src * 4096) (requestHeader sp.opcode r ++ r.payload.take 2016), done := withBit m.done r.src false
      order := m.order + 1, ring := withBit m.ring r.src true
      submitted := m.submitted ++ [{ opcode := sp.opcode, req := asSubmitted r, order := m.order, level := sp.level }] }) := by
  have hsub := asSubmitted_src r
  unfold command
  rw [postRequest_of_idle_mailbox hsrc hidle hreset, submit_of_not_serving]
  · rw [hsub, State.modMb_modMb]
  · rwa [hsub]
  · rw [hsub]
    exact hidle
  · exact hreset
  · exact hserve

end

/-- Settles O48: NOP is a mailbox command row, and every such row is held while Ikiora does not serve. -/
theorem heldUntilServing : Obligations.heldUntilServing := by
  unfold Obligations.heldUntilServing
  intro s r hsrc hidle hreset hserve
  exact command_of_not_serving (by omega) hidle hreset hserve specNop

end Sys2Proof.Machine
end

section
/-! PROOFS. Soundness of the state: every row keeps it, and so does a step; the state after reset has it. -/

namespace Sys2Proof.Machine

/-- The meaning of every command goes on: one law of Laws/ per row of the table. -/
theorem exec_goes (c : Instr) (s : State) : Goes s (exec c s) := by
  cases c with
  | nop r => exact keep_execNop r s
  | getVersions r => exact keep_execGetVersions r s
  | getIdentity r => exact keep_execGetIdentity r s
  | getStatus r => exact keep_execGetStatus r s
  | getMbStats r => exact keep_execGetMbStats r s
  | moduleReset r => exact keep_execModuleReset r s
  | evqGetRoutes r => exact keep_execEvqGetRoutes r s
  | evqSetRoute r => exact keep_execEvqSetRoute r s
  | ringBind r => exact keep_execRingBind r s
  | rxSteerSet r => exact keep_execRxSteerSet r s
  | rxSteerGet r => exact keep_execRxSteerGet r s
  | dmaGetCounters r => exact keep_execDmaGetCounters r s
  | atuGetCounters r => exact keep_execAtuGetCounters r s
  | portGetStatus r => exact keep_execPortGetStatus r s
  | portSet r => exact keep_execPortSet r s
  | edgeGroupSet r => exact keep_execEdgeGroupSet r s
  | portGetCounters r => exact keep_execPortGetCounters r s
  | plcaSet r => exact keep_execPlcaSet r s
  | pseSet r => exact keep_execPseSet r s
  | pseGetStatus r => exact keep_execPseGetStatus r s
  | trainingClear r => exact keep_execTrainingClear r s
  | domainMapSet r => exact keep_execDomainMapSet r s
  | domainParamsSet r => exact keep_execDomainParamsSet r s
  | vlanSet r => exact keep_execVlanSet r s
  | fdbStaticSet r => exact keep_execFdbStaticSet r s
  | fdbFlush r => exact keep_execFdbFlush r s
  | fdbRead r => exact keep_execFdbRead r s
  | streamIdSet r => exact keep_execStreamIdSet r s
  | streamSet r => exact keep_execStreamSet r s
  | filterSet r => exact keep_execFilterSet r s
  | gateSet r => exact keep_execGateSet r s
  | meterSet r => exact keep_execMeterSet r s
  | frerSet r => exact keep_execFrerSet r s
  | mirrorSet r => exact keep_execMirrorSet r s
  | countersGet r => exact keep_execCountersGet r s
  | stateClear r => exact keep_execStateClear r s
  | tableRead r => exact keep_execTableRead r s
  | zoneSet r => exact keep_execZoneSet r s
  | zoneMapSet r => exact keep_execZoneMapSet r s
  | zonePairSet r => exact keep_execZonePairSet r s
  | ruleSet r => exact keep_execRuleSet r s
  | limiterSet r => exact keep_execLimiterSet r s
  | horizonParamsSet r => exact keep_execHorizonParamsSet r s
  | sessionRead r => exact keep_execSessionRead r s
  | sessionFlush r => exact keep_execSessionFlush r s
  | horizonCountersGet r => exact keep_execHorizonCountersGet r s
  | horizonTableRead r => exact keep_execHorizonTableRead r s
  | fabricStatusGet r => exact keep_execFabricStatusGet r s
  | fabricStartSet r => exact keep_execFabricStartSet r s
  | fabricModeSet r => exact keep_execFabricModeSet r s
  | wideStreamSet r => exact keep_execWideStreamSet r s
  | cutThroughSet r => exact keep_execCutThroughSet r s
  | fabricCountersGet r => exact keep_execFabricCountersGet r s
  | epochSync r => exact keep_execEpochSync r s
  | queueSet r => exact keep_execQueueSet r s
  | shaperSet r => exact keep_execShaperSet r s
  | cbsSet r => exact keep_execCbsSet r s
  | gclSet r => exact keep_execGclSet r s
  | gclGet r => exact keep_execGclGet r s
  | preemptSet r => exact keep_execPreemptSet r s
  | zenithAdmitSet r => exact keep_execZenithAdmitSet r s
  | zenithStatusGet r => exact keep_execZenithStatusGet r s
  | queueFlush r => exact keep_execQueueFlush r s
  | egressCountersGet r => exact keep_execEgressCountersGet r s
  | timeStatusGet r => exact keep_execTimeStatusGet r s
  | timeParamsSet r => exact keep_execTimeParamsSet r s
  | gptpInstanceSet r => exact keep_execGptpInstanceSet r s
  | timeStep r => exact keep_execTimeStep r s
  | gptpPortGet r => exact keep_execGptpPortGet r s
  | channelStatusGet r => exact keep_execChannelStatusGet r s
  | canSet r => exact keep_execCanSet r s
  | canWakeSet r => exact keep_execCanWakeSet r s
  | canRecover r => exact keep_execCanRecover r s
  | mvbSet r => exact keep_execMvbSet r s
  | mvbPortSet r => exact keep_execMvbPortSet r s
  | mvbAdminSet r => exact keep_execMvbAdminSet r s
  | serialSet r => exact keep_execSerialSet r s
  | linSet r => exact keep_execLinSet r s
  | linScheduleSet r => exact keep_execLinScheduleSet r s
  | dioSet r => exact keep_execDioSet r s
  | channelCountersGet r => exact keep_execChannelCountersGet r s
  | gwCycleSet r => exact keep_execGwCycleSet r s
  | routeTableSet r => exact keep_execRouteTableSet r s
  | endpointSet r => exact keep_execEndpointSet r s
  | acfBusSet r => exact keep_execAcfBusSet r s
  | gwWrite r => exact keep_execGwWrite r s
  | gwRead r => exact keep_execGwRead r s
  | gwLock r => exact keep_execGwLock r s
  | gwExchange r => exact keep_execGwExchange r s
  | gwStatusGet r => exact keep_execGwStatusGet r s
  | gwCountersGet r => exact keep_execGwCountersGet r s
  | gwTableRead r => exact keep_execGwTableRead r s
  | powerStatusGet r => exact keep_execPowerStatusGet r s
  | powerStateSet r => exact keep_execPowerStateSet r s
  | wakeSet r => exact keep_execWakeSet r s
  | poolSet r => exact keep_execPoolSet r s
  | arbiterGet r => exact keep_execArbiterGet r s
  | supplySet r => exact keep_execSupplySet r s
  | lifecycleGet r => exact keep_execLifecycleGet r s
  | lifecycleSet r => exact keep_execLifecycleSet r s
  | keySlotWrite r => exact keep_execKeySlotWrite r s
  | keySlotErase r => exact keep_execKeySlotErase r s
  | keySlotInfo r => exact keep_execKeySlotInfo r s
  | keyOp r => exact keep_execKeyOp r s
  | provisionClose r => exact keep_execProvisionClose r s
  | macsecPortSet r => exact keep_execMacsecPortSet r s
  | macsecSaSet r => exact keep_execMacsecSaSet r s
  | mkaSet r => exact keep_execMkaSet r s
  | macsecStatusGet r => exact keep_execMacsecStatusGet r s
  | macsecCountersGet r => exact keep_execMacsecCountersGet r s
  | tamperSet r => exact keep_execTamperSet r s
  | measGet r => exact keep_execMeasGet r s
  | measLogRead r => exact keep_execMeasLogRead r s
  | measExtend r => exact keep_execMeasExtend r s
  | attestGet r => exact keep_execAttestGet r s
  | bootStatusGet r => exact keep_execBootStatusGet r s
  | certGet r => exact keep_execCertGet r s
  | certSet r => exact keep_execCertSet r s
  | spdmSet r => exact keep_execSpdmSet r s
  | lodestarStatusGet r => exact keep_execLodestarStatusGet r s
  | lodestarModeSet r => exact keep_execLodestarModeSet r s
  | sensorGet r => exact keep_execSensorGet r s
  | sensorThresholdSet r => exact keep_execSensorThresholdSet r s
  | nightwatchSet r => exact keep_execNightwatchSet r s
  | logRead r => exact keep_execLogRead r s
  | logSet r => exact keep_execLogSet r s
  | memportSet r => exact keep_execMemportSet r s
  | memportGet r => exact keep_execMemportGet r s
  | portBwGet r => exact keep_execPortBwGet r s
  | perfGet r => exact keep_execPerfGet r s
  | perfSet r => exact keep_execPerfSet r s
  | updateStatusGet r => exact keep_execUpdateStatusGet r s
  | updateBegin r => exact keep_execUpdateBegin r s
  | updateBlock r => exact keep_execUpdateBlock r s
  | updateVerify r => exact keep_execUpdateVerify r s
  | updateActivate r => exact keep_execUpdateActivate r s
  | updateConfirm r => exact keep_execUpdateConfirm r s
  | updateAbort r => exact keep_execUpdateAbort r s
  | updateParamsSet r => exact keep_execUpdateParamsSet r s
  | pairStatusGet r => exact keep_execPairStatusGet r s
  | pairSet r => exact keep_execPairSet r s
  | pairSwitch r => exact keep_execPairSwitch r s
  | pairCountersGet r => exact keep_execPairCountersGet r s
  | ttdpSet r => exact keep_execTtdpSet r s
  | ttdpStatusGet r => exact keep_execTtdpStatusGet r s
  | mrpSet r => exact keep_execMrpSet r s
  | mrpStatusGet r => exact keep_execMrpStatusGet r s
  | commandDispatch => exact keep_execCommandDispatch s
  | commitAfterDrain => exact keep_execCommitAfterDrain s
  | retryTokenExpiry token => exact keep_execRetryTokenExpiry token s
  | remoteConnection port ipv4 cert auth => exact keep_execRemoteConnection port ipv4 cert auth s
  | remoteMessage j len msg => exact keep_execRemoteMessage j len msg s
  | remoteIdleTimeout j => exact keep_execRemoteIdleTimeout j s
  | remoteClose j => exact keep_execRemoteClose j s
  | eqEnable q v => exact keep_execEqEnable q v s
  | eqHeadWrite q v => exact keep_execEqHeadWrite q v s
  | eqStatusClear q v => exact keep_execEqStatusClear q v s
  | eqCoalesceTimeout q => exact keep_execEqCoalesceTimeout q s
  | eventRecordWrite q => exact keep_execEventRecordWrite q s
  | ringEnable k v => exact keep_execRingEnable k v s
  | ringDisable k v => exact keep_execRingDisable k v s
  | ringTailWrite k v => exact keep_execRingTailWrite k v s
  | ringResume k => exact keep_execRingResume k s
  | atuInvalidate v => exact keep_execAtuInvalidate v s
  | atuContextWrite c off v => exact keep_execAtuContextWrite c off v s
  | atuCtxStatusClear c v => exact keep_execAtuCtxStatusClear c v s
  | bwCtrlWrite v => exact keep_execBwCtrlWrite v s
  | perfCtlClear v => exact keep_execPerfCtlClear v s
  | bar2EnableWrite v => exact keep_execBar2EnableWrite v s
  | merTimeLoRead => exact keep_execMerTimeLoRead s
  | perfCycleLoRead => exact keep_execPerfCycleLoRead s
  | bwBytesLoRead => exact keep_execBwBytesLoRead s
  | registerWrite bar off dwords => exact keep_execRegisterWrite bar off dwords s
  | msixVectorUnmask v => exact keep_execMsixVectorUnmask v s
  | functionLevelReset => exact keep_execFunctionLevelReset s
  | hotReset => exact keep_execHotReset s
  | pcieLinkLoss => exact keep_execPcieLinkLoss s
  | perstAssert us => exact keep_execPerstAssert us s
  | pcieLinkUp speed width => exact keep_execPcieLinkUp speed width s
  | d3hotEntry => exact keep_execD3hotEntry s
  | d0Return => exact keep_execD0Return s
  | txDescriptorFetched k => exact keep_execTxDescriptorFetched k s
  | txFrameAccepted k => exact keep_execTxFrameAccepted k s
  | launchTimeReached k => exact keep_execLaunchTimeReached k s
  | rxDescriptorFetched k => exact keep_execRxDescriptorFetched k s
  | rxFrameDelivery k => exact keep_execRxFrameDelivery k s
  | dmaReadCompletion t table good => exact keep_execDmaReadCompletion t table good s
  | dmaCompletionTimeout t table => exact keep_execDmaCompletionTimeout t table s
  | frameArrival point w complete => exact keep_execFrameArrival point w complete s
  | frameEnd point => exact keep_execFrameEnd point s
  | recirculationEntry => exact keep_execRecirculationEntry s
  | fdbAging bucket => exact keep_execFdbAging bucket s
  | streamGateEntryBoundary g => exact keep_execStreamGateEntryBoundary g s
  | streamGateListChange g => exact keep_execStreamGateListChange g s
  | frerResetTimeout j => exact keep_execFrerResetTimeout j s
  | frerLatentPeriod j => exact keep_execFrerLatentPeriod j s
  | sessionInsertWrite => exact keep_execSessionInsertWrite s
  | spillWrite => exact keep_execSpillWrite s
  | sessionAgingSweep spilled j => exact keep_execSessionAgingSweep spilled j s
  | restoreComplete => exact keep_execRestoreComplete s
  | exceptionHandler => exact keep_execExceptionHandler s
  | exceptionDropEnd => exact keep_execExceptionDropEnd s
  | revocationSweepVisit => exact keep_execRevocationSweepVisit s
  | cellReceive stage sender receiver crcOk => exact keep_execCellReceive stage sender receiver crcOk s
  | replayRejection stage sender receiver => exact keep_execReplayRejection stage sender receiver s
  | reassemblyTimeout output => exact keep_execReassemblyTimeout output s
  | reseqTimeout w => exact keep_execReseqTimeout w s
  | wideStreamChangeApply w => exact keep_execWideStreamChangeApply w s
  | firstCellAtOutput output ecc => exact keep_execFirstCellAtOutput output ecc s
  | transmitOpportunity point ecc => exact keep_execTransmitOpportunity point ecc s
  | copyFinished point => exact keep_execCopyFinished point s
  | gclEntryBoundary p => exact keep_execGclEntryBoundary p s
  | gclChangeTime p => exact keep_execGclChangeTime p s
  | residencyScan => exact keep_execResidencyScan s
  | modeLimitExpiry => exact keep_execModeLimitExpiry s
  | preemptVerifyTimeout p => exact keep_execPreemptVerifyTimeout p s
  | preemptResponseRx p addFrag => exact keep_execPreemptResponseRx p addFrag s
  | gptpSyncRx j p malformed oneStep gmTime ratio => exact keep_execGptpSyncRx j p malformed oneStep gmTime ratio s
  | gptpAnnounceRx j p malformed ann => exact keep_execGptpAnnounceRx j p malformed ann s
  | gptpPdelayRx p malformed delayPs nrr => exact keep_execGptpPdelayRx p malformed delayPs nrr s
  | syncReceiptTimeout j => exact keep_execSyncReceiptTimeout j s
  | announceReceiptTimeout j p => exact keep_execAnnounceReceiptTimeout j p s
  | steeringUpdateTimeout => exact keep_execSteeringUpdateTimeout s
  | holdoverEvaluation => exact keep_execHoldoverEvaluation s
  | revertTimer => exact keep_execRevertTimer s
  | syncInterval j => exact keep_execSyncInterval j s
  | pdelayReqInterval p => exact keep_execPdelayReqInterval p s
  | partnerSignalDetected p => exact keep_execPartnerSignalDetected p s
  | trainingComplete p partnerRole at100 partnerEee coeffs finger => exact keep_execTrainingComplete p partnerRole at100 partnerEee coeffs finger s
  | trainingFailed p => exact keep_execTrainingFailed p s
  | linkLoss p pcs => exact keep_execLinkLoss p pcs s
  | fastStartInfofieldRx p finger answer => exact keep_execFastStartInfofieldRx p finger answer s
  | fastStartTimeout p => exact keep_execFastStartTimeout p s
  | tokenRetryTimer p => exact keep_execTokenRetryTimer p s
  | eeeIdleTimer p => exact keep_execEeeIdleTimer p s
  | tc10SleepRequestRx p => exact keep_execTc10SleepRequestRx p s
  | tc10WakePulse port others x => exact keep_execTc10WakePulse port others x s
  | plcaBeaconLoss g => exact keep_execPlcaBeaconLoss g s
  | plcaBeaconReturn g => exact keep_execPlcaBeaconReturn g s
  | pseDetection j valid => exact keep_execPseDetection j valid s
  | pseClassification j cls second => exact keep_execPseClassification j cls second s
  | pseOverload j peakMw railMv => exact keep_execPseOverload j peakMw railMv s
  | pseShort j peakMw railMv => exact keep_execPseShort j peakMw railMv s
  | pseHardShort j peakMw railMv => exact keep_execPseHardShort j peakMw railMv s
  | pseThermal j peakMw railMv => exact keep_execPseThermal j peakMw railMv s
  | pseSupplyFault railMv => exact keep_execPseSupplyFault railMv s
  | pseSupplyRecovery railMv => exact keep_execPseSupplyRecovery railMv s
  | pseDisconnect j => exact keep_execPseDisconnect j s
  | pseFaultWaitExpiry j => exact keep_execPseFaultWaitExpiry j s
  | canFrameRx c kind flags ident data => exact keep_execCanFrameRx c kind flags ident data s
  | canTxComplete c lost => exact keep_execCanTxComplete c lost s
  | canErrorDetected c sending tec rec_ => exact keep_execCanErrorDetected c sending tec rec_ s
  | canRecoverWaitExpiry c => exact keep_execCanRecoverWaitExpiry c s
  | canRecoveryDone c => exact keep_execCanRecoveryDone c s
  | canWakeFrame c pattern errors xtd ident dlc data others x => exact keep_execCanWakeFrame c pattern errors xtd ident dlc data others x s
  | j1939TpPacket c received ident data peer => exact keep_execJ1939TpPacket c received ident data peer s
  | j1939Timeout c peer which sender bam => exact keep_execJ1939Timeout c peer which sender bam s
  | mvbFrameRx c m okA okB => exact keep_execMvbFrameRx c m okA okB s
  | mvbSinkTimeExpiry c port => exact keep_execMvbSinkTimeExpiry c port s
  | mvbBasicPeriod c => exact keep_execMvbBasicPeriod c s
  | mvbMastershipOffer c => exact keep_execMvbMastershipOffer c s
  | mvbMastershipTimeout c => exact keep_execMvbMastershipTimeout c s
  | mvbSilentBus c => exact keep_execMvbSilentBus c s
  | serialMessageRx c err data => exact keep_execSerialMessageRx c err data s
  | modbusResponseTimeout c => exact keep_execModbusResponseTimeout c s
  | serialSilenceTimeout c => exact keep_execSerialSilenceTimeout c s
  | serialCurrentLimit c => exact keep_execSerialCurrentLimit c s
  | serialCurrentClear c => exact keep_execSerialCurrentClear c s
  | linSlotTimer c a => exact keep_execLinSlotTimer c a s
  | linWakeupRx c => exact keep_execLinWakeupRx c s
  | linResumeTimer c => exact keep_execLinResumeTimer c s
  | gpiDebounceExpiry c level overrun => exact keep_execGpiDebounceExpiry c level overrun s
  | gpoReadbackExpiry c level => exact keep_execGpoReadbackExpiry c level s
  | beWatchdog e ecc => exact keep_execBeWatchdog e ecc s
  | beRestartDone e ms levels copyOk => exact keep_execBeRestartDone e ms levels copyOk s
  | gwInputDelivery => exact keep_execGwInputDelivery s
  | gwCycleMark => exact keep_execGwCycleMark s
  | gwCycleExecute issue runUs ecc => exact keep_execGwCycleExecute issue runUs ecc s
  | gwCycleCut => exact keep_execGwCycleCut s
  | lockLeaseExpiry c => exact keep_execLockLeaseExpiry c s
  | gwFetchComplete token data => exact keep_execGwFetchComplete token data s
  | gwFetchTimeout token => exact keep_execGwFetchTimeout token s
  | trdpMrRx domain tcp ip port zone comId seq data => exact keep_execTrdpMrRx domain tcp ip port zone comId seq data s
  | trdpSessionIdle j => exact keep_execTrdpSessionIdle j s
  | coldPowerOn boots => exact keep_execColdPowerOn boots s
  | resetN boots => exact keep_execResetN boots s
  | powerFailWarn mv => exact keep_execPowerFailWarn mv s
  | powerFailEnd mv => exact keep_execPowerFailEnd mv s
  | holdupExhausted mv => exact keep_execHoldupExhausted mv s
  | inputOvervoltage mv => exact keep_execInputOvervoltage mv s
  | railOutOfRange rail mv => exact keep_execRailOutOfRange rail mv s
  | wakePin pin others x => exact keep_execWakePin pin others x s
  | rtcAlarm others x => exact keep_execRtcAlarm others x s
  | autoSleepTimer => exact keep_execAutoSleepTimer s
  | darkAfterTimer => exact keep_execDarkAfterTimer s
  | duskExitRetry x => exact keep_execDuskExitRetry x s
  | tokenRequest c => exact keep_execTokenRequest c s
  | holdupEstimate ms loadDw => exact keep_execHoldupEstimate ms loadDw s
  | nightwatchService => exact keep_execNightwatchService s
  | nightwatchWindowClose => exact keep_execNightwatchWindowClose s
  | lockstepMismatch pair group word => exact keep_execLockstepMismatch pair group word s
  | debugAttach pair => exact keep_execDebugAttach pair s
  | lodestarEccError memory requester addr obj uncorrected => exact keep_execLodestarEccError memory requester addr obj uncorrected s
  | sensorSample id value => exact keep_execSensorSample id value s
  | holdupCapMeasure loadDw v1 v2 => exact keep_execHoldupCapMeasure loadDw v1 v2 s
  | logRecordProgram => exact keep_execLogRecordProgram s
  | memportBurstBoundary mask addr => exact keep_execMemportBurstBoundary mask addr s
  | tamperLatch source x => exact keep_execTamperLatch source x s
  | slotUsersDone n => exact keep_execSlotUsersDone n s
  | islandRequestComplete ecdsa sound answered => exact keep_execIslandRequestComplete ecdsa sound answered s
  | mkpduRx port m => exact keep_execMkpduRx port m s
  | mkaHelloTimer port => exact keep_execMkaHelloTimer port s
  | mkaLifetimeExpiry port => exact keep_execMkaLifetimeExpiry port s
  | spdmRequest t conn q => exact keep_execSpdmRequest t conn q s
  | mctpControl cmd eid => exact keep_execMctpControl cmd eid s
  | signingComplete answered => exact keep_execSigningComplete answered s
  | stagingEraseDone => exact keep_execStagingEraseDone s
  | healthWindowExpiry => exact keep_execHealthWindowExpiry s
  | settleTimer => exact keep_execSettleTimer s
  | journalEraseDone => exact keep_execJournalEraseDone s
  | pairBlockRx b crcOk icvOk diff => exact keep_execPairBlockRx b crcOk icvOk diff s
  | pairResendTimer => exact keep_execPairResendTimer s
  | pairIdleTimer => exact keep_execPairIdleTimer s
  | pairLinkTimeout => exact keep_execPairLinkTimeout s
  | laneFailure lane => exact keep_execLaneFailure lane s
  | cycleCopyComplete => exact keep_execCycleCopyComplete s
  | copyDeadline => exact keep_execCopyDeadline s
  | reexecutionResult cycle ownDiffers partnerDiffers step3 => exact keep_execReexecutionResult cycle ownDiffers partnerDiffers step3 s
  | heartbeatAbsent => exact keep_execHeartbeatAbsent s
  | pairHelloTimer => exact keep_execPairHelloTimer s
  | ttdpHelloRx port f => exact keep_execTtdpHelloRx port f s
  | ttdpHelloTimer => exact keep_execTtdpHelloTimer s
  | ttdpHelloTimeout port => exact keep_execTtdpHelloTimeout port s
  | mrpTestTimer r back => exact keep_execMrpTestTimer r back s
  | mrpFrameRx r port f => exact keep_execMrpFrameRx r port f s
  | bwWindowEnd => exact keep_execBwWindowEnd s
  | lodestarRestartDone badBlocks copyOk => exact keep_execLodestarRestartDone badBlocks copyOk s
  | delayMsExpiry x => exact keep_execDelayMsExpiry x s
  | holdupBankCharged => exact keep_execHoldupBankCharged s
  | supplyBackInRange m mv => exact keep_execSupplyBackInRange m mv s
  | trdpConnectionClose j => exact keep_execTrdpConnectionClose j s
  | spdmTcpConnection e => exact keep_execSpdmTcpConnection e s
  | laneRecovery lane => exact keep_execLaneRecovery lane s
  | pageProgramDone good => exact keep_execPageProgramDone good s
  | debugDetach pair => exact keep_execDebugDetach pair s
  | atuInvalidationComplete => exact keep_execAtuInvalidationComplete s

/-- A step goes on, to a state that is sound if the one it starts from is. -/
theorem step_next_keeps_inv (s : State) : ∃ t, step s = .next t ∧ (Inv s → Inv t) := by
  unfold step
  split
  · exact ⟨s.idle, rfl, (keep_State_idle s (.refl s)).inv⟩
  · next c rest _ =>
    obtain ⟨t, hexec, hkeeps⟩ := exec_goes c { s with pending := rest }
    exact ⟨t, hexec, fun hs => hkeeps.inv ⟨hs.mb, hs.eqs, hs.host, hs.dma, hs.hostMem⟩⟩

/-- Settles O41: a step is one clock or the meaning of one command, and both keep a sound state sound. -/
theorem stepKeepsInv : Obligations.stepKeepsInv := by
  unfold Obligations.stepKeepsInv
  intro s t hs ht
  obtain ⟨u, hu, hkeeps⟩ := step_next_keeps_inv s
  cases hu.symm.trans ht
  exact hkeeps hs

/-- Settles O42: each part of the state after reset is sound. -/
theorem resetInv : Obligations.resetInv :=
  ⟨invMb_reset, rfl, invHost_reset, invDma_reset, rfl⟩

end Sys2Proof.Machine
end

section
/-! PROOFS. The rules of words and of arrays that the rows of H0 use: one bit of a word, one element of a fixed array, one queue and one
ring of the state. -/

namespace Sys2Proof.Machine

/-! ### Bits of a word -/

theorem bit_add_two_pow {x n : Nat} (h : bit x n = false) (m : Nat) : bit (x + 2 ^ n) m = (bit x m || m == n) := by
  unfold bit at h ⊢
  rcases Nat.lt_trichotomy m n with hlt | rfl | hgt
  · rw [Nat.add_comm, Nat.testBit_two_pow_add_gt hlt]
    simp [Nat.ne_of_lt hlt]
  · rw [Nat.add_comm, Nat.testBit_two_pow_add_eq, h]
    simp
  · obtain ⟨k, rfl⟩ := Nat.exists_eq_add_of_le' hgt
    have heven : x / 2 ^ n % 2 = 0 := by
      rw [Nat.testBit_eq_decide_div_mod_eq] at h
      simpa using h
    have hsame : (x + 2 ^ n) / 2 ^ (n + 1) = x / 2 ^ (n + 1) := by
      rw [Nat.pow_succ, ← Nat.div_div_eq_div_mul, ← Nat.div_div_eq_div_mul, Nat.add_div_right _ (Nat.two_pow_pos n)]
      omega
    have hne : k + (n + 1) ≠ n := by omega
    rw [Nat.testBit_add, hsame, ← Nat.testBit_add]
    simp [hne]

/-- A word with one bit given reads that bit as given and every other bit as before. -/
theorem bit_withBit (x n : Nat) (b : Bool) (m : Nat) : bit (withBit x n b) m = if m = n then b else bit x m := by
  unfold withBit
  split
  · next hsame =>
    split
    · next heq => rw [heq, hsame]
    · rfl
  · next hdiff =>
    cases b with
    | true =>
      rw [if_pos rfl, bit_add_two_pow (by simpa using hdiff)]
      split <;> simp [*]
    | false =>
      have hset : bit x n = true := by simpa using hdiff
      obtain ⟨y, rfl⟩ := Nat.exists_eq_add_of_le (Nat.ge_two_pow_of_testBit hset)
      have hclear : bit y n = false := by simpa [bit, Nat.testBit_two_pow_add_eq] using hset
      rw [if_neg Bool.false_ne_true, Nat.add_sub_cancel_left, Nat.add_comm, bit_add_two_pow hclear]
      split <;> simp [*]

/-- A field above a bit does not see it. -/
theorem bits_withBit_of_lt {n lo : Nat} (h : n < lo) (x hi : Nat) (b : Bool) : bits (withBit x n b) hi lo = bits x hi lo := by
  have hshift : withBit x n b >>> lo = x >>> lo := by
    refine Nat.eq_of_testBit_eq fun i => ?_
    rw [Nat.testBit_shiftRight, Nat.testBit_shiftRight]
    have hbit := bit_withBit x n b (lo + i)
    rwa [if_neg (by omega)] at hbit
  unfold bits
  rw [hshift]

/-! ### Elements of a fixed array -/

theorem at'_modify_same {α : Type} {l : List α} {k : Nat} (h : k < l.length) (f : α → α) (d : α) : at' (l.modify k f) k d = f (at' l k d) := by
  simp [at', h]

theorem at'_modify_ne {α : Type} {j k : Nat} (h : j ≠ k) (l : List α) (f : α → α) (d : α) : at' (l.modify k f) j d = at' l j d := by
  simp [at', List.getD_eq_getElem?_getD, Ne.symm h]

theorem at'_replicate {α : Type} (n k : Nat) (d : α) : at' (List.replicate n d) k d = d := by
  rw [at', List.getD_eq_getElem?_getD, List.getElem?_replicate]
  split <;> rfl

/-- Two changes that agree on the element agree on the array. -/
theorem modify_congr_at' {α : Type} {l : List α} {k : Nat} {f g : α → α} (d : α) (h : f (at' l k d) = g (at' l k d)) : l.modify k f = l.modify k g := by
  refine List.ext_getElem (by simp) fun i hi _ => ?_
  rw [List.length_modify] at hi
  rw [List.getElem_modify, List.getElem_modify]
  split
  · next hik =>
    subst hik
    simpa [at', hi] using h
  · rfl

/-- A fold whose steps all leave the start as it is. -/
theorem foldl_of_fixed {σ α : Type} {f : σ → α → σ} {s : σ} {l : List α} (h : ∀ x ∈ l, f s x = s) : l.foldl f s = s := by
  induction l with
  | nil => rfl
  | cons x l ih =>
    rw [List.foldl_cons, h x (by simp)]
    exact ih fun y hy => h y (by simp [hy])

/-! ### One queue, one ring -/

section
variable {s : State} {j k : Nat}

theorem State.eq_modEq_same (h : k < s.eqs.length) (f : EvQueue → EvQueue) : (s.modEq k f).eq k = f (s.eq k) := at'_modify_same h f {}

theorem State.eq_modEq_ne (h : j ≠ k) (f : EvQueue → EvQueue) : (s.modEq k f).eq j = s.eq j := at'_modify_ne h s.eqs f {}

theorem State.modEq_congr {f g : EvQueue → EvQueue} (h : f (s.eq k) = g (s.eq k)) : s.modEq k f = s.modEq k g := by
  unfold State.modEq
  rw [modify_congr_at' {} h]

theorem State.modEq_of_fixed {f : EvQueue → EvQueue} (h : f (s.eq k) = s.eq k) : s.modEq k f = s := by
  rw [State.modEq_congr (g := id) h, State.modEq, List.modify_id]

theorem State.ring_modRing_same (h : k < s.dma.rings.length) (f : Ring → Ring) : (s.modRing k f).ring k = f (s.ring k) := at'_modify_same h f {}

theorem State.ring_modRing_ne (h : j ≠ k) (f : Ring → Ring) : (s.modRing k f).ring j = s.ring j := at'_modify_ne h s.dma.rings f {}

theorem State.modRing_congr {f g : Ring → Ring} (h : f (s.ring k) = g (s.ring k)) : s.modRing k f = s.modRing k g := by
  unfold State.modRing
  rw [modify_congr_at' {} h]

theorem State.modRing_of_fixed {f : Ring → Ring} (h : f (s.ring k) = s.ring k) : s.modRing k f = s := by
  rw [State.modRing_congr (g := id) h, State.modRing, List.modify_id]

end

/-! ### What an interrupt and the clock leave alone -/

/-- A vector that is raised is pending or sent (R45). -/
theorem raiseVec_next (s : State) (v : Nat) :
    ∃ pend sent, raiseVec s v = s.modHost fun h => { h with msixPend := pend, msixSent := sent } := by
  unfold raiseVec
  dsimp only
  split
  · exact ⟨_, s.host.msixSent, rfl⟩
  · exact ⟨s.host.msixPend, _, rfl⟩

/-- Raising a vector changes H0 alone. -/
theorem raiseVec_eq (s : State) (v : Nat) : raiseVec s v = { s with host := (raiseVec s v).host } := by
  obtain ⟨pend, sent, h⟩ := raiseVec_next s v
  exact h.trans (congrArg (fun t : State => { s with host := t.host }) h.symm)

/-- Raising a vector does not look at the mailboxes. -/
theorem raiseVec_modMb (s : State) (f : Mailbox → Mailbox) (v : Nat) : raiseVec (s.modMb f) v = (raiseVec s v).modMb f := by
  unfold raiseVec
  dsimp only
  rw [apply_ite (fun t : State => t.modMb f)]
  rfl

/-- The performance counters move with the frame heads that their clocks owe, and no other register of H0 (R57, R627). -/
theorem perfHost_eq (h : HostLink) (code n : Nat) : ∃ debt perf, perfHost h code n = { h with headDebt := debt, perf := perf } := by
  unfold perfHost
  dsimp only
  split <;> split <;> exact ⟨_, _, rfl⟩

/-- The clock of H0 moves `PERF_CYCLE` and the performance counters alone. -/
theorem clockHost_eq (h : HostLink) (n : Nat) :
    ∃ cycle debt perf, clockHost h n = { h with perfCycle := cycle, headDebt := debt, perf := perf } := by
  let ticked : HostLink := { h with perfCycle := wrapAdd 64 h.perfCycle n, headDebt := h.headDebt - n }
  obtain ⟨_, _, hclock⟩ := perfHost_eq ticked 1 n
  obtain ⟨debt, perf, hidle⟩ := perfHost_eq (perfHost ticked 1 n) 3 (n - h.headDebt)
  rw [hclock] at hidle
  exact ⟨ticked.perfCycle, debt, perf, (congrArg (perfHost · 3 (n - h.headDebt)) hclock).trans hidle⟩

/-- The passage of time moves the counters of H0 alone among its registers. -/
theorem State.later_host (s : State) (n : Nat) :
    ∃ cycle debt perf, (s.later n).host = { s.host with perfCycle := cycle, headDebt := debt, perf := perf } := by
  unfold State.later
  split
  · exact ⟨_, _, _, rfl⟩
  · exact clockHost_eq _ _

end Sys2Proof.Machine
end

section
/-! PROOFS. The state after reset, accesses through ATU context 0, and the latch of the Meridian time. -/

namespace Sys2Proof.Machine

/-! ### The state after reset -/

/-- Every queue is off after reset, with the least size; so is one that does not exist. -/
theorem reset_queue : ∀ q, (State.reset.eq q).en = false ∧ (State.reset.eq q).log2 = 6
  | 0 | 1 | 2 | 3 | _ + 4 => ⟨rfl, rfl⟩

theorem reset_ring (k : Nat) : State.reset.ring k = {} := at'_replicate 64 k ({} : Ring)

/-- Settles O43: the reset values stand in the state's defaults. -/
theorem resetValues : Obligations.resetValues := by
  unfold Obligations.resetValues
  refine ⟨rfl, rfl, fun ty => ⟨rfl, rfl⟩, fun e _ => rfl, fun q _ => reset_queue q, fun k _ => congrArg Ring.en (reset_ring k), rfl, rfl, rfl⟩

/-! ### Context 0 (R62, R130) -/

/-- Context 0 answers no access below 2⁴⁸: the fault is counted and nothing is looked up. -/
theorem translate_context_zero {iova : Nat} (h : iova < 2 ^ 48) (s : State) (write : Bool) :
    translate s 0 iova write = { res := .error .ctxInvalid, st := countFault s 0 } := by
  unfold translate
  rw [if_neg (by omega), if_pos (.inl rfl)]

/-- A read that faults at its first address ends there. -/
theorem readHost_of_fault {s : State} {ctx iova n : Nat} {a : Access} {f : FaultCause} (hn : 0 < n) (ha : translate s ctx iova false = a)
    (hf : a.res = .error f) : readHost s ctx iova n = { st := a.st, fault := some (f, 0) } := by
  unfold readHost dmaRead
  simp only [ha, hf, if_neg (Nat.ne_of_gt hn)]

/-- A write that faults at its first address ends there. -/
theorem writeHost_of_fault {s : State} {ctx iova : Nat} {p : List Byte} {a : Access} {f : FaultCause} (hp : p ≠ []) (ha : translate s ctx iova true = a)
    (hf : a.res = .error f) : writeHost s ctx iova p = { st := a.st, fault := some (f, 0) } := by
  unfold writeHost dmaWrite
  simp [ha, hf, hp]

/-- Settles O54: the translation refuses context 0 before it looks at the IOTLB or the tables. -/
theorem contextZeroFaults : Obligations.contextZeroFaults := by
  unfold Obligations.contextZeroFaults
  intro s iova n p hiova hn hp
  rw [readHost_of_fault hn (translate_context_zero hiova s false) rfl, writeHost_of_fault hp (translate_context_zero hiova s true) rfl]
  exact ⟨rfl, rfl, rfl, rfl, rfl, rfl⟩

/-! ### The latch at `MER_TIME_LO` (R50, R56) -/

theorem readReg_merTimeHi (s : State) : readReg s 0x204 = s.host.merHi := rfl

theorem readReg_merRawLo (s : State) : readReg s 0x208 = s.host.merRawLo := rfl

theorem readReg_merRawHi (s : State) : readReg s 0x20C = s.host.merRawHi := rfl

/-- A read of `MER_TIME_LO` latches the other halves. -/
theorem exec_merTimeLoRead {s : State} (h : awake s = true) :
    exec .merTimeLoRead s = .next (s.modHost fun h => { h with
      merHi := s.now / 2 ^ 32 % 2 ^ 32, merRawLo := s.time.raw % 2 ^ 32, merRawHi := s.time.raw / 2 ^ 32 % 2 ^ 32 }) :=
  congrArg _ (if_neg (by simp [h]))

/-- The latches of the Meridian time stand still while time passes. -/
theorem later_keeps_merLatch (s : State) (n : Nat) :
    readReg (s.later n) 0x204 = readReg s 0x204 ∧ readReg (s.later n) 0x208 = readReg s 0x208 ∧ readReg (s.later n) 0x20C = readReg s 0x20C := by
  obtain ⟨cycle, debt, perf, hhost⟩ := s.later_host n
  simp only [readReg_merTimeHi, readReg_merRawLo, readReg_merRawHi, hhost, and_self]

/-- Settles O58: the read latches the halves, and the clock does not move them. -/
theorem merTimeLatch : Obligations.merTimeLatch := by
  unfold Obligations.merTimeLatch
  intro s h
  refine ⟨_, exec_merTimeLoRead h, rfl, rfl, rfl, later_keeps_merLatch _, rfl, rfl, rfl, rfl, rfl, rfl, ?_⟩
  constructor <;> rfl

end Sys2Proof.Machine
end

section
/-! PROOFS. Register writes dword by dword, and the mailbox windows as the host and the device write them. -/

namespace Sys2Proof.Machine

/-! ### A write of one dword (R46, R48) -/

section
variable {s : State} (hawake : awake s = true)
include hawake

/-- A write of up to 16 dwords acts dword by dword from its aligned offset. -/
theorem exec_registerWrite {ds : List (Nat × Nat)} (hlen : ds.length ≤ 16) (bar off : Nat) :
    exec (.registerWrite bar off ds) s = .next (writeDwords bar ds (off / 4 * 4) s) :=
  congrArg _ (if_neg (by simp [hawake, hlen]))

theorem exec_registerWrite_dword {off : Nat} (haligned : off % 4 = 0) (bar v be : Nat) :
    exec (.registerWrite bar off [(v, be)]) s = .next (writeDword s bar off v be) := by
  rw [exec_registerWrite hawake (by simp), Nat.div_mul_cancel (Nat.dvd_of_mod_eq_zero haligned)]
  rfl

/-- A whole dword written below the mailbox windows acts on the register there. -/
theorem exec_registerWrite_reg {off v : Nat} (haligned : off % 4 = 0) (hoff : off < 0x8000) (hv : v < 2 ^ 32) :
    exec (.registerWrite 0 off [(v, 15)]) s = .next (writeReg s off v) := by
  rw [exec_registerWrite_dword hawake haligned]
  unfold writeDword
  rw [if_neg (by omega), if_neg (by decide), if_pos rfl, Nat.mod_eq_of_lt hv]

end

/-! ### Bytes of a mailbox window (R70, R71) -/

/-- Byte `o` of the window of mailbox `n`: the request area of an idle mailbox takes it. -/
theorem writeWindow_eq {n o : Nat} (hn : n ≤ 7) (ho : o < 4096) (s : State) (b : Byte) :
    writeWindow s (n * 4096 + o) b =
      if 2048 ≤ o ∨ bit s.mb.ring n then s else s.modMb fun m => { m with windows := mset m.windows (n * 4096 + o) b } := by
  have hmailbox : (n * 4096 + o) / 4096 = n := by omega
  have hbyte : (n * 4096 + o) % 4096 = o := Nat.mul_add_mod_of_lt ho
  have hwindow : ¬ 32768 ≤ n * 4096 + o := by omega
  unfold writeWindow
  simp only [hmailbox, hbyte, hwindow, false_or, sourceBusy, Nat.lt_succ_of_le hn, if_true]

section
variable {s : State} {n off : Nat} (hawake : awake s = true) (hn : n ≤ 7) (hoff : off < 4096) (haligned : off % 4 = 0)
include hawake hn hoff haligned

/-- A dword written into a mailbox window acts byte by byte, as its byte enables say. -/
theorem exec_windowWrite (v be : Nat) :
    exec (.registerWrite 0 (0x8000 + n * 4096 + off) [(v, be)]) s =
      .next ((List.range 4).foldl (fun s i => if bit be i then writeWindow s (n * 4096 + (off + i)) (BitVec.ofNat 8 (v / 256 ^ i)) else s) s) := by
  rw [exec_registerWrite_dword hawake (by omega)]
  unfold writeDword
  rw [if_pos ⟨rfl, by omega⟩, show 0x8000 + n * 4096 + off - 0x8000 = n * 4096 + off by omega]
  simp only [Nat.add_assoc]

/-- The request area of a busy mailbox and every completion area take nothing. -/
theorem exec_windowWrite_of_locked (hlocked : bit s.mb.ring n = true ∨ 2048 ≤ off) (v be : Nat) :
    exec (.registerWrite 0 (0x8000 + n * 4096 + off) [(v, be)]) s = .next s := by
  have hbyte : ∀ i < 4, ∀ b, writeWindow s (n * 4096 + (off + i)) b = s := fun i hi b => by
    rw [writeWindow_eq hn (by omega), if_pos (hlocked.symm.imp_left fun h => by omega)]
  rw [exec_windowWrite hawake hn hoff haligned, foldl_of_fixed fun i hi => ?_]
  rw [hbyte i (List.mem_range.1 hi), ite_self]

/-- The lowest byte of a dword of an idle mailbox's request area is written alone. -/
theorem exec_windowWrite_of_idle (hidle : bit s.mb.ring n = false) (hreq : off < 2048) (v : Nat) :
    exec (.registerWrite 0 (0x8000 + n * 4096 + off) [(v, 1)]) s =
      .next (s.modMb fun m => { m with windows := mset m.windows (n * 4096 + off) (BitVec.ofNat 8 v) }) := by
  have hbyte := writeWindow_eq hn hoff s (BitVec.ofNat 8 v)
  rw [if_neg (by simp [hidle, hreq])] at hbyte
  have hlanes : ∀ i ∈ [1, 2, 3], bit 1 i = false := by decide
  rw [exec_windowWrite hawake hn hoff haligned, ← hbyte, show List.range 4 = 0 :: [1, 2, 3] from rfl, List.foldl_cons,
    foldl_of_fixed fun i hi => by rw [hlanes i hi]; rfl]
  simp [bit]

end

/-- Settles O47: the window takes a byte only in the request area of an idle mailbox. -/
theorem windowWrites : Obligations.windowWrites := by
  unfold Obligations.windowWrites
  intro s n off v hawake hn hoff haligned
  refine ⟨fun hlocked => exec_windowWrite_of_locked hawake hn hoff haligned hlocked v 15, fun hidle hreq => ?_⟩
  exact ⟨_, exec_windowWrite_of_idle hawake hn hoff haligned hidle hreq v, rfl, mget_mset_same _ _ _, fun a ha => mget_mset_other _ _ ha⟩

/-! ### A completion in its window (R55, R70, R76) -/

theorem le_length (n x : Nat) : (le n x).length = n := by
  induction n generalizing x with
  | zero => rfl
  | succ n ih => rw [le, List.length_cons, ih]

theorem completionHeader_length (s : State) (c : Cmd) (k : Completion) : (completionHeader s c k).length = 32 := by
  simp [completionHeader, le_length]

/-- Two strings written one after the other. -/
theorem mwrite_append (m : Mem) (a : Nat) (p q : List Byte) : mwrite m a (p ++ q) = mwrite (mwrite m a p) (a + p.length) q := by
  induction p generalizing m a with
  | nil => rfl
  | cons b p ih =>
    rw [List.cons_append, mwrite, ih, mwrite, List.length_cons]
    congr 1
    omega

/-- A string read before one that is written reads as before. -/
theorem mread_mwrite_of_le (m : Mem) {a b n : Nat} (p : List Byte) (h : b + n ≤ a) : mread (mwrite m a p) b n = mread m b n := by
  induction n generalizing b with
  | zero => rfl
  | succ n ih => rw [mread, mread, ih (by omega), mget_mwrite_other _ _ _ (.inl (by omega))]

/-- The completion of a mailbox command changes its window, its two bits and, with `MB_IRQ` enabled, the vector. -/
theorem writeCompletion_of_mailbox {c : Cmd} (h : c.req.src ≤ 7) (s : State) (k : Completion) (out : List Byte) :
    writeCompletion s c k out = { s with
      mb := { s.mb with
        windows := mwrite s.mb.windows (c.req.src * 4096 + 2048) (completionHeader s c k ++ k.payload)
        done := withBit s.mb.done c.req.src true, ring := withBit s.mb.ring c.req.src false }
      host := if s.mb.irqEn then (raiseVec s s.mb.irqVec).host else s.host } := by
  unfold writeCompletion
  rw [if_pos (Nat.lt_succ_of_le h)]
  cases s.mb.irqEn with
  | false => rfl
  | true =>
    rw [if_pos rfl, if_pos rfl, raiseVec_modMb, raiseVec_eq]
    rfl

theorem mread_mwrite_append_left (m : Mem) (a : Nat) (p q : List Byte) : mread (mwrite m a (p ++ q)) a p.length = p := by
  rw [mwrite_append, mread_mwrite_of_le _ _ (Nat.le_refl _)]
  exact mread_mwrite m a p

theorem mread_mwrite_append_right (m : Mem) (a : Nat) (p q : List Byte) : mread (mwrite m a (p ++ q)) (a + p.length) q.length = q := by
  rw [mwrite_append]
  exact mread_mwrite _ _ q

/-- Settles O46: the completion is one write of header and payload, of which either part reads back. -/
theorem completionWritten : Obligations.completionWritten := by
  unfold Obligations.completionWritten
  intro s c k hsrc _
  have hlength := completionHeader_length s c k
  refine ⟨_, rfl, ?_⟩
  rw [writeCompletion_of_mailbox hsrc]
  generalize completionHeader s c k = header at hlength ⊢
  refine ⟨?header, ?payload, ?others, ?done, ?ring, ?masked, ?raised, rfl, rfl, rfl, rfl, ?_⟩
  case header =>
    rw [← hlength]
    exact mread_mwrite_append_left _ _ _ _
  case payload =>
    have hright := mread_mwrite_append_right s.mb.windows (c.req.src * 4096 + 2048) header k.payload
    rwa [hlength] at hright
  case others =>
    intro a ha
    refine mget_mwrite_other _ _ _ (ha.imp_right fun h => ?_)
    rw [List.length_append, hlength, ← Nat.add_assoc]
    exact h
  case done =>
    intro n
    rw [bit_withBit]
    split <;> simp [*]
  case ring =>
    intro n
    rw [bit_withBit]
    split <;> simp [*]
  case masked => exact fun hirq => by simp [hirq]
  case raised => exact fun hirq => by simp [hirq]
  constructor <;> rfl

end Sys2Proof.Machine
end

section
/-! PROOFS. The event queues: what the rows that write records and the rows that write registers answer (R59, R107 to R114). -/

namespace Sys2Proof.Machine

/-! ### Records -/

section
variable {s : State} {q : Nat} (hq : q ≤ 3) (hawake : awake s = true)
include hq hawake

/-- The oldest record of a queue is written while room is left beside the slot of EQ_OVERFLOW, and else lost. -/
theorem exec_eventRecordWrite_cons {seq : Nat} {r : EvRec} {rest : List (Nat × EvRec)} (hen : (s.eq q).en = true) (hd0 : s.host.d3hot = false)
    (hfirst : (s.eq q).toWrite = (seq, r) :: rest) (htype : r.type ≠ 4) :
    exec (.eventRecordWrite q) s =
      if unconsumed (s.eq q) + 2 < 2 ^ (s.eq q).log2
      then .next (writeRecord ((s.modEq q fun e => { e with toWrite := rest }).modEq q fun e => { e with lossRun := false }) q seq r)
      else .next (loseRecord (s.modEq q fun e => { e with toWrite := rest }) q seq) := by
  change execEventRecordWrite q s = _
  unfold execEventRecordWrite
  dsimp only
  rw [if_neg (by simp [hen, hd0, hawake, Nat.not_lt.2 hq]), hfirst]
  exact if_neg htype

theorem exec_eqCoalesceTimeout (hen : (s.eq q).en = true) (hirq : (s.eq q).irqEn = true) (hunsig : (s.eq q).unsig ≠ 0) :
    exec (.eqCoalesceTimeout q) s = .next (signal (laterFrom s (oldestAt (s.eq q) s.time.raw) (usCounts (s.eq q).coalUs)) q) := by
  change execEqCoalesceTimeout q s = _
  unfold execEqCoalesceTimeout
  dsimp only
  rw [if_neg (by simp [hen, hirq, hunsig, hawake, Nat.not_lt.2 hq])]

/-! ### Registers -/

theorem exec_eqEnable (v : Nat) : exec (.eqEnable q v) s = .next (writeEqCtrl s q (withBit v 0 true)) :=
  congrArg _ (if_neg (by simp [hawake, Nat.not_lt.2 hq]))

theorem exec_eqHeadWrite (v : Nat) : exec (.eqHeadWrite q v) s = .next (writeEqHead s q v) :=
  congrArg _ (if_neg (by simp [hawake, Nat.not_lt.2 hq]))

theorem exec_eqStatusClear (v : Nat) : exec (.eqStatusClear q v) s = .next (writeEqStatus s q v) :=
  congrArg _ (if_neg (by simp [hawake, Nat.not_lt.2 hq]))

end

section
variable {s : State} {q v : Nat}

/-- A write of `EQ_CTRL` that sets `EN` of a queue that was off starts it, unless its context is 0 (R49, R107). -/
theorem writeEqCtrl_of_off (hoff : (s.eq q).en = false) (hv : bit v 0 = true) (hctx : bits v 21 16 ≠ 0) (hq : q < s.eqs.length) :
    writeEqCtrl s q v = signal (enableEq (s.modEq q fun e => { e with irqEn := bit v 1, vec := bits v 13 8, ctx := bits v 21 16 }) q) q := by
  unfold writeEqCtrl
  simp only [hoff, hv, Bool.false_eq_true, if_false, State.eq_modEq_same hq, true_and, if_pos hctx]

/-- A write of `EQ_CTRL` that leaves `EN` of an enabled queue set keeps its context. -/
theorem writeEqCtrl_of_on (hon : (s.eq q).en = true) (hv : bit v 0 = true) :
    writeEqCtrl s q v = signal (s.modEq q fun e => { e with irqEn := bit v 1, vec := bits v 13 8 }) q := by
  unfold writeEqCtrl
  simp only [hon, hv, if_true]

end

/-- Settles O34: each row as its own lemma says, with the fields of `EQ_CTRL` above the bit that EQ_ENABLE sets. -/
theorem eventRowsComplete : Obligations.eventRowsComplete := by
  unfold Obligations.eventRowsComplete
  intro q v s hq hawake
  have henbit : bit (withBit v 0 true) 0 = true := bit_withBit v 0 true 0
  have hirqEn : bit (withBit v 0 true) 1 = bit v 1 := bit_withBit v 0 true 1
  have hfield : ∀ hi lo, 0 < lo → bits (withBit v 0 true) hi lo = bits v hi lo := fun hi lo h => bits_withBit_of_lt h v hi true
  refine ⟨fun seq r rest hen hd0 hfirst htype => ⟨?room, ?full⟩, ?coalesce, ?starts, ?stays, ?head, ?status⟩
  case room => exact fun hroom => (exec_eventRecordWrite_cons hq hawake hen hd0 hfirst htype).trans (if_pos hroom)
  case full => exact fun hfull => (exec_eventRecordWrite_cons hq hawake hen hd0 hfirst htype).trans (if_neg (Nat.not_lt.2 hfull))
  case coalesce => exact exec_eqCoalesceTimeout hq hawake
  case starts =>
    intro hoff hctx hlen
    rw [← hfield 21 16 (by decide)] at hctx
    rw [exec_eqEnable hq hawake, writeEqCtrl_of_off hoff henbit hctx hlen, hirqEn, hfield 13 8 (by decide), hfield 21 16 (by decide)]
  case stays =>
    intro hon
    rw [exec_eqEnable hq hawake, writeEqCtrl_of_on hon henbit, hirqEn, hfield 13 8 (by decide)]
  case head => exact exec_eqHeadWrite hq hawake v
  case status => exact exec_eqStatusClear hq hawake v

end Sys2Proof.Machine
end

section
/-! PROOFS. The lock of `EN` on the base and size of queues and rings (R48). -/

namespace Sys2Proof.Machine

section
variable {s : State} {n o : Nat} (v : Nat)

/-- The register blocks of the queues follow each other from 0x400. -/
theorem writeReg_queue (hn : n ≤ 3) (ho : o < 0x40) : writeReg s (0x400 + n * 0x40 + o) v = writeEq s n o v := by
  have hblock : (0x400 + n * 0x40 + o - 0x400) / 0x40 = n := by omega
  have hreg : (0x400 + n * 0x40 + o) % 0x40 = o := by omega
  unfold writeReg
  rw [if_neg (by omega), if_pos (by omega), hblock, hreg]

/-- The register blocks of the rings follow each other from 0x1000. -/
theorem writeReg_ring (hn : n ≤ 63) (ho : o < 0x40) : writeReg s (0x1000 + n * 0x40 + o) v = writeRing s n o v := by
  have hblock : (0x1000 + n * 0x40 + o - 0x1000) / 0x40 = n := by omega
  have hreg : (0x1000 + n * 0x40 + o) % 0x40 = o := by omega
  unfold writeReg
  rw [if_neg (by omega), if_neg (by omega), if_neg (by omega), if_pos (by omega), hblock, hreg]

theorem writeEqCfg_of_on (hon : (s.eq n).en = true) (reg : Nat) : writeEqCfg s n reg v = s := State.modEq_of_fixed (if_pos hon)

theorem writeEq_of_on (hon : (s.eq n).en = true) (hreg : o = 0 ∨ o = 4 ∨ o = 8) : writeEq s n o v = s := by
  obtain rfl | rfl | rfl := hreg
  · exact writeEqCfg_of_on v hon 0
  · exact writeEqCfg_of_on v hon 1
  · exact writeEqCfg_of_on v hon 2

theorem writeEqCfg_size_of_off (hoff : (s.eq n).en = false) :
    writeEqCfg s n 2 v = s.modEq n fun e => { e with log2 := clampTo 6 16 (bits v 4 0) } :=
  State.modEq_congr (if_neg (by simp [hoff]))

theorem writeRingCfg_of_on (hon : (s.ring n).en = true) (reg : Nat) : writeRingCfg s n reg v = s := State.modRing_of_fixed (if_pos hon)

theorem writeRing_of_on (hon : (s.ring n).en = true) (hreg : o = 0 ∨ o = 4 ∨ o = 8 ∨ o = 0x18) : writeRing s n o v = s := by
  obtain rfl | rfl | rfl | rfl := hreg
  · exact writeRingCfg_of_on v hon 0
  · exact writeRingCfg_of_on v hon 1
  · exact writeRingCfg_of_on v hon 2
  · exact writeRingCfg_of_on v hon 3

theorem writeRingCfg_size_of_off (hoff : (s.ring n).en = false) :
    writeRingCfg s n 2 v = s.modRing n fun r => { r with log2 := clampTo 6 15 (bits v 4 0) } :=
  State.modRing_congr (if_neg (by simp [hoff]))

end

/-- Settles O57: an enabled block keeps its fields, and the size of another takes the clamped value. -/
theorem enabledFieldsLocked : Obligations.enabledFieldsLocked := by
  unfold Obligations.enabledFieldsLocked
  intro s n v hawake hv
  refine ⟨?queueOn, ?queueOff, ?ringOn, ?ringOff⟩
  case queueOn =>
    intro hn hon off hreg
    rw [exec_registerWrite_reg hawake (by omega) (by omega) hv, writeReg_queue v hn (by omega), writeEq_of_on v hon hreg]
  case queueOff =>
    intro hn hoff hlen
    rw [exec_registerWrite_reg hawake (by omega) (by omega) hv, writeReg_queue v hn (by omega)]
    exact ⟨_, congrArg _ (writeEqCfg_size_of_off v hoff), State.eq_modEq_same (by omega) _, fun j hj => State.eq_modEq_ne hj _⟩
  case ringOn =>
    intro hn hon off hreg
    rw [exec_registerWrite_reg hawake (by omega) (by omega) hv, writeReg_ring v hn (by omega), writeRing_of_on v hon hreg]
  case ringOff =>
    intro hn hoff hlen
    rw [exec_registerWrite_reg hawake (by omega) (by omega) hv, writeReg_ring v hn (by omega)]
    exact ⟨_, congrArg _ (writeRingCfg_size_of_off v hoff), State.ring_modRing_same (by omega) _, fun j hj => State.ring_modRing_ne hj _⟩

end Sys2Proof.Machine
end

section
/-! PROOFS. The registers of H0: latches, MSI-X, ATU registers, the bandwidth window and the registers below 0x400 (R45 to R64, R629). -/

namespace Sys2Proof.Machine

/-! ### Latches and MSI-X (R45, R50) -/

/-- The registers of H0 with vector `i` unmasked. -/
def unmasked (i : Nat) (h : HostLink) : HostLink := { h with msix := h.msix.modify i fun e => { e with mask := false } }

section
variable {s : State} (hawake : awake s = true)
include hawake

theorem exec_perfCycleLoRead :
    exec .perfCycleLoRead s = .next (s.modHost fun h => { h with perfHi := h.perfCycle / 2 ^ 32 % 2 ^ 32 }) :=
  congrArg _ (if_neg (by simp [hawake]))

theorem exec_bwBytesLoRead :
    exec .bwBytesLoRead s = .next (s.modHost fun h => { h with
      bwLatchHi := h.bwBytes / 2 ^ 32 % 2 ^ 32, bwLatchFr := h.bwFrames, bwLatchSeq := h.bwSeq }) :=
  congrArg _ (if_neg (by simp [hawake]))

/-- Unmasking a vector clears its mask bit, and a pending message then goes out. -/
theorem exec_msixVectorUnmask {i : Nat} (hi : i ≤ 63) :
    exec (.msixVectorUnmask i) s =
      .next (sendPending (s.modHost (unmasked i)) i) :=
  congrArg _ (if_neg (by simp [hawake, Nat.not_lt.2 hi]))

end

theorem sendPending_of_pending {s : State} {i : Nat} (hpend : bit s.host.msixPend i = true) (hmask : (at' s.host.msix i {}).mask = false)
    (hd0 : s.host.d3hot = false) :
    sendPending s i = s.modHost fun h => { h with msixPend := withBit h.msixPend i false, msixSent := tmod h.msixSent i 0 (· + 1) } := by
  unfold sendPending
  rw [if_pos (by simp [hpend, hmask, hd0])]

theorem sendPending_of_none {s : State} {i : Nat} (hpend : bit s.host.msixPend i = false) : sendPending s i = s := by
  unfold sendPending
  rw [if_neg (by simp [hpend])]

/-! ### ATU registers (R62 to R64) -/

theorem State.modAtu_of_fixed {s : State} {f : Atu → Atu} (h : f s.dma.atu = s.dma.atu) : s.modAtu f = s := by
  unfold State.modAtu
  rw [h]

theorem State.modAtu_congr {s : State} {f g : Atu → Atu} (h : f s.dma.atu = g s.dma.atu) : s.modAtu f = s.modAtu g := by
  unfold State.modAtu
  rw [h]

section
variable {s : State} (hawake : awake s = true)
include hawake

theorem exec_atuInvalidate (v : Nat) : exec (.atuInvalidate v) s = .next (writeAtuInv s (withBit v 0 true)) :=
  congrArg _ (if_neg (by simp [hawake]))

theorem exec_atuInvalidate_of_busy (hgo : s.dma.atu.go = true) (v : Nat) : exec (.atuInvalidate v) s = .next s := by
  rw [exec_atuInvalidate hawake]
  exact congrArg _ (State.modAtu_of_fixed (if_pos hgo))

theorem exec_atuInvalidate_of_idle (hgo : s.dma.atu.go = false) (v : Nat) :
    exec (.atuInvalidate v) s = .next (s.modAtu fun a => invalidate { a with
      scope := if bits v 2 1 = 3 then a.scope else bits v 2 1, invCtx := clampTo 1 63 (bits v 13 8), go := true }) := by
  have hgoBit : bit (withBit v 0 true) 0 = true := bit_withBit v 0 true 0
  rw [exec_atuInvalidate hawake]
  unfold writeAtuInv
  refine congrArg _ (State.modAtu_congr ?_)
  simp only [hgo, hgoBit, Bool.false_eq_true, if_false, if_true, bits_withBit_of_lt Nat.zero_lt_one, bits_withBit_of_lt (show 0 < 8 by decide)]

theorem exec_atuInvalidationComplete (hgo : s.dma.atu.go = true) :
    exec .atuInvalidationComplete s =
      .next (s.modAtu fun a => { invalidate a with go := false, invals := satAdd 32 (invalidate a).invals 1 }) :=
  congrArg _ (if_neg (by simp [hawake, hgo]))

theorem exec_atuContextWrite {c off : Nat} (hc : 1 ≤ c) (hc' : c ≤ 63) (hoff : off = 0 ∨ off = 4 ∨ off = 8) (v : Nat) :
    exec (.atuContextWrite c off v) s = .next (writeAtuCtx s c off v) := by
  change execAtuContextWrite c off v s = _
  unfold execAtuContextWrite
  rw [if_neg (by simp [hawake]; omega)]

theorem exec_atuCtxStatusClear {c : Nat} (hc : 1 ≤ c) (hc' : c ≤ 63) (v : Nat) :
    exec (.atuCtxStatusClear c v) s = .next (clearAtuStatus s c v) := by
  change execAtuCtxStatusClear c v s = _
  unfold execAtuCtxStatusClear
  rw [if_neg (by simp [hawake]; omega)]

end

/-! ### The bandwidth window (R57, R58, R629) -/

theorem b2n_injective {a b : Bool} (h : b2n a = b2n b) : a = b := by
  revert h
  cases a <;> cases b <;> decide

theorem packWord_three (x y z : Nat) : packWord [(x, 0), (y, 16), (z, 24)] = x * 2 ^ 0 + (y * 2 ^ 16 + (z * 2 ^ 24 + 0)) := by
  unfold packWord
  rw [List.map_cons, List.map_cons, List.map_cons, List.map_nil, List.sum_cons, List.sum_cons, List.sum_cons, List.sum_nil]

/-- Three fields packed at bits 0, 16 and 24 are those of the word. -/
theorem packWord_three_injective {a b p q d e : Nat} (ha : a < 2 ^ 16) (hb : b < 2 ^ 16) (hp : p < 2 ^ 8) (hq : q < 2 ^ 8)
    (h : packWord [(a, 0), (p, 16), (d, 24)] = packWord [(b, 0), (q, 16), (e, 24)]) : a = b ∧ p = q ∧ d = e := by
  rw [packWord_three, packWord_three] at h
  omega

/-- Each field of `BW_CTRL` has bits of its own. -/
theorem bwCtrl_injective {a b : HostLink} (ha : a.bwWindowMs ≤ 10000) (hb : b.bwWindowMs ≤ 10000) (ha' : a.bwPort ≤ 33) (hb' : b.bwPort ≤ 33)
    (h : bwCtrl a = bwCtrl b) : a.bwWindowMs = b.bwWindowMs ∧ a.bwPort = b.bwPort ∧ a.bwIngress = b.bwIngress := by
  obtain ⟨hms, hport, hdir⟩ := packWord_three_injective (by omega) (by omega) (by omega) (by omega) h
  exact ⟨hms, hport, b2n_injective hdir⟩

/-- The registers of H0 after a write of `BW_CTRL`, before a window starts. -/
def withBwCtrl (h : HostLink) (v : Nat) : HostLink := { h with
  bwWindowMs := clampTo 1 10000 (bits v 13 0), bwPort := if bits v 21 16 > 33 then h.bwPort else bits v 21 16, bwIngress := bit v 24 }

/-- What the bandwidth registers show at the end of a window: the figures of the port and direction selected. -/
def windowFig (h : HostLink) : BwFig := if h.bwIngress then (at' h.bw h.bwPort {}).nowIn else (at' h.bw h.bwPort {}).nowOut

section
variable {s : State} (hawake : awake s = true)
include hawake

theorem exec_bwCtrlWrite (v : Nat) :
    exec (.bwCtrlWrite v) s = .next (if bwCtrl (withBwCtrl s.host v) = bwCtrl s.host then s.modHost fun _ => withBwCtrl s.host v
      else startWindowBw (s.modHost fun _ => withBwCtrl s.host v)) :=
  congrArg _ (if_pos hawake)

theorem exec_bwWindowEnd :
    exec .bwWindowEnd s = .next (startWindowBw ((laterFrom s s.host.bwWindowAt (msCounts s.host.bwWindowMs)).modHost fun h => { h with
      bwBytes := (windowFig h).bytes, bwFrames := (windowFig h).frames, bwSeq := wrapAdd 32 h.bwSeq 1
      bw := h.bw.map fun b => { b with lastIn := b.nowIn, lastOut := b.nowOut } })) := by
  change execBwWindowEnd s = _
  unfold execBwWindowEnd
  exact if_neg (by simp [hawake])

/-- The end of a window advances `BW_SEQ` by one, with wrap. -/
theorem exec_bwWindowEnd_seq : ∃ x, exec .bwWindowEnd s = .next x ∧ x.host.bwSeq = (s.host.bwSeq + 1) % 2 ^ 32 := by
  refine ⟨_, exec_bwWindowEnd hawake, ?_⟩
  obtain ⟨cycle, debt, perf, hhost⟩ := s.later_host (msCounts s.host.bwWindowMs - (s.time.raw + 2 ^ 64 - s.host.bwWindowAt) % 2 ^ 64)
  change wrapAdd 32 (laterFrom s _ _).host.bwSeq 1 = _
  unfold laterFrom wrapAdd
  rw [hhost]

end

/-- A write of `BW_CTRL` sets its fields, and starts a window afresh where the word has changed. -/
theorem bwCtrlWrite_next (s : State) (h : HostLink) :
    ∃ start bw, (if bwCtrl h = bwCtrl s.host then s.modHost fun _ => h else startWindowBw (s.modHost fun _ => h)) =
        s.modHost (fun _ => { h with bwWindowAt := start, bw := bw }) ∧
      (bwCtrl h ≠ bwCtrl s.host → start = s.time.raw ∧ ∀ b ∈ bw, b.nowIn = {} ∧ b.nowOut = {}) := by
  by_cases hsame : bwCtrl h = bwCtrl s.host
  · exact ⟨h.bwWindowAt, h.bw, if_pos hsame, fun hdiff => absurd hsame hdiff⟩
  · refine ⟨s.time.raw, h.bw.map fun b => { b with nowIn := {}, nowOut := {} }, if_neg hsame, fun _ => ⟨rfl, ?_⟩⟩
    simp only [List.mem_map, forall_exists_index, and_imp]
    rintro _ b _ rfl
    exact ⟨rfl, rfl⟩

/-- Settles O52: a change of a field changes the word of `BW_CTRL`, and that starts the window. -/
theorem bwCtrlRestartsWindow : Obligations.bwCtrlRestartsWindow := by
  unfold Obligations.bwCtrlRestartsWindow
  intro v s hawake
  obtain ⟨start, bw, hnext, hstart⟩ := bwCtrlWrite_next s (withBwCtrl s.host v)
  have hms : clampTo 1 10000 (bits v 13 0) ≤ 10000 := by
    unfold clampTo
    omega
  refine ⟨_, (exec_bwCtrlWrite hawake v).trans (congrArg _ hnext), ?window, rfl, ?keepsPort, ?takesPort, rfl, rfl, rfl, ?restarts,
    exec_bwWindowEnd_seq hawake, rfl, rfl, rfl, rfl, rfl, ?_⟩
  case window =>
    change clampTo 1 10000 (bits v 13 0) = _
    unfold clampTo
    omega
  case keepsPort => exact fun hport => if_pos hport
  case takesPort => exact fun hport => if_neg (Nat.not_lt.2 hport)
  case restarts =>
    intro hchange hms' hport'
    refine hstart fun hsame => ?_
    have hport : (withBwCtrl s.host v).bwPort ≤ 33 := by
      change (if bits v 21 16 > 33 then s.host.bwPort else bits v 21 16) ≤ 33
      split <;> omega
    obtain ⟨ewindow, eport, edir⟩ := bwCtrl_injective hms hms' hport hport' hsame
    exact hchange.elim (· ewindow) (·.elim (· eport) (· edir))
  constructor <;> rfl

/-! ### Registers below 0x400 and writes that act on nothing (R46 to R48, R52, R54) -/

section
variable {s : State} (hawake : awake s = true)
include hawake

theorem exec_perfCtlClear (v : Nat) : exec (.perfCtlClear v) s = .next (s.modHost fun h => writePerfCtl h (withBit v 1 true)) :=
  congrArg _ (if_pos hawake)

theorem exec_bar2EnableWrite (v : Nat) :
    exec (.bar2EnableWrite v) s = .next (s.modHost fun h => { h with bar2En := bit v 0 && h.bar2Permit }) :=
  congrArg _ (if_pos hawake)

end

/-- Below the mailbox windows a dword with a byte disabled acts on nothing. -/
theorem writeDword_of_partial {off be : Nat} (hoff : off < 0x8000) (hbe : be % 16 ≠ 15) (s : State) (v : Nat) : writeDword s 0 off v be = s := by
  unfold writeDword
  rw [if_neg (by omega), if_pos hbe]

/-- BAR2 takes no write. -/
theorem writeDword_bar2 (s : State) (off v be : Nat) : writeDword s 2 off v be = s := by
  unfold writeDword
  simp

theorem writeDwords_bar2 (ds : List (Nat × Nat)) (off : Nat) (s : State) : writeDwords 2 ds off s = s := by
  induction ds generalizing off with
  | nil => rfl
  | cons d ds ih => rw [writeDwords, writeDword_bar2, ih]

/-- Settles O36: each row as its own lemma says; a register write is the write of the register at its offset. -/
theorem hostRegisterRowsComplete : Obligations.hostRegisterRowsComplete := by
  unfold Obligations.hostRegisterRowsComplete
  intro v s hawake
  refine ⟨exec_merTimeLoRead hawake, exec_perfCycleLoRead hawake, exec_bwBytesLoRead hawake, ?unmaskPending, ?unmaskIdle,
    fun hgo => exec_atuInvalidate_of_busy hawake hgo v, fun hgo => exec_atuInvalidate_of_idle hawake hgo v,
    exec_atuInvalidationComplete hawake, ?atuContext, fun c hc hc' => exec_atuCtxStatusClear hawake hc hc' v,
    ⟨_, rfl, exec_bwCtrlWrite hawake v⟩, ⟨windowFig, fun _ => rfl, exec_bwWindowEnd hawake⟩, exec_perfCtlClear hawake v,
    exec_bar2EnableWrite hawake v, ?mbDone, ?resetCause, ?mbIrq, ?doorbell, ?readOnly, ?partialDword, ?bar2⟩
  case unmaskPending =>
    intro i hi hlen hpend hd0
    have hmask : (at' (unmasked i s.host).msix i {}).mask = false := congrArg MsixEntry.mask (at'_modify_same hlen _ {})
    rw [exec_msixVectorUnmask hawake hi, sendPending_of_pending (s := s.modHost (unmasked i)) hpend hmask hd0]
    rfl
  case unmaskIdle =>
    intro i hi hpend
    rw [exec_msixVectorUnmask hawake hi, sendPending_of_none (s := s.modHost (unmasked i)) hpend]
    rfl
  case atuContext =>
    intro c off hc hc' hoff
    rw [exec_atuContextWrite hawake hc hc' hoff]
    obtain rfl | rfl | rfl := hoff <;> rfl
  case mbDone => exact fun hv => exec_registerWrite_reg hawake rfl (by decide) hv
  case resetCause => exact fun hv => exec_registerWrite_reg hawake rfl (by decide) hv
  case mbIrq => exact fun hv => exec_registerWrite_reg hawake rfl (by decide) hv
  case doorbell => exact fun hv => exec_registerWrite_reg hawake rfl (by decide) hv
  case readOnly => exact exec_registerWrite_dword hawake rfl 0 v 15
  case partialDword =>
    intro off be hbe hoff
    rw [exec_registerWrite hawake (by simp)]
    exact congrArg _ (writeDword_of_partial (by omega) hbe s v)
  case bar2 =>
    intro off ds hlen
    rw [exec_registerWrite hawake hlen, writeDwords_bar2]

end Sys2Proof.Machine
end

section
/-! PROOFS. The DMA rings: fetches, frames, reads that fail and registers (R60, R61, R118 to R131). -/

namespace Sys2Proof.Machine

/-! ### Fetches (R118, R122) -/

/-- The read of a ring's next descriptor. -/
def descRead (s : State) (k : Nat) : Transfer := readHost s (s.ring k).ctx (descIova (s.ring k) (s.ring k).fetchIdx) 32

theorem ringRead_desc (s : State) (k : Nat) : ringRead s k (descIova (s.ring k) (s.ring k).fetchIdx) 32 0 none = descRead s k := rfl

section
variable {s : State} {k : Nat} (hmay : mayFetch s k = true)
include hmay

/-- A TX fetch that faults parks the ring. -/
theorem txFetch_of_fault {c : FaultCause} {off : Nat} (hfault : (descRead s k).fault = some (c, off)) :
    txFetch s k none =
      park (descRead s k).st k (s.ring k).fetchIdx (descIova (s.ring k) (s.ring k).fetchIdx + off) false 0 c.code := by
  unfold txFetch
  simp only [hmay, Bool.not_true, Bool.false_eq_true, if_false, ringRead_desc, hfault]

/-- A TX fetch that is answered gives its descriptor to the ring's chain. -/
theorem txFetch_of_data (hfault : (descRead s k).fault = none) :
    txFetch s k none = txRun ((descRead s k).st.modRing k fun r => { takeTxDesc r {
      index := (s.ring k).fetchIdx, addr := u (descRead s k).data 0 8, len := u (descRead s k).data 8 2
      flags := u (descRead s k).data 10 2, launch := u (descRead s k).data 16 8 } with fetchIdx := nextIdx r r.fetchIdx }) k none := by
  unfold txFetch
  simp only [hmay, Bool.not_true, Bool.false_eq_true, if_false, ringRead_desc, hfault]

/-- An RX fetch that is answered adds a free descriptor. -/
theorem rxFetch_of_data (hfault : (descRead s k).fault = none) :
    rxFetch s k none = (descRead s k).st.modRing k fun r => releaseHeld { r with
      rxDescs := r.rxDescs ++ [{
        index := (s.ring k).fetchIdx, addr := u (descRead s k).data 0 8 % 2 ^ 48 / 64 * 64, units := u (descRead s k).data 8 2 }]
      fetchIdx := nextIdx r r.fetchIdx } := by
  unfold rxFetch
  simp only [hmay, Bool.not_true, Bool.false_eq_true, if_false, ringRead_desc, hfault]

end

section
variable {s : State} (hawake : awake s = true) {k : Nat} (hk : k ≤ 31)
include hawake hk

theorem exec_txDescriptorFetched : exec (.txDescriptorFetched k) s = .next (txFetch s k none) :=
  congrArg _ (if_neg (by simp [hawake, Nat.not_lt.2 hk]))

theorem exec_rxDescriptorFetched : exec (.rxDescriptorFetched k) s = .next (rxFetch s (32 + k) none) :=
  congrArg _ (if_neg (by simp [hawake, Nat.not_lt.2 hk]))

theorem exec_rxFrameDelivery : exec (.rxFrameDelivery k) s = .next (rxRun s (32 + k) none) :=
  congrArg _ (if_neg (by simp [hawake, Nat.not_lt.2 hk]))

theorem exec_txFrameAccepted : exec (.txFrameAccepted k) s = .next (txAccept s k none) :=
  congrArg _ (if_neg (by simp [hawake, Nat.not_lt.2 hk]))

theorem exec_launchTimeReached {x : TxFrame} {xs : List TxFrame} {t : Nat} {data : List Byte} (hqueue : (s.ring k).txQueue = x :: xs)
    (hlaunch : x.launch = some t) (hdata : x.data = some data) (hended : x.ended = none) :
    exec (.launchTimeReached k) s = .next (txAccept (s.until t) k none) := by
  change execLaunchTimeReached k s = _
  unfold execLaunchTimeReached
  rw [if_neg (by simp [hawake, Nat.not_lt.2 hk]), hqueue]
  simp only [hlaunch, hdata, hended]

end

/-! ### TX frames (R119 to R121) -/

section
variable {s : State} {k : Nat} {x : TxFrame} {xs : List TxFrame} (hqueue : (s.ring k).txQueue = x :: xs) (hended : x.ended = none)
  (hd0 : s.host.d3hot = false)
include hqueue hended hd0

/-- A frame without `LAUNCH_TIME` enters the pipeline at FP12, padded to the least length. -/
theorem txAccept_of_noLaunch {data : List Byte} (hdata : x.data = some data) (hlaunch : x.launch = none) :
    txAccept s k none =
      txRun (endTx (enterPipeline s 33 (some k) { data := if data.length < 60 then padTo 60 data else data } true false).1 k 0 s.now) k none := by
  unfold txAccept
  rw [hqueue]
  simp only [hdata, hlaunch, hended, hd0]
  simp [b2n]

/-- A frame found more than 50 ns late that may be dropped ends as LATE. -/
theorem txAccept_of_lateDrop {data : List Byte} {t : Nat} (hdata : x.data = some data) (hlaunch : x.launch = some t) (hlate : t + 50 < s.now)
    (hdrop : x.lateDrop = true) : txAccept s k none = txRun (endTx s k 2 0) k none := by
  have hcome : ¬ s.now < t := by omega
  unfold txAccept
  rw [hqueue]
  simp only [hdata, hlaunch, hended, hd0]
  simp [hcome, hlate, hdrop]

/-- The data of the frame at the head of a TX ring is kept with it. -/
theorem txData_of_data (hhead : x.atHead = true) (hdata : x.data = none) (hen : (s.ring k).en = true)
    (hfault : (readChain k none x.descs s 0).fault = none) :
    txData s k none = (readChain k none x.descs s 0).st.modRing k fun r => { r with
      txQueue := { x with data := some (readChain k none x.descs s 0).data } :: xs } := by
  unfold txData
  dsimp only
  rw [hqueue]
  simp [hhead, hdata, hended, hen, hd0, hfault]

end

/-! ### Reads that end in an error (R130) -/

theorem exec_dmaReadCompletion_good {s : State} (hawake : awake s = true) {k : Nat} (hk : k ≤ 31) (off : Nat) :
    exec (.dmaReadCompletion (.ring k 1 off) false true) s = .next (txData s k none) := by
  change execDmaReadCompletion (.ring k 1 off) false true s = _
  unfold execDmaReadCompletion
  rw [if_neg (by simp [hawake])]
  simp [Nat.not_lt.2 hk]

theorem exec_dmaReadCompletion_bad {s : State} (hawake : awake s = true) (t : DmaTarget) (table : Bool) :
    exec (.dmaReadCompletion t table false) s = .next (readFails s t table) := by
  change execDmaReadCompletion t table false s = _
  unfold execDmaReadCompletion
  rw [if_neg (by simp [hawake]), if_neg (by simp)]

theorem exec_dmaCompletionTimeout {s : State} (hawake : awake s = true) (t : DmaTarget) (table : Bool) :
    exec (.dmaCompletionTimeout t table) s = .next (readFails s t table) :=
  congrArg _ (if_pos hawake)

/-- A descriptor fetch that fails parks through the access that is due. -/
theorem readFails_fetch {k : Nat} (hk : k ≤ 63) (s : State) (off : Nat) (table : Bool) :
    readFails s (.ring k 0 off) table = ringError s k { access := 0, cause := if table then .walkError else .dataError, off := off } := by
  unfold readFails
  dsimp only
  rw [if_neg (by omega)]

/-! ### Registers of a ring (R60, R61, R126) -/

section
variable {s : State} (hawake : awake s = true) {k : Nat} (hk : k ≤ 63)
include hawake hk

theorem exec_ringEnable (v : Nat) : exec (.ringEnable k v) s = .next (writeRingCtrl s k (withBit v 0 true)) :=
  congrArg _ (if_neg (by simp [hawake, Nat.not_lt.2 hk]))

theorem exec_ringDisable (v : Nat) : exec (.ringDisable k v) s = .next (writeRingCtrl s k (withBit v 0 false)) :=
  congrArg _ (if_neg (by simp [hawake, Nat.not_lt.2 hk]))

theorem exec_ringTailWrite (v : Nat) : exec (.ringTailWrite k v) s = .next (writeRingTail s k v) :=
  congrArg _ (if_neg (by simp [hawake, Nat.not_lt.2 hk]))

theorem exec_ringResume : exec (.ringResume k) s = .next (writeRingResume s k 1) :=
  congrArg _ (if_neg (by simp [hawake, Nat.not_lt.2 hk]))

end

section
variable {s : State} {k v : Nat}

/-- `RING_CTRL` of an enabled ring: `PRIO` and `CTX` stay, and `EN` 0 disables it. -/
theorem writeRingCtrl_of_on (hon : (s.ring k).en = true) :
    writeRingCtrl s k v =
      if bit v 0 then s.modRing k fun r => { r with irqEn := bit v 4, vec := bits v 13 8 }
      else disableRing (s.modRing k fun r => { r with irqEn := bit v 4, vec := bits v 13 8 }) k := by
  unfold writeRingCtrl
  simp only [hon, if_true]

/-- `RING_CTRL` with `EN` 1 and a context starts a TX ring that was off. -/
theorem writeRingCtrl_of_off (hoff : (s.ring k).en = false) (hv : bit v 0 = true) (hctx : bits v 21 16 ≠ 0) (hlen : k < s.dma.rings.length) :
    writeRingCtrl s k v =
      enableRing (s.modRing k fun r => { r with irqEn := bit v 4, vec := bits v 13 8, prio := bits v 3 1, ctx := bits v 21 16 }) k := by
  unfold writeRingCtrl
  simp only [hoff, hv, Bool.false_eq_true, if_false, State.ring_modRing_same hlen, true_and, if_pos hctx]

/-- A TX ring without a frame in writing starts at index 0 with nothing fetched. -/
theorem enableRing_tx (hk : k ≤ 31) (hcur : (s.ring k).rxCur = none) :
    enableRing s k = s.modRing k fun r => { r with
      en := true, head := 0, fetchIdx := 0, parked := false, chain := [], chainBad := false, txQueue := [], rxDescs := [], wbacks := []
      rxCur := none } := by
  unfold enableRing
  rw [hcur]
  exact if_neg (by omega)

theorem writeRingResume_of_running (hparked : (s.ring k).parked = false) : writeRingResume s k v = s := by
  unfold writeRingResume
  simp [hparked]

/-- A parked ring repeats the access that faulted. -/
theorem writeRingResume_of_parked (hv : bit v 0 = true) (hparked : (s.ring k).parked = true) :
    ∃ t, t = s.modRing k (fun r => releaseHeld { r with parked := false }) ∧
      writeRingResume s k v = if k < 32 then (if (s.ring k).wr then txRun t k none else txFetch t k none)
        else if (s.ring k).wr then rxRun t k none else rxFetch t k none := by
  refine ⟨_, rfl, ?_⟩
  unfold writeRingResume
  simp only [hv, hparked, Bool.not_true, Bool.false_eq_true, or_self, if_false]

end

/-- Settles O35: each row as its own lemma says, with the fields of `RING_CTRL` above the bit that RING_ENABLE and RING_DISABLE give. -/
theorem ringRowsComplete : Obligations.ringRowsComplete := by
  unfold Obligations.ringRowsComplete
  intro k v s hawake
  have henbit : ∀ b, bit (withBit v 0 b) 0 = b := fun b => bit_withBit v 0 b 0
  have hirqEn : ∀ b, bit (withBit v 0 b) 4 = bit v 4 := fun b => bit_withBit v 0 b 4
  have hfield : ∀ b hi lo, 0 < lo → bits (withBit v 0 b) hi lo = bits v hi lo := fun b hi lo h => bits_withBit_of_lt h v hi b
  refine ⟨?txFault, ?txDesc, ?rxDesc, fun hk => exec_rxFrameDelivery hawake hk, ?accept, ?launch, ?data, ?fails, ?starts, ?stays, ?stops,
    fun hk => exec_ringTailWrite hawake hk v, ?running, ?resumed⟩
  case txFault =>
    intro off c hk hmay hfault
    exact ⟨_, rfl, (exec_txDescriptorFetched hawake hk).trans (congrArg _ (txFetch_of_fault hmay hfault))⟩
  case txDesc =>
    rintro _ hmay rfl hfault hk
    exact ⟨_, rfl, (exec_txDescriptorFetched hawake hk).trans (congrArg _ (txFetch_of_data hmay hfault))⟩
  case rxDesc =>
    rintro _ _ hk rfl hmay rfl hfault
    exact ⟨_, rfl, (exec_rxDescriptorFetched hawake hk).trans (congrArg _ (rxFetch_of_data hmay hfault))⟩
  case accept =>
    intro x xs data hk hqueue hdata hended hd0 _
    rw [exec_txFrameAccepted hawake hk]
    exact ⟨fun hlaunch => ⟨_, rfl, congrArg _ (txAccept_of_noLaunch hqueue hended hd0 hdata hlaunch)⟩,
      fun t hlaunch hlate hdrop => congrArg _ (txAccept_of_lateDrop hqueue hended hd0 hdata hlaunch hlate hdrop)⟩
  case launch => exact fun x xs t data hk hqueue hlaunch hdata hended => exec_launchTimeReached hawake hk hqueue hlaunch hdata hended
  case data =>
    rintro x xs off _ hk hqueue hhead hdata hended hen hd0 rfl hfault
    rw [exec_dmaReadCompletion_good hawake hk, txData_of_data hqueue hended hd0 hhead hdata hen hfault]
  case fails =>
    intro off table hk
    refine ⟨_, rfl, ?_, ?_⟩
    · rw [exec_dmaReadCompletion_bad hawake, readFails_fetch hk]
    · rw [exec_dmaCompletionTimeout hawake, readFails_fetch hk]
  case starts =>
    intro hk hlen hoff hcur hctx
    rw [← hfield true 21 16 (by decide)] at hctx
    rw [exec_ringEnable hawake (by omega), writeRingCtrl_of_off hoff (henbit true) hctx hlen,
      enableRing_tx hk ((congrArg Ring.rxCur (State.ring_modRing_same hlen _)).trans hcur), hirqEn, hfield true 13 8 (by decide),
      hfield true 3 1 (by decide), hfield true 21 16 (by decide)]
  case stays =>
    intro hk hon
    rw [exec_ringEnable hawake hk, writeRingCtrl_of_on hon, henbit, if_pos rfl, hirqEn, hfield true 13 8 (by decide)]
  case stops =>
    intro hk hon
    rw [exec_ringDisable hawake hk, writeRingCtrl_of_on hon, henbit, if_neg Bool.false_ne_true, hirqEn, hfield false 13 8 (by decide)]
  case running => exact fun hk hparked => (exec_ringResume hawake hk).trans (congrArg _ (writeRingResume_of_running hparked))
  case resumed =>
    intro hk hparked
    obtain ⟨t, ht, hresume⟩ := writeRingResume_of_parked (v := 1) rfl hparked
    exact ⟨t, ht, (exec_ringResume hawake hk).trans (congrArg _ hresume)⟩

end Sys2Proof.Machine
end

section
/-! PROOFS. The PCIe link and the resets of H0 (R43, R65, R66, R717, R731). -/

namespace Sys2Proof.Machine

/-! ### The rows of the link -/

section
variable {s : State} (hawake : awake s = true)
include hawake

/-- The link comes up, or changes its speed or width (R66). -/
theorem exec_pcieLinkUp {speed width : Nat} (hspeed : 1 ≤ speed) (hspeed' : speed ≤ 4) (hwidth : width = 1 ∨ width = 2 ∨ width = 4)
    (hchange : ¬(s.host.linkUp = true ∧ s.host.linkSpeed = speed ∧ s.host.linkWidth = width)) :
    exec (.pcieLinkUp speed width) s = .next (raiseHostLink (s.modHost fun h => { h with
      linkUp := true, linkSpeed := speed, linkWidth := width, everUp := true
      retrains := if h.everUp then wrapAdd 32 h.retrains 1 else h.retrains }) (if speed = 4 ∧ width = 4 then 1 else 2)) := by
  have hpremise : ¬(!awake s ∨ speed = 0 ∨ 4 < speed ∨ (width ≠ 1 ∧ width ≠ 2 ∧ width ≠ 4) ∨
      (s.host.linkUp ∧ s.host.linkSpeed = speed ∧ s.host.linkWidth = width)) := by
    rintro (h | h | h | h | h)
    · simp [hawake] at h
    · omega
    · omega
    · omega
    · exact hchange h
  change execPcieLinkUp speed width s = _
  unfold execPcieLinkUp
  exact if_neg hpremise

theorem exec_functionLevelReset : exec .functionLevelReset s = .next (hostReset s 0) := congrArg _ (if_pos hawake)

theorem exec_hotReset : exec .hotReset s = .next (hostReset s 1) := congrArg _ (if_pos hawake)

theorem exec_pcieLinkLoss : exec .pcieLinkLoss s = .next (hostReset s 2) := congrArg _ (if_pos hawake)

/-- PERST_N counts from 100 µs on (R717). -/
theorem exec_perstAssert (us : Nat) : exec (.perstAssert us) s = .next (if 100 ≤ us then hostReset s 2 else s) := by
  change execPerstAssert us s = _
  unfold execPerstAssert
  simp only [hawake, true_and]

theorem exec_d3hotEntry (hd0 : s.host.d3hot = false) :
    ∃ t, t = (List.range 64).foldl ringSleeps (s.modHost fun h => { h with d3hot := true }) ∧
      exec .d3hotEntry s = .next { t with eqs := t.eqs.map fun e => e.toWrite.foldl (holdRec s.now) { e with toWrite := [] } } := by
  refine ⟨_, rfl, ?_⟩
  change execD3hotEntry s = _
  unfold execD3hotEntry
  exact if_neg (by simp [hawake, hd0])

theorem exec_d0Return (hd3 : s.host.d3hot = true) :
    exec .d0Return s = .next ((List.range 64).foldl sendPending ((List.range 64).foldl (fun s k => if k < 32 then txRun s k none else rxEnd s k none)
      ((List.range 4).foldl eqWakes (s.modHost fun h => { h with d3hot := false })))) := by
  change execD0Return s = _
  unfold execD0Return
  exact if_neg (by simp [hawake, hd3])

end

/-- Settles O37: each row as its own lemma says. -/
theorem linkRowsComplete : Obligations.linkRowsComplete := by
  unfold Obligations.linkRowsComplete
  intro s hawake
  refine ⟨fun _ _ h1 h2 h3 h4 => exec_pcieLinkUp hawake h1 h2 h3 h4, exec_functionLevelReset hawake, exec_hotReset hawake,
    exec_pcieLinkLoss hawake, ?perst, ?glitch, exec_d3hotEntry hawake, exec_d0Return hawake⟩
  case perst => exact fun us hus => (exec_perstAssert hawake us).trans (congrArg _ (if_pos hus))
  case glitch => exact fun us hus => (exec_perstAssert hawake us).trans (congrArg _ (if_neg (Nat.not_le.2 hus)))

/-! ### What events change while no queue is enabled -/

/-- `t` differs from `s` in the log, the boot block and the host events held for the first queue alone. -/
def QuietChange (s t : State) : Prop :=
  ∃ lode boot held, t = { s with lode := lode, boot := boot, host := { s.host with heldHost := held } }

/-- No event queue is enabled. -/
def QueuesOff (s : State) : Prop := ∀ q, (s.eq q).en = false

theorem QuietChange.refl (s : State) : QuietChange s s := ⟨s.lode, s.boot, s.host.heldHost, rfl⟩

theorem QuietChange.trans {s t r : State} (h : QuietChange s t) (k : QuietChange t r) : QuietChange s r := by
  obtain ⟨_, _, _, rfl⟩ := h
  obtain ⟨lode, boot, held, rfl⟩ := k
  exact ⟨lode, boot, held, rfl⟩

theorem QuietChange.modBoot (s : State) (f : Boot → Boot) : QuietChange s (s.modBoot f) := ⟨s.lode, f s.boot, s.host.heldHost, rfl⟩

theorem QuietChange.modMb {s t : State} (h : QuietChange s t) (f : Mailbox → Mailbox) : QuietChange (s.modMb f) (t.modMb f) := by
  obtain ⟨lode, boot, held, rfl⟩ := h
  exact ⟨lode, boot, held, rfl⟩

theorem QuietChange.queuesOff {s t : State} (h : QuietChange s t) (hoff : QueuesOff s) : QueuesOff t := by
  obtain ⟨_, _, _, rfl⟩ := h
  exact hoff

theorem QuietChange.mb {s t : State} (h : QuietChange s t) : t.mb = s.mb := by
  obtain ⟨_, _, _, rfl⟩ := h
  rfl

theorem QuietChange.gw {s t : State} (h : QuietChange s t) : t.gw = s.gw := by
  obtain ⟨_, _, _, rfl⟩ := h
  rfl

theorem logPut_quiet (s : State) (r : LogRec) : QuietChange s (logPut s r) := by
  unfold logPut
  split <;> exact ⟨_, s.boot, s.host.heldHost, rfl⟩

/-- No queue takes an event while none is enabled. -/
theorem deliverTo_of_queuesOff {s : State} (hoff : QueuesOff s) (r : EvRec) : deliverTo s r = none := by
  have hen : ∀ q, (s.eq q).en = false := hoff
  have hlowest : ∀ skip, lowestEq s skip = none := fun skip => List.find?_eq_none.2 fun q _ => by simp [hen]
  unfold deliverTo
  simp [hlowest, hen]

/-- An event that no queue can take is logged, or held if it is of the host link (R112, R625). -/
theorem emit_quiet {s : State} (hoff : QueuesOff s) (r : EvRec) : QuietChange s (emit s r) := by
  have hlogged : ∀ x : LogRec, QuietChange s (if logTakes s r then logPut s x else s) := fun x => by
    split
    · exact logPut_quiet s x
    · exact .refl s
  unfold emit
  rw [deliverTo_of_queuesOff hoff]
  dsimp only
  split
  · exact (hlogged _).trans ⟨_, _, _, rfl⟩
  · exact hlogged _

/-- The signings that a reset ends are counted and reported, and nothing else. -/
theorem abortSignings_quiet {s : State} (hoff : QueuesOff s) (hit : Signing → Bool) : QuietChange s (abortSignings s hit) := by
  have hfold : ∀ (l : List Signing) (t : State), QuietChange s t →
      QuietChange s (l.foldl (fun s g => raiseAttest (bootCountAt s g.transport 4) g.transport 3 g.slot g.mask g.nonce) t) := by
    intro l
    induction l with
    | nil => exact fun t ht => ht
    | cons g l ih =>
      intro t ht
      have hcount : QuietChange s (bootCountAt t g.transport 4) := ht.trans (.modBoot t _)
      exact ih _ (hcount.trans (emit_quiet (hcount.queuesOff hoff) _))
  exact hfold _ _ (.modBoot s _)

/-! ### The function-level reset (R65) -/

/-- The state of H0 once a function-level reset has cleared it, before the events that report it. -/
def hostCleared (s : State) : State := { s with
  eqs := State.reset.eqs, dma := { State.reset.dma with steer := s.dma.steer }
  mb := { s.mb with
    windows := [], ring := 0, done := 0, irqVec := 4, irqEn := false, submitted := s.mb.submitted.filter fun c => 8 ≤ c.req.src
    waiting := s.mb.waiting.map fun w => if w.cmd.req.src < 8 then { w with drop := true } else w
    resetDue := none }
  host := { s.host with
    bar2En := false, msix := List.replicate 64 {}, msixPend := 0, d3hot := false, fp12Count := true, fp12Drops := 0
    resetCause := withBit s.host.resetCause 7 true } }

theorem dropRing_of_idle {old : Ring} (hcur : old.rxCur = none) (hheld : old.rxHeld = []) (s : State) (k : Nat) : dropRing s k old = s := by
  unfold dropRing
  rw [hcur, hheld]
  rfl

theorem breakLocks_of_none {s : State} (h : s.gw.locks = []) (which : GwLock → Bool) (cause : Nat) : breakLocks s which cause = s := by
  unfold breakLocks
  rw [h]
  rfl

/-- With no mailbox command waiting, a due reset ends at once. -/
theorem resetEnds_of_due {s : State} {kind discarded locks : Nat} (hdue : s.mb.resetDue = some (kind, discarded, locks))
    (hwaiting : ∀ w ∈ s.mb.waiting, 8 ≤ w.cmd.req.src) (hoff : QueuesOff s) :
    QuietChange (s.modMb fun m => { m with resetDue := none, windows := [], ring := 0, done := 0 }) (resetEnds s) := by
  have hnone : (s.mb.waiting.any fun w => w.cmd.req.src < 8) = false := by
    rw [List.any_eq_false]
    exact fun w hw => by simpa using hwaiting w hw
  unfold resetEnds
  rw [hdue]
  dsimp only
  rw [hnone, if_neg Bool.false_ne_true]
  exact emit_quiet (s := s.modMb _) hoff _

theorem reset_queuesOff : QueuesOff State.reset := fun q => (reset_queue q).1

/-- A mark on the commands that wait leaves their sources. -/
theorem waiting_src_of_dropped {l : List Waiting} (h : ∀ w ∈ l, 8 ≤ w.cmd.req.src) :
    ∀ w ∈ l.map (fun w => if w.cmd.req.src < 8 then { w with drop := true } else w), 8 ≤ w.cmd.req.src := by
  simp only [List.mem_map, forall_exists_index, and_imp]
  rintro _ w hw rfl
  rw [if_neg (Nat.not_lt.2 (h w hw))]
  exact h w hw

/-- A function-level reset with no mailbox command in execution, no RX frame held and no lock held clears H0 and reports it. -/
theorem hostReset_quiet {s : State} (hwaiting : ∀ w ∈ s.mb.waiting, 8 ≤ w.cmd.req.src)
    (hrings : ∀ k, (s.ring k).rxCur = none ∧ (s.ring k).rxHeld = []) (hlocks : s.gw.locks = []) :
    QuietChange (hostCleared s) (hostReset s 0) := by
  unfold hostReset
  extract_lets d owned discarded mb host s0 s1 s2 s3
  have hoff : QueuesOff s0 := reset_queuesOff
  have hsignings : QuietChange s0 s1 := (QuietChange.modBoot s0 _).trans (abortSignings_quiet ((QuietChange.modBoot s0 _).queuesOff hoff) _)
  have hframes : s2 = s1 := foldl_of_fixed fun k _ => dropRing_of_idle (hrings _).1 (hrings _).2 s1 _
  have hlink : s3 = s2 := if_neg (by simp)
  have hends := resetEnds_of_due (s := s1) (by rw [hsignings.mb]) (by rw [hsignings.mb]; exact waiting_src_of_dropped hwaiting)
    (hsignings.queuesOff hoff)
  rw [hlink, hframes, breakLocks_of_none ((congrArg Gateway.locks hsignings.gw).trans hlocks)]
  exact (hsignings.modMb _).trans hends

/-- Settles O59: H0 is cleared, and the reset's events change the log and the held host events alone. -/
theorem hostResetClears : Obligations.hostResetClears := by
  unfold Obligations.hostResetClears
  intro s hawake hwaiting hrings hlocks
  obtain ⟨lode, boot, held, hquiet⟩ := hostReset_quiet hwaiting hrings hlocks
  refine ⟨_, (exec_functionLevelReset hawake).trans (congrArg _ hquiet), rfl, rfl, rfl, rfl, rfl, rfl, rfl, ?submitted, rfl, rfl, rfl, rfl,
    ?cause, rfl, rfl, rfl, rfl, rfl, rfl, rfl⟩
  case submitted => exact fun c hc => by simpa using (List.mem_filter.1 hc).2
  case cause => exact bit_withBit _ 7 true 7

end Sys2Proof.Machine
end

section
/-! PROOFS. Every step goes on, and the byte memories read as they were written (R9, R70). -/

namespace Sys2Proof.Machine

/-! ### Every step goes on -/

/-- On an empty queue the step is one clock. -/
theorem step_of_pending_nil {s : State} (h : s.pending = []) : step s = .next s.idle := by
  unfold step
  rw [h]

/-- Settles O40: the idle clock and the meaning of every command go on, and neither touches the rest of the queue. -/
theorem stepAlwaysGoesOn : Obligations.stepAlwaysGoesOn := by
  unfold Obligations.stepAlwaysGoesOn
  intro s
  cases hqueue : s.pending with
  | nil => exact ⟨s.idle, step_of_pending_nil hqueue, (keep_State_idle s (.refl s)).queue.trans hqueue⟩
  | cons c rest =>
    obtain ⟨t, hexec, hkeeps⟩ := exec_goes c { s with pending := rest }
    exact ⟨t, (step_of_pending_cons hqueue).trans hexec, hkeeps.queue⟩

/-! ### Byte memories -/

/-- Settles O60: the laws of a string written, of the bytes around it and of the canonical form. -/
theorem memoryReadAfterWrite : Obligations.memoryReadAfterWrite := by
  unfold Obligations.memoryReadAfterWrite
  exact fun m a p => ⟨mread_mwrite m a p, fun _ hout => mget_mwrite_other m a p hout, wf_mwrite a p⟩

end Sys2Proof.Machine
end

section
/-! PROOFS. The checks that a command meets before its body runs, in their order (steps 1 to 6 of R77), and the answer to the first that fails. -/

namespace Sys2Proof.Machine

/-! ### The first check that fails -/

section
variable {s : State} {sp : CmdSpec} {r : Req}

theorem preCheck_of_unknown (hknown : sp.known = false) : preCheck s sp r = some (stBadOpcode, noDetail) := by
  simp [preCheck, hknown]

variable (hknown : sp.known = true)
include hknown

theorem preCheck_of_version (hversion : r.version ≠ 1) : preCheck s sp r = some (stBadVersion, noDetail) := by
  simp [preCheck, hknown, hversion]

variable (hversion : r.version = 1)
include hversion

theorem preCheck_of_levelBad (hlevel : levelBad sp r = true) : preCheck s sp r = some (stNotSupported, noDetail) := by
  simp [preCheck, hknown, hversion, hlevel]

variable (hlevel : levelBad sp r = false)
include hlevel

theorem preCheck_of_headerBad (hheader : headerBad sp r = true) : preCheck s sp r = some (stBadLength, noDetail) := by
  simp [preCheck, hknown, hversion, hlevel, hheader]

variable (hheader : headerBad sp r = false)
include hheader

theorem preCheck_of_badLen {d : Nat} (hlen : sp.badLen (inlineOf r) (totalLen r) = some d) : preCheck s sp r = some (stBadLength, d) := by
  simp [preCheck, hknown, hversion, hlevel, hheader, hlen]

variable (hlen : sp.badLen (inlineOf r) (totalLen r) = none)
include hlen

theorem preCheck_of_notPermitted (hpermitted : sp.permitted s r = false) : preCheck s sp r = some (stNotPermitted, noDetail) := by
  simp [preCheck, hknown, hversion, hlevel, hheader, hlen, hpermitted]

theorem preCheck_of_keysLocked (hpermitted : sp.permitted s r = true) (hlocked : keysLocked s = true) (hkeys : sp.needsKeys (inlineOf r) = true) :
    preCheck s sp r = some (stLocked, noDetail) := by
  simp [preCheck, hknown, hversion, hlevel, hheader, hlen, hpermitted, hlocked, hkeys]

end

/-- `LEVEL` breaks R75 where it is neither 0xF nor the command's. -/
theorem levelBad_iff {sp : CmdSpec} {r : Req} : levelBad sp r = true ↔ r.level % 16 ≠ 15 ∧ r.level % 16 ≠ sp.level := by
  simp [levelBad]

/-- Of the checks before the body, only that of `LEVEL` answers NOT_SUPPORTED. -/
theorem levelBad_of_preCheck {s : State} {sp : CmdSpec} {r : Req} {d : Nat} (h : preCheck s sp r = some (stNotSupported, d)) : levelBad sp r = true := by
  cases hlevel : levelBad sp r with
  | true => rfl
  | false =>
    unfold preCheck at h
    rw [hlevel, if_neg Bool.false_ne_true] at h
    repeat' split at h
    all_goals simp [stNotSupported, stBadOpcode, stBadVersion, stBadLength, stNotPermitted, stLocked] at h

/-! ### What the executor does with the command that goes first (R73) -/

/-- The state without the submitted command that the executor takes. -/
def withoutSubmitted (s : State) (c : Cmd) : State := s.modMb fun m => { m with submitted := m.submitted.filter fun x => x.order != c.order }

/-- A command that fails a check is completed with its status. -/
theorem runCommand_of_preCheck {s : State} {sp : CmdSpec} {r : Req} {st d : Nat} (h : preCheck s sp r = some (st, d)) (order : Nat) (drop : Bool)
    (since : Option Nat) :
    runCommand s sp r order drop since = finish s { opcode := sp.opcode, req := r, order := order, level := sp.level }
      { level := sp.level, status := st, detail := d, version := versionOf sp } [] drop := by
  unfold runCommand
  rw [h]

section
variable {s : State} {c : Cmd} (hawake : awake s = true) (hserving : serving s = true) (hnext : nextCommand s = some c)
include hawake hserving hnext

/-- COMMAND_DISPATCH runs the command that goes first. -/
theorem exec_commandDispatch :
    exec .commandDispatch s = .next (runCommand (withoutSubmitted s c) (specOf c.opcode) c.req c.order false none) := by
  change execCommandDispatch s = _
  unfold execCommandDispatch
  rw [if_neg (by simp [hawake, hserving]), hnext]
  rfl

/-- The command that goes first is answered with the status of the first check that it fails. -/
theorem exec_commandDispatch_of_preCheck {st d : Nat} (h : preCheck (withoutSubmitted s c) (specOf c.opcode) c.req = some (st, d)) :
    exec .commandDispatch s = .next (finish (withoutSubmitted s c)
      { opcode := (specOf c.opcode).opcode, req := c.req, order := c.order, level := (specOf c.opcode).level }
      { level := (specOf c.opcode).level, status := st, detail := d, version := versionOf (specOf c.opcode) } [] false) := by
  rw [exec_commandDispatch hawake hserving hnext, runCommand_of_preCheck h]

end

theorem versionOf_of_known {sp : CmdSpec} (h : sp.known = true) : versionOf sp = 1 := by
  rw [versionOf, h]
  rfl

theorem versionOf_of_unknown {sp : CmdSpec} (h : sp.known = false) : versionOf sp = 0 := by
  rw [versionOf, h]
  rfl

/-- Settles O44: a bad `LEVEL` fails the third check, and no other check answers NOT_SUPPORTED. -/
theorem levelRule : Obligations.levelRule := by
  unfold Obligations.levelRule
  intro s c hawake hserving hnext hknown hversion
  refine ⟨fun hany hown => ?rejected, fun hgood v d hcheck => ?accepted⟩
  case rejected =>
    rw [exec_commandDispatch_of_preCheck hawake hserving hnext (preCheck_of_levelBad hknown hversion (levelBad_iff.2 ⟨hany, hown⟩)),
      versionOf_of_known hknown]
    rfl
  case accepted =>
    obtain ⟨hany, hown⟩ := levelBad_iff.1 (levelBad_of_preCheck hcheck)
    exact hgood.elim hany hown

/-- Settles O45: each check that fails first gives its status, and the completion with it is all that happens. -/
theorem checksInOrder : Obligations.checksInOrder := by
  unfold Obligations.checksInOrder
  intro s c hawake hserving hnext
  have hanswer := fun st d => exec_commandDispatch_of_preCheck hawake hserving hnext (st := st) (d := d)
  refine ⟨specOf c.opcode, withoutSubmitted s c, fun st d ver => finish (withoutSubmitted s c) _ _ [] false, rfl, rfl, fun _ _ _ => rfl,
    ?opcode, ?version, ?header, ?length, ?permission, ?keys⟩
  case opcode =>
    intro hknown
    rw [hanswer _ _ (preCheck_of_unknown hknown), versionOf_of_unknown hknown]
  case version =>
    intro hknown hversion
    rw [hanswer _ _ (preCheck_of_version hknown hversion), versionOf_of_known hknown]
  case header =>
    intro hknown hversion hlevel hheader
    rw [hanswer _ _ (preCheck_of_headerBad hknown hversion hlevel hheader), versionOf_of_known hknown]
  case length =>
    intro d hknown hversion hlevel hheader hlen
    rw [hanswer _ _ (preCheck_of_badLen hknown hversion hlevel hheader hlen), versionOf_of_known hknown]
  case permission =>
    intro hknown hversion hlevel hheader hlen hpermitted
    rw [hanswer _ _ (preCheck_of_notPermitted hknown hversion hlevel hheader hlen hpermitted), versionOf_of_known hknown]
  case keys =>
    intro hknown hversion hlevel hheader hlen hpermitted hlocked hkeys
    rw [hanswer _ _ (preCheck_of_keysLocked hknown hversion hlevel hheader hlen hpermitted hlocked hkeys), versionOf_of_known hknown]

end Sys2Proof.Machine
end

section
/-! PROOFS. What events, DMA and completions leave alone, and so what the commands that only read do (R77, R81). -/

namespace Sys2Proof.Machine

/-! ### `Untouched` and the operations that every command uses -/

theorem Untouched.refl (s : State) : Untouched s s := by
  constructor <;> rfl

theorem Untouched.trans {s t r : State} (h : Untouched s t) (k : Untouched t r) : Untouched s r where
  ports := k.ports.trans h.ports
  tables := k.tables.trans h.tables
  ing := k.ing.trans h.ing
  hor := k.hor.trans h.hor
  fab := k.fab.trans h.fab
  egr := k.egr.trans h.egr
  time := k.time.trans h.time
  leg := k.leg.trans h.leg
  gw := k.gw.trans h.gw
  power := k.power.trans h.power
  keys := k.keys.trans h.keys
  boot := k.boot.trans h.boot
  upd := k.upd.trans h.upd
  pair := k.pair.trans h.pair
  carve := k.carve.trans h.carve

/-- The parts that `Untouched` does not name may take any value. -/
theorem Untouched.update (s : State) (mb : Mailbox) (eqs : List EvQueue) (host : HostLink) (dma : Dma) (hostMem : Mem) (lode : Lodestar) :
    Untouched s { s with mb := mb, eqs := eqs, host := host, dma := dma, hostMem := hostMem, lode := lode } := by
  constructor <;> rfl

theorem Untouched.ite {s a b : State} {c : Prop} [Decidable c] (ha : Untouched s a) (hb : Untouched s b) : Untouched s (if c then a else b) := by
  split <;> assumption

theorem Untouched.modMb (s : State) (f : Mailbox → Mailbox) : Untouched s (s.modMb f) := .update s _ _ _ _ _ _

theorem Untouched.modHost (s : State) (f : HostLink → HostLink) : Untouched s (s.modHost f) := .update s _ _ _ _ _ _

theorem Untouched.modEq (s : State) (q : Nat) (f : EvQueue → EvQueue) : Untouched s (s.modEq q f) := .update s _ _ _ _ _ _

theorem Untouched.modAtu (s : State) (f : Atu → Atu) : Untouched s (s.modAtu f) := .update s _ _ _ _ _ _

theorem raiseVec_untouched (s : State) (v : Nat) : Untouched s (raiseVec s v) := by
  rw [raiseVec_eq]
  exact .update s _ _ _ _ _ _

theorem logPut_untouched (s : State) (r : LogRec) : Untouched s (logPut s r) := by
  unfold logPut
  split <;> exact .update s _ _ _ _ _ _

/-- An event goes to a queue, to the held host events and to the log alone. -/
theorem emit_untouched (s : State) (r : EvRec) : Untouched s (emit s r) := by
  have hlogged : ∀ x : LogRec, Untouched s (if logTakes s r then logPut s x else s) := fun x => .ite (logPut_untouched s x) (.refl s)
  unfold emit
  dsimp only
  split
  · exact (hlogged _).trans (.modEq _ _ _)
  · exact .ite ((hlogged _).trans (.modHost _ _)) (hlogged _)

theorem raise_untouched (s : State) (ty sev level source : Nat) (p : List Byte) : Untouched s (raise s ty sev level source p) := emit_untouched s _

/-! ### DMA (R86, R87, R127 to R130) -/

/-- A translation changes the ATU and the performance counters alone. -/
theorem translate_untouched (s : State) (ctx iova : Nat) (write : Bool) : Untouched s (translate s ctx iova write).st := by
  have hfault : ∀ t, Untouched s t → Untouched s (countFault t ctx) := fun t ht => ht.trans (.modAtu t _)
  unfold translate
  dsimp only
  split
  · exact hfault s (.refl s)
  · split
    · exact hfault s (.refl s)
    · split
      · have hhit : Untouched s (s.modAtu fun a => { a with hits := wrapAdd 64 a.hits 1 }) := .modAtu s _
        split
        · exact hhit
        · exact hfault _ hhit
      · have hmiss : ∀ f, Untouched s (perfCount (s.modAtu f) 0x41 1) := fun f => .trans (.modAtu s f) (.modHost _ _)
        split
        · exact hfault _ (hmiss _)
        · split
          · dsimp only
            exact (hmiss _).trans (.modAtu _ _)
          · exact hfault _ (hmiss _)

theorem dmaRead_untouched (fuel : Nat) (s : State) (ctx iova n off : Nat) : Untouched s (dmaRead fuel s ctx iova n off).st := by
  induction fuel generalizing s iova n off with
  | zero => exact .refl s
  | succ fuel ih =>
    have haccess := translate_untouched s ctx iova false
    unfold dmaRead
    dsimp only
    split
    · exact .refl s
    · split
      · exact haccess
      · exact haccess.trans (.trans (.modHost _ _) (ih _ _ _ _))

theorem dmaWrite_untouched (fuel : Nat) (s : State) (ctx iova : Nat) (p : List Byte) (off : Nat) : Untouched s (dmaWrite fuel s ctx iova p off).st := by
  induction fuel generalizing s iova p off with
  | zero => exact .refl s
  | succ fuel ih =>
    have haccess := translate_untouched s ctx iova true
    unfold dmaWrite
    dsimp only
    split
    · exact .refl s
    · split
      · exact haccess
      · exact haccess.trans (.trans (.update _ _ _ _ _ _ _) (ih _ _ _ _))

theorem bulkRead_untouched (s : State) (ctx iova n : Nat) : Untouched s (bulkRead s ctx iova n).st := by
  unfold bulkRead
  split
  · exact .update s _ _ _ _ _ _
  · exact dmaRead_untouched _ s ctx iova n 0

theorem bulkWrite_untouched (s : State) (ctx iova : Nat) (p : List Byte) : Untouched s (bulkWrite s ctx iova p).st := by
  unfold bulkWrite
  split
  · exact .update s _ _ _ _ _ _
  · exact dmaWrite_untouched _ s ctx iova p 0

/-! ### The end of a command (R76, R87, R95) -/

theorem mbFault_untouched (s : State) (c : Cmd) (cause status iova : Nat) : Untouched s (mbFault s c cause status iova) := raise_untouched s _ _ _ _ _

theorem writeCompletion_untouched (s : State) (c : Cmd) (k : Completion) (out : List Byte) : Untouched s (writeCompletion s c k out) := by
  unfold writeCompletion
  dsimp only
  split
  · exact .ite ((Untouched.modMb s _).trans (raiseVec_untouched _ _)) (.modMb s _)
  · exact .modMb s _

/-- A completion that is not discarded changes the mailboxes and H0 alone. -/
theorem finish_untouched (s : State) (c : Cmd) (k : Completion) (out : List Byte) : Untouched s (finish s c k out false) :=
  (Untouched.modMb s _).trans (writeCompletion_untouched _ c k out)

theorem reject_untouched (s : State) (c : Cmd) (level status detail : Nat) : Untouched s (reject s c level status detail false) :=
  .trans (.ite (mbFault_untouched s c _ _ _) (.ite (mbFault_untouched s c _ _ _) (.refl s))) (finish_untouched _ c _ _)

/-- What the body of a command that only reads answers: a failure, or a completion without effect on what `Untouched` covers. -/
def ResultReads (s : State) : Result → Prop
  | .fail _ _ => True
  | .done d => Untouched s d.st ∧ d.commits = false ∧ d.after = id
  | _ => False

/-- A command that only reads. -/
def SpecReads (sp : CmdSpec) : Prop := ∀ s r p, ResultReads s (sp.body s r p)

theorem ResultReads.done {s t : State} (h : Untouched s t) {payload : List Byte} {clamps : List Nat} :
    ResultReads s (.done { payload := payload, clamps := clamps, st := t }) := ⟨h, rfl, rfl⟩

theorem ResultReads.checked {s : State} {cs : List Check} {k : Unit → Result} (h : ResultReads s (k ())) : ResultReads s (checked cs k) := by
  unfold Machine.checked
  split
  · trivial
  · exact h

/-- However the output of such a command leaves (inline, bulk, remote) and whether or not it fits, its end changes no table. -/
theorem finishDone_untouched {s : State} {d : Done} (hst : Untouched s d.st) (hcommits : d.commits = false) (hafter : d.after = id) (c : Cmd)
    (level waitUs : Nat) : Untouched s (finishDone s c level d false waitUs) := by
  have hbad : ∀ t k out, Untouched s t → Untouched s (finish t c k out false) := fun t k out ht => ht.trans (finish_untouched t c k out)
  unfold finishDone
  simp only [hafter, hcommits, id, Bool.false_eq_true, if_false]
  refine .ite (.ite (hbad _ _ _ (.refl s)) (hbad _ _ _ hst)) (.ite (hbad _ _ _ (.refl s)) (.ite (.ite ?asleep ?bulk) (hbad _ _ _ hst)))
  case asleep => exact hbad _ _ _ (mbFault_untouched s c _ _ _)
  case bulk =>
    split
    · exact hbad _ _ _ (.trans (.update s _ _ _ _ _ _) (mbFault_untouched _ c _ _ _))
    · exact hbad _ _ _ (hst.trans (bulkWrite_untouched _ _ _ _))

theorem settle_untouched {s : State} {res : Result} (h : ResultReads s res) (c : Cmd) (sp : CmdSpec) (since : Option Nat) :
    Untouched s (settle s c sp res false since) := by
  cases res with
  | fail status detail => exact reject_untouched s c _ _ _
  | done d =>
    obtain ⟨hst, hcommits, hafter⟩ := h
    unfold settle
    dsimp only
    rw [if_neg (by simp [hcommits])]
    exact finishDone_untouched hst hcommits hafter c _ _
  | failWith | retry | wait => exact h.elim

/-! ### From the request to the completion (R72, R77) -/

section
variable {sp : CmdSpec} (hreads : SpecReads sp)
include hreads

theorem runCommand_untouched (s : State) (r : Req) (order : Nat) : Untouched s (runCommand s sp r order false none) := by
  have hfinish : ∀ t c k, Untouched s t → Untouched s (finish t c k [] false) := fun t c k ht => ht.trans (finish_untouched t c k [])
  have hsettle : ∀ t c p, Untouched s t → Untouched s (settle t c sp (sp.body t r p) false none) := fun t c p ht =>
    ht.trans (settle_untouched (hreads t r p) c sp none)
  unfold runCommand
  dsimp only
  split
  · exact hfinish _ _ _ (.refl s)
  · refine .ite (hsettle _ _ _ (.refl s)) (.ite ?remote (.ite ?asleep ?bulk))
    case remote =>
      split
      · exact hfinish _ _ _ (.refl s)
      · exact hsettle _ _ _ (.refl s)
    case asleep => exact hfinish _ _ _ (mbFault_untouched s _ _ _ _)
    case bulk =>
      have hread := bulkRead_untouched s r.ctx r.bulkIova r.bulkLen
      split
      · exact hfinish _ _ _ (hread.trans (mbFault_untouched _ _ _ _ _))
      · split
        · exact hfinish _ _ _ hread
        · exact hsettle _ _ _ hread

theorem submit_untouched (s : State) (r : Req) : Untouched s (submit s sp r) := by
  unfold submit
  exact .ite (.refl s) (.ite (.refl s) (.ite (.refl s) (.ite (.ite (.refl s) (finish_untouched s _ _ _))
    (.ite (.trans (.modMb s _) (runCommand_untouched hreads _ r _)) (.trans (.modMb s _) (.modMb _ _))))))

/-- A command that only reads leaves alone what `Untouched` covers, whether it is refused, waits or runs. -/
theorem SpecReads.untouched {r : Req} {s t : State} (h : command sp r s = .next t) : Untouched s t := by
  obtain ⟨windows, done, hposted⟩ := postRequest_eq s sp.opcode r
  unfold command at h
  rw [hposted] at h
  cases h
  exact (Untouched.modMb s _).trans (submit_untouched hreads _ _)

end

/-! ### The commands that only read -/

/-- A command whose body completes on the state as it finds it. -/
theorem untouched_of_done {sp : CmdSpec} {payload : State → Req → List Byte → List Byte} {clamps : State → Req → List Byte → List Nat}
    (h : ∀ s r p, sp.body s r p = .done { payload := payload s r p, clamps := clamps s r p, st := s }) {r : Req} {s t : State}
    (ht : command sp r s = .next t) : Untouched s t := by
  refine SpecReads.untouched (fun s r p => ?_) ht
  rw [h]
  exact .done (.refl s)

/-- A command whose body completes on the state as it finds it, once its checks pass. -/
theorem untouched_of_checked {sp : CmdSpec} {checks : State → Req → List Byte → List Check} {payload : State → Req → List Byte → List Byte}
    {clamps : State → Req → List Byte → List Nat}
    (h : ∀ s r p, sp.body s r p = checked (checks s r p) fun _ => .done { payload := payload s r p, clamps := clamps s r p, st := s })
    {r : Req} {s t : State} (ht : command sp r s = .next t) : Untouched s t := by
  refine SpecReads.untouched (fun s r p => ?_) ht
  rw [h]
  exact .checked (.done (.refl s))

/-- GET_MB_STATS may clear the counters of commands (R101). -/
theorem specGetMbStats_reads : SpecReads specGetMbStats := fun s _ _ => .done (.ite (.modMb s _) (.refl s))

theorem specKeySlotInfo_reads : SpecReads specKeySlotInfo := by
  intro s r p
  dsimp only [specKeySlotInfo]
  refine .checked ?_
  split <;> exact .done (.refl s)

theorem specMacsecStatusGet_reads : SpecReads specMacsecStatusGet := by
  intro s r p
  dsimp only [specMacsecStatusGet]
  split
  · trivial
  · exact .done (.refl s)

/-- Settles O50: each body completes on the state as it finds it, or on one with other counters of commands, and so does the whole command. -/
theorem readingCommandsFrame : Obligations.readingCommandsFrame := by
  unfold Obligations.readingCommandsFrame
  intro r s t
  exact ⟨untouched_of_done fun _ _ _ => rfl, untouched_of_done fun _ _ _ => rfl, untouched_of_done fun _ _ _ => rfl,
    untouched_of_done fun _ _ _ => rfl, specGetMbStats_reads.untouched, untouched_of_done fun _ _ _ => rfl,
    untouched_of_done fun _ _ _ => rfl, untouched_of_checked fun _ _ _ => rfl, untouched_of_checked fun _ _ _ => rfl,
    untouched_of_checked fun _ _ _ => rfl, untouched_of_checked fun _ _ _ => rfl, untouched_of_checked fun _ _ _ => rfl,
    untouched_of_checked fun _ _ _ => rfl, untouched_of_done fun _ _ _ => rfl, untouched_of_checked fun _ _ _ => rfl,
    untouched_of_checked fun _ _ _ => rfl, untouched_of_done fun _ _ _ => rfl, untouched_of_checked fun _ _ _ => rfl,
    untouched_of_done fun _ _ _ => rfl, untouched_of_checked fun _ _ _ => rfl, untouched_of_checked fun _ _ _ => rfl,
    untouched_of_done fun _ _ _ => rfl, specKeySlotInfo_reads.untouched, specMacsecStatusGet_reads.untouched,
    untouched_of_done fun _ _ _ => rfl, untouched_of_checked fun _ _ _ => rfl, untouched_of_done fun _ _ _ => rfl,
    untouched_of_checked fun _ _ _ => rfl, untouched_of_checked fun _ _ _ => rfl, untouched_of_done fun _ _ _ => rfl,
    untouched_of_done fun _ _ _ => rfl, untouched_of_done fun _ _ _ => rfl, untouched_of_done fun _ _ _ => rfl,
    untouched_of_done fun _ _ _ => rfl, untouched_of_checked fun _ _ _ => rfl, untouched_of_done fun _ _ _ => rfl⟩

end Sys2Proof.Machine
end

section
/-! PROOFS. A command that changes an epoch table: it commits, or two live epochs hold it back (R82, R316 to R319). -/

namespace Sys2Proof.Machine

/-! ### What a commit leaves of the epochs -/

/-- The epochs once an older epoch without frames has drained (R319). -/
def drained (e : Epochs) : Epochs := { e with draining := false, old := e.cur, oldDiscards := 0, sweep := some 0 }

/-- The epochs of `t` once its tables have come into force over those of `s`, before the older epoch drains (R316). -/
def succeeding (s t : State) : Epochs := { t.ep with
  old := s.ep.cur, epoch := wrapAdd 32 s.ep.epoch 1, draining := true, inOld := s.ep.inCur, inCur := 0, commitAt := s.now, oldDiscards := 0 }

theorem settleEpoch_ep (s : State) : (settleEpoch s).ep = if s.ep.draining ∧ s.ep.inOld = 0 then drained s.ep else s.ep := by
  unfold settleEpoch
  split
  · exact (raise_untouched _ _ _ _ _ _).tables
  · rfl

/-- The older epoch drains at once where no frame is in flight. -/
theorem commitEpoch_ep (s t : State) (tables opcode tag src waitUs : Nat) :
    (commitEpoch s t tables opcode tag src waitUs).ep = if s.ep.inCur = 0 then drained (succeeding s t) else succeeding s t := by
  unfold commitEpoch
  rw [settleEpoch_ep, (raise_untouched _ _ _ _ _ _).tables]
  by_cases hnone : s.ep.inCur = 0
  · rw [if_pos hnone]
    exact if_pos ⟨rfl, hnone⟩
  · rw [if_neg hnone]
    exact if_neg fun h => hnone h.2

/-! ### A body that commits -/

section
variable {s s1 : State} {sp : CmdSpec} {r : Req} {p : List Byte} {d : Done}

theorem heldCmd_flags : (heldCmd s sp r p).req.flags = r.flags := by
  unfold heldCmd
  dsimp only
  split <;> simp

/-- A commit whose output fits the mailbox leaves the epochs as it has made them. -/
theorem ends_ep_of_commits (hinline : bit r.flags 2 = false) (hfits : d.payload.length ≤ 2016) (hcommits : d.commits = true) (hafter : d.after = id) :
    (ends s sp r p s1 d).ep = if s1.ep.inCur = 0 then drained (succeeding s1 d.st) else succeeding s1 d.st := by
  unfold ends finishDone
  simp only [heldCmd_flags, hinline, hcommits, hafter, id, Bool.not_false, if_true, if_neg (Nat.not_lt.2 hfits)]
  rw [(finish_untouched _ _ _ _).tables, commitEpoch_ep]

variable (hruns : Runs s sp r p s1) (hbody : sp.body s1 (asSubmitted r) p = .done d) (hcommits : d.commits = true)
  (hdraining : s1.ep.draining = true)
include hruns hbody hcommits hdraining

/-- Under `NONBLOCK` a commit that meets two live epochs is answered BUSY. -/
theorem command_busy (hnonblock : bit r.flags 0 = true) : command sp r s = .next (refused s sp r p s1 stBusy noDetail) := by
  rw [command_runs hruns, hbody]
  unfold settle
  dsimp only
  rw [if_pos ⟨hcommits, hdraining⟩, heldCmd_flags, if_pos hnonblock]
  rfl

/-- Without `NONBLOCK` a commit that meets two live epochs waits for the drain. -/
theorem command_waits_for_drain (hblock : bit r.flags 0 = false) : command sp r s = .next (waits s sp r p s1 .drain s1) := by
  rw [command_runs hruns, hbody]
  unfold settle
  dsimp only
  rw [if_pos ⟨hcommits, hdraining⟩, heldCmd_flags, if_neg (by simp [hblock])]
  rfl

end

/-! ### RING_BIND (R140) -/

/-- What RING_BIND hands on when it binds TX ring `k` to domain `d`. -/
def boundRing (s : State) (k d : Nat) : Done := {
  payload := le 1 k ++ le 1 d ++ le 1 (tgetD s.ep.cur.ing.ringBind k 0xFF), tables := 1, commits := true
  st := s.modIt fun t => { t with ringBind := tset t.ringBind k d } }

theorem specRingBind_body {s : State} {p : List Byte} (hring : u p 0 1 ≤ 31) (hdomain : u p 1 1 ≤ 7) (hcarve : inCarve s (u p 1 1) = true) (r : Req) :
    specRingBind.body s r p = .done (boundRing s (u p 0 1) (u p 1 1)) := by
  unfold specRingBind
  dsimp only
  rw [checked_pass (by simp [chkSup, chkConf, hcarve]; omega), if_neg (by omega)]
  rfl

/-- Settles O49: RING_BIND commits, and its body is given back as any body that commits. -/
theorem twoEpochsHoldBackACommit : Obligations.twoEpochsHoldBackACommit := by
  unfold Obligations.twoEpochsHoldBackACommit
  intro s s1 r p hruns hring hdomain hcarve hinline
  have hbody := specRingBind_body hring hdomain hcarve (asSubmitted r)
  refine ⟨fun hfree => ?commits, command_busy hruns hbody rfl, command_waits_for_drain hruns hbody rfl⟩
  refine ⟨_, command_done hruns hbody fun _ => hfree, ?_⟩
  rw [ends_ep_of_commits hinline (by simp [boundRing, le_length]) rfl rfl]
  split
  · next hnone => exact ⟨rfl, rfl, fun hsome => absurd hnone (by omega), fun _ => rfl⟩
  · next hsome => exact ⟨rfl, rfl, fun _ => ⟨rfl, rfl, rfl⟩, fun hnone => absurd hnone hsome⟩

end Sys2Proof.Machine
end

section
/-! PROOFS. The commands of group 0x00, PERF_GET and PERF_SET (R97 to R102, R641). -/

namespace Sys2Proof.Machine

/-- A command whose body completes without a commit. -/
theorem command_completes {s s1 : State} {sp : CmdSpec} {r : Req} {p : List Byte} {d : Done} (hruns : Runs s sp r p s1)
    (hbody : sp.body s1 (asSubmitted r) p = .done d) (hcommits : d.commits = false) : command sp r s = .next (ends s sp r p s1 d) :=
  command_done hruns hbody fun h => absurd (h.symm.trans hcommits) (by decide)

theorem bit_zero (x : Nat) : bit x 0 = decide (x % 2 = 1) := Nat.testBit_zero x

/-- A fold over a list that a flag switches on. -/
theorem foldl_if_nil {σ α : Type} (c : Bool) (f : σ → α → σ) (s : σ) (l : List α) :
    (if c then l else []).foldl f s = if c then l.foldl f s else s := by
  cases c <;> rfl

section
variable {s s1 : State} {r : Req} {p : List Byte}

/-- GET_MB_STATS answers the counters of commands, and clears them under FLAGS bit 0. -/
theorem exec_getMbStats (hruns : Runs s specGetMbStats r p s1) :
    exec (.getMbStats r) s = .next (ends s specGetMbStats r p s1 {
      st := if (u p 0 1) % 2 = 1 then s1.modMb fun m => { m with counters := List.replicate 9 {} } else s1
      payload := s1.mb.counters.flatMap fun c => [c.ok, c.clamped, c.retry, c.busy, c.rejected, c.fault].flatMap (le 4) }) := by
  refine command_completes hruns ?_ rfl
  unfold specGetMbStats
  simp [bit_zero]

/-- GET_IDENTITY answers with the versions of six units in order. -/
theorem exec_getIdentity (hruns : Runs s specGetIdentity r p s1) :
    exec (.getIdentity r) s = .next (ends s specGetIdentity r p s1 {
      st := s1
      payload := le 2 0x9600 ++ le 1 Config.stepping ++ le 1 0x4B ++ le 8 Config.serial ++ le 4 s1.host.fwVer ++ le 4 0x00010000 ++
        le 1 s1.lifecycle ++ le 1 (b2n s1.lode.splitMode + 2 * b2n s1.keys.quarantine + 4 * b2n s1.lode.debugSplit) ++ zeros 2 ++
        (if s1.host.bundleOk then padTo 48 s1.boot.bundleDigest else zeros 48) ++ le 4 (if s1.host.bundleOk then s1.boot.bundleGen else 0) ++
        le 4 s1.boot.loaderVer ++ [1, 3, 4, 5, 6, 7].flatMap (fun n => le 4 (at' s1.boot.unitVer n 0)) ++ zeros 8 }) := by
  refine command_completes hruns ?_ rfl
  unfold specGetIdentity
  simp only [unitVersion, List.flatMap_cons, List.flatMap_nil, List.append_nil, List.append_assoc]

/-- MODULE_RESET with its key, outside an update, sets the reset off. -/
theorem exec_moduleReset (hruns : Runs s specModuleReset r p s1) (hkey : u p 0 4 = 0x9600A55A) (happly : s1.upd.stage ≠ 4) (hback : s1.upd.stage ≠ 7) :
    exec (.moduleReset r) s = .next (ends s specModuleReset r p s1 {
      clamps := (clampField 4 2 10000 (u p 4 2)).off, payload := le 2 (clampTo 2 10000 (u p 4 2))
      st := s1.modPow fun x => { x with
        resetDue := some (s1.time.aon + msCounts (clampTo 2 10000 (u p 4 2)), clampTo 2 10000 (u p 4 2)) } }) := by
  refine command_completes hruns ?_ rfl
  unfold specModuleReset
  dsimp only
  rw [checked_pass (by simp [chkPol, hkey, happly, hback])]
  rfl

/-- PERF_SET with listed event codes makes its register writes in order. -/
theorem exec_perfSet (hruns : Runs s specPerfSet r p s1) (hcodes : ∀ n ∈ bitList 8 (u p 0 1), perfCodeOk (bits (u p (4 + 4 * n) 4) 9 0) = true) :
    ∃ h, exec (.perfSet r) s = .next (ends s specPerfSet r p s1 { payload := perfPayload h, st := s1.modHost fun _ => h }) ∧
      h = (if bit (u p 1 1) 2 then bitList 8 (u p 0 1) else []).foldl (fun h n => writePerfCnt h n (u p (36 + 4 * n) 4))
        ((bitList 8 (u p 0 1)).foldl (fun h n => writePerfSel h n (u p (4 + 4 * n) 4)) (writePerfCtl s1.host (u p 1 1 % 4))) := by
  have hpass : ∀ c ∈ (bitList 8 (u p 0 1)).map fun n => chkSup (!perfCodeOk (bits (u p (4 + 4 * n) 4) 9 0)) (4 + 4 * n), c.bad = false := by
    simp only [List.mem_map, forall_exists_index, and_imp]
    rintro _ n hn rfl
    simp [chkSup, hcodes n hn]
  refine ⟨_, command_completes hruns ?_ rfl, (foldl_if_nil _ _ _ _).symm⟩
  unfold specPerfSet
  dsimp only
  rw [checked_pass hpass]

end

/-- Settles O1: each command completes with what its body answers. -/
theorem systemCommandsComplete : Obligations.systemCommandsComplete := by
  unfold Obligations.systemCommandsComplete
  intro r s s1 p
  exact ⟨fun hruns => command_completes hruns rfl rfl, fun hruns => command_completes hruns rfl rfl, exec_getIdentity,
    fun hruns => command_completes hruns rfl rfl, exec_getMbStats, exec_moduleReset, fun hruns => command_completes hruns rfl rfl, exec_perfSet⟩

end Sys2Proof.Machine
end

section
/-! PROOFS. Retry tokens, the executor's rows and the remote sessions (R73, R82, R84, R88, R91 to R93). -/

namespace Sys2Proof.Machine

/-! ### Retry tokens (R88) -/

theorem mem_liveTokens {s : State} {x : RetryTok} : x ∈ liveTokens s ↔ x ∈ s.mb.tokens ∧ s.now < x.issued + (x.hintMs + 1000) * 1000000 := by
  simp [liveTokens, tokenLive]

/-- The token that `issueToken` adds. -/
def issuedToken (s : State) (src op : Nat) (p : List Byte) (hint : Nat) (f : FetchState) (obj : Nat) : RetryTok := {
  token := Config.token s.free % (2 ^ 32 - 1) + 1, src := src, opcode := op, payload := p, hintMs := hint, fetch := f, object := obj
  issued := s.now }

/-- The new token joins the live ones, and of more than 64 the oldest are invalidated. -/
theorem issueToken_tokens (s : State) (src op : Nat) (p : List Byte) (hint : Nat) (f : FetchState) (obj : Nat) :
    (issueToken s src op p hint f obj).2.mb.tokens =
      (liveTokens s ++ [issuedToken s src op p hint f obj]).drop ((liveTokens s).length + 1 - 64) := by
  unfold issueToken issuedToken
  rfl

/-- Settles O51: of the live tokens and the new one, the 64 youngest stay. -/
theorem retryTokensBounded : Obligations.retryTokensBounded := by
  unfold Obligations.retryTokensBounded
  intro s t src op hint obj tok p f hissue
  have htokens := issueToken_tokens s src op p hint f obj
  rw [hissue] at htokens
  obtain ⟨rfl, -⟩ := Prod.mk.inj hissue
  refine ⟨by omega, by omega, ?bounded, fun _ => mem_liveTokens, fun hroom => ?joins, fun hfull => ?replaces⟩
  case bounded =>
    rw [htokens, List.length_drop, List.length_append, List.length_singleton]
    omega
  case joins =>
    rw [show (liveTokens s).length + 1 - 64 = 0 by omega, List.drop_zero] at htokens
    exact ⟨_, htokens, rfl, rfl, rfl, rfl⟩
  case replaces =>
    rw [hfull, List.drop_append_of_le_length (by omega)] at htokens
    exact ⟨_, htokens, rfl, rfl⟩

theorem exec_retryTokenExpiry {s : State} {token : Nat} {t : RetryTok} (hfind : s.mb.tokens.find? (fun t => t.token == token) = some t) :
    exec (.retryTokenExpiry token) s = .next (dropToken (s.until (t.issued + (t.hintMs + 1000) * 1000000)) token) := by
  change execRetryTokenExpiry token s = _
  unfold execRetryTokenExpiry
  rw [hfind]

/-! ### A waiting command goes on (R82, R84) -/

section
variable {s : State} {w : Waiting} {ws : List Waiting} (hawake : awake s = true) (hserving : serving s = true) (hdrained : s.ep.draining = false)
  (hwaiting : s.mb.waiting = w :: ws)
include hawake hserving hdrained hwaiting

/-- A command that waited for the drain is checked and run again. -/
theorem exec_commitAfterDrain_of_drain (hkind : w.kind = .drain) :
    exec .commitAfterDrain s = .next (runCommand (s.modMb fun m => { m with waiting := ws })
      (specOf w.cmd.opcode) w.cmd.req w.cmd.order w.drop (some w.since)) := by
  change execCommitAfterDrain s = _
  unfold execCommitAfterDrain
  rw [if_neg (by simp [hawake, hserving, hdrained]), hwaiting]
  dsimp only
  rw [hkind]

/-- EPOCH_SYNC completes. -/
theorem exec_commitAfterDrain_of_sync (hkind : w.kind = .sync) :
    ∃ v : State, v = s.modMb (fun m => { m with waiting := ws }) ∧
      exec .commitAfterDrain s =
        .next (finishDone v w.cmd w.cmd.level { st := v, payload := epochSyncPayload s ((s.now - w.since) / 1000) } w.drop 0) := by
  refine ⟨_, rfl, ?_⟩
  change execCommitAfterDrain s = _
  unfold execCommitAfterDrain
  rw [if_neg (by simp [hawake, hserving, hdrained]), hwaiting]
  dsimp only
  rw [hkind]

end

/-! ### Remote sessions (R91 to R93) -/

/-- The session that a connection opens now (R95). -/
def connected (s : State) (port ip : Nat) (cert : List Byte) : Session :=
  { isOpen := true, port := port, ipv4 := ip, certId := certIdOf cert, last := s.now }

section
variable {s : State} (hawake : awake s = true) (hready : s.host.ready = true) (port ip : Nat) (cert : List Byte)
include hawake hready

/-- A connection that finds session `i` free opens it, or is refused at authentication. -/
theorem exec_remoteConnection_of_free {i : Nat} (hfree : (List.range 4).find? (fun i => !(session s i).isOpen) = some i) (auth : Bool) :
    exec (.remoteConnection port ip cert auth) s =
      .next (if auth
        then raiseSession (s.modMb fun m => { m with sessions := m.sessions.set i (connected s port ip cert) }) 0 i (connected s port ip cert)
        else raiseSession s 3 0xFF (connected s port ip cert)) := by
  change execRemoteConnection port ip cert auth s = _
  unfold execRemoteConnection
  rw [if_neg (by simp [hawake, hready]), hfree]
  cases auth <;> rfl

/-- A connection at the limit of four sessions is refused. -/
theorem exec_remoteConnection_of_full (hfull : (List.range 4).find? (fun i => !(session s i).isOpen) = none) (auth : Bool) :
    exec (.remoteConnection port ip cert auth) s =
      .next (raiseSession s 2 0xFF { isOpen := true, port := port, ipv4 := ip, certId := 0, last := s.now }) := by
  change execRemoteConnection port ip cert auth s = _
  unfold execRemoteConnection
  rw [if_neg (by simp [hawake, hready]), hfull]

end

theorem leNat_lt (bs : List Byte) : leNat bs < 256 ^ bs.length := by
  induction bs with
  | nil => decide
  | cons b bs ih =>
    have hbyte : b.toNat < 256 := b.isLt
    rw [leNat, List.length_cons, Nat.pow_succ]
    omega

/-- A field of `n` bytes is below 256ⁿ. -/
theorem u_lt (p : List Byte) (off n : Nat) : u p off n < 256 ^ n := by
  have hlength : (sub p off n).length = n := by
    simp only [sub, List.length_append, List.length_replicate, List.length_take, List.length_drop]
    omega
  simpa only [u, hlength] using leNat_lt (sub p off n)

/-- Session `i` with a message just come. -/
def heard (s : State) (i : Nat) : State := s.modMb fun m => { m with sessions := m.sessions.modify i fun x => { x with last := s.now } }

section
variable {s : State} {i : Nat} (hi : i ≤ 3) (hawake : awake s = true) (hopen : (session s i).isOpen = true) (msg : List Byte)
include hi hawake hopen

/-- A message whose length matches its header submits its command. -/
theorem exec_remoteMessage_of_match (hinline : bit (u msg 3 1) 1 = false) :
    exec (.remoteMessage i (32 + u msg 4 2) msg) s =
      .next (submit (heard s i) (specOf (u msg 0 2)) (reqOfHeader (8 + i) (msg.take 32) ((msg.drop 32).take (u msg 4 2)) [] false)) := by
  have hlength : u msg 4 2 < 256 ^ 2 := u_lt msg 4 2
  change execRemoteMessage i _ msg s = _
  unfold execRemoteMessage
  dsimp only
  rw [if_neg (by simp [hawake, hopen, Nat.not_lt.2 hi]), if_neg (by unfold maxMessage; omega)]
  simp only [hinline, Bool.false_eq_true, if_false, Nat.add_zero, bne_self_eq_false]
  rfl

/-- A message of a length out of range closes its session. -/
theorem exec_remoteMessage_of_bad_length {len : Nat} (hlength : len < 32 ∨ 16779264 < len) :
    exec (.remoteMessage i len msg) s = .next (closeSession (heard s i) i 1) := by
  change execRemoteMessage i len msg s = _
  unfold execRemoteMessage
  dsimp only
  rw [if_neg (by simp [hawake, hopen, Nat.not_lt.2 hi])]
  exact if_pos hlength

end

/-- The end of the session `i` of `s`: its commands are dropped, its leases broken, and REMOTE_SESSION raised (R93, R474). -/
def sessionEnded (i : Nat) (s : State) (kind : Nat) : State :=
  raiseSession (breakLocks (s.modMb fun m => { m with
      sessions := m.sessions.set i {}
      submitted := m.submitted.filter fun c => c.req.src != 8 + i
      waiting := m.waiting.map fun w => if w.cmd.req.src = 8 + i then { w with drop := true } else w })
    (fun l => l.kind == 0 && l.who == 8 + i) 1) kind i (session s i)

theorem closeSession_of_open {s : State} {i : Nat} (hopen : (session s i).isOpen = true) (kind : Nat) : closeSession s i kind = sessionEnded i s kind :=
  if_neg (by simp [hopen])

/-- The passage of time leaves the mailboxes but their uptime. -/
theorem State.until_session (s : State) (t i : Nat) : session (s.until t) i = session s i := by
  unfold State.until State.later
  split
  · rfl
  · split <;> rfl

theorem exec_remoteIdleTimeout {s : State} {i : Nat} (hopen : (session s i).isOpen = true) :
    exec (.remoteIdleTimeout i) s =
      .next (closeSession (s.until ((session s i).last + clampTo 30 3600 s.boot.bundle.idleS * secondNs)) i 4) := by
  change execRemoteIdleTimeout i s = _
  unfold execRemoteIdleTimeout
  exact if_neg (by simp [hopen])

/-- Settles O33: each row as its own lemma says. -/
theorem executorRowsComplete : Obligations.executorRowsComplete := by
  unfold Obligations.executorRowsComplete
  intro s
  refine ⟨fun _ => exec_commandDispatch, fun _ _ => exec_commitAfterDrain_of_drain, fun _ _ => exec_commitAfterDrain_of_sync,
    fun _ _ => exec_retryTokenExpiry, fun port ip cert i hawake hready hfree => ?connection,
    fun port ip cert auth hawake hready hfull => exec_remoteConnection_of_full hawake hready port ip cert hfull auth, ?message, ?close⟩
  case connection =>
    have hexec := exec_remoteConnection_of_free hawake hready port ip cert hfree
    exact ⟨connected s port ip cert, rfl, (hexec true).trans (congrArg _ (if_pos rfl)), (hexec false).trans (congrArg _ (if_neg Bool.false_ne_true))⟩
  case message =>
    exact fun i msg hi hawake hopen => ⟨heard s i, rfl, exec_remoteMessage_of_match hi hawake hopen msg,
      fun _ => exec_remoteMessage_of_bad_length hi hawake hopen msg⟩
  case close =>
    intro i hopen
    refine ⟨sessionEnded i, fun _ _ => rfl, congrArg _ (closeSession_of_open hopen 1), ?_⟩
    rw [exec_remoteIdleTimeout hopen, closeSession_of_open]
    rwa [State.until_session]

end Sys2Proof.Machine
end

section
/-! PROOFS. The rows of Lodestar and of the bus engines (R85, R429, R605 to R624, R656). -/

namespace Sys2Proof.Machine

/-- Lodestar runs again, with its loader's checks and its settings made. -/
def lodestarReturned (s : State) (b : List Nat) (x : Nat × Nat × Nat) : State := adoptSettings (loaderRestarts (lodestarBack s b x) 2)

section
variable {s : State}

/-! ### Lockstep, errors, restarts and debug (R85, R429, R605 to R611) -/

theorem exec_lockstepMismatch {k g : Nat} (hk : k ≤ 1) (hg : g ≤ 8) (hcomparing : comparing s k = true) (w : Nat) :
    exec (.lockstepMismatch k g w) s = .next (failHealth (lockstepError s k g w) 0) := by
  change execLockstepMismatch k g w s = _
  unfold execLockstepMismatch
  exact if_neg (by simp [hcomparing]; omega)

/-- An error that is not corrected is a health check failed. -/
theorem exec_lodestarEccError {m q : Nat} (hawake : awake s = true) (hm : m ≤ 2) (hq : q ≤ 11) (a o : Nat) (uncorrected : Bool) :
    exec (.lodestarEccError m q a o uncorrected) s =
      .next (if uncorrected then failHealth (eccError s m q a o uncorrected) 4 else eccError s m q a o uncorrected) := by
  change execLodestarEccError m q a o uncorrected s = _
  unfold execLodestarEccError
  exact if_neg (by simp [hawake]; omega)

/-- A restart of Lodestar ends with the check of its copy. -/
theorem exec_lodestarRestartDone {x : Nat × Nat × Nat} (hrestart : s.lode.restart = some x) (b : List Nat) (ok : Bool) :
    exec (.lodestarRestartDone b ok) s = .next (if ok then failHealth (verifyCopy (lodestarReturned s b x) 2 true) 1
      else verifyCopy (lodestarReturned s b x) 2 false) := by
  change execLodestarRestartDone b ok s = _
  unfold execLodestarRestartDone
  rw [hrestart]
  rfl

theorem exec_beWatchdog {e : Nat} (hcan : canRestart s e = true) (ecc : Bool) :
    exec (.beWatchdog e ecc) s = .next (failHealth (stampChans s (beginRestart s e (b2n ecc))) 2) := by
  change execBeWatchdog e ecc s = _
  unfold execBeWatchdog
  exact if_neg (by simp [hcan])

theorem exec_beRestartDone {e : Nat} (he : e ≤ 3) (hrestart : (engine s e).restart.isSome = true) (hnoHandover : handingOver s e = false)
    (ms lv : Nat) (ok : Bool) :
    exec (.beRestartDone e ms lv ok) s = .next (verifyCopy (restartDone s e ms lv) (3 + e) ok) := by
  have hbusy : ¬(e > 3 ∨ (engine s e).restart.isNone = true) := by
    rintro (h | h)
    · omega
    · simp [Option.isNone_iff_eq_none.1 h] at hrestart
  change execBeRestartDone e ms lv ok s = _
  unfold execBeRestartDone
  rw [if_neg hbusy, hnoHandover]
  rfl

theorem exec_debugAttach_of_closed {k : Nat} (hk : k ≤ 1) (hawake : awake s = true) (hclosed : s.lifecycle = 2 ∨ s.lifecycle = 4) :
    exec (.debugAttach k) s = .next (s.modLode fun l => { l with refused := satAdd 32 l.refused 1 }) := by
  change execDebugAttach k s = _
  unfold execDebugAttach
  rw [if_neg (by simp [hawake]; omega), if_pos hclosed]

/-! ### The memory port, sensors and the log (R616 to R623) -/

theorem exec_memportBurstBoundary_of_none {m : Nat} (hawake : awake s = true) (hnone : memGrant s m = none) (a : Nat) :
    exec (.memportBurstBoundary m a) s = .next (s.modLode fun l => { l with burst := none }) := by
  change execMemportBurstBoundary m a s = _
  unfold execMemportBurstBoundary
  rw [if_neg (by simp [hawake]), hnone]

/-- A grant that no limit forces opens a burst. -/
theorem exec_memportBurstBoundary_of_some {m q : Nat} (hawake : awake s = true) (hgrant : memGrant s m = some (q, false)) (a : Nat) :
    exec (.memportBurstBoundary m a) s = .next (perfCount (perfCount (s.modLode fun l => { l with
      burst := some (q, s.now, a), lastGrant := q
      shares := (List.range 12).map fun k =>
        if k = q then { at' l.shares k {} with wait := 0, bursts := wrapAdd 64 (at' l.shares k {}).bursts 1 }
        else if bit m k then { at' l.shares k {} with
          wait := satAdd 16 (at' l.shares k {}).wait 1, peak := max (at' l.shares k {}).peak (satAdd 16 (at' l.shares k {}).wait 1) }
        else at' l.shares k {} }) 0x70 1) (0x100 + q) 1) := by
  change execMemportBurstBoundary m a s = _
  unfold execMemportBurstBoundary
  rw [if_neg (by simp [hawake]), hgrant]
  rfl

/-- The input voltage has no thresholds: its sample goes to the power controller too. -/
theorem exec_sensorSample_inputVoltage (hawake : awake s = true) (v : Int) :
    exec (.sensorSample 32 v) s =
      .next ((s.modLode fun l => { l with samples := tset l.samples 32 v }).modPow fun p => { p with inputMv := v.toNat }) := by
  have hsensor : sensorOk 32 = true := by decide
  change execSensorSample 32 v s = _
  unfold execSensorSample
  rw [if_neg (by simp [hawake, hsensor])]
  rfl

theorem exec_holdupCapMeasure {v1 v2 : Nat} (hon : s.power.on = true) (hday : s.power.state = 0) (hsupply : s.power.pfail = false)
    (hflash : flashWriting s = false) (hdrop : v2 < v1) (dw : Nat) :
    exec (.holdupCapMeasure dw v1 v2) s = .next (s.modLode fun l => { l with
      samples := tset l.samples 35 ((dw * 40000000000 / (88 * (v1 * v1 - v2 * v2)) : Nat) : Int) }) := by
  change execHoldupCapMeasure dw v1 v2 s = _
  unfold execHoldupCapMeasure
  exact if_neg (by simp [hon, hday, hsupply, hflash, hdrop])

theorem exec_logRecordProgram (hon : s.power.on = true) (hstate : s.power.state ≤ 1) (hsupply : s.power.pfail = false) :
    exec .logRecordProgram s = .next (programOne s) :=
  congrArg _ (if_pos (by simp [hon, hstate, hsupply]))

end

/-- Settles O27: each row as its own lemma says. -/
theorem lodestarRowsComplete : Obligations.lodestarRowsComplete := by
  unfold Obligations.lodestarRowsComplete
  intro s
  exact ⟨fun _ _ w hk hg hcomparing => exec_lockstepMismatch hk hg hcomparing w,
    fun _ _ a o hawake hm hq => (exec_lodestarEccError hawake hm hq a o false).trans (congrArg _ (if_neg Bool.false_ne_true)),
    fun _ _ a o hawake hm hq => (exec_lodestarEccError hawake hm hq a o true).trans (congrArg _ (if_pos rfl)),
    fun x b hrestart => ⟨lodestarReturned s b x, rfl, (exec_lodestarRestartDone hrestart b true).trans (congrArg _ (if_pos rfl)),
      (exec_lodestarRestartDone hrestart b false).trans (congrArg _ (if_neg Bool.false_ne_true))⟩,
    fun _ ecc hcan => exec_beWatchdog hcan ecc,
    fun _ ms lv ok he hrestart hnoHandover => exec_beRestartDone he hrestart hnoHandover ms lv ok,
    fun _ hk hawake hclosed => exec_debugAttach_of_closed hk hawake hclosed,
    fun _ => rfl,
    fun _ a hawake hnone => exec_memportBurstBoundary_of_none hawake hnone a,
    fun _ a _ hawake hgrant => exec_memportBurstBoundary_of_some hawake hgrant a,
    fun v hawake => exec_sensorSample_inputVoltage hawake v,
    fun dw _ _ hon hday hsupply hflash hdrop => exec_holdupCapMeasure hon hday hsupply hflash hdrop dw,
    exec_logRecordProgram⟩

end Sys2Proof.Machine
end

section
/-! PROOFS. Where an event goes, what its queue does with it, and a queue that starts afresh (R66, R107, R108, R112, R114). -/

namespace Sys2Proof.Machine

/-! ### The queue that takes an event (R108, R112, R114) -/

section
variable {s : State} {r : EvRec} {q : Nat}

theorem deliver_eq_ne {j : Nat} (h : j ≠ q) (s : State) (r : EvRec) : (deliver s q r).eq j = s.eq j := State.eq_modEq_ne h _

variable (hq : q < s.eqs.length)
include hq

/-- A queue with `FAULT` set numbers the record and loses it. -/
theorem deliver_eq_of_fault (hfault : (s.eq q).fault = true) :
    (deliver s q r).eq q = { s.eq q with seq := wrapAdd 32 (s.eq q).seq 1, lost := satAdd 16 (s.eq q).lost 1 } :=
  (State.eq_modEq_same hq _).trans (if_pos hfault)

variable (hok : (s.eq q).fault = false)
include hok

/-- A queue without fault in D0 numbers the record, which then waits to be written. -/
theorem deliver_eq_of_d0 (hd0 : s.host.d3hot = false) :
    (deliver s q r).eq q = { s.eq q with seq := wrapAdd 32 (s.eq q).seq 1, toWrite := (s.eq q).toWrite ++ [((s.eq q).seq, r)] } :=
  (State.eq_modEq_same hq _).trans ((if_neg (by simp [hok])).trans (if_neg (by simp [hd0])))

/-- A queue without fault in D3hot numbers the record and holds it. -/
theorem deliver_eq_of_d3hot (hd3 : s.host.d3hot = true) :
    (deliver s q r).eq q = holdRec s.now { s.eq q with seq := wrapAdd 32 (s.eq q).seq 1 } ((s.eq q).seq, r) :=
  (State.eq_modEq_same hq _).trans ((if_neg (by simp [hok])).trans (if_pos hd3))

end

/-- A record that is held, or lost in D3hot, leaves the sequence counter. -/
theorem holdRec_seq (now : Nat) (e : EvQueue) (x : Nat × EvRec) : (holdRec now e x).seq = e.seq := by
  unfold holdRec
  split <;> rfl

/-- Written, held or lost: a record that is delivered takes a sequence number. -/
theorem deliver_seq {s : State} {q : Nat} (hq : q < s.eqs.length) (r : EvRec) :
    ((deliver s q r).eq q).seq = ((s.eq q).seq + 1) % 2 ^ 32 := by
  cases hfault : (s.eq q).fault with
  | true => exact congrArg EvQueue.seq (deliver_eq_of_fault hq hfault)
  | false =>
    cases hd3 : s.host.d3hot with
    | true => exact (congrArg EvQueue.seq (deliver_eq_of_d3hot hq hfault hd3)).trans (holdRec_seq _ _ _)
    | false => exact congrArg EvQueue.seq (deliver_eq_of_d0 hq hfault hd3)

/-! ### From the event to its queue (R112, R625) -/

theorem logPut_eq (s : State) (x : LogRec) : ∃ lode, logPut s x = { s with lode := lode } := by
  unfold logPut
  split <;> exact ⟨_, rfl⟩

section
variable {s : State} {r : EvRec}

/-- An event that a queue takes changes that queue, and otherwise the log alone. -/
theorem emit_of_deliverTo {q : Nat} (h : deliverTo s r = some q) : ∃ lode, emit s r = deliver { s with lode := lode } q r := by
  unfold emit
  rw [h]
  dsimp only
  split
  · obtain ⟨lode, hlog⟩ := logPut_eq s { kind := 0, seq := (s.eq q).seq, ev := r, detail := [], uptimeMs := s.mb.uptimeMs }
    exact ⟨lode, congrArg (deliver · q r) hlog⟩
  · exact ⟨s.lode, rfl⟩

/-- An event that no queue takes changes no queue. -/
theorem emit_eqs_of_deliverTo_none (h : deliverTo s r = none) : (emit s r).eqs = s.eqs := by
  have hlogged : ∀ x : LogRec, (if logTakes s r then logPut s x else s).eqs = s.eqs := fun x => by
    obtain ⟨lode, hlog⟩ := logPut_eq s x
    rw [hlog]
    split <;> rfl
  unfold emit
  rw [h]
  dsimp only
  split <;> exact hlogged _

/-- An event of a routed type goes to the enabled queue of its route, if its severity reaches the minimum there. -/
theorem deliverTo_of_routed (htype : 6 ≤ r.type) (hq : (s.route r.type).queue ≤ 3) (hen : (s.eq (s.route r.type).queue).en = true) :
    deliverTo s r = if (s.route r.type).minSev ≤ r.sev then some (s.route r.type).queue else none := by
  unfold deliverTo
  dsimp only
  rw [if_neg (by omega), if_neg (by omega)]
  simp only [Nat.lt_succ_of_le hq, hen, true_and]

end

/-- Settles O55: the route decides whether the queue takes the event, and the queue numbers what it takes. -/
theorem eventDelivery : Obligations.eventDelivery := by
  unfold Obligations.eventDelivery
  rintro s ty sev level source _ p hlen htype rfl hq hen
  have hroute := deliverTo_of_routed (r := ⟨ty, sev, level, source, s.now, padTo 16 p⟩) htype hq hen
  refine ⟨fun hbelow => emit_eqs_of_deliverTo_none (hroute.trans (if_neg (Nat.not_le.2 hbelow))), fun hreached => ?_⟩
  obtain ⟨lode, hraise⟩ := emit_of_deliverTo (hroute.trans (if_pos hreached))
  rw [raise, hraise]
  have hqueue : (s.route ty).queue < ({ s with lode := lode } : State).eqs.length := hlen ▸ Nat.lt_succ_of_le hq
  refine ⟨deliver_seq hqueue _, fun j hj => deliver_eq_ne hj _ _, fun hok hd0 => ?written, fun hfault => ?lost⟩
  case written => exact congrArg EvQueue.toWrite (deliver_eq_of_d0 hqueue hok hd0)
  case lost =>
    rw [deliver_eq_of_fault hqueue hfault]
    exact ⟨rfl, Nat.min_comm _ _⟩

/-! ### A queue that starts (R66, R107, R111) -/

section
variable {s : State} {q : Nat}

/-- A queue whose records are all signalled raises no interrupt. -/
theorem signal_of_signalled (h : (s.eq q).unsig = 0) : signal s q = s := if_neg (by simp [irqDue, h])

theorem State.modHost_of_fixed {f : HostLink → HostLink} (h : f s.host = s.host) : s.modHost f = s := by
  unfold State.modHost
  rw [h]

/-- The queue `e` as an enable starts it. -/
def started (e : EvQueue) : EvQueue := { e with
  en := true, head := 0, tail := 0, seq := 0, phase := true, unsig := 0, times := [], lossRun := false, toWrite := [], held := [], heldLost := none }

/-- Without held host events an enable starts the queue and does nothing else. -/
theorem enableEq_of_no_heldHost (h : s.host.heldHost = []) : enableEq s q = s.modEq q started := by
  unfold enableEq
  rw [h]
  exact State.modHost_of_fixed (s := s.modEq q started) (congrArg (fun held => { s.host with heldHost := held }) h.symm)

theorem State.modEq_modEq (s : State) (q : Nat) (f g : EvQueue → EvQueue) : (s.modEq q f).modEq q g = s.modEq q (g ∘ f) := by
  unfold State.modEq
  rw [List.modify_modify_eq]

end

/-- Settles O56: the enable starts the queue, and a queue just started has nothing to signal. -/
theorem eqEnableStartsAfresh : Obligations.eqEnableStartsAfresh := by
  unfold Obligations.eqEnableStartsAfresh
  intro s q v hawake hlen hq hoff hctx hnone
  have hqueue : q < s.eqs.length := by omega
  obtain ⟨-, -, hstarts, -⟩ := eventRowsComplete q v s hq hawake
  have hexec := hstarts hoff hctx hqueue
  rw [enableEq_of_no_heldHost (s := s.modEq q _) hnone, State.modEq_modEq, signal_of_signalled (by rw [State.eq_modEq_same hqueue]; rfl)] at hexec
  exact ⟨_, hexec, State.eq_modEq_same hqueue _, fun j hj => State.eq_modEq_ne hj _, rfl, rfl, rfl, rfl, .modEq _ _ _⟩

end Sys2Proof.Machine
end

section
/-! PROOFS. The commands of group 0x01 (R138 to R144). -/

namespace Sys2Proof.Machine

/-- What RING_BIND hands on when it takes TX ring `k` from its domain. -/
def unboundRing (s : State) (k : Nat) : Done := {
  payload := le 1 k ++ le 1 0xFF ++ le 1 (tgetD s.ep.cur.ing.ringBind k 0xFF), tables := 1, commits := true
  st := s.modIt fun t => { t with ringBind := tdel t.ringBind k } }

theorem specRingBind_body_of_none {s : State} {p : List Byte} (hring : u p 0 1 ≤ 31) (hnone : u p 1 1 = 0xFF) (r : Req) :
    specRingBind.body s r p = .done (unboundRing s (u p 0 1)) := by
  unfold specRingBind
  dsimp only
  rw [checked_pass (by simp [chkSup, chkConf, hnone]; omega), hnone]
  rfl

section
variable {s s1 : State} {r : Req} {p : List Byte}

/-- EVQ_SET_ROUTE gives the types from the first to the clamped last one route. -/
theorem exec_evqSetRoute (hruns : Runs s specEvqSetRoute r p s1) (hqueue : u p 2 1 ≤ 3 ∨ u p 2 1 = 0xFF) :
    ∃ last sev, last = clampTo (u p 0 1) 255 (u p 1 1) ∧ sev = clampTo 0 7 (u p 3 1) ∧
      exec (.evqSetRoute r) s = .next (ends s specEvqSetRoute r p s1 {
        clamps := (clampField 1 (u p 0 1) 255 (u p 1 1)).off ++ (clampField 3 0 7 (u p 3 1)).off
        payload := le 1 (u p 0 1) ++ le 1 last ++ le 1 (u p 2 1) ++ le 1 sev
        st := { s1 with routes := setRoutes s1.routes (u p 0 1) (last + 1 - u p 0 1) { queue := u p 2 1, minSev := sev } } }) := by
  refine ⟨_, _, rfl, rfl, command_completes hruns ?_ rfl⟩
  unfold specEvqSetRoute
  dsimp only
  rw [checked_pass (by simp [chkSup]; omega)]
  rfl

/-- RING_BIND commits the ring's new domain, or its freedom from any. -/
theorem exec_ringBind (hruns : Runs s specRingBind r p s1) (hring : u p 0 1 ≤ 31)
    (hdomain : (u p 1 1 ≤ 7 ∧ inCarve s1 (u p 1 1) = true) ∨ u p 1 1 = 0xFF) (hfree : s1.ep.draining = false) :
    exec (.ringBind r) s = .next (ends s specRingBind r p s1 {
      payload := le 1 (u p 0 1) ++ le 1 (u p 1 1) ++ le 1 (tgetD s1.it.ringBind (u p 0 1) 0xFF), tables := 1, commits := true
      st := s1.modIt fun t => { t with
        ringBind := if u p 1 1 = 0xFF then tdel t.ringBind (u p 0 1) else tset t.ringBind (u p 0 1) (u p 1 1) } }) := by
  refine command_done hruns ?_ fun _ => hfree
  obtain ⟨hindex, hcarve⟩ | hnone := hdomain
  · have hnamed : u p 1 1 ≠ 0xFF := by omega
    simp only [specRingBind_body hring hindex hcarve, if_neg hnamed]
    rfl
  · rw [specRingBind_body_of_none hring hnone, hnone]
    rfl

/-- RX_STEER_SET steers every entry that its two selectors stand for. -/
theorem exec_rxSteerSet (hruns : Runs s specRxSteerSet r p s1) (hdomain : u p 0 1 ≤ 7 ∨ u p 0 1 = 0xFF) (hclass : u p 1 1 ≤ 7 ∨ u p 1 1 = 0xFF)
    (hring : u p 2 1 ≤ 31) :
    ∃ es, es = (eightOf (u p 0 1)).flatMap (fun d => (eightOf (u p 1 1)).map fun t => 8 * d + t) ∧
      exec (.rxSteerSet r) s = .next (ends s specRxSteerSet r p s1 {
        payload := le 1 (u p 0 1) ++ le 1 (u p 1 1) ++ le 1 (u p 2 1) ++ zeros 1 ++ le 1 es.length
        st := { s1 with dma := { s1.dma with steer := es.foldl (fun m e => tset m e (u p 2 1)) s1.dma.steer } } }) := by
  refine ⟨_, rfl, command_completes hruns ?_ rfl⟩
  unfold specRxSteerSet
  dsimp only
  rw [checked_pass (by simp [chkSup]; omega)]

/-- DMA_GET_COUNTERS answers the counters of a ring, and clears them under FLAGS bit 0. -/
theorem exec_dmaGetCounters (hruns : Runs s specDmaGetCounters r p s1) (hring : u p 0 1 ≤ 63) :
    exec (.dmaGetCounters r) s = .next (ends s specDmaGetCounters r p s1 {
      payload := le 1 (u p 0 1) ++ zeros 7 ++ le 8 (s1.ring (u p 0 1)).frames ++ le 8 (s1.ring (u p 0 1)).bytes ++
        le 4 (s1.ring (u p 0 1)).c0 ++ le 4 (s1.ring (u p 0 1)).c1 ++ le 4 (s1.ring (u p 0 1)).c2 ++ le 4 (s1.ring (u p 0 1)).c3 ++
        le 4 (s1.ring (u p 0 1)).c4 ++ le 4 (s1.ring (u p 0 1)).c5
      st := if u p 1 1 % 2 = 1 then s1.modRing (u p 0 1) fun g => { g with frames := 0, bytes := 0, c0 := 0, c1 := 0, c2 := 0, c3 := 0, c4 := 0, c5 := 0 }
        else s1 }) := by
  refine command_completes hruns ?_ rfl
  unfold specDmaGetCounters
  dsimp only
  rw [checked_pass (by simp [chkSup]; omega)]
  simp only [bit_zero, decide_eq_true_eq]

/-- ATU_GET_COUNTERS answers the counters of the ATU, and clears them under FLAGS bit 0. -/
theorem exec_atuGetCounters (hruns : Runs s specAtuGetCounters r p s1) :
    exec (.atuGetCounters r) s = .next (ends s specAtuGetCounters r p s1 {
      payload := le 8 s1.dma.atu.hits ++ le 8 s1.dma.atu.misses ++ le 8 s1.dma.atu.reads ++ le 4 s1.dma.atu.invals ++ le 4 s1.dma.atu.faults
      st := if u p 0 1 % 2 = 1 then s1.modAtu fun a => { a with hits := 0, misses := 0, reads := 0, invals := 0, faults := 0 } else s1 }) := by
  refine command_completes hruns ?_ rfl
  unfold specAtuGetCounters
  simp only [bit_zero, decide_eq_true_eq]

/-- The bytes of RX_STEER_GET: the ring of each of the 64 entries, by default that of the entry's traffic class. -/
def steerBytes (s : State) : List Byte := (List.range 64).map fun e => BitVec.ofNat 8 (tgetD s.dma.steer e (e % 8))

theorem steerBytes_length (s : State) : (steerBytes s).length = 64 := by simp [steerBytes]

/-- Byte 8 × domain + TC is the ring of that entry. -/
theorem steerBytes_getElem? {d tc : Nat} (hd : d ≤ 7) (htc : tc ≤ 7) (s : State) :
    (steerBytes s)[8 * d + tc]? = some (BitVec.ofNat 8 (tgetD s.dma.steer (8 * d + tc) tc)) := by
  have hentry : 8 * d + tc < 64 := by omega
  have hclass : (8 * d + tc) % 8 = tc := by omega
  simp [steerBytes, hentry, hclass]

/-- RX_STEER_GET answers the table and changes nothing. -/
theorem exec_rxSteerGet (hruns : Runs s specRxSteerGet r p s1) :
    exec (.rxSteerGet r) s = .next (ends s specRxSteerGet r p s1 { payload := steerBytes s1, st := s1 }) :=
  command_completes hruns rfl rfl

end

/-- Settles O2: each command completes with what its body answers. -/
theorem eventAndRingCommandsComplete : Obligations.eventAndRingCommandsComplete := by
  unfold Obligations.eventAndRingCommandsComplete
  intro r s s1 p
  exact ⟨fun hruns => command_completes hruns rfl rfl, exec_evqSetRoute, exec_ringBind, exec_rxSteerSet, exec_rxSteerGet, exec_dmaGetCounters,
    exec_atuGetCounters⟩

theorem lenIs_eq_none (n total : Nat) (p : List Byte) : lenIs n p total = none ↔ total = n := by simp [lenIs]

/-- Settles O53: RX_STEER_GET in its place in the command set, its checks of version and length, and its table. -/
theorem rxSteerGetTable : Obligations.rxSteerGetTable := by
  unfold Obligations.rxSteerGetTable
  refine ⟨rfl, rfl, fun p n => lenIs_eq_none 0 n p, fun _ _ hversion => preCheck_of_version rfl hversion, fun r s s1 p hruns => ?_⟩
  exact ⟨steerBytes s1, steerBytes_length s1, fun _ _ hd htc => steerBytes_getElem? hd htc s1, exec_rxSteerGet hruns⟩

end Sys2Proof.Machine
end

section
/-! PROOFS. The commands of group 0x02 (R174 to R181). -/

namespace Sys2Proof.Machine

/-- The state with the settings of PSE port `i` changed, after its controller has requested or returned its tokens (R147, R179). -/
def pseConfigured (s : State) (i : Nat) (c : PseCfg) : State :=
  pseController (s.modPorts fun x => { x with cfg := { x.cfg with pse := x.cfg.pse.set i c } }) (i / 4)

/-- The settings that a PSE_SET payload gives its port (R179). -/
def pseCfgOf (p : List Byte) : PseCfg := { enable := u p 1 1 = 1, prio := clampTo 0 3 (u p 2 1), maxClass := clampTo 1 6 (u p 3 1) }

/-- A legal PSE_SET leaves the settings of its port; a port that is switched off loses its power, and one that was disabled or denied starts. -/
theorem specPseSet_body {s : State} {p : List Byte} (hport : u p 0 1 ≤ 15) (hflag : u p 1 1 ≤ 1)
    (htype : u p 1 1 = 1 → groupType s (u p 0 1 / 4) ≤ 1) (r : Req) :
    specPseSet.body s r p = .done {
      clamps := (clampField 2 0 3 (u p 2 1)).off ++ (clampField 3 1 6 (u p 3 1)).off
      st := if !decide (u p 1 1 = 1) then pseRemove (pseConfigured s (u p 0 1) (pseCfgOf p)) (u p 0 1) 0
        else if (pseRun s (u p 0 1)).state = 0 ∨ (pseRun s (u p 0 1)).state = 4
          then pseStart (pseConfigured s (u p 0 1) (pseCfgOf p)) (u p 0 1) else pseConfigured s (u p 0 1) (pseCfgOf p)
      payload := le 1 (u p 0 1) ++ le 1 (b2n (pseCfgOf p).enable) ++ le 1 (pseCfgOf p).prio ++ le 1 (pseCfgOf p).maxClass } := by
  unfold specPseSet
  dsimp only
  rw [checked_pass (by simp [chkSup, chkConf]; omega)]
  rfl

section
variable {s s1 : State} {r : Req} {p : List Byte}

/-- PORT_GET_STATUS answers the state of one port and changes nothing. -/
theorem exec_portGetStatus (hruns : Runs s specPortGetStatus r p s1) (hport : u p 0 1 ≤ 32) :
    exec (.portGetStatus r) s = .next (ends s specPortGetStatus r p s1 {
      st := s1
      payload := le 1 (u p 0 1) ++ le 1 (portCfg s1 (u p 0 1)).admin ++ le 1 (portRun s1 (u p 0 1)).oper ++ le 1 (portRun s1 (u p 0 1)).speed ++
        le 1 (modeCode s1 (u p 0 1)) ++ le 1 (if isT1 s1 (u p 0 1) then (portCfg s1 (u p 0 1)).role else 0xFF) ++
        le 1 (b2n ((portRun s1 (u p 0 1)).oper == 3 && bit (portCfg s1 (u p 0 1)).flags 0 && (portRun s1 (u p 0 1)).partnerEee) +
          2 * b2n (portRun s1 (u p 0 1)).partnerEee + 4 * b2n ((portRun s1 (u p 0 1)).oper == 3 && (portRun s1 (u p 0 1)).how == 1) +
          8 * b2n ((portRun s1 (u p 0 1)).train.any fun x => (recordBad s1 (u p 0 1) x).isNone) +
          16 * b2n (holdsTokens s1 (16 + u p 0 1) && reservedCode s1 (16 + u p 0 1))) ++ zeros 1 ++
        le 8 (portRun s1 (u p 0 1)).since }) := by
  refine command_completes hruns ?_ rfl
  unfold specPortGetStatus
  dsimp only
  rw [checked_pass (by simp [chkSup]; omega)]
  cases (portRun s1 (u p 0 1)).train <;> rfl

/-- PORT_SET at an edge port that is not of a T1 type keeps its mode and role, so that no retained training is dropped. -/
theorem exec_portSet_of_edge (hruns : Runs s specPortSet r p s1) (hedge : 4 ≤ u p 0 1) (hport : u p 0 1 ≤ 31) (ht1 : isT1 s1 (u p 0 1) = false)
    (hadmin : u p 1 1 ≤ 1) (heee : bit (u p 5 1 % 8) 0 = true → zenithAt s1 (u p 0 1) = false) :
    ∃ c, c = { portCfg s1 (u p 0 1) with
        admin := u p 1 1, flags := u p 5 1 % 8, lpiIdleUs := clampTo 1 10000 (u p 6 2), maxAgeH := clampTo 1 8760 (u p 8 2) } ∧
      exec (.portSet r) s = .next (ends s specPortSet r p s1 {
        clamps := (clampField 6 1 10000 (u p 6 2)).off ++ (clampField 8 1 8760 (u p 8 2)).off
        st := zenithRecheck (applyAdmin (setPortCfg s1 (u p 0 1) c) (u p 0 1) (portCfg s1 (u p 0 1)).admin (u p 1 1))
        payload := le 1 (u p 0 1) ++ le 1 c.admin ++ le 1 c.mode ++ le 1 c.role ++ le 1 c.fec ++ le 1 c.flags ++ le 2 c.lpiIdleUs ++
          le 2 c.maxAgeH }) := by
  have hbackbone : ¬ u p 0 1 ≤ 3 := by omega
  have hsleep : u p 1 1 ≠ 2 := by omega
  refine ⟨_, rfl, command_completes hruns ?_ rfl⟩
  unfold specPortSet
  simp only [hbackbone, ht1, if_false, false_and, decide_false, Bool.false_eq_true, ne_eq, not_true_eq_false, or_self]
  rw [checked_pass (by simpa [chkSup, chkConf, chkPol, hsleep, Nat.not_lt.2 hport, Nat.lt_succ_of_le hadmin] using ⟨by omega, heee⟩)]
  rfl

/-- EDGE_GROUP_SET of a group whose ports are down, and without PSE where the type bears none. A change of type drops the records of the group. -/
theorem exec_edgeGroupSet (hruns : Runs s specEdgeGroupSet r p s1) (hgroup : u p 0 1 ≤ 5) (htype : u p 1 1 ≤ 3)
    (hdown : ∀ k, k < 4 → (portCfg s1 (4 + 4 * u p 0 1 + k)).admin = 0)
    (hpse : u p 0 1 ≤ 3 → 2 ≤ u p 1 1 → ∀ k, k < 4 → (pseCfg s1 (4 * u p 0 1 + k)).enable = false) :
    ∃ g, g = s1.modPorts (fun x => { x with cfg := { x.cfg with groups := x.cfg.groups.set (u p 0 1) (u p 1 1) } }) ∧
      exec (.edgeGroupSet r) s = .next (ends s specEdgeGroupSet r p s1 {
        payload := le 1 (u p 0 1) ++ le 1 (u p 1 1) ++ le 1 (groupType s1 (u p 0 1))
        st := zenithRecheck (if u p 1 1 = groupType s1 (u p 0 1) then g else
          ((List.range 4).map fun k => 4 + 4 * u p 0 1 + k).foldl (fun s q => dropRecord s q .changed) g) }) := by
  have hports : (((List.range 4).map fun k => 4 + 4 * u p 0 1 + k).any fun q => (portCfg s1 q).admin != 0) = false := by
    simpa using hdown
  have hpses : (decide (u p 0 1 ≤ 3) && decide (u p 1 1 ≥ 2) && (List.range 4).any fun k => (pseCfg s1 (4 * u p 0 1 + k)).enable) = false := by
    simpa using hpse
  refine ⟨_, rfl, command_completes hruns ?_ rfl⟩
  unfold specEdgeGroupSet
  dsimp only
  rw [checked_pass (by simp [chkSup, chkConf, hports, hpses]; omega)]

/-- PORT_GET_COUNTERS answers the counters of a port, and clears them under FLAGS bit 0. -/
theorem exec_portGetCounters (hruns : Runs s specPortGetCounters r p s1) (hport : u p 0 1 ≤ 32) :
    exec (.portGetCounters r) s = .next (ends s specPortGetCounters r p s1 {
      st := if u p 1 1 % 2 = 1 then modPort s1 (u p 0 1) fun x => { x with counters := List.replicate 16 0 } else s1
      payload := le 1 (u p 0 1) ++ zeros 7 ++ ((portRun s1 (u p 0 1)).counters.take 4).flatMap (le 8) ++
        ((portRun s1 (u p 0 1)).counters.drop 4).flatMap (le 4) }) := by
  refine command_completes hruns ?_ rfl
  unfold specPortGetCounters
  dsimp only
  rw [checked_pass (by simp [chkSup]; omega)]
  simp only [bit_zero, decide_eq_true_eq]

/-- PLCA_SET of a segment that is down leaves its settings. -/
theorem exec_plcaSet (hruns : Runs s specPlcaSet r p s1) (hsegment : u p 0 1 ≤ 3) (hflag : u p 1 1 ≤ 1)
    (hdown : (portCfg s1 (28 + u p 0 1)).admin = 0) (hnode : u p 2 1 < clampTo 2 8 (u p 3 1)) (hid : u p 2 1 ≤ 7) :
    ∃ c : Plca, c = { enable := u p 1 1 = 1, nodeId := u p 2 1, nodeCount := clampTo 2 8 (u p 3 1), toTimer := clampTo 1 255 (u p 4 1)
                      burstCnt := u p 5 1, burstTmr := clampTo 1 255 (u p 6 1) } ∧
      exec (.plcaSet r) s = .next (ends s specPlcaSet r p s1 {
        clamps := (clampField 3 2 8 (u p 3 1)).off ++ (clampField 4 1 255 (u p 4 1)).off ++ (clampField 6 1 255 (u p 6 1)).off
        st := s1.modPorts fun x => { x with cfg := { x.cfg with plca := x.cfg.plca.set (u p 0 1) c } }
        payload := le 1 (u p 0 1) ++ le 1 (b2n c.enable) ++ le 1 c.nodeId ++ le 1 c.nodeCount ++ le 1 c.toTimer ++ le 1 c.burstCnt ++
          le 1 c.burstTmr }) := by
  refine ⟨_, rfl, command_completes hruns ?_ rfl⟩
  unfold specPlcaSet
  dsimp only
  rw [checked_pass (by simp [chkSup, chkConf, clampField, hdown]; omega)]
  rfl

/-- PSE_SET that switches a port off removes its power. -/
theorem exec_pseSet_of_disable (hruns : Runs s specPseSet r p s1) (hport : u p 0 1 ≤ 15) (hoff : u p 1 1 = 0) :
    exec (.pseSet r) s = .next (ends s specPseSet r p s1 {
      clamps := (clampField 2 0 3 (u p 2 1)).off ++ (clampField 3 1 6 (u p 3 1)).off
      st := pseRemove (pseConfigured s1 (u p 0 1) { enable := false, prio := clampTo 0 3 (u p 2 1), maxClass := clampTo 1 6 (u p 3 1) }) (u p 0 1) 0
      payload := le 1 (u p 0 1) ++ le 1 0 ++ le 1 (clampTo 0 3 (u p 2 1)) ++ le 1 (clampTo 1 6 (u p 3 1)) }) := by
  refine command_completes hruns ((specPseSet_body hport (by omega) (by omega) _).trans ?_) rfl
  simp only [pseCfgOf, hoff, Nat.zero_ne_one, decide_false]
  rfl

/-- PSE_SET that switches a disabled port on starts it. -/
theorem exec_pseSet_of_enable (hruns : Runs s specPseSet r p s1) (hport : u p 0 1 ≤ 15) (hon : u p 1 1 = 1)
    (htype : groupType s1 (u p 0 1 / 4) ≤ 1) (hstate : (pseRun s1 (u p 0 1)).state = 0) :
    exec (.pseSet r) s = .next (ends s specPseSet r p s1 {
      clamps := (clampField 2 0 3 (u p 2 1)).off ++ (clampField 3 1 6 (u p 3 1)).off
      st := pseStart (pseConfigured s1 (u p 0 1) { enable := true, prio := clampTo 0 3 (u p 2 1), maxClass := clampTo 1 6 (u p 3 1) }) (u p 0 1)
      payload := le 1 (u p 0 1) ++ le 1 1 ++ le 1 (clampTo 0 3 (u p 2 1)) ++ le 1 (clampTo 1 6 (u p 3 1)) }) := by
  refine command_completes hruns ((specPseSet_body hport (by omega) (fun _ => htype) _).trans ?_) rfl
  simp only [pseCfgOf, hon, hstate, decide_true]
  rfl

/-- PSE_GET_STATUS answers the state of one PSE port and changes nothing. -/
theorem exec_pseGetStatus (hruns : Runs s specPseGetStatus r p s1) (hport : u p 0 1 ≤ 15) (x : PseRun) (hx : x = pseRun s1 (u p 0 1)) :
    exec (.pseGetStatus r) s = .next (ends s specPseGetStatus r p s1 {
      st := s1
      payload := le 1 (u p 0 1) ++ le 1 x.state ++ le 1 x.reqClass ++ le 1 x.grant ++ le 2 x.tokens ++ le 2 x.powerMw ++ le 2 s1.ports.railMv ++
        le 2 s1.power.poeTokens ++ le 2 (poeFree s1) ++ le 2 x.badSig }) := by
  subst hx
  refine command_completes hruns ?_ rfl
  unfold specPseGetStatus
  dsimp only
  rw [checked_pass (by simp [chkSup]; omega)]

/-- TRAINING_CLEAR of one port drops its record, if its mode supports one. -/
theorem exec_trainingClear_of_port (hruns : Runs s specTrainingClear r p s1) (hport : u p 0 1 ≤ 27) :
    exec (.trainingClear r) s = .next (ends s specTrainingClear r p s1 {
      payload := le 1 (b2n ((portRun s1 (u p 0 1)).train.isSome && canFast s1 (u p 0 1)))
      st := if canFast s1 (u p 0 1) then dropRecord s1 (u p 0 1) .fresh else s1 }) := by
  have hone : u p 0 1 ≠ 0xFF := by omega
  refine command_completes hruns ?_ rfl
  unfold specTrainingClear
  dsimp only
  rw [checked_pass (by simp [chkSup]; omega), if_neg hone]
  cases hhit : (portRun s1 (u p 0 1)).train.isSome && canFast s1 (u p 0 1) <;> simp [hhit, b2n]

end

/-- Settles O3: each command completes with what its body answers. -/
theorem portCommandsComplete : Obligations.portCommandsComplete := by
  unfold Obligations.portCommandsComplete
  intro r s s1 p
  exact ⟨exec_portGetStatus, exec_portSet_of_edge, exec_edgeGroupSet, exec_portGetCounters, exec_plcaSet, exec_pseSet_of_disable,
    exec_pseSet_of_enable, exec_pseGetStatus, exec_trainingClear_of_port⟩

end Sys2Proof.Machine
end

section
/-! PROOFS. The rows of the link state machine and of the PSE (R148, R149, R151 to R165, R168 to R172). -/

namespace Sys2Proof.Machine

section
variable {s : State} {p : Nat}

/-! ### A partner's signal, training and the loss of a link (R151 to R158, R164, R165) -/

/-- A T1S segment or P0 comes UP without training. -/
theorem exec_partnerSignalDetected_of_untrained (huntrained : 28 ≤ p) (hport : p ≤ 32) (hdown : (portRun s p).oper = 1) :
    exec (.partnerSignalDetected p) s = .next (setOper s p 3 6 2 (nominalSpeed s p)) := by
  change execPartnerSignalDetected p s = _
  unfold execPartnerSignalDetected
  rw [if_neg (by simp [hdown, hport]), if_pos (.inr huntrained)]

/-- An edge port without a record begins full training. -/
theorem exec_partnerSignalDetected_of_edge (hedge : 4 ≤ p) (hport : p ≤ 27) (hdown : (portRun s p).oper = 1)
    (hrecord : (portRun s p).train = none) :
    exec (.partnerSignalDetected p) s =
      .next (setOper (modPort s p fun r => { r with fastTry := false, matched := false, fastAt := s.now }) p 2 6 0 0) := by
  have hfast : (!(portRun s p).fullNext && (portRun s p).train.isSome && canFast s p) = false := by simp [hrecord]
  change execPartnerSignalDetected p s = _
  unfold execPartnerSignalDetected
  dsimp only
  rw [if_neg (by simp [hdown]; omega), if_neg (by omega), hfast]

/-- Full training of a port that retains none, with a partner that takes no EEE: it comes UP with no record. -/
theorem exec_trainingComplete_of_full {role : Nat} (hport : p ≤ 27) (htraining : (portRun s p).oper = 2) (hfull : (portRun s p).fastTry = false)
    (hrole : role ≠ (portCfg s p).role) (hretain : bit (portCfg s p).flags 1 = false) (coeffs fin : Nat) :
    exec (.trainingComplete p role false false coeffs fin) s =
      .next (setOper (modPort s p fun r => { r with partnerEee := false }) p 3 6 0 (nominalSpeed s p)) := by
  change execTrainingComplete p role false false coeffs fin s = _
  unfold execTrainingComplete
  dsimp only
  rw [if_neg (by simp [htraining, hport]), if_neg (by simp [hrole]), hfull, hretain]
  simp

/-- A fast start ends after the match. -/
theorem exec_trainingComplete_of_fast {role : Nat} (hport : p ≤ 27) (htraining : (portRun s p).oper = 2) (hfast : (portRun s p).fastTry = true)
    (hmatched : (portRun s p).matched = true) (hrole : role ≠ (portCfg s p).role) (coeffs fin : Nat) :
    exec (.trainingComplete p role false false coeffs fin) s = .next (setOper (portCount s p 13 1) p 3 6 1 (nominalSpeed s p)) := by
  change execTrainingComplete p role false false coeffs fin s = _
  unfold execTrainingComplete
  dsimp only
  rw [if_neg (by simp [htraining, hport]), if_neg (by simp [hrole]), hfast, hmatched]
  rfl

theorem exec_trainingFailed (hport : p ≤ 32) (htraining : (portRun s p).oper = 2) (hfull : (portRun s p).fastTry = false) :
    exec (.trainingFailed p) s = .next (setOper s p 1 1 0 0) := by
  change execTrainingFailed p s = _
  exact if_neg (by simp [htraining, hfull, hport])

theorem exec_linkLoss (hport : p ≤ 32) (hup : (portRun s p).oper = 3) (pcs : Bool) :
    exec (.linkLoss p pcs) s = .next (setOper (modPort s p fun r => { r with fullNext := true }) p 1 (if pcs then 2 else 1) 0 0) := by
  change execLinkLoss p pcs s = _
  exact if_neg (by simp [hup, hport])

/-! ### The fast start before its match (R156, R157) -/

section
variable (hport : p ≤ 27) (htraining : (portRun s p).oper = 2) (hfast : (portRun s p).fastTry = true) (hopen : (portRun s p).matched = false)
include hport htraining hfast hopen

/-- A slave compares the fingerprint of an InfoField with that of its record: equal ones match, others end the fast start. -/
theorem exec_fastStartInfofieldRx_of_slave {t : TrainRec} (hrecord : (portRun s p).train = some t) (hslave : (portCfg s p).role = 1) (fin : Nat) :
    exec (.fastStartInfofieldRx p fin false) s =
      if fin = t.finger then .next (modPort s p fun r => { r with matched := true })
      else .next (fallback s p 6 ((s.now - (portRun s p).fastAt) / 1000)) := by
  change execFastStartInfofieldRx p fin false s = _
  unfold execFastStartInfofieldRx
  dsimp only
  rw [hrecord]
  dsimp only
  rw [if_neg (by simp [htraining, hfast, hopen, hport]), if_pos hslave]
  simp only [decide_eq_true_eq]

/-- Without an answer the fast start ends 2 ms after its first InfoField. -/
theorem exec_fastStartTimeout_of_unmatched :
    ∃ t, t = s.until ((portRun s p).fastAt + 2000000) ∧
      exec (.fastStartTimeout p) s = .next (fallback t p 5 ((t.now - (portRun s p).fastAt) / 1000)) := by
  refine ⟨_, rfl, ?_⟩
  change execFastStartTimeout p s = _
  unfold execFastStartTimeout
  dsimp only
  rw [if_neg (by simp [htraining, hfast, hport]), hopen]
  rfl

end

/-! ### Power of a port (R148, R149, R160, R161) -/

theorem exec_tokenRetryTimer (hport : p ≤ 32) (hdenied : (portRun s p).oper = 5) : exec (.tokenRetryTimer p) s = .next (startPort s p 0) := by
  change execTokenRetryTimer p s = _
  exact if_neg (by simp [hdenied, hport])

/-- An idle EEE port enters low-power idle; within a second of its last event it raises no other one. -/
theorem exec_eeeIdleTimer_of_sampled (hedge : 4 ≤ p) (hport : p ≤ 27) (ht1 : isT1 s p = false) (hup : (portRun s p).oper = 3)
    (hawake : (portRun s p).lpi = false) (heee : bit (portCfg s p).flags 0 = true) (hpartner : (portRun s p).partnerEee = true)
    (hunreserved : zenithAt s p = false) (hidle : portIdle s p = true) (hevent : (portRun s p).lpiEvAt = some s.now) :
    exec (.eeeIdleTimer p) s = .next (portCount (modPort s p fun r => { r with lpi := true, lpiSince := r.lpiSince + 1 }) p 15 1) := by
  have hrecent : ¬ s.now + secondNs ≤ s.now := by simp [secondNs]
  change execEeeIdleTimer p s = _
  unfold execEeeIdleTimer
  dsimp only
  rw [if_neg (by simp [ht1, hup, hawake, heee, hpartner, hunreserved, hidle]; omega), hevent]
  exact if_neg (by simp [hrecent])

theorem exec_tc10SleepRequestRx (hport : p ≤ 27) (ht1 : isT1 s p = true) (hup : (portRun s p).oper = 3)
    (haccept : bit (portCfg s p).flags 2 = true) :
    exec (.tc10SleepRequestRx p) s = .next (tc10Sleep s p 1 true) := by
  change execTc10SleepRequestRx p s = _
  exact if_neg (by simp [ht1, hup, haccept, hport])

end

section
variable {s : State} {i : Nat}

/-! ### Beacons of a following node (R163) -/

theorem exec_plcaBeaconLoss (hsegment : i ≤ 3) (hfollows : (at' s.ports.cfg.plca i {}).nodeId ≠ 0) :
    exec (.plcaBeaconLoss i) s = .next (setPlca s i false) := by
  change execPlcaBeaconLoss i s = _
  exact if_neg (by simp [hfollows, hsegment])

theorem exec_plcaBeaconReturn (hsegment : i ≤ 3) (hfollows : (at' s.ports.cfg.plca i {}).nodeId ≠ 0)
    (henabled : (at' s.ports.cfg.plca i {}).enable = true) (hup : portUp s (28 + i) = true) :
    exec (.plcaBeaconReturn i) s = .next (setPlca s i true) := by
  change execPlcaBeaconReturn i s = _
  exact if_neg (by simp [hfollows, henabled, hup, hsegment])

/-! ### Detection, classification and the end of power (R168 to R172) -/

/-- A detecting port goes on to classify, or counts a bad signature. -/
theorem exec_pseDetection (hport : i ≤ 15) (hdetecting : (pseRun s i).state = 1) (valid : Bool) :
    exec (.pseDetection i valid) s =
      if valid then .next (modPse s i fun r => { r with state := 2 }) else .next (modPse s i fun r => { r with badSig := satAdd 16 r.badSig 1 }) := by
  change execPseDetection i valid s = _
  exact if_neg (by simp [hdetecting, hport])

/-- A single-signature PD requests the tokens of its class, demoted. -/
theorem exec_pseClassification_of_single {cls : Nat} (hport : i ≤ 15) (hclassifying : (pseRun s i).state = 2) (hclass : cls ≤ 8) :
    exec (.pseClassification i cls 0) s =
      .next (pseRequest (raisePse (modPse s i fun r => { r with reqClass := cls, need := classTokens (demote s i cls) }) i 0) i) := by
  change execPseClassification i cls 0 s = _
  unfold execPseClassification
  rw [if_neg (by simp [hclassifying, hport, hclass])]
  simp only [if_true, Nat.max_zero]

theorem exec_pseDisconnect (hport : i ≤ 15) (hconnected : (pseRun s i).state = 3 ∨ (pseRun s i).state = 4) :
    exec (.pseDisconnect i) s = .next (pseRemove s i 1) := by
  change execPseDisconnect i s = _
  exact if_neg (by omega)

theorem exec_pseFaultWaitExpiry (hport : i ≤ 15) (hwaiting : (pseRun s i).state = 5) (hsupply : s.ports.supplyFault = false) :
    exec (.pseFaultWaitExpiry i) s = .next (modPse s i fun r => { r with state := 1 }) := by
  change execPseFaultWaitExpiry i s = _
  exact if_neg (by simp [hwaiting, hsupply, hport])

/-! ### Faults of a port and of the supply (R172, R173) -/

/-- PSE port `i` has lost its power by a fault, which it counts, and waits. -/
def pseFaulted (s : State) (i : Nat) : State := modPse (pseOff s i 5) i fun r => { r with faults := wrapAdd 32 r.faults 1, reqClass := 0xFF }

/-- A fault of a powered port raises PSE_FAULT with its cause, and denied ports request again. -/
theorem pseFault_of_powered (hpowered : (pseRun s i).state = 3) (cause peak rail : Nat) :
    pseFault s i cause peak rail = pseRetry (raise (pseFaulted s i) 0x85 4 noLevel (srcId 1 (4 + i))
      (le 1 i ++ le 1 cause ++ le 2 (min peak 65535) ++ le 2 rail ++ zeros 2 ++ le 4 (pseRun (pseFaulted s i) i).faults)) :=
  if_neg (not_not_intro hpowered)

/-- What the failure of the supply does at PSE port `i`: power is removed, and a port that detects or classifies waits too. -/
def supplyLost (s : State) (i : Nat) : State :=
  if (pseRun s i).state = 3 then pseFaulted s i
  else if (pseRun s i).state = 1 ∨ (pseRun s i).state = 2 then modPse s i fun r => { r with state := 5 } else s

/-- The failure of the supply at a port leaves the state of the supply. -/
theorem supplyLost_supply (s : State) (i : Nat) :
    (supplyLost s i).ports.supplyFault = s.ports.supplyFault ∧ (supplyLost s i).ports.railMv = s.ports.railMv := by
  unfold supplyLost
  by_cases hpowered : (pseRun s i).state = 3
  · rw [if_pos hpowered]
    exact ⟨rfl, rfl⟩
  · rw [if_neg hpowered]
    by_cases hstarting : (pseRun s i).state = 1 ∨ (pseRun s i).state = 2
    · rw [if_pos hstarting]
      exact ⟨rfl, rfl⟩
    · rw [if_neg hstarting]
      exact ⟨rfl, rfl⟩

theorem foldl_supplyLost_supply (s : State) (l : List Nat) :
    (l.foldl supplyLost s).ports.supplyFault = s.ports.supplyFault ∧ (l.foldl supplyLost s).ports.railMv = s.ports.railMv := by
  induction l generalizing s with
  | nil => exact ⟨rfl, rfl⟩
  | cons i l ih =>
    obtain ⟨hfault, hrail⟩ := supplyLost_supply s i
    obtain ⟨hfaults, hrails⟩ := ih (supplyLost s i)
    exact ⟨hfaults.trans hfault, hrails.trans hrail⟩

/-- The supply has failed with the rail at `rail` mV: all 16 ports have lost their power. -/
def supplyFailed (s : State) (rail : Nat) : State :=
  (List.range 16).foldl supplyLost (s.modPorts fun x => { x with supplyFault := true, railMv := rail })

theorem supplyFailed_supply (s : State) (rail : Nat) :
    (supplyFailed s rail).ports.supplyFault = true ∧ (supplyFailed s rail).ports.railMv = rail := by
  obtain ⟨hfault, hrail⟩ := foldl_supplyLost_supply (s.modPorts fun x => { x with supplyFault := true, railMv := rail }) (List.range 16)
  unfold supplyFailed
  rw [hfault, hrail]
  exact ⟨rfl, rfl⟩

theorem exec_pseSupplyFault (hsupply : s.ports.supplyFault = false) (rail : Nat) :
    exec (.pseSupplyFault rail) s = .next (raise (supplyFailed s rail) 0x85 4 noLevel (srcId 1 4)
      (le 1 0xFF ++ le 1 3 ++ le 2 0 ++ le 2 rail ++ zeros 2 ++ le 4 (pseRun (supplyFailed s rail) 0).faults)) := by
  change execPseSupplyFault rail s = _
  exact if_neg (by simp [hsupply])

/-- The rail is good again: every port in the fault wait detects. -/
theorem exec_pseSupplyRecovery (hsupply : s.ports.supplyFault = true) (rail : Nat) :
    exec (.pseSupplyRecovery rail) s = .next ((List.range 16).foldl
      (fun s i => if (pseRun s i).state = 5 then modPse s i fun r => { r with state := 1 } else s)
      (s.modPorts fun x => { x with supplyFault := false, railMv := rail })) := by
  change execPseSupplyRecovery rail s = _
  exact if_neg (by simp [hsupply])

end

/-- Settles O4: each row as its own lemma says; the four faults of a port differ in their cause alone. -/
theorem portRowsComplete : Obligations.portRowsComplete := by
  unfold Obligations.portRowsComplete
  intro p i s
  refine ⟨exec_partnerSignalDetected_of_untrained, exec_partnerSignalDetected_of_edge,
    fun _ fin coeffs hport htraining hfull _ hrole hretain => exec_trainingComplete_of_full hport htraining hfull hrole hretain coeffs fin,
    fun _ fin coeffs hport htraining hfast hmatched hrole => exec_trainingComplete_of_fast hport htraining hfast hmatched hrole coeffs fin,
    exec_trainingFailed, fun pcs hport hup => exec_linkLoss hport hup pcs, ?sameFinger, ?otherFinger, exec_fastStartTimeout_of_unmatched,
    exec_tokenRetryTimer, exec_eeeIdleTimer_of_sampled, exec_tc10SleepRequestRx, exec_plcaBeaconLoss, exec_plcaBeaconReturn,
    fun hport hdetecting => exec_pseDetection hport hdetecting true, fun hport hdetecting => exec_pseDetection hport hdetecting false,
    fun _ => exec_pseClassification_of_single, ?fault, fun rail hsupply => ⟨_, exec_pseSupplyFault hsupply rail, ?supply⟩,
    fun rail hsupply => exec_pseSupplyRecovery hsupply rail, exec_pseDisconnect, exec_pseFaultWaitExpiry⟩
  case sameFinger =>
    intro fin t hport htraining hfast hopen hrecord hslave hfinger
    exact (exec_fastStartInfofieldRx_of_slave hport htraining hfast hopen hrecord hslave fin).trans (if_pos hfinger)
  case otherFinger =>
    intro fin t hport htraining hfast hopen hrecord hslave hfinger
    exact (exec_fastStartInfofieldRx_of_slave hport htraining hfast hopen hrecord hslave fin).trans (if_neg hfinger)
  case fault =>
    intro peak rail _ hpowered
    have hcause := fun cause => congrArg (Host.Outcome.next (φ := Fault) (ρ := Refusal)) (pseFault_of_powered hpowered cause peak rail)
    exact ⟨_, rfl, _, fun _ => rfl, hcause 0, hcause 1, hcause 1, hcause 2⟩
  case supply =>
    rw [(raise_untouched _ _ _ _ _ _).ports]
    exact supplyFailed_supply s rail

end Sys2Proof.Machine
end

section
/-! PROOFS. What the entries of the lists of group 0x03 leave in the shadow, and the list commands that apply them (R218 to R222, R225 to R227,
R229 to R231). -/

namespace Sys2Proof.Machine

theorem domain_le_of_inCarve {s : State} {d : Nat} (hcarve : inCarve s d = true) : d ≤ 7 := by
  simp only [inCarve, Bool.and_eq_true, decide_eq_true_eq] at hcarve
  omega

section
variable {off : Nat} {e : List Byte} {s : State}

/-! ### Domain map, parameters, VLANs (R219 to R221) -/

/-- A port's default entry. -/
theorem entryDomainMap_of_default (hport : u e 0 1 ≤ 33) (hkind : u e 1 1 = 0) (hdomain : u e 4 1 ≤ 7) (hcarve : inCarve s (u e 4 1) = true)
    (hpvid : 1 ≤ u e 6 2) (hpvidMax : u e 6 2 ≤ 4094) (haccept : u e 8 1 ≤ 2) (htrust : u e 9 1 ≤ 1) :
    entryDomainMap off e s = .ok (s.modIt fun t => { t with domDefault := tset t.domDefault (u e 0 1) {
        domain := u e 4 1, defPrio := clampTo 0 7 (u e 5 1), pvid := u e 6 2, accept := u e 8 1, trust := u e 9 1, flags := u e 10 1 % 4
        learnLimit := clampTo 1 65535 (u e 12 2) } },
      (clampField (off + 5) 0 7 (u e 5 1)).off ++ (clampField (off + 12) 1 65535 (u e 12 2)).off) := by
  unfold entryDomainMap
  dsimp only
  rw [entryOk_pass (by simp [chkSup, chkConf, mapPoint, hkind, hcarve]; omega)]
  simp [hport, hkind, clampField]

/-- A VID override of a port is removed. -/
theorem entryDomainMap_of_remove (hport : u e 0 1 ≤ 33) (hkind : u e 1 1 = 2) (hvid : 1 ≤ u e 2 2) (hvidMax : u e 2 2 ≤ 4094)
    (hknown : thas s.it.domOvr (4096 * u e 0 1 + u e 2 2) = true) :
    entryDomainMap off e s = .ok (s.modIt fun t => { t with domOvr := tdel t.domOvr (4096 * u e 0 1 + u e 2 2) }, []) := by
  unfold entryDomainMap
  dsimp only
  rw [entryOk_pass (by simp [chkSup, chkConf, mapPoint, hkind, hknown]; omega), if_pos hkind]

/-- The parameters of a domain, each clamped to its range. -/
theorem entryDomainParams_of_inCarve (hcarve : inCarve s (u e 0 1) = true) :
    ∃ x cl, entryDomainParams off e s = .ok (s.modIt fun t => { t with domParams := tset t.domParams (u e 0 1) x }, cl) ∧
      x.flags = u e 1 1 % 8 ∧ x.agingS = clampTo 10 1000000 (u e 4 4) ∧ x.dscp = (List.range 64).map fun i => clampTo 0 7 (u e (8 + i) 1) := by
  have hdomain := domain_le_of_inCarve hcarve
  refine ⟨{ flags := u e 1 1 % 8, agingS := clampTo 10 1000000 (u e 4 4), dscp := (List.range 64).map fun i => clampTo 0 7 (u e (8 + i) 1) },
    (clampField (off + 4) 10 1000000 (u e 4 4)).off ++ (List.range 64).flatMap fun i => (clampField (off + 8 + i) 0 7 (u e (8 + i) 1)).off,
    ?_, rfl, rfl, rfl⟩
  unfold entryDomainParams
  dsimp only
  rw [entryOk_pass (by simp [chkSup, chkConf, hcarve, hdomain]), List.map_map, List.flatMap_map]
  rfl

/-- The VIDs from the first to the clamped last one leave their domain. -/
theorem entryVlan_of_remove (hcarve : inCarve s (u e 0 1) = true) (hop : u e 1 1 = 1) (hvid : 1 ≤ u e 2 2) (hvidMax : u e 2 2 ≤ 4094) :
    entryVlan off e s = .ok (s.modIt fun t => { t with
        vlans := setVlans (u e 0 1) none (clampTo (u e 2 2) 4094 (u e 4 2) + 1 - u e 2 2) (u e 2 2) t.vlans },
      (clampField (off + 4) (u e 2 2) 4094 (u e 4 2)).off) := by
  have hdomain := domain_le_of_inCarve hcarve
  unfold entryVlan
  dsimp only
  rw [entryOk_pass (by simp [chkSup, chkConf, hcarve, hop]; omega)]
  simp [hop, clampField]

/-- The VIDs from the first to the clamped last one get their members; untagged ports that are members are not cut. -/
theorem entryVlan_of_set (hcarve : inCarve s (u e 0 1) = true) (hop : u e 1 1 = 0) (hvid : 1 ≤ u e 2 2) (hvidMax : u e 2 2 ≤ 4094)
    (huntagged : setInter (portSet (u e 16 8)) (portSet (u e 8 8)) = portSet (u e 16 8)) :
    entryVlan off e s = .ok (s.modIt fun t => { t with
        vlans := setVlans (u e 0 1) (some { members := portSet (u e 8 8), untagged := portSet (u e 16 8) })
          (clampTo (u e 2 2) 4094 (u e 4 2) + 1 - u e 2 2) (u e 2 2) t.vlans },
      (clampField (off + 4) (u e 2 2) 4094 (u e 4 2)).off) := by
  have hdomain := domain_le_of_inCarve hcarve
  unfold entryVlan
  dsimp only
  rw [entryOk_pass (by simp [chkSup, chkConf, hcarve, hop]; omega)]
  simp [hop, huntagged, clampField]

/-! ### Streams (R225, R226) -/

theorem entryStreamId_of_remove (hindex : u e 0 2 ≤ 8191) (htype : u e 4 1 = 0) (hknown : thas s.it.streamIds (u e 0 2) = true) :
    entryStreamId off e s = .ok (s.modIt fun t => { t with streamIds := tdel t.streamIds (u e 0 2) }, []) := by
  have hdelete : (streamIdOf e).type = 0 := htype
  unfold entryStreamId
  dsimp only
  rw [entryOk_pass (by simp [chkSup, chkConf, hdelete, hknown]; omega)]
  simp [hdelete]

/-- An entry that identifies a stream by MAC address and VID matches in every domain. -/
theorem entryStreamId_of_mac (hindex : u e 0 2 ≤ 8191) (hhandle : u e 2 2 ≤ 4095) (htype : u e 4 1 = 1 ∨ u e 4 1 = 2) (hdomain : u e 5 1 = 0xFF)
    (htagged : u e 6 1 ≤ 2) (hvid : u e 16 2 = 0xFFFF) :
    entryStreamId off e s = .ok (s.modIt fun t => { t with streamIds := tset t.streamIds (u e 0 2) (streamIdOf e) }, []) := by
  have hset : u e 4 1 ≠ 0 := by omega
  unfold entryStreamId
  dsimp only
  rw [entryOk_pass (by simp [chkSup, chkConf, streamIdOf, hdomain, hvid]; omega)]
  simp [streamIdOf, hset]

theorem entryStream_of_remove (hhandle : u e 0 2 ≤ 4095) (hop : u e 2 1 = 1) (hknown : thas s.it.streams (u e 0 2) = true) :
    entryStream off e s = .ok (s.modIt fun t => { t with streams := tdel t.streams (u e 0 2) }, []) := by
  unfold entryStream
  dsimp only
  rw [entryOk_pass (by simp [chkSup, chkConf, hop, hknown]; omega), if_pos hop]

theorem entryStream_of_set (hhandle : u e 0 2 ≤ 4095) (hop : u e 2 1 = 0) (hgen : u e 6 2 ≤ 1023 ∨ u e 6 2 = 0xFFFF)
    (hrecovery : u e 8 2 ≤ 1023 ∨ u e 8 2 = 0xFFFF) (hmirror : u e 10 1 ≤ 3 ∨ u e 10 1 = 0xFF) :
    entryStream off e s = .ok (s.modIt fun t => { t with streams := tset t.streams (u e 0 2) {
        flags := u e 3 1 % 4, prio := clampTo 0 7 (u e 4 1), cdest := u e 5 1 % 8, gen := u e 6 2, rcvy := u e 8 2, mirror := u e 10 1 } },
      (clampField (off + 4) 0 7 (u e 4 1)).off) := by
  have hset : u e 2 1 ≠ 1 := by omega
  unfold entryStream
  dsimp only
  rw [entryOk_pass (by simp [chkSup, chkConf, hop]; omega), if_neg hset]
  rfl

/-! ### Filters, meters, FRER, mirrors (R227, R229 to R231) -/

/-- A filter is set; the counters of an index that was deleted start from 0 (R215). -/
theorem entryFilter_of_set (hindex : u e 0 2 ≤ 4095) (hop : u e 2 1 = 0) (hhandle : u e 4 2 ≤ 4095) (hprio : u e 6 1 ≤ 7)
    (hgate : u e 10 2 ≤ 1023 ∨ u e 10 2 = 0xFFFF) (hmeter : u e 12 2 ≤ 2047 ∨ u e 12 2 = 0xFFFF) :
    entryFilter off e s = .ok (ctrAddIndex (s.modIt fun t => { t with filters := tset t.filters (u e 0 2) {
        flags := u e 3 1 % 16, handle := u e 4 2, prio := u e 6 1, maxSdu := clampTo 64 9216 (u e 8 2), gate := u e 10 2, meter := u e 12 2 } })
      0 (u e 0 2), (clampField (off + 8) 64 9216 (u e 8 2)).off) := by
  have hset : u e 2 1 ≠ 1 := by omega
  unfold entryFilter
  dsimp only
  rw [entryOk_pass (by simp [chkSup, chkConf, hop]; omega), if_neg hset]
  rfl

/-- A meter set without `KEEP_TOKENS` begins with both buckets full. -/
theorem entryMeter_of_full (hindex : u e 0 2 ≤ 2047) (hop : u e 2 1 = 0) (hkeep : bit (u e 3 1) 4 = false) :
    ∃ m cl, entryMeter off e s = .ok (ctrAddIndex ((s.modIt fun t => { t with meters := tset t.meters (u e 0 2) m }).modIng fun d => { d with
          meters := tset d.meters (u e 0 2) { tgetD s.ing.meters (u e 0 2) {} with tc := m.cbs * 1024, te := m.ebs * 1024, last := s.time.raw } })
          1 (u e 0 2), cl) ∧
      m = { flags := u e 3 1 % 32, cir := clampTo 0 100000000 (u e 4 4), cbs := clampTo 0 16777215 (u e 8 4)
            eir := clampTo 0 100000000 (u e 12 4), ebs := clampTo 0 16777215 (u e 16 4) } := by
  have hset : u e 2 1 ≠ 1 := by omega
  have hflag : bit (u e 3 1 % 32) 4 = false := by
    simpa [bit, Nat.testBit_mod_two_pow (u e 3 1) 5 4] using hkeep
  refine ⟨_, (clampField (off + 4) 0 100000000 (u e 4 4)).off ++ (clampField (off + 8) 0 16777215 (u e 8 4)).off ++
    (clampField (off + 12) 0 100000000 (u e 12 4)).off ++ (clampField (off + 16) 0 16777215 (u e 16 4)).off, ?_, rfl⟩
  unfold entryMeter
  dsimp only
  rw [entryOk_pass (by simp [chkSup, chkConf, hop]; omega), if_neg hset, hflag]
  rfl

theorem entryFrer_of_generation (hindex : u e 0 2 ≤ 1023) (hop : u e 2 1 = 0) (hkind : u e 3 1 = 0) :
    entryFrer off e s = .ok (ctrAddIndex (s.modIt fun t => { t with generation := tset t.generation (u e 0 2) () }) 3 (u e 0 2), []) := by
  have hset : u e 2 1 ≠ 1 := by omega
  unfold entryFrer
  dsimp only
  rw [entryOk_pass (by simp [chkSup, chkConf, hop, hkind]; omega), if_pos hkind, if_neg hset]

/-- A recovery function that is new begins with an empty history. -/
theorem entryFrer_of_recovery (hindex : u e 0 2 ≤ 1023) (hop : u e 2 1 = 0) (hkind : u e 3 1 = 1) (halgo : u e 4 1 ≤ 1)
    (hnew : tget s.it.recovery (u e 0 2) = none) :
    ∃ x cl, entryFrer off e s = .ok ((ctrAddIndex (s.modIt fun t => { t with recovery := tset t.recovery (u e 0 2) x }) 2 (u e 0 2)).modIng
        fun d => { d with recovery := tset d.recovery (u e 0 2) {} }, cl) ∧
      x = { algo := u e 4 1, history := clampTo 2 64 (u e 5 1), flags := u e 6 1 % 8, paths := clampTo 2 8 (u e 7 1)
            resetMs := clampTo 1 65535 (u e 8 2), latentDiff := clampTo 1 65535 (u e 10 2), latentMs := clampTo 100 3600000 (u e 12 4) } := by
  have hset : u e 2 1 ≠ 1 := by omega
  have hrecovery : u e 3 1 ≠ 0 := by omega
  refine ⟨_, (clampField (off + 5) 2 64 (u e 5 1)).off ++ (clampField (off + 7) 2 8 (u e 7 1)).off ++
    (clampField (off + 8) 1 65535 (u e 8 2)).off ++ (clampField (off + 10) 1 65535 (u e 10 2)).off ++ (clampField (off + 12) 100 3600000 (u e 12 4)).off, ?_, rfl⟩
  unfold entryFrer
  dsimp only
  rw [entryOk_pass (by simp [chkSup, chkConf, hop, hkind]; omega), if_neg hrecovery, if_neg hset, hnew]
  rfl

/-- A mirror session copies to P33 or to a port of domain D3. -/
theorem entryMirror_of_dest (hindex : u e 0 1 ≤ 3) (henable : u e 1 1 ≤ 1) (hport : u e 2 1 ≤ 33)
    (hdest : u e 2 1 = 33 ∨ (tgetD s.it.domDefault (u e 2 1) {}).domain = 3) :
    entryMirror off e s = .ok (s.modIng fun x => { x with mirrors := x.mirrors.set (u e 0 1) {
        enable := u e 1 1 = 1, dest := u e 2 1, tc := clampTo 0 6 (u e 3 1), trunc := clampTo 64 9216 (u e 4 2), flags := u e 6 1 % 2
        srcPorts := portSet (u e 8 8) } }, (clampField (off + 3) 0 6 (u e 3 1)).off ++ (clampField (off + 4) 64 9216 (u e 4 2)).off) := by
  unfold entryMirror
  dsimp only
  rw [entryOk_pass (by simp [chkSup, chkPol]; omega)]
  rfl

end

/-- Settles O6: each entry leaves what its own lemma says. -/
theorem ingressEntriesApply : Obligations.ingressEntriesApply := by
  unfold Obligations.ingressEntriesApply
  intro off e s
  exact ⟨entryDomainMap_of_default, entryDomainMap_of_remove, entryDomainParams_of_inCarve, entryVlan_of_remove, entryVlan_of_set,
    entryStreamId_of_remove, entryStreamId_of_mac, entryStream_of_remove, entryStream_of_set, entryFilter_of_set, entryMeter_of_full,
    entryFrer_of_generation, entryFrer_of_recovery, entryMirror_of_dest⟩

/-! ### The list commands (R218) -/

/-- A list command of which every entry applies, and which meets no draining epoch, commits the shadow its entries leave. -/
theorem list_commits {sp : CmdSpec} {size tables : Nat} {f : Nat → List Byte → State → EntryRes}
    {g : Nat → List Byte → State → List Check} (hbody : sp.body = listBody size f g tables true)
    {r : Req} {s s1 t : State} {p : List Byte} {cl : List Nat}
    (hruns : Runs s sp r p s1) (happlies : ListApplies size f g p s1 t cl) (hfree : s1.ep.draining = false) :
    command sp r s = .next (ends s sp r p s1 (listDone p t cl tables true)) :=
  command_done hruns (hbody ▸ listBody_of happlies _) fun _ => hfree

/-- MIRROR_SET changes no epoch table, so a draining epoch does not matter to it. -/
theorem exec_mirrorSet {r : Req} {s s1 t : State} {p : List Byte} {cl : List Nat} (hruns : Runs s specMirrorSet r p s1)
    (happlies : ListApplies 16 entryMirror noShadowCheck p s1 t cl) :
    exec (.mirrorSet r) s = .next (ends s specMirrorSet r p s1 (listDone p t cl 0 false)) :=
  command_completes hruns (listBody_of happlies (asSubmitted r)) rfl

/-- Settles O5: the body of each command is `listBody` of its entries. -/
theorem ingressListsComplete : Obligations.ingressListsComplete := by
  unfold Obligations.ingressListsComplete
  intro r s s1 t p cl
  exact ⟨list_commits rfl, list_commits rfl, list_commits rfl, list_commits rfl, list_commits rfl, list_commits rfl, list_commits rfl,
    list_commits rfl, list_commits rfl, exec_mirrorSet⟩

end Sys2Proof.Machine
end

section
/-! PROOFS. The other commands of group 0x03 (R223, R224, R228, R232 to R234). -/

namespace Sys2Proof.Machine

section
variable {s s1 : State} {r : Req} {p : List Byte}

/-! ### FDB (R223, R224) -/

/-- FDB_FLUSH of one ingress point: the learnt entries of the domain, or of every domain, at that point go and are counted. -/
theorem exec_fdbFlush_of_point (hruns : Runs s specFdbFlush r p s1) (hdomain : u p 0 1 ≤ 7 ∨ u p 0 1 = 0xFF) (hpoint : bit (u p 1 1) 0 = true)
    (hport : u p 2 1 ≤ 33) (hnoVid : bit (u p 1 1) 1 = false) :
    ∃ hit : FdbLearnt → Bool, (∀ f, hit f = ((u p 0 1 == 0xFF || f.domain == u p 0 1) && f.point == u p 2 1)) ∧
      exec (.fdbFlush r) s = .next (ends s specFdbFlush r p s1 {
        payload := le 4 (s1.ing.learnt.map fun b => (b.2.filter hit).length).sum
        st := s1.modIng fun i => { i with learnt := i.learnt.map fun b => (b.1, b.2.filter fun f => !hit f) } }) := by
  refine ⟨_, fun _ => rfl, command_completes hruns ?_ rfl⟩
  unfold specFdbFlush
  dsimp only
  rw [checked_pass (by simp [chkSup, hpoint, hnoVid]; omega)]
  simp [hpoint, hnoVid]

/-- FDB_FLUSH without a point or VID: the learnt entries of the domain, or of every domain, go and are counted. -/
theorem exec_fdbFlush_of_domain (hruns : Runs s specFdbFlush r p s1) (hdomain : u p 0 1 ≤ 7 ∨ u p 0 1 = 0xFF) (hflags : u p 1 1 = 0) :
    ∃ hit : FdbLearnt → Bool, (∀ f, hit f = (u p 0 1 == 0xFF || f.domain == u p 0 1)) ∧
      exec (.fdbFlush r) s = .next (ends s specFdbFlush r p s1 {
        payload := le 4 (s1.ing.learnt.map fun b => (b.2.filter hit).length).sum
        st := s1.modIng fun i => { i with learnt := i.learnt.map fun b => (b.1, b.2.filter fun f => !hit f) } }) := by
  have hnoFlag : ∀ n, bit 0 n = false := Nat.zero_testBit
  refine ⟨_, fun _ => rfl, command_completes hruns ?_ rfl⟩
  unfold specFdbFlush
  dsimp only
  rw [checked_pass (by simp [chkSup, hflags, hnoFlag]; omega)]
  simp [hflags, hnoFlag]

/-- FDB_READ answers the occupied slots of its range. -/
theorem exec_fdbRead (hruns : Runs s specFdbRead r p s1) (hfirst : u p 0 4 ≤ 65535) :
    ∃ n rs, n = clampTo 1 (65536 - u p 0 4) (u p 4 4) ∧ rs = (fdbSlots s1).filter (fun e => u p 0 4 ≤ e.1 && e.1 < u p 0 4 + n) ∧
      exec (.fdbRead r) s = .next (ends s specFdbRead r p s1 {
        payload := le 4 (u p 0 4) ++ le 4 n ++ le 4 rs.length ++ rs.flatMap (·.2)
        clamps := (clampField 4 1 (65536 - u p 0 4) (u p 4 4)).off, st := s1 }) := by
  refine ⟨_, _, rfl, rfl, command_completes hruns ?_ rfl⟩
  unfold specFdbRead
  dsimp only
  rw [checked_pass (by simp [chkSup]; omega)]
  rfl

/-! ### Gates (R228) -/

/-- GATE_SET deletes a gate that no filter names. -/
theorem exec_gateSet_of_remove (hruns : Runs s specGateSet r p s1) (hindex : u p 0 2 ≤ 1023) (hop : u p 2 1 = 1) (hcount : u p 6 2 = 0)
    (hknown : thas s1.it.gates (u p 0 2) = true) (hfree : (s1.it.filters.any fun f => f.2.gate == u p 0 2) = false)
    (hepoch : s1.ep.draining = false) :
    exec (.gateSet r) s = .next (ends s specGateSet r p s1 {
      payload := le 2 (u p 0 2) ++ le 4 0 ++ le 8 0, tables := 8, commits := true
      st := (s1.modIt fun t => { t with gates := tdel t.gates (u p 0 2) }).modIng fun d => { d with gates := tdel d.gates (u p 0 2) } }) := by
  refine command_done hruns ?_ fun _ => hepoch
  unfold specGateSet bodyGateSet
  dsimp only
  rw [checked_pass (by simp [chkSup, chkConf, gateEntries, hop, hcount, hknown, hfree]; omega), if_pos hop]

/-- The checks of a gate list pass where each entry has a legal state and IPV. -/
theorem gateEntries_checks_pass {n : Nat} (hentries : ∀ x ∈ gateEntries p n, u x.2 8 1 ≤ 1 ∧ u x.2 9 1 ≤ 7) :
    ∀ c ∈ (gateEntries p n).flatMap fun e => [chkSup (u e.2 8 1 > 1) (e.1 + 8), chkSup (u e.2 9 1 > 7 && u e.2 9 1 != 0xFF) (e.1 + 9)],
      c.bad = false := by
  intro c hc
  obtain ⟨x, hx, hcheck⟩ := List.mem_flatMap.1 hc
  obtain ⟨hstate, hipv⟩ := hentries x hx
  simp only [List.mem_cons, List.not_mem_nil, or_false] at hcheck
  obtain rfl | rfl := hcheck
  · exact decide_eq_false (Nat.not_lt.2 hstate)
  · exact (congrArg (· && _) (decide_eq_false (Nat.not_lt.2 hipv))).trans (Bool.false_and _)

/-- The cycle of a GATE_SET payload: 0 stands for the sum of the intervals and is not clamped (R228). -/
def gateCycle (p : List Byte) : Clamped := if u p 16 4 = 0 then { val := 0, off := [] } else clampField 16 1000 1000000000 (u p 16 4)

theorem gateCycle_val (p : List Byte) : (gateCycle p).val = if u p 16 4 = 0 then 0 else clampTo 1000 1000000000 (u p 16 4) :=
  apply_ite Clamped.val ..

/-- The gate that a GATE_SET payload gives (R228). -/
def gateOf (p : List Byte) : Gate := {
  flags := u p 3 1 % 4, initState := u p 4 1, initIpv := u p 5 1, base := u p 8 8, cycle := (gateCycle p).val
  entries := ((gateEntries p (u p 6 2)).map fun e => gateEntryOf e.1 e.2).map (·.1) }

theorem eq_gateOf_of_fields {g : Gate} (hflags : g.flags = u p 3 1 % 4) (hinitState : g.initState = u p 4 1) (hinitIpv : g.initIpv = u p 5 1)
    (hbase : g.base = u p 8 8) (hcycle : g.cycle = if u p 16 4 = 0 then 0 else clampTo 1000 1000000000 (u p 16 4))
    (hentries : g.entries = (gateEntries p (u p 6 2)).map fun x => (gateEntryOf x.1 x.2).1) : g = gateOf p := by
  obtain ⟨flags, initState, initIpv, base, cycle, entries⟩ := g
  exact Gate.mk.injEq .. ▸ ⟨hflags, hinitState, hinitIpv, hbase, hcycle.trans (gateCycle_val p).symm, hentries.trans List.map_map.symm⟩

/-- GATE_SET gives a gate a list, which is pending until its start. -/
theorem exec_gateSet_of_list (hruns : Runs s specGateSet r p s1) (hindex : u p 0 2 ≤ 1023) (hop : u p 2 1 = 0) (hcount : 1 ≤ u p 6 2)
    (hcountMax : u p 6 2 ≤ 256) (hstate : u p 4 1 ≤ 1) (hipv : u p 5 1 ≤ 7)
    (hentries : ∀ x ∈ gateEntries p (u p 6 2), u x.2 8 1 ≤ 1 ∧ u x.2 9 1 ≤ 7) (hepoch : s1.ep.draining = false)
    (hpool : gatePool (s1.modIt fun t => { t with gates := tset t.gates (u p 0 2) (gateOf p) }).it ≤ 32768) :
    ∃ cl, exec (.gateSet r) s = .next (ends s specGateSet r p s1 {
      payload := le 2 (u p 0 2) ++ le 4 (gatePeriod (gateOf p)) ++ le 8 (scheduleStart (gateOf p).base (gatePeriod (gateOf p)) s1.now)
      clamps := cl, tables := 8, commits := true
      st := (s1.modIt fun t => { t with gates := tset t.gates (u p 0 2) (gateOf p) }).modIng fun d => { d with
        gates := tmod d.gates (u p 0 2) {} fun x => { x with
          pending := some (scheduleStart (gateOf p).base (gatePeriod (gateOf p)) s1.now, gateOf p) } } }) := by
  have hset : u p 2 1 ≠ 1 := by omega
  refine ⟨(gateCycle p).off ++ ((gateEntries p (u p 6 2)).map fun e => gateEntryOf e.1 e.2).flatMap (·.2),
    command_done hruns ?_ fun _ => hepoch⟩
  unfold specGateSet bodyGateSet
  dsimp only
  rw [checked_pass (List.forall_mem_append.2 ⟨by simp [chkSup, chkConf, hop]; omega, gateEntries_checks_pass hentries⟩), if_neg hset]
  exact if_neg (Nat.not_lt.2 hpool)

/-! ### Counters, dynamic state, tables (R232 to R234) -/

/-- COUNTERS_GET answers the counters of a configured index, and clears them under FLAGS bit 0. -/
theorem exec_countersGet (hruns : Runs s specCountersGet r p s1) (htable : u p 0 1 ≤ 5) (hindex : ingInPop (u p 0 1) (u p 2 2) = true)
    (hconfigured : ingConfigured s1 (u p 0 1) (u p 2 2) = true) :
    exec (.countersGet r) s = .next (ends s specCountersGet r p s1 {
      payload := le 1 (u p 0 1) ++ le 1 (b2n (s1.ing.deleted.contains (65536 * u p 0 1 + u p 2 2))) ++ le 2 (u p 2 2) ++ zeros 4 ++
        ctrBytes (ingWidths (u p 0 1)) (ingCtr s1 (u p 0 1) (u p 2 2)) ++ (if u p 0 1 = 3 then le 4 (tgetD s1.ing.nextSeq (u p 2 2) 0) else [])
      st := if u p 1 1 % 2 = 1 then s1.modIng fun d => { d with counters := tdel d.counters (65536 * u p 0 1 + u p 2 2) } else s1 }) := by
  refine command_completes hruns ?_ rfl
  unfold specCountersGet
  dsimp only
  rw [checked_pass (by simp [chkSup, chkConf, hindex, hconfigured]; omega)]
  simp only [bit_zero, decide_eq_true_eq]

/-- STATE_CLEAR of a filter: it blocks no more. -/
theorem exec_stateClear_of_filter (hruns : Runs s specStateClear r p s1) (htable : u p 0 1 = 0) (hindex : u p 2 2 ≤ 4095)
    (hknown : thas s1.it.filters (u p 2 2) = true) :
    exec (.stateClear r) s = .next (ends s specStateClear r p s1 {
      payload := le 1 (b2n (s1.ing.blocked.contains (u p 2 2)))
      st := s1.modIng fun d => { d with blocked := d.blocked.filter (· != u p 2 2) } }) := by
  refine command_completes hruns ?_ rfl
  unfold specStateClear
  simp only [htable]
  rw [checked_pass (by simp [chkSup, chkConf, hindex, hknown])]

/-- STATE_CLEAR of a meter: it marks red no more. -/
theorem exec_stateClear_of_meter (hruns : Runs s specStateClear r p s1) (htable : u p 0 1 = 1) (hindex : u p 2 2 ≤ 2047)
    (hknown : thas s1.it.meters (u p 2 2) = true) :
    exec (.stateClear r) s = .next (ends s specStateClear r p s1 {
      payload := le 1 (b2n (tgetD s1.ing.meters (u p 2 2) {}).allRed)
      st := s1.modIng fun d => { d with meters := tmod d.meters (u p 2 2) {} fun m => { m with allRed := false } } }) := by
  refine command_completes hruns ?_ rfl
  unfold specStateClear
  simp only [htable]
  rw [checked_pass (by simp [chkSup, chkConf, hindex, hknown])]

/-- STATE_CLEAR of a gate: it is latched no more. -/
theorem exec_stateClear_of_gate (hruns : Runs s specStateClear r p s1) (htable : u p 0 1 = 3) (hindex : u p 2 2 ≤ 1023)
    (hknown : thas s1.it.gates (u p 2 2) = true) :
    exec (.stateClear r) s = .next (ends s specStateClear r p s1 {
      payload := le 1 (b2n ((tgetD s1.ing.gates (u p 2 2) {}).latched != 0))
      st := s1.modIng fun d => { d with gates := tmod d.gates (u p 2 2) {} fun g => { g with latched := 0 } } }) := by
  refine command_completes hruns ?_ rfl
  unfold specStateClear
  simp only [htable]
  rw [checked_pass (by simp [chkSup, chkConf, hindex, hknown])]

/-- TABLE_READ answers the configured entries of its range. -/
theorem exec_tableRead (hruns : Runs s specTableRead r p s1) (htable : u p 0 1 ≤ 11) (hfirst : u p 2 2 < ingPopulation (u p 0 1)) :
    ∃ n, n = clampTo 1 (ingPopulation (u p 0 1) - u p 2 2) (u p 4 2) ∧
      exec (.tableRead r) s = .next (ends s specTableRead r p s1 {
        payload := le 2 (u p 2 2) ++ le 2 n ++ le 4 s1.ep.epoch ++
          ((ingTable s1 (u p 0 1)).filter fun e => u p 2 2 ≤ e.1 && e.1 < u p 2 2 + n).flatMap (·.2)
        clamps := (clampField 4 1 (ingPopulation (u p 0 1) - u p 2 2) (u p 4 2)).off, st := s1 }) := by
  refine ⟨_, rfl, command_completes hruns ?_ rfl⟩
  unfold specTableRead
  dsimp only
  rw [checked_pass (by simp [chkSup]; omega)]
  rfl

end

/-- Settles O7: each command completes with what its body answers. -/
theorem ingressCommandsComplete : Obligations.ingressCommandsComplete := by
  unfold Obligations.ingressCommandsComplete
  intro r s s1 p
  refine ⟨exec_fdbFlush_of_point, exec_fdbFlush_of_domain, exec_fdbRead, exec_gateSet_of_remove, ?list, exec_countersGet,
    exec_stateClear_of_filter, exec_stateClear_of_meter, exec_stateClear_of_gate, exec_tableRead⟩
  intro hruns hindex hop hcount hcountMax hstate hipv hchecks hepoch g hflags hinitState hinitIpv hbase hcycle hentries hpool
  obtain rfl := eq_gateOf_of_fields hflags hinitState hinitIpv hbase hcycle hentries
  exact exec_gateSet_of_list hruns hindex hop hcount hcountMax hstate hipv hchecks hepoch hpool

end Sys2Proof.Machine
end

section
/-! PROOFS. The rows of frames at ports, stream gates, FRER and the sessions of Horizon (R183 to R212, R249 to R264). -/

namespace Sys2Proof.Machine

section
variable {s : State}

/-! ### Frames at ports, FP13 and FP14 (R183 to R185, R189, R302, R405) -/

section
variable {p : Nat} {w : WireFrame}

/-- A whole frame that neither the MAC nor a consist role nor MACsec keeps back is received. -/
theorem exec_frameArrival_of_portUp (hawake : awake s = true) (hport : p ≤ 32) (hup : portUp s p = true) (hidle : (portRun s p).rx = none)
    (htaken : macTaken s p w = false) (hfree : conBlocked s p = none) (hpass : (macHead s p w).2 = true) :
    exec (.frameArrival p w true) s = .next (receiveWhole (macHead s p w).1 p w) := by
  have hnotGateway : p ≠ 34 := by omega
  change execFrameArrival p w true s = _
  unfold execFrameArrival portArrival
  rw [if_neg hnotGateway, if_neg (by simp [hawake]), if_pos hport, if_neg (by simp [hup, hidle]), if_neg (by simp [htaken]),
    if_neg (by simp [hfree])]
  simp [hpass]

/-- A frame that the MAC takes is counted when it is whole, and held to its end when only its head has come. -/
theorem exec_frameArrival_of_macTaken (hawake : awake s = true) (hport : p ≤ 32) (hup : portUp s p = true) (hidle : (portRun s p).rx = none)
    (htaken : macTaken s p w = true) (complete : Bool) :
    exec (.frameArrival p w complete) s = .next (if complete then discardedEnd s p w else
      modPort s p fun r => { r with rx := some { wire := w, held := true, gone := true } }) := by
  have hnotGateway : p ≠ 34 := by omega
  change execFrameArrival p w complete s = _
  unfold execFrameArrival portArrival
  rw [if_neg hnotGateway, if_neg (by simp [hawake]), if_pos hport, if_neg (by simp [hup, hidle]), if_pos htaken]
  cases complete <;> rfl

theorem exec_frameArrival_of_gateway {m : BusMsg} (hon : gatewayOn s = true) (holdest : oldestMsg s = some m) (complete : Bool) :
    exec (.frameArrival 34 w complete) s = .next (enterPipeline
      (perfCount (modEngine s (engineOf m.chan) fun e => { e with fifo := e.fifo.erase m }) 0x061 1) 34 none
      { data := carriageFrame m s.gw.cycle } true false).1 := by
  change execFrameArrival 34 w complete s = _
  unfold execFrameArrival
  rw [if_pos rfl, if_neg (by simp [hon]), holdest]

theorem exec_frameArrival_of_module (hawake : awake s = true) (complete : Bool) :
    exec (.frameArrival 35 w complete) s = .next (enterPipeline s 35 none { w with fcsOk := true, icvOk := true } true false).1 := by
  change execFrameArrival 35 w complete s = _
  unfold execFrameArrival portArrival
  rw [if_neg (by decide), if_neg (by simp [hawake]), if_neg (by decide), if_pos rfl]

variable {x : RxOpen}

/-- The end of a frame that MACsec discarded at its head. -/
theorem exec_frameEnd_of_gone (hport : p ≤ 32) (hrx : (portRun s p).rx = some x) (hgone : x.gone = true) :
    exec (.frameEnd p) s = .next (discardedEnd (modPort s p fun r => { r with rx := none }) p x.wire) := by
  change execFrameEnd p s = _
  unfold execFrameEnd
  rw [if_neg (by omega), hrx]
  exact if_pos hgone

/-- The end of a frame whose head went into the pipeline. -/
theorem exec_frameEnd_of_entered (hport : p ≤ 32) (hrx : (portRun s p).rx = some x) (hgone : x.gone = false) (hheld : x.held = false) :
    exec (.frameEnd p) s = .next (judgeEnd (modPort s p fun r => { r with rx := none }) p x) := by
  change execFrameEnd p s = _
  unfold execFrameEnd
  rw [if_neg (by omega), hrx]
  exact (if_neg (by simp [hgone])).trans (if_neg (by simp [hheld]))

end

/-! ### Re-entry at FP15 (R24, R212) -/

theorem exec_recirculationEntry_of_mirror {f : Frame} {fs : List Frame} {k : Nat} (hqueue : s.fab.recirc = f :: fs) (hmirror : f.mirrorOf = some k) :
    exec .recirculationEntry s = .next (enterFabric { f with id := s.fab.nextId, point := 36, txRing := none } true
      (perfCount (perfCount (ingCount (s.modFab fun b => { b with recirc := fs, nextId := b.nextId + 1 }) 5 36 0 1) 0x002 1) (0x280 + 36) 1)) := by
  change execRecirculationEntry s = _
  unfold execRecirculationEntry
  rw [hqueue]
  dsimp only
  rw [hmirror]

/-! ### FDB aging, stream gates, FRER (R196, R201, R202, R206, R208) -/

theorem exec_fdbAging {b : Nat} {keep : List FdbLearnt} (hbucket : tgetD s.ing.learnt b [] ≠ [])
    (hkeep : keep = (tgetD s.ing.learnt b []).filter fun x => s.now < x.stamp + (domParams s.it x.domain).agingS * secondNs) :
    exec (.fdbAging b) s = .next (s.modIng fun i => { i with learnt := if keep.isEmpty then tdel i.learnt b else tset i.learnt b keep }) := by
  subst hkeep
  change execFdbAging b s = _
  unfold execFdbAging
  exact if_neg (by simpa using hbucket)

theorem exec_streamGateEntryBoundary {g : Nat} {l : Gate} (hlist : (tgetD s.ing.gates g {}).list = some l) :
    ∃ v : State, v = s.until (gateNextBoundary l (tgetD s.ing.gates g {}) s.now) ∧
      exec (.streamGateEntryBoundary g) s = .next (v.modIng fun i => { i with gates := tset i.gates g { tgetD s.ing.gates g {} with
        index := gateIndexAt l (tgetD s.ing.gates g {}).start v.now, octets := 0 } }) := by
  refine ⟨_, rfl, ?_⟩
  change execStreamGateEntryBoundary g s = _
  unfold execStreamGateEntryBoundary
  dsimp only
  rw [hlist]

theorem exec_streamGateListChange {g : Nat} {x : Nat × Gate} (hpending : (tgetD s.ing.gates g {}).pending = some x) :
    exec (.streamGateListChange g) s = .next (startGateList (s.until x.1) g) := by
  change execStreamGateListChange g s = _
  unfold execStreamGateListChange
  rw [hpending]

section
variable {i : Nat} {c : Recovery} (hfunction : tget s.it.recovery i = some c)
include hfunction

/-- A recovery function that has a history resets it and reports its losses. -/
theorem exec_frerResetTimeout (hhistory : (tgetD s.ing.recovery i {}).takeAny = false) :
    ∃ v : State, v = resetHistory (s.until ((tgetD s.ing.recovery i {}).lastPass + c.resetMs * 1000000)) i ∧
      exec (.frerResetTimeout i) s = .next (raiseSampled v 0x26 2 2 (recoverySource s.it i) fun n =>
        le 2 i ++ le 1 0 ++ zeros 1 ++ le 2 (tgetD s.ing.recovery i {}).lastSeq ++ zeros 2 ++ le 4 (at' (ingCtr v 2 i) 5 0) ++ le 4 n) := by
  refine ⟨_, rfl, ?_⟩
  change execFrerResetTimeout i s = _
  unfold execFrerResetTimeout
  rw [hfunction]
  exact if_neg (by simp [hhistory])

/-- A latent period whose counts differ by no more than the permitted number ends without an event. -/
theorem exec_frerLatentPeriod_of_agreeing (hlatent : bit c.flags 1 = true)
    (hagree : (((c.paths - 1) * (tgetD s.ing.recovery i {}).perPassed : Nat) - ((tgetD s.ing.recovery i {}).perDup : Int)).natAbs ≤ c.latentDiff) :
    exec (.frerLatentPeriod i) s = .next (s.modIng fun x => { x with
      recovery := tset x.recovery i { tgetD s.ing.recovery i {} with perPassed := 0, perDup := 0 } }) := by
  change execFrerLatentPeriod i s = _
  unfold execFrerLatentPeriod
  rw [hfunction]
  exact (if_neg (by simp [hlatent])).trans (if_neg (Nat.not_lt.2 hagree))

end

/-! ### Sessions on-die and spilled (R252, R254 to R256) -/

theorem exec_sessionInsertWrite_cons {x : Sess} {xs : List Sess} (hpending : s.hor.pending = x :: xs) :
    exec .sessionInsertWrite s = .next (s.modHor fun h => { h with pending := xs, sessions := tset h.sessions x.index x }) := by
  change execSessionInsertWrite s = _
  unfold execSessionInsertWrite
  rw [hpending]

/-- The lowest slot of the spill store that holds no session. -/
def freeSlot (t : Tab Sess) : Nat := ((List.range (t.length + 1)).find? fun k => !thas t k).getD 0

theorem thas_freeSlot (t : Tab Sess) : thas t (freeSlot t) = false ∨ freeSlot t = 0 := by
  unfold freeSlot
  cases hfind : (List.range (t.length + 1)).find? fun k => !thas t k with
  | none => exact .inr rfl
  | some k => exact .inl (by simpa using List.find?_some hfind)

/-- A store that holds others and is not full takes the moved session at a free slot. -/
theorem exec_spillWrite_of_room {x : Sess} {xs : List Sess} (hbuffer : s.hor.spillBuf = x :: xs) (hothers : s.hor.spilled ≠ [])
    (hroom : s.hor.spilled.length < 1048576) :
    exec .spillWrite s = .next (s.modHor fun h => { h with spillBuf := xs, spilled := tset h.spilled (freeSlot s.hor.spilled) x }) := by
  have hnotFull : ¬ s.hor.spilled.length ≥ 1048576 := by omega
  change execSpillWrite s = _
  unfold execSpillWrite
  rw [hbuffer]
  simp only [hnotFull, if_false, List.isEmpty_iff, hothers]
  rfl

/-- The sweep of on-die session `i`: it goes if it has timed out. -/
theorem exec_sessionAgingSweep {i : Nat} {x : Sess} (hsession : tget s.hor.sessions i = some x) :
    exec (.sessionAgingSweep false i) s = .next (if sessTimedOut s x then
      horCount (s.modHor fun h => { h with sessions := tdel h.sessions i }) 3 0 1 1 else s) := by
  change execSessionAgingSweep false i s = _
  unfold execSessionAgingSweep
  rw [if_pos (by decide), hsession]

/-- A frame whose key neither the store nor the spill buffer holds re-enters as a miss. -/
theorem exec_restoreComplete_of_miss {f : Frame} {fs : List Frame} {w : Flow} (hrestore : s.hor.restore = f :: fs) (hflow : flowOf f = some w)
    (hstore : s.hor.spilled.find? (fun e => sameKey f.domain w e.2) = none) (hbuffer : s.hor.spillBuf.find? (sameKey f.domain w) = none) :
    exec .restoreComplete s = .next ((s.modHor fun h => { h with restore := fs }).modFab fun b => { b with recirc := b.recirc ++ [f] }) := by
  change execRestoreComplete s = _
  unfold execRestoreComplete
  rw [hrestore]
  dsimp only
  rw [hflow]
  dsimp only
  rw [State.modFab_hor, State.modHor_hor, hstore]
  dsimp only
  rw [hbuffer]

/-! ### The exception path (R258, R259) -/

theorem exec_exceptionHandler_of_log {x : ExcFrame} {xs : List ExcFrame} (hqueue : s.hor.excQueue = x :: xs) (hready : s.host.ready = true)
    (hhandler : x.handler = 0) :
    exec .exceptionHandler s = .next (logException (countOut (s.modHor fun h => { h with excQueue := xs }) x.frame.epoch) x.rule) := by
  change execExceptionHandler s = _
  unfold execExceptionHandler
  rw [hqueue]
  dsimp only
  simp only [hready, hhandler, Bool.not_true, Bool.false_eq_true, if_false]

theorem exec_exceptionDropEnd (hover : s.hor.excOver = true) :
    exec .exceptionDropEnd s = .next ((raiseOverload s 1).modHor fun h => { h with excOver := false }) :=
  congrArg _ (if_pos hover)

/-! ### The revocation sweep (R264) -/

section
variable {i : Nat} (hsweep : s.ep.sweep = some i)
include hsweep

theorem exec_revocationSweepVisit_of_none (hfind : s.hor.sessions.find? (fun e => i ≤ e.1 && e.2.epoch != s.ep.epoch) = none) :
    exec .revocationSweepVisit s = .next { s with ep := { s.ep with sweep := none } } := by
  change execRevocationSweepVisit s = _
  unfold execRevocationSweepVisit
  rw [hsweep]
  dsimp only
  rw [hfind]

section
variable {e : Nat × Sess} (hfind : s.hor.sessions.find? (fun e => i ≤ e.1 && e.2.epoch != s.ep.epoch) = some e)
include hfind

/-- The sweep's next old session is still permitted and keeps its place. -/
theorem exec_revocationSweepVisit_of_kept {y : Sess} (hkept : revalidate s e.2 = some y) :
    exec .revocationSweepVisit s = .next ({ s with ep := { s.ep with sweep := some (e.1 + 1) } }.modHor fun h => { h with
      sessions := tset h.sessions e.1 y }) := by
  change execRevocationSweepVisit s = _
  unfold execRevocationSweepVisit
  rw [hsweep]
  dsimp only
  rw [hfind]
  dsimp only
  rw [hkept]

/-- The sweep's next old session is permitted no more and goes. -/
theorem exec_revocationSweepVisit_of_removed (hremoved : revalidate s e.2 = none) :
    exec .revocationSweepVisit s = .next (horCount ({ s with ep := { s.ep with sweep := some (e.1 + 1) } }.modHor fun h => { h with
      sessions := tdel h.sessions e.1 }) 3 0 5 1) := by
  change execRevocationSweepVisit s = _
  unfold execRevocationSweepVisit
  rw [hsweep]
  dsimp only
  rw [hfind]
  dsimp only
  rw [hremoved]

end

end

end

/-- Settles O31: each row as its own lemma says. -/
theorem ingressRowsComplete : Obligations.ingressRowsComplete := by
  unfold Obligations.ingressRowsComplete
  intro s
  exact ⟨fun _ _ hawake hport hup hidle htaken hfree hpass => exec_frameArrival_of_portUp hawake hport hup hidle htaken hfree hpass,
    fun _ _ hawake hport hup hidle htaken => ⟨exec_frameArrival_of_macTaken hawake hport hup hidle htaken true,
      exec_frameArrival_of_macTaken hawake hport hup hidle htaken false⟩,
    fun _ c _ hon holdest => exec_frameArrival_of_gateway hon holdest c,
    fun _ c hawake => exec_frameArrival_of_module hawake c,
    fun _ _ => exec_frameEnd_of_gone,
    fun _ _ => exec_frameEnd_of_entered,
    fun _ _ _ => exec_recirculationEntry_of_mirror,
    fun _ _ => exec_fdbAging,
    fun _ _ => exec_streamGateEntryBoundary,
    fun _ _ => exec_streamGateListChange,
    fun _ _ => exec_frerResetTimeout,
    fun _ _ => exec_frerLatentPeriod_of_agreeing,
    fun _ _ => exec_sessionInsertWrite_cons,
    fun _ _ hbuffer hothers hroom => ⟨_, exec_spillWrite_of_room hbuffer hothers hroom, thas_freeSlot _⟩,
    fun _ _ hsession htimedOut => (exec_sessionAgingSweep hsession).trans (congrArg _ (if_pos htimedOut)),
    fun _ _ hsession hyoung => (exec_sessionAgingSweep hsession).trans (congrArg _ (if_neg (by simp [hyoung]))),
    fun _ _ _ => exec_restoreComplete_of_miss,
    fun _ _ => exec_exceptionHandler_of_log,
    exec_exceptionDropEnd,
    fun _ _ _ hsweep hfind hkept => exec_revocationSweepVisit_of_kept hsweep hfind hkept,
    fun _ _ hsweep hfind hremoved => exec_revocationSweepVisit_of_removed hsweep hfind hremoved,
    fun _ => exec_revocationSweepVisit_of_none⟩

end Sys2Proof.Machine
end

section
/-! PROOFS. What the entries of the lists of group 0x04 leave in the shadow (R269 to R273). -/

namespace Sys2Proof.Machine

section
variable {off : Nat} {e : List Byte} {s : State}

/-! ### Zones and the zone map (R269, R270) -/

/-- A new zone that is not its domain's default leaves the other zones as they are. -/
theorem entryZone_of_new (hop : u e 1 1 = 0) (hcarve : inCarve s (u e 2 1) = true) (hplain : bit (u e 3 1) 0 = false)
    (hnew : tget s.ht.zones (u e 0 1) = none) :
    entryZone off e s = .ok (horAddIndex (s.modHt fun t => { t with
      zones := tset t.zones (u e 0 1) { domain := u e 2 1, isDefault := false } }) 2 (u e 0 1), []) := by
  have hdomain := domain_le_of_inCarve hcarve
  unfold entryZone
  dsimp only
  rw [entryOk_pass (by simp [chkSup, chkConf, hop, hcarve, hnew, hdomain])]
  simp [hop, hplain]

/-- A configured zone is deleted; its counters go on (R215). -/
theorem entryZone_of_remove (hop : u e 1 1 = 1) (hknown : (tget s.ht.zones (u e 0 1)).isSome = true) :
    entryZone off e s = .ok (horDelIndex (s.modHt fun t => { t with zones := tdel t.zones (u e 0 1) }) 2 (u e 0 1), []) := by
  have hpresent : (tget s.ht.zones (u e 0 1)).isNone = false := Option.isNone_eq_false_iff.2 hknown
  unfold entryZone
  dsimp only
  rw [entryOk_pass (by simp [chkSup, chkConf, hop, hpresent]), if_pos hop]

/-- A VID entry of a point is set where the map of points has room. -/
theorem entryZoneMap_of_vid (hkind : u e 0 1 = 1) (hcarve : inCarve s (u e 1 1) = true) (hpoint : u e 2 1 ≤ 35) (hvid : 1 ≤ u e 4 2)
    (hvidMax : u e 4 2 ≤ 4094) (hroom : s.ht.points.length < 4096) :
    entryZoneMap off e s = .ok (s.modHt fun t => { t with points := tset t.points (pointKey (u e 1 1) (u e 2 1) (u e 4 2)) (u e 8 1) }, []) := by
  have hdomain := domain_le_of_inCarve hcarve
  unfold entryZoneMap
  simp only [hkind]
  rw [entryOk_pass (by simp [chkSup, chkConf, hcarve]; omega)]
  simp [hroom]

/-- A VID entry of a point is removed. -/
theorem entryZoneMap_of_remove (hkind : u e 0 1 = 3) (hcarve : inCarve s (u e 1 1) = true) (hpoint : u e 2 1 ≤ 35) (hvid : 1 ≤ u e 4 2)
    (hvidMax : u e 4 2 ≤ 4094) (hknown : thas s.ht.points (pointKey (u e 1 1) (u e 2 1) (u e 4 2)) = true) :
    entryZoneMap off e s = .ok (s.modHt fun t => { t with points := tdel t.points (pointKey (u e 1 1) (u e 2 1) (u e 4 2)) }, []) := by
  have hdomain := domain_le_of_inCarve hcarve
  unfold entryZoneMap
  simp only [hkind]
  rw [entryOk_pass (by simp [chkSup, chkConf, hcarve, hknown]; omega)]
  rfl

/-- A stream gets a zone. -/
theorem entryZoneMap_of_stream (hkind : u e 0 1 = 2) (hhandle : u e 6 2 ≤ 4095) (hzone : u e 8 1 ≠ 0xFF) :
    entryZoneMap off e s = .ok (s.modHt fun t => { t with streams := tset t.streams (u e 6 2) (u e 8 1) }, []) := by
  unfold entryZoneMap
  simp only [hkind]
  rw [entryOk_pass (by simp [chkSup, chkConf, hhandle])]
  exact if_neg hzone

/-! ### Zone pairs (R271) -/

/-- A pair returns to the default. -/
theorem entryZonePair_of_reset (hreset : bit (u e 10 1) 1 = true) :
    entryZonePair off e s = .ok (s.modHt fun t => { t with pairs := tdel t.pairs (256 * u e 0 1 + u e 1 1) }, []) := by
  unfold entryZonePair
  dsimp only
  rw [entryOk_pass (by simp [chkSup, hreset]), if_pos (.inl hreset)]

/-- A pair permits by its rules; with that policy it is never the default pair. -/
theorem entryZonePair_of_rules (hset : bit (u e 10 1) 1 = false) (hpolicy : u e 2 1 = 2) (hdefault : u e 3 1 ≤ 1) (hfirst : u e 4 2 ≤ 8191)
    (hlimiter : u e 8 2 ≤ 1023 ∨ u e 8 2 = 0xFFFF) :
    entryZonePair off e s = .ok (s.modHt fun t => { t with pairs := tset t.pairs (256 * u e 0 1 + u e 1 1) {
        policy := 2, dflt := u e 3 1, first := u e 4 2, count := clampTo 1 (8192 - u e 4 2) (u e 6 2), limiter := u e 8 2
        logDeny := bit (u e 10 1) 0 } }, (clampField (off + 6) 1 (8192 - u e 4 2) (u e 6 2)).off) := by
  unfold entryZonePair
  dsimp only
  rw [entryOk_pass (by simp [chkSup, hpolicy]; omega)]
  simp [hset, hpolicy, clampField]

/-! ### Rules and limiters (R272, R273) -/

theorem entryRule_of_remove (hindex : u e 0 2 ≤ 8191) (hop : u e 2 1 = 1) (hknown : thas s.ht.rules (u e 0 2) = true) :
    entryRule off e s = .ok (horDelIndex (s.modHt fun t => { t with rules := tdel t.rules (u e 0 2) }) 0 (u e 0 2), []) := by
  unfold entryRule
  dsimp only
  rw [entryOk_pass (by simp [chkSup, chkConf, hop, hknown]; omega), if_pos hop]

/-- A rule whose `MATCH` names no field checks none of the fields it does not match. -/
theorem entryRule_of_matchAll (hindex : u e 0 2 ≤ 8191) (hop : u e 2 1 = 0) (haction : u e 3 1 ≤ 4) (hmatch : u e 4 2 = 0)
    (hflags : u e 6 1 % 16 = 0) (hhandler : u e 65 1 ≤ 3) :
    ∃ x cl, entryRule off e s = .ok (horAddIndex (s.modHt fun t => { t with rules := tset t.rules (u e 0 2) x }) 0 (u e 0 2), cl) ∧
      x.action = u e 3 1 ∧ x.mtch = 0 ∧ x.flags = 0 ∧ x.profile = clampTo 0 7 (u e 64 1) ∧ x.handler = u e 65 1 := by
  have hset : u e 2 1 ≠ 1 := by omega
  have hnoBit : ∀ n, bit 0 n = false := Nat.zero_testBit
  unfold entryRule
  simp only [hmatch, hflags]
  rw [entryOk_pass (by simp [chkSup, chkConf, bits, hnoBit, hop, hindex, haction, hhandler]), if_neg hset]
  exact ⟨_, _, rfl, rfl, rfl, rfl, rfl, rfl⟩

/-- A limiter by bytes set without `KEEP_TOKENS` begins with its bucket full. -/
theorem entryLimiter_of_full (hindex : u e 0 2 ≤ 1023) (hop : u e 2 1 = 0) (hmode : u e 3 1 = 0) (hkeep : bit (u e 12 1) 0 = false) :
    ∃ b cl, b = clampTo 1600 16777215 (u e 8 4) ∧
      entryLimiter off e s = .ok (horAddIndex ((s.modHt fun t => { t with limiters := tset t.limiters (u e 0 2) {
          mode := 0, rate := clampTo 1 100000000 (u e 4 4), burst := b, flags := u e 12 1 % 2 } }).modHor fun h => { h with
            buckets := tset h.buckets (u e 0 2) { tokens := b * 1024, last := s.time.raw } }) 1 (u e 0 2), cl) := by
  have hset : u e 2 1 ≠ 1 := by omega
  refine ⟨_, (clampField (off + 4) 1 100000000 (u e 4 4)).off ++ (clampField (off + 8) 1600 16777215 (u e 8 4)).off, rfl, ?_⟩
  unfold entryLimiter
  simp only [hmode, hkeep]
  rw [entryOk_pass (by simp [chkSup, chkConf, hop, hindex]), if_neg hset]
  rfl

end

/-- Settles O9: each entry leaves what its own lemma says. -/
theorem horizonEntriesApply : Obligations.horizonEntriesApply := by
  unfold Obligations.horizonEntriesApply
  intro off e s
  exact ⟨entryZone_of_new, entryZone_of_remove, entryZoneMap_of_vid, entryZoneMap_of_remove, entryZoneMap_of_stream, entryZonePair_of_reset,
    entryZonePair_of_rules, entryRule_of_remove, entryRule_of_matchAll, entryLimiter_of_full⟩

end Sys2Proof.Machine
end

section
/-! PROOFS. The commands of group 0x04 (R268 to R278). -/

namespace Sys2Proof.Machine

section
variable {s s1 : State} {r : Req} {p : List Byte}

/-! ### Parameters (R274) -/

/-- The parameters that a HORIZON_PARAMS_SET payload gives, each clamped to its range (R274). -/
def horizonParamsOf (p : List Byte) : HorizonParams := {
  spillEn := bit (u p 0 1) 0, spillIdle := clampTo 100 60000 (u p 2 2), excRate := clampTo 100 200000 (u p 4 4)
  excBurst := clampTo 1 2048 (u p 8 2), profiles := (List.range 8).map fun i => (profileOf p i).1 }

/-- HORIZON_PARAMS_SET answers the parameters as it has set them. -/
theorem exec_horizonParamsSet (hruns : Runs s specHorizonParamsSet r p s1) :
    ∃ cs, exec (.horizonParamsSet r) s = .next (ends s specHorizonParamsSet r p s1 {
      payload := horParamBytes (horizonParamsOf p), clamps := cs, st := s1.modHor fun x => { x with params := horizonParamsOf p } }) := by
  refine ⟨(clampField 2 100 60000 (u p 2 2)).off ++ (clampField 4 100 200000 (u p 4 4)).off ++ (clampField 8 1 2048 (u p 8 2)).off ++
    ((List.range 8).map (profileOf p)).flatMap (·.2), command_completes hruns ?_ rfl⟩
  unfold specHorizonParamsSet
  dsimp only
  rw [List.map_map]
  rfl

/-! ### Sessions (R265, R275, R276) -/

/-- SESSION_READ of the table answers the sessions of its range. -/
theorem exec_sessionRead_of_table (hruns : Runs s specSessionRead r p s1) (htable : u p 8 1 = 0) (hfirst : 1 ≤ u p 0 4)
    (hfirstMax : u p 0 4 ≤ 16383) :
    ∃ n rs, n = clampTo 1 (16384 - u p 0 4) (u p 4 4) ∧ rs = s1.hor.sessions.filter (fun e => u p 0 4 ≤ e.1 && e.1 < u p 0 4 + n) ∧
      exec (.sessionRead r) s = .next (ends s specSessionRead r p s1 {
        payload := le 4 (u p 0 4) ++ le 4 n ++ le 4 rs.length ++ rs.flatMap fun e => sessRecord s1 false e.1 e.2
        clamps := (clampField 4 1 (16384 - u p 0 4) (u p 4 4)).off, st := s1 }) := by
  have hnotSpilled : bit (u p 8 1) 0 = false := htable ▸ Nat.zero_testBit 0
  refine ⟨_, _, rfl, rfl, command_completes hruns ?_ rfl⟩
  unfold specSessionRead
  simp only [hnotSpilled]
  rw [checked_pass (by simp [chkSup]; omega)]
  rfl

/-- A change that leaves the spill store as it is owes no SESSION_SPILL event. -/
theorem spillEmptied_of_spilled_eq {t : State} (h : t.hor.spilled = s.hor.spilled) : spillEmptied s t = t :=
  if_neg (by simp [h])

/-- SESSION_FLUSH of the table: the sessions that match go, inserted or pending, and are counted; the spill store stays. -/
theorem exec_sessionFlush_of_table (hruns : Runs s specSessionFlush r p s1) (hdomain : u p 0 1 ≤ 7 ∨ u p 0 1 = 0xFF)
    (hzone : u p 2 2 ≤ 255 ∨ u p 2 2 = 0xFFFF) (htable : bit (u p 1 1) 0 = false) :
    ∃ hit : Sess → Bool,
      (∀ x, hit x = ((u p 0 1 == 0xFF || x.domain == u p 0 1) && (u p 2 2 == 0xFFFF || x.srcZone == u p 2 2 || x.dstZone == u p 2 2))) ∧
      exec (.sessionFlush r) s = .next (ends s specSessionFlush r p s1 {
        payload := le 4 ((s1.hor.sessions.filter fun e => hit e.2).length + (s1.hor.pending.filter hit).length)
        st := s1.modHor fun h => { h with
          sessions := h.sessions.filter fun e => !hit e.2, pending := h.pending.filter fun x => !hit x } }) := by
  refine ⟨_, fun _ => rfl, command_completes hruns ?_ rfl⟩
  unfold specSessionFlush
  simp only [htable]
  rw [checked_pass (by simp [chkSup]; omega), spillEmptied_of_spilled_eq] <;> rfl

/-! ### Counters and tables (R277, R278) -/

/-- HORIZON_COUNTERS_GET of the counters of Horizon as a whole: the numbers of sessions stand behind them. -/
theorem exec_horizonCountersGet_of_global (hruns : Runs s specHorizonCountersGet r p s1) (htable : u p 0 1 = 3) (hindex : u p 2 2 = 0) :
    exec (.horizonCountersGet r) s = .next (ends s specHorizonCountersGet r p s1 {
      payload := le 1 3 ++ le 1 (b2n (s1.hor.deleted.contains 196608)) ++ le 2 0 ++ zeros 4 ++ ctrBytes (horWidths 3) (horCtr s1 3 0) ++
        (le 4 (s1.hor.sessions.length + s1.hor.pending.length) ++ le 4 s1.hor.spilled.length)
      st := if u p 1 1 % 2 = 1 then s1.modHor fun h => { h with counters := tdel h.counters 196608 } else s1 }) := by
  refine command_completes hruns ?_ rfl
  unfold specHorizonCountersGet
  simp only [htable, hindex]
  rw [checked_pass (by simp [chkSup, chkConf])]
  simp only [bit_zero, decide_eq_true_eq]
  rfl

/-- HORIZON_TABLE_READ answers the configured entries of its range. -/
theorem exec_horizonTableRead (hruns : Runs s specHorizonTableRead r p s1) (htable : u p 0 1 ≤ 5) (hfirst : u p 2 4 < horPopulation (u p 0 1)) :
    ∃ n, n = clampTo 1 (horPopulation (u p 0 1) - u p 2 4) (u p 6 4) ∧
      exec (.horizonTableRead r) s = .next (ends s specHorizonTableRead r p s1 {
        payload := le 4 (u p 2 4) ++ le 4 n ++ le 4 s1.ep.epoch ++
          ((horTable s1 (u p 0 1)).filter fun e => u p 2 4 ≤ e.1 && e.1 < u p 2 4 + n).flatMap (·.2)
        clamps := (clampField 6 1 (horPopulation (u p 0 1) - u p 2 4) (u p 6 4)).off, st := s1 }) := by
  refine ⟨_, rfl, command_completes hruns ?_ rfl⟩
  unfold specHorizonTableRead
  dsimp only
  rw [checked_pass (by simp [chkSup]; omega)]
  rfl

end

/-- Settles O8: the body of each list command is `listBody` of its entries, and each other command completes with what its body answers. -/
theorem horizonCommandsComplete : Obligations.horizonCommandsComplete := by
  unfold Obligations.horizonCommandsComplete
  intro r s s1 t p cl
  refine ⟨list_commits rfl, list_commits rfl, list_commits rfl, list_commits rfl, list_commits rfl, fun hruns => ?params,
    exec_sessionRead_of_table, exec_sessionFlush_of_table, exec_horizonCountersGet_of_global, exec_horizonTableRead⟩
  case params =>
    obtain ⟨cs, hexec⟩ := exec_horizonParamsSet hruns
    exact ⟨horizonParamsOf p, cs, rfl, rfl, rfl, rfl, rfl, hexec⟩

end Sys2Proof.Machine
end

section
/-! PROOFS. The commands of group 0x05 and the entries of WIDE_STREAM_SET (R324 to R330). -/

namespace Sys2Proof.Machine

/-! ### Fields within their range (R18, R325) -/

theorem clampTo_of_mem {lo hi x : Nat} (hlo : lo ≤ x) (hhi : x ≤ hi) : clampTo lo hi x = x := by
  rw [clampTo, Nat.min_eq_right hhi, Nat.max_eq_right hlo]

/-- A multiple within its range is neither clamped nor lowered. -/
theorem clampLower_of_mem {off lo hi m x : Nat} (hlo : lo ≤ x) (hhi : x ≤ hi) (hmultiple : x % m = 0) :
    clampLower off lo hi m x = { val := x, off := [] } := by
  have hlowered : x / m * m = x := Nat.div_mul_cancel (Nat.dvd_of_mod_eq_zero hmultiple)
  unfold clampLower
  rw [clampTo_of_mem hlo hhi]
  simp [hlowered]

section
variable {s s1 : State} {r : Req} {p : List Byte}

/-! ### Start settings and modes (R304, R312, R313, R325, R326) -/

/-- The start settings that a FABRIC_START_SET payload of legal values gives (R325). -/
def fabricStartOf (p : List Byte) : FabricStart := {
  counts := (List.range 6).map fun k => u p (4 * k) 4, hashSeed := u p 24 4, zenithReserve := u p 28 2, overflowMib := u p 30 2 }

/-- The bytes of the buffers of all pools (R304). -/
def bufferBytes (counts : List Nat) : Nat := ((counts.zip poolSizes).map fun x => x.1 * x.2).sum

section
variable (hcounts : ∀ k, k < 6 → 64 ≤ u p (4 * k) 4 ∧ u p (4 * k) 4 ≤ 131072 ∧ u p (4 * k) 4 % 64 = 0)
include hcounts

theorem poolCount_of_legal {k : Nat} (hk : k ∈ List.range 6) :
    clampLower (4 * k) 64 131072 64 (u p (4 * k) 4) = { val := u p (4 * k) 4, off := [] } :=
  have ⟨hmin, hmax, hmultiple⟩ := hcounts k (List.mem_range.1 hk)
  clampLower_of_mem hmin hmax hmultiple

/-- Legal counts are taken as they are. -/
theorem poolCounts_val : ((List.range 6).map fun k => clampLower (4 * k) 64 131072 64 (u p (4 * k) 4)).map (·.val) = (fabricStartOf p).counts := by
  rw [List.map_map]
  exact List.map_congr_left fun k hk => congrArg Clamped.val (poolCount_of_legal hcounts hk)

/-- No legal count is reported as clamped. -/
theorem poolCounts_off : ((List.range 6).map fun k => clampLower (4 * k) 64 131072 64 (u p (4 * k) 4)).flatMap (·.off) = [] := by
  rw [List.flatMap_map, List.flatMap_eq_nil_iff]
  exact fun k hk => congrArg Clamped.off (poolCount_of_legal hcounts hk)

end

/-- FABRIC_START_SET of legal values within the buffer memory stores them for the next start. -/
theorem exec_fabricStartSet_of_legal (hruns : Runs s specFabricStartSet r p s1)
    (hcounts : ∀ k, k < 6 → 64 ≤ u p (4 * k) 4 ∧ u p (4 * k) 4 ≤ 131072 ∧ u p (4 * k) 4 % 64 = 0)
    (hreserve : u p 28 2 ≤ 1024) (hreserve' : u p 28 2 ≤ u p 12 4 / 2) (hregion : 16 ≤ u p 30 2) (hregion' : u p 30 2 ≤ 1024)
    (hregion16 : u p 30 2 % 16 = 0) (hmemory : bufferBytes (fabricStartOf p).counts ≤ 16777216)
    (hlimit : fabricLimit (u p 24 4) s1.fab.wide s1.ep.cur.ing = none) :
    exec (.fabricStartSet r) s = .next (ends s specFabricStartSet r p s1 {
      payload := (fabricStartOf p).counts.flatMap (le 4) ++ le 4 (u p 24 4) ++ le 2 (u p 28 2) ++ le 2 (u p 30 2) ++
        le 4 (bufferBytes (fabricStartOf p).counts)
      st := s1.modFab fun f => { f with stored := fabricStartOf p } }) := by
  have hreserveKept : clampTo 0 (min 1024 (at' (fabricStartOf p).counts 3 0 / 2)) (u p 28 2) = u p 28 2 :=
    clampTo_of_mem (Nat.zero_le _) (Nat.le_min.2 ⟨hreserve, hreserve'⟩)
  have hfits : (((fabricStartOf p).counts.zip poolSizes).map fun x => x.1 * x.2).sum ≤ 16777216 := hmemory
  refine command_completes hruns ?_ rfl
  unfold specFabricStartSet
  simp only [poolCounts_val hcounts, poolCounts_off hcounts, hreserveKept, clampLower_of_mem hregion hregion' hregion16, if_true]
  rw [checked_pass (by simp [chkPol, hfits, hlimit])]
  rfl

/-- FABRIC_MODE_SET of NORMAL, of RECOVERY, or of TEST where the life cycle permits it. -/
theorem exec_fabricModeSet_of_permitted (hruns : Runs s specFabricModeSet r p s1)
    (hmode : u p 0 1 = 0 ∨ u p 0 1 = 3 ∨ (u p 0 1 = 2 ∧ (s1.lifecycle = 1 ∨ s1.lifecycle = 3))) :
    ∃ u1 : State, u1 = setMode (s1.modFab fun f => { f with overflowEn := bit (u p 1 1) 0, modeLimitS := clampTo 10 3600 (u p 2 2) }) (u p 0 1) 1 ∧
      exec (.fabricModeSet r) s = .next (ends s specFabricModeSet r p s1 {
        payload := le 1 (u p 0 1) ++ le 1 (b2n (bit (u p 1 1) 0)) ++ le 2 (clampTo 10 3600 (u p 2 2)) ++ le 1 s1.fab.mode ++ le 1 (b2n u1.fab.overflow)
        clamps := (clampField 2 10 3600 (u p 2 2)).off, st := u1 }) := by
  have hdefined : ¬ u p 0 1 > 3 := by omega
  have hpermitted : (decide (u p 0 1 = 1) || (decide (u p 0 1 = 2) && s1.lifecycle != 1 && s1.lifecycle != 3)) = false := by
    obtain hnormal | hrecovery | ⟨htest, hdevelopment | hservice⟩ := hmode
    · simp [hnormal]
    · simp [hrecovery]
    · simp [htest, hdevelopment]
    · simp [htest, hservice]
  refine ⟨_, rfl, command_completes hruns ?_ rfl⟩
  unfold specFabricModeSet
  dsimp only
  rw [checked_pass (List.forall_mem_cons.2 ⟨decide_eq_false hdefined, List.forall_mem_singleton.2 hpermitted⟩)]
  rfl

/-! ### Wide streams (R291, R293, R327) -/

/-- WIDE_STREAM_SET of entries that all apply: a change that waits for no earlier cell comes into force at once. -/
theorem exec_wideStreamSet {t : State} {cl : List Nat} (hruns : Runs s specWideStreamSet r p s1)
    (happlies : ListApplies 8 entryWide shadowWide p s1 t cl) :
    exec (.wideStreamSet r) s = .next (ends s specWideStreamSet r p s1
      (listDone p ((List.range 16).foldl (fun s w => if wideWaits s w then s else applyWide s w) t) cl 0 false)) := by
  refine command_completes hruns ?_ rfl
  unfold specWideStreamSet
  dsimp only
  rw [listBody_of happlies]
  rfl

/-! ### Counters (R322, R329) -/

theorem exec_fabricCountersGet (hruns : Runs s specFabricCountersGet r p s1) (htable : u p 0 1 ≤ 4) (hindex : u p 2 2 < at' fabPopulation (u p 0 1) 0) :
    exec (.fabricCountersGet r) s = .next (ends s specFabricCountersGet r p s1 {
      payload := le 1 (u p 0 1) ++ zeros 1 ++ le 2 (u p 2 2) ++ zeros 4 ++ layCounters (fabWidths (u p 0 1)) (fabValues s1 (u p 0 1) (u p 2 2))
      st := if bit (u p 1 1) 0 then fabClear s1 (u p 0 1) (u p 2 2) else s1 }) := by
  refine command_completes hruns ?_ rfl
  unfold specFabricCountersGet
  dsimp only
  rw [checked_pass (by simp [chkSup]; omega)]

/-! ### EPOCH_SYNC (R330) -/

/-- With one live epoch EPOCH_SYNC completes at once, having waited 0 µs. -/
theorem exec_epochSync_of_one_epoch (hruns : Runs s specEpochSync r p s1) (hone : s1.ep.draining = false) :
    exec (.epochSync r) s = .next (ends s specEpochSync r p s1 { payload := le 4 s1.ep.epoch ++ le 4 0, st := s1 }) :=
  command_completes hruns (if_neg (by simp [hone])) rfl

/-- With two live epochs EPOCH_SYNC without `NONBLOCK` waits. -/
theorem exec_epochSync_of_two_epochs (hruns : Runs s specEpochSync r p s1) (htwo : s1.ep.draining = true) (hblock : bit r.flags 0 = false) :
    exec (.epochSync r) s = .next (waits s specEpochSync r p s1 .sync s1) :=
  command_wait hruns ((if_pos htwo).trans (if_neg (by simp [hblock])))

end

/-! ### The entries of WIDE_STREAM_SET (R327) -/

section
variable {off : Nat} {e : List Byte} {s : State} (hindex : u e 0 1 ≤ 15)
include hindex

/-- A stream with one identification point is to take the index. -/
theorem entryWide_of_set (hop : u e 1 1 = 0) (hhandle : u e 2 2 ≤ 4095) (hpoint : identPoints s.it (u e 2 2) = 1) :
    entryWide off e s = .ok (s.modFab fun f => { f with wide := f.wide.modify (u e 0 1) fun x => { x with pending := some (some (u e 2 2)) } }, []) := by
  unfold entryWide
  dsimp only
  rw [entryOk_pass (by simp [chkSup, chkConf, hop, hpoint, hindex, hhandle])]
  simp only [hop, if_true]

/-- An index that has a stream, or is to take one, is to be freed. -/
theorem entryWide_of_remove (hop : u e 1 1 = 1)
    (hknown : ((at' s.fab.wide (u e 0 1) {}).pending.getD (at' s.fab.wide (u e 0 1) {}).handle).isSome = true) :
    entryWide off e s = .ok (s.modFab fun f => { f with wide := f.wide.modify (u e 0 1) fun x => { x with pending := some none } }, []) := by
  have hpresent : ((at' s.fab.wide (u e 0 1) {}).pending.getD (at' s.fab.wide (u e 0 1) {}).handle).isNone = false :=
    Option.isNone_eq_false_iff.2 hknown
  unfold entryWide
  dsimp only
  rw [entryOk_pass (by simp [chkSup, chkConf, hop, hpresent, hindex])]
  simp only [hop, Nat.one_ne_zero, if_false]

end

/-- Settles O10: each command completes with what its body answers, and each entry leaves what its own lemma says. -/
theorem fabricCommandsComplete : Obligations.fabricCommandsComplete := by
  unfold Obligations.fabricCommandsComplete
  intro r s s1 t p cl
  exact ⟨fun hruns => command_completes hruns rfl rfl,
    fun hruns hcounts hreserve hreserve' hregion hregion' hregion16 hmemory hlimit =>
      ⟨_, exec_fabricStartSet_of_legal hruns hcounts hreserve hreserve' hregion hregion' hregion16 hmemory hlimit⟩,
    exec_fabricModeSet_of_permitted, exec_wideStreamSet, fun hruns => command_completes hruns rfl rfl, exec_fabricCountersGet,
    exec_epochSync_of_one_epoch, exec_epochSync_of_two_epochs, fun _ _ => entryWide_of_set, fun _ _ => entryWide_of_remove⟩

end Sys2Proof.Machine
end

section
/-! PROOFS. The rows of the fabric, the output buffer and the end of a copy (R289 to R314, R334, R335). -/

namespace Sys2Proof.Machine

section
variable {s : State}

/-! ### Cells of a hop and their replay (R282, R289, R294, R295) -/

/-- The link from `a` to `b` of a stage stands at `x`. -/
def withLink (s : State) (st a b : Nat) (x : Link) : State := s.modFab fun f => { f with links := tset f.links (linkKey st a b) x }

section
variable {st a b : Nat} {l : Link} {c : Cell} {cs : List Cell} (hlink : tgetD s.fab.links (linkKey st a b) {} = l)
variable (hstage : st ≤ 1) (hsender : a ≤ 15) (hreceiver : b ≤ 15) (hawake : awake s = true)
include hlink hstage hsender hreceiver hawake

section
variable (hresend : l.resend = c :: cs)
include hresend

/-- The next resent cell is sound. -/
theorem exec_cellReceive_of_resent_good :
    exec (.cellReceive st a b true) s =
      .next (acceptCell (withLink s st a b { l with resend := cs, lseq := wrapAdd 8 l.lseq 1 }) st b c) := by
  subst hlink
  change execCellReceive st a b true s = _
  unfold execCellReceive
  rw [if_neg (by simp [hawake]; omega)]
  dsimp only
  rw [hresend]
  rfl

/-- The next resent cell has a bad CRC and has not been rejected before: it and the cells after it are kept for its replay. -/
theorem exec_cellReceive_of_resent_bad (hfirst : c.again = false) :
    exec (.cellReceive st a b false) s = .next (withLink s st a b { l with resend := [], lost := c :: cs, lseq := wrapAdd 8 l.lseq 1 }) := by
  subst hlink
  change execCellReceive st a b false s = _
  unfold execCellReceive
  rw [if_neg (by simp [hawake]; omega)]
  dsimp only
  rw [hresend]
  simp only [hfirst, Bool.false_eq_true, if_false]
  rfl

end

/-- With nothing to resend, the next cell of the sender's queues is accepted where its CRC is good and else kept for its replay. -/
theorem exec_cellReceive_of_taken {v : State} (hresend : l.resend = []) (hlost : l.lost = []) (htake : takeCell s st a b = some (c, v)) (crcOk : Bool) :
    exec (.cellReceive st a b crcOk) s = .next (if crcOk then acceptCell (withLink v st a b { l with lseq := wrapAdd 8 l.lseq 1 }) st b c
      else withLink v st a b { l with lost := [c], lseq := wrapAdd 8 l.lseq 1 }) := by
  subst hlink
  change execCellReceive st a b crcOk s = _
  unfold execCellReceive
  rw [if_neg (by simp [hawake]; omega)]
  dsimp only
  rw [hresend]
  dsimp only
  rw [htake]
  cases crcOk <;> simp [hlost, withLink]

end

/-- A sender of the first stage resends the rejected cell, marked as such, and those after it. -/
theorem exec_replayRejection_of_first_stage {a b : Nat} {c : Cell} {cs : List Cell} (hsender : a ≤ 15) (hreceiver : b ≤ 15)
    (hlost : (tgetD s.fab.links (linkKey 0 a b) {}).lost = c :: cs) :
    exec (.replayRejection 0 a b) s = .next (perfCount (fabCount (withLink s 0 a b { tgetD s.fab.links (linkKey 0 a b) {} with
      lost := [], resend := { c with again := true } :: cs }) 0 a 2 1) 0x11 1) := by
  change execReplayRejection 0 a b s = _
  unfold execReplayRejection
  dsimp only
  rw [if_neg (by omega), hlost]
  rfl

/-! ### Timeouts and changes (R292, R293, R296, R312, R313) -/

theorem exec_reassemblyTimeout_of_waiting {o id : Nat} {t : Transit}
    (hfind : s.fab.transit.find? (fun e => e.2.out == o && e.2.arrived > 0 && !e.2.stored && e.2.bad.isNone) = some (id, t)) :
    exec (.reassemblyTimeout o) s = .next (makeBad (modTransit (raiseReplayFail (fabCount s 4 0 3 1) 2 t.middle o t) id
      fun t => { t with stored := true, inBad := some 2 }) id 2) := by
  change execReassemblyTimeout o s = _
  unfold execReassemblyTimeout
  rw [hfind]

theorem exec_reseqTimeout_of_empty {w : Nat} (hempty : tgetD s.fab.reseq w [] = []) : exec (.reseqTimeout w) s = .next s := by
  change execReseqTimeout w s = _
  unfold execReseqTimeout
  exact if_pos (.inr (List.isEmpty_iff.2 hempty))

/-- The payload of RESEQ_TIMEOUT where the cell that wide entry `w` misses belongs to no known frame: the epoch is that of the first cell held (R323). -/
def reseqReport (s : State) (w n : Nat) : List Byte :=
  let e := at' s.fab.wide w {}
  let m := middleOf s.fab.start.hashSeed (be 2 (e.handle.getD 0))
  le 1 w ++ le 1 (if e.expected % 2 = 0 then m else (m + 1) % 16) ++ le 1 e.expected ++ zeros 1 ++ le 4 n ++
    le 4 ((((tgetD s.fab.reseq w []).head?.bind fun c => transitOf s c.frame).map (·.frame.epoch)).getD s.ep.epoch)

/-- Wide entry `w` moves on past the cell it expects, which is counted (R292, R322). -/
def reseqSkipped (s : State) (w : Nat) : State :=
  fabCount (s.modFab fun f => { f with wide := f.wide.modify w fun e => { e with expected := wrapAdd 8 e.expected 1 } }) 3 w 1 1

/-- A resequencer that waits for a cell of no known frame moves on by one and reports it. -/
theorem exec_reseqTimeout_of_no_frame {w : Nat} (hindex : w ≤ 15) (hwaits : tgetD s.fab.reseq w [] ≠ [])
    (hmissing : missingFrame s w (at' s.fab.wide w {}).expected = none) :
    exec (.reseqTimeout w) s = .next (drainReseq 65 (raiseSampledKey (reseqSkipped s w) (65536 * 0x17 + w) 0x17 2 2
      (srcId 7 ((at' s.fab.wide w {}).handle.getD 0)) (reseqReport s w)) w) := by
  change execReseqTimeout w s = _
  unfold execReseqTimeout
  dsimp only
  rw [if_neg (by simp [hwaits]; omega), hmissing]
  rfl

theorem exec_wideStreamChangeApply_of_boundary {w : Nat} (hindex : w ≤ 15) (hboundary : wideWaits s w = false) :
    exec (.wideStreamChangeApply w) s = .next (applyWide s w) := by
  change execWideStreamChangeApply w s = _
  unfold execWideStreamChangeApply
  exact if_neg (by simp [hboundary]; omega)

theorem exec_modeLimitExpiry_of_running {t : Nat} (hsince : s.fab.modeSince = some t) (hmode : s.fab.mode % 2 = 1) :
    exec .modeLimitExpiry s = .next (setMode (s.later (t + modeLimitCounts s - s.mb.upCounts)) 0 4) := by
  change execModeLimitExpiry s = _
  unfold execModeLimitExpiry
  rw [hsince]
  exact if_neg (by omega)

/-! ### The residency scan (R310, R311) -/

/-- Frames that are not too old go on waiting for their restore. -/
theorem modHor_restore_of_young (hyoung : ∀ f ∈ s.hor.restore, tooOld s f = false) :
    s.modHor (fun h => { h with restore := h.restore.filter fun f => !tooOld s f }) = s := by
  unfold State.modHor
  dsimp only
  rw [List.filter_eq_self.2 (by simpa using hyoung)]

/-- Frames that are not too old stay at the recirculation input. -/
theorem modFab_recirc_of_young (hyoung : ∀ f ∈ s.fab.recirc, tooOld s f = false) :
    s.modFab (fun b => { b with recirc := b.recirc.filter fun f => !tooOld s f }) = s := by
  unfold State.modFab
  dsimp only
  rw [List.filter_eq_self.2 (by simpa using hyoung)]

/-- Where no frame is too old the scan finds nothing to discard in any of its places. -/
theorem exec_residencyScan_of_young (htransit : ∀ e ∈ s.fab.transit, tooOld s e.2.frame = false) (hrestore : ∀ f ∈ s.hor.restore, tooOld s f = false)
    (hrecirc : ∀ f ∈ s.fab.recirc, tooOld s f = false) : exec .residencyScan s = .next s := by
  have hnoTransit : s.fab.transit.filter (fun e => e.2.admitted && tooOld s e.2.frame) = [] :=
    List.filter_eq_nil_iff.2 fun e he => by simp [htransit e he]
  have hnoRestore : s.hor.restore.filter (tooOld s) = [] := List.filter_eq_nil_iff.2 fun f hf => by simp [hrestore f hf]
  have hnoRecirc : s.fab.recirc.filter (tooOld s) = [] := List.filter_eq_nil_iff.2 fun f hf => by simp [hrecirc f hf]
  change execResidencyScan s = _
  unfold execResidencyScan
  simp only [hnoTransit, List.foldl_nil, hnoRestore, modHor_restore_of_young hrestore, hnoRecirc, modFab_recirc_of_young hrecirc]

/-! ### Admission at the output (R305, R314, R334, R335) -/

section
variable {o id : Nat} {t : Transit}
  (hfind : s.fab.transit.find? (fun e => e.2.out == o && e.2.arrived > 0 && !e.2.admitted) = some (id, t))
include hfind

/-- A frame that is bad already is dropped at every copy. -/
theorem exec_firstCellAtOutput_of_bad (hbad : t.bad.isSome = true) (h : EccHit) :
    exec (.firstCellAtOutput o h) s =
      .next (dropTransit ((bitList 37 t.frame.dest).foldl (fun s p => fabCount s 1 p 5 1) s) id) := by
  change execFirstCellAtOutput o h s = _
  unfold execFirstCellAtOutput
  rw [hfind]
  exact if_pos hbad

/-- A good frame is stored for the copies that their queues accept, and dropped where none does. -/
theorem exec_firstCellAtOutput_of_good (hgood : t.bad = none) :
    exec (.firstCellAtOutput o .clean) s = .next (if (admitCopies t (bitList 37 t.frame.dest) s []).2.isEmpty
      then dropTransit (admitCopies t (bitList 37 t.frame.dest) s []).1 id
      else storeFrame (admitCopies t (bitList 37 t.frame.dest) s []).1 id t (admitCopies t (bitList 37 t.frame.dest) s []).2) := by
  change execFirstCellAtOutput o .clean s = _
  unfold execFirstCellAtOutput
  rw [hfind]
  dsimp only
  rw [if_neg (by simp [hgood])]
  exact (apply_ite _ _ _ _).symm

end

/-! ### The end of a copy (R301 to R303, R309) -/

/-- A copy of a frame that is stored and good ends unstomped. -/
theorem exec_copyFinished_of_good {p : Nat} {x : Sending} {t : Transit} (hsending : tget s.egr.sending p = some x)
    (htransit : transitOf (settleCredits s p) x.frame = some t) (hstored : t.stored = true) (hgood : t.bad = none) :
    ∃ v : State, v = egrCount (egrCount (bwCount (portCount (portCount (settleCredits s p) p 2 1) p 3 t.len) p false t.len) p x.tc 0 1) p x.tc 1 t.len ∧
      exec (.copyFinished p) s = .next (finishCopy (perfCount (v.modEgr fun e => { e with
        sending := tdel e.sending p, sent := tset e.sent p (egressBytes t.frame p) }) (0x200 + p) 1) x.frame p) := by
  refine ⟨_, rfl, ?_⟩
  change execCopyFinished p s = _
  unfold execCopyFinished
  rw [hsending]
  dsimp only
  rw [htransit]
  dsimp only
  rw [if_neg (by simp [hstored]), htransit]
  dsimp only
  rw [hgood]

end

/-- Settles O32: each row as its own lemma says. -/
theorem fabricRowsComplete : Obligations.fabricRowsComplete := by
  unfold Obligations.fabricRowsComplete
  intro s
  refine ⟨fun st a b c cs hst ha hb hawake hresend => ⟨_, _, rfl, rfl, exec_cellReceive_of_resent_good rfl hst ha hb hawake hresend,
      exec_cellReceive_of_resent_bad rfl hst ha hb hawake hresend⟩, ?taken,
    fun _ _ _ _ => exec_replayRejection_of_first_stage, fun _ _ _ => exec_reassemblyTimeout_of_waiting, fun _ _ => exec_reseqTimeout_of_empty,
    fun w hindex hwaits hmissing => ⟨reseqReport s w, reseqSkipped s w, rfl, exec_reseqTimeout_of_no_frame hindex hwaits hmissing⟩,
    fun _ => exec_wideStreamChangeApply_of_boundary, fun _ => exec_modeLimitExpiry_of_running, exec_residencyScan_of_young,
    fun o h id t hfind hbad => exec_firstCellAtOutput_of_bad hfind hbad h, ?admission, fun _ _ _ => exec_copyFinished_of_good⟩
  case taken =>
    intro st a b c v hst ha hb hawake hresend hlost htake
    have hexec := exec_cellReceive_of_taken rfl hst ha hb hawake hresend hlost htake
    exact ⟨_, _, rfl, rfl, (hexec true).trans (congrArg _ (if_pos rfl)), (hexec false).trans (congrArg _ (if_neg Bool.false_ne_true))⟩
  case admission =>
    intro o id t hfind hgood
    have hexec := exec_firstCellAtOutput_of_good hfind hgood
    exact ⟨_, rfl, fun hnone => hexec.trans (congrArg _ (if_pos (List.isEmpty_iff.2 hnone))),
      fun hsome => hexec.trans (congrArg _ (if_neg (mt List.isEmpty_iff.1 hsome)))⟩

end Sys2Proof.Machine
end

section
/-! PROOFS. The commands of group 0x06 and the entries of ZENITH_ADMIT_SET (R360 to R369). -/

namespace Sys2Proof.Machine

section
variable {s s1 : State} {r : Req} {p : List Byte}

/-! ### Queues and shapers (R360 to R362) -/

/-- The queue settings that a QUEUE_SET payload gives a point whose priority map can be set (R360). -/
def queueCfgOf (p : List Byte) : QueueCfg :=
  { prioMap := (List.range 8).map fun i => clampTo 0 6 (u p (8 + i) 1)
    classes := (List.range 7).map fun c =>
      { limitKib := clampTo 4 8192 (u p (16 + 8 * c) 2), yellowPct := clampTo 0 100 (u p (16 + 8 * c + 2) 1)
        maxLen := clampTo 64 9216 (u p (16 + 8 * c + 4) 2) } }

/-- The offsets of the fields of a QUEUE_SET payload that are clamped (R360). -/
def queueClamps (p : List Byte) : List Nat :=
  ((List.range 8).flatMap fun i => (clampField (8 + i) 0 6 (u p (8 + i) 1)).off) ++
    (List.range 7).flatMap fun c => (clampField (16 + 8 * c) 4 8192 (u p (16 + 8 * c) 2)).off ++
      (clampField (16 + 8 * c + 2) 0 100 (u p (16 + 8 * c + 2) 1)).off ++ (clampField (16 + 8 * c + 4) 64 9216 (u p (16 + 8 * c + 4) 2)).off

/-- QUEUE_SET at a point with a priority map answers the settings as it has set them. -/
theorem exec_queueSet (hruns : Runs s specQueueSet r p s1) (hpoint : u p 0 1 ≤ 33) :
    exec (.queueSet r) s = .next (ends s specQueueSet r p s1 {
      payload := le 1 (u p 0 1) ++ zeros 7 ++ (queueCfgOf p).prioMap.flatMap (le 1) ++
        (queueCfgOf p).classes.flatMap fun c => le 2 c.limitKib ++ le 1 c.yellowPct ++ zeros 1 ++ le 2 c.maxLen ++ zeros 2
      clamps := queueClamps p
      st := zenithRecheck (s1.modEgr fun e => { e with cfg := { e.cfg with queues := e.cfg.queues.set (u p 0 1) (queueCfgOf p) } }) }) := by
  refine command_completes hruns ?_ rfl
  unfold specQueueSet
  dsimp only
  rw [checked_pass (by simp [chkSup]; omega)]
  simp only [if_pos hpoint]
  rfl

/-- The shaper by bytes that a SHAPER_SET payload gives (R361). -/
def byteShaperOf (p : List Byte) : Shaper := {
  enable := decide (u p 2 1 = 1), mode := 0, flags := u p 4 1 % 2, overhead := clampTo 0 63 (u p 5 1)
  rate := clampTo 1 100000000 (u p 8 4), burst := clampTo 64 16777215 (u p 12 4) }

/-- SHAPER_SET by bytes, where it does not shape TC7 of a port at which a stream is admitted (rule 3 of R353). -/
theorem exec_shaperSet_of_bytes (hruns : Runs s specShaperSet r p s1) (hpoint : u p 0 1 ≤ 33) (hclass : u p 1 1 ≤ 7) (henable : u p 2 1 ≤ 1)
    (hmode : u p 3 1 = 0) (htc7 : u p 1 1 = 7 → u p 2 1 = 1 → u p 0 1 ≤ 27 → admittedAt s1 (u p 0 1) = []) :
    exec (.shaperSet r) s = .next (ends s specShaperSet r p s1 {
      payload := le 1 (u p 0 1) ++ le 1 (u p 1 1) ++ le 1 (b2n (byteShaperOf p).enable) ++ le 1 0 ++ le 1 (byteShaperOf p).flags ++
        le 1 (byteShaperOf p).overhead ++ zeros 2 ++ le 4 (byteShaperOf p).rate ++ le 4 (byteShaperOf p).burst
      clamps := (clampField 5 0 63 (u p 5 1)).off ++ (clampField 8 1 100000000 (u p 8 4)).off ++ (clampField 12 64 16777215 (u p 12 4)).off
      st := s1.modEgr fun e => { e with
        cfg := { e.cfg with shapers := e.cfg.shapers.set (shapIdx (u p 0 1) (u p 1 1)) (byteShaperOf p) }
        toks := e.toks.set (shapIdx (u p 0 1) (u p 1 1)) {
          tok := if (byteShaperOf p).flags = 1 then (((byteShaperOf p).burst * 1024 : Nat) : Int) else 0, last := s1.time.raw } } }) := by
  have hrule3 : (decide (u p 1 1 = 7) && decide (u p 2 1 = 1) && decide (u p 0 1 ≤ 27) && !(admittedAt s1 (u p 0 1)).isEmpty) = false := by
    simpa using htc7
  refine command_completes hruns ?_ rfl
  unfold specShaperSet
  simp only [hmode, if_true]
  rw [checked_pass (by simp [chkSup, chkPol, hrule3]; omega)]
  rfl

/-- The disabled credit-based shaper that a CBS_SET payload gives a point of nominal rate `nominal` (R362). -/
def disabledCbsOf (nominal : Nat) (p : List Byte) : Cbs := {
  enable := false, flags := u p 3 1 % 2, overhead := clampTo 0 63 (u p 4 1), idle := clampTo 1 nominal (u p 8 4) }

/-- A credit-based shaper disabled by CBS_SET reserves nothing (rule 1 of R353); the credits of its point are settled first. -/
theorem exec_cbsSet_of_disabled (hruns : Runs s specCbsSet r p s1) (hpoint : u p 0 1 ≤ 33) (hclass : u p 1 1 = 5 ∨ u p 1 1 = 6)
    (hdisabled : u p 2 1 = 0) :
    ∃ h : Cbs, h = disabledCbsOf (nominalKbps s1 (u p 0 1)) p ∧ exec (.cbsSet r) s = .next (ends s specCbsSet r p s1 {
      payload := le 1 (u p 0 1) ++ le 1 (u p 1 1) ++ le 1 0 ++ le 1 h.flags ++ le 1 h.overhead ++ zeros 3 ++ le 4 h.idle ++
        le 4 (ofInt 32 ((h.idle : Int) - nominalKbps s1 (u p 0 1)))
      clamps := (clampField 4 0 63 (u p 4 1)).off ++ (clampField 8 1 (nominalKbps s1 (u p 0 1)) (u p 8 4)).off
      st := (settleCredits s1 (u p 0 1)).modEgr fun e => { e with
        cfg := { e.cfg with cbs := e.cfg.cbs.set (cbsIdx (u p 0 1) (u p 1 1)) h }
        credits := e.credits.set (cbsIdx (u p 0 1) (u p 1 1)) {
          credit := if h.flags = 1 then 0 else cbsLowCredit s1 (u p 0 1) (u p 1 1) h.overhead h.idle, last := s1.time.raw } } }) := by
  refine ⟨_, rfl, command_completes hruns ?_ rfl⟩
  unfold specCbsSet
  simp only [hdisabled, Nat.zero_ne_one, decide_false]
  rw [checked_pass (by simp [chkSup, chkPol]; omega)]
  rfl

/-! ### Gate control lists (R342, R353, R363, R364) -/

/-- A port at which no stream is admitted reserves nothing on its wire (R352). -/
theorem wireRes_of_none_admitted {s : State} {port : Nat} (hnone : admittedAt s port = []) : wireRes s port = (0, 1) := by
  unfold wireRes
  rw [hnone]
  rfl

/-- A port at which no stream is admitted breaks no wire reservation (rule 1 of R353). -/
theorem portRuleBad_ne_wire {s : State} {port : Nat} (hnone : admittedAt s port = []) : portRuleBad s port ≠ some 1 := by
  unfold portRuleBad
  dsimp only
  rw [wireRes_of_none_admitted hnone, if_neg (by simp)]
  intro hwire
  split at hwire
  · cases hwire
  · split at hwire <;> cases hwire

/-- A list that is not enabled has no window to break a rule with (rule 2 of R353). -/
theorem rule2Bad_of_disabled {g : Gcl} (hdisabled : g.enable = false) (s : State) (port : Nat) : rule2Bad s port g = false := by
  unfold rule2Bad
  rw [hdisabled]
  rfl

theorem changeTime_of_future {base now : Nat} (hfuture : now ≤ base) (cycle : Nat) : changeTime base cycle now = (base, none) := if_pos hfuture

/-- The disabled list that a GCL_SET payload without entries gives (R363). -/
def disabledGclOf (p : List Byte) : Gcl := {
  enable := false, ext := clampTo 0 1000000 (u p 4 4), base := u p 8 8, cycle := clampTo 1000 1000000000 (u p 16 4), change := u p 8 8, entries := [] }

/-- GCL_SET of a disabled list with a base time to come, at a port at which no stream is admitted: it is the port's pending list. -/
theorem exec_gclSet_of_disabled (hruns : Runs s specGclSet r p s1) (hport : u p 0 1 ≤ 31) (hdisabled : u p 1 1 = 0) (hentries : u p 2 2 = 0)
    (hfuture : s1.now ≤ u p 8 8) (hnone : admittedAt s1 (u p 0 1) = []) :
    ∃ g, g = disabledGclOf p ∧ exec (.gclSet r) s = .next (ends s specGclSet r p s1 {
      payload := le 1 (u p 0 1) ++ le 1 (b2n (gclOf s1 (u p 0 1)).pending.isSome) ++ le 2 0 ++ le 4 g.cycle ++ le 8 g.change ++ le 4 g.ext ++
        le 4 (minTc7 g)
      clamps := (clampField 4 0 1000000 (u p 4 4)).off ++ if u p 16 4 = 0 then [] else (clampField 16 1000 1000000000 (u p 16 4)).off
      st := modGcl s1 (u p 0 1) fun x => { x with pending := some g } }) := by
  have hwire (f : GclPort → GclPort) : (portRuleBad (modGcl s1 (u p 0 1) f) (u p 0 1) == some 1) = false :=
    beq_false_of_ne (portRuleBad_ne_wire hnone)
  have hcycle : (if u p 16 4 = 0 then 0 else u p 16 4) = u p 16 4 := by
    split <;> omega
  refine ⟨_, rfl, command_completes hruns ?_ rfl⟩
  unfold specGclSet
  simp only [hdisabled, hentries, gclEntriesOf, List.range_zero, List.map_nil, List.sum_nil, hcycle, changeTime_of_future hfuture]
  rw [checked_pass (by simp [chkSup, chkPol, hwire, rule2Bad_of_disabled]; omega)]
  simp [disabledGclOf, clampField]

/-- GCL_GET of a port's pending list. -/
theorem exec_gclGet_of_pending {g : Gcl} (hruns : Runs s specGclGet r p s1) (hport : u p 0 1 ≤ 31) (hpending : u p 1 1 = 1)
    (hlist : (gclOf s1 (u p 0 1)).pending = some g) :
    exec (.gclGet r) s = .next (ends s specGclGet r p s1 { st := s1, payload := (
      le 1 (u p 0 1) ++ le 1 (b2n g.enable) ++ le 2 g.entries.length ++ le 4 g.ext ++ le 8 g.change ++ le 4 g.cycle ++ zeros 12 ++
        g.entries.flatMap fun e => le 1 e.gates ++ le 1 e.op ++ zeros 2 ++ le 4 e.interval) }) := by
  refine command_completes hruns ?_ rfl
  unfold specGclGet
  simp only [hpending, Nat.one_ne_zero, if_false, hlist]
  rw [checked_pass (by simp [chkSup, chkConf]; omega)]
  rfl

/-! ### Preemption (R350, R365) -/

/-- The preemption settings that a PREEMPT_SET payload gives (R365). -/
def preemptCfgOf (p : List Byte) : PreemptCfg := {
  enable := u p 1 1 = 1, verify := u p 2 1 = 1, express := withBit (u p 3 1) 7 true, verifyMs := clampTo 1 128 (u p 4 1)
  addFrag := clampTo 0 3 (u p 5 1) }

/-- PREEMPT_SET: verification restarts where `ENABLE` or `VERIFY` changes, else the promise is judged again. -/
theorem exec_preemptSet (hruns : Runs s specPreemptSet r p s1) (hport : u p 0 1 ≤ 27) (henable : u p 1 1 ≤ 1) (hverify : u p 2 1 ≤ 1) :
    ∃ c u1 u2, c = preemptCfgOf p ∧
      u1 = s1.modEgr (fun e => { e with cfg := { e.cfg with preempt := e.cfg.preempt.set (u p 0 1) c } }) ∧
      u2 = (if c.enable ≠ (at' s1.egr.cfg.preempt (u p 0 1) {}).enable ∨ c.verify ≠ (at' s1.egr.cfg.preempt (u p 0 1) {}).verify
        then restartVerify u1 (u p 0 1) else zenithRecheck u1) ∧
      exec (.preemptSet r) s = .next (ends s specPreemptSet r p s1 {
        payload := le 1 (u p 0 1) ++ le 1 (b2n c.enable) ++ le 1 (b2n c.verify) ++ le 1 c.express ++ le 1 c.verifyMs ++ le 1 c.addFrag ++ zeros 2 ++
          le 1 (b2n (preemptOn u2 (u p 0 1)))
        clamps := (clampField 4 1 128 (u p 4 1)).off ++ (clampField 5 0 3 (u p 5 1)).off
        st := u2 }) := by
  refine ⟨_, _, _, rfl, rfl, rfl, command_completes hruns ?_ rfl⟩
  unfold specPreemptSet
  dsimp only
  rw [checked_pass (by simp [chkSup]; omega)]
  rfl

/-! ### Zenith admission and status (R351, R353, R366, R367) -/

/-- ZENITH_ADMIT_SET of entries that all apply, with every port within its bound: the promise is judged again. -/
theorem exec_zenithAdmitSet {t : State} {cl : List Nat} (hruns : Runs s specZenithAdmitSet r p s1)
    (happlies : ListApplies 8 entryAdmit shadowAdmit p s1 t cl) (hports : zenithPorts t = none) :
    exec (.zenithAdmitSet r) s = .next (ends s specZenithAdmitSet r p s1 (listDone p (zenithRecheck t) cl 0 false)) := by
  have hwithin : ¬ (zenithPorts (listDone p t cl 0 false).st).isSome := by
    simp [listDone, hports]
  refine command_completes hruns ?_ rfl
  unfold specZenithAdmitSet
  dsimp only
  rw [listBody_of happlies]
  dsimp only
  rw [if_neg hwithin]
  rfl

/-- An entry of ZENITH_ADMIT_SET admits a Zenith stream at a port, with its `MIN_LEN` clamped. -/
theorem entryAdmit_of_admit {off : Nat} {e : List Byte} {s : State} (hport : u e 0 1 ≤ 27) (hop : u e 1 1 = 0) (hhandle : u e 2 2 ≤ 4095)
    (hzenith : zenithOn s.it (u e 2 2) = true) (hroom : s.egr.cfg.minLens.length < 4096) :
    entryAdmit off e s = .ok (s.modEgr fun x => { x with cfg := { x.cfg with
      minLens := tset x.cfg.minLens (4096 * u e 0 1 + u e 2 2) (clampTo 64 1522 (u e 4 2)) } }, (clampField (off + 4) 64 1522 (u e 4 2)).off) := by
  unfold entryAdmit
  dsimp only
  rw [entryOk_pass (by simp [chkSup, chkConf, hop, hzenith]; omega)]
  simp only [hop, Nat.zero_ne_one, if_true, if_false]
  rfl

/-- Whether the list in force at a port opens TC7 in protected windows only (R367). -/
def tc7Protected (s : State) (port : Nat) : Bool :=
  match (gclOf s port).oper with
  | some l => l.enable && !((windowsOf l 7).getD [0]).isEmpty && allProtected l
  | none => false

/-- ZENITH_STATUS_GET of a port at which a stream is admitted: the causes are those of the device and of the port. -/
theorem exec_zenithStatusGet_of_admitted (hruns : Runs s specZenithStatusGet r p s1) (hport : u p 0 1 ≤ 27) (hadmitted : admittedAt s1 (u p 0 1) ≠ []) :
    exec (.zenithStatusGet r) s = .next (ends s specZenithStatusGet r p s1 { st := s1, payload := (
      le 1 (u p 0 1) ++ le 1 (b2n (zenDevNow s1 + zenPortNow s1 (u p 0 1) != 0)) ++ le 2 (admittedAt s1 (u p 0 1)).length ++
      le 4 (zenDevNow s1 + zenPortNow s1 (u p 0 1)) ++ le 4 (nominalKbps s1 (u p 0 1) / 1000) ++ le 4 (fceil (wireRes s1 (u p 0 1))) ++
      le 4 (fceil (admittedBurst s1 (u p 0 1))) ++ le 1 (b2n (preemptOn s1 (u p 0 1)) + 2 * b2n (tc7Protected s1 (u p 0 1))) ++ zeros 3 ++
      le 8 (blockingPs s1 (u p 0 1)) ++ le 8 (queueingPs s1 (u p 0 1)) ++ le 8 (boundPs s1 (u p 0 1))) }) := by
  have hsome : ¬ (admittedAt s1 (u p 0 1)).isEmpty := by
    simpa using hadmitted
  refine command_completes hruns ?_ rfl
  unfold specZenithStatusGet
  dsimp only
  rw [checked_pass (by simp [chkSup]; omega)]
  simp only [if_neg hsome]
  rfl

/-! ### Flush and counters (R368, R369) -/

theorem exec_queueFlush (hruns : Runs s specQueueFlush r p s1) (hpoint : u p 0 1 ≤ 36) :
    ∃ f, f = flushQueues (settleCredits s1 (u p 0 1)) (u p 0 1) (u p 1 1) (fun s => fabCount s 1 (u p 0 1) 6 1) ∧
      exec (.queueFlush r) s = .next (ends s specQueueFlush r p s1 { payload := le 4 f.2, st := f.1 }) := by
  refine ⟨_, rfl, command_completes hruns ?_ rfl⟩
  unfold specQueueFlush
  dsimp only
  rw [checked_pass (by simp [chkSup]; omega)]

/-- The counters of a class of a point, with its charge and its peak. -/
theorem exec_egressCountersGet_of_class (hruns : Runs s specEgressCountersGet r p s1) (htable : u p 0 1 = 0) (hpoint : u p 2 1 ≤ 36)
    (hclass : u p 3 1 ≤ 7) :
    ∃ k, k = qKey (u p 2 1) (u p 3 1) ∧
      exec (.egressCountersGet r) s = .next (ends s specEgressCountersGet r p s1 {
        payload := le 1 0 ++ zeros 1 ++ le 1 (u p 2 1) ++ le 1 (u p 3 1) ++ zeros 4 ++
          (layCounters egrWidths (egrCtr s1 (u p 2 1) (u p 3 1)) ++ le 4 (kib (chargeOf s1 (u p 2 1) (u p 3 1))) ++ le 4 (kib (tgetD s1.egr.peak k 0)))
        st := if bit (u p 1 1) 0 then s1.modEgr (fun e => { e with
          counters := tdel e.counters k, peak := tset e.peak k (chargeOf s1 (u p 2 1) (u p 3 1)) }) else s1 }) := by
  refine ⟨_, rfl, command_completes hruns ?_ rfl⟩
  unfold specEgressCountersGet
  simp only [htable]
  rw [checked_pass (by simp [chkSup]; omega)]
  cases bit (u p 1 1) 0 <;> rfl

/-- The preemption counters of a port. -/
theorem exec_egressCountersGet_of_preemption (hruns : Runs s specEgressCountersGet r p s1) (htable : u p 0 1 = 1) (hport : u p 2 1 ≤ 27) :
    exec (.egressCountersGet r) s = .next (ends s specEgressCountersGet r p s1 {
      payload := le 1 1 ++ zeros 1 ++ le 1 (u p 2 1) ++ le 1 (u p 3 1) ++ zeros 4 ++
        ((at' s1.egr.preempt (u p 2 1) {}).counters.flatMap (le 4) ++ le 4 (b2n (at' s1.egr.preempt (u p 2 1) {}).active))
      st := if bit (u p 1 1) 0 then modPre s1 (u p 2 1) (fun r => { r with counters := List.replicate 7 0 }) else s1 }) := by
  refine command_completes hruns ?_ rfl
  unfold specEgressCountersGet
  simp only [htable]
  rw [checked_pass (by simp [chkSup]; omega)]
  cases bit (u p 1 1) 0 <;> rfl

end

/-- Settles O11: each command completes with what its body answers, and each entry leaves what its own lemma says. -/
theorem egressCommandsComplete : Obligations.egressCommandsComplete := by
  unfold Obligations.egressCommandsComplete
  intro r s s1 t p cl
  refine ⟨fun hruns hpoint => ⟨_, _, queueCfgOf p, rfl, rfl, exec_queueSet hruns hpoint⟩,
    fun hruns hpoint hclass henable hmode htc7 =>
      ⟨_, _, byteShaperOf p, rfl, rfl, rfl, rfl, rfl, rfl, exec_shaperSet_of_bytes hruns hpoint hclass henable hmode htc7⟩,
    fun hruns hpoint hclass hdisabled => ?cbs, fun hruns hport hdisabled hentries hfuture hnone => ?gcl, fun _ => exec_gclGet_of_pending,
    fun hruns hport henable hverify => ?preempt, exec_zenithAdmitSet, fun _ _ => entryAdmit_of_admit,
    fun hruns hport hadmitted => ⟨_, exec_zenithStatusGet_of_admitted hruns hport hadmitted, rfl⟩,
    exec_queueFlush, exec_egressCountersGet_of_class, exec_egressCountersGet_of_preemption⟩
  case cbs =>
    obtain ⟨_, rfl, hexec⟩ := exec_cbsSet_of_disabled hruns hpoint hclass hdisabled
    exact ⟨_, _, _, rfl, rfl, rfl, rfl, hexec⟩
  case gcl =>
    obtain ⟨_, rfl, hexec⟩ := exec_gclSet_of_disabled hruns hport hdisabled hentries hfuture hnone
    exact ⟨_, _, _, rfl, rfl, rfl, rfl, rfl, rfl, hexec⟩
  case preempt =>
    obtain ⟨c, u1, _, hc, hu1, rfl, hexec⟩ := exec_preemptSet hruns hport henable hverify
    exact ⟨_, _, c, u1, hc, hu1, hexec⟩

end Sys2Proof.Machine
end

section
/-! PROOFS. The rows of gate control lists and of frame preemption (R341 to R350). -/

namespace Sys2Proof.Machine

section
variable {port : Nat} {s : State}

/-! ### Gate control lists (R341 to R343, R347) -/

/-- The boundary of an enabled list without a successor: time comes to it, and the port enters the entry of that moment. -/
theorem exec_gclEntryBoundary_of_enabled {l : Gcl} {e : GclEntry} {d : Nat} {rest : List (GclEntry × Nat)} (hport : port ≤ 31)
    (hlist : (gclOf s port).oper = some l) (henabled : l.enable = true) (hahead : aheadOf (gclOf s port) s.now = (e, d) :: rest)
    (hpending : (gclOf s port).pending = none) :
    exec (.gclEntryBoundary port) s = .next (enterEntry (settleWith s (s.until (s.now + d)) port) port
      (gclEntryNow (settleWith s (s.until (s.now + d)) port) port)) := by
  change execGclEntryBoundary port s = _
  unfold execGclEntryBoundary
  rw [if_neg (Nat.not_lt.2 hport)]
  dsimp only
  rw [hlist]
  dsimp only
  rw [if_neg (by simp [henabled]), hahead, hpending]
  rfl

theorem exec_gclChangeTime_of_pending {g : Gcl} (hpending : (gclOf s port).pending = some g) :
    exec (.gclChangeTime port) s = .next (gclSwitch (settleWith s (s.until g.change) port) port) := by
  change execGclChangeTime port s = _
  unfold execGclChangeTime
  rw [hpending]

/-! ### Frame preemption (R348 to R350) -/

section
variable (hport : port ≤ 27) (hwaiting : (at' s.egr.preempt port {}).waiting = true)
include hport hwaiting

/-- The rows of verification act at a port that waits for its partner's response. -/
theorem verifyRow_acts : ¬ (port > 27 ∨ (!(at' s.egr.preempt port {}).waiting) = true) := by
  rintro (hbeyond | hidle)
  · omega
  · rw [hwaiting] at hidle
    cases hidle

/-- Up to three verify frames are sent. -/
theorem exec_preemptVerifyTimeout_of_fewer (hattempts : (at' s.egr.preempt port {}).attempts < 3) :
    exec (.preemptVerifyTimeout port) s = .next (modPre (s.later (625000 * (at' s.egr.cfg.preempt port {}).verifyMs)) port
      fun r => { r with attempts := r.attempts + 1 }) := by
  change execPreemptVerifyTimeout port s = _
  unfold execPreemptVerifyTimeout
  dsimp only
  rw [if_neg (verifyRow_acts hport hwaiting), if_pos hattempts]

/-- After the third verify frame the verification has failed. -/
theorem exec_preemptVerifyTimeout_of_third (hattempts : 3 ≤ (at' s.egr.preempt port {}).attempts) :
    exec (.preemptVerifyTimeout port) s =
      .next (raiseVerify (preCount (modPre (s.later (625000 * (at' s.egr.cfg.preempt port {}).verifyMs)) port
        fun r => { r with waiting := false, failed := true }) port 6 1) port 1) := by
  change execPreemptVerifyTimeout port s = _
  unfold execPreemptVerifyTimeout
  dsimp only
  rw [if_neg (verifyRow_acts hport hwaiting), if_neg (Nat.not_lt.2 hattempts)]

/-- A response makes preemption active, with the partner's addFragSize. -/
theorem exec_preemptResponseRx_of_waiting (addFrag : Nat) :
    exec (.preemptResponseRx port addFrag) s = .next (zenithRecheck (raiseVerify
      (modPre s port fun r => { r with waiting := false, failed := false, active := true, partner := some (addFrag % 4) }) port 0)) := by
  change execPreemptResponseRx port addFrag s = _
  unfold execPreemptResponseRx
  exact if_neg (verifyRow_acts hport hwaiting)

end

end

/-- Settles O12: each row as its own lemma says. -/
theorem gateAndPreemptRowsComplete : Obligations.gateAndPreemptRowsComplete := by
  unfold Obligations.gateAndPreemptRowsComplete
  intro port s
  exact ⟨fun _ _ _ _ => exec_gclEntryBoundary_of_enabled, fun _ => exec_gclChangeTime_of_pending, exec_preemptVerifyTimeout_of_fewer,
    exec_preemptVerifyTimeout_of_third, fun a hport hwaiting => exec_preemptResponseRx_of_waiting hport hwaiting a⟩

end Sys2Proof.Machine
end

section
/-! PROOFS. A request of the key island that is not answered, and an erase among them (R542, R544). -/

namespace Sys2Proof.Machine

/-- The island's queue without the request `i` that it has come to. -/
def withoutRequest (s : State) (i : Nat) : State := s.modKeys fun k => { k with queue := k.queue.eraseIdx i }

/-- A request that the island does not answer leaves the queue, an erase among them leaves its slot no longer erase pending, and the command
that waits for it ends with TIMEOUT. -/
theorem exec_islandRequestComplete_of_unanswered {s : State} {ecdsa : Bool} {i : Nat} {q : IslandReq} (hnext : islandNext s ecdsa = some i)
    (hrequest : s.keys.queue[i]? = some q) (sound : Bool) :
    exec (.islandRequestComplete ecdsa sound false) s = .next (failWaiting (dropErase (withoutRequest s i) q) q.src .island stTimeout) := by
  change execIslandRequestComplete ecdsa sound false s = _
  unfold execIslandRequestComplete
  rw [hnext]
  dsimp only
  rw [hrequest]
  rfl

/-- Where no command waits, there is none to end. -/
theorem failWaiting_of_none_waiting {s : State} {src : Option Nat} {kind : WaitKind} (hnone : (src.bind fun n => waitingFor s n kind) = none)
    (status : Nat) : failWaiting s src kind status = s := by
  unfold failWaiting
  rw [hnone]

/-- The request that KEY_SLOT_ERASE of slot 0, sent by MB0, leaves in the island's queue while the inactive bank has users (R542). -/
def eraseOfSlot0 : IslandReq := { level := 3, kind := 4, slot := 0, src := some 0, erase := true }

/-- Slot 0 is erase pending, with its erase in the island's queue; the users are gone, and the command no longer waits. -/
def erasePendingState : State := State.reset.modKeys fun k => { k with queue := [eraseOfSlot0], slots := k.slots.set 0 { erasing := true } }

theorem islandNext_erasePendingState : islandNext erasePendingState false = some 0 := rfl

/-- Refutes O24: its first clause says of a request that the island does not answer that it leaves the queue and no more, but where that request
is an erase, its slot is also no longer erase pending (R542). -/
theorem not_keyRowsComplete : ¬ Obligations.keyRowsComplete := by
  unfold Obligations.keyRowsComplete
  intro hall
  obtain ⟨hisland, -⟩ := hall erasePendingState
  obtain ⟨_, rfl, hunanswered, -⟩ := hisland false 0 eraseOfSlot0 islandNext_erasePendingState rfl
  have hexec := exec_islandRequestComplete_of_unanswered islandNext_erasePendingState (q := eraseOfSlot0) rfl true
  rw [failWaiting_of_none_waiting rfl] at hexec
  have hstated := hunanswered true
  rw [failWaiting_of_none_waiting rfl, hexec] at hstated
  injection hstated with hstates
  have hdropped : (keySlot (dropErase (withoutRequest erasePendingState 0) eraseOfSlot0) 0).erasing = false := rfl
  have hkept : (keySlot (withoutRequest erasePendingState 0) 0).erasing = true := rfl
  rw [hstates] at hdropped
  exact Bool.false_ne_true (hdropped.symm.trans hkept)

end Sys2Proof.Machine
end

section
/-! PROOFS. The step on an empty queue: one clock passes, as far as the module is powered (R371, R393, R394, assumption 1). -/

namespace Sys2Proof.Machine

section
variable {s : State}

theorem State.idle_of_off (hoff : s.power.on = false) : s.idle = s := if_neg (by simp [hoff])

theorem State.idle_of_on (hon : s.power.on = true) : s.idle = s.later 1 := if_pos hon

/-- In Night and Dark the always-on clock alone moves. -/
theorem State.later_of_asleep (hon : s.power.on = true) (hasleep : 2 ≤ s.power.state) (n : Nat) :
    s.later n = { s with time := { s.time with aon := s.time.aon + n } } :=
  if_pos (by simp [hon, hasleep])

/-- In Day and Dusk the raw count and the uptime move with the always-on clock, and of H0 its clock counters alone. -/
theorem State.later_of_awake (hawake : s.power.state ≤ 1) (n : Nat) :
    ∃ cycle debt perf, s.later n = { s with
      time := { s.time with raw := (s.time.raw + n) % 2 ^ 64, aon := s.time.aon + n }
      mb := { s.mb with uptimeMs := (s.mb.upCounts + n) / 625000, upCounts := s.mb.upCounts + n }
      host := { s.host with perfCycle := cycle, headDebt := debt, perf := perf } } := by
  have hclocked : ¬ (s.power.on && decide (s.power.state ≥ 2)) = true := by
    simp only [Bool.and_eq_true, decide_eq_true_eq]
    omega
  obtain ⟨cycle, debt, perf, hhost⟩ :=
    clockHost_eq s.host (if s.power.on && s.power.state == 1 then (s.mb.upCounts + n) / 4 - s.mb.upCounts / 4 else n)
  refine ⟨cycle, debt, perf, ?_⟩
  unfold State.later
  rw [if_neg hclocked, hhost]

end

/-- Settles O39: the step is the idle clock, which the power state divides into its three cases. -/
theorem stepOnEmptyQueue : Obligations.stepOnEmptyQueue := by
  unfold Obligations.stepOnEmptyQueue
  intro s hempty
  rw [step_of_pending_nil hempty]
  refine ⟨fun hoff => ?off, fun hon hasleep => ?asleep, fun hon hawake => ?awake⟩
  case off => rw [State.idle_of_off hoff]
  case asleep => rw [State.idle_of_on hon, State.later_of_asleep hon hasleep]
  case awake =>
    obtain ⟨_, _, _, hlater⟩ := State.later_of_awake hawake 1
    rw [State.idle_of_on hon, hlater]
    exact ⟨_, rfl, rfl, rfl, .update _ _ _ _ _ _ _, rfl, rfl, rfl, rfl, rfl⟩

end Sys2Proof.Machine
end

section
/-! PROOFS. The rows of gPTP, of steering and of holdover (R376 to R386, R395). -/

namespace Sys2Proof.Machine

/-- What no change of an element touches reads as before in every element of the array. -/
theorem at'_modify_of_fixed {α β : Type} {f : α → α} (g : α → β) (hfixed : ∀ x, g (f x) = g x) (l : List α) (k j : Nat) (d : α) :
    g (at' (l.modify k f) j d) = g (at' l j d) := by
  simp only [at', List.getD_eq_getElem?_getD, List.getElem?_modify]
  cases l[j]? with
  | none => rfl
  | some x =>
    by_cases hsame : k = j
    · simp [hsame, hfixed]
    · simp [hsame]

/-- A change of a gPTP port leaves the run of consecutive Syncs alone. -/
theorem modGptpPort_syncs (s : State) (i port : Nat) (f : GptpPort → GptpPort) :
    (gptpRun (modGptpPort s i port f) i).syncs = (gptpRun s i).syncs :=
  at'_modify_of_fixed (f := fun r : GptpRun => { r with ports := r.ports.modify port f }) GptpRun.syncs (fun _ => rfl) s.time.run i i {}

section
variable {s : State} {i port : Nat}

/-! ### Sync and Announce (R376, R381, R382) -/

/-- The counters after a Sync: one that is not one-step comes with its Follow_Up (R395). -/
def syncCounted (s : State) (i port : Nat) (oneStep : Bool) : State :=
  if oneStep then gptpCount s i port 0 else gptpCount (gptpCount s i port 0) i port 1

theorem syncCounted_syncs (oneStep : Bool) : (gptpRun (syncCounted s i port oneStep) i).syncs = (gptpRun s i).syncs := by
  cases oneStep with
  | true => exact modGptpPort_syncs s i port _
  | false => exact (modGptpPort_syncs _ i port _).trans (modGptpPort_syncs s i port _)

/-- A Sync has come on the slave port: counted, the neighbour's form of Sync noted, the receipt timeout cleared (R380, R401). -/
def syncTaken (s : State) (i port : Nat) (oneStep : Bool) : State :=
  modGptpPort (modLink (syncCounted s i port oneStep) port fun l => { l with oneStep := oneStep }) i port fun x => { x with receiptTo := false }

theorem syncTaken_syncs (oneStep : Bool) : (gptpRun (syncTaken s i port oneStep) i).syncs = (gptpRun s i).syncs :=
  (modGptpPort_syncs _ i port _).trans (syncCounted_syncs oneStep)

/-- The first of consecutive Syncs, which gives a rate ratio and no valid offset; steering is chosen again (R380, R381). -/
def firstSync (s : State) (i port : Nat) (oneStep : Bool) (ratio : Int) : State :=
  resteer (modGptp (syncTaken s i port oneStep) i fun r => { r with syncs := 1, ratio := ratio }) 0

section
variable (hlive : gptpLive s i port = true)
include hlive

theorem exec_gptpSyncRx_of_malformed (oneStep : Bool) (gmTime : Nat) (ratio : Int) :
    exec (.gptpSyncRx i port true oneStep gmTime ratio) s = .next (gptpCount s i port 4) := by
  change execGptpSyncRx i port true oneStep gmTime ratio s = _
  unfold execGptpSyncRx
  rw [if_neg (by simp [hlive]), if_pos rfl]

/-- The first Sync on a slave port is no steering update where the other of the two instances steers. -/
theorem exec_gptpSyncRx_of_first (hslave : (gptpRun s i).slave = some port) (hfirst : (gptpRun s i).syncs = 0) (oneStep : Bool) (gmTime : Nat)
    (ratio : Int) (hother : (firstSync s i port oneStep ratio).time.steering ≠ i) :
    exec (.gptpSyncRx i port false oneStep gmTime ratio) s = .next (firstSync s i port oneStep ratio) := by
  have hcount : min 4 ((gptpRun (syncTaken s i port oneStep) i).syncs + 1) = 1 := by
    rw [syncTaken_syncs, hfirst]
    rfl
  have hinvalid : ∀ b, (decide (1 = 4) && b) = false := fun _ => rfl
  change execGptpSyncRx i port false oneStep gmTime ratio s = _
  unfold firstSync at hother ⊢
  unfold syncTaken syncCounted at hcount hother ⊢
  unfold execGptpSyncRx
  simp only [hlive, hslave, hcount, hinvalid, Bool.not_true, Bool.false_eq_true, if_false, ne_eq, not_true_eq_false, false_and]
  exact if_neg fun hsteers => hother hsteers.1

/-- An Announce of another clock is held at its port, and the BMCA runs. -/
theorem exec_gptpAnnounceRx_of_accepted {ann : Announce} (hforeign : ann.gm ≠ ownClockId) (hsteps : ann.steps < 255) :
    exec (.gptpAnnounceRx i port false ann) s =
      .next (runBmca (modGptpPort (gptpCount s i port 2) i port fun x => { x with ann := some ann }) i) := by
  change execGptpAnnounceRx i port false ann s = _
  unfold execGptpAnnounceRx
  rw [if_neg (by simp [hlive]), if_neg (by simp), if_neg (by simp [hforeign, hsteps])]

end

/-- No Sync has come on the slave port within the receipt timeout: there is no valid offset any more, and steering is chosen again. -/
theorem exec_syncReceiptTimeout_of_slave (hinstance : i ≤ 1) (hslave : (gptpRun s i).slave = some port)
    (hrunning : (at' (gptpRun s i).ports port {}).receiptTo = false) :
    exec (.syncReceiptTimeout i) s =
      .next (resteer (modGptp (modGptpPort (gptpCount s i port 5) i port fun x => { x with receiptTo := true })
        i fun r => { r with syncs := 0, valid := none }) 1) := by
  change execSyncReceiptTimeout i s = _
  unfold execSyncReceiptTimeout
  rw [if_neg (Nat.not_lt.2 hinstance), hslave]
  exact if_neg (Bool.eq_false_iff.1 hrunning)

/-- The Announce of a port whose receipt timeout has expired is dropped, and the BMCA runs. -/
theorem exec_announceReceiptTimeout_of_member (hinstance : i ≤ 1) (hport : port ≤ 27) (hmember : inInst s i port = true)
    (hready : s.host.ready = true) :
    exec (.announceReceiptTimeout i port) s =
      .next (runBmca (modGptpPort (gptpCount s i port 6) i port fun x => { x with ann := none }) i) := by
  change execAnnounceReceiptTimeout i port s = _
  unfold execAnnounceReceiptTimeout
  exact if_neg (by simp [hmember, hready, hinstance, hport])

/-- The Syncs that are sent on the master ports of gPTP number `i`, as they are counted (R378, R395). -/
def syncSent (s : State) (i : Nat) : State :=
  (List.range 28).foldl (fun s p => if (at' (gptpRun s i).ports p {}).role = 1 ∧ asCapable s i p then gptpCount s i p 3 else s) s

/-- For a self-referenced grandmaster that steers, its Syncs are a steering update (R384, R734). -/
theorem exec_syncInterval_of_enabled (hinstance : i ≤ 1) (henabled : (gptpCfg s i).enable = true) (hready : s.host.ready = true)
    (hawake : awake s = true) :
    exec (.syncInterval i) s = .next (if i = (syncSent s i).time.steering ∧ selfGm (syncSent s i) then
      (syncSent s i).modTime fun t => { t with lastUpd := t.raw } else syncSent s i) := by
  change execSyncInterval i s = _
  unfold execSyncInterval syncSent
  dsimp only
  rw [if_neg (by simp [henabled, hready, hawake, hinstance])]

/-! ### Link delays (R376, R395) -/

section
variable (hport : port ≤ 27) (hlive : gptpLive s 0 port = true ∨ gptpLive s 1 port = true)
include hport hlive

/-- The rows of the link delay service act at a port for which one of the two instances runs. -/
theorem linkRow_acts : ¬ (port > 27 ∨ (!decide (gptpLive s 0 port = true ∨ gptpLive s 1 port = true)) = true) := by
  rintro (hbeyond | hdead)
  · omega
  · rw [decide_eq_true hlive] at hdead
    cases hdead

/-- The response that a port waits for gives its link delay; steering is chosen again. -/
theorem exec_gptpPdelayRx_of_waiting (hwaiting : (at' s.time.links port {}).waiting = true) (delayPs : Nat) (nrr : Int) :
    exec (.gptpPdelayRx port false delayPs nrr) s = .next (resteer (modLink (linkCount s port 1) port fun l => { l with
      waiting := false, lostRun := 0, capable := true, meanPs := some delayPs, nrr := nrr }) 0) := by
  change execGptpPdelayRx port false delayPs nrr s = _
  unfold execGptpPdelayRx
  rw [if_neg (linkRow_acts hport hlive), if_neg (by simp), if_neg (by rw [hwaiting]; decide)]

/-- A port that waits for no response has lost no request by the next. -/
theorem exec_pdelayReqInterval_of_answered (hanswered : (at' s.time.links port {}).waiting = false) :
    exec (.pdelayReqInterval port) s = .next (modLink (linkCount s port 0) port fun l => { l with waiting := true }) := by
  change execPdelayReqInterval port s = _
  unfold execPdelayReqInterval
  simp only [if_neg (linkRow_acts hport hlive), hanswered, Bool.false_eq_true, if_false]

end

/-! ### Holdover and reversion (R380, R384, R386) -/

/-- Holdover is entered one second after the last steering update. -/
theorem exec_steeringUpdateTimeout_of_locked (hlocked : s.time.sync = 1) :
    exec .steeringUpdateTimeout s = .next (enterHoldover (s.later (rawSecond - updateAge s)) 2) :=
  if_neg (by simp [hlocked])

/-- E grows by the drift of the second since its last evaluation. -/
theorem exec_holdoverEvaluation_of_holdover (hholdover : 2 ≤ s.time.sync) :
    exec .holdoverEvaluation s =
      .next (checkUnsync (growError (s.later (rawSecond - (s.time.raw + 2 ^ 64 - s.time.evalRaw) % 2 ^ 64)))) :=
  if_neg (Nat.not_lt.2 hholdover)

/-- Steering reverts to the preferred one of the instances once that has qualified for `REVERT_S` since raw count `since`. -/
theorem exec_revertTimer_of_qualified {since : Nat} (hsince : s.time.awayAt = some since) (haway : s.time.steering ≠ (timeParams s).preferred)
    (hqualifies : qualifies s (timeParams s).preferred = true) :
    exec .revertTimer s = .next (switchTo (s.later ((timeParams s).revertS * rawSecond - (s.time.raw + 2 ^ 64 - since) % 2 ^ 64))
      (timeParams s).preferred false) := by
  change execRevertTimer s = _
  unfold execRevertTimer
  rw [hsince]
  exact if_neg (by simp [haway, hqualifies])

end

/-- Settles O14: each row as its own lemma says. -/
theorem timeRowsComplete : Obligations.timeRowsComplete := by
  unfold Obligations.timeRowsComplete
  intro i port s
  exact ⟨fun oneStep gmTime ratio hlive => exec_gptpSyncRx_of_malformed hlive oneStep gmTime ratio,
    fun oneStep gmTime ratio hlive hslave hfirst _ =>
      ⟨_, _, _, rfl, rfl, rfl, exec_gptpSyncRx_of_first hlive hslave hfirst oneStep gmTime ratio⟩,
    fun _ hlive => exec_gptpAnnounceRx_of_accepted hlive,
    fun delayPs nrr hport hlive hwaiting => exec_gptpPdelayRx_of_waiting hport hlive hwaiting delayPs nrr,
    exec_syncReceiptTimeout_of_slave, exec_announceReceiptTimeout_of_member, exec_steeringUpdateTimeout_of_locked,
    exec_holdoverEvaluation_of_holdover, fun _ => exec_revertTimer_of_qualified,
    fun hinstance henabled hready hawake => ⟨syncSent s i, rfl, exec_syncInterval_of_enabled hinstance henabled hready hawake⟩,
    exec_pdelayReqInterval_of_answered⟩

end Sys2Proof.Machine
end

section
/-! PROOFS. The commands of group 0x07 (R397 to R401). -/

namespace Sys2Proof.Machine

section
variable {s s1 : State} {r : Req} {p : List Byte}

/-! ### TIME_STATUS_GET (R397) -/

/-- What steers as TIME_STATUS_GET shows it: nothing while both instances are disabled. -/
def shownSteering (s : State) : Nat := if (gptpCfg s 0).enable || (gptpCfg s 1).enable then s.time.steering else 0xFF

/-- The flags of TIME_STATUS_GET. -/
def timeFlags (s : State) : Nat := b2n (gptpRun s s.time.steering).isGm + 2 * b2n (timeParams s).selfRef + 4 * b2n s.time.slewLim

/-- The holdover age as TIME_STATUS_GET shows it, in whole seconds. -/
def shownAge (s : State) : Nat := if s.time.sync ≥ 2 then min (ageS s) (2 ^ 32 - 1) else 0

/-- The error estimate as TIME_STATUS_GET shows it: all ones where there is none. -/
def shownErr (s : State) : Nat := (errEst s).elim (2 ^ 64 - 1) fun e => min e (2 ^ 64 - 1)

/-- The end of TIME_STATUS_GET: steps removed and UTC offset of the grandmaster's Announce. -/
def timeStatusTail (s : State) : List Byte :=
  le 2 (((gptpRun s s.time.steering).gm.map (·.steps)).getD 0) ++ le 2 (((gptpRun s s.time.steering).gm.map (·.utc)).getD 0) ++ zeros 4

theorem timeStatusTail_length (s : State) : (timeStatusTail s).length = 8 := by simp [timeStatusTail, le_length, zeros]

/-- TIME_STATUS_GET answers the state of Meridian and changes nothing. -/
theorem exec_timeStatusGet (hruns : Runs s specTimeStatusGet r p s1) :
    exec (.timeStatusGet r) s = .next (ends s specTimeStatusGet r p s1 {
      payload := le 1 s1.time.sync ++ le 1 (shownSteering s1) ++ le 1 (timeFlags s1) ++ zeros 1 ++ le 4 (ofInt 32 s1.time.rate) ++ le 8 s1.now ++
        le 8 s1.time.raw ++ le 4 (shownAge s1) ++ zeros 4 ++ le 8 (shownErr s1) ++ le 8 (ofInt 64 s1.time.offset) ++
        be 8 (gmId s1 s1.time.steering) ++ timeStatusTail s1
      st := s1 }) := by
  refine command_completes hruns ?_ rfl
  unfold specTimeStatusGet shownErr timeStatusTail
  simp only [← List.append_assoc]
  cases errEst s1 <;> rfl

/-! ### TIME_PARAMS_SET (R398, R734) -/

/-- The parameters that a TIME_PARAMS_SET payload gives. -/
def timeParamsOf (p : List Byte) : TimeParams := {
  selfRef := bit (u p 0 1) 0, preferred := u p 1 1, revertS := clampTo 0 600 (u p 2 2), stepLimit := clampTo 1000 1000000000 (u p 4 4)
  holdDrift := clampTo 1 10000 (u p 8 4), nightDrift := clampTo 100 500000 (u p 12 4), maxSlew := clampTo 1000 100000 (u p 16 4) }

/-- The parameters as the completion of TIME_PARAMS_SET repeats them. -/
def timeParamsBytes (c : TimeParams) : List Byte :=
  le 1 (b2n c.selfRef) ++ le 1 c.preferred ++ le 2 c.revertS ++ le 4 c.stepLimit ++ le 4 c.holdDrift ++ le 4 c.nightDrift ++ le 4 c.maxSlew ++ zeros 4

/-- The offsets of the fields of a TIME_PARAMS_SET payload that are clamped. -/
def timeParamsClamps (p : List Byte) : List Nat :=
  (clampField 2 0 600 (u p 2 2)).off ++ (clampField 4 1000 1000000000 (u p 4 4)).off ++ (clampField 8 1 10000 (u p 8 4)).off ++
    (clampField 12 100 500000 (u p 12 4)).off ++ (clampField 16 1000 100000 (u p 16 4)).off

/-- Parameters `c` in force; steering that stays away from the preferred one of the instances keeps the start of its reversion (R380). -/
def withTimeParams (s : State) (c : TimeParams) (away : Bool) : State := s.modTime fun t => { t with
  cfg := { t.cfg with params := c }, away := away, awayAt := if away then t.awayAt else none }

/-- A device that is no grandmaster where it steers is no self-referenced one, whatever its parameters. -/
theorem selfGm_of_not_gm {s : State} (hslave : (gptpRun s s.time.steering).isGm = false) : selfGm s = false := by
  unfold selfGm
  rw [hslave, Bool.false_and]

/-- Where the device steers as no grandmaster, TIME_PARAMS_SET neither starts nor ends self-reference. -/
theorem exec_timeParamsSet_of_slave (hruns : Runs s specTimeParamsSet r p s1) (hpreferred : u p 1 1 ≤ 1)
    (hslave : (gptpRun s1 s1.time.steering).isGm = false) :
    exec (.timeParamsSet r) s = .next (ends s specTimeParamsSet r p s1 {
      payload := timeParamsBytes (timeParamsOf p), clamps := timeParamsClamps p
      st := resteer (withTimeParams s1 (timeParamsOf p) (s1.time.away && (timeParamsOf p).preferred == (timeParams s1).preferred)) 0 }) := by
  have hbefore : selfGm s1 = false := selfGm_of_not_gm hslave
  have hafter : ∀ away, selfGm (withTimeParams s1 (timeParamsOf p) away) = false := fun away => selfGm_of_not_gm hslave
  unfold withTimeParams timeParamsOf at hafter ⊢
  refine command_completes hruns ?_ rfl
  unfold specTimeParamsSet
  dsimp only
  rw [checked_pass (by simp [chkSup, hpreferred])]
  simp only [clampField, hbefore, hafter, Bool.false_eq_true, and_false, false_and, if_false]
  rfl

/-! ### GPTP_INSTANCE_SET (R377, R380, R399) -/

/-- The settings that a GPTP_INSTANCE_SET payload without EXTERNAL_PORT_CONFIG gives. -/
def gptpCfgOf (p : List Byte) : GptpCfg := {
  enable := u p 1 1 = 1, domainNo := clampTo 0 127 (u p 2 1), prio1 := u p 3 1, prio2 := u p 4 1, flags := 0
  logSync := (clampS8 6 (-7) 0 (u p 6 1)).1, logAnn := (clampS8 7 (-3) 4 (u p 7 1)).1, logPdelay := (clampS8 8 (-3) 4 (u p 8 1)).1
  syncTo := clampTo 2 255 (u p 9 1), annTo := clampTo 2 255 (u p 10 1), thresh := clampTo 1 100000 (u p 12 4), ports := u p 16 8 % 2 ^ 28
  slave := u p 24 1 }

/-- The settings of gPTP number `i` as the completion of GPTP_INSTANCE_SET repeats them. -/
def gptpCfgBytes (i : Nat) (c : GptpCfg) : List Byte :=
  le 1 i ++ le 1 (b2n c.enable) ++ le 1 c.domainNo ++ le 1 c.prio1 ++ le 1 c.prio2 ++ le 1 c.flags ++ le 1 (ofInt 8 c.logSync) ++
    le 1 (ofInt 8 c.logAnn) ++ le 1 (ofInt 8 c.logPdelay) ++ le 1 c.syncTo ++ le 1 c.annTo ++ zeros 1 ++ le 4 c.thresh ++ le 8 c.ports ++
    le 1 c.slave ++ zeros 7

/-- The offsets of the fields of a GPTP_INSTANCE_SET payload that are clamped. -/
def gptpCfgClamps (p : List Byte) : List Nat :=
  (clampField 2 0 127 (u p 2 1)).off ++ (clampS8 6 (-7) 0 (u p 6 1)).2 ++ (clampS8 7 (-3) 4 (u p 7 1)).2 ++ (clampS8 8 (-3) 4 (u p 8 1)).2 ++
    (clampField 9 2 255 (u p 9 1)).off ++ (clampField 10 2 255 (u p 10 1)).off ++ (clampField 12 1 100000 (u p 12 4)).off

/-- Settings `c` in force for gPTP number `i`. -/
def withGptpCfg (s : State) (i : Nat) (c : GptpCfg) : State :=
  s.modTime fun t => { t with cfg := { t.cfg with inst := t.cfg.inst.set i c } }

/-- The BMCA runs where GPTP_INSTANCE_SET changes a setting; two enabled instances never share a domain. -/
theorem exec_gptpInstanceSet (hruns : Runs s specGptpInstanceSet r p s1) (hindex : u p 0 1 ≤ 1) (henable : u p 1 1 ≤ 1)
    (hbmca : bit (u p 5 1) 0 = false)
    (hdomain : u p 1 1 = 1 → (gptpCfg s1 (1 - u p 0 1)).enable = true → (gptpCfg s1 (1 - u p 0 1)).domainNo ≠ clampTo 0 127 (u p 2 1)) :
    exec (.gptpInstanceSet r) s = .next (ends s specGptpInstanceSet r p s1 {
      payload := gptpCfgBytes (u p 0 1) (gptpCfgOf p), clamps := gptpCfgClamps p
      st := if gptpCfgOf p = gptpCfg s1 (u p 0 1) then withGptpCfg s1 (u p 0 1) (gptpCfgOf p)
        else runBmca (withGptpCfg s1 (u p 0 1) (gptpCfgOf p)) (u p 0 1) }) := by
  have hflags : u p 5 1 % 2 = 0 := by
    rw [bit_zero, decide_eq_false_iff_not] at hbmca
    omega
  refine command_completes hruns ?_ rfl
  unfold specGptpInstanceSet
  simp only [hflags]
  rw [checked_pass (by simp [chkSup, chkConf, clampField, hindex, henable]; exact hdomain)]
  rfl

/-! ### TIME_STEP (R374, R387, R400) -/

/-- TIME_STEP to an absolute time, while nothing qualifies to steer. -/
theorem exec_timeStep_of_absolute (hruns : Runs s specTimeStep r p s1) (hmode : u p 0 1 = 0) (hfree : qualifies s1 s1.time.steering = false) :
    exec (.timeStep r) s = .next (ends s specTimeStep r p s1 {
      payload := le 8 (ofInt 64 ((u p 8 8 : Int) - s1.now)) ++ le 8 (stepTime s1 (u p 8 8 * 281474976710656) 2 0xFF).now
      st := stepTime s1 (u p 8 8 * 281474976710656) 2 0xFF }) := by
  have hword : u p 8 8 < 256 ^ 8 := u_lt p 8 8
  have hfine : ((u p 8 8 : Int) * 281474976710656 + 0).toNat = u p 8 8 * 281474976710656 := by omega
  have hother : ¬ 0 = 2 := by decide
  refine command_completes hruns ?_ rfl
  unfold specTimeStep
  simp only [hmode, if_true, hother, if_false, false_and, hfine]
  rw [checked_pass (by simp [chkSup, chkConf, chkPol, hfree]; omega)]

/-! ### GPTP_PORT_GET (R395, R401) -/

/-- The counters of GPTP_PORT_GET: those of the gPTP port around those of its link delay service. -/
def gptpPortCounters (x : GptpPort) (l : LinkDelay) : List Nat :=
  [at' x.counters 0 0, at' x.counters 1 0, at' x.counters 2 0, at' x.counters 3 0, at' l.counters 0 0, at' l.counters 1 0, at' l.counters 2 0,
    at' x.counters 4 0, at' x.counters 5 0, at' x.counters 6 0]

/-- The first 8 bytes of GPTP_PORT_GET: the port's role, the state of its link and the mean link delay. -/
def gptpPortHead (s : State) (i port : Nat) : List Byte :=
  le 1 i ++ le 1 port ++ le 1 (at' (gptpRun s i).ports port {}).role ++
    le 1 (b2n (asCapable s i port) + 2 * b2n (at' s.time.links port {}).oneStep) ++
    le 4 (min ((at' s.time.links port {}).meanPs.getD 0) (2 ^ 32 - 1))

theorem gptpPortHead_length (s : State) (i port : Nat) : (gptpPortHead s i port).length = 8 := by simp [gptpPortHead, le_length]

/-- What GPTP_PORT_GET tells of a port: its head, the neighbour's rate ratio and the counters. -/
def gptpPortBytes (s : State) (i port : Nat) : List Byte :=
  gptpPortHead s i port ++ (le 4 (ofInt 32 (at' s.time.links port {}).nrr) ++ zeros 4 ++
    (gptpPortCounters (at' (gptpRun s i).ports port {}) (at' s.time.links port {})).flatMap (le 4))

/-- GPTP_PORT_GET of a port that takes part in gPTP clears the counters under FLAGS bit 0. -/
theorem exec_gptpPortGet (hruns : Runs s specGptpPortGet r p s1) (hindex : u p 0 1 ≤ 1) (hport : u p 1 1 ≤ 27)
    (hmember : bit (gptpCfg s1 (u p 0 1)).ports (u p 1 1) = true) :
    exec (.gptpPortGet r) s = .next (ends s specGptpPortGet r p s1 {
      payload := gptpPortBytes s1 (u p 0 1) (u p 1 1)
      st := if bit (u p 2 1) 0 then
          modLink (modGptpPort s1 (u p 0 1) (u p 1 1) fun x => { x with counters := List.replicate 7 0 }) (u p 1 1)
            fun l => { l with counters := List.replicate 3 0 }
        else s1 }) := by
  refine command_completes hruns ?_ rfl
  unfold specGptpPortGet gptpPortBytes
  dsimp only
  rw [checked_pass (by simp [chkSup, chkConf, hindex, hport, hmember])]
  simp only [← List.append_assoc]
  rfl

end

/-- Settles O13: each command completes with what its body answers. -/
theorem timeCommandsComplete : Obligations.timeCommandsComplete := by
  unfold Obligations.timeCommandsComplete
  intro r s s1 p
  refine ⟨fun hruns => ⟨shownSteering s1, _, shownAge s1, shownErr s1, _, timeStatusTail_length s1, fun hnone => ?none, fun e hsome => ?some,
      exec_timeStatusGet hruns, rfl, rfl⟩,
    fun hruns hpreferred hslave => ⟨_, _, _, _, rfl, rfl, exec_timeParamsSet_of_slave hruns hpreferred hslave⟩,
    fun hruns hindex henable hbmca hdomain => ⟨_, _, gptpCfgOf p, _, rfl, rfl, rfl, rfl, rfl, rfl, rfl, rfl, rfl, rfl,
      exec_gptpInstanceSet hruns hindex henable hbmca hdomain⟩,
    fun hruns hmode hfree => ⟨_, rfl, exec_timeStep_of_absolute hruns hmode hfree⟩,
    fun hruns hindex hport hmember => ⟨_, exec_gptpPortGet hruns hindex hport hmember, List.take_left' (gptpPortHead_length s1 _ _)⟩⟩
  case none => rw [shownErr, hnone, Option.elim_none]
  case some => rw [shownErr, hsome, Option.elim_some]

end Sys2Proof.Machine
end

section
/-! PROOFS. The commands of group 0x08 (R432 to R443). -/

namespace Sys2Proof.Machine

/-- An engine that is not restarting answers (R429). -/
theorem ifEngine_pass {s : State} {e : Nat} (hready : (engine s e).restart = none) (k : Unit → Result) : ifEngine s e k = k () := by
  unfold ifEngine
  rw [hready]
  exact if_neg (by decide)

section
variable {s s1 : State} {r : Req} {p : List Byte}

/-! ### CHANNEL_STATUS_GET and CHANNEL_COUNTERS_GET (R430, R432, R443) -/

/-- The first 3 bytes of CHANNEL_STATUS_GET: channel, engine, state. -/
def chanStatusHead (s : State) (c : Nat) : List Byte := le 1 c ++ le 1 (engineOf c) ++ le 1 (chanState s c)

theorem chanStatusHead_length (s : State) (c : Nat) : (chanStatusHead s c).length = 3 := by simp [chanStatusHead, le_length]

/-- The flags of CHANNEL_STATUS_GET. -/
def chanFlags (s : State) (c : Nat) : Nat :=
  b2n (isMvb c && (mvbRun s c).master) + 2 * b2n (c ≤ 1 && (at' s.leg.cfg.wake c {}).enable) + 4 * b2n (48 ≤ c && (dioRun s c).fault) +
    8 * b2n (thas s.gw.locks c) + 16 * b2n (engine s (engineOf c)).restart.isSome

/-- What follows the first 3 bytes of CHANNEL_STATUS_GET. -/
def chanStatusTail (s : State) (c : Nat) : List Byte :=
  le 1 (chanFlags s c) ++
    (le 1 (if c ≤ 7 then min (canRun s c).tec 255 else if isMvb c then (mvbRun s c).masterAddr % 256 else 0) ++
    (le 1 (if c ≤ 7 then (canRun s c).rec_ else if isMvb c then (mvbRun s c).masterAddr / 256 else 0) ++
    (le 1 (if isLin c then (linRun s c).table else 0xFF) ++ (zeros 1 ++ le 8 (chanOf s c).since))))

/-- CHANNEL_STATUS_GET answers the state of a channel and changes nothing. -/
theorem exec_channelStatusGet (hruns : Runs s specChannelStatusGet r p s1) (hchan : chanOk (u p 0 1) = true) :
    exec (.channelStatusGet r) s = .next (ends s specChannelStatusGet r p s1 {
      payload := chanStatusHead s1 (u p 0 1) ++ chanStatusTail s1 (u p 0 1), st := s1 }) := by
  refine command_completes hruns ?_ rfl
  unfold specChannelStatusGet chanStatusTail
  dsimp only
  rw [checked_pass (by simp [chkSup, hchan])]
  simp only [← List.append_assoc]
  rfl

/-- CHANNEL_COUNTERS_GET answers the counters of a channel, and clears them under FLAGS bit 0. -/
theorem exec_channelCountersGet (hruns : Runs s specChannelCountersGet r p s1) (hchan : chanOk (u p 0 1) = true)
    (hready : (engine s1 (engineOf (u p 0 1))).restart = none) :
    exec (.channelCountersGet r) s = .next (ends s specChannelCountersGet r p s1 {
      payload := le 1 (u p 0 1) ++ zeros 7 ++ le 8 (chanOf s1 (u p 0 1)).rx ++ le 8 (chanOf s1 (u p 0 1)).tx ++
        (chanOf s1 (u p 0 1)).cs.flatMap (le 4) ++ le 4 (chanOf s1 (u p 0 1)).fifoDrop
      st := if bit (u p 1 1) 0 then
        modChan s1 (u p 0 1) (fun y => { y with rx := 0, tx := 0, cs := List.replicate 8 0, fifoDrop := 0 }) else s1 }) := by
  refine command_completes hruns ?_ rfl
  unfold specChannelCountersGet
  dsimp only
  rw [checked_pass (by simp [chkSup, hchan]), ifEngine_pass hready]

/-! ### CAN (R409, R412, R413, R433 to R435) -/

/-- CAN_SET without CAN XL: the bit rate of a data phase counts under CAN FD only. -/
theorem exec_canSet {f : CanCfg × List Nat} (hruns : Runs s specCanSet r p s1) (hfields : f = canFields p) (hchan : u p 0 1 ≤ 7)
    (hmode : f.1.mode ≤ 3) (hproto : f.1.proto ≤ 1) (hnominalLo : 80 ≤ quanta f.1.nBrp f.1.nSeg1 f.1.nSeg2)
    (hnominalHi : quanta f.1.nBrp f.1.nSeg1 f.1.nSeg2 ≤ 8000)
    (hdata : f.1.proto = 1 → 10 ≤ quanta f.1.dBrp f.1.dSeg1 f.1.dSeg2 ∧
      quanta f.1.dBrp f.1.dSeg1 f.1.dSeg2 ≤ quanta f.1.nBrp f.1.nSeg1 f.1.nSeg2)
    (hready : (engine s1 (engineOf (u p 0 1))).restart = none) :
    exec (.canSet r) s = .next (ends s specCanSet r p s1 {
      payload := canBytes (u p 0 1) f.1 ++ le 4 (80000000 / quanta f.1.nBrp f.1.nSeg1 f.1.nSeg2) ++
        le 4 (80000000 / quanta f.1.dBrp f.1.dSeg1 f.1.dSeg2) ++ le 4 0
      clamps := f.2, st := stampChans s1 (canApply s1 (u p 0 1) f.1) }) := by
  have hnoXl : f.1.proto ≠ 2 := by omega
  have hdataRate : 1 ≤ f.1.proto → 10 ≤ quanta f.1.dBrp f.1.dSeg1 f.1.dSeg2 ∧
      quanta f.1.dBrp f.1.dSeg1 f.1.dSeg2 ≤ quanta f.1.nBrp f.1.nSeg1 f.1.nSeg2 := fun h => hdata (by omega)
  refine command_completes hruns ?_ rfl
  unfold specCanSet
  dsimp only
  rw [← hfields, checked_pass (by simp [chkSup, chkPol, hchan, hmode, hnoXl, hnominalLo, hnominalHi]; omega), ifEngine_pass hready, if_neg hnoXl]

/-- The wake-up detector that a CAN_WAKE_SET payload gives. -/
def canWakeOf (p : List Byte) : CanWake := {
  enable := u p 1 1 == 1, flags := u p 2 1 % 4, dlc := clampTo 0 8 (u p 3 1), ident := u p 4 4 % 2 ^ (if bit (u p 2 1 % 4) 0 then 29 else 11)
  mask := u p 8 4, dataMask := sub p 12 8, rate := u p 20 1 }

/-- The detector of channel `c` as the completion of CAN_WAKE_SET repeats it. -/
def canWakeBytes (c : Nat) (w : CanWake) : List Byte :=
  le 1 c ++ le 1 (b2n w.enable) ++ le 1 w.flags ++ le 1 w.dlc ++ le 4 w.ident ++ le 4 w.mask ++ w.dataMask ++ le 1 w.rate ++ zeros 3

/-- CAN_WAKE_SET leaves the settings of a wake-up detector. -/
theorem exec_canWakeSet (hruns : Runs s specCanWakeSet r p s1) (hchan : u p 0 1 ≤ 1) (henable : u p 1 1 ≤ 1) (hrate : u p 20 1 ≤ 3)
    (hready : (engine s1 0).restart = none) :
    exec (.canWakeSet r) s = .next (ends s specCanWakeSet r p s1 {
      payload := canWakeBytes (u p 0 1) (canWakeOf p), clamps := (clampField 3 0 8 (u p 3 1)).off
      st := s1.modLeg fun l => { l with cfg := { l.cfg with wake := l.cfg.wake.set (u p 0 1) (canWakeOf p) } } }) := by
  refine command_completes hruns ?_ rfl
  unfold specCanWakeSet
  dsimp only
  rw [checked_pass (by simp [chkSup, hchan, henable, hrate]), ifEngine_pass hready]
  rfl

/-- CAN_RECOVER begins the recovery of a channel that is bus-off, or begins it afresh. -/
theorem exec_canRecover (hruns : Runs s specCanRecover r p s1) (hchan : u p 0 1 ≤ 7) (hoff : 3 ≤ (canRun s1 (u p 0 1)).state)
    (hready : (engine s1 (engineOf (u p 0 1))).restart = none) :
    exec (.canRecover r) s = .next (ends s specCanRecover r p s1 {
      st := stampChans s1 (modCan s1 (u p 0 1) fun r => { r with state := 4 }) }) := by
  refine command_completes hruns ?_ rfl
  unfold specCanRecover
  dsimp only
  rw [checked_pass (by simp [chkSup, chkConf, hchan, hoff]), ifEngine_pass hready]

/-! ### MVB (R418 to R420, R436 to R438) -/

/-- The settings that an MVB_SET payload gives. -/
def mvbCfgOf (p : List Byte) : MvbCfg := {
  mode := u p 1 1, addr := u p 2 2, flags := u p 4 1 % 4, line := u p 5 1, fails := clampTo 4 255 (u p 6 1) }

/-- The settings of channel `c` as the completion of MVB_SET repeats them. -/
def mvbBytes (c : Nat) (k : MvbCfg) : List Byte :=
  le 1 c ++ le 1 k.mode ++ le 2 k.addr ++ le 1 k.flags ++ le 1 k.line ++ le 1 k.fails ++ zeros 1

/-- MVB_SET of a device that stays no administrator: a master loses mastership first. -/
theorem exec_mvbSet_of_not_admin (hruns : Runs s specMvbSet r p s1) (hchan : isMvb (u p 0 1) = true) (hmode : u p 1 1 ≤ 1)
    (haddr : u p 2 2 ≤ 4095) (hadmin : bit (u p 4 1 % 4) 1 = false) (hline : u p 5 1 ≤ 2) (hready : (engine s1 2).restart = none)
    (hengine : engineRuns s1 (u p 0 1) = true) :
    exec (.mvbSet r) s = .next (ends s specMvbSet r p s1 {
      payload := mvbBytes (u p 0 1) (mvbCfgOf p), clamps := (clampField 6 4 255 (u p 6 1)).off
      st := stampChans s1 (modMvb ((leaveMaster s1 (u p 0 1) 3 0).modLeg fun l => { l with
          cfg := { l.cfg with mvb := l.cfg.mvb.set (u p 0 1 - 8) (mvbCfgOf p) } })
        (u p 0 1) fun r => { r with on := (mvbCfgOf p).mode == 1 }) }) := by
  refine command_completes hruns ?_ rfl
  unfold specMvbSet
  dsimp only
  rw [checked_pass (by simp [chkSup, hchan, hmode, haddr, hline]), ifEngine_pass hready, if_pos hengine, if_pos (.inr (by rw [hadmin]; rfl))]
  rfl

/-- MVB_PORT_SET changes no epoch table. -/
theorem exec_mvbPortSet {t : State} {cl : List Nat} (hruns : Runs s specMvbPortSet r p s1) (hready : (engine s1 2).restart = none)
    (happlies : ListApplies 16 entryMvbPort noShadowCheck p s1 t cl) :
    exec (.mvbPortSet r) s = .next (ends s specMvbPortSet r p s1 (listDone p t cl 0 false)) := by
  refine command_completes hruns ?_ rfl
  unfold specMvbPortSet
  dsimp only
  rw [ifEngine_pass hready]
  exact listBody_of happlies _

/-- The administration that an MVB_ADMIN_SET payload with one administrator and no polls gives. -/
def mvbAdminOf (p : List Byte) : MvbAdmin := {
  admins := [u p 8 2], basicUs := clampTo 500 2000 (u p 4 2) / 500 * 500, turns := clampTo 1 255 (u p 6 2), polls := [] }

/-- An administration without polls occupies nothing of a basic period. -/
theorem adminOver_of_no_polls {a : MvbAdmin} (hnone : a.polls = []) : adminOver a = false := by
  have hpolls : ∀ n, pollsOf a n = [] := fun n => by simp [pollsOf, hnone]
  simp [adminOver, hpolls]

/-- MVB_ADMIN_SET without polls comes into force at once where the device is not master. -/
theorem exec_mvbAdminSet_of_no_polls (hruns : Runs s specMvbAdminSet r p s1) (hchan : isMvb (u p 0 1) = true) (hnone : u p 2 2 = 0)
    (hone : u p 1 1 = 1) (hadmin : bit (mvbCfg s1 (u p 0 1)).flags 1 = true) (hown : u p 8 2 = (mvbCfg s1 (u p 0 1)).addr)
    (hready : (engine s1 2).restart = none) (hslave : (mvbRun s1 (u p 0 1)).master = false) :
    exec (.mvbAdminSet r) s = .next (ends s specMvbAdminSet r p s1 {
      payload := le 1 (u p 0 1) ++ le 1 1 ++ le 2 0 ++ le 2 (mvbAdminOf p).basicUs ++ le 2 (mvbAdminOf p).turns ++ sub p 8 32 ++ zeros 8
      clamps := (clampLower 4 500 2000 500 (u p 4 2)).off ++ (clampField 6 1 255 (u p 6 2)).off
      st := modMvb (s1.modLeg fun l => { l with cfg := { l.cfg with admin := l.cfg.admin.set (u p 0 1 - 8) (mvbAdminOf p) } }) (u p 0 1)
        fun r => { r with admin := mvbAdminOf p } }) := by
  have hcount : clampField 1 1 16 1 = { val := 1, off := [] } := rfl
  have hadmins : (List.range 1).map (fun i => u p (8 + 2 * i) 2) = [u p 8 2] := rfl
  have hfree : adminOver (mvbAdminOf p) = false := adminOver_of_no_polls rfl
  unfold mvbAdminOf at hfree ⊢
  refine command_completes hruns ?_ rfl
  unfold specMvbAdminSet
  simp only [hnone, hone, hcount, hadmins, List.range_zero, List.map_nil, List.find?_nil, List.flatMap_nil, List.nil_append, List.append_nil]
  rw [checked_pass (by simp [chkSup, chkConf, chkPol, clampField, clampLower, hchan, hadmin, ← hown, hfree]), ifEngine_pass hready,
    if_neg (by simp [hslave])]
  rfl

/-- An entry of MVB_PORT_SET that removes a port. -/
theorem entryMvbPort_of_remove {e : List Byte} (off : Nat) (hchan : isMvb (u e 0 1) = true) (hop : u e 1 1 = 1) (hport : u e 2 2 ≤ 4095)
    (hset : thas (at' s.leg.cfg.ports (u e 0 1 - 8) []) (u e 2 2) = true) :
    entryMvbPort off e s = .ok (s.modLeg fun l => { l with
      cfg := { l.cfg with ports := l.cfg.ports.modify (u e 0 1 - 8) fun t => tdel t (u e 2 2) }
      mvbPorts := l.mvbPorts.modify (u e 0 1 - 8) fun t => tdel t (u e 2 2) }, []) := by
  unfold entryMvbPort
  dsimp only
  rw [entryOk_pass (by simp [chkSup, chkConf, hchan, hop, hport, hset]), if_pos hop]

/-! ### Serial ports (R421, R439) -/

/-- `SILENCE_MS` of a SERIAL_SET: 0 is none, and any other value is clamped. -/
def silenceField (p : List Byte) : Clamped := if u p 16 2 = 0 then { val := 0, off := [] } else clampField 16 10 60000 (u p 16 2)

theorem silenceField_val (p : List Byte) : (silenceField p).val = if u p 16 2 = 0 then 0 else clampTo 10 60000 (u p 16 2) :=
  apply_ite Clamped.val _ _ _

/-- The settings that a SERIAL_SET payload gives. -/
def serialCfgOf (p : List Byte) : SerialCfg := {
  mode := u p 1 1, phy := u p 2 1, format := u p 3 1 % 16, baud := clampTo 1200 10000000 (u p 4 4), flags := u p 8 1 % 4
  gap := clampTo 2 255 (u p 9 1), deLead := clampTo 0 1000 (u p 10 2), respMs := clampTo 1 10000 (u p 12 2), polls := clampTo 1 255 (u p 14 1)
  silenceMs := (silenceField p).val }

/-- The settings of port `c` as the completion of SERIAL_SET repeats them, and the bit rate they give. -/
def serialBytes (c : Nat) (k : SerialCfg) : List Byte :=
  le 1 c ++ le 1 k.mode ++ le 1 k.phy ++ le 1 k.format ++ le 4 k.baud ++ le 1 k.flags ++ le 1 k.gap ++ le 2 k.deLead ++ le 2 k.respMs ++
    le 1 k.polls ++ zeros 1 ++ le 2 k.silenceMs ++ zeros 2 ++ le 4 (appliedBaud k.baud)

/-- The offsets of the fields of a SERIAL_SET payload that are clamped. -/
def serialClamps (p : List Byte) : List Nat :=
  (clampField 4 1200 10000000 (u p 4 4)).off ++ (clampField 9 2 255 (u p 9 1)).off ++ (clampField 10 0 1000 (u p 10 2)).off ++
    (clampField 12 1 10000 (u p 12 2)).off ++ (clampField 14 1 255 (u p 14 1)).off ++ (silenceField p).off

/-- SERIAL_SET comes into force at once where no message is on the line. -/
theorem exec_serialSet_of_idle (hruns : Runs s specSerialSet r p s1) (hchan : isSerial (u p 0 1) = true) (hmode : u p 1 1 ≤ 3)
    (hphy : u p 2 1 ≤ 1) (hparity : u p 3 1 % 16 / 2 % 4 ≠ 3) (hfree : thas s1.gw.locks (u p 0 1) = false) (hready : (engine s1 3).restart = none)
    (hidle : (serRun s1 (u p 0 1)).cur = none) :
    exec (.serialSet r) s = .next (ends s specSerialSet r p s1 {
      payload := serialBytes (u p 0 1) (serialCfgOf p), clamps := serialClamps p
      st := stampChans s1 (serialPump 256 (serApply s1 (u p 0 1) (serialCfgOf p)) (u p 0 1)) }) := by
  have hquiet : ¬ (serRun s1 (u p 0 1)).cur.isSome = true := by simp [hidle]
  refine command_completes hruns ?_ rfl
  unfold specSerialSet
  dsimp only
  rw [checked_pass (by simp [chkSup, chkConf, hchan, hmode, hphy, hparity, hfree]), ifEngine_pass hready, if_neg hquiet]
  rfl

/-! ### LIN (R425, R426, R440, R441) -/

/-- The settings that a LIN_SET payload gives. -/
def linCfgOf (p : List Byte) : LinCfg := {
  mode := u p 1 1, baud := clampTo 1000 20000 (u p 2 2), table := u p 4 1, base := clampTo 1 50 (u p 5 1), brk := clampTo 13 26 (u p 6 1) }

/-- The settings of channel `c` as the completion of LIN_SET repeats them. -/
def linBytes (c : Nat) (k : LinCfg) : List Byte :=
  le 1 c ++ le 1 k.mode ++ le 2 k.baud ++ le 1 k.table ++ le 1 k.base ++ le 1 k.brk ++ zeros 1

/-- LIN_SET to sleep stops the schedule and a wake-up that waits to resume it. -/
theorem exec_linSet_of_sleep (hruns : Runs s specLinSet r p s1) (hchan : isLin (u p 0 1) = true) (hsleep : u p 1 1 = 2) (htable : u p 4 1 ≤ 7)
    (hentries : linTable s1 (u p 0 1) (u p 4 1) ≠ []) (hready : (engine s1 1).restart = none) (hengine : engineRuns s1 (u p 0 1) = true) :
    exec (.linSet r) s = .next (ends s specLinSet r p s1 {
      payload := linBytes (u p 0 1) (linCfgOf p)
      clamps := (clampField 2 1000 20000 (u p 2 2)).off ++ (clampField 5 1 50 (u p 5 1)).off ++ (clampField 6 13 26 (u p 6 1)).off
      st := stampChans s1 (modLin (s1.modLeg fun l => { l with cfg := { l.cfg with lin := l.cfg.lin.set (u p 0 1 - 24) (linCfgOf p) } })
        (u p 0 1) fun r => { r with state := 2, resume := none }) }) := by
  unfold linBytes linCfgOf
  refine command_completes hruns ?_ rfl
  unfold specLinSet
  simp only [hsleep, hengine]
  rw [checked_pass (by simp [chkSup, chkConf, hchan, htable, hentries]), ifEngine_pass hready]
  rfl

/-- Entry `i` of a LIN_SCHEDULE_SET payload whose entries are not event-triggered. -/
def linEntryOf (p : List Byte) (i : Nat) : LinEntry := {
  id := u p (8 + 8 * i) 1, type := u p (8 + 8 * i + 1) 1, len := clampTo 1 8 (u p (8 + 8 * i + 2) 1), flags := u p (8 + 8 * i + 3) 1 % 2
  slot := clampTo 1 255 (u p (8 + 8 * i + 4) 1), coll := 0 }

/-- The entries of a LIN_SCHEDULE_SET payload, of which none is event-triggered. -/
def linEntriesOf (p : List Byte) : List LinEntry := (List.range (u p 2 2)).map (linEntryOf p)

theorem linEntriesOf_getElem? {i : Nat} (hi : i < u p 2 2) : (linEntriesOf p)[i]? = some (linEntryOf p i) := by
  simp [linEntriesOf, hi]

/-- A schedule as the completion of LIN_SCHEDULE_SET repeats it. -/
def linScheduleBytes (c t n : Nat) (es : List LinEntry) : List Byte :=
  le 1 c ++ le 1 t ++ le 2 n ++ zeros 4 ++
    es.flatMap fun e => le 1 e.id ++ le 1 e.type ++ le 1 e.len ++ le 1 e.flags ++ le 1 e.slot ++ le 1 e.coll ++ zeros 2

/-- The offsets of the fields of a LIN_SCHEDULE_SET payload that are clamped. -/
def linScheduleClamps (p : List Byte) : List Nat :=
  (List.range (u p 2 2)).flatMap fun i =>
    (clampField (8 + 8 * i + 2) 1 8 (u p (8 + 8 * i + 2) 1)).off ++ (clampField (8 + 8 * i + 4) 1 255 (u p (8 + 8 * i + 4) 1)).off

/-- LIN_SCHEDULE_SET of published and subscribed frames leaves the table. -/
theorem exec_linScheduleSet (hruns : Runs s specLinScheduleSet r p s1) (hchan : isLin (u p 0 1) = true) (htable : u p 1 1 ≤ 7)
    (hcount : u p 2 2 ≤ 64) (hactive : u p 2 2 = 0 → (linCfg s1 (u p 0 1)).table ≠ u p 1 1)
    (hentries : ∀ i, i < u p 2 2 → u p (8 + 8 * i) 1 ≤ 63 ∧ u p (8 + 8 * i + 1) 1 ≤ 1) (hready : (engine s1 1).restart = none) :
    exec (.linScheduleSet r) s = .next (ends s specLinScheduleSet r p s1 {
      payload := linScheduleBytes (u p 0 1) (u p 1 1) (u p 2 2) (linEntriesOf p), clamps := linScheduleClamps p
      st := s1.modLeg fun l => { l with cfg := { l.cfg with
        sched := l.cfg.sched.modify (u p 0 1 - 24) fun x => x.set (u p 1 1) (linEntriesOf p) } } }) := by
  have hplain : ∀ i, i < u p 2 2 → u p (8 + 8 * i + 1) 1 ≠ 2 := fun i hi htype => by
    obtain ⟨_, hplainType⟩ := hentries i hi
    omega
  have hbad : ((List.range (u p 2 2)).find? fun i =>
      u p (8 + 8 * i) 1 > 63 || u p (8 + 8 * i + 1) 1 > 5 || (u p (8 + 8 * i + 1) 1 = 2 && u p (8 + 8 * i + 5) 1 > 7)) = none := by
    simp only [List.find?_eq_none, List.mem_range, Bool.or_eq_true, Bool.and_eq_true, decide_eq_true_eq]
    intro i hi
    obtain ⟨hid, hplainType⟩ := hentries i hi
    omega
  have hcoll : ((List.range (u p 2 2)).find? fun i => u p (8 + 8 * i + 1) 1 = 2 &&
      (u p (8 + 8 * i + 5) 1 = u p 1 1 || (linTable s1 (u p 0 1) (u p (8 + 8 * i + 5) 1)).isEmpty)) = none := by
    simp only [List.find?_eq_none, List.mem_range, Bool.and_eq_true, decide_eq_true_eq]
    exact fun i hi htype => hplain i hi htype.1
  have hread : ((List.range (u p 2 2)).map fun i => ({
      id := u p (8 + 8 * i) 1, type := u p (8 + 8 * i + 1) 1, len := clampTo 1 8 (u p (8 + 8 * i + 2) 1), flags := u p (8 + 8 * i + 3) 1 % 2
      slot := clampTo 1 255 (u p (8 + 8 * i + 4) 1), coll := if u p (8 + 8 * i + 1) 1 = 2 then u p (8 + 8 * i + 5) 1 else 0 } : LinEntry)) =
      linEntriesOf p :=
    List.map_congr_left fun i hi => by rw [if_neg (hplain i (List.mem_range.1 hi))]; rfl
  refine command_completes hruns ?_ rfl
  unfold specLinScheduleSet
  simp only [hbad, hcoll, hread]
  rw [checked_pass (by simpa [chkSup, chkConf, hchan, htable, hcount] using hactive), ifEngine_pass hready]
  rfl

/-! ### Discrete signals (R427, R428, R442) -/

/-- DIO_SET of an input leaves its settings. -/
theorem exec_dioSet_of_input (hruns : Runs s specDioSet r p s1) (hinput : isGpi (u p 0 1) = true) (hfirst : 32 ≤ u p 0 1) (hlast : u p 0 1 ≤ 55)
    (hready : (engine s1 3).restart = none) :
    exec (.dioSet r) s = .next (ends s specDioSet r p s1 {
      payload := le 1 (u p 0 1) ++ le 1 (u p 1 1 % 8) ++ le 1 0 ++ zeros 1 ++ le 4 (clampTo 0 100000 (u p 4 4))
      clamps := (clampField 4 0 100000 (u p 4 4)).off
      st := s1.modLeg fun l => { l with cfg := { l.cfg with dio := l.cfg.dio.set (u p 0 1 - 32) {
        flags := u p 1 1 % 8, safe := 0, time := clampTo 0 100000 (u p 4 4) } } } }) := by
  refine command_completes hruns ?_ rfl
  unfold specDioSet
  simp only [hinput, if_true]
  rw [checked_pass (by simp [chkSup, hfirst, hlast]), ifEngine_pass hready]
  rfl

/-- DIO_SET of an output leaves its settings. -/
theorem exec_dioSet_of_output (hruns : Runs s specDioSet r p s1) (houtput : isGpi (u p 0 1) = false) (hfirst : 32 ≤ u p 0 1)
    (hlast : u p 0 1 ≤ 55) (hsafe : u p 2 1 ≤ 1) (hready : (engine s1 3).restart = none) :
    exec (.dioSet r) s = .next (ends s specDioSet r p s1 {
      payload := le 1 (u p 0 1) ++ le 1 (u p 1 1 % 2) ++ le 1 (u p 2 1) ++ zeros 1 ++ le 4 (clampTo 1 1000 (u p 4 4))
      clamps := (clampField 4 1 1000 (u p 4 4)).off
      st := s1.modLeg fun l => { l with cfg := { l.cfg with dio := l.cfg.dio.set (u p 0 1 - 32) {
        flags := u p 1 1 % 2, safe := u p 2 1, time := clampTo 1 1000 (u p 4 4) } } } }) := by
  refine command_completes hruns ?_ rfl
  unfold specDioSet
  simp only [houtput, Bool.false_eq_true, if_false]
  rw [checked_pass (by simp [chkSup, hfirst, hlast, hsafe]), ifEngine_pass hready]
  rfl

end

/-- Settles O15: each command completes with what its body answers, and the entry leaves what its own lemma says. -/
theorem channelCommandsComplete : Obligations.channelCommandsComplete := by
  unfold Obligations.channelCommandsComplete
  intro r s s1 t p cl
  exact ⟨fun hruns hchan => ⟨_, exec_channelStatusGet hruns hchan, List.take_left' (chanStatusHead_length s1 _)⟩,
    fun _ => exec_canSet,
    fun hruns hchan henable hrate hready => ⟨_, _, canWakeOf p, rfl, rfl, rfl, rfl, rfl, rfl, rfl,
      exec_canWakeSet hruns hchan henable hrate hready⟩,
    exec_canRecover,
    fun hruns hchan hmode haddr hadmin hline hready hengine => ⟨_, _, mvbCfgOf p, _, rfl, rfl,
      exec_mvbSet_of_not_admin hruns hchan hmode haddr hadmin hline hready hengine⟩,
    exec_mvbPortSet,
    fun hruns hchan hnone hone hadmin hown hready hslave => ⟨_, _, mvbAdminOf p, rfl, rfl, rfl, rfl,
      exec_mvbAdminSet_of_no_polls hruns hchan hnone hone hadmin hown hready hslave⟩,
    fun hruns hchan hmode hphy hparity hfree hready hidle => ⟨_, _, serialCfgOf p, rfl, rfl, rfl, rfl, rfl, rfl, rfl, rfl, rfl, silenceField_val p,
      exec_serialSet_of_idle hruns hchan hmode hphy hparity hfree hready hidle⟩,
    fun hruns hchan hsleep htable hentries hready hengine => ⟨_, _, linCfgOf p, _, by rw [linCfgOf, hsleep], rfl,
      exec_linSet_of_sleep hruns hchan hsleep htable hentries hready hengine⟩,
    fun hruns hchan htable hcount hactive hentries hready => ⟨_, _, linEntriesOf p, by simp [linEntriesOf],
      fun i hi => ⟨linEntryOf p i, linEntriesOf_getElem? hi, rfl, rfl, rfl, rfl, rfl⟩,
      exec_linScheduleSet hruns hchan htable hcount hactive hentries hready⟩,
    fun hruns hinput hfirst hlast hready => ⟨_, _, exec_dioSet_of_input hruns hinput hfirst hlast hready⟩,
    fun hruns houtput hfirst hlast hsafe hready => ⟨_, _, exec_dioSet_of_output hruns houtput hfirst hlast hsafe hready⟩,
    exec_channelCountersGet,
    fun off _ => entryMvbPort_of_remove off⟩

end Sys2Proof.Machine
end

section
/-! PROOFS. The rows of wake, sleep and start (R413, R497 to R503, R510, R514, R515, R522). -/

namespace Sys2Proof.Machine

/-- The passage of the clock leaves the power controller alone. -/
theorem State.later_power (s : State) (n : Nat) : (s.later n).power = s.power := by
  unfold State.later
  split <;> rfl

section
variable {s : State}

/-! ### Wake sources (R499, R500) -/

theorem wakeEnabled_of_bit {code : Nat} (henable : bit s.power.wake.enable code = true) : wakeEnabled s code = true := by
  unfold wakeEnabled
  rw [henable, Bool.or_true]

section
variable {code : Nat} (hon : s.power.on = true) (henable : bit s.power.wake.enable code = true)
include hon henable

/-- A source that is enabled finds the module on. -/
theorem wakeSource_acts : ¬ ((!s.power.on) = true ∨ (!wakeEnabled s code) = true) := by
  simp [hon, wakeEnabled_of_bit henable]

/-- In Dark the wake pins alone wake the module. -/
theorem wakeUp_of_dark (hpin : code ≤ 1) (hdark : s.power.state = 3) (index others : Nat) (x : ExitInput) :
    wakeUp s code index others x = darkWake s code index others x := by
  unfold wakeUp
  rw [if_neg (wakeSource_acts hon henable), hdark]
  exact if_pos hpin

/-- In Night every source wakes the module. -/
theorem wakeUp_of_night (hnight : s.power.state = 2) (index others : Nat) (x : ExitInput) :
    wakeUp s code index others x = nightWake s code index others x := by
  unfold wakeUp
  rw [if_neg (wakeSource_acts hon henable), hnight]
  rfl

/-- In Dusk a source begins the exit under `FROM_DUSK`, where nothing is in transition. -/
theorem wakeUp_of_dusk (hdusk : s.power.state = 1) (hfromDusk : bit s.power.wake.flags 2 = true) (hfirst : s.power.duskExit = false)
    (hsteady : s.power.trans = none) (index others : Nat) (x : ExitInput) :
    wakeUp s code index others x = beginDuskExit s code index others x := by
  unfold wakeUp
  rw [if_neg (wakeSource_acts hon henable), hdusk]
  exact (if_neg (by simp [hsteady])).trans (if_pos ⟨rfl, hfromDusk, by simp [hfirst], by simp [hsteady]⟩)

end

theorem exec_wakePin {pin : Nat} (hpin : pin ≤ 1) (others : Nat) (x : ExitInput) :
    exec (.wakePin pin others x) s = .next (wakeUp s pin 0xFF others x) :=
  if_neg (Nat.not_lt.2 hpin)

/-- The alarm that an entry to Night has armed fires `ALARM_S` after it. -/
theorem exec_rtcAlarm_of_night (hon : s.power.on = true) (hnight : s.power.state = 2) (harmed : s.power.alarmArmed = true)
    (henable : bit s.power.wake.enable 5 = true) (others : Nat) (x : ExitInput) :
    exec (.rtcAlarm others x) s =
      .next (nightWake (s.later (s.power.sleptFrom + secCounts s.power.wake.alarmS - s.time.aon)) 5 0xFF others x) := by
  change execRtcAlarm others x s = _
  unfold execRtcAlarm
  dsimp only
  rw [if_neg (by simp [hon, hnight, harmed, wakeEnabled_of_bit henable]), wakeUp_of_night (by rwa [State.later_power])
    (by rwa [State.later_power]) (by rwa [State.later_power])]

section
variable {port : Nat} (hport : port ≤ 32) (hon : s.power.on = true) (hsleeping : (portRun s port).oper = 4)
include hport hon hsleeping

/-- A sleeping port of a module that is on takes the wake pulse of its partner. -/
theorem tc10WakePulse_acts : ¬ (port > 32 ∨ (!s.power.on) = true ∨ (portRun s port).oper ≠ 4) := by
  rintro (hbeyond | hoff | hlive)
  · omega
  · rw [hon] at hoff
    cases hoff
  · exact hlive hsleeping

theorem exec_tc10WakePulse_of_powered (hpowered : portPowered s port = true) (others : Nat) (x : ExitInput) :
    exec (.tc10WakePulse port others x) s = .next (tc10Wake s port) := by
  change execTc10WakePulse port others x s = _
  unfold execTc10WakePulse
  rw [if_neg (tc10WakePulse_acts hport hon hsleeping), if_pos hpowered]

theorem exec_tc10WakePulse_of_unpowered (hdark : portPowered s port = false) (hmember : bit s.power.wake.tc10Ports port = true) (others : Nat)
    (x : ExitInput) : exec (.tc10WakePulse port others x) s = .next (wakeUp s 2 port others x) := by
  change execTc10WakePulse port others x s = _
  unfold execTc10WakePulse
  rw [if_neg (tc10WakePulse_acts hport hon hsleeping), if_neg (Bool.eq_false_iff.1 hdark), if_pos hmember]

end

theorem exec_canWakeFrame_of_night {c n id dlc : Nat} {pat xtd : Bool} {d : List Byte} (hchan : c ≤ 1) (hnight : s.power.state = 2)
    (hwakes : canWakes (at' s.leg.cfg.wake c {}) pat n xtd id dlc d = true) (others : Nat) (x : ExitInput) :
    exec (.canWakeFrame c pat n xtd id dlc d others x) s = .next (wakeUp s (3 + c) c others x) := by
  change execCanWakeFrame c pat n xtd id dlc d others x s = _
  unfold execCanWakeFrame
  rw [hwakes]
  exact if_neg (by simp [hnight, hchan])

/-! ### Timers of the power controller (R102, R497, R498, R501, R502, R522) -/

theorem exec_duskExitRetry_of_denied (hon : s.power.on = true) (hdusk : s.power.state = 1) (hdenied : s.power.duskExit = true) (x : ExitInput) :
    exec (.duskExitRetry x) s = .next (duskExit (s.later (msCounts 100)) x) :=
  if_neg (by simp [hon, hdusk, hdenied])

/-- Where no request of the key island waits, none holds an entry. -/
theorem entryHeld_of_free (hfree : ∀ w, w ∈ s.mb.waiting → w.kind ≠ .island) (target : Nat) : entryHeld s target = false := by
  simpa [entryHeld] using fun _ => hfree

theorem not_awake_eq_true (hawake : awake s = true) : ¬ (!awake s) = true := by simp [hawake]

theorem exec_delayMsExpiry_of_reset {d : Nat × Nat} (hawake : awake s = true) (hreset : s.power.resetDue = some d) (x : ExitInput) :
    exec (.delayMsExpiry x) s = .next (warmReset (s.later (d.1 - s.time.aon)) x.boots) := by
  change execDelayMsExpiry x s = _
  unfold execDelayMsExpiry
  rw [if_neg (not_awake_eq_true hawake), hreset]

/-- A commanded state is entered once its delay runs out. -/
theorem exec_delayMsExpiry_of_state {t : Transition} (hawake : awake s = true) (hnoReset : s.power.resetDue = none) (htrans : s.power.trans = some t)
    (hfree : ∀ w, w ∈ s.mb.waiting → w.kind ≠ .island) (x : ExitInput) :
    exec (.delayMsExpiry x) s = .next (commandedState (s.later (t.due - s.time.aon)) t.target x) := by
  change execDelayMsExpiry x s = _
  unfold execDelayMsExpiry
  rw [if_neg (not_awake_eq_true hawake), hnoReset, htrans]
  dsimp only
  rw [entryHeld_of_free hfree]
  exact if_neg (by decide)

/-- The module goes to sleep of itself, unless an activation or a fallback of the update path is at work. -/
theorem exec_autoSleepTimer_of_enabled (hawake : awake s = true) (hsteady : s.power.trans = none) (hactivation : s.upd.stage ≠ 4)
    (hfallback : s.upd.stage ≠ 7) (hfree : ∀ w, w ∈ s.mb.waiting → w.kind ≠ .island) (henabled : s.power.wake.autoSleep ≠ 0) :
    exec .autoSleepTimer s = .next (if s.power.wake.autoSleep = 1 then enterNight s 1 else enterDark s 1) := by
  change execAutoSleepTimer s = _
  unfold execAutoSleepTimer
  exact if_neg (by simp [hawake, hsteady, hactivation, hfallback, entryHeld_of_free hfree, henabled])

theorem exec_darkAfterTimer_of_night (hon : s.power.on = true) (hnight : s.power.state = 2) (henabled : s.power.wake.darkAfterH ≠ 0) :
    exec .darkAfterTimer s =
      .next (enterDark (s.later (s.power.sleptFrom + secCounts (3600 * s.power.wake.darkAfterH) - s.time.aon)) 2) :=
  if_neg (by simp [hon, hnight, henabled])

/-! ### Starts and resets (R510, R514, R515) -/

theorem exec_coldPowerOn_of_off (hoff : s.power.on = false) (b : List BootInput) :
    exec (.coldPowerOn b) s = .next (startModule (s.modHost fun h => { h with resetCause := 0 }) true true 0 [0] b) :=
  if_neg (Bool.eq_false_iff.1 hoff)

/-- RESET_N resets a module in Day, Dusk and Night; the clocks are carried over a Night. -/
theorem exec_resetN_of_on (hon : s.power.on = true) (hnotDark : s.power.state ≤ 2) (b : List BootInput) :
    exec (.resetN b) s =
      .next (startModule (dropYoung (if s.power.state = 2 then carryNight s else s)) false false 3 [3] b) := by
  change execResetN b s = _
  unfold execResetN
  rw [if_neg (by simp [hon]), if_neg (by omega)]

end

/-- Settles O21: each row as its own lemma says; what a wake source does depends on the power state alone. -/
theorem wakeRowsComplete : Obligations.wakeRowsComplete := by
  unfold Obligations.wakeRowsComplete
  intro k x b s
  refine ⟨fun pin hpin hon henable hdark => ?pinDark, fun pin hpin hon henable hnight => ?pinNight,
    fun pin hpin hon henable hdusk hfromDusk hfirst hsteady => ?pinDusk,
    fun hon hnight harmed henable => ⟨_, rfl, exec_rtcAlarm_of_night hon hnight harmed henable k x⟩,
    fun p hport hon hsleeping hpowered => exec_tc10WakePulse_of_powered hport hon hsleeping hpowered k x,
    fun p hport hon hsleeping hdark hmember henable hnight => ?tc10,
    fun c pat n xtd id dlc d hchan hon hnight henable hwakes => ?canFrame,
    fun hon hdusk hdenied => exec_duskExitRetry_of_denied hon hdusk hdenied x,
    fun d hawake hreset => exec_delayMsExpiry_of_reset hawake hreset x,
    fun t hawake hnoReset htrans hfree => ⟨_, rfl, fun htarget => ?toDusk, fun htarget => ?toNight, fun htarget => ?toDark⟩,
    fun hawake hsteady hactivation hfallback hfree => ⟨fun hnight => ?sleepNight, fun hdark => ?sleepDark⟩,
    exec_darkAfterTimer_of_night,
    fun hoff => exec_coldPowerOn_of_off hoff b,
    fun hon hup => ?resetUp, fun hon hnight => ?resetNight⟩
  case pinDark => rw [exec_wakePin hpin, wakeUp_of_dark hon henable hpin hdark]
  case pinNight => rw [exec_wakePin hpin, wakeUp_of_night hon henable hnight]
  case pinDusk => rw [exec_wakePin hpin, wakeUp_of_dusk hon henable hdusk hfromDusk hfirst hsteady]
  case tc10 => rw [exec_tc10WakePulse_of_unpowered hport hon hsleeping hdark hmember, wakeUp_of_night hon henable hnight]
  case canFrame => rw [exec_canWakeFrame_of_night hchan hnight hwakes, wakeUp_of_night hon henable hnight]
  case toDusk => rw [exec_delayMsExpiry_of_state hawake hnoReset htrans hfree, htarget]; rfl
  case toNight => rw [exec_delayMsExpiry_of_state hawake hnoReset htrans hfree, htarget]; rfl
  case toDark => rw [exec_delayMsExpiry_of_state hawake hnoReset htrans hfree, htarget]; rfl
  case sleepNight => rw [exec_autoSleepTimer_of_enabled hawake hsteady hactivation hfallback hfree (by omega), if_pos hnight]
  case sleepDark => rw [exec_autoSleepTimer_of_enabled hawake hsteady hactivation hfallback hfree (by omega), if_neg (by omega)]
  case resetUp => rw [exec_resetN_of_on hon (by omega), if_neg (by omega)]
  case resetNight => rw [exec_resetN_of_on hon (by omega), if_pos hnight]

end Sys2Proof.Machine
end

section
/-! PROOFS. The rows of the legacy channels: CAN and J1939, MVB, serial ports, LIN, discrete signals (R405 to R428). -/

namespace Sys2Proof.Machine

/-- A row of a legacy channel stamps the states that its effect changes (R432). -/
theorem legRow_of {s t : State} {f : State → State} (heffect : f s = t) : legRow s f = .next (stampChans s t) := by
  rw [legRow, heffect]

section
variable {s : State} {c : Nat}

/-! ### CAN and J1939 (R405 to R415) -/

section
variable (hchan : c ≤ 7)
include hchan

/-- A CAN XL frame of a length it allows is received on a channel that runs that protocol. -/
theorem exec_canFrameRx_of_xl {d : List Byte} (hon : canOn s c = true) (hmode : (canCfg s c).mode = 1) (hproto : (canCfg s c).proto = 2)
    (hshort : 9 ≤ d.length) (hlong : d.length ≤ 2048) (fl id : Nat) :
    exec (.canFrameRx c 1 fl id d) s =
      .next (stampChans s (canReceive s c { kind := 1, chan := c, flags := fl % 64, ident := id % 2 ^ 29, data := d })) := by
  change execCanFrameRx c 1 fl id d s = _
  unfold execCanFrameRx
  dsimp only
  rw [if_neg (by simp [hchan, hon, hmode]), if_pos rfl, if_neg (by simp [hproto]), if_neg (Nat.not_lt.2 hlong), if_neg (Nat.not_lt.2 hshort)]
  rfl

section
variable {tx : TxMsg} (hon : canOn s c = true) (hmode : (canCfg s c).mode = 1) (hfirst : canFirst (chanOf s c).txq = some tx)
include hon hmode hfirst

/-- A message that loses arbitration stays in the queue. -/
theorem exec_canTxComplete_of_lost : exec (.canTxComplete c true) s = .next (stampChans s (chanCount s c 2 1)) := by
  change execCanTxComplete c true s = _
  unfold execCanTxComplete
  rw [if_neg (by simp [hchan, hon, hmode]), hfirst]
  exact legRow_of (if_pos rfl)

/-- A message sent leaves the queue; outside loopback its own channel does not receive it. -/
theorem exec_canTxComplete_of_sent :
    exec (.canTxComplete c false) s = .next (stampChans s (setErrors (chanTx (modChan s c fun x => { x with txq := x.txq.erase tx }) c) c
      ((canRun s c).tec - 1) (canRun s c).rec_)) := by
  have hnoLoop : ¬ (canCfg s c).mode = 3 := by omega
  change execCanTxComplete c false s = _
  unfold execCanTxComplete
  rw [if_neg (by simp [hchan, hon, hmode]), hfirst]
  exact legRow_of ((if_neg Bool.false_ne_true).trans (if_neg hnoLoop))

end

theorem exec_canErrorDetected_of_on (hon : canOn s c = true) (hmode : (canCfg s c).mode ≠ 0) (send : Bool) (t r : Nat) :
    exec (.canErrorDetected c send t r) s =
      .next (stampChans s (setErrors (chanCount s c (b2n send) 1) c (min t 511) (min r 255))) := by
  change execCanErrorDetected c send t r s = _
  unfold execCanErrorDetected
  exact if_neg (by simp [hchan, hon, hmode])

/-- A channel that recovers of itself begins to do so `RECOVER_MS` after it went bus-off. -/
theorem exec_canRecoverWaitExpiry_of_busOff (hengine : engineRuns s c = true) (hoff : (canRun s c).state = 3)
    (hauto : bit (canCfg s c).flags 0 = true) :
    exec (.canRecoverWaitExpiry c) s =
      .next (stampChans s (modCan (s.until ((canRun s c).offAt + (canCfg s c).recoverMs * 1000000)) c fun x => { x with state := 4 })) := by
  change execCanRecoverWaitExpiry c s = _
  unfold execCanRecoverWaitExpiry
  exact if_neg (by simp [hchan, hengine, hoff, hauto])

theorem exec_canRecoveryDone_of_recovering (hengine : engineRuns s c = true) (hrecovering : (canRun s c).state = 4) :
    exec (.canRecoveryDone c) s =
      .next (stampChans s (raiseCan (modCan s c fun x => { x with state := 1, tec := 0, rec_ := 0 }) c 3)) :=
  if_neg (by simp [hchan, hengine, hrecovering])

theorem exec_j1939TpPacket_of_sent (hon : canOn s c = true) (hj1939 : bit (canCfg s c).flags 1 = true) (id : Nat) (d : List Byte) (peer : Nat) :
    exec (.j1939TpPacket c false id d peer) s = .next (stampChans s (tpSend s c peer)) := by
  change execJ1939TpPacket c false id d peer s = _
  unfold execJ1939TpPacket
  exact if_neg (by simp [hchan, hon, hj1939])

/-- A timeout ends the session it is of. -/
theorem exec_j1939Timeout_of_session {peer w : Nat} {sender bam : Bool} {x : TpSession} (hwhich : w ≤ 3)
    (hsession : (canRun s c).tp.find? (fun x => x.sender == sender && x.bam == bam && x.peer == peer) = some x) :
    exec (.j1939Timeout c peer w sender bam) s = .next (stampChans s (tpAbort (tpDrop s c x) c x (0xF0 + w))) := by
  change execJ1939Timeout c peer w sender bam s = _
  unfold execJ1939Timeout
  rw [if_neg (Nat.not_lt.2 hwhich), hsession]
  exact if_neg (Nat.not_lt.2 hchan)

end

/-! ### MVB (R416 to R420) -/

section
variable (hchan : isMvb c = true) (hengine : engineRuns s c = true)
include hchan hengine

/-- A data frame that is valid on both lines is good whichever line is selected. -/
theorem exec_mvbFrameRx_of_data (hon : (mvbRun s c).on = true) (port : Nat) (d : List Byte) :
    exec (.mvbFrameRx c (.data port d) true true) s =
      .next (stampChans s (mvbData (lineAfter (lineAfter s c 0 true true) c 1 true true) c port d)) := by
  change execMvbFrameRx c (.data port d) true true s = _
  unfold execMvbFrameRx
  rw [if_neg (by simp [hchan, hengine, hon])]
  refine legRow_of ?_
  simp only [ite_self, Bool.not_true, Bool.false_eq_true, if_false]

/-- A supervised sink goes stale once it has had no frame for its sink time. -/
theorem exec_mvbSinkTimeExpiry_of_supervised {port : Nat} {x : MvbPort} (hon : (mvbRun s c).on = true) (hport : mvbPort s c port = some x)
    (hsink : x.sink = true) (hsupervised : x.supervise = true) (hfresh : (mvbPortRun s c port).stale = false)
    (hwatched : (mvbPortRun s c port).watched = true) :
    exec (.mvbSinkTimeExpiry c port) s = .next (stampChans s (raiseSink (modMvbPort
      (chanCount (s.until ((mvbPortRun s c port).since + x.sinkMs * 1000000)) c 2 1) c port fun x => { x with stale := true }) c port false 0)) := by
  change execMvbSinkTimeExpiry c port s = _
  unfold execMvbSinkTimeExpiry
  rw [hport]
  exact if_neg (by simp [hchan, hengine, hon, hsink, hsupervised, hfresh, hwatched])

/-- A master starts its next basic period. -/
theorem exec_mvbBasicPeriod_of_master (hon : (mvbRun s c).on = true) (hmaster : (mvbRun s c).master = true) :
    ∃ t, exec (.mvbBasicPeriod c) s = .next (stampChans s t) := by
  change ∃ t, execMvbBasicPeriod c s = .next (stampChans s t)
  unfold execMvbBasicPeriod
  rw [if_neg (by simp [hchan, hengine, hon, hmaster])]
  exact ⟨_, legRow_of rfl⟩

/-- A master offers mastership once its turn is over. -/
theorem exec_mvbMastershipOffer_of_turn (hmaster : (mvbRun s c).master = true) (hnone : (mvbRun s c).offered = none)
    (hturn : (mvbRun s c).admin.turns * 1024 ≤ (mvbRun s c).basic) :
    exec (.mvbMastershipOffer c) s = .next (stampChans s (offerNext s c (mvbCfg s c).addr)) := by
  change execMvbMastershipOffer c s = _
  unfold execMvbMastershipOffer
  exact if_neg (by simp [hchan, hengine, hmaster, hnone, hturn])

/-- An administrator that does not accept is skipped. -/
theorem exec_mvbMastershipTimeout_of_offered {a : Nat} (hoffered : (mvbRun s c).offered = some a) :
    exec (.mvbMastershipTimeout c) s = .next (stampChans s (offerNext s c a)) := by
  change execMvbMastershipTimeout c s = _
  unfold execMvbMastershipTimeout
  rw [hoffered]
  exact if_neg (by simp [hchan, hengine])

/-- An administrator that is not master takes mastership of a silent bus. -/
theorem exec_mvbSilentBus_of_admin (hon : (mvbRun s c).on = true) (hslave : (mvbRun s c).master = false)
    (hadmin : bit (mvbCfg s c).flags 1 = true) :
    exec (.mvbSilentBus c) s = .next (stampChans s (takeMaster s c 4 (mvbRun s c).masterAddr)) :=
  if_neg (by simp [hchan, hengine, hon, hslave, hadmin])

end

/-! ### Serial ports (R421 to R423) -/

section
variable (hchan : isSerial c = true) (hengine : engineRuns s c = true)
include hchan hengine

/-- A message with a framing, parity or check error is counted under its error and reported. -/
theorem exec_serialMessageRx_of_error {e : Nat} {d : List Byte} (hmode : (serCfg s c).mode ≠ 0) (hlong : d.length ≤ 2048) (he : e ≤ 2) :
    exec (.serialMessageRx c (some e) d) s = .next (stampChans s (raiseSampled (chanCount s c e 1) 0x66 2 noLevel (srcId 0xA c)
      fun n => le 1 c ++ le 1 e ++ le 2 d.length ++ le 4 n)) := by
  have hcode : min e 3 = e := by omega
  have hnoGap : ¬ e = 3 := by omega
  change execSerialMessageRx c (some e) d s = _
  unfold execSerialMessageRx
  dsimp only
  rw [if_neg (by simp [hchan, hengine, hmode])]
  refine legRow_of ((if_neg (Nat.not_lt.2 hlong)).trans ?_)
  simp only [hcode, if_neg hnoGap]

theorem exec_serialMessageRx_of_overlong {d : List Byte} (hmode : (serCfg s c).mode ≠ 0) (hlong : 2048 < d.length) (e : Option Nat) :
    exec (.serialMessageRx c e d) s = .next (stampChans s (chanCount s c 6 1)) := by
  change execSerialMessageRx c e d s = _
  unfold execSerialMessageRx
  dsimp only
  rw [if_neg (by simp [hchan, hengine, hmode])]
  exact legRow_of (if_pos hlong)

/-- A broadcast of Modbus expects no response, so its timeout only frees the line. -/
theorem exec_modbusResponseTimeout_of_broadcast {tx : TxMsg} (hcur : (serRun s c).cur = some tx) (hmodbus : (serCfg s c).mode = 3)
    (hbroadcast : tx.msg.ident = 0) :
    exec (.modbusResponseTimeout c) s = .next (stampChans s (serialPump 256
      (modSer (s.until ((serRun s c).sentAt + (serCfg s c).respMs * 1000000)) c fun r => { r with cur := none }) c)) := by
  change execModbusResponseTimeout c s = _
  unfold execModbusResponseTimeout
  rw [hcur]
  dsimp only
  rw [if_neg (by simp [hchan, hengine])]
  exact legRow_of (if_pos ⟨hmodbus, hbroadcast⟩)

/-- A line in raw or HDLC-style mode breaks after `SILENCE_MS` without a character. -/
theorem exec_serialSilenceTimeout_of_whole (hmode : (serCfg s c).mode = 1 ∨ (serCfg s c).mode = 2) (hsilence : (serCfg s c).silenceMs ≠ 0)
    (hwhole : (serRun s c).brk = none) :
    exec (.serialSilenceTimeout c) s =
      .next (stampChans s (lineBreak (s.until ((serRun s c).lastRx + (serCfg s c).silenceMs * 1000000)) c 0)) := by
  have hwatched : ¬ ((serCfg s c).mode ≠ 1 ∧ (serCfg s c).mode ≠ 2) := by omega
  change execSerialSilenceTimeout c s = _
  unfold execSerialSilenceTimeout
  dsimp only
  exact if_neg (by simpa [hchan, hengine, hsilence, hwhole] using hwatched)

theorem exec_serialCurrentLimit_of_on (hmode : (serCfg s c).mode ≠ 0) :
    exec (.serialCurrentLimit c) s = .next (stampChans s (lineBreak (modSer s c fun r => { r with limit := true }) c 1)) :=
  if_neg (by simp [hchan, hengine, hmode])

/-- The end of a current limit mends a line that it broke. -/
theorem exec_serialCurrentClear_of_limit (hlimit : (serRun s c).limit = true) :
    exec (.serialCurrentClear c) s = .next (stampChans s
      (if (serRun (modSer s c fun r => { r with limit := false }) c).brk = some 1 then lineMend (modSer s c fun r => { r with limit := false }) c
        else modSer s c fun r => { r with limit := false })) :=
  if_neg (by simp [hchan, hengine, hlimit])

end

/-! ### LIN (R424 to R426) -/

section
variable (hchan : isLin c = true) (hengine : engineRuns s c = true)
include hchan hengine

/-- The next slot of a schedule that runs starts, unless the gateway's outputs are kept. -/
theorem exec_linSlotTimer_of_running (hrunning : (linRun s c).state = 1) (hissued : muted s = false) (a : LinResp) :
    ∃ t, exec (.linSlotTimer c a) s = .next (stampChans s t) := by
  change ∃ t, execLinSlotTimer c a s = .next (stampChans s t)
  unfold execLinSlotTimer
  rw [if_neg (by simp [hchan, hengine, hrunning, hissued])]
  exact ⟨_, legRow_of rfl⟩

theorem exec_linWakeupRx_of_asleep (hasleep : (linRun s c).state = 2) :
    exec (.linWakeupRx c) s = .next (stampChans s (linWake (chanCount s c 4 1) c)) :=
  if_neg (by simp [hchan, hengine, hasleep])

/-- A channel that was woken runs its schedule again. -/
theorem exec_linResumeTimer_of_woken {t : Nat} (hresume : (linRun s c).resume = some t) :
    exec (.linResumeTimer c) s = .next (stampChans s (modLin (s.until t) c
      fun r => { r with state := 1, resume := none, slotAt := (s.until t).now })) := by
  change execLinResumeTimer c s = _
  unfold execLinResumeTimer
  rw [hresume]
  exact if_neg (by simp [hchan, hengine])

end

/-! ### Discrete signals (R427, R428) -/

/-- What GPI_DEBOUNCE_EXPIRY does at an input whose engine runs. -/
theorem exec_gpiDebounceExpiry_of_running {t : State} {v : Nat} {overrun : Bool} (hchan : isGpi c = true) (hengine : engineRuns s c = true)
    (heffect : (if overrun then raiseSampled (chanCount s c 0 1) 0x69 2 noLevel (srcId 0xA c)
        fun n => le 1 c ++ le 1 (dioRun s c).level ++ zeros 2 ++ le 4 n
      else if (dioRun s c).level = v % 2 then s else gpiReport s c (v % 2)) = t) :
    exec (.gpiDebounceExpiry c v overrun) s = .next (stampChans s t) := by
  change execGpiDebounceExpiry c v overrun s = _
  unfold execGpiDebounceExpiry
  rw [if_neg (by simp [hchan, hengine])]
  exact legRow_of heffect

section
variable (hfirst : 48 ≤ c) (hlast : c ≤ 55) (hengine : engineRuns s c = true)
include hfirst hlast hengine

/-- An output whose driver is off takes the read-back and compares nothing. -/
theorem exec_gpoReadbackExpiry_of_undriven (hundriven : (dioRun s c).driven = false) (v : Nat) :
    exec (.gpoReadbackExpiry c v) s = .next (stampChans s (modDio s c fun x => { x with read := v % 2 })) := by
  change execGpoReadbackExpiry c v s = _
  unfold execGpoReadbackExpiry
  rw [if_neg (by simp [hfirst, hlast, hengine])]
  refine legRow_of ?_
  dsimp only
  rw [if_pos (by simp [hundriven])]

/-- A read-back that differs from the driven level is a fault of the output. -/
theorem exec_gpoReadbackExpiry_of_mismatch {v : Nat} (hdriven : (dioRun s c).driven = true) (hgood : (dioRun s c).fault = false)
    (hdiffers : v % 2 ≠ gpoLevel s c) :
    exec (.gpoReadbackExpiry c v) s = .next (stampChans s (sideBand (raise (modDio (chanCount
      (modDio s c fun x => { x with read := v % 2 }) c 0 1) c fun x => { x with fault := true }) 0x6A 4 noLevel (srcId 0xA c)
      (le 1 c ++ le 1 0 ++ le 1 (gpoLevel s c) ++ le 1 (v % 2))) c 0x30 (be 2 (gpoLevel s c) ++ be 2 (v % 2)))) := by
  change execGpoReadbackExpiry c v s = _
  unfold execGpoReadbackExpiry
  rw [if_neg (by simp [hfirst, hlast, hengine])]
  refine legRow_of ?_
  dsimp only
  rw [if_neg (by simp [hdriven]), if_pos ⟨hdiffers, by simp [hgood]⟩]

end

end

/-- Settles O16: each row as its own lemma says. -/
theorem busRowsComplete : Obligations.busRowsComplete := by
  unfold Obligations.busRowsComplete
  intro c s
  exact ⟨fun fl id _ hchan hon hmode hproto hshort hlong => exec_canFrameRx_of_xl hchan hon hmode hproto hshort hlong fl id,
    fun _ hchan hon hmode hfirst => ⟨exec_canTxComplete_of_lost hchan hon hmode hfirst, exec_canTxComplete_of_sent hchan hon hmode hfirst⟩,
    fun send t r hchan hon hmode => exec_canErrorDetected_of_on hchan hon hmode send t r,
    exec_canRecoverWaitExpiry_of_busOff,
    exec_canRecoveryDone_of_recovering,
    fun id d peer hchan hon hj1939 => exec_j1939TpPacket_of_sent hchan hon hj1939 id d peer,
    fun _ _ _ _ _ hchan hwhich hsession => exec_j1939Timeout_of_session hchan hwhich hsession,
    fun port d hchan hengine hon => exec_mvbFrameRx_of_data hchan hengine hon port d,
    fun _ _ hchan hengine hon hport hsink hsupervised hfresh hwatched =>
      exec_mvbSinkTimeExpiry_of_supervised hchan hengine hon hport hsink hsupervised hfresh hwatched,
    fun hchan hengine hon hmaster => (exec_mvbBasicPeriod_of_master hchan hengine hon hmaster).imp' (stampChans s) fun _ h => h,
    exec_mvbMastershipOffer_of_turn,
    fun _ hchan hengine hoffered => exec_mvbMastershipTimeout_of_offered hchan hengine hoffered,
    exec_mvbSilentBus_of_admin,
    fun _ _ hchan hengine hmode hlong he => exec_serialMessageRx_of_error hchan hengine hmode hlong he,
    fun _ e hchan hengine hmode hlong => exec_serialMessageRx_of_overlong hchan hengine hmode hlong e,
    fun _ hchan hengine hcur hmodbus hbroadcast => exec_modbusResponseTimeout_of_broadcast hchan hengine hcur hmodbus hbroadcast,
    exec_serialSilenceTimeout_of_whole,
    exec_serialCurrentLimit_of_on,
    fun hchan hengine hlimit => ⟨_, rfl, exec_serialCurrentClear_of_limit hchan hengine hlimit⟩,
    fun a hchan hengine hrunning hissued => (exec_linSlotTimer_of_running hchan hengine hrunning hissued a).imp' (stampChans s) fun _ h => h,
    exec_linWakeupRx_of_asleep,
    fun _ hchan hengine hresume => exec_linResumeTimer_of_woken hchan hengine hresume,
    fun _ hchan hengine hchanged => exec_gpiDebounceExpiry_of_running hchan hengine ((if_neg Bool.false_ne_true).trans (if_neg hchanged)),
    fun _ hchan hengine => exec_gpiDebounceExpiry_of_running hchan hengine (if_pos rfl),
    fun v hfirst hlast hengine hundriven => exec_gpoReadbackExpiry_of_undriven hfirst hlast hengine hundriven v,
    fun _ hfirst hlast hengine hdriven hgood hdiffers => exec_gpoReadbackExpiry_of_mismatch hfirst hlast hengine hdriven hgood hdiffers⟩

end Sys2Proof.Machine
end

section
/-! PROOFS. What the entries of the gateway lists leave in the shadow (R460 to R462, R483, R485). -/

namespace Sys2Proof.Machine

section
variable {e : List Byte} {s : State}

/-! ### Which of the three tables an entry is for (R483) -/

theorem entryGateway_route (off : Nat) (htable : u e 0 1 = 0) (hop : u e 1 1 ≤ 1) :
    entryGateway off e s = entryRoute off (u e 2 2) (u e 1 1 == 1) e s := by
  unfold entryGateway
  dsimp only
  rw [if_neg (Nat.not_lt.2 hop), htable]
  rfl

theorem entryGateway_target (off : Nat) (htable : u e 0 1 = 1) (hop : u e 1 1 ≤ 1) :
    entryGateway off e s = entryTarget off (u e 2 2) (u e 1 1 == 1) e s := by
  unfold entryGateway
  dsimp only
  rw [if_neg (Nat.not_lt.2 hop), htable]
  rfl

theorem entryGateway_field (off : Nat) (htable : u e 0 1 = 2) (hop : u e 1 1 ≤ 1) :
    entryGateway off e s = entryField off (u e 2 2) (u e 1 1 == 1) e s := by
  unfold entryGateway
  dsimp only
  rw [if_neg (Nat.not_lt.2 hop), htable]
  rfl

/-! ### Deletions (R460 to R462) -/

section
variable {i : Nat}

theorem entryRoute_of_delete (off : Nat) (hindex : i ≤ 16383) (hknown : thas s.ep.cur.gw.routes i = true) :
    entryRoute off i true e s = .ok ((modGwt s fun t => { t with routes := tdel t.routes i }).modGw fun g => { g with
      deleted := if g.deleted.contains (0 * 65536 + i) then g.deleted else (0 * 65536 + i) :: g.deleted }, []) := by
  unfold entryRoute
  dsimp only
  rw [entryOk_pass (by simp [chkSup, chkConf, hindex, hknown]), if_pos rfl]

theorem entryTarget_of_delete (off : Nat) (hindex : i ≤ 16383) (hknown : thas s.ep.cur.gw.targets i = true) :
    entryTarget off i true e s = .ok ((modGwt s fun t => { t with targets := tdel t.targets i }).modGw fun g => { g with
      targets := tdel g.targets i }, []) := by
  unfold entryTarget
  dsimp only
  rw [entryOk_pass (by simp [chkSup, chkConf, hindex, hknown]), if_pos rfl]

theorem entryField_of_delete (off : Nat) (hindex : i ≤ 32767) (hknown : thas s.ep.cur.gw.fields i = true) :
    entryField off i true e s = .ok ((modGwt s fun t => { t with fields := tdel t.fields i }).modGw fun g => { g with
      fields := tdel g.fields i }, []) := by
  unfold entryField
  dsimp only
  rw [entryOk_pass (by simp [chkSup, chkConf, hindex, hknown]), if_pos rfl]

/-! ### A copy field (R462) -/

/-- The field map that an entry of TYPE 0 gives. -/
def copyFieldOf (off : Nat) (e : List Byte) : FieldMap := {
  type := 0, srcFmt := u e 5 1 % 4, dstFmt := u e 6 1 % 4, policy := u e 7 1, srcOff := u e 8 2, dstOff := u e 10 2, srcW := u e 12 1
  dstW := u e 13 1, copyLen := u e 14 2, mul := toInt 32 (u e 16 4), shift := (clampField (off + 20) 0 31 (u e 20 1)).val
  clampEn := bit (u e 21 1) 0, add := toInt 32 (u e 24 4), min := toInt 32 (u e 28 4)
  max := max (toInt 32 (u e 28 4)) (toInt 32 (u e 32 4)), safe := toInt 32 (u e 36 4)
  ramp := (clampField (off + 40) 1 (2 ^ 31 - 1) (u e 40 4)).val, slew := (clampField (off + 44) 0 (2 ^ 31 - 1) (u e 44 4)).val }

/-- The offsets of the fields of a field map entry that are clamped. -/
def fieldClamps (off : Nat) (e : List Byte) : List Nat :=
  (clampField (off + 20) 0 31 (u e 20 1)).off ++
    (if max (toInt 32 (u e 28 4)) (toInt 32 (u e 32 4)) = toInt 32 (u e 32 4) then [] else [off + 32]) ++
    (clampField (off + 40) 1 (2 ^ 31 - 1) (u e 40 4)).off ++ (clampField (off + 44) 0 (2 ^ 31 - 1) (u e 44 4)).off

/-- A copy field that the shadow did not hold keeps its safe value first. -/
theorem entryField_of_new_copy (off : Nat) (hindex : i ≤ 32767) (hnew : thas s.ep.cur.gw.fields i = false) (htype : u e 4 1 = 0)
    (hpolicy : u e 7 1 ≤ 3) (hwhole : inSplit s = false) (hlen : 1 ≤ u e 14 2) (hlenMax : u e 14 2 ≤ 2048) :
    entryField off i false e s = .ok ((modGwt s fun t => { t with fields := tset t.fields i (copyFieldOf off e) }).modGw fun g => { g with
      fields := tset g.fields i (copyFieldOf off e).safe }, fieldClamps off e) := by
  unfold entryField
  dsimp only
  rw [entryOk_pass (by simp [chkSup, chkConf, hindex, htype, hpolicy, hwhole, hlenMax, Nat.one_le_iff_ne_zero.1 hlen]),
    if_neg Bool.false_ne_true, if_neg (Bool.eq_false_iff.1 hnew), htype]
  rfl

end

/-! ### An ACF bus (R485) -/

theorem entryAcf_of_set (off : Nat) (hindex : u e 0 1 ≤ 31) (hop : u e 1 1 = 0) (hdomain : u e 2 1 ≤ 7) (hvid : u e 4 2 ≤ 4094) :
    entryAcf off e s = .ok (s.modGw fun g => { g with cfg := { g.cfg with buses := tset g.cfg.buses (u e 0 1) {
      domain := u e 2 1, prio := clampTo 0 7 (u e 3 1), vid := u e 4 2, da := sub e 6 6, stream := sub e 12 8 } } },
      (clampField (off + 3) 0 7 (u e 3 1)).off) := by
  have hset : u e 1 1 ≠ 1 := by omega
  unfold entryAcf
  dsimp only
  rw [entryOk_pass (by simp [chkSup, chkConf, hindex, hop, hdomain, hvid]), if_neg hset]
  rfl

end

/-- Settles O18: the table and the operation of an entry choose its lemma. -/
theorem gatewayEntriesApply : Obligations.gatewayEntriesApply := by
  unfold Obligations.gatewayEntriesApply
  intro off e s
  refine ⟨fun htable hdel hindex hknown => ?route, fun htable hdel hindex hknown => ?target, fun htable hdel hindex hknown => ?field,
    fun htable hset hindex hnew htype hpolicy hwhole hlen hlenMax =>
      ⟨copyFieldOf off e, fieldClamps off e, rfl, rfl, rfl, rfl, rfl, rfl, ?copy⟩,
    entryAcf_of_set off⟩
  case route => rw [entryGateway_route off htable hdel.le, hdel]; exact entryRoute_of_delete off hindex hknown
  case target => rw [entryGateway_target off htable hdel.le, hdel]; exact entryTarget_of_delete off hindex hknown
  case field => rw [entryGateway_field off htable hdel.le, hdel]; exact entryField_of_delete off hindex hknown
  case copy =>
    rw [entryGateway_field off htable (by omega), hset]
    exact entryField_of_new_copy off hindex hnew htype hpolicy hwhole hlen hlenMax

end Sys2Proof.Machine
end

section
/-! PROOFS. The commands of group 0x09 (R482 to R492). -/

namespace Sys2Proof.Machine

theorem clampField_of_mem {off lo hi x : Nat} (hlo : lo ≤ x) (hhi : x ≤ hi) : clampField off lo hi x = { val := x, off := [] } := by
  unfold clampField
  rw [clampTo_of_mem hlo hhi, if_pos ⟨hlo, hhi⟩]

section
variable {s s1 t : State} {r : Req} {p : List Byte} {cl : List Nat}

/-! ### Settings and tables (R482 to R485) -/

/-- GW_CYCLE_SET of a period in whole 250 µs with room for the targets' work: the new grid begins at its first mark. -/
theorem exec_gwCycleSet (hruns : Runs s specGwCycleSet r p s1) (hmin : 250 ≤ u p 0 4) (hmax : u p 0 4 ≤ 100000) (hwhole : u p 0 4 % 250 = 0)
    (hphase : u p 4 4 < u p 0 4 * 1000) (hwcet : wcetOver s1.ep.cur.gw (u p 0 4) = false) (hcopy : copyOver s1 s1.ep.cur.gw = false) :
    exec (.gwCycleSet r) s = .next (ends s specGwCycleSet r p s1 {
      payload := le 4 (u p 0 4) ++ le 4 (u p 4 4) ++ le 8 (firstMark s1 (u p 0 4) (u p 4 4)) ++ le 4 (wrapAdd 32 s1.gw.cycle 1)
      st := s1.modGw fun g => { g with
        cfg := { g.cfg with periodUs := u p 0 4, phaseNs := u p 4 4 }
        nextGrid := some (u p 0 4, u p 4 4, firstMark s1 (u p 0 4) (u p 4 4)) } }) := by
  refine command_completes hruns ?_ rfl
  unfold specGwCycleSet
  simp only [clampLower_of_mem hmin hmax hwhole, clampField_of_mem (Nat.zero_le _) (Nat.le_sub_one_of_lt hphase)]
  rw [checked_pass (by simp [chkPol, hwcet, hcopy])]
  rfl

/-- ROUTE_TABLE_SET commits the gateway tables. -/
theorem exec_routeTableSet (hruns : Runs s specRouteTableSet r p s1) (happlies : ListApplies 48 entryGateway gatewayShadow p s1 t cl)
    (hone : s1.ep.draining = false) : exec (.routeTableSet r) s = .next (ends s specRouteTableSet r p s1 (listDone p t cl 0x40 true)) :=
  command_done hruns (listBody_of happlies (asSubmitted r)) fun _ => hone

/-- The settings of an endpoint that an ENDPOINT_SET payload gives. -/
def endpointCfgOf (p : List Byte) : Endpoint := {
  flags := u p 1 1 % 4, mac := sub p 2 6, ipv4 := ub p 8 4, pfx := clampTo 8 30 (u p 12 1), vid := u p 14 2
  md := u p 16 4, idleS := clampTo 1 3600 (u p 20 2) }

/-- ENDPOINT_SET of an enabled endpoint loses no session. -/
theorem exec_endpointSet_of_enabled (hruns : Runs s specEndpointSet r p s1) (hdomain : u p 0 1 ≤ 7) (hvid : 1 ≤ u p 14 2)
    (hvidMax : u p 14 2 ≤ 4094) (henabled : bit (u p 1 1) 0 = true) :
    exec (.endpointSet r) s = .next (ends s specEndpointSet r p s1 {
      payload := endpointBytes (u p 0 1) (endpointCfgOf p), clamps := (clampField 12 8 30 (u p 12 1)).off ++ (clampField 20 1 3600 (u p 20 2)).off
      st := s1.modGw fun g => { g with cfg := { g.cfg with ends := tset g.cfg.ends (u p 0 1) (endpointCfgOf p) } } }) := by
  have hflag : bit (u p 1 1 % 4) 0 = true := by
    rw [bit_zero, decide_eq_true_eq] at henabled ⊢
    omega
  refine command_completes hruns ?_ rfl
  unfold specEndpointSet
  dsimp only
  rw [checked_pass (by simp [chkSup, hdomain, hvidMax, Nat.one_le_iff_ne_zero.1 hvid]), if_pos hflag]
  rfl

/-- ACF_BUS_SET changes no epoch table. -/
theorem exec_acfBusSet (hruns : Runs s specAcfBusSet r p s1) (happlies : ListApplies 24 entryAcf (fun off e s =>
      [chkConf (u e 1 1 = 0 && s.gw.cfg.buses.any fun b => b.1 != u e 0 1 && b.2.stream == sub e 12 8) (off + 12)]) p s1 t cl) :
    exec (.acfBusSet r) s = .next (ends s specAcfBusSet r p s1 (listDone p t cl 0 false)) :=
  command_completes hruns (listBody_of happlies (asSubmitted r)) rfl

/-! ### Direct access (R467, R468, R471 to R473, R486 to R489) -/

/-- The message of a GW_WRITE of FORM 0, as the write journal takes it. -/
def writtenMsg (r : Req) (p : List Byte) : TxMsg := {
  msg := { kind := kindOf (u p 0 1), chan := u p 0 1, flags := u p 2 1 % 8, ident := u p 4 4, data := sub p 24 (u p 12 2) }
  origin := .direct 1 (asSubmitted r).src (asSubmitted r).tag, func := 0, addr := 0 }

/-- GW_WRITE of a message enters the write journal for the next cycle. -/
theorem exec_gwWrite_of_message (hruns : Runs s specGwWrite r p s1) (hchan : chanOk (u p 0 1) = true) (houtput : isGpi (u p 0 1) = false)
    (hform : u p 1 1 = 0) (hspeaks : muted s1 = false) (hplain : isModbus s1 (u p 0 1) = false) (hlen : u p 12 2 ≤ 2048)
    (hfits : lengthBad s1 (kindOf (u p 0 1)) (u p 0 1) (u p 4 4) (sub p 24 (u p 12 2)).length = false)
    (hroom : journalFull s1 (sub p 24 (u p 12 2)).length = false) :
    exec (.gwWrite r) s = .next (ends s specGwWrite r p s1 {
      payload := le 4 (wrapAdd 32 s1.gw.cycle 1), st := journalPut s1 (writtenMsg r p) }) := by
  refine command_completes hruns ?_ rfl
  unfold specGwWrite
  dsimp only
  unfold gwWrite
  simp only [hform, hplain, if_true, Bool.false_eq_true, if_false]
  rw [checked_pass (by simp [chkSup, hchan, houtput, hspeaks, hlen, hfits, hroom])]
  rfl

/-- The level of a discrete input as GW_READ answers it. -/
def gpiValue (s : State) (c : Nat) : Nat := if bit (dioCfg s c).flags 0 then 1 - (dioRun s c).level else (dioRun s c).level

/-- GW_READ of a discrete input answers its level now. -/
theorem exec_gwRead_of_input (hruns : Runs s specGwRead r p s1) (hchan : chanOk (u p 0 1) = true) (hinput : isGpi (u p 0 1) = true)
    (hwidth : u p 2 1 = 8 ∨ u p 2 1 = 16 ∨ u p 2 1 = 32) (hplain : isModbus s1 (u p 0 1) = false) :
    exec (.gwRead r) s = .next (ends s specGwRead r p s1 {
      st := s1, clamps := (clampField 12 1 10000 (u p 12 2)).off
      payload := le 4 (gpiValue s1 (u p 0 1)) ++ le 8 s1.now ++ le 4 (min ((s1.now - s1.now) / 1000) (2 ^ 32 - 1)) ++ le 1 0 ++ le 1 0 ++
        zeros 2 }) := by
  refine command_completes hruns ?_ rfl
  unfold specGwRead
  dsimp only
  unfold gwRead
  dsimp only
  rw [checked_pass (by simp [chkSup, hchan, hplain]; omega), if_pos hinput]
  rfl

section
variable (hserial : isSerial (u p 0 1) = true) (hop : u p 1 1 = 0) (hown : u p 2 1 = 0xFF)
  (hspeaks : muted s1 = false) (hmode : (serCfg s1 (u p 0 1)).mode ≠ 0)

/-- The lock of a serial port that GW_LOCK grants for the command's own source. -/
def grantedLock (s : State) (r : Req) (ls : Nat) : GwLock := {
  kind := 0, who := (asSubmitted r).src, since := s.now, leaseMs := ls, expires := s.now + ls * 1000000, exchanges := 0 }

include hserial hop hown hspeaks hmode

/-- GW_LOCK of a free channel that nobody waits for grants the lock. -/
theorem exec_gwLock_of_free (hruns : Runs s specGwLock r p s1) (hfree : tget s1.gw.locks (u p 0 1) = none) (hheir : tget s1.gw.heir (u p 0 1) = none) :
    exec (.gwLock r) s = .next (ends s specGwLock r p s1 {
      payload := le 2 (clampTo 1 5000 (u p 4 2)) ++ le 8 (s1.now + clampTo 1 5000 (u p 4 2) * 1000000)
      clamps := (clampField 4 1 5000 (u p 4 2)).off
      tokenUsed := (findToken s1 (asSubmitted r).token (asSubmitted r).src 0x0906 p).isSome
      st := (spendToken (gwCount s1 1 (u p 0 1) 7 1) (actorOf (asSubmitted r)) 0x0906 (asSubmitted r).token p).modGw fun g => { g with
        locks := tset g.locks (u p 0 1) (grantedLock s1 r (clampTo 1 5000 (u p 4 2))), heir := tdel g.heir (u p 0 1) } }) := by
  refine command_completes hruns ?_ rfl
  unfold specGwLock
  dsimp only
  unfold gwLock
  simp only [hop, hown, hfree, hheir]
  rw [checked_pass (by simp [chkSup, chkConf, hserial, hspeaks, hmode])]
  rfl

/-- GW_LOCK of a channel that another holds waits for the remaining lease. -/
theorem specGwLock_of_held {l : GwLock} (hheld : tget s1.gw.locks (u p 0 1) = some l) (hother : l.kind = 2) :
    specGwLock.body s1 (asSubmitted r) p =
      retryLater s1 (actorOf (asSubmitted r)) 0x0906 (asSubmitted r).token p (leaseLeft s1 l) (u p 0 1) := by
  unfold specGwLock
  dsimp only
  unfold gwLock
  simp only [hop, hown, hheld]
  rw [checked_pass (by simp [chkSup, chkConf, hserial, hspeaks, hmode])]
  exact if_neg (by simp [hother, actorOf])

end

/-- A RETRY without a token of its own issues one. -/
theorem retryLater_of_no_token {a : Actor} {op tok hint c : Nat} (hnone : findToken s tok a.src op p = none) :
    retryLater s a op tok p hint c = .retry (issueToken (gwCount s 1 c 6 1) a.src op p hint (.failed stRetry) c).1 hint
      (issueToken (gwCount s 1 c 6 1) a.src op p hint (.failed stRetry) c).2 := by
  unfold retryLater
  rw [hnone]
  rfl

/-- A request that carries a valid token keeps it. -/
theorem retryLater_of_token {a : Actor} {op tok hint c : Nat} {x : RetryTok} (hvalid : findToken s tok a.src op p = some x) :
    retryLater s a op tok p hint c = .retry tok hint (renewToken (gwCount s 1 c 6 1) tok hint) := by
  unfold retryLater
  rw [hvalid]
  rfl

/-- The message of a GW_EXCHANGE that expects no answer. -/
def exchangedMsg (s : State) (r : Req) (p : List Byte) : TxMsg := {
  msg := { kind := 4, chan := u p 0 1, ident := if isModbus s (u p 0 1) then u (sub p 8 (u p 2 2)) 0 1 else 0, data := sub p 8 (u p 2 2) }
  origin := .exchange 0 (asSubmitted r).src 0, func := if isModbus s (u p 0 1) then u (sub p 8 (u p 2 2)) 1 1 else 0, reply := false }

/-- GW_EXCHANGE that expects no answer, on a channel no one has locked. -/
theorem exec_gwExchange_of_unanswered (hruns : Runs s specGwExchange r p s1) (hserial : isSerial (u p 0 1) = true)
    (hsilent : bit (u p 1 1) 0 = false) (hlen : 1 ≤ u p 2 2) (hlenMax : u p 2 2 ≤ 2048) (hspeaks : muted s1 = false)
    (hfetch : cannotFetch s1 (u p 0 1) = false) (hnew : findToken s1 (asSubmitted r).token (asSubmitted r).src 0x0907 p = none)
    (hfree : tget s1.gw.locks (u p 0 1) = none) (hroom : ((chanOf s1 (u p 0 1)).txq.filter fun x => !isPosted x).length < 64) :
    exec (.gwExchange r) s = .next (ends s specGwExchange r p s1 { st := stampChans s1 (toChannel s1 (exchangedMsg s1 r p)) }) := by
  have hnew' : findToken s1 (asSubmitted r).token (actorOf (asSubmitted r)).src 0x0907 p = none := hnew
  refine command_completes hruns ?_ rfl
  unfold specGwExchange
  dsimp only
  unfold gwExchange
  dsimp only
  rw [checked_pass (by simp [chkSup, chkConf, hserial, hspeaks, hfetch, hlenMax, Nat.one_le_iff_ne_zero.1 hlen]), hnew']
  dsimp only
  unfold gwExchange.start gwExchange.go spendToken
  simp only [hfree, hnew', hsilent, if_neg (Nat.not_le.2 hroom)]
  rfl

/-! ### Status, counters, tables (R490 to R492) -/

/-- What follows the first 36 bytes of GW_STATUS_GET: locks, sessions, stale routes. -/
def gwStatusTail (s : State) : List Byte :=
  le 1 (((List.range 6).map fun n => if thas s.gw.locks (16 + n) then 2 ^ n else 0).sum) ++ le 1 s.gw.sessions.length ++
    le 2 (s.ep.cur.gw.routes.filter fun e => (slotOf s e.1).stale).length

theorem gwStatusTail_length (s : State) : (gwStatusTail s).length = 4 := by simp [gwStatusTail, le_length]

/-- GW_STATUS_GET answers the state of the cycle and changes nothing. -/
theorem exec_gwStatusGet (hruns : Runs s specGwStatusGet r p s1) :
    exec (.gwStatusGet r) s = .next (ends s specGwStatusGet r p s1 { st := s1, payload :=
      (le 4 s1.gw.cycle ++ le 4 s1.gw.grid.1 ++ le 4 s1.gw.grid.2 ++ le 4 ((wcetNs s1.ep.cur.gw + 999) / 1000) ++ le 8 (nextMark s1) ++
        le 4 s1.gw.runUs ++ le 4 s1.gw.peakUs ++ le 4 (journalUsed s1) ++ gwStatusTail s1) }) := by
  refine command_completes hruns ?_ rfl
  unfold specGwStatusGet gwStatusTail
  simp only [List.append_assoc]

/-- GW_COUNTERS_GET of a channel answers its counters, and clears them under FLAGS bit 0. -/
theorem exec_gwCountersGet_of_channel (hruns : Runs s specGwCountersGet r p s1) (htable : u p 0 1 = 1) (hchan : chanOk (u p 2 2) = true) :
    exec (.gwCountersGet r) s = .next (ends s specGwCountersGet r p s1 {
      payload := le 1 1 ++ le 1 0 ++ le 2 (u p 2 2) ++ zeros 4 ++ layCounters (gwWidths 1) (gwCtr s1 1 (u p 2 2))
      st := if bit (u p 1 1) 0 then s1.modGw (fun g => { g with counters := tdel g.counters (65536 + u p 2 2) }) else s1 }) := by
  refine command_completes hruns ?_ rfl
  unfold specGwCountersGet
  simp only [htable]
  rw [checked_pass (by simp [chkSup, chkConf, hchan])]
  simp [b2n]

/-- GW_TABLE_READ of the route table answers the routes of the range. -/
theorem exec_gwTableRead_of_routes (hruns : Runs s specGwTableRead r p s1) (htable : u p 0 1 = 0) (hfirst : u p 2 2 < 16384) :
    exec (.gwTableRead r) s = .next (ends s specGwTableRead r p s1 {
      payload := le 2 (u p 2 2) ++ le 2 (clampTo 0 (16384 - u p 2 2) (u p 4 2)) ++ le 4 s1.ep.epoch ++
        (s1.ep.cur.gw.routes.filter fun e => u p 2 2 ≤ e.1 && e.1 < u p 2 2 + clampTo 0 (16384 - u p 2 2) (u p 4 2)).flatMap
          fun e => routeBytes e.1 e.2
      clamps := (clampField 4 0 (16384 - u p 2 2) (u p 4 2)).off, st := s1 }) := by
  refine command_completes hruns ?_ rfl
  unfold specGwTableRead
  simp only [htable]
  rw [checked_pass (by simp [chkSup, at', hfirst])]
  rfl

end

/-- Settles O17: each command completes with what its body answers, or is given back with a token. -/
theorem gatewayCommandsComplete : Obligations.gatewayCommandsComplete := by
  unfold Obligations.gatewayCommandsComplete
  intro r s s1 t p cl
  exact ⟨fun hruns hmin hmax hwhole hphase hwcet hcopy => ⟨_, rfl, exec_gwCycleSet hruns hmin hmax hwhole hphase hwcet hcopy⟩,
    exec_routeTableSet,
    fun hruns hdomain hvid hvidMax henabled => ⟨_, endpointCfgOf p, rfl, exec_endpointSet_of_enabled hruns hdomain hvid hvidMax henabled⟩,
    exec_acfBusSet,
    exec_gwWrite_of_message,
    fun hruns hchan hinput hwidth hplain => ⟨_, rfl, exec_gwRead_of_input hruns hchan hinput hwidth hplain⟩,
    fun hruns hserial hop hown hspeaks hmode hfree hheir => ⟨_, rfl, exec_gwLock_of_free hserial hop hown hspeaks hmode hruns hfree hheir⟩,
    fun l hruns hserial hop hown hspeaks hmode hheld hother hnone => ⟨_, rfl, command_retry hruns
      ((specGwLock_of_held hserial hop hown hspeaks hmode hheld hother).trans (retryLater_of_no_token hnone))⟩,
    fun l x hruns hserial hop hown hspeaks hmode hheld hother hvalid => command_retry hruns
      ((specGwLock_of_held hserial hop hown hspeaks hmode hheld hother).trans (retryLater_of_token hvalid)),
    fun hruns hserial hsilent hlen hlenMax hspeaks hfetch hnew hfree hroom => ⟨_, rfl,
      exec_gwExchange_of_unanswered hruns hserial hsilent hlen hlenMax hspeaks hfetch hnew hfree hroom⟩,
    fun hruns => ⟨gwStatusTail s1, exec_gwStatusGet hruns, gwStatusTail_length s1⟩,
    exec_gwCountersGet_of_channel,
    fun hruns htable hfirst => ⟨_, rfl, exec_gwTableRead_of_routes hruns htable hfirst⟩⟩

end Sys2Proof.Machine
end

section
/-! PROOFS. The rows of the gateway cycle, of fetches and of TRDP message data (R452 to R458, R471 to R477). -/

namespace Sys2Proof.Machine

/-- The passage of the clock leaves the gateway alone. -/
theorem State.until_gw (s : State) (t : Nat) : (s.until t).gw = s.gw := by
  unfold State.until State.later
  split
  · rfl
  · split <;> rfl

section
variable {s : State}

theorem not_gatewayOn (hon : gatewayOn s = true) : ¬ (!gatewayOn s) = true := by simp [hon]

/-! ### Frames at the gateway's point (R447, R463) -/

theorem exec_gwInputDelivery_of_none (hon : gatewayOn s = true) (hempty : deliverInternal s 34 = none) : exec .gwInputDelivery s = .next s := by
  change execGwInputDelivery s = _
  unfold execGwInputDelivery
  rw [if_neg (not_gatewayOn hon), hempty]

section
variable {a : Nat} {x : Transit} {b : State} (hon : gatewayOn s = true) (hframe : deliverInternal s 34 = some (a, x, b))
include hon hframe

/-- A frame that its own input has taken from the queue leaves it no more. -/
theorem exec_gwInputDelivery_of_gone (hgone : deliverInternal (stampChans s (gatewayInput s x.frame)) 34 = none) :
    exec .gwInputDelivery s = .next (stampChans s (gatewayInput s x.frame)) := by
  change execGwInputDelivery s = _
  unfold execGwInputDelivery
  rw [if_neg (not_gatewayOn hon), hframe]
  dsimp only
  rw [hgone]

theorem exec_gwInputDelivery_of_frame {y : Nat × Transit × State}
    (hthere : deliverInternal (stampChans s (gatewayInput s x.frame)) 34 = some y) : exec .gwInputDelivery s = .next y.2.2 := by
  change execGwInputDelivery s = _
  unfold execGwInputDelivery
  rw [if_neg (not_gatewayOn hon), hframe]
  dsimp only
  rw [hthere]

end

/-! ### The cycle (R452, R453, R455, R456) -/

/-- The state at a cycle mark, before the banks and the journal go into a snapshot: the grid `gr` holds from here. -/
def atMark (s : State) (gr : Nat × Nat) : State := pairAtMark ((s.until (nextMark s)).modGw fun g => { g with
  cycle := wrapAdd 32 g.cycle 1, lastMark := nextMark s, markRaw := some (s.until (nextMark s)).time.raw, grid := gr, nextGrid := none })

section
variable {gr : Nat × Nat} (hon : gatewayOn s = true)
  (hgrid : (s.gw.nextGrid = none ∧ gr = s.gw.grid) ∨ (∃ m, s.gw.nextGrid = some (gr.1, gr.2, m)))
include hon hgrid

/-- A cycle mark acts on the state of the mark: what it does depends on the last cycle under way. -/
theorem exec_gwCycleMark : exec .gwCycleMark s = match (atMark s gr).gw.run.getLast? with
    | some c => if !c.begun then
        .next (cycleOverrun (gwCount (atMark s gr) 2 0 5 1) (atMark s gr).gw.cycle (((atMark s gr).now - c.mark) / 1000) 1)
      else .next (execGwCycleMark.swap (atMark s gr) (nextMark s))
    | none => .next (execGwCycleMark.swap (atMark s gr) (nextMark s)) := by
  have hgr : (match (s.until (nextMark s)).gw.nextGrid with
      | some (p, h, _) => (p, h)
      | none => (s.until (nextMark s)).gw.grid) = gr := by
    rw [State.until_gw]
    obtain ⟨hnone, rfl⟩ | ⟨m, hnext⟩ := hgrid
    · rw [hnone]
    · rw [hnext]
  subst hgr
  exact if_neg (not_gatewayOn hon)

/-- A mark with no cycle under way swaps the banks and the journal into a snapshot. -/
theorem exec_gwCycleMark_of_idle (hidle : (atMark s gr).gw.run = []) :
    exec .gwCycleMark s = .next (execGwCycleMark.swap (atMark s gr) (nextMark s)) := by
  rw [exec_gwCycleMark hon hgrid, hidle]
  rfl

/-- The mark of a cycle whose predecessor has not begun is skipped and reported (R456). -/
theorem exec_gwCycleMark_of_waiting {c : GwSnap} (hrun : (atMark s gr).gw.run = [c]) (hwaits : c.begun = false) :
    exec .gwCycleMark s =
      .next (cycleOverrun (gwCount (atMark s gr) 2 0 5 1) (atMark s gr).gw.cycle (((atMark s gr).now - c.mark) / 1000) 1) := by
  rw [exec_gwCycleMark hon hgrid, hrun]
  exact if_pos (by simp [hwaits])

end

section
variable {c : GwSnap} {rest : List GwSnap} (hon : gatewayOn s = true) (hrun : s.gw.run = c :: rest)
include hon hrun

/-- A cycle that has begun issues its outputs and ends once none is left. -/
theorem exec_gwCycleExecute_of_last {n : Nat} (hbegun : c.begun = true) (hall : c.outs.length ≤ n) (us : Nat) :
    exec (.gwCycleExecute n us none) s =
      .next (endCycle (stampChans s (c.outs.foldl (fun s o => issueOut s o c.cycle) s)) { c with outs := [] } us) := by
  change execGwCycleExecute n us none s = _
  unfold execGwCycleExecute
  rw [hrun]
  dsimp only
  rw [if_neg (not_gatewayOn hon), if_pos hbegun]
  dsimp only
  rw [List.take_of_length_le hall, List.drop_of_length_le hall]
  rfl

/-- A cycle that issues nothing yet keeps its outputs. -/
theorem exec_gwCycleExecute_of_none_issued (hbegun : c.begun = true) (houts : c.outs ≠ []) (us : Nat) :
    exec (.gwCycleExecute 0 us none) s = .next ((stampChans s s).modGw fun g => { g with run := c :: rest }) := by
  change execGwCycleExecute 0 us none s = _
  unfold execGwCycleExecute
  rw [hrun]
  dsimp only
  rw [if_neg (not_gatewayOn hon), if_pos hbegun]
  exact if_neg (by simp [houts])

/-- A cycle is cut 40 ms after its mark (R456). -/
theorem exec_gwCycleCut : exec .gwCycleCut s =
    .next (countOut ((cycleOverrun (gwCount (s.until (c.mark + 40000000)) 2 0 6 1) c.cycle
      (((gwCount (s.until (c.mark + 40000000)) 2 0 6 1).now - c.mark) / 1000) 2).modGw fun g => { g with
        run := g.run.drop 1, history := (c :: g.history).take 2 }) c.epoch) := by
  change execGwCycleCut s = _
  unfold execGwCycleCut
  rw [hrun]
  exact if_neg (not_gatewayOn hon)

end

/-! ### Locks and fetches (R471, R473) -/

theorem exec_lockLeaseExpiry {c : Nat} {l : GwLock} (hlock : tget s.gw.locks c = some l) :
    exec (.lockLeaseExpiry c) s = .next (stampChans s (breakLock (s.until l.expires) c 0)) := by
  change execLockLeaseExpiry c s = _
  unfold execLockLeaseExpiry
  rw [hlock]
  rfl

section
variable {tok : Nat} {f : GwFetch} (hfetch : s.gw.fetches.find? (fun f => f.token == tok && f.how != 4) = some f)
include hfetch

theorem exec_gwFetchComplete (hengine : engineRuns s f.chan = true) (d : List Byte) :
    exec (.gwFetchComplete tok d) s = .next (fetchDone (cachePut s {
      chan := f.chan, func := f.func, ident := f.ident
      addr := if f.how = 3 then f.addr else 0, time := s.now, data := d }) tok d) := by
  change execGwFetchComplete tok d s = _
  unfold execGwFetchComplete
  rw [hfetch]
  exact if_neg (by simp [hengine])

theorem exec_gwFetchTimeout : exec (.gwFetchTimeout tok) s =
    .next (fetchFail (modChan (s.until (f.since + f.timeoutMs * 1000000)) f.chan
      fun x => { x with txq := x.txq.filter fun t => t.origin != .fetch tok }) tok stTimeout 0) := by
  change execGwFetchTimeout tok s = _
  unfold execGwFetchTimeout
  rw [hfetch]

end

/-! ### TRDP message data (R474 to R477) -/

/-- An Mr of a ComId that gives no access is answered Me. -/
theorem exec_trdpMrRx_of_no_access {d ip port i com : Nat} {e : Endpoint} {v : State} (hendpoint : endpointOf s d = some e)
    (hon : gatewayOn s = true) (hready : s.host.ready = true) (hsession : sessionFor s d false ip port = some (i, v)) (hbelow : com < e.md)
    (z seq : Nat) (data : List Byte) :
    exec (.trdpMrRx d false ip port z com seq data) s = .next (v.modGw fun g => { g with
      sessions := g.sessions.map fun x => if x.1 = i then (i, { x.2 with outbox := x.2.outbox ++ [[]] }) else x }) := by
  change execTrdpMrRx d false ip port z com seq data s = _
  unfold execTrdpMrRx
  rw [hendpoint]
  dsimp only
  rw [if_neg (by simp [hon, hready]), hsession]
  exact if_pos (.inl hbelow)

section
variable {i : Nat} {x : TrdpSession} (hsession : tget s.gw.sessions i = some x)
include hsession

theorem exec_trdpSessionIdle : exec (.trdpSessionIdle i) s = .next (stampChans s (loseSession
    (s.until (x.last + ((tget s.gw.cfg.ends x.domain).map (·.idleS)).getD 30 * secondNs)) i 1)) := by
  change execTrdpSessionIdle i s = _
  unfold execTrdpSessionIdle
  rw [hsession]
  rfl

theorem exec_trdpConnectionClose_of_tcp (htcp : x.tcp = true) :
    exec (.trdpConnectionClose i) s = .next (stampChans s (loseSession s i 0)) := by
  change execTrdpConnectionClose i s = _
  unfold execTrdpConnectionClose
  rw [hsession]
  exact if_pos htcp

end

end

/-- Settles O19: each row as its own lemma says. -/
theorem gatewayRowsComplete : Obligations.gatewayRowsComplete := by
  unfold Obligations.gatewayRowsComplete
  intro s
  exact ⟨exec_gwInputDelivery_of_none,
    fun _ _ _ hon hframe => ⟨_, rfl, exec_gwInputDelivery_of_gone hon hframe, fun _ => exec_gwInputDelivery_of_frame hon hframe⟩,
    fun gr hon hgrid v hv => by
      obtain rfl : v = atMark s gr := hv
      exact ⟨exec_gwCycleMark_of_idle hon hgrid, fun _ => exec_gwCycleMark_of_waiting hon hgrid⟩,
    fun _ _ _ us hon hrun hbegun hall => exec_gwCycleExecute_of_last hon hrun hbegun hall us,
    fun _ _ us hon hrun hbegun houts => exec_gwCycleExecute_of_none_issued hon hrun hbegun houts us,
    fun c _ hon hrun => ⟨gwCount (s.until (c.mark + 40000000)) 2 0 6 1, _, rfl, rfl, exec_gwCycleCut hon hrun⟩,
    fun _ _ => exec_lockLeaseExpiry,
    fun _ d _ hfetch hengine => exec_gwFetchComplete hfetch hengine d,
    fun _ _ => exec_gwFetchTimeout,
    fun _ _ _ z _ seq data _ _ _ hendpoint hon hready hsession hbelow =>
      exec_trdpMrRx_of_no_access hendpoint hon hready hsession hbelow z seq data,
    fun _ _ => exec_trdpSessionIdle,
    fun _ _ => exec_trdpConnectionClose_of_tcp⟩

end Sys2Proof.Machine
end

section
/-! PROOFS. The commands of group 0x0A (R521 to R526). -/

namespace Sys2Proof.Machine

/-- Rows of one length each make up a table of that length times their number. -/
theorem flatMap_length_const {α β : Type} {l : List α} {f : α → List β} {n : Nat} (h : ∀ x ∈ l, (f x).length = n) :
    (l.flatMap f).length = n * l.length := by
  rw [List.length_flatMap, List.map_congr_left h, List.map_const', List.sum_replicate_nat, Nat.mul_comm]

section
variable {s s1 : State} {r : Req} {p : List Byte}

theorem exec_powerStatusGet (hruns : Runs s specPowerStatusGet r p s1) :
    exec (.powerStatusGet r) s = .next (ends s specPowerStatusGet r p s1 { st := s1, payload :=
      (le 1 s1.power.state ++ le 1 (b2n (s1.power.trans.isSome || s1.power.duskExit) + 2 * b2n s1.power.pfail + 4 * b2n s1.power.holdupLow +
        8 * b2n (intReserved s1 > 0)) ++ le 2 s1.power.intTokens ++ le 2 (intUsed s1) ++ le 2 (intReserved s1) ++ le 2 s1.power.poeTokens ++
      le 2 (poeUsed s1) ++ le 4 s1.power.inputMv ++ le 4 s1.power.inputMa ++ le 2 s1.power.holdupMs ++ le 2 s1.power.loadDw ++
      le 4 s1.power.wakeDrop ++ zeros 4 ++ le 8 s1.power.since) }) :=
  command_completes hruns rfl rfl

/-- A permitted POWER_STATE_SET waits for `DELAY_MS`: Day and Dusk need no magic number, Night needs it and an enabled wake source. -/
theorem exec_powerStateSet_of_permitted (hruns : Runs s specPowerStateSet r p s1)
    (htarget : u p 0 1 ≤ 1 ∨ (u p 0 1 = 2 ∧ u p 4 4 = 0x9600DA4C ∧ s1.power.wake.enable % 64 ≠ 0)) (hother : u p 0 1 ≠ s1.power.state)
    (hfree : powerBusy s1 = false) :
    exec (.powerStateSet r) s = .next (ends s specPowerStateSet r p s1 {
      payload := le 1 (u p 0 1) ++ le 1 s1.power.state ++ le 2 (clampTo 2 10000 (u p 2 2)), clamps := (clampField 2 2 10000 (u p 2 2)).off
      st := s1.modPow fun x => { x with
        trans := some { target := u p 0 1, cause := 0, due := s1.time.aon + msCounts (clampTo 2 10000 (u p 2 2)) } } }) := by
  refine command_completes hruns ?_ rfl
  unfold specPowerStateSet
  dsimp only
  obtain hday | ⟨hnight, hmagic, hsource⟩ := htarget
  · rw [checked_pass (by simp [chkSup, chkPol, hother, hfree]; omega)]
    rfl
  · rw [checked_pass (by simp [chkSup, chkPol, ← hnight, hother, hfree, hmagic, hsource]; omega)]
    rfl

/-- The wake settings that a WAKE_SET payload gives. -/
def wakeCfgOf (s : State) (p : List Byte) : WakeCfg := {
  enable := u p 0 1 % 64 + 64, pinMode := u p 1 1 % 16, autoSleep := u p 2 1, flags := u p 3 1 % 8, delayS := clampTo 1 3600 (u p 4 2)
  darkAfterH := clampTo 0 720 (u p 6 2), tc10Ports := setInter (u p 8 8) (t1Edge s), alarmS := clampTo 0 31536000 (u p 16 4) }

/-- The settings as the completion of WAKE_SET repeats them. -/
def wakeCfgBytes (w : WakeCfg) : List Byte :=
  le 1 w.enable ++ le 1 w.pinMode ++ le 1 w.autoSleep ++ le 1 w.flags ++ le 2 w.delayS ++ le 2 w.darkAfterH ++ le 8 w.tc10Ports ++
    le 4 w.alarmS ++ zeros 4

/-- WAKE_SET leaves the wake settings, also in the store; automatic sleep asks for a state to wake to. -/
theorem exec_wakeSet (hruns : Runs s specWakeSet r p s1) (hauto : u p 2 1 ≤ 2) (hflags : u p 2 1 = 0 ∨ u p 3 1 % 4 ≠ 0) :
    exec (.wakeSet r) s = .next (ends s specWakeSet r p s1 {
      payload := wakeCfgBytes (wakeCfgOf s1 p)
      clamps := (clampField 4 1 3600 (u p 4 2)).off ++ (clampField 6 0 720 (u p 6 2)).off ++ (clampField 16 0 31536000 (u p 16 4)).off
      st := s1.modPow fun x => { x with wake := wakeCfgOf s1 p, stored := { x.stored with wake := some (wakeCfgOf s1 p) } } }) := by
  refine command_completes hruns ?_ rfl
  unfold specWakeSet
  dsimp only
  rw [checked_pass (by simp [chkSup, chkConf, hauto]; omega)]
  rfl

/-- The internal pool that a POOL_SET payload gives, in W. -/
def internalPoolOf (p : List Byte) : Nat := clampTo 20 62 (u p 0 2)

/-- The PoE pool that a POOL_SET payload gives, in W. -/
def poePoolOf (s : State) (p : List Byte) : Nat := clampTo 0 (min s.power.poeDecl 960) (u p 2 2)

/-- The state with the pools of a POOL_SET payload. -/
def pooled (s : State) (p : List Byte) : State := s.modPow fun x => { x with intTokens := 20 * internalPoolOf p, poeTokens := 20 * poePoolOf s p }

/-- The shedding of internal requesters under new pools: the state it leaves and the codes shed. -/
def poolShed (s : State) (p : List Byte) : State × List Nat := shedTo (20 * internalPoolOf p) (shedOrder (pooled s p)) (pooled s p) []

/-- POOL_SET without STORE: what no longer fits is shed, PSE ports lose power, denied ports request again. -/
theorem exec_poolSet_of_unstored (hruns : Runs s specPoolSet r p s1) (hfits : intUsed s1 ≤ 20 * internalPoolOf p) (hunstored : bit (u p 4 1) 0 = false) :
    exec (.poolSet r) s = .next (ends s specPoolSet r p s1 {
      payload := le 2 (internalPoolOf p) ++ le 2 (poePoolOf s1 p) ++ le 1 0 ++ zeros 3 ++ le 2 (20 * internalPoolOf p) ++ le 2 (20 * poePoolOf s1 p) ++
        le 2 (poolShed s1 p).2.length ++ le 2 (pseShrink 16 (poolShed s1 p).1 0).2
      clamps := (clampField 0 20 62 (u p 0 2)).off ++ (clampField 2 0 (min s1.power.poeDecl 960) (u p 2 2)).off
      st := pseRetry (pseShrink 16 (poolShed s1 p).1 0).1 }) := by
  have hflag : u p 4 1 % 2 = 0 := by
    rw [bit_zero, decide_eq_false_iff_not] at hunstored
    omega
  have hroom : ¬ 20 * (clampField 0 20 62 (u p 0 2)).val < intUsed s1 := Nat.not_lt.2 hfits
  refine command_completes hruns ?_ rfl
  unfold specPoolSet
  dsimp only
  rw [checked_pass (by simp [chkPol, hroom]), hflag]
  rfl

/-- The rows of ARBITER_GET: `n` requesters from code `f` on. -/
def arbiterRows (s : State) (f n : Nat) : List Byte := (List.range n).flatMap fun k =>
  let h := tgetD s.power.holds (f + k) {}
  let state := if h.tokens > 0 then (if reservedCode s (f + k) then 2 else 1) else if h.denied then 3 else 0
  le 1 state ++ le 1 (f + k) ++ le 2 h.tokens

theorem arbiterRows_length (s : State) (f n : Nat) : (arbiterRows s f n).length = 4 * n := by
  unfold arbiterRows
  rw [flatMap_length_const (n := 4) (by simp [le_length]), List.length_range]

theorem exec_arbiterGet (hruns : Runs s specArbiterGet r p s1) (hfirst : u p 0 1 ≤ 63) :
    exec (.arbiterGet r) s = .next (ends s specArbiterGet r p s1 {
      payload := le 1 (u p 0 1) ++ le 1 (clampTo 1 (64 - u p 0 1) (u p 1 1)) ++ zeros 2 ++
        arbiterRows s1 (u p 0 1) (clampTo 1 (64 - u p 0 1) (u p 1 1))
      clamps := (clampField 1 1 (64 - u p 0 1) (u p 1 1)).off, st := s1 }) := by
  refine command_completes hruns ?_ rfl
  unfold specArbiterGet
  dsimp only
  rw [checked_pass (by simp [chkSup, hfirst])]
  rfl

/-- The supply settings that a SUPPLY_SET payload gives. -/
def supplyCfgOf (p : List Byte) : SupplyCfg := {
  pfwMv := clampTo 8600 100000 (u p 0 4), holdupMs := clampTo 1 50 (u p 4 2), shed := u p 6 1 % 2 = 1 }

theorem exec_supplySet (hruns : Runs s specSupplySet r p s1) :
    exec (.supplySet r) s = .next (ends s specSupplySet r p s1 {
      payload := le 4 (supplyCfgOf p).pfwMv ++ le 2 (supplyCfgOf p).holdupMs ++ le 1 (u p 6 1 % 2) ++ zeros 1
      clamps := (clampField 0 8600 100000 (u p 0 4)).off ++ (clampField 4 1 50 (u p 4 2)).off
      st := s1.modPow fun x => { x with supply := supplyCfgOf p, stored := { x.stored with supply := some (supplyCfgOf p) } } }) :=
  command_completes hruns rfl rfl

end

/-- Settles O20: each command completes with what its body answers. -/
theorem powerCommandsComplete : Obligations.powerCommandsComplete := by
  unfold Obligations.powerCommandsComplete
  intro r s s1 p
  exact ⟨exec_powerStatusGet,
    exec_powerStateSet_of_permitted,
    fun hruns hauto hflags => ⟨_, _, wakeCfgOf s1 p, rfl, exec_wakeSet hruns hauto hflags⟩,
    fun hruns hfits hunstored => ⟨internalPoolOf p, poePoolOf s1 p, pooled s1 p, poolShed s1 p, _, rfl, rfl, rfl, rfl, rfl,
      exec_poolSet_of_unstored hruns hfits hunstored⟩,
    fun hruns hfirst => ⟨_, _, rfl, exec_arbiterGet hruns hfirst, arbiterRows_length _ _ _⟩,
    fun hruns => ⟨supplyCfgOf p, rfl, exec_supplySet hruns⟩⟩

end Sys2Proof.Machine
end

section
/-! PROOFS. The rows of the supply, the arbiter and Nightwatch (R507, R510 to R512, R516, R520, R612 to R614, R709). -/

namespace Sys2Proof.Machine

section
variable {s : State} {mv : Nat}

/-! ### The hold-up bank and the last gasp (R511, R512, R709) -/

/-- What the end of the hold-up bank leaves: the module is off, and records that have not reached the log are lost. -/
def exhausted (s : State) (mv : Nat) : State :=
  let t := wipe (raise s 0x95 3 noLevel (srcId 0xF 1)
    (le 1 1 ++ le 1 0 ++ zeros 2 ++ le 4 mv ++ le 4 18000 ++ le 4 (at' s.power.monCount 1 0 + 1))) true
  { t with lode := { t.lode with logQueue := [], lostRun := 0 }, host := { t.host with resetCause := 0 } }

theorem exhausted_off (s : State) (mv : Nat) : (exhausted s mv).power.on = false := rfl

theorem exec_holdupExhausted (hon : s.power.on = true) : exec (.holdupExhausted mv) s = .next (exhausted s mv) :=
  if_neg (by simp [hon])

theorem exec_holdupBankCharged (hon : s.power.on = true) :
    exec .holdupBankCharged s = .next (s.modPow fun p => { p with bankOk := true, pfailN := p.pfail }) :=
  if_neg (by simp [hon])

section
variable (hawake : awake s = true)
include hawake

/-- The last gasp without shedding: POWER_FAIL goes out, the log is flushed, and an entry to Dusk under way is abandoned. -/
theorem exec_powerFailWarn_of_unshed (hfirst : s.power.pfail = false) (hunshed : s.power.supply.shed = false) :
    ∃ v : State, v = flushLog ((raise (s.modPow fun p => { p with pfail := true, pfailAt := s.now, pfailN := true, inputMv := mv }) 0x92 5 noLevel
          (srcId 0xF 1) (zeros 4 ++ le 4 mv ++ le 2 s.power.holdupMs ++ le 2 s.power.loadDw)).modPow fun p => { p with shedCodes := [] }) ∧
      exec (.powerFailWarn mv) s = .next (if v.power.trans.any fun x => x.target == 1 then abandonEntry v else v) := by
  refine ⟨_, rfl, ?_⟩
  change execPowerFailWarn mv s = _
  unfold execPowerFailWarn
  rw [if_neg (by simp [hawake, hfirst]), hunshed]
  simp only [Bool.false_eq_true, if_false, List.foldl_nil]

/-- The input is back and nothing was shed. -/
theorem exec_powerFailEnd_of_unshed (hfail : s.power.pfail = true) (hback : s.power.supply.pfwMv + 500 < mv) (hunshed : s.power.shedCodes = []) :
    exec (.powerFailEnd mv) s = .next (raise (s.modPow fun p => { p with
        pfail := false, pfailN := !p.bankOk, inputMv := mv, shedCodes := [] }) 0x92 1 noLevel (srcId 0xF 1)
      (le 1 1 ++ zeros 3 ++ le 4 mv ++ le 2 s.power.holdupMs ++ le 2 s.power.loadDw ++
        le 4 (min ((s.now - s.power.pfailAt) / 1000) (2 ^ 32 - 1)))) := by
  change execPowerFailEnd mv s = _
  unfold execPowerFailEnd
  rw [if_neg (by simp [hawake, hfail, hback]), hunshed]
  rfl

/-! ### Tokens (R507) -/

/-- In Day every requester may request. -/
theorem exec_tokenRequest_of_day (hday : s.power.state = 0) (c : Nat) : exec (.tokenRequest c) s = .next (requestBlock s c) :=
  if_neg (by simp [hawake, hday])

/-! ### Monitors (R510, R516, R520) -/

theorem exec_inputOvervoltage (hover : 170000 < mv) : exec (.inputOvervoltage mv) s = .next (monitorBad s 0 1 mv 170000) :=
  if_neg (by simp [hawake, hover])

theorem exec_railOutOfRange_of_under {k : Nat} (hrail : k ≤ 13) (hunder : mv < monThreshold (k + 2) false) :
    exec (.railOutOfRange k mv) s = .next (monitorBad s (k + 2) (b2n (decide (mv > monThreshold (k + 2) true))) mv
      (if mv > monThreshold (k + 2) true then monThreshold (k + 2) true else monThreshold (k + 2) false)) :=
  if_neg (by simp [hawake]; omega)

theorem exec_supplyBackInRange {m : Nat} (hmonitor : m ≤ 15) (hbad : bit s.power.monBad m = true) :
    exec (.supplyBackInRange m mv) s = .next (raise (s.modPow fun p => { p with monBad := withBit p.monBad m false }) 0x95 1 noLevel (srcId 0xF 1)
      (le 1 m ++ le 1 2 ++ zeros 2 ++ le 4 mv ++ le 4 (monThreshold m (bit s.power.monOver m)) ++ le 4 (at' s.power.monCount m 0))) :=
  if_neg (by simp [hawake, hmonitor, hbad])

/-- HOLDUP_LOW is raised once, where the estimate falls below the requirement. -/
theorem exec_holdupEstimate_of_low {ms : Nat} (hlow : ms < s.power.supply.holdupMs) (hfirst : s.power.holdupLow = false) (dw : Nat) :
    exec (.holdupEstimate ms dw) s = .next (raise (s.modPow fun p => { p with holdupMs := ms, loadDw := dw, holdupLow := true }) 0x96 4 noLevel
      (srcId 0xF 1) (le 1 0 ++ zeros 1 ++ le 2 ms ++ le 2 s.power.supply.holdupMs ++ le 2 dw ++ le 4 (tgetD s.lode.samples 35 0).toNat)) := by
  change execHoldupEstimate ms dw s = _
  unfold execHoldupEstimate
  rw [if_neg (not_awake_eq_true hawake)]
  dsimp only
  rw [if_pos ⟨hlow, by simp [hfirst]⟩]
  rfl

end

/-- A requester that holds tokens changes nothing. -/
theorem requestBlock_of_holding {c : Nat} (hholds : holdsTokens s c = true) : requestBlock s c = s := if_pos hholds

/-- The fabric's second clock requests 400 tokens. -/
theorem requestBlock_fabric (hnone : holdsTokens s 1 = false) : requestBlock s 1 = (requestTokens s 1 400).2 := by
  unfold requestBlock
  rw [if_neg (by simp [hnone]), if_pos rfl]

/-- A crypto engine requests 60 tokens. -/
theorem requestBlock_crypto {c : Nat} (hcode : c = 2 ∨ c = 3) (hnone : holdsTokens s c = false) :
    requestBlock s c = (requestTokens s c 60).2 := by
  unfold requestBlock
  rw [if_neg (by simp [hnone]), if_neg (by omega), if_pos hcode]

/-! ### Nightwatch (R612 to R614) -/

section
variable (hwatching : watching s = true)
include hwatching

theorem not_watching_eq_true : ¬ (!watching s) = true := by simp [hwatching]

/-- A service within the open part of the window starts the next window. -/
theorem exec_nightwatchService_of_open (hopen : msCounts s.lode.nw.window * s.lode.nw.openPct ≤ (s.time.aon - s.lode.nw.start) * 100)
    (hbefore : s.time.aon - s.lode.nw.start < msCounts s.lode.nw.window) :
    exec .nightwatchService s = .next (s.modLode fun l => { l with nw := { s.lode.nw with
      window := l.cfg.nw.windowMs, openPct := l.cfg.nw.openPct, start := s.time.aon, serviced := s.time.aon, bitten := false
      services := satAdd 32 s.lode.nw.services 1 } }) :=
  (if_neg (not_watching_eq_true hwatching)).trans (if_pos ⟨hopen, hbefore⟩)

/-- A service before the window opens makes it bite. -/
theorem exec_nightwatchService_of_early (hearly : (s.time.aon - s.lode.nw.start) * 100 < msCounts s.lode.nw.window * s.lode.nw.openPct) :
    exec .nightwatchService s = .next (bite s) :=
  (if_neg (not_watching_eq_true hwatching)).trans (if_neg fun ⟨hopen, _⟩ => Nat.not_le.2 hearly hopen)

theorem exec_nightwatchWindowClose :
    exec .nightwatchWindowClose s = .next (bite (s.later (s.lode.nw.start + msCounts s.lode.nw.window - s.time.aon))) :=
  if_neg (not_watching_eq_true hwatching)

end

end

/-- Settles O22: each row as its own lemma says; what a token request does depends on the requester alone. -/
theorem supplyRowsComplete : Obligations.supplyRowsComplete := by
  unfold Obligations.supplyRowsComplete
  intro mv s
  refine ⟨fun hon => ⟨exhausted s mv, exec_holdupExhausted hon, exhausted_off s mv, rfl, rfl⟩,
    fun hawake hfirst hunshed => ⟨_, rfl, exec_powerFailWarn_of_unshed hawake hfirst hunshed⟩,
    exec_powerFailEnd_of_unshed,
    fun hawake hday hnone => ?fabric, fun c hawake hday hcode hnone => ?crypto, fun c hawake hday hholds => ?held,
    exec_inputOvervoltage,
    fun _ hawake => exec_railOutOfRange_of_under hawake,
    fun _ hawake => exec_supplyBackInRange hawake,
    fun _ dw hawake hlow hfirst => exec_holdupEstimate_of_low hawake hlow hfirst dw,
    exec_holdupBankCharged,
    exec_nightwatchService_of_open,
    exec_nightwatchService_of_early,
    exec_nightwatchWindowClose⟩
  case fabric => rw [exec_tokenRequest_of_day hawake hday, requestBlock_fabric hnone]
  case crypto => rw [exec_tokenRequest_of_day hawake hday, requestBlock_crypto hcode hnone]
  case held => rw [exec_tokenRequest_of_day hawake hday, requestBlock_of_holding hholds]

end Sys2Proof.Machine
end

section
/-! PROOFS. The commands of group 0x0B (R562 to R574). -/

namespace Sys2Proof.Machine

section
variable {s s1 : State} {r : Req} {p : List Byte}

/-! ### The life cycle (R562, R563) -/

theorem exec_lifecycleGet (hruns : Runs s specLifecycleGet r p s1) :
    exec (.lifecycleGet r) s = .next (ends s specLifecycleGet r p s1 { st := s1, payload :=
      (le 1 s1.lifecycle ++ le 1 (b2n s1.keys.quarantine + 2 * b2n (fuseBlown s1) + 4 * b2n (!s1.keys.owner.isEmpty) +
        8 * b2n (s1.lifecycle == 0 || s1.lifecycle == 1 || s1.lifecycle == 3) + 16 * b2n s1.keys.window) ++ le 1 s1.keys.record.length ++
      zeros 1 ++ le 1 s1.keys.tamperCount ++ le 1 s1.keys.clearCount ++ le 1 s1.keys.latched ++ le 1 s1.keys.armed ++
      le 4 (if s1.lifecycle = 4 then 0 else rootGen s1 s1.lifecycle) ++ zeros 4 ++ padTo 48 s1.keys.owner) }) :=
  command_completes hruns rfl rfl

/-- What authorises a transition: an owner key out of BLANK, the owner's signature out of any other state. -/
theorem lifecycle_authorised (howner : s1.lifecycle = 0 → sub p 16 96 ≠ zeros 96)
    (hsigned : s1.lifecycle ≠ 0 → Config.ownerVerify s1.keys.owner (Config.sha384 (ascii "KZLC" ++ p.take 16)) (sub p 112 96) = true) :
    (if s1.lifecycle = 0 then sub p 16 96 == zeros 96
      else !Config.ownerVerify s1.keys.owner (Config.sha384 (ascii "KZLC" ++ p.take 16)) (sub p 112 96)) = false := by
  split
  · next hblank => exact beq_eq_false_iff_ne.2 (howner hblank)
  · next hother => rw [hsigned hother]; rfl

/-- An authorised LIFECYCLE_SET completes, and the transition follows the completion (R532). -/
theorem exec_lifecycleSet_of_authorised (hruns : Runs s specLifecycleSet r p s1) (hallowed : lifeAllowed s1.lifecycle (u p 0 1) = true)
    (htarget : u p 0 1 ≤ 4) (hcounter : u p 4 4 = s1.keys.record.length) (hserial : u p 8 8 = Config.serial % 2 ^ 64)
    (howner : s1.lifecycle = 0 → sub p 16 96 ≠ zeros 96)
    (hsigned : s1.lifecycle ≠ 0 → Config.ownerVerify s1.keys.owner (Config.sha384 (ascii "KZLC" ++ p.take 16)) (sub p 112 96) = true)
    (hsound : u p 0 1 = 2 → s1.keys.latched = 0 ∧ (s1.lifecycle = 1 → fuseBlown s1 = false))
    (hroom : u p 0 1 ≠ 4 → s1.keys.record.length < 63 ∧ s1.keys.tamperCount ≠ 16) (hfree : powerBusy s1 = false) :
    exec (.lifecycleSet r) s = .next (ends s specLifecycleSet r p s1 {
      st := s1, payload := le 1 (u p 0 1) ++ le 1 s1.lifecycle ++ le 1 (s1.keys.record.length + 1)
      after := fun t => lifeTransition t (u p 0 1) (sub p 16 96) }) := by
  have hquiet : (u p 0 1 == 2 && (s1.keys.latched != 0 || (s1.lifecycle == 1 && fuseBlown s1))) = false := by
    simp only [Bool.and_eq_false_imp, beq_iff_eq]
    intro hdeployed
    obtain ⟨hunlatched, hwhole⟩ := hsound hdeployed
    simpa [hunlatched] using hwhole
  have hrecords : (u p 0 1 != 4 && (decide (63 ≤ s1.keys.record.length) || s1.keys.tamperCount == 16)) = false := by
    simp only [Bool.and_eq_false_imp, bne_iff_ne]
    intro hlive
    obtain ⟨hrecord, hcount⟩ := hroom hlive
    simp [hrecord, hcount]
  refine command_completes hruns ?_ rfl
  unfold specLifecycleSet
  dsimp only
  rw [lifecycle_authorised howner hsigned, hquiet, hrecords]
  exact checked_pass (by simp [chkSup, chkConf, chkPol, hallowed, htarget, hcounter, hserial, hfree])

/-! ### Key slots (R544, R564 to R568) -/

/-- The bank that an imported key of 32 bytes gives, before its check value. -/
def importedBank (s : State) (p : List Byte) : KeyBank := {
  source := 3, alg := 0, usage := u p 2 2, parent := 0xFF, labels := [], key := sub p 148 32, tagState := s.lifecycle
  tagGen := rootGen s s.lifecycle, gen := nextGen s (u p 0 1) }

/-- That bank with its check value. -/
def checkedBank (s : State) (p : List Byte) : KeyBank :=
  { importedBank s p with kcv := kcvOf 0 (bankKey s 6 (importedBank s p)), pub := [] }

/-- KEY_SLOT_WRITE of an imported key, into a slot whose other bank is in use, waits for the island. -/
theorem exec_keySlotWrite_of_import (hruns : Runs s specKeySlotWrite r p s1) (hslot : u p 0 1 ≤ 63) (himport : u p 1 1 = 3) (halg : u p 4 1 = 0)
    (husage : u p 2 2 < 64) (hlen : u p 144 2 = 32) (hwindow : s1.lifecycle = 2 → s1.keys.window = true)
    (hsteady : (keySlot s1 (u p 0 1)).erasing = false) (hunselected : selectedBank s1 (u p 0 1) = none)
    (hused : bankUsers s1 (u p 0 1) (inactiveBank s1 (u p 0 1)) ≠ 0) :
    exec (.keySlotWrite r) s = .next (waits s specKeySlotWrite r p s1 .island (askIsland s1 {
      level := 3, kind := 4, slot := u p 0 1, src := some (asSubmitted r).src, bank := some (checkedBank s1 p), uses := []
      out := le 1 (u p 0 1) ++ zeros 3 ++ le 4 (checkedBank s1 p).gen ++ (checkedBank s1 p).kcv ++ (checkedBank s1 p).pub })) := by
  have husageOk : usageOk 0 (u p 2 2) = true := by
    unfold usageOk
    simp
    omega
  refine command_wait hruns ?_
  unfold specKeySlotWrite
  simp only [himport, halg, hlen]
  rw [checked_pass (by simpa [chkSup, chkConf, hslot, husageOk, hsteady] using hwindow)]
  rw [checked_pass (by simp [chkPol, hunselected])]
  simp [hused, checkedBank, importedBank]

/-- KEY_SLOT_ERASE of a slot whose other bank is free runs at once. -/
theorem exec_keySlotErase_of_unused (hruns : Runs s specKeySlotErase r p s1) (hslot : u p 0 1 ≤ 63)
    (hactive : (activeBank s1 (u p 0 1)).isSome = true) (hsteady : (keySlot s1 (u p 0 1)).erasing = false)
    (hunused : bankUsers s1 (u p 0 1) (inactiveBank s1 (u p 0 1)) = 0) :
    exec (.keySlotErase r) s = .next (ends s specKeySlotErase r p s1 {
      st := (runErase s1 (u p 0 1)).1, payload := (runErase s1 (u p 0 1)).2 }) := by
  refine command_completes hruns ?_ rfl
  unfold specKeySlotErase
  dsimp only
  rw [checked_pass (by simp [chkSup, chkConf, hslot, hsteady, Option.isNone_eq_false_iff, hactive]), if_pos hunused]

/-- KEY_SLOT_INFO of a slot without a key answers zeros. -/
theorem exec_keySlotInfo_of_empty (hruns : Runs s specKeySlotInfo r p s1) (hslot : u p 0 1 ≤ 63) (hempty : activeBank s1 (u p 0 1) = none) :
    exec (.keySlotInfo r) s = .next (ends s specKeySlotInfo r p s1 { st := s1, payload := le 1 (u p 0 1) ++ zeros 119 }) := by
  refine command_completes hruns ?_ rfl
  unfold specKeySlotInfo
  dsimp only
  rw [checked_pass (by simp [chkSup, hslot]), hempty]

/-- KEY_SLOT_INFO of a slot with a key answers what may be told of it. -/
theorem exec_keySlotInfo_of_key {b : KeyBank} (hruns : Runs s specKeySlotInfo r p s1) (hslot : u p 0 1 ≤ 63)
    (hkey : activeBank s1 (u p 0 1) = some b) :
    exec (.keySlotInfo r) s = .next (ends s specKeySlotInfo r p s1 { st := s1, payload :=
      (le 1 (u p 0 1) ++ le 1 (if fuseBlown s1 then 3 else if (keySlot s1 (u p 0 1)).erasing then 2 else 1) ++ le 1 b.source ++ le 1 b.alg ++
        le 2 b.usage ++ le 1 (bankDepth s1 6 b) ++ le 1 (min 255 (bankUsers s1 (u p 0 1) ((keySlot s1 (u p 0 1)).act.getD 0))) ++ le 4 b.gen ++
        le 1 (b2n ((keySlot s1 (u p 0 1)).saGen == some b.gen)) ++ zeros 3 ++ padTo 8 b.kcv ++ padTo 96 b.pub) }) := by
  refine command_completes hruns ?_ rfl
  unfold specKeySlotInfo
  dsimp only
  rw [checked_pass (by simp [chkSup, hslot]), hkey]

/-- The CMAC that KEY_OP makes with bank `b`. -/
def keyOpTag (s : State) (b : KeyBank) (p : List Byte) : List Byte := padTo 16 (Config.cmac (bankKey s 6 b) (sub p 8 (u p 4 2)))

/-- KEY_OP for a CMAC waits for the island with the key of its slot. -/
theorem exec_keyOp_of_cmac {b : KeyBank} (hruns : Runs s specKeyOp r p s1) (hop : u p 0 1 = 0) (hslot : u p 1 1 ≤ 63) (hlen : 1 ≤ u p 4 2)
    (hlenMax : u p 4 2 ≤ 2008) (husable : slotUsable s1 (u p 1 1) 4 = true) (hloaded : (loadSlot 3 s1 (u p 1 1)).2 = some b) :
    ∃ (v : State) (tag : List Byte), v = (loadSlot 3 s1 (u p 1 1)).1 ∧ tag = keyOpTag v b p ∧
      exec (.keyOp r) s = .next (waits s specKeyOp r p s1 .island (askIsland (slotUsed v) {
        level := 3, kind := 0, slot := u p 1 1, src := some (asSubmitted r).src, uses := latchOf (slotUsed v) (u p 1 1)
        out := le 1 0 ++ le 1 (u p 1 1) ++ zeros 2 ++ le 4 b.gen ++ le 2 tag.length ++ zeros 6 ++ tag })) := by
  have huse : at' [4, 5, 6] 0 4 = 4 := rfl
  refine ⟨_, _, rfl, rfl, command_wait hruns ?_⟩
  unfold specKeyOp
  simp only [hop, huse, hloaded]
  rw [checked_pass (by simp [chkSup, chkConf, hslot, hlenMax, husable, Nat.one_le_iff_ne_zero.1 hlen])]
  simp only [Nat.zero_ne_one, decide_false, Bool.false_and, if_false, List.append_nil]
  rfl

theorem exec_provisionClose (hruns : Runs s specProvisionClose r p s1) (hprovisioning : s1.lifecycle = 2) (hwindow : s1.keys.window = true) :
    exec (.provisionClose r) s = .next (ends s specProvisionClose r p s1 { st := s1.modKeys fun k => { k with window := false } }) := by
  refine command_completes hruns ?_ rfl
  unfold specProvisionClose
  dsimp only
  rw [checked_pass (by simp [chkConf, hprovisioning, hwindow])]

/-! ### MACsec and MKA (R569 to R573) -/

section
variable {i : Nat} (hport : macIdx (u p 0 1) = some i)
include hport

/-- The settings that a MACSEC_PORT_SET payload gives. -/
def macCfgOf (p : List Byte) : MacCfg := {
  enable := u p 1 1 = 1, suite := u p 2 1, validate := u p 3 1, flags := u p 4 1 % 16, conf := u p 5 1
  window := clampTo 0 (2 ^ 30 - 1) (u p 8 4), pct := clampTo 50 99 (u p 12 1) }

/-- The settings as the completion of MACSEC_PORT_SET repeats them. -/
def macCfgBytes (p : List Byte) (c : MacCfg) : List Byte :=
  le 1 (u p 0 1) ++ le 1 (u p 1 1) ++ le 1 c.suite ++ le 1 c.validate ++ le 1 c.flags ++ le 1 (u p 5 1) ++ zeros 2 ++ le 4 c.window ++
    le 1 c.pct ++ zeros 3

/-- MACSEC_PORT_SET that leaves ENABLE as it is takes and returns no tokens. -/
theorem exec_macsecPortSet_of_same_enable (hruns : Runs s specMacsecPortSet r p s1) (henable : u p 1 1 ≤ 1) (hsuite : u p 2 1 ≤ 1)
    (hvalidate : u p 3 1 ≤ 2) (hconf : u p 5 1 = 0 ∨ u p 5 1 = 30 ∨ u p 5 1 = 50)
    (hnoSa : u p 2 1 ≠ (macCfg s1 i).suite → (macRun s1 i).sas = []) (hsame : (macCfg s1 i).enable = decide (u p 1 1 = 1)) :
    exec (.macsecPortSet r) s = .next (ends s specMacsecPortSet r p s1 {
      payload := macCfgBytes p (macCfgOf p), clamps := (clampField 8 0 (2 ^ 30 - 1) (u p 8 4)).off ++ (clampField 12 50 99 (u p 12 1)).off
      st := zenithRecheck (checkP0 (s1.modKeys fun k => { k with cfg := { k.cfg with ports := k.cfg.ports.set i (macCfgOf p) } })) }) := by
  have hsuiteFree : (u p 2 1 != (macCfg s1 i).suite && !(macRun s1 i).sas.isEmpty) = false := by
    simpa only [Bool.and_eq_false_imp, bne_iff_ne, Bool.not_eq_false', List.isEmpty_iff] using hnoSa
  have hconfOk : (u p 5 1 != 0 && u p 5 1 != 30 && u p 5 1 != 50) = false := by
    simp
    omega
  refine command_completes hruns ?_ rfl
  unfold specMacsecPortSet
  simp only [hport, hsuiteFree, hconfOk]
  rw [checked_pass (by simp [chkSup, chkConf, henable, hsuite, hvalidate]), if_pos hsame.symm]
  rfl

section
variable {k : Nat} {a : MacSa} (hruns : Runs s specMacsecSaSet r p s1) (htx : u p 2 1 = 0) (han : u p 3 1 ≤ 3)
  (hstatic : (mkaCfg s1 i).enable = false) (hsa : namedSa (macRun s1 i) true 63 (u p 3 1) = some (k, a))
include hruns htx han hstatic hsa

/-- MACSEC_SA_SET removes an SA of the transmit channel. -/
theorem exec_macsecSaSet_of_remove (hop : u p 1 1 = 1) :
    exec (.macsecSaSet r) s = .next (ends s specMacsecSaSet r p s1 {
      st := zenithRecheck (checkP0 (retireSa s1 i k)), payload := p.take 6 ++ zeros 2 ++ le 1 k }) := by
  refine command_completes hruns ?_ rfl
  unfold specMacsecSaSet
  simp only [hport, hop, htx, decide_true, if_true, hsa]
  rw [checked_pass (by simp [chkSup, chkConf, chkPol, han, hstatic])]

/-- MACSEC_SA_SET makes an SA of the transmit channel the one in use. -/
theorem exec_macsecSaSet_of_activate (hop : u p 1 1 = 2) :
    exec (.macsecSaSet r) s = .next (ends s specMacsecSaSet r p s1 {
      st := zenithRecheck (activateSa s1 i k), payload := p.take 6 ++ zeros 2 ++ le 1 k }) := by
  refine command_completes hruns ?_ rfl
  unfold specMacsecSaSet
  simp only [hport, hop, htx, decide_true, if_true, hsa]
  rw [checked_pass (by simp [chkSup, chkConf, chkPol, han, hstatic])]

end

/-- The settings that an MKA_SET payload with ENABLE 0 gives. -/
def mkaCfgOf (p : List Byte) : MkaCfg := {
  enable := false, slot := u p 2 1, prio := u p 3 1, ckn := sub p 8 (u p 4 1), helloMs := clampTo 500 10000 (u p 40 2) }

/-- The settings as the completion of MKA_SET repeats them. -/
def mkaCfgBytes (p : List Byte) (c : MkaCfg) : List Byte :=
  le 1 (u p 0 1) ++ le 1 0 ++ le 1 c.slot ++ le 1 c.prio ++ le 1 (u p 4 1) ++ zeros 3 ++ padTo 32 c.ckn ++ le 2 c.helloMs ++ zeros 6

/-- MKA_SET with ENABLE 0 stops the connectivity association. -/
theorem exec_mkaSet_of_disabled (hruns : Runs s specMkaSet r p s1) (hdisabled : u p 1 1 = 0) (hslot : u p 2 1 ≤ 63) (hname : 1 ≤ u p 4 1)
    (hnameMax : u p 4 1 ≤ 32) (husable : slotUsable s1 (u p 2 1) 2 = true) (hmka : ∀ e, e ∈ (macRun s1 i).sas → e.2.mka = true)
    (hnoCa : (mkaRun s1 i).ca = false) :
    exec (.mkaSet r) s = .next (ends s specMkaSet r p s1 {
      payload := mkaCfgBytes p (mkaCfgOf p), clamps := (clampField 40 500 10000 (u p 40 2)).off
      st := (mkaStop s1 i).modKeys fun k => { k with cfg := { k.cfg with mka := k.cfg.mka.set i (mkaCfgOf p) } } }) := by
  have hnoStatic : ((macRun s1 i).sas.any fun e => !e.2.mka) = false := by
    simpa only [List.any_eq_false, Bool.not_eq_true', Bool.not_eq_false] using hmka
  refine command_completes hruns ?_ rfl
  unfold specMkaSet
  simp only [hport, hdisabled, hnoStatic]
  rw [checked_pass (by simp [chkSup, chkConf, hslot, husable, hnameMax, Nat.one_le_iff_ne_zero.1 hname]), if_neg (by simp [hnoCa])]
  rfl

/-- The three bytes of MACSEC_STATUS_GET on MKA and the SA in use: state, flags, AN. -/
def macsecUse (s : State) (i : Nat) : List Byte :=
  le 1 (if !(macRun s i).mka.ca then 0 else if (macRun s i).mka.peer.isNone then 1 else if (txSa s i).any fun e => e.2.mka then 3 else 2) ++
    le 1 (b2n (macRun s i).mka.server + 2 * b2n (controlledOpen s i)) ++ le 1 (((txSa s i).map fun e => e.2.an).getD 0xFF)

omit hport in
theorem macsecUse_length (s : State) (i : Nat) : (macsecUse s i).length = 3 := by simp [macsecUse, le_length]

theorem exec_macsecStatusGet (hruns : Runs s specMacsecStatusGet r p s1) :
    exec (.macsecStatusGet r) s = .next (ends s specMacsecStatusGet r p s1 { st := s1, payload :=
      (le 1 (u p 0 1) ++ le 1 (b2n (macCfg s1 i).enable) ++ le 1 (macCfg s1 i).suite ++ macsecUse s1 i ++
        le 1 ((macRun s1 i).scs.filter fun e => e.1 < 63).length ++ le 1 (macRun s1 i).sas.length ++
        le 8 (((txSa s1 i).map fun e => e.2.pn).getD 0) ++ be 8 ((macRun s1 i).mka.peer.getD 0)) }) := by
  refine command_completes hruns ?_ rfl
  unfold specMacsecStatusGet macsecUse
  simp only [hport, List.append_assoc]

/-- MACSEC_COUNTERS_GET of a port answers its nine counters, and clears them under FLAGS bit 0. -/
theorem exec_macsecCountersGet_of_port (hruns : Runs s specMacsecCountersGet r p s1) (hscope : u p 1 1 = 0) (hindex : u p 2 1 = 0) :
    exec (.macsecCountersGet r) s = .next (ends s specMacsecCountersGet r p s1 {
      payload := p.take 4 ++ zeros 4 ++ ((macRun s1 i).port.take 9).flatMap (le 8)
      st := if bit (u p 3 1) 0 then modMac s1 i (fun m => { m with port := m.port.map fun _ => 0 }) else s1 }) := by
  refine command_completes hruns ?_ rfl
  unfold specMacsecCountersGet
  simp only [hport, hscope, hindex]
  rw [checked_pass (by simp [chkSup, chkConf])]
  rfl

end

/-! ### Tamper (R574) -/

theorem exec_tamperSet (hruns : Runs s specTamperSet r p s1) :
    ∃ l, l = (if bit (u p 1 1) 0 then setInter s1.keys.latched (Config.tamperActive s1.free) else s1.keys.latched) ∧
      exec (.tamperSet r) s = .next (ends s specTamperSet r p s1 {
        payload := le 1 (u p 0 1 % 128) ++ le 1 l
        st := { s1 with free := s1.free + 1 }.modKeys fun k => { k with armed := u p 0 1 % 128, latched := l } }) :=
  ⟨_, rfl, command_completes hruns rfl rfl⟩

end

/-- Settles O23: each command completes with what its body answers, or waits for the island. -/
theorem keyCommandsComplete : Obligations.keyCommandsComplete := by
  unfold Obligations.keyCommandsComplete
  intro r s s1 p
  exact ⟨exec_lifecycleGet,
    exec_lifecycleSet_of_authorised,
    fun hruns hslot himport halg husage hlen hwindow hsteady hunselected hused => ⟨_, checkedBank s1 p, rfl, rfl,
      exec_keySlotWrite_of_import hruns hslot himport halg husage hlen hwindow hsteady hunselected hused⟩,
    exec_keySlotErase_of_unused,
    exec_keySlotInfo_of_empty,
    fun _ hruns hslot hkey => ⟨_, _, exec_keySlotInfo_of_key hruns hslot hkey, le_length _ _, le_length _ _⟩,
    fun _ => exec_keyOp_of_cmac,
    exec_provisionClose,
    fun _ hruns hport henable hsuite hvalidate hconf hnoSa hsame => ⟨_, _, macCfgOf p, rfl,
      exec_macsecPortSet_of_same_enable hport hruns henable hsuite hvalidate hconf hnoSa hsame⟩,
    fun _ _ _ hruns hport htx han hstatic hsa => ⟨exec_macsecSaSet_of_remove hport hruns htx han hstatic hsa,
      exec_macsecSaSet_of_activate hport hruns htx han hstatic hsa⟩,
    fun _ hruns hport hdisabled hslot hname hnameMax husable hmka hnoCa => ⟨_, _, mkaCfgOf p, rfl,
      exec_mkaSet_of_disabled hport hruns hdisabled hslot hname hnameMax husable hmka hnoCa⟩,
    fun i hruns hport => ⟨_, exec_macsecStatusGet hport hruns, macsecUse_length s1 i⟩,
    fun _ hruns hport hscope hindex => exec_macsecCountersGet_of_port hport hruns hscope hindex,
    exec_tamperSet⟩

end Sys2Proof.Machine
end

section
/-! PROOFS. The commands of group 0x0C and the rows of SPDM, MCTP and the signing (R587 to R602). -/

namespace Sys2Proof.Machine

section
variable {s s1 : State} {r : Req} {p : List Byte}

/-! ### Measurements (R595 to R597) -/

theorem exec_measGet (hruns : Runs s specMeasGet r p s1) :
    exec (.measGet r) s = .next (ends s specMeasGet r p s1 {
      st := s1, payload := le 4 (u p 0 4 % 2 ^ 24) ++ le 4 s1.boot.log.length ++ maskedRegs s1 (u p 0 4 % 2 ^ 24) }) :=
  command_completes hruns rfl rfl

/-- How many records MEAS_LOG_READ answers: at least one is asked for, and no more than the log holds. -/
def measCount (s : State) (p : List Byte) : Nat := min (max 1 (u p 4 4)) (s.boot.log.length - u p 0 4)

theorem exec_measLogRead (hruns : Runs s specMeasLogRead r p s1) (hfirst : u p 0 4 ≤ 16383) :
    exec (.measLogRead r) s = .next (ends s specMeasLogRead r p s1 {
      st := s1, clamps := if u p 4 4 = measCount s1 p then [] else [4]
      payload := le 4 (u p 0 4) ++ le 4 (measCount s1 p) ++ zeros 8 ++
        ((s1.boot.log.drop (u p 0 4)).take (measCount s1 p)).flatMap measRecord }) := by
  refine command_completes hruns ?_ rfl
  unfold specMeasLogRead
  dsimp only
  rw [checked_pass (by simp [chkSup, hfirst])]
  rfl

/-- MEAS_EXTEND extends a register with a record of kind 15. -/
theorem exec_measExtend (hruns : Runs s specMeasExtend r p s1) (hreg : u p 0 1 ≤ 23) (hroom : s1.boot.log.length < 16384 - 64) :
    ∃ v : State, v = extend s1 (u p 0 1) 15 (sub p 16 48) (sub p 64 48) ∧
      exec (.measExtend r) s = .next (ends s specMeasExtend r p s1 {
        st := v, payload := le 4 s1.boot.log.length ++ padTo 48 (at' v.boot.mregs (u p 0 1) []) }) := by
  have hnotFull : ¬ s1.boot.log.length ≥ 16384 - 64 := Nat.not_le.2 hroom
  refine ⟨_, rfl, command_completes hruns ?_ rfl⟩
  unfold specMeasExtend
  dsimp only
  rw [checked_pass (by simp only [chkSup, decide_eq_false hnotFull]; simp [hreg])]

/-! ### The report (R586, R587, R598) -/

/-- ATTEST_GET freezes the report, which waits for its signature. -/
theorem exec_attestGet_of_room (hruns : Runs s specAttestGet r p s1) (hroom : s1.boot.signings.length < 8) :
    ∃ v : State, v = bootCountAt s1 0 0 ∧
      exec (.attestGet r) s = .next (waits s specAttestGet r p s1 .signing (askSigning { v with free := v.free + 1 } {
        transport := 0, src := (asSubmitted r).src, kind := 0, mask := u p 0 4 % 2 ^ 24, nonce := sub p 8 32
        body := reportBody v (u p 0 4 % 2 ^ 24) (sub p 8 32) v.free })) :=
  ⟨_, rfl, command_wait hruns (if_neg (Nat.not_le.2 hroom))⟩

/-! ### Boot status and certificates (R588, R593, R599 to R601) -/

/-- The times of the seven stages as BOOT_STATUS_GET answers them. -/
def stageBytes (s : State) : List Byte := (specBootStatusGet.padStages s.boot.stageMs).flatMap (le 4)

theorem stageBytes_length (s : State) : (stageBytes s).length = 28 := by
  unfold stageBytes specBootStatusGet.padStages
  rw [flatMap_length_const fun _ _ => le_length 4 _, List.length_map, List.length_range]

theorem exec_bootStatusGet (hruns : Runs s specBootStatusGet r p s1) :
    exec (.bootStatusGet r) s = .next (ends s specBootStatusGet r p s1 { st := s1, payload :=
      (le 4 s1.boot.bootCount ++ le 4 s1.boot.resumeCount ++ stageBytes s1 ++ le 1 s1.boot.copy ++ le 1 s1.boot.attempt ++ le 1 s1.boot.reason ++
        zeros 1 ++ le 4 s1.boot.log.length ++ s1.boot.counters.flatMap fun c => c.flatMap (le 4)) }) :=
  command_completes hruns rfl rfl

/-- The part of a chain that CERT_GET answers. -/
def certPart (s : State) (p : List Byte) : List Byte := ((certChain s (u p 0 1)).drop (u p 4 4)).take (clampTo 1 65536 (u p 8 4))

theorem exec_certGet (hruns : Runs s specCertGet r p s1) (hslot : u p 0 1 ≤ 1) (hchain : certChain s1 (u p 0 1) ≠ []) :
    exec (.certGet r) s = .next (ends s specCertGet r p s1 {
      st := s1, clamps := if (certPart s1 p).length = u p 8 4 then [] else [8]
      payload := le 4 (certChain s1 (u p 0 1)).length ++ zeros 4 ++ certPart s1 p }) := by
  refine command_completes hruns ?_ rfl
  unfold specCertGet
  dsimp only
  rw [checked_pass (by simp [chkSup, chkConf, hslot, hchain])]
  rfl

/-- CERT_SET takes a chain whose leaf key is the identity's, or none. -/
theorem exec_certSet (hruns : Runs s specCertSet r p s1) (hleaf : p = [] ∨ padTo 96 (Config.leafKey p) = identityPublic) :
    exec (.certSet r) s = .next (ends s specCertSet r p s1 {
      st := s1.modBoot fun b => { b with chain1 := p }, payload := padTo 48 (Config.sha384 p) }) := by
  refine command_completes hruns ?_ rfl
  unfold specCertSet
  dsimp only
  rw [checked_pass (by simpa [chkPol, or_iff_not_imp_left] using hleaf)]

/-! ### SPDM (R589 to R592, R602) -/

/-- The state with the transports that an SPDM_SET payload enables. -/
def spdmSetState (s : State) (p : List Byte) : State := s.modBoot (fun b => { b with
  spdmFlags := u p 0 1 % 8, tcpPort := clampTo 1 65535 (u p 2 2), spdmSet := true
  pcie := if bit (u p 0 1 % 8) 0 then b.pcie else {}
  tcp := if bit (u p 0 1 % 8) 1 then b.tcp else List.replicate 4 none
  p0 := if bit (u p 0 1 % 8) 2 then b.p0 else {} })

theorem exec_spdmSet (hruns : Runs s specSpdmSet r p s1) :
    exec (.spdmSet r) s = .next (ends s specSpdmSet r p s1 {
      clamps := (clampField 2 1 65535 (u p 2 2)).off
      st := abortSignings (spdmSetState s1 p) fun g => g.transport ≠ 0 && !bit (u p 0 1 % 8) (g.transport - 1)
      payload := le 1 (u p 0 1 % 8) ++ zeros 1 ++ le 2 (clampTo 1 65535 (u p 2 2)) }) :=
  command_completes hruns rfl rfl

section
variable (hopen : spdmOpen s 1 0 = true)
include hopen

theorem not_spdmOpen : ¬ (!spdmOpen s 1 0) = true := by simp [hopen]

theorem exec_spdmRequest_of_getVersion : exec (.spdmRequest 1 0 .getVersion) s =
    .next (spdmAnswer (modConn (bootCountAt s 1 0) 1 0 fun c => { c with phase := 1 }) 1 0 .version) :=
  if_neg (not_spdmOpen hopen)

theorem exec_spdmRequest_of_other (c : Nat) :
    exec (.spdmRequest 1 0 (.other c)) s = .next (spdmAnswer (bootCountAt s 1 0) 1 0 (.error 7)) :=
  if_neg (not_spdmOpen hopen)

/-- A CHALLENGE before the algorithms are agreed is an error. -/
theorem exec_spdmRequest_of_early_challenge (hearly : s.boot.pcie.phase < 3) (slot : Nat) (nonce : List Byte) :
    exec (.spdmRequest 1 0 (.challenge slot nonce)) s = .next (spdmAnswer (bootCountAt s 1 0) 1 0 (.error 4)) :=
  (if_neg (not_spdmOpen hopen)).trans (congrArg _ (if_pos hearly))

end

/-! ### The signing (R587, R592) -/

section
variable {g : Signing} {gs : List Signing} (holdest : s.boot.signings = g :: gs) (hcommand : g.transport = 0)
include holdest hcommand

/-- Without an answer of the island ATTEST_GET fails TIMEOUT. -/
theorem exec_signingComplete_of_unanswered : exec (.signingComplete false) s =
    .next (failWaiting (s.modBoot fun b => { b with signings := gs }) (some g.src) .signing stTimeout) := by
  change execSigningComplete false s = _
  unfold execSigningComplete
  rw [holdest]
  exact congrArg _ (if_pos hcommand)

/-- The report with its signature is the answer of ATTEST_GET. -/
theorem exec_signingComplete_of_answered : ∃ v : State, v = s.modBoot (fun b => { b with signings := gs }) ∧
    exec (.signingComplete true) s = .next (answerWaiting
      (raiseAttest (bootCountAt { v with free := v.free + 1 } g.transport 1) g.transport g.kind g.slot g.mask g.nonce) (some g.src) .signing
      fun t => { st := t, payload := g.body ++ padTo 96 (Config.ecdsaSign identityKey (Config.sha384 g.body) v.free) }) := by
  refine ⟨_, rfl, ?_⟩
  change execSigningComplete true s = _
  unfold execSigningComplete
  rw [holdest]
  exact if_pos hcommand

end

/-! ### Connections and MCTP control (R591) -/

theorem exec_spdmTcpConnection_of_free_place {i : Nat} (hawake : awake s = true) (hready : s.host.ready = true)
    (henabled : bit s.boot.spdmFlags 1 = true) (hplace : (List.range 4).find? (fun i => (at' s.boot.tcp i none).isNone) = some i) :
    exec (.spdmTcpConnection .opened) s = .next (s.modBoot fun b => { b with tcp := b.tcp.set i (some {}) }) := by
  change execSpdmTcpConnection .opened s = _
  unfold execSpdmTcpConnection
  dsimp only
  rw [if_neg (by simp [hawake, hready, henabled]), hplace]

theorem exec_mctpControl_of_set {eid : Nat} (hawake : awake s = true) (hlink : s.host.linkUp = true) (hd0 : s.host.d3hot = false)
    (henabled : bit s.boot.spdmFlags 0 = true) (hmin : 8 ≤ eid) (hmax : eid ≤ 254) :
    exec (.mctpControl 1 eid) s = .next ((s.modBoot fun b => { b with eid := eid }).modBoot fun b => { b with
      mctpOut := le 1 0 ++ le 1 0 ++ le 1 eid ++ le 1 0 }) := by
  change execMctpControl 1 eid s = _
  unfold execMctpControl
  rw [if_neg (by simp [hawake, hlink, hd0, henabled])]
  dsimp only
  rw [if_pos ⟨rfl, hmin, hmax⟩, if_pos ⟨hmin, hmax⟩]
  rfl

end

/-- Settles O25: each command and each row as its own lemma says. -/
theorem attestationComplete : Obligations.attestationComplete := by
  unfold Obligations.attestationComplete
  intro r s s1 p
  exact ⟨exec_measGet,
    fun hruns hfirst => ⟨_, rfl, exec_measLogRead hruns hfirst⟩,
    exec_measExtend,
    exec_attestGet_of_room,
    fun hruns => ⟨_, exec_bootStatusGet hruns, stageBytes_length s1⟩,
    fun hruns hslot hchain => ⟨_, rfl, exec_certGet hruns hslot hchain⟩,
    exec_certSet,
    fun hruns => ⟨_, rfl, exec_spdmSet hruns⟩,
    exec_spdmRequest_of_getVersion,
    fun c hopen => exec_spdmRequest_of_other hopen c,
    fun slot nonce hopen hearly => exec_spdmRequest_of_early_challenge hopen hearly slot nonce,
    fun _ _ holdest hcommand => (exec_signingComplete_of_answered holdest hcommand).imp
      fun _ ⟨hv, hanswered⟩ => ⟨hv, hv ▸ exec_signingComplete_of_unanswered holdest hcommand, hanswered⟩,
    fun _ => exec_spdmTcpConnection_of_free_place,
    fun _ => rfl,
    fun _ => exec_mctpControl_of_set⟩

end Sys2Proof.Machine
end

section
/-! PROOFS. The commands of group 0x0D but PERF_GET and PERF_SET (R631 to R640). -/

namespace Sys2Proof.Machine

/-! ### Threshold fields within their range (R634) -/

section
variable {lo hi x : Int} (hlo : lo ≤ x) (hhi : x ≤ hi)
include hlo hhi

theorem thresholdField_val : max lo (min hi x) = x := by rw [min_eq_right hhi, max_eq_right hlo]

theorem thresholdField_off (off : Nat) : (if lo ≤ x ∧ x ≤ hi then ([] : List Nat) else [off]) = [] := if_pos ⟨hlo, hhi⟩

end

section
variable {s s1 : State} {r : Req} {p : List Byte}

/-! ### Status and mode (R604, R631, R632) -/

/-- The loads of the four cores, in percent; a checking core has none. -/
def coreLoads (s : State) : List Byte :=
  (List.range 4).flatMap fun k => if !s.lode.splitMode ∧ k % 2 = 1 then zeros 1 else le 1 (Config.coreLoad s.free k % 101)

theorem coreLoads_length (s : State) : (coreLoads s).length = 4 :=
  flatMap_length_const (n := 1) fun _ _ => by split <;> rfl

/-- LODESTAR_STATUS_GET measures the loads and changes nothing else. -/
theorem exec_lodestarStatusGet (hruns : Runs s specLodestarStatusGet r p s1) :
    exec (.lodestarStatusGet r) s = .next (ends s specLodestarStatusGet r p s1 { st := { s1 with free := s1.free + 1 }, payload :=
      (le 1 (b2n s1.lode.splitMode) ++ le 1 (b2n (at' s1.lode.pairSplit 0 false) + 2 * b2n (at' s1.lode.pairSplit 1 false) +
        4 * b2n s1.lode.testBad + 8 * b2n s1.lode.splitOption + 16 * b2n (s1.pair.barred || bit s1.pair.reasons 5)) ++ zeros 2 ++
      le 4 s1.lode.testFail ++ le 4 (at' s1.lode.lockErrors 0 0) ++ le 4 (at' s1.lode.lockErrors 1 0) ++ le 4 s1.lode.restarts ++
      le 4 s1.lode.eccOk ++ le 4 s1.lode.eccBad ++ le 4 s1.lode.nw.services ++ le 4 s1.lode.logRecords ++ le 4 s1.lode.logLost ++
      le 4 s1.lode.refused ++ coreLoads s1 ++ le 8 s1.mb.uptimeMs) }) :=
  command_completes hruns rfl rfl

theorem exec_lodestarModeSet (hruns : Runs s specLodestarModeSet r p s1) (hmode : u p 0 1 ≤ 1) :
    exec (.lodestarModeSet r) s = .next (ends s specLodestarModeSet r p s1 {
      st := s1.modLode fun l => { l with splitOption := u p 0 1 = 1 }, payload := le 1 (u p 0 1) ++ le 1 (b2n s1.lode.splitMode) }) := by
  refine command_completes hruns ?_ rfl
  unfold specLodestarModeSet
  dsimp only
  rw [checked_pass (by simp [chkSup, hmode])]

/-! ### Sensors and Nightwatch (R612, R618 to R620, R633 to R635) -/

/-- The rows of SENSOR_GET: `n` sensors from code `f` on. -/
def sensorRows (s : State) (f n : Nat) : List Byte := (List.range n).flatMap fun k =>
  let i := f + k
  let v := tgetD s.lode.samples i 0
  let t := threshold s i
  le 1 i ++ le 1 (b2n (hasThreshold i && v > t.high) + 2 * b2n (hasThreshold i && v < t.low) + 4 * b2n (!sensorOk i)) ++ zeros 2 ++
    le 4 (ofInt 32 v)

theorem sensorRows_length (s : State) (f n : Nat) : (sensorRows s f n).length = 8 * n := by
  unfold sensorRows
  rw [flatMap_length_const (n := 8) (by simp [le_length, zeros]), List.length_range]

theorem exec_sensorGet (hruns : Runs s specSensorGet r p s1) (hfirst : u p 0 1 ≤ 36) :
    exec (.sensorGet r) s = .next (ends s specSensorGet r p s1 {
      st := s1, clamps := (clampField 1 1 (37 - u p 0 1) (u p 1 1)).off
      payload := le 1 (u p 0 1) ++ le 1 (clampTo 1 (37 - u p 0 1) (u p 1 1)) ++ zeros 2 ++
        sensorRows s1 (u p 0 1) (clampTo 1 (37 - u p 0 1) (u p 1 1)) }) := by
  refine command_completes hruns ?_ rfl
  unfold specSensorGet
  dsimp only
  rw [checked_pass (by simp [chkSup, hfirst])]
  rfl

/-- SENSOR_THRESHOLD_SET of a temperature within its range is taken as it is. -/
theorem exec_sensorThresholdSet_of_temperature {hi lo hy : Int} (hruns : Runs s specSensorThresholdSet r p s1) (hmin : 2 ≤ u p 0 1)
    (htemp : u p 0 1 ≤ 9) (hhi : hi = toInt 32 (u p 4 4)) (hlo : lo = toInt 32 (u p 8 4)) (hhy : hy = toInt 32 (u p 12 4)) (hhiMax : hi ≤ 1200)
    (horder : lo ≤ hi) (hloMin : -440 ≤ lo) (hhyMin : 0 ≤ hy) (hhyMax : hy ≤ 160) :
    exec (.sensorThresholdSet r) s = .next (ends s specSensorThresholdSet r p s1 {
      st := s1.modLode fun l => { l with cfg := { l.cfg with thresholds := tset l.cfg.thresholds (u p 0 1) ⟨hi, lo, hy⟩ } }
      payload := le 1 (u p 0 1) ++ zeros 3 ++ le 4 (ofInt 32 hi) ++ le 4 (ofInt 32 lo) ++ le 4 (ofInt 32 hy) }) := by
  have hsensor : hasThreshold (u p 0 1) = true := by
    unfold hasThreshold
    simp
    omega
  have hhiMin := hloMin.trans horder
  have hloMax := horder.trans hhiMax
  refine command_completes hruns ?_ rfl
  unfold specSensorThresholdSet
  simp only [htemp, decide_true, if_true, ← hhi, ← hlo, ← hhy, thresholdField_val hhiMin hhiMax, thresholdField_off hhiMin hhiMax,
    thresholdField_val hloMin hloMax, thresholdField_off hloMin hloMax, thresholdField_val hhyMin hhyMax, thresholdField_off hhyMin hhyMax]
  rw [checked_pass (by simp [chkSup, chkPol, hsensor, horder])]
  rfl

theorem exec_nightwatchSet (hruns : Runs s specNightwatchSet r p s1) :
    exec (.nightwatchSet r) s = .next (ends s specNightwatchSet r p s1 {
      clamps := (clampField 0 10 60000 (u p 0 4)).off ++ (clampField 4 0 90 (u p 4 1)).off
      st := s1.modLode fun l => { l with cfg := { l.cfg with
        nw := { windowMs := clampTo 10 60000 (u p 0 4), openPct := clampTo 0 90 (u p 4 1) } } }
      payload := le 4 (clampTo 10 60000 (u p 0 4)) ++ le 1 (clampTo 0 90 (u p 4 1)) ++ zeros 3 ++
        le 4 ((s1.lode.nw.start + msCounts s1.lode.nw.window - s1.time.aon) / 625000) }) :=
  command_completes hruns rfl rfl

/-! ### The log (R621 to R625, R636, R637) -/

/-- LOG_READ of an empty log answers the next sequence number and no record. -/
theorem exec_logRead_of_empty (hruns : Runs s specLogRead r p s1) (hempty : ∀ b, b ∈ s1.lode.blocks → b.records = []) :
    exec (.logRead r) s = .next (ends s specLogRead r p s1 {
      st := s1, clamps := (clampField 4 1 129024 (u p 4 4)).off
      payload := le 4 s1.lode.logSeq ++ le 4 0 ++ le 4 s1.lode.logSeq ++ le 4 ((s1.lode.logSeq + 2 ^ 32 - 1) % 2 ^ 32) }) := by
  have hnone : (s1.lode.blocks.flatMap fun b => b.records.map fun r => (b.bad, r)) = [] :=
    List.flatMap_eq_nil_iff.2 fun b hb => by rw [hempty b hb, List.map_nil]
  refine command_completes hruns ?_ rfl
  unfold specLogRead
  simp only [hnone, List.drop_nil, List.take_nil, List.head?_nil, List.isEmpty_nil, List.length_nil, List.flatMap_nil, List.append_nil,
    Option.map_none, Option.getD_none, if_true]

theorem exec_logSet (hruns : Runs s specLogSet r p s1) :
    exec (.logSet r) s = .next (ends s specLogSet r p s1 {
      clamps := (clampField 0 0 7 (u p 0 1)).off, payload := le 1 (clampTo 0 7 (u p 0 1))
      st := s1.modLode fun l => { l with cfg := { l.cfg with logMinSev := clampTo 0 7 (u p 0 1) } } }) :=
  command_completes hruns rfl rfl

/-! ### Memory ports and bandwidth (R615 to R617, R638 to R640) -/

theorem exec_memportSet (hruns : Runs s specMemportSet r p s1) (hrequester : u p 0 1 ≤ 11) :
    exec (.memportSet r) s = .next (ends s specMemportSet r p s1 {
      clamps := (clampField 1 0 3 (u p 1 1)).off ++ (clampField 2 1 255 (u p 2 1)).off
      st := s1.modLode fun l => { l with cfg := { l.cfg with
        shares := l.cfg.shares.set (u p 0 1) ⟨clampTo 0 3 (u p 1 1), clampTo 1 255 (u p 2 1)⟩ } }
      payload := le 1 (u p 0 1) ++ le 1 (clampTo 0 3 (u p 1 1)) ++ le 1 (clampTo 1 255 (u p 2 1)) }) := by
  refine command_completes hruns ?_ rfl
  unfold specMemportSet
  dsimp only
  rw [checked_pass (by simp [chkSup, hrequester])]
  rfl

/-- The rows of MEMPORT_GET: settings and counters of the twelve requesters. -/
def memportRows (s : State) : List Byte := (List.range 12).flatMap fun r =>
  let c := at' s.lode.cfg.shares r ⟨0, 255⟩
  let x := at' s.lode.shares r {}
  le 1 r ++ le 1 c.prio ++ le 1 c.limit ++ zeros 1 ++ le 8 x.bursts ++ le 4 x.forced ++ le 2 x.peak ++ le 2 x.stuck

theorem memportRows_length (s : State) : (memportRows s).length = 240 :=
  flatMap_length_const (n := 20) (by simp [le_length, zeros])

/-- MEMPORT_GET answers the counters, and clears them under FLAGS bit 0. -/
theorem exec_memportGet (hruns : Runs s specMemportGet r p s1) :
    exec (.memportGet r) s = .next (ends s specMemportGet r p s1 { payload := memportRows s1, st :=
      (if bit (u p 0 1) 0 then s1.modLode fun l => { l with shares := l.shares.map fun x => { wait := x.wait, peak := x.wait } } else s1) }) :=
  command_completes hruns rfl rfl

theorem exec_portBwGet (hruns : Runs s specPortBwGet r p s1) :
    exec (.portBwGet r) s = .next (ends s specPortBwGet r p s1 { st := s1, payload :=
      (le 4 s1.host.bwSeq ++ le 4 s1.host.bwWindowMs ++ (List.range 34).flatMap fun p =>
        le 8 (at' s1.host.bw p {}).lastOut.bytes ++ le 4 (at' s1.host.bw p {}).lastOut.frames ++ le 8 (at' s1.host.bw p {}).lastIn.bytes ++
          le 4 (at' s1.host.bw p {}).lastIn.frames) }) :=
  command_completes hruns rfl rfl

end

/-- Settles O26: each command completes with what its body answers. -/
theorem lodestarCommandsComplete : Obligations.lodestarCommandsComplete := by
  unfold Obligations.lodestarCommandsComplete
  intro r s s1 p
  exact ⟨fun hruns => ⟨_, coreLoads_length s1, exec_lodestarStatusGet hruns⟩,
    exec_lodestarModeSet,
    fun hruns hfirst => ⟨_, _, rfl, sensorRows_length _ _ _, exec_sensorGet hruns hfirst⟩,
    fun _ _ _ => exec_sensorThresholdSet_of_temperature,
    fun hruns => ⟨_, _, rfl, rfl, exec_nightwatchSet hruns⟩,
    exec_logRead_of_empty,
    exec_logSet,
    exec_memportSet,
    fun hruns => ⟨_, memportRows_length s1, exec_memportGet hruns⟩,
    exec_portBwGet⟩

end Sys2Proof.Machine
end

section
/-! PROOFS. The commands of group 0x0E and the rows of the update engine (R648, R652 to R658, R663 to R670). -/

namespace Sys2Proof.Machine

/-- A command whose body fails after it has had an effect. -/
theorem command_failWith {s s1 t : State} {sp : CmdSpec} {r : Req} {p : List Byte} {status detail : Nat} (hruns : Runs s sp r p s1)
    (hbody : sp.body s1 (asSubmitted r) p = .failWith status detail [] t) (hfault : status ≠ stFault) (htimeout : status ≠ stTimeout) :
    command sp r s = .next (finish t (heldCmd s sp r p) { level := sp.level, status := status, detail := detail } [] false) := by
  rw [command_runs hruns, hbody]
  unfold settle
  dsimp only
  rw [if_neg hfault, if_neg htimeout]

section
variable {s s1 : State} {r : Req} {p : List Byte}

/-! ### Status (R663) -/

/-- The first 4 bytes of UPDATE_STATUS_GET: stage, kind, attempt, flags. -/
def updateHead (s : State) : List Byte :=
  le 1 s.upd.stage ++ le 1 s.upd.kind ++ le 1 s.upd.attempt ++ le 1 (b2n s.upd.params.auto + 2 * b2n s.upd.resident + 4 * b2n s.upd.eraseDue)

theorem updateHead_length (s : State) : (updateHead s).length = 4 := by simp [updateHead, le_length]

/-- What follows the first 4 bytes of UPDATE_STATUS_GET. -/
def updateTail (s : State) : List Byte :=
  le 4 (pkgBlocks s.upd.len) ++ (le 4 (firstMissing s) ++ (le 4 (missingList s).length ++ (le 2 s.upd.entries.length ++
    (le 2 (if s.upd.stage = 7 then (s.upd.entries.filter (·.undone)).length else (s.upd.entries.filter (·.done)).length) ++
    (le 4 (healthLeft s) ++ (padTo 48 s.upd.digest ++ (le 4 s.upd.blocksBad ++ (le 4 s.upd.confirmed ++ le 4 s.upd.fallbacks))))))))

theorem exec_updateStatusGet (hruns : Runs s specUpdateStatusGet r p s1) :
    exec (.updateStatusGet r) s = .next (ends s specUpdateStatusGet r p s1 { st := s1, payload := updateHead s1 ++ updateTail s1 }) := by
  refine command_completes hruns ?_ rfl
  unfold specUpdateStatusGet updateHead updateTail
  simp only [List.append_assoc]

/-! ### The download (R645 to R648, R664, R665) -/

/-- UPDATE_BEGIN of another package than the one staged begins a new download. -/
theorem exec_updateBegin_of_other (hruns : Runs s specUpdateBegin r p s1) (hmin : 1088 ≤ u p 48 4) (hmax : u p 48 4 ≤ 67043328)
    (hstage : s1.upd.stage ≤ 3) (hother : sub p 0 48 ≠ s1.upd.digest) :
    ∃ v : State, v = newDownload s1 (sub p 0 48) (u p 48 4) ∧
      exec (.updateBegin r) s = .next (ends s specUpdateBegin r p s1 { st := v, payload :=
        (le 1 v.upd.stage ++ zeros 3 ++ le 4 (pkgBlocks (u p 48 4)) ++ le 4 (firstMissing v) ++ le 4 (missingList v).length) }) := by
  have hidle : s1.upd.stage ≠ 4 ∧ s1.upd.stage ≠ 5 ∧ s1.upd.stage ≠ 6 ∧ s1.upd.stage ≠ 7 := by omega
  refine ⟨_, rfl, command_completes hruns ?_ rfl⟩
  unfold specUpdateBegin
  dsimp only
  rw [checked_pass (by simp [hmin, hmax, hidle]), if_neg fun ⟨hsame, _⟩ => hother hsame]

section
variable (hruns : Runs s specUpdateBlock r p s1) (hstage : s1.upd.stage = 1 ∨ s1.upd.stage = 2) (hindex : u p 0 4 < pkgBlocks s1.upd.len)
  (hinline : (asSubmitted r).length = 16) (hbulk : bit (asSubmitted r).flags 1 = true)
  (hlen : (p.drop 16).length = pkgBlockLen s1.upd.len (u p 0 4)) (hcrc : crc32c (p.drop 16) = u p 4 4)

/-- The write of the block that an UPDATE_BLOCK payload carries. -/
def blockWriteOf (r : Req) (p : List Byte) : BlockWrite := { index := u p 0 4, crc := u p 4 4, data := p.drop 16, src := (asSubmitted r).src }

include hstage hindex hinline hbulk hlen hcrc

/-- What the body of UPDATE_BLOCK answers for a sound block depends on what the staging area holds. -/
theorem specUpdateBlock_of_sound : specUpdateBlock.body s1 (asSubmitted r) p =
    if !bit s1.upd.missing (u p 0 4) then .done { st := s1, payload := blockAnswer s1 (u p 0 4) }
    else .wait .flash (if s1.upd.toErase.contains (u p 0 4) then s1.modUpd fun x => { x with write := blockWriteOf r p :: x.write }
      else blockResent (s1.modUpd fun x => { x with write := blockWriteOf r p :: x.write }) (blockWriteOf r p)) := by
  have hdownload : (s1.upd.stage != 1 && s1.upd.stage != 2) = false := by
    simp
    omega
  unfold specUpdateBlock
  dsimp only
  rw [hlen, hinline, hbulk, hdownload, checked_pass (by simp [chkSup, hindex]), if_neg (by simp [hcrc])]
  rfl

include hruns

/-- A block that the staging area holds is answered at once. -/
theorem exec_updateBlock_of_held (hheld : bit s1.upd.missing (u p 0 4) = false) :
    exec (.updateBlock r) s = .next (ends s specUpdateBlock r p s1 { st := s1, payload := blockAnswer s1 (u p 0 4) }) := by
  refine command_completes hruns ?_ rfl
  rw [specUpdateBlock_of_sound hstage hindex hinline hbulk hlen hcrc, hheld]
  rfl

/-- A missing block waits for its programming. -/
theorem exec_updateBlock_of_missing (hmissing : bit s1.upd.missing (u p 0 4) = true) (hunerased : s1.upd.toErase.contains (u p 0 4) = true) :
    exec (.updateBlock r) s = .next (waits s specUpdateBlock r p s1 .flash (s1.modUpd fun x => { x with
      write := blockWriteOf r p :: x.write })) := by
  refine command_wait hruns ?_
  rw [specUpdateBlock_of_sound hstage hindex hinline hbulk hlen hcrc, hmissing, if_pos hunerased]
  rfl

end

/-! ### Verification (R649, R650, R666) -/

/-- UPDATE_VERIFY of a package whose checks pass stages it: the blocks to change are planned. -/
theorem exec_updateVerify_of_good (hruns : Runs s specUpdateVerify r p s1) (hstage : s1.upd.stage = 2)
    (hgood : verifyBad s1 (stagedPackage s1) = none) : ∃ plan k, plan = changedBlocks s1 (stagedPackage s1) ∧
      k = (if nextReset (stagedPackage s1) then 1 else 0) ∧
      exec (.updateVerify r) s = .next (ends s specUpdateVerify r p s1 {
        st := setStage (s1.modUpd fun x => { x with kind := k, units := unitSet (stagedPackage s1), plan := plan }) 3
        payload := le 1 k ++ le 1 (unitSet (stagedPackage s1) / 2 % 256) ++ le 2 plan.length ++ le 4 (212 * plan.length) }) := by
  refine ⟨_, _, rfl, rfl, command_completes hruns ?_ rfl⟩
  unfold specUpdateVerify
  dsimp only
  rw [checked_pass (by simp [hstage]), hgood]

/-- UPDATE_VERIFY of a package that a check refuses raises UPDATE_REFUSED and answers POLICY. -/
theorem exec_updateVerify_of_bad {reason unit sec least : Nat} (hruns : Runs s specUpdateVerify r p s1) (hstage : s1.upd.stage = 2)
    (hbad : verifyBad s1 (stagedPackage s1) = some (reason, unit, sec, least)) :
    exec (.updateVerify r) s = .next (finish
      (raise s1 0xD2 4 noLevel (srcId 0xF 4) (le 1 reason ++ le 1 unit ++ zeros 2 ++ le 4 sec ++ le 4 least ++
        le 4 (if reason = 6 then (changedBlocks s1 (stagedPackage s1)).length else 0)))
      (heldCmd s specUpdateVerify r p) { level := specUpdateVerify.level, status := stPolicy, detail := noDetail } [] false) := by
  refine command_failWith hruns ?_ (by decide) (by decide)
  unfold specUpdateVerify
  dsimp only
  rw [checked_pass (by simp [hstage]), hbad]

/-! ### Activation, confirmation, abort (R651, R655 to R658, R667 to R670) -/

theorem exec_updateActivate (hruns : Runs s specUpdateActivate r p s1) (hstage : s1.upd.stage = 3) (hday : s1.power.state = 0)
    (herased : s1.upd.eraseDue = false) :
    exec (.updateActivate r) s = .next (ends s specUpdateActivate r p s1 {
      st := setStage ((pinSettings s1).modUpd fun x => { x with
        entries := [], step := if x.plan.isEmpty then 4 else 0, attempt := 0, resetAfter := bit (u p 0 1) 0 }) 4
      payload := le 1 s1.upd.kind ++ zeros 1 ++ le 2 s1.upd.plan.length }) := by
  refine command_completes hruns ?_ rfl
  unfold specUpdateActivate
  dsimp only
  rw [checked_pass (by simp [hstage, hday, herased])]

theorem exec_updateConfirm (hruns : Runs s specUpdateConfirm r p s1) (hstage : s1.upd.stage = 6) :
    exec (.updateConfirm r) s = .next (ends s specUpdateConfirm r p s1 { st := confirmImage s1 0, payload := le 2 s1.upd.units }) := by
  refine command_completes hruns ?_ rfl
  unfold specUpdateConfirm
  dsimp only
  rw [checked_pass (by simp [hstage])]

/-- UPDATE_ABORT of a download discards it. -/
theorem exec_updateAbort_of_download (hruns : Runs s specUpdateAbort r p s1) (hwhat : u p 0 1 = 0) (hbegun : 1 ≤ s1.upd.stage)
    (hinactive : s1.upd.stage ≤ 3) :
    exec (.updateAbort r) s = .next (ends s specUpdateAbort r p s1 {
      payload := le 1 0
      st := (setStage (failWrites s1) 0).modUpd fun x => { x with
        digest := zeros 48, len := 0, missing := 0, staged := [], toErase := List.range 1023, tries := [], kind := 0xFF, units := 0, plan := [] } }) := by
  refine command_completes hruns ?_ rfl
  unfold specUpdateAbort
  simp only [hwhat, if_true]
  rw [checked_pass (by simp [chkSup]; omega)]

/-- UPDATE_ABORT of an unconfirmed image falls back after the completion. -/
theorem exec_updateAbort_of_image (hruns : Runs s specUpdateAbort r p s1) (hwhat : u p 0 1 = 1) (hstage : s1.upd.stage = 6) :
    exec (.updateAbort r) s = .next (ends s specUpdateAbort r p s1 { st := s1, payload := le 1 1, after := fun t => fallBack t 3 0xFF }) := by
  refine command_completes hruns ?_ rfl
  unfold specUpdateAbort
  simp only [hwhat, if_neg Nat.one_ne_zero]
  rw [checked_pass (by simp [chkSup, hstage])]

theorem exec_updateParamsSet (hruns : Runs s specUpdateParamsSet r p s1) :
    ∃ h t, h = clampTo 30 3600 (u p 0 2) ∧ t = clampTo 10 (h - 10) (u p 2 2) ∧
      exec (.updateParamsSet r) s = .next (ends s specUpdateParamsSet r p s1 {
        clamps := (clampField 0 30 3600 (u p 0 2)).off ++ (clampField 2 10 (h - 10) (u p 2 2)).off
        st := s1.modUpd fun x => { x with params := { healthS := h, settleS := t, auto := u p 4 1 % 2 = 1 } }
        payload := le 2 h ++ le 2 t ++ le 1 (u p 4 1 % 2) ++ zeros 3 }) :=
  ⟨_, _, rfl, rfl, command_completes hruns rfl rfl⟩

/-! ### The rows (R648, R652 to R658) -/

section
variable (hawake : awake s = true) (hpower : s.power.pfail = false)
include hawake hpower

/-- The oldest background erase ends, and no block waits for it. -/
theorem exec_stagingEraseDone_of_unwanted {i : Nat} {rest : List Nat} (holdest : s.upd.toErase = i :: rest)
    (hunwanted : ∀ w, w ∈ s.upd.write → w.index ≠ i) : exec .stagingEraseDone s = .next (s.modUpd fun x => { x with toErase := rest }) := by
  have hnone : (s.upd.write.find? fun w => w.index == i) = none :=
    List.find?_eq_none.2 fun w hw => by simpa using hunwanted w hw
  change execStagingEraseDone s = _
  unfold execStagingEraseDone
  rw [if_neg (by simp [hawake, hpower]), holdest]
  dsimp only
  rw [hnone]

theorem exec_pageProgramDone_of_writing {w : BlockWrite} (hready : s.lode.restart = none) (hwriting : writing s = some w) (good : Bool) :
    exec (.pageProgramDone good) s = .next (blockWritten s w good) := by
  change execPageProgramDone good s = _
  unfold execPageProgramDone
  rw [if_neg (by simp [hawake, hpower, hready]), hwriting]

theorem exec_journalEraseDone : exec .journalEraseDone s = .next (s.modUpd fun x => { x with eraseDue := false }) :=
  congrArg _ (if_pos (by simp [hawake, hpower]))

end

section
variable (hstage : s.upd.stage = 6) (hwindow : s.upd.winOn = true)
include hstage hwindow

/-- The health window ends without a confirmation. -/
theorem exec_healthWindowExpiry : exec .healthWindowExpiry s = .next (fallBack (s.later (s.upd.winAt + s.upd.winLeft - s.time.aon)) 1 0xFF) :=
  if_neg (by simp [hstage, hwindow])

/-- The image confirms itself after its settle time. -/
theorem exec_settleTimer_of_auto (hauto : s.upd.params.auto = true) (hready : s.host.ready = true) (hbundle : s.host.bundleOk = true)
    (hsettles : secCounts s.upd.params.settleS ≤ s.upd.winLeft) :
    exec .settleTimer s = .next (confirmImage (s.later (s.upd.winAt + secCounts s.upd.params.settleS - s.time.aon)) 1) :=
  if_neg (by simp [hstage, hwindow, hauto, hready, hbundle, hsettles])

end

end

/-- Settles O28: each command and each row as its own lemma says; UPDATE_VERIFY by what its checks find. -/
theorem updateComplete : Obligations.updateComplete := by
  unfold Obligations.updateComplete
  intro r s s1 p
  refine ⟨fun hruns => ⟨_, List.take_left' (updateHead_length s1), exec_updateStatusGet hruns⟩,
    exec_updateBegin_of_other,
    fun hruns hstage hindex hinline hbulk hlen hcrc => ⟨exec_updateBlock_of_held hruns hstage hindex hinline hbulk hlen hcrc,
      exec_updateBlock_of_missing hruns hstage hindex hinline hbulk hlen hcrc⟩,
    fun hruns hstage => ?verify,
    exec_updateActivate,
    exec_updateConfirm,
    exec_updateAbort_of_download,
    exec_updateAbort_of_image,
    exec_updateParamsSet,
    fun _ _ hawake hpower => exec_stagingEraseDone_of_unwanted hawake hpower,
    fun _ good hawake hpower hready hwriting => exec_pageProgramDone_of_writing hawake hpower hready hwriting good,
    exec_healthWindowExpiry,
    exec_settleTimer_of_auto,
    exec_journalEraseDone⟩
  case verify =>
    cases hfound : verifyBad s1 (stagedPackage s1) with
    | none => exact exec_updateVerify_of_good hruns hstage hfound
    | some x => exact ⟨_, _, rfl, rfl, exec_updateVerify_of_bad hruns hstage hfound⟩

end Sys2Proof.Machine
end

section
/-! PROOFS. The commands of group 0x0F (R699 to R706). -/

namespace Sys2Proof.Machine

theorem clampField_val (off lo hi x : Nat) : (clampField off lo hi x).val = clampTo lo hi x := rfl

section
variable {s s1 : State} {r : Req} {p : List Byte}

/-! ### The pair (R699 to R702) -/

/-- What PAIR_STATUS_GET answers: what the partner last said of itself is zeros where there is none. -/
def pairStatusBytes (s : State) : List Byte :=
  le 1 s.pair.role ++ le 1 (pairState s.pair) ++ le 1 (lanes s) ++ le 1 ((s.pair.partner.map (·.rev)).getD 0) ++ le 4 s.pair.reasons ++
    le 8 ((s.pair.partner.map (·.serial)).getD 0) ++ le 4 ((s.pair.partner.map (·.ikiora)).getD 0) ++
    le 1 ((s.pair.partner.map (·.role)).getD 0) ++
    le 1 (b2n (bit s.pair.reasons 5) + 2 * b2n s.pair.apart + 4 * b2n s.pair.lastLate) ++
    le 2 ((s.pair.partner.map (·.copyFmt)).getD 0) ++ le 8 (ofInt 64 s.pair.diffNs) ++ le 4 s.pair.compared ++ le 4 s.pair.copyBytes ++
    le 8 s.pair.since

theorem pairStatusBytes_length (s : State) : (pairStatusBytes s).length = 48 := by simp [pairStatusBytes, le_length]

theorem exec_pairStatusGet (hruns : Runs s specPairStatusGet r p s1) :
    exec (.pairStatusGet r) s = .next (ends s specPairStatusGet r p s1 { st := s1, payload := pairStatusBytes s1 }) :=
  command_completes hruns rfl rfl

/-- The settings that a PAIR_SET payload gives that disables pairing and names no bus for the heartbeat. -/
def pairOffCfg (p : List Byte) : PairCfg := {
  enable := false, priority := u p 1 1, flags := u p 2 1 % 4, hbMiss := clampTo 1 8 (u p 3 1), hbCan := 0xFF, hbMvb := 0xFF
  hbMvbPort := u p 6 2, hbCanId := u p 8 4, resendUs := clampTo 10 1000 (u p 12 2) }

/-- The settings as the completion of PAIR_SET repeats them. -/
def pairCfgBytes (c : PairCfg) : List Byte :=
  le 1 (b2n c.enable) ++ le 1 c.priority ++ le 1 c.flags ++ le 1 c.hbMiss ++ le 1 c.hbCan ++ le 1 c.hbMvb ++ le 2 c.hbMvbPort ++
    le 4 c.hbCanId ++ le 2 c.resendUs ++ zeros 10

/-- The state with the settings of a PAIR_SET payload that disables pairing. -/
def pairOff (s : State) (p : List Byte) : State := s.modPair fun x => { x with cfg := { x.cfg with pair := pairOffCfg p } }

/-- PAIR_SET with ENABLE 0 stops pairing where it was enabled. -/
theorem exec_pairSet_of_disabled (hruns : Runs s specPairSet r p s1) (hdisabled : u p 0 1 = 0) (hcan : u p 4 1 = 0xFF) (hmvb : u p 5 1 = 0xFF)
    (hport : u p 6 2 ≤ 4095) (hcopy : copyOver (pairOff s1 p) s1.ep.cur.gw = false) :
    exec (.pairSet r) s = .next (ends s specPairSet r p s1 {
      payload := pairCfgBytes (pairOffCfg p), clamps := (clampField 3 1 8 (u p 3 1)).off ++ (clampField 12 10 1000 (u p 12 2)).off
      st := stampPair s1 (if s1.pairCfg.enable = false then pairOff s1 p else setPairing (pairOff s1 p) false) }) := by
  have hnoBus : isMvb 255 = false := by decide
  refine command_completes hruns ?_ rfl
  unfold specPairSet
  simp only [hdisabled, hcan, hmvb, clampField_val]
  rw [checked_pass (by simpa [chkSup, chkConf, chkPol, hport, hnoBus, pairOff, pairOffCfg] using hcopy)]
  rfl

/-- PAIR_SWITCH by the Primary takes effect at the next cycle, where the Companion reports no reason against it. -/
theorem exec_pairSwitch_of_primary {h : PairHello} (hruns : Runs s specPairSwitch r p s1) (hmagic : u p 0 4 = 0x96005A17)
    (hprimary : s1.pair.role = 1) (hlink : s1.pair.link = true) (hpartner : s1.pair.partner = some h) (hcompanion : h.role = 2)
    (hready : h.reasons = 0) :
    exec (.pairSwitch r) s = .next (ends s specPairSwitch r p s1 {
      st := sendPosted (s1.modPair fun x => { x with switching := some (wrapAdd 32 s1.gw.cycle 1) }) 2 (wrapAdd 32 s1.gw.cycle 1)
        (.switchOver (wrapAdd 32 s1.gw.cycle 1))
      payload := le 4 (wrapAdd 32 s1.gw.cycle 1) }) := by
  refine command_completes hruns ?_ rfl
  unfold specPairSwitch
  dsimp only
  rw [checked_pass (by simp [chkPol, chkConf, hmagic, hprimary, hlink, hpartner, hcompanion, hready])]

/-- PAIR_COUNTERS_GET of the pair link or of TTDP answers the counters, and clears them under FLAGS bit 0. -/
theorem exec_pairCountersGet_of_unindexed (hruns : Runs s specPairCountersGet r p s1) (htable : u p 0 1 ≤ 1) (hindex : u p 2 1 = 0) :
    exec (.pairCountersGet r) s = .next (ends s specPairCountersGet r p s1 {
      payload := le 1 (u p 0 1) ++ le 1 (u p 1 1) ++ le 1 0 ++ zeros 5 ++
        ((at' s1.pair.counters (u p 0 1) []).zip (pairWidths (u p 0 1))).flatMap fun x => le (x.2 / 8) x.1
      st := if bit (u p 1 1) 0 then
        s1.modPair (fun x => { x with counters := x.counters.modify (u p 0 1) fun c => c.map fun _ => 0 }) else s1 }) := by
  have hnotRing : u p 0 1 ≠ 2 := by omega
  refine command_completes hruns ?_ rfl
  unfold specPairCountersGet
  simp only [hindex, if_neg hnotRing]
  rw [checked_pass (by simp [chkSup]; omega)]

/-! ### TTDP (R703, R704) -/

/-- The settings that a TTDP_SET payload with ENABLE 0 gives. -/
def ttdpOffCfg (p : List Byte) : TtdpCfg := {
  enable := false, dir1 := u p 1 1, dir2 := u p 2 1, fastMs := clampTo 5 100 (u p 4 2), slowMs := clampTo 50 1000 (u p 6 2), uuid := sub p 8 16 }

/-- The settings as the completion of TTDP_SET repeats them. -/
def ttdpCfgBytes (c : TtdpCfg) : List Byte :=
  le 1 (b2n c.enable) ++ le 1 c.dir1 ++ le 1 c.dir2 ++ zeros 1 ++ le 2 c.fastMs ++ le 2 c.slowMs ++ c.uuid

/-- TTDP_SET with ENABLE 0 forgets the lines and keeps the topology counter. -/
theorem exec_ttdpSet_of_disabled (hruns : Runs s specTtdpSet r p s1) (hdisabled : u p 0 1 = 0) (hdir1 : u p 1 1 ≤ 15) (hdir2 : u p 2 1 ≤ 15)
    (hapart : setInter (u p 1 1) (u p 2 1) = 0) (hlines1 : (bitList 4 (u p 1 1)).length ≤ 2) (hlines2 : (bitList 4 (u p 2 1)).length ≤ 2) :
    exec (.ttdpSet r) s = .next (ends s specTtdpSet r p s1 {
      payload := ttdpCfgBytes (ttdpOffCfg p), clamps := (clampField 4 5 100 (u p 4 2)).off ++ (clampField 6 50 1000 (u p 6 2)).off
      st := zenithRecheck (s1.modPair fun x => { x with
        cfg := { x.cfg with ttdp := ttdpOffCfg p }, ttdp := { state := 0, since := s1.now, topo := x.ttdp.topo } }) }) := by
  refine command_completes hruns ?_ rfl
  unfold specTtdpSet
  simp only [hdisabled]
  rw [checked_pass (by simp [chkSup, chkConf, hdir1, hdir2, hapart, hlines1, hlines2])]
  rfl

theorem exec_ttdpStatusGet (hruns : Runs s specTtdpStatusGet r p s1) :
    exec (.ttdpStatusGet r) s = .next (ends s specTtdpStatusGet r p s1 { st := s1, payload :=
      (le 1 s1.pair.ttdp.state ++ le 1 s1.pair.ttdp.etbn ++ le 1 s1.pair.ttdp.count ++ le 1 s1.pair.ttdp.etb ++ le 4 s1.pair.ttdp.topo ++
        le 1 (at' s1.pair.ttdp.lines 0 0) ++ le 1 (at' s1.pair.ttdp.lines 1 0) ++ zeros 2 ++ le 4 s1.pair.ttdp.ipv4 ++
        le 8 s1.pair.ttdp.since) }) :=
  command_completes hruns rfl rfl

/-! ### MRP (R705, R706) -/

/-- MRP_SET with ENABLE 0 leaves the ring's settings and no state of it. -/
theorem exec_mrpSet_of_disabled (hruns : Runs s specMrpSet r p s1) (hring : u p 0 1 ≤ 1) (hdisabled : u p 1 1 = 0) (hrole : u p 2 1 ≤ 1)
    (hprofile : u p 3 1 ≤ 2) (hport1 : u p 4 1 ≤ 3) (hport2 : u p 5 1 ≤ 3) (hvid : u p 6 2 ≤ 4094) (hports : u p 4 1 ≠ u p 5 1) :
    exec (.mrpSet r) s = .next (ends s specMrpSet r p s1 { payload := padTo 24 p, st :=
      (zenithRecheck (s1.modPair fun y => { y with
        cfg := { y.cfg with mrp := y.cfg.mrp.set (u p 0 1) {
          enable := false, role := u p 2 1, profile := u p 3 1, port1 := u p 4 1, port2 := u p 5 1, vid := u p 6 2, uuid := sub p 8 16 } }
        mrp := y.mrp.set (u p 0 1) { state := 0, blocked2 := false, since := s1.now, lastTx := s1.now } })) }) := by
  refine command_completes hruns ?_ rfl
  unfold specMrpSet
  simp only [hdisabled]
  rw [checked_pass (by simp [chkSup, chkConf, hring, hrole, hprofile, hport1, hport2, hvid, hports])]
  rfl

/-- The state of a ring as MRP_STATUS_GET answers it: 0 where it is disabled. -/
def mrpStateCode (s : State) (ring : Nat) : Nat :=
  if !(mrpCfg s ring).enable then 0
  else if !portUp s (mrpCfg s ring).port1 ∨ !portUp s (mrpCfg s ring).port2 then 3 else (mrpRun s ring).state

theorem mrpStateCode_of_disabled {ring : Nat} (hdisabled : (mrpCfg s ring).enable = false) : mrpStateCode s ring = 0 :=
  if_pos (by simp [hdisabled])

/-- The state of a ring port as MRP_STATUS_GET answers it: down, blocked or forwarding. -/
def ringPortCode (s : State) (port : Nat) (blocked : Bool) : Nat := if !portUp s port then 2 else if blocked then 0 else 1

theorem exec_mrpStatusGet (hruns : Runs s specMrpStatusGet r p s1) (hring : u p 0 1 ≤ 1) :
    exec (.mrpStatusGet r) s = .next (ends s specMrpStatusGet r p s1 { st := s1, payload :=
      (le 1 (u p 0 1) ++ le 1 (mrpCfg s1 (u p 0 1)).role ++ le 1 (mrpStateCode s1 (u p 0 1)) ++
        le 1 (ringPortCode s1 (mrpCfg s1 (u p 0 1)).port1 (mrpRun s1 (u p 0 1)).blocked1) ++
        le 1 (ringPortCode s1 (mrpCfg s1 (u p 0 1)).port2 (mrpRun s1 (u p 0 1)).blocked2) ++ zeros 3 ++
        le 8 (mrpRun s1 (u p 0 1)).since) }) := by
  refine command_completes hruns ?_ rfl
  unfold specMrpStatusGet
  dsimp only
  rw [checked_pass (by simp [chkSup, hring])]
  rfl

end

/-- Settles O29: each command completes with what its body answers. -/
theorem pairCommandsComplete : Obligations.pairCommandsComplete := by
  unfold Obligations.pairCommandsComplete
  intro r s s1 p
  refine ⟨fun h hruns hpartner => ?partner,
    fun hruns _ => ⟨_, pairStatusBytes_length s1, exec_pairStatusGet hruns⟩,
    fun hruns hdisabled hcan hmvb hport => ⟨_, _, pairOffCfg p, pairOff s1 p, rfl, rfl,
      exec_pairSet_of_disabled hruns hdisabled hcan hmvb hport⟩,
    fun _ hruns hmagic hprimary hlink hpartner hcompanion hready => ⟨_, rfl,
      exec_pairSwitch_of_primary hruns hmagic hprimary hlink hpartner hcompanion hready⟩,
    exec_pairCountersGet_of_unindexed,
    fun hruns hdisabled hdir1 hdir2 hapart hlines1 hlines2 => ⟨_, _, ttdpOffCfg p, rfl,
      exec_ttdpSet_of_disabled hruns hdisabled hdir1 hdir2 hapart hlines1 hlines2⟩,
    exec_ttdpStatusGet,
    exec_mrpSet_of_disabled,
    fun hruns hring => ⟨_, _, _, exec_mrpStatusGet hruns hring, mrpStateCode_of_disabled⟩⟩
  case partner =>
    rw [exec_pairStatusGet hruns, pairStatusBytes, hpartner]
    rfl

end Sys2Proof.Machine
end

section
/-! PROOFS. The rows of the pair link, comparison, TTDP and MRP (R676 to R696). -/

namespace Sys2Proof.Machine

/-- A row of the pair whose effect is `t` settles the pair on it (R687). -/
theorem pairStep_of {s t : State} {f : State → State} (heffect : f s = t) : pairStep s f = .next (pairSettled s t) := by
  subst heffect
  rfl

section
variable {s : State}

/-! ### The link (R676 to R680) -/

/-- A block with a bad CRC is counted and answered by a negative acknowledgement. -/
theorem exec_pairBlockRx_of_bad_crc (henabled : s.pairCfg.enable = true) (hawake : awake s = true) (hup : portUp s 32 = true)
    (hsecured : p0Secured s = true) (b : PairBlock) (icv : Bool) (d : Option Int) :
    exec (.pairBlockRx b false icv d) s = .next (pairSettled s (sendOther (pairCount s 0 5 1))) := by
  change execPairBlockRx b false icv d s = _
  unfold execPairBlockRx
  rw [if_neg (by simp [henabled, hawake, hup, hsecured])]
  exact pairStep_of (if_pos (.inl rfl))

section
variable (hlink : s.pair.link = true)
include hlink

theorem not_pairLink : ¬ (!s.pair.link) = true := by simp [hlink]

theorem exec_pairResendTimer_of_unacked (hunacked : s.pair.unacked ≠ []) :
    exec .pairResendTimer s = .next (pairSettled s (resendBlocks (s.until (s.pair.ackAt + s.pairCfg.resendUs * 1000)))) :=
  if_neg (by simp [hlink, hunacked])

theorem exec_pairIdleTimer : exec .pairIdleTimer s = .next (pairSettled s (sendOther (s.until (s.pair.txAt + 20000)))) :=
  if_neg (not_pairLink hlink)

theorem exec_pairLinkTimeout : exec .pairLinkTimeout s = .next (pairSettled s (pairLost (s.until (s.pair.rxAt + 200000)) 0)) :=
  if_neg (not_pairLink hlink)

theorem exec_pairHelloTimer : exec .pairHelloTimer s = .next (pairSettled s (sendHello (s.until (s.pair.helloAt + secondNs)))) :=
  if_neg (not_pairLink hlink)

end

section
variable {l : Nat} (hlane : l ≤ 1) (hup : portUp s 32 = true)
include hlane hup

/-- A lane fails: without another the link is lost, else the blocks go out again on the other. -/
theorem exec_laneFailure_of_up (hlaneUp : at' s.pair.laneUp l true = true) :
    ∃ v : State, v = s.modPair (fun p => { p with laneUp := p.laneUp.set l false }) ∧
      exec (.laneFailure l) s = .next (pairSettled s (if lanes v = 0 then pairLost v 2 else resendBlocks (raisePairLink v 2 0))) :=
  ⟨_, rfl, if_neg (by simp [hlane, hup, hlaneUp])⟩

/-- A lane returns, which is reported once both are up. -/
theorem exec_laneRecovery_of_down (hlaneDown : at' s.pair.laneUp l true = false) :
    ∃ v : State, v = s.modPair (fun p => { p with laneUp := p.laneUp.set l true }) ∧
      exec (.laneRecovery l) s = .next (pairSettled s (if lanes v = 2 then raisePairLink v 3 0 else v)) :=
  ⟨_, rfl, if_neg (by simp [hlane, hup, hlaneDown])⟩

end

/-! ### Comparison and takeover (R681 to R687) -/

section
variable {c : PairCopy} (hcopy : s.pair.copy = some c) (hcompanion : s.pair.role = 2)
include hcopy hcompanion

/-- A complete copy whose list is the Companion's own, in time, is equal. -/
theorem exec_cycleCopyComplete_of_equal {own : GwSnap} (hformat : c.copyFmt = 1) (hdigest : c.digest = own.digest)
    (hcycle : s.gw.history.find? (fun x => x.cycle == c.cycle) = some own)
    (hintime : s.now ≤ own.mark + s.gw.grid.1 * 1000 + s.gw.grid.1 * 500) (hsame : firstDiff own.listed c.outs 0 = none) :
    exec .cycleCopyComplete s = .next (pairSettled s (copyEqual s c)) := by
  change execCycleCopyComplete s = _
  unfold execCycleCopyComplete
  rw [hcopy]
  dsimp only
  rw [if_neg (not_not_intro hcompanion)]
  apply pairStep_of
  rw [if_neg (not_not_intro hformat), hcycle]
  dsimp only
  rw [if_neg (not_not_intro hdigest), if_neg (Nat.not_lt.2 hintime), hsame]

/-- A copy of another format gives the reason against takeover. -/
theorem exec_cycleCopyComplete_of_other_format (hformat : c.copyFmt ≠ 1) :
    exec .cycleCopyComplete s = .next (pairSettled s (setReason (s.modPair fun p => { p with copy := none }) 3 true)) := by
  change execCycleCopyComplete s = _
  unfold execCycleCopyComplete
  rw [hcopy]
  dsimp only
  rw [if_neg (not_not_intro hcompanion)]
  exact pairStep_of (if_pos hformat)

end

theorem exec_copyDeadline_of_uncompared {own : GwSnap} {rest : List GwSnap} (hlink : s.pair.link = true) (hcompanion : s.pair.role = 2)
    (hon : gatewayOn s = true) (hcycle : s.gw.history = own :: rest) (hwaits : s.pair.compared ≠ own.cycle) (hundecided : s.pair.mismatch = none) :
    exec .copyDeadline s = .next (pairSettled s (copyLate (s.until (own.mark + s.gw.grid.1 * 1500)))) := by
  change execCopyDeadline s = _
  unfold execCopyDeadline
  rw [if_neg (by simp [hlink, hcompanion, hon]), hcycle, List.head?_cons]
  exact if_neg (by simp [hwaits, hundecided])

/-- The Primary's own re-execution agrees and its partner's differs: the mismatch is the Companion's (result 1). -/
theorem exec_reexecutionResult_of_companion (hlink : s.pair.link = true) (hprimary : s.pair.role = 1) (cyc : Nat) (x3 : Bool) :
    exec (.reexecutionResult cyc false true x3) s = .next (pairSettled s ((raiseMismatch (s.modPair fun p => { p with mismatch := none })
      (s.pair.mismatch.getD (cyc % 2 ^ 32, 0xFFFF, 0)) 1).modPair fun p => { p with copy := none })) := by
  change execReexecutionResult cyc false true x3 s = _
  unfold execReexecutionResult
  rw [if_neg (by simp [hlink, hprimary])]
  apply pairStep_of
  simp [hprimary]

theorem exec_heartbeatAbsent_of_missed (hwatch : s.pair.watch = true) (hcompanion : s.pair.role = 2) (hwatchable : watchable s = true)
    (hmissed : s.pairCfg.hbMiss ≤ s.pair.hbMissed) :
    exec .heartbeatAbsent s = .next (pairSettled s (s.modPair fun p => { p with takeover := some 1 })) :=
  if_neg (by simp [hwatch, hcompanion, hwatchable, hmissed])

/-! ### TTDP (R688 to R692) -/

section
variable (henabled : s.pair.cfg.ttdp.enable = true) (hawake : awake s = true)
include henabled hawake

/-- A topology frame inaugurates the train: the unit knows its place in it. -/
theorem exec_ttdpHelloRx_of_topology {port d l : Nat} (hplace : ttdpPlace s port = some (d, l)) (hup : portUp s port = true)
    (etbn n etb topo ip : Nat) :
    exec (.ttdpHelloRx port (.topology etbn n etb topo ip)) s = .next (zenithRecheck (raiseTtdp (pairCount (modTtdp s fun t => { t with
      state := 2, etbn := etbn % 256, count := n % 256, etb := etb % 256, topo := topo % 2 ^ 32, ipv4 := ip % 2 ^ 32, since := s.now }) 1 2 1) 0 d)) := by
  change execTtdpHelloRx port (.topology etbn n etb topo ip) s = _
  unfold execTtdpHelloRx
  rw [hplace]
  exact if_neg (by simp [henabled, hawake, hup])

theorem exec_ttdpHelloTimer : ∃ v : State, v = s.until (s.pair.ttdp.lastTx + helloPeriod s) ∧
    exec .ttdpHelloTimer s = .next (pairCount (modTtdp v fun t => { t with lastTx := v.now }) 1 0 ((ttdpPorts s).filter (portUp s)).length) :=
  ⟨_, rfl, if_neg (by simp [henabled, hawake])⟩

/-- A line from which nothing has come for three periods is dropped. -/
theorem exec_ttdpHelloTimeout_of_heard {port t d l : Nat} (hheard : tget s.pair.ttdp.heard port = some t)
    (hplace : ttdpPlace s port = some (d, l)) :
    ∃ v n, v = modTtdp (s.until (t + 3 * helloPeriod s)) (fun t => { t with heard := tdel t.heard port }) ∧
      n = withBit (at' v.pair.ttdp.lines d 0) l false ∧
      exec (.ttdpHelloTimeout port) s = .next (zenithRecheck (if n = at' v.pair.ttdp.lines d 0 then v else setLines v d n)) := by
  refine ⟨_, _, rfl, rfl, ?_⟩
  change execTtdpHelloTimeout port s = _
  unfold execTtdpHelloTimeout
  rw [hheard, hplace]
  exact if_neg (by simp [henabled, hawake])

end

/-! ### MRP (R693 to R696) -/

section
variable {r : Nat} (hring : r ≤ 1) (henabled : (mrpCfg s r).enable = true) (hawake : awake s = true)
include hring henabled hawake

/-- The manager's test frame came back: the ring is closed. -/
theorem exec_mrpTestTimer_of_back (hmanager : (mrpCfg s r).role = 1) :
    ∃ v : State, v = s.until ((mrpRun s r).lastTx + mrpTestNs (mrpCfg s r).profile) ∧
      exec (.mrpTestTimer r true) s = .next (ringCloses (pairCount (pairCount (modMrp v r fun x => { x with lastTx := v.now, missed := 0 }) (2 + r) 0 2)
        (2 + r) 1 1) r) :=
  ⟨_, rfl, if_neg (by simp [hring, henabled, hmanager, hawake])⟩

section
variable (hup : portUp s (mrpCfg s r).port1 = true)
include hup

/-- What a frame at a ring's first port that is up meets. -/
theorem mrpFrameRx_acts : ¬ (r > 1 ∨ (!(mrpCfg s r).enable) = true ∨ (!awake s) = true ∨
    ((mrpCfg s r).port1 ≠ (mrpCfg s r).port1 ∧ (mrpCfg s r).port1 ≠ (mrpCfg s r).port2) ∨ (!portUp s (mrpCfg s r).port1) = true) := by
  simp [hring, henabled, hawake, hup]

/-- A topology change flushes what the ring's ports have learnt. -/
theorem exec_mrpFrameRx_of_topologyChange : exec (.mrpFrameRx r (mrpCfg s r).port1 .topologyChange) s =
    .next (raiseMrp (flushRing (pairCount s (2 + r) 4 1) r) r 2 (mrpCfg s r).port1 0) :=
  if_neg (mrpFrameRx_acts hring henabled hawake hup)

/-- A link-down opens the manager's ring. -/
theorem exec_mrpFrameRx_of_linkDown (hmanager : (mrpCfg s r).role = 1) :
    exec (.mrpFrameRx r (mrpCfg s r).port1 .linkDown) s = .next (ringOpens s r (mrpCfg s r).port1) :=
  (if_neg (mrpFrameRx_acts hring henabled hawake hup)).trans (congrArg _ (if_pos hmanager))

end

end

end

/-- Settles O30: each row as its own lemma says. -/
theorem pairRowsComplete : Obligations.pairRowsComplete := by
  unfold Obligations.pairRowsComplete
  intro s
  exact ⟨fun b icv d henabled hawake hup hsecured => exec_pairBlockRx_of_bad_crc henabled hawake hup hsecured b icv d,
    exec_pairResendTimer_of_unacked,
    exec_pairIdleTimer,
    exec_pairLinkTimeout,
    exec_pairHelloTimer,
    fun _ => exec_laneFailure_of_up,
    fun _ => exec_laneRecovery_of_down,
    fun _ _ hcopy hcompanion => exec_cycleCopyComplete_of_equal hcopy hcompanion,
    fun _ => exec_cycleCopyComplete_of_other_format,
    fun _ _ => exec_copyDeadline_of_uncompared,
    fun cyc x3 hlink hprimary => exec_reexecutionResult_of_companion hlink hprimary cyc x3,
    exec_heartbeatAbsent_of_missed,
    fun _ _ _ hplace henabled hawake hup => exec_ttdpHelloRx_of_topology henabled hawake hplace hup,
    exec_ttdpHelloTimer,
    fun _ _ _ _ hheard hplace henabled hawake => exec_ttdpHelloTimeout_of_heard henabled hawake hheard hplace,
    fun _ hring henabled hmanager hawake => exec_mrpTestTimer_of_back hring henabled hawake hmanager,
    fun _ hring henabled hawake hup => ⟨exec_mrpFrameRx_of_topologyChange hring henabled hawake hup,
      exec_mrpFrameRx_of_linkDown hring henabled hawake hup⟩⟩

end Sys2Proof.Machine
end
